-- ==== Sys2Proof/Word.lean ====
section
/-! DEFINITION. The word types of the J716 and their plainest arithmetic (R4, R5, R6). Everything a test could show
wrong stands in files under Machine/, not here. -/

namespace Sys2Proof

/-- A register of control space: 64 bits (R5). -/
abbrev Word := BitVec 64

/-- One byte. -/
abbrev Byte := BitVec 8

/-- A BF16 bit pattern (R102, R107). -/
abbrev BF16 := BitVec 16

/-- An FP32 bit pattern (R137, R175). -/
abbrev F32 := BitVec 32

end Sys2Proof
end

