-- ==== Sys2Proof/Syntax.lean ====
section
/-! DEFINITION. The commands of the J716: one constructor of `Instr` per row of spec/opcode_table.json, and the operand
records they carry. The table gives no row any bits, so an operand record is what the rule of its row says the command
brings from outside: the fields of a message, a register write, or the physical outcome that a completion reports
(log 1). Times are in ns of the 1 GHz internal time count (R17; log 4). -/

namespace Sys2Proof

/-! ### Who accesses a register -/

/-- The requesters of R474. A control core's `code` is that of LP_LIMIT_STAT.CORE: 0 to 7 lamplighters, 8 the spare
lamplighter, 9 the supervisor (R347). -/
inductive Requester where
  | core (die code : Nat)
  | ep (id : Nat)
  | sideband
  | jtag
  | start
  deriving DecidableEq, Repr

/-- One register access: when, by whom, on which die (R470, R474). -/
structure Acc where
  t : Nat
  rq : Requester
  die : Nat
  deriving DecidableEq, Repr

/-! ### Messages -/

/-- The envelope of a whole GSP message that passed R278: arrival time, the port, source address and source UDP port of
its last segment, sender, context of the key (or the endpoint key), key generation and request ID (R269, R271); and what the
stored data it needs read as: `recBad`, the session record fails its CRC (R41); `areaFail` and `rowFail`, the byte offset of an
unreadable sector of the finishing area, result or tally entry, and of a grammar row (R215, R218). -/
structure Env where
  t : Nat
  port : Nat
  src : Nat
  srcUdp : Nat
  ep : Nat
  ctx : Nat
  ekey : Bool
  keyGen : Nat
  reqId : Nat
  recBad : Bool
  areaFail : Option Nat
  rowFail : Option Nat
  deriving DecidableEq, Repr

/-- SESSION_OPEN payload (R43). `zero` is the field of bytes 14 and 15. -/
structure OpenMsg where
  reqTag : Nat
  context : Nat
  initial : Nat
  die : Nat
  holder : Nat
  zero : Nat
  leaseSteps : Nat
  window : Nat
  seed : Nat
  deriving DecidableEq, Repr

/-- Payload of HANDOVER, LEASE_RENEW, PARK, WAKE and SESSION_CLOSE (R43). `zero` is byte 15. -/
structure SesMsg where
  handle : Nat
  epoch : Nat
  newOwner : Nat
  depth : Nat
  zero : Nat
  leaseSteps : Nat
  firstPos : Nat
  deriving DecidableEq, Repr

/-- KV_APPEND payload (R82). `form` is read only by the row that covers the reserved forms too (KV_APPEND_INLINE);
`zero15` and `zero36` are the reserved fields; `data` is DATA as bytes. -/
structure KvMsg where
  handle : Nat
  epoch : Nat
  form : Nat
  layerFirst : Nat
  layerCount : Nat
  zero15 : Nat
  firstPos : Nat
  count : Nat
  aux : Nat
  bytes : Nat
  zero36 : Nat
  data : List Byte
  deriving DecidableEq, Repr

/-- ATTEND payload (R124). -/
structure AttendMsg where
  handle : Nat
  epoch : Nat
  step : Nat
  layer : Nat
  aflags : Nat
  len : Nat
  qoff : Nat
  doff : Nat
  data : List Byte
  deriving DecidableEq, Repr

/-- RESULT_FETCH and RESULT_RELEASE payload (R156). -/
structure FetchMsg where
  handle : Nat
  epoch : Nat
  step : Nat
  layer : Nat
  zero : Nat
  deriving DecidableEq, Repr

/-- FINISH payload (R165). `form` is read only by the DRAW row, which covers the reserved forms too. -/
structure FinMsg where
  handle : Nat
  epoch : Nat
  opseq : Nat
  step : Nat
  form : Nat
  fflags : Nat
  topk : Nat
  minKeep : Nat
  temp : F32
  topp : F32
  minp : F32
  rep : F32
  freq : F32
  pres : F32
  grammar : Nat
  zero54 : Nat
  bytes : Nat
  zero60 : Nat
  ioff : Nat
  data : List Byte
  deriving DecidableEq, Repr

/-- SEARCH payload (R258). -/
structure SearchMsg where
  context : Nat
  index : Nat
  mode : Nat
  zero5 : Nat
  k : Nat
  nprobe : Nat
  beam : Nat
  prefetch : Nat
  zero13 : Nat
  maxVisit : Nat
  attrMask : BitVec 32
  attrMatch : BitVec 32
  bytes : Nat
  qtag : Nat
  query : List Byte
  deriving DecidableEq, Repr

/-- INSERT and DELETE payload (R258). -/
structure SideMsg where
  context : Nat
  index : Nat
  count : Nat
  zero6 : Nat
  bytes : Nat
  zero12 : Nat
  data : List Byte
  deriving DecidableEq, Repr

/-- TALLY_ADD and TALLY_READ payload (R321). `form` is FORM or QFLAGS, `amount` AMOUNT or EXPECT. -/
structure TallyMsg where
  tally : Nat
  form : Nat
  zero : Nat
  amount : Nat
  deriving DecidableEq, Repr

/-- CS_READ and CS_WRITE payload (R286); `values` is empty for a read. -/
structure CsMsg where
  addr : Nat
  count : Nat
  zero : Nat
  values : List Word
  deriving DecidableEq, Repr

/-- CHECKPOINT and RESTORE payload (R395). `op` is read only by the row that covers the reserved OPs (CHECKPOINT_TAKE). -/
structure CkptMsg where
  op : Nat
  zero : Nat
  ckptId : Nat
  deriving DecidableEq, Repr

/-! ### Frames -/

/-- A beacon pin word: the nine data characters, the CRC character, and whether every character decoded (R10). The command's time
is the arrival of the word's last bit. -/
structure PinWord where
  s : Nat
  l : Nat
  p : Nat
  flags : BitVec 8
  crc : BitVec 8
  codeOk : Bool
  deriving DecidableEq, Repr

/-- A beacon frame (R13): receive timestamp, port, source address, destination UDP port and payload. -/
structure BeaconFrame where
  port : Nat
  src : Nat
  udp : Nat
  size : Nat
  version : Nat
  flags : BitVec 8
  s : Nat
  l : Nat
  p : Nat
  originNs : Nat
  seq : Nat
  deriving DecidableEq, Repr

/-- A received GSP frame (R271): where it came from, the header fields, the payload segment, and whether its GCM tag
verifies under the key the header names (the arithmetic of AES-GCM is outside the model, log 9). -/
structure GspFrame where
  port : Nat
  src : Nat
  srcUdp : Nat
  size : Nat
  version : Nat
  type : Nat
  gflags : BitVec 8
  status : Nat
  ep : Nat
  node : Nat
  ctxField : Nat
  keyGen : Nat
  reason : Nat
  length : Nat
  seq : Nat
  reqId : Nat
  segIndex : Nat
  segCount : Nat
  msgLen : Nat
  start : Nat
  zero44 : Nat
  tagOk : Bool
  payload : List Byte
  deriving DecidableEq, Repr

/-- A sealed object in an ingest region (R283): its plaintext, and whether its tag verifies (log 9). -/
structure IngestObj where
  off : Nat
  length : Nat
  ep : Nat
  keyGen : Nat
  zero : Nat
  seq : Nat
  tagOk : Bool
  data : List Byte
  deriving DecidableEq, Repr

/-! ### Stored units and read outcomes -/

/-- A unit that moves between tiers (R199): a session's page, a shared page, or a parked staging and finishing area. -/
inductive UnitRef where
  | page (slot layer page : Nat)
  | shared (die id : Nat)
  | staging (slot : Nat)
  deriving DecidableEq, Repr

/-- How a read of stored bytes ended, as the medium reports it (R213, R218, R237, R207). -/
inductive ReadOutcome where
  | clean
  | corrected
  | reconstructed
  | failed (addr : Nat)
  | tileBad (tile cause : Nat)
  deriving DecidableEq, Repr

/-- How an attention unit ended on its engine (R144, R149, R206, R218): computed, computed after a T0 copy that could not be
corrected was dropped (of a page, or of the staging rows), a tile that failed its check, a walk that failed, a translation entry
that could not be read, an SRAM word that could not be corrected, or a page still below T1. -/
inductive UnitOutcome where
  | done
  | copyLost (page : Option Nat)
  | tileFail (page tile cause : Nat)
  | walkFail (entryAddr : Nat)
  | entryUnread (off : Nat)
  | ctxMismatch (entryAddr : Nat)
  | sramFail (addr : Nat)
  | needsPage (page : Nat)
  deriving DecidableEq, Repr

/-- A result's key (R153). -/
structure ResKey where
  epoch : Nat
  step : Nat
  layer : Nat
  deriving DecidableEq, Repr

/-! ### Firmware service objects -/

/-- One symbol's entry of a state row (R184). -/
structure GramEntry where
  action : Nat
  target : Nat
  deriving DecidableEq, Repr

/-- A state row (R184). -/
structure GramRow where
  cont : Nat
  accept : Bool
  entries : List GramEntry
  deriving DecidableEq, Repr

/-- The object of GRAMMAR_INSTALL (R344): a descriptor (R183) and its rows. `states` is STATES + 1. -/
structure GramObj where
  anyCtx : Bool
  ctx : Nat
  states : Nat
  start : Nat
  alpha : Nat
  wellFormed : Bool
  rows : List GramRow
  deriving DecidableEq, Repr

/-- A record or node of an index (R248): `norm` is FP32 bits, `nbrs` the graph neighbours. -/
structure IdxRec where
  item : Nat
  norm : F32
  attr : BitVec 32
  vec : List Byte
  nbrs : List Nat
  deriving DecidableEq, Repr

/-- The part of an index descriptor that does not change between generations (R246, R256). -/
structure IdxShape where
  graph : Bool
  group : Nat
  context : Nat
  format : Nat
  metric : Nat
  dim : Nat
  record : Nat
  degree : Nat
  sideCap : Nat
  deriving DecidableEq, Repr

/-- What one generation of an index holds (R246, R248): its records, its lists as (first, number) with their centroids,
or its entry node. -/
structure IdxGen where
  generation : Nat
  cutoff : Nat
  entry : Nat
  lists : List (Nat × Nat)
  centroids : List IdxRec
  recs : List IdxRec
  deriving DecidableEq, Repr

/-- A pending descriptor and what its pages hold (R256). `table` is its page table: a new page, or the number of the page
of the current generation that it names; `release` its release list. -/
structure PendingIdx where
  valid : Bool
  shape : IdxShape
  gen : IdxGen
  table : List (Option Nat)
  release : List Nat
  deriving DecidableEq, Repr

/-- Which part of a firmware service a command brings: the whole of it, its GO alone, or the end of the one that runs. -/
inductive SvcPhase where
  | whole | start | finish
  deriving DecidableEq, Repr

/-- A firmware service command (R343): context, tag, identifier, ingest offset, whether its reserved bytes are zero, and
whether its object passes its seal check. The end of a service that runs reads only the last. -/
structure SvcCmd where
  phase : SvcPhase
  context : Nat
  tag : Nat
  ioff : Nat
  id : Nat
  zeroOk : Bool
  sealOk : Bool
  deriving DecidableEq, Repr

/-! ### The configuration image (R350 to R358), as the sections that passed or failed its checks -/

/-- A port record (R356). -/
structure PortRec where
  port : Nat
  lanes : Nat
  type : Nat
  control : Bool
  beacon : Bool
  ptp : Bool
  mtu : Nat
  defPrio : Nat
  vlans : List Nat
  deriving DecidableEq, Repr

/-- A path of an endpoint (R269, R356). -/
structure PathRec where
  port : Nat
  family : Nat
  udp : Nat
  addr : Nat
  deriving DecidableEq, Repr

/-- An endpoint record (R356). -/
structure EpRec where
  id : Nat
  role : Nat
  cs : Bool
  paths : List PathRec
  subDevice : Bool
  subContexts : Bool
  deriving DecidableEq, Repr

/-- A context record (R357). `key` is the context key K_c of its KEYBLOB, `blobOk` whether the KEYBLOB
unwraps (R372). -/
structure CtxRec where
  id : Nat
  live : Bool
  priv : Bool
  tallyBase0 : Nat
  tallyCount0 : Nat
  tallyBase1 : Nat
  tallyCount1 : Nat
  ingest0 : Nat
  ingest1 : Nat
  eps : List Nat
  keyGen : Nat
  key : Nat
  blobOk : Bool
  deriving DecidableEq, Repr

/-- A TIERS record (R355). -/
structure TierRec where
  t1Pool : Nat
  t2Size : Nat
  t3Size : Nat
  sptEntries : Nat
  results : Nat
  gstoreMib : Nat
  errlog : Nat
  events : Nat
  beacon : Nat
  scrubJobs : Nat
  testUnits : Nat
  reasmKib : Nat
  deriving DecidableEq, Repr

/-- A REGISTERS entry (R358). -/
structure RegEntry where
  addr : Nat
  value : Word
  mask : Word
  deriving DecidableEq, Repr

/-- An operating point of the ENVELOPE section (R422). -/
structure EnvPoint where
  clkMhz : Nat
  vcoreMin : Nat
  vcoreMax : Nat
  vsramMin : Nat
  vsramMax : Nat
  powerW : Nat
  deriving DecidableEq, Repr

/-- The ENVELOPE section (R422). `formOk`: MAGIC, FORMAT and every reserved byte are right. -/
structure Envelope where
  formOk : Bool
  refreshMax : Nat
  ageLimitPpm : Nat
  eyeMinMv : Nat
  eyeMinMui : Nat
  dramMinPs : Nat
  tjWarnC : Nat
  points : List EnvPoint
  deriving DecidableEq, Repr

/-- GEOMETRY (R354). -/
structure Geometry where
  layers : Nat
  kvHeads : Nat
  qHeads : Nat
  headDim : Nat
  alpha : Nat
  deriving DecidableEq, Repr

/-- How the image's bytes fared in R353: no readable NOR, a failed header, section table or digest, a failed key digest
or signature, or good. -/
inductive ImageCheck where
  | good
  | noNor
  | headerBad
  | signatureBad (detail : Nat)
  | tableBad
  | digestBad (section_ : Nat)
  | sectionMissing (section_ : Nat)
  deriving DecidableEq, Repr

/-- The configuration image (R350 to R358). `sigRoot` is 0 when it is signed by the maker's keys, 1 by the owner's; `digest` is the
SHA-384 of its signed bytes. -/
structure Image where
  check : ImageCheck
  sigRoot : Nat
  autoNormal : Bool
  signedLen : Nat
  fwVersion : Nat
  svn : Nat
  buildId0 : Nat
  buildId1 : Nat
  geometry : Geometry
  tiers0 : TierRec
  tiers1 : TierRec
  ports : List PortRec
  beaconAllow : List Nat
  endpoints : List EpRec
  contexts : List CtxRec
  digest : Nat
  registers : List RegEntry
  envelope : Envelope
  grammars : List (Nat × GramObj)
  retire : List Word
  hasNand : Bool
  deriving DecidableEq, Repr

/-- What start finds (R360 steps 1, 5, 7, 8; R362): the ROM's self-check, whether the clocks run within R450, the Ethernet clocks that
are present, failed units by unit code (R406), per-port PHY
lanes that failed, and the channels of each die that trained. -/
structure StartTests where
  romOk : Bool
  clocksOk : Bool
  ethClks : List Nat
  failedDram : List (Nat × Nat × Nat)
  failedNand : List (Nat × Nat)
  failedCores : List (Nat × Nat × Nat)
  failedLamps : List (Nat × Nat)
  failedSup : List Nat
  failedLanes : List Nat
  elapsedMs : Nat
  deriving DecidableEq, Repr

/-! ### Debug and sideband -/

/-- The JTAG instructions R376 names; `maker` stands for Ibgar's own. -/
inductive JtagInstr where
  | idcode | bypass | sample | extest | maker (code : Nat)
  deriving DecidableEq, Repr

/-- The common command codes of R459. -/
inductive Ccc where
  | entdaa (addr : Nat) | setdasa (addr : Nat) | rstdaa | enec | disec | getpid | getbcr | getdcr | getstatus
  | getmrl | getmwl | other (code : Nat)
  deriving DecidableEq, Repr

/-- A reference clock (R450): CORE_REFCLK or ETH_REFCLK[q]. -/
inductive RefClk where
  | core | eth (q : Nat)
  deriving DecidableEq, Repr

/-- Why a control core stopped (R331, R337, R413): an exception, a refusal by a row of R331 (0: an unmapped address,
R473), or a hardware fault. -/
inductive CoreTrap where
  | exception | limit (row : Nat) | hardware
  deriving DecidableEq, Repr

/-- An IEEE 1588 message as the servo sees it (R268): the offset it measured and the master's port. -/
structure PtpMsg where
  port : Nat
  sync : Bool
  offset : Int
  deviceNs : Nat
  deriving DecidableEq, Repr

/-- A PROVISION package (R378): whether its tag verifies, and whether the fuse rows read back (R367). -/
structure ProvPkg where
  tagOk : Bool
  readBackOk : Bool
  deriving DecidableEq, Repr

/-- A RETURN package (R379): whether its keys match MAKER_DIG and its signatures verify, its SERIAL, the digest of the report it
names, and whether the fuse rows read back (R367). -/
structure ReturnPkg where
  keysOk : Bool
  sigsOk : Bool
  serial : Nat
  digest : Nat
  readBackOk : Bool
  deriving DecidableEq, Repr

/-- The commands: one constructor per row of spec/opcode_table.json, in the table's order. -/
inductive Instr where
  -- beacon (01)
  | beaconPinWord (t : Nat) (w : PinWord)
  | beaconEcho (t : Nat)
  | beaconFrame (t : Nat) (f : BeaconFrame)
  | backLimitReached (t : Nat)
  | pinLossTimeout (t : Nat)
  | beaconLossTimeout (t : Nat)
  | coastLimit (t : Nat)
  | bcnRebase (a : Acc) (v : Word)
  | bcnEnableWrite (a : Acc) (v : Word)
  | stepBoundaryBookkeeping (t : Nat)
  | leaseExpiry (t slot : Nat)
  | checkpointTick (t : Nat)
  | gateOpen (t port entry : Nat)
  | gateClose (t port entry : Nat)
  | promotionTrigger (t slot layer : Nat)
  | prefetchTrigger (t slot layer : Nat)
  | t0CopyRelease (t die : Nat)
  -- sessions (02)
  | sessionOpen (e : Env) (m : OpenMsg)
  | sessionClose (e : Env) (m : SesMsg)
  | handover (e : Env) (m : SesMsg)
  | leaseRenew (e : Env) (m : SesMsg)
  | park (e : Env) (m : SesMsg)
  | wake (e : Env) (m : SesMsg)
  | sesHeldNextRead (a : Acc)
  | ctxQuotaWrite (a : Acc) (tier : Nat) (v : Word)
  -- key-value pages (03)
  | kvAppendInline (e : Env) (m : KvMsg)
  | kvAppendRdma (e : Env) (m : KvMsg)
  | link (e : Env) (m : KvMsg)
  | truncate (e : Env) (m : KvMsg)
  | pin (e : Env) (m : KvMsg)
  | unpin (e : Env) (m : KvMsg)
  | stagingEvict (t slot : Nat)
  | ageingSweep (t die : Nat)
  | xlInval (a : Acc) (v : Word)
  | xlProbe (a : Acc) (v : Word)
  -- attention (05)
  | attend (e : Env) (m : AttendMsg)
  | resultFetch (e : Env) (m : FetchMsg)
  | resultRelease (e : Env) (m : FetchMsg)
  | attnUnitDone (t slot : Nat) (key : ResKey) (kvHead seg : Nat) (o : UnitOutcome)
  | fanoutWaitExpired (t die cluster : Nat)
  | autoRelease (t slot : Nat) (key : ResKey)
  | retentionEnd (t slot : Nat) (key : ResKey)
  -- finishing (06)
  | draw (e : Env) (m : FinMsg)
  | feed (e : Env) (m : FinMsg)
  | grammar (e : Env) (m : FinMsg)
  | finReset (e : Env) (m : FinMsg)
  -- tiers and memory (07)
  | demotionStart (t die : Nat)
  | demotionComplete (t die : Nat) (u : UnitRef)
  | promotionComplete (t die : Nat) (u : UnitRef) (o : ReadOutcome)
  | promotionResume (t die : Nat)
  | t3ReadTimeout (t die : Nat) (u : UnitRef)
  | patrolScrub (t die cluster channel stripe sector : Nat) (o : ReadOutcome)
  | coreT1Store (t die core addr : Nat) (cached : Bool) (data : List Byte)
  | mcDegradeWrite (a : Acc) (v : Word)
  | retireRow (a : Acc) (v : Word)
  | retireBank (a : Acc) (v : Word)
  | retireDone (t die : Nat)
  | testWriteData (a : Acc) (v : Word)
  | testWriteCheck (a : Acc) (v : Word)
  | testWrite (a : Acc) (v : Word)
  | testWriteParity (a : Acc) (v : Word)
  | testReadRaw (a : Acc) (v : Word)
  | testRead (a : Acc) (v : Word)
  -- flash and wicks (08)
  | stripeWaitExpired (t die group : Nat)
  | flashProgramDone (t die group : Nat) (ok : Bool)
  | wkDegradeWrite (a : Acc) (v : Word)
  | wkGc (a : Acc) (v : Word)
  | gcDone (t die group : Nat)
  | wkMerge (a : Acc) (v : Word) (p : PendingIdx)
  | imageRestoreDone (t slot : Nat) (o : ReadOutcome) (headerOk : Bool)
  | search (e : Env) (m : SearchMsg)
  | searchDone (t die qid : Nat) (o : ReadOutcome)
  | batchWaitExpired (t die group : Nat)
  | insert (e : Env) (m : SideMsg)
  | delete (e : Env) (m : SideMsg)
  -- transport (09)
  | gspFrameRx (t : Nat) (f : GspFrame)
  | reasmTimeout (t die ep ctx : Nat) (ekey : Bool) (keyGen reqId : Nat)
  | linkDown (t port : Nat)
  | linkUp (t port : Nat)
  | pfcRx (t port : Nat) (enable : BitVec 8) (pauseNs : List Nat)
  | pauseRx (t port : Nat)
  | pfcPauseExpired (t port prio : Nat)
  | ptpMessage (t : Nat) (m : PtpMsg)
  | cmReq (t port src ep qp mtu : Nat)
  | rdmaWriteRx (t port qp ctx : Nat) (ce : Bool) (kind : Nat) (obj : IngestObj)
  | rdmaAckRx (t die qp psn : Nat) (nak : Bool)
  | rdmaRetryTimeout (t die qp : Nat)
  | cnpRx (t die qp : Nat)
  | rateRise (t die qp : Nat)
  | csRead (e : Env) (m : CsMsg)
  | csWrite (e : Env) (m : CsMsg)
  | event (e : Env) (op zeros : Nat)
  -- chimney (10)
  | frameTxEnd (t port : Nat)
  | chShaperWrite (a : Acc) (n : Nat) (v : Word)
  | chGateSwap (a : Acc) (v : Word)
  -- tally (11)
  | tallyAdd (e : Env) (m : TallyMsg)
  | tallyAdvance (e : Env) (m : TallyMsg)
  | tallyRead (e : Env) (m : TallyMsg)
  | tlAdd (a : Acc) (v : Word)
  | tlAddAdvance (a : Acc) (v : Word)
  | tallyArm (a : Acc) (v : Word)
  | tlPairWrite (a : Acc) (v : Word)
  | tlFire (a : Acc) (v : Word)
  | tlSleep (a : Acc) (v : Word)
  | tlWokenRead (a : Acc) (n : Nat)
  -- lamplighters (12)
  | lpFill (a : Acc) (v : Word)
  | lpScrubNextRead (a : Acc)
  | lpScrubDone (a : Acc) (v : Word)
  | scrubCheckDone (t die job : Nat) (firstBad : Option Nat)
  | grammarInstall (a : Acc) (c : SvcCmd) (o : GramObj)
  | grammarRemove (a : Acc) (c : SvcCmd)
  | indexCreate (a : Acc) (c : SvcCmd) (sh : IdxShape)
  | indexLoad (a : Acc) (c : SvcCmd) (p : PendingIdx)
  | indexMerge (a : Acc) (c : SvcCmd) (p : PendingIdx)
  | indexRemove (a : Acc) (c : SvcCmd)
  | coreException (t die core : Nat) (k : CoreTrap)
  | teardownDrain (t ctx : Nat)
  | contextResumed (a : Acc) (v : Word)
  | reqStuck (t die : Nat)
  -- start (13)
  | powerOnStart (t : Nat) (img : Image) (hw : StartTests)
  | startStepTimeout (t step : Nat)
  | resetAssert (t : Nat)
  | pwrOkFall (t : Nat)
  | glbModeWrite (a : Acc) (v : Word)
  -- identity (14)
  | reportState (a : Acc) (v : Word)
  | reportScrub (a : Acc) (v : Word)
  | reportDone (t : Nat)
  | provision (a : Acc) (v : Word) (p : ProvPkg)
  | deploy (a : Acc) (v : Word) (readBackOk : Bool)
  | raiseSvn (a : Acc) (v : Word) (readBackOk : Bool)
  | scrubAll (a : Acc) (v : Word)
  | scrubAllDone (t : Nat) (pass : Bool) (t1Bytes sramBytes skipBytes : Nat)
  | lcReturn (a : Acc) (v : Word) (p : ReturnPkg)
  | scrap (a : Acc) (v : Word) (readBackOk : Bool)
  | advance (a : Acc) (v : Word)
  | retirePrev (a : Acc) (v : Word)
  | jtagInstruction (t die : Nat) (i : JtagInstr)
  -- checkpoint (15)
  | checkpointTake (e : Env) (m : CkptMsg)
  | checkpointDiscard (e : Env) (m : CkptMsg)
  | checkpointCut (t : Nat)
  | cbwSpaceFreed (t die units : Nat)
  | shardDone (t shard : Nat) (bodyLen : Nat) (readFail : Option Nat) (sent : Bool)
  | restore (e : Env) (m : CkptMsg)
  | restoreComplete (t : Nat) (fail : Option (Nat × Nat))
  -- faults (16)
  | coreKat (t die cluster core : Nat) (pass : Bool)
  | unitOverrun (t die cluster core : Nat)
  | coreFault (t die cluster core : Nat)
  | spareKatDone (t die cluster : Nat) (pass : Bool)
  | watchdogExpiry (t die core : Nat)
  | lampFault (t die core : Nat)
  | hlKick (a : Acc) (v : Word)
  | lockstepMismatch (t die : Nat)
  | supRestart (t die : Nat) (digestOk inTime : Bool)
  | hlRowSpare (a : Acc) (v : Word)
  | dramRetrain (t die cluster channel : Nat) (pass : Bool) (readPs writePs : Nat)
  | ageMeasure (t die pair driftPpm refCount : Nat)
  | hlPlan (a : Acc) (v : Word)
  | hlAlertAck (a : Acc) (v : Word)
  -- pins and power (18)
  | thermalSample (t die : Nat) (temps : List Int)
  | dramTempPoll (t die cluster channel : Nat) (hot : Bool) (rate : Nat)
  | refclkLoss (t : Nat) (c : RefClk)
  | refclkRestored (t : Nat) (c : RefClk)
  | bdVack (a : Acc) (v : Word)
  | vreqTimeout (t : Nat)
  | sidebandWrite (t size addr : Nat) (data : Word)
  | sidebandRead (t size addr : Nat)
  | sidebandCcc (t : Nat) (c : Ccc)
  -- replay (17)
  | recordArm (a : Acc) (v : Word)
  | recordStop (a : Acc) (v : Word)
  | replayArm (a : Acc) (v : Word)
  | replayInject (t : Nat)
  -- later rows of the table
  | registerWrite (a : Acc) (addr : Nat) (v : Word)
  | prefetchComplete (t die slot layer : Nat) (o : ReadOutcome)
  | segmentEraseDone (t die group seg : Nat) (ok : Bool)
  | shaperCreditRecovered (t port cls : Nat)
  | laneEyeMeasure (t lane heightMv widthMui : Nat)
  | eventLimitStepEnd (t : Nat)
  | d2dLinkFault (t : Nat) (laneFailed : Bool) (lane : Nat)
  | sidebandIbiAccept (t : Nat)
  deriving DecidableEq, Repr

end Sys2Proof
end

