-- ==== Sys2Proof/Config.lean ====
section
/-! DEFINITION. The fixed figures of the spec, and the free values: constants without a body, so that nothing can be
proved of what the spec leaves open (log 6, log 8, log 9). -/

namespace Sys2Proof.Config

/-- A free value, applied to the counter `State.free` (log 6): locations (R429), START (R275), the cut time (R385). -/
opaque freeNat : Nat → Nat

/-- The SEC-DED check word of a 64-byte sector (R209): the spec names the code's strength, not its matrix (log 8). -/
opaque secded : BitVec 512 → BitVec 16

/-- What an operation of the token finisher gives when its result lies outside FP32, by operation and operands: R175 rounds
to FP32 and states nothing for it (log 6). -/
opaque finishOverflow (op : Nat) : BitVec 32 → BitVec 32 → BitVec 32

/-- What WTOTAL shows of a sum that its 32 bits cannot hold (R171, R181; log 6). -/
opaque wtotalOver : Nat → Nat

/-- The COSINE distance when the product of the two norms rounds to zero although neither is zero (R249; log 6). -/
opaque cosineOpen : BitVec 32 → BitVec 32

/-- SHA-384 (FIPS 180-4) over bytes, as a number below 2^384 (R353, R370; log 9). -/
opaque sha384 : List Byte → Nat

/-- The device's serial number (R367; log 7). -/
opaque serial : Nat

/-- Ibgar's MIPI manufacturer ID (R459; log 7). -/
opaque mipiId : Nat

/-- The key digests fused by the maker (R352, R367; log 7). -/
opaque makerDigest : Nat → Nat

/-- The key digests that PROVISION burned into an owner slot (R367, R378; log 7). -/
opaque ownerDigest (slot i : Nat) : Nat

/-- Byte `i` of a public key that the SEAL window shows (R368, R381; log 7). -/
opaque publicKey (object i : Nat) : BitVec 8

/-- The first 8 bytes of KDF(K_c, "CKPT-KCV") for a context key (R388; log 9). -/
opaque keyCheck : Nat → Nat

/-- A signature over a message under the key named by `root` (R370; log 9). -/
opaque signature (root : Nat) : List Byte → List Byte

/-- Whether bytes pass a cryptographic check (R378, R379): the tag of a package, or its signatures (log 9). -/
opaque verifies (root : Nat) : List Byte → Bool

/-- Byte `i` of the GCM tag of a result object (R283; log 9). -/
opaque objectTag (ep ctx keyGen seq i : Nat) : BitVec 8

/-- The time-zero counts and the ring of a monitor pair fused at manufacture (R421; log 7). -/
opaque monitorFuse (die pair : Nat) : Nat

/-- Granules of T1 on one die (R359 rule 5). -/
def t1Granules : Nat := 6781250000

/-- Slots of one die (R35). -/
def slotsPerDie : Nat := 524288

/-- Sessions of the J716 (R35). -/
def slots : Nat := 1048576

/-- Largest number of distinct sessions per STEP (R128, R168). -/
def stepSessions : Nat := 8192

/-- Entries of one request tracker (R333). -/
def trackerEntries : Nat := 65536

/-- Subscribers of one context, or of the device (R287). -/
def maxSubscribers : Nat := 8

/-- Positions of a session (R90), dense or not. -/
def maxPositions (dense : Bool) : Nat := if dense then 65536 else 16777216

/-- Arithmetic clock of grade A in MHz (R1). The grade is the envelope's point 0 at most; the model is grade A (log 10). -/
def gradeClockMhz : Nat := 2000

/-- Module TDP of grade A in W (R1). -/
def gradeTdpW : Nat := 700

end Sys2Proof.Config
end

