-- ==== Sys2Proof/Machine/RegMap.lean ====
section
/-! DEFINITION. The control space map of spec/19 (R470 to R472) and every register table of spec/01 to spec/18:
the name of each register and field, its place, its access type (R7) and its reset value. A field whose Reset column
reads "image" takes 0 until start applies the image (R358); "random" and "fuse" fields are set at start. -/

namespace Sys2Proof.Machine

/-- A register's place: block number (R471) and byte offset within the block. -/
structure RegId where
  blk : Nat
  off : Nat
  deriving DecidableEq, Repr

/-- A field of a register: bits `hi` down to `lo`. -/
structure Field where
  reg : RegId
  hi : Nat
  lo : Nat
  deriving DecidableEq, Repr

/-- The access types of R7. -/
inductive Access where
  | ro | rw | w1c | wo | rc | rwl
  deriving DecidableEq, Repr

/-- Which selection register chooses what a register shows (R474): none, one copy per requester, or a selected item. -/
inductive SelKind where
  | plain | requester | ctx | cluster | index | ethPort | endpoint | chPort | chGate | grammar | tally | core
  | monitor | sensor | keygen | window | slot
  deriving DecidableEq, Repr

/-- One field of a row of the register table: high bit, low bit, access, reset value. -/
structure FieldRow where
  hi : Nat
  lo : Nat
  acc : Access
  reset : Nat
  deriving DecidableEq, Repr

/-- One register of the map: whether it exists on die 1, how it is selected, and its fields (reserved fields left out:
they read zero). -/
structure RegRow where
  id : RegId
  onDie1 : Bool
  sel : SelKind
  fields : List FieldRow
  deriving DecidableEq, Repr

/-! ### Register names -/
namespace Reg

/-- BCN_CTRL (R33). -/
abbrev BCN_CTRL : RegId := ⟨0x01, 0x000⟩
/-- BCN_STATUS (R33). -/
abbrev BCN_STATUS : RegId := ⟨0x01, 0x008⟩
/-- BCN_POS (R33). -/
abbrev BCN_POS : RegId := ⟨0x01, 0x010⟩
/-- BCN_LAST_POS (R33). -/
abbrev BCN_LAST_POS : RegId := ⟨0x01, 0x018⟩
/-- BCN_LAST_TIME (R33). -/
abbrev BCN_LAST_TIME : RegId := ⟨0x01, 0x020⟩
/-- BCN_PERIOD (R33). -/
abbrev BCN_PERIOD : RegId := ⟨0x01, 0x028⟩
/-- BCN_JITTER (R33). -/
abbrev BCN_JITTER : RegId := ⟨0x01, 0x030⟩
/-- BCN_LEAD (R33). -/
abbrev BCN_LEAD : RegId := ⟨0x01, 0x038⟩
/-- BCN_FETCH (R33). -/
abbrev BCN_FETCH : RegId := ⟨0x01, 0x040⟩
/-- BCN_INIT (R33). -/
abbrev BCN_INIT : RegId := ⟨0x01, 0x048⟩
/-- BCN_LIMITS (R33). -/
abbrev BCN_LIMITS : RegId := ⟨0x01, 0x050⟩
/-- BCN_TIMEOUT (R33). -/
abbrev BCN_TIMEOUT : RegId := ⟨0x01, 0x058⟩
/-- BCN_PIN_CFG (R33). -/
abbrev BCN_PIN_CFG : RegId := ⟨0x01, 0x060⟩
/-- BCN_FRAME_CFG (R33). -/
abbrev BCN_FRAME_CFG : RegId := ⟨0x01, 0x068⟩
/-- BCN_REBASE_POS (R33). -/
abbrev BCN_REBASE_POS : RegId := ⟨0x01, 0x070⟩
/-- BCN_COUNTS (R33). -/
abbrev BCN_COUNTS : RegId := ⟨0x01, 0x078⟩
/-- SES_CTRL (R64). -/
abbrev SES_CTRL : RegId := ⟨0x02, 0x000⟩
/-- SES_TABLE (R64). -/
abbrev SES_TABLE : RegId := ⟨0x02, 0x008⟩
/-- SES_LEASE (R64). -/
abbrev SES_LEASE : RegId := ⟨0x02, 0x010⟩
/-- SES_BOUNDARY (R64). -/
abbrev SES_BOUNDARY : RegId := ⟨0x02, 0x018⟩
/-- SES_COUNT0 (R64). -/
abbrev SES_COUNT0 : RegId := ⟨0x02, 0x020⟩
/-- SES_COUNT1 (R64). -/
abbrev SES_COUNT1 : RegId := ⟨0x02, 0x028⟩
/-- SES_HELD_NEXT (R64). -/
abbrev SES_HELD_NEXT : RegId := ⟨0x02, 0x030⟩
/-- SES_REC_SEL (R64). -/
abbrev SES_REC_SEL : RegId := ⟨0x02, 0x038⟩
/-- SES_REC0 (R64). -/
abbrev SES_REC0 : RegId := ⟨0x02, 0x040⟩
/-- SES_REC1 (R64). -/
abbrev SES_REC1 : RegId := ⟨0x02, 0x048⟩
/-- SES_REC2 (R64). -/
abbrev SES_REC2 : RegId := ⟨0x02, 0x050⟩
/-- SES_REC3 (R64). -/
abbrev SES_REC3 : RegId := ⟨0x02, 0x058⟩
/-- SES_REC4 (R64). -/
abbrev SES_REC4 : RegId := ⟨0x02, 0x060⟩
/-- SES_REC5 (R64). -/
abbrev SES_REC5 : RegId := ⟨0x02, 0x068⟩
/-- SES_REC6 (R64). -/
abbrev SES_REC6 : RegId := ⟨0x02, 0x070⟩
/-- SES_REC7 (R64). -/
abbrev SES_REC7 : RegId := ⟨0x02, 0x078⟩
/-- SES_REC8 (R64). -/
abbrev SES_REC8 : RegId := ⟨0x02, 0x080⟩
/-- SES_REC9 (R64). -/
abbrev SES_REC9 : RegId := ⟨0x02, 0x088⟩
/-- SES_REC10 (R64). -/
abbrev SES_REC10 : RegId := ⟨0x02, 0x090⟩
/-- SES_REC11 (R64). -/
abbrev SES_REC11 : RegId := ⟨0x02, 0x098⟩
/-- SES_REC12 (R64). -/
abbrev SES_REC12 : RegId := ⟨0x02, 0x0A0⟩
/-- SES_REC13 (R64). -/
abbrev SES_REC13 : RegId := ⟨0x02, 0x0A8⟩
/-- SES_REC14 (R64). -/
abbrev SES_REC14 : RegId := ⟨0x02, 0x0B0⟩
/-- SES_REC15 (R64). -/
abbrev SES_REC15 : RegId := ⟨0x02, 0x0B8⟩
/-- SES_OUTCOME0 (R64). -/
abbrev SES_OUTCOME0 : RegId := ⟨0x02, 0x0C0⟩
/-- SES_OUTCOME1 (R64). -/
abbrev SES_OUTCOME1 : RegId := ⟨0x02, 0x0C8⟩
/-- CTX_SEL (R64). -/
abbrev CTX_SEL : RegId := ⟨0x02, 0x100⟩
/-- CTX_STATE (R64). -/
abbrev CTX_STATE : RegId := ⟨0x02, 0x108⟩
/-- CTX_QUOTA_T0 (R64). -/
abbrev CTX_QUOTA_T0 : RegId := ⟨0x02, 0x110⟩
/-- CTX_QUOTA_T1 (R64). -/
abbrev CTX_QUOTA_T1 : RegId := ⟨0x02, 0x118⟩
/-- CTX_QUOTA_T2 (R64). -/
abbrev CTX_QUOTA_T2 : RegId := ⟨0x02, 0x120⟩
/-- CTX_QUOTA_T3 (R64). -/
abbrev CTX_QUOTA_T3 : RegId := ⟨0x02, 0x128⟩
/-- CTX_USE_T0 (R64). -/
abbrev CTX_USE_T0 : RegId := ⟨0x02, 0x130⟩
/-- CTX_USE_T1 (R64). -/
abbrev CTX_USE_T1 : RegId := ⟨0x02, 0x138⟩
/-- CTX_USE_T2 (R64). -/
abbrev CTX_USE_T2 : RegId := ⟨0x02, 0x140⟩
/-- CTX_USE_T3 (R64). -/
abbrev CTX_USE_T3 : RegId := ⟨0x02, 0x148⟩
/-- CTX_DEMOTED (R64). -/
abbrev CTX_DEMOTED : RegId := ⟨0x02, 0x150⟩
/-- XL_CTRL (R99). -/
abbrev XL_CTRL : RegId := ⟨0x03, 0x000⟩
/-- XL_ROOT (R99). -/
abbrev XL_ROOT : RegId := ⟨0x03, 0x008⟩
/-- XL_SPT (R99). -/
abbrev XL_SPT : RegId := ⟨0x03, 0x010⟩
/-- XL_SPT_USE (R99). -/
abbrev XL_SPT_USE : RegId := ⟨0x03, 0x018⟩
/-- XL_TLB_STAT (R99). -/
abbrev XL_TLB_STAT : RegId := ⟨0x03, 0x020⟩
/-- XL_INVAL (R99). -/
abbrev XL_INVAL : RegId := ⟨0x03, 0x028⟩
/-- XL_PROBE (R99). -/
abbrev XL_PROBE : RegId := ⟨0x03, 0x030⟩
/-- XL_PROBE_RESULT (R99). -/
abbrev XL_PROBE_RESULT : RegId := ⟨0x03, 0x038⟩
/-- XL_CTX_RETAIN (R99). -/
abbrev XL_CTX_RETAIN : RegId := ⟨0x03, 0x040⟩
/-- XL_COUNTS (R99). -/
abbrev XL_COUNTS : RegId := ⟨0x03, 0x048⟩
/-- PK_CTX_ENC (R123). -/
abbrev PK_CTX_ENC : RegId := ⟨0x03, 0x100⟩
/-- PK_CTRL (R123). -/
abbrev PK_CTRL : RegId := ⟨0x03, 0x108⟩
/-- PK_COUNTS (R123). -/
abbrev PK_COUNTS : RegId := ⟨0x03, 0x110⟩
/-- PK_CTX_CLAMP (R123). -/
abbrev PK_CTX_CLAMP : RegId := ⟨0x03, 0x118⟩
/-- PK_LAST_FAIL (R123). -/
abbrev PK_LAST_FAIL : RegId := ⟨0x03, 0x120⟩
/-- ATN_CTRL (R161). -/
abbrev ATN_CTRL : RegId := ⟨0x04, 0x000⟩
/-- ATN_STORE (R161). -/
abbrev ATN_STORE : RegId := ⟨0x04, 0x008⟩
/-- ATN_STORE_USE (R161). -/
abbrev ATN_STORE_USE : RegId := ⟨0x04, 0x010⟩
/-- ATN_FANOUT (R161). -/
abbrev ATN_FANOUT : RegId := ⟨0x04, 0x018⟩
/-- ATN_T0_BUDGET (R161). -/
abbrev ATN_T0_BUDGET : RegId := ⟨0x04, 0x020⟩
/-- ATN_COUNTS0 (R161). -/
abbrev ATN_COUNTS0 : RegId := ⟨0x04, 0x028⟩
/-- ATN_COUNTS1 (R161). -/
abbrev ATN_COUNTS1 : RegId := ⟨0x04, 0x030⟩
/-- ATN_FANOUT_JOINS (R161). -/
abbrev ATN_FANOUT_JOINS : RegId := ⟨0x04, 0x038⟩
/-- ATN_LAST_MISS_POS (R161). -/
abbrev ATN_LAST_MISS_POS : RegId := ⟨0x04, 0x040⟩
/-- ATN_LAST_MISS_SLOT (R161). -/
abbrev ATN_LAST_MISS_SLOT : RegId := ⟨0x04, 0x048⟩
/-- ATN_CTX_MODE (R161). -/
abbrev ATN_CTX_MODE : RegId := ⟨0x04, 0x100⟩
/-- ATN_CTX_SCALE (R161). -/
abbrev ATN_CTX_SCALE : RegId := ⟨0x04, 0x108⟩
/-- ATN_CTX_RES (R161). -/
abbrev ATN_CTX_RES : RegId := ⟨0x04, 0x110⟩
/-- FIN_CTRL (R196). -/
abbrev FIN_CTRL : RegId := ⟨0x05, 0x000⟩
/-- FIN_CTRL_FLUSH (R196). -/
abbrev FIN_CTRL_FLUSH : RegId := ⟨0x05, 0x008⟩
/-- FIN_GSTORE (R196). -/
abbrev FIN_GSTORE : RegId := ⟨0x05, 0x010⟩
/-- FIN_GRAM_SEL (R196). -/
abbrev FIN_GRAM_SEL : RegId := ⟨0x05, 0x018⟩
/-- FIN_GRAM_INFO (R196). -/
abbrev FIN_GRAM_INFO : RegId := ⟨0x05, 0x020⟩
/-- FIN_COUNTS0 (R196). -/
abbrev FIN_COUNTS0 : RegId := ⟨0x05, 0x028⟩
/-- FIN_COUNTS1 (R196). -/
abbrev FIN_COUNTS1 : RegId := ⟨0x05, 0x030⟩
/-- FIN_DRAWS (R196). -/
abbrev FIN_DRAWS : RegId := ⟨0x05, 0x038⟩
/-- FIN_CTX_PEN (R196). -/
abbrev FIN_CTX_PEN : RegId := ⟨0x05, 0x100⟩
/-- TR_CTRL (R224). -/
abbrev TR_CTRL : RegId := ⟨0x06, 0x000⟩
/-- TR_RATE (R224). -/
abbrev TR_RATE : RegId := ⟨0x06, 0x008⟩
/-- TR_WATER_T1 (R224). -/
abbrev TR_WATER_T1 : RegId := ⟨0x06, 0x010⟩
/-- TR_WATER_T2 (R224). -/
abbrev TR_WATER_T2 : RegId := ⟨0x06, 0x018⟩
/-- TR_SIZE_T1 (R224). -/
abbrev TR_SIZE_T1 : RegId := ⟨0x06, 0x020⟩
/-- TR_SIZE_T2 (R224). -/
abbrev TR_SIZE_T2 : RegId := ⟨0x06, 0x028⟩
/-- TR_SIZE_T3 (R224). -/
abbrev TR_SIZE_T3 : RegId := ⟨0x06, 0x030⟩
/-- TR_FREE_T1 (R224). -/
abbrev TR_FREE_T1 : RegId := ⟨0x06, 0x038⟩
/-- TR_FREE_T2 (R224). -/
abbrev TR_FREE_T2 : RegId := ⟨0x06, 0x040⟩
/-- TR_FREE_T3 (R224). -/
abbrev TR_FREE_T3 : RegId := ⟨0x06, 0x048⟩
/-- TR_COUNTS (R224). -/
abbrev TR_COUNTS : RegId := ⟨0x06, 0x050⟩
/-- TR_MOVED (R224). -/
abbrev TR_MOVED : RegId := ⟨0x06, 0x058⟩
/-- MC_SEL (R225). -/
abbrev MC_SEL : RegId := ⟨0x07, 0x000⟩
/-- MC_DEGRADE (R225). -/
abbrev MC_DEGRADE : RegId := ⟨0x07, 0x008⟩
/-- MC_SCRUB (R225). -/
abbrev MC_SCRUB : RegId := ⟨0x07, 0x010⟩
/-- MC_CE (R225). -/
abbrev MC_CE : RegId := ⟨0x07, 0x018⟩
/-- MC_COUNTS (R225). -/
abbrev MC_COUNTS : RegId := ⟨0x07, 0x020⟩
/-- MC_ERRLOG (R225). -/
abbrev MC_ERRLOG : RegId := ⟨0x07, 0x028⟩
/-- MC_ERRLOG_HEAD (R225). -/
abbrev MC_ERRLOG_HEAD : RegId := ⟨0x07, 0x030⟩
/-- MC_RETIRE (R225). -/
abbrev MC_RETIRE : RegId := ⟨0x07, 0x038⟩
/-- MC_RETIRE_STATUS (R225). -/
abbrev MC_RETIRE_STATUS : RegId := ⟨0x07, 0x040⟩
/-- MC_TEST_CTRL (R225). -/
abbrev MC_TEST_CTRL : RegId := ⟨0x07, 0x048⟩
/-- MC_TEST_ADDR (R225). -/
abbrev MC_TEST_ADDR : RegId := ⟨0x07, 0x050⟩
/-- MC_TEST_DATA0 (R225). -/
abbrev MC_TEST_DATA0 : RegId := ⟨0x07, 0x058⟩
/-- MC_TEST_DATA1 (R225). -/
abbrev MC_TEST_DATA1 : RegId := ⟨0x07, 0x060⟩
/-- MC_TEST_DATA2 (R225). -/
abbrev MC_TEST_DATA2 : RegId := ⟨0x07, 0x068⟩
/-- MC_TEST_DATA3 (R225). -/
abbrev MC_TEST_DATA3 : RegId := ⟨0x07, 0x070⟩
/-- MC_TEST_DATA4 (R225). -/
abbrev MC_TEST_DATA4 : RegId := ⟨0x07, 0x078⟩
/-- MC_TEST_DATA5 (R225). -/
abbrev MC_TEST_DATA5 : RegId := ⟨0x07, 0x080⟩
/-- MC_TEST_DATA6 (R225). -/
abbrev MC_TEST_DATA6 : RegId := ⟨0x07, 0x088⟩
/-- MC_TEST_DATA7 (R225). -/
abbrev MC_TEST_DATA7 : RegId := ⟨0x07, 0x090⟩
/-- MC_TEST_CHECK (R225). -/
abbrev MC_TEST_CHECK : RegId := ⟨0x07, 0x098⟩
/-- MC_TEST_REGION (R225). -/
abbrev MC_TEST_REGION : RegId := ⟨0x07, 0x0A0⟩
/-- WK_CTRL (R264). -/
abbrev WK_CTRL : RegId := ⟨0x08, 0x000⟩
/-- WK_GEOM (R264). -/
abbrev WK_GEOM : RegId := ⟨0x08, 0x008⟩
/-- WK_SEGTAB (R264). -/
abbrev WK_SEGTAB : RegId := ⟨0x08, 0x010⟩
/-- WK_IDXTAB (R264). -/
abbrev WK_IDXTAB : RegId := ⟨0x08, 0x018⟩
/-- WK_DEGRADE (R264). -/
abbrev WK_DEGRADE : RegId := ⟨0x08, 0x020⟩
/-- WK_SEG_FREE (R264). -/
abbrev WK_SEG_FREE : RegId := ⟨0x08, 0x028⟩
/-- WK_GC (R264). -/
abbrev WK_GC : RegId := ⟨0x08, 0x030⟩
/-- WK_GC_STATUS (R264). -/
abbrev WK_GC_STATUS : RegId := ⟨0x08, 0x038⟩
/-- WK_GC_RESERVE (R264). -/
abbrev WK_GC_RESERVE : RegId := ⟨0x08, 0x040⟩
/-- WK_BATCH (R264). -/
abbrev WK_BATCH : RegId := ⟨0x08, 0x048⟩
/-- WK_LDPC (R264). -/
abbrev WK_LDPC : RegId := ⟨0x08, 0x050⟩
/-- WK_COUNTS0 (R264). -/
abbrev WK_COUNTS0 : RegId := ⟨0x08, 0x058⟩
/-- WK_COUNTS1 (R264). -/
abbrev WK_COUNTS1 : RegId := ⟨0x08, 0x060⟩
/-- WK_IDX_SEL (R264). -/
abbrev WK_IDX_SEL : RegId := ⟨0x08, 0x100⟩
/-- WK_IDX_INFO (R264). -/
abbrev WK_IDX_INFO : RegId := ⟨0x08, 0x108⟩
/-- WK_IDX_MARK (R264). -/
abbrev WK_IDX_MARK : RegId := ⟨0x08, 0x110⟩
/-- WK_MERGE (R264). -/
abbrev WK_MERGE : RegId := ⟨0x08, 0x118⟩
/-- WK_MERGE_STATUS (R264). -/
abbrev WK_MERGE_STATUS : RegId := ⟨0x08, 0x120⟩
/-- ETH_PORT_SEL (R289). -/
abbrev ETH_PORT_SEL : RegId := ⟨0x09, 0x000⟩
/-- ETH_PORT_CFG (R289). -/
abbrev ETH_PORT_CFG : RegId := ⟨0x09, 0x008⟩
/-- ETH_PORT_STATUS (R289). -/
abbrev ETH_PORT_STATUS : RegId := ⟨0x09, 0x010⟩
/-- ETH_FEC (R289). -/
abbrev ETH_FEC : RegId := ⟨0x09, 0x018⟩
/-- ETH_PFC (R289). -/
abbrev ETH_PFC : RegId := ⟨0x09, 0x020⟩
/-- ETH_PTP (R289). -/
abbrev ETH_PTP : RegId := ⟨0x09, 0x028⟩
/-- ETH_PTP_OFFSET (R289). -/
abbrev ETH_PTP_OFFSET : RegId := ⟨0x09, 0x030⟩
/-- ETH_DROPS (R289). -/
abbrev ETH_DROPS : RegId := ⟨0x09, 0x038⟩
/-- GSP_CTRL (R290). -/
abbrev GSP_CTRL : RegId := ⟨0x0A, 0x000⟩
/-- GSP_LIMITS (R290). -/
abbrev GSP_LIMITS : RegId := ⟨0x0A, 0x008⟩
/-- GSP_DROPS (R290). -/
abbrev GSP_DROPS : RegId := ⟨0x0A, 0x010⟩
/-- GSP_BAD (R290). -/
abbrev GSP_BAD : RegId := ⟨0x0A, 0x018⟩
/-- GSP_LAST_BAD (R290). -/
abbrev GSP_LAST_BAD : RegId := ⟨0x0A, 0x020⟩
/-- GSP_RDMA_CFG (R290). -/
abbrev GSP_RDMA_CFG : RegId := ⟨0x0A, 0x028⟩
/-- GSP_RDMA_COUNTS (R290). -/
abbrev GSP_RDMA_COUNTS : RegId := ⟨0x0A, 0x030⟩
/-- GSP_EP_SEL (R290). -/
abbrev GSP_EP_SEL : RegId := ⟨0x0A, 0x100⟩
/-- GSP_EP_INFO (R290). -/
abbrev GSP_EP_INFO : RegId := ⟨0x0A, 0x108⟩
/-- CH_CTRL (R308). -/
abbrev CH_CTRL : RegId := ⟨0x0B, 0x000⟩
/-- CH_PORT_SEL (R308). -/
abbrev CH_PORT_SEL : RegId := ⟨0x0B, 0x008⟩
/-- CH_PORT_CFG (R308). -/
abbrev CH_PORT_CFG : RegId := ⟨0x0B, 0x010⟩
/-- CH_CLASS_MAP (R308). -/
abbrev CH_CLASS_MAP : RegId := ⟨0x0B, 0x018⟩
/-- CH_GATE_CTRL (R308). -/
abbrev CH_GATE_CTRL : RegId := ⟨0x0B, 0x020⟩
/-- CH_GATE_SEL (R308). -/
abbrev CH_GATE_SEL : RegId := ⟨0x0B, 0x028⟩
/-- CH_GATE_NEXT (R308). -/
abbrev CH_GATE_NEXT : RegId := ⟨0x0B, 0x030⟩
/-- CH_GATE_ACTIVE (R308). -/
abbrev CH_GATE_ACTIVE : RegId := ⟨0x0B, 0x038⟩
/-- CH_OPEN (R308). -/
abbrev CH_OPEN : RegId := ⟨0x0B, 0x040⟩
/-- CH_SHAPER0 (R308). -/
abbrev CH_SHAPER0 : RegId := ⟨0x0B, 0x048⟩
/-- CH_SHAPER1 (R308). -/
abbrev CH_SHAPER1 : RegId := ⟨0x0B, 0x050⟩
/-- CH_SHAPER2 (R308). -/
abbrev CH_SHAPER2 : RegId := ⟨0x0B, 0x058⟩
/-- CH_SHAPER3 (R308). -/
abbrev CH_SHAPER3 : RegId := ⟨0x0B, 0x060⟩
/-- CH_SHAPER4 (R308). -/
abbrev CH_SHAPER4 : RegId := ⟨0x0B, 0x068⟩
/-- CH_SHAPER5 (R308). -/
abbrev CH_SHAPER5 : RegId := ⟨0x0B, 0x070⟩
/-- CH_SHAPER6 (R308). -/
abbrev CH_SHAPER6 : RegId := ⟨0x0B, 0x078⟩
/-- CH_SHAPER7 (R308). -/
abbrev CH_SHAPER7 : RegId := ⟨0x0B, 0x080⟩
/-- CH_CREDIT0 (R308). -/
abbrev CH_CREDIT0 : RegId := ⟨0x0B, 0x088⟩
/-- CH_CREDIT1 (R308). -/
abbrev CH_CREDIT1 : RegId := ⟨0x0B, 0x090⟩
/-- CH_CREDIT2 (R308). -/
abbrev CH_CREDIT2 : RegId := ⟨0x0B, 0x098⟩
/-- CH_CREDIT3 (R308). -/
abbrev CH_CREDIT3 : RegId := ⟨0x0B, 0x0A0⟩
/-- CH_CREDIT4 (R308). -/
abbrev CH_CREDIT4 : RegId := ⟨0x0B, 0x0A8⟩
/-- CH_CREDIT5 (R308). -/
abbrev CH_CREDIT5 : RegId := ⟨0x0B, 0x0B0⟩
/-- CH_CREDIT6 (R308). -/
abbrev CH_CREDIT6 : RegId := ⟨0x0B, 0x0B8⟩
/-- CH_CREDIT7 (R308). -/
abbrev CH_CREDIT7 : RegId := ⟨0x0B, 0x0C0⟩
/-- CH_COUNTS (R308). -/
abbrev CH_COUNTS : RegId := ⟨0x0B, 0x0C8⟩
/-- CH_CTX_WEIGHT (R308). -/
abbrev CH_CTX_WEIGHT : RegId := ⟨0x0B, 0x100⟩
/-- TL_CTRL (R326). -/
abbrev TL_CTRL : RegId := ⟨0x0C, 0x000⟩
/-- TL_SEL (R326). -/
abbrev TL_SEL : RegId := ⟨0x0C, 0x008⟩
/-- TL_VALUE (R326). -/
abbrev TL_VALUE : RegId := ⟨0x0C, 0x010⟩
/-- TL_DESC (R326). -/
abbrev TL_DESC : RegId := ⟨0x0C, 0x018⟩
/-- TL_PAIR (R326). -/
abbrev TL_PAIR : RegId := ⟨0x0C, 0x020⟩
/-- TL_EXPECT (R326). -/
abbrev TL_EXPECT : RegId := ⟨0x0C, 0x028⟩
/-- TL_ADD (R326). -/
abbrev TL_ADD : RegId := ⟨0x0C, 0x030⟩
/-- TL_ADD_STATUS (R326). -/
abbrev TL_ADD_STATUS : RegId := ⟨0x0C, 0x038⟩
/-- TL_WOKEN0 (R326). -/
abbrev TL_WOKEN0 : RegId := ⟨0x0C, 0x040⟩
/-- TL_WOKEN1 (R326). -/
abbrev TL_WOKEN1 : RegId := ⟨0x0C, 0x048⟩
/-- TL_WOKEN2 (R326). -/
abbrev TL_WOKEN2 : RegId := ⟨0x0C, 0x050⟩
/-- TL_WOKEN3 (R326). -/
abbrev TL_WOKEN3 : RegId := ⟨0x0C, 0x058⟩
/-- TL_FIRE (R326). -/
abbrev TL_FIRE : RegId := ⟨0x0C, 0x060⟩
/-- TL_SLEEP (R326). -/
abbrev TL_SLEEP : RegId := ⟨0x0C, 0x068⟩
/-- TL_COUNTS (R326). -/
abbrev TL_COUNTS : RegId := ⟨0x0C, 0x070⟩
/-- TL_CTX_RANGE (R326). -/
abbrev TL_CTX_RANGE : RegId := ⟨0x0C, 0x100⟩
/-- LP_STATUS (R347). -/
abbrev LP_STATUS : RegId := ⟨0x0D, 0x000⟩
/-- LP_TRACK (R347). -/
abbrev LP_TRACK : RegId := ⟨0x0D, 0x008⟩
/-- LP_TRACK_OLDEST (R347). -/
abbrev LP_TRACK_OLDEST : RegId := ⟨0x0D, 0x010⟩
/-- LP_LIMIT_STAT (R347). -/
abbrev LP_LIMIT_STAT : RegId := ⟨0x0D, 0x018⟩
/-- LP_TASK (R347). -/
abbrev LP_TASK : RegId := ⟨0x0D, 0x020⟩
/-- LP_FILL (R347). -/
abbrev LP_FILL : RegId := ⟨0x0D, 0x028⟩
/-- LP_SCRUB_NEXT (R347). -/
abbrev LP_SCRUB_NEXT : RegId := ⟨0x0D, 0x030⟩
/-- LP_SCRUB_DONE (R347). -/
abbrev LP_SCRUB_DONE : RegId := ⟨0x0D, 0x038⟩
/-- LP_SCRUB_STATUS (R347). -/
abbrev LP_SCRUB_STATUS : RegId := ⟨0x0D, 0x040⟩
/-- LP_SCRUB (R347). -/
abbrev LP_SCRUB : RegId := ⟨0x0D, 0x048⟩
/-- LP_SCRUB_Q (R347). -/
abbrev LP_SCRUB_Q : RegId := ⟨0x0D, 0x050⟩
/-- LP_HOME_MAP (R347). -/
abbrev LP_HOME_MAP : RegId := ⟨0x0D, 0x058⟩
/-- LP_SVC_CMD0 (R347). -/
abbrev LP_SVC_CMD0 : RegId := ⟨0x0D, 0x060⟩
/-- LP_SVC_CMD1 (R347). -/
abbrev LP_SVC_CMD1 : RegId := ⟨0x0D, 0x068⟩
/-- LP_SVC_CMD2 (R347). -/
abbrev LP_SVC_CMD2 : RegId := ⟨0x0D, 0x070⟩
/-- LP_SVC_CMD3 (R347). -/
abbrev LP_SVC_CMD3 : RegId := ⟨0x0D, 0x078⟩
/-- LP_SVC_CMD4 (R347). -/
abbrev LP_SVC_CMD4 : RegId := ⟨0x0D, 0x080⟩
/-- LP_SVC_CMD5 (R347). -/
abbrev LP_SVC_CMD5 : RegId := ⟨0x0D, 0x088⟩
/-- LP_SVC_CMD6 (R347). -/
abbrev LP_SVC_CMD6 : RegId := ⟨0x0D, 0x090⟩
/-- LP_SVC_CMD7 (R347). -/
abbrev LP_SVC_CMD7 : RegId := ⟨0x0D, 0x098⟩
/-- LP_SVC_CTRL (R347). -/
abbrev LP_SVC_CTRL : RegId := ⟨0x0D, 0x0A0⟩
/-- LP_CTX_PLACE (R347). -/
abbrev LP_CTX_PLACE : RegId := ⟨0x0D, 0x100⟩
/-- LP_CTX_CTRL (R347). -/
abbrev LP_CTX_CTRL : RegId := ⟨0x0D, 0x108⟩
/-- GLB_START (R366). -/
abbrev GLB_START : RegId := ⟨0x00, 0x000⟩
/-- GLB_MODE (R366). -/
abbrev GLB_MODE : RegId := ⟨0x00, 0x008⟩
/-- GLB_IMAGE (R366). -/
abbrev GLB_IMAGE : RegId := ⟨0x00, 0x010⟩
/-- GLB_BUILD0 (R366). -/
abbrev GLB_BUILD0 : RegId := ⟨0x00, 0x018⟩
/-- GLB_BUILD1 (R366). -/
abbrev GLB_BUILD1 : RegId := ⟨0x00, 0x020⟩
/-- SEAL_LC (R381). -/
abbrev SEAL_LC : RegId := ⟨0x0E, 0x000⟩
/-- SEAL_WIN_SEL (R381). -/
abbrev SEAL_WIN_SEL : RegId := ⟨0x0E, 0x008⟩
/-- SEAL_WIN_DATA0 (R381). -/
abbrev SEAL_WIN_DATA0 : RegId := ⟨0x0E, 0x100⟩
/-- SEAL_WIN_DATA1 (R381). -/
abbrev SEAL_WIN_DATA1 : RegId := ⟨0x0E, 0x108⟩
/-- SEAL_WIN_DATA2 (R381). -/
abbrev SEAL_WIN_DATA2 : RegId := ⟨0x0E, 0x110⟩
/-- SEAL_WIN_DATA3 (R381). -/
abbrev SEAL_WIN_DATA3 : RegId := ⟨0x0E, 0x118⟩
/-- SEAL_WIN_DATA4 (R381). -/
abbrev SEAL_WIN_DATA4 : RegId := ⟨0x0E, 0x120⟩
/-- SEAL_WIN_DATA5 (R381). -/
abbrev SEAL_WIN_DATA5 : RegId := ⟨0x0E, 0x128⟩
/-- SEAL_WIN_DATA6 (R381). -/
abbrev SEAL_WIN_DATA6 : RegId := ⟨0x0E, 0x130⟩
/-- SEAL_WIN_DATA7 (R381). -/
abbrev SEAL_WIN_DATA7 : RegId := ⟨0x0E, 0x138⟩
/-- SEAL_WIN_DATA8 (R381). -/
abbrev SEAL_WIN_DATA8 : RegId := ⟨0x0E, 0x140⟩
/-- SEAL_WIN_DATA9 (R381). -/
abbrev SEAL_WIN_DATA9 : RegId := ⟨0x0E, 0x148⟩
/-- SEAL_WIN_DATA10 (R381). -/
abbrev SEAL_WIN_DATA10 : RegId := ⟨0x0E, 0x150⟩
/-- SEAL_WIN_DATA11 (R381). -/
abbrev SEAL_WIN_DATA11 : RegId := ⟨0x0E, 0x158⟩
/-- SEAL_WIN_DATA12 (R381). -/
abbrev SEAL_WIN_DATA12 : RegId := ⟨0x0E, 0x160⟩
/-- SEAL_WIN_DATA13 (R381). -/
abbrev SEAL_WIN_DATA13 : RegId := ⟨0x0E, 0x168⟩
/-- SEAL_WIN_DATA14 (R381). -/
abbrev SEAL_WIN_DATA14 : RegId := ⟨0x0E, 0x170⟩
/-- SEAL_WIN_DATA15 (R381). -/
abbrev SEAL_WIN_DATA15 : RegId := ⟨0x0E, 0x178⟩
/-- SEAL_WIN_DATA16 (R381). -/
abbrev SEAL_WIN_DATA16 : RegId := ⟨0x0E, 0x180⟩
/-- SEAL_WIN_DATA17 (R381). -/
abbrev SEAL_WIN_DATA17 : RegId := ⟨0x0E, 0x188⟩
/-- SEAL_WIN_DATA18 (R381). -/
abbrev SEAL_WIN_DATA18 : RegId := ⟨0x0E, 0x190⟩
/-- SEAL_WIN_DATA19 (R381). -/
abbrev SEAL_WIN_DATA19 : RegId := ⟨0x0E, 0x198⟩
/-- SEAL_WIN_DATA20 (R381). -/
abbrev SEAL_WIN_DATA20 : RegId := ⟨0x0E, 0x1A0⟩
/-- SEAL_WIN_DATA21 (R381). -/
abbrev SEAL_WIN_DATA21 : RegId := ⟨0x0E, 0x1A8⟩
/-- SEAL_WIN_DATA22 (R381). -/
abbrev SEAL_WIN_DATA22 : RegId := ⟨0x0E, 0x1B0⟩
/-- SEAL_WIN_DATA23 (R381). -/
abbrev SEAL_WIN_DATA23 : RegId := ⟨0x0E, 0x1B8⟩
/-- SEAL_WIN_DATA24 (R381). -/
abbrev SEAL_WIN_DATA24 : RegId := ⟨0x0E, 0x1C0⟩
/-- SEAL_WIN_DATA25 (R381). -/
abbrev SEAL_WIN_DATA25 : RegId := ⟨0x0E, 0x1C8⟩
/-- SEAL_WIN_DATA26 (R381). -/
abbrev SEAL_WIN_DATA26 : RegId := ⟨0x0E, 0x1D0⟩
/-- SEAL_WIN_DATA27 (R381). -/
abbrev SEAL_WIN_DATA27 : RegId := ⟨0x0E, 0x1D8⟩
/-- SEAL_WIN_DATA28 (R381). -/
abbrev SEAL_WIN_DATA28 : RegId := ⟨0x0E, 0x1E0⟩
/-- SEAL_WIN_DATA29 (R381). -/
abbrev SEAL_WIN_DATA29 : RegId := ⟨0x0E, 0x1E8⟩
/-- SEAL_WIN_DATA30 (R381). -/
abbrev SEAL_WIN_DATA30 : RegId := ⟨0x0E, 0x1F0⟩
/-- SEAL_WIN_DATA31 (R381). -/
abbrev SEAL_WIN_DATA31 : RegId := ⟨0x0E, 0x1F8⟩
/-- SEAL_WIN_DATA32 (R381). -/
abbrev SEAL_WIN_DATA32 : RegId := ⟨0x0E, 0x200⟩
/-- SEAL_WIN_DATA33 (R381). -/
abbrev SEAL_WIN_DATA33 : RegId := ⟨0x0E, 0x208⟩
/-- SEAL_WIN_DATA34 (R381). -/
abbrev SEAL_WIN_DATA34 : RegId := ⟨0x0E, 0x210⟩
/-- SEAL_WIN_DATA35 (R381). -/
abbrev SEAL_WIN_DATA35 : RegId := ⟨0x0E, 0x218⟩
/-- SEAL_WIN_DATA36 (R381). -/
abbrev SEAL_WIN_DATA36 : RegId := ⟨0x0E, 0x220⟩
/-- SEAL_WIN_DATA37 (R381). -/
abbrev SEAL_WIN_DATA37 : RegId := ⟨0x0E, 0x228⟩
/-- SEAL_WIN_DATA38 (R381). -/
abbrev SEAL_WIN_DATA38 : RegId := ⟨0x0E, 0x230⟩
/-- SEAL_WIN_DATA39 (R381). -/
abbrev SEAL_WIN_DATA39 : RegId := ⟨0x0E, 0x238⟩
/-- SEAL_WIN_DATA40 (R381). -/
abbrev SEAL_WIN_DATA40 : RegId := ⟨0x0E, 0x240⟩
/-- SEAL_WIN_DATA41 (R381). -/
abbrev SEAL_WIN_DATA41 : RegId := ⟨0x0E, 0x248⟩
/-- SEAL_WIN_DATA42 (R381). -/
abbrev SEAL_WIN_DATA42 : RegId := ⟨0x0E, 0x250⟩
/-- SEAL_WIN_DATA43 (R381). -/
abbrev SEAL_WIN_DATA43 : RegId := ⟨0x0E, 0x258⟩
/-- SEAL_WIN_DATA44 (R381). -/
abbrev SEAL_WIN_DATA44 : RegId := ⟨0x0E, 0x260⟩
/-- SEAL_WIN_DATA45 (R381). -/
abbrev SEAL_WIN_DATA45 : RegId := ⟨0x0E, 0x268⟩
/-- SEAL_WIN_DATA46 (R381). -/
abbrev SEAL_WIN_DATA46 : RegId := ⟨0x0E, 0x270⟩
/-- SEAL_WIN_DATA47 (R381). -/
abbrev SEAL_WIN_DATA47 : RegId := ⟨0x0E, 0x278⟩
/-- SEAL_WIN_DATA48 (R381). -/
abbrev SEAL_WIN_DATA48 : RegId := ⟨0x0E, 0x280⟩
/-- SEAL_WIN_DATA49 (R381). -/
abbrev SEAL_WIN_DATA49 : RegId := ⟨0x0E, 0x288⟩
/-- SEAL_WIN_DATA50 (R381). -/
abbrev SEAL_WIN_DATA50 : RegId := ⟨0x0E, 0x290⟩
/-- SEAL_WIN_DATA51 (R381). -/
abbrev SEAL_WIN_DATA51 : RegId := ⟨0x0E, 0x298⟩
/-- SEAL_WIN_DATA52 (R381). -/
abbrev SEAL_WIN_DATA52 : RegId := ⟨0x0E, 0x2A0⟩
/-- SEAL_WIN_DATA53 (R381). -/
abbrev SEAL_WIN_DATA53 : RegId := ⟨0x0E, 0x2A8⟩
/-- SEAL_WIN_DATA54 (R381). -/
abbrev SEAL_WIN_DATA54 : RegId := ⟨0x0E, 0x2B0⟩
/-- SEAL_WIN_DATA55 (R381). -/
abbrev SEAL_WIN_DATA55 : RegId := ⟨0x0E, 0x2B8⟩
/-- SEAL_WIN_DATA56 (R381). -/
abbrev SEAL_WIN_DATA56 : RegId := ⟨0x0E, 0x2C0⟩
/-- SEAL_WIN_DATA57 (R381). -/
abbrev SEAL_WIN_DATA57 : RegId := ⟨0x0E, 0x2C8⟩
/-- SEAL_WIN_DATA58 (R381). -/
abbrev SEAL_WIN_DATA58 : RegId := ⟨0x0E, 0x2D0⟩
/-- SEAL_WIN_DATA59 (R381). -/
abbrev SEAL_WIN_DATA59 : RegId := ⟨0x0E, 0x2D8⟩
/-- SEAL_WIN_DATA60 (R381). -/
abbrev SEAL_WIN_DATA60 : RegId := ⟨0x0E, 0x2E0⟩
/-- SEAL_WIN_DATA61 (R381). -/
abbrev SEAL_WIN_DATA61 : RegId := ⟨0x0E, 0x2E8⟩
/-- SEAL_WIN_DATA62 (R381). -/
abbrev SEAL_WIN_DATA62 : RegId := ⟨0x0E, 0x2F0⟩
/-- SEAL_WIN_DATA63 (R381). -/
abbrev SEAL_WIN_DATA63 : RegId := ⟨0x0E, 0x2F8⟩
/-- SEAL_RPT_NONCE0 (R381). -/
abbrev SEAL_RPT_NONCE0 : RegId := ⟨0x0E, 0x010⟩
/-- SEAL_RPT_NONCE1 (R381). -/
abbrev SEAL_RPT_NONCE1 : RegId := ⟨0x0E, 0x018⟩
/-- SEAL_RPT_NONCE2 (R381). -/
abbrev SEAL_RPT_NONCE2 : RegId := ⟨0x0E, 0x020⟩
/-- SEAL_RPT_NONCE3 (R381). -/
abbrev SEAL_RPT_NONCE3 : RegId := ⟨0x0E, 0x028⟩
/-- SEAL_RPT_CTRL (R381). -/
abbrev SEAL_RPT_CTRL : RegId := ⟨0x0E, 0x030⟩
/-- SEAL_LC_CMD (R381). -/
abbrev SEAL_LC_CMD : RegId := ⟨0x0E, 0x038⟩
/-- SEAL_KEYGEN_SEL (R381). -/
abbrev SEAL_KEYGEN_SEL : RegId := ⟨0x0E, 0x040⟩
/-- SEAL_KEYGEN (R381). -/
abbrev SEAL_KEYGEN : RegId := ⟨0x0E, 0x048⟩
/-- SEAL_COUNTS (R381). -/
abbrev SEAL_COUNTS : RegId := ⟨0x0E, 0x050⟩
/-- CK_CTRL (R402). -/
abbrev CK_CTRL : RegId := ⟨0x0F, 0x000⟩
/-- CK_AREA (R402). -/
abbrev CK_AREA : RegId := ⟨0x0F, 0x008⟩
/-- CK_SHARD (R402). -/
abbrev CK_SHARD : RegId := ⟨0x0F, 0x010⟩
/-- CK_RATE (R402). -/
abbrev CK_RATE : RegId := ⟨0x0F, 0x018⟩
/-- CK_CBW (R402). -/
abbrev CK_CBW : RegId := ⟨0x0F, 0x020⟩
/-- CK_CBW_USE (R402). -/
abbrev CK_CBW_USE : RegId := ⟨0x0F, 0x028⟩
/-- CK_STATUS (R402). -/
abbrev CK_STATUS : RegId := ⟨0x0F, 0x030⟩
/-- CK_LAST (R402). -/
abbrev CK_LAST : RegId := ⟨0x0F, 0x038⟩
/-- CK_LAST_MARK (R402). -/
abbrev CK_LAST_MARK : RegId := ⟨0x0F, 0x040⟩
/-- CK_RUN (R402). -/
abbrev CK_RUN : RegId := ⟨0x0F, 0x048⟩
/-- CK_FAIL (R402). -/
abbrev CK_FAIL : RegId := ⟨0x0F, 0x050⟩
/-- CK_COUNTS (R402). -/
abbrev CK_COUNTS : RegId := ⟨0x0F, 0x058⟩
/-- HL_CTRL (R426). -/
abbrev HL_CTRL : RegId := ⟨0x10, 0x000⟩
/-- HL_KICK (R426). -/
abbrev HL_KICK : RegId := ⟨0x10, 0x008⟩
/-- HL_EVT (R426). -/
abbrev HL_EVT : RegId := ⟨0x10, 0x010⟩
/-- HL_EVT_HEAD (R426). -/
abbrev HL_EVT_HEAD : RegId := ⟨0x10, 0x018⟩
/-- HL_ALERT (R426). -/
abbrev HL_ALERT : RegId := ⟨0x10, 0x020⟩
/-- HL_UNITMAP0 (R426). -/
abbrev HL_UNITMAP0 : RegId := ⟨0x10, 0x028⟩
/-- HL_UNITMAP1 (R426). -/
abbrev HL_UNITMAP1 : RegId := ⟨0x10, 0x030⟩
/-- HL_UNITMAP2 (R426). -/
abbrev HL_UNITMAP2 : RegId := ⟨0x10, 0x038⟩
/-- HL_UNITMAP3 (R426). -/
abbrev HL_UNITMAP3 : RegId := ⟨0x10, 0x040⟩
/-- HL_CORE_SEL (R426). -/
abbrev HL_CORE_SEL : RegId := ⟨0x10, 0x048⟩
/-- HL_CORE (R426). -/
abbrev HL_CORE : RegId := ⟨0x10, 0x050⟩
/-- HL_MON_SEL (R426). -/
abbrev HL_MON_SEL : RegId := ⟨0x10, 0x058⟩
/-- HL_MON (R426). -/
abbrev HL_MON : RegId := ⟨0x10, 0x060⟩
/-- HL_AGE_CFG (R426). -/
abbrev HL_AGE_CFG : RegId := ⟨0x10, 0x068⟩
/-- HL_ROW_SPARE (R426). -/
abbrev HL_ROW_SPARE : RegId := ⟨0x10, 0x070⟩
/-- HL_PLAN (R426). -/
abbrev HL_PLAN : RegId := ⟨0x10, 0x078⟩
/-- HL_PLAN_STATUS (R426). -/
abbrev HL_PLAN_STATUS : RegId := ⟨0x10, 0x080⟩
/-- HL_COUNTS (R426). -/
abbrev HL_COUNTS : RegId := ⟨0x10, 0x088⟩
/-- RP_CTRL (R444). -/
abbrev RP_CTRL : RegId := ⟨0x11, 0x000⟩
/-- RP_STATUS (R444). -/
abbrev RP_STATUS : RegId := ⟨0x11, 0x008⟩
/-- RP_AREA (R444). -/
abbrev RP_AREA : RegId := ⟨0x11, 0x010⟩
/-- RP_SIZE (R444). -/
abbrev RP_SIZE : RegId := ⟨0x11, 0x018⟩
/-- RP_REC (R444). -/
abbrev RP_REC : RegId := ⟨0x11, 0x020⟩
/-- RP_CKPT (R444). -/
abbrev RP_CKPT : RegId := ⟨0x11, 0x028⟩
/-- RP_DIVERGE (R444). -/
abbrev RP_DIVERGE : RegId := ⟨0x11, 0x030⟩
/-- RP_CHOICES0 (R444). -/
abbrev RP_CHOICES0 : RegId := ⟨0x11, 0x038⟩
/-- RP_CHOICES1 (R444). -/
abbrev RP_CHOICES1 : RegId := ⟨0x11, 0x040⟩
/-- RP_IMPOSED (R444). -/
abbrev RP_IMPOSED : RegId := ⟨0x11, 0x048⟩
/-- RP_BUF (R444). -/
abbrev RP_BUF : RegId := ⟨0x11, 0x050⟩
/-- BD_SB (R469). -/
abbrev BD_SB : RegId := ⟨0x12, 0x000⟩
/-- BD_VREQ (R469). -/
abbrev BD_VREQ : RegId := ⟨0x12, 0x008⟩
/-- BD_VACK (R469). -/
abbrev BD_VACK : RegId := ⟨0x12, 0x010⟩
/-- BD_TEMP_SEL (R469). -/
abbrev BD_TEMP_SEL : RegId := ⟨0x12, 0x018⟩
/-- BD_TEMP (R469). -/
abbrev BD_TEMP : RegId := ⟨0x12, 0x020⟩
/-- BD_THERM (R469). -/
abbrev BD_THERM : RegId := ⟨0x12, 0x028⟩
/-- BD_CLK (R469). -/
abbrev BD_CLK : RegId := ⟨0x12, 0x030⟩

end Reg

/-! ### Field names -/
namespace Fld

abbrev BCN_CTRL_REBASE : Field := ⟨Reg.BCN_CTRL, 2, 2⟩
abbrev BCN_CTRL_SRC_LOCK : Field := ⟨Reg.BCN_CTRL, 1, 1⟩
abbrev BCN_CTRL_ENABLE : Field := ⟨Reg.BCN_CTRL, 0, 0⟩
abbrev BCN_STATUS_HOLD : Field := ⟨Reg.BCN_STATUS, 7, 7⟩
abbrev BCN_STATUS_PTP_LOCK : Field := ⟨Reg.BCN_STATUS, 6, 6⟩
abbrev BCN_STATUS_FRAME_OK : Field := ⟨Reg.BCN_STATUS, 5, 5⟩
abbrev BCN_STATUS_PIN_OK : Field := ⟨Reg.BCN_STATUS, 4, 4⟩
abbrev BCN_STATUS_SRC_ACTIVE : Field := ⟨Reg.BCN_STATUS, 3, 3⟩
abbrev BCN_STATUS_STATE : Field := ⟨Reg.BCN_STATUS, 2, 0⟩
abbrev BCN_POS_S : Field := ⟨Reg.BCN_POS, 63, 16⟩
abbrev BCN_POS_L : Field := ⟨Reg.BCN_POS, 15, 8⟩
abbrev BCN_POS_P : Field := ⟨Reg.BCN_POS, 7, 0⟩
abbrev BCN_LAST_POS_S : Field := ⟨Reg.BCN_LAST_POS, 63, 16⟩
abbrev BCN_LAST_POS_L : Field := ⟨Reg.BCN_LAST_POS, 15, 8⟩
abbrev BCN_LAST_POS_P : Field := ⟨Reg.BCN_LAST_POS, 7, 0⟩
abbrev BCN_LAST_TIME_TIME_NS : Field := ⟨Reg.BCN_LAST_TIME, 63, 0⟩
abbrev BCN_PERIOD_MIN_NS : Field := ⟨Reg.BCN_PERIOD, 63, 32⟩
abbrev BCN_PERIOD_MEAN_NS : Field := ⟨Reg.BCN_PERIOD, 31, 0⟩
abbrev BCN_JITTER_MAX_DEV_NS : Field := ⟨Reg.BCN_JITTER, 31, 0⟩
abbrev BCN_LEAD_PROMO_K : Field := ⟨Reg.BCN_LEAD, 59, 56⟩
abbrev BCN_LEAD_PROMO_SP : Field := ⟨Reg.BCN_LEAD, 55, 44⟩
abbrev BCN_LEAD_K : Field := ⟨Reg.BCN_LEAD, 43, 40⟩
abbrev BCN_LEAD_LEAD_SP : Field := ⟨Reg.BCN_LEAD, 39, 28⟩
abbrev BCN_FETCH_PROMO_GUARD_US : Field := ⟨Reg.BCN_FETCH, 63, 48⟩
abbrev BCN_FETCH_PROMO_FETCH_US : Field := ⟨Reg.BCN_FETCH, 47, 32⟩
abbrev BCN_FETCH_PF_GUARD_US : Field := ⟨Reg.BCN_FETCH, 31, 16⟩
abbrev BCN_FETCH_PF_FETCH_US : Field := ⟨Reg.BCN_FETCH, 15, 0⟩
abbrev BCN_INIT_LEAD_MAX_SP : Field := ⟨Reg.BCN_INIT, 47, 36⟩
abbrev BCN_INIT_LEAD_MIN_SP : Field := ⟨Reg.BCN_INIT, 35, 24⟩
abbrev BCN_INIT_PROMO_INIT_SP : Field := ⟨Reg.BCN_INIT, 23, 12⟩
abbrev BCN_INIT_LEAD_INIT_SP : Field := ⟨Reg.BCN_INIT, 11, 0⟩
abbrev BCN_LIMITS_JITTER_MAX_NS : Field := ⟨Reg.BCN_LIMITS, 63, 40⟩
abbrev BCN_LIMITS_JUMP_TOL_SP : Field := ⟨Reg.BCN_LIMITS, 39, 28⟩
abbrev BCN_LIMITS_DISAGREE_SP : Field := ⟨Reg.BCN_LIMITS, 27, 20⟩
abbrev BCN_LIMITS_COAST_LAYERS : Field := ⟨Reg.BCN_LIMITS, 19, 12⟩
abbrev BCN_LIMITS_BACK_LIMIT : Field := ⟨Reg.BCN_LIMITS, 11, 4⟩
abbrev BCN_TIMEOUT_RETURN_LAYERS : Field := ⟨Reg.BCN_TIMEOUT, 39, 32⟩
abbrev BCN_TIMEOUT_LOSS_NS : Field := ⟨Reg.BCN_TIMEOUT, 31, 0⟩
abbrev BCN_PIN_CFG_DELAY_NS : Field := ⟨Reg.BCN_PIN_CFG, 31, 0⟩
abbrev BCN_FRAME_CFG_UDP_PORT : Field := ⟨Reg.BCN_FRAME_CFG, 63, 48⟩
abbrev BCN_FRAME_CFG_DELAY_NS : Field := ⟨Reg.BCN_FRAME_CFG, 31, 0⟩
abbrev BCN_REBASE_POS_POS : Field := ⟨Reg.BCN_REBASE_POS, 63, 0⟩
abbrev BCN_COUNTS_PF_LATE : Field := ⟨Reg.BCN_COUNTS, 63, 56⟩
abbrev BCN_COUNTS_DISAGREE : Field := ⟨Reg.BCN_COUNTS, 55, 48⟩
abbrev BCN_COUNTS_BACKWARD : Field := ⟨Reg.BCN_COUNTS, 47, 40⟩
abbrev BCN_COUNTS_JUMP_REJECT : Field := ⟨Reg.BCN_COUNTS, 39, 32⟩
abbrev BCN_COUNTS_FRAME_DROP : Field := ⟨Reg.BCN_COUNTS, 31, 16⟩
abbrev BCN_COUNTS_CRC_ERR : Field := ⟨Reg.BCN_COUNTS, 15, 0⟩
abbrev SES_CTRL_NODE_ID : Field := ⟨Reg.SES_CTRL, 63, 48⟩
abbrev SES_CTRL_OPEN_ENABLE : Field := ⟨Reg.SES_CTRL, 0, 0⟩
abbrev SES_TABLE_BASE : Field := ⟨Reg.SES_TABLE, 47, 7⟩
abbrev SES_LEASE_LEASE_MAX : Field := ⟨Reg.SES_LEASE, 63, 32⟩
abbrev SES_LEASE_LEASE_DEFAULT : Field := ⟨Reg.SES_LEASE, 31, 0⟩
abbrev SES_BOUNDARY_COUNT : Field := ⟨Reg.SES_BOUNDARY, 47, 0⟩
abbrev SES_COUNT0_OWNED : Field := ⟨Reg.SES_COUNT0, 59, 40⟩
abbrev SES_COUNT0_FILLING : Field := ⟨Reg.SES_COUNT0, 39, 20⟩
abbrev SES_COUNT0_FREE : Field := ⟨Reg.SES_COUNT0, 19, 0⟩
abbrev SES_COUNT1_HELD : Field := ⟨Reg.SES_COUNT1, 59, 40⟩
abbrev SES_COUNT1_DORMANT : Field := ⟨Reg.SES_COUNT1, 39, 20⟩
abbrev SES_COUNT1_PARKED : Field := ⟨Reg.SES_COUNT1, 19, 0⟩
abbrev SES_HELD_NEXT_VALID : Field := ⟨Reg.SES_HELD_NEXT, 63, 63⟩
abbrev SES_HELD_NEXT_SLOT : Field := ⟨Reg.SES_HELD_NEXT, 19, 0⟩
abbrev SES_REC_SEL_SLOT : Field := ⟨Reg.SES_REC_SEL, 19, 0⟩
abbrev SES_REC0_DATA : Field := ⟨Reg.SES_REC0, 63, 0⟩
abbrev SES_REC1_DATA : Field := ⟨Reg.SES_REC1, 63, 0⟩
abbrev SES_REC2_DATA : Field := ⟨Reg.SES_REC2, 63, 0⟩
abbrev SES_REC3_DATA : Field := ⟨Reg.SES_REC3, 63, 0⟩
abbrev SES_REC4_DATA : Field := ⟨Reg.SES_REC4, 63, 0⟩
abbrev SES_REC5_DATA : Field := ⟨Reg.SES_REC5, 63, 0⟩
abbrev SES_REC6_DATA : Field := ⟨Reg.SES_REC6, 63, 0⟩
abbrev SES_REC7_DATA : Field := ⟨Reg.SES_REC7, 63, 0⟩
abbrev SES_REC8_DATA : Field := ⟨Reg.SES_REC8, 63, 0⟩
abbrev SES_REC9_DATA : Field := ⟨Reg.SES_REC9, 63, 0⟩
abbrev SES_REC10_DATA : Field := ⟨Reg.SES_REC10, 63, 0⟩
abbrev SES_REC11_DATA : Field := ⟨Reg.SES_REC11, 63, 0⟩
abbrev SES_REC12_DATA : Field := ⟨Reg.SES_REC12, 63, 0⟩
abbrev SES_REC13_DATA : Field := ⟨Reg.SES_REC13, 63, 0⟩
abbrev SES_REC14_DATA : Field := ⟨Reg.SES_REC14, 63, 0⟩
abbrev SES_REC15_DATA : Field := ⟨Reg.SES_REC15, 63, 0⟩
abbrev SES_OUTCOME0_LEASE_EXPIRY : Field := ⟨Reg.SES_OUTCOME0, 63, 48⟩
abbrev SES_OUTCOME0_STALE_EPOCH : Field := ⟨Reg.SES_OUTCOME0, 47, 32⟩
abbrev SES_OUTCOME0_NOT_OWNER : Field := ⟨Reg.SES_OUTCOME0, 31, 16⟩
abbrev SES_OUTCOME0_ORPHAN_HELD : Field := ⟨Reg.SES_OUTCOME0, 15, 0⟩
abbrev SES_OUTCOME1_GEN_WRAP : Field := ⟨Reg.SES_OUTCOME1, 63, 48⟩
abbrev SES_OUTCOME1_REPLAY : Field := ⟨Reg.SES_OUTCOME1, 47, 32⟩
abbrev SES_OUTCOME1_OVER_QUOTA : Field := ⟨Reg.SES_OUTCOME1, 31, 16⟩
abbrev SES_OUTCOME1_NO_SESSION : Field := ⟨Reg.SES_OUTCOME1, 15, 0⟩
abbrev CTX_SEL_CTX : Field := ⟨Reg.CTX_SEL, 11, 0⟩
abbrev CTX_STATE_SESS_USE : Field := ⟨Reg.CTX_STATE, 63, 44⟩
abbrev CTX_STATE_SESS_MAX : Field := ⟨Reg.CTX_STATE, 43, 24⟩
abbrev CTX_STATE_LIVE : Field := ⟨Reg.CTX_STATE, 8, 8⟩
abbrev CTX_STATE_OVER_QUOTA : Field := ⟨Reg.CTX_STATE, 3, 0⟩
abbrev CTX_QUOTA_T0_QUOTA : Field := ⟨Reg.CTX_QUOTA_T0, 43, 0⟩
abbrev CTX_QUOTA_T1_QUOTA : Field := ⟨Reg.CTX_QUOTA_T1, 43, 0⟩
abbrev CTX_QUOTA_T2_QUOTA : Field := ⟨Reg.CTX_QUOTA_T2, 43, 0⟩
abbrev CTX_QUOTA_T3_QUOTA : Field := ⟨Reg.CTX_QUOTA_T3, 43, 0⟩
abbrev CTX_USE_T0_USE : Field := ⟨Reg.CTX_USE_T0, 43, 0⟩
abbrev CTX_USE_T1_USE : Field := ⟨Reg.CTX_USE_T1, 43, 0⟩
abbrev CTX_USE_T2_USE : Field := ⟨Reg.CTX_USE_T2, 43, 0⟩
abbrev CTX_USE_T3_USE : Field := ⟨Reg.CTX_USE_T3, 43, 0⟩
abbrev CTX_DEMOTED_GRANULES : Field := ⟨Reg.CTX_DEMOTED, 43, 0⟩
abbrev XL_CTRL_AGE_SHIFT : Field := ⟨Reg.XL_CTRL, 11, 8⟩
abbrev XL_CTRL_SWEEP_EN : Field := ⟨Reg.XL_CTRL, 0, 0⟩
abbrev XL_ROOT_LOC : Field := ⟨Reg.XL_ROOT, 39, 0⟩
abbrev XL_SPT_ENTRIES : Field := ⟨Reg.XL_SPT, 63, 40⟩
abbrev XL_SPT_BASE : Field := ⟨Reg.XL_SPT, 39, 0⟩
abbrev XL_SPT_USE_USED : Field := ⟨Reg.XL_SPT_USE, 23, 0⟩
abbrev XL_TLB_STAT_WALKS : Field := ⟨Reg.XL_TLB_STAT, 63, 32⟩
abbrev XL_TLB_STAT_SHOOTDOWNS : Field := ⟨Reg.XL_TLB_STAT, 31, 16⟩
abbrev XL_TLB_STAT_WALK_FAULT : Field := ⟨Reg.XL_TLB_STAT, 15, 0⟩
abbrev XL_INVAL_COUNT : Field := ⟨Reg.XL_INVAL, 63, 48⟩
abbrev XL_INVAL_VUN : Field := ⟨Reg.XL_INVAL, 47, 0⟩
abbrev XL_PROBE_VUN : Field := ⟨Reg.XL_PROBE, 47, 0⟩
abbrev XL_PROBE_RESULT_ENTRY : Field := ⟨Reg.XL_PROBE_RESULT, 63, 0⟩
abbrev XL_CTX_RETAIN_RETAIN : Field := ⟨Reg.XL_CTX_RETAIN, 12, 0⟩
abbrev XL_COUNTS_MERGE : Field := ⟨Reg.XL_COUNTS, 63, 48⟩
abbrev XL_COUNTS_RELEASE : Field := ⟨Reg.XL_COUNTS, 47, 32⟩
abbrev XL_COUNTS_TRUNCATE : Field := ⟨Reg.XL_COUNTS, 31, 16⟩
abbrev XL_COUNTS_SPT_FULL : Field := ⟨Reg.XL_COUNTS, 15, 0⟩
abbrev PK_CTX_ENC_VOUT_SHIFT : Field := ⟨Reg.PK_CTX_ENC, 23, 20⟩
abbrev PK_CTX_ENC_KOUT_SHIFT : Field := ⟨Reg.PK_CTX_ENC, 19, 16⟩
abbrev PK_CTX_ENC_VOUT_EN : Field := ⟨Reg.PK_CTX_ENC, 9, 9⟩
abbrev PK_CTX_ENC_KOUT_EN : Field := ⟨Reg.PK_CTX_ENC, 8, 8⟩
abbrev PK_CTX_ENC_VENC : Field := ⟨Reg.PK_CTX_ENC, 3, 2⟩
abbrev PK_CTX_ENC_KENC : Field := ⟨Reg.PK_CTX_ENC, 1, 0⟩
abbrev PK_CTRL_PROMO_VERIFY : Field := ⟨Reg.PK_CTRL, 0, 0⟩
abbrev PK_COUNTS_CLAMP_TILES : Field := ⟨Reg.PK_COUNTS, 63, 48⟩
abbrev PK_COUNTS_NONFINITE : Field := ⟨Reg.PK_COUNTS, 47, 32⟩
abbrev PK_COUNTS_CHECK_FAIL : Field := ⟨Reg.PK_COUNTS, 31, 16⟩
abbrev PK_COUNTS_ID_FAIL : Field := ⟨Reg.PK_COUNTS, 15, 0⟩
abbrev PK_CTX_CLAMP_ELEMENTS : Field := ⟨Reg.PK_CTX_CLAMP, 63, 32⟩
abbrev PK_CTX_CLAMP_TILES : Field := ⟨Reg.PK_CTX_CLAMP, 31, 0⟩
abbrev PK_LAST_FAIL_TIER : Field := ⟨Reg.PK_LAST_FAIL, 63, 62⟩
abbrev PK_LAST_FAIL_CAUSE : Field := ⟨Reg.PK_LAST_FAIL, 61, 60⟩
abbrev PK_LAST_FAIL_TILE : Field := ⟨Reg.PK_LAST_FAIL, 45, 40⟩
abbrev PK_LAST_FAIL_LOC : Field := ⟨Reg.PK_LAST_FAIL, 39, 0⟩
abbrev ATN_CTRL_FANOUT_EN : Field := ⟨Reg.ATN_CTRL, 1, 1⟩
abbrev ATN_CTRL_ENABLE : Field := ⟨Reg.ATN_CTRL, 0, 0⟩
abbrev ATN_STORE_ENTRIES : Field := ⟨Reg.ATN_STORE, 63, 40⟩
abbrev ATN_STORE_BASE : Field := ⟨Reg.ATN_STORE, 39, 0⟩
abbrev ATN_STORE_USE_USED : Field := ⟨Reg.ATN_STORE_USE, 23, 0⟩
abbrev ATN_FANOUT_WAIT_NS : Field := ⟨Reg.ATN_FANOUT, 63, 32⟩
abbrev ATN_FANOUT_MIN_REF : Field := ⟨Reg.ATN_FANOUT, 31, 16⟩
abbrev ATN_FANOUT_MAX_MEMBERS : Field := ⟨Reg.ATN_FANOUT, 6, 0⟩
abbrev ATN_T0_BUDGET_KIB : Field := ⟨Reg.ATN_T0_BUDGET, 31, 0⟩
abbrev ATN_COUNTS0_GATE_MISS : Field := ⟨Reg.ATN_COUNTS0, 63, 48⟩
abbrev ATN_COUNTS0_T0_SHORT : Field := ⟨Reg.ATN_COUNTS0, 47, 32⟩
abbrev ATN_COUNTS0_INTEGRITY : Field := ⟨Reg.ATN_COUNTS0, 31, 16⟩
abbrev ATN_COUNTS0_RELAXED : Field := ⟨Reg.ATN_COUNTS0, 15, 0⟩
abbrev ATN_COUNTS1_NOT_READY : Field := ⟨Reg.ATN_COUNTS1, 63, 48⟩
abbrev ATN_COUNTS1_REPLAY : Field := ⟨Reg.ATN_COUNTS1, 47, 32⟩
abbrev ATN_COUNTS1_GROUPS : Field := ⟨Reg.ATN_COUNTS1, 31, 16⟩
abbrev ATN_COUNTS1_STORE_FULL : Field := ⟨Reg.ATN_COUNTS1, 15, 0⟩
abbrev ATN_FANOUT_JOINS_JOINS : Field := ⟨Reg.ATN_FANOUT_JOINS, 63, 0⟩
abbrev ATN_LAST_MISS_POS_POS : Field := ⟨Reg.ATN_LAST_MISS_POS, 63, 0⟩
abbrev ATN_LAST_MISS_SLOT_SLOT : Field := ⟨Reg.ATN_LAST_MISS_SLOT, 19, 0⟩
abbrev ATN_CTX_MODE_HOT_PAGES : Field := ⟨Reg.ATN_CTX_MODE, 31, 24⟩
abbrev ATN_CTX_MODE_AUTO_RELEASE : Field := ⟨Reg.ATN_CTX_MODE, 23, 16⟩
abbrev ATN_CTX_MODE_RELAXED : Field := ⟨Reg.ATN_CTX_MODE, 4, 4⟩
abbrev ATN_CTX_MODE_PFORM : Field := ⟨Reg.ATN_CTX_MODE, 3, 2⟩
abbrev ATN_CTX_MODE_QFORM : Field := ⟨Reg.ATN_CTX_MODE, 1, 0⟩
abbrev ATN_CTX_SCALE_SCALE : Field := ⟨Reg.ATN_CTX_SCALE, 31, 0⟩
abbrev ATN_CTX_RES_USE : Field := ⟨Reg.ATN_CTX_RES, 47, 24⟩
abbrev ATN_CTX_RES_MAX : Field := ⟨Reg.ATN_CTX_RES, 23, 0⟩
abbrev FIN_CTRL_ALPHA : Field := ⟨Reg.FIN_CTRL, 24, 16⟩
abbrev FIN_CTRL_ENABLE : Field := ⟨Reg.FIN_CTRL, 0, 0⟩
abbrev FIN_CTRL_FLUSH_MASK : Field := ⟨Reg.FIN_CTRL_FLUSH, 63, 0⟩
abbrev FIN_GSTORE_SIZE_MIB : Field := ⟨Reg.FIN_GSTORE, 63, 40⟩
abbrev FIN_GSTORE_BASE : Field := ⟨Reg.FIN_GSTORE, 39, 0⟩
abbrev FIN_GRAM_SEL_ID : Field := ⟨Reg.FIN_GRAM_SEL, 11, 0⟩
abbrev FIN_GRAM_INFO_VALID : Field := ⟨Reg.FIN_GRAM_INFO, 63, 63⟩
abbrev FIN_GRAM_INFO_STATES : Field := ⟨Reg.FIN_GRAM_INFO, 48, 32⟩
abbrev FIN_GRAM_INFO_REFS : Field := ⟨Reg.FIN_GRAM_INFO, 19, 0⟩
abbrev FIN_COUNTS0_DEAD_END : Field := ⟨Reg.FIN_COUNTS0, 63, 48⟩
abbrev FIN_COUNTS0_PARTIAL : Field := ⟨Reg.FIN_COUNTS0, 47, 32⟩
abbrev FIN_COUNTS0_LIMIT : Field := ⟨Reg.FIN_COUNTS0, 31, 16⟩
abbrev FIN_COUNTS0_NONFINITE : Field := ⟨Reg.FIN_COUNTS0, 15, 0⟩
abbrev FIN_COUNTS1_REPLAY : Field := ⟨Reg.FIN_COUNTS1, 63, 48⟩
abbrev FIN_COUNTS1_ORDER : Field := ⟨Reg.FIN_COUNTS1, 47, 32⟩
abbrev FIN_COUNTS1_SAT : Field := ⟨Reg.FIN_COUNTS1, 31, 16⟩
abbrev FIN_COUNTS1_BUSY : Field := ⟨Reg.FIN_COUNTS1, 15, 0⟩
abbrev FIN_DRAWS_DRAWS : Field := ⟨Reg.FIN_DRAWS, 63, 0⟩
abbrev FIN_CTX_PEN_WINDOW : Field := ⟨Reg.FIN_CTX_PEN, 14, 0⟩
abbrev TR_CTRL_T3_TIMEOUT_US : Field := ⟨Reg.TR_CTRL, 63, 32⟩
abbrev TR_CTRL_MIN_AGE : Field := ⟨Reg.TR_CTRL, 25, 16⟩
abbrev TR_CTRL_EVICT_EN : Field := ⟨Reg.TR_CTRL, 0, 0⟩
abbrev TR_RATE_DEMOTE_MBPS : Field := ⟨Reg.TR_RATE, 31, 0⟩
abbrev TR_WATER_T1_HIGH_MIB : Field := ⟨Reg.TR_WATER_T1, 63, 32⟩
abbrev TR_WATER_T1_LOW_MIB : Field := ⟨Reg.TR_WATER_T1, 31, 0⟩
abbrev TR_WATER_T2_HIGH_MIB : Field := ⟨Reg.TR_WATER_T2, 63, 32⟩
abbrev TR_WATER_T2_LOW_MIB : Field := ⟨Reg.TR_WATER_T2, 31, 0⟩
abbrev TR_SIZE_T1_SIZE : Field := ⟨Reg.TR_SIZE_T1, 43, 0⟩
abbrev TR_SIZE_T2_SIZE : Field := ⟨Reg.TR_SIZE_T2, 43, 0⟩
abbrev TR_SIZE_T3_SIZE : Field := ⟨Reg.TR_SIZE_T3, 43, 0⟩
abbrev TR_FREE_T1_FREE : Field := ⟨Reg.TR_FREE_T1, 43, 0⟩
abbrev TR_FREE_T2_FREE : Field := ⟨Reg.TR_FREE_T2, 43, 0⟩
abbrev TR_FREE_T3_FREE : Field := ⟨Reg.TR_FREE_T3, 43, 0⟩
abbrev TR_COUNTS_PROMO_LATE : Field := ⟨Reg.TR_COUNTS, 63, 48⟩
abbrev TR_COUNTS_STALLED : Field := ⟨Reg.TR_COUNTS, 47, 32⟩
abbrev TR_COUNTS_LOWER_FAIL : Field := ⟨Reg.TR_COUNTS, 31, 16⟩
abbrev TR_COUNTS_T0_UE : Field := ⟨Reg.TR_COUNTS, 15, 0⟩
abbrev TR_MOVED_PROMOTED_MIB : Field := ⟨Reg.TR_MOVED, 63, 32⟩
abbrev TR_MOVED_DEMOTED_MIB : Field := ⟨Reg.TR_MOVED, 31, 0⟩
abbrev MC_SEL_CLUSTER : Field := ⟨Reg.MC_SEL, 2, 0⟩
abbrev MC_DEGRADE_TRAINED : Field := ⟨Reg.MC_DEGRADE, 15, 8⟩
abbrev MC_DEGRADE_DEGRADED : Field := ⟨Reg.MC_DEGRADE, 7, 0⟩
abbrev MC_SCRUB_ENABLE : Field := ⟨Reg.MC_SCRUB, 32, 32⟩
abbrev MC_SCRUB_PERIOD_S : Field := ⟨Reg.MC_SCRUB, 31, 0⟩
abbrev MC_CE_WARN : Field := ⟨Reg.MC_CE, 63, 48⟩
abbrev MC_CE_WINDOW_MS : Field := ⟨Reg.MC_CE, 47, 32⟩
abbrev MC_CE_RATE : Field := ⟨Reg.MC_CE, 31, 0⟩
abbrev MC_COUNTS_CE : Field := ⟨Reg.MC_COUNTS, 63, 48⟩
abbrev MC_COUNTS_PARITY_FIX : Field := ⟨Reg.MC_COUNTS, 47, 32⟩
abbrev MC_COUNTS_UE : Field := ⟨Reg.MC_COUNTS, 31, 16⟩
abbrev MC_COUNTS_NARROW : Field := ⟨Reg.MC_COUNTS, 15, 0⟩
abbrev MC_ERRLOG_LOST : Field := ⟨Reg.MC_ERRLOG, 63, 63⟩
abbrev MC_ERRLOG_SIZE : Field := ⟨Reg.MC_ERRLOG, 62, 40⟩
abbrev MC_ERRLOG_BASE : Field := ⟨Reg.MC_ERRLOG, 39, 0⟩
abbrev MC_ERRLOG_HEAD_HEAD : Field := ⟨Reg.MC_ERRLOG_HEAD, 31, 0⟩
abbrev MC_RETIRE_GO : Field := ⟨Reg.MC_RETIRE, 63, 63⟩
abbrev MC_RETIRE_KIND : Field := ⟨Reg.MC_RETIRE, 62, 62⟩
abbrev MC_RETIRE_CLUSTER : Field := ⟨Reg.MC_RETIRE, 61, 59⟩
abbrev MC_RETIRE_BANK : Field := ⟨Reg.MC_RETIRE, 26, 23⟩
abbrev MC_RETIRE_STRIPE : Field := ⟨Reg.MC_RETIRE, 22, 0⟩
abbrev MC_RETIRE_STATUS_BUSY : Field := ⟨Reg.MC_RETIRE_STATUS, 63, 63⟩
abbrev MC_RETIRE_STATUS_REFUSED : Field := ⟨Reg.MC_RETIRE_STATUS, 62, 62⟩
abbrev MC_RETIRE_STATUS_UNITS : Field := ⟨Reg.MC_RETIRE_STATUS, 31, 0⟩
abbrev MC_TEST_CTRL_STATUS : Field := ⟨Reg.MC_TEST_CTRL, 10, 8⟩
abbrev MC_TEST_CTRL_BUSY : Field := ⟨Reg.MC_TEST_CTRL, 7, 7⟩
abbrev MC_TEST_CTRL_OP : Field := ⟨Reg.MC_TEST_CTRL, 6, 4⟩
abbrev MC_TEST_CTRL_GO : Field := ⟨Reg.MC_TEST_CTRL, 1, 1⟩
abbrev MC_TEST_CTRL_ENABLE : Field := ⟨Reg.MC_TEST_CTRL, 0, 0⟩
abbrev MC_TEST_ADDR_CHANNEL : Field := ⟨Reg.MC_TEST_ADDR, 33, 31⟩
abbrev MC_TEST_ADDR_STRIPE : Field := ⟨Reg.MC_TEST_ADDR, 22, 0⟩
abbrev MC_TEST_DATA0_DATA : Field := ⟨Reg.MC_TEST_DATA0, 63, 0⟩
abbrev MC_TEST_DATA1_DATA : Field := ⟨Reg.MC_TEST_DATA1, 63, 0⟩
abbrev MC_TEST_DATA2_DATA : Field := ⟨Reg.MC_TEST_DATA2, 63, 0⟩
abbrev MC_TEST_DATA3_DATA : Field := ⟨Reg.MC_TEST_DATA3, 63, 0⟩
abbrev MC_TEST_DATA4_DATA : Field := ⟨Reg.MC_TEST_DATA4, 63, 0⟩
abbrev MC_TEST_DATA5_DATA : Field := ⟨Reg.MC_TEST_DATA5, 63, 0⟩
abbrev MC_TEST_DATA6_DATA : Field := ⟨Reg.MC_TEST_DATA6, 63, 0⟩
abbrev MC_TEST_DATA7_DATA : Field := ⟨Reg.MC_TEST_DATA7, 63, 0⟩
abbrev MC_TEST_CHECK_SECTOR : Field := ⟨Reg.MC_TEST_CHECK, 20, 16⟩
abbrev MC_TEST_CHECK_CHECK : Field := ⟨Reg.MC_TEST_CHECK, 15, 0⟩
abbrev MC_TEST_REGION_UNITS : Field := ⟨Reg.MC_TEST_REGION, 43, 22⟩
abbrev MC_TEST_REGION_FIRST : Field := ⟨Reg.MC_TEST_REGION, 21, 0⟩
abbrev WK_CTRL_BATCH_EN : Field := ⟨Reg.WK_CTRL, 1, 1⟩
abbrev WK_CTRL_SEARCH_EN : Field := ⟨Reg.WK_CTRL, 0, 0⟩
abbrev WK_GEOM_MTS : Field := ⟨Reg.WK_GEOM, 63, 62⟩
abbrev WK_GEOM_CES : Field := ⟨Reg.WK_GEOM, 61, 58⟩
abbrev WK_GEOM_LUNS : Field := ⟨Reg.WK_GEOM, 57, 54⟩
abbrev WK_GEOM_BLOCKS : Field := ⟨Reg.WK_GEOM, 53, 32⟩
abbrev WK_GEOM_PPB : Field := ⟨Reg.WK_GEOM, 12, 0⟩
abbrev WK_SEGTAB_BASE : Field := ⟨Reg.WK_SEGTAB, 39, 0⟩
abbrev WK_IDXTAB_BASE : Field := ⟨Reg.WK_IDXTAB, 39, 0⟩
abbrev WK_DEGRADE_TRAINED : Field := ⟨Reg.WK_DEGRADE, 31, 16⟩
abbrev WK_DEGRADE_DEGRADED : Field := ⟨Reg.WK_DEGRADE, 15, 0⟩
abbrev WK_SEG_FREE_GROUP1 : Field := ⟨Reg.WK_SEG_FREE, 63, 32⟩
abbrev WK_SEG_FREE_GROUP0 : Field := ⟨Reg.WK_SEG_FREE, 31, 0⟩
abbrev WK_GC_GO : Field := ⟨Reg.WK_GC, 63, 63⟩
abbrev WK_GC_GROUP : Field := ⟨Reg.WK_GC, 62, 62⟩
abbrev WK_GC_SEGMENT : Field := ⟨Reg.WK_GC, 31, 0⟩
abbrev WK_GC_STATUS_BUSY1 : Field := ⟨Reg.WK_GC_STATUS, 63, 63⟩
abbrev WK_GC_STATUS_BUSY0 : Field := ⟨Reg.WK_GC_STATUS, 62, 62⟩
abbrev WK_GC_STATUS_REFUSED : Field := ⟨Reg.WK_GC_STATUS, 57, 56⟩
abbrev WK_GC_STATUS_MOVED : Field := ⟨Reg.WK_GC_STATUS, 55, 0⟩
abbrev WK_GC_RESERVE_SEGMENTS : Field := ⟨Reg.WK_GC_RESERVE, 31, 0⟩
abbrev WK_BATCH_STRIPE_WAIT_US : Field := ⟨Reg.WK_BATCH, 63, 48⟩
abbrev WK_BATCH_MAX_QUERIES : Field := ⟨Reg.WK_BATCH, 40, 32⟩
abbrev WK_BATCH_WAIT_US : Field := ⟨Reg.WK_BATCH, 31, 0⟩
abbrev WK_LDPC_RETRIES : Field := ⟨Reg.WK_LDPC, 7, 0⟩
abbrev WK_COUNTS0_SOFT : Field := ⟨Reg.WK_COUNTS0, 63, 48⟩
abbrev WK_COUNTS0_PARITY_FIX : Field := ⟨Reg.WK_COUNTS0, 47, 32⟩
abbrev WK_COUNTS0_READ_FAIL : Field := ⟨Reg.WK_COUNTS0, 31, 16⟩
abbrev WK_COUNTS0_PROG_FAIL : Field := ⟨Reg.WK_COUNTS0, 15, 0⟩
abbrev WK_COUNTS1_PARTIAL : Field := ⟨Reg.WK_COUNTS1, 63, 48⟩
abbrev WK_COUNTS1_BATCHED : Field := ⟨Reg.WK_COUNTS1, 47, 32⟩
abbrev WK_COUNTS1_EXACT : Field := ⟨Reg.WK_COUNTS1, 31, 16⟩
abbrev WK_COUNTS1_SIDE_FULL : Field := ⟨Reg.WK_COUNTS1, 15, 0⟩
abbrev WK_IDX_SEL_INDEX : Field := ⟨Reg.WK_IDX_SEL, 9, 0⟩
abbrev WK_IDX_INFO_VALID : Field := ⟨Reg.WK_IDX_INFO, 63, 63⟩
abbrev WK_IDX_INFO_KIND : Field := ⟨Reg.WK_IDX_INFO, 62, 62⟩
abbrev WK_IDX_INFO_CONTEXT : Field := ⟨Reg.WK_IDX_INFO, 43, 32⟩
abbrev WK_IDX_INFO_GENERATION : Field := ⟨Reg.WK_IDX_INFO, 31, 0⟩
abbrev WK_IDX_MARK_MARK : Field := ⟨Reg.WK_IDX_MARK, 63, 0⟩
abbrev WK_MERGE_GO : Field := ⟨Reg.WK_MERGE, 63, 63⟩
abbrev WK_MERGE_PENDING : Field := ⟨Reg.WK_MERGE, 39, 0⟩
abbrev WK_MERGE_STATUS_REFUSED : Field := ⟨Reg.WK_MERGE_STATUS, 63, 63⟩
abbrev WK_MERGE_STATUS_RETIRING : Field := ⟨Reg.WK_MERGE_STATUS, 62, 62⟩
abbrev WK_MERGE_STATUS_SEARCHES : Field := ⟨Reg.WK_MERGE_STATUS, 31, 0⟩
abbrev ETH_PORT_SEL_PORT : Field := ⟨Reg.ETH_PORT_SEL, 5, 0⟩
abbrev ETH_PORT_CFG_MTU : Field := ⟨Reg.ETH_PORT_CFG, 63, 48⟩
abbrev ETH_PORT_CFG_DEF_PRIO : Field := ⟨Reg.ETH_PORT_CFG, 34, 32⟩
abbrev ETH_PORT_CFG_BEACON : Field := ⟨Reg.ETH_PORT_CFG, 26, 26⟩
abbrev ETH_PORT_CFG_CONTROL : Field := ⟨Reg.ETH_PORT_CFG, 25, 25⟩
abbrev ETH_PORT_CFG_ENABLE : Field := ⟨Reg.ETH_PORT_CFG, 24, 24⟩
abbrev ETH_PORT_CFG_TYPE : Field := ⟨Reg.ETH_PORT_CFG, 17, 16⟩
abbrev ETH_PORT_CFG_LANES : Field := ⟨Reg.ETH_PORT_CFG, 9, 8⟩
abbrev ETH_PORT_STATUS_DOWN_COUNT : Field := ⟨Reg.ETH_PORT_STATUS, 63, 32⟩
abbrev ETH_PORT_STATUS_TRAINED : Field := ⟨Reg.ETH_PORT_STATUS, 3, 3⟩
abbrev ETH_PORT_STATUS_AN_DONE : Field := ⟨Reg.ETH_PORT_STATUS, 2, 2⟩
abbrev ETH_PORT_STATUS_FEC_LOCK : Field := ⟨Reg.ETH_PORT_STATUS, 1, 1⟩
abbrev ETH_PORT_STATUS_UP : Field := ⟨Reg.ETH_PORT_STATUS, 0, 0⟩
abbrev ETH_FEC_CORRECTED : Field := ⟨Reg.ETH_FEC, 63, 32⟩
abbrev ETH_FEC_UNCORRECTED : Field := ⟨Reg.ETH_FEC, 31, 0⟩
abbrev ETH_PFC_LOSSLESS : Field := ⟨Reg.ETH_PFC, 63, 56⟩
abbrev ETH_PFC_XOFF_KIB : Field := ⟨Reg.ETH_PFC, 55, 40⟩
abbrev ETH_PFC_XON_KIB : Field := ⟨Reg.ETH_PFC, 39, 24⟩
abbrev ETH_PFC_PAUSED : Field := ⟨Reg.ETH_PFC, 23, 16⟩
abbrev ETH_PFC_PAUSE_DROP : Field := ⟨Reg.ETH_PFC, 15, 0⟩
abbrev ETH_PTP_LOCK_NS : Field := ⟨Reg.ETH_PTP, 63, 32⟩
abbrev ETH_PTP_MASTER_PORT : Field := ⟨Reg.ETH_PTP, 7, 2⟩
abbrev ETH_PTP_ENABLE : Field := ⟨Reg.ETH_PTP, 1, 1⟩
abbrev ETH_PTP_LOCKED : Field := ⟨Reg.ETH_PTP, 0, 0⟩
abbrev ETH_PTP_OFFSET_OFFSET_NS : Field := ⟨Reg.ETH_PTP_OFFSET, 63, 0⟩
abbrev ETH_DROPS_LOSSY_FULL : Field := ⟨Reg.ETH_DROPS, 63, 32⟩
abbrev ETH_DROPS_NOT_IP : Field := ⟨Reg.ETH_DROPS, 31, 0⟩
abbrev GSP_CTRL_UDP_PORT : Field := ⟨Reg.GSP_CTRL, 63, 48⟩
abbrev GSP_CTRL_START_LO : Field := ⟨Reg.GSP_CTRL, 47, 32⟩
abbrev GSP_CTRL_ENABLE : Field := ⟨Reg.GSP_CTRL, 0, 0⟩
abbrev GSP_LIMITS_MAX_MSG : Field := ⟨Reg.GSP_LIMITS, 63, 40⟩
abbrev GSP_LIMITS_REASM_US : Field := ⟨Reg.GSP_LIMITS, 39, 20⟩
abbrev GSP_LIMITS_POOL_KIB : Field := ⟨Reg.GSP_LIMITS, 19, 0⟩
abbrev GSP_DROPS_NO_PATH : Field := ⟨Reg.GSP_DROPS, 63, 48⟩
abbrev GSP_DROPS_NO_KEY : Field := ⟨Reg.GSP_DROPS, 47, 32⟩
abbrev GSP_DROPS_AUTH : Field := ⟨Reg.GSP_DROPS, 31, 16⟩
abbrev GSP_DROPS_DUP : Field := ⟨Reg.GSP_DROPS, 15, 0⟩
abbrev GSP_BAD_BAD_FRAME : Field := ⟨Reg.GSP_BAD, 63, 48⟩
abbrev GSP_BAD_REASM_TIMEOUT : Field := ⟨Reg.GSP_BAD, 47, 32⟩
abbrev GSP_BAD_REASM_BUSY : Field := ⟨Reg.GSP_BAD, 31, 16⟩
abbrev GSP_BAD_DENIED : Field := ⟨Reg.GSP_BAD, 15, 0⟩
abbrev GSP_LAST_BAD_START_HI : Field := ⟨Reg.GSP_LAST_BAD, 63, 48⟩
abbrev GSP_LAST_BAD_EP : Field := ⟨Reg.GSP_LAST_BAD, 47, 32⟩
abbrev GSP_LAST_BAD_TYPE : Field := ⟨Reg.GSP_LAST_BAD, 31, 24⟩
abbrev GSP_LAST_BAD_REASON : Field := ⟨Reg.GSP_LAST_BAD, 23, 16⟩
abbrev GSP_LAST_BAD_PORT : Field := ⟨Reg.GSP_LAST_BAD, 5, 0⟩
abbrev GSP_RDMA_CFG_RETRY : Field := ⟨Reg.GSP_RDMA_CFG, 63, 61⟩
abbrev GSP_RDMA_CFG_CNP_US : Field := ⟨Reg.GSP_RDMA_CFG, 60, 48⟩
abbrev GSP_RDMA_CFG_CUT : Field := ⟨Reg.GSP_RDMA_CFG, 47, 40⟩
abbrev GSP_RDMA_CFG_STEP_MBPS : Field := ⟨Reg.GSP_RDMA_CFG, 39, 24⟩
abbrev GSP_RDMA_CFG_RISE_US : Field := ⟨Reg.GSP_RDMA_CFG, 23, 0⟩
abbrev GSP_RDMA_COUNTS_ACCESS : Field := ⟨Reg.GSP_RDMA_COUNTS, 63, 48⟩
abbrev GSP_RDMA_COUNTS_MIGRATED : Field := ⟨Reg.GSP_RDMA_COUNTS, 47, 32⟩
abbrev GSP_RDMA_COUNTS_QP_ERROR : Field := ⟨Reg.GSP_RDMA_COUNTS, 31, 16⟩
abbrev GSP_RDMA_COUNTS_CNP_RX : Field := ⟨Reg.GSP_RDMA_COUNTS, 15, 0⟩
abbrev GSP_EP_SEL_EP : Field := ⟨Reg.GSP_EP_SEL, 15, 0⟩
abbrev GSP_EP_INFO_BAD : Field := ⟨Reg.GSP_EP_INFO, 63, 32⟩
abbrev GSP_EP_INFO_PATHS_UP : Field := ⟨Reg.GSP_EP_INFO, 11, 8⟩
abbrev GSP_EP_INFO_CS : Field := ⟨Reg.GSP_EP_INFO, 4, 4⟩
abbrev GSP_EP_INFO_ROLE : Field := ⟨Reg.GSP_EP_INFO, 2, 0⟩
abbrev CH_CTRL_DEV_WEIGHT : Field := ⟨Reg.CH_CTRL, 63, 48⟩
abbrev CH_CTRL_GUARD_TSP_NS : Field := ⟨Reg.CH_CTRL, 47, 16⟩
abbrev CH_PORT_SEL_PORT : Field := ⟨Reg.CH_PORT_SEL, 5, 0⟩
abbrev CH_PORT_CFG_EXTRA_NS : Field := ⟨Reg.CH_PORT_CFG, 63, 48⟩
abbrev CH_PORT_CFG_OVERHEAD : Field := ⟨Reg.CH_PORT_CFG, 47, 40⟩
abbrev CH_PORT_CFG_GUARD_NS : Field := ⟨Reg.CH_PORT_CFG, 31, 0⟩
abbrev CH_CLASS_MAP_KIND6 : Field := ⟨Reg.CH_CLASS_MAP, 26, 24⟩
abbrev CH_CLASS_MAP_KIND5 : Field := ⟨Reg.CH_CLASS_MAP, 22, 20⟩
abbrev CH_CLASS_MAP_KIND4 : Field := ⟨Reg.CH_CLASS_MAP, 18, 16⟩
abbrev CH_CLASS_MAP_KIND3 : Field := ⟨Reg.CH_CLASS_MAP, 14, 12⟩
abbrev CH_CLASS_MAP_KIND2 : Field := ⟨Reg.CH_CLASS_MAP, 10, 8⟩
abbrev CH_CLASS_MAP_KIND1 : Field := ⟨Reg.CH_CLASS_MAP, 6, 4⟩
abbrev CH_CLASS_MAP_KIND0 : Field := ⟨Reg.CH_CLASS_MAP, 2, 0⟩
abbrev CH_GATE_CTRL_SWAP : Field := ⟨Reg.CH_GATE_CTRL, 63, 63⟩
abbrev CH_GATE_CTRL_PENDING : Field := ⟨Reg.CH_GATE_CTRL, 62, 62⟩
abbrev CH_GATE_CTRL_REFUSED : Field := ⟨Reg.CH_GATE_CTRL, 61, 61⟩
abbrev CH_GATE_CTRL_REASON : Field := ⟨Reg.CH_GATE_CTRL, 60, 59⟩
abbrev CH_GATE_CTRL_GATE_EN : Field := ⟨Reg.CH_GATE_CTRL, 24, 24⟩
abbrev CH_GATE_CTRL_GATED : Field := ⟨Reg.CH_GATE_CTRL, 23, 16⟩
abbrev CH_GATE_CTRL_NEXT_GATE_EN : Field := ⟨Reg.CH_GATE_CTRL, 8, 8⟩
abbrev CH_GATE_CTRL_NEXT_GATED : Field := ⟨Reg.CH_GATE_CTRL, 7, 0⟩
abbrev CH_GATE_SEL_ENTRY : Field := ⟨Reg.CH_GATE_SEL, 5, 0⟩
abbrev CH_GATE_NEXT_VALID : Field := ⟨Reg.CH_GATE_NEXT, 63, 63⟩
abbrev CH_GATE_NEXT_EXCL : Field := ⟨Reg.CH_GATE_NEXT, 62, 62⟩
abbrev CH_GATE_NEXT_RESULT : Field := ⟨Reg.CH_GATE_NEXT, 61, 61⟩
abbrev CH_GATE_NEXT_ALL_LAYERS : Field := ⟨Reg.CH_GATE_NEXT, 60, 60⟩
abbrev CH_GATE_NEXT_LAYER : Field := ⟨Reg.CH_GATE_NEXT, 38, 32⟩
abbrev CH_GATE_NEXT_CLASSES : Field := ⟨Reg.CH_GATE_NEXT, 31, 24⟩
abbrev CH_GATE_NEXT_CLOSE_SP : Field := ⟨Reg.CH_GATE_NEXT, 16, 8⟩
abbrev CH_GATE_NEXT_OPEN_SP : Field := ⟨Reg.CH_GATE_NEXT, 7, 0⟩
abbrev CH_GATE_ACTIVE_VALID : Field := ⟨Reg.CH_GATE_ACTIVE, 63, 63⟩
abbrev CH_GATE_ACTIVE_EXCL : Field := ⟨Reg.CH_GATE_ACTIVE, 62, 62⟩
abbrev CH_GATE_ACTIVE_RESULT : Field := ⟨Reg.CH_GATE_ACTIVE, 61, 61⟩
abbrev CH_GATE_ACTIVE_ALL_LAYERS : Field := ⟨Reg.CH_GATE_ACTIVE, 60, 60⟩
abbrev CH_GATE_ACTIVE_LAYER : Field := ⟨Reg.CH_GATE_ACTIVE, 38, 32⟩
abbrev CH_GATE_ACTIVE_CLASSES : Field := ⟨Reg.CH_GATE_ACTIVE, 31, 24⟩
abbrev CH_GATE_ACTIVE_CLOSE_SP : Field := ⟨Reg.CH_GATE_ACTIVE, 16, 8⟩
abbrev CH_GATE_ACTIVE_OPEN_SP : Field := ⟨Reg.CH_GATE_ACTIVE, 7, 0⟩
abbrev CH_OPEN_EXCL : Field := ⟨Reg.CH_OPEN, 15, 8⟩
abbrev CH_OPEN_OPEN : Field := ⟨Reg.CH_OPEN, 7, 0⟩
abbrev CH_SHAPER0_RESET_FULL : Field := ⟨Reg.CH_SHAPER0, 63, 63⟩
abbrev CH_SHAPER0_HI_CREDIT : Field := ⟨Reg.CH_SHAPER0, 55, 32⟩
abbrev CH_SHAPER0_IDLE_MBPS : Field := ⟨Reg.CH_SHAPER0, 31, 0⟩
abbrev CH_SHAPER1_RESET_FULL : Field := ⟨Reg.CH_SHAPER1, 63, 63⟩
abbrev CH_SHAPER1_HI_CREDIT : Field := ⟨Reg.CH_SHAPER1, 55, 32⟩
abbrev CH_SHAPER1_IDLE_MBPS : Field := ⟨Reg.CH_SHAPER1, 31, 0⟩
abbrev CH_SHAPER2_RESET_FULL : Field := ⟨Reg.CH_SHAPER2, 63, 63⟩
abbrev CH_SHAPER2_HI_CREDIT : Field := ⟨Reg.CH_SHAPER2, 55, 32⟩
abbrev CH_SHAPER2_IDLE_MBPS : Field := ⟨Reg.CH_SHAPER2, 31, 0⟩
abbrev CH_SHAPER3_RESET_FULL : Field := ⟨Reg.CH_SHAPER3, 63, 63⟩
abbrev CH_SHAPER3_HI_CREDIT : Field := ⟨Reg.CH_SHAPER3, 55, 32⟩
abbrev CH_SHAPER3_IDLE_MBPS : Field := ⟨Reg.CH_SHAPER3, 31, 0⟩
abbrev CH_SHAPER4_RESET_FULL : Field := ⟨Reg.CH_SHAPER4, 63, 63⟩
abbrev CH_SHAPER4_HI_CREDIT : Field := ⟨Reg.CH_SHAPER4, 55, 32⟩
abbrev CH_SHAPER4_IDLE_MBPS : Field := ⟨Reg.CH_SHAPER4, 31, 0⟩
abbrev CH_SHAPER5_RESET_FULL : Field := ⟨Reg.CH_SHAPER5, 63, 63⟩
abbrev CH_SHAPER5_HI_CREDIT : Field := ⟨Reg.CH_SHAPER5, 55, 32⟩
abbrev CH_SHAPER5_IDLE_MBPS : Field := ⟨Reg.CH_SHAPER5, 31, 0⟩
abbrev CH_SHAPER6_RESET_FULL : Field := ⟨Reg.CH_SHAPER6, 63, 63⟩
abbrev CH_SHAPER6_HI_CREDIT : Field := ⟨Reg.CH_SHAPER6, 55, 32⟩
abbrev CH_SHAPER6_IDLE_MBPS : Field := ⟨Reg.CH_SHAPER6, 31, 0⟩
abbrev CH_SHAPER7_RESET_FULL : Field := ⟨Reg.CH_SHAPER7, 63, 63⟩
abbrev CH_SHAPER7_HI_CREDIT : Field := ⟨Reg.CH_SHAPER7, 55, 32⟩
abbrev CH_SHAPER7_IDLE_MBPS : Field := ⟨Reg.CH_SHAPER7, 31, 0⟩
abbrev CH_CREDIT0_CREDIT : Field := ⟨Reg.CH_CREDIT0, 63, 0⟩
abbrev CH_CREDIT1_CREDIT : Field := ⟨Reg.CH_CREDIT1, 63, 0⟩
abbrev CH_CREDIT2_CREDIT : Field := ⟨Reg.CH_CREDIT2, 63, 0⟩
abbrev CH_CREDIT3_CREDIT : Field := ⟨Reg.CH_CREDIT3, 63, 0⟩
abbrev CH_CREDIT4_CREDIT : Field := ⟨Reg.CH_CREDIT4, 63, 0⟩
abbrev CH_CREDIT5_CREDIT : Field := ⟨Reg.CH_CREDIT5, 63, 0⟩
abbrev CH_CREDIT6_CREDIT : Field := ⟨Reg.CH_CREDIT6, 63, 0⟩
abbrev CH_CREDIT7_CREDIT : Field := ⟨Reg.CH_CREDIT7, 63, 0⟩
abbrev CH_COUNTS_OVERRUN : Field := ⟨Reg.CH_COUNTS, 63, 48⟩
abbrev CH_COUNTS_SPLIT : Field := ⟨Reg.CH_COUNTS, 47, 32⟩
abbrev CH_COUNTS_GUARD_HELD : Field := ⟨Reg.CH_COUNTS, 31, 16⟩
abbrev CH_COUNTS_WITHDRAWN : Field := ⟨Reg.CH_COUNTS, 15, 0⟩
abbrev CH_CTX_WEIGHT_WEIGHT : Field := ⟨Reg.CH_CTX_WEIGHT, 15, 0⟩
abbrev TL_CTRL_ENABLE : Field := ⟨Reg.TL_CTRL, 0, 0⟩
abbrev TL_SEL_INDEX : Field := ⟨Reg.TL_SEL, 14, 0⟩
abbrev TL_VALUE_VALUE : Field := ⟨Reg.TL_VALUE, 63, 0⟩
abbrev TL_DESC_WRITER : Field := ⟨Reg.TL_DESC, 63, 48⟩
abbrev TL_DESC_CONTEXT : Field := ⟨Reg.TL_DESC, 43, 32⟩
abbrev TL_DESC_WIRE : Field := ⟨Reg.TL_DESC, 31, 24⟩
abbrev TL_DESC_ARMED : Field := ⟨Reg.TL_DESC, 6, 6⟩
abbrev TL_DESC_SATURATED : Field := ⟨Reg.TL_DESC, 5, 5⟩
abbrev TL_DESC_BREACH : Field := ⟨Reg.TL_DESC, 4, 4⟩
abbrev TL_DESC_MISUSE : Field := ⟨Reg.TL_DESC, 3, 3⟩
abbrev TL_DESC_MODE : Field := ⟨Reg.TL_DESC, 1, 0⟩
abbrev TL_PAIR_PEER : Field := ⟨Reg.TL_PAIR, 46, 32⟩
abbrev TL_PAIR_BOUND : Field := ⟨Reg.TL_PAIR, 31, 0⟩
abbrev TL_EXPECT_EXPECT : Field := ⟨Reg.TL_EXPECT, 63, 0⟩
abbrev TL_ADD_FORM : Field := ⟨Reg.TL_ADD, 63, 63⟩
abbrev TL_ADD_AMOUNT : Field := ⟨Reg.TL_ADD, 62, 0⟩
abbrev TL_ADD_STATUS_REASON : Field := ⟨Reg.TL_ADD_STATUS, 15, 8⟩
abbrev TL_ADD_STATUS_STATUS : Field := ⟨Reg.TL_ADD_STATUS, 7, 0⟩
abbrev TL_WOKEN0_LATCH : Field := ⟨Reg.TL_WOKEN0, 63, 0⟩
abbrev TL_WOKEN1_LATCH : Field := ⟨Reg.TL_WOKEN1, 63, 0⟩
abbrev TL_WOKEN2_LATCH : Field := ⟨Reg.TL_WOKEN2, 63, 0⟩
abbrev TL_WOKEN3_LATCH : Field := ⟨Reg.TL_WOKEN3, 63, 0⟩
abbrev TL_FIRE_WIRE : Field := ⟨Reg.TL_FIRE, 7, 0⟩
abbrev TL_SLEEP_WIRE : Field := ⟨Reg.TL_SLEEP, 7, 0⟩
abbrev TL_COUNTS_BREACH : Field := ⟨Reg.TL_COUNTS, 63, 48⟩
abbrev TL_COUNTS_MISUSE : Field := ⟨Reg.TL_COUNTS, 47, 32⟩
abbrev TL_COUNTS_SATURATED : Field := ⟨Reg.TL_COUNTS, 31, 16⟩
abbrev TL_COUNTS_TIES : Field := ⟨Reg.TL_COUNTS, 15, 0⟩
abbrev TL_CTX_RANGE_COUNT : Field := ⟨Reg.TL_CTX_RANGE, 47, 32⟩
abbrev TL_CTX_RANGE_BASE : Field := ⟨Reg.TL_CTX_RANGE, 14, 0⟩
abbrev LP_STATUS_FW_VERSION : Field := ⟨Reg.LP_STATUS, 63, 32⟩
abbrev LP_STATUS_LAMP_UP : Field := ⟨Reg.LP_STATUS, 15, 8⟩
abbrev LP_STATUS_SPARE_IN : Field := ⟨Reg.LP_STATUS, 1, 1⟩
abbrev LP_STATUS_SUP_OK : Field := ⟨Reg.LP_STATUS, 0, 0⟩
abbrev LP_TRACK_STUCK_US : Field := ⟨Reg.LP_TRACK, 63, 32⟩
abbrev LP_TRACK_FULL : Field := ⟨Reg.LP_TRACK, 31, 16⟩
abbrev LP_TRACK_USED : Field := ⟨Reg.LP_TRACK, 15, 0⟩
abbrev LP_TRACK_OLDEST_AGE_US : Field := ⟨Reg.LP_TRACK_OLDEST, 63, 32⟩
abbrev LP_TRACK_OLDEST_TYPE : Field := ⟨Reg.LP_TRACK_OLDEST, 31, 24⟩
abbrev LP_TRACK_OLDEST_EP : Field := ⟨Reg.LP_TRACK_OLDEST, 15, 0⟩
abbrev LP_LIMIT_STAT_REFUSED : Field := ⟨Reg.LP_LIMIT_STAT, 63, 48⟩
abbrev LP_LIMIT_STAT_LIMIT : Field := ⟨Reg.LP_LIMIT_STAT, 47, 44⟩
abbrev LP_LIMIT_STAT_CORE : Field := ⟨Reg.LP_LIMIT_STAT, 43, 36⟩
abbrev LP_TASK_VALID : Field := ⟨Reg.LP_TASK, 63, 63⟩
abbrev LP_TASK_CTX : Field := ⟨Reg.LP_TASK, 11, 0⟩
abbrev LP_FILL_SPACE : Field := ⟨Reg.LP_FILL, 63, 63⟩
abbrev LP_FILL_SECTORS : Field := ⟨Reg.LP_FILL, 62, 47⟩
abbrev LP_FILL_BASE : Field := ⟨Reg.LP_FILL, 46, 6⟩
abbrev LP_SCRUB_NEXT_VALID : Field := ⟨Reg.LP_SCRUB_NEXT, 63, 63⟩
abbrev LP_SCRUB_NEXT_JOB : Field := ⟨Reg.LP_SCRUB_NEXT, 31, 0⟩
abbrev LP_SCRUB_DONE_JOB : Field := ⟨Reg.LP_SCRUB_DONE, 31, 0⟩
abbrev LP_SCRUB_STATUS_FAILED : Field := ⟨Reg.LP_SCRUB_STATUS, 63, 63⟩
abbrev LP_SCRUB_STATUS_OFFSET : Field := ⟨Reg.LP_SCRUB_STATUS, 62, 32⟩
abbrev LP_SCRUB_STATUS_JOB : Field := ⟨Reg.LP_SCRUB_STATUS, 31, 0⟩
abbrev LP_SCRUB_RETRY_MAX : Field := ⟨Reg.LP_SCRUB, 39, 32⟩
abbrev LP_SCRUB_CHECK_MBPS : Field := ⟨Reg.LP_SCRUB, 31, 0⟩
abbrev LP_SCRUB_Q_BASE : Field := ⟨Reg.LP_SCRUB_Q, 39, 0⟩
abbrev LP_HOME_MAP_BASE : Field := ⟨Reg.LP_HOME_MAP, 39, 0⟩
abbrev LP_SVC_CMD0_DATA : Field := ⟨Reg.LP_SVC_CMD0, 63, 0⟩
abbrev LP_SVC_CMD1_DATA : Field := ⟨Reg.LP_SVC_CMD1, 63, 0⟩
abbrev LP_SVC_CMD2_DATA : Field := ⟨Reg.LP_SVC_CMD2, 63, 0⟩
abbrev LP_SVC_CMD3_DATA : Field := ⟨Reg.LP_SVC_CMD3, 63, 0⟩
abbrev LP_SVC_CMD4_DATA : Field := ⟨Reg.LP_SVC_CMD4, 63, 0⟩
abbrev LP_SVC_CMD5_DATA : Field := ⟨Reg.LP_SVC_CMD5, 63, 0⟩
abbrev LP_SVC_CMD6_DATA : Field := ⟨Reg.LP_SVC_CMD6, 63, 0⟩
abbrev LP_SVC_CMD7_DATA : Field := ⟨Reg.LP_SVC_CMD7, 63, 0⟩
abbrev LP_SVC_CTRL_GO : Field := ⟨Reg.LP_SVC_CTRL, 63, 63⟩
abbrev LP_SVC_CTRL_BUSY : Field := ⟨Reg.LP_SVC_CTRL, 62, 62⟩
abbrev LP_SVC_CTRL_STATUS : Field := ⟨Reg.LP_SVC_CTRL, 39, 32⟩
abbrev LP_SVC_CTRL_TAG : Field := ⟨Reg.LP_SVC_CTRL, 31, 0⟩
abbrev LP_CTX_PLACE_PRIV : Field := ⟨Reg.LP_CTX_PLACE, 9, 9⟩
abbrev LP_CTX_PLACE_DIE : Field := ⟨Reg.LP_CTX_PLACE, 8, 8⟩
abbrev LP_CTX_PLACE_CLUSTER_MASK : Field := ⟨Reg.LP_CTX_PLACE, 7, 0⟩
abbrev LP_CTX_CTRL_RESUME : Field := ⟨Reg.LP_CTX_CTRL, 63, 63⟩
abbrev LP_CTX_CTRL_TORN : Field := ⟨Reg.LP_CTX_CTRL, 7, 7⟩
abbrev LP_CTX_CTRL_SCRUBBED : Field := ⟨Reg.LP_CTX_CTRL, 6, 6⟩
abbrev LP_CTX_CTRL_CAUSE : Field := ⟨Reg.LP_CTX_CTRL, 1, 0⟩
abbrev GLB_START_DETAIL : Field := ⟨Reg.GLB_START, 63, 32⟩
abbrev GLB_START_ELAPSED_MS : Field := ⟨Reg.GLB_START, 31, 16⟩
abbrev GLB_START_STEP : Field := ⟨Reg.GLB_START, 11, 8⟩
abbrev GLB_START_STATUS : Field := ⟨Reg.GLB_START, 3, 0⟩
abbrev GLB_MODE_REFUSED : Field := ⟨Reg.GLB_MODE, 1, 1⟩
abbrev GLB_MODE_SERVICE : Field := ⟨Reg.GLB_MODE, 0, 0⟩
abbrev GLB_IMAGE_SVN : Field := ⟨Reg.GLB_IMAGE, 63, 32⟩
abbrev GLB_IMAGE_SIGNED_LEN : Field := ⟨Reg.GLB_IMAGE, 31, 0⟩
abbrev GLB_BUILD0_BUILD_ID : Field := ⟨Reg.GLB_BUILD0, 63, 0⟩
abbrev GLB_BUILD1_BUILD_ID : Field := ⟨Reg.GLB_BUILD1, 63, 0⟩
abbrev SEAL_LC_SVN_FLOOR : Field := ⟨Reg.SEAL_LC, 31, 24⟩
abbrev SEAL_LC_SCRUBBED : Field := ⟨Reg.SEAL_LC, 17, 17⟩
abbrev SEAL_LC_ROOT_KILL : Field := ⟨Reg.SEAL_LC, 16, 16⟩
abbrev SEAL_LC_OWNER_SLOT : Field := ⟨Reg.SEAL_LC, 13, 12⟩
abbrev SEAL_LC_JTAG_OPEN : Field := ⟨Reg.SEAL_LC, 8, 8⟩
abbrev SEAL_LC_PENDING : Field := ⟨Reg.SEAL_LC, 7, 7⟩
abbrev SEAL_LC_NEXT : Field := ⟨Reg.SEAL_LC, 6, 4⟩
abbrev SEAL_LC_STATE : Field := ⟨Reg.SEAL_LC, 2, 0⟩
abbrev SEAL_WIN_SEL_OBJECT : Field := ⟨Reg.SEAL_WIN_SEL, 18, 16⟩
abbrev SEAL_WIN_SEL_PAGE : Field := ⟨Reg.SEAL_WIN_SEL, 5, 0⟩
abbrev SEAL_WIN_DATA0_DATA : Field := ⟨Reg.SEAL_WIN_DATA0, 63, 0⟩
abbrev SEAL_WIN_DATA1_DATA : Field := ⟨Reg.SEAL_WIN_DATA1, 63, 0⟩
abbrev SEAL_WIN_DATA2_DATA : Field := ⟨Reg.SEAL_WIN_DATA2, 63, 0⟩
abbrev SEAL_WIN_DATA3_DATA : Field := ⟨Reg.SEAL_WIN_DATA3, 63, 0⟩
abbrev SEAL_WIN_DATA4_DATA : Field := ⟨Reg.SEAL_WIN_DATA4, 63, 0⟩
abbrev SEAL_WIN_DATA5_DATA : Field := ⟨Reg.SEAL_WIN_DATA5, 63, 0⟩
abbrev SEAL_WIN_DATA6_DATA : Field := ⟨Reg.SEAL_WIN_DATA6, 63, 0⟩
abbrev SEAL_WIN_DATA7_DATA : Field := ⟨Reg.SEAL_WIN_DATA7, 63, 0⟩
abbrev SEAL_WIN_DATA8_DATA : Field := ⟨Reg.SEAL_WIN_DATA8, 63, 0⟩
abbrev SEAL_WIN_DATA9_DATA : Field := ⟨Reg.SEAL_WIN_DATA9, 63, 0⟩
abbrev SEAL_WIN_DATA10_DATA : Field := ⟨Reg.SEAL_WIN_DATA10, 63, 0⟩
abbrev SEAL_WIN_DATA11_DATA : Field := ⟨Reg.SEAL_WIN_DATA11, 63, 0⟩
abbrev SEAL_WIN_DATA12_DATA : Field := ⟨Reg.SEAL_WIN_DATA12, 63, 0⟩
abbrev SEAL_WIN_DATA13_DATA : Field := ⟨Reg.SEAL_WIN_DATA13, 63, 0⟩
abbrev SEAL_WIN_DATA14_DATA : Field := ⟨Reg.SEAL_WIN_DATA14, 63, 0⟩
abbrev SEAL_WIN_DATA15_DATA : Field := ⟨Reg.SEAL_WIN_DATA15, 63, 0⟩
abbrev SEAL_WIN_DATA16_DATA : Field := ⟨Reg.SEAL_WIN_DATA16, 63, 0⟩
abbrev SEAL_WIN_DATA17_DATA : Field := ⟨Reg.SEAL_WIN_DATA17, 63, 0⟩
abbrev SEAL_WIN_DATA18_DATA : Field := ⟨Reg.SEAL_WIN_DATA18, 63, 0⟩
abbrev SEAL_WIN_DATA19_DATA : Field := ⟨Reg.SEAL_WIN_DATA19, 63, 0⟩
abbrev SEAL_WIN_DATA20_DATA : Field := ⟨Reg.SEAL_WIN_DATA20, 63, 0⟩
abbrev SEAL_WIN_DATA21_DATA : Field := ⟨Reg.SEAL_WIN_DATA21, 63, 0⟩
abbrev SEAL_WIN_DATA22_DATA : Field := ⟨Reg.SEAL_WIN_DATA22, 63, 0⟩
abbrev SEAL_WIN_DATA23_DATA : Field := ⟨Reg.SEAL_WIN_DATA23, 63, 0⟩
abbrev SEAL_WIN_DATA24_DATA : Field := ⟨Reg.SEAL_WIN_DATA24, 63, 0⟩
abbrev SEAL_WIN_DATA25_DATA : Field := ⟨Reg.SEAL_WIN_DATA25, 63, 0⟩
abbrev SEAL_WIN_DATA26_DATA : Field := ⟨Reg.SEAL_WIN_DATA26, 63, 0⟩
abbrev SEAL_WIN_DATA27_DATA : Field := ⟨Reg.SEAL_WIN_DATA27, 63, 0⟩
abbrev SEAL_WIN_DATA28_DATA : Field := ⟨Reg.SEAL_WIN_DATA28, 63, 0⟩
abbrev SEAL_WIN_DATA29_DATA : Field := ⟨Reg.SEAL_WIN_DATA29, 63, 0⟩
abbrev SEAL_WIN_DATA30_DATA : Field := ⟨Reg.SEAL_WIN_DATA30, 63, 0⟩
abbrev SEAL_WIN_DATA31_DATA : Field := ⟨Reg.SEAL_WIN_DATA31, 63, 0⟩
abbrev SEAL_WIN_DATA32_DATA : Field := ⟨Reg.SEAL_WIN_DATA32, 63, 0⟩
abbrev SEAL_WIN_DATA33_DATA : Field := ⟨Reg.SEAL_WIN_DATA33, 63, 0⟩
abbrev SEAL_WIN_DATA34_DATA : Field := ⟨Reg.SEAL_WIN_DATA34, 63, 0⟩
abbrev SEAL_WIN_DATA35_DATA : Field := ⟨Reg.SEAL_WIN_DATA35, 63, 0⟩
abbrev SEAL_WIN_DATA36_DATA : Field := ⟨Reg.SEAL_WIN_DATA36, 63, 0⟩
abbrev SEAL_WIN_DATA37_DATA : Field := ⟨Reg.SEAL_WIN_DATA37, 63, 0⟩
abbrev SEAL_WIN_DATA38_DATA : Field := ⟨Reg.SEAL_WIN_DATA38, 63, 0⟩
abbrev SEAL_WIN_DATA39_DATA : Field := ⟨Reg.SEAL_WIN_DATA39, 63, 0⟩
abbrev SEAL_WIN_DATA40_DATA : Field := ⟨Reg.SEAL_WIN_DATA40, 63, 0⟩
abbrev SEAL_WIN_DATA41_DATA : Field := ⟨Reg.SEAL_WIN_DATA41, 63, 0⟩
abbrev SEAL_WIN_DATA42_DATA : Field := ⟨Reg.SEAL_WIN_DATA42, 63, 0⟩
abbrev SEAL_WIN_DATA43_DATA : Field := ⟨Reg.SEAL_WIN_DATA43, 63, 0⟩
abbrev SEAL_WIN_DATA44_DATA : Field := ⟨Reg.SEAL_WIN_DATA44, 63, 0⟩
abbrev SEAL_WIN_DATA45_DATA : Field := ⟨Reg.SEAL_WIN_DATA45, 63, 0⟩
abbrev SEAL_WIN_DATA46_DATA : Field := ⟨Reg.SEAL_WIN_DATA46, 63, 0⟩
abbrev SEAL_WIN_DATA47_DATA : Field := ⟨Reg.SEAL_WIN_DATA47, 63, 0⟩
abbrev SEAL_WIN_DATA48_DATA : Field := ⟨Reg.SEAL_WIN_DATA48, 63, 0⟩
abbrev SEAL_WIN_DATA49_DATA : Field := ⟨Reg.SEAL_WIN_DATA49, 63, 0⟩
abbrev SEAL_WIN_DATA50_DATA : Field := ⟨Reg.SEAL_WIN_DATA50, 63, 0⟩
abbrev SEAL_WIN_DATA51_DATA : Field := ⟨Reg.SEAL_WIN_DATA51, 63, 0⟩
abbrev SEAL_WIN_DATA52_DATA : Field := ⟨Reg.SEAL_WIN_DATA52, 63, 0⟩
abbrev SEAL_WIN_DATA53_DATA : Field := ⟨Reg.SEAL_WIN_DATA53, 63, 0⟩
abbrev SEAL_WIN_DATA54_DATA : Field := ⟨Reg.SEAL_WIN_DATA54, 63, 0⟩
abbrev SEAL_WIN_DATA55_DATA : Field := ⟨Reg.SEAL_WIN_DATA55, 63, 0⟩
abbrev SEAL_WIN_DATA56_DATA : Field := ⟨Reg.SEAL_WIN_DATA56, 63, 0⟩
abbrev SEAL_WIN_DATA57_DATA : Field := ⟨Reg.SEAL_WIN_DATA57, 63, 0⟩
abbrev SEAL_WIN_DATA58_DATA : Field := ⟨Reg.SEAL_WIN_DATA58, 63, 0⟩
abbrev SEAL_WIN_DATA59_DATA : Field := ⟨Reg.SEAL_WIN_DATA59, 63, 0⟩
abbrev SEAL_WIN_DATA60_DATA : Field := ⟨Reg.SEAL_WIN_DATA60, 63, 0⟩
abbrev SEAL_WIN_DATA61_DATA : Field := ⟨Reg.SEAL_WIN_DATA61, 63, 0⟩
abbrev SEAL_WIN_DATA62_DATA : Field := ⟨Reg.SEAL_WIN_DATA62, 63, 0⟩
abbrev SEAL_WIN_DATA63_DATA : Field := ⟨Reg.SEAL_WIN_DATA63, 63, 0⟩
abbrev SEAL_RPT_NONCE0_NONCE : Field := ⟨Reg.SEAL_RPT_NONCE0, 63, 0⟩
abbrev SEAL_RPT_NONCE1_NONCE : Field := ⟨Reg.SEAL_RPT_NONCE1, 63, 0⟩
abbrev SEAL_RPT_NONCE2_NONCE : Field := ⟨Reg.SEAL_RPT_NONCE2, 63, 0⟩
abbrev SEAL_RPT_NONCE3_NONCE : Field := ⟨Reg.SEAL_RPT_NONCE3, 63, 0⟩
abbrev SEAL_RPT_CTRL_GO : Field := ⟨Reg.SEAL_RPT_CTRL, 63, 63⟩
abbrev SEAL_RPT_CTRL_BUSY : Field := ⟨Reg.SEAL_RPT_CTRL, 62, 62⟩
abbrev SEAL_RPT_CTRL_KIND : Field := ⟨Reg.SEAL_RPT_CTRL, 61, 61⟩
abbrev SEAL_RPT_CTRL_STATUS : Field := ⟨Reg.SEAL_RPT_CTRL, 39, 32⟩
abbrev SEAL_RPT_CTRL_SEQ : Field := ⟨Reg.SEAL_RPT_CTRL, 31, 0⟩
abbrev SEAL_LC_CMD_GO : Field := ⟨Reg.SEAL_LC_CMD, 63, 63⟩
abbrev SEAL_LC_CMD_BUSY : Field := ⟨Reg.SEAL_LC_CMD, 62, 62⟩
abbrev SEAL_LC_CMD_CMD : Field := ⟨Reg.SEAL_LC_CMD, 58, 56⟩
abbrev SEAL_LC_CMD_STATUS : Field := ⟨Reg.SEAL_LC_CMD, 39, 32⟩
abbrev SEAL_LC_CMD_LENGTH : Field := ⟨Reg.SEAL_LC_CMD, 31, 0⟩
abbrev SEAL_KEYGEN_SEL_TYPE : Field := ⟨Reg.SEAL_KEYGEN_SEL, 63, 63⟩
abbrev SEAL_KEYGEN_SEL_ID : Field := ⟨Reg.SEAL_KEYGEN_SEL, 15, 0⟩
abbrev SEAL_KEYGEN_ADVANCE : Field := ⟨Reg.SEAL_KEYGEN, 63, 63⟩
abbrev SEAL_KEYGEN_RETIRE_PREV : Field := ⟨Reg.SEAL_KEYGEN, 62, 62⟩
abbrev SEAL_KEYGEN_REFUSED : Field := ⟨Reg.SEAL_KEYGEN, 61, 61⟩
abbrev SEAL_KEYGEN_PREV_LIVE : Field := ⟨Reg.SEAL_KEYGEN, 8, 8⟩
abbrev SEAL_KEYGEN_CUR : Field := ⟨Reg.SEAL_KEYGEN, 7, 0⟩
abbrev SEAL_COUNTS_KEY_MISS : Field := ⟨Reg.SEAL_COUNTS, 63, 32⟩
abbrev SEAL_COUNTS_UNWRAP_FAIL : Field := ⟨Reg.SEAL_COUNTS, 31, 16⟩
abbrev SEAL_COUNTS_LC_REFUSED : Field := ⟨Reg.SEAL_COUNTS, 15, 0⟩
abbrev CK_CTRL_INTERVAL : Field := ⟨Reg.CK_CTRL, 63, 32⟩
abbrev CK_CTRL_KEEP : Field := ⟨Reg.CK_CTRL, 27, 24⟩
abbrev CK_CTRL_CE_EN : Field := ⟨Reg.CK_CTRL, 1, 1⟩
abbrev CK_CTRL_ENABLE : Field := ⟨Reg.CK_CTRL, 0, 0⟩
abbrev CK_AREA_EP : Field := ⟨Reg.CK_AREA, 63, 48⟩
abbrev CK_AREA_BASE : Field := ⟨Reg.CK_AREA, 47, 0⟩
abbrev CK_SHARD_BYTES : Field := ⟨Reg.CK_SHARD, 47, 0⟩
abbrev CK_RATE_MBPS : Field := ⟨Reg.CK_RATE, 31, 0⟩
abbrev CK_CBW_KIB : Field := ⟨Reg.CK_CBW, 63, 40⟩
abbrev CK_CBW_BASE : Field := ⟨Reg.CK_CBW, 39, 0⟩
abbrev CK_CBW_USE_KIB : Field := ⟨Reg.CK_CBW_USE, 31, 0⟩
abbrev CK_STATUS_BUSY : Field := ⟨Reg.CK_STATUS, 63, 63⟩
abbrev CK_STATUS_RESTORING : Field := ⟨Reg.CK_STATUS, 62, 62⟩
abbrev CK_STATUS_RESTORE_FAILED : Field := ⟨Reg.CK_STATUS, 61, 61⟩
abbrev CK_STATUS_SHARD : Field := ⟨Reg.CK_STATUS, 55, 48⟩
abbrev CK_STATUS_CAUSE : Field := ⟨Reg.CK_STATUS, 47, 40⟩
abbrev CK_STATUS_CUT_NS : Field := ⟨Reg.CK_STATUS, 31, 0⟩
abbrev CK_LAST_VALUE : Field := ⟨Reg.CK_LAST, 63, 0⟩
abbrev CK_LAST_MARK_VALUE : Field := ⟨Reg.CK_LAST_MARK, 63, 0⟩
abbrev CK_RUN_VALUE : Field := ⟨Reg.CK_RUN, 63, 0⟩
abbrev CK_FAIL_ADDR : Field := ⟨Reg.CK_FAIL, 63, 0⟩
abbrev CK_COUNTS_SKIPPED : Field := ⟨Reg.CK_COUNTS, 63, 48⟩
abbrev CK_COUNTS_FAILED : Field := ⟨Reg.CK_COUNTS, 47, 32⟩
abbrev CK_COUNTS_CBW_COPIES : Field := ⟨Reg.CK_COUNTS, 31, 16⟩
abbrev CK_COUNTS_CBW_WAIT : Field := ⟨Reg.CK_COUNTS, 15, 0⟩
abbrev HL_CTRL_KAT_STEPS : Field := ⟨Reg.HL_CTRL, 63, 48⟩
abbrev HL_CTRL_WDOG_MS : Field := ⟨Reg.HL_CTRL, 47, 32⟩
abbrev HL_CTRL_SUP_RETRY : Field := ⟨Reg.HL_CTRL, 31, 28⟩
abbrev HL_EVT_SIZE : Field := ⟨Reg.HL_EVT, 62, 40⟩
abbrev HL_EVT_BASE : Field := ⟨Reg.HL_EVT, 39, 0⟩
abbrev HL_EVT_HEAD_LOST : Field := ⟨Reg.HL_EVT_HEAD, 63, 63⟩
abbrev HL_EVT_HEAD_HEAD : Field := ⟨Reg.HL_EVT_HEAD, 39, 0⟩
abbrev HL_ALERT_PENDING : Field := ⟨Reg.HL_ALERT, 63, 48⟩
abbrev HL_ALERT_ACK : Field := ⟨Reg.HL_ALERT, 47, 0⟩
abbrev HL_UNITMAP0_MAP : Field := ⟨Reg.HL_UNITMAP0, 63, 0⟩
abbrev HL_UNITMAP1_MAP : Field := ⟨Reg.HL_UNITMAP1, 63, 0⟩
abbrev HL_UNITMAP2_MAP : Field := ⟨Reg.HL_UNITMAP2, 63, 0⟩
abbrev HL_UNITMAP3_MAP : Field := ⟨Reg.HL_UNITMAP3, 63, 0⟩
abbrev HL_CORE_SEL_CLUSTER : Field := ⟨Reg.HL_CORE_SEL, 2, 0⟩
abbrev HL_CORE_SPARE : Field := ⟨Reg.HL_CORE, 57, 56⟩
abbrev HL_CORE_FENCED_LOG : Field := ⟨Reg.HL_CORE, 55, 52⟩
abbrev HL_CORE_FENCED : Field := ⟨Reg.HL_CORE, 51, 51⟩
abbrev HL_CORE_OUT : Field := ⟨Reg.HL_CORE, 16, 0⟩
abbrev HL_MON_SEL_TYPE : Field := ⟨Reg.HL_MON_SEL, 7, 6⟩
abbrev HL_MON_SEL_INDEX : Field := ⟨Reg.HL_MON_SEL, 5, 0⟩
abbrev HL_MON_VALUE_A : Field := ⟨Reg.HL_MON, 63, 32⟩
abbrev HL_MON_VALUE_B : Field := ⟨Reg.HL_MON, 31, 0⟩
abbrev HL_AGE_CFG_RETRAIN_S : Field := ⟨Reg.HL_AGE_CFG, 63, 48⟩
abbrev HL_AGE_CFG_PERIOD_S : Field := ⟨Reg.HL_AGE_CFG, 47, 32⟩
abbrev HL_AGE_CFG_WARN_PPM : Field := ⟨Reg.HL_AGE_CFG, 31, 0⟩
abbrev HL_ROW_SPARE_GO : Field := ⟨Reg.HL_ROW_SPARE, 63, 63⟩
abbrev HL_ROW_SPARE_STATUS : Field := ⟨Reg.HL_ROW_SPARE, 39, 32⟩
abbrev HL_ROW_SPARE_UNIT : Field := ⟨Reg.HL_ROW_SPARE, 31, 0⟩
abbrev HL_PLAN_GO : Field := ⟨Reg.HL_PLAN, 63, 63⟩
abbrev HL_PLAN_REFRESH : Field := ⟨Reg.HL_PLAN, 44, 43⟩
abbrev HL_PLAN_POINT : Field := ⟨Reg.HL_PLAN, 42, 40⟩
abbrev HL_PLAN_VSRAM_MV : Field := ⟨Reg.HL_PLAN, 31, 16⟩
abbrev HL_PLAN_VCORE_MV : Field := ⟨Reg.HL_PLAN, 15, 0⟩
abbrev HL_PLAN_STATUS_PENDING : Field := ⟨Reg.HL_PLAN_STATUS, 63, 63⟩
abbrev HL_PLAN_STATUS_REFRESH : Field := ⟨Reg.HL_PLAN_STATUS, 44, 43⟩
abbrev HL_PLAN_STATUS_POINT : Field := ⟨Reg.HL_PLAN_STATUS, 42, 40⟩
abbrev HL_PLAN_STATUS_VSRAM_MV : Field := ⟨Reg.HL_PLAN_STATUS, 31, 16⟩
abbrev HL_PLAN_STATUS_VCORE_MV : Field := ⟨Reg.HL_PLAN_STATUS, 15, 0⟩
abbrev HL_COUNTS_FENCED : Field := ⟨Reg.HL_COUNTS, 63, 48⟩
abbrev HL_COUNTS_RERUN : Field := ⟨Reg.HL_COUNTS, 47, 32⟩
abbrev HL_COUNTS_LAMP_FAULT : Field := ⟨Reg.HL_COUNTS, 31, 16⟩
abbrev HL_COUNTS_LOCKSTEP : Field := ⟨Reg.HL_COUNTS, 15, 0⟩
abbrev RP_CTRL_PACE : Field := ⟨Reg.RP_CTRL, 4, 4⟩
abbrev RP_CTRL_MODE : Field := ⟨Reg.RP_CTRL, 1, 0⟩
abbrev RP_STATUS_MAP_DIFF : Field := ⟨Reg.RP_STATUS, 7, 7⟩
abbrev RP_STATUS_DIVERGED : Field := ⟨Reg.RP_STATUS, 6, 6⟩
abbrev RP_STATUS_FULL : Field := ⟨Reg.RP_STATUS, 5, 5⟩
abbrev RP_STATUS_GAP : Field := ⟨Reg.RP_STATUS, 4, 4⟩
abbrev RP_STATUS_STATE : Field := ⟨Reg.RP_STATUS, 2, 0⟩
abbrev RP_AREA_EP : Field := ⟨Reg.RP_AREA, 63, 48⟩
abbrev RP_AREA_BASE : Field := ⟨Reg.RP_AREA, 47, 0⟩
abbrev RP_SIZE_BYTES : Field := ⟨Reg.RP_SIZE, 47, 0⟩
abbrev RP_REC_VALUE : Field := ⟨Reg.RP_REC, 63, 0⟩
abbrev RP_CKPT_VALUE : Field := ⟨Reg.RP_CKPT, 63, 0⟩
abbrev RP_DIVERGE_COUNT : Field := ⟨Reg.RP_DIVERGE, 63, 48⟩
abbrev RP_DIVERGE_MSG_RSEQ : Field := ⟨Reg.RP_DIVERGE, 47, 0⟩
abbrev RP_CHOICES0_ARB_TIES : Field := ⟨Reg.RP_CHOICES0, 63, 32⟩
abbrev RP_CHOICES0_PLACE : Field := ⟨Reg.RP_CHOICES0, 31, 0⟩
abbrev RP_CHOICES1_FANOUT : Field := ⟨Reg.RP_CHOICES1, 63, 32⟩
abbrev RP_CHOICES1_RELAXED : Field := ⟨Reg.RP_CHOICES1, 31, 0⟩
abbrev RP_IMPOSED_HELD : Field := ⟨Reg.RP_IMPOSED, 63, 32⟩
abbrev RP_IMPOSED_IMPOSED : Field := ⟨Reg.RP_IMPOSED, 31, 0⟩
abbrev RP_BUF_KIB : Field := ⟨Reg.RP_BUF, 31, 0⟩
abbrev BD_SB_DYN_ADDR : Field := ⟨Reg.BD_SB, 14, 8⟩
abbrev BD_SB_IBI_EN : Field := ⟨Reg.BD_SB, 1, 1⟩
abbrev BD_SB_I3C : Field := ⟨Reg.BD_SB, 0, 0⟩
abbrev BD_VREQ_PENDING : Field := ⟨Reg.BD_VREQ, 63, 63⟩
abbrev BD_VREQ_SEQ : Field := ⟨Reg.BD_VREQ, 55, 48⟩
abbrev BD_VREQ_RAIL : Field := ⟨Reg.BD_VREQ, 19, 16⟩
abbrev BD_VREQ_MV : Field := ⟨Reg.BD_VREQ, 15, 0⟩
abbrev BD_VACK_SEQ : Field := ⟨Reg.BD_VACK, 55, 48⟩
abbrev BD_VACK_MV : Field := ⟨Reg.BD_VACK, 15, 0⟩
abbrev BD_TEMP_SEL_SENSOR : Field := ⟨Reg.BD_TEMP_SEL, 3, 0⟩
abbrev BD_TEMP_MAX : Field := ⟨Reg.BD_TEMP, 47, 32⟩
abbrev BD_TEMP_TEMP : Field := ⟨Reg.BD_TEMP, 15, 0⟩
abbrev BD_THERM_TRIP : Field := ⟨Reg.BD_THERM, 63, 63⟩
abbrev BD_THERM_TRIP_DIE : Field := ⟨Reg.BD_THERM, 62, 62⟩
abbrev BD_THERM_TRIP_C : Field := ⟨Reg.BD_THERM, 55, 48⟩
abbrev BD_THERM_TJ_MAX_C : Field := ⟨Reg.BD_THERM, 47, 40⟩
abbrev BD_CLK_LOSSES : Field := ⟨Reg.BD_CLK, 63, 48⟩
abbrev BD_CLK_ETH_OK : Field := ⟨Reg.BD_CLK, 7, 4⟩
abbrev BD_CLK_HOLDOVER : Field := ⟨Reg.BD_CLK, 1, 1⟩
abbrev BD_CLK_CORE_OK : Field := ⟨Reg.BD_CLK, 0, 0⟩

end Fld

/-! ### The table, block by block -/

/-- Block 0x00, part 0 (R471). -/
def regRows00_0 : List RegRow := [
  ⟨Reg.GLB_START, false, .plain, [⟨63, 32, .ro, 0⟩, ⟨31, 16, .ro, 0⟩, ⟨11, 8, .ro, 0⟩, ⟨3, 0, .ro, 0⟩]⟩,
  ⟨Reg.GLB_MODE, false, .plain, [⟨1, 1, .w1c, 0⟩, ⟨0, 0, .rw, 0⟩]⟩,
  ⟨Reg.GLB_IMAGE, false, .plain, [⟨63, 32, .ro, 0⟩, ⟨31, 0, .ro, 0⟩]⟩,
  ⟨Reg.GLB_BUILD0, false, .plain, [⟨63, 0, .ro, 0⟩]⟩,
  ⟨Reg.GLB_BUILD1, false, .plain, [⟨63, 0, .ro, 0⟩]⟩]

/-- Block 0x01, part 0 (R471). -/
def regRows01_0 : List RegRow := [
  ⟨Reg.BCN_CTRL, false, .plain, [⟨2, 2, .wo, 0⟩, ⟨1, 1, .rw, 0⟩, ⟨0, 0, .rw, 1⟩]⟩,
  ⟨Reg.BCN_STATUS, true, .plain, [⟨7, 7, .ro, 0⟩, ⟨6, 6, .ro, 0⟩, ⟨5, 5, .ro, 0⟩, ⟨4, 4, .ro, 0⟩, ⟨3, 3, .ro, 0⟩, ⟨2, 0, .ro, 0⟩]⟩,
  ⟨Reg.BCN_POS, true, .plain, [⟨63, 16, .ro, 0⟩, ⟨15, 8, .ro, 0⟩, ⟨7, 0, .ro, 0⟩]⟩,
  ⟨Reg.BCN_LAST_POS, false, .plain, [⟨63, 16, .ro, 0⟩, ⟨15, 8, .ro, 0⟩, ⟨7, 0, .ro, 0⟩]⟩,
  ⟨Reg.BCN_LAST_TIME, false, .plain, [⟨63, 0, .ro, 0⟩]⟩,
  ⟨Reg.BCN_PERIOD, true, .plain, [⟨63, 32, .ro, 0⟩, ⟨31, 0, .ro, 0⟩]⟩,
  ⟨Reg.BCN_JITTER, true, .plain, [⟨31, 0, .ro, 0⟩]⟩,
  ⟨Reg.BCN_LEAD, true, .plain, [⟨59, 56, .ro, 0⟩, ⟨55, 44, .ro, 0⟩, ⟨43, 40, .ro, 0⟩, ⟨39, 28, .ro, 0⟩]⟩,
  ⟨Reg.BCN_FETCH, false, .plain, [⟨63, 48, .rw, 0⟩, ⟨47, 32, .rw, 0⟩, ⟨31, 16, .rw, 0⟩, ⟨15, 0, .rw, 0⟩]⟩,
  ⟨Reg.BCN_INIT, false, .plain, [⟨47, 36, .rwl, 1024⟩, ⟨35, 24, .rwl, 64⟩, ⟨23, 12, .rwl, 2048⟩, ⟨11, 0, .rwl, 768⟩]⟩,
  ⟨Reg.BCN_LIMITS, false, .plain, [⟨63, 40, .rwl, 20000⟩, ⟨39, 28, .rwl, 64⟩, ⟨27, 20, .rwl, 16⟩, ⟨19, 12, .rwl, 48⟩, ⟨11, 4, .rwl, 16⟩]⟩,
  ⟨Reg.BCN_TIMEOUT, false, .plain, [⟨39, 32, .rwl, 48⟩, ⟨31, 0, .rwl, 2000000⟩]⟩,
  ⟨Reg.BCN_PIN_CFG, false, .plain, [⟨31, 0, .rw, 0⟩]⟩,
  ⟨Reg.BCN_FRAME_CFG, false, .plain, [⟨63, 48, .rwl, 47161⟩, ⟨31, 0, .rw, 0⟩]⟩,
  ⟨Reg.BCN_REBASE_POS, false, .plain, [⟨63, 0, .rw, 0⟩]⟩,
  ⟨Reg.BCN_COUNTS, true, .plain, [⟨63, 56, .rc, 0⟩, ⟨55, 48, .rc, 0⟩, ⟨47, 40, .rc, 0⟩, ⟨39, 32, .rc, 0⟩, ⟨31, 16, .rc, 0⟩, ⟨15, 0, .rc, 0⟩]⟩]

/-- Block 0x02, part 0 (R471). -/
def regRows02_0 : List RegRow := [
  ⟨Reg.SES_CTRL, true, .plain, [⟨63, 48, .rwl, 0⟩, ⟨0, 0, .rw, 1⟩]⟩,
  ⟨Reg.SES_TABLE, true, .plain, [⟨47, 7, .rwl, 0⟩]⟩,
  ⟨Reg.SES_LEASE, true, .plain, [⟨63, 32, .rwl, 0⟩, ⟨31, 0, .rwl, 0⟩]⟩,
  ⟨Reg.SES_BOUNDARY, true, .plain, [⟨47, 0, .ro, 0⟩]⟩,
  ⟨Reg.SES_COUNT0, true, .plain, [⟨59, 40, .ro, 0⟩, ⟨39, 20, .ro, 0⟩, ⟨19, 0, .ro, 524288⟩]⟩,
  ⟨Reg.SES_COUNT1, true, .plain, [⟨59, 40, .ro, 0⟩, ⟨39, 20, .ro, 0⟩, ⟨19, 0, .ro, 0⟩]⟩,
  ⟨Reg.SES_HELD_NEXT, true, .plain, [⟨63, 63, .rc, 0⟩, ⟨19, 0, .rc, 0⟩]⟩,
  ⟨Reg.SES_REC_SEL, true, .requester, [⟨19, 0, .rw, 0⟩]⟩,
  ⟨Reg.SES_REC0, true, .slot, [⟨63, 0, .ro, 0⟩]⟩,
  ⟨Reg.SES_REC1, true, .slot, [⟨63, 0, .ro, 0⟩]⟩,
  ⟨Reg.SES_REC2, true, .slot, [⟨63, 0, .ro, 0⟩]⟩,
  ⟨Reg.SES_REC3, true, .slot, [⟨63, 0, .ro, 0⟩]⟩,
  ⟨Reg.SES_REC4, true, .slot, [⟨63, 0, .ro, 0⟩]⟩,
  ⟨Reg.SES_REC5, true, .slot, [⟨63, 0, .ro, 0⟩]⟩,
  ⟨Reg.SES_REC6, true, .slot, [⟨63, 0, .ro, 0⟩]⟩,
  ⟨Reg.SES_REC7, true, .slot, [⟨63, 0, .ro, 0⟩]⟩,
  ⟨Reg.SES_REC8, true, .slot, [⟨63, 0, .ro, 0⟩]⟩,
  ⟨Reg.SES_REC9, true, .slot, [⟨63, 0, .ro, 0⟩]⟩,
  ⟨Reg.SES_REC10, true, .slot, [⟨63, 0, .ro, 0⟩]⟩,
  ⟨Reg.SES_REC11, true, .slot, [⟨63, 0, .ro, 0⟩]⟩,
  ⟨Reg.SES_REC12, true, .slot, [⟨63, 0, .ro, 0⟩]⟩,
  ⟨Reg.SES_REC13, true, .slot, [⟨63, 0, .ro, 0⟩]⟩,
  ⟨Reg.SES_REC14, true, .slot, [⟨63, 0, .ro, 0⟩]⟩,
  ⟨Reg.SES_REC15, true, .slot, [⟨63, 0, .ro, 0⟩]⟩]

/-- Block 0x02, part 1 (R471). -/
def regRows02_1 : List RegRow := [
  ⟨Reg.SES_OUTCOME0, true, .plain, [⟨63, 48, .rc, 0⟩, ⟨47, 32, .rc, 0⟩, ⟨31, 16, .rc, 0⟩, ⟨15, 0, .rc, 0⟩]⟩,
  ⟨Reg.SES_OUTCOME1, true, .plain, [⟨63, 48, .rc, 0⟩, ⟨47, 32, .rc, 0⟩, ⟨31, 16, .rc, 0⟩, ⟨15, 0, .rc, 0⟩]⟩,
  ⟨Reg.CTX_SEL, true, .requester, [⟨11, 0, .rw, 0⟩]⟩,
  ⟨Reg.CTX_STATE, true, .ctx, [⟨63, 44, .ro, 0⟩, ⟨43, 24, .rw, 0⟩, ⟨8, 8, .ro, 0⟩, ⟨3, 0, .ro, 0⟩]⟩,
  ⟨Reg.CTX_QUOTA_T0, true, .ctx, [⟨43, 0, .rw, 0⟩]⟩,
  ⟨Reg.CTX_QUOTA_T1, true, .ctx, [⟨43, 0, .rw, 0⟩]⟩,
  ⟨Reg.CTX_QUOTA_T2, true, .ctx, [⟨43, 0, .rw, 0⟩]⟩,
  ⟨Reg.CTX_QUOTA_T3, true, .ctx, [⟨43, 0, .rw, 0⟩]⟩,
  ⟨Reg.CTX_USE_T0, true, .ctx, [⟨43, 0, .ro, 0⟩]⟩,
  ⟨Reg.CTX_USE_T1, true, .ctx, [⟨43, 0, .ro, 0⟩]⟩,
  ⟨Reg.CTX_USE_T2, true, .ctx, [⟨43, 0, .ro, 0⟩]⟩,
  ⟨Reg.CTX_USE_T3, true, .ctx, [⟨43, 0, .ro, 0⟩]⟩,
  ⟨Reg.CTX_DEMOTED, true, .ctx, [⟨43, 0, .rc, 0⟩]⟩]

/-- Block 0x03, part 0 (R471). -/
def regRows03_0 : List RegRow := [
  ⟨Reg.XL_CTRL, true, .plain, [⟨11, 8, .rwl, 4⟩, ⟨0, 0, .rw, 1⟩]⟩,
  ⟨Reg.XL_ROOT, true, .plain, [⟨39, 0, .rwl, 0⟩]⟩,
  ⟨Reg.XL_SPT, true, .plain, [⟨63, 40, .rwl, 0⟩, ⟨39, 0, .rwl, 0⟩]⟩,
  ⟨Reg.XL_SPT_USE, true, .plain, [⟨23, 0, .ro, 0⟩]⟩,
  ⟨Reg.XL_TLB_STAT, true, .plain, [⟨63, 32, .rc, 0⟩, ⟨31, 16, .rc, 0⟩, ⟨15, 0, .rc, 0⟩]⟩,
  ⟨Reg.XL_INVAL, true, .plain, [⟨63, 48, .wo, 0⟩, ⟨47, 0, .wo, 0⟩]⟩,
  ⟨Reg.XL_PROBE, true, .plain, [⟨47, 0, .rw, 0⟩]⟩,
  ⟨Reg.XL_PROBE_RESULT, true, .plain, [⟨63, 0, .ro, 0⟩]⟩,
  ⟨Reg.XL_CTX_RETAIN, true, .ctx, [⟨12, 0, .rw, 0⟩]⟩,
  ⟨Reg.XL_COUNTS, true, .plain, [⟨63, 48, .rc, 0⟩, ⟨47, 32, .rc, 0⟩, ⟨31, 16, .rc, 0⟩, ⟨15, 0, .rc, 0⟩]⟩,
  ⟨Reg.PK_CTX_ENC, true, .ctx, [⟨23, 20, .rw, 0⟩, ⟨19, 16, .rw, 0⟩, ⟨9, 9, .rw, 0⟩, ⟨8, 8, .rw, 0⟩, ⟨3, 2, .rw, 0⟩, ⟨1, 0, .rw, 0⟩]⟩,
  ⟨Reg.PK_CTRL, true, .plain, [⟨0, 0, .rw, 1⟩]⟩,
  ⟨Reg.PK_COUNTS, true, .plain, [⟨63, 48, .rc, 0⟩, ⟨47, 32, .rc, 0⟩, ⟨31, 16, .rc, 0⟩, ⟨15, 0, .rc, 0⟩]⟩,
  ⟨Reg.PK_CTX_CLAMP, true, .ctx, [⟨63, 32, .rc, 0⟩, ⟨31, 0, .rc, 0⟩]⟩,
  ⟨Reg.PK_LAST_FAIL, true, .plain, [⟨63, 62, .ro, 0⟩, ⟨61, 60, .ro, 0⟩, ⟨45, 40, .ro, 0⟩, ⟨39, 0, .ro, 0⟩]⟩]

/-- Block 0x04, part 0 (R471). -/
def regRows04_0 : List RegRow := [
  ⟨Reg.ATN_CTRL, true, .plain, [⟨1, 1, .rw, 1⟩, ⟨0, 0, .rw, 1⟩]⟩,
  ⟨Reg.ATN_STORE, true, .plain, [⟨63, 40, .rwl, 0⟩, ⟨39, 0, .rwl, 0⟩]⟩,
  ⟨Reg.ATN_STORE_USE, true, .plain, [⟨23, 0, .ro, 0⟩]⟩,
  ⟨Reg.ATN_FANOUT, true, .plain, [⟨63, 32, .rw, 0⟩, ⟨31, 16, .rw, 0⟩, ⟨6, 0, .rw, 64⟩]⟩,
  ⟨Reg.ATN_T0_BUDGET, true, .plain, [⟨31, 0, .rw, 0⟩]⟩,
  ⟨Reg.ATN_COUNTS0, true, .plain, [⟨63, 48, .rc, 0⟩, ⟨47, 32, .rc, 0⟩, ⟨31, 16, .rc, 0⟩, ⟨15, 0, .rc, 0⟩]⟩,
  ⟨Reg.ATN_COUNTS1, true, .plain, [⟨63, 48, .rc, 0⟩, ⟨47, 32, .rc, 0⟩, ⟨31, 16, .rc, 0⟩, ⟨15, 0, .rc, 0⟩]⟩,
  ⟨Reg.ATN_FANOUT_JOINS, true, .plain, [⟨63, 0, .rc, 0⟩]⟩,
  ⟨Reg.ATN_LAST_MISS_POS, true, .plain, [⟨63, 0, .ro, 0⟩]⟩,
  ⟨Reg.ATN_LAST_MISS_SLOT, true, .plain, [⟨19, 0, .ro, 0⟩]⟩,
  ⟨Reg.ATN_CTX_MODE, true, .ctx, [⟨31, 24, .rw, 0⟩, ⟨23, 16, .rw, 0⟩, ⟨4, 4, .rw, 0⟩, ⟨3, 2, .rw, 0⟩, ⟨1, 0, .rw, 0⟩]⟩,
  ⟨Reg.ATN_CTX_SCALE, true, .ctx, [⟨31, 0, .rw, 0⟩]⟩,
  ⟨Reg.ATN_CTX_RES, true, .ctx, [⟨47, 24, .ro, 0⟩, ⟨23, 0, .rw, 0⟩]⟩]

/-- Block 0x05, part 0 (R471). -/
def regRows05_0 : List RegRow := [
  ⟨Reg.FIN_CTRL, true, .plain, [⟨24, 16, .ro, 0⟩, ⟨0, 0, .rw, 1⟩]⟩,
  ⟨Reg.FIN_CTRL_FLUSH, true, .plain, [⟨63, 0, .rwl, 0⟩]⟩,
  ⟨Reg.FIN_GSTORE, true, .plain, [⟨63, 40, .rwl, 0⟩, ⟨39, 0, .rwl, 0⟩]⟩,
  ⟨Reg.FIN_GRAM_SEL, true, .requester, [⟨11, 0, .rw, 0⟩]⟩,
  ⟨Reg.FIN_GRAM_INFO, true, .grammar, [⟨63, 63, .ro, 0⟩, ⟨48, 32, .ro, 0⟩, ⟨19, 0, .ro, 0⟩]⟩,
  ⟨Reg.FIN_COUNTS0, true, .plain, [⟨63, 48, .rc, 0⟩, ⟨47, 32, .rc, 0⟩, ⟨31, 16, .rc, 0⟩, ⟨15, 0, .rc, 0⟩]⟩,
  ⟨Reg.FIN_COUNTS1, true, .plain, [⟨63, 48, .rc, 0⟩, ⟨47, 32, .rc, 0⟩, ⟨31, 16, .rc, 0⟩, ⟨15, 0, .rc, 0⟩]⟩,
  ⟨Reg.FIN_DRAWS, true, .plain, [⟨63, 0, .rc, 0⟩]⟩,
  ⟨Reg.FIN_CTX_PEN, true, .ctx, [⟨14, 0, .rw, 0⟩]⟩]

/-- Block 0x06, part 0 (R471). -/
def regRows06_0 : List RegRow := [
  ⟨Reg.TR_CTRL, true, .plain, [⟨63, 32, .rw, 0⟩, ⟨25, 16, .rw, 0⟩, ⟨0, 0, .rw, 1⟩]⟩,
  ⟨Reg.TR_RATE, true, .plain, [⟨31, 0, .rw, 0⟩]⟩,
  ⟨Reg.TR_WATER_T1, true, .plain, [⟨63, 32, .rw, 0⟩, ⟨31, 0, .rw, 0⟩]⟩,
  ⟨Reg.TR_WATER_T2, true, .plain, [⟨63, 32, .rw, 0⟩, ⟨31, 0, .rw, 0⟩]⟩,
  ⟨Reg.TR_SIZE_T1, true, .plain, [⟨43, 0, .rwl, 0⟩]⟩,
  ⟨Reg.TR_SIZE_T2, true, .plain, [⟨43, 0, .rwl, 0⟩]⟩,
  ⟨Reg.TR_SIZE_T3, true, .plain, [⟨43, 0, .rwl, 0⟩]⟩,
  ⟨Reg.TR_FREE_T1, true, .plain, [⟨43, 0, .ro, 0⟩]⟩,
  ⟨Reg.TR_FREE_T2, true, .plain, [⟨43, 0, .ro, 0⟩]⟩,
  ⟨Reg.TR_FREE_T3, true, .plain, [⟨43, 0, .ro, 0⟩]⟩,
  ⟨Reg.TR_COUNTS, true, .plain, [⟨63, 48, .rc, 0⟩, ⟨47, 32, .rc, 0⟩, ⟨31, 16, .rc, 0⟩, ⟨15, 0, .rc, 0⟩]⟩,
  ⟨Reg.TR_MOVED, true, .plain, [⟨63, 32, .rc, 0⟩, ⟨31, 0, .rc, 0⟩]⟩]

/-- Block 0x07, part 0 (R471). -/
def regRows07_0 : List RegRow := [
  ⟨Reg.MC_SEL, true, .requester, [⟨2, 0, .rw, 0⟩]⟩,
  ⟨Reg.MC_DEGRADE, true, .cluster, [⟨15, 8, .ro, 0⟩, ⟨7, 0, .rw, 0⟩]⟩,
  ⟨Reg.MC_SCRUB, true, .plain, [⟨32, 32, .rw, 1⟩, ⟨31, 0, .rw, 0⟩]⟩,
  ⟨Reg.MC_CE, true, .cluster, [⟨63, 48, .rw, 0⟩, ⟨47, 32, .rw, 0⟩, ⟨31, 0, .ro, 0⟩]⟩,
  ⟨Reg.MC_COUNTS, true, .cluster, [⟨63, 48, .rc, 0⟩, ⟨47, 32, .rc, 0⟩, ⟨31, 16, .rc, 0⟩, ⟨15, 0, .rc, 0⟩]⟩,
  ⟨Reg.MC_ERRLOG, true, .plain, [⟨63, 63, .w1c, 0⟩, ⟨62, 40, .rwl, 0⟩, ⟨39, 0, .rwl, 0⟩]⟩,
  ⟨Reg.MC_ERRLOG_HEAD, true, .plain, [⟨31, 0, .ro, 0⟩]⟩,
  ⟨Reg.MC_RETIRE, true, .plain, [⟨63, 63, .wo, 0⟩, ⟨62, 62, .wo, 0⟩, ⟨61, 59, .wo, 0⟩, ⟨26, 23, .wo, 0⟩, ⟨22, 0, .wo, 0⟩]⟩,
  ⟨Reg.MC_RETIRE_STATUS, true, .plain, [⟨63, 63, .ro, 0⟩, ⟨62, 62, .w1c, 0⟩, ⟨31, 0, .ro, 0⟩]⟩,
  ⟨Reg.MC_TEST_CTRL, true, .plain, [⟨10, 8, .ro, 0⟩, ⟨7, 7, .ro, 0⟩, ⟨6, 4, .rw, 0⟩, ⟨1, 1, .wo, 0⟩, ⟨0, 0, .rw, 0⟩]⟩,
  ⟨Reg.MC_TEST_ADDR, true, .plain, [⟨33, 31, .rw, 0⟩, ⟨22, 0, .rw, 0⟩]⟩,
  ⟨Reg.MC_TEST_DATA0, true, .plain, [⟨63, 0, .rw, 0⟩]⟩,
  ⟨Reg.MC_TEST_DATA1, true, .plain, [⟨63, 0, .rw, 0⟩]⟩,
  ⟨Reg.MC_TEST_DATA2, true, .plain, [⟨63, 0, .rw, 0⟩]⟩,
  ⟨Reg.MC_TEST_DATA3, true, .plain, [⟨63, 0, .rw, 0⟩]⟩,
  ⟨Reg.MC_TEST_DATA4, true, .plain, [⟨63, 0, .rw, 0⟩]⟩,
  ⟨Reg.MC_TEST_DATA5, true, .plain, [⟨63, 0, .rw, 0⟩]⟩,
  ⟨Reg.MC_TEST_DATA6, true, .plain, [⟨63, 0, .rw, 0⟩]⟩,
  ⟨Reg.MC_TEST_DATA7, true, .plain, [⟨63, 0, .rw, 0⟩]⟩,
  ⟨Reg.MC_TEST_CHECK, true, .plain, [⟨20, 16, .rw, 0⟩, ⟨15, 0, .rw, 0⟩]⟩,
  ⟨Reg.MC_TEST_REGION, true, .cluster, [⟨43, 22, .rwl, 0⟩, ⟨21, 0, .rwl, 0⟩]⟩]

/-- Block 0x08, part 0 (R471). -/
def regRows08_0 : List RegRow := [
  ⟨Reg.WK_CTRL, true, .plain, [⟨1, 1, .rw, 1⟩, ⟨0, 0, .rw, 1⟩]⟩,
  ⟨Reg.WK_GEOM, true, .plain, [⟨63, 62, .rwl, 0⟩, ⟨61, 58, .rwl, 0⟩, ⟨57, 54, .rwl, 0⟩, ⟨53, 32, .rwl, 0⟩, ⟨12, 0, .rwl, 0⟩]⟩,
  ⟨Reg.WK_SEGTAB, true, .plain, [⟨39, 0, .rwl, 0⟩]⟩,
  ⟨Reg.WK_IDXTAB, true, .plain, [⟨39, 0, .rwl, 0⟩]⟩,
  ⟨Reg.WK_DEGRADE, true, .plain, [⟨31, 16, .ro, 0⟩, ⟨15, 0, .rw, 0⟩]⟩,
  ⟨Reg.WK_SEG_FREE, true, .plain, [⟨63, 32, .ro, 0⟩, ⟨31, 0, .ro, 0⟩]⟩,
  ⟨Reg.WK_GC, true, .plain, [⟨63, 63, .wo, 0⟩, ⟨62, 62, .wo, 0⟩, ⟨31, 0, .wo, 0⟩]⟩,
  ⟨Reg.WK_GC_STATUS, true, .plain, [⟨63, 63, .ro, 0⟩, ⟨62, 62, .ro, 0⟩, ⟨57, 56, .w1c, 0⟩, ⟨55, 0, .rc, 0⟩]⟩,
  ⟨Reg.WK_GC_RESERVE, true, .plain, [⟨31, 0, .rwl, 0⟩]⟩,
  ⟨Reg.WK_BATCH, true, .plain, [⟨63, 48, .rw, 0⟩, ⟨40, 32, .rw, 0⟩, ⟨31, 0, .rw, 0⟩]⟩,
  ⟨Reg.WK_LDPC, true, .plain, [⟨7, 0, .rw, 0⟩]⟩,
  ⟨Reg.WK_COUNTS0, true, .plain, [⟨63, 48, .rc, 0⟩, ⟨47, 32, .rc, 0⟩, ⟨31, 16, .rc, 0⟩, ⟨15, 0, .rc, 0⟩]⟩,
  ⟨Reg.WK_COUNTS1, true, .plain, [⟨63, 48, .rc, 0⟩, ⟨47, 32, .rc, 0⟩, ⟨31, 16, .rc, 0⟩, ⟨15, 0, .rc, 0⟩]⟩,
  ⟨Reg.WK_IDX_SEL, true, .requester, [⟨9, 0, .rw, 0⟩]⟩,
  ⟨Reg.WK_IDX_INFO, true, .index, [⟨63, 63, .ro, 0⟩, ⟨62, 62, .ro, 0⟩, ⟨43, 32, .ro, 0⟩, ⟨31, 0, .ro, 0⟩]⟩,
  ⟨Reg.WK_IDX_MARK, true, .index, [⟨63, 0, .ro, 0⟩]⟩,
  ⟨Reg.WK_MERGE, true, .index, [⟨63, 63, .wo, 0⟩, ⟨39, 0, .rw, 0⟩]⟩,
  ⟨Reg.WK_MERGE_STATUS, true, .index, [⟨63, 63, .w1c, 0⟩, ⟨62, 62, .ro, 0⟩, ⟨31, 0, .ro, 0⟩]⟩]

/-- Block 0x09, part 0 (R471). -/
def regRows09_0 : List RegRow := [
  ⟨Reg.ETH_PORT_SEL, true, .requester, [⟨5, 0, .rw, 0⟩]⟩,
  ⟨Reg.ETH_PORT_CFG, true, .ethPort, [⟨63, 48, .rwl, 0⟩, ⟨34, 32, .rwl, 0⟩, ⟨26, 26, .rwl, 0⟩, ⟨25, 25, .rwl, 0⟩, ⟨24, 24, .rwl, 0⟩, ⟨17, 16, .rwl, 0⟩, ⟨9, 8, .rwl, 0⟩]⟩,
  ⟨Reg.ETH_PORT_STATUS, true, .ethPort, [⟨63, 32, .rc, 0⟩, ⟨3, 3, .ro, 0⟩, ⟨2, 2, .ro, 0⟩, ⟨1, 1, .ro, 0⟩, ⟨0, 0, .ro, 0⟩]⟩,
  ⟨Reg.ETH_FEC, true, .ethPort, [⟨63, 32, .rc, 0⟩, ⟨31, 0, .rc, 0⟩]⟩,
  ⟨Reg.ETH_PFC, true, .ethPort, [⟨63, 56, .rwl, 0⟩, ⟨55, 40, .rwl, 0⟩, ⟨39, 24, .rwl, 0⟩, ⟨23, 16, .ro, 0⟩, ⟨15, 0, .rc, 0⟩]⟩,
  ⟨Reg.ETH_PTP, true, .plain, [⟨63, 32, .rwl, 0⟩, ⟨7, 2, .ro, 0⟩, ⟨1, 1, .rwl, 1⟩, ⟨0, 0, .ro, 0⟩]⟩,
  ⟨Reg.ETH_PTP_OFFSET, true, .plain, [⟨63, 0, .ro, 0⟩]⟩,
  ⟨Reg.ETH_DROPS, true, .ethPort, [⟨63, 32, .rc, 0⟩, ⟨31, 0, .rc, 0⟩]⟩]

/-- Block 0x0A, part 0 (R471). -/
def regRows0A_0 : List RegRow := [
  ⟨Reg.GSP_CTRL, true, .plain, [⟨63, 48, .rwl, 47160⟩, ⟨47, 32, .ro, 0⟩, ⟨0, 0, .rw, 1⟩]⟩,
  ⟨Reg.GSP_LIMITS, true, .plain, [⟨63, 40, .rwl, 1114112⟩, ⟨39, 20, .rw, 2000⟩, ⟨19, 0, .rwl, 0⟩]⟩,
  ⟨Reg.GSP_DROPS, true, .plain, [⟨63, 48, .rc, 0⟩, ⟨47, 32, .rc, 0⟩, ⟨31, 16, .rc, 0⟩, ⟨15, 0, .rc, 0⟩]⟩,
  ⟨Reg.GSP_BAD, true, .plain, [⟨63, 48, .rc, 0⟩, ⟨47, 32, .rc, 0⟩, ⟨31, 16, .rc, 0⟩, ⟨15, 0, .rc, 0⟩]⟩,
  ⟨Reg.GSP_LAST_BAD, true, .plain, [⟨63, 48, .ro, 0⟩, ⟨47, 32, .ro, 0⟩, ⟨31, 24, .ro, 0⟩, ⟨23, 16, .ro, 0⟩, ⟨5, 0, .ro, 0⟩]⟩,
  ⟨Reg.GSP_RDMA_CFG, true, .plain, [⟨63, 61, .rwl, 7⟩, ⟨60, 48, .rw, 50⟩, ⟨47, 40, .rw, 128⟩, ⟨39, 24, .rw, 5000⟩, ⟨23, 0, .rw, 300⟩]⟩,
  ⟨Reg.GSP_RDMA_COUNTS, true, .plain, [⟨63, 48, .rc, 0⟩, ⟨47, 32, .rc, 0⟩, ⟨31, 16, .rc, 0⟩, ⟨15, 0, .rc, 0⟩]⟩,
  ⟨Reg.GSP_EP_SEL, true, .requester, [⟨15, 0, .rw, 0⟩]⟩,
  ⟨Reg.GSP_EP_INFO, true, .endpoint, [⟨63, 32, .rc, 0⟩, ⟨11, 8, .ro, 0⟩, ⟨4, 4, .ro, 0⟩, ⟨2, 0, .ro, 0⟩]⟩]

/-- Block 0x0B, part 0 (R471). -/
def regRows0B_0 : List RegRow := [
  ⟨Reg.CH_CTRL, true, .plain, [⟨63, 48, .rw, 0⟩, ⟨47, 16, .rwl, 0⟩]⟩,
  ⟨Reg.CH_PORT_SEL, true, .requester, [⟨5, 0, .rw, 0⟩]⟩,
  ⟨Reg.CH_PORT_CFG, true, .chPort, [⟨63, 48, .rw, 0⟩, ⟨47, 40, .rw, 20⟩, ⟨31, 0, .ro, 0⟩]⟩,
  ⟨Reg.CH_CLASS_MAP, true, .plain, [⟨26, 24, .rwl, 7⟩, ⟨22, 20, .rwl, 7⟩, ⟨18, 16, .rwl, 1⟩, ⟨14, 12, .rwl, 7⟩, ⟨10, 8, .rwl, 4⟩, ⟨6, 4, .rwl, 5⟩, ⟨2, 0, .rwl, 6⟩]⟩,
  ⟨Reg.CH_GATE_CTRL, true, .chPort, [⟨63, 63, .wo, 0⟩, ⟨62, 62, .ro, 0⟩, ⟨61, 61, .w1c, 0⟩, ⟨60, 59, .ro, 0⟩, ⟨24, 24, .ro, 0⟩, ⟨23, 16, .ro, 0⟩, ⟨8, 8, .rw, 0⟩, ⟨7, 0, .rw, 0⟩]⟩,
  ⟨Reg.CH_GATE_SEL, true, .requester, [⟨5, 0, .rw, 0⟩]⟩,
  ⟨Reg.CH_GATE_NEXT, true, .chGate, [⟨63, 63, .rw, 0⟩, ⟨62, 62, .rw, 0⟩, ⟨61, 61, .rw, 0⟩, ⟨60, 60, .rw, 0⟩, ⟨38, 32, .rw, 0⟩, ⟨31, 24, .rw, 0⟩, ⟨16, 8, .rw, 0⟩, ⟨7, 0, .rw, 0⟩]⟩,
  ⟨Reg.CH_GATE_ACTIVE, true, .chGate, [⟨63, 63, .ro, 0⟩, ⟨62, 62, .ro, 0⟩, ⟨61, 61, .ro, 0⟩, ⟨60, 60, .ro, 0⟩, ⟨38, 32, .ro, 0⟩, ⟨31, 24, .ro, 0⟩, ⟨16, 8, .ro, 0⟩, ⟨7, 0, .ro, 0⟩]⟩,
  ⟨Reg.CH_OPEN, true, .chPort, [⟨15, 8, .ro, 0⟩, ⟨7, 0, .ro, 255⟩]⟩,
  ⟨Reg.CH_SHAPER0, true, .chPort, [⟨63, 63, .rw, 0⟩, ⟨55, 32, .rw, 0⟩, ⟨31, 0, .rw, 0⟩]⟩,
  ⟨Reg.CH_SHAPER1, true, .chPort, [⟨63, 63, .rw, 0⟩, ⟨55, 32, .rw, 0⟩, ⟨31, 0, .rw, 0⟩]⟩,
  ⟨Reg.CH_SHAPER2, true, .chPort, [⟨63, 63, .rw, 0⟩, ⟨55, 32, .rw, 0⟩, ⟨31, 0, .rw, 0⟩]⟩,
  ⟨Reg.CH_SHAPER3, true, .chPort, [⟨63, 63, .rw, 0⟩, ⟨55, 32, .rw, 0⟩, ⟨31, 0, .rw, 0⟩]⟩,
  ⟨Reg.CH_SHAPER4, true, .chPort, [⟨63, 63, .rw, 0⟩, ⟨55, 32, .rw, 0⟩, ⟨31, 0, .rw, 0⟩]⟩,
  ⟨Reg.CH_SHAPER5, true, .chPort, [⟨63, 63, .rw, 0⟩, ⟨55, 32, .rw, 0⟩, ⟨31, 0, .rw, 0⟩]⟩,
  ⟨Reg.CH_SHAPER6, true, .chPort, [⟨63, 63, .rw, 0⟩, ⟨55, 32, .rw, 0⟩, ⟨31, 0, .rw, 0⟩]⟩,
  ⟨Reg.CH_SHAPER7, true, .chPort, [⟨63, 63, .rw, 0⟩, ⟨55, 32, .rw, 0⟩, ⟨31, 0, .rw, 0⟩]⟩,
  ⟨Reg.CH_CREDIT0, true, .chPort, [⟨63, 0, .ro, 0⟩]⟩,
  ⟨Reg.CH_CREDIT1, true, .chPort, [⟨63, 0, .ro, 0⟩]⟩,
  ⟨Reg.CH_CREDIT2, true, .chPort, [⟨63, 0, .ro, 0⟩]⟩,
  ⟨Reg.CH_CREDIT3, true, .chPort, [⟨63, 0, .ro, 0⟩]⟩,
  ⟨Reg.CH_CREDIT4, true, .chPort, [⟨63, 0, .ro, 0⟩]⟩,
  ⟨Reg.CH_CREDIT5, true, .chPort, [⟨63, 0, .ro, 0⟩]⟩,
  ⟨Reg.CH_CREDIT6, true, .chPort, [⟨63, 0, .ro, 0⟩]⟩]

/-- Block 0x0B, part 1 (R471). -/
def regRows0B_1 : List RegRow := [
  ⟨Reg.CH_CREDIT7, true, .chPort, [⟨63, 0, .ro, 0⟩]⟩,
  ⟨Reg.CH_COUNTS, true, .chPort, [⟨63, 48, .rc, 0⟩, ⟨47, 32, .rc, 0⟩, ⟨31, 16, .rc, 0⟩, ⟨15, 0, .rc, 0⟩]⟩,
  ⟨Reg.CH_CTX_WEIGHT, true, .ctx, [⟨15, 0, .rw, 0⟩]⟩]

/-- Block 0x0C, part 0 (R471). -/
def regRows0C_0 : List RegRow := [
  ⟨Reg.TL_CTRL, true, .plain, [⟨0, 0, .rw, 1⟩]⟩,
  ⟨Reg.TL_SEL, true, .requester, [⟨14, 0, .rw, 0⟩]⟩,
  ⟨Reg.TL_VALUE, true, .tally, [⟨63, 0, .ro, 0⟩]⟩,
  ⟨Reg.TL_DESC, true, .tally, [⟨63, 48, .rw, 0⟩, ⟨43, 32, .ro, 0⟩, ⟨31, 24, .rw, 0⟩, ⟨6, 6, .rw, 0⟩, ⟨5, 5, .ro, 0⟩, ⟨4, 4, .w1c, 0⟩, ⟨3, 3, .w1c, 0⟩, ⟨1, 0, .rw, 0⟩]⟩,
  ⟨Reg.TL_PAIR, true, .tally, [⟨46, 32, .rw, 0⟩, ⟨31, 0, .rw, 0⟩]⟩,
  ⟨Reg.TL_EXPECT, true, .tally, [⟨63, 0, .rw, 0⟩]⟩,
  ⟨Reg.TL_ADD, true, .plain, [⟨63, 63, .wo, 0⟩, ⟨62, 0, .wo, 0⟩]⟩,
  ⟨Reg.TL_ADD_STATUS, true, .requester, [⟨15, 8, .ro, 0⟩, ⟨7, 0, .ro, 0⟩]⟩,
  ⟨Reg.TL_WOKEN0, true, .plain, [⟨63, 0, .rc, 0⟩]⟩,
  ⟨Reg.TL_WOKEN1, true, .plain, [⟨63, 0, .rc, 0⟩]⟩,
  ⟨Reg.TL_WOKEN2, true, .plain, [⟨63, 0, .rc, 0⟩]⟩,
  ⟨Reg.TL_WOKEN3, true, .plain, [⟨63, 0, .rc, 0⟩]⟩,
  ⟨Reg.TL_FIRE, true, .plain, [⟨7, 0, .wo, 0⟩]⟩,
  ⟨Reg.TL_SLEEP, true, .plain, [⟨7, 0, .wo, 0⟩]⟩,
  ⟨Reg.TL_COUNTS, true, .plain, [⟨63, 48, .rc, 0⟩, ⟨47, 32, .rc, 0⟩, ⟨31, 16, .rc, 0⟩, ⟨15, 0, .rc, 0⟩]⟩,
  ⟨Reg.TL_CTX_RANGE, true, .ctx, [⟨47, 32, .rwl, 0⟩, ⟨14, 0, .rwl, 0⟩]⟩]

/-- Block 0x0D, part 0 (R471). -/
def regRows0D_0 : List RegRow := [
  ⟨Reg.LP_STATUS, true, .plain, [⟨63, 32, .ro, 0⟩, ⟨15, 8, .ro, 0⟩, ⟨1, 1, .ro, 0⟩, ⟨0, 0, .ro, 0⟩]⟩,
  ⟨Reg.LP_TRACK, true, .plain, [⟨63, 32, .rw, 0⟩, ⟨31, 16, .rc, 0⟩, ⟨15, 0, .ro, 0⟩]⟩,
  ⟨Reg.LP_TRACK_OLDEST, true, .plain, [⟨63, 32, .ro, 0⟩, ⟨31, 24, .ro, 0⟩, ⟨15, 0, .ro, 0⟩]⟩,
  ⟨Reg.LP_LIMIT_STAT, true, .plain, [⟨63, 48, .rc, 0⟩, ⟨47, 44, .ro, 0⟩, ⟨43, 36, .ro, 0⟩]⟩,
  ⟨Reg.LP_TASK, true, .requester, [⟨63, 63, .rw, 0⟩, ⟨11, 0, .rw, 0⟩]⟩,
  ⟨Reg.LP_FILL, true, .plain, [⟨63, 63, .wo, 0⟩, ⟨62, 47, .wo, 0⟩, ⟨46, 6, .wo, 0⟩]⟩,
  ⟨Reg.LP_SCRUB_NEXT, true, .plain, [⟨63, 63, .rc, 0⟩, ⟨31, 0, .rc, 0⟩]⟩,
  ⟨Reg.LP_SCRUB_DONE, true, .plain, [⟨31, 0, .wo, 0⟩]⟩,
  ⟨Reg.LP_SCRUB_STATUS, true, .plain, [⟨63, 63, .w1c, 0⟩, ⟨62, 32, .ro, 0⟩, ⟨31, 0, .ro, 0⟩]⟩,
  ⟨Reg.LP_SCRUB, true, .plain, [⟨39, 32, .rw, 0⟩, ⟨31, 0, .rw, 16000⟩]⟩,
  ⟨Reg.LP_SCRUB_Q, true, .plain, [⟨39, 0, .rwl, 0⟩]⟩,
  ⟨Reg.LP_HOME_MAP, true, .plain, [⟨39, 0, .rwl, 0⟩]⟩,
  ⟨Reg.LP_SVC_CMD0, true, .plain, [⟨63, 0, .rw, 0⟩]⟩,
  ⟨Reg.LP_SVC_CMD1, true, .plain, [⟨63, 0, .rw, 0⟩]⟩,
  ⟨Reg.LP_SVC_CMD2, true, .plain, [⟨63, 0, .rw, 0⟩]⟩,
  ⟨Reg.LP_SVC_CMD3, true, .plain, [⟨63, 0, .rw, 0⟩]⟩,
  ⟨Reg.LP_SVC_CMD4, true, .plain, [⟨63, 0, .rw, 0⟩]⟩,
  ⟨Reg.LP_SVC_CMD5, true, .plain, [⟨63, 0, .rw, 0⟩]⟩,
  ⟨Reg.LP_SVC_CMD6, true, .plain, [⟨63, 0, .rw, 0⟩]⟩,
  ⟨Reg.LP_SVC_CMD7, true, .plain, [⟨63, 0, .rw, 0⟩]⟩,
  ⟨Reg.LP_SVC_CTRL, true, .plain, [⟨63, 63, .wo, 0⟩, ⟨62, 62, .ro, 0⟩, ⟨39, 32, .ro, 0⟩, ⟨31, 0, .ro, 0⟩]⟩,
  ⟨Reg.LP_CTX_PLACE, true, .ctx, [⟨9, 9, .rwl, 0⟩, ⟨8, 8, .rw, 0⟩, ⟨7, 0, .rw, 0⟩]⟩,
  ⟨Reg.LP_CTX_CTRL, true, .ctx, [⟨63, 63, .wo, 0⟩, ⟨7, 7, .ro, 0⟩, ⟨6, 6, .ro, 0⟩, ⟨1, 0, .ro, 0⟩]⟩]

/-- Block 0x0E, part 0 (R471). -/
def regRows0E_0 : List RegRow := [
  ⟨Reg.SEAL_LC, false, .plain, [⟨31, 24, .ro, 0⟩, ⟨17, 17, .ro, 0⟩, ⟨16, 16, .ro, 0⟩, ⟨13, 12, .ro, 0⟩, ⟨8, 8, .ro, 0⟩, ⟨7, 7, .ro, 0⟩, ⟨6, 4, .ro, 0⟩, ⟨2, 0, .ro, 0⟩]⟩,
  ⟨Reg.SEAL_WIN_SEL, false, .requester, [⟨18, 16, .rw, 0⟩, ⟨5, 0, .rw, 0⟩]⟩,
  ⟨Reg.SEAL_WIN_DATA0, false, .window, [⟨63, 0, .rw, 0⟩]⟩,
  ⟨Reg.SEAL_WIN_DATA1, false, .window, [⟨63, 0, .rw, 0⟩]⟩,
  ⟨Reg.SEAL_WIN_DATA2, false, .window, [⟨63, 0, .rw, 0⟩]⟩,
  ⟨Reg.SEAL_WIN_DATA3, false, .window, [⟨63, 0, .rw, 0⟩]⟩,
  ⟨Reg.SEAL_WIN_DATA4, false, .window, [⟨63, 0, .rw, 0⟩]⟩,
  ⟨Reg.SEAL_WIN_DATA5, false, .window, [⟨63, 0, .rw, 0⟩]⟩,
  ⟨Reg.SEAL_WIN_DATA6, false, .window, [⟨63, 0, .rw, 0⟩]⟩,
  ⟨Reg.SEAL_WIN_DATA7, false, .window, [⟨63, 0, .rw, 0⟩]⟩,
  ⟨Reg.SEAL_WIN_DATA8, false, .window, [⟨63, 0, .rw, 0⟩]⟩,
  ⟨Reg.SEAL_WIN_DATA9, false, .window, [⟨63, 0, .rw, 0⟩]⟩,
  ⟨Reg.SEAL_WIN_DATA10, false, .window, [⟨63, 0, .rw, 0⟩]⟩,
  ⟨Reg.SEAL_WIN_DATA11, false, .window, [⟨63, 0, .rw, 0⟩]⟩,
  ⟨Reg.SEAL_WIN_DATA12, false, .window, [⟨63, 0, .rw, 0⟩]⟩,
  ⟨Reg.SEAL_WIN_DATA13, false, .window, [⟨63, 0, .rw, 0⟩]⟩,
  ⟨Reg.SEAL_WIN_DATA14, false, .window, [⟨63, 0, .rw, 0⟩]⟩,
  ⟨Reg.SEAL_WIN_DATA15, false, .window, [⟨63, 0, .rw, 0⟩]⟩,
  ⟨Reg.SEAL_WIN_DATA16, false, .window, [⟨63, 0, .rw, 0⟩]⟩,
  ⟨Reg.SEAL_WIN_DATA17, false, .window, [⟨63, 0, .rw, 0⟩]⟩,
  ⟨Reg.SEAL_WIN_DATA18, false, .window, [⟨63, 0, .rw, 0⟩]⟩,
  ⟨Reg.SEAL_WIN_DATA19, false, .window, [⟨63, 0, .rw, 0⟩]⟩,
  ⟨Reg.SEAL_WIN_DATA20, false, .window, [⟨63, 0, .rw, 0⟩]⟩,
  ⟨Reg.SEAL_WIN_DATA21, false, .window, [⟨63, 0, .rw, 0⟩]⟩]

/-- Block 0x0E, part 1 (R471). -/
def regRows0E_1 : List RegRow := [
  ⟨Reg.SEAL_WIN_DATA22, false, .window, [⟨63, 0, .rw, 0⟩]⟩,
  ⟨Reg.SEAL_WIN_DATA23, false, .window, [⟨63, 0, .rw, 0⟩]⟩,
  ⟨Reg.SEAL_WIN_DATA24, false, .window, [⟨63, 0, .rw, 0⟩]⟩,
  ⟨Reg.SEAL_WIN_DATA25, false, .window, [⟨63, 0, .rw, 0⟩]⟩,
  ⟨Reg.SEAL_WIN_DATA26, false, .window, [⟨63, 0, .rw, 0⟩]⟩,
  ⟨Reg.SEAL_WIN_DATA27, false, .window, [⟨63, 0, .rw, 0⟩]⟩,
  ⟨Reg.SEAL_WIN_DATA28, false, .window, [⟨63, 0, .rw, 0⟩]⟩,
  ⟨Reg.SEAL_WIN_DATA29, false, .window, [⟨63, 0, .rw, 0⟩]⟩,
  ⟨Reg.SEAL_WIN_DATA30, false, .window, [⟨63, 0, .rw, 0⟩]⟩,
  ⟨Reg.SEAL_WIN_DATA31, false, .window, [⟨63, 0, .rw, 0⟩]⟩,
  ⟨Reg.SEAL_WIN_DATA32, false, .window, [⟨63, 0, .rw, 0⟩]⟩,
  ⟨Reg.SEAL_WIN_DATA33, false, .window, [⟨63, 0, .rw, 0⟩]⟩,
  ⟨Reg.SEAL_WIN_DATA34, false, .window, [⟨63, 0, .rw, 0⟩]⟩,
  ⟨Reg.SEAL_WIN_DATA35, false, .window, [⟨63, 0, .rw, 0⟩]⟩,
  ⟨Reg.SEAL_WIN_DATA36, false, .window, [⟨63, 0, .rw, 0⟩]⟩,
  ⟨Reg.SEAL_WIN_DATA37, false, .window, [⟨63, 0, .rw, 0⟩]⟩,
  ⟨Reg.SEAL_WIN_DATA38, false, .window, [⟨63, 0, .rw, 0⟩]⟩,
  ⟨Reg.SEAL_WIN_DATA39, false, .window, [⟨63, 0, .rw, 0⟩]⟩,
  ⟨Reg.SEAL_WIN_DATA40, false, .window, [⟨63, 0, .rw, 0⟩]⟩,
  ⟨Reg.SEAL_WIN_DATA41, false, .window, [⟨63, 0, .rw, 0⟩]⟩,
  ⟨Reg.SEAL_WIN_DATA42, false, .window, [⟨63, 0, .rw, 0⟩]⟩,
  ⟨Reg.SEAL_WIN_DATA43, false, .window, [⟨63, 0, .rw, 0⟩]⟩,
  ⟨Reg.SEAL_WIN_DATA44, false, .window, [⟨63, 0, .rw, 0⟩]⟩,
  ⟨Reg.SEAL_WIN_DATA45, false, .window, [⟨63, 0, .rw, 0⟩]⟩]

/-- Block 0x0E, part 2 (R471). -/
def regRows0E_2 : List RegRow := [
  ⟨Reg.SEAL_WIN_DATA46, false, .window, [⟨63, 0, .rw, 0⟩]⟩,
  ⟨Reg.SEAL_WIN_DATA47, false, .window, [⟨63, 0, .rw, 0⟩]⟩,
  ⟨Reg.SEAL_WIN_DATA48, false, .window, [⟨63, 0, .rw, 0⟩]⟩,
  ⟨Reg.SEAL_WIN_DATA49, false, .window, [⟨63, 0, .rw, 0⟩]⟩,
  ⟨Reg.SEAL_WIN_DATA50, false, .window, [⟨63, 0, .rw, 0⟩]⟩,
  ⟨Reg.SEAL_WIN_DATA51, false, .window, [⟨63, 0, .rw, 0⟩]⟩,
  ⟨Reg.SEAL_WIN_DATA52, false, .window, [⟨63, 0, .rw, 0⟩]⟩,
  ⟨Reg.SEAL_WIN_DATA53, false, .window, [⟨63, 0, .rw, 0⟩]⟩,
  ⟨Reg.SEAL_WIN_DATA54, false, .window, [⟨63, 0, .rw, 0⟩]⟩,
  ⟨Reg.SEAL_WIN_DATA55, false, .window, [⟨63, 0, .rw, 0⟩]⟩,
  ⟨Reg.SEAL_WIN_DATA56, false, .window, [⟨63, 0, .rw, 0⟩]⟩,
  ⟨Reg.SEAL_WIN_DATA57, false, .window, [⟨63, 0, .rw, 0⟩]⟩,
  ⟨Reg.SEAL_WIN_DATA58, false, .window, [⟨63, 0, .rw, 0⟩]⟩,
  ⟨Reg.SEAL_WIN_DATA59, false, .window, [⟨63, 0, .rw, 0⟩]⟩,
  ⟨Reg.SEAL_WIN_DATA60, false, .window, [⟨63, 0, .rw, 0⟩]⟩,
  ⟨Reg.SEAL_WIN_DATA61, false, .window, [⟨63, 0, .rw, 0⟩]⟩,
  ⟨Reg.SEAL_WIN_DATA62, false, .window, [⟨63, 0, .rw, 0⟩]⟩,
  ⟨Reg.SEAL_WIN_DATA63, false, .window, [⟨63, 0, .rw, 0⟩]⟩,
  ⟨Reg.SEAL_RPT_NONCE0, false, .plain, [⟨63, 0, .rw, 0⟩]⟩,
  ⟨Reg.SEAL_RPT_NONCE1, false, .plain, [⟨63, 0, .rw, 0⟩]⟩,
  ⟨Reg.SEAL_RPT_NONCE2, false, .plain, [⟨63, 0, .rw, 0⟩]⟩,
  ⟨Reg.SEAL_RPT_NONCE3, false, .plain, [⟨63, 0, .rw, 0⟩]⟩,
  ⟨Reg.SEAL_RPT_CTRL, false, .plain, [⟨63, 63, .wo, 0⟩, ⟨62, 62, .ro, 0⟩, ⟨61, 61, .rw, 0⟩, ⟨39, 32, .ro, 0⟩, ⟨31, 0, .ro, 0⟩]⟩,
  ⟨Reg.SEAL_LC_CMD, false, .plain, [⟨63, 63, .wo, 0⟩, ⟨62, 62, .ro, 0⟩, ⟨58, 56, .rw, 0⟩, ⟨39, 32, .ro, 0⟩, ⟨31, 0, .rw, 0⟩]⟩]

/-- Block 0x0E, part 3 (R471). -/
def regRows0E_3 : List RegRow := [
  ⟨Reg.SEAL_KEYGEN_SEL, true, .requester, [⟨63, 63, .rw, 0⟩, ⟨15, 0, .rw, 0⟩]⟩,
  ⟨Reg.SEAL_KEYGEN, true, .keygen, [⟨63, 63, .wo, 0⟩, ⟨62, 62, .wo, 0⟩, ⟨61, 61, .w1c, 0⟩, ⟨8, 8, .ro, 0⟩, ⟨7, 0, .ro, 0⟩]⟩,
  ⟨Reg.SEAL_COUNTS, true, .plain, [⟨63, 32, .rc, 0⟩, ⟨31, 16, .rc, 0⟩, ⟨15, 0, .rc, 0⟩]⟩]

/-- Block 0x0F, part 0 (R471). -/
def regRows0F_0 : List RegRow := [
  ⟨Reg.CK_CTRL, false, .plain, [⟨63, 32, .rw, 0⟩, ⟨27, 24, .rwl, 0⟩, ⟨1, 1, .rw, 0⟩, ⟨0, 0, .rw, 1⟩]⟩,
  ⟨Reg.CK_AREA, false, .plain, [⟨63, 48, .rwl, 0⟩, ⟨47, 0, .rwl, 0⟩]⟩,
  ⟨Reg.CK_SHARD, false, .plain, [⟨47, 0, .rwl, 0⟩]⟩,
  ⟨Reg.CK_RATE, false, .plain, [⟨31, 0, .rw, 0⟩]⟩,
  ⟨Reg.CK_CBW, true, .plain, [⟨63, 40, .rwl, 0⟩, ⟨39, 0, .rwl, 0⟩]⟩,
  ⟨Reg.CK_CBW_USE, true, .plain, [⟨31, 0, .ro, 0⟩]⟩,
  ⟨Reg.CK_STATUS, false, .plain, [⟨63, 63, .ro, 0⟩, ⟨62, 62, .ro, 0⟩, ⟨61, 61, .ro, 0⟩, ⟨55, 48, .ro, 0⟩, ⟨47, 40, .ro, 0⟩, ⟨31, 0, .ro, 0⟩]⟩,
  ⟨Reg.CK_LAST, false, .plain, [⟨63, 0, .ro, 0⟩]⟩,
  ⟨Reg.CK_LAST_MARK, false, .plain, [⟨63, 0, .ro, 0⟩]⟩,
  ⟨Reg.CK_RUN, false, .plain, [⟨63, 0, .ro, 0⟩]⟩,
  ⟨Reg.CK_FAIL, false, .plain, [⟨63, 0, .ro, 0⟩]⟩,
  ⟨Reg.CK_COUNTS, true, .plain, [⟨63, 48, .rc, 0⟩, ⟨47, 32, .rc, 0⟩, ⟨31, 16, .rc, 0⟩, ⟨15, 0, .rc, 0⟩]⟩]

/-- Block 0x10, part 0 (R471). -/
def regRows10_0 : List RegRow := [
  ⟨Reg.HL_CTRL, true, .plain, [⟨63, 48, .rw, 0⟩, ⟨47, 32, .rw, 0⟩, ⟨31, 28, .rwl, 0⟩]⟩,
  ⟨Reg.HL_KICK, true, .plain, [⟨63, 0, .wo, 0⟩]⟩,
  ⟨Reg.HL_EVT, true, .plain, [⟨62, 40, .rwl, 0⟩, ⟨39, 0, .rwl, 0⟩]⟩,
  ⟨Reg.HL_EVT_HEAD, true, .plain, [⟨63, 63, .w1c, 0⟩, ⟨39, 0, .ro, 1⟩]⟩,
  ⟨Reg.HL_ALERT, true, .plain, [⟨63, 48, .ro, 0⟩, ⟨47, 0, .rw, 0⟩]⟩,
  ⟨Reg.HL_UNITMAP0, true, .plain, [⟨63, 0, .ro, 0⟩]⟩,
  ⟨Reg.HL_UNITMAP1, true, .plain, [⟨63, 0, .ro, 0⟩]⟩,
  ⟨Reg.HL_UNITMAP2, true, .plain, [⟨63, 0, .ro, 0⟩]⟩,
  ⟨Reg.HL_UNITMAP3, true, .plain, [⟨63, 0, .ro, 0⟩]⟩,
  ⟨Reg.HL_CORE_SEL, true, .requester, [⟨2, 0, .rw, 0⟩]⟩,
  ⟨Reg.HL_CORE, true, .core, [⟨57, 56, .ro, 0⟩, ⟨55, 52, .ro, 0⟩, ⟨51, 51, .ro, 0⟩, ⟨16, 0, .ro, 0⟩]⟩,
  ⟨Reg.HL_MON_SEL, true, .requester, [⟨7, 6, .rw, 0⟩, ⟨5, 0, .rw, 0⟩]⟩,
  ⟨Reg.HL_MON, true, .monitor, [⟨63, 32, .ro, 0⟩, ⟨31, 0, .ro, 0⟩]⟩,
  ⟨Reg.HL_AGE_CFG, true, .plain, [⟨63, 48, .rw, 0⟩, ⟨47, 32, .rw, 0⟩, ⟨31, 0, .rw, 0⟩]⟩,
  ⟨Reg.HL_ROW_SPARE, true, .plain, [⟨63, 63, .wo, 0⟩, ⟨39, 32, .ro, 0⟩, ⟨31, 0, .rw, 0⟩]⟩,
  ⟨Reg.HL_PLAN, false, .plain, [⟨63, 63, .wo, 0⟩, ⟨44, 43, .rw, 0⟩, ⟨42, 40, .rw, 0⟩, ⟨31, 16, .rw, 0⟩, ⟨15, 0, .rw, 0⟩]⟩,
  ⟨Reg.HL_PLAN_STATUS, false, .plain, [⟨63, 63, .ro, 0⟩, ⟨44, 43, .ro, 0⟩, ⟨42, 40, .ro, 0⟩, ⟨31, 16, .ro, 0⟩, ⟨15, 0, .ro, 0⟩]⟩,
  ⟨Reg.HL_COUNTS, true, .plain, [⟨63, 48, .rc, 0⟩, ⟨47, 32, .rc, 0⟩, ⟨31, 16, .rc, 0⟩, ⟨15, 0, .rc, 0⟩]⟩]

/-- Block 0x11, part 0 (R471). -/
def regRows11_0 : List RegRow := [
  ⟨Reg.RP_CTRL, false, .plain, [⟨4, 4, .rw, 0⟩, ⟨1, 0, .rw, 0⟩]⟩,
  ⟨Reg.RP_STATUS, false, .plain, [⟨7, 7, .ro, 0⟩, ⟨6, 6, .ro, 0⟩, ⟨5, 5, .ro, 0⟩, ⟨4, 4, .ro, 0⟩, ⟨2, 0, .ro, 0⟩]⟩,
  ⟨Reg.RP_AREA, false, .plain, [⟨63, 48, .rw, 0⟩, ⟨47, 0, .rw, 0⟩]⟩,
  ⟨Reg.RP_SIZE, false, .plain, [⟨47, 0, .rw, 0⟩]⟩,
  ⟨Reg.RP_REC, false, .plain, [⟨63, 0, .ro, 0⟩]⟩,
  ⟨Reg.RP_CKPT, false, .plain, [⟨63, 0, .ro, 0⟩]⟩,
  ⟨Reg.RP_DIVERGE, false, .plain, [⟨63, 48, .ro, 0⟩, ⟨47, 0, .ro, 0⟩]⟩,
  ⟨Reg.RP_CHOICES0, true, .plain, [⟨63, 32, .ro, 0⟩, ⟨31, 0, .ro, 0⟩]⟩,
  ⟨Reg.RP_CHOICES1, true, .plain, [⟨63, 32, .ro, 0⟩, ⟨31, 0, .ro, 0⟩]⟩,
  ⟨Reg.RP_IMPOSED, false, .plain, [⟨63, 32, .ro, 0⟩, ⟨31, 0, .ro, 0⟩]⟩,
  ⟨Reg.RP_BUF, true, .plain, [⟨31, 0, .rwl, 0⟩]⟩]

/-- Block 0x12, part 0 (R471). -/
def regRows12_0 : List RegRow := [
  ⟨Reg.BD_SB, false, .plain, [⟨14, 8, .ro, 0⟩, ⟨1, 1, .ro, 0⟩, ⟨0, 0, .ro, 0⟩]⟩,
  ⟨Reg.BD_VREQ, false, .plain, [⟨63, 63, .ro, 0⟩, ⟨55, 48, .ro, 0⟩, ⟨19, 16, .ro, 0⟩, ⟨15, 0, .ro, 0⟩]⟩,
  ⟨Reg.BD_VACK, false, .plain, [⟨55, 48, .wo, 0⟩, ⟨15, 0, .wo, 0⟩]⟩,
  ⟨Reg.BD_TEMP_SEL, true, .requester, [⟨3, 0, .rw, 0⟩]⟩,
  ⟨Reg.BD_TEMP, true, .sensor, [⟨47, 32, .ro, 0⟩, ⟨15, 0, .ro, 0⟩]⟩,
  ⟨Reg.BD_THERM, false, .plain, [⟨63, 63, .ro, 0⟩, ⟨62, 62, .ro, 0⟩, ⟨55, 48, .ro, 115⟩, ⟨47, 40, .ro, 105⟩]⟩,
  ⟨Reg.BD_CLK, false, .plain, [⟨63, 48, .rc, 0⟩, ⟨7, 4, .ro, 0⟩, ⟨1, 1, .ro, 0⟩, ⟨0, 0, .ro, 0⟩]⟩]

/-- Every register of the J716. -/
def regTable : List RegRow :=
  regRows00_0 ++ regRows01_0 ++ regRows02_0 ++ regRows02_1 ++ regRows03_0 ++ regRows04_0 ++ regRows05_0 ++ regRows06_0 ++ regRows07_0 ++ regRows08_0 ++ regRows09_0 ++ regRows0A_0 ++ regRows0B_0 ++ regRows0B_1 ++ regRows0C_0 ++ regRows0D_0 ++ regRows0E_0 ++ regRows0E_1 ++ regRows0E_2 ++ regRows0E_3 ++ regRows0F_0 ++ regRows10_0 ++ regRows11_0 ++ regRows12_0

/-- The registers of one block (R471). -/
def regRowsOf (blk : Nat) : List RegRow :=
  match blk with
  | 0x00 => regRows00_0
  | 0x01 => regRows01_0
  | 0x02 => regRows02_0 ++ regRows02_1
  | 0x03 => regRows03_0
  | 0x04 => regRows04_0
  | 0x05 => regRows05_0
  | 0x06 => regRows06_0
  | 0x07 => regRows07_0
  | 0x08 => regRows08_0
  | 0x09 => regRows09_0
  | 0x0A => regRows0A_0
  | 0x0B => regRows0B_0 ++ regRows0B_1
  | 0x0C => regRows0C_0
  | 0x0D => regRows0D_0
  | 0x0E => regRows0E_0 ++ regRows0E_1 ++ regRows0E_2 ++ regRows0E_3
  | 0x0F => regRows0F_0
  | 0x10 => regRows10_0
  | 0x11 => regRows11_0
  | 0x12 => regRows12_0
  | _ => []

/-- Reset words that are not zero (the Reset columns of the register tables). -/
def regResetTable : List (RegId × Nat) := [
  (Reg.BCN_CTRL, 0x1),
  (Reg.BCN_INIT, 0x400040800300),
  (Reg.BCN_LIMITS, 0x4E200401030100),
  (Reg.BCN_TIMEOUT, 0x30001E8480),
  (Reg.BCN_FRAME_CFG, 0xB839000000000000),
  (Reg.SES_CTRL, 0x1),
  (Reg.SES_COUNT0, 0x80000),
  (Reg.XL_CTRL, 0x401),
  (Reg.PK_CTRL, 0x1),
  (Reg.ATN_CTRL, 0x3),
  (Reg.ATN_FANOUT, 0x40),
  (Reg.FIN_CTRL, 0x1),
  (Reg.TR_CTRL, 0x1),
  (Reg.MC_SCRUB, 0x100000000),
  (Reg.WK_CTRL, 0x3),
  (Reg.ETH_PTP, 0x2),
  (Reg.GSP_CTRL, 0xB838000000000001),
  (Reg.GSP_LIMITS, 0x110000007D000000),
  (Reg.GSP_RDMA_CFG, 0xE03280138800012C),
  (Reg.CH_PORT_CFG, 0x140000000000),
  (Reg.CH_CLASS_MAP, 0x7717456),
  (Reg.CH_OPEN, 0xFF),
  (Reg.TL_CTRL, 0x1),
  (Reg.LP_SCRUB, 0x3E80),
  (Reg.CK_CTRL, 0x1),
  (Reg.HL_EVT_HEAD, 0x1),
  (Reg.BD_THERM, 0x73690000000000)]

/-- The reset word of a register on a die. The port selections reset to the die's first port (R289, R308). -/
def regReset (die : Nat) (r : RegId) : Word :=
  if (r = Reg.ETH_PORT_SEL ∨ r = Reg.CH_PORT_SEL) ∧ die = 1 then 24
  else
    match regResetTable.find? (fun p => p.1 == r) with
    | some p => BitVec.ofNat 64 p.2
    | none => 0

end Sys2Proof.Machine
end

