-- ==== Sys2Proof/Machine/State.lean ====
section
/-! DEFINITION. The state of the J716: plain data, one record per chapter of the spec. A scalar that a register shows is
held in `regs`, its one home; a list or record that no register shows whole stands in its chapter's record. -/

namespace Sys2Proof.Machine

/-! ### Registers -/

/-- Which copy of a register: die, block, offset and the selected item or the requester (R470, R474). -/
structure RegKey where
  die : Nat
  blk : Nat
  off : Nat
  sel : Nat
  deriving DecidableEq, Repr

/-- A limit of the kind "at most once per step" (R418): raised in this step, occurrences suppressed in this step, and
those suppressed in the step before. -/
structure Once where
  die : Nat
  subcode : Nat
  item : Nat
  raised : Bool
  supp : Nat
  prev : Nat
  deriving DecidableEq, Repr

/-! ### Beacon (01) -/

/-- Tracker states (R19). -/
inductive Trk where
  | noPhase | learning | locked | coasting | lost
  deriving DecidableEq, Repr

/-- An echo word (R12). -/
structure EchoWord where
  at_ : Nat
  pos : Nat
  accepted : Bool
  locked : Bool
  coasting : Bool
  deriving DecidableEq, Repr

/-- A record of the beacon history ring (R31). -/
structure HistRec where
  pos : Nat
  time : Nat
  source : Nat
  flags : BitVec 8
  state : Nat
  deriving DecidableEq, Repr

/-- A layer start as R18 measures it: linear position, reference instant, source. -/
structure LayerMark where
  lin : Nat
  tRef : Nat
  src : Nat
  deriving DecidableEq, Repr

/-- A valid word, from either source: linear position, reference instant, flags, and whether it came in a frame. -/
structure BWord where
  pos : Nat
  tRef : Nat
  flags : BitVec 8
  frame : Bool
  deriving DecidableEq, Repr

/-- The beacon tracker (R15 to R22). Positions are linear: (S × layers + L) × 256 + P.
`fired` is the first position whose triggers have not fired, `after` the rebase position that words must pass (R25). -/
structure Beacon where
  trk : Trk
  before : Trk
  anchor : Nat
  tRef : Nat
  frozen : Option Nat
  periods : List Nat
  lastStart : Option LayerMark
  taint : Bool
  frames : Bool
  lastPin : Option Nat
  lastFrame : Option Nat
  enabledAt : Nat
  cleanLayers : Nat
  cleanAt : Option Nat
  hold : Option Nat
  back : Nat
  pend : Option BWord
  frameSeq : Option Nat
  coastFrom : Nat
  fired : Nat
  gateBase : Nat
  after : Option Nat
  echoes : List EchoWord
  echoed : List EchoWord
  history : List HistRec
  deriving DecidableEq, Repr

/-! ### Events (16) -/

/-- An event record (R417). -/
structure EvtRec where
  index : Nat
  pos : Nat
  time : Nat
  subcode : Nat
  alert : Bool
  ctx : Option Nat
  die : Nat
  refusal : Bool
  unit : Nat
  arg0 : Nat
  arg1 : Nat
  arg2 : Nat
  arg3 : Nat
  deriving DecidableEq, Repr

/-- The events of the J716: each die's ring (R419), the unacknowledged ALERT indexes (R420) and the once-per-step
limits (R418). -/
structure Events where
  ring0 : List EvtRec
  ring1 : List EvtRec
  alerts0 : List Nat
  alerts1 : List Nat
  once : List Once
  lastStepEnd : Nat
  deriving DecidableEq, Repr

/-! ### Sessions (02) -/

/-- Session states (R39). -/
inductive SesState where
  | free | filling | owned | parked | dormant | held
  deriving DecidableEq, Repr

/-- FINISH_STATE of the session record (R163). -/
structure FinState where
  on : Bool
  gram : Nat
  gstate : Nat
  sp : Nat
  hold : List Byte
  fops : Nat
  deriving DecidableEq, Repr

/-- A session record (R38). `node` is HANDLE's NODE, `crcBad` says that the record fails its CRC on read (R41). -/
structure Session where
  node : Nat
  gen : Nat
  st : SesState
  heldReason : Nat
  context : Nat
  owner : Nat
  lastBy : Nat
  epoch : Nat
  leaseLen : Nat
  leaseEnd : Nat
  length : Nat
  window : Nat
  globals : Nat
  scrubPending : Bool
  promoting : Bool
  dense : Bool
  vbase : Nat
  openStep : Nat
  lastPos : Nat
  reqTag : Nat
  seed : Nat
  fin : FinState
  crcBad : Bool
  deriving DecidableEq, Repr

/-- One entry of the SESSION_OPEN repeat memory (R56). -/
structure OpenMem where
  ep : Nat
  tag : Nat
  slot : Nat
  gen : Nat
  node : Nat
  boundary : Nat
  deriving DecidableEq, Repr

/-- The session units (02), the home map (R335) and the lists SES_HELD_NEXT reads (R52). -/
structure Sessions where
  recs : List (Nat × Session)
  opens : List OpenMem
  held0 : List Nat
  held1 : List Nat
  home : List (Nat × Nat)
  stalled : List (Nat × Nat × Nat)
  deriving DecidableEq, Repr

/-! ### Pages, tiles, staging (03, 04) -/

/-- A tile's packed form (R104 to R106): the encoding, the elements in ascending index as their bit patterns, the scale
bytes, the outliers and the header fields. The stored bytes and the CRC-64 are `Tile.bytes`. -/
structure Tile where
  enc : Nat
  value : Bool
  headDim : Nat
  elems : List Nat
  scales : List Nat
  outliers : List (BF16 × Nat)
  clampCount : Nat
  nonfinite : Bool
  rows : Nat
  outShift : Nat
  head : Nat
  layer : Nat
  page : Nat
  context : Nat
  slot : Nat
  deriving DecidableEq, Repr

/-- A leaf entry of a session's page (R71). A shared entry has `share` and takes the rest from the shared-page table. -/
structure Leaf where
  tier : Nat
  share : Option Nat
  kenc : Nat
  venc : Nat
  fill : Nat
  old : Bool
  age : Nat
  loc : Nat
  tiles : List Tile
  deriving DecidableEq, Repr

/-- A shared-page entry (R73) and its tiles. -/
structure SharedPage where
  ref : Nat
  context : Nat
  tier : Nat
  kenc : Nat
  venc : Nat
  old : Bool
  age : Nat
  loc : Nat
  page : Nat
  layer : Nat
  slot : Nat
  tiles : List Tile
  deriving DecidableEq, Repr

/-- A page's place: slot, layer, page. -/
structure PageKey where
  slot : Nat
  layer : Nat
  page : Nat
  deriving DecidableEq, Repr

/-- A staging area (R76, R77): the lengths, the global positions, and the rows by layer × 16 + row. -/
structure Staging where
  loc : Nat
  lens : List Nat
  globals : List Nat
  rows : List (Nat × List BF16)
  deriving DecidableEq, Repr

/-- A finishing area (R164). `kept` is the body kept for R194. -/
structure FinArea where
  loc : Nat
  counts : List Nat
  stack : List Nat
  drawn : Nat
  window : Nat
  histHead : Nat
  histFill : Nat
  hist : List (Nat × Nat)
  rseqNext : Nat
  relEpoch : Nat
  relStep : Nat
  relLayer : Nat
  keptEpoch : Nat
  keptForm : Nat
  kept : List Byte
  deriving DecidableEq, Repr

/-- A session's parked image (R242 to R244): the tier and location it stands in, its granules, whether it has been
written out of T1, and the descriptor and finishing area it holds. -/
structure Parked where
  tier : Nat
  loc : Nat
  granules : Nat
  lens : List Nat
  globals : List Nat
  area : FinArea
  written : Nat
  deriving DecidableEq, Repr

/-- A copy in T0 (R146): a layer's staging rows, a page or a shared page, being copied or readable. -/
structure T0Copy where
  die : Nat
  cluster : Nat
  slot : Nat
  layer : Nat
  step : Nat
  page : Option Nat
  share : Option Nat
  granules : Nat
  ready : Bool
  deriving DecidableEq, Repr

/-- The key-value structures (03): leaf entries, shared pages by die and SHARE_ID, staging and finishing areas, T0
copies, and the units whose translation a TLB or walk cache holds, by die (R75). -/
structure Kv where
  leaves : List (PageKey × Leaf)
  shared : List ((Nat × Nat) × SharedPage)
  staging : List (Nat × Staging)
  areas : List (Nat × FinArea)
  images : List (Nat × Parked)
  copies : List T0Copy
  tlb : List (Nat × Nat)
  walkCache : List (Nat × Nat)
  deriving DecidableEq, Repr

/-! ### Attention (05) -/

/-- Where the rows of one tile of the walk come from (R134): a stored page's first `rows` rows, or staging rows. -/
inductive PageSrc where
  | stored (rows : Nat) (tiles : List Tile)
  | staging (rows : List (Nat × List BF16))
  deriving DecidableEq, Repr

/-- One tile position of the walk with its unmasked rows (R133, R134), its page's tier at acceptance, and its SHARE_ID. -/
structure View where
  page : Nat
  src : PageSrc
  rows : List Nat
  tier : Nat
  share : Option Nat
  deriving DecidableEq, Repr

/-- A partial result of one query head (R139). -/
structure Partial where
  m : F32
  l : F32
  a : List F32
  ov : Bool
  deriving DecidableEq, Repr

/-- Where a unit stands (R144, R151, R206). -/
inductive UnitState where
  | queued | waiting (page : Nat) | grouped | running | done
  deriving DecidableEq, Repr

/-- One unit of a request (R144): KV head, segment, state, the logical core it is assigned to or runs on (R336), and the
partials of its query heads when done. -/
structure AttnUnit where
  kvHead : Nat
  seg : Nat
  st : UnitState
  core : Nat
  parts : List Partial
  deriving DecidableEq, Repr

/-- Where a result stands on its way out (R154, R303): held for its gate, queued, its first frame started, or withdrawn or
lost and left to a fetch (R269, R305). -/
inductive Delivery where
  | waiting | queued | started | fetchOnly
  deriving DecidableEq, Repr

/-- A result of the result store (R153) with what its request fixed at acceptance. `firstRet` is the boundary count of
the first return, `ended` that at which its epoch ended, `overdue` that it was incomplete at the boundary after (R51), `msg`
the record number of its message (R433). -/
structure Result where
  slot : Nat
  key : ResKey
  context : Nat
  ep : Nat
  port : Nat
  src : Nat
  srcUdp : Nat
  keyGen : Nat
  reqId : Nat
  at_ : Nat
  order : Nat
  rseq : Nat
  outFp32 : Bool
  dest : Bool
  doff : Nat
  relaxed : Bool
  fanout : Bool
  late : Bool
  nonfinite : Bool
  overflow : Bool
  empty : Bool
  dropped : Nat
  attended : Nat
  qform : Nat
  pform : Nat
  scale : F32
  query : List BF16
  views : List View
  units : List AttnUnit
  running : List Partial
  complete : Bool
  integrity : Option Nat
  data : List Byte
  delivery : Delivery
  firstRet : Option Nat
  auto : Nat
  ended : Option Nat
  overdue : Bool
  msg : Nat
  deriving DecidableEq, Repr

/-- A fan-out group that is open (R151). -/
structure Group where
  die : Nat
  cluster : Nat
  layer : Nat
  kvHead : Nat
  seg : Nat
  opened : Nat
  members : List (Nat × ResKey)
  deriving DecidableEq, Repr

/-- Attention (05): the result stores, the open groups, the distinct sessions of each STEP for ATTEND and for DRAW
(R128, R168), sessions with a recent ATTEND (R146), the layers whose late prefetch has been counted
(R30), and those whose gate miss has been reported (R160). -/
structure Attn where
  results : List Result
  groups : List Group
  attendSteps : List (Nat × Nat)
  drawSteps : List (Nat × Nat)
  recent : List (Nat × Nat)
  nextOrder : Nat
  missed : List (Nat × Nat)
  gateMissed : List (Nat × Nat)
  deriving DecidableEq, Repr

/-! ### Grammars (06) -/

/-- An automaton of the grammar store (R183, R184). -/
structure Gram where
  anyCtx : Bool
  ctx : Nat
  states : Nat
  start : Nat
  alpha : Nat
  refs : Nat
  loc : Nat
  rows : List GramRow
  deriving DecidableEq, Repr

/-! ### Frames, ports and transport (09, 10) -/

/-- Which key seals a frame (R275): the context's or the endpoint's, of an endpoint and generation. -/
structure KeyRef where
  ep : Nat
  ctx : Nat
  ekey : Bool
  keyGen : Nat
  deriving DecidableEq, Repr

/-- A GSP frame from the J716 (R271). -/
structure GspOut where
  type : Nat
  response : Bool
  status : Nat
  key : KeyRef
  reason : Nat
  seq : Nat
  reqId : Nat
  segIndex : Nat
  segCount : Nat
  msgLen : Nat
  dst : Nat
  dstUdp : Nat
  payload : List Byte
  deriving DecidableEq, Repr

/-- What a frame from the J716 is (R291): a GSP frame, or traffic of another kind named by what it carries. -/
inductive FrameBody where
  | gsp (g : GspOut)
  | rdmaWrite (ep qp psn doff : Nat) (key : KeyRef) (seq : Nat) (data : List Byte)
  | rdmaAck (qp psn : Nat) (nak : Option Nat)
  | cnp (qp : Nat)
  | cmReply (ep qp : Nat) (accepted : Bool)
  | t3 (ep : Nat) (len : Nat)
  | ptp
  deriving DecidableEq, Repr

/-- A queued frame (R291 to R295): its class, flow, length from MAC address to FCS, finish tag, whether the guard test
has held it (R301) and a gate split it (R303), and the result it belongs to, if any. -/
structure QFrame where
  cls : Nat
  flow : Nat
  len : Nat
  tag : Nat
  held : Bool
  split : Bool
  result : Option (Nat × ResKey)
  body : FrameBody
  deriving DecidableEq, Repr

/-- Fair-queueing and shaper state of one class of a port (R295 to R298). -/
structure ClassState where
  v : Nat
  tags : List (Nat × Nat)
  credit : Int
  creditAt : Nat
  pendShaper : Option Word
  pausedUntil : Nat
  deriving DecidableEq, Repr

/-- A port: its link, its chimney queues, the frame in transmission since when, and the open gate entries (R269, R291 to
R305). Entries are (index, layer start as linear position). -/
structure Port where
  link : Bool
  queue : List QFrame
  classes : List (Nat × ClassState)
  sending : Option QFrame
  since : Nat
  opened : List Nat
  overrunLayer : Option Nat
  swapAt : Bool
  deriving DecidableEq, Repr

/-- A frame that has left a port. -/
structure Sent where
  port : Nat
  start : Nat
  end_ : Nat
  frame : QFrame
  deriving DecidableEq, Repr

/-- The inbound sequence window of a key (R276). -/
structure SeqWin where
  key : KeyRef
  dir : Nat
  top : Nat
  seen : List Nat
  deriving DecidableEq, Repr

/-- An open reassembly (R280). -/
structure Reasm where
  die : Nat
  key : KeyRef
  reqId : Nat
  type : Nat
  segCount : Nat
  msgLen : Nat
  segLen : Option Nat
  segs : List (Nat × List Byte)
  opened : Nat
  deriving DecidableEq, Repr

/-- A whole message that waits for its chapter's command (R278). -/
structure Ready where
  key : KeyRef
  reqId : Nat
  type : Nat
  port : Nat
  src : Nat
  srcUdp : Nat
  at_ : Nat
  payload : List Byte
  deriving DecidableEq, Repr

/-- An event subscriber (R287): of a context, or of the device (none). -/
structure Sub where
  ctx : Option Nat
  ep : Nat
  deriving DecidableEq, Repr

/-- A queue pair (R282, R284). `sent` and `acked` are the PSNs next sent and last acknowledged, `unacked` the packets sent since,
as (PSN, flow, length, frame), oldest first. -/
structure Qp where
  die : Nat
  qp : Nat
  ep : Nat
  port : Nat
  mtu : Nat
  error : Bool
  migrated : Bool
  acked : Nat
  sent : Nat
  retries : Nat
  unacked : List (Nat × Nat × Nat × FrameBody)
  rateMbps : Nat
  lastRise : Nat
  cnpAt : Option Nat
  deriving DecidableEq, Repr

/-- A sealed object that stands in an ingest region (R283). -/
structure Ingest where
  die : Nat
  ctx : Nat
  obj : IngestObj
  deriving DecidableEq, Repr

/-- IEEE 1588 (R268): consecutive intervals inside and outside the bound, and the device time at an instant. -/
structure Ptp where
  inBound : Nat
  outBound : Nat
  deviceNs : Nat
  at_ : Nat
  deriving DecidableEq, Repr

/-- Transport (09): ports, what left them, sequence numbers, reassembly, waiting messages, subscribers, queue pairs,
ingest objects, and the requests that have had their BUSY_RETRY for lack of pool (R280). `firing` is the model's own: it stands while triggers that fire
together fire, and no frame starts between them (R299). -/
structure Net where
  ports : List (Nat × Port)
  wire : List Sent
  seqIn : List SeqWin
  seqOut : List (KeyRef × Nat)
  objOut : List (KeyRef × Nat)
  reasm : List Reasm
  ready : List Ready
  poolBusy : List (KeyRef × Nat)
  subs : List Sub
  qps : List Qp
  ingest : List Ingest
  ptp : Ptp
  startVal : Nat
  firing : Bool
  deriving DecidableEq, Repr

/-! ### Lamplighters (12) -/

/-- An entry of the request tracker (R333, R334). -/
structure Track where
  die : Nat
  key : KeyRef
  reqId : Nat
  type : Nat
  slot : Option Nat
  since : Nat
  reported : Bool
  result : Option ResKey
  deriving DecidableEq, Repr

/-- One range of a scrub job (R340). -/
structure Range where
  t1 : Bool
  length : Nat
  base : Nat
  deriving DecidableEq, Repr

/-- A scrub job (R340, R341): `taken` while the snuffer holds it, `checking` while its check runs. -/
structure Scrub where
  die : Nat
  cluster : Nat
  job : Nat
  teardown : Bool
  context : Nat
  slot : Nat
  ranges : List Range
  taken : Option Nat
  checking : Bool
  fails : Nat
  deriving DecidableEq, Repr

/-- A control core that is not in its ordinary running state (R331, R413, R414). -/
structure CoreState where
  die : Nat
  code : Nat
  halted : Bool
  asleep : Option Nat
  lastKick : Nat
  mismatches : Nat
  cluster : Nat
  deriving DecidableEq, Repr

/-- A firmware service that a lamplighter runs (R343): its command, and the endpoint that issued it, if any. -/
structure Service where
  die : Nat
  core : Nat
  code : Nat
  ctx : Nat
  tag : Nat
  id : Nat
  zeroOk : Bool
  ep : Option Nat
  deriving DecidableEq, Repr

/-- Control cores and the snuffer (12). -/
structure Lamp where
  track : List Track
  scrubs : List Scrub
  nextJob : Nat
  cores : List CoreState
  services : List Service
  faults : List (Nat × Nat)
  deriving DecidableEq, Repr

/-! ### Tiers and memory (07) -/

/-- A unit in motion (R200): where from, where to, its reserved destination, its granules and its context; whether quota
demotion moves it, whether it runs at the background rate, and the slot whose WAKE promotes it. -/
structure Move where
  die : Nat
  unit : UnitRef
  src : Nat
  dst : Nat
  srcLoc : Nat
  loc : Nat
  granules : Nat
  ctx : Nat
  quota : Bool
  paced : Bool
  wake : Option Nat
  deriving DecidableEq, Repr

/-- A unit that a PARK with DEPTH = 1 of a session has queued for demotion (R51, R201). -/
structure Cold where
  die : Nat
  slot : Nat
  unit : UnitRef
  deriving DecidableEq, Repr

/-- A promotion in the die's queue (R204, R206). -/
structure Promo where
  die : Nat
  unit : UnitRef
  wake : Option Nat
  late : Bool
  deriving DecidableEq, Repr

/-- A promotion or prefetch trigger that a WAKE scheduled (R205): its target as a linear position. -/
structure Trig where
  slot : Nat
  layer : Nat
  step : Nat
  target : Nat
  prefetch : Bool
  deriving DecidableEq, Repr

/-- A record of the error ring (R219). -/
structure ErrRec where
  pos : Nat
  time : Nat
  kind : Nat
  cluster : Nat
  channel : Nat
  test : Bool
  patrol : Bool
  bank : Nat
  sector : Nat
  stripe : Nat
  addr : Nat
  deriving DecidableEq, Repr

/-- A sector of the test region (R222): place, data and check word. -/
structure TestSector where
  die : Nat
  cluster : Nat
  stripe : Nat
  channel : Nat
  sector : Nat
  data : BitVec 512
  check : BitVec 16
  deriving DecidableEq, Repr

/-- Tiers and memory (07). `rest` is the granules short of a MiB of TR_MOVED by die and direction, `pfDone` the last target
whose prefetch trigger has fired. `t1a` and `t1b` are the bytes that control cores and LP_FILL wrote into T1 of die 0 and
die 1; `fixedEnd` is the first granule after the fixed structures of each die (R355). -/
structure Tier where
  moves : List Move
  cold : List Cold
  promos : List Promo
  trigs : List Trig
  restores : List Nat
  evicting : List (Nat × Nat)
  err0 : List ErrRec
  err1 : List ErrRec
  retired : List (Nat × Nat × Nat)
  test : List TestSector
  ces : List (Nat × Nat × Nat)
  ceOver : List (Nat × Nat)
  rest : List ((Nat × Nat) × Nat)
  pfDone : Nat
  fixedEnd0 : Nat
  fixedEnd1 : Nat
  t1a : List Host.Cell
  t1b : List Host.Cell
  deriving DecidableEq, Repr

/-! ### Start (13) -/

/-- Start (13): the running image, whether the RWL fields are locked (R7), and the failed lanes (R362). -/
structure Start where
  img : Image
  locked : Bool
  deadLanes : List Nat
  deriving DecidableEq, Repr

/-! ### Flash and wicks (08) -/

/-- The owner of a unit in a segment's summary (R236). A parked image is the `staging` unit of its slot. -/
inductive Owner where
  | unit (u : UnitRef)
  | index (num gen page : Nat)
  deriving DecidableEq, Repr

/-- Segment states (R235). -/
inductive SegState where
  | free | open_ | closed | retired
  deriving DecidableEq, Repr

/-- One entry of a segment's summary (R236), and whether the unit is still live. -/
structure SumEnt where
  first : Nat
  size : Nat
  owner : Owner
  live : Bool
  deriving DecidableEq, Repr

/-- A segment of a group (R235): a segment not listed is FREE and never erased. `erased` says that the erase of its opening
is done, `next` is the next free granule, `retire` RETIRE_PENDING. -/
structure Seg where
  die : Nat
  group : Nat
  seg : Nat
  st : SegState
  kind : Nat
  retire : Bool
  fixed : Bool
  erased : Bool
  pins : Nat
  live : Nat
  erases : Nat
  seq : Nat
  next : Nat
  entries : List SumEnt
  deriving DecidableEq, Repr

/-- A stripe in a group's buffer (R234): when its first unit came, and whether it is ready to be programmed. -/
structure Stripe where
  die : Nat
  group : Nat
  seg : Nat
  stripe : Nat
  since : Nat
  ready : Bool
  deriving DecidableEq, Repr

/-- An entry of a side list (R255). -/
structure SideEnt where
  seq : Nat
  insert : Bool
  rec_ : IdxRec
  deriving DecidableEq, Repr

/-- An older generation that running searches use (R257): what it holds, the pages of its page table, and the pages to
release with it. -/
structure OldGen where
  gen : IdxGen
  pages : Nat
  release : List Nat
  deriving DecidableEq, Repr

/-- An installed index (R246): its shape, the current generation with its page table as T2 locations, MARK, the side
entries kept, and the older generations in use. -/
structure Index where
  die : Nat
  num : Nat
  shape : IdxShape
  gen : IdxGen
  table : List Nat
  mark : Nat
  side : List SideEnt
  old : List OldGen
  deriving DecidableEq, Repr

/-- A search that runs (R251 to R255): what it took at admission, whether its batch waits, the size of the batch it ran
in, and the record number of its message (R433). -/
structure Search where
  die : Nat
  qid : Nat
  env : Env
  msg : SearchMsg
  generation : Nat
  cutoff : Nat
  mark : Nat
  batch : Option Nat
  batched : Nat
  rec_ : Nat
  deriving DecidableEq, Repr

/-- Flash and wick engines (08): segments, stripe buffers, the next SEQ of each group, running collections, indexes and
searches. -/
structure Flash where
  segs : List Seg
  stripes : List Stripe
  seqs : List ((Nat × Nat) × Nat)
  gcs : List (Nat × Nat × Nat)
  indexes : List Index
  searches : List Search
  nextQid : Nat
  deriving DecidableEq, Repr

/-! ### Identity (14) -/

/-- The fuses of die 0 (R367) that commands burn: state, owner slots, SVN floor, ROOT_KILL. They outlive every reset. -/
structure Fuses where
  lc : Nat
  used0 : Bool
  valid0 : Bool
  used1 : Bool
  valid1 : Bool
  floor : Nat
  rootKill : Bool
  deriving DecidableEq, Repr

/-- Identity (14): fuses, the two window objects that change (R381), the report being signed with its KIND (R369), the
command that runs, reports signed, the digest of the last KIND 1 report signed (R379), whether SCRUB_ALL was accepted in this run, and what
it found (R370). -/
structure Ident where
  fuses : Fuses
  report : List Byte
  pkg : List (Nat × Word)
  signing : Option (Nat × List Byte)
  cmd : Option Nat
  reports : Nat
  scrubDigest : Option Nat
  closed : Bool
  scrubPos : Nat
  scrubT1 : Nat
  scrubSram : Nat
  scrubSkip : Nat
  deriving DecidableEq, Repr

/-! ### Checkpoint (15) -/

/-- What a checkpoint set holds (R386 to R389): the mark, the boundary count, GLB_MODE.SERVICE, the registers, every
structure that stands in T1, CONFIG_DIGEST, the KEY_CHECK values, the saved stripe units by die, the pinned segments, and the
T3 extents. -/
structure Snap where
  id : Nat
  mark : Nat
  boundary : Nat
  service : Nat
  regs : List (RegKey × Word)
  ses : Sessions
  kv : Kv
  results : List Result
  nextOrder : Nat
  grams : List ((Nat × Nat) × Gram)
  flash : Flash
  t1a : List Host.Cell
  t1b : List Host.Cell
  digest : Nat
  keys : List (Nat × Nat)
  units : List (Nat × Nat)
  pins : List (Nat × Nat × Nat)
  extents : List (Nat × Nat × Nat)
  deriving DecidableEq, Repr

/-- A shard's header in the checkpoint area (R392). -/
structure ShardHdr where
  slot : Nat
  shard : Nat
  done : Bool
  id : Nat
  mark : Nat
  kind : Nat
  trigger : Nat
  boundary : Nat
  bodyLen : Nat
  deriving DecidableEq, Repr

/-- The running checkpoint (R390): its kind and trigger, the shards each die has still to finish, the one being copied
first. -/
structure CkptRun where
  id : Nat
  slot : Nat
  kind : Nat
  trigger : Nat
  order0 : List Nat
  order1 : List Nat
  deriving DecidableEq, Repr

/-- Checkpoints (15): the planned mark with kind and trigger, the running checkpoint, the next ID (none before the first
checkpoint of a run without a restore), the headers and sets that stand in the checkpoint area of the fabric endpoint, the
checkpoints that are retained (R393), the stripe units copied ahead of a write (R391), and the RESTORE that loads with the set it chose. -/
structure Ckpt where
  plan : Option (Nat × Nat × Nat)
  run : Option CkptRun
  nextId : Option Nat
  heads : List ShardHdr
  snaps : List Snap
  retained : List Nat
  early : List (Nat × Nat)
  restore : Option (Env × Nat)
  deriving DecidableEq, Repr

/-! ### Faults (16) -/

/-- A voltage request of a plan (R463): RAIL (0 VDD_CORE, 1 VDD_SRAM), MV, and whether the voltage rises. -/
structure VReq where
  rail : Nat
  mv : Nat
  rise : Bool
  deriving DecidableEq, Repr

/-- An accepted plan (R423): whether the clock has been switched, its voltage requests to come, the one that awaits
acknowledgement first, and when that one was made. -/
structure Plan where
  point : Nat
  refresh : Nat
  vcore : Nat
  vsram : Nat
  clocked : Bool
  reqs : List VReq
  since : Nat
  deriving DecidableEq, Repr

/-- Faults and ageing (16): clusters whose spare has passed its test and waits for the remap (R410), the last passing test
of a core with its boundary count (R409), logical cores left unmapped (R412), spared SRAM rows by unit code (R415), the plan
being applied and the one that waits for its step boundary (R423), units above a drift limit (R421), the cores whose SRAM has failed once in this step (R408), and the
failed lanes of the die-to-die link (R404). -/
structure Health where
  spareOk : List (Nat × Nat)
  kat : List ((Nat × Nat × Nat) × (Nat × Nat))
  unmapped : List (Nat × Nat × Nat)
  rows : List Nat
  plan : Option Plan
  nextPlan : Option Plan
  aged : List (Nat × Nat)
  sramErrs : List (Nat × Nat × Nat)
  d2d : List Nat
  deriving DecidableEq, Repr

/-! ### Replay (17) -/

/-- The body of a record (R434). A MESSAGE keeps the command it came as, a WRITE of WK_MERGE the descriptor it names. -/
inductive RecBody where
  | message (c : Instr)
  | object (o : IngestObj)
  | beacon (w : HistRec)
  | write (addr : Nat) (v : Word) (core : Nat) (p : Option PendingIdx)
  | sideband (addr : Nat) (v : Word)
  | digest (msg : Nat) (form : Nat)
  deriving DecidableEq, Repr

/-- A record (R434). -/
structure Rec where
  rseq : Nat
  pos : Nat
  status : Nat
  port : Nat
  ctx : Nat
  ep : Nat
  length : Nat
  body : RecBody
  deriving DecidableEq, Repr

/-- The recording area of the fabric endpoint (R435): STATE (0 when nothing was recorded), GAP, and the header's fields. -/
structure Recording where
  state : Nat
  gap : Bool
  ckptId : Nat
  mark : Nat
  fw : Nat
  bodyLen : Nat
  digest : Nat
  map : List Word
  recs : List Rec
  deriving DecidableEq, Repr

/-- Record and replay (17): the area, the records still to inject, the messages whose form has matched or diverged, the
message that is being executed with its record number, the answer it got (type, status, body), the receive times of the
last BEACON record, recorded and injected (R438), and whether the record at the front has been counted as held (R439). -/
structure Replay where
  area : Recording
  left : List Rec
  formed : List Nat
  msg : Option Nat
  answered : Option (Nat × Nat × List Byte)
  lastBeacon : Option (Nat × Nat)
  held : Bool
  deriving DecidableEq, Repr

/-! ### Pins (18) -/

/-- Pins (18): PWR_OK is high, RESET_N is released, the thermal trip has stopped the clocks (R453), the in-band interrupts
that wait for the controller (R462), the outcome of the last sideband access (R460), the bytes that the last I3C common command
returned (R459), whether CORE_REFCLK is back but not yet in use (R451), and the JTAG instruction in force on each die (R376). -/
structure Pins where
  power : Bool
  released : Bool
  tripped : Bool
  ibi : List Nat
  outcome : Nat × Word
  ccc : List Byte
  coreBack : Bool
  jtag : List (Nat × JtagInstr)
  deriving DecidableEq, Repr

/-! ### The machine -/

/-- Reasons a step stops with a fault. -/
inductive Fault where
  /-- Raised by CORE_T1_STORE for an address beyond T1's last granule (R359 rule 5): the spec says that T1 holds
  6,781,250,000 granules of a die and no more. Safe: the machine stops. -/
  | noSuchT1
  deriving DecidableEq, Repr

/-- Reasons a step is refused. -/
inductive Refusal where
  /-- A command without a meaning yet. Raised by an arm of `exec` only. Safe: the machine stops. -/
  | notModelled (mnemonic : String)
  /-- Raised by JTAG_INSTRUCTION for an instruction of Ibgar's own, accepted in the states R376 names; the spec gives it
  no effect. Safe: the machine stops. -/
  | makerInstruction
  deriving DecidableEq, Repr

/-- The machine. `now` is the internal time count in ns (R17), `pending` the queue of waiting commands, `free` the counter
that free values are taken from (the model's own, log 6). -/
structure State where
  now : Nat
  pending : List Instr
  free : Nat
  regs : List (RegKey × Word)
  bcn : Beacon
  ev : Events
  ses : Sessions
  kv : Kv
  attn : Attn
  grams : List ((Nat × Nat) × Gram)
  net : Net
  lamp : Lamp
  tier : Tier
  start : Start
  flash : Flash
  ident : Ident
  ckpt : Ckpt
  health : Health
  rp : Replay
  pins : Pins
  deriving DecidableEq, Repr

/-! ### Reset -/

/-- TIERS of no image. -/
def TierRec.none_ : TierRec :=
  { t1Pool := 0, t2Size := 0, t3Size := 0, sptEntries := 0, results := 0, gstoreMib := 0, errlog := 0, events := 0,
    beacon := 0, scrubJobs := 0, testUnits := 0, reasmKib := 0 }

/-- No image: what stands before start has loaded one (log 5). -/
def Image.none_ : Image :=
  { check := .noNor, sigRoot := 0, autoNormal := false, signedLen := 0, fwVersion := 0, svn := 0, buildId0 := 0,
    buildId1 := 0, geometry := { layers := 0, kvHeads := 0, qHeads := 0, headDim := 0, alpha := 0 },
    digest := 0, tiers0 := TierRec.none_, tiers1 := TierRec.none_, ports := [], beaconAllow := [], endpoints := [], contexts := [],
    registers := [],
    envelope := { formOk := false, refreshMax := 0, ageLimitPpm := 0, eyeMinMv := 0, eyeMinMui := 0, dramMinPs := 0,
                  tjWarnC := 0, points := [] },
    grammars := [], retire := [], hasNand := false }

/-- The tracker at reset (R15, R19, R33). -/
def Beacon.reset : Beacon :=
  { trk := .noPhase, before := .noPhase, anchor := 0, tRef := 0, frozen := none, periods := [], lastStart := none,
    taint := false, frames := false, lastPin := none, lastFrame := none, enabledAt := 0, cleanLayers := 0, cleanAt := none,
    hold := none, back := 0, pend := none, frameSeq := none, coastFrom := 0, fired := 0, gateBase := 0, after := none, echoes := [],
    echoed := [], history := [] }

/-- Transport at reset: no link, nothing queued. -/
def Net.reset : Net :=
  { ports := [], wire := [], seqIn := [], seqOut := [], objOut := [], reasm := [], ready := [], poolBusy := [], subs := [], qps := [],
    ingest := [], ptp := { inBound := 0, outBound := 0, deviceNs := 0, at_ := 0 }, startVal := 0, firing := false }

/-- Tiers and memory at reset: T1 reads zero (R360 step 6). -/
def Tier.reset : Tier :=
  { moves := [], cold := [], promos := [], trigs := [], restores := [], evicting := [], err0 := [], err1 := [],
    retired := [], test := [], ces := [], ceOver := [], rest := [], pfDone := 0, fixedEnd0 := 0, fixedEnd1 := 0, t1a := [],
    t1b := [] }

/-- Nothing recorded (R435). -/
def Recording.none_ : Recording :=
  { state := 0, gap := false, ckptId := 0, mark := 0, fw := 0, bodyLen := 0, digest := 0, map := [], recs := [] }

/-- The machine right after reset: every register at its Reset column, nothing stored, nothing queued, PWR_OK high and
RESET_N still asserted; the fuses as shipped (R467, log 7). -/
def State.reset : State :=
  { now := 0, pending := [], free := 0, regs := []
    bcn := Beacon.reset
    ev := { ring0 := [], ring1 := [], alerts0 := [], alerts1 := [], once := [], lastStepEnd := 0 }
    ses := { recs := [], opens := [], held0 := [], held1 := [], home := [], stalled := [] }
    kv := { leaves := [], shared := [], staging := [], areas := [], images := [], copies := [], tlb := [], walkCache := [] }
    attn := { results := [], groups := [], attendSteps := [], drawSteps := [], recent := [], nextOrder := 0, missed := [],
              gateMissed := [] }
    grams := []
    net := Net.reset
    lamp := { track := [], scrubs := [], nextJob := 0, cores := [], services := [], faults := [] }
    tier := Tier.reset
    start := { img := Image.none_, locked := false, deadLanes := [] }
    flash := { segs := [], stripes := [], seqs := [], gcs := [], indexes := [], searches := [], nextQid := 0 }
    ident := {
      fuses := { lc := 0, used0 := false, valid0 := false, used1 := false, valid1 := false, floor := 0, rootKill := false }
      report := [], pkg := [], signing := none, cmd := none, reports := 0, scrubDigest := none, closed := false
      scrubPos := 0, scrubT1 := 0, scrubSram := 0, scrubSkip := 0 }
    ckpt := { plan := none, run := none, nextId := none, heads := [], snaps := [], retained := [], early := [], restore := none }
    health := {
      spareOk := [], kat := [], unmapped := [], rows := [], plan := none, nextPlan := none, aged := [], sramErrs := []
      d2d := [] }
    rp := { area := Recording.none_, left := [], formed := [], msg := none, answered := none, lastBeacon := none, held := false }
    pins := { power := true, released := false, tripped := false, ibi := [], outcome := (0, 0), ccc := [], coreBack := false,
              jtag := [] } }

end Sys2Proof.Machine
end

