-- ==== Sys2Proof/Machine/Ops.lean ====
section
/-! DEFINITION. The named operations over the state's plain data: association lists, bit fields, the register file
(R7, R470 to R474), byte codecs (R5, R271), time, and T1 bytes. -/

namespace Sys2Proof.Machine

/-- The outcome of a command. -/
abbrev Res := Host.Outcome State Fault Refusal

/-! ### Association lists -/

/-- The value of key `k`. -/
def alGet {α β : Type} [DecidableEq α] (k : α) : List (α × β) → Option β
  | [] => none
  | p :: l => if p.1 = k then some p.2 else alGet k l

/-- `l` without key `k`. -/
def alErase {α β : Type} [DecidableEq α] (k : α) : List (α × β) → List (α × β)
  | [] => []
  | p :: l => if p.1 = k then alErase k l else p :: alErase k l

/-- `l` with `k` bound to `v`. -/
def alSet {α β : Type} [DecidableEq α] (k : α) (v : β) (l : List (α × β)) : List (α × β) :=
  (k, v) :: alErase k l

/-! ### Bits and bytes -/

/-- Bits `hi` down to `lo` of a register word, as a number (R4). -/
def getBits (w : Word) (hi lo : Nat) : Nat := (w.extractLsb' lo (hi - lo + 1)).toNat

/-- The word with ones in bits `hi` down to `lo`. -/
def bitMask (hi lo : Nat) : Word := (BitVec.ofNat 64 (2 ^ (hi - lo + 1) - 1)) <<< lo

/-- `w` with bits `hi` down to `lo` set to `v`, which is cut to the field. -/
def setBits (w : Word) (hi lo v : Nat) : Word :=
  (w &&& ~~~(bitMask hi lo)) ||| ((BitVec.ofNat 64 v <<< lo) &&& bitMask hi lo)

/-- The largest value of a field `hi` down to `lo`. -/
def fieldMax (hi lo : Nat) : Nat := 2 ^ (hi - lo + 1) - 1

/-- `n` bytes of a number, most significant first (network order, R5). -/
def be (n v : Nat) : List Byte :=
  match n with
  | 0 => []
  | k + 1 => BitVec.ofNat 8 (v / 2 ^ (8 * k)) :: be k v

/-- `n` bytes of a number, least significant first (R5). -/
def le (n v : Nat) : List Byte :=
  match n with
  | 0 => []
  | k + 1 => BitVec.ofNat 8 v :: le k (v / 256)

/-- The number that bytes in network order spell. -/
def beNat (l : List Byte) : Nat := l.foldl (fun a b => a * 256 + b.toNat) 0

/-- The number that little-endian bytes spell. -/
def leNat : List Byte → Nat
  | [] => 0
  | b :: l => b.toNat + 256 * leNat l

/-- `n` zero bytes. -/
def zeros (n : Nat) : List Byte := List.replicate n 0

/-- The number of a Boolean bit. -/
def b2n (b : Bool) : Nat := if b then 1 else 0

/-- Pieces of `n + 1` elements, the last one shorter. -/
def chunksAux {α : Type} (n : Nat) : Nat → List α → List (List α)
  | 0, _ => []
  | _, [] => []
  | fuel + 1, l => l.take (n + 1) :: chunksAux n fuel (l.drop (n + 1))

/-- `l` cut into pieces of `n` elements (`n` at least 1), the last one shorter. -/
def chunks {α : Type} (n : Nat) (l : List α) : List (List α) := chunksAux (n - 1) l.length l

/-! ### The register file -/

/-- The order of register keys. -/
def RegKey.lt (a b : RegKey) : Bool :=
  a.die < b.die || (a.die == b.die && (a.blk < b.blk || (a.blk == b.blk &&
    (a.off < b.off || (a.off == b.off && a.sel < b.sel)))))

/-- The reset word of a key (the Reset columns of the register tables). -/
def RegKey.reset (k : RegKey) : Word := regReset k.die ⟨k.blk, k.off⟩

/-- The word a key holds: its listed word, or its reset word. -/
def regGet (l : List (RegKey × Word)) (k : RegKey) : Word := (alGet k l).getD k.reset

/-- `l` with `k` bound to `w`, put before the first key above it. -/
def regInsert (k : RegKey) (w : Word) : List (RegKey × Word) → List (RegKey × Word)
  | [] => [(k, w)]
  | p :: l => if k.lt p.1 then (k, w) :: p :: l else p :: regInsert k w l

/-- `l` with `k` holding `w`, in canonical form: keys rising, no key at its reset word. -/
def regSet (l : List (RegKey × Word)) (k : RegKey) (w : Word) : List (RegKey × Word) :=
  if w = k.reset then alErase k l else regInsert k w (alErase k l)

/-- The register file's canonical form: keys strictly rising, no entry at its reset word. -/
def regsWf : List (RegKey × Word) → Bool
  | [] => true
  | p :: l => decide (p.2 ≠ p.1.reset) && l.all (fun q => p.1.lt q.1) && regsWf l

/-- The word of register `r`, item `sel`, on `die`. -/
def State.reg (s : State) (die sel : Nat) (r : RegId) : Word := regGet s.regs ⟨die, r.blk, r.off, sel⟩

/-- `s` with register `r`, item `sel`, on `die`, holding `w`. -/
def State.setReg (s : State) (die sel : Nat) (r : RegId) (w : Word) : State :=
  { s with regs := regSet s.regs ⟨die, r.blk, r.off, sel⟩ w }

/-- A field of a register. -/
def State.fld (s : State) (die sel : Nat) (f : Field) : Nat := getBits (s.reg die sel f.reg) f.hi f.lo

/-- `s` with a field set. -/
def State.setFld (s : State) (die sel : Nat) (f : Field) (v : Nat) : State :=
  s.setReg die sel f.reg (setBits (s.reg die sel f.reg) f.hi f.lo v)

/-- A field raised by `n`, stopping at all ones ("saturates at its all-ones value"). -/
def State.bumpBy (s : State) (die sel : Nat) (f : Field) (n : Nat) : State :=
  s.setFld die sel f (min (s.fld die sel f + n) (fieldMax f.hi f.lo))

/-- A field raised by 1, stopping at all ones. -/
def State.bump (s : State) (die sel : Nat) (f : Field) : State := s.bumpBy die sel f 1

/-- A field lowered by `n`, stopping at 0. -/
def State.lower (s : State) (die sel : Nat) (f : Field) (n : Nat) : State :=
  s.setFld die sel f (s.fld die sel f - n)

/-! ### Time, free values -/

/-- The time count is at least `t`: times never run backward. -/
def State.tick (s : State) (t : Nat) : State := { s with now := max s.now t }

/-- A fresh free value (log 6). -/
def State.freeVal (s : State) : Nat := Config.freeNat s.free

/-- The counter of free values moves on. -/
def State.nextFree (s : State) : State := { s with free := s.free + 1 }

/-- IEEE 1588 time in ns (R268). -/
def State.ieee (s : State) : Nat := s.net.ptp.deviceNs + (s.now - s.net.ptp.at_)

/-! ### The resident geometry (R354) and places -/

/-- Resident layers. -/
def State.layers (s : State) : Nat := s.start.img.geometry.layers
/-- Resident KV heads. -/
def State.kvh (s : State) : Nat := s.start.img.geometry.kvHeads
/-- Resident query heads. -/
def State.qh (s : State) : Nat := s.start.img.geometry.qHeads
/-- Head dimension of the code in GEOMETRY (R354). -/
def headDimOf (code : Nat) : Nat := if code = 0 then 64 else if code = 1 then 128 else 256
/-- Resident head dimension. -/
def State.dim (s : State) : Nat := headDimOf s.start.img.geometry.headDim
/-- Resident alphabet size (R162). -/
def State.alpha (s : State) : Nat := s.start.img.geometry.alpha
/-- Bytes of a staging row (R76). -/
def State.rowBytes (s : State) : Nat := 4 * s.kvh * s.dim

/-- The die of a slot (R35). -/
def slotDie (slot : Nat) : Nat := if slot / 524288 % 2 = 1 then 1 else 0
/-- The die of a port (R265). -/
def portDie (port : Nat) : Nat := if port < 24 then 0 else 1

/-- GLB_START.STATUS (R364). -/
def State.status (s : State) : Nat := s.fld 0 0 Fld.GLB_START_STATUS
/-- STATUS is 0x7 or 0x8 (R363). -/
def State.up (s : State) : Bool := s.status == 7 || s.status == 8
/-- The J716 runs: STATUS is 0x7 or 0x8, and no thermal trip has stopped its clocks (R453). -/
def State.running (s : State) : Bool := s.up && !s.pins.tripped
/-- Normal service (R363). -/
def State.normal (s : State) : Bool := s.status == 8

/-- Endpoint record (R356). -/
def State.endpoint (s : State) (ep : Nat) : Option EpRec := s.start.img.endpoints.find? (fun r => r.id == ep)
/-- Role of an endpoint (R42); an unknown endpoint has role NONE. -/
def State.role (s : State) (ep : Nat) : Nat := match s.endpoint ep with | some r => r.role | none => 0
/-- Context record (R357). -/
def State.context (s : State) (ctx : Nat) : Option CtxRec := s.start.img.contexts.find? (fun r => r.id == ctx)
/-- An endpoint is listed for a context (R42). -/
def State.listed (s : State) (ctx ep : Nat) : Bool :=
  match s.context ctx with | some c => c.eps.contains ep | none => false
/-- The context is torn down (R338). -/
def State.torn (s : State) (ctx : Nat) : Bool := s.fld 0 ctx Fld.LP_CTX_CTRL_TORN == 1

/-! ### T1 bytes -/

/-- The byte at `a`: its listed value, or 0 (R360 step 6). -/
def memGet (m : List Host.Cell) (a : Nat) : Byte := (alGet a m).getD 0

/-- `m` with cell `a` put before the first address above it. -/
def memInsert (a : Nat) (b : Byte) : List Host.Cell → List Host.Cell
  | [] => [(a, b)]
  | p :: l => if a < p.1 then (a, b) :: p :: l else p :: memInsert a b l

/-- `m` with `b` at `a`, in canonical form. -/
def memSet (m : List Host.Cell) (a : Nat) (b : Byte) : List Host.Cell :=
  if b = 0 then alErase a m else memInsert a b (alErase a m)

/-- Bytes written from `a` upward. -/
def memWrite (m : List Host.Cell) (a : Nat) : List Byte → List Host.Cell
  | [] => m
  | b :: l => memWrite (memSet m a b) (a + 1) l

/-- `n` bytes from `a` upward made zero. -/
def memZero (m : List Host.Cell) (a n : Nat) : List Host.Cell :=
  m.filter (fun p => p.1 < a || a + n ≤ p.1)

/-- The canonical form of T1 bytes: addresses strictly rising, no zero byte listed. -/
def memWf : List Host.Cell → Bool
  | [] => true
  | p :: l => decide (p.2 ≠ 0) && l.all (fun q => p.1 < q.1) && memWf l

/-- T1 bytes of a die. -/
def State.t1 (s : State) (die : Nat) : List Host.Cell := if die = 0 then s.tier.t1a else s.tier.t1b

/-- `s` with the T1 bytes of a die replaced. -/
def State.setT1 (s : State) (die : Nat) (m : List Host.Cell) : State :=
  if die = 0 then { s with tier := { s.tier with t1a := m } } else { s with tier := { s.tier with t1b := m } }

/-! ### Sessions, by slot -/

/-- The record of a free slot that has never been used: generation 1, everything else zero (R360 step 6). -/
def Session.fresh : Session :=
  { node := 0, gen := 1, st := .free, heldReason := 0, context := 0, owner := 0, lastBy := 0, epoch := 0,
    leaseLen := 0, leaseEnd := 0, length := 0, window := 0, globals := 0, scrubPending := false, promoting := false,
    dense := false, vbase := 0, openStep := 0, lastPos := 0, reqTag := 0, seed := 0,
    fin := { on := false, gram := 0, gstate := 0, sp := 0, hold := [], fops := 0 }, crcBad := false }

/-- The handle of a slot's record (R35). -/
def Session.handle (r : Session) (slot : Nat) : Nat := r.node * 2 ^ 48 + r.gen * 2 ^ 24 + slot

/-- The record of a slot. -/
def State.sess (s : State) (slot : Nat) : Session := (alGet slot s.ses.recs).getD Session.fresh

/-- `s` with the record of a slot replaced. -/
def State.setSess (s : State) (slot : Nat) (r : Session) : State :=
  { s with ses := { s.ses with recs := alSet slot r s.ses.recs } }

end Sys2Proof.Machine
end

