-- ==== Sys2Proof/Machine/Clock.lean ====
section
/-! DEFINITION. Step positions and the position estimate (R6, R17 to R19), and the predicates over tracker states. -/

namespace Sys2Proof.Machine

/-- The R6 ordering value of S:L:P. -/
def posOrd (S L P : Nat) : Nat := S * 65536 + L * 256 + P

/-- A linear position: sub-phases counted with carry across layers and steps (R9). -/
def posLin (layers S L P : Nat) : Nat := (S * layers + L) * 256 + P

/-- The linear position of an ordering value. -/
def ordToLin (layers o : Nat) : Nat := posLin layers (o / 65536) (o / 256 % 256) (o % 256)

/-- The ordering value of a linear position. -/
def linToOrd (layers x : Nat) : Nat := posOrd (x / 256 / layers) (x / 256 % layers) (x % 256)

/-- The code BCN_STATUS.STATE shows (R19). -/
def Trk.code : Trk → Nat
  | .noPhase => 0 | .learning => 1 | .locked => 2 | .coasting => 3 | .lost => 4

/-- The states in which triggers fire (R19). -/
def Trk.fires : Trk → Bool
  | .learning | .locked | .coasting => true
  | .noPhase | .lost => false

/-- Sum of the periods of the window. -/
def Beacon.periodSum (b : Beacon) : Nat := b.periods.foldl (· + ·) 0

/-- The least period of the window, 0 when it is empty (R18). -/
def Beacon.minPeriod (b : Beacon) : Nat :=
  match b.periods with
  | [] => 0
  | p :: l => l.foldl min p

/-- The mean period, rounded down for display (R18, R33; log 11). -/
def Beacon.meanPeriod (b : Beacon) : Nat := b.periodSum / b.periods.length

/-- n × |period − mean| as exact figures over the window's n periods, the largest of them (R18). -/
def Beacon.devScaled (b : Beacon) : Nat :=
  b.periods.foldl (fun (m p : Nat) => max m (Int.natAbs ((p : Int) * (b.periods.length : Int) - (b.periodSum : Int)))) 0

/-- Sub-phases since the reference instant: floor((t − t_ref) / T_sp), T_sp the exact mean over 256 (R17; log 11). -/
def Beacon.advance (b : Beacon) (t : Nat) : Nat :=
  if b.periodSum = 0 then 0 else (t - b.tRef) * 256 * b.periods.length / b.periodSum

/-- The estimate at time `t` as a linear position (R17, R20, R21, R22). -/
def Beacon.est (b : Beacon) (t : Nat) : Nat :=
  match b.frozen with
  | some p => p
  | none =>
    if b.trk = .coasting then b.anchor + b.advance t
    else if b.hold.isSome then b.anchor
    else min (b.anchor + b.advance t) (b.anchor / 256 * 256 + 255)

/-- The estimate now, as a linear position. -/
def State.est (s : State) : Nat := s.bcn.est s.now

/-- The estimate now, as the R6 ordering value. -/
def State.pos (s : State) : Nat := linToOrd s.layers s.est

/-- The step of the estimate. -/
def State.step (s : State) : Nat := s.est / 256 / s.layers

/-- Triggers fire now (R19). -/
def State.fires (s : State) : Bool := s.bcn.trk.fires

/-- The boundary count (R45); die 1 takes it from die 0. -/
def State.boundary (s : State) : Nat := s.fld 0 0 Fld.SES_BOUNDARY_COUNT

/-- ceil(a / b). -/
def ceilDiv (a b : Nat) : Nat := (a + b - 1) / b

/-- A lead in sub-phases from a fetch time and a guard in µs (R28, R34): exact, with the least period of the window. -/
def leadOf (minPeriod fetchUs guardUs lo hi : Nat) : Nat :=
  min hi (max lo (ceilDiv ((fetchUs + guardUs) * 1000 * 256) minPeriod))

/-- A target less a lead, not before 0:0:0 (R29). -/
def trigAt (target lead : Nat) : Nat := target - lead

/-- The age stamp (R72). -/
def State.stamp (s : State) (die : Nat) : Nat := s.boundary / 2 ^ s.fld die 0 Fld.XL_CTRL_AGE_SHIFT % 1024

/-- The age of an entry (R72). -/
def State.ageOf (s : State) (die age : Nat) : Nat := (s.stamp die + 1024 - age % 1024) % 1024

end Sys2Proof.Machine
end

