-- ==== Sys2Proof/Machine/Chim.lean ====
section
/-! DEFINITION. The chimney (R291 to R306): classes, fair queueing, shapers, gates, the guard test, and the choice of the
next frame of a port. -/

namespace Sys2Proof.Machine

/-! ### Ports -/

/-- A port with nothing queued, its link down. -/
def Port.idle : Port :=
  { link := false, queue := [], classes := [], sending := none, since := 0, opened := [], overrunLayer := none,
    swapAt := false }

/-- The port of a number. -/
def State.port (s : State) (p : Nat) : Port := (alGet p s.net.ports).getD Port.idle

/-- `s` with a port replaced. -/
def State.setPort (s : State) (p : Nat) (v : Port) : State :=
  { s with net := { s.net with ports := alSet p v s.net.ports } }

/-- A class with V, every F and the credit at 0 (R296, R297). -/
def ClassState.idle : ClassState :=
  { v := 0, tags := [], credit := 0, creditAt := 0, pendShaper := none, pausedUntil := 0 }

/-- The state of a class of a port. -/
def Port.cls (p : Port) (c : Nat) : ClassState := (alGet c p.classes).getD ClassState.idle

/-- A port with a class replaced. -/
def Port.setCls (p : Port) (c : Nat) (v : ClassState) : Port := { p with classes := alSet c v p.classes }

/-- Rate of a port in Gb/s: 200, 400 or 800 (R265). -/
def State.rate (s : State) (p : Nat) : Nat := 200 * 2 ^ s.fld (portDie p) p Fld.ETH_PORT_CFG_LANES

/-- Shaper register of class `c` (R308). -/
def shaperReg (c : Nat) : RegId := ⟨0x0B, 0x48 + 8 * c⟩

/-- Idle slope of a class in Mb/s (R297). -/
def State.idleSlope (s : State) (p c : Nat) : Nat := getBits (s.reg (portDie p) p (shaperReg c)) 31 0

/-- Credit ceiling of a class in bytes (R297). -/
def State.hiCredit (s : State) (p c : Nat) : Nat := getBits (s.reg (portDie p) p (shaperReg c)) 55 32

/-- The class of a kind of frame (R291). -/
def State.kindClass (s : State) (die kind : Nat) : Nat :=
  getBits (s.reg die 0 Reg.CH_CLASS_MAP) (4 * kind + 2) (4 * kind)

/-- The weight of a flow (R295): the device flow is 4,096. A weight of 0, which no write can set, counts as 1. -/
def State.weight (s : State) (die flow : Nat) : Nat :=
  max 1 (if flow = 4096 then s.fld die 0 Fld.CH_CTRL_DEV_WEIGHT else s.fld die flow Fld.CH_CTX_WEIGHT_WEIGHT)

/-- Counted length of a frame of `len` bytes on a port (R294). -/
def State.counted (s : State) (p len : Nat) : Nat := len + s.fld (portDie p) p Fld.CH_PORT_CFG_OVERHEAD

/-! ### Gates -/

/-- Entry `i` of the active list of a port. -/
def State.gate (s : State) (p i : Nat) : Word := s.reg (portDie p) (p * 64 + i) Reg.CH_GATE_ACTIVE

/-- Gates are in force on a port (R308). -/
def State.gatesOn (s : State) (p : Nat) : Bool := s.fld (portDie p) p Fld.CH_GATE_CTRL_GATE_EN == 1

/-- The valid entries of the active list. -/
def State.gateList (s : State) (p : Nat) : List Nat :=
  if s.gatesOn p then (List.range 64).filter (fun i => getBits (s.gate p i) 63 63 == 1) else []

/-- An entry names a layer (R299). -/
def gateLayer (w : Word) (l : Nat) : Bool := getBits w 60 60 == 1 || getBits w 38 32 == l

/-- An entry names a class (R299). -/
def gateNames (w : Word) (c : Nat) : Bool := getBits w 31 24 / 2 ^ c % 2 == 1

/-- An entry is open at a linear position, its open lying at or after `since` (R299, R305, R477). -/
def gateOpenAt (layers since : Nat) (w : Word) (x : Nat) : Bool :=
  gateLayer w (x / 256 % layers) && decide (getBits w 7 0 ≤ x % 256) && decide (x % 256 < getBits w 16 8)
    && decide (since ≤ x / 256 * 256 + getBits w 7 0)

/-- A class of a port is gated (R300). -/
def State.gated (s : State) (p c : Nat) : Bool :=
  s.gatesOn p && s.fld (portDie p) p Fld.CH_GATE_CTRL_GATED / 2 ^ c % 2 == 1

/-- A class is open while the given entries are open (R300). -/
def State.openWith (s : State) (p c : Nat) (entries : List Nat) : Bool :=
  (!s.gated p c || entries.any (fun i => gateNames (s.gate p i) c))
    && !(entries.any (fun i => getBits (s.gate p i) 62 62 == 1 && !gateNames (s.gate p i) c))

/-- A class is open now (R300, R305). While the tracker has no phase no entry is open, and gated classes other than the
class of kind 0 act as ungated. -/
def State.classOpen (s : State) (p c : Nat) : Bool :=
  if s.fires then s.openWith p c (s.port p).opened
  else !s.gated p c || decide (c ≠ s.kindClass (portDie p) 0)

/-- The entries open at a linear position by the triggers fired since `gateBase`. -/
def State.entriesAt (s : State) (p x : Nat) : List Nat :=
  (s.gateList p).filter (fun i => gateOpenAt s.layers s.bcn.gateBase (s.gate p i) x)

/-- The next linear position after `x` at sub-phase `sp` (0 to 256) of a layer that the entry names. -/
def nextAt (layers : Nat) (w : Word) (sp x : Nat) : Nat :=
  if getBits w 60 60 = 1 then
    (if x < x / 256 * 256 + sp then x / 256 * 256 + sp else (x / 256 + 1) * 256 + sp)
  else
    let l := getBits w 38 32
    let back := (x / 256 + layers - l % layers) % layers
    let base := (x / 256 - back) * 256 + sp
    if x < base ∧ back ≤ x / 256 then base else (x / 256 + layers - back) * 256 + sp

/-- Positions at which a trigger would close class `c`: closes of entries that name it, opens of EXCL entries that do
not (R301). -/
def State.edgeCands (s : State) (p c x : Nat) : List Nat :=
  (s.gateList p).map (fun i =>
    let w := s.gate p i
    if gateNames w c then nextAt s.layers w (getBits w 16 8) x
    else if getBits w 62 62 = 1 then nextAt s.layers w (getBits w 7 0) x else 0)
  |>.filter (fun e => decide (x < e))

/-- The next edge of class `c` after the estimate: the least candidate at which the class is closed (R301). -/
def State.nextEdge (s : State) (p c : Nat) : Option Nat :=
  (((s.edgeCands p c s.est).filter (fun e => !s.openWith p c (s.entriesAt p e))).min?)

/-- 256 times the predicted time of an edge (R301): from the word's reference instant, with the least period or
CH_CTRL.GUARD_TSP_NS. -/
def State.edgeTime256 (s : State) (p e : Nat) : Nat :=
  let tsp256 := if s.bcn.minPeriod = 0 then 256 * s.fld (portDie p) 0 Fld.CH_CTRL_GUARD_TSP_NS else s.bcn.minPeriod
  256 * s.bcn.tRef + (e - s.bcn.anchor) * tsp256

/-- The guard band of a port in whole ns (R301). -/
def State.guardBand (s : State) (p : Nat) : Nat :=
  let lc := s.fld (portDie p) p Fld.ETH_PORT_CFG_MTU + 22 + s.fld (portDie p) p Fld.CH_PORT_CFG_OVERHEAD
  ceilDiv (lc * 8) (s.rate p) + s.fld (portDie p) p Fld.CH_PORT_CFG_EXTRA_NS

/-- The guard test for a frame of counted length `lc` (R301). -/
def State.guardOk (s : State) (p c lc : Nat) : Bool :=
  if !s.fires then true
  else match s.nextEdge p c with
    | none => true
    | some e =>
      let te := s.edgeTime256 p e
      let extra := s.fld (portDie p) p Fld.CH_PORT_CFG_EXTRA_NS
      decide ((s.now + s.guardBand p) * 256 < te) ||
        decide ((s.now + extra) * 256 * s.rate p + lc * 8 * 256 ≤ te * s.rate p)

/-! ### Shapers -/

/-- The credit of a class brought up to `t` (R297), in bytes with 16 fractional bits. -/
def State.creditAt (s : State) (p c t : Nat) : Int :=
  let cs := (s.port p).cls c
  let i := s.idleSlope p c
  let queued := (s.port p).queue.any (fun f => f.cls == c)
  let sending := match (s.port p).sending with | some f => f.cls == c | none => false
  let rise : Int := (i * (t - cs.creditAt) * 65536 / 8000 : Nat)
  if i = 0 then cs.credit
  else if sending then cs.credit
  else if queued then
    (if s.classOpen p c && decide (cs.pausedUntil ≤ t) then min (cs.credit + rise) (s.hiCredit p c * 65536 : Nat)
     else cs.credit)
  else if cs.credit > 0 then 0 else min 0 (cs.credit + rise)

/-- Every class's credit of a port brought up to now. -/
def State.settle (s : State) (p : Nat) : State :=
  s.setPort p ((List.range 8).foldl (fun q c =>
    q.setCls c { (s.port p).cls c with credit := s.creditAt p c s.now, creditAt := s.now }) (s.port p))

/-! ### Queueing and choosing -/

/-- A frame joins its class queue with its finish tag (R295). A frame for a port that is down is lost (R269). -/
def State.enqueue (s : State) (p cls flow len : Nat) (result : Option (Nat × ResKey)) (body : FrameBody) : State :=
  if (s.port p).link then
    let s := s.settle p
    let cs := (s.port p).cls cls
    let tag := max cs.v ((alGet flow cs.tags).getD 0)
      + ceilDiv (s.counted p len * 65536) (s.weight (portDie p) flow)
    let q := (s.port p).setCls cls { cs with tags := alSet flow tag cs.tags }
    s.setPort p { q with
      queue := q.queue ++ [{ cls, flow, len, tag, held := false, split := false, result, body }] }
  else s

/-- The first of two frames by finish tag, ties to the lower flow (R293). -/
def QFrame.before (a b : QFrame) : Bool := decide (a.tag < b.tag) || (a.tag == b.tag && decide (a.flow ≤ b.flow))

/-- The frame that queueing would send next in a class (R293). -/
def Port.head (p : Port) (c : Nat) : Option QFrame :=
  (p.queue.filter (fun f => f.cls == c)).foldl
    (fun best f => match best with | none => some f | some b => if b.before f then some b else some f) none

/-- A frame of a result that is being finished: its first frame has started, or it was released after that (R158, R303,
R305). -/
def State.startedResult (s : State) (f : QFrame) : Bool :=
  match f.result with
  | some (slot, k) => !(s.attn.results.any (fun r => r.slot == slot && r.key == k && r.delivery != .started))
  | none => false

/-- A class may send but for the guard test (R293). -/
def State.classReady (s : State) (p c : Nat) : Bool :=
  match (s.port p).head c with
  | none => false
  | some f =>
    decide (((s.port p).cls c).pausedUntil ≤ s.now)
      && (decide (s.idleSlope p c = 0) || decide (0 ≤ ((s.port p).cls c).credit))
      && (s.classOpen p c || (!s.fires && s.startedResult f))

/-- A class is eligible (R293). -/
def State.eligible (s : State) (p c : Nat) : Bool :=
  match (s.port p).head c with
  | none => false
  | some f => s.classReady p c && s.guardOk p c (s.counted p f.len)

/-- The frames that the guard test holds now are counted once each (R301, log 12). -/
def State.countHeld (s : State) (p : Nat) : State :=
  (List.range 8).foldl (fun s c =>
    match (s.port p).head c with
    | none => s
    | some f =>
      if s.classReady p c && !s.guardOk p c (s.counted p f.len) && !f.held then
        let q := s.port p
        (s.setPort p { q with queue := q.queue.map (fun g => if g = f then { g with held := true } else g) }).bump
          (portDie p) p Fld.CH_COUNTS_GUARD_HELD
      else s) s

/-- The highest eligible class (R293). -/
def State.bestClass (s : State) (p : Nat) : Option Nat :=
  ([7, 6, 5, 4, 3, 2, 1, 0].find? (fun c => s.eligible p c))

/-- The status of the next return of a result (R149, R155): INTEGRITY, DONE or LIMIT the first time, REPLAY after it. -/
def Result.nextStatus (r : Result) : Nat :=
  if r.integrity.isSome then 0x0C else if r.firstRet.isSome then 0x02 else if r.dropped = 0 then 0x00 else 0x0B

/-- A return of a result is counted (R161), and the first one is noted (R155). -/
def State.noteReturn (s : State) (r : Result) : State :=
  let d := slotDie r.slot
  let s := if r.nextStatus = 0x02 then s.bump d 0 Fld.ATN_COUNTS1_REPLAY
    else if r.integrity.isSome && r.firstRet.isNone then s.bump d 0 Fld.ATN_COUNTS0_INTEGRITY else s
  { s with attn := { s.attn with results := s.attn.results.map (fun (x : Result) =>
      if x.slot = r.slot ∧ x.key = r.key then { x with firstRet := some (x.firstRet.getD s.boundary) } else x) } }

/-- A frame with the status of its result's return. -/
def QFrame.withStatus (key : Nat × ResKey) (status : Nat) (f : QFrame) : QFrame :=
  if f.result = some key then
    match f.body with
    | .gsp g => { f with body := .gsp { g with status := status } }
    | .rdmaWrite _ _ _ _ _ _ _ | .rdmaAck _ _ _ | .cnp _ | .cmReply _ _ _ | .t3 _ _ | .ptp => f
  else f

/-- The first frame of a result starts on a port (R155, R303): the return is counted, and its frames carry its status. -/
def State.markStarted (s : State) (p : Nat) (f : QFrame) : State :=
  match f.result with
  | none => s
  | some k =>
    match s.attn.results.find? (fun r => r.slot == k.1 && r.key == k.2) with
    | none => s
    | some r =>
      if r.delivery = .started then s
      else
        let st := r.nextStatus
        let s := s.noteReturn r
        let s := { s with attn := { s.attn with results := s.attn.results.map (fun (x : Result) =>
          if x.slot = k.1 ∧ x.key = k.2 then { x with delivery := .started } else x) } }
        let q := s.port p
        s.setPort p { q with queue := q.queue.map (QFrame.withStatus k st), sending := q.sending.map (QFrame.withStatus k st) }

/-- A request's tracker entry is freed (R333). -/
def State.untrack (s : State) (k : KeyRef) (reqId : Nat) : State :=
  { s with lamp := { s.lamp with track := s.lamp.track.filter (fun e => !(e.key == k && e.reqId == reqId)) } }

/-- The tracker entry of the ATTEND whose result a frame carries is freed at the first return (R333). -/
def State.untrackFrame (s : State) (f : QFrame) : State :=
  match f.body with
  | .gsp g => if f.result.isSome then s.untrack g.key g.reqId else s
  | _ => s

/-- The transmitter, when free, takes the next frame (R293). -/
def State.pick (s : State) (p : Nat) : State :=
  if (s.port p).sending.isSome ∨ (s.port p).link = false ∨ s.net.firing = true then s
  else
    let s := s.settle p
    match s.bestClass p with
    | none => s.countHeld p
    | some c =>
      match (s.port p).head c with
      | none => s
      | some f =>
        let s := s.countHeld p
        let q := s.port p
        let q := q.setCls c { q.cls c with v := f.tag }
        ((s.setPort p { q with queue := q.queue.erase f, sending := some f, since := s.now }).markStarted p f).untrackFrame f

/-- A frame is queued and a free transmitter takes the next frame at once. -/
def State.send (s : State) (p cls flow len : Nat) (result : Option (Nat × ResKey)) (body : FrameBody) : State :=
  (s.enqueue p cls flow len result body).pick p

/-- A class whose flows are all empty and which is not sending goes back to V = 0 and F = 0 (R296). -/
def State.resetClass (s : State) (p c : Nat) : State :=
  let q := s.port p
  if q.queue.any (fun f => f.cls == c) then s
  else match q.sending with
    | some f => if f.cls = c then s else s.setPort p (q.setCls c { q.cls c with v := 0, tags := [] })
    | none => s.setPort p (q.setCls c { q.cls c with v := 0, tags := [] })

end Sys2Proof.Machine
end

