-- ==== Sys2Proof/Machine/Events.lean ====
section
/-! DEFINITION. Event records and their limits (R417 to R420), GSP responses and EVENT frames (R269, R271, R272, R287),
and the entry into a message's chapter (R270, R281, R290, R333). -/

namespace Sys2Proof.Machine

/-! ### Outbound GSP frames -/

/-- The path of an endpoint on a port (R269). -/
def State.pathOn (s : State) (ep port : Nat) : Option PathRec :=
  match s.endpoint ep with
  | some r => r.paths.find? (fun p => p.port == port)
  | none => none

/-- The first listed path of an endpoint whose port is up (R269). -/
def State.firstPath (s : State) (ep : Nat) : Option PathRec :=
  match s.endpoint ep with
  | some r => r.paths.find? (fun p => (s.port p.port).link)
  | none => none

/-- IP header bytes of the family an endpoint has on a port. -/
def State.ipBytes (s : State) (ep port : Nat) : Nat :=
  match s.pathOn ep port with | some p => if p.family = 4 then 20 else 40 | none => 40

/-- The largest segment of the J716's own messages on a port: a multiple of 64 that fits the MTU (R272). -/
def State.segBytes (s : State) (ep port : Nat) : Nat :=
  (s.fld (portDie port) port Fld.ETH_PORT_CFG_MTU - s.ipBytes ep port - 8 - 64) / 64 * 64

/-- Bytes of a GSP frame from MAC address to FCS: MAC, tag, IP, UDP, header, payload, GCM tag, FCS (R271, R291). -/
def State.frameBytes (s : State) (ep port payload : Nat) : Nat := 14 + 4 + s.ipBytes ep port + 8 + 48 + payload + 16 + 4

/-- The next outbound SEQ of a key (R276). -/
def State.seqOut (s : State) (k : KeyRef) : Nat := (alGet k s.net.seqOut).getD 1

/-- The flow of a key's frames (R292). -/
def KeyRef.flow (k : KeyRef) : Nat := if k.ekey then 4096 else k.ctx

/-- Where a message goes: port, key, destination. -/
structure Dest where
  port : Nat
  key : KeyRef
  dst : Nat
  dstUdp : Nat
  deriving DecidableEq, Repr

/-- One segment of a message from the J716 is queued with the next SEQ of its key (R272, R276). -/
def State.sendSeg (s : State) (d : Dest) (kind type status reason reqId : Nat) (response : Bool)
    (result : Option (Nat × ResKey)) (count len : Nat) (seg : Nat × List Byte) : State :=
  let seq := s.seqOut d.key
  let s := { s with net := { s.net with seqOut := alSet d.key (seq + 1) s.net.seqOut } }
  s.send d.port (s.kindClass (portDie d.port) kind) d.key.flow (s.frameBytes d.key.ep d.port seg.2.length) result
    (.gsp { type, response, status, key := d.key, reason, seq, reqId, segIndex := seg.1, segCount := count,
            msgLen := len, dst := d.dst, dstUdp := d.dstUdp, payload := seg.2 })

/-- In replay the J716 sends no response of an injected message, no result and no EVENT frame (R438). After it, what the replay
injected is still not answered (R442). -/
def State.quiet (s : State) (type : Nat) (result : Option (Nat × ResKey)) : Bool :=
  (s.fld 0 0 Fld.RP_STATUS_STATE == 3 && (s.rp.msg.isSome || result.isSome || type == 0x15))
    || (s.fld 0 0 Fld.RP_STATUS_STATE == 4 && (s.rp.msg.isSome || result.isSome))

/-- A message from the J716, cut to segments (R272). -/
def State.sendMsg (s : State) (d : Dest) (kind type status reason reqId : Nat) (response : Bool)
    (result : Option (Nat × ResKey)) (body : List Byte) : State :=
  let pieces := match chunks (s.segBytes d.key.ep d.port) body with | [] => [[]] | l => l
  if s.quiet type result then s else (pieces.zipIdx.map (fun p => (p.2, p.1))).foldl
    (fun s g => s.sendSeg d kind type status reason reqId response result pieces.length body.length g) s

/-! ### Event records -/

/-- The ring of a die. -/
def State.ring (s : State) (die : Nat) : List EvtRec := if die = 0 then s.ev.ring0 else s.ev.ring1

/-- `s` with the ring of a die replaced. -/
def State.setRing (s : State) (die : Nat) (l : List EvtRec) : State :=
  if die = 0 then { s with ev := { s.ev with ring0 := l } } else { s with ev := { s.ev with ring1 := l } }

/-- The unacknowledged ALERT indexes of a die (R420). -/
def State.alerts (s : State) (die : Nat) : List Nat := if die = 0 then s.ev.alerts0 else s.ev.alerts1

/-- `s` with the unacknowledged ALERT indexes of a die replaced. -/
def State.setAlerts (s : State) (die : Nat) (l : List Nat) : State :=
  if die = 0 then { s with ev := { s.ev with alerts0 := l } } else { s with ev := { s.ev with alerts1 := l } }

/-- The 64 bytes of an event record (R417). -/
def EvtRec.bytes (r : EvtRec) : List Byte :=
  le 8 r.index ++ le 8 r.pos ++ le 8 r.time ++ le 1 r.subcode
    ++ le 1 (b2n r.alert + 2 * b2n r.ctx.isSome + 4 * r.die + 8 * b2n r.refusal)
    ++ le 2 (r.ctx.getD 0) ++ le 4 r.unit ++ le 8 r.arg0 ++ le 8 r.arg1 ++ le 8 r.arg2 ++ le 8 r.arg3

/-- An EVENT frame with one record (R287). The key generation is the endpoint's current one, register SEAL_KEYGEN. -/
def State.eventFrame (s : State) (sub : Sub) (r : EvtRec) : State :=
  match s.firstPath sub.ep with
  | none => s
  | some p =>
    let key : KeyRef := ⟨sub.ep, sub.ctx.getD 0, sub.ctx.isNone,
      s.fld 0 (match sub.ctx with | some c => c | none => 0x10000 + sub.ep) Fld.SEAL_KEYGEN_CUR⟩
    s.sendMsg { port := p.port, key, dst := p.addr, dstUdp := p.udp } 2 0x15 0 0 0 false none
      (be 8 r.index ++ be 1 1 ++ zeros 7 ++ r.bytes)

/-- The subscribers a record goes to: device subscribers, and those of its context; an endpoint that is both has it once,
under the context's key (R419). -/
def State.subscribers (s : State) (ctx : Option Nat) : List Sub :=
  let ofCtx := match ctx with | some c => s.net.subs.filter (fun x => x.ctx == some c) | none => []
  ofCtx ++ s.net.subs.filter (fun x => x.ctx.isNone && !ofCtx.any (fun y => y.ep == x.ep))

/-- What an event carries besides its subcode (R417, R418). -/
structure EvtArgs where
  alert : Bool := false
  ctx : Option Nat := none
  refusal : Bool := false
  unit : Nat := 0
  a0 : Nat := 0
  a1 : Nat := 0
  a2 : Nat := 0
  a3 : Nat := 0
  deriving DecidableEq, Repr

/-- The record of an event raised now on a die. -/
def State.evtRec (s : State) (die sub : Nat) (a : EvtArgs) : EvtRec :=
  { index := s.fld die 0 Fld.HL_EVT_HEAD_HEAD, pos := s.pos, time := s.ieee, subcode := sub, alert := a.alert,
    ctx := a.ctx, die, refusal := a.refusal, unit := a.unit, arg0 := a.a0, arg1 := a.a1, arg2 := a.a2, arg3 := a.a3 }

/-- An in-band interrupt is raised while ENEC has enabled them (R462). -/
def State.ibi (s : State) (byte : Nat) : State :=
  if s.fld 0 0 Fld.BD_SB_IBI_EN = 1 then { s with pins := { s.pins with ibi := s.pins.ibi ++ [byte] } } else s

/-- ALERT_N is asserted: an unacknowledged ALERT record on either die, or a start failure (R364, R420). -/
def State.alertPin (s : State) : Bool :=
  !(s.ev.alerts0.isEmpty && s.ev.alerts1.isEmpty) || decide (9 ≤ s.status ∧ s.status ≤ 14)

/-- A record enters its die's ring; a full ring loses its oldest record and sets LOST (R419). -/
def State.logEvent (s : State) (die : Nat) (r : EvtRec) : State :=
  let size := s.fld die 0 Fld.HL_EVT_SIZE
  let full := decide (size ≤ (s.ring die).length)
  let s1 := s.setRing die (if full then (s.ring die).drop 1 ++ [r] else s.ring die ++ [r])
  let s2 := s1.setFld die 0 Fld.HL_EVT_HEAD_HEAD (r.index + 1)
  let s3 := if full then s2.setFld die 0 Fld.HL_EVT_HEAD_LOST 1 else s2
  if r.alert then
    let s4 := s3.setAlerts die (s3.alerts die ++ [r.index])
    if s.alertPin then s4 else s4.ibi 0x01
  else s3

/-- Event `sub` is raised on a die (R417 to R420): the ring, the ALERT count, and the EVENT frames. -/
def State.raise (s : State) (die sub : Nat) (a : EvtArgs) : State :=
  let r := s.evtRec die sub a
  (s.subscribers a.ctx).foldl (fun s x => s.eventFrame x r) (s.logEvent die r)

/-- The limit record of an event (R418). -/
def State.onceRec (s : State) (die sub item : Nat) : Once :=
  (s.ev.once.find? (fun o => o.die == die && o.subcode == sub && o.item == item)).getD
    { die, subcode := sub, item, raised := false, supp := 0, prev := 0 }

/-- `s` with a limit record replaced. -/
def State.setOnce (s : State) (o : Once) : State :=
  { s with ev := { s.ev with
      once := o :: s.ev.once.filter (fun x => !(x.die == o.die && x.subcode == o.subcode && x.item == o.item)) } }

/-- An event raised at most once per step for an item; ARG3 carries the number suppressed in the step before (R418). -/
def State.raiseOnce (s : State) (die sub item : Nat) (a : EvtArgs) : State :=
  let o := s.onceRec die sub item
  if o.raised then s.setOnce { o with supp := o.supp + 1 }
  else (s.setOnce { o with raised := true }).raise die sub { a with a3 := o.prev }

/-- A step ends for the limits of R418. -/
def State.endLimitStep (s : State) : State :=
  { s with ev := { s.ev with
      lastStepEnd := s.now
      once := s.ev.once.map (fun o => { o with raised := false, supp := 0, prev := o.supp }) } }

/-! ### Recording (R433 to R436, R441) -/

/-- Recording is under way. -/
def State.recording (s : State) : Bool := s.fld 0 0 Fld.RP_STATUS_STATE == 2

/-- Replay is under way. -/
def State.replaying (s : State) : Bool := s.fld 0 0 Fld.RP_STATUS_STATE == 3

/-- A replay is under way or has ended; it holds the machine until the next reset (R438, R442). -/
def State.inReplay (s : State) : Bool := s.replaying || s.fld 0 0 Fld.RP_STATUS_STATE == 4

/-- Bytes a record takes in the area (R434). -/
def recSize (len : Nat) : Nat := 32 + ceilDiv len 16 * 16

/-- The recording area is closed (R433, R436). -/
def State.closeRec (s : State) : State :=
  { s with rp := { s.rp with area := { s.rp.area with state := 2 } } }.setFld 0 0 Fld.RP_STATUS_STATE 0

/-- A record is written (R433 to R436): dropped when the die's buffer cannot take it, and the end when the area is full. -/
def State.addRec (s : State) (status port ctx ep len : Nat) (body : RecBody) : State :=
  let die := portDie port
  if s.recording = false then s
  else if s.fld die 0 Fld.RP_BUF_KIB * 1024 < recSize len then
    ({ s with rp := { s.rp with area := { s.rp.area with gap := true } } }.setFld 0 0 Fld.RP_STATUS_GAP 1).raiseOnce 0 0x98 0 {}
  else if s.fld 0 0 Fld.RP_SIZE_BYTES < 4096 + s.rp.area.bodyLen + recSize len then
    (s.closeRec.setFld 0 0 Fld.RP_STATUS_FULL 1).raise 0 0x99 { alert := true }
  else
    let n := (s.reg 0 0 Reg.RP_REC).toNat + 1
    let r : Rec := ⟨n, s.pos, status, port, ctx, ep, len, body⟩
    { s with rp := { s.rp with area := { s.rp.area with
      recs := s.rp.area.recs ++ [r], bodyLen := s.rp.area.bodyLen + recSize len } } }.setReg 0 0 Reg.RP_REC (BitVec.ofNat 64 n)

/-- The determined form of a response, if it has one (R428). The results of ATTEND have their own (`Result.form`). -/
def formOf (type status : Nat) (body : List Byte) : Option (List Byte) :=
  if type == 0x07 || type == 0x08 || type == 0x13 || type == 0x15 || status == 0x01 || status == 0x0D || status == 0x05 then none
  else some (BitVec.ofNat 8 status :: (if type = 0x0C then
    (body.zipIdx.map (fun (p : Byte × Nat) => if p.2 = 5 then p.1 &&& 0xFD else p.1)) else body))

/-- The first 16 bytes of the SHA-384 of a form (R434), as a number. -/
def formDigest (f : List Byte) : Nat := Config.sha384 f / 2 ^ 256

/-- A divergence (R441). -/
def State.diverge (s : State) (msg : Nat) : State :=
  let first := s.fld 0 0 Fld.RP_STATUS_DIVERGED == 0
  let s := s.bump 0 0 Fld.RP_DIVERGE_COUNT
  if first then
    ((s.setFld 0 0 Fld.RP_STATUS_DIVERGED 1).setFld 0 0 Fld.RP_DIVERGE_MSG_RSEQ msg).raise 0 0x9A { alert := true, a0 := msg }
  else s

/-- The digest recorded for a message, if its DIGEST record is there. -/
def State.digestOf (s : State) (msg : Nat) : Option Nat :=
  s.rp.area.recs.findSome? (fun r => match r.body with
    | .digest m f => if m = msg then some f else none
    | .message _ | .object _ | .beacon _ | .write _ _ _ _ | .sideband _ _ => none)

/-- A determined form of message `msg` is formed: recorded while recording, compared in replay (R433, R441). With GAP a
missing DIGEST is a match (R436). -/
def State.formed (s : State) (msg port : Nat) (f : List Byte) : State :=
  if s.recording then s.addRec 0 port 0 0 32 (.digest msg (formDigest f))
  else if s.inReplay && msg != 0 then
    let t := { s with rp := { s.rp with formed := msg :: s.rp.formed } }
    match s.digestOf msg with
    | some d => if d = formDigest f then t else t.diverge msg
    | none => if s.rp.area.gap then t else t.diverge msg
  else s

/-! ### The header of a result and its determined form -/

/-- RFLAGS (R131). -/
def Result.rflags (r : Result) : Nat :=
  b2n r.outFp32 + 2 * b2n r.late + 4 * b2n r.relaxed + 8 * b2n r.fanout + 16 * b2n r.empty + 32 * b2n r.overflow
    + 64 * b2n r.dest + 128 * b2n r.nonfinite

/-- The 48-byte header (R130). -/
def resHeader (handle epoch rseq : Nat) (step layer rflags expected detail dropped attended : Nat) : List Byte :=
  be 8 handle ++ be 4 epoch ++ be 4 rseq ++ be 6 step ++ be 1 layer ++ be 1 rflags ++ be 8 expected ++ be 8 detail
    ++ be 4 dropped ++ be 4 attended

/-- The header of a held result (R130). -/
def State.headerOf (s : State) (r : Result) (expected : Nat) : List Byte :=
  resHeader ((s.sess r.slot).handle r.slot) r.key.epoch r.rseq r.key.step r.key.layer r.rflags expected
    (r.integrity.getD 0) r.dropped r.attended

/-- The body of a return: the header, and the data unless they are withheld (R130, R149). -/
def State.returnBody (s : State) (r : Result) (withData : Bool) : List Byte :=
  s.headerOf r 0 ++ (if withData && r.integrity.isNone then r.data else [])

/-- A result at its first return (R428): LATE and FANOUT count as clear. -/
def Result.first (r : Result) : Result := { r with late := false, fanout := false, firstRet := none }

/-- The determined form of a result that has been returned is recorded or compared, once (R428, R433, R441). A relaxed result
has none. -/
def State.formResult (s : State) (r : Result) : State :=
  if r.firstRet.isNone || r.msg == 0 then s
  else
    let s := { s with attn := { s.attn with results := s.attn.results.map (fun (x : Result) =>
      if x.slot = r.slot ∧ x.key = r.key then { x with msg := 0 } else x) } }
    if r.relaxed then s
    else s.formed r.msg r.port (BitVec.ofNat 8 r.first.nextStatus :: s.returnBody r.first true)

/-- Every result that has had its first return. -/
def State.formResults (s : State) : State := s.attn.results.foldl (fun s r => s.formResult r) s

/-! ### Answering a message -/

/-- The key of a message (R275). -/
def envKey (e : Env) : KeyRef := ⟨e.ep, if e.ekey then 0 else e.ctx, e.ekey, e.keyGen⟩

/-- Where a response goes (R269): the port, address and UDP port of the last segment. -/
def envDest (e : Env) : Dest := { port := e.port, key := (envKey e), dst := e.src, dstUdp := e.srcUdp }

/-- A BAD_FRAME answer is counted for the endpoint, recorded and reported (R281, R290). -/
def State.noteBad (s : State) (e : Env) (type reason : Nat) : State :=
  let d := portDie e.port
  let s := s.bump d e.ep Fld.GSP_EP_INFO_BAD
  let s := if 1 ≤ reason ∧ reason ≤ 0x0B then s.bump d 0 Fld.GSP_BAD_BAD_FRAME else s
  let s := s.setFld d 0 Fld.GSP_LAST_BAD_EP e.ep
  let s := s.setFld d 0 Fld.GSP_LAST_BAD_TYPE type
  let s := s.setFld d 0 Fld.GSP_LAST_BAD_REASON reason
  let s := s.setFld d 0 Fld.GSP_LAST_BAD_PORT e.port
  s.raiseOnce d 0x58 e.ep { a0 := e.ep }

/-- The response to a message (R8, R269, R271): a BAD_FRAME is also noted; the tracker entry is freed (R333). -/
def State.answer (s : State) (e : Env) (type status reason : Nat) (body : List Byte) : State :=
  let s := if status = 9 then s.noteBad e type reason else s
  let s := (s.sendMsg (envDest e) 1 type status reason e.reqId true none body).untrack (envKey e) e.reqId
  { s with rp := { s.rp with answered := some (type, status, body) } }

/-- The message leaves the list of whole messages that wait (R278). -/
def State.takeReady (s : State) (e : Env) : State :=
  { s with net := { s.net with ready := s.net.ready.filter (fun r => !(r.key == (envKey e) && r.reqId == e.reqId)) } }

/-- The messages that R273 marks C. -/
def isControl (type : Nat) : Bool := type == 0x0F || type == 0x10 || type == 0x13 || type == 0x14

/-- The message may act: a control message came on a control port from an endpoint with the CS right (R270). -/
def State.controlOk (s : State) (e : Env) : Bool :=
  s.fld (portDie e.port) e.port Fld.ETH_PORT_CFG_CONTROL == 1
    && (match s.endpoint e.ep with | some r => r.cs | none => false)

/-- A tracker entry of the message exists (R333). -/
def State.tracked (s : State) (e : Env) : Bool :=
  s.lamp.track.any (fun x => x.key == (envKey e) && x.reqId == e.reqId)

/-- The tracker of a die has no room (R333). -/
def State.trackFull (s : State) (die : Nat) : Bool :=
  decide (Config.trackerEntries ≤ (s.lamp.track.filter (fun x => x.die == die)).length)

/-- A whole message takes a tracker entry (R333). -/
def State.track (s : State) (e : Env) (type : Nat) (slot : Option Nat) : State :=
  if s.tracked e then s
  else
    let x : Track := ⟨portDie e.port, (envKey e), e.reqId, type, slot, s.now, false, none⟩
    { s with lamp := { s.lamp with track := x :: s.lamp.track } }

/-- Why a whole message does not reach its chapter's check order: nothing runs, SCRUB_ALL was accepted (R377), a restore runs
or has failed (R399), replay takes only recorded messages (R438, R442), GSP is off (R290), no room in the tracker (R333), or
the control rule (R270). -/
inductive Entry where
  | off | closed | busy | full | denied | enter
  deriving DecidableEq, Repr

/-- CS_READ and CS_WRITE, which neither SCRUB_ALL nor a restore nor replay shuts out. -/
def isCs (type : Nat) : Bool := type == 0x13 || type == 0x14

/-- A restore or a replay turns a message away (R399, R438, R442). -/
def State.shutOut (s : State) (type : Nat) : Bool :=
  !isCs type && (s.ckpt.restore.isSome || (s.fld 0 0 Fld.CK_STATUS_RESTORE_FAILED == 1 && type != 0x10)
    || (s.rp.msg.isNone && s.inReplay))

/-- What the transport makes of a whole message (R270, R290, R333, R377, R399, R438). -/
def State.entry (s : State) (e : Env) (type : Nat) : Entry :=
  if !s.running then .off
  else if s.ident.closed && !isCs type then .closed
  else if s.shutOut type then .busy
  else if s.fld 0 0 Fld.GSP_CTRL_ENABLE = 0 then .busy
  else if !s.tracked e && s.trackFull (portDie e.port) then .full
  else if isControl type && !s.controlOk e then .denied
  else .enter

/-- The die and number of the T1 stripe unit that a granule lies in (R210). -/
def stripeOf (g : Nat) : Nat := g / 217

/-- A write to a marked stripe unit that the copy has not reached: the unit goes to the CBW buffer first (R391). A full buffer
makes the write wait, which only takes time. -/
def State.cbwWrite (s : State) (die granule : Nat) : State :=
  let u := (die, stripeOf granule)
  match s.ckpt.run with
  | none => s
  | some r =>
    if (s.ckpt.snaps.any (fun x => x.id == r.id && x.units.contains u)) && !s.ckpt.early.contains u
        && (if die = 0 then r.order0 else r.order1).contains (8 * die + stripeOf granule % 8) then
      let use := s.fld die 0 Fld.CK_CBW_USE_KIB + 28
      let s := { s with ckpt := { s.ckpt with early := u :: s.ckpt.early } }
      let s := s.bump die 0 Fld.CK_COUNTS_CBW_COPIES
      if s.fld die 0 Fld.CK_CBW_KIB < use then s.bump die 0 Fld.CK_COUNTS_CBW_WAIT
      else s.setFld die 0 Fld.CK_CBW_USE_KIB use
    else s

/-- The stripe units of a slot's record, staging area and finishing area that a message has written (R391). -/
def State.cbwSlot (before after : State) (slot : Nat) : State :=
  let die := slotDie slot
  let s := if after.sess slot = before.sess slot then after
    else after.cbwWrite die (after.fld die 0 Fld.SES_TABLE_BASE + slot % 524288)
  let s := match alGet slot before.kv.staging, alGet slot after.kv.staging with
    | some g, some h => if g = h then s else s.cbwWrite die h.loc
    | _, _ => s
  match alGet slot before.kv.areas, alGet slot after.kv.areas with
  | some g, some h => if g = h then s else s.cbwWrite die h.loc
  | _, _ => s

/-- The effect of a whole message: its time passes, the transport's own refusals are answered with `body`, and otherwise the
chapter's meaning runs. -/
def State.messageBody (s : State) (e : Env) (type : Nat) (slot : Option Nat) (body : List Byte) (f : State → State) : State :=
  match s.entry e type with
  | .off => s
  | .closed => ((s.tick e.t).takeReady e).answer e type 0x0F 0 body
  | .busy => ((s.tick e.t).takeReady e).answer e type 0x0D 0 body
  | .full => (((s.tick e.t).takeReady e).bump (portDie e.port) 0 Fld.LP_TRACK_FULL).answer e type 0x0D 0 body
  | .denied => (((s.tick e.t).takeReady e).bump (portDie e.port) 0 Fld.GSP_BAD_DENIED).answer e type 0x0F 0 body
  | .enter =>
    let s := ((s.tick e.t).takeReady e).track e type slot
    match slot with
    | some x =>
      let s := if e.recBad then s.setSess x { s.sess x with crcBad := true } else s
      s.cbwSlot (f s) x
    | none => f s

/-- Payload bytes of a message, for the length of its record (R434). -/
def msgLen : Instr → Nat
  | .sessionOpen _ _ => 40
  | .sessionClose _ _ | .handover _ _ | .leaseRenew _ _ | .park _ _ | .wake _ _ => 28
  | .kvAppendInline _ m | .kvAppendRdma _ m | .link _ m | .truncate _ m | .pin _ m | .unpin _ m => 40 + m.data.length
  | .attend _ m => 40 + m.data.length
  | .resultFetch _ _ | .resultRelease _ _ => 20
  | .draw _ m | .feed _ m | .grammar _ m | .finReset _ m => 72 + m.data.length
  | .search _ m => 40 + m.query.length
  | .insert _ m | .delete _ m => 16 + m.data.length
  | .csWrite _ m => 16 + 8 * m.values.length
  | .event _ _ _ => 8
  | .tallyAdd _ _ | .tallyAdvance _ _ | .tallyRead _ _ => 16
  | _ => 16

/-- The number a message's record gets, or has in replay; 0 outside both. -/
def State.msgNo (s : State) : Nat :=
  match s.rp.msg with
  | some n => n
  | none => if s.recording then (s.reg 0 0 Reg.RP_REC).toNat + 1 else 0

/-- An ingest object that a message has opened is recorded just before the message (R433). -/
def State.noteObject (s : State) (e : Env) (o : IngestObj) : State :=
  s.addRec 0 e.port e.ctx e.ep o.data.length (.object o)

/-- A message whose record was dropped has no number (R436). -/
def State.unnumber (s : State) (n : Nat) : State :=
  { s with attn := { s.attn with results := s.attn.results.map (fun (x : Result) => if x.msg = n then { x with msg := 0 } else x) }
           flash := { s.flash with searches := s.flash.searches.map (fun (x : Search) =>
             if x.rec_ = n then { x with rec_ := 0 } else x) } }

/-- After a message: its MESSAGE record, and the DIGEST of the form of its answer (R433, R434, R441). -/
def State.afterMessage (s : State) (e : Env) (c : Instr) : State :=
  let n := s.msgNo
  let status := match s.rp.answered with | some (_, st, _) => st | none => 0
  let t := s.addRec status e.port e.ctx e.ep (48 + msgLen c) (.message c)
  if s.recording && (t.reg 0 0 Reg.RP_REC).toNat != n then t.unnumber n
  else match s.rp.answered with
    | none => t
    | some (type, st, body) => match formOf type st body with
      | none => t
      | some f => t.formed n e.port f

/-- A whole message (R278, step 7), with what recording and replay make of it. -/
def State.message (s : State) (e : Env) (c : Instr) (type : Nat) (slot : Option Nat) (body : List Byte)
    (f : State → State) : State :=
  let s := s.formResults
  let t := { s with rp := { s.rp with answered := none } }.messageBody e type slot body f
  if s.recording || s.rp.msg.isSome then (t.afterMessage e c).formResults else t

end Sys2Proof.Machine
end

