-- ==== Sys2Proof/Machine/Flags.lean ====
section
/-! DEFINITION. The status codes of R8 and the outcome flags and counters that answers set (R64, R290),
and failed reads (R208, R210, R213 to R215, R219). -/

namespace Sys2Proof.Machine

namespace St
/-- DONE (R8). -/
abbrev done : Nat := 0x00
/-- NOT_READY (R8). -/
abbrev notReady : Nat := 0x01
/-- REPLAY (R8). -/
abbrev replay : Nat := 0x02
/-- PARTIAL (R8). -/
abbrev partial_ : Nat := 0x03
/-- DEAD_END (R8). -/
abbrev deadEnd : Nat := 0x04
/-- OVER_QUOTA (R8). -/
abbrev overQuota : Nat := 0x05
/-- NOT_OWNER (R8). -/
abbrev notOwner : Nat := 0x06
/-- ORPHAN_HELD (R8). -/
abbrev orphanHeld : Nat := 0x07
/-- STALE_EPOCH (R8). -/
abbrev staleEpoch : Nat := 0x08
/-- BAD_FRAME (R8). -/
abbrev badFrame : Nat := 0x09
/-- NO_SESSION (R8). -/
abbrev noSession : Nat := 0x0A
/-- LIMIT (R8). -/
abbrev limit : Nat := 0x0B
/-- INTEGRITY (R8). -/
abbrev integrity : Nat := 0x0C
/-- BUSY_RETRY (R8). -/
abbrev busyRetry : Nat := 0x0D
/-- MIXED_STEPS (R8). -/
abbrev mixedSteps : Nat := 0x0E
/-- DENIED (R8). -/
abbrev denied : Nat := 0x0F
/-- SATURATED (R8). -/
abbrev saturated : Nat := 0x10
end St

/-- Why a request is refused: status, reason code, and the DETAIL value of its response. -/
structure Refuse where
  status : Nat
  reason : Nat := 0
  detail : Nat := 0
  deriving DecidableEq, Repr

/-- The counter of SES_OUTCOME0 and SES_OUTCOME1 that an answer of the session chapters raises (R64). -/
def State.countOutcome (s : State) (die status : Nat) : State :=
  if status = St.staleEpoch then s.bump die 0 Fld.SES_OUTCOME0_STALE_EPOCH
  else if status = St.notOwner then s.bump die 0 Fld.SES_OUTCOME0_NOT_OWNER
  else if status = St.orphanHeld then s.bump die 0 Fld.SES_OUTCOME0_ORPHAN_HELD
  else if status = St.overQuota then s.bump die 0 Fld.SES_OUTCOME1_OVER_QUOTA
  else if status = St.noSession then s.bump die 0 Fld.SES_OUTCOME1_NO_SESSION
  else s

/-- A failed read other than a tile's (R215): event DATA_CHECK with the memory failure address. -/
def State.dataCheck (s : State) (die addr : Nat) : State := s.raise die 0x40 { alert := true, a0 := addr }

/-- A memory failure address (R214). -/
def memFail (tier die off : Nat) : Nat := tier * 2 ^ 62 + die * 2 ^ 59 + off % 2 ^ 48

/-- A record enters a die's error ring (R219); a full ring loses its oldest record and sets LOST. -/
def State.logErr (s : State) (die kind cluster channel : Nat) (test patrol : Bool) (stripe sector addr : Nat) : State :=
  let r : ErrRec := { pos := s.pos, time := s.ieee, kind, cluster, channel, test, patrol, bank := stripe % 16, sector, stripe, addr }
  let size := s.fld die 0 Fld.MC_ERRLOG_SIZE
  let old := if die = 0 then s.tier.err0 else s.tier.err1
  let full := decide (size ≤ old.length)
  let new := if full then old.drop 1 ++ [r] else old ++ [r]
  let s := if die = 0 then { s with tier := { s.tier with err0 := new } } else { s with tier := { s.tier with err1 := new } }
  let s := s.setFld die 0 Fld.MC_ERRLOG_HEAD_HEAD (s.fld die 0 Fld.MC_ERRLOG_HEAD_HEAD + 1)
  if full then s.setFld die 0 Fld.MC_ERRLOG_LOST 1 else s

/-- Status register bit set or cleared by a Boolean (R476: a set by the J716 wins over a W1C of the same instant, as the
write comes first in the queue's order). -/
def State.setFlag (s : State) (die sel : Nat) (f : Field) (v : Bool) : State := s.setFld die sel f (b2n v)

/-! ### Where a sector lies (R208, R210), and a failed read (R213, R215) -/

/-- A sector's place in its die. -/
structure Place where
  cluster : Nat
  channel : Nat
  stripe : Nat
  sector : Nat
  deriving DecidableEq, Repr

/-- The place of a T1 sector by its byte offset in the die (R210). -/
def placeOf (off : Nat) : Place :=
  let g := off / 128
  let unit := g / 217
  let k := 2 * (g % 217) + off / 64 % 2
  let s := 2 * (unit / 8) + k / 217
  let w := k % 217
  ⟨unit % 8, (s % 8 + 1 + w % 7) % 8, s, w / 7⟩

/-- The data position of a channel in a stripe (R208): 7 stands for the parity channel. -/
def dataPos (stripe channel : Nat) : Nat := (channel + 15 - stripe % 8) % 8

/-- The byte offset of a data sector in its die (R210), or none for a parity sector or a check sector. -/
def offsetOf (p : Place) : Option Nat :=
  let j := dataPos p.stripe p.channel
  if j = 7 ∨ 31 ≤ p.sector then none
  else
    let k := p.stripe % 2 * 217 + 7 * p.sector + j
    some (((p.stripe / 2 * 8 + p.cluster) * 217 + k / 2) * 128 + k % 2 * 64)

/-- The memory failure address of a sector. The spec gives none to a parity or check sector: a free value (log 6). -/
def State.placeAddr (s : State) (die : Nat) (p : Place) : Nat :=
  memFail 1 die ((offsetOf p).getD (s.freeVal % 2 ^ 48))

/-- A failed sector (R213, item 4). -/
def State.memUe (s : State) (die : Nat) (p : Place) (test patrol : Bool) : State :=
  ((s.bump die p.cluster Fld.MC_COUNTS_UE).logErr die 3 p.cluster p.channel test patrol p.stripe p.sector
    (s.placeAddr die p)).nextFree

/-- A failed read of a T1 sector (R213, R215): counted, logged, and DATA_CHECK. -/
def State.t1Fail (s : State) (die off : Nat) : State :=
  (s.memUe die (placeOf off) false false).dataCheck die (memFail 1 die off)

end Sys2Proof.Machine
end

