-- ==== Sys2Proof/Machine/Store.lean ====
section
/-! DEFINITION. Stored units: quota and pool accounting (R58 to R62, R202, R204), leaf entries and shared pages (R65 to
R74, R94), residency (R39), the home map (R335) and scrub jobs (R340). -/

namespace Sys2Proof.Machine

/-! ### Quota and pools -/

/-- CTX_USE_Tn of a context (R59). -/
def State.use (s : State) (die ctx tier : Nat) : Nat := getBits (s.reg die ctx ⟨0x02, 0x130 + 8 * tier⟩) 43 0

/-- CTX_QUOTA_Tn of a context (R62). -/
def State.quota (s : State) (die ctx tier : Nat) : Nat := getBits (s.reg die ctx ⟨0x02, 0x110 + 8 * tier⟩) 43 0

/-- A tier's OVER_QUOTA bit of a context (R60). -/
def State.overLimit (s : State) (die ctx tier : Nat) : Bool :=
  s.fld die ctx Fld.CTX_STATE_OVER_QUOTA / 2 ^ tier % 2 == 1

/-- An allocation of `g` granules passes the quota (R62). -/
def State.quotaOk (s : State) (die ctx tier g : Nat) : Bool :=
  !s.overLimit die ctx tier && decide (s.use die ctx tier + g ≤ s.quota die ctx tier)

/-- R60, first and last item: the OVER_QUOTA bit follows use and quota, with its events. -/
def State.quotaTest (s : State) (die ctx tier : Nat) : State :=
  let isOver := decide (s.quota die ctx tier < s.use die ctx tier)
  let bits := s.fld die ctx Fld.CTX_STATE_OVER_QUOTA
  if isOver && !s.overLimit die ctx tier then
    (s.setFld die ctx Fld.CTX_STATE_OVER_QUOTA (bits + 2 ^ tier)).raise die 0x15 { ctx := some ctx, a0 := tier }
  else if !isOver && s.overLimit die ctx tier then
    let s := { s with ses := { s.ses with stalled := s.ses.stalled.erase (die, ctx, tier) } }
    (s.setFld die ctx Fld.CTX_STATE_OVER_QUOTA (bits - 2 ^ tier)).raise die 0x16 { ctx := some ctx, a0 := tier }
  else s

/-- A context's use in a tier set to `g` (R59). -/
def State.setUse (s : State) (die ctx tier g : Nat) : State :=
  let r : RegId := ⟨0x02, 0x130 + 8 * tier⟩
  (s.setReg die ctx r (setBits (s.reg die ctx r) 43 0 (min g (2 ^ 44 - 1)))).quotaTest die ctx tier

/-- Free granules of a pool, T1 to T3 (R224). -/
def State.poolFree (s : State) (die tier : Nat) : Nat := getBits (s.reg die 0 ⟨0x06, 0x030 + 8 * tier⟩) 43 0

/-- Free granules of a pool set. -/
def State.setPoolFree (s : State) (die tier g : Nat) : State :=
  let r : RegId := ⟨0x06, 0x030 + 8 * tier⟩
  s.setReg die 0 r (setBits (s.reg die 0 r) 43 0 g)

/-- Eviction of T1 or T2 starts and stops by the watermarks (R202). -/
def State.evictTest (s : State) (die tier : Nat) : State :=
  if tier = 1 ∨ tier = 2 then
    let w := s.reg die 0 ⟨0x06, 0x008 + 8 * tier⟩
    let free := s.poolFree die tier * 128
    let on := s.tier.evicting.contains (die, tier)
    if !on && s.fld die 0 Fld.TR_CTRL_EVICT_EN == 1 && decide (free < getBits w 31 0 * 2 ^ 20) then
      { s with tier := { s.tier with evicting := (die, tier) :: s.tier.evicting } }
    else if on && (s.fld die 0 Fld.TR_CTRL_EVICT_EN == 0 || decide (getBits w 63 32 * 2 ^ 20 ≤ free)) then
      { s with tier := { s.tier with evicting := s.tier.evicting.erase (die, tier) } }
    else s
  else s

/-- An allocation of `g` granules in a tier for a context (R59, R202). T0 has no pool register. -/
def State.alloc (s : State) (die tier ctx g : Nat) : State :=
  let s := s.setUse die ctx tier (s.use die ctx tier + g)
  if tier = 0 then s else (s.setPoolFree die tier (s.poolFree die tier - g)).evictTest die tier

/-- A release of `g` granules in a tier by a context (R59). -/
def State.dealloc (s : State) (die tier ctx g : Nat) : State :=
  let s := s.setUse die ctx tier (s.use die ctx tier - g)
  if tier = 0 then s else (s.setPoolFree die tier (s.poolFree die tier + g)).evictTest die tier

/-- The pool of a tier has room (R204). -/
def State.poolOk (s : State) (die tier g : Nat) : Bool := decide (g ≤ s.poolFree die tier)

/-! ### Sizes -/

/-- Element width of an encoding in bits (R100). -/
def encWidth (enc : Nat) : Nat :=
  match enc with | 0 => 16 | 1 => 8 | 2 => 6 | _ => 4

/-- Bytes of a tile's data slot (R100). -/
def slotBytes (dim enc : Nat) : Nat := 16 * dim * encWidth enc / 8

/-- Granules of a page (R65). -/
def State.pageGranules (s : State) (kenc venc : Nat) : Nat :=
  s.kvh * (slotBytes s.dim kenc + slotBytes s.dim venc + 256) / 128

/-- 64 KiB blocks of a staging area (R76). -/
def State.stagingBlocks (s : State) : Nat := ceilDiv (8192 + s.layers * 16 * s.rowBytes) 65536

/-- Granules of a staging area (R76). -/
def State.stagingGranules (s : State) : Nat := s.stagingBlocks * 512

/-- Granules of a finishing area (R164). -/
def areaGranules : Nat := 512

/-- VBASE of a slot (R68). -/
def vbaseOf (slot : Nat) : Nat := 0x800000000000 + slot * 2 ^ 27

/-- VUN of a page (R68). -/
def PageKey.vun (k : PageKey) : Nat := vbaseOf k.slot + k.layer * 2 ^ 20 + k.page

/-- VUN of a slot's staging area (R68). -/
def stagingVun (slot : Nat) : Nat := 0x40000000 + slot * 2048

/-- VUN of a slot's finishing area (R164). -/
def areaVun (slot : Nat) : Nat := 0x3FF80000 + slot % 524288

/-- VUN of a unit. -/
def unitVun : UnitRef → Nat
  | .page slot layer page => PageKey.vun ⟨slot, layer, page⟩
  | .shared _ id => id
  | .staging slot => stagingVun slot

/-! ### Leaf entries and shared pages -/

/-- The leaf entry of a page. -/
def State.leaf (s : State) (k : PageKey) : Option Leaf := alGet k s.kv.leaves

/-- A shared-page entry. -/
def State.sharedPage (s : State) (die id : Nat) : Option SharedPage := alGet (die, id) s.kv.shared

/-- `s` with a leaf entry written. -/
def State.putLeaf (s : State) (k : PageKey) (l : Leaf) : State :=
  { s with kv := { s.kv with leaves := alSet k l s.kv.leaves } }

/-- `s` with a leaf entry cleared. -/
def State.dropLeaf (s : State) (k : PageKey) : State :=
  { s with kv := { s.kv with leaves := alErase k s.kv.leaves } }

/-- `s` with a shared-page entry written. -/
def State.putShared (s : State) (die id : Nat) (p : SharedPage) : State :=
  { s with kv := { s.kv with shared := alSet (die, id) p s.kv.shared } }

/-- The tier a page is in: its own, or that of its shared page. -/
def State.pageTier (s : State) (k : PageKey) (l : Leaf) : Nat :=
  match l.share with
  | none => l.tier
  | some id => match s.sharedPage (slotDie k.slot) id with | some p => p.tier | none => 1

/-- The tiles of a page. -/
def State.pageTiles (s : State) (k : PageKey) (l : Leaf) : List Tile :=
  match l.share with
  | none => l.tiles
  | some id => match s.sharedPage (slotDie k.slot) id with | some p => p.tiles | none => []

/-- Key and value encodings of a page. -/
def State.pageEnc (s : State) (k : PageKey) (l : Leaf) : Nat × Nat :=
  match l.share with
  | none => (l.kenc, l.venc)
  | some id => match s.sharedPage (slotDie k.slot) id with | some p => (p.kenc, p.venc) | none => (l.kenc, l.venc)

/-- The location of a page. -/
def State.pageLoc (s : State) (k : PageKey) (l : Leaf) : Nat :=
  match l.share with
  | none => l.loc
  | some id => match s.sharedPage (slotDie k.slot) id with | some p => p.loc | none => l.loc

/-- Granules of the tables a page's entry needs and no other entry holds (R74): a leaf table, a level-1 table. -/
def State.tableCost (s : State) (k : PageKey) : Nat :=
  (if s.kv.leaves.any (fun p => p.1.slot == k.slot && p.1.layer == k.layer && p.1.page / 4096 == k.page / 4096)
    then 0 else 256)
  + (if s.kv.leaves.any (fun p => p.1.slot == k.slot && p.1.layer / 16 == k.layer / 16) then 0 else 256)

/-- TLB and walk-cache copies of a unit are removed before its location is freed (R75). -/
def State.shootdown (s : State) (die vun : Nat) : State :=
  let s := { s with kv := { s.kv with tlb := s.kv.tlb.filter (fun x => x ≠ (die, vun)) } }
  s.bump die 0 Fld.XL_TLB_STAT_SHOOTDOWNS

/-- A new leaf entry with the tables it needs (R71, R74). -/
def State.addLeaf (s : State) (k : PageKey) (l : Leaf) : State :=
  let c := s.tableCost k
  let s := s.putLeaf k l
  if c = 0 then s else s.alloc (slotDie k.slot) 1 (s.sess k.slot).context c

/-- A leaf entry cleared, with the tables it leaves empty (R70, R74). -/
def State.removeLeaf (s : State) (k : PageKey) : State :=
  let s := s.dropLeaf k
  let c := s.tableCost k
  if c = 0 then s else s.dealloc (slotDie k.slot) 1 (s.sess k.slot).context c

/-- One reference to a shared page is dropped; at 0 the page and its entry are freed (R94). -/
def State.unrefShared (s : State) (die id : Nat) : State :=
  match s.sharedPage die id with
  | none => s
  | some p =>
    if p.ref ≤ 1 then
      let s := { s with kv := { s.kv with shared := alErase (die, id) s.kv.shared } }
      (s.dealloc die p.tier p.context (s.pageGranules p.kenc p.venc)).lower die 0 Fld.XL_SPT_USE_USED 1
    else s.putShared die id { p with ref := p.ref - 1 }

/-- A session's page is released: its entry is cleared, its space credited, or its shared page's count lowered (R88,
R94, R75). -/
def State.releasePage (s : State) (k : PageKey) : State :=
  match s.leaf k with
  | none => s
  | some l =>
    let die := slotDie k.slot
    let s := (s.removeLeaf k).shootdown die k.vun
    match l.share with
    | some id => s.unrefShared die id
    | none => s.dealloc die l.tier (s.sess k.slot).context (s.pageGranules l.kenc l.venc)

/-- The pages of a session, as their keys. -/
def State.pagesOf (s : State) (slot : Nat) : List PageKey := (s.kv.leaves.filter (fun p => p.1.slot == slot)).map (·.1)

/-- An access to a page stamps its age and clears OLD (R72). -/
def State.touch (s : State) (k : PageKey) : State :=
  match s.leaf k with
  | none => s
  | some l =>
    let die := slotDie k.slot
    match l.share with
    | none => s.putLeaf k { l with age := s.stamp die, old := false }
    | some id => match s.sharedPage die id with
      | none => s
      | some p => s.putShared die id { p with age := s.stamp die, old := false }

/-! ### Staging, finishing areas, residency -/

/-- The staging area of a slot, while it is mapped. -/
def State.staging (s : State) (slot : Nat) : Option Staging := alGet slot s.kv.staging

/-- `s` with a staging area mapped or rewritten. -/
def State.putStaging (s : State) (slot : Nat) (g : Staging) : State :=
  { s with kv := { s.kv with staging := alSet slot g s.kv.staging } }

/-- The finishing area of a slot, while it is mapped. -/
def State.area (s : State) (slot : Nat) : Option FinArea := alGet slot s.kv.areas

/-- `s` with a finishing area mapped or rewritten. -/
def State.putArea (s : State) (slot : Nat) (a : FinArea) : State :=
  { s with kv := { s.kv with areas := alSet slot a s.kv.areas } }

/-- A staging area with nothing in it (R76, R77). -/
def State.newStaging (s : State) : Staging :=
  { loc := s.freeVal % 2 ^ 40, lens := List.replicate s.layers 0, globals := [], rows := [] }

/-- A finishing area at SESSION_OPEN (R130, R156, R164). -/
def State.newArea (s : State) (window : Nat) : FinArea :=
  { loc := s.freeVal % 2 ^ 40, counts := List.replicate s.alpha 0, stack := [], drawn := 0, window, histHead := 0,
    histFill := 0, hist := [], rseqNext := 0, relEpoch := 0, relStep := 0, relLayer := 0, keptEpoch := 0,
    keptForm := 0, kept := zeros 64 }

/-- A session's tiles, staging area or finishing area stand in T0 or T1 (R39). -/
def State.inT1 (s : State) (slot : Nat) : Bool :=
  (s.staging slot).isSome || (s.area slot).isSome
    || s.kv.leaves.any (fun p => p.1.slot == slot && decide (s.pageTier p.1 p.2 ≤ 1))

/-- PARKED turns DORMANT when nothing of the session is left in T0 and T1 (R47). -/
def State.dormantTest (s : State) (slot : Nat) : State :=
  let r := s.sess slot
  if r.st = .parked ∧ s.inT1 slot = false then
    (s.setSess slot { r with st := .dormant }).raise (slotDie slot) 0x14
      { ctx := some r.context, a0 := r.node * 2 ^ 48 + r.gen * 2 ^ 24 + slot }
  else s

/-- The home cluster of a slot (R335); cluster 0 when none is set. -/
def State.home (s : State) (slot : Nat) : Nat := (alGet slot s.ses.home).getD 0

/-! ### The snuffer's queue -/

/-- A scrub job joins its cluster's queue (R340). -/
def State.queueScrub (s : State) (die cluster : Nat) (teardown : Bool) (ctx slot : Nat) (ranges : List Range) : State :=
  let j : Scrub := ⟨die, cluster, s.lamp.nextJob, teardown, ctx, slot, ranges, none, false, 0⟩
  { s with lamp := { s.lamp with scrubs := s.lamp.scrubs ++ [j], nextJob := s.lamp.nextJob + 1 } }

end Sys2Proof.Machine
end

