-- ==== Sys2Proof/Machine/Operands.lean ====
section
/-! DEFINITION. Operand forms: handles (R35), the session record's bytes (R38), the checks of R50 that every session
message shares, response bodies, and the addresses of control space (R470 to R474). -/

namespace Sys2Proof.Machine

/-! ### Handles (R35) -/

/-- SLOT of a handle. -/
def handleSlot (h : Nat) : Nat := h % 1048576
/-- GEN of a handle. -/
def handleGen (h : Nat) : Nat := h / 2 ^ 24 % 2 ^ 24
/-- NODE of a handle. -/
def handleNode (h : Nat) : Nat := h / 2 ^ 48
/-- A handle's reserved bits are zero. -/
def handleClean (h : Nat) : Bool := h / 2 ^ 20 % 16 == 0

/-- State codes (R39). -/
def SesState.code : SesState → Nat
  | .free => 0 | .filling => 1 | .owned => 2 | .parked => 3 | .dormant => 4 | .held => 5

/-- A lease runs in FILLING and OWNED. -/
def SesState.leased : SesState → Bool
  | .filling | .owned => true
  | .free | .parked | .dormant | .held => false

/-! ### CRC-64 and the session record's bytes (R38, R108) -/

/-- The reflected ECMA-182 polynomial (R108). -/
def crcPoly : BitVec 64 := 0xC96C5795D7870F42

/-- One bit of the reflected CRC-64. -/
def crcBit (c : BitVec 64) : BitVec 64 := if c.getLsbD 0 then (c >>> 1) ^^^ crcPoly else c >>> 1

/-- One byte of the reflected CRC-64. -/
def crcByte (c : BitVec 64) (b : Byte) : BitVec 64 :=
  crcBit (crcBit (crcBit (crcBit (crcBit (crcBit (crcBit (crcBit (c ^^^ b.setWidth 64))))))))

/-- CRC-64 (R108). -/
def crc64 (l : List Byte) : BitVec 64 := ~~~(l.foldl crcByte (BitVec.allOnes 64))

/-- FINISH_STATE (R163). -/
def FinState.bytes (f : FinState) : List Byte :=
  le 2 (b2n f.on * 2 ^ 15 + f.gram % 4096) ++ le 2 f.gstate
    ++ le 1 (f.hold.length % 4 + 4 * (f.sp / 256 % 2)) ++ le 1 (f.sp % 256)
    ++ (f.hold ++ zeros 3).take 3 ++ zeros 3 ++ le 4 f.fops

/-- Bytes 0 to 119 of the session record (R38). SEED stands in the order of the request (log 13). -/
def Session.body (r : Session) (slot : Nat) : List Byte :=
  le 8 (r.handle slot) ++ le 1 r.st.code ++ le 1 r.heldReason ++ le 2 r.context ++ le 2 r.owner ++ le 2 r.lastBy
    ++ le 4 r.epoch ++ le 4 r.leaseLen ++ le 8 r.leaseEnd ++ le 4 r.length ++ le 4 r.window ++ le 2 r.globals
    ++ le 1 (b2n r.scrubPending + 2 * b2n r.promoting + 4 * b2n r.dense) ++ zeros 5 ++ le 8 r.vbase ++ le 8 r.openStep
    ++ le 8 r.lastPos ++ le 8 r.reqTag ++ be 16 r.seed ++ r.fin.bytes ++ zeros 8

/-- The session record (R38), as SES_REC shows it. -/
def Session.bytes (r : Session) (slot : Nat) : List Byte :=
  let b := r.body slot
  b ++ le 8 (crc64 b).toNat

/-! ### The checks of R50 -/

/-- The record's address in T1 (R41, R214). -/
def State.recordAddr (s : State) (slot : Nat) : Nat :=
  memFail 1 (slotDie slot) (s.fld (slotDie slot) 0 Fld.SES_TABLE_BASE * 128 + slot % 524288 * 128)

/-- A handle names a live session (R36). -/
def State.liveHandle (s : State) (h : Nat) : Bool :=
  let r := s.sess (handleSlot h)
  handleClean h && handleNode h == s.fld 0 0 Fld.SES_CTRL_NODE_ID && handleGen h == r.gen && r.st != .free

/-- Step 3 of R50 (R274, R338): the sender is listed for the session's context with a role other than NONE, CTX names
that context, and the context is not torn. -/
def State.senderOk (s : State) (e : Env) (ctx : Nat) : Bool :=
  s.listed ctx e.ep && decide (s.role e.ep ≠ 0) && !e.ekey && e.ctx == ctx && !s.torn ctx

/-- Steps 2 and 3 of R50: the handle, its record, the sender (R36, R41). -/
def State.r50Id (s : State) (e : Env) (h fields : Nat) (closing : Bool) : Option Refuse :=
  let r := s.sess (handleSlot h)
  if !handleClean h then some ⟨St.badFrame, fields, 0⟩
  else if r.crcBad && !(closing && s.role e.ep == 3) then some ⟨St.integrity, 0, s.recordAddr (handleSlot h)⟩
  else if !s.liveHandle h then some ⟨St.noSession, 0, 0⟩
  else if !s.senderOk e r.context then some ⟨St.denied, 0, 0⟩
  else none

/-- Steps 2 to 6 of R50 for a message with handle `h` and epoch `epoch`: `fields` is the FIELDS reason of the chapter,
`rep` the repeat test of R56 on a stale epoch, `cell` the table of R48 (the status of a refusal). -/
def State.r50 (s : State) (e : Env) (h epoch fields : Nat) (closing : Bool) (rep : Session → Bool)
    (cell : Session → Option Nat) : Option Refuse :=
  let r := s.sess (handleSlot h)
  match s.r50Id e h fields closing with
  | some x => some x
  | none =>
    if r.st = .held ∧ s.role e.ep ≠ 3 then some ⟨St.orphanHeld, 0, 0⟩
    else if epoch < r.epoch then (if rep r then some ⟨St.replay, 0, 0⟩ else some ⟨St.staleEpoch, 0, 0⟩)
    else if r.epoch < epoch then some ⟨St.badFrame, 0x12, 0⟩
    else match cell r with | some st => some ⟨st, 0, 0⟩ | none => none

/-- The row of R48 for messages that only the holder may send in OWNED, and in FILLING too when `fill` is set. -/
def State.holderCell (_s : State) (e : Env) (fill : Bool) (r : Session) : Option Nat :=
  match r.st with
  | .filling => if fill then (if r.owner = e.ep then none else some St.notOwner) else some St.denied
  | .owned => if r.owner = e.ep then none else some St.notOwner
  | .parked | .dormant => some St.notOwner
  | .held | .free => some St.denied

/-- A DENIED answer to a message whose key names another context is counted (R274, R290). -/
def State.noteMismatch (s : State) (e : Env) (ctx status : Nat) : State :=
  if status = St.denied ∧ e.ctx ≠ ctx then s.bump (portDie e.port) 0 Fld.GSP_BAD_DENIED else s

/-- What a refusal leaves behind besides its answer: the outcome counters (R64, R290), and DATA_CHECK for a record (R41). -/
def State.noteRefuse (s : State) (e : Env) (slot : Nat) (x : Refuse) : State :=
  let s := (s.countOutcome (slotDie slot) x.status).noteMismatch e (s.sess slot).context x.status
  if x.status = St.integrity ∧ x.detail / 2 ^ 62 = 1 ∧ x.detail / 2 ^ 60 % 4 = 0 then s.t1Fail (slotDie slot) (x.detail % 2 ^ 48)
  else s

/-! ### Response bodies -/

/-- LEASE_LEFT (R43). -/
def State.leaseLeft (s : State) (r : Session) : Nat := if r.st.leased then r.leaseEnd - s.boundary else 0

/-- The 24-byte body of a session response (R43). -/
def sesBody (handle epoch state reason owner left detail : Nat) : List Byte :=
  be 8 handle ++ be 4 epoch ++ be 1 state ++ be 1 reason ++ be 2 owner ++ be 4 left ++ be 4 detail

/-- The body that gives a slot's record as it stands (R43). -/
def State.recBody (s : State) (slot detail : Nat) : List Byte :=
  let r := s.sess slot
  sesBody (r.handle slot) r.epoch r.st.code r.heldReason r.owner (s.leaseLeft r) detail

/-- The body of a refused session message: zero for NO_SESSION and for a handle of no live session (R43). -/
def State.sesRefuseBody (s : State) (h : Nat) (x : Refuse) : List Byte :=
  if x.status = St.noSession then zeros 24
  else if s.liveHandle h || x.status == St.integrity then s.recBody (handleSlot h) (x.detail % 2 ^ 32)
  else zeros 24

/-- A refused session message is answered (R43, R50): nothing in the record changes. -/
def State.sesRefuse (s : State) (e : Env) (type h : Nat) (x : Refuse) : State :=
  let s := s.noteRefuse e (handleSlot h) x
  s.answer e type x.status x.reason (s.sesRefuseBody h x)

/-! ### Control-space addresses (R470 to R474) -/

/-- The number of a requester, for its own copies of selection registers (R474). -/
def rqCode : Requester → Nat
  | .core die code => die * 16 + code
  | .ep id => 64 + id
  | .sideband => 40
  | .jtag => 41
  | .start => 42

/-- The register row at an offset of a block on a die, or none when the address is unmapped (R472). -/
def findRow (die blk off : Nat) : Option RegRow :=
  match (regRowsOf blk).find? (fun r => r.id.off == off) with
  | some r => if die = 0 ∨ r.onDie1 then some r else none
  | none => none

/-- DIE and the register row of a 48-bit address (R470, R472). -/
def mapAddr (a : Nat) : Option (Nat × RegRow) :=
  if a / 2 ^ 41 ≠ 0 ∨ a % 8 ≠ 0 then none
  else match findRow (a / 2 ^ 40 % 2) (a / 2 ^ 24 % 2 ^ 16) (a % 2 ^ 24) with
    | some r => some (a / 2 ^ 40 % 2, r)
    | none => none

/-- A requester's copy of a selection register (R474). -/
def State.selReg (s : State) (die : Nat) (rq : Requester) (r : RegId) : Nat :=
  (s.reg die (rqCode rq) r).toNat

/-- The item a requester's selections name for a kind of register, or none when they select nothing on the die (R64,
R289, R308, R474). -/
def State.selItem (s : State) (die : Nat) (rq : Requester) : SelKind → Option Nat
  | .plain => some 0
  | .requester => some (rqCode rq)
  | .ctx => some (s.selReg die rq Reg.CTX_SEL % 4096)
  | .cluster => some (s.selReg die rq Reg.MC_SEL % 8)
  | .index => some (s.selReg die rq Reg.WK_IDX_SEL)
  | .ethPort =>
    let p := s.selReg die rq Reg.ETH_PORT_SEL % 64
    if portDie p = die ∧ p < 48 then some p else none
  | .endpoint => some (s.selReg die rq Reg.GSP_EP_SEL % 65536)
  | .chPort =>
    let p := s.selReg die rq Reg.CH_PORT_SEL % 64
    if portDie p = die ∧ p < 48 then some p else none
  | .chGate =>
    let p := s.selReg die rq Reg.CH_PORT_SEL % 64
    if portDie p = die ∧ p < 48 then some (p * 64 + s.selReg die rq Reg.CH_GATE_SEL % 64) else none
  | .grammar => some (s.selReg die rq Reg.FIN_GRAM_SEL % 4096)
  | .tally => some (s.selReg die rq Reg.TL_SEL % 32768)
  | .core => some (s.selReg die rq Reg.HL_CORE_SEL % 8)
  | .monitor => some (s.selReg die rq Reg.HL_MON_SEL)
  | .sensor => some (s.selReg die rq Reg.BD_TEMP_SEL)
  | .keygen =>
    let w := s.reg die (rqCode rq) Reg.SEAL_KEYGEN_SEL
    some (if getBits w 63 63 = 1 then 65536 + getBits w 15 0 else getBits w 11 0)
  | .window => some (s.selReg die rq Reg.SEAL_WIN_SEL)
  | .slot =>
    let x := s.selReg die rq Reg.SES_REC_SEL % 1048576
    if slotDie x = die then some x else none

end Sys2Proof.Machine
end

