-- ==== Sys2Proof/Machine/Results.lean ====
section
/-! DEFINITION. The result store: a result's header, its way through gates and fetches, and its release (R130 to R132,
R153 to R158, R269, R303, R305). -/

namespace Sys2Proof.Machine

/-! ### The store -/

/-- A result is the one of a slot and key. -/
def Result.is (r : Result) (slot : Nat) (key : ResKey) : Bool := r.slot == slot && r.key == key

/-- The result of a slot and key. -/
def State.result (s : State) (slot : Nat) (key : ResKey) : Option Result :=
  s.attn.results.find? (fun r => r.is slot key)

/-- Keys are ordered by epoch, step, layer (R153). -/
def keyLe (a b : ResKey) : Bool :=
  decide (a.epoch < b.epoch) || (a.epoch == b.epoch && (decide (a.step < b.step)
    || (a.step == b.step && decide (a.layer ≤ b.layer))))

/-- Every result of a slot and key changed by `f`. -/
def State.mapResult (s : State) (slot : Nat) (key : ResKey) (f : Result → Result) : State :=
  { s with attn := { s.attn with results := s.attn.results.map (fun (r : Result) => if r.is slot key then f r else r) } }

/-- The granules of a store entry (R153). -/
def State.entryGranules (s : State) : Nat := ceilDiv (48 + s.qh * s.dim * 4) 128

/-- The arithmetic clock in MHz of the operating point in force (R422, R423). -/
def State.clockMhz (s : State) : Nat :=
  match s.start.img.envelope.points[s.fld 0 0 Fld.HL_PLAN_STATUS_POINT]? with
  | some p => p.clkMhz
  | none => Config.gradeClockMhz


/-! ### Where a result goes (R269) -/

/-- The destination of a result now: the port of its ATTEND, or the first path whose port is up. -/
def State.resultDest (s : State) (r : Result) : Option Dest :=
  let key : KeyRef := ⟨r.ep, r.context, false, r.keyGen⟩
  if (s.port r.port).link then some ⟨r.port, key, r.src, r.srcUdp⟩
  else match s.firstPath r.ep with
    | some p => some ⟨p.port, key, p.addr, p.udp⟩
    | none => none

/-- One packet of an RDMA WRITE is queued with the next PSN of its connection, and kept until it is acknowledged (R154, R282):
Ethernet, tag, IP, UDP, BTH, the RETH of the first packet, ICRC and FCS (log 40). -/
def State.sendWrite (s : State) (d : Dest) (q : Qp) (result : Nat × ResKey) (seq : Nat) (piece : Bool × Nat × List Byte) : State :=
  let psn := match s.net.qps.find? (fun x => x.die == q.die && x.qp == q.qp) with | some x => x.sent | none => q.sent
  let len := s.ipBytes d.key.ep d.port + 46 + (if piece.1 then 16 else 0) + piece.2.2.length
  let body : FrameBody := .rdmaWrite d.key.ep q.qp psn piece.2.1 d.key seq piece.2.2
  let s := { s with net := { s.net with qps := s.net.qps.map (fun (x : Qp) =>
    if x.die = q.die ∧ x.qp = q.qp then
      { x with sent := psn + 1, unacked := x.unacked ++ [(psn, d.key.flow, len, body)] } else x) } }
  s.send d.port (s.kindClass (portDie d.port) 0) d.key.flow len (some result) body

/-- The bytes of a result object (R283): the header, the data in the plain, and the tag (log 9). -/
def objectBytes (k : KeyRef) (seq : Nat) (data : List Byte) : List Byte :=
  be 4 data.length ++ be 2 k.ep ++ be 1 k.keyGen ++ be 1 0 ++ be 8 seq ++ data
    ++ (List.range 16).map (fun i => Config.objectTag k.ep k.ctx k.keyGen seq i)

/-- The data of a result with DEST = 1 are written to the sender's result region as an object with the next SEQ of DIR 3 (R154,
R276, R283). -/
def State.sendObject (s : State) (d : Dest) (r : Result) (q : Qp) : State :=
  let seq := (alGet d.key s.net.objOut).getD 1
  let s := { s with net := { s.net with objOut := alSet d.key (seq + 1) s.net.objOut } }
  let pieces := chunks q.mtu (objectBytes d.key seq r.data)
  (pieces.zipIdx.map (fun p => (p.2 == 0, r.doff + p.2 * q.mtu, p.1))).foldl
    (fun s g => s.sendWrite d q (r.slot, r.key) seq g) s

/-- The connection to an endpoint on a die. -/
def State.qpOf (s : State) (die ep : Nat) : Option Qp :=
  s.net.qps.find? (fun q => q.die == die && q.ep == ep && !q.error)

/-- A result joins its class queue (R303): its RDMA WRITEs first under DEST = 1, then its header, or header and data. A
result that has no way out is left to a fetch (log 20). Replay sends no result: there this is its return (R438). -/
def State.joinQueue (s : State) (slot : Nat) (key : ResKey) : State :=
  match s.result slot key with
  | none => s
  | some r =>
    if s.inReplay then (s.noteReturn r).mapResult slot key (fun r => { r with delivery := .started })
    else match s.resultDest r with
    | none => s.mapResult slot key (fun r => { r with delivery := .fetchOnly })
    | some d =>
      let s := s.mapResult slot key (fun r => { r with delivery := .queued })
      if r.dest && r.integrity.isNone then
        match s.qpOf (portDie d.port) r.ep with
        | none => s.mapResult slot key (fun r => { r with delivery := .fetchOnly })
        | some q => (s.sendObject d r q).sendMsg d 0 0x06 r.nextStatus 0 r.reqId true (some (slot, key)) (s.returnBody r false)
      else s.sendMsg d 0 0x06 r.nextStatus 0 r.reqId true (some (slot, key)) (s.returnBody r true)

/-- The frames of a result leave every class queue (R158, R303, R305); a frame in transmission is finished. -/
def State.unqueue (s : State) (slot : Nat) (key : ResKey) : State :=
  (s.net.ports.map (·.1)).foldl (fun s p =>
    let q := s.port p
    if q.queue.any (fun f => f.result == some (slot, key)) then
      (List.range 8).foldl (fun s c => s.resetClass p c)
        ((s.settle p).setPort p { (s.settle p).port p with
          queue := q.queue.filter (fun f => f.result != some (slot, key)) })
    else s) s

/-- A result leaves the store (R153, R158): its units stop, and unless its first frame has started its frames are
withdrawn. -/
def State.dropResult (s : State) (slot : Nat) (key : ResKey) : State :=
  match s.result slot key with
  | none => s
  | some r =>
    let s := s.formResult r
    let s := if r.delivery = .queued then s.unqueue slot key else s
    let s := { s with attn := { s.attn with
      results := s.attn.results.filter (fun (x : Result) => !x.is slot key)
      groups := s.attn.groups.map (fun (g : Group) => { g with members := g.members.filter (fun m => m != (slot, key)) }) } }
    let s := s.untrack ⟨r.ep, r.context, false, r.keyGen⟩ r.reqId
    (s.lower (slotDie slot) 0 Fld.ATN_STORE_USE_USED 1).lower (slotDie slot) r.context Fld.ATN_CTX_RES_USE 1

/-- Every result of a slot that satisfies `p` is dropped. -/
def State.dropResults (s : State) (slot : Nat) (p : Result → Bool) : State :=
  ((s.attn.results.filter (fun r => r.slot == slot && p r)).map (·.key)).foldl (fun s k => s.dropResult slot k) s

/-! ### Gates (R154, R303) -/

/-- The RESULT entries of a port that name a layer. -/
def State.resultEntries (s : State) (p layer : Nat) : List Nat :=
  (s.gateList p).filter (fun i => getBits (s.gate p i) 61 61 == 1 && gateLayer (s.gate p i) layer)

/-- The linear position of a layer's start. -/
def State.layerLin (s : State) (step layer : Nat) : Nat := posLin s.layers step layer 0

/-- A RESULT entry of the result's own layer and step has opened and closed on the port. Positions before the first word after
NO_PHASE, or before a rebase, do not count as passed (R25, R477). -/
def State.gatePast (s : State) (p : Nat) (k : ResKey) : Bool :=
  (s.resultEntries p k.layer).any (fun i =>
    decide (s.bcn.gateBase ≤ s.layerLin k.step k.layer + getBits (s.gate p i) 7 0)
      && decide (s.layerLin k.step k.layer + getBits (s.gate p i) 16 8 ≤ s.est))

/-- A RESULT entry for the result's layer and step is open on the port. -/
def State.gateNow (s : State) (p : Nat) (k : ResKey) : Bool :=
  decide (s.est / 256 = k.step * s.layers + k.layer)
    && (s.port p).opened.any (fun i => getBits (s.gate p i) 61 61 == 1)

/-- A result has missed its gate (R154, R160): LATE, the count, the last miss, the event. A result already returned keeps
its header (R155; log 21). -/
def State.markLate (s : State) (slot : Nat) (key : ResKey) : State :=
  match s.result slot key with
  | none => s
  | some r =>
    if r.late then s
    else
      let d := slotDie slot
      let pos := posOrd key.step key.layer 0
      let s := s.mapResult slot key (fun r => { r with late := r.firstRet.isNone })
      let s := s.bump d 0 Fld.ATN_COUNTS0_GATE_MISS
      let s := s.setReg d 0 Reg.ATN_LAST_MISS_POS (BitVec.ofNat 64 pos)
      let s := s.setReg d 0 Reg.ATN_LAST_MISS_SLOT (BitVec.ofNat 64 slot)
      if s.attn.gateMissed.contains (d, pos) then s
      else ({ s with attn := { s.attn with gateMissed := (d, pos) :: s.attn.gateMissed } }).raise d 0x30
        { ctx := some r.context, a0 := (s.sess slot).handle slot, a1 := pos }

/-- A result that is complete is delivered, held for its gate, or found late (R154, R303). With gates off it leaves at
once (log 22). -/
def State.deliver (s : State) (slot : Nat) (key : ResKey) : State :=
  match s.result slot key with
  | none => s
  | some r =>
    if !s.fires || !r.complete || r.delivery != .waiting then s
    else match s.resultDest r with
      | none => s
      | some d =>
        if !s.gatesOn d.port then s.joinQueue slot key
        else if r.late then s
        else if s.gateNow d.port key then s.joinQueue slot key
        else if s.gatePast d.port key then s.markLate slot key
        else s

/-- The results that a RESULT entry carries when it opens at layer `layer` of step `step` on a port (R303): complete ones
of that layer and step, and late ones. -/
def State.carry (s : State) (p step layer : Nat) : State :=
  ((s.attn.results.filter (fun r => r.complete && r.delivery == .waiting
      && (r.late || (r.key.step == step && r.key.layer == layer))
      && (match s.resultDest r with | some d => d.port == p | none => false))).map (fun r => (r.slot, r.key))).foldl
    (fun s k => s.joinQueue k.1 k.2) s

/-- The results that miss their gate when a RESULT entry closes on a port (R303): queued ones whose first frame has not
started, and complete ones of the layer and step that no other open entry carries. -/
def State.missClose (s : State) (p step layer : Nat) : State :=
  if (s.port p).opened.any (fun i => getBits (s.gate p i) 61 61 == 1) then s
  else
    let queued := s.attn.results.filter (fun r => r.delivery == .queued
      && (s.port p).queue.any (fun f => f.result == some (r.slot, r.key)))
    let held := s.attn.results.filter (fun r => r.complete && r.delivery == .waiting && !r.late
      && r.key.step == step && r.key.layer == layer
      && (match s.resultDest r with | some d => d.port == p | none => false))
    let s := (queued.map (fun r => (r.slot, r.key))).foldl (fun s k =>
      ((s.unqueue k.1 k.2).mapResult k.1 k.2 (fun r => { r with delivery := .waiting })).markLate k.1 k.2) s
    (held.map (fun r => (r.slot, r.key))).foldl (fun s k => s.markLate k.1 k.2) s

/-- Results with frames left when their gate closes are counted once (R303). -/
def State.countSplit (s : State) (p : Nat) : State :=
  let q := s.port p
  let left := ((q.queue.filter (fun f => !f.split && s.startedResult f)).filterMap (·.result)).eraseDups
  (s.setPort p { q with queue := q.queue.map (fun (f : QFrame) =>
    if f.result.isSome && s.startedResult f then { f with split := true } else f) }).bumpBy (portDie p) p
      Fld.CH_COUNTS_SPLIT left.length

/-- Complete results whose gate has passed without opening for them are found late: what a jump leaves (R299, R303). -/
def State.lateSweep (s : State) : State :=
  ((s.attn.results.filter (fun r => r.complete && r.delivery == .waiting && !r.late)).map (fun r => (r.slot, r.key))).foldl
    (fun s k => s.deliver k.1 k.2) s

/-- Entry to NO_PHASE or LOST (R305): every entry closes, and results whose first frame has not started are withdrawn and
left to a fetch. -/
def State.withdrawAll (s : State) : State :=
  (s.net.ports.map (·.1)).foldl (fun s p =>
    let out := s.attn.results.filter (fun r => r.delivery == .queued
      && (s.port p).queue.any (fun f => f.result == some (r.slot, r.key)))
    let s := (out.map (fun r => (r.slot, r.key))).foldl (fun s k =>
      (s.unqueue k.1 k.2).mapResult k.1 k.2 (fun r => { r with delivery := .fetchOnly })) s
    let s := s.bumpBy (portDie p) p Fld.CH_COUNTS_WITHDRAWN out.length
    (s.setPort p { s.port p with opened := [] }).pick p) s

/-! ### EXPECTED (R157) -/

/-- The open position of the gate that will carry a result, if one will. -/
def State.openPos (s : State) (r : Result) : Option Nat :=
  match s.resultDest r with
  | none => none
  | some d =>
    let own := (s.resultEntries d.port r.key.layer).filter (fun i =>
      decide (s.est < s.layerLin r.key.step r.key.layer + getBits (s.gate d.port i) 16 8))
    if !r.late && !own.isEmpty then
      (own.map (fun i => s.layerLin r.key.step r.key.layer + getBits (s.gate d.port i) 7 0)).min?
    else if (s.resultEntries d.port r.key.layer).isEmpty && !r.late then none
    else (((s.gateList d.port).filter (fun i => getBits (s.gate d.port i) 61 61 == 1)).map (fun i =>
      nextAt s.layers (s.gate d.port i) (getBits (s.gate d.port i) 7 0) s.est)).min?

/-- MACs per engine per cycle of the score stage (R135). -/
def scoreRate (qform kenc : Nat) : Nat :=
  if kenc = 0 ∨ qform = 0 then 32 else if qform = 2 ∧ kenc = 3 then 128 else 64

/-- MACs per engine per cycle of the value stage (R135). -/
def valueRate (pform venc : Nat) : Nat := if venc = 0 ∨ pform = 0 then 32 else 64

/-- Key and value encodings of a view: staging rows count as PT16 (R135). -/
def View.encs (v : View) : Nat × Nat :=
  match v.src with
  | .staging _ => (0, 0)
  | .stored _ tiles => ((tiles.head?.map (·.enc)).getD 0, (tiles.getLast?.map (·.enc)).getD 0)

/-- Engine cycles of one tile of the walk (R144). -/
def State.viewCycles (s : State) (r : Result) (v : View) : Nat :=
  let g := s.qh / s.kvh
  ceilDiv (g * 16 * s.dim) (scoreRate r.qform v.encs.1) + ceilDiv (g * 16 * s.dim) (valueRate r.pform v.encs.2) + 8

/-- Engine cycles of one unit (R144). -/
def State.unitCycles (s : State) (r : Result) (u : AttnUnit) : Nat :=
  ((r.views.filter (fun v => v.page / 16 == u.seg)).map (s.viewCycles r)).foldl (· + ·) 0

/-- The order of results in a cluster's queue (R145): by the close of the gate, those without a gate last, then by
acceptance. -/
def State.closePos (s : State) (r : Result) : Option Nat :=
  ((s.resultEntries r.port r.key.layer).map (fun i =>
    s.layerLin r.key.step r.key.layer + getBits (s.gate r.port i) 16 8)).max?

/-- One result's units come before another's (R145). -/
def State.unitsBefore (s : State) (a b : Result) : Bool :=
  match s.closePos a, s.closePos b with
  | some x, some y => decide (x < y) || (x == y && decide (a.order ≤ b.order))
  | some _, none => true
  | none, some _ => false
  | none, none => decide (a.order ≤ b.order)

/-- Engine cycles queued in a result's home cluster up to and including its last unit (R157). -/
def State.queuedCycles (s : State) (r : Result) : Nat :=
  ((s.attn.results.filter (fun x => slotDie x.slot == slotDie r.slot && s.home x.slot == s.home r.slot
      && s.unitsBefore x r)).map (fun x =>
    ((x.units.filter (fun u => u.st != .done)).map (s.unitCycles x)).foldl (· + ·) 0)).foldl (· + ·) 0

/-- EXPECTED of an incomplete result (R157), as the R6 ordering value. -/
def State.expected (s : State) (r : Result) : Nat :=
  if !s.fires then 2 ^ 64 - 1
  else
    let drain := if s.bcn.minPeriod = 0 then none
      else some (s.est + ceilDiv (s.queuedCycles r * 1000 * 256) (64 * s.clockMhz * s.bcn.minPeriod))
    match s.openPos r, drain with
    | some a, some b => linToOrd s.layers (max a b)
    | some a, none => linToOrd s.layers a
    | none, some b => linToOrd s.layers b
    | none, none => 2 ^ 64 - 1

/-! ### The release mark and the end of an epoch -/

/-- The release mark of a session (R156). -/
def FinArea.mark (a : FinArea) : ResKey := ⟨a.relEpoch, a.relStep, a.relLayer⟩

/-- The release mark raised to a key. -/
def State.raiseMark (s : State) (slot : Nat) (k : ResKey) : State :=
  match s.area slot with
  | none => s
  | some a => if keyLe k a.mark then s else s.putArea slot { a with relEpoch := k.epoch, relStep := k.step, relLayer := k.layer }

/-- The results of a session's ended epoch are retained from now on (R51). -/
def State.endEpoch (s : State) (slot : Nat) : State :=
  { s with attn := { s.attn with results := s.attn.results.map (fun (r : Result) =>
      if r.slot = slot ∧ r.ended.isNone then { r with ended := some s.boundary } else r) } }

/-- Retention of a result has ended (R51). -/
def State.retentionOver (s : State) (r : Result) : Bool :=
  match r.ended with
  | none => false
  | some b => if r.overdue then r.firstRet.isSome else decide (b < s.boundary) && r.complete

/-- A result is released AUTO_RELEASE boundaries after its first return (R158). -/
def State.autoDue (s : State) (r : Result) : Bool :=
  r.auto != 0 && (match r.firstRet with | some b => decide (b + r.auto ≤ s.boundary) | none => false)

/-- A result is released by itself: the release mark follows (R158). -/
def State.autoRelease (s : State) (slot : Nat) (key : ResKey) : State := (s.dropResult slot key).raiseMark slot key

/-- Results whose automatic release or whose end of retention is due at a boundary (R51, R158). -/
def State.releaseDue (s : State) : State :=
  s.attn.results.foldl (fun s r =>
    if s.autoDue r then s.autoRelease r.slot r.key
    else if s.retentionOver r then s.dropResult r.slot r.key else s) s

end Sys2Proof.Machine
end

