-- ==== Sys2Proof/Machine/Flash.lean ====
section
/-! DEFINITION. The flash log (R226 to R241): addresses, placing units into segments, programming stripes, and releasing
units. -/

namespace Sys2Proof.Machine

/-- Granules of a stripe (R231). -/
def stripeGranules : Nat := 896

/-- Pages per block (R228). -/
def State.ppb (s : State) (die : Nat) : Nat := s.fld die 0 Fld.WK_GEOM_PPB

/-- Segments of a group (R230). -/
def State.segCount (s : State) (die : Nat) : Nat :=
  s.fld die 0 Fld.WK_GEOM_CES * s.fld die 0 Fld.WK_GEOM_LUNS * s.fld die 0 Fld.WK_GEOM_BLOCKS

/-- A die has T2 (R228). -/
def State.hasT2 (s : State) (die : Nat) : Bool := s.fld die 0 Fld.WK_GEOM_CES != 0

/-- The segment of a number. One not listed is FREE. -/
def State.seg (s : State) (die group n : Nat) : Seg :=
  (s.flash.segs.find? (fun x => x.die == die && x.group == group && x.seg == n)).getD
    { die, group, seg := n, st := .free, kind := 0, retire := false, fixed := false, erased := false, pins := 0, live := 0,
      erases := 0, seq := 0, next := 0, entries := [] }

/-- `s` with a segment replaced. -/
def State.setSeg (s : State) (x : Seg) : State :=
  { s with flash := { s.flash with segs := x :: s.flash.segs.filter (fun (y : Seg) =>
      !(y.die == x.die && y.group == x.group && y.seg == x.seg)) } }

/-- FREE segments of a group (R241, WK_SEG_FREE). -/
def State.segFree (s : State) (die group : Nat) : Nat :=
  s.segCount die - (s.flash.segs.filter (fun x => x.die == die && x.group == group && x.st != .free)).length

/-- A group takes SESSION and INDEX writes (R241). -/
def State.groupTakes (s : State) (die group : Nat) : Bool :=
  s.hasT2 die && decide (s.fld die 0 Fld.WK_GC_RESERVE_SEGMENTS < s.segFree die group)

/-- The FREE segment with the fewest erases, ties to the lowest number (R233). A segment never listed has none. -/
def State.freeSeg (s : State) (die group : Nat) : Option Nat :=
  let used := s.flash.segs.filter (fun x => x.die == die && x.group == group)
  match (List.range (used.length + 1)).find? (fun n => decide (n < s.segCount die) && !used.any (fun x => x.seg == n)) with
  | some n =>
    match (used.filter (fun x => x.st == .free && x.erases == 0 && decide (x.seg < n))).map (·.seg) |>.min? with
    | some k => some k
    | none => some n
  | none =>
    (used.filter (fun x => x.st == .free)).foldl (fun (b : Option Seg) x =>
      match b with
      | none => some x
      | some y => if x.erases < y.erases ∨ (x.erases = y.erases ∧ x.seg < y.seg) then some x else some y) none
    |>.map (·.seg)

/-- A segment of a kind is opened (R233): the next SEQ of the group; its erase is under way. SEG_LOW is raised when the
FREE segments fall to the reserve (R241). -/
def State.openSeg (s : State) (die group kind : Nat) : Option (State × Seg) :=
  match s.freeSeg die group with
  | none => none
  | some n =>
    let x := s.seg die group n
    let q := (alGet (die, group) s.flash.seqs).getD 0 + 1
    let x : Seg := { x with st := .open_, kind, erased := false, live := 0, seq := q, next := 0, entries := [] }
    let s := (s.setSeg x)
    let s := { s with flash := { s.flash with seqs := alSet (die, group) q s.flash.seqs } }
    let s := if s.segFree die group ≤ s.fld die 0 Fld.WK_GC_RESERVE_SEGMENTS
      then s.raiseOnce die 0x54 group { alert := true, a0 := group } else s
    some (s, x)

/-- The open segment of a kind, if any. -/
def State.openOf (s : State) (die group kind : Nat) : Option Seg :=
  s.flash.segs.find? (fun x => x.die == die && x.group == group && x.kind == kind && x.st == .open_)

/-- Granules of a segment that hold units (R230). -/
def State.segRoom (s : State) (die : Nat) : Nat := (s.ppb die - 8) * stripeGranules

/-- The next granule from `n` at which a unit may start: any, a flash-page boundary for an index page, a stripe for an
image (R233). -/
def alignUp (n a : Nat) : Nat := ceilDiv n a * a

/-- A segment that can take no more closes (R233, R239): FREE or RETIRED at once when nothing in it is live. -/
def State.settleSeg (s : State) (x : Seg) : State :=
  if x.st = .closed ∧ x.live = 0 ∧ x.pins = 0 then
    s.setSeg { x with st := if x.retire then .retired else .free, entries := [], kind := 0, retire := false, fixed := false }
  else s.setSeg x

/-- The stripes that granules `a` to `b − 1` of a segment touch are in the buffer; those that are full are ready (R234). -/
def State.bufferStripes (s : State) (x : Seg) (a b : Nat) : State :=
  let touched := (List.range (b / stripeGranules + 1)).filter (fun k =>
    decide (a < (k + 1) * stripeGranules) && decide (k * stripeGranules < b))
  touched.foldl (fun s k =>
    let here := fun (y : Stripe) => y.die == x.die && y.group == x.group && y.seg == x.seg && y.stripe == k
    let old := s.flash.stripes.find? here
    let y : Stripe := ⟨x.die, x.group, x.seg, k, (old.map (·.since)).getD s.now, decide ((k + 1) * stripeGranules ≤ b)⟩
    { s with flash := { s.flash with stripes := s.flash.stripes.filter (fun z => !here z) ++ [y] } }) s

/-- A unit is placed at the next free granule of an open segment (R233): its location (R231). -/
def State.placeIn (s : State) (x : Seg) (align size : Nat) (o : Owner) : State × Nat :=
  let at_ := alignUp x.next align
  let full := decide (s.segRoom x.die ≤ at_ + size) || decide (57344 ≤ x.entries.length + 1)
  let y : Seg := { x with next := at_ + size, live := x.live + size, entries := x.entries ++ [⟨at_, size, o, true⟩],
                          st := if full then .closed else x.st }
  let s := (s.setSeg y).bufferStripes y at_ (at_ + size)
  (s, x.group * 2 ^ 39 + (x.seg * s.ppb x.die) * stripeGranules + at_)

/-- A unit is placed into a group's segment of a kind (R233, R241): the location, or none when the group cannot take it. -/
def State.place (s : State) (die group kind align size : Nat) (o : Owner) : Option (State × Nat) :=
  if kind ≠ 2 ∧ !s.groupTakes die group then none
  else match s.openOf die group kind with
    | some x =>
      if alignUp x.next align + size ≤ s.segRoom die ∧ x.entries.length < 57344 then some (s.placeIn x align size o)
      else
        match (s.settleSeg { x with st := .closed }).openSeg die group kind with
        | some (s, y) => some (s.placeIn y align size o)
        | none => none
    | none =>
      match s.openSeg die group kind with
      | some (s, y) => some (s.placeIn y align size o)
      | none => none

/-- Group, segment and granule within it of a T2 location (R231). -/
def State.t2Place (s : State) (die loc : Nat) : Nat × Nat × Nat :=
  let g := loc % 2 ^ 39
  let per := s.ppb die * stripeGranules
  (loc / 2 ^ 39 % 2, g / per, g % per)

/-- A unit in T2 is released: LIVE falls, and a CLOSED segment with nothing live and no pin leaves CLOSED (R239). -/
def State.releaseT2 (s : State) (die loc : Nat) : State :=
  let (group, n, off) := s.t2Place die loc
  let x := s.seg die group n
  match x.entries.find? (fun e => e.first == off && e.live) with
  | none => s
  | some e =>
    s.settleSeg { x with live := x.live - e.size, entries := x.entries.map (fun (y : SumEnt) =>
      if y.first = off then { y with live := false } else y) }

/-- The group that a slot's units go to: SLOT mod 2 as for images (R244), or the other when that one takes no writes
(log 23). -/
def State.groupFor (s : State) (die slot : Nat) : Nat :=
  if s.groupTakes die (slot % 2) then slot % 2 else 1 - slot % 2

/-- T2 of a die can take a unit of `g` granules (R201, R241): the pool has room and a group takes writes. -/
def State.t2Takes (s : State) (die slot g : Nat) : Bool := s.poolOk die 2 g && s.groupTakes die (s.groupFor die slot)

end Sys2Proof.Machine
end

