-- ==== Sys2Proof/Machine/Float.lean ====
section
/-! DEFINITION. Exact dyadic numbers and the rounded operations of R102, R111, R113, R137 to R140 and R175: every number
is computed exactly and narrowed once, to nearest with ties to even. -/

namespace Sys2Proof.Machine

/-- The exact number m × 2^e. -/
structure Dy where
  m : Int
  e : Int
  deriving DecidableEq, Repr

/-- Zero. -/
def Dy.zero : Dy := ⟨0, 0⟩
/-- Exact product. -/
def Dy.mul (a b : Dy) : Dy := ⟨a.m * b.m, a.e + b.e⟩
/-- Exact sum. -/
def Dy.add (a b : Dy) : Dy :=
  let e := min a.e b.e
  ⟨a.m * 2 ^ (a.e - e).toNat + b.m * 2 ^ (b.e - e).toNat, e⟩
/-- Exact negation. -/
def Dy.neg (a : Dy) : Dy := ⟨-a.m, a.e⟩
/-- Magnitude. -/
def Dy.abs (a : Dy) : Dy := ⟨a.m.natAbs, a.e⟩
/-- a ≤ b. -/
def Dy.le (a b : Dy) : Bool := decide ((a.add b.neg).m ≤ 0)
/-- floor(log2 |a|), for a not zero. -/
def Dy.log2 (a : Dy) : Int := (Nat.log2 a.m.natAbs : Int) + a.e
/-- Exact sum of a list, from zero. -/
def Dy.sum (l : List Dy) : Dy := l.foldl Dy.add Dy.zero

/-- A binary format: bits of significand with the leading one, the exponent of its smallest magnitude, the bits of its
largest magnitude, and the place of its sign (R102). -/
structure Fmt where
  p : Nat
  qmin : Int
  top : Nat
  sign : Nat
  deriving DecidableEq, Repr

/-- IEEE binary32. -/
def fp32 : Fmt := ⟨24, -149, 0x7F7FFFFF, 31⟩
/-- BF16. -/
def bf16 : Fmt := ⟨8, -133, 0x7F7F, 15⟩
/-- E4M3 (R102): 448 is the largest magnitude. -/
def e4m3 : Fmt := ⟨4, -9, 0x7E, 7⟩
/-- E2M3 (R102). -/
def e2m3 : Fmt := ⟨4, -3, 0x1F, 5⟩
/-- E2M1 (R102). -/
def e2m1 : Fmt := ⟨2, -1, 0x7, 3⟩

/-- The exact value of a finite pattern. -/
def Fmt.dec (f : Fmt) (b : Nat) : Dy :=
  let mag := b % 2 ^ f.sign
  let ex := mag / 2 ^ (f.p - 1)
  let fr := mag % 2 ^ (f.p - 1)
  let m : Nat := if ex = 0 then fr else fr + 2 ^ (f.p - 1)
  ⟨if b / 2 ^ f.sign % 2 = 1 then -(m : Int) else (m : Int), f.qmin + ((ex - 1 : Nat) : Int)⟩

/-- m × 2^e rounded to nearest, ties to even, at exponent q or above: the significand at exponent q. -/
def rne (m : Nat) (e q : Int) : Nat :=
  if q ≤ e then m * 2 ^ (e - q).toNat
  else
    let k := (q - e).toNat
    let n := m / 2 ^ k
    let r := m % 2 ^ k
    if 2 ^ k < 2 * r ∨ (2 * r = 2 ^ k ∧ n % 2 = 1) then n + 1 else n

/-- m × 2^e, with a sign, rounded to a format with its exponent range unbounded above: the pattern without the sign, which
may lie above the largest finite one (R140). -/
def Fmt.mag (f : Fmt) (m : Nat) (e : Int) : Nat :=
  if m = 0 then 0
  else
    let q := max f.qmin ((Nat.log2 m : Int) + e - ((f.p - 1 : Nat) : Int))
    (q - f.qmin).toNat * 2 ^ (f.p - 1) + rne m e q

/-- The rounded pattern, saturated at the largest magnitude, and whether it overflowed (R111, R140). -/
def Fmt.round (f : Fmt) (neg : Bool) (m : Nat) (e : Int) : Nat × Bool :=
  let b := f.mag m e
  (b2n neg * 2 ^ f.sign + min b f.top, decide (f.top < b))

/-- An exact number rounded. An exact zero is +0. -/
def Fmt.ofDy (f : Fmt) (a : Dy) : Nat × Bool := f.round (decide (a.m < 0)) a.m.natAbs a.e

/-- A BF16 pattern is not finite. -/
def bfNonfinite (b : BF16) : Bool := b.toNat / 128 % 256 == 255

/-- R107 and R127: NaN becomes +0, an infinity the largest finite value of its sign. -/
def bfClean (b : BF16) : BF16 :=
  if bfNonfinite b then (if b.toNat % 128 = 0 then BitVec.ofNat 16 (b.toNat / 32768 * 32768 + 0x7F7F) else 0) else b

/-- An FP32 pattern is a NaN or an infinity. -/
def f32Nonfinite (b : F32) : Bool := b.toNat / 2 ^ 23 % 256 == 255

/-- An FP32 value with the sticky mark that something on the way to it overflowed (R140). -/
structure Fl where
  v : F32
  o : Bool
  deriving DecidableEq, Repr

/-- A given value. -/
def Fl.of (v : F32) : Fl := ⟨v, false⟩
/-- Minus infinity, the running maximum of no rows (R139). -/
def Fl.negInf : Fl := ⟨0xFF800000, false⟩
/-- Minus infinity. -/
def Fl.isNegInf (a : Fl) : Bool := a.v == 0xFF800000
/-- The sign bit. -/
def f32Neg (v : F32) : Bool := v.toNat / 2 ^ 31 == 1
/-- Exact value. -/
def Fl.dy (a : Fl) : Dy := fp32.dec a.v.toNat
/-- A rounded exact number. -/
def Fl.ofDy (a : Dy) (o : Bool) : Fl := let r := fp32.ofDy a; ⟨BitVec.ofNat 32 r.1, o || r.2⟩

/-- fl(a + b): an exact zero sum is +0 unless both are −0. -/
def Fl.add (a b : Fl) : Fl :=
  let d := a.dy.add b.dy
  if d.m = 0 ∧ f32Neg a.v ∧ f32Neg b.v then ⟨0x80000000, a.o || b.o⟩ else Fl.ofDy d (a.o || b.o)

/-- fl(−a). -/
def Fl.neg (a : Fl) : Fl := ⟨a.v ^^^ 0x80000000, a.o⟩
/-- fl(a − b). -/
def Fl.sub (a b : Fl) : Fl := a.add b.neg

/-- fl(a × b), with the sign of the product. -/
def Fl.mul (a b : Fl) : Fl :=
  let d := a.dy.mul b.dy
  let r := fp32.round (f32Neg a.v != f32Neg b.v) d.m.natAbs d.e
  ⟨BitVec.ofNat 32 r.1, a.o || b.o || r.2⟩

/-- The quotient of magnitudes to 80 bits below, with a sticky last bit. -/
def divSticky (a b : Nat) : Nat :=
  let x := a * 2 ^ 80
  2 * (x / b) + (if x % b = 0 then 0 else 1)

/-- fl(a / b), for b not zero. -/
def Fl.div (a b : Fl) : Fl :=
  let x := a.dy
  let y := b.dy
  let r := fp32.round (f32Neg a.v != f32Neg b.v) (divSticky x.m.natAbs y.m.natAbs) (x.e - y.e - 81)
  ⟨BitVec.ofNat 32 r.1, a.o || b.o || r.2⟩

/-- The order of finite FP32 values. -/
def f32Key (v : F32) : Int :=
  if f32Neg v then -((v.toNat % 2 ^ 31 : Nat) : Int) else ((v.toNat % 2 ^ 31 : Nat) : Int)

/-- The larger of two, the first when equal. -/
def Fl.max (a b : Fl) : Fl := if f32Key a.v < f32Key b.v then ⟨b.v, a.o || b.o⟩ else ⟨a.v, a.o || b.o⟩

/-! ### 2^r (R138; log 10) -/

/-- ln 2 × 2^240, rounded down. -/
def ln2Scaled : Nat := 0xB17217F7D1CF79ABC9E3B39803F2F6AF40F343267298B62D8A0D175B8BAA

/-- e^x × 2^240 by the first `n` terms of its series, x in units of 2^−240. -/
def expSeries (x : Nat) : Nat → Nat → Nat → Nat → Nat
  | 0, _, _, acc => acc
  | n + 1, k, term, acc => expSeries x n (k + 1) (term * x / 2 ^ 240 / k) (acc + term * x / 2 ^ 240 / k)

/-- 2^r × 2^240 for 0 ≤ r < 1, r in units of 2^−240. -/
def exp2Scaled (r : Nat) : Nat := expSeries (r * ln2Scaled / 2 ^ 240) 60 1 (2 ^ 240) (2 ^ 240)

/-- The floor of a dyadic number. -/
def Dy.floor (a : Dy) : Int := if 0 ≤ a.e then a.m * 2 ^ a.e.toNat else a.m.fdiv (2 ^ (-a.e).toNat)

/-- log2 e as R138 gives it. -/
def log2e : Fl := ⟨0x3FB8AA3B, false⟩

/-- e^x for x ≤ 0 (R138). -/
def Fl.exp (x : Fl) : Fl :=
  if x.isNegInf then ⟨0, x.o⟩
  else if x.v.toNat % 2 ^ 31 = 0 then ⟨0x3F800000, x.o⟩
  else
    let y := x.mul log2e
    let d := y.dy
    let n := d.floor
    if !(Dy.le ⟨-126, 0⟩ d) then ⟨0, y.o⟩
    else
      let r := d.add ⟨-n, 0⟩
      let scaled := (r.m * 2 ^ (240 + r.e).toNat).toNat
      let f := fp32.mag (exp2Scaled scaled) (-240)
      ⟨BitVec.ofNat 32 (f + (n * 2 ^ 23)).toNat, y.o⟩

end Sys2Proof.Machine
end

