-- ==== Sys2Proof/Machine/Tiles.lean ====
section
/-! DEFINITION. Packed tiles (spec/04): packing, decoding, stored bytes, and what a failed check does. -/

namespace Sys2Proof.Machine

/-- The element type of an encoding (R102). -/
def encFmt (enc : Nat) : Fmt :=
  match enc with | 0 => bf16 | 1 => e4m3 | 2 => e2m3 | _ => e2m1

/-- emax of an encoding (R102). -/
def encEmax (enc : Nat) : Int := if enc = 1 then 8 else 2

/-- Elements of a scale block (R103). -/
def blockSize (dim : Nat) : Nat := if dim = 256 then 64 else 32

/-- An element before it is scaled: the BF16 input, or the clamp value t with its sign (R110). -/
structure Elem where
  bits : BF16
  val : Dy
  neg : Bool
  deriving DecidableEq, Repr

/-- A BF16 element. -/
def Elem.of (b : BF16) : Elem := ⟨b, bf16.dec b.toNat, decide (32768 ≤ b.toNat)⟩

/-- The candidates of a tile, as index and magnitude bits, by descending magnitude, ties by ascending index (R110). -/
def rankInsert (c : Nat × Nat) : List (Nat × Nat) → List (Nat × Nat)
  | [] => [c]
  | d :: l => if d.2 < c.2 then c :: d :: l else d :: rankInsert c l

/-- The floor of log2 of the threshold (R110), or none when no element is a candidate. -/
def threshold (dim : Nat) (outEn : Bool) (outShift : Nat) (xs : List Elem) : Option Int :=
  let s := Dy.sum (xs.map (fun x => x.val.abs))
  if outEn = false ∨ s.m = 0 then none else some (s.log2 - (Nat.log2 (16 * dim) : Int) + (outShift : Int))

/-- The ranked candidates. -/
def candidates (xs : List Elem) (t : Int) : List (Nat × Nat) :=
  (xs.zipIdx.filter (fun p => Dy.le ⟨1, t⟩ p.1.val.abs)).foldl
    (fun l p => rankInsert (p.2, p.1.bits.toNat % 32768) l) []

/-- A block's scale exponent (R111). -/
def scaleExp (emax : Int) (xs : List Elem) : Int :=
  let amax := xs.foldl (fun (a : Dy) x => if a.le x.val.abs then x.val.abs else a) Dy.zero
  if amax.m = 0 then -127 else max (-127) (min 127 (amax.log2 - emax))

/-- One element divided by 2^x_exp and rounded (R111). -/
def scaleElem (f : Fmt) (x : Int) (e : Elem) : Nat := (f.round e.neg e.val.m.natAbs (e.val.e - x)).1

/-- A block scaled and rounded: its elements and its scale byte (R111). -/
def scaleBlock (f : Fmt) (emax : Int) (xs : List Elem) : List Nat × Nat :=
  let x := scaleExp emax xs
  (xs.map (scaleElem f x), (x + 127).toNat)

/-- Who a tile is (R105). -/
structure TileId where
  value : Bool
  head : Nat
  layer : Nat
  page : Nat
  context : Nat
  slot : Nat
  deriving DecidableEq, Repr

/-- A tile packed from `rows` valid rows of `dim` elements (R107 to R111). -/
def packTile (dim hdim enc : Nat) (outEn : Bool) (outShift rows : Nat) (id : TileId) (input : List BF16) : Tile :=
  let raw := (input.take (rows * dim) ++ List.replicate (16 * dim) 0).take (16 * dim)
  let bits := raw.map bfClean
  let nonfinite := raw.any bfNonfinite
  let base : Tile :=
    { enc, value := id.value, headDim := hdim, elems := bits.map BitVec.toNat, scales := [], outliers := [],
      clampCount := 0, nonfinite, rows, outShift, head := id.head, layer := id.layer, page := id.page,
      context := id.context, slot := id.slot }
  if enc = 0 then base
  else
    let xs := bits.map Elem.of
    let (outs, rest, t) : List Nat × List Nat × Int :=
      match threshold dim outEn outShift xs with
      | none => ([], [], 0)
      | some t =>
        let c := (candidates xs t).map (·.1)
        (c.take 8, c.drop 8, t)
    let ys := xs.zipIdx.map (fun p =>
      if outs.contains p.2 then ⟨0, Dy.zero, false⟩
      else if rest.contains p.2 then ⟨p.1.bits, ⟨if p.1.neg then -1 else 1, t⟩, p.1.neg⟩ else p.1)
    let blocks := (chunks (blockSize dim) ys).map (scaleBlock (encFmt enc) (encEmax enc))
    { base with
      elems := (blocks.map (·.1)).flatten
      scales := blocks.map (·.2)
      outliers := ((xs.zipIdx.filter (fun p => outs.contains p.2)).map (fun p => (p.1.bits, p.2)))
      clampCount := rest.length }

/-! ### Decoding (R113) -/

/-- The exact value of element `e`. -/
def Tile.value_ (t : Tile) (e : Nat) : Dy :=
  let dim := headDimOf t.headDim
  if t.rows * dim ≤ e then Dy.zero
  else if t.enc = 0 then bf16.dec (t.elems.getD e 0)
  else match t.outliers.find? (fun o => o.2 == e) with
    | some o => bf16.dec o.1.toNat
    | none => ((encFmt t.enc).dec (t.elems.getD e 0)).mul ⟨1, (t.scales.getD (e / blockSize dim) 127 : Int) - 127⟩

/-- The sign of element `e`, for a zero. -/
def Tile.neg_ (t : Tile) (e : Nat) : Bool :=
  if t.rows * headDimOf t.headDim ≤ e then false
  else match t.outliers.find? (fun o => o.2 == e) with
    | some o => decide (32768 ≤ o.1.toNat)
    | none => t.elems.getD e 0 / 2 ^ (encFmt t.enc).sign % 2 == 1

/-- Element `e` decoded to BF16 (R113). -/
def Tile.bf (t : Tile) (e : Nat) : BF16 :=
  let d := t.value_ e
  BitVec.ofNat 16 (bf16.round (t.neg_ e) d.m.natAbs d.e).1

/-- Row `r` decoded to BF16. -/
def Tile.row (t : Tile) (r : Nat) : List BF16 :=
  (List.range (headDimOf t.headDim)).map (fun d => t.bf (r * headDimOf t.headDim + d))

/-- Row `r` as exact values. -/
def Tile.exactRow (t : Tile) (r : Nat) : List Dy :=
  (List.range (headDimOf t.headDim)).map (fun d => t.value_ (r * headDimOf t.headDim + d))

/-! ### Stored bytes (R101, R104 to R106, R108) -/

/-- Elements of 6 bits, four to three bytes. -/
def pack6 (l : List Nat) : List Byte :=
  ((chunks 4 l).map (fun q => le 3 (q.getD 0 0 + 64 * q.getD 1 0 + 4096 * q.getD 2 0 + 262144 * q.getD 3 0))).flatten

/-- The data slot (R101). -/
def Tile.slotData (t : Tile) : List Byte :=
  match t.enc with
  | 0 => (t.elems.map (le 2)).flatten
  | 1 => (t.elems.map (le 1)).flatten
  | 2 => pack6 t.elems
  | _ => (chunks 2 t.elems).map (fun q => BitVec.ofNat 8 (q.getD 0 0 + 16 * q.getD 1 0))

/-- The header (R105). -/
def Tile.header (t : Tile) : List Byte :=
  le 1 1 ++ le 1 (t.headDim * 8 + b2n t.value * 4 + t.enc) ++ le 1 t.outliers.length
    ++ le 1 (4 * b2n (decide (t.rows < 16)) + 2 * b2n t.nonfinite + b2n (decide (t.clampCount ≠ 0)))
    ++ le 2 t.clampCount ++ le 1 t.rows ++ le 1 t.outShift
    ++ le 4 (t.head * 2 ^ 27 + t.layer * 2 ^ 20 + t.page) ++ le 4 (t.context * 2 ^ 20 + t.slot)

/-- The data slot and sidecar bytes 0 to 119. -/
def Tile.body (t : Tile) : List Byte :=
  t.slotData ++ t.header ++ ((t.scales.map (le 1)).flatten ++ zeros 64).take 64
    ++ ((t.outliers.map (fun o => le 2 o.1.toNat ++ le 2 o.2)).flatten ++ zeros 32).take 32 ++ zeros 8

/-- A stored tile: data slot and sidecar with its CRC-64 (R104, R108). -/
def Tile.bytes (t : Tile) : List Byte :=
  let b := t.body
  b ++ le 8 (crc64 b).toNat

/-- The XTS tweak of a tile (R117). -/
def Tile.tweak (t : Tile) : Nat :=
  t.page + t.layer * 2 ^ 20 + t.head * 2 ^ 27 + b2n t.value * 2 ^ 32 + t.slot * 2 ^ 33 + slotDie t.slot * 2 ^ 53

/-! ### A failed check (R121) -/

/-- A tile failure address. -/
def tileFail (tier cause tile loc : Nat) : Nat := tier * 2 ^ 62 + cause % 4 * 2 ^ 60 + tile % 64 * 2 ^ 40 + loc % 2 ^ 40

/-- What a failed check leaves: PK_LAST_FAIL, a count, event TILE_CHECK. -/
def State.tileCheck (s : State) (die addr : Nat) : State :=
  let s := s.setReg die 0 Reg.PK_LAST_FAIL (BitVec.ofNat 64 addr)
  let s := if addr / 2 ^ 60 % 4 = 1 then s.bump die 0 Fld.PK_COUNTS_CHECK_FAIL else s.bump die 0 Fld.PK_COUNTS_ID_FAIL
  s.raise die 0x28 { alert := true, a0 := addr }

/-! ### Packing a page (R79, R81, R107, R110, R114) -/

/-- PK_CTX_ENC of a context. -/
def State.ctxEnc (s : State) (die ctx : Nat) : Nat × Nat :=
  (s.fld die ctx Fld.PK_CTX_ENC_KENC, s.fld die ctx Fld.PK_CTX_ENC_VENC)

/-- A staging row: keys of every KV head, then values (R76). `v` is the part of head `h`. -/
def rowPart (kvh dim : Nat) (value : Bool) (h : Nat) (row : List BF16) : List BF16 :=
  (row.drop ((h + (if value then kvh else 0)) * dim)).take dim

/-- The tiles of a page packed from its rows (R65, R79). -/
def State.packPage (s : State) (ctx slot layer page : Nat) (rows : List (List BF16)) : List Tile :=
  let die := slotDie slot
  let mk (value : Bool) (h : Nat) : Tile :=
    packTile s.dim s.start.img.geometry.headDim
      (if value then (s.ctxEnc die ctx).2 else (s.ctxEnc die ctx).1)
      ((if value then s.fld die ctx Fld.PK_CTX_ENC_VOUT_EN else s.fld die ctx Fld.PK_CTX_ENC_KOUT_EN) == 1)
      (if value then s.fld die ctx Fld.PK_CTX_ENC_VOUT_SHIFT else s.fld die ctx Fld.PK_CTX_ENC_KOUT_SHIFT)
      rows.length ⟨value, h, layer, page, ctx, slot⟩ (rows.map (rowPart s.kvh s.dim value h)).flatten
  (List.range s.kvh).map (mk false) ++ (List.range s.kvh).map (mk true)

/-- Rows 0 to f − 1 of a page decoded from its tiles, as staging rows (R79, R113). -/
def decodeRows (kvh f : Nat) (tiles : List Tile) : List (List BF16) :=
  (List.range f).map (fun r => ((List.range (2 * kvh)).map (fun i =>
    match tiles[i]? with | some t => t.row r | none => [])).flatten)

/-- Clamps and non-finite inputs of packed tiles are counted and reported (R107, R110, R122). -/
def State.notePacked (s : State) (die ctx : Nat) (tiles : List Tile) : State :=
  let clamped := tiles.filter (fun t => t.clampCount ≠ 0)
  let nonf := tiles.filter (fun t => t.nonfinite)
  let s := s.bumpBy die 0 Fld.PK_COUNTS_CLAMP_TILES clamped.length
  let s := s.bumpBy die ctx Fld.PK_CTX_CLAMP_TILES clamped.length
  let s := s.bumpBy die ctx Fld.PK_CTX_CLAMP_ELEMENTS (clamped.foldl (fun n t => n + t.clampCount) 0)
  let s := s.bumpBy die 0 Fld.PK_COUNTS_NONFINITE nonf.length
  let s := if clamped.isEmpty then s else s.raiseOnce die 0x29 ctx { ctx := some ctx }
  if nonf.isEmpty then s else s.raiseOnce die 0x2A ctx { ctx := some ctx }

end Sys2Proof.Machine
end

