-- ==== Sys2Proof/Machine/Units.lean ====
section
/-! DEFINITION. What a request attends (R133, R134), its units and their way to the engines (R144, R145, R150, R151, R206,
R336), and the arithmetic of a unit and of a request (R135 to R143). -/

namespace Sys2Proof.Machine

/-! ### The attended set (R133, R134) -/

/-- Position `p` is attended at length `n` (R133). -/
def attendedPos (dense : Bool) (window n : Nat) (globals : List Nat) (p : Nat) : Bool :=
  decide (p < n) && (dense || decide (n - window ≤ p) || globals.contains p)

/-- The pages of a layer of length `n` that hold an attended position, ascending. -/
def attendedPages (dense : Bool) (window n : Nat) (globals : List Nat) : List Nat :=
  let first := if dense then 0 else (n - window) / 16
  let low := ((globals.filter (fun p => decide (p < n) && decide (p / 16 < first))).map (· / 16)).eraseDups
  (low.foldl (fun (l : List Nat) p => l.takeWhile (· < p) ++ [p] ++ l.dropWhile (· < p)) [])
    ++ (List.range (ceilDiv n 16 - first)).map (· + first)

/-- The attended rows of a page. -/
def attendedRows (dense : Bool) (window n : Nat) (globals : List Nat) (page : Nat) : List Nat :=
  (List.range 16).filter (fun r => attendedPos dense window n globals (16 * page + r))

/-- Layer `l` of a staging area: its length. -/
def Staging.len (g : Staging) (l : Nat) : Nat := g.lens.getD l 0

/-- A staging row. -/
def Staging.row (g : Staging) (l r : Nat) : Option (List BF16) := alGet (l * 16 + r) g.rows

/-- The staging rows of a layer from row `a` on, as (row, data). -/
def Staging.rowsFrom (g : Staging) (l a : Nat) : List (Nat × List BF16) :=
  (List.range 16).filterMap (fun r => if a ≤ r then (g.row l r).map (fun x => (r, x)) else none)

/-- The tile positions of the walk over one page (R134): stored rows, then staging rows. -/
def State.pageViews (s : State) (slot layer page : Nat) (g : Staging) (rows : List Nat) : List View :=
  let k : PageKey := ⟨slot, layer, page⟩
  match s.leaf k with
  | none => [⟨page, .staging (g.rowsFrom layer 0), rows, 1, none⟩]
  | some l =>
    let n := if l.fill = 0 then 16 else l.fill
    let stored : View := ⟨page, .stored n (s.pageTiles k l), rows.filter (· < n), s.pageTier k l, l.share⟩
    if l.fill = 0 then [stored]
    else [stored, ⟨page, .staging (g.rowsFrom layer l.fill), rows.filter (fun r => decide (l.fill ≤ r)), 1, none⟩]

/-- The walk of a request on layer `layer` (R133, R134), as the pages stand now. -/
def State.walk (s : State) (slot layer : Nat) : List View :=
  match s.staging slot with
  | none => []
  | some g =>
    let r := s.sess slot
    let n := g.len layer
    ((attendedPages r.dense r.window n g.globals).map (fun p =>
      s.pageViews slot layer p g (attendedRows r.dense r.window n g.globals p))).flatten

/-- Positions attended (R130). -/
def attendedCount (views : List View) : Nat := (views.map (fun v => v.rows.length)).foldl (· + ·) 0

/-- The non-empty segments, ascending (R134). -/
def segmentsOf (views : List View) : List Nat := ((views.filter (fun v => !v.rows.isEmpty)).map (fun v => v.page / 16)).eraseDups

/-- The views of one segment. -/
def Result.segViews (r : Result) (seg : Nat) : List View := r.views.filter (fun v => v.page / 16 == seg)

/-- A unit is shared: every page of its segment with an attended position is shared (R150, R336). -/
def Result.sharedSeg (r : Result) (seg : Nat) : Bool :=
  (r.segViews seg).all (fun v => v.rows.isEmpty || v.share.isSome)

/-- The logical core a unit of an ordinary context is assigned to (R336). -/
def Result.coreOf (r : Result) (seg : Nat) : Nat :=
  if r.sharedSeg seg then
    match (r.segViews seg).find? (fun v => !v.rows.isEmpty) with
    | some v => v.share.getD 0 % 16
    | none => r.slot % 16
  else r.slot % 16

/-! ### Units on their way to an engine -/

/-- One unit of a result changed by `f`. -/
def State.mapUnit (s : State) (slot : Nat) (key : ResKey) (kvHead seg : Nat) (f : AttnUnit → AttnUnit) : State :=
  s.mapResult slot key (fun r => { r with units := r.units.map (fun (u : AttnUnit) =>
    if u.kvHead = kvHead ∧ u.seg = seg then f u else u) })

/-- A context is privileged (R335). -/
def State.privCtx (s : State) (die ctx : Nat) : Bool := s.fld die ctx Fld.LP_CTX_PLACE_PRIV == 1

/-- Units that run on a core of a cluster. -/
def State.coreLoad (s : State) (die cluster core : Nat) : Nat :=
  ((s.attn.results.filter (fun r => slotDie r.slot == die && s.home r.slot == cluster)).map (fun r =>
    (r.units.filter (fun u => u.st == .running && u.core == core)).length)).foldl (· + ·) 0

/-- A logical core takes no unit while it is fenced and not yet remapped (R409). -/
def State.coreFenced (s : State) (die cluster core : Nat) : Bool :=
  s.fld die cluster Fld.HL_CORE_FENCED == 1 && s.fld die cluster Fld.HL_CORE_FENCED_LOG == core

/-- A core has an idle engine (R336). -/
def State.coreIdle (s : State) (die cluster core : Nat) : Bool :=
  decide (s.coreLoad die cluster core < 4) && !s.coreFenced die cluster core
    && !s.health.unmapped.contains (die, cluster, core)

/-- A logical core that no physical core will run again (R412). -/
def State.coreLost (s : State) (die cluster core : Nat) : Bool := s.health.unmapped.contains (die, cluster, core)

/-- The core numbered SLOT mod 15 among those that are left (R412). -/
def State.standIn (s : State) (die cluster slot : Nat) : Nat :=
  (((List.range 16).filter (fun c => !s.coreLost die cluster c))[slot % 15]?).getD 0

/-- The core a unit goes to, when it has an idle engine (R336). A unit of a fenced core is unassigned until the remap (R409),
one of a core that is lost has its stand-in (R412). -/
def State.engineFor (s : State) (r : Result) (seg : Nat) : Option Nat :=
  let die := slotDie r.slot
  let cl := s.home r.slot
  let c := r.coreOf seg
  if s.privCtx die r.context || (s.coreFenced die cl c && !s.coreLost die cl c) then
    (List.range 16).find? (fun c => s.coreIdle die cl c)
  else
    let c := if s.coreLost die cl c then s.standIn die cl r.slot else c
    if s.coreIdle die cl c then some c else none

/-- The first page of a unit that stands below T1 now (R148, R206). -/
def State.lowPage (s : State) (r : Result) (seg : Nat) : Option Nat :=
  ((r.segViews seg).filter (fun v => !v.rows.isEmpty)).findSome? (fun v =>
    match v.src with
    | .staging _ => none
    | .stored _ _ =>
      let k : PageKey := ⟨r.slot, r.key.layer, v.page⟩
      match s.leaf k with
      | some l => if 2 ≤ s.pageTier k l then some v.page else none
      | none => none)

/-- The unit a page moves as. -/
def State.pageUnit (s : State) (k : PageKey) : UnitRef :=
  match s.leaf k with
  | some l => match l.share with | some id => .shared (slotDie k.slot) id | none => .page k.slot k.layer k.page
  | none => .page k.slot k.layer k.page

/-- A promotion asked for by a waiting unit goes to the head of the queue, behind earlier such pages; one already queued
moves there (R206). -/
def State.promoteFirst (s : State) (die : Nat) (u : UnitRef) : State :=
  if s.tier.moves.any (fun m => m.die == die && m.unit == u) then s
  else
    let old := s.tier.promos.find? (fun p => p.die == die && p.unit == u)
    let rest := s.tier.promos.filter (fun p => !(p.die == die && p.unit == u))
    let p : Promo := ⟨die, u, (old.map (·.wake)).getD none, true⟩
    match old with
    | some ⟨_, _, _, true⟩ => s
    | some _ | none => { s with tier := { s.tier with
        promos := rest.takeWhile (fun x => x.late) ++ [p] ++ rest.dropWhile (fun x => x.late) } }

/-- A unit waits for a page below T1 (R206): the layer is counted once for its request, and PROMO_LATE is raised. -/
def State.waitPage (s : State) (r : Result) (u : AttnUnit) (page : Nat) : State :=
  let die := slotDie r.slot
  let first := !((s.result r.slot r.key).map (fun x => x.units.any (fun y => match y.st with
    | .waiting _ => true | .queued | .grouped | .running | .done => false))).getD false
  let s := s.mapUnit r.slot r.key u.kvHead u.seg (fun u => { u with st := .waiting page })
  let s := s.promoteFirst die (s.pageUnit ⟨r.slot, r.key.layer, page⟩)
  if first then (s.bump die 0 Fld.TR_COUNTS_PROMO_LATE).raiseOnce die 0x45 0
    { ctx := some r.context, a0 := (s.sess r.slot).handle r.slot, a1 := r.key.layer }
  else s

/-- A walk of a page fills the translation buffers (R75): the walk is counted where they did not hold it. -/
def State.walkPage (s : State) (die vun : Nat) : State :=
  if s.kv.tlb.contains (die, vun) then s
  else ({ s with kv := { s.kv with tlb := (die, vun) :: s.kv.tlb
                                   walkCache := if s.kv.walkCache.contains (die, vun / 4096) then s.kv.walkCache
                                                else (die, vun / 4096) :: s.kv.walkCache } }).bump die 0
    Fld.XL_TLB_STAT_WALKS

/-- A unit starts on a core. -/
def State.startUnit (s : State) (r : Result) (u : AttnUnit) (core : Nat) : State :=
  s.mapUnit r.slot r.key u.kvHead u.seg (fun u => { u with st := .running, core := core })

/-- Two units may share a group (R150). -/
def compatible (a b : Result) (seg : Nat) : Bool :=
  a.slot != b.slot && a.key.layer == b.key.layer && a.qform == b.qform && a.pform == b.pform
    && ((a.segViews seg).filter (fun v => !v.rows.isEmpty)).map (fun v => (v.page, v.share, v.rows, v.encs))
      == ((b.segViews seg).filter (fun v => !v.rows.isEmpty)).map (fun v => (v.page, v.share, v.rows, v.encs))

/-- A group that is open and takes the unit (R150, R151). -/
def State.groupFor_ (s : State) (r : Result) (u : AttnUnit) : Option Group :=
  let die := slotDie r.slot
  s.attn.groups.find? (fun g => g.die == die && g.cluster == s.home r.slot && g.layer == r.key.layer
    && g.kvHead == u.kvHead && g.seg == u.seg
    && decide (g.members.length < s.fld die 0 Fld.ATN_FANOUT_MAX_MEMBERS)
    && g.members.all (fun m => match s.result m.1 m.2 with | some x => compatible x r u.seg | none => true))

/-- A member joins a group in ascending slot order (R151). -/
def Group.join (g : Group) (slot : Nat) (key : ResKey) : Group :=
  { g with members := g.members.filter (fun m => decide (m.1 < slot)) ++ [(slot, key)]
                        ++ g.members.filter (fun m => decide (slot < m.1)) }

/-- A group starts (R151): its members run on one core in ascending slot order; with two or more of them FANOUT is set. -/
def State.startGroup (s : State) (g : Group) : State :=
  let many := decide (2 ≤ g.members.length)
  let s := { s with attn := { s.attn with groups := s.attn.groups.erase g } }
  let s := if many then s.bump g.die 0 Fld.ATN_COUNTS1_GROUPS else s
  g.members.foldl (fun s m =>
    match s.result m.1 m.2 with
    | none => s
    | some r =>
      (s.mapUnit m.1 m.2 g.kvHead g.seg (fun u => { u with st := .running, core := r.coreOf g.seg })).mapResult m.1 m.2
        (fun r => { r with fanout := r.fanout || many })) s

/-- The groups of a cluster that are full or whose wait is over start (R151). -/
def State.startGroups (s : State) (die cluster : Nat) : State :=
  (s.attn.groups.filter (fun g => g.die == die && g.cluster == cluster
    && (decide (s.fld die 0 Fld.ATN_FANOUT_MAX_MEMBERS ≤ g.members.length)
      || decide (g.opened + s.fld die 0 Fld.ATN_FANOUT_WAIT_NS ≤ s.now)))).foldl (fun s g => s.startGroup g) s

/-- One queued unit meets the engines (R145, R151, R206, R336): it waits for a page, joins or opens a group, starts, or
stays queued. -/
def State.pumpUnit (s : State) (r : Result) (u : AttnUnit) : State :=
  let die := slotDie r.slot
  match s.lowPage r u.seg with
  | some page => s.waitPage r u page
  | none =>
    let fan := s.fld die 0 Fld.ATN_CTRL_FANOUT_EN == 1 && r.sharedSeg u.seg
    match (if fan then s.groupFor_ r u else none) with
    | some g =>
      let s := { s with attn := { s.attn with groups := s.attn.groups.map (fun (x : Group) =>
        if x = g then x.join r.slot r.key else x) } }
      ((s.mapUnit r.slot r.key u.kvHead u.seg (fun u => { u with st := .grouped })).bump die 0
        Fld.ATN_FANOUT_JOINS_JOINS).bump die 0 Fld.RP_CHOICES1_FANOUT
    | none =>
      match s.engineFor r u.seg with
      | none => s
      | some core =>
        let s := if s.privCtx die r.context then s.bump die 0 Fld.RP_CHOICES0_PLACE else s
        if fan then
          let g : Group := ⟨die, s.home r.slot, r.key.layer, u.kvHead, u.seg, s.now, [(r.slot, r.key)]⟩
          ({ s with attn := { s.attn with groups := s.attn.groups ++ [g] } }).mapUnit r.slot r.key u.kvHead u.seg
            (fun u => { u with st := .grouped })
        else s.startUnit r u core

/-- A result enters a list in the order of R145. -/
def State.insertResult (s : State) (r : Result) : List Result → List Result
  | [] => [r]
  | x :: l => if s.unitsBefore x r then x :: s.insertResult r l else r :: x :: l

/-- The results of a cluster in the order of R145. -/
def State.clusterQueue (s : State) (die cluster : Nat) : List Result :=
  (s.attn.results.filter (fun r => slotDie r.slot == die && s.home r.slot == cluster && !r.complete)).foldl
    (fun l r => s.insertResult r l) []

/-- The core number that marks a unit that fencing has put back at the head of the queue (R409). -/
def rerunCore : Nat := 17

/-- A cluster's queued units meet its engines: those that fencing put back first (R409), then in the order of R145. -/
def State.pump (s : State) (die cluster : Nat) : State :=
  let pass := fun (again : Bool) (s : State) => (s.clusterQueue die cluster).foldl (fun s r =>
    (r.units.filter (fun u => u.st == .queued && (u.core == rerunCore) == again)).foldl (fun s u => s.pumpUnit r u) s) s
  (pass false (pass true s)).startGroups die cluster

/-- Units that wait for a page that now stands in T1 are queued again (R206). -/
def State.wakeUnits (s : State) (die : Nat) (p : Result → Nat → Bool) : State :=
  let s := { s with attn := { s.attn with results := s.attn.results.map (fun (r : Result) =>
    if slotDie r.slot = die then
      { r with units := r.units.map (fun (u : AttnUnit) => match u.st with
        | .waiting page => if p r page then { u with st := .queued } else u
        | .queued | .grouped | .running | .done => u) }
    else r) } }
  (List.range 8).foldl (fun s c => s.pump die c) s

/-! ### Arithmetic of one unit (R135 to R139) -/

/-- SCALE in force (R137). -/
def scaleOf (dim : Nat) (w : F32) : Fl :=
  if w ≠ 0 then Fl.of w
  else Fl.of (if dim = 64 then 0x3E000000 else if dim = 128 then 0x3DB504F3 else 0x3D800000)

/-- A block converted by R111: the exact values after rounding. -/
def mxBlock (f : Fmt) (emax : Int) (xs : List Elem) : List Dy :=
  let x := scaleExp emax xs
  xs.map (fun e => (f.dec (scaleElem f x e)).mul ⟨1, x⟩)

/-- A query head in a class (R136): 0 BF16, 1 FP8, 2 FP4. -/
def queryClass (dim cls : Nat) (q : List BF16) : List Dy :=
  if cls = 0 then q.map (fun b => bf16.dec b.toNat)
  else ((chunks (blockSize dim) (q.map Elem.of)).map (mxBlock (if cls = 1 then e4m3 else e2m1) (if cls = 1 then 8 else 2))).flatten

/-- The class of the score stage (R135). -/
def scoreClass (qform kenc : Nat) : Nat :=
  if kenc = 0 ∨ qform = 0 then 0 else if qform = 2 ∧ kenc = 3 then 2 else 1

/-- A dot product in groups of 32, each rounded once and added in order (R137, R249). -/
def dot32 (a b : List Dy) : Fl :=
  ((chunks 32 (a.zipWith Dy.mul b)).map (fun g => Fl.ofDy (Dy.sum g) false)).foldl Fl.add (Fl.of 0)

/-- The key row of head `h` at row `r` of a view, as exact values. -/
def View.keyRow (v : View) (kvh dim h r : Nat) : List Dy :=
  match v.src with
  | .stored _ tiles => (match tiles[h]? with | some t => t.exactRow r | none => [])
  | .staging rows => ((alGet r rows).map (fun x => (rowPart kvh dim false h x).map (fun b => bf16.dec b.toNat))).getD []

/-- The value row of head `h` at row `r` of a view, as exact values. -/
def View.valueRow (v : View) (kvh dim h r : Nat) : List Dy :=
  match v.src with
  | .stored _ tiles => (match tiles[kvh + h]? with | some t => t.exactRow r | none => [])
  | .staging rows => ((alGet r rows).map (fun x => (rowPart kvh dim true h x).map (fun b => bf16.dec b.toNat))).getD []

/-- The weights of one tile as the value stage uses them (R136): rounded to BF16, or one block of E4M3. -/
def weightClass (cls : Nat) (p : List Fl) : List Dy :=
  if cls = 0 then p.map (fun x => bf16.dec (bf16.ofDy x.dy).1)
  else mxBlock e4m3 8 (p.map (fun x => ⟨0, x.dy, false⟩))

/-- One tile of the walk added to a partial (R139), for one query head. -/
def tileStep (kvh dim h : Nat) (qcls : Nat → List Dy) (qform pform : Nat) (scale : Fl) (acc : Partial) (v : View) : Partial :=
  if v.rows.isEmpty then acc
  else
    let q := qcls (scoreClass qform v.encs.1)
    let scores := v.rows.map (fun r => (dot32 q (v.keyRow kvh dim h r)).mul scale)
    let m0 : Fl := ⟨acc.m, acc.ov⟩
    let top := scores.foldl (fun (b : Option Fl) x => match b with | none => some x | some y => some (y.max x)) none
    let mx := match top with | none => m0 | some t => if m0.isNegInf then ⟨t.v, t.o || m0.o⟩ else m0.max t
    let c : Fl := if m0.isNegInf then Fl.of 0 else (m0.sub mx).exp
    let p := scores.map (fun x => (x.sub mx).exp)
    let w := weightClass (if v.encs.2 = 0 ∨ pform = 0 then 0 else 1) p
    let t := (w.map (fun d => Fl.ofDy d false)).foldl Fl.add (Fl.of 0)
    let l := ((Fl.of acc.l).mul c).add t
    let vals := v.rows.map (fun r => v.valueRow kvh dim h r)
    let pv := (List.range dim).map (fun d =>
      Fl.ofDy (Dy.sum (w.zipWith (fun a (row : List Dy) => a.mul (row.getD d Dy.zero)) vals)) false)
    let a := acc.a.zipWith (fun x y => ((Fl.of x).mul c).add y) pv
    { m := mx.v, l := l.v, a := a.map (·.v)
      ov := acc.ov || mx.o || c.o || p.any (·.o) || l.o || a.any (·.o) || pv.any (·.o) }

/-- The partial of no tiles (R139). -/
def Partial.start (dim : Nat) : Partial := { m := Fl.negInf.v, l := 0, a := List.replicate dim 0, ov := false }

/-- The partials of one unit, by query head (R139, R144). -/
def State.unitParts (s : State) (r : Result) (kvHead seg : Nat) : List Partial :=
  let g := s.qh / s.kvh
  (List.range g).map (fun i =>
    let q := (r.query.drop ((kvHead * g + i) * s.dim)).take s.dim
    (r.segViews seg).foldl (tileStep s.kvh s.dim kvHead (fun c => queryClass s.dim c q) r.qform r.pform
      (scaleOf s.dim r.scale)) (Partial.start s.dim))

/-! ### Reduction and output (R140, R141, R143) -/

/-- Two partials combined, `x` the left operand (R140). -/
def combine (x y : Partial) : Partial :=
  let mA : Fl := ⟨x.m, x.ov⟩
  let mB : Fl := ⟨y.m, y.ov⟩
  let m := mA.max mB
  let cA := (mA.sub m).exp
  let cB := (mB.sub m).exp
  let l := ((Fl.of x.l).mul cA).add ((Fl.of y.l).mul cB)
  let a := x.a.zipWith (fun u v => ((Fl.of u).mul cA).add ((Fl.of v).mul cB)) y.a
  { m := m.v, l := l.v, a := a.map (·.v), ov := x.ov || y.ov || cA.o || cB.o || l.o || a.any (·.o) }

/-- One level of the tree: entries 2i and 2i + 1 combined, an odd last one passed up (R141). -/
def treeLevel : List Partial → List Partial
  | a :: b :: l => combine a b :: treeLevel l
  | [a] => [a]
  | [] => []

/-- The tree of R141, `fuel` levels. -/
def treeReduce : Nat → List Partial → Option Partial
  | _, [] => none
  | _, [a] => some a
  | 0, a :: _ => some a
  | fuel + 1, l => treeReduce fuel (treeLevel l)

/-- The output bytes of one query head (R140), and whether a value overflowed. -/
def headOut (outFp32 : Bool) (p : Partial) : List Byte × Bool :=
  let os := p.a.map (fun x => (Fl.of x).div (Fl.of p.l))
  if outFp32 then ((os.map (fun o => le 4 o.v.toNat)).flatten, p.ov || os.any (·.o))
  else
    let rs := os.map (fun o => let d := o.dy; (bf16.round (f32Neg o.v) d.m.natAbs d.e, o.o))
    ((rs.map (fun q => le 2 q.1.1)).flatten, p.ov || rs.any (fun q => q.1.2 || q.2))

/-- The partial of query head `q` (R141), or the running total of R143. -/
def State.headPartial (s : State) (r : Result) (q : Nat) : Option Partial :=
  let g := s.qh / s.kvh
  if r.relaxed then r.running[q]?
  else treeReduce 64 ((segmentsOf r.views).filterMap (fun j =>
    (r.units.find? (fun u => u.kvHead == q / g && u.seg == j)).bind (fun u => u.parts[q % g]?)))

/-- The outputs of a request whose units are all done (R133, R140), and whether a value overflowed. -/
def State.outputs (s : State) (r : Result) : List Byte × Bool :=
  let width := if r.outFp32 then 4 else 2
  ((List.range s.qh).map (fun q =>
    match s.headPartial r q with
    | some p => headOut r.outFp32 p
    | none => (zeros (width * s.dim), false))).foldl (fun a b => (a.1 ++ b.1, a.2 || b.2)) ([], false)

/-- A result is complete with its outputs (R140, R143, R144): it is delivered or held. -/
def State.finishResult (s : State) (slot : Nat) (key : ResKey) : State :=
  match s.result slot key with
  | none => s
  | some r =>
    if r.complete || r.units.any (fun u => u.st != .done) then s
    else
      let out := s.outputs r
      let s := s.mapResult slot key (fun r => { r with complete := true, data := out.1, overflow := out.2,
                                                       units := [], views := [], running := [] })
      let d := slotDie slot
      let s := if r.relaxed then (s.bump d 0 Fld.ATN_COUNTS0_RELAXED).bump d 0 Fld.RP_CHOICES1_RELAXED else s
      s.deliver slot key

/-- A request whose tile, entry or word failed (R149, R218): the other partials are discarded, the result is INTEGRITY. -/
def State.failResult (s : State) (slot : Nat) (key : ResKey) (addr : Nat) : State :=
  match s.result slot key with
  | none => s
  | some r =>
    if r.complete then s
    else
      let s := s.mapResult slot key (fun r => { r with complete := true, integrity := some addr, data := [],
                                                       units := [], views := [], running := [] })
      let s := { s with attn := { s.attn with groups := s.attn.groups.map (fun (g : Group) =>
        { g with members := g.members.filter (fun m => m != (slot, key)) }) } }
      s.deliver slot key

end Sys2Proof.Machine
end

