-- ==== Sys2Proof/Machine/Moves.lean ====
section
/-! DEFINITION. Moving units between tiers: demotion, promotion, prefetch copies, and the parked image (R60, R61, R81, R146,
R147, R199 to R207, R242 to R245). -/

namespace Sys2Proof.Machine

/-! ### What a unit is -/

/-- The die a unit stands on. -/
def unitDie : UnitRef → Nat
  | .page slot _ _ => slotDie slot
  | .shared die _ => die
  | .staging slot => slotDie slot

/-- What the model knows of a unit: tier, location, granules, context, OLD, AGE, and the slot and VUN that order it. -/
structure UnitInfo where
  tier : Nat
  loc : Nat
  granules : Nat
  ctx : Nat
  old : Bool
  age : Nat
  slot : Nat
  vun : Nat
  deriving DecidableEq, Repr

/-- The unit as its entry describes it, or none when no entry names it (R71, R73, R244). A shared page is ordered by its
ORIGIN (R202). -/
def State.unitInfo (s : State) (u : UnitRef) : Option UnitInfo :=
  match u with
  | .page slot layer page =>
    match s.leaf ⟨slot, layer, page⟩ with
    | some l => if l.share.isSome then none
      else some ⟨l.tier, l.loc, s.pageGranules l.kenc l.venc, (s.sess slot).context, l.old, l.age, slot, PageKey.vun ⟨slot, layer, page⟩⟩
    | none => none
  | .shared die id =>
    match s.sharedPage die id with
    | some p => some ⟨p.tier, p.loc, s.pageGranules p.kenc p.venc, p.context, p.old, p.age, p.slot, PageKey.vun ⟨p.slot, p.layer, p.page⟩⟩
    | none => none
  | .staging slot =>
    match alGet slot s.kv.images with
    | some i => some ⟨i.tier, i.loc, i.granules, (s.sess slot).context, false, 0, slot, stagingVun slot⟩
    | none =>
      match s.staging slot with
      | some g => some ⟨1, g.loc, s.stagingGranules, (s.sess slot).context, false, 0, slot, stagingVun slot⟩
      | none => none

/-- A unit is in motion (R200). -/
def State.moving (s : State) (u : UnitRef) : Bool := s.tier.moves.any (fun m => m.unit == u)

/-- The unit's entry names a new tier and location (R200, step 3); a promotion stamps its age (R72). -/
def State.retarget (s : State) (u : UnitRef) (tier loc : Nat) : State :=
  match u with
  | .page slot layer page =>
    match s.leaf ⟨slot, layer, page⟩ with
    | some l =>
      let l := if tier = 1 then { l with age := s.stamp (slotDie slot), old := false } else l
      s.putLeaf ⟨slot, layer, page⟩ { l with tier, loc }
    | none => s
  | .shared die id =>
    match s.sharedPage die id with
    | some p =>
      let p := if tier = 1 then { p with age := s.stamp die, old := false } else p
      s.putShared die id { p with tier, loc }
    | none => s
  | .staging slot =>
    match alGet slot s.kv.images with
    | some i => { s with kv := { s.kv with images := alSet slot { i with tier, loc } s.kv.images } }
    | none => s

/-- Granules moved are shown in MiB (R224); `dir` 0 demoted, 1 promoted. -/
def State.noteMoved (s : State) (die dir g : Nat) : State :=
  let total := (alGet (die, dir) s.tier.rest).getD 0 + g
  let s := { s with tier := { s.tier with rest := alSet (die, dir) (total % 8192) s.tier.rest } }
  s.bumpBy die 0 (if dir = 0 then Fld.TR_MOVED_DEMOTED_MIB else Fld.TR_MOVED_PROMOTED_MIB) (total / 8192)

/-! ### Choosing a destination (R60, R201) -/

/-- T2 stands at or above its low watermark (R201). -/
def State.t2AboveLow (s : State) (die : Nat) : Bool :=
  decide (s.fld die 0 Fld.TR_WATER_T2_LOW_MIB * 2 ^ 20 ≤ s.poolFree die 2 * 128)

/-- The tier a demotion of a unit goes to: T2, or T3 when there is no T2, when T2 cannot take the unit while above its low
watermark, or, for quota demotion, when T2 fails the quota test (R60, R201). -/
def State.demoteTo (s : State) (die : Nat) (i : UnitInfo) (quota : Bool) : Option Nat :=
  let t3 := if s.poolOk die 3 i.granules && (!quota || s.quotaOk die i.ctx 3 i.granules) then some 3 else none
  if 2 ≤ i.tier then t3
  else if !s.hasT2 die || (quota && !s.quotaOk die i.ctx 2 i.granules) then t3
  else if s.t2Takes die i.slot i.granules then some 2
  else if s.t2AboveLow die then t3 else none

/-- The owner a unit has in a segment's summary (R236). -/
def ownerOf (u : UnitRef) : Owner := .unit u

/-- A move starts: the destination is allocated and counted (R200, step 1). A location in T1 or T3 is a free value; one in
T2 is the next place of the log (R233). -/
def State.startMove (s : State) (die : Nat) (u : UnitRef) (i : UnitInfo) (dst : Nat) (quota paced : Bool) (wake : Option Nat) :
    State :=
  let placed : Option (State × Nat) :=
    if dst = 2 then s.place die (s.groupFor die i.slot) 0 1 i.granules (ownerOf u)
    else some (s.nextFree, s.freeVal % 2 ^ 40)
  match placed with
  | none => s
  | some (s, loc) =>
    let s := s.alloc die dst i.ctx i.granules
    let m : Move := ⟨die, u, i.tier, dst, i.loc, loc, i.granules, i.ctx, quota, paced, wake⟩
    { s with tier := { s.tier with moves := s.tier.moves ++ [m] } }

/-- A move's destination is given up (R97, R200). -/
def State.abandon (s : State) (m : Move) : State :=
  let s := s.dealloc m.die m.dst m.ctx m.granules
  if m.dst = 2 then s.releaseT2 m.die m.loc else s

/-- The entry still names the location a move read from. -/
def State.moveValid (s : State) (m : Move) : Bool :=
  match s.unitInfo m.unit with
  | some i => i.tier == m.src && i.loc == m.srcLoc
  | none => false

/-- A move ends: the entry is retargeted and the source released (R200, steps 3 and 4), a quota demotion being counted for its
context; or, when the unit was replaced meanwhile, the copy is released at once (R97). -/
def State.finishMove (s : State) (m : Move) : State :=
  let s := { s with tier := { s.tier with moves := s.tier.moves.erase m } }
  if s.moveValid m then
    let s := (s.retarget m.unit m.dst m.loc).shootdown m.die (unitVun m.unit)
    let s := s.dealloc m.die m.src m.ctx m.granules
    let s := if m.src = 2 then s.releaseT2 m.die m.srcLoc else s
    let s := if m.quota then s.bumpBy m.die m.ctx Fld.CTX_DEMOTED_GRANULES m.granules else s
    s.noteMoved m.die (if m.dst < m.src then 1 else 0) m.granules
  else s.abandon m

/-! ### Victims (R60, R61, R202, R203) -/

/-- One unit is older than another (R72, R202): OLD first, then the larger age, then slot, then VUN. -/
def State.older (s : State) (die : Nat) (a b : UnitInfo) : Bool :=
  let ka := s.ageOf die a.age
  let kb := s.ageOf die b.age
  if a.old != b.old then a.old
  else if ka ≠ kb then decide (kb < ka)
  else decide (a.slot < b.slot) || (a.slot == b.slot && decide (a.vun < b.vun))

/-- The pages and shared pages of a die that stand in a tier and are not in motion. -/
def State.unitsIn (s : State) (die tier : Nat) : List (UnitRef × UnitInfo) :=
  let pages := (s.kv.leaves.filter (fun p => slotDie p.1.slot == die && p.2.share.isNone && p.2.tier == tier)).map
    (fun p => UnitRef.page p.1.slot p.1.layer p.1.page)
  let shared := (s.kv.shared.filter (fun p => p.1.1 == die && p.2.tier == tier)).map (fun p => UnitRef.shared die p.1.2)
  ((pages ++ shared).filter (fun u => !s.moving u)).filterMap (fun u => (s.unitInfo u).map (fun i => (u, i)))

/-- The oldest of a list of units. -/
def State.oldest (s : State) (die : Nat) (l : List (UnitRef × UnitInfo)) : Option (UnitRef × UnitInfo) :=
  l.foldl (fun b x => match b with | none => some x | some y => if s.older die x.2 y.2 then some x else some y) none

/-- The victim of watermark eviction in a tier (R202). -/
def State.evictVictim (s : State) (die tier : Nat) : Option (UnitRef × UnitInfo) :=
  s.oldest die ((s.unitsIn die tier).filter (fun p =>
    p.2.old || decide (s.fld die 0 Fld.TR_CTRL_MIN_AGE ≤ s.ageOf die p.2.age)))

/-- A context's victim of quota demotion in a tier (R60). -/
def State.quotaVictim (s : State) (die ctx tier : Nat) : Option (UnitRef × UnitInfo) :=
  s.oldest die ((s.unitsIn die tier).filter (fun p => p.2.ctx == ctx))

/-- No full page of a session stands in T1 (R203). -/
def State.noFullPages (s : State) (slot : Nat) : Bool :=
  !s.kv.leaves.any (fun p => p.1.slot == slot && p.2.fill == 0 && s.pageTier p.1 p.2 == 1)

/-- A session's staging area may be evicted (R203). -/
def State.stagingEligible (s : State) (slot : Nat) : Bool :=
  let r := s.sess slot
  (r.st == .parked || r.st == .held) && (s.staging slot).isSome && s.noFullPages slot

/-- POOL_STALLED (R204): once per step per die, and counted. -/
def State.poolStalled (s : State) (die tier : Nat) : State :=
  let raised := (s.onceRec die 0x46 0).raised
  let s := s.raiseOnce die 0x46 0 { alert := true, a0 := tier }
  if raised then s else s.bump die 0 Fld.TR_COUNTS_STALLED

/-- DEMOTE_STALLED (R61): raised when the state of a context and tier becomes stalled. -/
def State.demoteStalled (s : State) (die ctx tier : Nat) : State :=
  if s.ses.stalled.contains (die, ctx, tier) then s
  else ({ s with ses := { s.ses with stalled := (die, ctx, tier) :: s.ses.stalled } }).raise die 0x17
    { alert := true, ctx := some ctx, a0 := tier }

/-! ### Staging areas and parked images (R81, R203, R242 to R244) -/

/-- A session's page is released with its place in T2, a shared page's when no entry names it any more (R88, R94, R239). -/
def State.freePage (s : State) (k : PageKey) : State :=
  match s.leaf k with
  | none => s
  | some l =>
    let die := slotDie k.slot
    let s := match l.share with
      | none => if l.tier = 2 then s.releaseT2 die l.loc else s
      | some id => match s.sharedPage die id with
        | some p => if p.ref ≤ 1 ∧ p.tier = 2 then s.releaseT2 die p.loc else s
        | none => s
    s.releasePage k

/-- R81, step 1, for one layer: rows 0 to f − 1 become a page in T1 with FILL = f. -/
def State.flushPartial (s : State) (slot layer : Nat) : State :=
  match s.staging slot with
  | none => s
  | some g =>
    let r := s.sess slot
    let die := slotDie slot
    let n := g.len layer
    let f := n % 16
    let k : PageKey := ⟨slot, layer, n / 16⟩
    if f = 0 then s
    else
      let f0 := match s.leaf k with | some l => l.fill | none => 0
      if f0 = f then s
      else
        let stored := match s.leaf k with | some l => decodeRows s.kvh f0 (s.pageTiles k l) | none => []
        let rows := stored ++ (List.range (f - f0)).map (fun i => (g.row layer (f0 + i)).getD [])
        let enc := s.ctxEnc die r.context
        let tiles := s.packPage r.context slot layer (n / 16) rows
        let had := (s.leaf k).isSome
        let s := if had then (s.bump die 0 Fld.XL_COUNTS_MERGE).freePage k else s
        let s := s.notePacked die r.context tiles
        let s := s.alloc die 1 r.context (s.pageGranules enc.1 enc.2)
        s.nextFree.addLeaf k { tier := 1, share := none, kenc := enc.1, venc := enc.2, fill := f, old := false,
                               age := s.stamp die, loc := s.freeVal % 2 ^ 40, tiles }

/-- The partial pages that a flush of a session's staging area made, in ascending VUN. -/
def State.partialPages (s : State) (slot : Nat) : List UnitRef :=
  match s.staging slot with
  | none => []
  | some g => (List.range s.layers).filterMap (fun l =>
      if g.len l % 16 = 0 then none else some (UnitRef.page slot l (g.len l / 16)))

/-- A staging area leaves T1 with its finishing area (R81, R203, R244): partial pages, the parked image, unmapped blocks.
Nothing happens while no tier can take the image. -/
def State.evictStaging (s : State) (slot : Nat) : State :=
  match s.staging slot, s.area slot with
  | some _, some a =>
    let r := s.sess slot
    let die := slotDie slot
    let s1 := (List.range s.layers).foldl (fun s l => s.flushPartial slot l) s
    let placed : Option (State × Nat × Nat) :=
      if s1.hasT2 die then
        if s1.poolOk die 2 896 then
          (s1.place die (slot % 2) 0 896 896 (.unit (.staging slot))).map (fun p => (p.1, 2, p.2))
        else none
      else if s1.poolOk die 3 896 then some (s1.nextFree, 3, s1.freeVal % 2 ^ 40) else none
    match placed with
    | none => s
    | some (s2, tier, loc) =>
      let g := (s2.staging slot).getD s2.newStaging
      let img : Parked := { tier, loc, granules := 896, lens := g.lens, globals := g.globals, area := a, written := s2.boundary }
      let s3 := s2.alloc die tier r.context 896
      let s4 := { s3 with kv := { s3.kv with staging := alErase slot s3.kv.staging, areas := alErase slot s3.kv.areas,
                                             images := alSet slot img s3.kv.images } }
      let s5 := (s4.shootdown die (stagingVun slot)).dealloc die 1 r.context (s4.stagingGranules + areaGranules)
      (s5.noteMoved die 0 896).dormantTest slot
  | _, _ => s

/-! ### Demotion (R201) -/

/-- Copies in T0 of a context are dropped until its T0 use fits its quota (R60, R198). -/
def State.shedCopies (s : State) (die ctx : Nat) : State :=
  s.kv.copies.foldl (fun s c =>
    if c.die = die ∧ (s.sess c.slot).context = ctx ∧ s.overLimit die ctx 0 then
      (({ s with kv := { s.kv with copies := s.kv.copies.erase c } }).dealloc die 0 ctx c.granules).bumpBy die ctx
        Fld.CTX_DEMOTED_GRANULES c.granules
    else s) s

/-- Quota demotion of a context in a tier: the next unit, an eligible staging area of T1, or a stall (R60, R61). -/
def State.quotaStep (s : State) (die ctx tier : Nat) : State :=
  if tier = 0 then
    let s := s.shedCopies die ctx
    if s.overLimit die ctx 0 then s.demoteStalled die ctx 0 else s
  else if tier = 3 then s.demoteStalled die ctx 3
  else match s.quotaVictim die ctx tier with
    | some (u, i) =>
      match s.demoteTo die i true with
      | some dst => s.startMove die u i dst true true none
      | none => s.demoteStalled die ctx tier
    | none =>
      if s.tier.moves.any (fun m => m.die == die && m.ctx == ctx && m.src == tier) then s
      else
        let ready := (s.kv.staging.map (·.1)).filter (fun x =>
          slotDie x == die && (s.sess x).context == ctx && s.stagingEligible x)
        match (if tier = 1 then ready.min? else none) with
        | some x =>
          let t := s.evictStaging x
          if (t.staging x).isSome then t
          else t.bumpBy die ctx Fld.CTX_DEMOTED_GRANULES (s.stagingGranules + areaGranules)
        | none => s.demoteStalled die ctx tier

/-- The contexts over quota on a die, as (context, tier), lowest tier and context first. -/
def State.overList (s : State) (die : Nat) : List (Nat × Nat) :=
  ((List.range 4).map (fun tier => ((s.start.img.contexts.map (·.id)).filter (fun c => s.overLimit die c tier)).map
    (fun c => (c, tier)))).flatten

/-- The next unit of cold PARK (R201): in ascending VUN; one that another kind has moved, or that has left T1, is passed
over. -/
def State.coldStep (s : State) (die : Nat) : State :=
  match s.tier.cold.find? (fun c => c.die == die) with
  | none => s
  | some c =>
    let s' := { s with tier := { s.tier with cold := s.tier.cold.erase c } }
    match c.unit with
    | .staging slot =>
      if (s.staging slot).isSome then
        let parts := s.partialPages slot
        let t := s'.evictStaging slot
        if (t.staging slot).isSome then s
        else { t with tier := { t.tier with cold := t.tier.cold ++ parts.map (fun u => ⟨die, slot, u⟩) } }
      else s'
    | u =>
      match s.unitInfo u with
      | none => s'
      | some i =>
        if i.tier ≠ 1 ∨ s.moving u then s'
        else match s.demoteTo die i false with
          | some dst => s'.startMove die u i dst false true none
          | none => s

/-- Watermark eviction takes its next victim (R202, R204): T1 before T2 (log 24). -/
def State.evictStep (s : State) (die tier : Nat) : State :=
  match s.evictVictim die tier with
  | some (u, i) =>
    match s.demoteTo die i false with
    | some dst => s.startMove die u i dst false true none
    | none => s.poolStalled die tier
  | none => s.poolStalled die tier

/-- The die starts demoting the next unit at its background rate, one unit at a time, by strict priority (R201): eviction,
quota, cold. -/
def State.demoteNext (s : State) (die : Nat) : State :=
  if s.fld die 0 Fld.TR_RATE_DEMOTE_MBPS = 0 ∨ s.tier.moves.any (fun m => m.die == die && m.paced) then s
  else
    let s := (s.evictTest die 1).evictTest die 2
    if s.tier.evicting.contains (die, 1) then s.evictStep die 1
    else if s.tier.evicting.contains (die, 2) then s.evictStep die 2
    else match (s.overList die).head? with
      | some (ctx, tier) => s.quotaStep die ctx tier
      | none => s.coldStep die

/-! ### Promotion (R204 to R206) -/

/-- A WAKE of a session has nothing left to promote: PROMOTING is cleared (R205, item 7). -/
def State.promotingTest (s : State) (slot : Nat) : State :=
  let r := s.sess slot
  if r.promoting && !(s.tier.trigs.any (fun x => x.slot == slot && !x.prefetch))
      && !(s.tier.promos.any (fun p => p.wake == some slot)) && !(s.tier.moves.any (fun m => m.wake == some slot))
      && !(s.tier.restores.contains slot)
  then s.setSess slot { r with promoting := false } else s

/-- The promotion at the head of a die's queue starts while T1 has room (R204): a promotion is never refused for quota. -/
def State.startPromo (s : State) (die : Nat) : State :=
  match s.tier.promos.find? (fun p => p.die == die && !s.moving p.unit) with
  | none => s
  | some p =>
    let s' := { s with tier := { s.tier with promos := s.tier.promos.erase p } }
    let dropped := match p.wake with | some slot => s'.promotingTest slot | none => s'
    match s.unitInfo p.unit with
    | none => dropped
    | some i =>
      if i.tier ≤ 1 then dropped
      else if s.poolOk die 1 i.granules then s'.startMove die p.unit i 1 false false p.wake
      else s

/-- `n` promotions of a die start, as far as T1 has room. -/
def State.startPromos (s : State) (die : Nat) : Nat → State
  | 0 => s
  | n + 1 => (s.startPromo die).startPromos die n

/-- Every queued promotion of a die that finds room starts (R204). -/
def State.runPromos (s : State) (die : Nat) : State := s.startPromos die (s.tier.promos.length)

/-- A unit joins the tail of its die's promotion queue. -/
def State.queuePromo (s : State) (u : UnitRef) (wake : Option Nat) : State :=
  let die := unitDie u
  if s.tier.promos.any (fun p => p.unit == u) then s
  else { s with tier := { s.tier with promos := s.tier.promos ++ [⟨die, u, wake, false⟩] } }

/-- The descriptor of a session: in its staging area, or in its parked image while that is being restored. -/
def State.desc (s : State) (slot : Nat) : Option Staging :=
  match s.staging slot with
  | some g => some g
  | none => (alGet slot s.kv.images).map (fun i => { s.newStaging with lens := i.lens, globals := i.globals })

/-- The pages of the attended set of a layer that are below T1, or on their way there (R51; R205, item 6): the set of R133 at the
layer's length. -/
def State.lowPages (s : State) (slot layer : Nat) : List UnitRef :=
  match s.desc slot with
  | none => []
  | some g =>
    let r := s.sess slot
    (attendedPages r.dense r.window (g.len layer) g.globals).filterMap (fun p =>
      let k : PageKey := ⟨slot, layer, p⟩
      match s.leaf k with
      | some l =>
        if 2 ≤ s.pageTier k l ∨ s.tier.moves.any (fun m => m.unit == s.pageUnit k && decide (2 ≤ m.dst)) then
          some (s.pageUnit k)
        else none
      | none => none)

/-- The promotion trigger of a session and layer fires (R205). -/
def State.firePromotion (s : State) (slot layer : Nat) : State :=
  let s := { s with tier := { s.tier with trigs := s.tier.trigs.filter (fun (x : Trig) =>
    !(x.slot == slot && x.layer == layer && !x.prefetch)) } }
  let s := (s.lowPages slot layer).foldl (fun s u => s.queuePromo u (some slot)) s
  (s.runPromos (slotDie slot)).promotingTest slot

/-! ### Prefetch copies in T0 (R146, R147) -/

/-- Granules of T0 that prefetch copies hold in a cluster. -/
def State.copyUse (s : State) (die cluster : Nat) : Nat :=
  ((s.kv.copies.filter (fun c => c.die == die && c.cluster == cluster)).map (·.granules)).foldl (· + ·) 0

/-- One copy is made, or counted as not made (R146): past the cluster's budget, or the T0 quota of the context. -/
def State.addCopy (s : State) (c : T0Copy) : State :=
  let ctx := (s.sess c.slot).context
  let budget := s.fld c.die 0 Fld.ATN_T0_BUDGET_KIB * 8
  if s.kv.copies.any (fun x => x.die == c.die && x.cluster == c.cluster && x.layer == c.layer && x.step == c.step
      && (if c.share.isSome then x.share == c.share else x.slot == c.slot && x.page == c.page)) then s
  else if s.copyUse c.die c.cluster + c.granules ≤ budget then
    ({ s with kv := { s.kv with copies := s.kv.copies ++ [c] } }).alloc c.die 0 ctx c.granules
  else (s.bump c.die 0 Fld.ATN_COUNTS0_T0_SHORT).raiseOnce c.die 0x32 c.cluster
    { ctx := some ctx, a0 := (s.sess c.slot).handle c.slot, a1 := c.layer }

/-- The prefetch trigger of a session and layer fires for step `step` (R146). -/
def State.firePrefetch (s : State) (slot layer step : Nat) : State :=
  let s := { s with tier := { s.tier with trigs := s.tier.trigs.filter (fun (x : Trig) =>
    !(x.slot == slot && x.layer == layer && x.step == step && x.prefetch)) } }
  match s.desc slot with
  | none => s
  | some g =>
    let r := s.sess slot
    let die := slotDie slot
    let cl := s.home slot
    let n := g.len layer
    let base : T0Copy := ⟨die, cl, slot, layer, step, none, none, 0, false⟩
    let rows := g.rowsFrom layer 0
    let pages := attendedPages r.dense r.window n g.globals
    let hot := (pages.filter (fun p => decide ((n - r.window) / 16 ≤ p) || r.dense)).reverse.take
      (s.fld die r.context Fld.ATN_CTX_MODE_HOT_PAGES)
    let s := if rows.isEmpty then s else s.addCopy { base with granules := ceilDiv (rows.length * s.rowBytes) 128 }
    pages.foldl (fun s p =>
      let k : PageKey := ⟨slot, layer, p⟩
      match s.leaf k with
      | none => s
      | some l =>
        if 2 ≤ s.pageTier k l then s
        else
          let enc := s.pageEnc k l
          let gr := s.pageGranules enc.1 enc.2
          match l.share with
          | some id =>
            let big := match s.sharedPage die id with
              | some sp => decide (s.fld die 0 Fld.ATN_FANOUT_MIN_REF ≤ sp.ref) | none => false
            if big || hot.contains p then s.addCopy { base with page := some p, share := some id, granules := gr } else s
          | none => if hot.contains p then s.addCopy { base with page := some p, granules := gr } else s) s

/-- A unit that runs reads a copy (R147). -/
def State.copyInUse (s : State) (c : T0Copy) : Bool :=
  s.attn.results.any (fun r => slotDie r.slot == c.die && s.home r.slot == c.cluster && r.key.layer == c.layer
    && r.key.step == c.step && r.units.any (fun u => u.st == .running
      && (match c.page, c.share with
        | some p, none => r.slot == c.slot && p / 16 == u.seg
        | some _, some id => (r.segViews u.seg).any (fun v => v.share == some id)
        | none, _ => r.slot == c.slot)))

/-- The copies whose layer is over and that nothing reads are released (R147); a copy still being made when its layer
started is counted as late, once per layer (R30). -/
def State.releaseCopies (s : State) (die : Nat) : State :=
  s.kv.copies.foldl (fun s c =>
    if c.die = die ∧ s.layerLin c.step c.layer + 256 ≤ s.est ∧ s.copyInUse c = false
        ∧ (s.sess c.slot).scrubPending = false then
      ({ s with kv := { s.kv with copies := s.kv.copies.erase c } }).dealloc die 0 (s.sess c.slot).context c.granules
    else s) s

/-- A layer whose prefetch is not complete at its start is counted once (R30). -/
def State.countLate (s : State) (die step layer : Nat) : State :=
  let x := s.layerLin step layer
  if x ≤ s.est ∧ !s.attn.missed.contains (die, x)
      ∧ s.kv.copies.any (fun c => c.die == die && c.step == step && c.layer == layer && !c.ready) then
    ({ s with attn := { s.attn with missed := (die, x) :: s.attn.missed } }).bump die 0 Fld.BCN_COUNTS_PF_LATE
  else s

/-! ### Waking (R205) -/

/-- The leads in force (R28, R33). -/
def State.lead (s : State) : Nat := s.fld 0 0 Fld.BCN_LEAD_LEAD_SP
/-- The promotion lead in force (R28, R33). -/
def State.promoLead (s : State) : Nat := s.fld 0 0 Fld.BCN_LEAD_PROMO_SP

/-- The step of a layer's target for a wake from S0:L0 (R205, item 2). -/
def wakeStep (S0 L0 l : Nat) : Nat := if L0 ≤ l then S0 else S0 + 1

/-- The promotion and prefetch triggers of a WAKE (R205, items 1, 2 and 4). -/
def State.wakeTrigs (s : State) (slot firstPos : Nat) : List Trig :=
  let p := max firstPos s.pos
  let S0 := p / 65536
  let L0 := p / 256 % 256
  ((List.range s.layers).map (fun l =>
    let st := wakeStep S0 L0 l
    [(⟨slot, l, st, s.layerLin st l, false⟩ : Trig), ⟨slot, l, st, s.layerLin st l, true⟩])).flatten

/-- Triggers of a list that are due now, promotions before prefetches and in ascending target (R27, R205 item 5). -/
def State.dueTrigs (s : State) : List Trig :=
  s.tier.trigs.filter (fun x => decide (trigAt x.target (if x.prefetch then s.lead else s.promoLead) ≤ s.est))

/-- A trigger of a WAKE fires. -/
def State.fireTrig (s : State) (x : Trig) : State :=
  if x.prefetch then s.firePrefetch x.slot x.layer x.step else s.firePromotion x.slot x.layer

/-- A list of triggers in ascending target, then layer, then slot, promotions before prefetches of one target (R27). -/
def insertTrig (x : Trig) : List Trig → List Trig
  | [] => [x]
  | y :: l => if y.target < x.target ∨ (y.target = x.target ∧ (!y.prefetch && x.prefetch
      || (y.prefetch == x.prefetch && decide (y.slot ≤ x.slot)))) then y :: insertTrig x l else x :: y :: l

/-- The due triggers of waking sessions fire in order. -/
def State.fireTrigs (s : State) : State := (s.dueTrigs.foldl (fun l x => insertTrig x l) []).foldl (fun s x => s.fireTrig x) s

/-- R205: a WAKE schedules its promotions. While no trigger fires, every promotion starts at acceptance, in ascending
layer. -/
def State.scheduleWake (s : State) (slot firstPos : Nat) : State :=
  if s.fires then
    ({ s with tier := { s.tier with trigs := s.tier.trigs ++ s.wakeTrigs slot firstPos } }).fireTrigs
  else (List.range s.layers).foldl (fun s l => s.firePromotion slot l) s

/-- A parked image is restored: staging and finishing areas mapped again, the image released (R245). A restore that is pending
has its space in T1 already. -/
def State.restoreImage (s : State) (slot : Nat) : State :=
  match alGet slot s.kv.images with
  | none => s
  | some i =>
    let die := slotDie slot
    let ctx := (s.sess slot).context
    let s := if s.tier.restores.contains slot then s else s.alloc die 1 ctx (s.stagingGranules + areaGranules)
    let s := s.putStaging slot { s.newStaging with lens := i.lens, globals := i.globals }
    let s := s.nextFree.putArea slot { i.area with loc := s.nextFree.freeVal % 2 ^ 40 }
    let s := { s.nextFree with kv := { s.kv with images := alErase slot s.kv.images }
                               tier := { s.tier with restores := s.tier.restores.filter (fun x => x != slot) } }
    let s := (s.dealloc die i.tier ctx i.granules).noteMoved die 1 i.granules
    if i.tier = 2 then s.releaseT2 die i.loc else s

end Sys2Proof.Machine
end

