-- ==== Sys2Proof/Machine/Ckpt.lean ====
section
/-! DEFINITION. Taking a checkpoint (R382 to R394): the plan, the cut, what a set holds, discarding and failing. -/

namespace Sys2Proof.Machine

/-! ### CONFIG_DIGEST (R371) -/

/-- The selection values a kind of register has on a die, in ascending order; none for a register without one. -/
def selValues (die : Nat) : SelKind → List (Option Nat)
  | .plain | .requester => [none]
  | .ctx | .grammar => (List.range 4096).map some
  | .cluster | .core => (List.range 8).map some
  | .index => (List.range 1024).map some
  | .ethPort | .chPort => (List.range 24).map (fun i => some (24 * die + i))
  | .chGate => (List.range 1536).map (fun i => some (1536 * die + i))
  | .endpoint | .keygen => (List.range 65536).map some
  | .tally => (List.range 32768).map some
  | .monitor => (List.range 256).map some
  | .sensor => (List.range 16).map some
  | .window => [none]
  | .slot => [none]

/-- The RWL bits of a register. -/
def RegRow.rwlMask (r : RegRow) : Word :=
  r.fields.foldl (fun m f => match f.acc with
    | .rwl => m ||| bitMask f.hi f.lo
    | .ro | .rw | .w1c | .wo | .rc => m) 0

/-- The RW bits of a register (R388). -/
def RegRow.rwMask (r : RegRow) : Word :=
  r.fields.foldl (fun m f => match f.acc with
    | .rw => m ||| bitMask f.hi f.lo
    | .ro | .rwl | .w1c | .wo | .rc => m) 0

/-- The address of a register (R470). -/
def regAddr (die : Nat) (r : RegId) : Nat := die * 2 ^ 40 + r.blk * 2 ^ 24 + r.off

/-- The records of R371 of one register. -/
def State.digestRecs (s : State) (die : Nat) (r : RegRow) : List Byte :=
  if r.rwlMask = 0 then []
  else ((selValues die r.sel).map (fun v =>
    le 8 (regAddr die r.id) ++ le 8 (v.getD (2 ^ 64 - 1)) ++ le 8 (s.reg die (v.getD 0) r.id &&& r.rwlMask).toNat)).flatten

/-- CONFIG_DIGEST (R371). -/
def State.configDigest (s : State) : Nat :=
  Config.sha384 (((regTable.map (fun r => s.digestRecs 0 r)).flatten)
    ++ ((regTable.filter (fun r => r.onDie1)).map (fun r => s.digestRecs 1 r)).flatten)

/-! ### What a set holds -/

/-- The stripe units that `n` granules from `g` lie in (R210). -/
def unitsFrom (die g n : Nat) : List (Nat × Nat) :=
  (List.range (stripeOf (g + n - 1) + 1 - stripeOf g)).map (fun i => (die, stripeOf g + i))

/-- The T1 stripe units that hold allocated granules whose place the model knows (R385, R386): records, staging and finishing
areas, pages and shared pages. -/
def State.savedUnits (s : State) : List (Nat × Nat) :=
  ((s.ses.recs.map (fun p => unitsFrom (slotDie p.1) (s.fld (slotDie p.1) 0 Fld.SES_TABLE_BASE + p.1 % 524288) 1)).flatten
    ++ (s.kv.staging.map (fun p => unitsFrom (slotDie p.1) p.2.loc s.stagingGranules)).flatten
    ++ (s.kv.areas.map (fun p => unitsFrom (slotDie p.1) p.2.loc areaGranules)).flatten
    ++ ((s.kv.leaves.filter (fun p => p.2.share.isNone && p.2.tier == 1)).map (fun p =>
        unitsFrom (slotDie p.1.slot) p.2.loc (s.pageGranules p.2.kenc p.2.venc))).flatten
    ++ ((s.kv.shared.filter (fun p => p.2.tier == 1)).map (fun p =>
        unitsFrom p.1.1 p.2.loc (s.pageGranules p.2.kenc p.2.venc))).flatten).eraseDups

/-- The segments a cut pins (R385, step 4): OPEN, or with LIVE above 0. -/
def State.pinned (s : State) : List (Nat × Nat × Nat) :=
  (s.flash.segs.filter (fun x => x.st == .open_ || decide (0 < x.live))).map (fun x => (x.die, x.group, x.seg))

/-- The T3 extents in use (R385, step 4). -/
def State.extents (s : State) : List (Nat × Nat × Nat) :=
  ((s.kv.leaves.filter (fun p => p.2.share.isNone && p.2.tier == 3)).map (fun p =>
      (slotDie p.1.slot, p.2.loc, s.pageGranules p.2.kenc p.2.venc)))
    ++ ((s.kv.shared.filter (fun p => p.2.tier == 3)).map (fun p => (p.1.1, p.2.loc, s.pageGranules p.2.kenc p.2.venc)))
    ++ ((s.kv.images.filter (fun p => p.2.tier == 3)).map (fun p => (slotDie p.1, p.2.loc, p.2.granules)))

/-- The KEY_CHECK values (R388). -/
def State.keyChecks (s : State) : List (Nat × Nat) :=
  (s.start.img.contexts.filter (fun c => s.fld 0 c.id Fld.CTX_STATE_LIVE == 1)).map (fun c => (c.id, Config.keyCheck c.key))

/-- What a checkpoint cut now holds (R386 to R389). -/
def State.snap (s : State) (id : Nat) : Snap :=
  { id, mark := s.est, boundary := s.boundary, service := s.fld 0 0 Fld.GLB_MODE_SERVICE, regs := s.regs, ses := s.ses,
    kv := s.kv, results := s.attn.results, nextOrder := s.attn.nextOrder, grams := s.grams, flash := s.flash,
    t1a := s.tier.t1a, t1b := s.tier.t1b, digest := s.configDigest, keys := s.keyChecks, units := s.savedUnits,
    pins := s.pinned, extents := s.extents }

/-! ### Pins, discarding, failing -/

/-- PINS of the listed segments changed by `f`; a segment that nothing holds any more leaves CLOSED (R239). -/
def State.mapPins (s : State) (l : List (Nat × Nat × Nat)) (f : Nat → Nat) : State :=
  l.foldl (fun s p =>
    let x := s.seg p.1 p.2.1 p.2.2
    s.settleSeg { x with pins := f x.pins }) s

/-- A checkpoint is discarded (R393): its pins are released. What stands in the area stays until it is written over. -/
def State.discard (s : State) (id : Nat) : State :=
  let l := ((s.ckpt.snaps.find? (fun x => x.id == id)).map (·.pins)).getD []
  { s.mapPins l (· - 1) with ckpt := { (s.mapPins l (· - 1)).ckpt with retained := s.ckpt.retained.filter (· != id) } }

/-- A checkpoint is running, from its trigger on (R383). -/
def State.ckptBusy (s : State) : Bool := s.ckpt.plan.isSome || s.ckpt.run.isSome

/-- The running or planned checkpoint fails (R394). -/
def State.failCkpt (s : State) (cause addr : Nat) : State :=
  let s := match s.ckpt.run with | some r => s.discard r.id | none => s
  let s := { s with ckpt := { s.ckpt with plan := none, run := none, early := [] } }
  let s := ((s.setFld 0 0 Fld.CK_STATUS_BUSY 0).setReg 0 0 Reg.CK_RUN 0).setFld 0 0 Fld.CK_STATUS_CAUSE cause
  let s := (s.setFld 0 0 Fld.CK_CBW_USE_KIB 0).setFld 1 0 Fld.CK_CBW_USE_KIB 0
  let s := if cause = 1 then s.setReg 0 0 Reg.CK_FAIL (BitVec.ofNat 64 addr) else s
  (s.bump 0 0 Fld.CK_COUNTS_FAILED).raise 0 0x82 { alert := true, a0 := cause }

/-! ### Planning and cutting -/

/-- The order of a die's shards (R390). -/
def shardOrder (die kind trigger : Nat) : List Nat :=
  let first := if kind = 1 ∧ trigger / 8 = die then [8 * die + trigger % 8] else []
  first ++ ((List.range 8).map (8 * die + ·)).filter (fun x => !first.contains x) ++ [16 + die]

/-- A header is written into the area (R392): it replaces what stood at its place. -/
def State.putHead (s : State) (h : ShardHdr) : State :=
  let heads := h :: s.ckpt.heads.filter (fun (x : ShardHdr) => !(x.slot == h.slot && x.shard == h.shard))
  { s with ckpt := { s.ckpt with heads, snaps := s.ckpt.snaps.filter (fun (x : Snap) => heads.any (fun y => y.id == x.id)) } }

/-- The OPEN header of a shard. -/
def openHead (r : CkptRun) (x : Snap) (layers shard : Nat) : ShardHdr :=
  ⟨r.slot, shard, false, r.id, linToOrd layers x.mark, r.kind, r.trigger, x.boundary, 0⟩

/-- Recording that is armed starts at the cut (R433, R435). -/
def State.startRec (s : State) (id : Nat) : State :=
  if s.fld 0 0 Fld.RP_STATUS_STATE = 1 ∧ s.fld 0 0 Fld.RP_CTRL_MODE = 1 then
    let map := ((List.range 2).map (fun d => (List.range 4).map (fun i => s.reg d 0 ⟨0x10, 0x028 + 8 * i⟩))).flatten
    let a : Recording := { state := 1, gap := false, ckptId := id, mark := s.pos, fw := s.start.img.fwVersion, bodyLen := 0,
                           digest := s.configDigest, map, recs := [] }
    (({ s with rp := { s.rp with area := a } }.setFld 0 0 Fld.RP_STATUS_STATE 2).setReg 0 0 Reg.RP_CKPT
      (BitVec.ofNat 64 id)).setReg 0 0 Reg.RP_REC 0
  else s

/-- The next checkpoint ID (R393). -/
def State.nextCkpt (s : State) : Nat :=
  match s.ckpt.nextId with
  | some n => n
  | none => (s.ckpt.heads.map (·.id)).foldl max 0 + 1

/-- The cut (R385): the set, the pins, the slot and its former checkpoint, the first two headers. CUT_NS is a free value of at
most 40,000. -/
def State.cut (s : State) (kind trigger : Nat) : State :=
  let id := s.nextCkpt
  let slot := id % max 1 (s.fld 0 0 Fld.CK_CTRL_KEEP)
  let x := s.snap id
  let r : CkptRun := ⟨id, slot, kind, trigger, shardOrder 0 kind trigger, shardOrder 1 kind trigger⟩
  let old := (s.ckpt.retained.filter (fun n => n % max 1 (s.fld 0 0 Fld.CK_CTRL_KEEP) == slot))
  let s := s.mapPins x.pins (· + 1)
  let s := { s with ckpt := { s.ckpt with plan := none, run := some r, nextId := some (id + 1), early := []
                                          snaps := x :: s.ckpt.snaps } }
  let s := (s.putHead (openHead r x s.layers (r.order0.headD 0))).putHead (openHead r x s.layers (r.order1.headD 0))
  let s := old.foldl (fun s n => s.discard n) s
  let s := { s with ckpt := { s.ckpt with retained := id :: s.ckpt.retained } }
  let s := ((s.setFld 0 0 Fld.CK_STATUS_BUSY 1).setReg 0 0 Reg.CK_RUN (BitVec.ofNat 64 id)).setFld 0 0 Fld.CK_STATUS_SHARD
    (r.order0.headD 0)
  let s := (s.setFld 0 0 Fld.CK_STATUS_CUT_NS (s.freeVal % 40001)).nextFree
  (s.startRec id).raise 0 0x80 { a0 := id, a1 := s.pos }

/-- A WARNING or COMMAND checkpoint is planned for the next layer start, or cut at once while the tracker does not run
(R382). -/
def State.planCkpt (s : State) (kind trigger : Nat) : State :=
  if s.fires then
    { s with ckpt := { s.ckpt with plan := some (kind, trigger, (s.est / 256 + 1) * 256) } }.setFld 0 0 Fld.CK_STATUS_BUSY 1
  else s.cut kind trigger

/-- A planned mark that the estimate has reached or passed is cut (R384). -/
def State.cutDue (s : State) : State :=
  match s.ckpt.plan with
  | none => s
  | some (kind, trigger, mark) => if mark ≤ s.est ∨ s.fires = false then s.cut kind trigger else s

/-- Checkpoints may start: ENABLE, and no replay (R402, R440), and no restore. -/
def State.ckptOn (s : State) : Bool :=
  s.fld 0 0 Fld.CK_CTRL_ENABLE == 1 && !s.inReplay && s.ckpt.restore.isNone

/-- The checkpoint tick of step `step` (R382, R383). -/
def State.ckptTick (s : State) (step : Nat) : State :=
  let n := s.fld 0 0 Fld.CK_CTRL_INTERVAL
  if s.ckptOn = false ∨ n = 0 ∨ step % n ≠ 0 then s
  else if s.ckptBusy then (s.bump 0 0 Fld.CK_COUNTS_SKIPPED).raise 0 0x83 { a0 := s.pos }
  else s.cut 0 0

/-- CE_WARN of a cluster (R382, R383): a WARNING checkpoint, or the shard to the front of those that have not started. -/
def State.warnCkpt (s : State) (die cluster : Nat) : State :=
  if s.ckptOn = false ∨ s.fld 0 0 Fld.CK_CTRL_CE_EN = 0 then s
  else match s.ckpt.run with
    | some r =>
      let x := 8 * die + cluster
      let front := fun (l : List Nat) => if l.tail.contains x then l.take 1 ++ [x] ++ l.tail.filter (· != x) else l
      { s with ckpt := { s.ckpt with run := some (if die = 0 then { r with order0 := front r.order0 }
                                                 else { r with order1 := front r.order1 }) } }
    | none => if s.ckpt.plan.isSome then s else s.planCkpt 1 (8 * die + cluster)

end Sys2Proof.Machine
end

