-- ==== Sys2Proof/Machine/Health.lean ====
section
/-! DEFINITION. Faults, spares and operating points (spec/16, R463): the disabled-unit map, core faults and the spare core,
the plan and its voltage requests, and the ageing measurements. -/

namespace Sys2Proof.Machine

/-! ### Unit codes and the map (R406, R407) -/

/-- A unit code (R406). -/
def unitCode (type die cluster index : Nat) : Nat := type * 2 ^ 28 + die * 2 ^ 27 + cluster * 2 ^ 24 + index

/-- The register that holds bit `b` of a die's half of the map, which has four of them (R407). -/
def mapReg (b : Nat) : RegId := ⟨0x10, 0x028 + 8 * (b / 64 % 4)⟩

/-- Bit `b` of a die's half of the map is set or cleared (R407). -/
def State.setMap (s : State) (die b : Nat) (v : Bool) : State :=
  s.setReg die 0 (mapReg b) (setBits (s.reg die 0 (mapReg b)) (b % 64) (b % 64) (b2n v))

/-- Map bit of a physical core. -/
def coreBit (cluster core : Nat) : Nat := 17 * cluster + core
/-- Map bit of a replaced lamplighter. -/
def lampBit (cluster : Nat) : Nat := 136 + cluster
/-- Map bit of a degraded LPDDR5X channel. -/
def dramBit (cluster channel : Nat) : Nat := 144 + 8 * cluster + channel
/-- Map bit of a degraded NAND channel. -/
def nandBit (channel : Nat) : Nat := 208 + channel
/-- Map bit of a lane out of service. -/
def laneBit (lane : Nat) : Nat := 224 + lane
/-- Map bit of the spare lamplighter. -/
def spareLampBit : Nat := 248
/-- Map bit of the supervisor pair. -/
def supBit : Nat := 249

/-! ### Core faults (R408 to R412) -/

/-- SPARE of a cluster: 0 ready, 1 testing, 2 in service, 3 out of service. -/
def State.spare (s : State) (die cluster : Nat) : Nat := s.fld die cluster Fld.HL_CORE_SPARE

/-- A physical core is out of service. -/
def State.coreOut (s : State) (die cluster core : Nat) : Bool := s.fld die cluster Fld.HL_CORE_OUT / 2 ^ core % 2 == 1

/-- A physical core leaves service: OUT and the map. -/
def State.takeOut (s : State) (die cluster core : Nat) : State :=
  if s.coreOut die cluster core then s
  else (s.setFld die cluster Fld.HL_CORE_OUT (s.fld die cluster Fld.HL_CORE_OUT + 2 ^ core)).setMap die
    (coreBit cluster core) true

/-- The logical core that a physical core runs (R410). -/
def State.logicalOf (s : State) (die cluster core : Nat) : Nat :=
  if core = 16 then s.fld die cluster Fld.HL_CORE_FENCED_LOG else core

/-- Units in execution on a core are discarded and put back at the head of the queue (R409, items 1 and 2). -/
def State.rerun (s : State) (die cluster core : Nat) : State :=
  let n := s.coreLoad die cluster core
  let s := { s with attn := { s.attn with results := s.attn.results.map (fun (r : Result) =>
    if slotDie r.slot = die ∧ s.home r.slot = cluster then
      { r with units := r.units.map (fun (u : AttnUnit) =>
        if u.st == UnitState.running && u.core == core then { u with st := .queued, core := rerunCore } else u) }
    else r) } }
  s.bumpBy die 0 Fld.HL_COUNTS_RERUN n

/-- The T0 copies of a logical core are dropped (R409, item 3): those of the slots and shared pages assigned to it (R336). -/
def State.dropCopies (s : State) (die cluster core : Nat) : State :=
  s.kv.copies.foldl (fun s c =>
    if c.die = die ∧ c.cluster = cluster ∧ (match c.share with | some i => i % 16 | none => c.slot % 16) = core then
      ({ s with kv := { s.kv with copies := s.kv.copies.erase c } }).dealloc die 0 (s.sess c.slot).context c.granules
    else s) s

/-- Position and boundary count of a core's last passing known-answer test. -/
def State.katOf (s : State) (die cluster core : Nat) : Nat × Nat := (alGet (die, cluster, core) s.health.kat).getD (0, 0)

/-- A core fault (R408, R409, R412): the core is fenced, its units run again, its copies are dropped, and the spare is tested;
without a ready spare the fault is not covered. -/
def State.coreFault (s : State) (die cluster core : Nat) : State :=
  if s.coreOut die cluster core ∨ 16 < core then s
  else
    let log := s.logicalOf die cluster core
    let spare := s.spare die cluster
    let unit := unitCode 1 die cluster core
    let s := (s.bump die 0 Fld.HL_COUNTS_FENCED).takeOut die cluster core
    if core = 16 ∧ spare ≠ 2 then
      let s := (s.setFld die cluster Fld.HL_CORE_SPARE 3).raise die 0x88 { alert := true, unit, a1 := (s.katOf die cluster core).1 }
      if spare = 1 then
        ({ s with health := { s.health with unmapped := (die, cluster, log) :: s.health.unmapped
                                            spareOk := s.health.spareOk.erase (die, cluster) } }.raise die 0x8A
          { alert := true, unit }).pump die cluster
      else s
    else
      let s := (s.rerun die cluster log).dropCopies die cluster log
      let s := (s.setFld die cluster Fld.HL_CORE_FENCED 1).setFld die cluster Fld.HL_CORE_FENCED_LOG log
      let s := s.raise die 0x88 { alert := true, unit, a1 := (s.katOf die cluster core).1 }
      let s :=
        if spare = 0 then s.setFld die cluster Fld.HL_CORE_SPARE 1
        else { s with health := { s.health with unmapped := (die, cluster, log) :: s.health.unmapped } }.raise die 0x8B
          { alert := true, unit }
      s.pump die cluster

/-- A logical core is remapped to the spare (R410). -/
def State.remap (s : State) (die cluster : Nat) : State :=
  let s := { s with health := { s.health with spareOk := s.health.spareOk.erase (die, cluster) } }
  let s := (s.setFld die cluster Fld.HL_CORE_SPARE 2).setFld die cluster Fld.HL_CORE_FENCED 0
  (s.raise die 0x89 { unit := unitCode 1 die cluster 16 }).pump die cluster

/-- Every remap that waits takes place: at S:0:0 (R410). -/
def State.remapAll (s : State) : State := s.health.spareOk.foldl (fun s p => s.remap p.1 p.2) s

/-- While no trigger fires a remap takes place once no unit of the cluster is in execution (R410). -/
def State.remapIdle (s : State) : State :=
  if s.fires then s
  else s.health.spareOk.foldl (fun s p =>
    if s.attn.results.any (fun r => slotDie r.slot == p.1 && s.home r.slot == p.2 && r.units.any (fun u => u.st == .running))
    then s else s.remap p.1 p.2) s

/-- CORE_KAT (R408): the background test of a core, every KAT_STEPS boundaries; a failed one is a core fault. -/
def execCoreKat (t die cluster core : Nat) (pass : Bool) (s : State) : Res :=
  .next (if s.running && s.fld die 0 Fld.HL_CTRL_KAT_STEPS != 0 && decide (core ≤ 16) && !s.coreOut die cluster core
      && decide ((s.katOf die cluster core).2 + s.fld die 0 Fld.HL_CTRL_KAT_STEPS ≤ s.boundary) then
    let s := s.tick t
    let rec_ : Nat × Nat := (if pass then s.pos else (s.katOf die cluster core).1, s.boundary)
    let s := { s with health := { s.health with kat := alSet (die, cluster, core) rec_ s.health.kat } }
    if pass then s else s.coreFault die cluster core
  else s)

/-- UNIT_OVERRUN (R408): a unit 1,024 cycles past its count is a core fault. -/
def execUnitOverrun (t die cluster core : Nat) (s : State) : Res :=
  .next (if s.running then (s.tick t).coreFault die cluster core else s)

/-- CORE_FAULT (R408, R409): another core fault of R408. -/
def execCoreFault (t die cluster core : Nat) (s : State) : Res :=
  .next (if s.running then (s.tick t).coreFault die cluster core else s)

/-- SPARE_KAT_DONE (R410): the spare's test ends. -/
def State.spareDone (s : State) (die cluster : Nat) (pass : Bool) : State :=
  if s.spare die cluster ≠ 1 ∨ s.health.spareOk.contains (die, cluster) then s
  else if pass then
    { s with health := { s.health with spareOk := s.health.spareOk ++ [(die, cluster)] } }.remapIdle
  else
    let log := s.fld die cluster Fld.HL_CORE_FENCED_LOG
    let s := (s.setFld die cluster Fld.HL_CORE_SPARE 3).takeOut die cluster 16
    let s := { s with health := { s.health with unmapped := (die, cluster, log) :: s.health.unmapped } }
    (s.raise die 0x8A { alert := true, unit := unitCode 1 die cluster 16 }).pump die cluster

/-- SPARE_KAT_DONE (R410). -/
def execSpareKatDone (t die cluster : Nat) (pass : Bool) (s : State) : Res :=
  .next (if s.running then (s.tick t).spareDone die cluster pass else s)

/-- An SRAM word of a core could not be corrected (R218, R408): the second one of a step is a core fault. -/
def State.sramError (s : State) (die cluster core : Nat) : State :=
  if s.health.sramErrs.contains (die, cluster, core) then s.coreFault die cluster
    (if s.spare die cluster == 2 && core == s.fld die cluster Fld.HL_CORE_FENCED_LOG then 16 else core)
  else { s with health := { s.health with sramErrs := (die, cluster, core) :: s.health.sramErrs } }

/-! ### The operating point (R423, R463) -/

/-- A voltage request is made (R463). -/
def State.vreq (s : State) (q : VReq) : State :=
  let s := s.setFld 0 0 Fld.BD_VREQ_SEQ (s.fld 0 0 Fld.BD_VREQ_SEQ + 1)
  let s := (s.setFld 0 0 Fld.BD_VREQ_RAIL q.rail).setFld 0 0 Fld.BD_VREQ_MV q.mv
  (s.setFld 0 0 Fld.BD_VREQ_PENDING 1).ibi 0x02

/-- The voltage requests of a plan that rise: VDD_SRAM before VDD_CORE (R463). -/
def State.rises (s : State) (p : Plan) : List VReq :=
  (if s.fld 0 0 Fld.HL_PLAN_STATUS_VSRAM_MV < p.vsram then [⟨1, p.vsram, true⟩] else [])
    ++ (if s.fld 0 0 Fld.HL_PLAN_STATUS_VCORE_MV < p.vcore then [⟨0, p.vcore, true⟩] else [])

/-- Those that fall: VDD_CORE before VDD_SRAM (R463). -/
def State.falls (s : State) (p : Plan) : List VReq :=
  (if p.vcore < s.fld 0 0 Fld.HL_PLAN_STATUS_VCORE_MV then [⟨0, p.vcore, false⟩] else [])
    ++ (if p.vsram < s.fld 0 0 Fld.HL_PLAN_STATUS_VSRAM_MV then [⟨1, p.vsram, false⟩] else [])

/-- `s` with the plan in progress replaced. -/
def State.setPlan (s : State) (p : Option Plan) : State := { s with health := { s.health with plan := p } }

/-- The last step of a plan (R423): the refresh multiplier, and PLAN_APPLIED. -/
def State.endPlan (s : State) (p : Plan) : State :=
  ((s.setPlan none).setFld 0 0 Fld.HL_PLAN_STATUS_REFRESH p.refresh).raise 0 0x91 { a0 := p.point }

/-- The clock switch of a plan and the voltages that fall (R423, steps 2 and 3). -/
def State.clockPlan (s : State) (p : Plan) : State :=
  let s := s.setFld 0 0 Fld.HL_PLAN_STATUS_POINT p.point
  match s.falls p with
  | [] => s.endPlan p
  | q :: l => (s.setPlan (some { p with clocked := true, reqs := q :: l, since := s.now })).vreq q

/-- The next request of a plan, or its next step. -/
def State.nextReq (s : State) (p : Plan) (reqs : List VReq) : State :=
  match reqs with
  | q :: l => (s.setPlan (some { p with reqs := q :: l, since := s.now })).vreq q
  | [] => if p.clocked then s.endPlan p else s.clockPlan p

/-- A plan that waits is begun (R423): at S:0:0, or at once while the tracker does not run. One that is being applied is
finished first. -/
def State.beginPlan (s : State) : State :=
  match s.health.plan, s.health.nextPlan with
  | none, some p =>
    let s := { s with health := { s.health with nextPlan := none } }.setFld 0 0 Fld.HL_PLAN_STATUS_PENDING 0
    s.nextReq p (s.rises p)
  | _, _ => s

/-- A plan lies inside the envelope (R422, R423). -/
def State.planOk (s : State) (v : Word) : Bool :=
  match s.start.img.envelope.points[getBits v 42 40]? with
  | none => false
  | some p => decide (getBits v 44 43 ≤ s.start.img.envelope.refreshMax)
      && decide (p.vcoreMin ≤ getBits v 15 0) && decide (getBits v 15 0 ≤ p.vcoreMax)
      && decide (p.vsramMin ≤ getBits v 31 16) && decide (getBits v 31 16 ≤ p.vsramMax)

/-- An accepted plan (R423). -/
def State.acceptPlan (s : State) (v : Word) : State :=
  let p : Plan := { point := getBits v 42 40, refresh := getBits v 44 43, vcore := getBits v 15 0, vsram := getBits v 31 16,
                    clocked := false, reqs := [], since := s.now }
  let s := { s with health := { s.health with nextPlan := some p } }.setFld 0 0 Fld.HL_PLAN_STATUS_PENDING 1
  if s.fires then s else s.beginPlan

/-- The board controller acknowledges a request (R463). -/
def State.vack (s : State) (v : Word) : State :=
  match s.health.plan with
  | some p =>
    match p.reqs with
    | q :: l =>
      if s.fld 0 0 Fld.BD_VREQ_PENDING = 1 ∧ getBits v 55 48 = s.fld 0 0 Fld.BD_VREQ_SEQ ∧ getBits v 15 0 = q.mv then
        let s := s.setFld 0 0 Fld.BD_VREQ_PENDING 0
        let s := if q.rail = 0 then s.setFld 0 0 Fld.HL_PLAN_STATUS_VCORE_MV q.mv else s.setFld 0 0 Fld.HL_PLAN_STATUS_VSRAM_MV q.mv
        s.nextReq p l
      else s
    | [] => s
  | none => s

/-- A request gets no acknowledgement within 2 ms (R463). -/
def State.vreqLost (s : State) : State :=
  match s.health.plan with
  | some p =>
    match p.reqs with
    | q :: l =>
      if s.fld 0 0 Fld.BD_VREQ_PENDING = 1 ∧ p.since + 2000000 ≤ s.now then
        let s := (s.setFld 0 0 Fld.BD_VREQ_PENDING 0).raise 0 0xA2 { alert := true, a0 := q.rail, a1 := q.mv }
        if q.rise then s.setPlan none else s.nextReq p l
      else s
    | [] => s
  | none => s

/-- VREQ_TIMEOUT (R463). -/
def execVreqTimeout (t : Nat) (s : State) : Res := .next (if s.running then (s.tick t).vreqLost else s)

/-! ### Ageing (R421, R424) -/

/-- ENVELOPE_EXCEEDED (R424). -/
def State.exceeded (s : State) (die unit value limit : Nat) : State :=
  s.raise die 0x90 { alert := true, unit, a0 := value, a1 := limit }

/-- A measurement enters HL_MON (R426). -/
def State.setMon (s : State) (die type index a b : Nat) : State :=
  s.setReg die (64 * type + index) Reg.HL_MON (BitVec.ofNat 64 (a % 2 ^ 32 * 2 ^ 32 + b % 2 ^ 32))

/-- A monitor pair is measured (R421, R424). -/
def State.measure (s : State) (die pair drift refCount : Nat) : State :=
  let unit := unitCode 10 die 0 pair
  let warn := s.fld die 0 Fld.HL_AGE_CFG_WARN_PPM
  let limit := s.start.img.envelope.ageLimitPpm
  let s := s.setMon die 0 pair drift refCount
  let was := s.health.aged.contains (die, pair)
  let s :=
    if decide (warn < drift) && !was then
      { s with health := { s.health with aged := (die, pair) :: s.health.aged } }.raise die 0x8F { unit, a0 := drift }
    else if decide (drift ≤ warn) && was then
      { s with health := { s.health with aged := s.health.aged.erase (die, pair) } }
    else s
  if limit < drift then s.exceeded die unit drift limit else s

/-- AGE_MEASURE (R421, R424). -/
def execAgeMeasure (t die pair drift refCount : Nat) (s : State) : Res :=
  .next (if s.running then (s.tick t).measure die (pair % 64) drift refCount else s)

/-- A lane eye is measured (R421, R424): height and width against their limits. -/
def State.eye (s : State) (lane height width : Nat) : State :=
  let die := if lane < 24 then 0 else 1
  let e := s.start.img.envelope
  let unit := unitCode 6 die 0 lane
  let s := s.setMon die 1 (lane % 24) height width
  let s := if height < e.eyeMinMv then s.exceeded die unit height e.eyeMinMv else s
  if width < e.eyeMinMui then s.exceeded die unit width e.eyeMinMui else s

/-- LANE_EYE_MEASURE (R421, R424). -/
def execLaneEyeMeasure (t lane height width : Nat) (s : State) : Res :=
  .next (if s.running then (s.tick t).eye (lane % 48) height width else s)

/-- D2D_LINK_FAULT (R404): bit errors are retried, which only takes time; a failed lane is repaired and recorded. The spec names
no event for it. -/
def execD2dLinkFault (t : Nat) (laneFailed : Bool) (lane : Nat) (s : State) : Res :=
  .next (if s.running then
    let s := s.tick t
    if laneFailed && !s.health.d2d.contains lane then { s with health := { s.health with d2d := lane :: s.health.d2d } } else s
  else s)

end Sys2Proof.Machine
end

