-- ==== Sys2Proof/Machine/Sessions.lean ====
section
/-! DEFINITION. The session messages (spec/02): SESSION_OPEN, SESSION_CLOSE, HANDOVER, LEASE_RENEW, PARK, WAKE; lease
expiry and the HELD list. -/

namespace Sys2Proof.Machine

/-! ### Shared parts -/

/-- An accepted request leaves LAST_POS, and renews the lease when it comes from the holder (R38, R46). -/
def State.accepted (s : State) (slot : Nat) (renew : Bool) : State :=
  let r := s.sess slot
  s.setSess slot { r with lastPos := s.pos
                          leaseEnd := if renew then s.boundary + r.leaseLen else r.leaseEnd }

/-- The session enters the list SES_HELD_NEXT reads (R52, R53). -/
def State.addHeld (s : State) (slot : Nat) : State :=
  if slotDie slot = 0 then { s with ses := { s.ses with held0 := s.ses.held0 ++ [slot] } }
  else { s with ses := { s.ses with held1 := s.ses.held1 ++ [slot] } }

/-- An event about a session (R63): the handle is ARG0 (R418). -/
def State.sesEvent (s : State) (slot sub : Nat) (alert : Bool) (a1 a2 a3 : Nat) : State :=
  let r := s.sess slot
  s.raise (slotDie slot) sub { alert, ctx := some r.context, a0 := r.handle slot, a1, a2, a3 }

/-- OWNER_CHANGE goes to the subscribers and to the new holder (R63). -/
def State.ownerChange (s : State) (slot : Nat) : State :=
  let r := s.sess slot
  let a : EvtArgs := { ctx := some r.context, a0 := r.handle slot, a1 := r.owner, a2 := r.epoch }
  let rec_ := s.evtRec (slotDie slot) 0x10 a
  let s' := s.raise (slotDie slot) 0x10 a
  if (s.subscribers (some r.context)).any (fun x => x.ep == r.owner) then s'
  else s'.eventFrame ⟨some r.context, r.owner⟩ rec_

/-- The lease length a request asks for (R43). -/
def State.leaseOf (s : State) (steps : Nat) : Nat := if steps = 0 then s.fld 0 0 Fld.SES_LEASE_LEASE_DEFAULT else steps

/-- LEASE_STEPS is in range (R43). -/
def State.leaseOk (s : State) (steps : Nat) : Bool := decide (steps ≤ s.fld 0 0 Fld.SES_LEASE_LEASE_MAX)

/-- NEW_OWNER or HOLDER may hold a session of a context (R49, code 0x11). -/
def State.holderOk (s : State) (ctx ep : Nat) : Bool := s.listed ctx ep && (s.role ep == 1 || s.role ep == 2)

/-- The promotion and prefetch triggers of a session are cancelled (R51). -/
def State.cancelTrigs (s : State) (slot : Nat) : State :=
  ({ s with tier := { s.tier with trigs := s.tier.trigs.filter (fun (x : Trig) => x.slot != slot) } }).promotingTest slot

/-- A page key enters a list in ascending VUN. -/
def insertKey (k : PageKey) : List PageKey → List PageKey
  | [] => [k]
  | x :: l => if x.vun < k.vun then x :: insertKey k l else k :: x :: l

/-- The units a PARK with DEPTH = 1 queues (R43, R81, R201): the staging area, then the session's pages in T1 in ascending
VUN. -/
def State.coldUnits (s : State) (slot : Nat) : List UnitRef :=
  let pages := (s.kv.leaves.filter (fun p => p.1.slot == slot && decide (s.pageTier p.1 p.2 ≤ 1))).map (·.1)
  (if (s.staging slot).isSome then [UnitRef.staging slot] else [])
    ++ ((pages.foldl (fun l k => insertKey k l) []).map s.pageUnit).eraseDups

/-- Cold demotion of a session is queued. -/
def State.queueCold (s : State) (slot : Nat) : State :=
  let have_ := (s.tier.cold.filter (fun c => c.slot == slot)).map (·.unit)
  let new := (s.coldUnits slot).filter (fun u => !have_.contains u)
  { s with tier := { s.tier with cold := s.tier.cold ++ new.map (fun u => ⟨slotDie slot, slot, u⟩) } }

/-- A change of OWNER would reach the top epoch (R44). -/
def topEpoch (r : Session) : Bool := decide (0xFFFFFFFF ≤ r.epoch + 1)

/-- The answer to an accepted session message: the record as it stands (R43). -/
def State.sesDone (s : State) (e : Env) (type slot : Nat) : State := s.answer e type St.done 0 (s.recBody slot 0)

/-- The cell of R48 for a message that the holder and a SCHEDULER may send. -/
def cellHS (s : State) (e : Env) (r : Session) : Option Nat :=
  if s.role e.ep = 3 ∨ r.owner = e.ep then none else some St.notOwner

/-- The cell of R48 for a message that only a SCHEDULER may send. -/
def cellS (s : State) (e : Env) : Option Nat := if s.role e.ep = 3 then none else some St.denied

/-! ### SESSION_OPEN (R43, R48 to R50, R55, R56, R335) -/

/-- The entry of the repeat memory that a SESSION_OPEN repeats (R56): of the last 64 of its sender, within 1,024
boundaries. -/
def State.openRepeat (s : State) (e : Env) (m : OpenMsg) : Option OpenMem :=
  ((s.ses.opens.filter (fun o => o.ep == e.ep)).take 64).find? (fun o =>
    o.tag == m.reqTag && decide (s.boundary ≤ o.boundary + 1024))

/-- A slot can be allocated (R55). -/
def State.slotFree (s : State) (slot : Nat) : Bool := (s.sess slot).st == .free && !(s.sess slot).scrubPending

/-- The lowest free slot of a die (R55). At most as many slots are taken as there are records, so one more number than
records decides. -/
def State.lowestSlot (s : State) (die : Nat) : Option Nat :=
  (List.range (s.ses.recs.length + 1)).find? (fun i => decide (i < Config.slotsPerDie) && s.slotFree (die * Config.slotsPerDie + i))
  |>.map (fun i => die * Config.slotsPerDie + i)

/-- The die a SESSION_OPEN goes to (R43, R335). -/
def State.openDie (s : State) (m : OpenMsg) : Nat :=
  if m.die = 0xFF then s.fld 0 (m.context % 4096) Fld.LP_CTX_PLACE_DIE else m.die

/-- Sessions of a context whose home is a cluster. -/
def State.clusterSessions (s : State) (die cluster ctx : Nat) : Nat :=
  (s.ses.home.filter (fun p => p.2 == cluster && slotDie p.1 == die
    && (s.sess p.1).st != .free && (s.sess p.1).context == ctx)).length

/-- A cluster's unit queue is empty (R335). -/
def State.unitQueueEmpty (s : State) (die cluster : Nat) : Bool :=
  !s.attn.results.any (fun r => slotDie r.slot == die && s.home r.slot == cluster && r.units.any (fun u =>
    match u.st with | .queued | .waiting _ | .grouped => true | .running | .done => false))

/-- The home cluster of a new session (R335). -/
def State.placeHome (s : State) (die ctx : Nat) : Nat :=
  let mask := s.fld die ctx Fld.LP_CTX_PLACE_CLUSTER_MASK
  let clusters := (List.range 8).filter (fun c => mask == 0 || mask / 2 ^ c % 2 == 1)
  if s.privCtx die ctx then
    ((clusters.find? (fun c => s.unitQueueEmpty die c)).getD (clusters.headD 0))
  else
    clusters.foldl (fun b c => if s.clusterSessions die c ctx < s.clusterSessions die b ctx then c else b) (clusters.headD 0)

/-- Step 2 of R50 for a SESSION_OPEN that is no repeat: opens are on, and some slot is free. -/
def State.openReady (s : State) : Bool :=
  s.fld 0 0 Fld.SES_CTRL_OPEN_ENABLE == 1 && ((s.lowestSlot 0).isSome || (s.lowestSlot 1).isSome)

/-- Step 6 of R50 for a SESSION_OPEN (R48). -/
def openRoleOk (role initial : Nat) : Bool :=
  if role = 4 then false
  else if initial = 0 then role == 1 || role == 3
  else if initial = 1 then role == 2 || role == 3
  else true

/-- Step 7 of R50 for a SESSION_OPEN (R43, R49): the reason of a BAD_FRAME. -/
def State.openFields (s : State) (e : Env) (m : OpenMsg) : Option Nat :=
  let ctx := m.context % 4096
  if decide (4096 ≤ m.context) || decide (1 < m.initial) || !(m.die == 0 || m.die == 1 || m.die == 255) || m.zero != 0
      || !s.leaseOk m.leaseSteps
      || (s.normal && !(m.window % 16 == 0 && decide (256 ≤ m.window) && decide (m.window ≤ 65536))) then some 0x10
  else if !s.holderOk ctx m.holder || s.role m.holder != m.initial + 1
      || ((s.role e.ep == 1 || s.role e.ep == 2) && m.holder != e.ep) then some 0x11
  else none

/-- Step 8 of R50 for a SESSION_OPEN (R55, R76, R164). -/
def State.openAlloc (s : State) (m : OpenMsg) : Option Nat :=
  let ctx := m.context % 4096
  let die := s.openDie m
  let g := s.stagingGranules + areaGranules
  if s.fld die ctx Fld.CTX_STATE_SESS_MAX ≤ s.fld die ctx Fld.CTX_STATE_SESS_USE then some St.overQuota
  else if !s.quotaOk die ctx 1 g then some St.overQuota
  else if (s.lowestSlot die).isNone || !s.poolOk die 1 g then some St.busyRetry
  else none

/-- The order of R50 for a SESSION_OPEN that is no repeat. -/
def State.openCheck (s : State) (e : Env) (m : OpenMsg) : Option Refuse :=
  if !s.openReady then some ⟨St.busyRetry, 0, 0⟩
  else if !s.senderOk e (m.context % 4096) then some ⟨St.denied, 0, 0⟩
  else if !openRoleOk (s.role e.ep) m.initial then some ⟨St.denied, 0, 0⟩
  else match s.openFields e m with
    | some rs => some ⟨St.badFrame, rs, 0⟩
    | none => match s.openAlloc m with | some st => some ⟨st, 0, 0⟩ | none => none

/-- The record of a new session (R47, R55). -/
def State.openRecord (s : State) (m : OpenMsg) (slot : Nat) : Session :=
  let len := s.leaseOf m.leaseSteps
  { Session.fresh with
    node := s.fld 0 0 Fld.SES_CTRL_NODE_ID, gen := (s.sess slot).gen
    st := if m.initial = 0 then .filling else .owned
    context := m.context % 4096, owner := m.holder, lastBy := m.holder, epoch := 1, leaseLen := len
    leaseEnd := s.boundary + len, window := m.window, dense := !s.normal, vbase := vbaseOf slot
    openStep := s.step, lastPos := s.pos, reqTag := m.reqTag, seed := m.seed }

/-- A SESSION_OPEN is carried out on a slot (R55, R76, R164, R335). -/
def State.openApply (s : State) (e : Env) (m : OpenMsg) (slot : Nat) : State :=
  let ctx := m.context % 4096
  let die := slotDie slot
  let home := s.placeHome die ctx
  let s := if s.privCtx die ctx then s.bump die 0 Fld.RP_CHOICES0_PLACE else s
  let r := { s.openRecord m slot with lastBy := e.ep }
  let s := s.setSess slot r
  let s := { s with ses := { s.ses with
    home := alSet slot home s.ses.home
    opens := ⟨e.ep, m.reqTag, slot, r.gen, r.node, s.boundary⟩ :: s.ses.opens } }
  let s := s.bump die ctx Fld.CTX_STATE_SESS_USE
  let s := s.alloc die 1 ctx (s.stagingGranules + areaGranules)
  let s := (s.putStaging slot s.newStaging).nextFree
  (s.putArea slot (s.newArea (s.fld die ctx Fld.FIN_CTX_PEN_WINDOW))).nextFree

/-- The body of a repeated SESSION_OPEN (R56). -/
def State.repeatBody (s : State) (o : OpenMem) : List Byte :=
  let r := s.sess o.slot
  if r.gen = o.gen ∧ r.st ≠ .free then s.recBody o.slot 0
  else sesBody (o.node * 2 ^ 48 + o.gen * 2 ^ 24 + o.slot) 0 0 0 0 0 0

/-- SESSION_OPEN after its tracker entry (R50, R55, R56). -/
def State.openBody (s : State) (e : Env) (m : OpenMsg) : State :=
  match s.openRepeat e m with
  | some o => (s.bump (slotDie o.slot) 0 Fld.SES_OUTCOME1_REPLAY).answer e 0x01 St.replay 0 (s.repeatBody o)
  | none =>
    match s.openCheck e m with
    | some x => ((s.countOutcome (portDie e.port) x.status).noteMismatch e (m.context % 4096) x.status).answer e 0x01 x.status x.reason (zeros 24)
    | none =>
      match s.lowestSlot (s.openDie m) with
      | some slot => (s.openApply e m slot).sesDone e 0x01 slot
      | none => s

/-- SESSION_OPEN (R43, R47, R50, R55, R56). -/
def execSessionOpen (e : Env) (m : OpenMsg) (s : State) : Res :=
  .next (s.message e (.sessionOpen e m) 0x01 none (zeros 24) (fun s => s.openBody e m))

/-! ### Messages on a session -/

/-- A session message with a handle: R50 as `check` says, then `apply`. -/
def State.sesMessage (s : State) (e : Env) (c : Instr) (type : Nat) (m : SesMsg) (check : State → Option Refuse)
    (apply : State → State) : State :=
  s.message e c type (some (handleSlot m.handle)) (zeros 24) (fun s =>
    match check s with
    | some x => (if x.status = St.replay then s.bump (slotDie (handleSlot m.handle)) 0 Fld.SES_OUTCOME1_REPLAY else s).sesRefuse
        e type m.handle x
    | none => apply s)

/-- HANDOVER or WAKE repeats the last change (R56). -/
def repeatChange (e : Env) (m : SesMsg) (r : Session) : Bool :=
  r.epoch == m.epoch + 1 && r.lastBy == e.ep && r.owner == m.newOwner

/-! ### HANDOVER (R47, R48, R51, R53) -/

/-- The cell of R48 for HANDOVER. -/
def handoverCell (s : State) (e : Env) (m : SesMsg) (r : Session) : Option Nat :=
  if m.newOwner = 0 then (if r.st = .held then some St.denied else cellS s e)
  else match r.st with
    | .filling | .owned => cellHS s e r
    | .held => cellS s e
    | .parked | .dormant | .free => some St.denied

/-- HANDOVER is checked (R43, R44, R49, R50). -/
def State.handoverCheck (s : State) (e : Env) (m : SesMsg) : Option Refuse :=
  let r := s.sess (handleSlot m.handle)
  match s.r50 e m.handle m.epoch 0x10 false (repeatChange e m) (handoverCell s e m) with
  | some x => some x
  | none =>
    if m.depth ≠ 0 ∨ m.zero ≠ 0 ∨ m.firstPos ≠ 0 ∨ s.leaseOk m.leaseSteps = false then some ⟨St.badFrame, 0x10, 0⟩
    else if m.newOwner ≠ 0 ∧ s.holderOk r.context m.newOwner = false then some ⟨St.badFrame, 0x11, 0⟩
    else if r.st = .owned ∧ m.newOwner ≠ 0 ∧ s.role m.newOwner = 1 then some ⟨St.denied, 0, 0⟩
    else if m.newOwner ≠ 0 ∧ topEpoch r then some ⟨St.limit, 0, 0⟩
    else none

/-- A session is frozen (R53). -/
def State.freeze (s : State) (e : Env) (slot : Nat) : State :=
  let r := s.sess slot
  let s := s.setSess slot { r with st := .held, heldReason := 3, epoch := r.epoch + 1, lastBy := e.ep, lastPos := s.pos }
  ((s.endEpoch slot).addHeld slot).sesEvent slot 0x12 false r.owner (r.epoch + 1) 3

/-- A session gets a new holder (R47, R51). -/
def State.handTo (s : State) (e : Env) (slot newOwner leaseSteps : Nat) : State :=
  let r := s.sess slot
  let len := s.leaseOf leaseSteps
  let s := s.setSess slot { r with
    st := if s.role newOwner = 1 then .filling else .owned
    heldReason := 0, owner := newOwner, epoch := r.epoch + 1, lastBy := e.ep, leaseLen := len
    leaseEnd := s.boundary + len, lastPos := s.pos }
  let s := s.endEpoch slot
  let s := if r.st = .held then s.sesEvent slot 0x13 false 0 0 0 else s
  if r.owner ≠ newOwner then s.ownerChange slot else s

/-- HANDOVER is carried out. -/
def State.handoverApply (s : State) (e : Env) (m : SesMsg) : State :=
  let slot := handleSlot m.handle
  (if m.newOwner = 0 then s.freeze e slot else s.handTo e slot m.newOwner m.leaseSteps).sesDone e 0x04 slot

/-- HANDOVER (R43, R47, R50, R51, R53, R56). -/
def execHandover (e : Env) (m : SesMsg) (s : State) : Res :=
  .next (s.sesMessage e (.handover e m) 0x04 m (fun s => s.handoverCheck e m) (fun s => s.handoverApply e m))

/-! ### LEASE_RENEW (R43, R46) -/

/-- LEASE_RENEW is checked. -/
def State.renewCheck (s : State) (e : Env) (m : SesMsg) : Option Refuse :=
  match s.r50 e m.handle m.epoch 0x10 false (fun _ => false) (s.holderCell e true) with
  | some x => some x
  | none =>
    if m.newOwner ≠ 0 ∨ m.depth ≠ 0 ∨ m.zero ≠ 0 ∨ m.firstPos ≠ 0 ∨ s.leaseOk m.leaseSteps = false
    then some ⟨St.badFrame, 0x10, 0⟩ else none

/-- LEASE_RENEW is carried out. -/
def State.renewApply (s : State) (e : Env) (m : SesMsg) : State :=
  let slot := handleSlot m.handle
  let r := s.sess slot
  let s := s.setSess slot { r with leaseLen := if m.leaseSteps = 0 then r.leaseLen else m.leaseSteps }
  (s.accepted slot true).sesDone e 0x05 slot

/-- LEASE_RENEW (R43, R46, R50). -/
def execLeaseRenew (e : Env) (m : SesMsg) (s : State) : Res :=
  .next (s.sesMessage e (.leaseRenew e m) 0x05 m (fun s => s.renewCheck e m) (fun s => s.renewApply e m))

/-! ### PARK (R43, R47, R51) -/

/-- The cell of R48 for PARK. -/
def parkCell (s : State) (e : Env) (r : Session) : Option Nat :=
  match r.st with
  | .filling | .owned => cellHS s e r
  | .parked | .dormant | .held => cellS s e
  | .free => some St.denied

/-- PARK is checked (R43, R44, R50). -/
def State.parkCheck (s : State) (e : Env) (m : SesMsg) : Option Refuse :=
  let r := s.sess (handleSlot m.handle)
  match s.r50 e m.handle m.epoch 0x10 false (fun _ => false) (parkCell s e) with
  | some x => some x
  | none =>
    if m.newOwner ≠ 0 ∨ 1 < m.depth ∨ m.zero ≠ 0 ∨ m.leaseSteps ≠ 0 ∨ m.firstPos ≠ 0 then some ⟨St.badFrame, 0x10, 0⟩
    else if (r.st = .filling ∨ r.st = .owned ∨ r.st = .held) ∧ topEpoch r then some ⟨St.limit, 0, 0⟩
    else none

/-- PARK is carried out. -/
def State.parkApply (s : State) (e : Env) (m : SesMsg) : State :=
  let slot := handleSlot m.handle
  let r := s.sess slot
  let s :=
    if r.st = .parked ∨ r.st = .dormant then s.setSess slot { r with lastPos := s.pos }
    else
      let t := s.setSess slot { r with st := .parked, heldReason := 0, owner := 0, epoch := r.epoch + 1, lastBy := e.ep,
                                       lastPos := s.pos }
      let t := (t.endEpoch slot).cancelTrigs slot
      if r.st = .held then t.sesEvent slot 0x13 false 0 0 0 else t
  let s := if m.depth = 1 then s.queueCold slot else s
  (s.dormantTest slot).sesDone e 0x0A slot

/-- PARK (R43, R47, R50, R51, R81). -/
def execPark (e : Env) (m : SesMsg) (s : State) : Res :=
  .next (s.sesMessage e (.park e m) 0x0A m (fun s => s.parkCheck e m) (fun s => s.parkApply e m))

/-! ### WAKE (R43, R47, R51, R205, R245) -/

/-- The cell of R48 for WAKE: W is a DECODE endpoint that names itself. -/
def wakeCell (s : State) (e : Env) (m : SesMsg) (r : Session) : Option Nat :=
  match r.st with
  | .parked | .dormant =>
    if s.role e.ep = 3 ∨ (s.role e.ep = 2 ∧ m.newOwner = e.ep) then none else some St.denied
  | .filling | .owned | .held | .free => some St.denied

/-- WAKE is checked (R43, R44, R49, R50, R76). -/
def State.wakeCheck (s : State) (e : Env) (m : SesMsg) : Option Refuse :=
  let slot := handleSlot m.handle
  let r := s.sess slot
  let g := s.stagingGranules + areaGranules
  match s.r50 e m.handle m.epoch 0x10 false (repeatChange e m) (wakeCell s e m) with
  | some x => some x
  | none =>
    if m.depth ≠ 0 ∨ m.zero ≠ 0 ∨ s.leaseOk m.leaseSteps = false ∨ s.layers ≤ m.firstPos / 256 % 256
    then some ⟨St.badFrame, 0x10, 0⟩
    else if s.holderOk r.context m.newOwner = false then some ⟨St.badFrame, 0x11, 0⟩
    else if s.role m.newOwner = 1 then some ⟨St.denied, 0, 0⟩
    else if (s.staging slot).isNone && !s.quotaOk (slotDie slot) r.context 1 g then some ⟨St.overQuota, 0, 0⟩
    else if (s.staging slot).isNone && !s.poolOk (slotDie slot) 1 g then some ⟨St.busyRetry, 0, 0⟩
    else if topEpoch r then some ⟨St.limit, 0, 0⟩
    else none

/-- WAKE is carried out: new holder, PROMOTING, queued cold demotions cancelled, the restore of a parked image begun, and
promotions scheduled. -/
def State.wakeApply (s : State) (e : Env) (m : SesMsg) : State :=
  let slot := handleSlot m.handle
  let r := s.sess slot
  let die := slotDie slot
  let len := s.leaseOf m.leaseSteps
  let s := s.setSess slot { r with st := .owned, owner := m.newOwner, epoch := r.epoch + 1, lastBy := e.ep, leaseLen := len,
                                   leaseEnd := s.boundary + len, promoting := true, lastPos := s.pos }
  let s := s.endEpoch slot
  let s := { s with tier := { s.tier with cold := s.tier.cold.filter (fun (c : Cold) => c.slot != slot) } }
  let s := if (alGet slot s.kv.images).isSome && !s.tier.restores.contains slot then
      let s := { s with tier := { s.tier with restores := slot :: s.tier.restores } }
      s.alloc die 1 r.context (s.stagingGranules + areaGranules)
    else s
  let s := ((s.scheduleWake slot m.firstPos).promotingTest slot).ownerChange slot
  s.sesDone e 0x0B slot

/-- WAKE (R43, R47, R50, R51, R56, R205, R245). -/
def execWake (e : Env) (m : SesMsg) (s : State) : Res :=
  .next (s.sesMessage e (.wake e m) 0x0B m (fun s => s.wakeCheck e m) (fun s => s.wakeApply e m))

/-! ### SESSION_CLOSE (R37, R43, R57, R159, R340) -/

/-- SESSION_CLOSE is checked (R43, R50). A scheduler closes a slot whose record fails its CRC (R41). -/
def State.closeCheck (s : State) (e : Env) (m : SesMsg) : Option Refuse :=
  match s.r50 e m.handle m.epoch 0x10 true (fun _ => false) (parkCell s e) with
  | some x => some x
  | none =>
    if m.newOwner ≠ 0 ∨ m.depth ≠ 0 ∨ m.zero ≠ 0 ∨ m.leaseSteps ≠ 0 ∨ m.firstPos ≠ 0 then some ⟨St.badFrame, 0x10, 0⟩
    else none

/-- One reference to an automaton is dropped (R186). -/
def State.unrefGram (s : State) (die id : Nat) : State :=
  match alGet (die, id) s.grams with
  | none => s
  | some g => { s with grams := alSet (die, id) { g with refs := g.refs - 1 } s.grams }

/-- The next generation of a slot (R37). -/
def nextGen (g : Nat) : Nat := if g + 1 < 2 ^ 24 then g + 1 else 1

/-- The ranges of a closed session's scrub job (R340): staging area, finishing area, and T0 copies as one range, whose place in
SRAM is a free value (log 6). -/
def State.closeRanges (s : State) (slot : Nat) : List Range :=
  (match s.staging slot with | some g => [⟨true, s.stagingGranules * 128, g.loc * 128⟩] | none => [])
    ++ (match s.area slot with | some a => [⟨true, areaGranules * 128, a.loc * 128⟩] | none => [])
    ++ (match ((s.kv.copies.filter (fun c => c.slot == slot && c.share.isNone)).map (·.granules)).foldl (· + ·) 0 with
        | 0 => []
        | n => [⟨false, n * 128, s.freeVal % 2 ^ 34 * 64⟩])

/-- Background work on a closed session is dropped: triggers, queued promotions and demotions, a pending restore, and its
parked image. -/
def State.dropWork (s : State) (slot : Nat) : State :=
  let ctx := (s.sess slot).context
  let mine : UnitRef → Bool := fun u => match u with
    | .page sl _ _ => sl == slot | .staging sl => sl == slot | .shared _ _ => false
  let pending := s.tier.restores.contains slot
  let s := { s with tier := { s.tier with
    trigs := s.tier.trigs.filter (fun (x : Trig) => x.slot != slot)
    cold := s.tier.cold.filter (fun (c : Cold) => c.slot != slot)
    promos := s.tier.promos.filter (fun (p : Promo) => !mine p.unit)
    restores := s.tier.restores.filter (fun x => x != slot) } }
  let s := if pending then s.dealloc (slotDie slot) 1 ctx (s.stagingGranules + areaGranules) else s
  match alGet slot s.kv.images with
  | none => s
  | some i =>
    let s := { s with kv := { s.kv with images := alErase slot s.kv.images } }
    let s := s.dealloc (slotDie slot) i.tier ctx i.granules
    if i.tier = 2 then s.releaseT2 (slotDie slot) i.loc else s

/-- The session ends (R47, R57): the record of the time until the scrub passes. -/
def State.closeRecord (s : State) (slot : Nat) : State :=
  let r := s.sess slot
  let wrap := decide (2 ^ 24 ≤ r.gen + 1)
  let s := s.setSess slot { r with gen := nextGen r.gen, st := .free, heldReason := 0, owner := 0, leaseEnd := 0,
                                   scrubPending := true, lastPos := s.pos, crcBad := false,
                                   fin := { r.fin with hold := [] } }
  if wrap then (s.bump (slotDie slot) 0 Fld.SES_OUTCOME1_GEN_WRAP).raise (slotDie slot) 0x18
    { ctx := some r.context, a0 := r.handle slot } else s

/-- SESSION_CLOSE is carried out (R57). -/
def State.closeApply (s : State) (e : Env) (m : SesMsg) : State :=
  let slot := handleSlot m.handle
  let r := s.sess slot
  let die := slotDie slot
  let held := r.st == .held
  let s := s.dropResults slot (fun _ => true)
  let s := (s.pagesOf slot).foldl (fun s k => s.freePage k) s
  let s := s.dropWork slot
  let ranges := s.closeRanges slot
  let home := s.home slot
  let s := if r.fin.on then s.unrefGram die (r.fin.gram % 4096) else s
  let s := if held then s.sesEvent slot 0x13 false 0 0 0 else s
  let s := s.closeRecord slot
  let s := s.lower die r.context Fld.CTX_STATE_SESS_USE 1
  let s := { s with ses := { s.ses with home := alErase slot s.ses.home } }
  let s := s.nextFree.queueScrub die home false r.context slot ranges
  s.answer e 0x02 St.done 0 (sesBody (r.handle slot) r.epoch 0 0 0 0 0)

/-- SESSION_CLOSE (R37, R43, R47, R50, R57). -/
def execSessionClose (e : Env) (m : SesMsg) (s : State) : Res :=
  .next (s.sesMessage e (.sessionClose e m) 0x02 m (fun s => s.closeCheck e m) (fun s => s.closeApply e m))

/-! ### Lease expiry (R45 to R47, R52) -/

/-- A lease runs out: the session goes to HELD (R52). The top epoch is never passed (R44). -/
def State.expire (s : State) (slot : Nat) : State :=
  let r := s.sess slot
  let reason := if r.st = .filling then 2 else 1
  let epoch := min (r.epoch + 1) 0xFFFFFFFF
  let s := s.setSess slot { r with st := .held, heldReason := reason, epoch, lastBy := 0 }
  let s := ((s.endEpoch slot).addHeld slot).bump (slotDie slot) 0 Fld.SES_OUTCOME0_LEASE_EXPIRY
  s.sesEvent slot 0x11 true r.owner epoch reason

/-- A session's lease is due at a boundary count (R46): it runs in FILLING and OWNED only. -/
def State.leaseDue (s : State) (slot : Nat) : Bool :=
  (s.sess slot).st.leased && decide ((s.sess slot).leaseEnd ≤ s.boundary)

/-- Every lease that is due expires, in ascending slot (R46). -/
def State.expireAll (s : State) : State :=
  let due := (s.ses.recs.map (·.1)).filter (fun slot => s.leaseDue slot)
  (due.foldl (fun (l : List Nat) x => l.takeWhile (· < x) ++ [x] ++ l.dropWhile (· < x)) []).foldl (fun s x => s.expire x) s

/-- LEASE_EXPIRY (R46, R52): a lease that is due and that no bookkeeping has taken yet runs out. Bookkeeping fires only in
the states of R19. -/
def execLeaseExpiry (t slot : Nat) (s : State) : Res :=
  .next (if s.running && s.fires && s.leaseDue slot then (s.tick t).expire slot else s)

end Sys2Proof.Machine
end

