-- ==== Sys2Proof/Machine/Triggers.lean ====
section
/-! DEFINITION. What fires against position (R26 to R29, R146, R205, R299 to R305): gate edges, promotions, prefetches, the
step boundary, and the firing of everything due in the order of R27. -/

namespace Sys2Proof.Machine

/-! ### The chimney after a change -/

/-- Every free transmitter takes its next frame. -/
def State.pickAll (s : State) : State := (s.net.ports.map (·.1)).foldl (fun s p => s.pick p) s

/-- Every cluster's units meet its engines. -/
def State.pumpAll (s : State) : State :=
  (List.range 2).foldl (fun s d => ((List.range 8).foldl (fun s c => s.pump d c) s).runPromos d) s

/-! ### Gate edges (R299, R302, R303) -/

/-- A close finds a frame of a class it closes in transmission (R302): counted, and reported once per layer and port. -/
def State.overrun (s : State) (p : Nat) (was : List Nat) : State :=
  match (s.port p).sending with
  | none => s
  | some f =>
    if s.openWith p f.cls was && !s.openWith p f.cls (s.port p).opened then
      let d := portDie p
      let s := s.bump d p Fld.CH_COUNTS_OVERRUN
      if (s.port p).overrunLayer = some (s.est / 256) then s
      else (s.setPort p { s.port p with overrunLayer := some (s.est / 256) }).raise d 0x60
        { unit := unitCode 6 d 0 p, a0 := p }
    else s

/-- A gate entry opens for the layer that starts at `y * 256` (R299, R303). -/
def State.openGate (s : State) (p i y : Nat) : State :=
  let was := (s.port p).opened
  if was.contains i then s
  else
    let s := s.settle p
    let s := (s.setPort p { s.port p with opened := i :: was }).overrun p was
    if getBits (s.gate p i) 61 61 = 1 then s.carry p (y / s.layers) (y % s.layers) else s

/-- A gate entry closes for the layer that started at `y * 256` (R299, R302, R303). -/
def State.closeGate (s : State) (p i y : Nat) : State :=
  let was := (s.port p).opened
  if was.contains i then
    let s := s.settle p
    let s := (s.setPort p { s.port p with opened := was.filter (fun (x : Nat) => x != i) }).overrun p was
    if getBits (s.gate p i) 61 61 = 1 then (s.missClose p (y / s.layers) (y % s.layers)).countSplit p else s
  else s

/-- The next list of a port becomes active (R304): every entry of the old list closes, GATED and GATE_EN change with it. -/
def State.swapGates (s : State) (p : Nat) : State :=
  if (s.port p).swapAt then
    let d := portDie p
    let s := (s.port p).opened.foldl (fun s i => s.closeGate p i (s.est / 256 - 1)) s
    let s := (List.range 64).foldl (fun s i =>
      s.setReg d (p * 64 + i) Reg.CH_GATE_ACTIVE (s.reg d (p * 64 + i) Reg.CH_GATE_NEXT)) s
    let s := s.setFld d p Fld.CH_GATE_CTRL_GATE_EN (s.fld d p Fld.CH_GATE_CTRL_NEXT_GATE_EN)
    let s := s.setFld d p Fld.CH_GATE_CTRL_GATED (s.fld d p Fld.CH_GATE_CTRL_NEXT_GATED)
    let s := s.setFld d p Fld.CH_GATE_CTRL_PENDING 0
    (s.setPort p { s.port p with swapAt := false, opened := [] }).raise d 0x61 { a0 := p }
  else s

/-! ### The step boundary (R26, R28, R45, R418) -/

/-- The leads that come into force at a boundary (R28). -/
def State.newLeads (s : State) : State :=
  let f := fun (x : Field) => s.fld 0 0 x
  let lo := f Fld.BCN_INIT_LEAD_MIN_SP
  let hi := f Fld.BCN_INIT_LEAD_MAX_SP
  let locked := s.bcn.trk == .locked
  let m := s.bcn.minPeriod
  let pf := if locked then leadOf m (f Fld.BCN_FETCH_PF_FETCH_US) (f Fld.BCN_FETCH_PF_GUARD_US) lo hi else f Fld.BCN_INIT_LEAD_INIT_SP
  let pr := if locked then leadOf m (f Fld.BCN_FETCH_PROMO_FETCH_US) (f Fld.BCN_FETCH_PROMO_GUARD_US) lo hi
    else f Fld.BCN_INIT_PROMO_INIT_SP
  let s := (s.setFld 0 0 Fld.BCN_LEAD_LEAD_SP pf).setFld 0 0 Fld.BCN_LEAD_K (ceilDiv pf 256)
  (s.setFld 0 0 Fld.BCN_LEAD_PROMO_SP pr).setFld 0 0 Fld.BCN_LEAD_PROMO_K (ceilDiv pr 256)

/-- BCN_JITTER.MAX_DEV_NS (R18; log 11). -/
def Beacon.maxDev (b : Beacon) : Nat := b.devScaled / b.periods.length

/-- LEARNING turns LOCKED at a boundary when the window is full and steady (R20). -/
def State.lockTest (s : State) : State :=
  if s.bcn.trk = .learning ∧ 256 ≤ s.bcn.periods.length ∧ s.bcn.maxDev ≤ s.fld 0 0 Fld.BCN_LIMITS_JITTER_MAX_NS
  then { s with bcn := { s.bcn with trk := .locked } } else s

/-- The results of ended epochs that are still incomplete at the boundary after keep no retention but their first return
(R51). -/
def State.markOver (s : State) : State :=
  { s with attn := { s.attn with results := s.attn.results.map (fun (r : Result) =>
      match r.ended with
      | some b => if b < s.boundary ∧ r.complete = false then { r with overdue := true } else r
      | none => r) } }

/-- Counts kept per STEP that are over (R128, R146, R160, R168). -/
def State.dropOldSteps (s : State) : State :=
  let step := s.step
  { s with attn := { s.attn with
      attendSteps := s.attn.attendSteps.filter (fun p => decide (step < p.1 + 2))
      drawSteps := s.attn.drawSteps.filter (fun p => decide (step < p.1 + 2))
      recent := s.attn.recent.filter (fun p => decide (step < p.2 + 2))
      missed := s.attn.missed.filter (fun p => decide (s.est < p.2 + 2 * 256 * s.layers))
      gateMissed := s.attn.gateMissed.filter (fun p => decide (step < p.2 / 65536 + 2)) } }

/-- Step-boundary bookkeeping (R26, R45, R46, R202, R410, R418, R423). -/
def State.bookkeep (s : State) : State :=
  let s := s.remapAll
  let s := s.endLimitStep
  let s := s.setFld 0 0 Fld.SES_BOUNDARY_COUNT (s.boundary + 1)
  let s := s.setFld 1 0 Fld.SES_BOUNDARY_COUNT s.boundary
  let s := s.expireAll
  let s := s.lockTest.newLeads
  let s := s.markOver.releaseDue.dropOldSteps
  let s := { s with health := { s.health with sramErrs := [] } }
  let s := if s.pins.coreBack then
      { s with pins := { s.pins with coreBack := false } }.setFld 0 0 Fld.BD_CLK_HOLDOVER 0 else s
  let s := s.beginPlan
  (((s.evictTest 0 1).evictTest 0 2).evictTest 1 1).evictTest 1 2

/-! ### Triggers in position order (R27) -/

/-- A trigger with a position of its own: gate edges (layer index of its start), a WAKE's trigger, and the prefetch of a
session for a layer start. -/
inductive TrigEv where
  | close (p i y : Nat)
  | open_ (p i y : Nat)
  | wake (x : Trig)
  | pf (slot x : Nat)
  deriving DecidableEq, Repr

/-- The key of R27: position, kind, target layer, slot. -/
def TrigEv.key : TrigEv → Nat × Nat × Nat
  | .close p i y => (2, y, p * 64 + i)
  | .open_ p i y => (3, y, p * 64 + i)
  | .wake x => (if x.prefetch then 5 else 4, x.target / 256, x.slot)
  | .pf slot x => (5, x / 256, slot)

/-- One positioned trigger comes before another (R27). -/
def evBefore (a b : Nat × TrigEv) : Bool :=
  let ka := a.2.key
  let kb := b.2.key
  decide (a.1 < b.1) || (a.1 == b.1 && (decide (ka.1 < kb.1) || (ka.1 == kb.1 && (decide (ka.2.1 < kb.2.1)
    || (ka.2.1 == kb.2.1 && decide (ka.2.2 ≤ kb.2.2))))))

/-- A trigger enters a list in the order of R27. -/
def evInsert (a : Nat × TrigEv) : List (Nat × TrigEv) → List (Nat × TrigEv)
  | [] => [a]
  | b :: l => if evBefore b a then b :: evInsert a l else a :: b :: l

/-- The edges of the active gates of a port in positions `a` to `b` (R299): of the last layers only, for an entry that a long
jump has passed is open again or closed at its latest edge. -/
def State.gateEvents (s : State) (a b p : Nat) : List (Nat × TrigEv) :=
  let first := max (a / 256 - 1) (b / 256 - (s.layers + 1))
  ((s.gateList p).map (fun i =>
    let w := s.gate p i
    ((List.range (b / 256 + 1 - first)).map (fun k =>
      let y := first + k
      if gateLayer w (y % s.layers) && decide (s.bcn.gateBase ≤ y * 256 + getBits w 7 0) then
        (if a ≤ y * 256 + getBits w 7 0 ∧ y * 256 + getBits w 7 0 ≤ b then [(y * 256 + getBits w 7 0, TrigEv.open_ p i y)] else [])
          ++ (if a ≤ y * 256 + getBits w 16 8 ∧ y * 256 + getBits w 16 8 ≤ b
              then [(y * 256 + getBits w 16 8, TrigEv.close p i y)] else [])
      else [])).flatten)).flatten

/-- The sessions that prefetch triggers serve besides waking ones: OWNED, with an ATTEND in this step or the one before
(R146). -/
def State.prefetchSlots (s : State) : List Nat :=
  ((s.attn.recent.filter (fun p => decide (s.step ≤ p.2 + 1))).map (·.1)).eraseDups.filter (fun x => (s.sess x).st == .owned)

/-- The prefetch triggers of those sessions that are due at `b` or before and whose layer is not over at `now` (R29, R146). -/
def State.prefetchEvents (s : State) (a b now : Nat) : List (Nat × TrigEv) :=
  let hi := (b + s.lead) / 256
  let lo := max (s.tier.pfDone / 256 + 1) (now / 256)
  ((List.range (hi + 1 - lo)).map (fun k =>
    s.prefetchSlots.map (fun slot => (max a (trigAt ((lo + k) * 256) s.lead), TrigEv.pf slot ((lo + k) * 256))))).flatten

/-- The triggers of waking sessions due at `b` or before (R29, R205). -/
def State.wakeEvents (s : State) (a b : Nat) : List (Nat × TrigEv) :=
  (s.tier.trigs.filter (fun x => decide (trigAt x.target (if x.prefetch then s.lead else s.promoLead) ≤ b))).map
    (fun x => (max a (trigAt x.target (if x.prefetch then s.lead else s.promoLead)), TrigEv.wake x))

/-- One trigger fires. -/
def State.fireEv (s : State) : TrigEv → State
  | .close p i y => s.closeGate p i y
  | .open_ p i y => s.openGate p i y
  | .wake x => if s.tier.trigs.contains x then s.fireTrig x else s
  | .pf slot x => s.firePrefetch slot (x / 256 % s.layers) (x / 256 / s.layers)

/-- Every trigger with a position of its own in `a` to `b` fires in the order of R27. -/
def State.fireSpan (s : State) (a b now : Nat) : State :=
  let evs := (((s.net.ports.map (·.1)).map (fun p => s.gateEvents a b p)).flatten ++ s.wakeEvents a b
    ++ s.prefetchEvents a b now).foldl (fun l e => evInsert e l) []
  let s := evs.foldl (fun s e => s.fireEv e.2) s
  { s with tier := { s.tier with pfDone := max s.tier.pfDone ((b + s.lead) / 256 * 256) } }

/-- A step boundary with the tick and the gate swaps that follow it (R26, R27, R304, R382). -/
def State.boundaryAt (s : State) (steps : List Nat) : State :=
  let s := s.bookkeep
  let n := s.fld 0 0 Fld.CK_CTRL_INTERVAL
  let s := match steps.find? (fun x => n != 0 && x % n == 0) with | some x => s.ckptTick x | none => s
  (s.net.ports.map (·.1)).foldl (fun s p => s.swapGates p) s

/-- Boundaries one by one, each after the triggers before it. -/
def State.walkBoundaries (s : State) (now : Nat) : List Nat → Nat → State
  | [], a => s.fireSpan a now now
  | x :: l, a =>
    let pos := x * s.layers * 256
    let s := if a < pos then s.fireSpan a (pos - 1) now else s
    (s.boundaryAt [x]).walkBoundaries now l pos

/-- The steps whose S:0:0 lies in positions `a` to `b`. -/
def stepsIn (layers a b : Nat) : List Nat :=
  let n := layers * 256
  if n = 0 then [] else (List.range (b / n + 1 - ceilDiv a n)).map (fun k => ceilDiv a n + k)

/-- Everything due up to the estimate fires (R23, R26, R27). A jump counts as one boundary at most. Afterwards results whose
gate has passed are found late, T0 copies of layers that are over are released, a planned checkpoint that is due is cut, and
engines go on; no frame starts before all of them have fired (R299). -/
def State.fireDue (s : State) (jump : Bool) : State :=
  let now := s.est
  let a := s.bcn.fired
  if !s.fires then s
  else
    let s := { s with bcn := { s.bcn with fired := max a (now + 1) }, net := { s.net with firing := true } }
    let steps := if a ≤ now then stepsIn s.layers a now else []
    let s :=
      if now < a then s.fireSpan a now now
      else if jump then
        match steps.getLast? with
        | some x =>
          let pos := x * s.layers * 256
          let s := if a < pos then s.fireSpan a (pos - 1) now else s
          (s.boundaryAt steps).fireSpan pos now now
        | none => s.fireSpan a now now
      else s.walkBoundaries now steps a
    let s := s.lateSweep
    let s := s.kv.copies.foldl (fun s c => s.countLate c.die c.step c.layer) s
    let s := (s.releaseCopies 0).releaseCopies 1
    let s := s.cutDue.pumpAll
    { s with net := { s.net with firing := false } }.pickAll.formResults

end Sys2Proof.Machine
end

