-- ==== Sys2Proof/Machine/Beacon.lean ====
section
/-! DEFINITION. The beacon tracker (spec/01): words from the pin and from frames, jumps, backward words, loss, coasting, rebase,
and the trigger commands. -/

namespace Sys2Proof.Machine

/-! ### Words -/

/-- JUMP (R11). -/
def BWord.jump (w : BWord) : Bool := w.flags.getLsbD 7
/-- HOLD (R11). -/
def BWord.hold (w : BWord) : Bool := w.flags.getLsbD 6

/-- One bit of the CRC-8 of R10. -/
def crc8Bit (c : BitVec 8) : BitVec 8 := if c.getLsbD 7 then (c <<< 1) ^^^ 0x07 else c <<< 1

/-- One byte of the CRC-8 of R10. -/
def crc8Byte (c b : BitVec 8) : BitVec 8 :=
  crc8Bit (crc8Bit (crc8Bit (crc8Bit (crc8Bit (crc8Bit (crc8Bit (crc8Bit (c ^^^ b))))))))

/-- The CRC-8 of a pin word: characters 1 to 9 (R10). -/
def crcOf (w : PinWord) : BitVec 8 :=
  (be 6 w.s ++ [BitVec.ofNat 8 w.l, BitVec.ofNat 8 w.p, w.flags]).foldl crc8Byte 0

/-- A word's content is admissible (R9, R11): no reserved flag, a resident layer. -/
def State.wordOk (s : State) (flags : BitVec 8) (l : Nat) : Bool := flags &&& 0x3F == 0 && decide (l < s.layers)

/-- LOSS_NS (R33). -/
def State.lossNs (s : State) : Nat := s.fld 0 0 Fld.BCN_TIMEOUT_LOSS_NS

/-- JUMP_TOL_SP (R33). -/
def State.jumpTol (s : State) : Nat := s.fld 0 0 Fld.BCN_LIMITS_JUMP_TOL_SP

/-- `s` with the tracker changed. -/
def State.setBcn (s : State) (b : Beacon) : State := { s with bcn := b }

/-- Two figures differ by at most `tol`. -/
def within (tol a b : Nat) : Bool := decide (a ≤ b + tol) && decide (b ≤ a + tol)

/-- Entry to COASTING (R20): the estimate moves at once to what the formula gives. -/
def State.coast (s : State) : State :=
  let s := s.setBcn { s.bcn with trk := .coasting, before := s.bcn.trk, coastFrom := s.est, frozen := none, hold := none }
  (s.raise 0 0x05 {}).fireDue false

/-- Entry to LOST (R19, R20, R305): the estimate is frozen, gates close. -/
def State.lose (s : State) : State :=
  let p := s.est
  let s := (s.setBcn { s.bcn with trk := .lost, frozen := some p, pend := none }).raise 0 0x06 { alert := true }
  (s.withdrawAll.remapIdle.beginPlan.cutDue).pickAll

/-- Entry to NO_PHASE (R19, R20, R305): the window is cleared, gates close, and no estimate is held. -/
def State.unphase (s : State) : State :=
  let s := s.setBcn { s.bcn with trk := .noPhase, periods := [], lastStart := none, frozen := some s.est, hold := none,
                                 pend := none, back := 0 }
  (s.withdrawAll.remapIdle.beginPlan.cutDue).pickAll

/-- The period window after an accepted P = 0 word (R18). -/
def Beacon.notePeriod (b : Beacon) (w : BWord) (jump : Bool) : Beacon :=
  let src := b2n w.frame
  let taint := b.taint || jump
  if w.pos % 256 = 0 then
    let periods := match b.lastStart with
      | some m => if m.src = src ∧ m.lin + 256 = w.pos ∧ taint = false then (b.periods ++ [w.tRef - m.tRef]) else b.periods
      | none => b.periods
    { b with periods := periods.drop (periods.length - 256), lastStart := some ⟨w.pos, w.tRef, src⟩, taint := w.hold }
  else { b with taint := taint || w.hold }

/-- A record of the beacon history ring (R31); the ring holds TIERS.BEACON records. -/
def State.noteHist (s : State) (w : BWord) : State :=
  let r : HistRec := ⟨linToOrd s.layers w.pos, s.ieee, b2n w.frame, w.flags, s.bcn.trk.code⟩
  let l := s.bcn.history ++ [r]
  let s := s.setBcn { s.bcn with history := l.drop (l.length - s.start.img.tiers0.beacon) }
  s.addRec 0 0 0 0 32 (.beacon r)

/-- The tracker state after an accepted word (R20). -/
def State.trkAfter (s : State) (w : BWord) (jump : Bool) : Trk :=
  match s.bcn.trk with
  | .noPhase => .learning
  | .learning => .learning
  | .locked => .locked
  | .coasting => if jump then .learning else s.bcn.before
  | .lost => if s.est < w.pos then .learning else .lost

/-- The return to the pin at an accepted P = 0 word, after RETURN_LAYERS clean layers (R15). -/
def State.returnTest (s : State) (w : BWord) : State :=
  if s.bcn.frames ∧ w.pos % 256 = 0 ∧ s.fld 0 0 Fld.BCN_CTRL_SRC_LOCK = 0
      ∧ s.fld 0 0 Fld.BCN_TIMEOUT_RETURN_LAYERS ≤ s.bcn.cleanLayers
      ∧ (match s.bcn.cleanAt with | some y => decide (w.pos / 256 ≤ y + 1) | none => false) = true then
    (s.setBcn { s.bcn with frames := false, taint := true }).raise 0 0x01 { a0 := 0 }
  else s

/-- A word is accepted (R17 to R23, R31, R477). -/
def State.acceptWord (s : State) (w : BWord) (jump : Bool) : State :=
  let first := s.bcn.trk == .noPhase
  let old := s.pos
  let trk := s.trkAfter w jump
  let stays := trk == .lost
  let b := s.bcn.notePeriod w jump
  let b := { b with trk, anchor := w.pos, tRef := w.tRef, frozen := if stays then some w.pos else none
                    hold := if w.hold then some w.tRef else none, back := 0, pend := none, after := none }
  let b := if first then { b with fired := w.pos, gateBase := w.pos } else b
  let b := if b.trk = .locked ∧ s.fld 0 0 Fld.BCN_LIMITS_JITTER_MAX_NS < b.maxDev then { b with trk := .learning } else b
  let s' := s.setBcn b
  let s' := s'.setReg 0 0 Reg.BCN_LAST_POS (BitVec.ofNat 64 (linToOrd s.layers w.pos))
  let s' := s'.setReg 0 0 Reg.BCN_LAST_TIME (BitVec.ofNat 64 (s'.ieee - (s'.now - w.tRef)))
  let s' := s'.noteHist w
  let s' := if first then
      let t := s'.newLeads
      { t with tier := { t.tier with pfDone := w.pos + t.lead } }
    else s'
  let s' := if jump && !first then s'.raise 0 0x03 { a0 := old, a1 := linToOrd s.layers w.pos } else s'
  (s'.returnTest w).fireDue (jump && !first)

/-- A backward word (R24). -/
def State.backward (s : State) : State :=
  ((s.setBcn { s.bcn with back := s.bcn.back + 1 }).bump 0 0 Fld.BCN_COUNTS_BACKWARD).raiseOnce 0 0x04 0 {}

/-- The next word confirms a forward jump of the word before it (R22). -/
def State.confirms (s : State) (p1 t1 : Nat) (w : BWord) : Bool :=
  if s.bcn.periodSum = 0 then decide (p1 ≤ w.pos) && decide (w.pos ≤ p1 + 256 + s.jumpTol)
  else within s.jumpTol w.pos (p1 + (w.tRef - t1) * 256 * s.bcn.periods.length / s.bcn.periodSum)

/-- A word with no jump pending is tested (R22, R24, R25). -/
def State.testWord (s : State) (w : BWord) : State :=
  if w.pos < s.est then s.backward
  else if (match s.bcn.after with | some a => decide (w.pos ≤ a) | none => false) = true then s
  else if w.pos ≤ s.est + s.jumpTol then s.acceptWord w false
  else if w.jump then s.acceptWord w true
  else s.setBcn { s.bcn with pend := some w, frozen := some s.est }

/-- A valid word of the selected source (R17, R20, R22, R24, R477). A jump that it confirms is accepted first, as the word
before gave it. -/
def State.takeWord (s : State) (w : BWord) : State :=
  if s.bcn.trk = .noPhase then s.acceptWord w false
  else match s.bcn.pend with
    | none => s.testWord w
    | some x =>
      if s.confirms x.pos x.tRef w then (s.acceptWord x true).testWord w
      else
        let s := (s.setBcn { s.bcn with pend := none, frozen := if s.bcn.trk = .lost then s.bcn.frozen else none }).bump 0 0
          Fld.BCN_COUNTS_JUMP_REJECT
        s.testWord w

/-- A valid word of the other source is compared with the estimate (R16). -/
def State.compareWord (s : State) (w : BWord) : State :=
  let live := fun (x : Option Nat) => match x with | some t => decide (s.now ≤ t + s.lossNs) | none => false
  if s.bcn.trk ≠ .noPhase ∧ live s.bcn.lastPin = true ∧ live s.bcn.lastFrame = true
      ∧ within (s.fld 0 0 Fld.BCN_LIMITS_DISAGREE_SP) w.pos s.est = false then
    (s.bump 0 0 Fld.BCN_COUNTS_DISAGREE).raiseOnce 0 0x02 0 {}
  else s

/-- Consecutive layers with a valid pin word (R15). -/
def Beacon.noteClean (b : Beacon) (layer : Nat) : Beacon :=
  match b.cleanAt with
  | some y =>
    if layer = y then b
    else { b with cleanLayers := if layer = y + 1 then b.cleanLayers + 1 else 1, cleanAt := some layer }
  | none => { b with cleanLayers := 1, cleanAt := some layer }

/-- A valid word arrives (R15, R16). In replay the tracker takes words only from records (R438). -/
def State.validWord (s : State) (w : BWord) : State :=
  let s := if w.frame then s.setBcn { s.bcn with lastFrame := some w.tRef }
    else s.setBcn { s.bcn.noteClean (w.pos / 256) with lastPin := some w.tRef }
  if w.frame = s.bcn.frames then s.takeWord w else s.compareWord w

/-- The tracker runs: ENABLE is set, and no replay supplies the words. -/
def State.tracking (s : State) : Bool :=
  s.running && s.fld 0 0 Fld.BCN_CTRL_ENABLE == 1 && !s.inReplay

/-! ### The pin (R10 to R12) -/

/-- The instant an echo starts (R12, R456). -/
def echoAt (tRef arrival : Nat) : Nat := max (tRef + 1200) (arrival + 600)

/-- How long before now the K28.5 of the pin word that has just arrived whole came: 110 bit times at 250 Mb/s (R10). -/
def wordNs : Nat := 440

/-- A decoded pin word is echoed (R12). -/
def State.queueEcho (s : State) (tRef pos : Nat) (accepted : Bool) : State :=
  let e : EchoWord := ⟨echoAt tRef (s.now - wordNs), pos, accepted, s.bcn.trk == .locked, s.bcn.trk == .coasting⟩
  s.setBcn { s.bcn with echoes := s.bcn.echoes ++ [e] }

/-- A pin word has arrived whole (R10 to R12). -/
def State.pinWord (s : State) (w : PinWord) : State :=
  if w.codeOk = false ∨ crcOf w ≠ w.crc then s.bump 0 0 Fld.BCN_COUNTS_CRC_ERR
  else
    let tRef := s.now - wordNs - s.fld 0 0 Fld.BCN_PIN_CFG_DELAY_NS
    let pos := posOrd w.s w.l w.p
    if s.wordOk w.flags w.l && s.tracking then
      let x : BWord := ⟨posLin s.layers w.s w.l w.p, tRef, w.flags, false⟩
      let t := s.validWord x
      t.queueEcho tRef pos (!s.bcn.frames && t.bcn.tRef == tRef && t.bcn.anchor == x.pos)
    else s.queueEcho tRef pos false

/-- BEACON_PIN_WORD (R10 to R12). -/
def execBeaconPinWord (t : Nat) (w : PinWord) (s : State) : Res :=
  .next (if s.running then (s.tick t).pinWord w else s)

/-- BEACON_ECHO (R12): the echoes whose instant has come start. -/
def execBeaconEcho (t : Nat) (s : State) : Res :=
  let s := s.tick t
  .next (s.setBcn { s.bcn with echoes := s.bcn.echoes.filter (fun e => decide (s.now < e.at_))
                               echoed := s.bcn.echoed ++ s.bcn.echoes.filter (fun e => decide (e.at_ ≤ s.now)) })

/-! ### Frames (R13, R14) -/

/-- The image lists a port as a beacon port. -/
def State.beaconPort (s : State) (p : Nat) : Bool := s.start.img.ports.any (fun r => r.port == p && r.beacon)

/-- PTP_LOCK (R268). -/
def State.ptpLock (s : State) : Bool := s.fld 0 0 Fld.BCN_STATUS_PTP_LOCK == 1

/-- The reference instant of a frame received now (R14), on the internal count. -/
def State.frameRef (s : State) (f : BeaconFrame) : Nat :=
  if s.ptpLock then s.now - (s.ieee - f.originNs) else s.now - s.fld 0 0 Fld.BCN_FRAME_CFG_DELAY_NS

/-- SEQ is greater than the last one, modulo 2^32 (R14). -/
def seqAfter (a b : Nat) : Bool :=
  let d := (a + 2 ^ 32 - b % 2 ^ 32) % 2 ^ 32
  decide (0 < d) && decide (d < 2 ^ 31)

/-- A frame is admitted (R9, R11, R13, R14). -/
def State.frameOk (s : State) (f : BeaconFrame) : Bool :=
  s.beaconPort f.port && s.start.img.beaconAllow.contains f.src && f.size == 24 && f.version == 1 && s.wordOk f.flags f.l
    && (match s.bcn.frameSeq with | some q => seqAfter f.seq q | none => true)

/-- A beacon frame (R13, R14). -/
def State.frameWord (s : State) (f : BeaconFrame) : State :=
  if f.udp ≠ s.fld 0 0 Fld.BCN_FRAME_CFG_UDP_PORT then s
  else if s.frameOk f then
    if s.tracking then
      (s.setBcn { s.bcn with frameSeq := some f.seq }).validWord ⟨posLin s.layers f.s f.l f.p, s.frameRef f, f.flags, true⟩
    else s
  else s.bump 0 0 Fld.BCN_COUNTS_FRAME_DROP

/-- BEACON_FRAME (R13, R14). -/
def execBeaconFrame (t : Nat) (f : BeaconFrame) (s : State) : Res :=
  .next (if s.running && (s.port f.port).link then (s.tick t).frameWord f else s)

/-! ### Loss (R15, R20, R21) -/

/-- BACK_LIMIT_REACHED (R20): BACK_LIMIT consecutive backward words lose the tracker. -/
def execBackLimitReached (t : Nat) (s : State) : Res :=
  .next (if s.running && s.fires && decide (s.fld 0 0 Fld.BCN_LIMITS_BACK_LIMIT ≤ s.bcn.back) then (s.tick t).lose else s)

/-- The latest reference instant of a valid word of either source, or the instant ENABLE was set. -/
def Beacon.lastValid (b : Beacon) : Nat := max (max (b.lastPin.getD 0) (b.lastFrame.getD 0)) b.enabledAt

/-- The switch to frames (R15). -/
def State.toFrames (s : State) : State :=
  (s.setBcn { s.bcn with frames := true, taint := true, cleanLayers := 0, cleanAt := none }).raise 0 0x01 { a0 := 1 }

/-- PIN_LOSS_TIMEOUT (R15). -/
def execPinLossTimeout (t : Nat) (s : State) : Res :=
  .next (if s.tracking && !s.bcn.frames && s.fld 0 0 Fld.BCN_CTRL_SRC_LOCK == 0
      && decide ((match s.bcn.lastPin with | some x => max x s.bcn.enabledAt | none => s.bcn.enabledAt) + s.lossNs
        ≤ (s.tick t).now)
    then (s.tick t).toFrames else s)

/-- The loss of both sources (R20, R21). -/
def State.lossOfBoth (s : State) : State :=
  if s.bcn.periods.isEmpty then (if s.bcn.trk = .learning then s.lose else s) else s.coast

/-- BEACON_LOSS_TIMEOUT (R20, R21). A HOLD word is a valid word, so silence of LOSS_NS ends its force too. -/
def execBeaconLossTimeout (t : Nat) (s : State) : Res :=
  .next (if s.tracking && (s.bcn.trk == .learning || s.bcn.trk == .locked)
      && decide (s.bcn.lastValid + s.lossNs ≤ (s.tick t).now)
    then (s.tick t).lossOfBoth else s)

/-- COAST_LIMIT (R20). -/
def execCoastLimit (t : Nat) (s : State) : Res :=
  let x := (s.tick t).fireDue false
  .next (if s.running && s.bcn.trk == .coasting then
      (if s.bcn.coastFrom + s.fld 0 0 Fld.BCN_LIMITS_COAST_LAYERS * 256 ≤ x.est then x.lose else x)
    else s)

/-! ### Rebase and ENABLE (R20, R25) -/

/-- A rebase to a linear position (R25, R301, R305, R384). -/
def State.rebase (s : State) (pos : Nat) : State :=
  let s := if s.ckpt.plan.isSome then s.failCkpt 3 0 else s
  let s := (s.net.ports.map (·.1)).foldl (fun s p => s.setPort p { s.port p with opened := [] }) s
  let s := { s with tier := { s.tier with trigs := [], pfDone := pos + s.lead } }
  let s := s.ses.recs.foldl (fun s p => s.promotingTest p.1) s
  let b : Beacon := { s.bcn with trk := .learning, anchor := pos, tRef := s.now, frozen := none, periods := []
                                 lastStart := none, taint := false, hold := none, back := 0, pend := none, fired := pos + 1
                                 gateBase := pos + 1, after := some pos }
  ((s.setBcn b).raise 0 0x07 { a0 := s.pos, a1 := linToOrd s.layers pos }).pickAll

/-- A write of 1 to BCN_CTRL.REBASE (R25). With ENABLE clear the tracker is off. -/
def State.rebaseWrite (s : State) : State :=
  if s.fld 0 0 Fld.BCN_CTRL_ENABLE = 1 then s.rebase (ordToLin s.layers (s.reg 0 0 Reg.BCN_REBASE_POS).toNat) else s

/-- A change of BCN_CTRL.ENABLE (R15, R20). -/
def State.enableWrite (s : State) (was : Bool) : State :=
  let on := s.fld 0 0 Fld.BCN_CTRL_ENABLE == 1
  if was && !on then s.unphase
  else if !was && on then s.setBcn { s.bcn with enabledAt := s.now, lastPin := none } else s

/-! ### Trigger commands (R26, R27) -/

/-- The triggers due fire (R26): what every trigger command does once its instant has come. -/
def State.trigger (s : State) (t : Nat) : State :=
  if s.running && s.fires then (s.tick t).fireDue false else s

/-- STEP_BOUNDARY_BOOKKEEPING (R26, R45): the boundaries the estimate has reached, each once. -/
def execStepBoundaryBookkeeping (t : Nat) (s : State) : Res := .next (s.trigger t)

/-- CHECKPOINT_TICK (R26, R382): the tick follows the bookkeeping of its S:0:0. -/
def execCheckpointTick (t : Nat) (s : State) : Res := .next (s.trigger t)

/-- GATE_OPEN (R299, R303). -/
def execGateOpen (t _port _entry : Nat) (s : State) : Res := .next (s.trigger t)

/-- GATE_CLOSE (R299, R303). -/
def execGateClose (t _port _entry : Nat) (s : State) : Res := .next (s.trigger t)

/-- PROMOTION_TRIGGER (R205). -/
def execPromotionTrigger (t _slot _layer : Nat) (s : State) : Res := .next (s.trigger t)

/-- PREFETCH_TRIGGER (R146). -/
def execPrefetchTrigger (t _slot _layer : Nat) (s : State) : Res := .next (s.trigger t)

/-- T0_COPY_RELEASE (R147): the copies of layers that are over are released. -/
def execT0CopyRelease (t die : Nat) (s : State) : Res :=
  .next (if s.running then
    let s := s.tick t
    (s.kv.copies.foldl (fun s c => s.countLate c.die c.step c.layer) s).releaseCopies die
  else s)

end Sys2Proof.Machine
end

