-- ==== Sys2Proof/Machine/Pages.lean ====
section
/-! DEFINITION. Key-value pages (spec/03): KV_APPEND in its six forms, the flush and the release rule, ageing, and the XLATE
commands. -/

namespace Sys2Proof.Machine

/-! ### Ingest objects (R283, R373) -/

/-- A key generation is live (R373). -/
def State.genLive (s : State) (sel gen : Nat) : Bool :=
  let cur := s.fld 0 sel Fld.SEAL_KEYGEN_CUR
  gen == cur || (s.fld 0 sel Fld.SEAL_KEYGEN_PREV_LIVE == 1 && gen + 1 == cur)

/-- Bytes of a context's ingest region on a die. -/
def State.ingestBytes (s : State) (die ctx : Nat) : Nat :=
  match s.context ctx with | some c => if die = 0 then c.ingest0 else c.ingest1 | none => 0

/-- An ingest object is opened (R283): the object, or the reason of a BAD_FRAME. -/
def State.openIngest (s : State) (die ctx ep off len : Nat) : Nat ⊕ IngestObj :=
  if off % 64 ≠ 0 ∨ s.ingestBytes die ctx < off + 32 + len then .inl 0x09
  else match s.net.ingest.find? (fun x => x.die == die && x.ctx == ctx && x.obj.off == off) with
    | none => .inl 0x0A
    | some x =>
      if x.obj.ep = ep ∧ x.obj.length = len ∧ x.obj.zero = 0 ∧ x.obj.tagOk ∧ s.genLive ctx x.obj.keyGen then .inr x.obj
      else .inl 0x0A

/-- The data of a message: those in the frame, or an ingest object that is opened and recorded (R283, R433). -/
def State.openData (s : State) (e : Env) (slot : Nat) (ingest : Bool) (off len : Nat) (inline_ : List Byte) :
    State × (Nat ⊕ List Byte) :=
  if ingest then
    match s.openIngest (slotDie slot) (s.sess slot).context e.ep off len with
    | .inl rs => (s, .inl rs)
    | .inr o => (s.noteObject e o, .inr o.data)
  else (s, .inr inline_)

/-- A restore of a parked image that a request needs first (R245): done, or the memory failure address of the image when the
last try failed. -/
def State.needAreas (s : State) (slot : Nat) : State × Option Nat :=
  match alGet slot s.kv.images with
  | none => (s, none)
  | some i =>
    if s.tier.restores.contains slot then ((s.restoreImage slot).promotingTest slot, none)
    else (s, some (memFail i.tier (slotDie slot) (i.loc * 128)))

/-! ### Appending rows (R76 to R79, R88, R90) -/

/-- Elements of little-endian BF16 data. -/
def bf16s : List Byte → List BF16
  | a :: b :: l => BitVec.ofNat 16 (a.toNat + 256 * b.toNat) :: bf16s l
  | _ => []

/-- Row `i` of layer `l` (counted from LAYER_FIRST) of data of R84: keys of every head, then values. -/
def dataRow (kvh dim count l i : Nat) (xs : List BF16) : List BF16 :=
  ((List.range (2 * kvh)).map (fun h => (xs.drop (((l * 2 * kvh + h) * count + i) * dim)).take dim)).flatten

/-- A layer keeps a page (R88). -/
def State.holds (s : State) (slot layer page : Nat) : Bool :=
  let r := s.sess slot
  match s.staging slot with
  | none => true
  | some g =>
    r.dense || g.globals.any (fun p => p / 16 == page)
      || decide (g.len layer ≤ 16 * page + 15 + r.window + s.fld (slotDie slot) r.context Fld.XL_CTX_RETAIN_RETAIN)

/-- The release rule of one layer (R88). -/
def State.releaseRule (s : State) (slot layer : Nat) : State :=
  let out := (s.pagesOf slot).filter (fun k => k.layer == layer && !s.holds slot layer k.page)
  (out.foldl (fun s k => s.freePage k) s).bumpBy (slotDie slot) 0 Fld.XL_COUNTS_RELEASE out.length

/-- Page `page` of a layer is complete in staging: it is packed and written (R79). -/
def State.flush (s : State) (slot layer page : Nat) : State :=
  match s.staging slot with
  | none => s
  | some g =>
    let r := s.sess slot
    let die := slotDie slot
    let k : PageKey := ⟨slot, layer, page⟩
    let f := match s.leaf k with | some l => l.fill | none => 0
    let stored := match s.leaf k with | some l => decodeRows s.kvh f (s.pageTiles k l) | none => []
    let rows := stored ++ (List.range (16 - f)).map (fun i => (g.row layer (f + i)).getD [])
    let enc := s.ctxEnc die r.context
    let tiles := s.packPage r.context slot layer page rows
    let s := if (s.leaf k).isSome then (s.bump die 0 Fld.XL_COUNTS_MERGE).freePage k else s
    let s := s.notePacked die r.context tiles
    let s := s.alloc die 1 r.context (s.pageGranules enc.1 enc.2)
    let s := s.nextFree.addLeaf k { tier := 1, share := none, kenc := enc.1, venc := enc.2, fill := 0, old := false,
                                    age := s.stamp die, loc := s.freeVal % 2 ^ 40, tiles }
    let s := match s.staging slot with
      | some g => s.putStaging slot { g with rows := g.rows.filter (fun (p : Nat × List BF16) => p.1 / 16 != layer) }
      | none => s
    s.releaseRule slot layer

/-- One row is appended to a layer (R78, R127). -/
def State.appendRow (s : State) (slot layer : Nat) (row : List BF16) : State :=
  match s.staging slot with
  | none => s
  | some g =>
    let p := g.len layer
    let g' := { g with lens := g.lens.set layer (p + 1), rows := alSet (layer * 16 + p % 16) (row.map bfClean) g.rows }
    let s := s.putStaging slot g'
    if p % 16 = 15 then s.flush slot layer (p / 16) else s

/-- LENGTH of the record follows the least layer length (R78). -/
def State.setLength (s : State) (slot : Nat) : State :=
  match s.staging slot with
  | none => s
  | some g => s.setSess slot { s.sess slot with length := ((g.lens.take s.layers).min?).getD 0
                                                globals := g.globals.length }

/-- Pages that `n` more positions of a layer complete. -/
def newPages (len n : Nat) : List Nat := (List.range ((len + n) / 16 - len / 16)).map (· + len / 16)

/-- Granules of the tables that new entries need (R74): leaf tables and level-1 tables not there yet. -/
def State.tablesFor (s : State) (l : List PageKey) : Nat :=
  let leafs := ((l.filter (fun k => !s.kv.leaves.any (fun p => p.1.slot == k.slot && p.1.layer == k.layer
    && p.1.page / 4096 == k.page / 4096))).map (fun k => (k.layer, k.page / 4096))).eraseDups
  let levels := ((l.filter (fun k => !s.kv.leaves.any (fun p => p.1.slot == k.slot && p.1.layer / 16 == k.layer / 16))).map
    (fun k => k.layer / 16)).eraseDups
  256 * (leafs.length + levels.length)

/-- Granules of T1 that appending `n` positions to layers `first` to `first + count − 1` needs (R79, R85). -/
def State.appendNeed (s : State) (slot first count n : Nat) : Nat :=
  match s.staging slot with
  | none => 0
  | some g =>
    let ks := ((List.range count).map (fun i => (newPages (g.len (first + i)) n).map (fun p =>
      (⟨slot, first + i, p⟩ : PageKey)))).flatten
    let enc := s.ctxEnc (slotDie slot) (s.sess slot).context
    ks.length * s.pageGranules enc.1 enc.2 + s.tablesFor (ks.filter (fun k => (s.leaf k).isNone))

/-- An allocation of T1 for a session: none, OVER_QUOTA or BUSY_RETRY (R62, R85). -/
def State.allocTest (s : State) (slot g : Nat) : Option Nat :=
  if g = 0 then none
  else if !s.quotaOk (slotDie slot) (s.sess slot).context 1 g then some St.overQuota
  else if !s.poolOk (slotDie slot) 1 g then some St.busyRetry
  else none

/-! ### The response (R87) -/

/-- The body of a KV_APPEND response. -/
def kvBody (handle epoch len dropped nonfinite detail : Nat) : List Byte :=
  be 8 handle ++ be 4 epoch ++ be 4 len ++ be 4 dropped ++ be 4 nonfinite ++ be 8 detail

/-- A KV_APPEND is answered with its slot's record. -/
def State.kvAnswer (s : State) (e : Env) (slot status reason dropped nonfinite detail : Nat) : State :=
  let r := s.sess slot
  s.answer e 0x03 status reason (kvBody (r.handle slot) r.epoch r.length dropped nonfinite detail)

/-- A refused KV_APPEND. -/
def State.kvRefuse (s : State) (e : Env) (m : KvMsg) (x : Refuse) : State :=
  let slot := handleSlot m.handle
  let s := s.noteRefuse e slot x
  if s.liveHandle m.handle then s.kvAnswer e slot x.status x.reason 0 0 x.detail
  else s.answer e 0x03 x.status x.reason (kvBody m.handle 0 0 0 0 x.detail)

/-- A REPLAY of a KV_APPEND renews the lease as an accepted one does (R85). -/
def State.kvReplay (s : State) (e : Env) (slot : Nat) : State :=
  ((s.accepted slot true).bump (slotDie slot) 0 Fld.SES_OUTCOME1_REPLAY).kvAnswer e slot St.replay 0 0 0 0

/-! ### INLINE and RDMA (R83 to R85, R90) -/

/-- BYTES matches (R84, R85). -/
def State.kvSizeOk (s : State) (m : KvMsg) (form : Nat) : Bool :=
  m.bytes == m.layerCount * m.count * s.rowBytes && (form != 0 || m.data.length == m.bytes)

/-- The covered layers. -/
def coveredLayers (m : KvMsg) : List Nat := (List.range m.layerCount).map (· + m.layerFirst)

/-- Rows with a non-finite element (R87). -/
def State.badRows (s : State) (m : KvMsg) (n : Nat) (xs : List BF16) : Nat :=
  (((List.range m.layerCount).map (fun l => ((List.range n).filter (fun i =>
    (dataRow s.kvh s.dim m.count l i xs).any bfNonfinite)).length))).foldl (· + ·) 0

/-- The rows of an append are written, layer by layer. -/
def State.appendAll (s : State) (slot : Nat) (m : KvMsg) (n : Nat) (xs : List BF16) : State :=
  ((List.range m.layerCount).foldl (fun s l => (List.range n).foldl (fun s i =>
    s.appendRow slot (m.layerFirst + l) (dataRow s.kvh s.dim m.count l i xs)) s) s).setLength slot

/-- INLINE and RDMA from step 7 on (R85, R90). -/
def State.kvAppend (s : State) (e : Env) (m : KvMsg) (form : Nat) : State :=
  let slot := handleSlot m.handle
  let r := s.sess slot
  match s.staging slot with
  | none => s.kvRefuse e m ⟨St.busyRetry, 0, 0⟩
  | some g =>
    if !s.kvSizeOk m form then s.kvRefuse e m ⟨St.badFrame, 0x32, 0⟩
    else if (coveredLayers m).all (fun l => decide (m.firstPos + m.count ≤ g.len l)) then s.kvReplay e slot
    else if (coveredLayers m).any (fun l => m.firstPos != g.len l) then s.kvRefuse e m ⟨St.badFrame, 0x30, 0⟩
    else match s.openData e slot (form != 0) m.aux m.bytes m.data with
      | (s, .inl reason) => s.kvRefuse e m ⟨St.badFrame, reason, 0⟩
      | (s, .inr d) =>
        let n := min m.count (Config.maxPositions r.dense - m.firstPos)
        match s.allocTest slot (s.appendNeed slot m.layerFirst m.layerCount n) with
        | some st => s.kvRefuse e m ⟨st, 0, 0⟩
        | none =>
          let xs := bf16s d
          let bad := s.badRows m n xs
          let s := (s.appendAll slot m n xs).accepted slot true
          if n < m.count then (s.countOutcome (slotDie slot) St.limit).kvAnswer e slot St.limit 0 (m.count - n) bad 0
          else s.kvAnswer e slot St.done 0 0 bad 0

/-! ### LINK (R91 to R93) -/

/-- The pages of a LINK's range. -/
def linkPages (m : KvMsg) : List Nat := (List.range (m.count / 16)).map (· + m.firstPos / 16)

/-- The target already names the source's shared pages over the whole range (R92, item 1). -/
def State.linkDone (s : State) (src dst : Nat) (m : KvMsg) : Bool :=
  m.count != 0 && m.firstPos % 16 == 0 && m.count % 16 == 0 && decide (slotDie src = slotDie dst)
    && (List.range s.layers).all (fun l => (linkPages m).all (fun p =>
      match s.leaf ⟨src, l, p⟩, s.leaf ⟨dst, l, p⟩ with
      | some a, some b => a.share.isSome && a.share == b.share
      | _, _ => false))

/-- The lowest free SHARE_ID of a die. -/
def State.freeShare (s : State) (die : Nat) : Option Nat :=
  (List.range (s.kv.shared.length + 1)).find? (fun i => decide (i < s.fld die 0 Fld.XL_SPT_ENTRIES)
    && (s.sharedPage die i).isNone)

/-- What is in motion, queued, or placed in a segment under one name goes on under another (R92, R97). -/
def State.renameUnit (s : State) (u v : UnitRef) : State :=
  { s with
    tier := { s.tier with
      moves := s.tier.moves.map (fun (m : Move) => if m.unit = u then { m with unit := v } else m)
      promos := s.tier.promos.map (fun (m : Promo) => if m.unit = u then { m with unit := v } else m)
      cold := s.tier.cold.map (fun (m : Cold) => if m.unit = u then { m with unit := v } else m) }
    flash := { s.flash with segs := s.flash.segs.map (fun (x : Seg) =>
      { x with entries := x.entries.map (fun (y : SumEnt) => if y.owner = .unit u then { y with owner := .unit v } else y) }) } }

/-- One page is shared and linked (R93). -/
def State.linkPage (s : State) (src dst layer page : Nat) : State :=
  let k : PageKey := ⟨src, layer, page⟩
  let die := slotDie src
  match s.leaf k with
  | none => s
  | some l =>
    let entry := fun (id : Nat) => { l with tier := 0, share := some id, kenc := 0, venc := 0, old := false, age := 0, loc := id,
                                            tiles := [] }
    let link := fun (s : State) (id : Nat) => s.addLeaf ⟨dst, layer, page⟩ (entry id)
    match l.share with
    | some id =>
      match s.sharedPage die id with
      | some p => link (s.putShared die id { p with ref := p.ref + 1, age := s.stamp die, old := false }) id
      | none => s
    | none =>
      match s.freeShare die with
      | none => s
      | some id =>
        let p : SharedPage := {
          ref := 2, context := (s.sess src).context, tier := l.tier, kenc := l.kenc, venc := l.venc, old := false
          age := s.stamp die, loc := l.loc, page, layer, slot := src, tiles := l.tiles }
        let s := (s.putShared die id p).bump die 0 Fld.XL_SPT_USE_USED
        let s := s.putLeaf k (entry id)
        link (s.renameUnit (.page src layer page) (.shared die id)) id

/-- The source pages a LINK covers, in every layer. -/
def State.linkKeys (s : State) (src : Nat) (m : KvMsg) : List PageKey :=
  ((List.range s.layers).map (fun l => (linkPages m).map (fun p => (⟨src, l, p⟩ : PageKey)))).flatten

/-- Those of a list of pages that are not shared yet. -/
def State.linkFresh (s : State) (keys : List PageKey) : Nat :=
  (keys.filter (fun k => match s.leaf k with | some l => l.share.isNone | none => false)).length

/-- LINK from step 7 on (R91 to R93). -/
def State.kvLink (s : State) (e : Env) (m : KvMsg) : State :=
  let slot := handleSlot m.handle
  let src := handleSlot m.aux
  let die := slotDie slot
  match s.staging slot with
  | none => s.kvRefuse e m ⟨St.busyRetry, 0, 0⟩
  | some g =>
    let live := s.liveHandle m.aux
    let keys := s.linkKeys src m
    let fresh := s.linkFresh keys
    if live && s.linkDone src slot m then s.kvReplay e slot
    else if slotDie src ≠ die then s.kvRefuse e m ⟨St.denied, 0, 0⟩
    else if !live then s.kvRefuse e m ⟨St.badFrame, 0x31, 0⟩
    else if (s.sess src).context ≠ (s.sess slot).context then s.kvRefuse e m ⟨St.denied, 0, 0⟩
    else if (s.sess src).st = .held ∨ m.firstPos % 16 ≠ 0 ∨ m.count % 16 ≠ 0 ∨ m.count = 0
        ∨ (List.range s.layers).any (fun l => m.firstPos != g.len l) = true
        ∨ keys.any (fun k => match s.leaf k with | some l => l.fill != 0 | none => true) = true
      then s.kvRefuse e m ⟨St.badFrame, 0x31, 0⟩
    else match s.allocTest slot (s.tablesFor (keys.map (fun k => { k with slot := slot }))) with
      | some st => s.kvRefuse e m ⟨st, 0, 0⟩
      | none =>
        if s.fld die 0 Fld.XL_SPT_ENTRIES < s.fld die 0 Fld.XL_SPT_USE_USED + fresh then
          let a : EvtArgs := { ctx := some (s.sess slot).context, a0 := (s.sess slot).handle slot }
          ((s.bump die 0 Fld.XL_COUNTS_SPT_FULL).raiseOnce die 0x21 0 a).kvRefuse e m ⟨St.busyRetry, 0, 0⟩
        else
          let s := keys.foldl (fun s k => s.linkPage src slot k.layer k.page) s
          let s := match s.staging slot with
            | some g => s.putStaging slot { g with lens := g.lens.map (fun (n : Nat) => n + m.count) }
            | none => s
          ((s.setLength slot).accepted slot true).kvAnswer e slot St.done 0 0 0 0

/-! ### TRUNCATE (R95, R96) -/

/-- A position of a layer is held (R96): a stored row, or a staging row of the current page. -/
def State.posHeld (s : State) (slot layer p : Nat) : Bool :=
  (match s.leaf ⟨slot, layer, p / 16⟩ with
    | some l => l.fill == 0 || decide (p % 16 < l.fill)
    | none => false)
  || (match s.staging slot with
    | some g => p / 16 == g.len layer / 16 && (g.row layer (p % 16)).isSome
    | none => false)

/-- Every position of the window before `n` is held in every layer (R96). -/
def State.windowHeld (s : State) (slot n : Nat) : Bool :=
  let w := (s.sess slot).window
  (List.range s.layers).all (fun l => (List.range (min n w)).all (fun i => s.posHeld slot l (n - min n w + i)))

/-- One layer is truncated to `n` (R95). -/
def State.truncLayer (s : State) (slot layer n : Nat) : State :=
  match s.staging slot with
  | none => s
  | some g =>
    if g.len layer ≤ n then s
    else
      let f := n % 16
      let s := ((s.pagesOf slot).filter (fun k => k.layer == layer && decide (n ≤ 16 * k.page))).foldl
        (fun s k => s.freePage k) s
      let k : PageKey := ⟨slot, layer, n / 16⟩
      let s := match (if f = 0 then none else s.leaf k) with
        | some l => s.putLeaf k { l with fill := if l.fill = 0 ∨ f < l.fill then f else l.fill }
        | none => s
      match s.staging slot with
      | some g => s.putStaging slot { g with
          lens := g.lens.set layer n
          rows := g.rows.filter (fun (p : Nat × List BF16) => p.1 / 16 != layer || decide (p.1 % 16 < f)) }
      | none => s

/-- TRUNCATE from step 7 on (R95, R96). -/
def State.kvTruncate (s : State) (e : Env) (m : KvMsg) : State :=
  let slot := handleSlot m.handle
  let r := s.sess slot
  let n := m.firstPos
  match s.staging slot with
  | none => s.kvRefuse e m ⟨St.busyRetry, 0, 0⟩
  | some g =>
    if r.length < n then s.kvRefuse e m ⟨St.badFrame, 0x34, 0⟩
    else if r.length = n ∧ (List.range s.layers).all (fun l => g.len l == n) = true then
      (s.accepted slot true).kvAnswer e slot St.done 0 0 0 0
    else if !r.dense && !s.windowHeld slot n then
      let least := (List.range (r.length + 1 - n)).find? (fun i => s.windowHeld slot (n + i))
      s.kvRefuse e m ⟨St.limit, 0, match least with | some i => n + i | none => 0xFFFFFFFF⟩
    else
      let before : List (PageKey × Leaf) := s.kv.leaves
      let s : State := (List.range s.layers).foldl (fun (s : State) l => s.truncLayer slot l n) s
      let s : State := match s.staging slot with
        | some g => s.putStaging slot { g with globals := g.globals.filter (fun (p : Nat) => decide (p < n)) }
        | none => s
      let s : State := if s.kv.leaves == before then s else s.bump (slotDie slot) 0 Fld.XL_COUNTS_TRUNCATE
      ((s.setLength slot).accepted slot true).kvAnswer e slot St.done 0 0 0 0

/-! ### PIN and UNPIN (R89) -/

/-- The positions of a PIN or UNPIN (R82). -/
def pinList (d : List Byte) : List Nat := (chunks 4 d).map beNat

/-- A position enters the ascending list of globals. -/
def insertPos (p : Nat) (l : List Nat) : List Nat := l.takeWhile (· < p) ++ [p] ++ l.dropWhile (· < p)

/-- The page of a position is held in every layer (R89). -/
def State.pinHeld (s : State) (slot p : Nat) : Bool :=
  (List.range s.layers).all (fun l => (s.leaf ⟨slot, l, p / 16⟩).isSome || s.posHeld slot l p)

/-- The globals after a PIN, and how many positions were not pinned. -/
def pinAll (l : List Nat) : List Nat → List Nat × Nat
  | [] => (l, 0)
  | p :: ps =>
    if l.contains p then pinAll l ps
    else if l.length < 1024 then pinAll (insertPos p l) ps
    else ((pinAll l ps).1, (pinAll l ps).2 + 1)

/-- PIN and UNPIN from step 7 on (R89). -/
def State.kvPin (s : State) (e : Env) (m : KvMsg) (unpin : Bool) : State :=
  let slot := handleSlot m.handle
  let r := s.sess slot
  let ps := pinList m.data
  match s.staging slot with
  | none => s.kvRefuse e m ⟨St.busyRetry, 0, 0⟩
  | some g =>
    if m.data.length ≠ 4 * m.count then s.kvRefuse e m ⟨St.badFrame, 0x32, 0⟩
    else if unpin then
      if ps.any (fun p => !g.globals.contains p) then s.kvRefuse e m ⟨St.badFrame, 0x33, 0⟩
      else
        let s := s.putStaging slot { g with globals := g.globals.filter (fun (p : Nat) => !ps.contains p) }
        let s := (List.range s.layers).foldl (fun s l => s.releaseRule slot l) s
        ((s.setLength slot).accepted slot true).kvAnswer e slot St.done 0 0 0 0
    else if r.dense then s.kvRefuse e m ⟨St.denied, 0, 0⟩
    else if ps.any (fun p => decide (r.length ≤ p) || !s.pinHeld slot p) then s.kvRefuse e m ⟨St.badFrame, 0x33, 0⟩
    else
      let out := pinAll g.globals ps
      let s := ((s.putStaging slot { g with globals := out.1 }).setLength slot).accepted slot true
      if out.2 = 0 then s.kvAnswer e slot St.done 0 0 0 0 else s.kvAnswer e slot St.limit 0 out.2 0 0

/-! ### KV_APPEND (R50, R85) -/

/-- The fields every form must have right (R82, R85): the reason of a BAD_FRAME. -/
def State.kvFields (s : State) (m : KvMsg) (form : Nat) : Option Nat :=
  let app := form == 0 || form == 1
  if 5 < form || m.zero15 != 0 || m.zero36 != 0
      || (app && (m.layerCount == 0 || decide (s.layers < m.layerFirst + m.layerCount)))
      || (!app && (m.layerFirst != 0 || m.layerCount != 0 || m.bytes != 0))
      || (form != 1 && form != 2 && m.aux != 0) || (form == 3 && m.count != 0)
      || ((form == 4 || form == 5) && m.firstPos != 0)
      || (form != 0 && form != 4 && form != 5 && !m.data.isEmpty) then some 0x35
  else none

/-- KV_APPEND after its tracker entry (R50, R85, R205). -/
def State.kvRun (s : State) (e : Env) (m : KvMsg) (form : Nat) : State :=
  let slot := handleSlot m.handle
  match (if form == 2 && !handleClean m.aux then some ⟨St.badFrame, 0x35, 0⟩
    else s.r50 e m.handle m.epoch 0x35 false (fun _ => false) (s.holderCell e true)) with
  | some x => s.kvRefuse e m x
  | none =>
    match s.kvFields m form with
    | some rs => s.kvRefuse e m ⟨St.badFrame, rs, 0⟩
    | none =>
      match s.needAreas slot with
      | (s, some a) => s.kvRefuse e m ⟨St.integrity, 0, a⟩
      | (s, none) =>
        if form = 2 then s.kvLink e m
        else if form = 3 then s.kvTruncate e m
        else if form = 4 ∨ form = 5 then s.kvPin e m (form == 5)
        else s.kvAppend e m form

/-- A KV_APPEND of a form. -/
def State.kvMessage (s : State) (e : Env) (c : Instr) (m : KvMsg) (form : Nat) : State :=
  s.message e c 0x03 (some (handleSlot m.handle)) (kvBody m.handle 0 0 0 0 0) (fun s => s.kvRun e m form)

/-- KV_APPEND, form INLINE, and the reserved forms (R82 to R85). -/
def execKvAppendInline (e : Env) (m : KvMsg) (s : State) : Res := .next (s.kvMessage e (.kvAppendInline e m) m m.form)

/-- KV_APPEND, form RDMA (R83, R283). -/
def execKvAppendRdma (e : Env) (m : KvMsg) (s : State) : Res := .next (s.kvMessage e (.kvAppendRdma e m) m 1)

/-- KV_APPEND, form LINK (R91 to R93). -/
def execLink (e : Env) (m : KvMsg) (s : State) : Res := .next (s.kvMessage e (.link e m) m 2)

/-- KV_APPEND, form TRUNCATE (R95, R96). -/
def execTruncate (e : Env) (m : KvMsg) (s : State) : Res := .next (s.kvMessage e (.truncate e m) m 3)

/-- KV_APPEND, form PIN (R89). -/
def execPin (e : Env) (m : KvMsg) (s : State) : Res := .next (s.kvMessage e (.pin e m) m 4)

/-- KV_APPEND, form UNPIN (R89). -/
def execUnpin (e : Env) (m : KvMsg) (s : State) : Res := .next (s.kvMessage e (.unpin e m) m 5)

/-! ### Eviction, ageing, XLATE (R72, R81, R99, R203) -/

/-- STAGING_EVICT (R81, R203): a staging area that a cold PARK has queued, or that eviction may take, leaves T1. -/
def execStagingEvict (t slot : Nat) (s : State) : Res :=
  let queued := s.tier.cold.any (fun c => c.slot == slot && c.unit == .staging slot)
  .next (if s.running && (queued || (s.stagingEligible slot && s.tier.evicting.contains (slotDie slot, 1))) then
    let s := s.tick t
    let parts := if queued then s.partialPages slot else []
    let u := s.evictStaging slot
    if (u.staging slot).isSome then s
    else { u with tier := { u.tier with
      cold := u.tier.cold.filter (fun (c : Cold) => !(c.slot == slot && c.unit == .staging slot))
        ++ parts.map (fun x => (⟨slotDie slot, slot, x⟩ : Cold)) } }
  else s)

/-- The ageing sweep of a die (R72). -/
def State.sweep (s : State) (die : Nat) : State :=
  let old := fun (a : Nat) => decide (512 ≤ s.ageOf die a)
  { s with kv := { s.kv with
      leaves := s.kv.leaves.map (fun (p : PageKey × Leaf) =>
        if slotDie p.1.slot = die ∧ p.2.share.isNone ∧ old p.2.age then (p.1, { p.2 with old := true }) else p)
      shared := s.kv.shared.map (fun (p : (Nat × Nat) × SharedPage) =>
        if p.1.1 = die ∧ old p.2.age then (p.1, { p.2 with old := true }) else p) } }

/-- AGEING_SWEEP (R72). -/
def execAgeingSweep (t die : Nat) (s : State) : Res :=
  .next (if s.running && s.fld die 0 Fld.XL_CTRL_SWEEP_EN == 1 then (s.tick t).sweep die else s)

/-- A write of XL_INVAL (R99). -/
def State.inval (s : State) (die : Nat) (v : Word) : State :=
  let n := getBits v 63 48
  let u := getBits v 47 0
  let hit := fun (x : Nat) => n == 0 || (decide (u ≤ x) && decide (x < u + n))
  { s with kv := { s.kv with
      tlb := s.kv.tlb.filter (fun (x : Nat × Nat) => !(x.1 == die && hit x.2))
      walkCache := s.kv.walkCache.filter (fun (x : Nat × Nat) => !(x.1 == die && (n == 0
        || (decide (u / 4096 ≤ x.2) && decide (x.2 ≤ (u + n - 1) / 4096))))) } }

/-- A leaf entry's 64 bits (R71). -/
def Leaf.word (l : Leaf) : Word :=
  let share := l.share.isSome
  BitVec.ofNat 64 (2 ^ 63 + l.tier * 2 ^ 60 + b2n share * 2 ^ 59 + (if share then 0 else l.kenc * 2 ^ 57 + l.venc * 2 ^ 55)
    + l.fill * 2 ^ 51 + (if share then 0 else b2n l.old * 2 ^ 50 + l.age % 1024 * 2 ^ 40) + l.loc % 2 ^ 40)

/-- The entry of a 64 KiB block (R71). -/
def blockWord (tier loc : Nat) : Word := BitVec.ofNat 64 (2 ^ 63 + 2 ^ 62 + tier * 2 ^ 60 + loc % 2 ^ 40)

/-- The leaf entry of a VUN, as a walk finds it, or zero (R68, R69, R71, R76, R164, R244). -/
def State.entryOf (s : State) (die vun : Nat) : Word :=
  if 0x800000000000 ≤ vun then
    let slot := (vun - 0x800000000000) / 2 ^ 27
    if slotDie slot ≠ die then 0
    else match s.leaf ⟨slot, vun / 2 ^ 20 % 128, vun % 2 ^ 20⟩ with
      | some l => l.word
      | none => 0
  else if 0x40000000 ≤ vun ∧ vun < 0x40000000 + 1048576 * 2048 then
    let slot := (vun - 0x40000000) / 2048
    let i := (vun - 0x40000000) % 2048
    if slotDie slot ≠ die then 0
    else match s.staging slot with
      | some g => if i < s.stagingBlocks then blockWord 1 (g.loc + 512 * i) else 0
      | none => match alGet slot s.kv.images with
        | some p => if i = 0 then blockWord p.tier p.loc else 0
        | none => 0
  else if 0x3FF80000 ≤ vun ∧ vun < 0x40000000 then
    match s.area (die * 524288 + (vun - 0x3FF80000)) with
    | some a => blockWord 1 a.loc
    | none => 0
  else 0

/-- A write of XL_PROBE (R99). -/
def State.probe (s : State) (die : Nat) (v : Word) : State :=
  (s.setReg die 0 Reg.XL_PROBE_RESULT (s.entryOf die (getBits v 47 0))).bump die 0 Fld.XL_TLB_STAT_WALKS

end Sys2Proof.Machine
end

