-- ==== Sys2Proof/Machine/Attention.lean ====
section
/-! DEFINITION. The attention service (spec/05): ATTEND, RESULT_FETCH, RESULT_RELEASE, the completion of units, fan-out waits,
automatic release and the end of retention; the teardown of a context (R337, R338); the list of HELD slots (R53). -/

namespace Sys2Proof.Machine

/-! ### Teardown (R337, R338) -/

/-- A context is torn down (R338, item 1 and the discard of item 3). A second fault of a torn context changes nothing. -/
def State.tearDown (s : State) (die ctx cause : Nat) : State :=
  if s.torn ctx then s
  else
    let s := (List.range 2).foldl (fun s d =>
      ((s.setFld d ctx Fld.LP_CTX_CTRL_TORN 1).setFld d ctx Fld.LP_CTX_CTRL_SCRUBBED 0).setFld d ctx Fld.LP_CTX_CTRL_CAUSE cause) s
    let s := { s with net := { s.net with reasm := s.net.reasm.filter (fun (x : Reasm) => !(x.key.ctx == ctx && !x.key.ekey)) } }
    s.raise die 0x70 { alert := true, ctx := some ctx }

/-! ### Headers of refusals (R130) -/

/-- The body of a refusal: zero for NO_SESSION, else the header with the record's epoch. -/
def State.resRefuseBody (s : State) (h step layer rflags : Nat) (x : Refuse) : List Byte :=
  if x.status = St.noSession then zeros 48
  else resHeader h (if s.liveHandle h then (s.sess (handleSlot h)).epoch else 0) 0 step layer rflags 0 x.detail 0 0

/-- A refusal of an ATTEND, fetch or release. -/
def State.resRefuse (s : State) (e : Env) (type h step layer rflags : Nat) (x : Refuse) : State :=
  let s := s.noteRefuse e (handleSlot h) x
  s.answer e type x.status x.reason (s.resRefuseBody h step layer rflags x)

/-! ### RESULT_FETCH (R51, R155 to R157) -/

/-- The key a fetch or release names. -/
def fetchKey (m : FetchMsg) : ResKey := ⟨m.epoch, m.step, m.layer⟩

/-- A result that R51 retains for the sender. -/
def State.retainedFor (s : State) (e : Env) (slot : Nat) (r : Result) : Bool :=
  r.slot == slot && r.ep == e.ep && r.ended.isSome && !s.retentionOver r

/-- A NOT_READY answer is counted (R161). -/
def State.notReady (s : State) (e : Env) (type slot : Nat) (body : List Byte) : State :=
  (s.bump (slotDie slot) 0 Fld.ATN_COUNTS1_NOT_READY).answer e type St.notReady 0 body

/-- A fetch of a key is served (R156). A repeated ATTEND has no determined form of its own, as a fetch has none (R428). -/
def State.serveFetch (s : State) (e : Env) (type h : Nat) (key : ResKey) : State :=
  let slot := handleSlot h
  let out := match s.result slot key with
    | some r =>
      if r.complete then
        let body := s.returnBody r true
        ((s.noteReturn r).untrack ⟨r.ep, r.context, false, r.keyGen⟩ r.reqId).answer e type r.nextStatus 0 body
      else s.notReady e type slot (s.headerOf r (s.expected r))
    | none =>
      match s.area slot with
      | some a =>
        if keyLe key a.mark then s.resRefuse e type h key.step key.layer 0 ⟨St.badFrame, 0x41, 0⟩
        else s.notReady e type slot (resHeader h key.epoch 0 key.step key.layer 0 (2 ^ 64 - 1) 0 0 0)
      | none => s.notReady e type slot (resHeader h key.epoch 0 key.step key.layer 0 (2 ^ 64 - 1) 0 0 0)
  { out with rp := { out.rp with answered := out.rp.answered.map (fun (a : Nat × Nat × List Byte) => (0x07, a.2.1, a.2.2)) } }

/-- A fetch or release is checked (R50, R51): one that names a retained result of the sender skips steps 4 to 6. -/
def State.fetchCheck (s : State) (e : Env) (m : FetchMsg) (kept : Bool) : Option Refuse :=
  match s.r50Id e m.handle 0x43 false with
  | some x => some x
  | none =>
    match (if kept then none else s.r50 e m.handle m.epoch 0x43 false (fun _ => false) (s.holderCell e false)) with
    | some x => some x
    | none => if m.zero ≠ 0 ∨ s.layers ≤ m.layer then some ⟨St.badFrame, 0x43, 0⟩ else none

/-- RESULT_FETCH after its tracker entry. -/
def State.fetchRun (s : State) (e : Env) (m : FetchMsg) : State :=
  let slot := handleSlot m.handle
  let kept := match s.result slot (fetchKey m) with | some r => s.retainedFor e slot r | none => false
  match s.fetchCheck e m kept with
  | some x => s.resRefuse e 0x07 m.handle m.step m.layer 0 x
  | none =>
    if let some off := e.areaFail then s.resRefuse e 0x07 m.handle m.step m.layer 0 ⟨St.integrity, 0, memFail 1 (slotDie slot) off⟩
    else if kept then s.serveFetch e 0x07 m.handle (fetchKey m)
    else match s.needAreas slot with
      | (s, some a) => s.resRefuse e 0x07 m.handle m.step m.layer 0 ⟨St.integrity, 0, a⟩
      | (s, none) => (s.accepted slot false).serveFetch e 0x07 m.handle (fetchKey m)

/-- RESULT_FETCH (R50, R51, R132, R155, R156, R157). -/
def execResultFetch (e : Env) (m : FetchMsg) (s : State) : Res :=
  .next (s.message e (.resultFetch e m) 0x07 (some (handleSlot m.handle)) (resHeader m.handle 0 0 m.step m.layer 0 0 0 0 0)
    (fun s => s.fetchRun e m))

/-! ### RESULT_RELEASE (R158) -/

/-- The header of an accepted release. -/
def State.releaseAnswer (s : State) (e : Env) (m : FetchMsg) : State :=
  s.answer e 0x08 St.done 0 (resHeader m.handle m.epoch 0 m.step m.layer 0 0 0 0 0)

/-- RESULT_RELEASE after its tracker entry: from the holder, and from a former holder (R158). -/
def State.releaseRun (s : State) (e : Env) (m : FetchMsg) : State :=
  let slot := handleSlot m.handle
  let key := fetchKey m
  let kept := match s.result slot key with | some r => s.retainedFor e slot r | none => false
  match s.fetchCheck e m kept with
  | some x => s.resRefuse e 0x08 m.handle m.step m.layer 0 x
  | none =>
    if kept then
      (s.dropResults slot (fun r => s.retainedFor e slot r && keyLe r.key key)).releaseAnswer e m
    else match s.needAreas slot with
      | (s, some a) => s.resRefuse e 0x08 m.handle m.step m.layer 0 ⟨St.integrity, 0, a⟩
      | (s, none) =>
        (((s.dropResults slot (fun r => keyLe r.key key)).raiseMark slot key).accepted slot false).releaseAnswer e m

/-- RESULT_RELEASE (R50, R51, R158). -/
def execResultRelease (e : Env) (m : FetchMsg) (s : State) : Res :=
  .next (s.message e (.resultRelease e m) 0x08 (some (handleSlot m.handle)) (resHeader m.handle 0 0 m.step m.layer 0 0 0 0 0)
    (fun s => s.releaseRun e m))

/-! ### ATTEND (R124 to R134, R144) -/

/-- The key of an ATTEND. -/
def attendKey (m : AttendMsg) : ResKey := ⟨m.epoch, m.step, m.layer⟩
/-- Bit `i` of AFLAGS (R125). -/
def aflag (m : AttendMsg) (i : Nat) : Bool := m.aflags / 2 ^ i % 2 == 1
/-- OUTFORM and DEST of RFLAGS, "as in the request" (R131). -/
def attendRflags (m : AttendMsg) : Nat := b2n (aflag m 1) + 64 * b2n (aflag m 3)

/-- Bytes of DATA (R126). -/
def State.attendSize (s : State) (m : AttendMsg) : Nat := s.qh * s.dim * 2 + (if aflag m 0 then s.rowBytes else 0)

/-- R128, item 1: the key is held, or lies at or below the release mark. -/
def State.attendRepeat (s : State) (slot : Nat) (key : ResKey) : Bool :=
  (s.result slot key).isSome || (match s.area slot with | some a => keyLe key a.mark | none => false)

/-- R128, item 2. -/
def State.attendFields (s : State) (m : AttendMsg) : Bool :=
  decide (m.aflags < 16) && decide (m.layer < s.layers) && (aflag m 2 || m.qoff == 0) && (aflag m 3 || m.doff == 0)

/-- R128, item 3, as far as lengths go: DATA in the frame, or the length in the header of the ingest object. -/
def State.attendSizeOk (s : State) (slot : Nat) (m : AttendMsg) : Bool :=
  if aflag m 2 then
    m.data.isEmpty && (match s.net.ingest.find? (fun (x : Ingest) => x.die == slotDie slot && x.ctx == (s.sess slot).context
        && x.obj.off == m.qoff) with
      | some x => x.obj.length == s.attendSize m
      | none => true)
  else m.data.length == s.attendSize m

/-- R128, item 5: 8,192 distinct sessions have had this STEP, and this one is not among them. -/
def State.stepFull (s : State) (slot step : Nat) : Bool :=
  decide (Config.stepSessions ≤ (s.attn.attendSteps.filter (fun p => p.1 == step)).length)
    && !s.attn.attendSteps.contains (step, slot)

/-- R128, item 6: the store is full, or the context holds all it may. -/
def State.storeFull (s : State) (slot : Nat) : Bool :=
  let die := slotDie slot
  let ctx := (s.sess slot).context
  decide (s.fld die 0 Fld.ATN_STORE_ENTRIES ≤ s.fld die 0 Fld.ATN_STORE_USE_USED)
    || decide (s.fld die ctx Fld.ATN_CTX_RES_MAX ≤ s.fld die ctx Fld.ATN_CTX_RES_USE)

/-- A refusal under R128, item 6: counted, with event STORE_FULL (R160). -/
def State.noteStoreFull (s : State) (slot : Nat) : State :=
  let die := slotDie slot
  (s.bump die 0 Fld.ATN_COUNTS1_STORE_FULL).raiseOnce die 0x31 0
    { ctx := some (s.sess slot).context, a0 := (s.sess slot).handle slot }

/-- The units of a request (R144): one for each KV head and non-empty segment. -/
def unitsOf (kvh : Nat) (views : List View) : List AttnUnit :=
  ((List.range kvh).map (fun k => (segmentsOf views).map (fun j =>
    ({ kvHead := k, seg := j, st := .queued, core := 0, parts := [] } : AttnUnit)))).flatten

/-- The result of an accepted ATTEND before any unit has run (R130, R133, R143, R153). -/
def State.newResult (s : State) (e : Env) (m : AttendMsg) (slot rseq dropped : Nat) (query : List BF16) (nonfinite : Bool) : Result :=
  let die := slotDie slot
  let ctx := (s.sess slot).context
  let views := s.walk slot m.layer
  let units := unitsOf s.kvh views
  { slot, key := attendKey m, context := ctx, ep := e.ep, port := e.port, src := e.src, srcUdp := e.srcUdp, keyGen := e.keyGen
    reqId := e.reqId, at_ := s.now, order := s.attn.nextOrder, rseq, outFp32 := aflag m 1, dest := aflag m 3, doff := m.doff
    relaxed := s.fld die ctx Fld.ATN_CTX_MODE_RELAXED == 1, fanout := false, late := false, nonfinite, overflow := false
    empty := units.isEmpty, dropped, attended := attendedCount views
    qform := s.fld die ctx Fld.ATN_CTX_MODE_QFORM, pform := s.fld die ctx Fld.ATN_CTX_MODE_PFORM
    scale := BitVec.ofNat 32 (s.fld die ctx Fld.ATN_CTX_SCALE_SCALE)
    query := query.map bfClean, views, units, running := List.replicate s.qh (Partial.start s.dim)
    complete := false, integrity := none, data := [], delivery := .waiting, firstRet := none
    auto := s.fld die ctx Fld.ATN_CTX_MODE_AUTO_RELEASE, ended := none, overdue := false, msg := s.msgNo }

/-- The result takes its store entry, and its units their cluster's queue. -/
def State.addResult (s : State) (e : Env) (r : Result) : State :=
  let die := slotDie r.slot
  let s := { s with
    attn := { s.attn with
      results := s.attn.results ++ [r]
      nextOrder := s.attn.nextOrder + 1
      attendSteps := if s.attn.attendSteps.contains (r.key.step, r.slot) then s.attn.attendSteps
                     else (r.key.step, r.slot) :: s.attn.attendSteps
      recent := (r.slot, s.step) :: s.attn.recent.filter (fun (p : Nat × Nat) => p.1 != r.slot) }
    lamp := { s.lamp with track := s.lamp.track.map (fun (x : Track) =>
      if x.key = envKey e ∧ x.reqId = e.reqId then { x with result := some r.key } else x) } }
  let s := (s.bump die 0 Fld.ATN_STORE_USE_USED).bump die r.context Fld.ATN_CTX_RES_USE
  if r.empty then s.finishResult r.slot r.key else (s.pump die (s.home r.slot)).runPromos die

/-- The row of an ATTEND is appended (R78 to R80, R90): the state, and the positions dropped. -/
def State.attendAppend (s : State) (slot : Nat) (m : AttendMsg) (row : List BF16) : State × Nat :=
  if aflag m 0 then
    match s.staging slot with
    | some g =>
      if g.len m.layer < Config.maxPositions (s.sess slot).dense then ((s.appendRow slot m.layer row).setLength slot, 0)
      else (s, 1)
    | none => (s, 0)
  else (s, 0)

/-- An ATTEND that has passed every check is carried out. -/
def State.attendApply (s : State) (e : Env) (m : AttendMsg) (slot : Nat) (xs : List BF16) : State :=
  let nq := s.qh * s.dim
  match s.attendAppend slot m (xs.drop nq) with
  | (s, dropped) =>
    match s.area slot with
    | none => s
    | some a =>
      let r := s.newResult e m slot a.rseqNext dropped (xs.take nq) (xs.any bfNonfinite)
      let s := s.putArea slot { a with rseqNext := (a.rseqNext + 1) % 2 ^ 32 }
      (s.accepted slot true).addResult e r

/-- Steps 7 and 8 of an ATTEND from item 2 of R128 on. -/
def State.attendTests (s : State) (e : Env) (m : AttendMsg) : State :=
  let slot := handleSlot m.handle
  let refuse := fun (s : State) (x : Refuse) => s.resRefuse e 0x06 m.handle m.step m.layer (attendRflags m) x
  match s.staging slot with
  | none => refuse s ⟨St.busyRetry, 0, 0⟩
  | some g =>
    if !s.attendFields m then refuse s ⟨St.badFrame, 0x43, 0⟩
    else if !s.attendSizeOk slot m then refuse s ⟨St.badFrame, 0x42, 0⟩
    else match s.openData e slot (aflag m 2) m.qoff (s.attendSize m) m.data with
      | (s, .inl rs) => refuse s ⟨St.badFrame, rs, 0⟩
      | (s, .inr d) =>
        if m.len ≠ g.len m.layer + b2n (aflag m 0) then refuse s ⟨St.badFrame, 0x40, 0⟩
        else if s.stepFull slot m.step then refuse s ⟨St.busyRetry, 0, 0⟩
        else if s.storeFull slot then refuse (s.noteStoreFull slot) ⟨St.busyRetry, 0, 0⟩
        else
          let n := if aflag m 0 ∧ g.len m.layer < Config.maxPositions (s.sess slot).dense then 1 else 0
          match s.allocTest slot (s.appendNeed slot m.layer 1 n) with
          | some st => refuse s ⟨st, 0, 0⟩
          | none => s.attendApply e m slot (bf16s d)

/-- ATTEND after its tracker entry (R50, R128). -/
def State.attendRun (s : State) (e : Env) (m : AttendMsg) : State :=
  let slot := handleSlot m.handle
  let refuse := fun (s : State) (x : Refuse) => s.resRefuse e 0x06 m.handle m.step m.layer (attendRflags m) x
  if s.fld (slotDie slot) 0 Fld.ATN_CTRL_ENABLE = 0 then refuse s ⟨St.busyRetry, 0, 0⟩
  else match s.r50 e m.handle m.epoch 0x43 false (fun _ => false) (s.holderCell e false) with
    | some x => refuse s x
    | none =>
      match s.needAreas slot with
      | (s, some a) => refuse s ⟨St.integrity, 0, a⟩
      | (s, none) =>
        if let some off := e.areaFail then refuse s ⟨St.integrity, 0, memFail 1 (slotDie slot) off⟩
        else if s.attendRepeat slot (attendKey m) then (s.accepted slot true).serveFetch e 0x06 m.handle (attendKey m)
        else s.attendTests e m

/-- ATTEND (R124 to R134, R144, R153). -/
def execAttend (e : Env) (m : AttendMsg) (s : State) : Res :=
  .next (s.message e (.attend e m) 0x06 (some (handleSlot m.handle)) (resHeader m.handle 0 0 m.step m.layer (attendRflags m) 0 0 0 0)
    (fun s => s.attendRun e m))

/-! ### Units (R139 to R144, R149, R206, R218) -/

/-- The partials of a unit join a relaxed request's running totals (R143): the first is the total, later ones its right
operand. -/
def addRunning (g kvHead : Nat) (parts run : List Partial) : List Partial :=
  run.zipIdx.map (fun (p : Partial × Nat) =>
    if p.2 / g = kvHead then
      match parts[p.2 % g]? with
      | some x => if p.1.m = Fl.negInf.v then x else combine p.1 x
      | none => p.1
    else p.1)

/-- The pages a unit reads are walked and their ages stamped (R72, R75). -/
def State.readPages (s : State) (r : Result) (seg : Nat) : State :=
  ((r.segViews seg).filter (fun v => !v.rows.isEmpty)).foldl (fun s v =>
    match v.src with
    | .staging _ => s
    | .stored _ _ =>
      let k : PageKey := ⟨r.slot, r.key.layer, v.page⟩
      if (s.leaf k).isSome then (s.touch k).walkPage (slotDie r.slot) k.vun else s) s

/-- A unit has computed its partials; the last one of the request completes the result (R139, R141, R143). -/
def State.unitComputed (s : State) (r : Result) (u : AttnUnit) : State :=
  let parts := s.unitParts r u.kvHead u.seg
  let s := s.readPages r u.seg
  let s := s.mapUnit r.slot r.key u.kvHead u.seg (fun u => { u with st := .done, parts := if r.relaxed then [] else parts })
  let s := if r.relaxed then
      s.mapResult r.slot r.key (fun r => { r with running := addRunning (s.qh / s.kvh) u.kvHead parts r.running })
    else s
  s.finishResult r.slot r.key

/-- A walk fails (R75, R98): counted, and reported with the entry's address. -/
def State.walkFault (s : State) (die : Nat) (ctx addr : Nat) : State :=
  (s.bump die 0 Fld.XL_TLB_STAT_WALK_FAULT).raise die 0x20 { alert := true, ctx := some ctx, a0 := addr }

/-- A T0 copy that could not be corrected is dropped and counted (R218): of a session's page or its staging rows, or of the
shared page that the entry names. -/
def State.loseCopy (s : State) (r : Result) (u : AttnUnit) (page : Option Nat) : State :=
  let die := slotDie r.slot
  let cl := s.home r.slot
  let share := page.bind (fun p => (s.leaf ⟨r.slot, r.key.layer, p⟩).bind (fun l => l.share))
  let hit := fun (c : T0Copy) => c.die == die && c.cluster == cl && c.layer == r.key.layer && c.step == r.key.step
    && (if share.isSome then c.share == share else c.slot == r.slot && c.page == page)
  let s := (s.kv.copies.filter hit).foldl (fun s c =>
    ({ s with kv := { s.kv with copies := s.kv.copies.erase c } }).dealloc die 0 (s.sess c.slot).context c.granules) s
  ((s.bump die 0 Fld.TR_COUNTS_T0_UE).logErr die 5 cl 0 false false 0 0 (memFail 0 die s.freeVal)).nextFree.sramError die cl u.core

/-- The outcome of a unit on its engine. -/
def State.unitOutcome (s : State) (r : Result) (u : AttnUnit) : UnitOutcome → State
  | .done => s.unitComputed r u
  | .copyLost page =>
    let t := s.loseCopy r u page
    if (t.result r.slot r.key).any (fun x => x.units.any (fun v => v.kvHead == u.kvHead && v.seg == u.seg && v.st == .running))
    then t.unitComputed r u else t
  | .tileFail page tile cause =>
    let die := slotDie r.slot
    let k : PageKey := ⟨r.slot, r.key.layer, page⟩
    let loc := match s.leaf k with | some l => s.pageLoc k l | none => 0
    let addr := tileFail 1 cause tile loc
    (s.tileCheck die addr).failResult r.slot r.key addr
  | .walkFail addr => (s.walkFault (slotDie r.slot) r.context addr).failResult r.slot r.key addr
  | .entryUnread off =>
    let die := slotDie r.slot
    ((s.t1Fail die off).walkFault die r.context (memFail 1 die off)).failResult r.slot r.key (memFail 1 die off)
  | .ctxMismatch addr =>
    ((s.tearDown (slotDie r.slot) r.context 1).walkFault (slotDie r.slot) r.context addr).failResult r.slot r.key addr
  | .sramFail off =>
    let die := slotDie r.slot
    let s := s.logErr die 5 (s.home r.slot) 0 false false 0 0 (memFail 0 die off)
    (s.sramError die (s.home r.slot) u.core).failResult r.slot r.key (memFail 0 die off)
  | .needsPage page => s.waitPage r u page

/-- ATTN_UNIT_DONE (R139 to R144, R149): of a unit that runs. Engines and transmitters go on. -/
def execAttnUnitDone (t slot : Nat) (key : ResKey) (kvHead seg : Nat) (o : UnitOutcome) (s : State) : Res :=
  match s.result slot key with
  | none => .next s
  | some r =>
    match r.units.find? (fun u => u.kvHead == kvHead && u.seg == seg && u.st == .running) with
    | none => .next s
    | some u =>
      if !s.running then .next s
      else
        let s := ((s.tick t).unitOutcome r u o)
        let s := (s.remapIdle.pump (slotDie slot) (s.home slot)).runPromos (slotDie slot)
        .next s.pickAll.formResults

/-- FANOUT_WAIT_EXPIRED (R151): the groups of a cluster whose wait is over start. -/
def execFanoutWaitExpired (t die cluster : Nat) (s : State) : Res :=
  .next (if s.running then (s.tick t).startGroups die cluster else s)

/-- AUTO_RELEASE (R158): a result whose boundaries have passed and that no bookkeeping has taken yet is released. -/
def execAutoRelease (t slot : Nat) (key : ResKey) (s : State) : Res :=
  match s.result slot key with
  | some r => .next (if s.running && s.autoDue r then (s.tick t).autoRelease slot key else s)
  | none => .next s

/-- RETENTION_END (R51): a result of an ended epoch whose retention is over leaves the store. -/
def execRetentionEnd (t slot : Nat) (key : ResKey) (s : State) : Res :=
  match s.result slot key with
  | some r => .next (if s.running && s.retentionOver r then (s.tick t).dropResult slot key else s)
  | none => .next s

/-! ### The HELD list (R52, R53) -/

/-- The oldest unread entry of a die's HELD list, which leaves it (R53, R64). -/
def State.takeHeld (s : State) (die : Nat) : State × Option Nat :=
  if die = 0 then ({ s with ses := { s.ses with held0 := s.ses.held0.drop 1 } }, s.ses.held0.head?)
  else ({ s with ses := { s.ses with held1 := s.ses.held1.drop 1 } }, s.ses.held1.head?)

end Sys2Proof.Machine
end

