-- ==== Sys2Proof/Machine/Crypto.lean ====
section
/-! DEFINITION. AES-128 encryption of one block (FIPS 197), which R181 draws with. -/

namespace Sys2Proof.Machine

/-- Multiplication by x in GF(2^8). -/
def xtime (b : Byte) : Byte := (b <<< 1) ^^^ (if b.getLsbD 7 then 0x1B else 0)

/-- Multiplication in GF(2^8), from bit `n − 1` of `b` down. -/
def gmulAux (a b : Byte) : Nat → Byte
  | 0 => 0
  | n + 1 => (if b.getLsbD (7 - n) then a else 0) ^^^ gmulAux (xtime a) b n

/-- Multiplication in GF(2^8). -/
def gmul (a b : Byte) : Byte := gmulAux a b 8

/-- Inversion in GF(2^8): a^254, and 0 for 0. -/
def ginv (a : Byte) : Byte :=
  let a2 := gmul a a
  let a4 := gmul a2 a2
  let a8 := gmul a4 a4
  let a16 := gmul a8 a8
  let a32 := gmul a16 a16
  let a64 := gmul a32 a32
  let a128 := gmul a64 a64
  gmul a2 (gmul a4 (gmul a8 (gmul a16 (gmul a32 (gmul a64 a128)))))

/-- The S-box. -/
def sbox (a : Byte) : Byte :=
  let b := ginv a
  b ^^^ b.rotateLeft 1 ^^^ b.rotateLeft 2 ^^^ b.rotateLeft 3 ^^^ b.rotateLeft 4 ^^^ 0x63

/-- Two byte strings added. -/
def xorBytes (a b : List Byte) : List Byte := a.zipWith (· ^^^ ·) b

/-- The next round key. -/
def nextKey (rcon : Byte) (k : List Byte) : List Byte :=
  let w := chunks 4 k
  let w3 := w.getD 3 []
  let t := xorBytes ((w3.drop 1 ++ w3.take 1).map sbox) [rcon, 0, 0, 0]
  let v0 := xorBytes (w.getD 0 []) t
  let v1 := xorBytes (w.getD 1 []) v0
  let v2 := xorBytes (w.getD 2 []) v1
  v0 ++ v1 ++ v2 ++ xorBytes w3 v2

/-- ShiftRows: byte 4c + r comes from column c + r. -/
def shiftRows (s : List Byte) : List Byte :=
  (List.range 16).map (fun i => s.getD (i % 4 + 4 * ((i / 4 + i % 4) % 4)) 0)

/-- MixColumns of one column. -/
def mixColumn (c : List Byte) : List Byte :=
  let g := fun (i : Nat) => c.getD (i % 4) 0
  (List.range 4).map (fun i => xtime (g i) ^^^ (xtime (g (i + 1)) ^^^ g (i + 1)) ^^^ g (i + 2) ^^^ g (i + 3))

/-- Rounds 1 to 9, then the last round without MixColumns. -/
def aesRounds : List Byte → List Byte → List Byte → List Byte
  | [], _, s => s
  | [rcon], k, s => xorBytes (shiftRows (s.map sbox)) (nextKey rcon k)
  | rcon :: l, k, s =>
    let k' := nextKey rcon k
    aesRounds l k' (xorBytes (((chunks 4 (shiftRows (s.map sbox))).map mixColumn).flatten) k')

/-- AES-128 of a block of 16 bytes under a key of 16 bytes. -/
def aes128 (key block : List Byte) : List Byte :=
  aesRounds [0x01, 0x02, 0x04, 0x08, 0x10, 0x20, 0x40, 0x80, 0x1B, 0x36] key (xorBytes block key)

end Sys2Proof.Machine
end

