-- ==== Sys2Proof/Machine/Finishing.lean ====
section
/-! DEFINITION. Token finishing (spec/06): FINISH in its four forms, penalties, filters, the draw, grammars, text in and text
out. -/

namespace Sys2Proof.Machine

/-! ### FP32 operations of the finisher (R175): a result outside FP32 is a free value (log 6) -/

/-- A result, or the free value where it overflowed. -/
def finFix (op : Nat) (a b : F32) (x : Fl) : F32 := if x.o then Config.finishOverflow op a b else x.v
/-- fl(a + b). -/
def fadd (a b : F32) : F32 := finFix 0 a b ((Fl.of a).add (Fl.of b))
/-- fl(a − b). -/
def fsub (a b : F32) : F32 := finFix 1 a b ((Fl.of a).sub (Fl.of b))
/-- fl(a × b). -/
def fmul (a b : F32) : F32 := finFix 2 a b ((Fl.of a).mul (Fl.of b))
/-- fl(a / b). -/
def fdiv (a b : F32) : F32 := finFix 3 a b ((Fl.of a).div (Fl.of b))
/-- e^x (R138). -/
def fexp (a : F32) : F32 := (Fl.of a).exp.v
/-- a < b. -/
def flt (a b : F32) : Bool := decide (f32Key a < f32Key b)
/-- A small number as FP32, exactly. -/
def fnat (n : Nat) : F32 := (Fl.ofDy ⟨n, 0⟩ false).v
/-- 1.0. -/
def fone : F32 := 0x3F800000

/-! ### Symbols in and out -/

/-- The logits of a DRAW as FP32 patterns (R165, R175). -/
def logits : Nat → List Byte → List F32
  | 2, a :: b :: l => BitVec.ofNat 32 ((a.toNat + 256 * b.toNat) * 65536) :: logits 2 l
  | 4, a :: b :: c :: d :: l => BitVec.ofNat 32 (leNat [a, b, c, d]) :: logits 4 l
  | _, _ => []

/-- A logit that takes part, with +∞ brought to the largest finite value (R175). -/
def cleanLogit (z : F32) : Option F32 :=
  if f32Nonfinite z then (if z = 0x7F800000 then some 0x7F7FFFFF else none) else some z

/-- An item of a FEED (R187). -/
inductive FeedItem where
  | text (l : List Byte)
  | control (c : Nat)
  deriving DecidableEq, Repr

/-- The items of a FEED, parsed in order; the first problem decides (R168, R187). -/
def feedItems (alpha : Nat) : Nat → List Byte → Nat ⊕ List FeedItem
  | _, [] => .inr []
  | 0, _ :: _ => .inl 0x52
  | fuel + 1, b :: l =>
    if b = 0 then
      let n := beNat (l.take 4)
      if l.length < 4 ∨ (l.drop 4).length < n then .inl 0x52
      else match feedItems alpha fuel ((l.drop 4).drop n) with
        | .inl r => .inl r
        | .inr is => .inr (.text ((l.drop 4).take n) :: is)
    else if b = 1 then
      match l with
      | [] => .inl 0x52
      | c :: l =>
        if alpha - 256 ≤ c.toNat then .inl 0x53
        else match feedItems alpha fuel l with
          | .inl r => .inl r
          | .inr is => .inr (.control c.toNat :: is)
    else .inl 0x53

/-- Symbols of an item (R187). -/
def FeedItem.syms : FeedItem → List Nat
  | .text l => l.map (·.toNat)
  | .control c => [256 + c]

/-- The allowed range of byte 2 after byte 1 (R190). -/
def secondOk (a b : Nat) : Bool :=
  if a = 0xE0 then decide (0xA0 ≤ b ∧ b ≤ 0xBF) else if a = 0xED then decide (0x80 ≤ b ∧ b ≤ 0x9F)
  else if a = 0xF0 then decide (0x90 ≤ b ∧ b ≤ 0xBF) else if a = 0xF4 then decide (0x80 ≤ b ∧ b ≤ 0x8F)
  else decide (0x80 ≤ b ∧ b ≤ 0xBF)

/-- Bytes of the sequence that byte 1 starts, or 0 (R190). -/
def seqLen (a : Nat) : Nat :=
  if a ≤ 0x7F then 1 else if 0xC2 ≤ a ∧ a ≤ 0xDF then 2 else if 0xE0 ≤ a ∧ a ≤ 0xEF then 3
  else if 0xF0 ≤ a ∧ a ≤ 0xF4 then 4 else 0

/-- Bytes that are a prefix, whole or proper, of a well-formed sequence (R190). -/
def utfPrefix : List Nat → Bool
  | [] => false
  | a :: l => seqLen a != 0 && decide (l.length < seqLen a) && (match l with
    | [] => true
    | b :: m => secondOk a b && m.all (fun c => decide (0x80 ≤ c ∧ c ≤ 0xBF)))

/-- A proper prefix of a well-formed sequence. -/
def utfProper (l : List Nat) : Bool := utfPrefix l && (match l with | [] => false | a :: _ => decide (l.length < seqLen a))

/-- U+FFFD as bytes (R191). -/
def fffd : List Byte := [0xEF, 0xBF, 0xBD]

/-- A byte processed while nothing is held (R191): emitted bytes, held bytes. -/
def detokFresh (b : Byte) : List Byte × List Byte :=
  if seqLen b.toNat = 1 then ([b], []) else if 2 ≤ seqLen b.toNat then ([], [b]) else (fffd, [])

/-- A drawn byte symbol processed (R191): emitted bytes, held bytes. -/
def detok (held : List Byte) (b : Byte) : List Byte × List Byte :=
  if held.isEmpty then detokFresh b
  else
    let l := held ++ [b]
    let ns := l.map (·.toNat)
    if utfPrefix ns then (if utfProper ns then ([], l) else (l, []))
    else let r := detokFresh b; (fffd ++ r.1, r.2)

/-- A flush (R192): emitted bytes, and whether bytes were held. -/
def flushHeld (held : List Byte) : List Byte := if held.isEmpty then [] else fffd

/-- The text that a FEED keeps of a cut item (R188): an unfinished sequence at its end is dropped too. -/
def cutText (l : List Byte) : List Byte :=
  let tail := fun (n : Nat) => decide (n ≤ l.length) && utfProper ((l.drop (l.length - n)).map (·.toNat))
  if tail 3 then l.take (l.length - 3) else if tail 2 then l.take (l.length - 2)
  else if tail 1 then l.take (l.length - 1) else l

/-- The symbols kept under the input limit (R188). -/
def keepSyms (limit : Nat) : List FeedItem → List Nat
  | [] => []
  | .control c :: l => if limit = 0 then [] else (256 + c) :: keepSyms (limit - 1) l
  | .text t :: l =>
    if t.length ≤ limit then t.map (·.toNat) ++ keepSyms (limit - t.length) l
    else (cutText (t.take limit)).map (·.toNat)

/-! ### Counts (R176) -/

/-- The penalties of one symbol with count `c`. -/
def penalise (m : FinMsg) (c : Nat) (z : F32) : F32 :=
  if c = 0 then z
  else
    let z := if flt 0 z then fdiv z m.rep else fmul z m.rep
    fsub (fsub z (fmul (fnat c) m.freq)) m.pres

/-- A symbol is counted: the area, and whether its count saturated. -/
def FinArea.count (a : FinArea) (s : Nat) : FinArea × Bool :=
  if a.window = 0 then
    let c := a.counts.getD s 0
    if 65535 ≤ c then (a, true) else ({ a with counts := a.counts.set s (c + 1) }, false)
  else
    let counts := if a.window ≤ a.histFill then
        (match alGet a.histHead a.hist with
         | some o => a.counts.set o (a.counts.getD o 0 - 1)
         | none => a.counts)
      else a.counts
    ({ a with counts := counts.set s (counts.getD s 0 + 1)
              hist := alSet a.histHead s a.hist
              histHead := (a.histHead + 1) % a.window
              histFill := min a.window (a.histFill + 1) }, false)

/-- A list of symbols is counted: the area, and how many counts saturated. -/
def FinArea.countAll (a : FinArea) : List Nat → FinArea × Nat
  | [] => (a, 0)
  | s :: l => let r := a.count s; let q := FinArea.countAll r.1 l; (q.1, q.2 + b2n r.2)

/-! ### The automaton (R183 to R186) -/

/-- Where an automaton stands: state, depth, stack. -/
structure Auto where
  q : Nat
  sp : Nat
  stack : List Nat
  deriving DecidableEq, Repr

/-- Bytes of a state row (R183). -/
def Gram.rowBytes (g : Gram) : Nat := 64 * ceilDiv (8 + 4 * g.alpha) 64

/-- The entry of a symbol in the row of state `q`; REJECT where there is none. -/
def Gram.entry (g : Gram) (q s : Nat) : GramEntry :=
  match g.rows[q]? with
  | some r => (r.entries[s]?).getD ⟨0, 0⟩
  | none => ⟨0, 0⟩

/-- A symbol is allowed (R185). -/
def Gram.allows (g : Gram) (a : Auto) (s : Nat) : Bool :=
  let e := g.entry a.q s
  e.action == 1 || (e.action == 2 && decide (a.sp < 256)) || (e.action == 3 && decide (0 < a.sp))

/-- Where the bad state came from (R185): a row, or a stack entry. -/
inductive BadState where
  | row (q : Nat)
  | stack (i : Nat)
  deriving DecidableEq, Repr

/-- An allowed symbol is taken (R185). -/
def Gram.take (g : Gram) (a : Auto) (s : Nat) : BadState ⊕ Auto :=
  let e := g.entry a.q s
  if e.action = 3 then
    let t := a.stack.getD (a.sp - 1) 0
    if g.states ≤ t then .inl (.stack (a.sp - 1)) else .inr { a with q := t, sp := a.sp - 1 }
  else if g.states ≤ e.target then .inl (.row a.q)
  else if e.action = 2 then
    let c := match g.rows[a.q]? with | some r => r.cont | none => 0
    .inr { q := e.target, sp := a.sp + 1, stack := (a.stack.take a.sp ++ [c]) ++ a.stack.drop (a.sp + 1) }
  else .inr { a with q := e.target }

/-- How an automaton fares over a list of symbols: a rejected index, a bad state, or where it ends. -/
inductive Walked where
  | reject (i : Nat)
  | bad (b : BadState)
  | ends (a : Auto)
  deriving DecidableEq, Repr

/-- Symbols taken in order from index `i` (R189). -/
def Gram.walk (g : Gram) (i : Nat) (a : Auto) : List Nat → Walked
  | [] => .ends a
  | s :: l =>
    if g.allows a s then
      match g.take a s with
      | .inl b => .bad b
      | .inr a => g.walk (i + 1) a l
    else .reject i

/-- The automaton a session has selected on a die. -/
def State.gramOf (s : State) (slot : Nat) : Option Gram :=
  let f := (s.sess slot).fin
  if f.on then alGet (slotDie slot, f.gram % 4096) s.grams else none

/-- The automaton state of a session. -/
def autoOf (f : FinState) (a : FinArea) : Auto := ⟨f.gstate, f.sp, a.stack⟩

/-- The address of a bad state (R171, R185, R214). -/
def badAddr (slot : Nat) (g : Gram) (a : FinArea) : BadState → Nat
  | .row q => memFail 1 (slotDie slot) (g.loc * 128 + q * g.rowBytes)
  | .stack i => memFail 1 (slotDie slot) (a.loc * 128 + 640 + 2 * i)

/-- ACCEPT of the state a session stands in (R184). -/
def gramAccept (g : Option Gram) (q : Nat) : Bool :=
  match g with
  | some g => (match g.rows[q]? with | some r => r.accept | none => false)
  | none => false

/-! ### Ranking and filters (R178 to R181) -/

/-- A candidate enters the ranking: descending value, ties in ascending symbol. Symbols come in ascending order. -/
def rankIn (c : Nat × F32) : List (Nat × F32) → List (Nat × F32)
  | [] => [c]
  | d :: l => if flt d.2 c.2 then c :: d :: l else d :: rankIn c l

/-- The ranking of candidates given in ascending symbol. -/
def ranking (l : List (Nat × F32)) : List (Nat × F32) := l.foldl (fun r c => rankIn c r) []

/-- Running sums of weights in rank order (R179). -/
def runSums (acc : Option F32) : List F32 → List F32
  | [] => []
  | w :: l => let a := match acc with | some x => fadd x w | none => w; a :: runSums (some a) l

/-- Candidates that top-p keeps: the smallest prefix whose running sum reaches fl(TOPP × total), and at least MIN_KEEP (R179). -/
def topP (topp : F32) (minKeep : Nat) (ws : List F32) : Nat :=
  if flt 0 topp && flt topp fone then
    let sums := runSums none ws
    let goal := fmul topp (sums.getLast?.getD 0)
    max ((sums.takeWhile (fun x => flt x goal)).length + 1) minKeep
  else ws.length

/-- Candidates that min-p keeps (R179). -/
def minP (minp : F32) (minKeep : Nat) (ws : List F32) : Nat :=
  if flt 0 minp then max (ws.filter (fun w => !flt w minp)).length minKeep else ws.length

/-- The quantised weight of R181. -/
def quantW (w : F32) : Nat := (((Fl.of w).dy.mul ⟨1, 24⟩).floor).toNat

/-- The first candidate whose running sum of W exceeds `t`. -/
def pickW (t : Nat) : Nat → List (Nat × Nat) → Option (Nat × Nat)
  | _, [] => none
  | acc, c :: l => if t < acc + c.2 then some c else pickW t (acc + c.2) l

/-- What a draw finds (R177 to R181): the symbol, CAND, SHORT, WSEL and WTOTAL. -/
structure Drawn where
  sym : Nat
  cand : Nat
  short : Nat
  wsel : Nat
  wtotal : Nat
  greedy : Bool
  deriving DecidableEq, Repr

/-- The random number of a draw (R181). -/
def drawU (seed step drawn : Nat) : Nat := beNat ((aes128 (be 16 seed) (be 6 step ++ be 4 drawn ++ zeros 6)).take 4)

/-- The draw over the candidates in ascending symbol (R178 to R181). `cs` is not empty. -/
def drawFrom (m : FinMsg) (seed drawn : Nat) (cs : List (Nat × F32)) : Drawn :=
  let mk := max 1 m.minKeep
  if m.temp.toNat % 2 ^ 31 = 0 then ⟨((ranking cs).headD (0, 0)).1, 1, 0, 0, 0, true⟩
  else
    let r := ranking (cs.map (fun c => (c.1, fdiv c.2 m.temp)))
    let want := max m.topk mk
    let short := want - r.length
    let k := if m.topk = 0 then r else r.take m.topk
    let top := (k.headD (0, 0)).2
    let ws := k.map (fun c => (c.1, fexp (fsub c.2 top)))
    let p := ws.take (topP m.topp mk (ws.map (·.2)))
    let q := p.take (minP m.minp mk (p.map (·.2)))
    let d := (q.map (fun c => (c.1, quantW c.2))).filter (fun c => c.2 != 0)
    let total := (d.map (·.2)).foldl (· + ·) 0
    let t := drawU seed m.step drawn * total / 2 ^ 32
    let c := (pickW t 0 d).getD (d.headD (0, 0))
    ⟨c.1, d.length, short, c.2, total, false⟩

/-! ### The response (R171, R172) -/

/-- What an accepted FINISH reports. -/
structure FinOut where
  status : Nat := 0
  rflags : Nat := 0
  symbol : Nat := 0xFFFF
  cand : Nat := 0
  short : Nat := 0
  text : List Byte := []
  syms : Nat := 0
  wsel : Nat := 0
  wtotal : Nat := 0
  detail : Nat := 0
  dropped : Nat := 0
  deriving DecidableEq, Repr

/-- WTOTAL in its 32 bits. -/
def showTotal (n : Nat) : Nat := if n < 2 ^ 32 then n else Config.wtotalOver n

/-- The body of an accepted request, with the record as it stands after it. -/
def State.finBody (s : State) (slot : Nat) (m : FinMsg) (form : Nat) (o : FinOut) : List Byte :=
  let r := s.sess slot
  be 8 m.handle ++ be 4 r.epoch ++ be 4 r.fin.fops ++ be 6 m.step ++ be 1 form ++ be 1 o.rflags ++ be 2 o.symbol ++ be 2 o.cand
    ++ be 2 o.short ++ be 1 o.text.length ++ be 1 r.fin.hold.length ++ (o.text ++ zeros 8).take 8 ++ be 2 r.fin.gstate
    ++ be 2 r.fin.sp ++ be 4 o.syms ++ be 4 o.wsel ++ be 4 (showTotal o.wtotal) ++ be 4 o.detail ++ be 4 o.dropped

/-- The body of a refusal: zero after EPOCH but for DETAIL (R171). -/
def State.finRefuseBody (s : State) (h : Nat) (x : Refuse) : List Byte :=
  if x.status = St.noSession then zeros 64
  else be 8 h ++ be 4 (if s.liveHandle h then (s.sess (handleSlot h)).epoch else 0) ++ zeros 44 ++ be 4 x.detail ++ zeros 4

/-- A FINISH is refused: BUSY_RETRY and ORDER are counted (R196). -/
def State.finRefuse (s : State) (e : Env) (m : FinMsg) (x : Refuse) : State :=
  let slot := handleSlot m.handle
  let d := slotDie slot
  let s := s.noteRefuse e slot x
  let s := if x.status = St.busyRetry then s.bump d 0 Fld.FIN_COUNTS1_BUSY else s
  let s := if x.status = St.badFrame ∧ x.reason = 0x50 then s.bump d 0 Fld.FIN_COUNTS1_ORDER else s
  s.answer e 0x09 x.status x.reason (s.finRefuseBody m.handle x)

/-! ### Checks (R165 to R168) -/

/-- A finite FP32 pattern from +0 or −0 up. -/
def f32NonNeg (v : F32) : Bool := !f32Nonfinite v && decide (0 ≤ f32Key v)

/-- R168, item 2: the fixed fields. -/
def State.finFields (s : State) (m : FinMsg) (form : Nat) : Bool :=
  let flags := m.fflags
  let used := if form = 0 then 0x31 else if form = 1 then 0x0E else 0
  let unit := fun (v : F32) => f32NonNeg v && !flt fone v
  decide (form < 4) && decide (flags < 64) && decide ((BitVec.ofNat 8 flags &&& ~~~(BitVec.ofNat 8 used)) = 0)
    && m.zero54 == 0 && m.zero60 == 0
    && (if form = 0 then
          decide (m.topk ≤ s.alpha) && decide (m.minKeep ≤ s.alpha) && f32NonNeg m.temp && unit m.topp && unit m.minp
            && !f32Nonfinite m.rep && flt 0 m.rep && !f32Nonfinite m.freq && !f32Nonfinite m.pres
        else m.topk == 0 && m.minKeep == 0 && m.temp == 0 && m.topp == 0 && m.minp == 0 && m.rep == 0 && m.freq == 0
            && m.pres == 0 && m.step == 0)
    && (if form = 2 then m.grammar / 4096 % 8 == 0 else m.grammar == 0)
    && (form == 0 || form == 1 || (m.bytes == 0 && m.data.isEmpty))
    && (flags / 2 % 2 == 1 || m.ioff == 0)

/-- R168, item 1: a repeat of the last state-changing request (R194). -/
def finRepeat (m : FinMsg) (form fops epoch : Nat) (a : FinArea) : Bool :=
  m.opseq != 0xFFFFFFFF && m.opseq + 1 == fops && a.keptEpoch == epoch && a.keptForm == form

/-- Bytes of one logit (R167). -/
def logitBytes (m : FinMsg) : Nat := if m.fflags % 2 = 1 then 4 else 2

/-- The data of a request after item 3 of R168: logits, items, or nothing. -/
inductive FinData where
  | draw (l : List F32)
  | feed (l : List FeedItem)
  | none_
  deriving DecidableEq, Repr

/-- R168, item 3. -/
def State.finData (s : State) (e : Env) (m : FinMsg) (form : Nat) : State × (Nat ⊕ FinData) :=
  if form = 0 then
    if m.bytes ≠ s.alpha * logitBytes m ∨ m.data.length ≠ m.bytes then (s, .inl 0x52)
    else (s, .inr (.draw (logits (logitBytes m) m.data)))
  else if form = 1 then
    let ingest := m.fflags / 2 % 2 == 1
    if (if ingest then !m.data.isEmpty else m.data.length != m.bytes) then (s, .inl 0x52)
    else match s.openData e (handleSlot m.handle) ingest m.ioff m.bytes m.data with
      | (s, .inl rs) => (s, .inl rs)
      | (s, .inr d) => match feedItems s.alpha d.length d with
        | .inl rs => (s, .inl rs)
        | .inr is => (s, .inr (.feed is))
  else (s, .inr .none_)

/-- R168, item 5: the automaton that a GRAMMAR form names. -/
def State.gramCheck (s : State) (m : FinMsg) (form : Nat) : Option Refuse :=
  let slot := handleSlot m.handle
  if form = 2 ∧ m.grammar / 32768 = 1 then
    match alGet (slotDie slot, m.grammar % 4096) s.grams with
    | none => some ⟨St.badFrame, 0x51, 0⟩
    | some g =>
      if g.alpha ≠ s.alpha then some ⟨St.badFrame, 0x51, 0⟩
      else if !g.anyCtx && g.ctx != (s.sess slot).context then some ⟨St.denied, 0, 0⟩
      else none
  else none

/-- 8,192 other sessions have had a DRAW of this STEP (R168, item 6). -/
def State.drawFull (s : State) (slot step : Nat) : Bool :=
  decide (Config.stepSessions ≤ (s.attn.drawSteps.filter (fun p => p.1 == step && p.2 != slot)).length)

/-! ### The forms -/

/-- A run of a form: a failure with its address, or the new record's finishing state, the new area and what is reported. -/
abbrev FinRun := Nat ⊕ (FinState × FinArea × FinOut)

/-- Where a drawn symbol's bytes go (R182, items 3 and 4, R191, R192): text, held bytes, flushed. -/
def drawText (flushMask : Nat) (flush : Bool) (held : List Byte) (sym : Nat) : List Byte × List Byte × Bool :=
  let ctl := decide (256 ≤ sym) && flushMask / 2 ^ (sym - 256) % 2 == 1
  let t1 := if ctl then flushHeld held else []
  let h1 := if ctl then [] else held
  let r := if sym < 256 then detok h1 (BitVec.ofNat 8 sym) else ([], h1)
  let t2 := if flush then flushHeld r.2 else []
  (t1 ++ r.1 ++ t2, if flush then [] else r.2, (ctl && !held.isEmpty) || (flush && !r.2.isEmpty))

/-- DRAW (R175 to R182). -/
def State.runDraw (s : State) (slot : Nat) (m : FinMsg) (f : FinState) (a : FinArea) (ls : List F32) : FinRun :=
  let g := s.gramOf slot
  let auto := autoOf f a
  let nonf := ls.any f32Nonfinite
  let exempt := m.fflags / 16 % 2 == 1
  let allowed := (ls.zipIdx.filter (fun (p : F32 × Nat) => match g with | some g => g.allows auto p.2 | none => true))
  let cs := allowed.filterMap (fun (p : F32 × Nat) => (cleanLogit p.1).map (fun z =>
    (p.2, if exempt && decide (256 ≤ p.2) then z else penalise m (a.counts.getD p.2 0) z)))
  if cs.isEmpty then
    .inr (f, a, { status := St.deadEnd, rflags := 2 * b2n (gramAccept g f.gstate) + 4 * b2n nonf, syms := a.drawn,
                  detail := if allowed.isEmpty then 1 else 2 })
  else
    let d := drawFrom m (s.sess slot).seed a.drawn cs
    let c := a.count d.sym
    let moved : BadState ⊕ Auto := match g with | some g => g.take auto d.sym | none => .inr auto
    match moved with
    | .inl b => .inl (match g with | some g => badAddr slot g a b | none => 0)
    | .inr q =>
      let t := drawText (s.reg (slotDie slot) 0 Reg.FIN_CTRL_FLUSH).toNat (m.fflags / 32 % 2 == 1) f.hold d.sym
      .inr ({ f with gstate := q.q, sp := q.sp, hold := t.2.1 }, { c.1 with stack := q.stack, drawn := (a.drawn + 1) % 2 ^ 32 },
        { status := if d.short = 0 then St.done else St.partial_
          rflags := b2n d.greedy + 2 * b2n (gramAccept g q.q) + 4 * b2n nonf + 8 * b2n c.2 + 16 * b2n t.2.2
          symbol := d.sym, cand := d.cand, short := d.short, text := t.1, syms := (a.drawn + 1) % 2 ^ 32
          wsel := d.wsel, wtotal := d.wtotal })

/-- FEED (R187 to R189). -/
def State.runFeed (s : State) (slot : Nat) (m : FinMsg) (f : FinState) (a : FinArea) (is : List FeedItem) : FinRun :=
  let g := s.gramOf slot
  let all := (is.map (fun i => i.syms.length)).foldl (· + ·) 0
  let kept := keepSyms 1048576 is
  let dropped := all - kept.length
  let adv := m.fflags / 8 % 2 == 1
  let w : Walked := match g with
    | some g => if adv then g.walk 0 (autoOf f a) kept else .ends (autoOf f a)
    | none => .ends (autoOf f a)
  match w with
  | .bad b => .inl (match g with | some g => badAddr slot g a b | none => 0)
  | .reject i => .inr (f, a, { status := St.deadEnd, rflags := 2 * b2n (gramAccept g f.gstate), detail := i, dropped })
  | .ends q =>
    let c := if m.fflags / 4 % 2 = 1 then a.countAll kept else (a, 0)
    .inr ({ f with gstate := q.q, sp := q.sp }, { c.1 with stack := q.stack },
      { status := if dropped = 0 then St.done else St.limit
        rflags := 2 * b2n (gramAccept g q.q) + 8 * b2n (decide (c.2 ≠ 0)), syms := kept.length, dropped })

/-- GRAMMAR (R186). -/
def State.runGrammar (s : State) (slot : Nat) (m : FinMsg) (f : FinState) (a : FinArea) : FinRun :=
  if m.grammar / 32768 = 1 then
    let g := alGet (slotDie slot, m.grammar % 4096) s.grams
    let start := match g with | some g => g.start | none => 0
    .inr ({ f with on := true, gram := m.grammar % 4096, gstate := start, sp := 0 }, a,
      { rflags := 2 * b2n (gramAccept g start) })
  else .inr ({ f with on := false, gram := 0, gstate := 0, sp := 0 }, a, {})

/-- RESET (R166, R192). -/
def State.runReset (s : State) (slot : Nat) (f : FinState) (a : FinArea) : FinRun :=
  let g := s.gramOf slot
  let start := match g with | some g => g.start | none => 0
  .inr ({ f with gstate := start, sp := 0, hold := [] }, { a with counts := a.counts.map (fun _ => 0), histHead := 0, histFill := 0 },
    { text := flushHeld f.hold, rflags := 2 * b2n (gramAccept g start) + 16 * b2n (!f.hold.isEmpty) })

/-- The run of a form. -/
def State.finRunForm (s : State) (slot : Nat) (m : FinMsg) (a : FinArea) : FinData → Nat → FinRun
  | .draw ls, _ => s.runDraw slot m (s.sess slot).fin a ls
  | .feed is, _ => s.runFeed slot m (s.sess slot).fin a is
  | .none_, form => if form = 2 then s.runGrammar slot m (s.sess slot).fin a else s.runReset slot (s.sess slot).fin a

/-- One reference to an automaton is added (R186). -/
def State.refGram (s : State) (die id : Nat) : State :=
  match alGet (die, id) s.grams with
  | none => s
  | some g => { s with grams := alSet (die, id) { g with refs := g.refs + 1 } s.grams }

/-- What an accepted FINISH counts and reports (R175, R176, R180, R188, R195, R196). -/
def State.finCount (s : State) (slot form : Nat) (o : FinOut) (sats : Nat) : State :=
  let d := slotDie slot
  let ctx := (s.sess slot).context
  let s := if o.status = St.deadEnd then s.bump d 0 Fld.FIN_COUNTS0_DEAD_END else s
  let s := if o.status = St.partial_ then s.bump d 0 Fld.FIN_COUNTS0_PARTIAL else s
  let s := if o.dropped ≠ 0 then s.bump d 0 Fld.FIN_COUNTS0_LIMIT else s
  let s := s.bumpBy d 0 Fld.FIN_COUNTS1_SAT sats
  let s := if form = 0 ∧ o.symbol ≠ 0xFFFF then s.bump d 0 Fld.FIN_DRAWS_DRAWS else s
  if o.rflags / 4 % 2 = 1 then
    (s.bump d 0 Fld.FIN_COUNTS0_NONFINITE).raiseOnce d 0x38 ctx { ctx := some ctx, a0 := (s.sess slot).handle slot }
  else s

/-- How many counts a run saturated (R176). -/
def finSats (m : FinMsg) (a : FinArea) (o : FinOut) : FinData → Nat
  | .draw _ => if o.symbol = 0xFFFF then 0 else b2n (a.count o.symbol).2
  | .feed is => if m.fflags / 4 % 2 = 1 ∧ o.status ≠ St.deadEnd then (a.countAll (keepSyms 1048576 is)).2 else 0
  | .none_ => 0

/-- A run that succeeded takes effect: FOPS, the lease, the record, the area, KEPT, the references (R168, R182, R186, R194). -/
def State.finApply (s : State) (e : Env) (m : FinMsg) (form : Nat) (d : FinData) (f : FinState) (a0 a : FinArea) (o : FinOut) :
    State :=
  let slot := handleSlot m.handle
  let die := slotDie slot
  let old := (s.sess slot).fin
  let sats := finSats m a0 o d
  let s := if form = 2 then
      (let s := if old.on then s.unrefGram die (old.gram % 4096) else s
       if f.on then s.refGram die f.gram else s)
    else s
  let s := if form = 0 ∧ !s.attn.drawSteps.contains (m.step, slot) then
      { s with attn := { s.attn with drawSteps := (m.step, slot) :: s.attn.drawSteps } } else s
  let s := s.setSess slot { s.sess slot with fin := { f with fops := (old.fops + 1) % 2 ^ 32 } }
  let body := s.finBody slot m form o
  let s := s.putArea slot { a with keptEpoch := m.epoch, keptForm := form, kept := body }
  let s := (s.accepted slot true).finCount slot form o sats
  s.answer e 0x09 o.status 0 body

/-- The request repeats the last one that changed state: its kept body again (R194). -/
def State.finReplay (s : State) (e : Env) (slot : Nat) (a : FinArea) : State :=
  ((s.accepted slot true).bump (slotDie slot) 0 Fld.FIN_COUNTS1_REPLAY).answer e 0x09 St.replay 0 a.kept

/-- Items 4 to 6 of R168 and the run. -/
def State.finRest (s : State) (e : Env) (m : FinMsg) (form : Nat) (d : FinData) : State :=
  let slot := handleSlot m.handle
  let r := s.sess slot
  if m.opseq ≠ 0xFFFFFFFF ∧ m.opseq ≠ r.fin.fops then s.finRefuse e m ⟨St.badFrame, 0x50, r.fin.fops⟩
  else match s.gramCheck m form with
    | some x => s.finRefuse e m x
    | none =>
      if form = 0 ∧ s.drawFull slot m.step then
        (s.raiseOnce (slotDie slot) 0x39 0 { ctx := some r.context, a0 := r.handle slot, a1 := m.step }).finRefuse e m
          ⟨St.busyRetry, 0, 0⟩
      else match s.area slot with
        | none =>
          (match alGet slot s.kv.images with
           | some i => if s.tier.restores.contains slot then s.finRefuse e m ⟨St.busyRetry, 0, 0⟩
             else s.finRefuse e m ⟨St.integrity, 0, memFail i.tier (slotDie slot) (i.loc * 128)⟩
           | none => s.finRefuse e m ⟨St.busyRetry, 0, 0⟩)
        | some a =>
          if let some off := (if form = 3 then none else e.rowFail) then
            s.finRefuse e m ⟨St.integrity, 0, memFail 1 (slotDie slot) off⟩
          else match s.finRunForm slot m a d form with
          | .inl addr => s.finRefuse e m ⟨St.integrity, 0, addr⟩
          | .inr (f, b, o) => s.finApply e m form d f a b o

/-- FINISH after its tracker entry (R50, R168). -/
def State.finRun (s : State) (e : Env) (m : FinMsg) (form : Nat) : State :=
  let slot := handleSlot m.handle
  let r := s.sess slot
  if s.fld (slotDie slot) 0 Fld.FIN_CTRL_ENABLE = 0 then s.finRefuse e m ⟨St.busyRetry, 0, 0⟩
  else match s.r50 e m.handle m.epoch 0x53 false (fun _ => false) (s.holderCell e false) with
    | some x => s.finRefuse e m x
    | none =>
      if let some off := e.areaFail then s.finRefuse e m ⟨St.integrity, 0, memFail 1 (slotDie slot) off⟩
      else if (match s.area slot with | some a => finRepeat m form r.fin.fops m.epoch a | none => false) then
        (match s.area slot with | some a => s.finReplay e slot a | none => s)
      else if !s.finFields m form then s.finRefuse e m ⟨St.badFrame, 0x53, 0⟩
      else match s.finData e m form with
        | (s, .inl rs) => s.finRefuse e m ⟨St.badFrame, rs, 0⟩
        | (s, .inr d) => s.finRest e m form d

/-- A FINISH of a form. -/
def State.finMessage (s : State) (e : Env) (c : Instr) (m : FinMsg) (form : Nat) : State :=
  s.message e c 0x09 (some (handleSlot m.handle)) (be 8 m.handle ++ zeros 56) (fun s => s.finRun e m form)

/-- FINISH, form DRAW, and the reserved forms (R165 to R182). -/
def execDraw (e : Env) (m : FinMsg) (s : State) : Res := .next (s.finMessage e (.draw e m) m m.form)

/-- FINISH, form FEED (R187 to R189). -/
def execFeed (e : Env) (m : FinMsg) (s : State) : Res := .next (s.finMessage e (.feed e m) m 1)

/-- FINISH, form GRAMMAR (R186). -/
def execGrammar (e : Env) (m : FinMsg) (s : State) : Res := .next (s.finMessage e (.grammar e m) m 2)

/-- FINISH, form RESET (R166, R192). -/
def execFinReset (e : Env) (m : FinMsg) (s : State) : Res := .next (s.finMessage e (.finReset e m) m 3)

end Sys2Proof.Machine
end

