-- ==== Sys2Proof/Machine/Access.lean ====
section
/-! DEFINITION. Control cores and their faults (R327 to R332, R413, R414), who may access which register (R7, R286, R376, R440,
R461, R470 to R474), and the storing of a written word. -/

namespace Sys2Proof.Machine

/-! ### Control cores -/

/-- The record of a control core: running, awake, its own cluster. -/
def State.core (s : State) (die code : Nat) : CoreState :=
  (s.lamp.cores.find? (fun c => c.die == die && c.code == code)).getD
    { die, code, halted := false, asleep := none, lastKick := 0, mismatches := 0, cluster := code }

/-- `s` with the record of a control core replaced. -/
def State.setCore (s : State) (c : CoreState) : State :=
  { s with lamp := { s.lamp with cores := c :: s.lamp.cores.filter (fun (x : CoreState) =>
      !(x.die == c.die && x.code == c.code)) } }

/-- A control core has been started and not halted (R347, R413, R414). -/
def State.coreUp (s : State) (die code : Nat) : Bool :=
  s.running && decide (die < 2) && (
    if code < 8 then s.fld die 0 Fld.LP_STATUS_LAMP_UP / 2 ^ code % 2 == 1
    else if code = 8 then s.fld die 0 Fld.LP_STATUS_SPARE_IN == 1 && !(s.core die 8).halted
    else code == 9 && s.fld die 0 Fld.LP_STATUS_SUP_OK == 1)

/-- A control core executes: it is up and its clock is not gated (R325). -/
def State.coreAwake (s : State) (die code : Nat) : Bool := s.coreUp die code && (s.core die code).asleep.isNone

/-- The cluster a lamplighter or the spare serves. -/
def State.coreCluster (s : State) (die code : Nat) : Nat := (s.core die code).cluster

/-- The lamplighters of a die that are up, lowest first. -/
def State.lampsUp (s : State) (die : Nat) : List Nat := (List.range 9).filter (fun c => s.coreUp die c)

/-- The lamplighter that takes a cluster's scrub jobs: its own, the spare in its place, or, uncovered, the lowest-numbered
running one (R413). -/
def State.serves (s : State) (die cluster code : Nat) : Bool :=
  if s.coreUp die cluster then code == cluster
  else if s.coreUp die 8 && s.coreCluster die 8 == cluster then code == 8
  else (s.lampsUp die).head? == some code

/-- The unit code of a control core (R406). -/
def coreUnit (die code : Nat) : Nat :=
  if code < 8 then unitCode 2 die code 0 else if code = 8 then unitCode 8 die 0 0 else unitCode 3 die 0 0

/-- LP_TASK of a control core: the context it runs for (R328). -/
def State.task (s : State) (die code : Nat) : Option Nat :=
  let w := s.reg die (die * 16 + code) Reg.LP_TASK
  if getBits w 63 63 = 1 then some (getBits w 11 0) else none

/-- A firmware service ends with a status (R345): its core leaves context mode. -/
def State.endService (s : State) (v : Service) (status : Nat) : State :=
  let s := { s with lamp := { s.lamp with services := s.lamp.services.filter (fun (x : Service) => x.die != v.die) } }
  let s := s.setReg v.die (v.die * 16 + v.core) Reg.LP_TASK 0
  ((s.setFld v.die 0 Fld.LP_SVC_CTRL_BUSY 0).setFld v.die 0 Fld.LP_SVC_CTRL_STATUS status).setFld v.die 0 Fld.LP_SVC_CTRL_TAG v.tag

/-- The firmware service that a core runs is abandoned with BUSY_RETRY (R413, step 2). -/
def State.abandonService (s : State) (die code : Nat) : State :=
  match s.lamp.services.find? (fun x => x.die == die && x.core == code) with
  | some v => s.endService v 0x0D
  | none => s

/-- The scrub jobs that a core has taken and not handed to the check go back to the head of their queue (R413, step 3). -/
def State.returnJobs (s : State) (die code : Nat) : State :=
  let mine := fun (j : Scrub) => j.die == die && j.taken == some code && !j.checking
  { s with lamp := { s.lamp with scrubs :=
      (s.lamp.scrubs.filter mine).map (fun (j : Scrub) => { j with taken := none }) ++ s.lamp.scrubs.filter (fun j => !mine j) } }

/-- A lamplighter fault (R413): the core halts, its service and jobs are given up, and the spare takes its place, or the fault
is not covered. -/
def State.lampFault (s : State) (die code : Nat) : State :=
  if 9 ≤ code ∨ s.coreUp die code = false then s
  else
    let cl := s.coreCluster die code
    let s := s.bump die 0 Fld.HL_COUNTS_LAMP_FAULT
    let s := s.setCore { s.core die code with halted := true, asleep := none }
    let s := (s.abandonService die code).returnJobs die code
    let spareFree := code != 8 && s.fld die 0 Fld.LP_STATUS_SPARE_IN == 0 && (s.reg die 0 (mapReg spareLampBit)).toNat
      / 2 ^ (spareLampBit % 64) % 2 == 0
    let s := if code = 8 then (s.setFld die 0 Fld.LP_STATUS_SPARE_IN 0).setMap die spareLampBit true
      else s.setFld die 0 Fld.LP_STATUS_LAMP_UP (s.fld die 0 Fld.LP_STATUS_LAMP_UP - 2 ^ code)
    if spareFree then
      let s := (s.setFld die 0 Fld.LP_STATUS_SPARE_IN 1).setMap die (lampBit cl) true
      let s := s.setCore { die, code := 8, halted := false, asleep := none, lastKick := s.now, mismatches := 0, cluster := cl }
      let s := s.setReg die (die * 16 + 8) Reg.LP_TASK 0
      s.raise die 0x8C { unit := coreUnit die code }
    else s.raise die 0x8B { alert := true, unit := coreUnit die code }

/-! ### The limits firmware cannot pass (R331, R332) -/

/-- A refused access of a control core (R332): counted, reported once per step and core, and a fault of its context or of the
core. -/
def State.fwLimit (s : State) (die code row : Nat) : State :=
  let ctx := s.task die code
  let s := s.bump die 0 Fld.LP_LIMIT_STAT_REFUSED
  let s := (s.setFld die 0 Fld.LP_LIMIT_STAT_LIMIT row).setFld die 0 Fld.LP_LIMIT_STAT_CORE code
  let s := s.raiseOnce die 0x73 code { ctx, unit := coreUnit die code }
  match ctx with
  | some c => s.tearDown die c 3
  | none => s.lampFault die code

/-- A limit violation whose row of R331 the spec does not name: LIMIT is a free value (log 6). -/
def State.fwLimitFree (s : State) (die code : Nat) : State := (s.fwLimit die code (s.freeVal % 16)).nextFree

/-- An exception of a control core (R337, R413): a fault of its context, or of the lamplighter. -/
def State.coreTrap (s : State) (die code : Nat) : CoreTrap → State
  | .exception => match s.task die code with
    | some c => s.tearDown die c 2
    | none => s.lampFault die code
  | .limit row => s.fwLimit die code row
  | .hardware => s.lampFault die code

/-- CORE_EXCEPTION (R328, R331, R337, R413). -/
def execCoreException (t die core : Nat) (k : CoreTrap) (s : State) : Res :=
  .next (if s.coreAwake die core then (s.tick t).coreTrap die core k else s)

/-- LAMP_FAULT (R413): an uncorrectable error in local memory, or a hardware fault. -/
def execLampFault (t die core : Nat) (s : State) : Res :=
  .next (if s.coreUp die core then (s.tick t).lampFault die core else s)

/-- WATCHDOG_EXPIRY (R413): WDOG_MS without a write to HL_KICK. -/
def execWatchdogExpiry (t die core : Nat) (s : State) : Res :=
  .next (if s.coreUp die core
      && decide ((s.core die core).lastKick + s.fld die 0 Fld.HL_CTRL_WDOG_MS * 1000000 ≤ (s.tick t).now)
    then (s.tick t).lampFault die core else s)

/-! ### The supervisor pair (R414) -/

/-- The pair leaves service. -/
def State.supOut (s : State) (die : Nat) : State :=
  ((s.setFld die 0 Fld.LP_STATUS_SUP_OK 0).setMap die supBit true).raise die 0x8B { alert := true, unit := coreUnit die 9 }

/-- The pair is out of service. -/
def State.supGone (s : State) (die : Nat) : Bool :=
  (s.reg die 0 (mapReg supBit)).toNat / 2 ^ (supBit % 64) % 2 == 1

/-- A lockstep mismatch (R414): the pair is halted and reset, and leaves service at its SUP_RETRY-th. -/
def State.mismatch (s : State) (die : Nat) : State :=
  let s := s.bump die 0 Fld.HL_COUNTS_LOCKSTEP
  let c := s.core die 9
  let s := s.setCore { c with halted := true, asleep := none, mismatches := c.mismatches + 1 }
  let s := ((s.setFld die 0 Fld.LP_STATUS_SUP_OK 0).setReg die (die * 16 + 9) Reg.LP_TASK 0).raise die 0x8D
    { unit := coreUnit die 9 }
  if s.fld die 0 Fld.HL_CTRL_SUP_RETRY ≤ c.mismatches + 1 then s.supOut die else s

/-- LOCKSTEP_MISMATCH (R414). -/
def execLockstepMismatch (t die : Nat) (s : State) : Res :=
  .next (if s.coreUp die 9 then (s.tick t).mismatch die else s)

/-- The restart of a pair ends (R414). -/
def State.supRestart (s : State) (die : Nat) (ok : Bool) : State :=
  if s.supGone die ∨ (s.core die 9).halted = false then s
  else if ok then (s.setCore { s.core die 9 with halted := false }).setFld die 0 Fld.LP_STATUS_SUP_OK 1
  else s.supOut die

/-- SUP_RESTART (R414). -/
def execSupRestart (t die : Nat) (digestOk inTime : Bool) (s : State) : Res :=
  .next (if s.running then (s.tick t).supRestart die (digestOk && inTime) else s)

/-! ### Who may access a register -/

/-- What an access meets: it is carried out, the address is unmapped (R472), the path denies it (R423, R461), or it is refused
to a control core under a row of R331, or one that R330 shuts out. -/
inductive Pass where
  | go | unmapped | denied | limit (row : Nat) | shut
  deriving DecidableEq, Repr

/-- The registers a lamplighter may write (R330). -/
def lampWrites (r : RegId) : Bool :=
  r == Reg.LP_TASK || r == Reg.LP_FILL || r == Reg.LP_SCRUB_DONE || (r.blk == 0x0D && decide (0x60 ≤ r.off ∧ r.off ≤ 0xA0))
    || r == Reg.HL_KICK || r.blk == 0x0C

/-- The registers the sideband may write while the J716 runs (R461). -/
def sideWrites (r : RegId) : Bool :=
  r.blk == 0x12 || r == Reg.SEAL_RPT_NONCE0 || r == Reg.SEAL_RPT_NONCE1 || r == Reg.SEAL_RPT_NONCE2
    || r == Reg.SEAL_RPT_NONCE3 || r == Reg.SEAL_RPT_CTRL || r == Reg.SEAL_WIN_SEL || r == Reg.HL_ALERT

/-- A write would change an RWL field (R331, row 6; R7). -/
def State.changesLocked (s : State) (die sel : Nat) (r : RegRow) (v : Word) : Bool :=
  s.start.locked && (s.reg die sel r.id &&& r.rwlMask) != (v &&& r.rwlMask)

/-- JTAG is open (R375, R377): in RETURNED, and in MANUFACTURE until a PROVISION. -/
def State.jtagOpen (s : State) : Bool :=
  let lc := s.fld 0 0 Fld.SEAL_LC_STATE
  lc == 3 || (lc == 0 && !s.ident.fuses.valid0 && !s.ident.fuses.valid1)

/-- What a write of `v` by a requester to a register of `die` meets. -/
def State.writePass (s : State) (rq : Requester) (die sel : Nat) (r : RegRow) (v : Word) : Pass :=
  match rq with
  | .core d code =>
    if code ≠ 9 ∧ !(d == die && lampWrites r.id) then .shut
    else if r.id = Reg.TL_VALUE then .limit 3
    else if s.changesLocked die sel r v then .limit 6
    else if r.id = Reg.HL_PLAN ∧ getBits v 63 63 = 1 ∧ s.planOk v = false then .limit 8
    else .go
  | .ep _ => if r.id = Reg.HL_PLAN then .denied else .go
  | .sideband =>
    if s.up then (if sideWrites r.id then .go else .denied)
    else if r.id.blk = 0x00 ∨ r.id.blk = 0x12 then .go else .denied
  | .jtag | .start => .go

/-- What a read meets. -/
def State.readPass (s : State) (rq : Requester) (r : RegRow) : Pass :=
  match rq with
  | .sideband => if s.up ∨ r.id.blk = 0x00 ∨ r.id.blk = 0x12 then .go else .denied
  | .core _ _ | .ep _ | .jtag | .start => .go

/-- The requester can make an access at all: a control core that is awake, an endpoint with the CS right while the J716 runs,
the sideband while power is good, JTAG while it is open. -/
def State.present (s : State) : Requester → Bool
  | .core d code => s.coreAwake d code
  | .ep id => s.running && (match s.endpoint id with | some r => r.cs | none => false)
  | .sideband => s.pins.power
  | .jtag => s.pins.power && s.jtagOpen
  | .start => true

/-! ### Replay and recording of writes (R433, R440) -/

/-- A core runs a firmware service. -/
def State.inService (s : State) (d code : Nat) : Bool := s.lamp.services.any (fun x => x.die == d && x.core == code)

/-- A control-core write that replay discards and recording writes down (R440). -/
def State.discarded (s : State) (rq : Requester) (r : RegId) : Bool :=
  match rq with
  | .core d code =>
    !(r == Reg.LP_TASK || r == Reg.LP_FILL || r == Reg.LP_SCRUB_DONE || r == Reg.HL_KICK || r == Reg.TL_SLEEP)
      && !(decide (code < 9) && s.inService d code)
  | .ep _ | .sideband | .jtag | .start => false

/-- CORE of a WRITE record (R434): the core code, with the cluster in bits 7:4. -/
def State.coreByte (s : State) (d code : Nat) : Nat := code + 16 * (if code < 9 then s.coreCluster d code % 16 else 0)

/-- A write is recorded (R433): of a control core when replay discards it, and of the sideband. -/
def State.noteWrite (s : State) (rq : Requester) (die : Nat) (r : RegId) (v : Word) (p : Option PendingIdx) : State :=
  match rq with
  | .core d code =>
    if s.discarded rq r then s.addRec 0 (if d = 0 then 0 else 24) 0 0 24 (.write (regAddr die r) v (s.coreByte d code) p) else s
  | .sideband => s.addRec 0 0 0 0 16 (.sideband (regAddr die r) v)
  | .ep _ | .jtag | .start => s

/-! ### Storing a written word -/

/-- The bits of a field. -/
def FieldRow.mask (f : FieldRow) : Word := bitMask f.hi f.lo

/-- A written value that leaves a field unchanged, as its register table says: BCN_PIN_CFG, ATN_FANOUT, ATN_CTX_MODE, ATN_CTX_SCALE,
FIN_CTX_PEN, GSP_RDMA_CFG, CH_CTRL, CH_CTX_WEIGHT, TL_PAIR and RP_CTRL. -/
def badValue (r : RegId) (hi v : Nat) : Bool :=
  if r = Reg.BCN_PIN_CFG then hi == 31 && decide (2000 < v)
  else if r = Reg.ATN_FANOUT then hi == 6 && (v == 0 || decide (64 < v))
  else if r = Reg.ATN_CTX_MODE then (hi == 3 && decide (2 ≤ v)) || (hi == 1 && v == 3)
  else if r = Reg.ATN_CTX_SCALE then hi == 31 && v / 2 ^ 23 % 256 == 255
  else if r = Reg.FIN_CTX_PEN then hi == 14 && decide (16384 < v)
  else if r = Reg.GSP_RDMA_CFG then hi == 63 && v == 0
  else if r = Reg.CH_CTRL then hi == 63 && v == 0
  else if r = Reg.CH_CTX_WEIGHT then hi == 15 && v == 0
  else if r = Reg.TL_PAIR then hi == 31 && v == 0
  else r == Reg.RP_CTRL && hi == 1 && v == 3

/-- What a register holds after a write of `v` (R7): RW fields take it, RWL fields until start completes, W1C bits are cleared
by ones; other fields keep their value. -/
def RegRow.stored (r : RegRow) (locked : Bool) (old v : Word) : Word :=
  r.fields.foldl (fun (w : Word) f => match f.acc with
    | .rw => if badValue r.id f.hi (getBits v f.hi f.lo) then w else (w &&& ~~~f.mask) ||| (v &&& f.mask)
    | .rwl => if locked || badValue r.id f.hi (getBits v f.hi f.lo) then w else (w &&& ~~~f.mask) ||| (v &&& f.mask)
    | .w1c => w &&& ~~~(v &&& f.mask)
    | .ro | .wo | .rc => w) old

/-- The row of a register that is in the map; a register without a row has no fields. -/
def rowOf (r : RegId) : RegRow := ((regRowsOf r.blk).find? (fun x => x.id == r)).getD ⟨r, true, .plain, []⟩

/-- A written word is stored in item `sel` of a register (R7). -/
def State.store (s : State) (die sel : Nat) (r : RegRow) (v : Word) : State :=
  s.setReg die sel r.id (r.stored s.start.locked (s.reg die sel r.id) v)

/-- A register write that a command brings (R440, R461, R473): who may not make it, does not; a refusal of a control core is
counted; otherwise `f` gives the effect on the selected item. -/
def State.regWrite (s : State) (a : Acc) (r : RegRow) (v : Word) (p : Option PendingIdx) (f : State → Nat → State) : State :=
  if !s.present a.rq || decide (1 < a.die) || (a.die == 1 && !r.onDie1) then s
  else
    let s := s.tick a.t
    match s.selItem a.die a.rq r.sel with
    | none => s
    | some sel =>
      match s.writePass a.rq a.die sel r v with
      | .go =>
        if s.replaying && s.discarded a.rq r.id then s
        else f (s.noteWrite a.rq a.die r.id v p) sel
      | .limit row => match a.rq with
        | .core d code => s.fwLimit d code row
        | .ep _ | .sideband | .jtag | .start => s
      | .shut => match a.rq with
        | .core d code => s.fwLimitFree d code
        | .ep _ | .sideband | .jtag | .start => s
      | .unmapped | .denied => s

/-- A register read that a command brings. -/
def State.regRead (s : State) (a : Acc) (r : RegRow) (f : State → Nat → State) : State :=
  if !s.present a.rq || decide (1 < a.die) || (a.die == 1 && !r.onDie1) then s
  else
    let s := s.tick a.t
    match s.selItem a.die a.rq r.sel, s.readPass a.rq r with
    | some sel, .go => f s sel
    | _, _ => s

end Sys2Proof.Machine
end

