-- ==== Sys2Proof/Machine/Memory.lean ====
section
/-! DEFINITION. LPDDR5X (spec/07): the stripes of a cluster (R208, R221, R222), correction and its log (R213, R219, R220), patrol scrub,
degraded channels, control-core stores, retirement (R221) and the checker test mode (R222). -/

namespace Sys2Proof.Machine

/-! ### Stripes (R208, R221, R222) -/

/-- Stripes of a cluster (R208). -/
def clusterStripes : Nat := 7812500

/-- A stripe lies in the test region of a cluster (R222). -/
def State.inTest (s : State) (die cluster stripe : Nat) : Bool :=
  let first := s.fld die cluster Fld.MC_TEST_REGION_FIRST
  decide (first ≤ stripe / 2) && decide (stripe / 2 < first + s.fld die cluster Fld.MC_TEST_REGION_UNITS)

/-- The mark in `retired` of the stripe units of a bank pair (R221). -/
def bankMark (i : Nat) : Nat := 4194304 + i

/-- A stripe unit is retired (R221). -/
def State.isRetired (s : State) (die cluster u : Nat) : Bool :=
  s.tier.retired.contains (die, cluster, u) || s.tier.retired.contains (die, cluster, bankMark (u % 8))

/-- A channel of a cluster is degraded (R217). -/
def State.dramDegraded (s : State) (die cluster channel : Nat) : Bool :=
  s.fld die cluster Fld.MC_DEGRADE_DEGRADED / 2 ^ channel % 2 == 1

/-! ### What a read leaves (R213, R219, R220) -/

/-- A corrected error enters the window of its cluster (R220): CE_WARN once per crossing, with the checkpoint it triggers
(R382). -/
def State.noteCe (s : State) (die cluster : Nat) : State :=
  let len := s.fld die cluster Fld.MC_CE_WINDOW_MS * 1000000
  let mine := fun (x : Nat × Nat × Nat) => x.1 == die && x.2.1 == cluster
  let old := s.tier.ces.filter (fun x => mine x && decide (s.now < x.2.2 + len))
  let warn := s.fld die cluster Fld.MC_CE_WARN
  let was := s.tier.ceOver.contains (die, cluster) && decide (warn < old.length)
  let s := { s with tier := { s.tier with ces := s.tier.ces.filter (fun x => !mine x) ++ old ++ [(die, cluster, s.now)]
                                          ceOver := s.tier.ceOver.filter (fun x => x != (die, cluster)) } }
  if decide (warn < old.length + 1) then
    let s := { s with tier := { s.tier with ceOver := (die, cluster) :: s.tier.ceOver } }
    if was then s else (s.raise die 0x42 { a0 := cluster }).warnCkpt die cluster
  else s

/-- A corrected sector (R213, item 2). -/
def State.memCe (s : State) (die : Nat) (p : Place) (test patrol : Bool) : State :=
  let s := (s.bump die p.cluster Fld.MC_COUNTS_CE).logErr die 1 p.cluster p.channel test patrol p.stripe p.sector (s.placeAddr die p)
  if test then s.nextFree else s.nextFree.noteCe die p.cluster

/-- A reconstructed sector (R213, item 3). -/
def State.memFix (s : State) (die : Nat) (p : Place) (test patrol : Bool) : State :=
  let a := s.placeAddr die p
  let s := (s.bump die p.cluster Fld.MC_COUNTS_PARITY_FIX).logErr die 2 p.cluster p.channel test patrol p.stripe p.sector a
  let s := s.nextFree.raiseOnce die 0x41 p.cluster { a0 := a }
  if test then s else s.noteCe die p.cluster

/-! ### Patrol scrub (R216) -/

/-- Patrol reads a sector. -/
def State.patrol (s : State) (die : Nat) (p : Place) : ReadOutcome → State
  | .clean | .tileBad _ _ => s
  | .corrected => s.memCe die p false true
  | .reconstructed => s.memFix die p false true
  | .failed _ => (s.memUe die p false true).dataCheck die (s.placeAddr die p)

/-- PATROL_SCRUB (R213, R216): retired units, the test region and degraded channels are not read. -/
def execPatrolScrub (t die cluster channel stripe sector : Nat) (o : ReadOutcome) (s : State) : Res :=
  .next (if s.running && s.fld die 0 Fld.MC_SCRUB_ENABLE == 1 && decide (stripe < clusterStripes ∧ sector < 32 ∧ channel < 8)
      && !s.isRetired die cluster (stripe / 2) && !s.inTest die cluster stripe && !s.dramDegraded die cluster channel
    then (s.tick t).patrol die ⟨cluster, channel, stripe, sector⟩ o else s)

/-! ### Degraded channels (R217, R416) -/

/-- The lowest bit of a mask of `n` bits. -/
def lowBit (n mask : Nat) : Option Nat := (List.range n).find? (fun i => mask / 2 ^ i % 2 == 1)

/-- A second degraded channel is refused (R217). -/
def State.degradeRefused (s : State) (die unit : Nat) : State :=
  s.raise die 0x43 { alert := true, refusal := true, unit }

/-- A channel becomes degraded, unless its cluster has one already (R217). -/
def State.degrade (s : State) (die cluster channel : Nat) : State :=
  let old := s.fld die cluster Fld.MC_DEGRADE_DEGRADED
  let unit := unitCode 4 die cluster channel
  if old / 2 ^ channel % 2 = 1 then s
  else if old ≠ 0 then s.degradeRefused die unit
  else ((s.setFld die cluster Fld.MC_DEGRADE_DEGRADED (2 ^ channel)).setMap die (dramBit cluster channel) true).raise die 0x43
    { alert := true, unit }

/-- The effect of a write of MC_DEGRADE (R217): its new bits, lowest first; clearing is ignored. -/
def State.mcDegradeEffect (s : State) (die cluster : Nat) (v : Word) : State :=
  (List.range 8).foldl (fun s i => if v.toNat / 2 ^ i % 2 = 1 then s.degrade die cluster i else s) s

/-- MC_DEGRADE_WRITE (R217). -/
def execMcDegradeWrite (a : Acc) (v : Word) (s : State) : Res :=
  .next (s.regWrite a (rowOf Reg.MC_DEGRADE) v none (fun s cl => s.mcDegradeEffect a.die cl v))

/-- A channel has been retrained (R416, R421, R424). -/
def State.retrain (s : State) (die cluster channel : Nat) (pass : Bool) (readPs writePs : Nat) : State :=
  let unit := unitCode 4 die cluster channel
  let least := s.start.img.envelope.dramMinPs
  let s := s.setMon die 2 (8 * cluster + channel) readPs writePs
  let s := if readPs < least then s.exceeded die unit readPs least else s
  let s := if writePs < least then s.exceeded die unit writePs least else s
  if pass then s
  else
    let t := s.fld die cluster Fld.MC_DEGRADE_TRAINED
    let s := s.setFld die cluster Fld.MC_DEGRADE_TRAINED (if t / 2 ^ channel % 2 = 1 then t - 2 ^ channel else t)
    (s.degrade die cluster channel).raise die 0x8E { alert := true, unit }

/-- DRAM_RETRAIN (R416). -/
def execDramRetrain (t die cluster channel : Nat) (pass : Bool) (readPs writePs : Nat) (s : State) : Res :=
  .next (if s.running && decide (cluster < 8 ∧ channel < 8) then (s.tick t).retrain die cluster channel pass readPs writePs else s)

/-! ### Stores of control cores (R211, R331) -/

/-- Two ranges of granules meet. -/
def meets (a n b m : Nat) : Bool := decide (a < b + m) && decide (b < a + n)

/-- The row of R331 that a store into granules `g` to `g + n - 1` of T1 breaks by the structure there: ownership for the
session table and the home map, structures for the tables, whose places the base registers give. -/
def State.tableRow (s : State) (die g n : Nat) : Option Nat :=
  let f := fun (x : Field) => s.fld die 0 x
  if meets g n (f Fld.SES_TABLE_BASE) Config.slotsPerDie || meets g n (f Fld.LP_HOME_MAP_BASE) 4096 then some 2
  else if meets g n (f Fld.XL_ROOT_LOC) 256 || meets g n (f Fld.XL_SPT_BASE) (ceilDiv (32 * f Fld.XL_SPT_ENTRIES) 128)
      || meets g n (f Fld.ATN_STORE_BASE) (f Fld.ATN_STORE_ENTRIES * s.entryGranules)
      || meets g n (f Fld.WK_SEGTAB_BASE) (ceilDiv (2 * 16 * s.segCount die) 128) then some 3
  else none

/-- Bytes `a` to `a + n - 1` of T1 lie in an open scrub job's range (R340). -/
def State.inScrub (s : State) (die a n : Nat) : Bool :=
  s.lamp.scrubs.any (fun j => j.die == die && j.ranges.any (fun r => r.t1 && meets a n r.base r.length))

/-- A store reaches T1: whole sectors are written, and a stripe unit that a checkpoint marks is copied first (R391). -/
def State.storeT1 (s : State) (die a : Nat) (data : List Byte) : State :=
  let s := (List.range (ceilDiv (a + data.length) 128 - a / 128)).foldl (fun s i => s.cbwWrite die (a / 128 + i)) s
  s.setT1 die (memWrite (s.t1 die) a data)

/-- A control core's store to T1 (R211, R331). -/
def State.coreStore (s : State) (die core a : Nat) (cached : Bool) (data : List Byte) : State :=
  let narrow := !cached && (a % 64 != 0 || data.length % 64 != 0)
  let g := a / 128
  let n := ceilDiv (a + data.length) 128 - g
  if narrow then
    let p := placeOf a
    let s := (s.bump die p.cluster Fld.MC_COUNTS_NARROW).logErr die 6 p.cluster p.channel false false p.stripe p.sector (memFail 1 die a)
    (s.raise die 0x47 { a0 := a }).fwLimit die core 5
  else match s.tableRow die g n with
    | some row => s.fwLimit die core row
    | none => if s.inScrub die a data.length then s.fwLimit die core 7 else s.storeT1 die a data

/-- CORE_T1_STORE (R211, R331): a cache writes whole lines back; an address beyond T1 does not exist. -/
def execCoreT1Store (t die core addr : Nat) (cached : Bool) (data : List Byte) (s : State) : Res :=
  if s.coreAwake die core = false ∨ data.isEmpty then .next s
  else if Config.t1Granules * 128 < addr + data.length then .fault .noSuchT1
  else .next ((s.tick t).coreStore die core addr cached data)

/-! ### Retirement (R221) -/

/-- Granules from `loc` on that lie in retired stripe units. -/
def State.retiredIn (s : State) (die loc g : Nat) : Nat :=
  ((List.range g).filter (fun i => s.isRetired die ((loc + i) / 217 % 8) ((loc + i) / 217 / 8))).length

/-- The units of T1 of a die and what they hold: pages, shared pages, staging areas with their finishing areas. -/
def State.t1Units (s : State) (die : Nat) : List (UnitRef × Nat × Nat) :=
  (s.unitsIn die 1).map (fun p => (p.1, p.2.loc, p.2.granules))
    ++ (s.kv.staging.filter (fun p => slotDie p.1 == die)).map (fun p => (UnitRef.staging p.1, p.2.loc, s.stagingGranules))

/-- The finishing areas of a die that lie in retired granules. -/
def State.retiredAreas (s : State) (die : Nat) : List (Nat × FinArea) :=
  s.kv.areas.filter (fun p => slotDie p.1 == die && s.retiredIn die p.2.loc areaGranules != 0)

/-- Granules of the units and areas of a die that lie in retired stripe units. -/
def State.retiredUse (s : State) (die : Nat) : Nat :=
  ((s.t1Units die).map (fun u => s.retiredIn die u.2.1 u.2.2)).foldl (· + ·) 0
    + ((s.retiredAreas die).map (fun p => s.retiredIn die p.2.loc areaGranules)).foldl (· + ·) 0

/-- The stripe units a retirement takes that are not retired yet. -/
def State.newlyRetired (s : State) (die cluster : Nat) (bank : Bool) (x : Nat) : Nat :=
  if bank then
    let i := x / 2
    if s.tier.retired.contains (die, cluster, bankMark i) then 0
    else (clusterStripes / 2 + 7 - i) / 8
      - (s.tier.retired.filter (fun r => r.1 == die && r.2.1 == cluster && decide (r.2.2 < 4194304) && r.2.2 % 8 == i)).length
  else if s.isRetired die cluster (x / 2) then 0 else 1

/-- A retirement covers a structure at a fixed location: the granules below the first one after the fixed structures. -/
def State.coversFixed (s : State) (die cluster : Nat) (bank : Bool) (x : Nat) : Bool :=
  decide ((x / 2 * 8 + cluster) * 217 < (if die = 0 then s.tier.fixedEnd0 else s.tier.fixedEnd1))
    && (bank || !s.isRetired die cluster (x / 2))

/-- Stripe units leave the pool (R221, step 1), and their migration begins. -/
def State.retire (s : State) (die cluster : Nat) (bank : Bool) (x : Nat) : State :=
  let n := s.newlyRetired die cluster bank x
  let before := s.retiredUse die
  let s := { s with tier := { s.tier with
    retired := (die, cluster, if bank then bankMark (x / 2) else x / 2) :: s.tier.retired } }
  let s := s.setPoolFree die 1 (s.poolFree die 1 - (217 * n - (s.retiredUse die - before)))
  let s := s.setFld die 0 Fld.MC_RETIRE_STATUS_UNITS (s.fld die 0 Fld.MC_RETIRE_STATUS_UNITS + n)
  (s.setFld die 0 Fld.MC_RETIRE_STATUS_BUSY 1).evictTest die 1

/-- The effect of a write of MC_RETIRE (R221): a stripe the cluster does not have is refused as well (log 30). -/
def State.retireEffect (s : State) (die : Nat) (v : Word) : State :=
  if getBits v 63 63 = 0 then s
  else
    let bank := getBits v 62 62 == 1
    let cl := getBits v 61 59
    let x := if bank then getBits v 26 23 else getBits v 22 0
    if clusterStripes ≤ x ∨ s.coversFixed die cl bank x then s.setFld die 0 Fld.MC_RETIRE_STATUS_REFUSED 1
    else s.retire die cl bank x

/-- RETIRE_ROW (R221). -/
def execRetireRow (a : Acc) (v : Word) (s : State) : Res :=
  .next (s.regWrite a (rowOf Reg.MC_RETIRE) v none (fun s _ => s.retireEffect a.die (setBits v 62 62 0)))

/-- RETIRE_BANK (R221). -/
def execRetireBank (a : Acc) (v : Word) (s : State) : Res :=
  .next (s.regWrite a (rowOf Reg.MC_RETIRE) v none (fun s _ => s.retireEffect a.die (setBits v 62 62 1)))

/-- One unit in retired granules moves to others, or down when T1 has no room (R221, step 2). -/
def State.migrate (s : State) (die : Nat) (u : UnitRef × Nat × Nat) : State :=
  let bad := s.retiredIn die u.2.1 u.2.2
  if bad = 0 ∨ s.moving u.1 then s
  else
    let s := s.setPoolFree die 1 (s.poolFree die 1 - bad)
    if s.poolOk die 1 u.2.2 then
      match u.1 with
      | .staging slot => match s.staging slot with
        | some g => (s.putStaging slot { g with loc := s.freeVal % 2 ^ 40 }).nextFree
        | none => s
      | .page slot layer page => match s.leaf ⟨slot, layer, page⟩ with
        | some l => ((s.putLeaf ⟨slot, layer, page⟩ { l with loc := s.freeVal % 2 ^ 40 }).nextFree).shootdown die (unitVun u.1)
        | none => s
      | .shared d id => match s.sharedPage d id with
        | some p => ((s.putShared d id { p with loc := s.freeVal % 2 ^ 40 }).nextFree).shootdown die (unitVun u.1)
        | none => s
    else match u.1 with
      | .staging slot => if s.stagingEligible slot then s.evictStaging slot else s
      | x => match s.unitInfo x with
        | some i => match s.demoteTo die i false with
          | some dst => s.startMove die x i dst false false none
          | none => s
        | none => s

/-- The migration of a retirement ends (R221, step 3). -/
def State.retireEnd (s : State) (die : Nat) : State :=
  let s := (s.t1Units die).foldl (fun s u => s.migrate die u) s
  let s := (s.retiredAreas die).foldl (fun s p =>
    let s := s.setPoolFree die 1 (s.poolFree die 1 - s.retiredIn die p.2.loc areaGranules)
    (s.putArea p.1 { p.2 with loc := s.freeVal % 2 ^ 40 }).nextFree) s
  (s.setFld die 0 Fld.MC_RETIRE_STATUS_BUSY 0).raise die 0x44 {}

/-- RETIRE_DONE (R221). -/
def execRetireDone (t die : Nat) (s : State) : Res :=
  .next (if s.running && s.fld die 0 Fld.MC_RETIRE_STATUS_BUSY == 1 then (s.tick t).retireEnd die else s)

/-! ### Checker test mode (R222) -/

/-- The check word of a sector (R209): linear, so that of zero is zero (log 8). -/
def checkWord (d : BitVec 512) : BitVec 16 := Config.secded d ^^^ Config.secded 0

/-- A sector of the test region as it stands; one never written holds zero. -/
def State.testSector (s : State) (die : Nat) (p : Place) : TestSector :=
  (s.tier.test.find? (fun x => x.die == die && x.cluster == p.cluster && x.stripe == p.stripe && x.channel == p.channel
    && x.sector == p.sector)).getD ⟨die, p.cluster, p.stripe, p.channel, p.sector, 0, 0⟩

/-- `s` with a sector of the test region replaced. -/
def State.setTest (s : State) (x : TestSector) : State :=
  { s with tier := { s.tier with test := x :: s.tier.test.filter (fun (y : TestSector) =>
      !(y.die == x.die && y.cluster == x.cluster && y.stripe == x.stripe && y.channel == x.channel && y.sector == x.sector)) } }

/-- A sector against its check word (R209): clean, corrected to another value, or uncorrectable. -/
def checkSector (d : BitVec 512) (c : BitVec 16) : Option (BitVec 512 × Bool) :=
  if checkWord d = c then some (d, false)
  else if (List.range 16).any (fun i => checkWord d ^^^ c == BitVec.twoPow 16 i) then some (d, true)
  else match (List.range 512).find? (fun i => checkWord (d ^^^ BitVec.twoPow 512 i) == c) with
    | some i => some (d ^^^ BitVec.twoPow 512 i, true)
    | none => none

/-- The parity place of a sector (R208). -/
def Place.parity (p : Place) : Place := { p with channel := p.stripe % 8 }

/-- Reconstruction of a sector from the other seven channels, each one checked (R213, item 3). A degraded one cannot be read. -/
def State.rebuild (s : State) (die : Nat) (p : Place) : Option (BitVec 512) :=
  ((List.range 8).filter (· != p.channel)).foldl (fun (acc : Option (BitVec 512)) c =>
    match acc with
    | none => none
    | some d =>
      if s.dramDegraded die p.cluster c then none
      else
        let x := s.testSector die { p with channel := c }
        (checkSector x.data x.check).map (fun y => d ^^^ y.1)) (some 0)

/-- A test read through R213: the value, and STATUS. -/
def State.testRead (s : State) (die : Nat) (p : Place) : Option (BitVec 512) × Nat :=
  let x := s.testSector die p
  match (if s.dramDegraded die p.cluster p.channel then none else checkSector x.data x.check) with
  | some (d, false) => (some d, 0)
  | some (d, true) => (some d, 1)
  | none => match s.rebuild die p with
    | some d => (some d, 2)
    | none => (none, 3)

/-- What MC_TEST_DATA holds. -/
def State.testData (s : State) (die : Nat) : BitVec 512 :=
  BitVec.ofNat 512 (((List.range 8).map (fun i => (s.reg die 0 ⟨0x07, 0x58 + 8 * i⟩).toNat * 2 ^ (64 * i))).foldl (· + ·) 0)

/-- MC_TEST_DATA set. -/
def State.setTestData (s : State) (die : Nat) (d : BitVec 512) : State :=
  (List.range 8).foldl (fun s i => s.setReg die 0 ⟨0x07, 0x58 + 8 * i⟩ (d.extractLsb' (64 * i) 64)) s

/-- A normal write under R212: the data with its check word, and the new parity from the old data and the old parity. Old data
that cannot be read leave the parity free (log 6). A degraded channel is left untouched. -/
def State.testWrite (s : State) (die : Nat) (p : Place) : State :=
  let new := s.testData die
  let x := s.testSector die p
  let y := s.testSector die p.parity
  let par : BitVec 512 := match (s.testRead die p).1 with
    | some d => y.data ^^^ d ^^^ new
    | none => BitVec.ofNat 512 s.freeVal
  let s := if s.dramDegraded die p.cluster p.channel then s else s.setTest { x with data := new, check := checkWord new }
  (if p.channel = p.stripe % 8 ∨ s.dramDegraded die p.cluster (p.stripe % 8) then s
   else s.setTest { y with data := par, check := checkWord par }).nextFree

/-- One test operation (R222) on a sector of the region: the state, and STATUS. -/
def State.testRun (s : State) (die : Nat) (p : Place) (op : Nat) : State × Nat :=
  let x := s.testSector die p
  match op with
  | 0 => (s.setTest { x with data := s.testData die }, 0)
  | 1 => (s.setTest { x with check := BitVec.ofNat 16 (s.fld die 0 Fld.MC_TEST_CHECK_CHECK) }, 0)
  | 2 => (s.testWrite die p, 0)
  | 3 => (s.setTest { s.testSector die p.parity with data := s.testData die }, 0)
  | 4 => ((s.setTestData die x.data).setFld die 0 Fld.MC_TEST_CHECK_CHECK x.check.toNat, 0)
  | _ =>
    let r := s.testRead die p
    let s := match r.1 with | some d => s.setTestData die d | none => s
    (if r.2 = 1 then s.memCe die p true false else if r.2 = 2 then s.memFix die p true false
     else if r.2 = 3 then s.memUe die p true false else s, r.2)

/-- The sector that MC_SEL and MC_TEST_ADDR name. -/
def State.testPlace (s : State) (die cluster : Nat) : Place :=
  ⟨cluster, s.fld die 0 Fld.MC_TEST_ADDR_CHANNEL, s.fld die 0 Fld.MC_TEST_ADDR_STRIPE, s.fld die 0 Fld.MC_TEST_CHECK_SECTOR⟩

/-- The effect of a write of MC_TEST_CTRL with GO (R222). A stripe outside the region is refused, and so are a sector above 30
and a reserved OP (log 31). -/
def State.testGo (s : State) (die cluster : Nat) (v : Word) : State :=
  if getBits v 0 0 = 0 ∨ getBits v 1 1 = 0 then s
  else
    let p := s.testPlace die cluster
    if s.inTest die cluster p.stripe && decide (p.sector < 31 ∧ getBits v 6 4 < 6) then
      let r := s.testRun die p (getBits v 6 4)
      r.1.setFld die 0 Fld.MC_TEST_CTRL_STATUS r.2
    else s.setFld die 0 Fld.MC_TEST_CTRL_STATUS 4

/-- The effect of a write of MC_TEST_CTRL. -/
def State.testEffect (s : State) (a : Acc) (v : Word) : State :=
  (s.store a.die 0 (rowOf Reg.MC_TEST_CTRL) v).testGo a.die (s.selReg a.die a.rq Reg.MC_SEL % 8) v

/-- A test operation `op`: a write of MC_TEST_CTRL that names it. -/
def State.testRow (s : State) (a : Acc) (v : Word) (op : Nat) : State :=
  let w := setBits v 6 4 op
  s.regWrite a (rowOf Reg.MC_TEST_CTRL) w none (fun s _ => s.testEffect a w)

/-- WRITE_DATA (R222). -/
def execTestWriteData (a : Acc) (v : Word) (s : State) : Res := .next (s.testRow a v 0)
/-- WRITE_CHECK (R222). -/
def execTestWriteCheck (a : Acc) (v : Word) (s : State) : Res := .next (s.testRow a v 1)
/-- WRITE (R212, R222). -/
def execTestWrite (a : Acc) (v : Word) (s : State) : Res := .next (s.testRow a v 2)
/-- WRITE_PARITY (R222). -/
def execTestWriteParity (a : Acc) (v : Word) (s : State) : Res := .next (s.testRow a v 3)
/-- READ_RAW (R222). -/
def execTestReadRaw (a : Acc) (v : Word) (s : State) : Res := .next (s.testRow a v 4)
/-- READ (R213, R222). -/
def execTestRead (a : Acc) (v : Word) (s : State) : Res := .next (s.testRow a v 5)

end Sys2Proof.Machine
end

