-- ==== Sys2Proof/Machine/Transit.lean ====
section
/-! DEFINITION. Moves between tiers as their reads and copies end (R119, R146, R200 to R207, R215, R237, R245). -/

namespace Sys2Proof.Machine

/-! ### What a T2 read leaves (R237) -/

/-- A read of T2 in a segment ended: soft re-reads, a reconstruction, or a failure. -/
def State.noteT2Read (s : State) (die group n : Nat) : ReadOutcome → State
  | .clean | .tileBad _ _ => s
  | .corrected => s.bump die 0 Fld.WK_COUNTS0_SOFT
  | .reconstructed =>
    let x := s.seg die group n
    let s := if x.st = .free then s else s.setSeg { x with fixed := true }
    (s.bump die 0 Fld.WK_COUNTS0_PARITY_FIX).raiseOnce die 0x51 group { a0 := group, a1 := n }
  | .failed addr =>
    (s.bump die 0 Fld.WK_COUNTS0_READ_FAIL).raise die 0x50 { alert := true, a0 := memFail 2 die addr }

/-- A read of a unit at a T2 location ended. -/
def State.noteT2At (s : State) (die loc : Nat) (o : ReadOutcome) : State :=
  let p := s.t2Place die loc
  s.noteT2Read die p.1 p.2.1 o

/-! ### Units that wait for a page -/

/-- Units whose page no longer stands below T1, or is gone, go on (R97, R206), and promotions that find room start. -/
def State.wakeReady (s : State) (die : Nat) : State :=
  (s.wakeUnits die (fun r page =>
    let k : PageKey := ⟨r.slot, r.key.layer, page⟩
    match s.leaf k with
    | some l => decide (s.pageTier k l ≤ 1)
    | none => true)).runPromos die

/-- The results with a unit that waits for a page of `u`. -/
def State.waitersOf (s : State) (u : UnitRef) : List (Nat × ResKey) :=
  (s.attn.results.filter (fun r => r.units.any (fun x => match x.st with
    | .waiting page => s.pageUnit ⟨r.slot, r.key.layer, page⟩ == u
    | .queued | .grouped | .running | .done => false))).map (fun r => (r.slot, r.key))

/-- The waiting requests get INTEGRITY (R121, R206, R215). -/
def State.failWaiters (s : State) (u : UnitRef) (addr : Nat) : State :=
  (s.waitersOf u).foldl (fun s w => s.failResult w.1 w.2 addr) s

/-- The sessions that a unit belongs to. -/
def State.slotsOf (s : State) (u : UnitRef) : List Nat :=
  match u with
  | .page slot _ _ | .staging slot => [slot]
  | .shared die id => ((s.kv.leaves.filter (fun p => slotDie p.1.slot == die && p.2.share == some id)).map
      (fun p => p.1.slot)).eraseDups

/-! ### Demotion (R200, R201, R203) -/

/-- The move of a unit that is in motion to one of the tiers `p`. -/
def State.moveOf (s : State) (die : Nat) (u : UnitRef) (p : Nat → Bool) : Option Move :=
  s.tier.moves.find? (fun m => m.die == die && m.unit == u && p m.dst)

/-- A demotion ends: sessions with nothing left in T1 become DORMANT, and a promotion that waits for the unit reads it where it
landed (R51). -/
def State.demoted (s : State) (m : Move) : State :=
  let slots := s.slotsOf m.unit
  (slots.foldl (fun s x => s.dormantTest x) (s.finishMove m)).runPromos m.die

/-- DEMOTION_START (R201). -/
def execDemotionStart (t die : Nat) (s : State) : Res :=
  .next (if s.running && decide (die < 2) then (s.tick t).demoteNext die else s)

/-- DEMOTION_COMPLETE (R200). -/
def execDemotionComplete (t die : Nat) (u : UnitRef) (s : State) : Res :=
  .next (match s.moveOf die u (fun d => decide (2 ≤ d)) with
    | some m => if s.running then (s.tick t).demoted m else s
    | none => s)

/-! ### Promotion (R119, R200, R204 to R207) -/

/-- The tile of a page that holds byte `off` of it (R65). -/
def State.tileAt (s : State) (u : UnitRef) (off : Nat) : Nat :=
  let enc := match u with
    | .page slot layer page => (s.leaf ⟨slot, layer, page⟩).map (fun l => (l.kenc, l.venc))
    | .shared die id => (s.sharedPage die id).map (fun p => (p.kenc, p.venc))
    | .staging _ => none
  match enc with
  | none => 0
  | some (ke, ve) =>
    let k := slotBytes s.dim ke + 128
    if off < s.kvh * k then off / k else s.kvh + (off - s.kvh * k) / (slotBytes s.dim ve + 128)

/-- A move ends without its unit having moved: its destination is given up. -/
def State.cancelMove (s : State) (m : Move) : State :=
  { s with tier := { s.tier with moves := s.tier.moves.erase m } }.abandon m

/-- After the end of a promotion: waiting units, the queue, and PROMOTING of its WAKE (R204 to R206). -/
def State.afterPromo (s : State) (m : Move) : State :=
  let s := s.wakeReady m.die
  match m.wake with
  | some slot => s.promotingTest slot
  | none => s

/-- A promotion whose read failed at byte `addr` of its tier (R207, R215): with requests waiting a tile has failed, else
DATA_CHECK. The entry keeps naming the source. -/
def State.promoFailed (s : State) (m : Move) (addr : Nat) : State :=
  let s := (s.cancelMove m).bump m.die 0 Fld.TR_COUNTS_LOWER_FAIL
  let s := if (s.waitersOf m.unit).isEmpty then s.dataCheck m.die (memFail m.src m.die addr)
    else
      let tile := tileFail m.src 1 (s.tileAt m.unit (addr - m.srcLoc * 128)) m.srcLoc
      (s.tileCheck m.die tile).failWaiters m.unit tile
  s.afterPromo m

/-- A promotion whose tile failed its check (R119, R121). -/
def State.promoTile (s : State) (m : Move) (tile cause : Nat) : State :=
  let a := tileFail m.src cause tile m.srcLoc
  (((s.cancelMove m).tileCheck m.die a).failWaiters m.unit a).afterPromo m

/-- A promotion ends. -/
def State.promoted (s : State) (m : Move) (o : ReadOutcome) : State :=
  let s := if m.src = 2 then s.noteT2At m.die m.srcLoc o else s
  match o with
  | .failed addr => s.promoFailed m addr
  | .tileBad tile cause =>
    if s.fld m.die 0 Fld.PK_CTRL_PROMO_VERIFY = 1 then s.promoTile m tile cause else (s.finishMove m).afterPromo m
  | .clean | .corrected | .reconstructed => (s.finishMove m).afterPromo m

/-- PROMOTION_COMPLETE (R200, R205). -/
def execPromotionComplete (t die : Nat) (u : UnitRef) (o : ReadOutcome) (s : State) : Res :=
  .next (match s.moveOf die u (fun d => d == 1) with
    | some m => if s.running then (s.tick t).promoted m o else s
    | none => s)

/-- PROMOTION_RESUME (R204). -/
def execPromotionResume (t die : Nat) (s : State) : Res :=
  .next (if s.running && decide (die < 2) then ((s.tick t).runPromos die).wakeReady die else s)

/-- T3_READ_TIMEOUT (R207): the read of a unit promoted from T3 fails. -/
def execT3ReadTimeout (t die : Nat) (u : UnitRef) (s : State) : Res :=
  .next (match s.moveOf die u (fun d => d == 1) with
    | some m => if s.running && m.src == 3 then (s.tick t).promoFailed m (m.srcLoc * 128) else s
    | none => s)

/-! ### Prefetch copies (R119, R146) -/

/-- A copy being made for a session's layer: its own, or of a shared page that one of its entries names. -/
def State.copyOf (s : State) (die slot layer : Nat) (c : T0Copy) : Bool :=
  c.die == die && c.cluster == s.home slot && c.layer == layer && !c.ready
    && (c.slot == slot || s.kv.leaves.any (fun p => p.1.slot == slot && p.1.layer == layer && c.share.isSome
      && p.2.share == c.share))

/-- A copy is dropped from T0. -/
def State.dropCopy (s : State) (c : T0Copy) : State :=
  ({ s with kv := { s.kv with copies := s.kv.copies.erase c } }).dealloc c.die 0 (s.sess c.slot).context c.granules

/-- A copy is whole and may be read; its page was accessed and walked (R72, R75). -/
def State.copyReady (s : State) (c : T0Copy) : State :=
  let s := { s with kv := { s.kv with copies := s.kv.copies.map (fun (x : T0Copy) => if x = c then { x with ready := true } else x) } }
  match c.page with
  | none => s
  | some p =>
    let k : PageKey := ⟨c.slot, c.layer, p⟩
    if (s.leaf k).isSome then (s.touch k).walkPage c.die k.vun else s

/-- The T1 location that a copy is read from. -/
def State.copyLoc (s : State) (c : T0Copy) : Nat :=
  match c.page with
  | some p => match s.leaf ⟨c.slot, c.layer, p⟩ with
    | some l => s.pageLoc ⟨c.slot, c.layer, p⟩ l
    | none => 0
  | none => match s.staging c.slot with
    | some g => g.loc
    | none => 0

/-- A sector of the first copy, where the medium found an error: which one is a free value (log 6). -/
def State.copyPlace (s : State) (c : T0Copy) : Place := placeOf (s.copyLoc c * 128 + s.freeVal % max 1 (2 * c.granules) * 64)

/-- The first page copy fails, or, of the staging rows, nothing is there to fail a tile check. -/
def State.copyBad (s : State) (l : List T0Copy) (tile cause : Nat) : State :=
  match l.find? (fun c => c.page.isSome) with
  | some c => (s.tileCheck c.die (tileFail 1 cause tile (s.copyLoc c))).dropCopy c
  | none => s

/-- The copies of a session's layer are made (R146). A tile that fails its check on entry to T0 is not copied (R119, R121). -/
def State.prefetched (s : State) (die slot layer : Nat) (o : ReadOutcome) : State :=
  let l := s.kv.copies.filter (fun c => s.copyOf die slot layer c)
  match l.head? with
  | none => s
  | some c =>
    let s := match o with
      | .clean => s
      | .corrected => s.memCe die (s.copyPlace c) false false
      | .reconstructed => s.memFix die (s.copyPlace c) false false
      | .failed addr =>
        let t := s.memUe die (placeOf addr) false false
        if l.any (fun c => c.page.isSome) then t.copyBad l 0 1 else (t.dataCheck die (memFail 1 die addr)).dropCopy c
      | .tileBad tile cause => s.copyBad l tile cause
    (s.kv.copies.filter (fun c => s.copyOf die slot layer c)).foldl (fun s c => s.copyReady c) s

/-- PREFETCH_COMPLETE (R146). -/
def execPrefetchComplete (t die slot layer : Nat) (o : ReadOutcome) (s : State) : Res :=
  .next (if s.running && slotDie slot == die then (s.tick t).prefetched die slot layer o else s)

/-! ### Restoring a parked image (R245) -/

/-- The read of a parked image ended: mapped again, or left where it is for the next request that needs it. -/
def State.imageRestored (s : State) (slot : Nat) (i : Parked) (o : ReadOutcome) (headerOk : Bool) : State :=
  let die := slotDie slot
  let s := if i.tier = 2 then s.noteT2At die i.loc o else s
  let leave := fun (s : State) =>
    let t := { s with tier := { s.tier with restores := s.tier.restores.filter (fun x => x != slot) } }
    if s.tier.restores.contains slot then t.dealloc die 1 (s.sess slot).context (s.stagingGranules + areaGranules) else t
  match o with
  | .failed addr =>
    ((leave (s.bump die 0 Fld.TR_COUNTS_LOWER_FAIL)).dataCheck die (memFail i.tier die addr)).promotingTest slot
  | .clean | .corrected | .reconstructed | .tileBad _ _ =>
    if headerOk then ((s.restoreImage slot).wakeReady die).promotingTest slot
    else ((leave s).dataCheck die (memFail i.tier die (i.loc * 128))).promotingTest slot

/-- IMAGE_RESTORE_DONE (R245): the restore of a WAKE, or a later request's retry. -/
def execImageRestoreDone (t slot : Nat) (o : ReadOutcome) (headerOk : Bool) (s : State) : Res :=
  .next (match alGet slot s.kv.images with
    | some i => if s.running then (s.tick t).imageRestored slot i o headerOk else s
    | none => s)

end Sys2Proof.Machine
end

