-- ==== Sys2Proof/Machine/FlashCmds.lean ====
section
/-! DEFINITION. Programming, erasing, degrading and collecting flash (R233, R234, R238 to R241). -/

namespace Sys2Proof.Machine

/-! ### Moving a unit within T2 -/

/-- The location of a granule of a segment (R231). -/
def State.t2Loc (s : State) (x : Seg) (first : Nat) : Nat := x.group * 2 ^ 39 + x.seg * s.ppb x.die * stripeGranules + first

/-- Where units of an owner may start (R233): an index page at a flash page, an image at a stripe. -/
def ownerAlign : Owner → Nat
  | .unit (.staging _) => 896
  | .unit (.page _ _ _) | .unit (.shared _ _) => 1
  | .index _ _ _ => 128

/-- Every entry, move and page table that names T2 location `a` on a die names `b` (R234, R240). -/
def State.relocate (s : State) (die : Nat) (o : Owner) (a b : Nat) : State :=
  match o with
  | .unit u =>
    let s := { s with tier := { s.tier with moves := s.tier.moves.map (fun (m : Move) =>
      if m.die = die ∧ m.unit = u ∧ m.dst = 2 ∧ m.loc = a then { m with loc := b }
      else if m.die = die ∧ m.unit = u ∧ m.src = 2 ∧ m.srcLoc = a then { m with srcLoc := b } else m) } }
    match s.unitInfo u with
    | some i => if i.tier = 2 ∧ i.loc = a then (s.retarget u 2 b).shootdown die (unitVun u) else s
    | none => s
  | .index num _ _ =>
    let f := fun (l : List Nat) => l.map (fun x => if x = a then b else x)
    { s with flash := { s.flash with indexes := s.flash.indexes.map (fun (x : Index) =>
      if x.die = die ∧ x.num = num then
        { x with table := f x.table, old := x.old.map (fun (g : OldGen) => { g with release := f g.release }) }
      else x) } }

/-- A live unit of a segment is placed again in a segment of a kind; it stays where it is when none can take it. -/
def State.replace (s : State) (die group n kind : Nat) (e : SumEnt) : State :=
  match s.place die group kind (ownerAlign e.owner) e.size e.owner with
  | none => s
  | some (t, loc) =>
    let old := t.t2Loc (t.seg die group n) e.first
    (t.relocate die e.owner old loc).releaseT2 die old

/-! ### Stripes (R234) -/

/-- A stripe that has waited is programmed as it stands: the rest of it is dead. -/
def State.padStripe (s : State) (y : Stripe) : State :=
  let x := s.seg y.die y.group y.seg
  let stop := (y.stripe + 1) * stripeGranules
  let z : Seg := { x with next := max x.next stop, st := if s.segRoom y.die ≤ stop ∧ x.st = .open_ then .closed else x.st }
  let s := s.setSeg z
  { s with flash := { s.flash with stripes := s.flash.stripes.map (fun (v : Stripe) => if v = y then { v with ready := true } else v) } }

/-- The stripes of a group whose wait is over. -/
def State.waited (s : State) (die group : Nat) : List Stripe :=
  s.flash.stripes.filter (fun y => y.die == die && y.group == group && !y.ready
    && decide (y.since + s.fld die 0 Fld.WK_BATCH_STRIPE_WAIT_US * 1000 ≤ s.now))

/-- STRIPE_WAIT_EXPIRED (R234). -/
def execStripeWaitExpired (t die group : Nat) (s : State) : Res :=
  let s' := s.tick t
  .next (if s.running then (s'.waited die group).foldl (fun s y => s.padStripe y) s' else s)

/-- A stripe leaves the buffer. -/
def State.dropStripe (s : State) (y : Stripe) : State :=
  { s with flash := { s.flash with stripes := s.flash.stripes.erase y } }

/-- The live units of a segment that lie in a stripe. -/
def Seg.inStripe (x : Seg) (k : Nat) : List SumEnt :=
  x.entries.filter (fun e => e.live && decide (e.first < (k + 1) * stripeGranules) && decide (k * stripeGranules < e.first + e.size))

/-- A program failed: the stripe is dead, its units are placed again, and its segment is to be retired. -/
def State.programFailed (s : State) (y : Stripe) : State :=
  let x := s.seg y.die y.group y.seg
  let s := (s.setSeg { x with retire := true, next := max x.next ((y.stripe + 1) * stripeGranules) }).dropStripe y
  let s := (s.bump y.die 0 Fld.WK_COUNTS0_PROG_FAIL).raise y.die 0x52 { a0 := y.group, a1 := y.seg }
  (x.inStripe y.stripe).foldl (fun s e => s.replace y.die y.group y.seg x.kind e) s

/-- FLASH_PROGRAM_DONE (R234): of the oldest full or expired stripe whose segment has been erased. -/
def execFlashProgramDone (t die group : Nat) (ok : Bool) (s : State) : Res :=
  .next (match s.flash.stripes.find? (fun y => y.die == die && y.group == group && y.ready && (s.seg die group y.seg).erased) with
    | some y => if s.running then (if ok then (s.tick t).dropStripe y else (s.tick t).programFailed y) else s
    | none => s)

/-- An erase failed: the segment is RETIRED, and what was to go into it is placed elsewhere (R239). -/
def State.eraseFailed (s : State) (x : Seg) : State :=
  let s := s.setSeg { x with st := .retired }
  let s := { s with flash := { s.flash with stripes := s.flash.stripes.filter (fun (y : Stripe) =>
    !(y.die == x.die && y.group == x.group && y.seg == x.seg)) } }
  let s := s.raise x.die 0x53 { alert := true, a0 := x.group, a1 := x.seg }
  (x.entries.filter (·.live)).foldl (fun s e => s.replace x.die x.group x.seg x.kind e) s

/-- SEGMENT_ERASE_DONE (R233, R239). -/
def execSegmentEraseDone (t die group seg : Nat) (ok : Bool) (s : State) : Res :=
  let x := s.seg die group seg
  .next (if s.running && (x.st == .open_ || x.st == .closed) && !x.erased then
      (if ok then (s.tick t).setSeg { x with erased := true, erases := x.erases + 1 } else (s.tick t).eraseFailed x)
    else s)

/-! ### Degraded channels (R238) -/

/-- A flash channel becomes degraded, unless its group has one already. -/
def State.degradeFlash (s : State) (die c : Nat) : State :=
  let old := s.fld die 0 Fld.WK_DEGRADE_DEGRADED
  let unit := unitCode 5 die 0 c
  if old / 2 ^ c % 2 = 1 then s
  else if old / 2 ^ (c / 8 * 8) % 256 ≠ 0 then s.raise die 0x43 { alert := true, refusal := true, unit }
  else ((s.setFld die 0 Fld.WK_DEGRADE_DEGRADED (old + 2 ^ c)).setMap die (nandBit c) true).raise die 0x43 { alert := true, unit }

/-- The effect of a write of WK_DEGRADE: its new bits, lowest first; clearing is ignored. -/
def State.wkDegradeEffect (s : State) (die : Nat) (v : Word) : State :=
  (List.range 16).foldl (fun s i => if v.toNat / 2 ^ i % 2 = 1 then s.degradeFlash die i else s) s

/-- WK_DEGRADE_WRITE (R238). -/
def execWkDegradeWrite (a : Acc) (v : Word) (s : State) : Res :=
  .next (s.regWrite a (rowOf Reg.WK_DEGRADE) v none (fun s _ => s.wkDegradeEffect a.die v))

/-! ### Collection (R240) -/

/-- BUSY0 or BUSY1. -/
def gcBusy (group : Nat) : Field := if group = 0 then Fld.WK_GC_STATUS_BUSY0 else Fld.WK_GC_STATUS_BUSY1

/-- The reason a collection is refused, if any. -/
def State.gcRefusal (s : State) (die group n : Nat) : Option Nat :=
  let x := s.seg die group n
  if x.st ≠ .closed then some 1
  else if x.kind = 1 then some 2
  else if s.fld die 0 (gcBusy group) = 1 then some 3
  else none

/-- The effect of a write of WK_GC. -/
def State.gcEffect (s : State) (die : Nat) (v : Word) : State :=
  let group := getBits v 62 62
  let n := getBits v 31 0
  if getBits v 63 63 = 0 then s
  else match s.gcRefusal die group n with
    | some r => s.setFld die 0 Fld.WK_GC_STATUS_REFUSED r
    | none => { s with flash := { s.flash with gcs := s.flash.gcs ++ [(die, group, n)] } }.setFld die 0 (gcBusy group) 1

/-- WK_GC (R240). -/
def execWkGc (a : Acc) (v : Word) (s : State) : Res :=
  .next (s.regWrite a (rowOf Reg.WK_GC) v none (fun s _ => s.gcEffect a.die v))

/-- The owner of a summary entry is in motion. -/
def State.ownerMoves (s : State) (e : SumEnt) : Bool :=
  match e.owner with
  | .unit u => s.moving u
  | .index _ _ _ => true

/-- One entry of the collected segment: a live unit that is not in motion moves to the GC segment. -/
def collectEntry (die group n : Nat) (p : State × Nat) (e : SumEnt) : State × Nat :=
  if p.1.ownerMoves e then p
  else
    let t := p.1.replace die group n 2 e
    let left := ((t.seg die group n).entries.any (fun x => x.first == e.first && x.live)) && (t.seg die group n).st != .free
    (t, if left then p.2 else p.2 + e.size)

/-- A collection has dealt with every entry (R239, R240). -/
def State.gcEnd (s : State) (die group n : Nat) : State :=
  let x := s.seg die group n
  let p := (x.entries.filter (·.live)).foldl (fun p e => collectEntry die group n p e) (s, 0)
  let s := p.1
  let s := { s with flash := { s.flash with gcs := s.flash.gcs.erase (die, group, n) } }.setFld die 0 (gcBusy group) 0
  ((s.bumpBy die 0 Fld.WK_GC_STATUS_MOVED p.2).settleSeg (s.seg die group n)).raise die 0x56 { a0 := p.2 }

/-- GC_DONE (R240). -/
def execGcDone (t die group : Nat) (s : State) : Res :=
  .next (match s.flash.gcs.find? (fun g => g.1 == die && g.2.1 == group) with
    | some g => if s.running then (s.tick t).gcEnd die group g.2.2 else s
    | none => s)

end Sys2Proof.Machine
end

