-- ==== Sys2Proof/Machine/Vectors.lean ====
section
/-! DEFINITION. Vector formats, distances and the search algorithms of an index generation (R247 to R255). -/

namespace Sys2Proof.Machine

/-! ### Formats (R247, R248) -/

/-- IEEE binary16. -/
def fp16 : Fmt := ⟨11, -24, 0x7BFF, 15⟩

/-- Bytes of a vector. -/
def vecBytes (format dim : Nat) : Nat :=
  if format = 0 then 2 * dim else if format = 1 then dim else dim / 2 + dim / 32

/-- RECORD of a format and dimension: ITEM, NORM, ATTR and the vector, to a multiple of 16. -/
def recordBytes (format dim : Nat) : Nat := ceilDiv (16 + vecBytes format dim) 16 * 16

/-- The vector may be used: no non-finite FP16 element, no MXFP4 scale of 0xFF (R247). -/
def vecOk (format dim : Nat) (v : List Byte) : Bool :=
  if format = 0 then (chunks 2 v).all (fun b => leNat b / 1024 % 32 != 31)
  else if format = 1 then true
  else ((v.drop (dim / 2)).take (dim / 32)).all (fun b => b != 0xFF)

/-- The exact elements of a vector. -/
def vecElems (format dim : Nat) (v : List Byte) : List Dy :=
  if format = 0 then (chunks 2 (v.take (2 * dim))).map (fun b => fp16.dec (leNat b))
  else if format = 1 then (v.take dim).map (fun b => ⟨b.toInt, 0⟩)
  else
    let es := ((v.take (dim / 2)).map (fun b => [b.toNat % 16, b.toNat / 16])).flatten
    let sc := ((v.drop (dim / 2)).take (dim / 32)).map (fun b => ((b.toNat : Int) - 127))
    ((chunks 32 es).zipWith (fun g x => g.map (fun n => (e2m1.dec n).mul ⟨1, x⟩)) sc).flatten

/-! ### Distances (R249) -/

/-- Terms summed in groups of 32, each rounded once and added in order. -/
def groupSum (terms : List Dy) : Fl := ((chunks 32 terms).map (fun g => Fl.ofDy (Dy.sum g) false)).foldl Fl.add (Fl.of 0)

/-- The integer square root of `n`, by its bits from `k − 1` down. -/
def isqrt (n : Nat) : Nat → Nat → Nat
  | 0, r => r
  | k + 1, r => isqrt n k (if (r + 2 ^ k) * (r + 2 ^ k) ≤ n then r + 2 ^ k else r)

/-- fl(sqrt(x)) of a value not below zero: the root with 40 bits below, and a sticky last bit. -/
def Fl.sqrt (x : Fl) : Fl :=
  let d := x.dy
  let odd : Nat := if d.e % 2 = 0 then 0 else 1
  let n := d.m.natAbs * 2 ^ odd * 2 ^ 80
  let r := isqrt n (Nat.log2 n / 2 + 1) 0
  Fl.ofDy ⟨((2 * r + (if r * r = n then 0 else 1) : Nat) : Int), (d.e - odd) / 2 - 41⟩ x.o

/-- NORM. -/
def vecNorm (xs : List Dy) : Fl := (groupSum (xs.map (fun x => x.mul x))).sqrt

/-- The distance of a query, with its norm, to a vector with its NORM. Where nq × NORM rounds to zero although neither is
zero, the quotient is a free value: R249 states none (log 6). -/
def distance (metric : Nat) (q : List Dy) (nq : F32) (x : List Dy) (norm : F32) : F32 :=
  if metric = 0 then (groupSum (q.zipWith (fun a b => (a.add b.neg).mul (a.add b.neg)) x)).v
  else
    let dot := groupSum (q.zipWith Dy.mul x)
    if metric = 1 then dot.neg.v
    else if nq.toNat % 2 ^ 31 = 0 ∨ norm.toNat % 2 ^ 31 = 0 then 0x3F800000
    else
      let p := (Fl.of nq).mul (Fl.of norm)
      if p.v.toNat % 2 ^ 31 = 0 then Config.cosineOpen dot.v else ((Fl.of 0x3F800000).sub (dot.div p)).v

/-- A scored record: distance, item, attributes, and whether it came from the side list. -/
structure Hit where
  dist : F32
  item : Nat
  attr : BitVec 32
  side : Bool
  deriving DecidableEq, Repr

/-- The order of R249. -/
def Hit.le (a b : Hit) : Bool := decide (f32Key a.dist < f32Key b.dist) || (f32Key a.dist == f32Key b.dist && decide (a.item ≤ b.item))

/-- A hit enters a list in order. -/
def insertHit (x : Hit) : List Hit → List Hit
  | [] => [x]
  | y :: l => if y.le x then y :: insertHit x l else x :: y :: l

/-- A list of hits in the order of R249. -/
def sortHits (l : List Hit) : List Hit := l.foldl (fun r x => insertHit x r) []

/-! ### What a search sees (R255) -/

/-- The window of a search: side entries with CUTOFF ≤ SEQ < MARK. -/
def Index.window (x : Index) (cutoff mark : Nat) : List SideEnt :=
  x.side.filter (fun e => decide (cutoff ≤ e.seq) && decide (e.seq < mark))

/-- The entry of the window that decides for an item: the last. -/
def decides (w : List SideEnt) (item : Nat) : Option SideEnt := (w.filter (fun e => e.rec_.item == item)).getLast?

/-- The inserts of a window that are visible. -/
def sideInserts (w : List SideEnt) : List IdxRec :=
  (w.filter (fun e => e.insert && (decides w e.rec_.item).map (·.seq) == some e.seq)).map (·.rec_)

/-- A record passes the attribute filter. -/
def attrPass (m : SearchMsg) (attr : BitVec 32) : Bool := (attr &&& m.attrMask) == m.attrMatch

/-- The query of a search against one index: metric, elements, norm. -/
structure Query where
  metric : Nat
  format : Nat
  dim : Nat
  q : List Dy
  nq : F32
  deriving DecidableEq, Repr

/-- The score of a record. -/
def Query.score (k : Query) (side : Bool) (r : IdxRec) : Hit :=
  ⟨distance k.metric k.q k.nq (vecElems k.format k.dim r.vec) r.norm, r.item, r.attr, side⟩

/-! ### The algorithms (R251, R253, R254) -/

/-- The lists of a generation that are probed (R251): nearest centroids first, ties in ascending list number. -/
def probed (k : Query) (g : IdxGen) (nprobe : Nat) : List (Nat × Nat) :=
  ((sortHits (g.centroids.map (k.score false))).take nprobe).filterMap (fun h => g.lists[h.item]?)

/-- The records of the probed lists. -/
def listRecs (k : Query) (g : IdxGen) (nprobe : Nat) : List IdxRec :=
  ((probed k g nprobe).map (fun l => (g.recs.drop l.1).take l.2)).flatten

/-- A node of the beam: its number, its hit, and whether it has been expanded. -/
structure BeamNode where
  node : Nat
  hit : Hit
  done : Bool
  deriving DecidableEq, Repr

/-- A graph search under way: visited nodes with their hits, the beam in order, and whether the budget stopped a visit. -/
structure Graph where
  seen : List (Nat × Hit)
  beam : List BeamNode
  budget : Bool
  deriving DecidableEq, Repr

/-- A node enters the beam in order. -/
def insertBeam (x : BeamNode) : List BeamNode → List BeamNode
  | [] => [x]
  | y :: l => if y.hit.le x.hit then y :: insertBeam x l else x :: y :: l

/-- A neighbour is visited, unless it was or the budget is spent. -/
def Graph.visit (k : Query) (g : IdxGen) (maxVisit : Nat) (w : Graph) (n : Nat) : Graph :=
  match g.recs[n]? with
  | none => w
  | some r =>
    if w.seen.any (fun p => p.1 == n) then w
    else if maxVisit ≠ 0 ∧ maxVisit ≤ w.seen.length then { w with budget := true }
    else
      let h := k.score false r
      { w with seen := w.seen ++ [(n, h)], beam := insertBeam ⟨n, h, false⟩ w.beam }

/-- The loop of R253, at most `fuel` expansions: every expansion takes another visited node. -/
def Graph.run (k : Query) (g : IdxGen) (beam maxVisit : Nat) : Nat → Graph → Graph
  | 0, w => w
  | fuel + 1, w =>
    match w.beam.find? (fun b => !b.done) with
    | none => w
    | some n =>
      let w := { w with beam := w.beam.map (fun (b : BeamNode) => if b.node = n.node then { b with done := true } else b) }
      let nbrs := match g.recs[n.node]? with | some r => r.nbrs | none => []
      let w := nbrs.foldl (fun w m => w.visit k g maxVisit m) w
      Graph.run k g beam maxVisit fuel { w with beam := w.beam.take beam }

/-- What a graph search visits. -/
def graphSearch (k : Query) (g : IdxGen) (beam maxVisit : Nat) : Graph :=
  Graph.run k g beam maxVisit g.recs.length (Graph.visit k g 0 ⟨[], [], false⟩ g.entry)

/-- What a search found: the records or nodes scored, the results in order, and BUDGET. -/
structure Found where
  visited : Nat
  hits : List Hit
  budget : Bool
  deriving DecidableEq, Repr

/-- A search of a generation and a window. -/
def searchIn (sh : IdxShape) (g : IdxGen) (w : List SideEnt) (m : SearchMsg) : Found :=
  let q := vecElems sh.format sh.dim m.query
  let k : Query := ⟨sh.metric, sh.format, sh.dim, q, (vecNorm q).v⟩
  let side := (sideInserts w).map (k.score true)
  let gr := graphSearch k g m.beam m.maxVisit
  let base := if m.mode = 2 then g.recs.map (k.score false)
    else if sh.graph then gr.seen.map (·.2) else (listRecs k g m.nprobe).map (k.score false)
  let shown := base.filter (fun h => (decides w h.item).isNone)
  { visited := base.length + side.length
    hits := (sortHits ((shown ++ side).filter (fun h => attrPass m h.attr))).take m.k
    budget := m.mode != 2 && sh.graph && gr.budget }

end Sys2Proof.Machine
end

