-- ==== Sys2Proof/Machine/Search.lean ====
section
/-! DEFINITION. Vector indexes: merging, searching, inserting and deleting (R246, R250 to R262). -/

namespace Sys2Proof.Machine

/-! ### Indexes -/

/-- An installed index of a die. -/
def State.index (s : State) (die num : Nat) : Option Index := s.flash.indexes.find? (fun x => x.die == die && x.num == num)

/-- `s` with an index replaced. -/
def State.setIndex (s : State) (x : Index) : State :=
  { s with flash := { s.flash with indexes := x :: s.flash.indexes.filter (fun (y : Index) => !(y.die == x.die && y.num == x.num)) } }

/-- The group of an index. -/
def idxGroup (x : Index) : Nat := x.shape.group

/-- Granules of a side entry (R250, R255): its head and a record. -/
def sideGranules (sh : IdxShape) : Nat := ceilDiv (16 + sh.record) 128

/-- Granules of a generation's tables (R248, R250): page table, list table and centroids. -/
def tableGranules (sh : IdxShape) (pages : Nat) (g : IdxGen) : Nat :=
  ceilDiv (8 * pages) 128 + (if sh.graph then 0 else ceilDiv (8 * g.lists.length + sh.record * g.lists.length) 128)

/-- Searches of an index that run. -/
def State.searchesOf (s : State) (x : Index) : List Search :=
  s.flash.searches.filter (fun q => q.die == x.die && q.msg.index % 1024 == x.num)

/-- The first SEQ that a running search or the current generation still needs (R257). -/
def State.sideFloor (s : State) (x : Index) : Nat := ((s.searchesOf x).map (·.cutoff)).foldl min x.gen.cutoff

/-- Side entries that nothing needs are released (R257). -/
def State.trimSide (s : State) (x : Index) : State :=
  let floor := s.sideFloor x
  let keep := x.side.filter (fun e => decide (floor ≤ e.seq))
  (s.setIndex { x with side := keep }).dealloc x.die 1 x.shape.context ((x.side.length - keep.length) * sideGranules x.shape)

/-- One older generation is released with its pages and tables (R257). -/
def State.dropGen (s : State) (x : Index) (g : OldGen) : State :=
  let s := g.release.foldl (fun s loc => (s.releaseT2 x.die loc).dealloc x.die 2 x.shape.context 128) s
  s.dealloc x.die 1 x.shape.context (tableGranules x.shape g.pages g.gen)

/-- Older generations that no search uses are released, and side entries with them (R257). -/
def State.retire_ (s : State) (die num : Nat) : State :=
  match s.index die num with
  | none => s
  | some x =>
    let busy := fun (g : OldGen) => (s.searchesOf x).any (fun q => q.generation == g.gen.generation)
    let s := (x.old.filter (fun g => !busy g)).foldl (fun s g => s.dropGen x g) s
    s.trimSide { x with old := x.old.filter busy }

/-! ### Merge (R256, R257) -/

/-- The new pages of a generation are placed in the INDEX segment (R233): their locations, none when the group takes none. -/
def State.placePages (s : State) (x : Index) (gen : Nat) : List (Option Nat) → Nat → Option (State × List Nat)
  | [], _ => some (s, [])
  | some n :: l, i => (s.placePages x gen l (i + 1)).map (fun p => (p.1, x.table.getD n 0 :: p.2))
  | none :: l, i =>
    match s.place x.die x.shape.group 1 128 128 (.index x.num gen i) with
    | none => none
    | some (t, loc) => (t.placePages x gen l (i + 1)).map (fun p => (p.1, loc :: p.2))

/-- The switch to a pending descriptor is refused (R256). -/
def mergeBad (x : Index) (p : PendingIdx) : Bool :=
  !p.valid || p.shape.graph != x.shape.graph || p.shape.group != x.shape.group || p.shape.context != x.shape.context
    || p.shape.format != x.shape.format || p.shape.metric != x.shape.metric || p.shape.dim != x.shape.dim
    || p.shape.record != x.shape.record || p.shape.degree != x.shape.degree || p.gen.generation != x.gen.generation + 1
    || !decide (x.gen.cutoff ≤ p.gen.cutoff ∧ p.gen.cutoff ≤ x.mark)

/-- New pages of a pending page table. -/
def newPageCount (p : PendingIdx) : Nat := (p.table.filter (·.isNone)).length

/-- The switch (R256): the new generation is current, the old one stays while searches use it, MERGE_SWITCH is raised. -/
def State.switchGen (s : State) (x : Index) (p : PendingIdx) (table : List Nat) : State :=
  let ctx := x.shape.context
  let s := (s.alloc x.die 2 ctx (128 * newPageCount p)).alloc x.die 1 ctx (tableGranules x.shape p.table.length p.gen)
  let old : OldGen := ⟨x.gen, x.table.length, p.release.filterMap (fun n => x.table[n]?)⟩
  let s := s.setIndex { x with gen := p.gen, table, old := x.old ++ [old] }
  (s.raise x.die 0x57 { ctx := some ctx, a0 := x.num, a1 := p.gen.generation }).retire_ x.die x.num

/-- The switch, when its pages find a place. -/
def State.merge (s : State) (x : Index) (p : PendingIdx) : Option State :=
  (s.placePages x p.gen.generation p.table 0).map (fun r => r.1.switchGen x p r.2)

/-- The effect of a write of WK_MERGE on the index that WK_IDX_SEL names. A write whose descriptor is not given finds none. -/
def State.mergeEffect (s : State) (die num : Nat) (v : Word) (p : Option PendingIdx) : State :=
  let s := s.store die num (rowOf Reg.WK_MERGE) v
  if getBits v 63 63 = 0 then s
  else
    let refused := s.setFld die num Fld.WK_MERGE_STATUS_REFUSED 1
    match s.index die num, p with
    | some x, some p => if mergeBad x p then refused else (s.merge x p).getD refused
    | _, _ => refused

/-- WK_MERGE (R256). -/
def execWkMerge (a : Acc) (v : Word) (p : PendingIdx) (s : State) : Res :=
  .next (s.regWrite a (rowOf Reg.WK_MERGE) v (some p) (fun s num => s.mergeEffect a.die num v (some p)))

/-! ### The check order (R260) -/

/-- The die of an INDEX (R246). -/
def idxDie (i : Nat) : Nat := i / 32768 % 2

/-- Steps 2 and 3 of R260. -/
def State.idxCheck (s : State) (e : Env) (ctx index : Nat) : Refuse ⊕ Index :=
  if !s.senderOk e ctx || s.role e.ep == 0 || decide (3 < s.role e.ep) then .inl ⟨St.denied, 0, 0⟩
  else if index / 1024 % 32 ≠ 0 then .inl ⟨St.badFrame, 0x60, 0⟩
  else match s.index (idxDie index) (index % 1024) with
    | none => .inl ⟨St.badFrame, 0x60, 0⟩
    | some x => if x.shape.context ≠ ctx then .inl ⟨St.denied, 0, 0⟩ else .inr x

/-! ### SEARCH (R251 to R254, R258 to R262) -/

/-- The fields of a SEARCH are wrong (R258, R261). -/
def searchFieldsBad (x : Index) (m : SearchMsg) : Bool :=
  decide (4096 ≤ m.context) || m.zero5 != 0 || m.zero13 != 0 || !decide (1 ≤ m.k ∧ m.k ≤ 1024)
    || (decide (m.mode < 3) && (
      if m.mode = 2 then m.nprobe != 0 || m.beam != 0 || m.prefetch != 0 || m.maxVisit != 0
      else if x.shape.graph then m.nprobe != 0 || !decide (m.k ≤ m.beam ∧ m.beam ≤ 4096) || decide (16 < m.prefetch)
      else m.beam != 0 || m.prefetch != 0 || m.maxVisit != 0 || !decide (1 ≤ m.nprobe ∧ m.nprobe ≤ x.gen.lists.length)))

/-- Step 4 of R260 for a SEARCH. -/
def searchBad (x : Index) (m : SearchMsg) : Option Nat :=
  if searchFieldsBad x m then some 0x61
  else if m.bytes ≠ vecBytes x.shape.format x.shape.dim ∨ m.query.length ≠ m.bytes then some 0x62
  else if vecOk x.shape.format x.shape.dim m.query = false then some 0x63
  else if 3 ≤ m.mode ∨ (m.mode = 1 ∧ x.shape.graph) then some 0x64
  else none

/-- The response header of R259. -/
def searchBody (m : SearchMsg) (mode rflags returned short gen mark qtag visited detail : Nat) (hits : List Byte) : List Byte :=
  be 2 m.context ++ be 2 m.index ++ be 1 mode ++ be 1 rflags ++ be 2 returned ++ be 2 short ++ be 2 0 ++ be 4 gen ++ be 8 mark
    ++ be 8 qtag ++ be 4 visited ++ be 4 0 ++ be 8 detail ++ hits

/-- A refused SEARCH: zero in every field after INDEX but DETAIL. -/
def State.searchRefuse (s : State) (e : Env) (m : SearchMsg) (x : Refuse) : State :=
  s.answer e 0x0C x.status x.reason (searchBody m 0 0 0 0 0 0 0 0 x.detail [])

/-- Searches that a group runs. -/
def State.groupSearches (s : State) (die group : Nat) : Nat :=
  (s.flash.searches.filter (fun q => q.die == die
    && (match s.index die (q.msg.index % 1024) with | some x => x.shape.group == group | none => false))).length

/-- The searches that wait in the batch of an index and generation. -/
def State.batchOf (s : State) (die num gen : Nat) : List Search :=
  s.flash.searches.filter (fun q => q.die == die && q.msg.index % 1024 == num && q.generation == gen && q.batch.isSome)

/-- A batch runs (R252). -/
def State.runBatch (s : State) (die num gen : Nat) : State :=
  let l := s.batchOf die num gen
  let n := l.length
  let s := { s with flash := { s.flash with searches := s.flash.searches.map (fun (q : Search) =>
    if l.any (fun y => y.qid == q.qid) then { q with batch := none, batched := n } else q) } }
  if 2 ≤ n then s.bumpBy die 0 Fld.WK_COUNTS1_BATCHED n else s

/-- A SEARCH is admitted (R255, R260 step 7). -/
def State.admitReq (s : State) (e : Env) (m : SearchMsg) (x : Index) : State :=
  let wait := m.mode == 1 && s.fld x.die 0 Fld.WK_CTRL_BATCH_EN == 1
  let q : Search := ⟨x.die, s.flash.nextQid, e, m, x.gen.generation, x.gen.cutoff, x.mark, if wait then some s.now else none, 1, s.msgNo⟩
  let s := { s with flash := { s.flash with searches := s.flash.searches ++ [q], nextQid := s.flash.nextQid + 1 } }
  let s := if m.mode = 2 then s.bump x.die 0 Fld.WK_COUNTS1_EXACT else s
  if wait && decide (s.fld x.die 0 Fld.WK_BATCH_MAX_QUERIES ≤ (s.batchOf x.die x.num x.gen.generation).length)
  then s.runBatch x.die x.num x.gen.generation else s

/-- The check order of a SEARCH (R260). -/
def State.searchRun (s : State) (e : Env) (m : SearchMsg) : State :=
  match s.idxCheck e (m.context % 4096) m.index with
  | .inl r => (s.noteMismatch e (m.context % 4096) r.status).searchRefuse e m r
  | .inr x =>
    match searchBad x m with
    | some r => s.searchRefuse e m ⟨St.badFrame, r, 0⟩
    | none =>
      if s.fld x.die 0 Fld.WK_CTRL_SEARCH_EN = 0 ∨ 512 ≤ s.groupSearches x.die x.shape.group then
        s.searchRefuse e m ⟨St.busyRetry, 0, 0⟩
      else s.admitReq e m x

/-- SEARCH (R251, R258, R260). -/
def execSearch (e : Env) (m : SearchMsg) (s : State) : Res :=
  .next (s.message e (.search e m) 0x0C none (searchBody m 0 0 0 0 0 0 0 0 0 []) (fun s => s.searchRun e m))

/-- A generation that a search was admitted against. -/
def Index.genOf (x : Index) (n : Nat) : IdxGen :=
  match x.old.find? (fun g => g.gen.generation == n) with
  | some g => g.gen
  | none => x.gen

/-- The bytes of a result. -/
def hitBytes (h : Hit) : List Byte := le 8 h.item ++ le 4 h.dist.toNat ++ le 4 h.attr.toNat

/-- The response of a search that was carried out (R259, R262). -/
def State.searchResult (s : State) (x : Index) (q : Search) : State × Nat × List Byte :=
  let f := searchIn x.shape (x.genOf q.generation) (x.window q.cutoff q.mark) q.msg
  let n := f.hits.length
  let full := decide (n = q.msg.k)
  let s := if full then s else s.bump q.die 0 Fld.WK_COUNTS1_PARTIAL
  (s, if full then St.done else St.partial_,
    searchBody q.msg q.msg.mode (b2n f.budget + 2 * b2n (decide (2 ≤ q.batched)) + 4 * b2n (f.hits.any (·.side))) n (q.msg.k - n)
      q.generation q.mark q.msg.qtag f.visited 0 ((f.hits.map hitBytes).flatten))

/-- The response of a search that met a failed read (R259, R262); VISITED is a free value (log 6). -/
def State.searchFailed (s : State) (q : Search) (addr : Nat) : State × Nat × List Byte :=
  let body := searchBody q.msg q.msg.mode (2 * b2n (decide (2 ≤ q.batched))) 0 q.msg.k q.generation q.mark q.msg.qtag
    (s.freeVal % 2 ^ 32) addr []
  ((s.nextFree).dataCheck q.die addr, St.integrity, body)

/-- An answer that a message gets after its own step: its determined form is recorded or compared (R428, R433, R441), and replay
sends nothing (R438). -/
def State.lateAnswer (s : State) (e : Env) (type n status : Nat) (body : List Byte) : State :=
  let replaying := s.inReplay
  let s := if replaying then { s with rp := { s.rp with msg := some n } } else s
  let s := s.answer e type status 0 body
  let s := if n = 0 then s else match formOf type status body with
    | some f => s.formed n e.port f
    | none => s
  if replaying then { s with rp := { s.rp with msg := none } } else s

/-- A search ends with what its reads met (R237, R257, R262). The segment of an index read is that of the first page of the
index. -/
def State.searchEnd (s : State) (q : Search) (x : Index) (o : ReadOutcome) : State :=
  let s := { s with flash := { s.flash with searches := s.flash.searches.filter (fun (y : Search) => y.qid != q.qid) } }
  let s := s.noteT2At q.die (x.table.headD 0) o
  let r := match o with
    | .clean | .corrected | .reconstructed => s.searchResult x q
    | .failed addr => s.searchFailed q (memFail 2 q.die addr)
    | .tileBad _ _ => s.nextFree.searchFailed q (memFail 2 q.die s.freeVal)
  ((r.1.lateAnswer q.env 0x0C q.rec_ r.2.1 r.2.2).retire_ x.die x.num).formResults

/-- SEARCH_DONE (R251, R253, R254, R257): of a search that does not wait in a batch. -/
def execSearchDone (t die qid : Nat) (o : ReadOutcome) (s : State) : Res :=
  .next (match s.flash.searches.find? (fun q => q.die == die && q.qid == qid && q.batch.isNone) with
    | none => s
    | some q => match s.index die (q.msg.index % 1024) with
      | some x => if s.running then (s.tick t).searchEnd q x o else s
      | none => s)

/-- The batches of a group whose oldest member has waited WAIT_US (R252). -/
def State.dueBatches (s : State) (die group : Nat) : List (Nat × Nat) :=
  ((s.flash.searches.filter (fun q => q.die == die
    && (match s.index die (q.msg.index % 1024) with | some x => x.shape.group == group | none => false)
    && (match q.batch with | some b => decide (b + s.fld die 0 Fld.WK_BATCH_WAIT_US * 1000 ≤ s.now) | none => false))).map
      (fun q => (q.msg.index % 1024, q.generation))).eraseDups

/-- BATCH_WAIT_EXPIRED (R252). -/
def execBatchWaitExpired (t die group : Nat) (s : State) : Res :=
  let s' := s.tick t
  .next (if s.running then (s'.dueBatches die group).foldl (fun s b => s.runBatch die b.1 b.2) s' else s)

/-! ### INSERT and DELETE (R255, R258 to R261) -/

/-- The records of an INSERT. -/
def sideRecs (sh : IdxShape) (data : List Byte) : List IdxRec :=
  (chunks sh.record data).map (fun b =>
    { item := leNat (b.take 8), norm := BitVec.ofNat 32 (leNat ((b.drop 8).take 4)), attr := BitVec.ofNat 32 (leNat ((b.drop 12).take 4)),
      vec := (b.drop 16).take (vecBytes sh.format sh.dim), nbrs := [] })

/-- The items of a DELETE, each with a zero record otherwise. -/
def sideItems (data : List Byte) : List IdxRec :=
  (chunks 8 data).map (fun b => { item := leNat b, norm := 0, attr := 0, vec := [], nbrs := [] })

/-- Step 4 of R260 for an INSERT or DELETE. -/
def sideBad (x : Index) (m : SideMsg) (insert : Bool) : Option Nat :=
  let size := if insert then x.shape.record else 8
  let sizeOk := m.bytes == m.count * size && m.data.length == m.bytes
  let recs := sideRecs x.shape m.data
  if decide (4096 ≤ m.context) || !decide (1 ≤ m.count ∧ m.count ≤ 256) || m.zero6 != 0 || m.zero12 != 0 || (insert && sizeOk && recs.any (fun r => r.norm != 0)) then some 0x61
  else if !sizeOk then some 0x62
  else if insert && !recs.all (fun r => vecOk x.shape.format x.shape.dim r.vec) then some 0x63
  else none

/-- The response of INSERT and DELETE (R259). -/
def sideBody (m : SideMsg) (count first mark detail : Nat) : List Byte :=
  be 2 m.context ++ be 2 m.index ++ be 2 count ++ be 2 0 ++ be 8 first ++ be 8 mark ++ be 8 detail

/-- Entries of the side list that count against SIDE_CAP (R257). -/
def sideSpan (x : Index) : Nat := x.mark - ((x.side.head?).map (·.seq)).getD x.mark

/-- The items of a request are appended (R255): NORM is computed on insertion (R248). -/
def State.appendSide (s : State) (x : Index) (m : SideMsg) (insert : Bool) : State :=
  let recs := if insert then (sideRecs x.shape m.data).map (fun (r : IdxRec) =>
      { r with norm := (vecNorm (vecElems x.shape.format x.shape.dim r.vec)).v })
    else sideItems m.data
  let ents := recs.zipIdx.map (fun (p : IdxRec × Nat) => (⟨x.mark + p.2, insert, p.1⟩ : SideEnt))
  (s.setIndex { x with side := x.side ++ ents, mark := x.mark + m.count }).alloc x.die 1 x.shape.context (m.count * sideGranules x.shape)

/-- The check order of INSERT and DELETE (R260). -/
def State.sideRun (s : State) (e : Env) (type : Nat) (m : SideMsg) (insert : Bool) : State :=
  let refuse := fun (s : State) (r : Refuse) => s.answer e type r.status r.reason (sideBody m 0 0 0 r.detail)
  match s.idxCheck e (m.context % 4096) m.index with
  | .inl r => refuse (s.noteMismatch e (m.context % 4096) r.status) r
  | .inr x =>
    let g := m.count * sideGranules x.shape
    match sideBad x m insert with
    | some r => refuse s ⟨St.badFrame, r, 0⟩
    | none =>
      if x.shape.sideCap < sideSpan x + m.count then
        refuse ((s.bump x.die 0 Fld.WK_COUNTS1_SIDE_FULL).raiseOnce x.die 0x55 x.num { ctx := some m.context, a0 := m.index })
          ⟨St.busyRetry, 0, 0⟩
      else if s.quotaOk x.die x.shape.context 1 g = false then
        refuse (s.countOutcome x.die St.overQuota) ⟨St.overQuota, 0, 0⟩
      else if s.poolOk x.die 1 g = false then refuse s ⟨St.busyRetry, 0, 0⟩
      else (s.appendSide x m insert).answer e type St.done 0 (sideBody m m.count x.mark (x.mark + m.count) 0)

/-- INSERT (R255, R258, R260). -/
def execInsert (e : Env) (m : SideMsg) (s : State) : Res :=
  .next (s.message e (.insert e m) 0x0D none (sideBody m 0 0 0 0) (fun s => s.sideRun e 0x0D m true))

/-- DELETE (R255, R258, R260). -/
def execDelete (e : Env) (m : SideMsg) (s : State) : Res :=
  .next (s.message e (.delete e m) 0x0E none (sideBody m 0 0 0 0) (fun s => s.sideRun e 0x0E m false))

end Sys2Proof.Machine
end

