-- ==== Sys2Proof/Machine/Transport.lean ====
section
/-! DEFINITION. Ports, received frames, reassembly, RoCEv2 and event subscriptions (R265 to R290). -/

namespace Sys2Proof.Machine

/-! ### Admitting a frame (R276 to R281) -/

/-- The EKEY bit of a frame. -/
def frEkey (f : GspFrame) : Bool := f.gflags.getLsbD 1

/-- The key a frame names (R275). -/
def frKey (f : GspFrame) : KeyRef := ⟨f.ep, if (frEkey f) then 0 else f.ctxField % 4096, (frEkey f), f.keyGen⟩

/-- What a frame's own message would come with. -/
def frEnv (f : GspFrame) (t : Nat) : Env :=
  { t, port := f.port, src := f.src, srcUdp := f.srcUdp, ep := f.ep, ctx := f.ctxField % 4096, ekey := (frEkey f), keyGen := f.keyGen,
    reqId := f.reqId, recBad := false, areaFail := none, rowFail := none }

/-- The source address and the port match a path of the endpoint (R278, step 1). -/
def State.pathOk (s : State) (ep port src : Nat) : Bool :=
  match s.endpoint ep with
  | some r => r.paths.any (fun p => p.port == port && p.addr == src)
  | none => false

/-- A key exists (R278, step 3; R372, R373). -/
def State.keyOk (s : State) (k : KeyRef) : Bool :=
  if k.ekey then (s.endpoint k.ep).isSome && s.genLive (0x10000 + k.ep) k.keyGen
  else s.listed k.ctx k.ep && s.fld 0 k.ctx Fld.CTX_STATE_LIVE == 1 && s.genLive k.ctx k.keyGen

/-- The inbound window of a key. -/
def State.seqWin (s : State) (k : KeyRef) : SeqWin := (s.net.seqIn.find? (fun w => w.key == k && w.dir == 0)).getD ⟨k, 0, 0, []⟩

/-- SEQ is accepted (R276). -/
def State.seqOk (s : State) (k : KeyRef) (seq : Nat) : Bool :=
  let w := s.seqWin k
  decide (1 ≤ seq) && decide (w.top < seq + 1024) && !w.seen.contains seq

/-- An accepted SEQ enters its window. -/
def State.takeSeq (s : State) (k : KeyRef) (seq : Nat) : State :=
  let w := s.seqWin k
  let top := max w.top seq
  let w' : SeqWin := { w with top, seen := seq :: w.seen.filter (fun x => decide (top < x + 1024)) }
  { s with net := { s.net with seqIn := w' :: s.net.seqIn.filter (fun (x : SeqWin) => !(x.key == k && x.dir == 0)) } }

/-- A frame is dropped in steps 1 to 5 (R278, R281): counted, and reported once per step and port. -/
def State.dropFrame (s : State) (f : GspFrame) (c : Field) : State :=
  (s.bump (portDie f.port) 0 c).raiseOnce (portDie f.port) 0x59 f.port { a0 := f.port }

/-- A type is sent under the endpoint key alone, under a context key alone, or under either (R273). -/
def keyKindOk (type : Nat) (ekey : Bool) : Bool := type == 0x15 || isControl type == ekey

/-- The segment fields of a header are wrong (R272, R279). -/
def frSegBad (f : GspFrame) : Bool :=
  decide (f.segCount = 0 ∨ 1024 < f.segCount ∨ f.segCount ≤ f.segIndex)
    || (if f.segIndex + 1 < f.segCount then decide (f.length = 0 ∨ f.length % 64 ≠ 0 ∨ f.msgLen < f.length * (f.segCount - 1))
        else if f.segCount = 1 then f.length != f.msgLen
        else decide (f.msgLen < f.length ∨ (f.msgLen - f.length) % (64 * (f.segCount - 1)) ≠ 0 ∨ f.msgLen = f.length))

/-- The open reassembly of a frame's message. -/
def State.reasmOf (s : State) (k : KeyRef) (reqId : Nat) : Option Reasm := s.net.reasm.find? (fun x => x.key == k && x.reqId == reqId)

/-- LENGTH of a non-last segment that a frame implies. -/
def frSegLen (f : GspFrame) : Option Nat :=
  if f.segCount ≤ 1 then none
  else if f.segIndex + 1 < f.segCount then some f.length else some ((f.msgLen - f.length) / (f.segCount - 1))

/-- The reason code of step 6 (R279), the codes in ascending order. -/
def State.frameBad (s : State) (f : GspFrame) : Option Nat :=
  let r := s.reasmOf (frKey f) f.reqId
  if f.version ≠ 1 then some 0x01
  else if f.type = 0 ∨ 0x16 ≤ f.type then some 0x02
  else if f.gflags.getLsbD 0 ∨ f.start ≠ 0 then some 0x03
  else if f.node ≠ s.fld 0 0 Fld.SES_CTRL_NODE_ID then some 0x04
  else if f.gflags.toNat / 8 ≠ 0 ∨ 4096 ≤ f.ctxField ∨ f.status ≠ 0 ∨ f.reason ≠ 0 ∨ f.zero44 ≠ 0
      ∨ ((frEkey f) ∧ f.ctxField ≠ 0) ∨ keyKindOk f.type (frEkey f) = false then some 0x05
  else if (frSegBad f) then some 0x06
  else if s.fld 0 0 Fld.GSP_LIMITS_MAX_MSG < f.msgLen then some 0x07
  else match r with
    | none => none
    | some x =>
      if x.segCount ≠ f.segCount ∨ x.msgLen ≠ f.msgLen then some 0x08
      else if x.segLen ≠ (frSegLen f) then some 0x06 else none

/-- The J716's own answer to a frame or to a message that has not become whole: the message itself has no tracker entry yet. -/
def State.answerFrame (s : State) (f : GspFrame) (status reason : Nat) : State :=
  let e := frEnv f s.now
  let s := if status = St.badFrame then s.noteBad e f.type reason else s
  s.sendMsg (envDest e) 1 f.type status reason f.reqId true none []

/-- Bytes of a die's reassembly pool in use (R280). -/
def State.poolUse (s : State) (die : Nat) : Nat := ((s.net.reasm.filter (fun x => x.die == die)).map (·.msgLen)).foldl (· + ·) 0

/-- The payload of a reassembly, its segments in order. -/
def Reasm.payload (r : Reasm) : List Byte := ((List.range r.segCount).map (fun i => (alGet i r.segs).getD [])).flatten

/-- A message whose segments have all arrived waits for its chapter's command (R278). -/
def State.whole (s : State) (r : Reasm) (f : GspFrame) : State :=
  let m : Ready := ⟨r.key, r.reqId, r.type, f.port, f.src, f.srcUdp, s.now, r.payload⟩
  { s with net := { s.net with reasm := s.net.reasm.filter (fun (x : Reasm) => !(x.key == r.key && x.reqId == r.reqId))
                               ready := s.net.ready ++ [m] } }

/-- A segment joins its reassembly (R280). -/
def State.joinReasm (s : State) (r : Reasm) (f : GspFrame) : State :=
  let r := { r with segs := alSet f.segIndex f.payload r.segs }
  if r.segs.length = r.segCount then s.whole r f
  else { s with net := { s.net with reasm := r :: s.net.reasm.filter (fun (x : Reasm) => !(x.key == r.key && x.reqId == r.reqId)) } }

/-- Step 7 of R278: reassembly (R280). -/
def State.reassemble (s : State) (f : GspFrame) : State :=
  let die := portDie f.port
  match s.reasmOf (frKey f) f.reqId with
  | some r => if (alGet f.segIndex r.segs).isSome then s.bump die 0 Fld.GSP_DROPS_DUP else s.joinReasm r f
  | none =>
    if s.fld die 0 Fld.GSP_LIMITS_POOL_KIB * 1024 < s.poolUse die + f.msgLen then
      if s.net.poolBusy.contains ((frKey f), f.reqId) then s
      else
        let s := { s with net := { s.net with poolBusy := ((frKey f), f.reqId) :: s.net.poolBusy } }
        (s.bump die 0 Fld.GSP_BAD_REASM_BUSY).answerFrame f St.busyRetry 0
    else
      let s := { s with net := { s.net with poolBusy := s.net.poolBusy.filter (fun x => x != ((frKey f), f.reqId)) } }
      s.joinReasm ⟨die, (frKey f), f.reqId, f.type, f.segCount, f.msgLen, (frSegLen f), [], s.now⟩ f

/-- A received GSP frame meets the steps of R278 in order. -/
def State.frameRx (s : State) (f : GspFrame) : State :=
  if !s.pathOk f.ep f.port f.src then s.dropFrame f Fld.GSP_DROPS_NO_PATH
  else if f.size < 64 ∨ f.size ≠ 48 + f.length + 16 then s.dropFrame f Fld.GSP_DROPS_NO_KEY
  else if !s.keyOk (frKey f) then s.dropFrame f Fld.GSP_DROPS_NO_KEY
  else if !f.tagOk then s.dropFrame f Fld.GSP_DROPS_AUTH
  else if !s.seqOk (frKey f) f.seq then s.dropFrame f Fld.GSP_DROPS_DUP
  else
    let s := s.takeSeq (frKey f) f.seq
    match s.frameBad f with
    | some r => s.answerFrame f St.badFrame r
    | none => s.reassemble f

/-- Frames are received: the J716 runs and the port is up. -/
def State.portLive (s : State) (port : Nat) : Bool := s.running && (s.port port).link

/-- GSP_FRAME_RX (R278). -/
def execGspFrameRx (t : Nat) (f : GspFrame) (s : State) : Res :=
  .next (if s.portLive f.port then (s.tick t).frameRx f else s)

/-- REASM_TIMEOUT (R280). -/
def execReasmTimeout (t die ep ctx : Nat) (ekey : Bool) (keyGen reqId : Nat) (s : State) : Res :=
  let k : KeyRef := ⟨ep, if ekey then 0 else ctx, ekey, keyGen⟩
  let late := fun (x : Reasm) => x.die == die && x.key == k && x.reqId == reqId
    && decide (x.opened + s.fld 0 0 Fld.GSP_LIMITS_REASM_US * 1000 ≤ (s.tick t).now)
  .next (if s.running && s.net.reasm.any late then
      ({ s.tick t with net := { s.net with reasm := s.net.reasm.filter (fun x => !late x) } }).bump die 0 Fld.GSP_BAD_REASM_TIMEOUT
    else s)

/-! ### Links (R269) -/

/-- A port goes down: its frames are lost, results that had not started are left to a fetch. -/
def State.portDown (s : State) (p : Nat) : State :=
  let d := portDie p
  let lost := s.attn.results.filter (fun r => r.delivery == .queued && (s.port p).queue.any (fun f => f.result == some (r.slot, r.key)))
  let s := (lost.map (fun r => (r.slot, r.key))).foldl (fun s k => s.mapResult k.1 k.2 (fun r => { r with delivery := .fetchOnly })) s
  let s := s.settle p
  let s := s.setPort p { s.port p with link := false, queue := [], sending := none }
  let s := (List.range 8).foldl (fun s c => s.resetClass p c) s
  let s := ((s.setFld d p Fld.ETH_PORT_STATUS_UP 0).setFld d p Fld.ETH_PORT_STATUS_FEC_LOCK 0).bump d p Fld.ETH_PORT_STATUS_DOWN_COUNT
  s.raise d 0x5A { alert := true, unit := unitCode 6 d 0 p, a0 := p }

/-- LINK_DOWN (R269). -/
def execLinkDown (t port : Nat) (s : State) : Res :=
  .next (if s.running && (s.port port).link then (s.tick t).portDown port else s)

/-- A port comes up; KR and CR ports have negotiated and trained (R266). -/
def State.portUp (s : State) (p : Nat) : State :=
  let d := portDie p
  let s := s.settle p
  let s := s.setPort p { s.port p with link := true }
  let s := (s.setFld d p Fld.ETH_PORT_STATUS_UP 1).setFld d p Fld.ETH_PORT_STATUS_FEC_LOCK 1
  let s := if s.fld d p Fld.ETH_PORT_CFG_TYPE < 2 then
    (s.setFld d p Fld.ETH_PORT_STATUS_AN_DONE 1).setFld d p Fld.ETH_PORT_STATUS_TRAINED 1 else s
  (s.raise d 0x5B { unit := unitCode 6 d 0 p, a0 := p }).lateSweep

/-- Lanes of a port (R265). -/
def State.portLanes (s : State) (p : Nat) : List Nat :=
  (List.range (2 ^ s.fld (portDie p) p Fld.ETH_PORT_CFG_LANES)).map (p + ·)

/-- The lanes of a port work and are clocked (R362, R451). -/
def State.lanesOk (s : State) (p : Nat) : Bool :=
  (s.portLanes p).all (fun l => !s.start.deadLanes.contains l && s.fld 0 0 Fld.BD_CLK_ETH_OK / 2 ^ (l / 12) % 2 == 1)

/-- LINK_UP (R269). -/
def execLinkUp (t port : Nat) (s : State) : Res :=
  .next (if s.running && decide (port < 48) && s.lanesOk port && s.fld (portDie port) port Fld.ETH_PORT_CFG_ENABLE == 1 && !(s.port port).link
    then (s.tick t).portUp port else s)

/-! ### Flow control (R266, R267, R306) -/

/-- One priority of a port is paused until `until_`, or resumes. -/
def State.pausePrio (s : State) (p c until_ : Nat) : State :=
  let q := s.port p
  let s := s.setPort p (q.setCls c { q.cls c with pausedUntil := until_ })
  let w := s.fld (portDie p) p Fld.ETH_PFC_PAUSED
  let off := if w / 2 ^ c % 2 = 1 then w - 2 ^ c else w
  s.setFld (portDie p) p Fld.ETH_PFC_PAUSED (if s.now < until_ then off + 2 ^ c else off)

/-- A received PFC frame: each named priority is paused for its time, or resumes with a time of 0. -/
def State.pfc (s : State) (p : Nat) (enable : BitVec 8) (pauseNs : List Nat) : State :=
  let s := s.settle p
  ((List.range 8).foldl (fun s c => if enable.getLsbD c then s.pausePrio p c (s.now + pauseNs.getD c 0) else s) s).pick p

/-- PFC_RX (R267). -/
def execPfcRx (t port : Nat) (enable : BitVec 8) (pauseNs : List Nat) (s : State) : Res :=
  .next (if s.portLive port then ((s.tick t).pfc port enable pauseNs).formResults else s)

/-- PAUSE_RX (R266): dropped and counted. -/
def execPauseRx (t port : Nat) (s : State) : Res :=
  .next (if s.portLive port then (s.tick t).bump (portDie port) port Fld.ETH_PFC_PAUSE_DROP else s)

/-- A pause time runs out. -/
def State.pauseOver (s : State) (p c : Nat) : State := ((s.settle p).pausePrio p c 0).pick p

/-- PFC_PAUSE_EXPIRED (R306). -/
def execPfcPauseExpired (t port prio : Nat) (s : State) : Res :=
  .next (if s.running && decide (prio < 8) && decide (((s.port port).cls prio).pausedUntil ≤ (s.tick t).now)
    then ((s.tick t).pauseOver port prio).formResults else s)

/-! ### IEEE 1588 (R268) -/

/-- PTP lock is gained or lost. -/
def State.ptpLocked (s : State) (v : Bool) : State :=
  if s.ptpLock = v then s
  else
    let s := ((s.setFlag 0 0 Fld.ETH_PTP_LOCKED v).setFlag 1 0 Fld.ETH_PTP_LOCKED v).setFlag 0 0 Fld.BCN_STATUS_PTP_LOCK v
    s.raise 0 0x5D { a0 := b2n v }

/-- A Sync interval ended with an offset inside or outside LOCK_NS. -/
def State.ptpInterval (s : State) (inside : Bool) : State :=
  let p := s.net.ptp
  let q := if inside then { p with inBound := p.inBound + 1, outBound := 0 } else { p with inBound := 0, outBound := p.outBound + 1 }
  let s := { s with net := { s.net with ptp := q } }
  if 16 ≤ q.inBound then s.ptpLocked true else if 4 ≤ q.outBound then s.ptpLocked false else s

/-- An IEEE 1588 message moves the device time. -/
def State.ptp (s : State) (m : PtpMsg) : State :=
  let off := BitVec.ofInt 64 m.offset
  let s := { s with net := { s.net with ptp := { s.net.ptp with deviceNs := m.deviceNs, at_ := s.now } } }
  let s := (s.setReg 0 0 Reg.ETH_PTP_OFFSET off).setReg 1 0 Reg.ETH_PTP_OFFSET off
  let s := (s.setFld 0 0 Fld.ETH_PTP_MASTER_PORT m.port).setFld 1 0 Fld.ETH_PTP_MASTER_PORT m.port
  if m.sync then s.ptpInterval (decide (m.offset.natAbs ≤ s.fld 0 0 Fld.ETH_PTP_LOCK_NS)) else s

/-- PTP_MESSAGE (R268): on a control port, while the instance runs. -/
def execPtpMessage (t : Nat) (m : PtpMsg) (s : State) : Res :=
  .next (if s.portLive m.port && s.fld (portDie m.port) m.port Fld.ETH_PORT_CFG_CONTROL == 1 && s.fld 0 0 Fld.ETH_PTP_ENABLE == 1
    then (s.tick t).ptp m else s)

/-! ### RoCEv2 (R282 to R284) -/

/-- A connection of a die by its number. -/
def State.qp (s : State) (die n : Nat) : Option Qp := s.net.qps.find? (fun q => q.die == die && q.qp == n)

/-- `s` with a connection replaced. -/
def State.setQp (s : State) (q : Qp) : State :=
  { s with net := { s.net with qps := q :: s.net.qps.filter (fun (x : Qp) => !(x.die == q.die && x.qp == q.qp)) } }

/-- A frame of kind 3 goes out in the device flow (R291, R292): `n` bytes beside the IP header (log 40). -/
def State.sendKind3 (s : State) (port ep n : Nat) (b : FrameBody) : State :=
  s.send port (s.kindClass (portDie port) 3) 4096 (s.ipBytes ep port + n) none b

/-- A connection may be set up (R282). -/
def State.cmOk (s : State) (port src ep qp mtu : Nat) : Bool :=
  s.pathOk ep port src && decide (1 ≤ s.role ep ∧ s.role ep ≤ 4) && (mtu == 1024 || mtu == 2048 || mtu == 4096)
    && ((s.qp (portDie port) qp).isSome || decide ((s.net.qps.filter (fun q => q.die == portDie port)).length < 4096))

/-- A communication-manager exchange (R282). -/
def State.connect (s : State) (port src ep qp mtu : Nat) : State :=
  if !s.pathOk ep port src then s
  else if s.cmOk port src ep qp mtu then
    (s.setQp { die := portDie port, qp, ep, port, mtu, error := false, migrated := false, acked := 0, sent := 0, retries := 0,
               unacked := [], rateMbps := s.rate port * 1000, lastRise := s.now, cnpAt := none }).sendKind3 port ep 310
      (.cmReply ep qp true)
  else s.sendKind3 port ep 310 (.cmReply ep qp false)

/-- CM_REQ (R282). -/
def execCmReq (t port src ep qp mtu : Nat) (s : State) : Res :=
  .next (if s.portLive port then (s.tick t).connect port src ep qp mtu else s)

/-- Traffic with congestion experienced: a CNP, at most one per QP per CNP_US (R284). -/
def State.congested (s : State) (port : Nat) (q : Qp) : State :=
  let due := match q.cnpAt with
    | none => true
    | some x => decide (x + s.fld q.die 0 Fld.GSP_RDMA_CFG_CNP_US * 1000 ≤ s.now)
  if due then (s.setQp { q with cnpAt := some s.now }).sendKind3 port q.ep 62 (.cnp q.qp) else s

/-- Two byte ranges meet. -/
def rangesMeet (a n b m : Nat) : Bool := decide (a < b + m) && decide (b < a + n)

/-- An RDMA WRITE places an object in an ingest region (R283); what it overlaps is gone. -/
def State.placeObj (s : State) (die ctx : Nat) (o : IngestObj) : State :=
  { s with net := { s.net with ingest := ⟨die, ctx, o⟩ :: s.net.ingest.filter (fun (x : Ingest) =>
    !(x.die == die && x.ctx == ctx && rangesMeet x.obj.off (32 + x.obj.length) o.off (32 + o.length))) } }

/-- What a received request on a connection gets: placed and acknowledged, a NAK with an invalid request error (1) for another
operation, or one with a remote access error (2) outside the region. The PSN is the requester's: a free value (log 6). -/
def State.rdmaRx (s : State) (port ctx : Nat) (q : Qp) (kind : Nat) (o : IngestObj) : State :=
  let psn := s.freeVal % 2 ^ 24
  let s := s.nextFree
  let ack := fun (s : State) (n : Option Nat) => s.sendKind3 port q.ep 50 (.rdmaAck q.qp psn n)
  if kind ≠ 0 then ack s (some 1)
  else if !s.listed ctx q.ep || decide (s.ingestBytes q.die ctx < o.off + 32 + o.length) then
    ack (s.bump q.die 0 Fld.GSP_RDMA_COUNTS_ACCESS) (some 2)
  else ack (s.placeObj q.die ctx o) none

/-- RDMA_WRITE_RX (R282 to R284). `kind` 0 is a WRITE. -/
def execRdmaWriteRx (t port qp ctx : Nat) (ce : Bool) (kind : Nat) (o : IngestObj) (s : State) : Res :=
  .next (match s.qp (portDie port) qp with
    | none => s
    | some q =>
      if s.portLive port && !q.error then
        let s := s.tick t
        (if ce then s.congested port q else s).rdmaRx port ctx q kind o
      else s)

/-- The packets that are not acknowledged are sent again, go-back-N (R282). -/
def State.resend (s : State) (q : Qp) : State :=
  q.unacked.foldl (fun s u => s.send q.port (s.kindClass (portDie q.port) 0) u.2.1 u.2.2.1 none u.2.2.2) s

/-- An acknowledgement of every PSN up to `psn`, or a NAK that names the next expected one (R282). -/
def State.rdmaAck (s : State) (q : Qp) (psn : Nat) (nak : Bool) : State :=
  let upTo := if nak then psn else psn + 1
  let q := { q with acked := max q.acked upTo, retries := 0, unacked := q.unacked.filter (fun u => decide (upTo ≤ u.1)) }
  let s := s.setQp q
  if nak then s.resend q else s

/-- RDMA_ACK_RX (R282). -/
def execRdmaAckRx (t die qp psn : Nat) (nak : Bool) (s : State) : Res :=
  .next (match s.qp die qp with
    | some q => if s.running && !q.error then (s.tick t).rdmaAck q psn nak else s
    | none => s)

/-- The alternate path of a connection (R282): the endpoint's next path whose port is up. -/
def State.altPath (s : State) (q : Qp) : Option PathRec :=
  match s.endpoint q.ep with
  | none => none
  | some r =>
    let after := (r.paths.dropWhile (fun p => p.port != q.port)).drop 1
    (after ++ r.paths.takeWhile (fun p => p.port != q.port)).find? (fun p => (s.port p.port).link)

/-- A retransmission timer expired (R282): another try, migration, or the error state. -/
def State.rdmaTimeout (s : State) (q : Qp) : State :=
  if q.retries < s.fld q.die 0 Fld.GSP_RDMA_CFG_RETRY then
    let q := { q with retries := q.retries + 1 }
    (s.setQp q).resend q
  else match (if q.migrated then none else s.altPath q) with
    | some p =>
      let q := { q with port := p.port, migrated := true, retries := 0 }
      ((s.setQp q).bump q.die 0 Fld.GSP_RDMA_COUNTS_MIGRATED).resend q
    | none =>
      ((s.setQp { q with error := true, unacked := [] }).bump q.die 0 Fld.GSP_RDMA_COUNTS_QP_ERROR).raise q.die 0x5C
        { alert := true, a0 := q.qp, a1 := q.ep }

/-- RDMA_RETRY_TIMEOUT (R282): of a connection that has sent what is not acknowledged. -/
def execRdmaRetryTimeout (t die qp : Nat) (s : State) : Res :=
  .next (match s.qp die qp with
    | some q => if s.running && !q.error && !q.unacked.isEmpty then (s.tick t).rdmaTimeout q else s
    | none => s)

/-- CNP_RX (R284): the rate falls by CUT / 256. -/
def execCnpRx (t die qp : Nat) (s : State) : Res :=
  .next (match s.qp die qp with
    | some q =>
      if s.running && !q.error then
        let s := s.tick t
        (s.setQp { q with rateMbps := q.rateMbps - q.rateMbps * s.fld die 0 Fld.GSP_RDMA_CFG_CUT / 256, lastRise := s.now }).bump die 0
          Fld.GSP_RDMA_COUNTS_CNP_RX
      else s
    | none => s)

/-- RATE_RISE (R284): the rate rises by STEP_MBPS after RISE_US, up to the line rate. -/
def execRateRise (t die qp : Nat) (s : State) : Res :=
  .next (match s.qp die qp with
    | some q =>
      if s.running && !q.error && decide (q.lastRise + s.fld die 0 Fld.GSP_RDMA_CFG_RISE_US * 1000 ≤ (s.tick t).now) then
        let s := s.tick t
        s.setQp { q with rateMbps := min (s.rate q.port * 1000) (q.rateMbps + s.fld die 0 Fld.GSP_RDMA_CFG_STEP_MBPS), lastRise := s.now }
      else s
    | none => s)

/-! ### EVENT subscriptions (R273, R287, R338) -/

/-- The subscriber an EVENT request names: of its context, or of the device; none when it may not (R287, R338). -/
def State.subOf (s : State) (e : Env) : Option Sub :=
  if e.ekey then (if s.role e.ep = 3 then some ⟨none, e.ep⟩ else none)
  else if s.torn e.ctx then none else some ⟨some e.ctx, e.ep⟩

/-- An EVENT request is carried out. -/
def State.subscribe (s : State) (e : Env) (op zeros_ : Nat) : State :=
  match s.subOf e with
  | none => s.answer e 0x15 St.denied 0 []
  | some x =>
    if zeros_ ≠ 0 ∨ 1 < op then s.answer e 0x15 St.badFrame 0x05 []
    else if op = 0 then
      ({ s with net := { s.net with subs := s.net.subs.filter (fun (y : Sub) => y != x) } }).answer e 0x15 St.done 0 []
    else if s.net.subs.contains x then s.answer e 0x15 St.done 0 []
    else if Config.maxSubscribers ≤ (s.net.subs.filter (fun y => y.ctx == x.ctx)).length then s.answer e 0x15 St.busyRetry 0 []
    else ({ s with net := { s.net with subs := s.net.subs ++ [x] } }).answer e 0x15 St.done 0 []

/-- EVENT (R287). -/
def execEvent (e : Env) (op zeros_ : Nat) (s : State) : Res :=
  .next (s.message e (.event e op zeros_) 0x15 none [] (fun s => s.subscribe e op zeros_))

end Sys2Proof.Machine
end

