-- ==== Sys2Proof/Machine/ChimneyCmds.lean ====
section
/-! DEFINITION. The commands of the chimney (R293 to R298, R304, R308). -/

namespace Sys2Proof.Machine

/-! ### The end of a frame (R293, R296 to R298) -/

/-- A shaper's settings and credit take effect (R298). -/
def State.setShaper (s : State) (p c : Nat) (v : Word) : State :=
  let s := s.settle p
  let s := s.store (portDie p) p (rowOf (shaperReg c)) v
  let q := s.port p
  let credit : Int := if getBits v 63 63 = 1 then (getBits v 55 32 * 65536 : Nat) else 0
  s.setPort p (q.setCls c { q.cls c with credit, creditAt := s.now, pendShaper := none })

/-- What a sent frame of counted length `lc` takes from its class's credit (R297): in bytes with 16 fractional bits, rounded toward
the smaller credit (log 41); at an idle slope above the rate it is a rise, up to HI_CREDIT. -/
def State.charge (s : State) (p c lc : Nat) : State :=
  let i := s.idleSlope p c
  let rate := s.rate p * 1000
  let q := s.port p
  let cs := q.cls c
  if i = 0 then s
  else
    let x : Int := cs.credit + ((lc * 65536 : Nat) : Int) * ((i : Int) - (rate : Int)) / (rate : Int)
    let x := if rate ≤ i then max 0 (min x (s.hiCredit p c * 65536 : Nat)) else x
    s.setPort p (q.setCls c { cs with credit := x })

/-- The frame in transmission has left the port. -/
def State.txEnd (s : State) (p : Nat) (f : QFrame) : State :=
  let s := s.settle p
  let s := { s with net := { s.net with wire := s.net.wire ++ [(⟨p, (s.port p).since, s.now, f⟩ : Sent)] } }
  let s := s.charge p f.cls (s.counted p f.len)
  let s := s.setPort p { s.port p with sending := none }
  let s := match ((s.port p).cls f.cls).pendShaper with
    | some v => s.setShaper p f.cls v
    | none => s
  ((s.resetClass p f.cls).pick p).formResults

/-- FRAME_TX_END (R293). -/
def execFrameTxEnd (t port : Nat) (s : State) : Res :=
  .next (match (s.port port).sending with
    | some f => if s.running then (s.tick t).txEnd port f else s
    | none => s)

/-- SHAPER_CREDIT_RECOVERED (R297): the credit has risen, and the port looks again. -/
def execShaperCreditRecovered (t port cls : Nat) (s : State) : Res :=
  .next (if s.running && decide (0 ≤ (s.tick t).creditAt port cls (s.tick t).now) && (s.port port).link
    then ((s.tick t).pick port).formResults else s)

/-! ### Shaper writes (R298) -/

/-- The effect of a write of CH_SHAPERn on a port: at once, or when the frame of the class in transmission ends. -/
def State.shaperEffect (s : State) (p c : Nat) (v : Word) : State :=
  if (match (s.port p).sending with | some f => f.cls == c | none => false) then
    let q := s.port p
    s.setPort p (q.setCls c { q.cls c with pendShaper := some v })
  else ((s.setShaper p c v).pick p).formResults

/-- CH_SHAPER_WRITE (R298). -/
def execChShaperWrite (a : Acc) (n : Nat) (v : Word) (s : State) : Res :=
  .next (if n < 8 then s.regWrite a (rowOf (shaperReg n)) v none (fun s p => s.shaperEffect p n v) else s)

/-! ### Gate lists (R304) -/

/-- Entry `i` of the next list of a port. -/
def State.nextGate (s : State) (p i : Nat) : Word := s.reg (portDie p) (p * 64 + i) Reg.CH_GATE_NEXT

/-- The valid entries of the next list. -/
def State.nextList (s : State) (p : Nat) : List Word :=
  ((List.range 64).map (fun i => s.nextGate p i)).filter (fun w => getBits w 63 63 == 1)

/-- The reason a next list is not valid (R304): an entry, or a layer without a RESULT entry. -/
def State.gateRefusal (s : State) (p : Nat) : Option Nat :=
  let l := s.nextList p
  let k0 := s.kindClass (portDie p) 0
  if s.fld (portDie p) p Fld.CH_GATE_CTRL_NEXT_GATE_EN = 0 then none
  else if l.any (fun w => decide (getBits w 16 8 ≤ getBits w 7 0 ∨ 256 < getBits w 16 8 ∨ getBits w 59 39 ≠ 0 ∨ getBits w 23 17 ≠ 0))
  then some 1
  else if (List.range s.layers).all (fun y => l.any (fun w => getBits w 61 61 == 1 && gateLayer w y && gateNames w k0)) then none
  else some 2

/-- The effect of a write of CH_GATE_CTRL. -/
def State.gateCtrlEffect (s : State) (p : Nat) (v : Word) : State :=
  let d := portDie p
  let s := s.store d p (rowOf Reg.CH_GATE_CTRL) v
  if getBits v 63 63 = 0 then s
  else match s.gateRefusal p with
    | some r => (s.setFld d p Fld.CH_GATE_CTRL_REFUSED 1).setFld d p Fld.CH_GATE_CTRL_REASON r
    | none => (s.setPort p { s.port p with swapAt := true }).setFld d p Fld.CH_GATE_CTRL_PENDING 1

/-- CH_GATE_SWAP (R304). -/
def execChGateSwap (a : Acc) (v : Word) (s : State) : Res :=
  .next (s.regWrite a (rowOf Reg.CH_GATE_CTRL) v none (fun s p => s.gateCtrlEffect p v))

end Sys2Proof.Machine
end

