-- ==== Sys2Proof/Machine/Tally.lean ====
section
/-! DEFINITION. Tally counters and wake wires (R309 to R326). -/

namespace Sys2Proof.Machine

/-! ### Counters (R309 to R314) -/

/-- The value of a counter. -/
def State.tlValue (s : State) (die i : Nat) : Nat := s.fld die i Fld.TL_VALUE_VALUE

/-- Counter `i` of a die lies in the range of a context (R310). -/
def State.tlIn (s : State) (die ctx i : Nat) : Bool :=
  let b := s.fld die ctx Fld.TL_CTX_RANGE_BASE
  decide (b ≤ i) && decide (i < b + s.fld die ctx Fld.TL_CTX_RANGE_COUNT)

/-- The context that owns a counter (R310). -/
def State.tlOwner (s : State) (die i : Nat) : Option Nat := (s.start.img.contexts.map (·.id)).find? (fun c => s.tlIn die c i)

/-- The other counter of a counter's pair. -/
def State.tlPeer (s : State) (die i : Nat) : Nat := s.fld die i Fld.TL_PAIR_PEER

/-- A counter's pair is valid (R314). -/
def State.tlPaired (s : State) (die i : Nat) : Bool :=
  let j := s.tlPeer die i
  let m := s.fld die i Fld.TL_DESC_MODE
  decide (2 ≤ m) && s.fld die j Fld.TL_DESC_MODE == 5 - m && s.tlPeer die j == i && s.tlOwner die i == s.tlOwner die j

/-- The TALLY ID of a counter (R309). -/
def tlId (die i : Nat) : Nat := die * 32768 + i

/-- The unsigned all-ones value. -/
def tlMax : Nat := 2 ^ 64 - 1

/-- A tally event (R317, R319, R320): at most once per step and counter. -/
def State.tlEvent (s : State) (die i sub : Nat) (alert : Bool) : State :=
  s.raiseOnce die sub i { alert, ctx := s.tlOwner die i, a0 := tlId die i }

/-! ### Wires (R325) -/

/-- The latch register of a wire. -/
def wokenReg (n : Nat) : RegId := ⟨0x0C, 0x040 + 8 * n⟩

/-- The latch of a wire is set. -/
def State.latched (s : State) (die w : Nat) : Bool := getBits (s.reg die 0 (wokenReg (w / 64))) (w % 64) (w % 64) == 1

/-- The number by which a sleeper names a wire of a die. -/
def wireNo (die w : Nat) : Nat := die * 256 + w

/-- A wire fires: its latch is set, and every sleeper on it wakes. -/
def State.fireWire (s : State) (die w : Nat) : State :=
  let s := s.setReg die 0 (wokenReg (w / 64)) (setBits (s.reg die 0 (wokenReg (w / 64))) (w % 64) (w % 64) 1)
  { s with lamp := { s.lamp with cores := s.lamp.cores.map (fun (c : CoreState) =>
      if c.asleep = some (wireNo die w) then { c with asleep := none } else c) } }

/-- An armed counter at or above EXPECT fires its wire and is no longer armed. -/
def State.tlTest (s : State) (die i : Nat) : State :=
  if s.fld die i Fld.TL_DESC_ARMED = 1 ∧ s.fld die i Fld.TL_EXPECT_EXPECT ≤ s.tlValue die i then
    (s.setFld die i Fld.TL_DESC_ARMED 0).fireWire die (s.fld die i Fld.TL_DESC_WIRE)
  else s

/-! ### Changes (R316 to R320) -/

/-- A sender that WRITER does not exclude (R313): control space (`none`) or an endpoint. -/
def State.tlWriter (s : State) (die i : Nat) (ep : Option Nat) : Bool :=
  let w := s.fld die i Fld.TL_DESC_WRITER
  w == 0 || (match ep with | none => w == 0xFFFF | some x => w == x && w != 0xFFFF)

/-- A change is misuse (R319). -/
def State.tlMisuse (s : State) (die i : Nat) (ep : Option Nat) : Bool :=
  let m := s.fld die i Fld.TL_DESC_MODE
  m == 0 || !s.tlWriter die i ep || (decide (2 ≤ m) && !s.tlPaired die i)

/-- The value a change leads to (R316, R317). -/
def tlNew (adv : Bool) (v n : Nat) : Nat := if adv then max v n else min (v + n) tlMax

/-- The breach that a new value would be (R314): OVERRUN, UNDERRUN, or none. -/
def State.tlBreach (s : State) (die i v' : Nat) : Option Nat :=
  let o := s.tlValue die (s.tlPeer die i)
  if s.fld die i Fld.TL_DESC_MODE = 2 then
    (if s.fld die i Fld.TL_PAIR_BOUND + o < v' then some 0x71 else none)
  else if s.fld die i Fld.TL_DESC_MODE = 3 then (if o < v' then some 0x72 else none)
  else none

/-- A breach is recorded (R320). -/
def State.tlNoteBreach (s : State) (die i : Nat) : State :=
  ((s.setFld die i Fld.TL_DESC_BREACH 1).bump die 0 Fld.TL_COUNTS_BREACH).tlEvent die i 0x68 false

/-- A new value is stored (R317, R325): the status is SATURATED when the value saturates. -/
def State.tlStore (s : State) (die i v : Nat) : State × Nat × Nat :=
  let s := s.setFld die i Fld.TL_VALUE_VALUE v
  if v = tlMax then
    ((((s.setFld die i Fld.TL_DESC_SATURATED 1).bump die 0 Fld.TL_COUNTS_SATURATED).tlEvent die i 0x6A true).tlTest die i,
      St.saturated, 0)
  else (s.tlTest die i, St.done, 0)

/-- A change by `n` from an endpoint or from control space (R316 to R320): the state, the status and the reason. An ADVANCE that
changes nothing is no breach. -/
def State.tlChange (s : State) (die i : Nat) (ep : Option Nat) (adv : Bool) (n : Nat) : State × Nat × Nat :=
  if s.tlMisuse die i ep then
    (((s.setFld die i Fld.TL_DESC_MISUSE 1).bump die 0 Fld.TL_COUNTS_MISUSE).tlEvent die i 0x69 false, St.denied, 0)
  else if s.fld die i Fld.TL_DESC_SATURATED = 1 then (s, St.saturated, 0)
  else
    let v := s.tlValue die i
    if tlNew adv v n = v then (s, St.replay, 0)
    else match s.tlBreach die i (tlNew adv v n) with
      | some r => (s.tlNoteBreach die i, St.badFrame, r)
      | none => s.tlStore die i (tlNew adv v n)

/-! ### Messages (R321 to R323) -/

/-- The body of R322 for a counter as it stands. -/
def State.tlBody (s : State) (die i status detail : Nat) : List Byte :=
  let f := fun (x : Field) => s.fld die i x
  be 2 (tlId die i) ++ be 1 (f Fld.TL_DESC_MODE)
    ++ be 1 (f Fld.TL_DESC_SATURATED + 2 * f Fld.TL_DESC_BREACH + 4 * f Fld.TL_DESC_MISUSE + 8 * f Fld.TL_DESC_ARMED)
    ++ zeros 4 ++ be 8 (s.tlValue die i) ++ be 8 (if s.tlPaired die i then s.tlValue die (s.tlPeer die i) else 0)
    ++ be 8 (if status = St.notReady then tlMax else 0) ++ be 8 detail ++ zeros 8

/-- The body of a refusal at step 1 or 2. -/
def tlBlank (tally : Nat) : List Byte := be 2 tally ++ zeros 46

/-- A message about a counter is answered with its body. -/
def State.tlAnswer (s : State) (e : Env) (type die i status reason detail : Nat) : State :=
  s.answer e type status reason (s.tlBody die i status detail)

/-- Step 2 of R323: the sender and the range; a counter outside the range is counted (R319). -/
def State.tlSender (s : State) (e : Env) (die i : Nat) : State × Bool :=
  if s.senderOk e e.ctx then
    (if s.tlIn die e.ctx i then (s, true) else (s.bump die 0 Fld.TL_COUNTS_MISUSE, false))
  else (s, false)

/-- The fields of a TALLY_ADD are wrong (R321). -/
def tlAddBad (form z amount : Nat) : Bool :=
  decide (2 ≤ form) || z != 0 || (form == 0 && !decide (1 ≤ amount ∧ amount ≤ 0xFFFFFFFF))

/-- The fields of a TALLY_READ are wrong (R321). -/
def tlReadBad (m : TallyMsg) : Bool := decide (2 ≤ m.form) || m.zero != 0 || (m.form == 0 && m.amount != 0)

/-- The steps of R323 that both messages share; `f` is step 5 or 6. -/
def State.tlRun (s : State) (e : Env) (type : Nat) (m : TallyMsg) (bad : Bool) (f : State → Nat → Nat → State) : State :=
  let die := m.tally / 32768
  let i := m.tally % 32768
  if s.fld die 0 Fld.TL_CTRL_ENABLE = 0 then s.answer e type St.busyRetry 0 (tlBlank m.tally)
  else match s.tlSender e die i with
    | (s, false) => s.answer e type St.denied 0 (tlBlank m.tally)
    | (s, true) =>
      if bad then s.tlAnswer e type die i St.badFrame 0x70 0
      else match e.areaFail with
        | some off => s.tlAnswer e type die i St.integrity 0 (memFail 0 die off)
        | none => f s die i

/-- Step 5 of R323. -/
def State.tlAddRun (s : State) (e : Env) (m : TallyMsg) (die i : Nat) : State :=
  let r := s.tlChange die i (some e.ep) (m.form == 1) m.amount
  r.1.tlAnswer e 0x11 die i r.2.1 r.2.2 0

/-- Step 6 of R323. -/
def State.tlReadRun (s : State) (e : Env) (m : TallyMsg) (die i : Nat) : State :=
  s.tlAnswer e 0x12 die i
    (if s.fld die i Fld.TL_DESC_SATURATED = 1 then St.saturated
     else if m.form = 1 ∧ s.tlValue die i < m.amount then St.notReady else St.done) 0 0

/-- A TALLY_ADD of a form. -/
def State.tlAddMsg (s : State) (e : Env) (c : Instr) (m : TallyMsg) : State :=
  s.message e c 0x11 none (tlBlank m.tally) (fun s => s.tlRun e 0x11 m (tlAddBad m.form m.zero m.amount) (fun s d i => s.tlAddRun e m d i))

/-- TALLY_ADD, form ADD, and the reserved forms (R316, R321, R323). -/
def execTallyAdd (e : Env) (m : TallyMsg) (s : State) : Res := .next (s.tlAddMsg e (.tallyAdd e m) m)

/-- TALLY_ADD, form ADVANCE (R316, R321, R323). -/
def execTallyAdvance (e : Env) (m : TallyMsg) (s : State) : Res := .next (s.tlAddMsg e (.tallyAdvance e m) { m with form := 1 })

/-- TALLY_READ (R321, R323). -/
def execTallyRead (e : Env) (m : TallyMsg) (s : State) : Res :=
  .next (s.message e (.tallyRead e m) 0x12 none (tlBlank m.tally)
    (fun s => s.tlRun e 0x12 m (tlReadBad m) (fun s d i => s.tlReadRun e m d i)))

/-! ### Register writes (R315, R325, R326) -/

/-- The effect of a write of TL_ADD by a requester on the counter its TL_SEL names. -/
def State.tlAddEffect (s : State) (a : Acc) (v : Word) : State :=
  let i := s.selReg a.die a.rq Reg.TL_SEL % 32768
  let adv := getBits v 63 63 == 1
  let n := getBits v 62 0
  let r := if !adv && !decide (1 ≤ n ∧ n ≤ 0xFFFFFFFF) then (s, St.badFrame, 0x70) else s.tlChange a.die i none adv n
  r.1.setReg a.die (rqCode a.rq) Reg.TL_ADD_STATUS (BitVec.ofNat 64 (r.2.2 * 256 + r.2.1))

/-- A write of TL_ADD. -/
def State.tlAddWrite (s : State) (a : Acc) (v : Word) : State :=
  s.regWrite a (rowOf Reg.TL_ADD) v none (fun s _ => s.tlAddEffect a v)

/-- TL_ADD with FORM 0 (R316, R326). -/
def execTlAdd (a : Acc) (v : Word) (s : State) : Res := .next (s.tlAddWrite a (setBits v 63 63 0))

/-- TL_ADD with FORM 1 (R316, R326). -/
def execTlAddAdvance (a : Acc) (v : Word) (s : State) : Res := .next (s.tlAddWrite a (setBits v 63 63 1))

/-- The effect of a write of TL_DESC (R315, R325): writing 1 to ARMED tests the counter. -/
def State.tlDescEffect (s : State) (die i : Nat) (v : Word) : State :=
  let s := s.store die i (rowOf Reg.TL_DESC) v
  if getBits v 6 6 = 1 then s.tlTest die i else s

/-- TALLY_ARM (R325): a write of TL_DESC. -/
def execTallyArm (a : Acc) (v : Word) (s : State) : Res :=
  .next (s.regWrite a (rowOf Reg.TL_DESC) v none (fun s i => s.tlDescEffect a.die i v))

/-- The effect of a write of TL_PAIR (R315): BOUND of 0 leaves the field, and a BOUND below p − c is a breach. -/
def State.tlPairEffect (s : State) (die i : Nat) (v : Word) : State :=
  let old := s.fld die i Fld.TL_PAIR_BOUND
  let s := s.store die i (rowOf Reg.TL_PAIR) v
  if s.fld die i Fld.TL_DESC_MODE = 2 ∧ s.tlPaired die i ∧ s.fld die i Fld.TL_PAIR_BOUND < old
      ∧ s.tlValue die (s.tlPeer die i) + s.fld die i Fld.TL_PAIR_BOUND < s.tlValue die i
  then s.tlNoteBreach die i else s

/-- TL_PAIR_WRITE (R315). -/
def execTlPairWrite (a : Acc) (v : Word) (s : State) : Res :=
  .next (s.regWrite a (rowOf Reg.TL_PAIR) v none (fun s i => s.tlPairEffect a.die i v))

/-- The effect of a write of TL_FIRE (R325). -/
def State.tlFireEffect (s : State) (die : Nat) (v : Word) : State := s.fireWire die (getBits v 7 0)

/-- TL_FIRE (R325). -/
def execTlFire (a : Acc) (v : Word) (s : State) : Res :=
  .next (s.regWrite a (rowOf Reg.TL_FIRE) v none (fun s _ => s.tlFireEffect a.die v))

/-- The effect of a write of TL_SLEEP (R325): the writing lamplighter or supervisor sleeps until the latch is set; another
requester has nothing that sleeps. -/
def State.tlSleepEffect (s : State) (a : Acc) (v : Word) : State :=
  let w := getBits v 7 0
  match a.rq with
  | .core d code => if s.latched a.die w then s else s.setCore { s.core d code with asleep := some (wireNo a.die w) }
  | .ep _ | .sideband | .jtag | .start => s

/-- TL_SLEEP (R325). -/
def execTlSleep (a : Acc) (v : Word) (s : State) : Res :=
  .next (s.regWrite a (rowOf Reg.TL_SLEEP) v none (fun s _ => s.tlSleepEffect a v))

/-- The effect of a read of TL_WOKENn: its latches are cleared (R325). -/
def State.tlWokenEffect (s : State) (die n : Nat) : State := s.setReg die 0 (wokenReg n) 0

/-- TL_WOKEN_READ (R325). -/
def execTlWokenRead (a : Acc) (n : Nat) (s : State) : Res :=
  .next (if n < 4 then s.regRead a (rowOf (wokenReg n)) (fun s _ => s.tlWokenEffect a.die n) else s)

end Sys2Proof.Machine
end

