-- ==== Sys2Proof/Machine/Lamp.lean ====
section
/-! DEFINITION. Lamplighters: the snuffer (R340 to R342), teardown and resumption (R338, R339), stuck requests (R334) and
firmware services (R343 to R345). -/

namespace Sys2Proof.Machine

/-! ### The snuffer (R340 to R342) -/

/-- `s` with the scrub jobs replaced. -/
def State.setScrubs (s : State) (l : List Scrub) : State := { s with lamp := { s.lamp with scrubs := l } }

/-- A range holds bytes `a` to `a + n - 1` of a space. -/
def rangeHolds (r : Range) (t1 : Bool) (a n : Nat) : Bool := r.t1 == t1 && decide (r.base ≤ a) && decide (a + n ≤ r.base + r.length)

/-- A fill lies in an open job's range: of the die for T1, of the core's cluster for SRAM (R331, row 7). -/
def State.fillOk (s : State) (die cluster : Nat) (t1 : Bool) (a n : Nat) : Bool :=
  s.lamp.scrubs.any (fun j => j.die == die && (t1 || j.cluster == cluster) && j.ranges.any (fun r => rangeHolds r t1 a n))

/-- Sectors of T1 are filled with zero; marked stripe units are copied first (R391). -/
def State.zeroT1 (s : State) (die a n : Nat) : State :=
  let s := (List.range (ceilDiv (a + n) 128 - a / 128)).foldl (fun s i => s.cbwWrite die (a / 128 + i)) s
  s.setT1 die (memZero (s.t1 die) a n)

/-- The effect of a write of LP_FILL by a core of the die (R341). -/
def State.fillEffect (s : State) (a : Acc) (v : Word) : State :=
  match a.rq with
  | .core d code =>
    let t1 := getBits v 63 63 == 1
    let base := getBits v 46 6 * 64
    let n := getBits v 62 47 * 64
    if n = 0 then s
    else if s.fillOk a.die (s.coreCluster d code) t1 base n then (if t1 then s.zeroT1 a.die base n else s)
    else s.fwLimit d code 7
  | .ep _ | .sideband | .jtag | .start => s

/-- LP_FILL (R341, R331). -/
def execLpFill (a : Acc) (v : Word) (s : State) : Res :=
  .next (s.regWrite a (rowOf Reg.LP_FILL) v none (fun s _ => s.fillEffect a v))

/-- The job that a core takes next: the first of its queue that nobody has (R341, R413). -/
def State.nextScrub (s : State) (a : Acc) : Option Scrub :=
  match a.rq with
  | .core d code =>
    if d = a.die ∧ code < 9 then s.lamp.scrubs.find? (fun j => j.die == d && j.taken.isNone && !j.checking && s.serves d j.cluster code)
    else none
  | .ep _ | .sideband | .jtag | .start => none

/-- What a read of LP_SCRUB_NEXT returns. -/
def State.scrubWord (s : State) (a : Acc) : Word :=
  match s.nextScrub a with
  | some j => setBits (BitVec.ofNat 64 (j.job % 2 ^ 32)) 63 63 1
  | none => 0

/-- The effect of a read of LP_SCRUB_NEXT: the job is handed to the reader. -/
def State.scrubNextEffect (s : State) (a : Acc) : State :=
  match s.nextScrub a, a.rq with
  | some j, .core _ code => s.setScrubs (s.lamp.scrubs.map (fun (x : Scrub) => if x.job = j.job then { x with taken := some code } else x))
  | _, _ => s

/-- LP_SCRUB_NEXT_READ (R341). -/
def execLpScrubNextRead (a : Acc) (s : State) : Res :=
  .next (s.regRead a (rowOf Reg.LP_SCRUB_NEXT) (fun s _ => s.scrubNextEffect a))

/-- The effect of a write of LP_SCRUB_DONE: the check of a job that has been taken starts. -/
def State.scrubDoneEffect (s : State) (die : Nat) (v : Word) : State :=
  s.setScrubs (s.lamp.scrubs.map (fun (x : Scrub) =>
    if x.die = die ∧ x.job % 2 ^ 32 = getBits v 31 0 ∧ x.taken.isSome then { x with checking := true } else x))

/-- LP_SCRUB_DONE (R341). -/
def execLpScrubDone (a : Acc) (v : Word) (s : State) : Res :=
  .next (s.regWrite a (rowOf Reg.LP_SCRUB_DONE) v none (fun s _ => s.scrubDoneEffect a.die v))

/-- T0 copies are released (R58). -/
def State.freeCopies (s : State) (p : T0Copy → Bool) : State :=
  (s.kv.copies.filter p).foldl (fun s c =>
    ({ s with kv := { s.kv with copies := s.kv.copies.erase c } }).dealloc c.die 0 (s.sess c.slot).context c.granules) s

/-- A closed session's scrub has passed (R341): its areas and copies are released, the record is rewritten. -/
def State.slotScrubbed (s : State) (die slot : Nat) : State :=
  let ctx := (s.sess slot).context
  let s := s.freeCopies (fun c => c.slot == slot && c.share.isNone)
  let s := match s.staging slot with
    | some _ => (({ s with kv := { s.kv with staging := alErase slot s.kv.staging } }).shootdown die (stagingVun slot)).dealloc
        die 1 ctx s.stagingGranules
    | none => s
  let s := match s.area slot with
    | some _ => ({ s with kv := { s.kv with areas := alErase slot s.kv.areas } }).dealloc die 1 ctx areaGranules
    | none => s
  let s := s.setSess slot { Session.fresh with gen := (s.sess slot).gen }
  s.cbwWrite die (s.fld die 0 Fld.SES_TABLE_BASE + slot % 524288)

/-- TORN, CAUSE and SCRUBBED of a context stand on both dies. -/
def State.setCtxCtrl (s : State) (ctx : Nat) (f : Field) (v : Nat) : State := (s.setFld 0 ctx f v).setFld 1 ctx f v

/-- Teardown jobs of a context that are open. -/
def State.tearJobs (s : State) (ctx : Nat) : Bool := s.lamp.scrubs.any (fun j => j.teardown && j.context == ctx)

/-- A job passes its check (R341). -/
def State.scrubPass (s : State) (j : Scrub) : State :=
  let s := s.setScrubs (s.lamp.scrubs.filter (fun (x : Scrub) => x.job != j.job))
  if j.teardown then
    let s := s.freeCopies (fun c => c.die == j.die && c.cluster == j.cluster && (s.sess c.slot).context == j.context)
    if s.tearJobs j.context then s else s.setCtxCtrl j.context Fld.LP_CTX_CTRL_SCRUBBED 1
  else s.slotScrubbed j.die j.slot

/-- A job fails its check (R342): back to the tail of the queue; ALERT_N from the RETRY_MAX-th failure on. -/
def State.scrubFail (s : State) (j : Scrub) (off : Nat) : State :=
  let k : Scrub := { j with taken := none, checking := false, fails := j.fails + 1 }
  let s := s.setScrubs (s.lamp.scrubs.filter (fun (x : Scrub) => x.job != j.job) ++ [k])
  let s := ((s.setFld j.die 0 Fld.LP_SCRUB_STATUS_FAILED 1).setFld j.die 0 Fld.LP_SCRUB_STATUS_OFFSET off).setFld j.die 0
    Fld.LP_SCRUB_STATUS_JOB j.job
  s.raise j.die 0x72 { alert := decide (s.fld j.die 0 Fld.LP_SCRUB_RETRY_MAX ≤ k.fails), ctx := some j.context, a0 := j.job, a1 := off }

/-- SCRUB_CHECK_DONE (R341, R342): `firstBad` is the first non-zero sector. -/
def execScrubCheckDone (t die job : Nat) (firstBad : Option Nat) (s : State) : Res :=
  .next (match s.lamp.scrubs.find? (fun j => j.die == die && j.job == job && j.checking) with
    | none => s
    | some j =>
      if s.running then (match firstBad with
        | none => ((s.tick t).scrubPass j).pumpAll.formResults
        | some off => (s.tick t).scrubFail j off)
      else s)

/-! ### Teardown and resumption (R338, R339) -/

/-- A request of a context is in flight: in the tracker, on an engine, or searching. -/
def State.ctxBusy (s : State) (ctx : Nat) : Bool :=
  s.lamp.track.any (fun x => !x.key.ekey && x.key.ctx == ctx)
    || s.attn.results.any (fun r => r.context == ctx && !r.complete)
    || s.flash.searches.any (fun q => q.env.ctx == ctx)

/-- The clusters that hold something of a torn context: T0 copies, or the engine state and scratch of its sessions' home. -/
def State.ctxClusters (s : State) (ctx : Nat) : List (Nat × Nat) :=
  ((s.kv.copies.filter (fun c => (s.sess c.slot).context == ctx)).map (fun c => (c.die, c.cluster))
    ++ (s.ses.home.filter (fun p => (s.sess p.1).context == ctx)).map (fun p => (slotDie p.1, p.2))).eraseDups

/-- The ranges of a teardown job: the context's T0 copies in the cluster, as one range whose place is a free value (log 6). -/
def State.tearRanges (s : State) (die cluster ctx : Nat) : List Range :=
  match ((s.kv.copies.filter (fun c => c.die == die && c.cluster == cluster && (s.sess c.slot).context == ctx)).map
      (·.granules)).foldl (· + ·) 0 with
  | 0 => []
  | n => [⟨false, n * 128, s.freeVal % 2 ^ 34 * 64⟩]

/-- Step 4 of R338: a job on every cluster that holds any of them; with none to wait for, SCRUBBED at once. -/
def State.drain (s : State) (ctx : Nat) : State :=
  let cl := s.ctxClusters ctx
  if cl.isEmpty then s.setCtxCtrl ctx Fld.LP_CTX_CTRL_SCRUBBED 1
  else cl.foldl (fun s p => s.nextFree.queueScrub p.1 p.2 true ctx 0 (s.tearRanges p.1 p.2 ctx)) s

/-- TEARDOWN_DRAIN (R338): no request of a torn context is in flight. -/
def execTeardownDrain (t ctx : Nat) (s : State) : Res :=
  .next (if s.running && s.torn ctx && s.fld 0 ctx Fld.LP_CTX_CTRL_SCRUBBED == 0 && !s.tearJobs ctx && !s.ctxBusy ctx
    then (s.tick t).drain ctx else s)

/-- The effect of a write of LP_CTX_CTRL (R339). -/
def State.ctxCtrlEffect (s : State) (die ctx : Nat) (v : Word) : State :=
  if getBits v 63 63 = 1 ∧ s.fld die ctx Fld.LP_CTX_CTRL_SCRUBBED = 1 then
    (((s.setCtxCtrl ctx Fld.LP_CTX_CTRL_TORN 0).setCtxCtrl ctx Fld.LP_CTX_CTRL_CAUSE 0).setCtxCtrl ctx
      Fld.LP_CTX_CTRL_SCRUBBED 0).raise die 0x71 { ctx := some ctx }
  else s

/-- CONTEXT_RESUMED (R339): a write of LP_CTX_CTRL. -/
def execContextResumed (a : Acc) (v : Word) (s : State) : Res :=
  .next (s.regWrite a (rowOf Reg.LP_CTX_CTRL) v none (fun s ctx => s.ctxCtrlEffect a.die ctx v))

/-! ### Stuck requests (R334) -/

/-- An entry is older than STUCK_US and has not been reported. -/
def State.stuck (s : State) (die : Nat) (x : Track) : Bool :=
  x.die == die && !x.reported && decide (x.since + s.fld die 0 Fld.LP_TRACK_STUCK_US * 1000 < s.now)

/-- REQ_STUCK is raised for an entry. -/
def State.raiseStuck (s : State) (x : Track) : State :=
  s.raise x.die 0x74 { ctx := if x.key.ekey then none else some x.key.ctx
                       a0 := match x.slot with | some i => (s.sess i).handle i | none => 0 }

/-- REQ_STUCK (R334): once for each entry. -/
def State.reportStuck (s : State) (die : Nat) : State :=
  let l := s.lamp.track.filter (fun x => s.stuck die x)
  let s := { s with lamp := { s.lamp with track := s.lamp.track.map (fun (x : Track) => if s.stuck die x then { x with reported := true } else x) } }
  l.reverse.foldl (fun s x => s.raiseStuck x) s

/-- REQ_STUCK (R334). -/
def execReqStuck (t die : Nat) (s : State) : Res := .next (if s.running then (s.tick t).reportStuck die else s)

/-! ### Asking for a service (R343) -/

/-- A command register of the services. -/
def svcReg (n : Nat) : RegId := ⟨0x0D, 0x060 + 8 * n⟩

/-- Words 0 to 2 of a command (R343); reserved bytes that are not zero stand in byte 1. -/
def svcWord (code : Nat) (c : SvcCmd) : Nat → Nat
  | 0 => code + (if c.zeroOk then 0 else 256) + c.context % 65536 * 2 ^ 16 + c.tag % 2 ^ 32 * 2 ^ 32
  | 1 => c.ioff
  | 2 => c.id % 2 ^ 32
  | _ => 0

/-- The command registers are written. -/
def State.svcWrite (s : State) (die code : Nat) (c : SvcCmd) : State :=
  (List.range 8).foldl (fun s i => s.setReg die 0 (svcReg i) (BitVec.ofNat 64 (svcWord code c i))) s

/-- The command that stands in the registers, for a lamplighter. -/
def State.svcRead (s : State) (die core : Nat) (ep : Option Nat) : Service :=
  let w := fun i => s.reg die 0 (svcReg i)
  { die, core, code := getBits (w 0) 7 0, ctx := getBits (w 0) 31 16, tag := getBits (w 0) 63 32, id := getBits (w 2) 31 0
    zeroOk := getBits (w 0) 15 8 == 0 && getBits (w 2) 63 32 == 0 && (List.range 5).all (fun i => w (i + 3) == 0)
    ep }

/-- Who may ask for a service: a supervisor, or an endpoint with the CS right. -/
def svcAsker : Requester → Bool
  | .core _ code => code == 9
  | .ep _ => true
  | .sideband | .jtag | .start => false

/-- The endpoint behind a requester. -/
def svcEp : Requester → Option Nat
  | .ep id => some id
  | .core _ _ | .sideband | .jtag | .start => none

/-- A service gets its status without having run. -/
def State.svcRefuse (s : State) (die tag status : Nat) : State :=
  (s.setFld die 0 Fld.LP_SVC_CTRL_STATUS status).setFld die 0 Fld.LP_SVC_CTRL_TAG tag

/-- The effect of a write of LP_SVC_CTRL: GO starts the command on the lowest running lamplighter, in context mode. -/
def State.svcGo (s : State) (die : Nat) (rq : Requester) (v : Word) : State :=
  if getBits v 63 63 = 0 ∨ svcAsker rq = false then s
  else
    let core := (s.lampsUp die).head?
    let c := s.svcRead die (core.getD 0) (svcEp rq)
    if s.fld die 0 Fld.LP_SVC_CTRL_BUSY = 1 ∨ core.isNone then s.svcRefuse die c.tag St.busyRetry
    else if c.code = 0 ∨ 6 < c.code then s.svcRefuse die c.tag St.badFrame
    else
      let s := { s with lamp := { s.lamp with services := c :: s.lamp.services } }
      let s := s.setReg die (die * 16 + c.core) Reg.LP_TASK (BitVec.ofNat 64 (2 ^ 63 + c.ctx % 4096))
      s.setFld die 0 Fld.LP_SVC_CTRL_BUSY 1

/-! ### What services do (R344, R345) -/

/-- The statuses of R345 that every service shares, in its order: reserved fields and an ID out of range, the seal, the
endpoint and the context. -/
def State.svcBad (s : State) (v : Service) (ids : Nat) (parsed sealOk : Bool) : Option Nat :=
  if !v.zeroOk || decide (4096 ≤ v.ctx ∨ ids ≤ v.id) || !parsed then some St.badFrame
  else if !sealOk then some St.integrity
  else if s.torn v.ctx || s.fld 0 v.ctx Fld.CTX_STATE_LIVE == 0 || !(match v.ep with | some e => s.listed v.ctx e | none => true) then some St.denied
  else none

/-- Granules of an automaton's rows (R183). -/
def gramGranules (alpha states : Nat) : Nat := ceilDiv (ceilDiv (8 + 4 * alpha) 64 * 64 * states) 128

/-- Granules that a die's grammar store holds beside automaton `id`. -/
def State.gramUse (s : State) (die id : Nat) : Nat :=
  ((s.grams.filter (fun p => p.1.1 == die && p.1.2 != id)).map (fun p => gramGranules p.2.alpha p.2.states)).foldl (· + ·) 1024

/-- An automaton that a context may not replace or remove: another context's, or one in use (R183, R345). -/
def gramHeld (g : Option Gram) (ctx : Nat) : Bool :=
  match g with | some g => (!g.anyCtx && g.ctx != ctx) || g.refs != 0 | none => false

/-- GRAMMAR_INSTALL: the state and the status. -/
def State.gramInstall (s : State) (v : Service) (o : GramObj) (sealOk : Bool) : State × Nat :=
  match s.svcBad v 4096 (o.wellFormed && o.alpha == s.alpha) sealOk with
  | some x => (s, x)
  | none =>
    if gramHeld (alGet (v.die, v.id) s.grams) v.ctx || (!o.anyCtx && o.ctx != v.ctx) then (s, St.denied)
    else if s.fld v.die 0 Fld.FIN_GSTORE_SIZE_MIB * 8192 < s.gramUse v.die v.id + gramGranules o.alpha o.states then (s, St.busyRetry)
    else
      let g : Gram := ⟨o.anyCtx, o.ctx, o.states, o.start, o.alpha, 0, s.freeVal % 2 ^ 40, o.rows⟩
      ({ s.nextFree with grams := alSet (v.die, v.id) g s.grams }, St.done)

/-- GRAMMAR_REMOVE. -/
def State.gramRemove (s : State) (v : Service) : State × Nat :=
  match s.svcBad v 4096 true true with
  | some x => (s, x)
  | none =>
    if gramHeld (alGet (v.die, v.id) s.grams) v.ctx then (s, St.denied)
    else ({ s with grams := alErase (v.die, v.id) s.grams }, St.done)

/-- The shape of an index is in range (R246 to R248). -/
def shapeOk (sh : IdxShape) : Bool :=
  decide (sh.group < 2) && decide (sh.format < 3) && decide (sh.metric < 3)
    && decide (256 ≤ sh.dim ∧ sh.dim ≤ 4096 ∧ sh.dim % 64 = 0) && sh.record == recordBytes sh.format sh.dim
    && (if sh.graph then decide (1 ≤ sh.degree ∧ sh.degree ≤ 64) else sh.degree == 0)

/-- INDEX_CREATE: an empty index at generation 1. -/
def State.indexCreate (s : State) (v : Service) (sh : IdxShape) (sealOk : Bool) : State × Nat :=
  match s.svcBad v 1024 (shapeOk sh) sealOk with
  | some x => (s, x)
  | none =>
    let old := s.index v.die v.id
    if sh.context != v.ctx || (match old with | some x => x.shape.context != v.ctx | none => false) then (s, St.denied)
    else if old.isSome then (s, St.busyRetry)
    else
      let g : IdxGen := { generation := 1, cutoff := 0, entry := 0, lists := [], centroids := [], recs := [] }
      (s.setIndex ⟨v.die, v.id, sh, g, [], 0, [], []⟩, St.done)

/-- INDEX_LOAD and INDEX_MERGE: the next generation, with its cutoff, is switched in when it fits. -/
def State.indexNext (s : State) (v : Service) (p : PendingIdx) (sealOk merge : Bool) : State × Nat :=
  match s.svcBad v 1024 (p.valid && p.gen.recs.all (fun r => vecOk p.shape.format p.shape.dim r.vec)) sealOk with
  | some x => (s, x)
  | none =>
    match s.index v.die v.id with
    | none => (s, St.badFrame)
    | some x =>
      let q : PendingIdx := { p with shape := x.shape, gen := { p.gen with
        generation := x.gen.generation + 1, cutoff := if merge then x.mark else x.gen.cutoff } }
      let t2 := 128 * newPageCount q
      let t1 := tableGranules x.shape q.table.length q.gen
      if x.shape.context ≠ v.ctx then (s, St.denied)
      else if s.quotaOk v.die v.ctx 2 t2 = false ∨ s.quotaOk v.die v.ctx 1 t1 = false then (s, St.overQuota)
      else if s.poolOk v.die 1 t1 = false then (s, St.busyRetry)
      else match s.merge x q with
        | some t => (t, St.done)
        | none => (s, St.busyRetry)

/-- INDEX_REMOVE: every page and table of the index is released. -/
def State.indexRemove (s : State) (v : Service) : State × Nat :=
  match s.svcBad v 1024 true true with
  | some x => (s, x)
  | none =>
    match s.index v.die v.id with
    | none => (s, St.done)
    | some x =>
      if x.shape.context ≠ v.ctx then (s, St.denied)
      else if (s.searchesOf x).isEmpty = false then (s, St.busyRetry)
      else
        let s := x.table.foldl (fun s loc => (s.releaseT2 x.die loc).dealloc x.die 2 v.ctx 128) s
        let s := s.dealloc x.die 1 v.ctx (tableGranules x.shape x.table.length x.gen + x.side.length * sideGranules x.shape)
        ({ s with flash := { s.flash with indexes := s.flash.indexes.filter (fun (y : Index) => !(y.die == x.die && y.num == x.num)) } },
          St.done)

/-- The service of a code that runs on a die ends with what `f` makes of it. -/
def State.svcFinish (s : State) (die code : Nat) (f : State → Service → State × Nat) : State :=
  match s.lamp.services.find? (fun v => v.die == die && v.code == code) with
  | none => s
  | some v => let r := f s v; r.1.endService v r.2

/-- A service row: the command and its GO, its end, or both. -/
def State.svcRow (s : State) (a : Acc) (code : Nat) (c : SvcCmd) (f : State → Service → State × Nat) : State :=
  let go := fun (s : State) => s.regWrite a (rowOf Reg.LP_SVC_CTRL) (BitVec.ofNat 64 (2 ^ 63)) none
    (fun s _ => (s.svcWrite a.die code c).svcGo a.die a.rq (BitVec.ofNat 64 (2 ^ 63)))
  match c.phase with
  | .start => go s
  | .finish => if s.running then (s.tick a.t).svcFinish a.die code f else s
  | .whole =>
    let t := go s
    if s.fld a.die 0 Fld.LP_SVC_CTRL_BUSY = 1 ∨ s.running = false then t else t.svcFinish a.die code f

/-- GRAMMAR_INSTALL (R183, R343 to R345). -/
def execGrammarInstall (a : Acc) (c : SvcCmd) (o : GramObj) (s : State) : Res :=
  .next (s.svcRow a 1 c (fun s v => s.gramInstall v o c.sealOk))

/-- GRAMMAR_REMOVE (R183, R343 to R345). -/
def execGrammarRemove (a : Acc) (c : SvcCmd) (s : State) : Res := .next (s.svcRow a 2 c (fun s v => s.gramRemove v))

/-- INDEX_CREATE (R246, R343 to R345). -/
def execIndexCreate (a : Acc) (c : SvcCmd) (sh : IdxShape) (s : State) : Res :=
  .next (s.svcRow a 3 c (fun s v => s.indexCreate v sh c.sealOk))

/-- INDEX_LOAD (R256, R343 to R345). -/
def execIndexLoad (a : Acc) (c : SvcCmd) (p : PendingIdx) (s : State) : Res :=
  .next (s.svcRow a 4 c (fun s v => s.indexNext v p c.sealOk false))

/-- INDEX_MERGE (R256, R343 to R345). -/
def execIndexMerge (a : Acc) (c : SvcCmd) (p : PendingIdx) (s : State) : Res :=
  .next (s.svcRow a 5 c (fun s v => s.indexNext v p true true))

/-- INDEX_REMOVE (R343 to R345). -/
def execIndexRemove (a : Acc) (c : SvcCmd) (s : State) : Res := .next (s.svcRow a 6 c (fun s v => s.indexRemove v))

end Sys2Proof.Machine
end

