-- ==== Sys2Proof/Machine/HealthCmds.lean ====
section
/-! DEFINITION. Register writes of the HEALTH block (R413, R415, R420, R423) and the end of a step for event limits (R418). -/

namespace Sys2Proof.Machine

/-- The effect of a write of HL_KICK: the writing core's watchdog restarts (R413). -/
def State.kickEffect (s : State) (rq : Requester) : State :=
  match rq with
  | .core d code => s.setCore { s.core d code with lastKick := s.now }
  | .ep _ | .sideband | .jtag | .start => s

/-- HL_KICK (R413). -/
def execHlKick (a : Acc) (v : Word) (s : State) : Res :=
  .next (s.regWrite a (rowOf Reg.HL_KICK) v none (fun s _ => s.kickEffect a.rq))

/-- The macro of an SRAM row's unit code: TYPE, DIE, CLUSTER and macro (R406). -/
def rowMacro (u : Nat) : Nat := u / 4096

/-- Spare rows of a macro in use. -/
def State.rowsUsed (s : State) (u : Nat) : Nat := (s.health.rows.filter (fun x => rowMacro x == rowMacro u)).length

/-- A unit code names an SRAM row of a die (R406). -/
def isRow (die u : Nat) : Bool := u / 2 ^ 28 == 7 && u / 2 ^ 27 % 2 == die

/-- The effect of a write of HL_ROW_SPARE (R415): LIMIT when the macro has no spare row left, or the code names no row of the die. -/
def State.rowSpareEffect (s : State) (die : Nat) (v : Word) : State :=
  let s := s.store die 0 (rowOf Reg.HL_ROW_SPARE) v
  let u := getBits v 31 0
  if getBits v 63 63 = 0 then s
  else if isRow die u && decide (s.rowsUsed u < 8) then
    ({ s with health := { s.health with rows := u :: s.health.rows } }).setFld die 0 Fld.HL_ROW_SPARE_STATUS St.done
  else s.setFld die 0 Fld.HL_ROW_SPARE_STATUS St.limit

/-- HL_ROW_SPARE (R415). -/
def execHlRowSpare (a : Acc) (v : Word) (s : State) : Res :=
  .next (s.regWrite a (rowOf Reg.HL_ROW_SPARE) v none (fun s _ => s.rowSpareEffect a.die v))

/-- The effect of a write of HL_PLAN (R423). -/
def State.planEffect (s : State) (v : Word) : State :=
  let s := s.store 0 0 (rowOf Reg.HL_PLAN) v
  if getBits v 63 63 = 1 ∧ s.planOk v then s.acceptPlan v else s

/-- HL_PLAN (R422, R423): a CS_WRITE gets DENIED, and a plan outside the envelope is refused to its core. -/
def execHlPlan (a : Acc) (v : Word) (s : State) : Res :=
  .next (s.regWrite a (rowOf Reg.HL_PLAN) v none (fun s _ => s.planEffect v))

/-- The effect of a write of HL_ALERT (R420): one below the current ACK is ignored. -/
def State.alertEffect (s : State) (die : Nat) (v : Word) : State :=
  let ack := getBits v 47 0
  if ack < s.fld die 0 Fld.HL_ALERT_ACK then s
  else (s.setFld die 0 Fld.HL_ALERT_ACK ack).setAlerts die ((s.alerts die).filter (fun i => decide (ack < i)))

/-- HL_ALERT_ACK (R420). -/
def execHlAlertAck (a : Acc) (v : Word) (s : State) : Res :=
  .next (s.regWrite a (rowOf Reg.HL_ALERT) v none (fun s _ => s.alertEffect a.die v))

/-- EVENT_LIMIT_STEP_END (R418): without bookkeeping, a step for the limits ends every LOSS_NS. -/
def execEventLimitStepEnd (t : Nat) (s : State) : Res :=
  .next (if s.running && !s.fires && decide (s.ev.lastStepEnd + s.fld 0 0 Fld.BCN_TIMEOUT_LOSS_NS ≤ (s.tick t).now)
    then (s.tick t).endLimitStep else s)

end Sys2Proof.Machine
end

