-- ==== Sys2Proof/Machine/Start.lean ====
section
/-! DEFINITION. Configuration image and start (R348 to R366), reset and loss of power (R449, R452). -/

namespace Sys2Proof.Machine

/-! ### STATUS (R364, R462) -/

/-- STATUS changes: interrupts 0x03, and 0x01 when ALERT_N becomes asserted with it (R364, R462). -/
def State.setStatus (s : State) (v : Nat) : State :=
  if s.status = v then s
  else
    let t := (s.setFld 0 0 Fld.GLB_START_STATUS v).ibi 0x03
    if t.alertPin && !s.alertPin then t.ibi 0x01 else t

/-- What stands after a reset (R362, R449): the registers at their Reset columns and nothing of the run; the fuses, what stands at
fabric endpoints, the frames that have left, and the queue of commands stay. -/
def State.coldBase (s : State) : State :=
  { State.reset with
    now := s.now, pending := s.pending, free := s.free
    net := { Net.reset with wire := s.net.wire, ptp := { Net.reset.ptp with at_ := s.now } }
    ident := { State.reset.ident with fuses := s.ident.fuses }
    ckpt := { State.reset.ckpt with heads := s.ckpt.heads, snaps := s.ckpt.snaps }
    rp := { State.reset.rp with area := s.rp.area }
    pins := { State.reset.pins with power := s.pins.power, tripped := s.pins.tripped } }.setFld 0 0 Fld.SEAL_LC_STATE s.ident.fuses.lc

/-- A reset keeps a thermal trip, which stays until PWR_OK falls (R453). -/
def State.cold (s : State) : State :=
  if s.pins.tripped then
    (s.coldBase.setFld 0 0 Fld.BD_THERM_TRIP 1).setFld 0 0 Fld.BD_THERM_TRIP_DIE (s.fld 0 0 Fld.BD_THERM_TRIP_DIE)
  else s.coldBase

/-- RESET_ASSERT (R361, R452): everything stops. -/
def execResetAssert (t : Nat) (s : State) : Res := .next (s.tick t).cold

/-- PWR_OK_FALL (R449): the J716 stops at once, and no state is kept. -/
def execPwrOkFall (t : Nat) (s : State) : Res :=
  let s := (s.tick t).coldBase
  .next { s with pins := { s.pins with power := false, tripped := false } }

/-! ### The image's own checks (R353, R375) -/

/-- Why an image fails before its sections are read: STATUS, step and DETAIL. -/
def imageFail (lc floor : Nat) (img : Image) : Option (Nat × Nat × Nat) :=
  let owner := lc == 1 || lc == 2
  match img.check with
  | .noNor => some (9, 2, 1)
  | .headerBad => some (9, 2, 1)
  | .good | .signatureBad _ | .tableBad | .digestBad _ | .sectionMissing _ =>
    if (img.sigRoot == 1) != owner then some (10, 3, 1)
    else match img.check with
      | .signatureBad d => some (10, 3, d)
      | .tableBad => some (9, 3, 5)
      | .digestBad t => some (9, 3, t)
      | .sectionMissing _ => some (9, 3, 6)
      | .good | .noNor | .headerBad => if lc = 4 ∨ (lc = 2 ∧ img.svn < floor) then some (13, 3, 0) else none

/-! ### Sections (R354 to R358) -/

/-- The TIERS record of a die. -/
def tiersOf (img : Image) (die : Nat) : TierRec := if die = 0 then img.tiers0 else img.tiers1

/-- TIERS of a die enters its registers (R355). The clamp of T2 follows the register list. -/
def State.putTiers (s : State) (img : Image) (die : Nat) : State :=
  let t := tiersOf img die
  let f := fun (s : State) (x : Field) (v : Nat) => s.setFld die 0 x v
  let s := f (f (f s Fld.TR_SIZE_T1_SIZE t.t1Pool) Fld.TR_SIZE_T2_SIZE t.t2Size) Fld.TR_SIZE_T3_SIZE t.t3Size
  let s := f (f (f s Fld.XL_SPT_ENTRIES t.sptEntries) Fld.ATN_STORE_ENTRIES t.results) Fld.FIN_GSTORE_SIZE_MIB t.gstoreMib
  let s := f (f (f s Fld.MC_ERRLOG_SIZE t.errlog) Fld.HL_EVT_SIZE t.events) Fld.GSP_LIMITS_POOL_KIB t.reasmKib
  (List.range 8).foldl (fun s c => (s.setFld die c Fld.MC_TEST_REGION_UNITS t.testUnits).setFld die c
    Fld.MC_TEST_REGION_FIRST (clusterStripes / 2 - t.testUnits)) s

/-- PORTMAP enters ETH_PORT_CFG (R356). -/
def State.putPort (s : State) (p : PortRec) : State :=
  let f := fun (s : State) (x : Field) (v : Nat) => s.setFld (portDie p.port) p.port x v
  let s := f (f (f s Fld.ETH_PORT_CFG_ENABLE 1) Fld.ETH_PORT_CFG_LANES p.lanes) Fld.ETH_PORT_CFG_TYPE p.type
  let s := f (f s Fld.ETH_PORT_CFG_CONTROL (b2n p.control)) Fld.ETH_PORT_CFG_BEACON (b2n p.beacon)
  f (f s Fld.ETH_PORT_CFG_MTU p.mtu) Fld.ETH_PORT_CFG_DEF_PRIO p.defPrio

/-- ENDPOINTS (R287, R356): roles, rights and subscriptions. -/
def State.putEndpoint (s : State) (img : Image) (e : EpRec) : State :=
  let s := (List.range 2).foldl (fun s d => (s.setFld d e.id Fld.GSP_EP_INFO_ROLE e.role).setFld d e.id Fld.GSP_EP_INFO_CS (b2n e.cs)) s
  let mine := (img.contexts.filter (fun c => c.eps.contains e.id)).map (fun c => (⟨some c.id, e.id⟩ : Sub))
  { s with net := { s.net with subs := s.net.subs ++ (if e.subDevice then [⟨none, e.id⟩] else []) ++ (if e.subContexts then mine else []) } }

/-- CONTEXTS (R357, R372): a KEYBLOB that does not unwrap leaves its context without a key. -/
def State.putContext (s : State) (c : CtxRec) : State :=
  let s := (List.range 2).foldl (fun s d =>
    let f := fun (s : State) (x : Field) (v : Nat) => s.setFld d c.id x v
    f (f (f (f s Fld.CTX_STATE_LIVE (b2n (c.live && c.blobOk))) Fld.LP_CTX_PLACE_PRIV (b2n c.priv))
      Fld.TL_CTX_RANGE_BASE (if d = 0 then c.tallyBase0 else c.tallyBase1))
      Fld.TL_CTX_RANGE_COUNT (if d = 0 then c.tallyCount0 else c.tallyCount1)) s
  let s := s.setFld 0 c.id Fld.SEAL_KEYGEN_CUR c.keyGen
  if c.blobOk then s
  else (s.bump 0 0 Fld.SEAL_COUNTS_UNWRAP_FAIL).raise 0 0x78 { alert := true, ctx := some c.id }

/-- RETIRE (R358): its entries name no die, so each acts on both (log 25). -/
def State.putRetire (s : State) (v : Word) : State :=
  (List.range 2).foldl (fun s d =>
    let bank := getBits v 62 62 == 1
    let x := if bank then getBits v 26 23 else getBits v 22 0
    let n := s.newlyRetired d (getBits v 61 59) bank x
    let s := { s with tier := { s.tier with retired := (d, getBits v 61 59, if bank then bankMark (x / 2) else x / 2) :: s.tier.retired } }
    s.setFld d 0 Fld.MC_RETIRE_STATUS_UNITS (s.fld d 0 Fld.MC_RETIRE_STATUS_UNITS + n)) s

/-- The sections of an image, and its header (R350, R354 to R357, R366). -/
def State.putSections (s : State) (img : Image) : State :=
  let s := { s with start := { s.start with img := img } }
  let s := (List.range 2).foldl (fun s d =>
    (s.setFld d 0 Fld.FIN_CTRL_ALPHA img.geometry.alpha).setFld d 0 Fld.LP_STATUS_FW_VERSION img.fwVersion) s
  let s := (s.setFld 0 0 Fld.GLB_IMAGE_SVN img.svn).setFld 0 0 Fld.GLB_IMAGE_SIGNED_LEN img.signedLen
  let s := (s.setFld 0 0 Fld.GLB_BUILD0_BUILD_ID img.buildId0).setFld 0 0 Fld.GLB_BUILD1_BUILD_ID img.buildId1
  let s := img.retire.foldl (fun s v => s.putRetire v) s
  let s := (s.putTiers img 0).putTiers img 1
  let s := img.ports.foldl (fun s p => s.putPort p) s
  let s := img.endpoints.foldl (fun s e => s.putEndpoint img e) s
  img.contexts.foldl (fun s c => s.putContext c) s

/-! ### The register list (R358) -/

/-- The bits of a register that a section sets (R359, rule 6). -/
def sectionBits (r : RegId) : Word :=
  if r = Reg.LP_CTX_PLACE then bitMask 9 9
  else if r = Reg.GSP_LIMITS then bitMask 19 0
  else if [Reg.TR_SIZE_T1, Reg.TR_SIZE_T2, Reg.TR_SIZE_T3, Reg.XL_SPT, Reg.XL_ROOT, Reg.SES_TABLE, Reg.LP_HOME_MAP, Reg.ATN_STORE,
      Reg.FIN_GSTORE, Reg.MC_ERRLOG, Reg.HL_EVT, Reg.LP_SCRUB_Q, Reg.WK_SEGTAB, Reg.WK_IDXTAB, Reg.MC_TEST_REGION,
      Reg.ETH_PORT_CFG, Reg.TL_CTX_RANGE].contains r then bitMask 63 0
  else 0

/-- What the register list has done: the state, the first entry that breaks rule 6, and what each entry wrote. -/
structure Applied where
  s : State
  bad : Option Nat
  wrote : List (Nat × RegKey × Word)
  deriving DecidableEq, Repr

/-- The item and register that an entry writes, when it keeps rule 6. -/
def State.entryKey (s : State) (e : RegEntry) : Option (RegKey × RegRow) :=
  match mapAddr e.addr with
  | none => none
  | some (die, r) =>
    if e.mask &&& ~~~(r.rwMask ||| r.rwlMask) ≠ 0 ∨ e.mask &&& sectionBits r.id ≠ 0 then none
    else (s.selItem die .start r.sel).map (fun sel => (⟨die, r.id.blk, r.id.off, sel⟩, r))

/-- One entry is applied. -/
def Applied.entry (a : Applied) (p : RegEntry × Nat) : Applied :=
  match a.s.entryKey p.1 with
  | none => { a with bad := some (a.bad.getD p.2) }
  | some (k, r) =>
    let w := (a.s.reg k.die k.sel r.id &&& ~~~p.1.mask) ||| (p.1.value &&& p.1.mask)
    { a with s := a.s.setReg k.die k.sel r.id w, wrote := a.wrote ++ [(p.2, k, p.1.mask)] }

/-- The register list, in order. -/
def State.applyList (s : State) (l : List RegEntry) : Applied := l.zipIdx.foldl Applied.entry ⟨s, none, []⟩

/-- A value lies outside its field's stated range (R359, rule 7). -/
def outOfRange (img : Image) (r : RegId) (hi v : Nat) : Bool :=
  badValue r hi v
    || (if r = Reg.BCN_INIT then hi == 47 && decide (2048 < v)
        else if r = Reg.XL_CTX_RETAIN then decide (4096 < v ∨ v % 16 ≠ 0)
        else if r = Reg.ATN_CTX_MODE then hi == 31 && decide (64 < v)
        else if r = Reg.WK_GEOM then (hi == 61 && decide (8 < v)) || (hi == 57 && !decide (1 ≤ v ∧ v ≤ 8)) || (hi == 12 && decide (v < 64))
        else if r = Reg.WK_BATCH then hi == 40 && !decide (1 ≤ v ∧ v ≤ 256)
        else if r = Reg.GSP_LIMITS then hi == 63 && !decide (65536 ≤ v ∧ v ≤ 4194304)
        else if r = Reg.CK_CTRL then hi == 27 && !decide (1 ≤ v ∧ v ≤ 8)
        else if r = Reg.CK_SHARD then v % 4096 != 0
        else r == Reg.HL_PLAN && hi == 44 && decide (img.envelope.refreshMax < v))

/-- The fields of register `k` that lie outside their range, as a mask. -/
def State.rangeBits (s : State) (k : RegKey) : Word :=
  let r : RegId := ⟨k.blk, k.off⟩
  (rowOf r).fields.foldl (fun (m : Word) f =>
    if outOfRange s.start.img r f.hi (getBits (s.reg k.die k.sel r) f.hi f.lo) then m ||| f.mask else m) 0

/-- Rule 7 of R359: the first entry that was the last to write a field outside its range. -/
def Applied.range (a : Applied) : Option Nat :=
  (a.wrote.find? (fun x =>
    let later := (a.wrote.filter (fun y => y.2.1 == x.2.1 && decide (x.1 < y.1))).foldl (fun (m : Word) y => m ||| y.2.2) 0
    x.2.2 &&& ~~~later &&& a.s.rangeBits x.2.1 != 0)).map (·.1)

/-- The leads of BCN_INIT are out of order (R359, rule 7): the entry that last wrote one of them. -/
def Applied.leadOrder (a : Applied) : Option Nat :=
  if a.s.fld 0 0 Fld.BCN_INIT_LEAD_MAX_SP < a.s.fld 0 0 Fld.BCN_INIT_LEAD_MIN_SP then
    ((a.wrote.filter (fun x => x.2.1.blk == Reg.BCN_INIT.blk && x.2.1.off == Reg.BCN_INIT.off)).getLast?).map (·.1)
  else none

/-! ### Placement (R355) -/

/-- The first granule after a retired stripe unit that meets granules `a` to `a + n - 1`, or none when none does. -/
def State.retiredPast (s : State) (die a n : Nat) : Option Nat :=
  if s.tier.retired.isEmpty ∨ n = 0 then none
  else
    let u := a / 217
    ((List.range ((a + n - 1) / 217 + 1 - u)).find? (fun i => s.isRetired die ((u + i) % 8) ((u + i) / 8))).map (fun i => (u + i + 1) * 217)

/-- The lowest place from `a` on, aligned, for `n` granules without a retired one. -/
def State.lowestRun (s : State) (die align n : Nat) : Nat → Nat → Option Nat
  | 0, _ => none
  | fuel + 1, a =>
    let a := ceilDiv a align * align
    match s.retiredPast die a n with
    | none => some a
    | some b => s.lowestRun die align n fuel b

/-- The fixed structures of a die (R355): alignment and size in granules, and the field that takes the place. -/
def State.fixedList (s : State) (img : Image) (die : Nat) : List (Nat × Nat × Option Field) :=
  let t := tiersOf img die
  let ctxs := (img.contexts.foldl (fun (l : List CtxRec) c => l.takeWhile (fun x => decide (x.id < c.id)) ++ [c]
    ++ l.dropWhile (fun x => decide (x.id < c.id))) [])
  [(1, Config.slotsPerDie, some Fld.SES_TABLE_BASE), (256, 256, some Fld.XL_ROOT_LOC),
   (1, ceilDiv (32 * t.sptEntries) 128, some Fld.XL_SPT_BASE), (1, 4096, some Fld.LP_HOME_MAP_BASE),
   (1, t.results * s.entryGranules, some Fld.ATN_STORE_BASE), (1, t.gstoreMib * 8192, some Fld.FIN_GSTORE_BASE),
   (1, ceilDiv (32 * t.errlog) 128, some Fld.MC_ERRLOG_BASE), (1, ceilDiv (64 * t.events) 128, some Fld.HL_EVT_BASE),
   (1, if die = 0 then ceilDiv (32 * t.beacon) 128 else 0, none), (1, 2 * t.scrubJobs, some Fld.LP_SCRUB_Q_BASE),
   (1, ceilDiv (2 * 16 * s.segCount die) 128, some Fld.WK_SEGTAB_BASE), (1, 1024, some Fld.WK_IDXTAB_BASE)]
    ++ ctxs.map (fun c => (1, if die = 0 then c.ingest0 else c.ingest1, none))

/-- One structure after another is placed from granule `a` on: the state and the first granule after the last. -/
def State.placeFixed (s : State) (die : Nat) : List (Nat × Nat × Option Field) → Nat → Option (State × Nat)
  | [], a => some (s, a)
  | (al, n, f) :: l, a =>
    match s.lowestRun die al n (64 * s.tier.retired.length + 1) a with
    | none => none
    | some b => (match f with | some x => s.setFld die 0 x b | none => s).placeFixed die l (b + n)

/-- Retired granules of a die at or above granule `a` (R359, rule 5). -/
def State.retiredAbove (s : State) (die a : Nat) : Nat :=
  ((List.range 8).map (fun cl => s.tier.retired.foldl (fun (n : Nat) r =>
    if r.1 = die ∧ r.2.1 = cl then
      (if 4194304 ≤ r.2.2 then n + 217 * (clusterStripes / 2 / 8) else if a ≤ (r.2.2 * 8 + cl) * 217 then n + 217 else n)
    else n) 0)).foldl (· + ·) 0

/-- The structures of a die are placed and its pools sized (R355, R232), or there is no room (R359, rule 5). -/
def State.layOut (s : State) (img : Image) (die : Nat) : Option State :=
  match s.placeFixed die (s.fixedList img die) 0 with
  | none => none
  | some (s, e) =>
    let pool := s.fld die 0 Fld.TR_SIZE_T1_SIZE
    if Config.t1Granules < e + pool + s.retiredAbove die e + (tiersOf img die).testUnits * 8 * 217 then none
    else
      let t2max := (2 * s.segCount die - 2 * s.fld die 0 Fld.WK_GC_RESERVE_SEGMENTS) * (s.ppb die - 8) * 896
      let s := s.setFld die 0 Fld.TR_SIZE_T2_SIZE (min (s.fld die 0 Fld.TR_SIZE_T2_SIZE) t2max)
      let s := ((s.setPoolFree die 1 pool).setPoolFree die 2 (s.fld die 0 Fld.TR_SIZE_T2_SIZE)).setPoolFree die 3
        (s.fld die 0 Fld.TR_SIZE_T3_SIZE)
      some { s with tier := if die = 0 then { s.tier with fixedEnd0 := e } else { s.tier with fixedEnd1 := e } }

/-! ### Consistency (R359) -/

/-- The first number below `n` with a property. -/
def firstIdx (n : Nat) (p : Nat → Bool) : Option Nat := (List.range n).find? p

/-- Rule 1: the geometry (R3, R354). -/
def geometryOk (g : Geometry) : Bool :=
  decide (1 ≤ g.layers ∧ g.layers ≤ 128) && decide (1 ≤ g.kvHeads ∧ g.kvHeads ≤ 32)
    && decide (1 ≤ g.qHeads ∧ g.qHeads ≤ 256 ∧ g.qHeads % g.kvHeads = 0) && decide (g.headDim < 3) && decide (257 ≤ g.alpha ∧ g.alpha ≤ 320)

/-- Lanes of a port record. -/
def portRecLanes (p : PortRec) : List Nat := (List.range (2 ^ p.lanes)).map (p.port + ·)

/-- Rule 2 on one record: R265, and no lane of an earlier record. -/
def portRecOk (p : PortRec) (before : List PortRec) : Bool :=
  decide (p.lanes ≤ 2) && decide (p.type ≤ 2) && p.port % 2 ^ p.lanes == 0 && decide (p.port + 2 ^ p.lanes ≤ 48)
    && decide (1500 ≤ p.mtu ∧ p.mtu ≤ 9000) && decide (p.defPrio ≤ 7) && decide (p.vlans.length ≤ 8)
    && !before.any (fun q => (portRecLanes p).any (fun l => (portRecLanes q).contains l))

/-- Rule 3 on one record. -/
def epRecOk (img : Image) (e : EpRec) (before : List EpRec) : Bool :=
  e.id != 0 && decide (e.id < 0xFFFF) && decide (e.role ≤ 4) && !before.any (fun x => x.id == e.id)
    && decide (1 ≤ e.paths.length ∧ e.paths.length ≤ 4) && e.paths.all (fun p => img.ports.any (fun q => q.port == p.port))
    && (!e.subDevice || e.role == 3)

/-- Two tally ranges meet. -/
def tallyMeet (b n c m : Nat) : Bool := decide (b < c + m) && decide (c < b + n)

/-- Rule 4 on one record. -/
def ctxRecOk (img : Image) (c : CtxRec) (before : List CtxRec) : Bool :=
  decide (c.tallyBase0 + c.tallyCount0 ≤ 32768) && decide (c.tallyBase1 + c.tallyCount1 ≤ 32768)
    && !before.any (fun x => tallyMeet c.tallyBase0 c.tallyCount0 x.tallyBase0 x.tallyCount0
      || tallyMeet c.tallyBase1 c.tallyCount1 x.tallyBase1 x.tallyCount1)
    && c.eps.all (fun e => img.endpoints.any (fun x => x.id == e))

/-- One operating point inside the supply ranges and the TDP (R422, R447). -/
def pointOk (p : EnvPoint) : Bool :=
  decide (650 ≤ p.vcoreMin ∧ p.vcoreMin ≤ p.vcoreMax ∧ p.vcoreMax ≤ 850)
    && decide (700 ≤ p.vsramMin ∧ p.vsramMin ≤ p.vsramMax ∧ p.vsramMax ≤ 900) && decide (p.powerW ≤ Config.gradeTdpW)

/-- Clocks fall strictly from point to point. -/
def clocksFall : List EnvPoint → Bool
  | p :: q :: l => decide (q.clkMhz < p.clkMhz) && clocksFall (q :: l)
  | _ => true

/-- Rule 9: the ENVELOPE is accepted (R422). -/
def envelopeOk (e : Envelope) : Bool :=
  e.formOk && decide (1 ≤ e.points.length ∧ e.points.length ≤ 8) && decide (e.refreshMax ≤ 2) && decide (e.tjWarnC ≤ 105)
    && clocksFall e.points && (match e.points with | p :: _ => decide (p.clkMhz ≤ Config.gradeClockMhz) | [] => false)
    && e.points.all pointOk

/-- Granules that grammars and their edge tables take in a store (R354). -/
def gramTotal (l : List (Nat × GramObj)) : Nat := (l.map (fun x => gramGranules x.2.alpha x.2.states)).sum + 1024

/-- Rule 10 on one record: its own form, its ID, and room in the store after the records before it. -/
def gramRecOk (img : Image) (g : Nat × GramObj) (before : List (Nat × GramObj)) : Bool :=
  decide (g.1 < 4096) && g.2.wellFormed && g.2.alpha == img.geometry.alpha && (g.2.anyCtx || img.contexts.any (fun c => c.id == g.2.ctx))
    && (List.range 2).all (fun d => decide (gramTotal (g :: before.filter (fun x => x.1 != g.1)) ≤ (tiersOf img d).gstoreMib * 8192))

/-- DETAIL of a broken rule. -/
def ruleDetail (rule item : Nat) : Nat := rule * 2 ^ 24 + item

/-- A rule with items, on a list of records: the DETAIL of the first that breaks it. -/
def ruleOn {α : Type} (rule : Nat) (l : List α) (ok : α → List α → Bool) : Option Nat :=
  (firstIdx l.length (fun i => match l[i]? with | some x => !ok x (l.take i) | none => false)).map (ruleDetail rule)

/-- A rule that holds or not, with item `item`. -/
def ruleIs (rule item : Nat) (ok : Bool) : Option Nat := if ok then none else some (ruleDetail rule item)

/-- R359 in order, on the state after the register list. Two CONTROL ports are missing from the map as a whole, so the item is the
number of its records (log 26). -/
def configFail (img : Image) (a : Applied) : Option Nat :=
  [ruleIs 1 0 (geometryOk img.geometry),
   ruleOn 2 img.ports portRecOk,
   ruleIs 2 img.ports.length (decide (2 ≤ (img.ports.filter (·.control)).length)),
   ruleOn 3 img.endpoints (epRecOk img),
   ruleOn 4 img.contexts (ctxRecOk img),
   ruleIs 5 0 (a.s.layOut img 0).isSome,
   ruleIs 5 1 (a.s.layOut img 1).isSome,
   a.bad.map (ruleDetail 6),
   (a.range.orElse (fun _ => a.leadOrder)).map (ruleDetail 7),
   ((img.ports.map (·.port)).find? (fun p => (a.s.gateRefusal p).isSome)).map (ruleDetail 8),
   ruleIs 9 0 (envelopeOk img.envelope),
   ruleOn 10 img.grammars (gramRecOk img),
   ruleIs 11 0 (img.hasNand || !(a.s.hasT2 0 || a.s.hasT2 1))].findSome? id

/-! ### Hardware (R362) -/

/-- The first element that repeats a key of an earlier one. -/
def firstRepeat {α β : Type} [DecidableEq β] (f : α → β) : List α → List β → Option α
  | [], _ => none
  | x :: l, seen => if seen.contains (f x) then some x else firstRepeat f l (f x :: seen)

/-- The unit whose failure stops start in step 5 (R362). -/
def memoryFail (hw : StartTests) : Option Nat :=
  match firstRepeat (fun x => (x.1, x.2.1)) hw.failedDram.eraseDups [] with
  | some (d, cl, ch) => some (unitCode 4 d cl ch)
  | none => (firstRepeat (fun (x : Nat × Nat) => (x.1, x.2 / 8)) hw.failedNand.eraseDups []).map (fun x => unitCode 5 x.1 0 x.2)

/-- The unit whose failure stops start in step 8 (R362). Two failed lamplighters of a die leave one slot without both. -/
def coreFail (hw : StartTests) : Option Nat :=
  match firstRepeat (fun x => (x.1, x.2.1)) hw.failedCores.eraseDups [] with
  | some (d, cl, c) => some (unitCode 1 d cl c)
  | none => match firstRepeat (fun (x : Nat × Nat) => x.1) hw.failedLamps.eraseDups [] with
    | some (d, c) => some (coreUnit d c)
    | none => hw.failedSup.head?.map (fun d => coreUnit d 9)

/-- A core that failed its self-test is replaced by its cluster's spare; a failed spare is out of service (R362, R410). -/
def State.startCore (s : State) (x : Nat × Nat × Nat) : State :=
  let s := s.takeOut x.1 x.2.1 x.2.2
  if x.2.2 = 16 then s.setFld x.1 x.2.1 Fld.HL_CORE_SPARE 3
  else (s.setFld x.1 x.2.1 Fld.HL_CORE_SPARE 2).setFld x.1 x.2.1 Fld.HL_CORE_FENCED_LOG x.2.2

/-- The control cores of a die start (R360 step 9): a failed lamplighter's place is taken by the spare. -/
def State.startLamps (s : State) (hw : StartTests) (die : Nat) : State :=
  let bad := (hw.failedLamps.filter (fun x => x.1 == die)).map (·.2)
  let up := ((List.range 8).filter (fun c => !bad.contains c)).map (fun c => 2 ^ c)
  let s := (s.setFld die 0 Fld.LP_STATUS_LAMP_UP (up.foldl (· + ·) 0)).setFld die 0 Fld.LP_STATUS_SUP_OK 1
  let s := (List.range 8).foldl (fun s c => s.setCore { s.core die c with lastKick := s.now }) s
  match bad with
  | [] => s
  | c :: _ =>
    if c = 8 then s.setMap die spareLampBit true
    else ((s.setFld die 0 Fld.LP_STATUS_SPARE_IN 1).setMap die (lampBit c) true).setCore
      { die, code := 8, halted := false, asleep := none, lastKick := s.now, mismatches := 0, cluster := c }

/-- What steps 5, 7 and 8 leave of the units that failed without stopping start (R362). -/
def State.startUnits (s : State) (hw : StartTests) : State :=
  let s := (List.range 2).foldl (fun s d => (List.range 8).foldl (fun s c => s.setFld d c Fld.MC_DEGRADE_TRAINED 255) s) s
  let s := hw.failedDram.foldl (fun s x =>
    (s.setFld x.1 x.2.1 Fld.MC_DEGRADE_TRAINED (255 - 2 ^ x.2.2)).degrade x.1 x.2.1 x.2.2) s
  let s := hw.failedNand.foldl (fun s x => s.wkDegradeEffect x.1 (BitVec.ofNat 64 (2 ^ x.2))) s
  let s := hw.failedCores.foldl (fun s x => s.startCore x) s
  let s := hw.failedLanes.foldl (fun s l => s.setMap (if l < 24 then 0 else 1) (laneBit (l % 24)) true) s
  { s with start := { s.start with deadLanes := hw.failedLanes } }

/-! ### The end of start (R360, step 9) -/

/-- An automaton of the image is installed on a die (R354). -/
def State.startGram (s : State) (die : Nat) (g : Nat × GramObj) : State :=
  let o := g.2
  { s.nextFree with grams := alSet (die, g.1) ⟨o.anyCtx, o.ctx, o.states, o.start, o.alpha, 0, s.freeVal % 2 ^ 40, o.rows⟩ s.grams }

/-- A port is enabled, its next gate list made active (R360). -/
def State.startPort (s : State) (p : Nat) : State :=
  let d := portDie p
  let s := (List.range 64).foldl (fun s i => s.setReg d (p * 64 + i) Reg.CH_GATE_ACTIVE (s.reg d (p * 64 + i) Reg.CH_GATE_NEXT)) s
  let s := s.setFld d p Fld.CH_GATE_CTRL_GATE_EN (s.fld d p Fld.CH_GATE_CTRL_NEXT_GATE_EN)
  (s.setFld d p Fld.CH_GATE_CTRL_GATED (s.fld d p Fld.CH_GATE_CTRL_NEXT_GATED)).setPort p Port.idle

/-- The operating point at start: point 0, voltages at their maximum, refresh at 1× (R422). -/
def State.startPoint (s : State) (e : Envelope) : State :=
  match e.points with
  | [] => s
  | p :: _ => (s.setFld 0 0 Fld.HL_PLAN_STATUS_VCORE_MV p.vcoreMax).setFld 0 0 Fld.HL_PLAN_STATUS_VSRAM_MV p.vsramMax

/-- START of the run (R275): a free value. -/
def State.startValue (s : State) : State :=
  let v := s.freeVal % 2 ^ 32
  let s := { s.nextFree with net := { s.net with startVal := v } }
  (List.range 2).foldl (fun s d => (s.setFld d 0 Fld.GSP_CTRL_START_LO (v % 2 ^ 16)).setFld d 0 Fld.GSP_LAST_BAD_START_HI (v / 2 ^ 16)) s

/-- Step 9. -/
def State.startEnd (s : State) (img : Image) (hw : StartTests) : State :=
  let s := (List.range 2).foldl (fun s d => img.grammars.foldl (fun s g => s.startGram d g) s) s
  let s := ((s.startLamps hw 0).startLamps hw 1).startPoint img.envelope
  let s := (img.ports.map (·.port)).foldl (fun s p => s.startPort p) s.startValue
  let s := { s with start := { s.start with locked := true }
                    bcn := { s.bcn with enabledAt := s.now }
                    ev := { s.ev with lastStepEnd := s.now } }
  s.newLeads.setFld 0 0 Fld.GLB_MODE_SERVICE (b2n img.autoNormal)

/-! ### The sequence (R360 to R365) -/

/-- STATUS passes through the codes of the steps up to `n` (R360, R462). -/
def State.steps (s : State) (n : Nat) : State :=
  ([1, 1, 2, 3, 4, 4, 5, 6].take n).foldl (fun s v => s.setStatus v) s

/-- Start stops with a failure in a step (R364, R365): the J716 stays dark. -/
def State.startFail (s : State) (code step detail ms : Nat) : State :=
  let s := s.steps step
  let s := (s.setFld 0 0 Fld.GLB_START_DETAIL detail).setFld 0 0 Fld.GLB_START_STEP step
  (s.setFld 0 0 Fld.GLB_START_ELAPSED_MS ms).setStatus code

/-- The registers and structures that steps 4 to 9 build. -/
def State.started (s : State) (img : Image) (hw : StartTests) (a : Applied) : State :=
  let t := match a.s.layOut img 0 with
    | some t => (t.layOut img 1).getD t
    | none => a.s
  let t := (t.startUnits hw).startEnd img hw
  let t := (t.setFld 0 0 Fld.GLB_START_STEP 9).setFld 0 0 Fld.GLB_START_ELAPSED_MS hw.elapsedMs
  let t := { t with pins := s.pins }
  t.setStatus (if img.autoNormal then 8 else 7)

/-- Start from the release of RESET_N to step 9 or a failure (R360). The self-check of the ROM has no DETAIL of its own: a free
value. -/
def State.startRun (s : State) (img : Image) (hw : StartTests) : State :=
  let ms := hw.elapsedMs
  if !hw.romOk then s.nextFree.startFail 12 1 (s.freeVal % 2 ^ 32) ms
  else match imageFail s.ident.fuses.lc s.ident.fuses.floor img with
    | some (c, st, d) => s.startFail c st d ms
    | none =>
      let a := (s.putSections img).applyList img.registers
      match configFail img a with
      | some d => s.startFail 11 4 d ms
      | none => match memoryFail hw with
        | some u => s.startFail 12 5 u ms
        | none => match coreFail hw with
          | some u => s.startFail 12 8 u ms
          | none => (s.steps 8).started img hw { a with s := { a.s with pins := (s.steps 8).pins
                                                                        regs := regSet a.s.regs ⟨0, 0, 0, 0⟩ ((s.steps 8).reg 0 0 Reg.GLB_START) } }

/-- The clocks that run are shown (R451, R469). -/
def State.showClocks (s : State) (hw : StartTests) : State :=
  (s.setFld 0 0 Fld.BD_CLK_CORE_OK 1).setFld 0 0 Fld.BD_CLK_ETH_OK
    (((List.range 4).filter (fun q => hw.ethClks.contains q)).map (fun q => 2 ^ q)).sum

/-- POWER_ON_START (R348, R360): RESET_N is released with PWR_OK high. While a clock is out of limits, or a thermal
trip holds the clocks (R453), start does not begin. -/
def execPowerOnStart (t : Nat) (img : Image) (hw : StartTests) (s : State) : Res :=
  .next (if s.status ≠ 0 ∨ s.pins.released = true then s
    else
      let s := { s.tick t with pins := { s.pins with power := true, released := true } }
      if hw.clocksOk && !s.pins.tripped then (s.showClocks hw).startRun img hw else s)

/-- START_STEP_TIMEOUT (R360): a start whose step `step` has not finished by its limit; DETAIL is the step. -/
def execStartStepTimeout (t step : Nat) (s : State) : Res :=
  .next (if s.status ≠ 0 ∨ s.pins.released = true ∨ s.pins.tripped = true ∨ step = 0 ∨ 9 < step then s
    else
      let limit := ([20, 380, 420, 600, 2600, 3600, 3900, 4900, 5200] : List Nat).getD (step - 1) 0
      let s := { s.tick t with pins := { s.pins with power := true, released := true } }
      s.startFail 14 step step limit)

/-! ### Service (R363) -/

/-- A session that is not FREE stands without DENSE. -/
def State.looseSession (s : State) : Bool := s.ses.recs.any (fun p => p.2.st != .free && !p.2.dense)

/-- The effect of a write of GLB_MODE (R363). -/
def State.modeEffect (s : State) (v : Word) : State :=
  let s := s.setFld 0 0 Fld.GLB_MODE_REFUSED (if getBits v 1 1 = 1 then 0 else s.fld 0 0 Fld.GLB_MODE_REFUSED)
  if s.up = false then s
  else if getBits v 0 0 = 1 then (s.setFld 0 0 Fld.GLB_MODE_SERVICE 1).setStatus 8
  else if s.looseSession then s.setFld 0 0 Fld.GLB_MODE_REFUSED 1
  else (s.setFld 0 0 Fld.GLB_MODE_SERVICE 0).setStatus 7

/-- GLB_MODE_WRITE (R363). -/
def execGlbModeWrite (a : Acc) (v : Word) (s : State) : Res :=
  .next (s.regWrite a (rowOf Reg.GLB_MODE) v none (fun s _ => s.modeEffect v))

end Sys2Proof.Machine
end

