-- ==== Sys2Proof/Machine/Identity.lean ====
section
/-! DEFINITION. Identity, attestation and life-cycle (R367 to R381): the report, the life-cycle commands, key generations and JTAG. -/

namespace Sys2Proof.Machine

/-- The life-cycle state in force (R375). -/
def State.lc (s : State) : Nat := s.fld 0 0 Fld.SEAL_LC_STATE

/-- SCRUB_ALL passed in this run (R377). -/
def State.scrubbed (s : State) : Bool := s.fld 0 0 Fld.SEAL_LC_SCRUBBED == 1

/-- A report or a command runs (R377). -/
def State.sealBusy (s : State) : Bool := s.ident.signing.isSome || s.ident.cmd.isSome

/-! ### The report (R369, R370) -/

/-- A public key's bytes, by window object (R368, R381). -/
def keyBytes (object : Nat) : List Byte :=
  (List.range (if object = 3 then 1952 else if object = 5 then 1568 else 97)).map (Config.publicKey object)

/-- The two digests against which the running image verified (R353). -/
def State.signerDigests (s : State) : List Byte :=
  let d := fun (i : Nat) =>
    if s.start.img.sigRoot = 0 then Config.makerDigest i else Config.ownerDigest (if s.ident.fuses.valid1 then 1 else 0) i
  be 48 (d 0) ++ be 48 (d 1)

/-- HL_MAP of both dies, as UNIT_MAP. -/
def State.unitMap (s : State) : List Byte :=
  ((List.range 8).map (fun i => le 8 (s.reg (i / 4) 0 (mapReg (64 * (i % 4)))).toNat)).flatten

/-- The body of a report of a KIND, taken now (R370). -/
def State.reportBody (s : State) (kind : Nat) : List Byte :=
  let only := fun (v : Nat) => if kind = 1 then v else 0
  (([0x52, 0x49, 0x4C, 0x46, 0x45, 0x59, 0x53, 0x31] : List Byte) ++ le 2 1 ++ le 1 kind ++ le 1 s.lc)
    ++ (le 4 s.start.img.svn ++ le 4 s.ident.fuses.floor ++ le 4 s.start.img.fwVersion
      ++ le 8 s.start.img.buildId0 ++ le 8 s.start.img.buildId1 ++ le 16 Config.serial)
    ++ (le 8 s.pos ++ le 8 s.boundary ++ le 8 s.ieee ++ le 4 s.net.startVal ++ le 4 (s.ident.reports + 1))
    ++ ((List.range 4).map (fun i => le 8 (s.reg 0 0 ⟨0x0E, 0x010 + 8 * i⟩).toNat)).flatten
    ++ (be 48 s.start.img.digest ++ be 48 s.configDigest ++ be 48 (Config.sha384 s.signerDigests) ++ s.unitMap)
    ++ (le 8 (only s.ident.scrubPos) ++ le 8 (only s.ident.scrubT1) ++ le 8 (only s.ident.scrubSram) ++ le 8 (only s.ident.scrubSkip))
    ++ (be 48 (Config.sha384 (keyBytes 2)) ++ be 48 (Config.sha384 (keyBytes 3))
      ++ be 48 (Config.sha384 (keyBytes 4 ++ keyBytes 5)) ++ zeros 8)

/-- `n` bytes of a signature of a message under one of the identity keys: 2 the EC key, 3 the ML key (log 9). -/
def signed (key n : Nat) (body : List Byte) : List Byte :=
  (List.range n).map (fun i => (Config.signature key body).getD i 0)

/-- The 3,968 bytes of a report (R370). -/
def reportBytes (body : List Byte) : List Byte := body ++ signed 2 96 body ++ signed 3 3309 body ++ zeros 51

/-- A report may be asked for: by a supervisor, an endpoint with the CS right, or the sideband (R369). -/
def mayReport : Requester → Bool
  | .core _ code => code == 9
  | .ep _ | .sideband => true
  | .jtag | .start => false

/-- A refused report or command is counted. -/
def State.lcRefuse (s : State) (f : Field) (status : Nat) : State := (s.setFld 0 0 f status).bump 0 0 Fld.SEAL_COUNTS_LC_REFUSED

/-- GO of SEAL_RPT_CTRL (R369, R377). -/
def State.reportGo (s : State) (rq : Requester) (kind : Nat) : State :=
  let s := { s with ident := { s.ident with report := [] } }
  if s.sealBusy then s.lcRefuse Fld.SEAL_RPT_CTRL_STATUS St.busyRetry
  else if !mayReport rq || (if kind = 0 then s.lc == 4 else !s.scrubbed) then s.lcRefuse Fld.SEAL_RPT_CTRL_STATUS St.denied
  else { s with ident := { s.ident with signing := some (kind, s.reportBody kind) } }.setFld 0 0 Fld.SEAL_RPT_CTRL_BUSY 1

/-- The effect of a write of SEAL_RPT_CTRL. -/
def State.reportEffect (s : State) (rq : Requester) (v : Word) : State :=
  let s := s.store 0 0 (rowOf Reg.SEAL_RPT_CTRL) v
  if getBits v 63 63 = 1 then s.reportGo rq (getBits v 61 61) else s

/-- REPORT_STATE (R369). -/
def execReportState (a : Acc) (v : Word) (s : State) : Res :=
  .next (s.regWrite a (rowOf Reg.SEAL_RPT_CTRL) v none (fun s _ => s.reportEffect a.rq v))

/-- REPORT_SCRUB (R369, R377). -/
def execReportScrub (a : Acc) (v : Word) (s : State) : Res :=
  .next (s.regWrite a (rowOf Reg.SEAL_RPT_CTRL) v none (fun s _ => s.reportEffect a.rq v))

/-- Signing ends: the report stands in window object 0 (R369, R370). -/
def State.reportEnd (s : State) : State :=
  match s.ident.signing with
  | none => s
  | some (kind, body) =>
    let s := { s with ident := { s.ident with
      signing := none, report := reportBytes body, reports := s.ident.reports + 1
      scrubDigest := if kind = 1 then some (Config.sha384 body) else s.ident.scrubDigest } }
    ((s.setFld 0 0 Fld.SEAL_RPT_CTRL_BUSY 0).setFld 0 0 Fld.SEAL_RPT_CTRL_STATUS St.done).setFld 0 0 Fld.SEAL_RPT_CTRL_SEQ
      s.ident.reports

/-- REPORT_DONE (R369). -/
def execReportDone (t : Nat) (s : State) : Res := .next (if s.running then (s.tick t).reportEnd else s)

/-! ### The life-cycle commands (R377 to R379) -/

/-- What the package and the fuse rows of a command give. -/
structure LcOutcome where
  prov : ProvPkg
  ret : ReturnPkg
  readBackOk : Bool
  deriving DecidableEq, Repr

/-- No package. -/
def LcOutcome.bare (readBackOk : Bool) : LcOutcome := ⟨⟨false, readBackOk⟩, ⟨false, false, 0, 0, readBackOk⟩, readBackOk⟩

/-- A command may come from a supervisor, an endpoint with the CS right, and in MANUFACTURE over JTAG (R377). -/
def State.mayCommand (s : State) : Requester → Bool
  | .core _ code => code == 9
  | .ep _ => true
  | .jtag => s.lc == 0
  | .sideband | .start => false

/-- Every slot is FREE with SCRUB_PENDING clear (R377). -/
def State.allFree (s : State) : Bool := s.ses.recs.all (fun p => p.2.st == .free && !p.2.scrubPending)

/-- The state and the precondition that a command asks for (R377). -/
def State.lcAllows (s : State) (cmd : Nat) : Bool :=
  if cmd = 1 then s.lc == 0
  else if cmd = 2 then s.lc == 1
  else if cmd = 3 then s.lc == 2
  else if cmd = 4 then (s.lc == 1 || s.lc == 2) && s.allFree
  else if cmd = 5 then (s.lc == 1 || s.lc == 2) && s.scrubbed
  else cmd == 6 && s.lc != 4

/-- A command ends with a status (R377). -/
def State.lcEnd (s : State) (status : Nat) : State :=
  ({ s with ident := { s.ident with cmd := none } }.setFld 0 0 Fld.SEAL_LC_CMD_BUSY 0).setFld 0 0 Fld.SEAL_LC_CMD_STATUS status

/-- Fuses are burned (R380). -/
def State.burn (s : State) (f : Fuses) : State :=
  { s with ident := { s.ident with fuses := f } }.raise 0 0x79 { a0 := s.ident.fuses.lc, a1 := f.lc }

/-- The state in force becomes `lc` at once. -/
def State.inForce (s : State) (lc : Nat) : State := s.setFld 0 0 Fld.SEAL_LC_STATE lc

/-- PROVISION (R377, R378): the lowest slot without USED. Rows that do not read back leave it without VALID. -/
def State.provision (s : State) (len : Nat) (p : ProvPkg) : State :=
  let f := s.ident.fuses
  if f.used0 = true ∧ f.used1 = true then s.lcRefuse Fld.SEAL_LC_CMD_STATUS St.limit
  else if len ≠ 1816 ∨ p.tagOk = false then s.lcRefuse Fld.SEAL_LC_CMD_STATUS St.integrity
  else
    let g := if f.used0 then { f with used1 := true, valid1 := f.valid1 || p.readBackOk }
      else { f with used0 := true, valid0 := f.valid0 || p.readBackOk }
    if p.readBackOk then (s.burn { g with lc := max f.lc 1 }).lcEnd St.done else (s.burn g).lcEnd St.integrity

/-- The floor a command burns (R377). -/
def State.newFloor (s : State) : Nat := max s.ident.fuses.floor (min s.start.img.svn 64)

/-- Fuse rows of the floor that do not read back: what they hold lies between the old floor and the new one, a free value. -/
def State.burnFloorBadly (s : State) : State :=
  let f := s.ident.fuses
  ((s.burn { f with floor := f.floor + s.freeVal % (s.newFloor - f.floor + 1) }).nextFree).lcEnd St.integrity

/-- DEPLOY (R377). -/
def State.deploy (s : State) (readBackOk : Bool) : State :=
  let f := s.ident.fuses
  if readBackOk then ((s.burn { f with floor := s.newFloor, lc := max f.lc 2 }).inForce 2).lcEnd St.done else s.burnFloorBadly

/-- RAISE_SVN (R377). -/
def State.raiseSvn (s : State) (readBackOk : Bool) : State :=
  let f := s.ident.fuses
  if s.newFloor = f.floor then s.lcRefuse Fld.SEAL_LC_CMD_STATUS St.limit
  else if readBackOk then (s.burn { f with floor := s.newFloor }).lcEnd St.done else s.burnFloorBadly

/-- SRAM registers that SCRUB_ALL clears: the tallies' values, bounds, thresholds and descriptors (R309). -/
def State.clearTallies (s : State) : State :=
  { s with regs := s.regs.filter (fun (p : RegKey × Word) =>
      !((rowOf ⟨p.1.blk, p.1.off⟩).sel == .tally)) }

/-- What SCRUB_ALL overwrites (R377, steps 3 and 4): every lamplighter halts, T1 and SRAM hold zeros. -/
def State.scrubAll (s : State) : State :=
  let s := (List.range 2).foldl (fun s d =>
    let s := (List.range 9).foldl (fun s c =>
      if s.coreUp d c then (s.setCore { s.core d c with halted := true, asleep := none }).abandonService d c else s) s
    (s.setFld d 0 Fld.LP_STATUS_LAMP_UP 0).setFld d 0 Fld.LP_STATUS_SPARE_IN 0) s
  let s := s.clearTallies
  { s with ident := { s.ident with closed := true, cmd := some 4 }
           kv := { s.kv with leaves := [], shared := [], staging := [], areas := [], copies := [], tlb := [], walkCache := [] }
           attn := { s.attn with results := [], groups := [] }
           grams := []
           lamp := { s.lamp with scrubs := [] }
           ev := { s.ev with ring0 := [], ring1 := [] }
           tier := { s.tier with moves := [], err0 := [], err1 := [], t1a := [], t1b := [] } }.setFld 0 0 Fld.SEAL_LC_CMD_BUSY 1

/-- RETURN (R377, R379). -/
def State.lcReturn (s : State) (len : Nat) (p : ReturnPkg) : State :=
  if len ≠ 17136 ∨ (p.keysOk && p.sigsOk && p.serial == Config.serial && s.ident.scrubDigest == some p.digest) = false then
    s.lcRefuse Fld.SEAL_LC_CMD_STATUS St.integrity
  else if p.readBackOk then ((s.burn { s.ident.fuses with rootKill := true, lc := max s.ident.fuses.lc 3 }).inForce 3).lcEnd St.done
  else (s.burn s.ident.fuses).lcEnd St.integrity

/-- SCRAP (R377): in force from the next start. -/
def State.scrap (s : State) (readBackOk : Bool) : State :=
  if readBackOk then (s.burn { s.ident.fuses with rootKill := true, lc := max s.ident.fuses.lc 4 }).lcEnd St.done
  else (s.burn s.ident.fuses).lcEnd St.integrity

/-- GO of SEAL_LC_CMD (R377). -/
def State.lcGo (s : State) (rq : Requester) (cmd len : Nat) (o : LcOutcome) : State :=
  if s.sealBusy then s.lcRefuse Fld.SEAL_LC_CMD_STATUS St.busyRetry
  else if !s.mayCommand rq || !s.lcAllows cmd then s.lcRefuse Fld.SEAL_LC_CMD_STATUS St.denied
  else if cmd = 1 then s.provision len o.prov
  else if cmd = 2 then s.deploy o.readBackOk
  else if cmd = 3 then s.raiseSvn o.readBackOk
  else if cmd = 4 then s.scrubAll
  else if cmd = 5 then s.lcReturn len o.ret
  else s.scrap o.readBackOk

/-- The effect of a write of SEAL_LC_CMD. -/
def State.lcEffect (s : State) (rq : Requester) (v : Word) (o : LcOutcome) : State :=
  let s := s.store 0 0 (rowOf Reg.SEAL_LC_CMD) v
  if getBits v 63 63 = 1 then s.lcGo rq (getBits v 58 56) (getBits v 31 0) o else s

/-- A word of window object 1 (R381). -/
def State.pkgWord (s : State) (i : Nat) : Word := (alGet i s.ident.pkg).getD 0

/-- Bytes `a` to `a + n - 1` of window object 1. -/
def State.pkgBytes (s : State) (a n : Nat) : List Byte :=
  (((List.range ((a + n + 7) / 8)).map (fun i => le 8 (s.pkgWord i).toNat)).flatten.drop a).take n

/-- What a command's package and rows give when the command comes as a plain register write: the package stands in window object
1, its cryptographic checks and the read-back are free (log 6, log 9). -/
def State.lcOutcome (s : State) : LcOutcome :=
  let rb := s.freeVal % 2 == 0
  { prov := ⟨(s.pkgBytes 97 7).all (· == 0) && Config.verifies 4 (s.pkgBytes 0 1816), rb⟩
    ret := { keysOk := Config.sha384 (s.pkgBytes 0 388) == Config.makerDigest 0 && Config.sha384 (s.pkgBytes 388 48) == Config.makerDigest 1
             sigsOk := s.pkgBytes 448 8 == ([0x47, 0x4A, 0x37, 0x31, 0x36, 0x52, 0x54, 0x4E] : List Byte)
               && (s.pkgBytes 520 8).all (· == 0) && Config.verifies 0 (s.pkgBytes 0 17136)
             serial := leNat (s.pkgBytes 456 16), digest := beNat (s.pkgBytes 472 48), readBackOk := rb }
    readBackOk := rb }

/-- A write of SEAL_LC_CMD as a command. -/
def State.lcWrite (s : State) (a : Acc) (v : Word) (o : LcOutcome) : State :=
  s.regWrite a (rowOf Reg.SEAL_LC_CMD) v none (fun s _ => s.lcEffect a.rq v o)

/-- PROVISION (R377, R378). -/
def execProvision (a : Acc) (v : Word) (p : ProvPkg) (s : State) : Res :=
  .next (s.lcWrite a v { LcOutcome.bare p.readBackOk with prov := p })

/-- DEPLOY (R377). -/
def execDeploy (a : Acc) (v : Word) (readBackOk : Bool) (s : State) : Res := .next (s.lcWrite a v (LcOutcome.bare readBackOk))

/-- RAISE_SVN (R377). -/
def execRaiseSvn (a : Acc) (v : Word) (readBackOk : Bool) (s : State) : Res := .next (s.lcWrite a v (LcOutcome.bare readBackOk))

/-- SCRUB_ALL (R377). -/
def execScrubAll (a : Acc) (v : Word) (s : State) : Res := .next (s.lcWrite a v (LcOutcome.bare true))

/-- The scrub ends (R377, R380). -/
def State.scrubEnd (s : State) (pass : Bool) (t1 sram skip : Nat) : State :=
  if s.ident.cmd = none then s
  else
    let s := if pass then
        { s with ident := { s.ident with scrubPos := s.pos, scrubT1 := t1, scrubSram := sram, scrubSkip := skip } }.setFld 0 0
          Fld.SEAL_LC_SCRUBBED 1
      else s
    (s.lcEnd (if pass then St.done else St.integrity)).raise 0 0x7A { a0 := b2n pass }

/-- SCRUB_ALL_DONE (R377). -/
def execScrubAllDone (t : Nat) (pass : Bool) (t1Bytes sramBytes skipBytes : Nat) (s : State) : Res :=
  .next (if s.running then (s.tick t).scrubEnd pass t1Bytes sramBytes skipBytes else s)

/-- RETURN (R377, R379). -/
def execLcReturn (a : Acc) (v : Word) (p : ReturnPkg) (s : State) : Res :=
  .next (s.lcWrite a v { LcOutcome.bare p.readBackOk with ret := p })

/-- SCRAP (R377). -/
def execScrap (a : Acc) (v : Word) (readBackOk : Bool) (s : State) : Res := .next (s.lcWrite a v (LcOutcome.bare readBackOk))

/-! ### Key generations (R373) -/

/-- A reassembly runs under generation `gen` of item `x` (a context, or 65,536 + endpoint). -/
def Reasm.under (r : Reasm) (x gen : Nat) : Bool :=
  r.key.keyGen == gen && (if r.key.ekey then x == 65536 + r.key.ep else x == r.key.ctx)

/-- ADVANCE (R373). -/
def State.advanceKey (s : State) (x : Nat) : State :=
  let cur := s.fld 0 x Fld.SEAL_KEYGEN_CUR
  if s.fld 0 x Fld.SEAL_KEYGEN_PREV_LIVE = 1 ∨ cur = 255 then s.setFld 0 x Fld.SEAL_KEYGEN_REFUSED 1
  else (((s.setFld 0 x Fld.SEAL_KEYGEN_REFUSED 0).setFld 0 x Fld.SEAL_KEYGEN_CUR (cur + 1)).setFld 0 x
    Fld.SEAL_KEYGEN_PREV_LIVE 1).raise 0 0x7B { a0 := x, a1 := cur + 1 }

/-- RETIRE_PREV (R373). -/
def State.retireKey (s : State) (x : Nat) : State :=
  let cur := s.fld 0 x Fld.SEAL_KEYGEN_CUR
  let live := s.fld 0 x Fld.SEAL_KEYGEN_PREV_LIVE = 1
  let s := { s with net := { s.net with reasm := if live then s.net.reasm.filter (fun (r : Reasm) => !r.under x (cur - 1)) else s.net.reasm } }
  (s.setFld 0 x Fld.SEAL_KEYGEN_PREV_LIVE 0).raise 0 0x7B { a0 := x, a1 := cur }

/-- The effect of a write of SEAL_KEYGEN on die 0 (R373, R381): ADVANCE, then RETIRE_PREV. -/
def State.keygenEffect (s : State) (die x : Nat) (v : Word) : State :=
  if die ≠ 0 then s
  else
    let s := s.store 0 x (rowOf Reg.SEAL_KEYGEN) v
    let s := if getBits v 63 63 = 1 then s.advanceKey x else s
    if getBits v 62 62 = 1 then s.retireKey x else s

/-- ADVANCE (R373). -/
def execAdvance (a : Acc) (v : Word) (s : State) : Res :=
  .next (s.regWrite a (rowOf Reg.SEAL_KEYGEN) v none (fun s x => s.keygenEffect a.die x v))

/-- RETIRE_PREV (R373). -/
def execRetirePrev (a : Acc) (v : Word) (s : State) : Res :=
  .next (s.regWrite a (rowOf Reg.SEAL_KEYGEN) v none (fun s x => s.keygenEffect a.die x v))

/-! ### JTAG (R376) -/

/-- The port accepts an instruction. -/
def State.jtagTakes (s : State) (i : JtagInstr) : Bool :=
  s.jtagOpen || match i with
    | .idcode | .bypass => true
    | .sample => s.lc != 4
    | .extest => s.lc != 4 && !s.pins.released
    | .maker _ => false

/-- JTAG_INSTRUCTION (R376): an instruction that is accepted is in force; Ibgar's own have no effect in the spec. -/
def execJtagInstruction (t die : Nat) (i : JtagInstr) (s : State) : Res :=
  if s.pins.power = false ∨ 2 ≤ die ∨ s.jtagTakes i = false then .next (s.tick t)
  else match i with
    | .maker _ => .refused .makerInstruction
    | .idcode | .bypass | .sample | .extest =>
      let s := s.tick t
      .next { s with pins := { s.pins with jtag := alSet die i s.pins.jtag } }

end Sys2Proof.Machine
end

