-- ==== Sys2Proof/Machine/CkptCmds.lean ====
section
/-! DEFINITION. The commands of checkpoints (R382 to R401): taking, discarding, copying, and RESTORE. -/

namespace Sys2Proof.Machine

/-! ### CHECKPOINT (R395, R396) -/

/-- The 24-byte response of CHECKPOINT (R395). -/
def ckptBody (id mark slot kind : Nat) : List Byte := be 8 id ++ be 8 mark ++ be 1 slot ++ be 1 kind ++ zeros 6

/-- The slot of a checkpoint (R393). -/
def State.ckptSlot (s : State) (id : Nat) : Nat := id % max 1 (s.fld 0 0 Fld.CK_CTRL_KEEP)

/-- A refusal of CHECKPOINT. -/
def State.ckptRefuse (s : State) (e : Env) (status reason : Nat) : State := s.answer e 0x0F status reason (zeros 24)

/-- The mark that a checkpoint planned now gets (R382). -/
def State.plannedMark (s : State) : Nat := if s.fires then (s.est / 256 + 1) * 256 else s.est

/-- OP TAKE (R382, R383, R395). -/
def State.take (s : State) (e : Env) : State :=
  if s.ckptOn = false ∨ s.ckptBusy then s.ckptRefuse e St.busyRetry 0
  else
    let id := s.nextCkpt
    (s.answer e 0x0F St.done 0 (ckptBody id (linToOrd s.layers s.plannedMark) (s.ckptSlot id) 2)).planCkpt 2 0

/-- OP DISCARD (R393, R395, R396). -/
def State.discardMsg (s : State) (e : Env) (id : Nat) : State :=
  if s.ckpt.retained.contains id && !(match s.ckpt.run with | some r => r.id == id | none => false) then
    let mark := ((s.ckpt.snaps.find? (fun x => x.id == id)).map (·.mark)).getD 0
    let kind := ((s.ckpt.heads.find? (fun x => x.id == id)).map (·.kind)).getD 0
    (s.discard id).answer e 0x0F St.done 0 (ckptBody id (linToOrd s.layers mark) (s.ckptSlot id) kind)
  else s.ckptRefuse e St.badFrame 0x81

/-- CHECKPOINT (R395): the role, the fields, then the operation. -/
def State.ckptMsg (s : State) (e : Env) (op rsv id : Nat) : State :=
  if s.role e.ep ≠ 3 then s.ckptRefuse e St.denied 0
  else if 2 ≤ op ∨ rsv ≠ 0 ∨ (op = 0 ∧ id ≠ 0) then s.ckptRefuse e St.badFrame 0x80
  else if op = 0 then s.take e
  else s.discardMsg e id

/-- CHECKPOINT with OP TAKE, or a reserved OP (R382, R395). -/
def execCheckpointTake (e : Env) (m : CkptMsg) (s : State) : Res :=
  .next (s.message e (.checkpointTake e m) 0x0F none (zeros 24) (fun s => s.ckptMsg e m.op m.zero m.ckptId))

/-- CHECKPOINT with OP DISCARD (R393, R395). -/
def execCheckpointDiscard (e : Env) (m : CkptMsg) (s : State) : Res :=
  .next (s.message e (.checkpointDiscard e m) 0x0F none (zeros 24) (fun s => s.ckptMsg e 1 m.zero m.ckptId))

/-- CHECKPOINT_CUT (R384, R385). -/
def execCheckpointCut (t : Nat) (s : State) : Res := .next (if s.running then (s.tick t).cutDue else s)

/-! ### Copying (R390 to R394) -/

/-- CBW_SPACE_FREED (R391): the copy has taken `units` stripe units out of a die's buffer. -/
def execCbwSpaceFreed (t die units : Nat) (s : State) : Res :=
  .next (if s.running && s.ckpt.run.isSome && decide (die < 2) then (s.tick t).lower die 0 Fld.CK_CBW_USE_KIB (28 * units) else s)

/-- A shard is DONE (R392): its header, then the next shard of its die. -/
def State.shardEnd (s : State) (r : CkptRun) (x : Snap) (shard bodyLen die : Nat) : State :=
  let s := s.putHead { openHead r x s.layers shard with done := true, bodyLen }
  let left := (if die = 0 then r.order0 else r.order1).drop 1
  let r := if die = 0 then { r with order0 := left } else { r with order1 := left }
  let s := { s with ckpt := { s.ckpt with run := some r } }
  match left with
  | [] => s.setFld die 0 Fld.CK_CBW_USE_KIB 0
  | n :: _ =>
    let s := s.putHead (openHead r x s.layers n)
    if die = 0 then s.setFld 0 0 Fld.CK_STATUS_SHARD n else s

/-- The checkpoint is complete when no shard is left (R393). -/
def State.ckptComplete (s : State) (x : Snap) : State :=
  match s.ckpt.run with
  | none => s
  | some r =>
    if r.order0.isEmpty && r.order1.isEmpty then
      let s := { s with ckpt := { s.ckpt with run := none, early := [] } }
      let s := ((s.setFld 0 0 Fld.CK_STATUS_BUSY 0).setReg 0 0 Reg.CK_RUN 0).setReg 0 0 Reg.CK_LAST (BitVec.ofNat 64 r.id)
      (s.setReg 0 0 Reg.CK_LAST_MARK (BitVec.ofNat 64 (linToOrd s.layers x.mark))).raise 0 0x81 { a0 := r.id }
    else s

/-- A shard's copy ends (R392, R394). -/
def State.shardDone (s : State) (shard bodyLen : Nat) (readFail : Option Nat) (sent : Bool) : State :=
  match s.ckpt.run with
  | none => s
  | some r =>
    let die := if shard < 8 ∨ shard = 16 then 0 else 1
    if (if die = 0 then r.order0 else r.order1).head? ≠ some shard then s
    else match s.ckpt.snaps.find? (fun x => x.id == r.id), readFail with
      | some x, none =>
        if s.fld 0 0 Fld.CK_SHARD_BYTES < 4096 + bodyLen then s.failCkpt 4 0
        else if !sent then s.failCkpt 2 0
        else (s.shardEnd r x shard bodyLen die).ckptComplete x
      | _, some a => s.failCkpt 1 a
      | none, none => s

/-- SHARD_DONE (R392 to R394). -/
def execShardDone (t shard bodyLen : Nat) (readFail : Option Nat) (sent : Bool) (s : State) : Res :=
  .next (if s.running then (s.tick t).shardDone shard bodyLen readFail sent else s)

/-! ### RESTORE (R395, R397, R398) -/

/-- A set is complete: 18 DONE headers with one CKPT_ID and one MARK (R398). -/
def State.completeSet (s : State) (id : Nat) : Bool :=
  (List.range 18).all (fun j => s.ckpt.heads.any (fun h => h.id == id && h.shard == j && h.done))

/-- The complete sets, in ascending ID. -/
def State.completeSets (s : State) : List Snap :=
  let ids := (s.ckpt.heads.map (·.id)).eraseDups.filter (fun n => s.completeSet n)
  let sorted := ids.foldl (fun (l : List Nat) n => l.takeWhile (fun m => decide (m < n)) ++ [n] ++ l.dropWhile (fun m => decide (m < n))) []
  sorted.filterMap (fun n => s.ckpt.snaps.find? (fun x => x.id == n))

/-- The response of RESTORE (R395). The complete sets are listed with MIXED_STEPS only (R398). -/
def State.restoreBody (s : State) (id mark detail : Nat) (sets : List Snap) : List Byte :=
  be 8 id ++ be 8 mark ++ be 1 sets.length ++ zeros 7 ++ be 8 detail
    ++ (sets.map (fun x => be 8 x.id ++ be 8 (linToOrd s.layers x.mark))).flatten

/-- The set that a RESTORE names (R398). -/
def State.chooseSet (s : State) (id : Nat) : Option Snap :=
  let n := if id = 0 then (s.ckpt.heads.map (·.id)).foldl max 0 else id
  s.completeSets.find? (fun x => x.id == n)

/-- The first saved stripe unit that is retired here (R397, step 8): die and unit number. -/
def State.retiredUnit (s : State) (x : Snap) : Option (Nat × Nat) :=
  x.units.find? (fun u => s.isRetired u.1 (u.2 % 8) (u.2 / 8))

/-- The first KEY_CHECK value that differs (R397, step 7). -/
def State.keyDiff (s : State) (x : Snap) : Option Nat :=
  (x.keys.find? (fun k => s.keyChecks.any (fun j => j.1 == k.1 && j.2 != k.2) || !s.keyChecks.any (fun j => j.1 == k.1))).map (·.1)

/-- The recording in the area fits the set and this J716 (R437). -/
def State.replayFits (s : State) (x : Snap) : Bool :=
  s.fld 0 0 Fld.RP_CTRL_MODE != 2
    || (s.rp.area.state == 2 && s.rp.area.ckptId == x.id && s.rp.area.fw == s.start.img.fwVersion)

/-- DETAIL of a DENIED restore: R397's cause and item. -/
def State.restoreDenied (s : State) (x : Snap) : Option Nat :=
  if x.digest ≠ s.configDigest then some 4
  else match s.keyDiff x with
    | some c => some (5 + 256 * c)
    | none => match s.retiredUnit x with
      | some (d, u) => some (6 + 256 * u + 2 ^ 63 * d)
      | none => if s.replayFits x then none else some 8

/-- RESTORE is checked (R397). -/
def State.restoreCheck (s : State) (id : Nat) : Sum (Nat × Nat) Snap :=
  if s.allFree = false then .inl (St.denied, 1)
  else if s.flash.segs.any (fun x => x.st != .free && x.st != .retired) || !s.flash.seqs.isEmpty || !s.flash.indexes.isEmpty then
    .inl (St.denied, 2)
  else if s.ckptBusy ∨ s.ckpt.restore.isSome then .inl (St.denied, 3)
  else if (s.firstPath (s.fld 0 0 Fld.CK_AREA_EP)).isNone then .inl (St.denied, 7)
  else match s.chooseSet id with
    | none => .inl (St.mixedSteps, 0)
    | some x => match s.restoreDenied x with
      | some d => .inl (St.denied, d)
      | none => .inr x

/-- RESTORE (R395 to R399): a load that starts is answered when it ends. -/
def State.restoreMsg (s : State) (e : Env) (rsv id : Nat) : State :=
  if s.role e.ep ≠ 3 then s.answer e 0x10 St.denied 0 (s.restoreBody 0 0 0 [])
  else if rsv ≠ 0 then s.answer e 0x10 St.badFrame 0x80 (s.restoreBody 0 0 0 [])
  else match s.restoreCheck id with
    | .inl (st, d) => s.answer e 0x10 st 0 (s.restoreBody 0 0 d (if st = St.mixedSteps then s.completeSets else []))
    | .inr x => { s with ckpt := { s.ckpt with restore := some (e, x.id) } }.setFld 0 0 Fld.CK_STATUS_RESTORING 1

/-- RESTORE (R397). -/
def execRestore (e : Env) (m : CkptMsg) (s : State) : Res :=
  .next (s.message e (.restore e m) 0x10 none (s.restoreBody 0 0 0 []) (fun s => s.restoreMsg e m.zero m.ckptId))

/-! ### The end of a restore (R399) -/

/-- The bits of a register that a checkpoint brings back (R388): RW fields, the counts of part 3, and the tallies whole. RP_CTRL
keeps its own, and so does a register with a copy for each requester (R474). -/
def restoredBits (r : RegId) : Word :=
  if r = Reg.RP_CTRL ∨ (rowOf r).sel = .requester then 0
  else if r = Reg.TL_VALUE ∨ r = Reg.TL_DESC ∨ r = Reg.TL_PAIR ∨ r = Reg.TL_EXPECT then bitMask 63 0
  else (rowOf r).rwMask ||| (
    if r = Reg.CTX_USE_T1 ∨ r = Reg.CTX_USE_T2 ∨ r = Reg.CTX_USE_T3 ∨ r = Reg.TR_FREE_T1 ∨ r = Reg.TR_FREE_T2 ∨ r = Reg.TR_FREE_T3 then
      bitMask 43 0
    else if r = Reg.CTX_STATE then bitMask 63 44
    else if r = Reg.ATN_CTX_RES then bitMask 47 24
    else if r = Reg.XL_SPT_USE ∨ r = Reg.ATN_STORE_USE then bitMask 23 0
    else 0)

/-- One register comes back. -/
def State.restoreReg (s : State) (x : Snap) (k : RegKey) : State :=
  let m := restoredBits ⟨k.blk, k.off⟩
  { s with regs := regSet s.regs k ((regGet s.regs k &&& ~~~m) ||| (regGet x.regs k &&& m)) }

/-- The register records and counts (R399, step 2); CTX_USE_T0 becomes 0. -/
def State.restoreRegs (s : State) (x : Snap) : State :=
  let s := ((x.regs.map (·.1)) ++ (s.regs.map (·.1))).foldl (fun s k => s.restoreReg x k) s
  (s.start.img.contexts.map (·.id)).foldl (fun s c =>
    (List.range 2).foldl (fun s d => (List.range 4).foldl (fun s t => s.quotaTest d c t) (s.setFld d c Fld.CTX_USE_T0_USE 0)) s) s

/-- A result as a restore finds it: what had not been returned waits again, and a request that had not ended starts over (R386,
R389, R400). -/
def Result.restored (r : Result) : Result :=
  let r := { r with delivery := if r.firstRet.isSome then Delivery.fetchOnly else match r.delivery with
    | .fetchOnly => .fetchOnly
    | .waiting | .queued | .started => .waiting }
  if r.complete then r
  else { r with running := [], units := r.units.map (fun (u : AttnUnit) => { u with st := .queued, parts := [] }) }

/-- The structures of a checkpoint take their places (R386, R388, R399). T0 copies, and moves and searches that ran, are not in
it. -/
def State.restoreData (s : State) (x : Snap) : State :=
  { s with ses := x.ses, grams := x.grams
           kv := { x.kv with copies := [], tlb := [], walkCache := [] }
           attn := { s.attn with results := x.results.map Result.restored, groups := [], nextOrder := x.nextOrder }
           flash := { x.flash with searches := [], gcs := [], nextQid := s.flash.nextQid }
           tier := { s.tier with t1a := x.t1a, t1b := x.t1b } }

/-- The boundary count (R399, step 3). -/
def State.restoreBoundary (s : State) (saved : Nat) : State :=
  let cur := s.boundary
  if cur < saved then s.setFld 0 0 Fld.SES_BOUNDARY_COUNT saved
  else { s with ses := { s.ses with recs := s.ses.recs.map (fun (p : Nat × Session) =>
      if p.2.st.leased then (p.1, { p.2 with leaseEnd := p.2.leaseEnd + (cur - saved) }) else p) } }

/-- PINS and the retained checkpoints from every complete set (R399, step 4). -/
def State.restorePins (s : State) : State :=
  let sets := s.completeSets
  let pins := fun (x : Seg) => (sets.filter (fun y => y.pins.contains (x.die, x.group, x.seg))).length
  { s with flash := { s.flash with segs := s.flash.segs.map (fun (x : Seg) => { x with pins := pins x }) }
           ckpt := { s.ckpt with retained := sets.map (·.id), nextId := some ((s.ckpt.heads.map (·.id)).foldl max 0 + 1) } }

/-- Every wake latch is cleared and every armed counter tested (R399, step 2). -/
def State.restoreWires (s : State) : State :=
  let s := (List.range 2).foldl (fun s d => (List.range 4).foldl (fun s n => s.setReg d 0 (wokenReg n) 0) s) s
  ((s.regs.filter (fun p => p.1.blk == Reg.TL_DESC.blk && p.1.off == Reg.TL_DESC.off)).map (·.1)).foldl
    (fun s k => s.tlTest k.die k.sel) s

/-- A CLOSE scrub job for every slot with SCRUB_PENDING (R399, step 5). -/
def State.restoreScrubs (s : State) : State :=
  (s.ses.recs.filter (fun p => p.2.scrubPending)).foldl (fun s p =>
    s.nextFree.queueScrub (slotDie p.1) (s.home p.1) false p.2.context p.1 (s.closeRanges p.1)) s

/-- Replay starts with the restore (R437, R438). -/
def State.startReplay (s : State) (x : Snap) : State :=
  if s.fld 0 0 Fld.RP_CTRL_MODE = 2 then
    let map := ((List.range 8).map (fun i => s.reg (i / 4) 0 (mapReg (64 * (i % 4)))))
    let s := { s with rp := { s.rp with left := s.rp.area.recs, formed := [], msg := none, lastBeacon := none, held := false } }
    ((((s.setFld 0 0 Fld.RP_STATUS_STATE 3).setFld 0 0 Fld.RP_STATUS_MAP_DIFF (b2n (map != s.rp.area.map))).setFld 0 0
      Fld.RP_STATUS_GAP (b2n s.rp.area.gap)).setReg 0 0 Reg.RP_REC 0).setReg 0 0 Reg.RP_CKPT (BitVec.ofNat 64 x.id)
  else s

/-- A load that has succeeded is put in force (R399, R400). -/
def State.restoreSet (s : State) (e : Env) (x : Snap) : State :=
  let s := { s with ckpt := { s.ckpt with restore := none } }
  let s := (s.setFld 0 0 Fld.CK_STATUS_RESTORING 0).setFld 0 0 Fld.CK_STATUS_RESTORE_FAILED 0
  let s := ((s.restoreData x).restoreRegs x).restoreBoundary x.boundary
  let s := (s.setFld 0 0 Fld.GLB_MODE_SERVICE x.service).setStatus (if x.service = 1 then 8 else 7)
  let s := s.restorePins.restoreWires.restoreScrubs
  let s := s.rebase x.mark
  let s := s.answer e 0x10 St.done 0 (s.restoreBody x.id (linToOrd s.layers x.mark) 0 [])
  (((s.startReplay x).raise 0 0x84 { a0 := x.id, a1 := linToOrd s.layers x.mark }).lateSweep).pumpAll

/-- A load that fails (R399). -/
def State.restoreFailed (s : State) (e : Env) (shard off : Nat) : State :=
  let s := { s with ckpt := { s.ckpt with restore := none } }
  let s := (s.setFld 0 0 Fld.CK_STATUS_RESTORING 0).setFld 0 0 Fld.CK_STATUS_RESTORE_FAILED 1
  (s.answer e 0x10 St.integrity 0 (s.restoreBody 0 0 (shard * 2 ^ 56 + off % 2 ^ 56) [])).raise 0 0x85 { alert := true }

/-- RESTORE_COMPLETE (R399). -/
def State.restoreEnd (s : State) (fail : Option (Nat × Nat)) : State :=
  match s.ckpt.restore with
  | none => s
  | some (e, id) => match fail, s.ckpt.snaps.find? (fun x => x.id == id) with
    | none, some x => s.restoreSet e x
    | some (shard, off), _ => s.restoreFailed e shard off
    | none, none => s

/-- RESTORE_COMPLETE (R399, R400). -/
def execRestoreComplete (t : Nat) (fail : Option (Nat × Nat)) (s : State) : Res :=
  .next (if s.running then (s.tick t).restoreEnd fail else s)

end Sys2Proof.Machine
end

