-- ==== Sys2Proof/Machine/Pins.lean ====
section
/-! DEFINITION. Pins, clocks, temperature and the sideband's own state (R446 to R469). -/

namespace Sys2Proof.Machine

/-! ### Temperature (R453, R455, R469) -/

/-- The trip temperature of 115 °C in units of 0.25 °C (R453, R469). -/
def tripTemp : Int := 460

/-- A temperature as 16 bits in two's complement (R469). -/
def temp16 (x : Int) : Nat := (x % 65536).toNat

/-- The hottest of 16 sensor readings. -/
def hottest (l : List Int) : Int := (l.take 16).foldl max (l.headD 0)

/-- A trip (R453): THERM_TRIP_N, the clocks stop, every lane goes to electrical idle. -/
def State.trip (s : State) (die : Nat) : State :=
  let s := ((s.setFld 0 0 Fld.BD_THERM_TRIP 1).setFld 0 0 Fld.BD_THERM_TRIP_DIE die).ibi 0x04
  let s := (s.net.ports.map (·.1)).foldl (fun s p =>
    (s.setPort p { s.port p with link := false, queue := [], sending := none }).setFld (portDie p) p Fld.ETH_PORT_STATUS_UP 0) s
  { s with pins := { s.pins with tripped := true } }

/-- The 16 sensors of a die are read (R453, R424). -/
def State.sampleTemps (s : State) (die : Nat) (temps : List Int) : State :=
  let hot := hottest temps
  let s := (List.range 16).foldl (fun s i =>
    (s.setFld die i Fld.BD_TEMP_TEMP (temp16 (temps.getD i 0))).setFld die i Fld.BD_TEMP_MAX (temp16 hot)) s
  let limit := s.start.img.envelope.tjWarnC
  let s := if s.up && decide (((4 * limit : Nat) : Int) < hot) then s.exceeded die 0 (temp16 hot) limit else s
  if tripTemp ≤ hot then s.trip die else s

/-- THERMAL_SAMPLE (R453): while the clocks run. -/
def execThermalSample (t die : Nat) (temps : List Int) (s : State) : Res :=
  .next (if s.pins.power && s.pins.released && !s.pins.tripped && decide (die < 2) then (s.tick t).sampleTemps die temps else s)

/-- DRAM_TEMP_POLL (R455): the refresh rate affects only timing; a hot device is reported once per step and channel. -/
def execDramTempPoll (t die cluster channel : Nat) (hot : Bool) (_rate : Nat) (s : State) : Res :=
  .next (if s.running then
    let s := s.tick t
    if hot then s.raiseOnce die 0xA3 (cluster % 8 * 8 + channel % 8) { alert := true, unit := unitCode 4 die (cluster % 8) (channel % 8) }
    else s
  else s)

/-! ### Reference clocks (R451) -/

/-- The number by which an event names a clock: 0 CORE_REFCLK, 1 + q ETH_REFCLK[q]. -/
def clkNo : RefClk → Nat
  | .core => 0
  | .eth q => 1 + q % 4

/-- A clock is present. -/
def State.clkOk (s : State) : RefClk → Bool
  | .core => s.fld 0 0 Fld.BD_CLK_CORE_OK == 1
  | .eth q => s.fld 0 0 Fld.BD_CLK_ETH_OK / 2 ^ (q % 4) % 2 == 1

/-- BD_CLK shows a clock as present or lost. -/
def State.setClk (s : State) (c : RefClk) (v : Bool) : State :=
  match c with
  | .core => s.setFld 0 0 Fld.BD_CLK_CORE_OK (b2n v)
  | .eth q =>
    let w := s.fld 0 0 Fld.BD_CLK_ETH_OK
    let off := if w / 2 ^ (q % 4) % 2 = 1 then w - 2 ^ (q % 4) else w
    s.setFld 0 0 Fld.BD_CLK_ETH_OK (if v then off + 2 ^ (q % 4) else off)

/-- The ports that a lost clock takes down: those with a lane it clocks. -/
def State.clkPorts (s : State) (q : Nat) : List Nat :=
  (s.net.ports.map (·.1)).filter (fun p => (s.port p).link && (s.portLanes p).any (fun l => l / 12 == q % 4))

/-- A clock is lost. -/
def State.clkLoss (s : State) (c : RefClk) : State :=
  let s := ((s.setClk c false).bump 0 0 Fld.BD_CLK_LOSSES).raise 0 0xA0 { alert := true, a0 := clkNo c }
  match c with
  | .core => { s with pins := { s.pins with coreBack := false } }.setFld 0 0 Fld.BD_CLK_HOLDOVER 1
  | .eth q => (s.clkPorts q).foldl (fun s p => s.portDown p) s

/-- REFCLK_LOSS (R451). -/
def execRefclkLoss (t : Nat) (c : RefClk) (s : State) : Res :=
  .next (if s.running && s.clkOk c then (s.tick t).clkLoss c else s)

/-- A clock returns: CORE_REFCLK is in use again from the next S:0:0, or at once. -/
def State.clkReturn (s : State) (c : RefClk) : State :=
  let s := (s.setClk c true).raise 0 0xA1 { a0 := clkNo c }
  match c with
  | .core => if s.fires then { s with pins := { s.pins with coreBack := true } } else s.setFld 0 0 Fld.BD_CLK_HOLDOVER 0
  | .eth _ => s

/-- REFCLK_RESTORED (R451). -/
def execRefclkRestored (t : Nat) (c : RefClk) (s : State) : Res :=
  .next (if s.running && !s.clkOk c then (s.tick t).clkReturn c else s)

/-- BD_VACK (R463). -/
def execBdVack (a : Acc) (v : Word) (s : State) : Res :=
  .next (s.regWrite a (rowOf Reg.BD_VACK) v none (fun s _ => s.vack v))

/-! ### The I3C target (R459, R462) -/

/-- A dynamic address is assigned, once. -/
def State.assignAddr (s : State) (addr : Nat) : State :=
  if s.fld 0 0 Fld.BD_SB_I3C = 1 then s else (s.setFld 0 0 Fld.BD_SB_DYN_ADDR addr).setFld 0 0 Fld.BD_SB_I3C 1

/-- The bytes that a common command code returns. -/
def State.cccReply (s : State) (l : List Byte) : State := { s with pins := { s.pins with ccc := l } }

/-- A common command code (R459). What GETSTATUS, GETMRL and GETMWL return, the spec leaves to the I3C specification: free values. -/
def State.ccc (s : State) : Ccc → State
  | .entdaa addr | .setdasa addr => s.assignAddr (addr % 128)
  | .rstdaa => (s.setFld 0 0 Fld.BD_SB_DYN_ADDR 0).setFld 0 0 Fld.BD_SB_I3C 0
  | .enec => s.setFld 0 0 Fld.BD_SB_IBI_EN 1
  | .disec => s.setFld 0 0 Fld.BD_SB_IBI_EN 0
  | .getpid => s.cccReply (be 6 (Config.mipiId % 2 ^ 15 * 2 ^ 33 + Config.serial % 2 ^ 32))
  | .getbcr => s.cccReply [0x06]
  | .getdcr => s.cccReply [0x00]
  | .getstatus => (s.cccReply (be 2 (s.freeVal % 65536))).nextFree
  | .getmrl => (s.cccReply (be 3 (s.freeVal % 2 ^ 24))).nextFree
  | .getmwl => (s.cccReply (be 2 (s.freeVal % 65536))).nextFree
  | .other _ => s

/-- SIDEBAND_CCC (R459). -/
def execSidebandCcc (t : Nat) (c : Ccc) (s : State) : Res := .next (if s.pins.power then (s.tick t).ccc c else s)

/-- SIDEBAND_IBI_ACCEPT (R462): the controller accepts the oldest interrupt. -/
def execSidebandIbiAccept (t : Nat) (s : State) : Res :=
  .next (if s.pins.power && s.fld 0 0 Fld.BD_SB_IBI_EN == 1 then
      let s := s.tick t
      { s with pins := { s.pins with ibi := s.pins.ibi.drop 1 } }
    else s)

end Sys2Proof.Machine
end

