-- ==== Sys2Proof/Machine/Registers.lean ====
section
/-! DEFINITION. What a register reads as, what a read and a write of any register do (R7, R470 to R476), and the paths to the
registers: CS_READ and CS_WRITE (R286), the sideband (R460, R461), REGISTER_WRITE, and the writes with rows of their own that no
other chapter's file holds. -/

namespace Sys2Proof.Machine

/-! ### What a register reads as -/

/-- A word made of fields, each as (lowest bit, value). -/
def fieldsWord (l : List (Nat × Nat)) : Word := BitVec.ofNat 64 ((l.map (fun p => p.2 * 2 ^ p.1)).sum)

/-- BCN_STATUS (R19, R33). -/
def State.bcnStatus (s : State) : Word :=
  let b := s.bcn
  let recent := fun (x : Option Nat) => match x with | some y => decide (s.now ≤ y + s.lossNs) | none => false
  fieldsWord [(7, b2n b.hold.isSome), (6, s.fld 0 0 Fld.BCN_STATUS_PTP_LOCK), (5, b2n (recent b.lastFrame)), (4, b2n (recent b.lastPin)),
    (3, b2n b.frames), (0, b.trk.code)]

/-- The BEACON block's registers that follow the tracker; die 1 shows die 0's (R33). -/
def State.bcnWord (s : State) (r : RegId) (w : Word) : Word :=
  if r = Reg.BCN_STATUS then s.bcnStatus
  else if r = Reg.BCN_POS then BitVec.ofNat 64 s.pos
  else if r = Reg.BCN_PERIOD then fieldsWord [(32, s.bcn.minPeriod), (0, s.bcn.meanPeriod)]
  else if r = Reg.BCN_JITTER then fieldsWord [(0, s.bcn.maxDev)]
  else if r = Reg.BCN_LEAD then s.reg 0 0 Reg.BCN_LEAD
  else w

/-- Slots of a die in a session state. -/
def State.countIn (s : State) (die : Nat) (st : SesState) : Nat :=
  (s.ses.recs.filter (fun p => slotDie p.1 == die && p.2.st == st)).length

/-- The SESSION block's registers that follow the session table; three read the same on both dies (R64). After SCRUB_ALL the
records read as zeros (R377). -/
def State.sesWord (s : State) (die sel : Nat) (r : RegId) (w : Word) : Word :=
  if r = Reg.SES_CTRL ∨ r = Reg.SES_LEASE ∨ r = Reg.SES_BOUNDARY then s.reg 0 0 r
  else if r = Reg.SES_COUNT0 then
    fieldsWord [(40, s.countIn die .owned), (20, s.countIn die .filling),
      (0, Config.slotsPerDie - (s.ses.recs.filter (fun p => slotDie p.1 == die && p.2.st != .free)).length)]
  else if r = Reg.SES_COUNT1 then
    fieldsWord [(40, s.countIn die .held), (20, s.countIn die .dormant), (0, s.countIn die .parked)]
  else if r = Reg.SES_HELD_NEXT then
    match (if die = 0 then s.ses.held0 else s.ses.held1).head? with
    | some x => fieldsWord [(63, 1), (0, x)]
    | none => 0
  else if 0x40 ≤ r.off ∧ r.off < 0xC0 then
    if s.ident.closed then 0 else BitVec.ofNat 64 (leNat ((((s.sess sel).bytes sel).drop (r.off - 0x40)).take 8))
  else w

/-- Corrected errors of a cluster in the window (R220, R225). -/
def State.ceRate (s : State) (die cluster : Nat) : Nat :=
  (s.tier.ces.filter (fun x => x.1 == die && x.2.1 == cluster
    && decide (s.now < x.2.2 + s.fld die cluster Fld.MC_CE_WINDOW_MS * 1000000))).length

/-- FREE segments of a group (R235, R264). -/
def State.freeSegs (s : State) (die group : Nat) : Nat :=
  s.segCount die - (s.flash.segs.filter (fun x => x.die == die && x.group == group && x.st != .free)).length

/-- The WICK block's registers that follow its tables (R264). -/
def State.wkWord (s : State) (die sel : Nat) (r : RegId) (w : Word) : Word :=
  if r = Reg.WK_SEG_FREE then fieldsWord [(32, s.freeSegs die 1), (0, s.freeSegs die 0)]
  else match s.index die (sel % 1024) with
    | none => w
    | some x =>
      if r = Reg.WK_IDX_INFO then
        fieldsWord [(63, 1), (62, b2n x.shape.graph), (32, x.shape.context), (0, x.gen.generation % 2 ^ 32)]
      else if r = Reg.WK_IDX_MARK then BitVec.ofNat 64 x.mark
      else if r = Reg.WK_MERGE_STATUS then
        setBits (setBits w 62 62 (b2n !x.old.isEmpty)) 31 0
          (s.flash.searches.filter (fun q => q.die == die && q.msg.index == x.num)).length
      else w

/-- GSP_EP_INFO with its paths (R290), and the registers that read the same on both dies. -/
def State.gspWord (s : State) (sel : Nat) (r : RegId) (w : Word) : Word :=
  if r = Reg.GSP_CTRL ∨ r = Reg.GSP_LIMITS then s.reg 0 0 r
  else if r = Reg.GSP_EP_INFO then
    match s.endpoint sel with
    | some e => setBits w 11 8 ((e.paths.zipIdx.map (fun p => b2n (s.port p.1.port).link * 2 ^ p.2)).sum)
    | none => w
  else w

/-- The CHIMNEY block's registers that follow the port (R308). -/
def State.chWord (s : State) (sel : Nat) (r : RegId) (w : Word) : Word :=
  if r = Reg.CH_PORT_CFG then setBits w 31 0 (min (s.guardBand sel) (2 ^ 32 - 1))
  else if r = Reg.CH_OPEN then
    let excl := fun (c : Nat) => s.gatesOn sel && (s.port sel).opened.any (fun i =>
      getBits (s.gate sel i) 62 62 == 1 && gateNames (s.gate sel i) c)
    fieldsWord [(8, ((List.range 8).map (fun c => b2n (excl c) * 2 ^ c)).sum),
      (0, ((List.range 8).map (fun c => b2n (s.classOpen sel c) * 2 ^ c)).sum)]
  else if 0x48 ≤ r.off ∧ r.off < 0x88 then (((s.port sel).cls ((r.off - 0x48) / 8)).pendShaper).getD w
  else if 0x88 ≤ r.off ∧ r.off < 0xC8 then BitVec.ofInt 64 (s.creditAt sel ((r.off - 0x88) / 8) s.now)
  else w

/-- The oldest tracker entry of a die (R333, R347). -/
def State.oldestTrack (s : State) (die : Nat) : Option Track :=
  (s.lamp.track.filter (fun x => x.die == die)).foldl (fun (o : Option Track) x => match o with
    | none => some x
    | some y => if x.since < y.since then some x else o) none

/-- The LAMP block's registers that follow the tracker and the snuffer's queue (R347). -/
def State.lampWord (s : State) (a : Acc) (r : RegId) (w : Word) : Word :=
  if r = Reg.LP_TRACK then setBits w 15 0 (min (s.lamp.track.filter (fun x => x.die == a.die)).length 65535)
  else if r = Reg.LP_TRACK_OLDEST then
    match s.oldestTrack a.die with
    | some x => fieldsWord [(32, (s.now - x.since) / 1000 % 2 ^ 32), (24, x.type), (0, x.key.ep)]
    | none => 0
  else if r = Reg.LP_SCRUB_NEXT then s.scrubWord a
  else w

/-- SEAL_LC (R381). -/
def State.lcWord (s : State) : Word :=
  let f := s.ident.fuses
  fieldsWord [(24, f.floor), (17, b2n s.scrubbed), (16, b2n f.rootKill), (12, if f.valid1 then 2 else if f.valid0 then 1 else 0),
    (8, b2n s.jtagOpen), (7, b2n (f.lc != s.lc)), (4, f.lc), (0, s.lc)]

/-- The bytes of a window object from page `page` on (R381). -/
def State.windowWord (s : State) (object page n : Nat) : Word :=
  if object = 1 then s.pkgWord (page * 64 + n)
  else
    let bytes := if object = 0 then s.ident.report else if object ≤ 5 then keyBytes object else []
    BitVec.ofNat 64 (leNat ((bytes.drop (page * 512 + 8 * n)).take 8))

/-- The SEAL block's registers that follow the fuses, the window and die 0 (R381). KEY_MISS counts misses of a cache whose
replacement the spec does not give: a free value (log 6). -/
def State.sealWord (s : State) (sel : Nat) (r : RegId) (w : Word) : Word :=
  if r = Reg.SEAL_LC then s.lcWord
  else if 0x100 ≤ r.off then s.windowWord (sel / 65536 % 8) (sel % 64) ((r.off - 0x100) / 8)
  else if r = Reg.SEAL_KEYGEN then s.reg 0 sel r
  else if r = Reg.SEAL_COUNTS then setBits w 63 32 (s.freeVal % 2 ^ 32)
  else w

/-- What a register reads as (R7, R474): its stored word, with the fields that follow other state. -/
def State.readWord (s : State) (a : Acc) (sel : Nat) (r : RegId) : Word :=
  let w := s.reg a.die sel r
  if r.blk = 0x01 then s.bcnWord r w
  else if r.blk = 0x02 then s.sesWord a.die sel r w
  else if r = Reg.FIN_GRAM_INFO then
    match alGet (a.die, sel) s.grams with
    | some g => fieldsWord [(63, 1), (32, g.states), (0, g.refs)]
    | none => 0
  else if r = Reg.MC_CE then setBits w 31 0 (s.ceRate a.die sel)
  else if r.blk = 0x08 then s.wkWord a.die sel r w
  else if r.blk = 0x0A then s.gspWord sel r w
  else if r.blk = 0x0B then s.chWord sel r w
  else if r = Reg.TL_DESC then setBits w 43 32 ((s.tlOwner a.die sel).getD 0)
  else if r.blk = 0x0D then s.lampWord a r w
  else if r.blk = 0x0E then s.sealWord sel r w
  else if r = Reg.HL_ALERT then setBits w 63 48 (min (s.alerts a.die).length 65535)
  else w

/-! ### Reads -/

/-- The RC fields of a register are cleared (R7). -/
def State.clearRc (s : State) (die sel : Nat) (r : RegRow) : State :=
  s.setReg die sel r.id (r.fields.foldl (fun (w : Word) f => match f.acc with
    | .rc => w &&& ~~~f.mask
    | .ro | .rw | .rwl | .w1c | .wo => w) (s.reg die sel r.id))

/-- What a read does (R7): the read of a list's head takes it. -/
def State.readEffect (s : State) (a : Acc) (sel : Nat) (r : RegRow) : State :=
  if r.id = Reg.SES_HELD_NEXT then (s.takeHeld a.die).1
  else if r.id = Reg.LP_SCRUB_NEXT then s.scrubNextEffect a
  else if r.id = Reg.SEAL_COUNTS then (s.clearRc a.die sel r).nextFree
  else s.clearRc a.die sel r

/-- A read of a register by a requester: its word, and what it does. A selection that selects nothing reads zero (R64, R289,
R308). -/
def State.readReg (s : State) (a : Acc) (r : RegRow) : State × Word :=
  match s.selItem a.die a.rq r.sel with
  | some sel => (s.readEffect a sel r, s.readWord a sel r.id)
  | none => (s, 0)

/-- SES_HELD_NEXT_READ (R52, R64). -/
def execSesHeldNextRead (a : Acc) (s : State) : Res :=
  .next (s.regRead a (rowOf Reg.SES_HELD_NEXT) (fun s _ => (s.takeHeld a.die).1))

/-! ### Writes -/

/-- The effect of a write of BCN_CTRL (R15, R20, R25). -/
def State.bcnCtrlEffect (s : State) (v : Word) : State :=
  let was := s.fld 0 0 Fld.BCN_CTRL_ENABLE == 1
  let s := (s.store 0 0 (rowOf Reg.BCN_CTRL) v).enableWrite was
  if getBits v 2 2 = 1 then s.rebaseWrite else s

/-- BCN_REBASE (R25). -/
def execBcnRebase (a : Acc) (v : Word) (s : State) : Res :=
  .next (s.regWrite a (rowOf Reg.BCN_CTRL) v none (fun s _ => s.bcnCtrlEffect v))

/-- BCN_ENABLE_WRITE (R15, R20). -/
def execBcnEnableWrite (a : Acc) (v : Word) (s : State) : Res :=
  .next (s.regWrite a (rowOf Reg.BCN_CTRL) v none (fun s _ => s.bcnCtrlEffect v))

/-- The effect of a write of CTX_QUOTA_Tn (R60, R62). -/
def State.quotaEffect (s : State) (die ctx tier : Nat) (r : RegRow) (v : Word) : State :=
  (s.store die ctx r v).quotaTest die ctx tier

/-- CTX_QUOTA_Tn. -/
def quotaReg (tier : Nat) : RegId := ⟨0x02, 0x110 + 8 * tier⟩

/-- CTX_QUOTA_WRITE (R60, R62). -/
def execCtxQuotaWrite (a : Acc) (tier : Nat) (v : Word) (s : State) : Res :=
  .next (if tier < 4 then
      s.regWrite a (rowOf (quotaReg tier)) v none (fun s ctx => s.quotaEffect a.die ctx tier (rowOf (quotaReg tier)) v)
    else s)

/-- XL_INVAL (R75, R99). -/
def execXlInval (a : Acc) (v : Word) (s : State) : Res :=
  .next (s.regWrite a (rowOf Reg.XL_INVAL) v none (fun s _ => s.inval a.die v))

/-- The effect of a write of XL_PROBE (R99). -/
def State.probeEffect (s : State) (die : Nat) (v : Word) : State := (s.store die 0 (rowOf Reg.XL_PROBE) v).probe die v

/-- XL_PROBE (R99). -/
def execXlProbe (a : Acc) (v : Word) (s : State) : Res :=
  .next (s.regWrite a (rowOf Reg.XL_PROBE) v none (fun s _ => s.probeEffect a.die v))

/-- The effect of a write of SEAL_WIN_DATAn (R381): object 1 takes it. -/
def State.windowEffect (s : State) (sel n : Nat) (v : Word) : State :=
  if sel / 65536 % 8 = 1 then { s with ident := { s.ident with pkg := alSet (sel % 64 * 64 + n) v s.ident.pkg } } else s

/-- The effect of a write of RP_CTRL (R433, R437): MODE 1 and 2 arm from IDLE, and MODE 0 stops recording or disarms. -/
def State.rpCtrlEffect (s : State) (v : Word) : State :=
  let s := s.store 0 0 (rowOf Reg.RP_CTRL) v
  let st := s.fld 0 0 Fld.RP_STATUS_STATE
  let mode := getBits v 1 0
  if mode = 0 then (if st = 2 then s.closeRec else if st = 1 then s.setFld 0 0 Fld.RP_STATUS_STATE 0 else s)
  else if mode < 3 ∧ st = 0 then s.setFld 0 0 Fld.RP_STATUS_STATE 1
  else s

/-- RECORD_ARM (R433). -/
def execRecordArm (a : Acc) (v : Word) (s : State) : Res :=
  .next (s.regWrite a (rowOf Reg.RP_CTRL) v none (fun s _ => s.rpCtrlEffect v))

/-- RECORD_STOP (R433). -/
def execRecordStop (a : Acc) (v : Word) (s : State) : Res :=
  .next (s.regWrite a (rowOf Reg.RP_CTRL) v none (fun s _ => s.rpCtrlEffect v))

/-- REPLAY_ARM (R437). -/
def execReplayArm (a : Acc) (v : Word) (s : State) : Res :=
  .next (s.regWrite a (rowOf Reg.RP_CTRL) v none (fun s _ => s.rpCtrlEffect v))

/-- The registers that are written on die 0 only (R64, R290). -/
def die0Only (r : RegId) : Bool := r == Reg.SES_CTRL || r == Reg.SES_LEASE || r == Reg.GSP_CTRL || r == Reg.GSP_LIMITS

/-- What a write of a register of blocks 0x00 to 0x08 does on item `sel`; none when it is stored and no more. -/
def State.writeLow (s : State) (a : Acc) (sel : Nat) (r : RegRow) (v : Word) (p : Option PendingIdx) : Option State :=
  if r.id = Reg.GLB_MODE then some (s.modeEffect v)
  else if r.id = Reg.BCN_CTRL then some (s.bcnCtrlEffect v)
  else if r.id.blk = 0x02 ∧ 0x110 ≤ r.id.off ∧ r.id.off ≤ 0x128 then some (s.quotaEffect a.die sel ((r.id.off - 0x110) / 8) r v)
  else if r.id = Reg.XL_INVAL then some (s.inval a.die v)
  else if r.id = Reg.XL_PROBE then some (s.probeEffect a.die v)
  else if r.id = Reg.TR_CTRL ∨ r.id = Reg.TR_WATER_T1 ∨ r.id = Reg.TR_WATER_T2 then
    some (((s.store a.die sel r v).evictTest a.die 1).evictTest a.die 2)
  else if r.id = Reg.MC_DEGRADE then some (s.mcDegradeEffect a.die sel v)
  else if r.id = Reg.MC_RETIRE then some (s.retireEffect a.die v)
  else if r.id = Reg.MC_TEST_CTRL then some (s.testEffect a v)
  else if r.id = Reg.WK_DEGRADE then some (s.wkDegradeEffect a.die v)
  else if r.id = Reg.WK_GC then some (s.gcEffect a.die v)
  else if r.id = Reg.WK_MERGE then some (s.mergeEffect a.die sel v p)
  else none

/-- What a write of a register of blocks 0x09 to 0x12 does on item `sel`; none when it is stored and no more. -/
def State.writeHigh (s : State) (a : Acc) (sel : Nat) (r : RegRow) (v : Word) : Option State :=
  if r.id.blk = 0x0B ∧ 0x48 ≤ r.id.off ∧ r.id.off < 0x88 then some (s.shaperEffect sel ((r.id.off - 0x48) / 8) v)
  else if r.id = Reg.CH_PORT_CFG then some ((((s.settle sel).store a.die sel r v).pick sel).formResults)
  else if r.id = Reg.CH_GATE_CTRL then some (s.gateCtrlEffect sel v)
  else if r.id = Reg.TL_DESC then some (s.tlDescEffect a.die sel v)
  else if r.id = Reg.TL_PAIR then some (s.tlPairEffect a.die sel v)
  else if r.id = Reg.TL_ADD then some (s.tlAddEffect a v)
  else if r.id = Reg.TL_FIRE then some (s.tlFireEffect a.die v)
  else if r.id = Reg.TL_SLEEP then some (s.tlSleepEffect a v)
  else if r.id = Reg.LP_FILL then some (s.fillEffect a v)
  else if r.id = Reg.LP_SCRUB_DONE then some (s.scrubDoneEffect a.die v)
  else if r.id = Reg.LP_SVC_CTRL then some (s.svcGo a.die a.rq v)
  else if r.id = Reg.LP_CTX_CTRL then some (s.ctxCtrlEffect a.die sel v)
  else if r.id = Reg.SEAL_RPT_CTRL then some (s.reportEffect a.rq v)
  else if r.id = Reg.SEAL_LC_CMD then some ((s.lcEffect a.rq v s.lcOutcome).nextFree)
  else if r.id = Reg.SEAL_KEYGEN then some (s.keygenEffect a.die sel v)
  else if r.id.blk = 0x0E ∧ 0x100 ≤ r.id.off then some (s.windowEffect sel ((r.id.off - 0x100) / 8) v)
  else if r.id = Reg.HL_KICK then some (s.kickEffect a.rq)
  else if r.id = Reg.HL_ROW_SPARE then some (s.rowSpareEffect a.die v)
  else if r.id = Reg.HL_PLAN then some (s.planEffect v)
  else if r.id = Reg.HL_ALERT then some (s.alertEffect a.die v)
  else if r.id = Reg.RP_CTRL then some (s.rpCtrlEffect v)
  else if r.id = Reg.BD_VACK then some (s.vack v)
  else none

/-- What a write of any register does on item `sel` (R7). -/
def State.writeEffect (s : State) (a : Acc) (sel : Nat) (r : RegRow) (v : Word) (p : Option PendingIdx) : State :=
  if die0Only r.id && a.die == 1 then s
  else (if r.id.blk ≤ 0x08 then s.writeLow a sel r v p else s.writeHigh a sel r v).getD (s.store a.die sel r v)

/-- A write of any register by a requester. -/
def State.writeReg (s : State) (a : Acc) (r : RegRow) (v : Word) (p : Option PendingIdx) : State :=
  s.regWrite a r v p (fun s sel => s.writeEffect a sel r v p)

/-- REGISTER_WRITE (R7, R473): an unmapped address is an access fault of a control core and nothing on other paths. -/
def execRegisterWrite (a : Acc) (addr : Nat) (v : Word) (s : State) : Res :=
  .next (match mapAddr addr with
    | some (die, r) => s.writeReg { a with die } r v none
    | none => match a.rq with
      | .core d code => if s.present a.rq then (s.tick a.t).fwLimit d code 0 else s
      | .ep _ | .sideband | .jtag | .start => s)

/-! ### CS_READ and CS_WRITE (R286) -/

/-- The registers of a message: `count` of them from `addr` on, or none when one is unaligned or unmapped. -/
def csRows (addr count : Nat) : Option (List (Nat × RegRow)) :=
  let l := (List.range count).map (fun i => mapAddr (addr + 8 * i))
  if l.all (·.isSome) then some (l.filterMap id) else none

/-- The reason a CS message is refused as a whole (R286): COUNT and the zero bytes, then the addresses. -/
def csBad (m : CsMsg) (write : Bool) : Option Nat :=
  if m.count = 0 ∨ 64 < m.count ∨ m.zero ≠ 0 ∨ (write = true ∧ m.values.length ≠ m.count) then some 0x05
  else if (csRows m.addr m.count).isNone then some 0x0B
  else none

/-- The registers of a CS_READ are read in ascending address. -/
def State.csReads (s : State) (e : Env) (l : List (Nat × RegRow)) : State × List Byte :=
  l.foldl (fun (x : State × List Byte) p =>
    let y := x.1.readReg ⟨e.t, .ep e.ep, p.1⟩ p.2
    (y.1, x.2 ++ le 8 y.2.toNat)) (s, [])

/-- CS_READ is carried out. -/
def State.csReadRun (s : State) (e : Env) (m : CsMsg) : State :=
  match csBad m false with
  | some r => s.answer e 0x13 St.badFrame r []
  | none =>
    let x := s.csReads e ((csRows m.addr m.count).getD [])
    x.1.answer e 0x13 St.done 0 x.2

/-- CS_READ (R286). -/
def execCsRead (e : Env) (m : CsMsg) (s : State) : Res :=
  .next (s.message e (.csRead e m) 0x13 none [] (fun s => s.csReadRun e m))

/-- CS_WRITE is carried out: one to HL_PLAN gets DENIED (R423). -/
def State.csWriteRun (s : State) (e : Env) (m : CsMsg) : State :=
  match csBad m true with
  | some r => s.answer e 0x14 St.badFrame r []
  | none =>
    let l := (csRows m.addr m.count).getD []
    if l.any (fun p => p.2.id == Reg.HL_PLAN) then s.answer e 0x14 St.denied 0 []
    else ((l.zip m.values).foldl (fun (s : State) p => s.writeReg ⟨e.t, .ep e.ep, p.1.1⟩ p.1.2 p.2 none) s).answer e 0x14 St.done 0 []

/-- CS_WRITE (R286). -/
def execCsWrite (e : Env) (m : CsMsg) (s : State) : Res :=
  .next (s.message e (.csWrite e m) 0x14 none [] (fun s => s.csWriteRun e m))

/-! ### The sideband (R460, R461) -/

/-- The outcome of a sideband access. -/
def State.sbOutcome (s : State) (status : Nat) (data : Word) : State := { s with pins := { s.pins with outcome := (status, data) } }

/-- A private write of command 0x01. -/
def State.sbWrite (s : State) (t size addr : Nat) (v : Word) : State :=
  match (if size = 15 then mapAddr addr else none) with
  | none => s.sbOutcome St.badFrame 0
  | some (die, r) =>
    match s.writePass .sideband die 0 r v with
    | .go => (s.writeReg ⟨t, .sideband, die⟩ r v none).sbOutcome St.done 0
    | .unmapped | .denied | .limit _ | .shut => s.sbOutcome St.denied 0

/-- SIDEBAND_WRITE (R460, R461). -/
def execSidebandWrite (t size addr : Nat) (data : Word) (s : State) : Res :=
  .next (if s.pins.power then (s.tick t).sbWrite t size addr data else s)

/-- A private write of command 0x02. -/
def State.sbRead (s : State) (t size addr : Nat) : State :=
  match (if size = 7 then mapAddr addr else none) with
  | none => s.sbOutcome St.badFrame 0
  | some (die, r) =>
    match s.readPass .sideband r with
    | .go =>
      let x := s.readReg ⟨t, .sideband, die⟩ r
      x.1.sbOutcome St.done x.2
    | .unmapped | .denied | .limit _ | .shut => s.sbOutcome St.denied 0

/-- SIDEBAND_READ (R460, R461). -/
def execSidebandRead (t size addr : Nat) (s : State) : Res :=
  .next (if s.pins.power then (s.tick t).sbRead t size addr else s)

end Sys2Proof.Machine
end

