-- ==== Sys2Proof/Machine/Replay.lean ====
section
/-! DEFINITION. Replay (R437 to R442): the injection of the records of a recording. -/

namespace Sys2Proof.Machine

/-! ### MESSAGE records -/

/-- A message as it is handled again: its time is the time of injection. -/
def envAt (t : Nat) (e : Env) : Env := { e with t }

/-- The chapter's meaning of a recorded message, run at time `t`; a record of any other command holds no message. -/
def runMessage (t : Nat) (c : Instr) (s : State) : Res :=
  match c with
  | .sessionOpen e m => execSessionOpen (envAt t e) m s
  | .sessionClose e m => execSessionClose (envAt t e) m s
  | .handover e m => execHandover (envAt t e) m s
  | .leaseRenew e m => execLeaseRenew (envAt t e) m s
  | .park e m => execPark (envAt t e) m s
  | .wake e m => execWake (envAt t e) m s
  | .kvAppendInline e m => execKvAppendInline (envAt t e) m s
  | .kvAppendRdma e m => execKvAppendRdma (envAt t e) m s
  | .link e m => execLink (envAt t e) m s
  | .truncate e m => execTruncate (envAt t e) m s
  | .pin e m => execPin (envAt t e) m s
  | .unpin e m => execUnpin (envAt t e) m s
  | .attend e m => execAttend (envAt t e) m s
  | .resultFetch e m => execResultFetch (envAt t e) m s
  | .resultRelease e m => execResultRelease (envAt t e) m s
  | .draw e m => execDraw (envAt t e) m s
  | .feed e m => execFeed (envAt t e) m s
  | .grammar e m => execGrammar (envAt t e) m s
  | .finReset e m => execFinReset (envAt t e) m s
  | .search e m => execSearch (envAt t e) m s
  | .insert e m => execInsert (envAt t e) m s
  | .delete e m => execDelete (envAt t e) m s
  | .csRead e m => execCsRead (envAt t e) m s
  | .csWrite e m => execCsWrite (envAt t e) m s
  | .event e op z => execEvent (envAt t e) op z s
  | .tallyAdd e m => execTallyAdd (envAt t e) m s
  | .tallyAdvance e m => execTallyAdvance (envAt t e) m s
  | .tallyRead e m => execTallyRead (envAt t e) m s
  | .checkpointTake e m => execCheckpointTake (envAt t e) m s
  | .checkpointDiscard e m => execCheckpointDiscard (envAt t e) m s
  | .restore e m => execRestore (envAt t e) m s
  | _ => .next s

/-- The statuses that depend on timing (R429, R439). -/
def timingStatus (status : Nat) : Bool := status == St.notReady || status == St.busyRetry || status == St.overQuota

/-- The record at the front has been injected (R442 follows the last one). -/
def State.injected (s : State) (r : Rec) : State :=
  { s with rp := { s.rp with left := s.rp.left.drop 1, held := false } }.setReg 0 0 Reg.RP_REC (BitVec.ofNat 64 r.rseq)

/-- The record at the front waits; its hold is counted once (R439). -/
def State.heldBack (s : State) : State :=
  if s.rp.held then s else { s with rp := { s.rp with held := true } }.bump 0 0 Fld.RP_IMPOSED_HELD

/-- A MESSAGE record is handled (R439): a timing status is imposed, a message that would now get one is held, and any other is
executed. -/
def State.injectMessage (s : State) (r : Rec) (c : Instr) : State :=
  if timingStatus r.status then (s.bump 0 0 Fld.RP_IMPOSED_IMPOSED).injected r
  else match runMessage s.now c { s with rp := { s.rp with msg := some r.rseq } } with
    | .next t =>
      if (match t.rp.answered with | some (_, st, _) => timingStatus st | none => false) then s.heldBack
      else { t with rp := { t.rp with msg := none } }.injected r
    | .fault _ | .refused _ => s.injected r

/-! ### The other records -/

/-- The ingest object of the message that follows (R433); its record does not say the die, so it stands in both. -/
def State.injectObject (s : State) (r : Rec) (o : IngestObj) : State := (s.placeObj 0 r.ctx o).placeObj 1 r.ctx o

/-- A BEACON record's word, accepted now (R438). It was accepted in the original run, so nothing tests it again. -/
def State.injectBeacon (s : State) (w : HistRec) : State :=
  let x : BWord := ⟨ordToLin s.layers w.pos, s.now, w.flags, w.source == 1⟩
  let s := { s with rp := { s.rp with lastBeacon := some (w.time, s.now) } }
  let b := if x.frame then { s.bcn with frames := true, lastFrame := some s.now }
    else { s.bcn with frames := false, lastPin := some s.now }
  (s.setBcn b).acceptWord x (decide (s.est + s.jumpTol < x.pos))

/-- A BEACON record's instant has come (R438): PACE 0 keeps the recorded distance from the one before, PACE 1 waits for the
results of the current layer. -/
def State.beaconDue (s : State) (w : HistRec) : Bool :=
  if s.fld 0 0 Fld.RP_CTRL_PACE = 0 then
    match s.rp.lastBeacon with
    | some (recorded, injected) => decide (injected + (w.time - recorded) ≤ s.now)
    | none => true
  else s.attn.results.all (fun r => r.complete || !(r.key.step == s.step && r.key.layer == s.est / 256 % s.layers))

/-- A WRITE record of core `core` of the die of the record's port takes effect (R440). -/
def State.injectWrite (s : State) (die addr : Nat) (v : Word) (core : Nat) (p : Option PendingIdx) : State :=
  match mapAddr addr with
  | none => s
  | some (d, r) =>
    let a : Acc := ⟨s.now, .core die (core % 16), d⟩
    match s.selItem d a.rq r.sel with
    | some sel => s.writeEffect a sel r v p
    | none => s

/-- A SIDEBAND record takes effect (R433). -/
def State.injectSideband (s : State) (addr : Nat) (v : Word) : State :=
  match mapAddr addr with
  | none => s
  | some (d, r) => s.writeReg ⟨s.now, .sideband, d⟩ r v none

/-- A record's instant has come (R438): a BEACON record by its own rule, any other once the estimate reaches its POS. -/
def State.recordDue (s : State) (r : Rec) : Bool :=
  match r.body with
  | .beacon w => s.beaconDue w
  | .message _ | .object _ | .write _ _ _ _ | .sideband _ _ | .digest _ _ => decide (r.pos ≤ s.pos)

/-- A record is injected (R438 to R441). -/
def State.inject (s : State) (r : Rec) : State :=
  match r.body with
  | .message c => s.injectMessage r c
  | .object o => (s.injectObject r o).injected r
  | .beacon w => (s.injectBeacon w).injected r
  | .write addr v core p => (s.injectWrite (portDie r.port) addr v core p).injected r
  | .sideband addr v => (s.injectSideband addr v).injected r
  | .digest _ _ => s.injected r

/-! ### The end (R442) -/

/-- The form of a message's answer can still come: its result or its search has not ended. -/
def State.formPending (s : State) (msg : Nat) : Bool :=
  s.attn.results.any (fun r => r.msg == msg) || s.flash.searches.any (fun x => x.rec_ == msg)

/-- The messages of DIGEST records that no form has matched and none can (R441). -/
def State.unformed (s : State) : List Nat :=
  s.rp.area.recs.filterMap (fun r => match r.body with
    | .digest m _ => if s.rp.formed.contains m || s.formPending m then none else some m
    | .message _ | .object _ | .beacon _ | .write _ _ _ _ | .sideband _ _ => none)

/-- After the last record (R441, R442): DONE, and the position is held. -/
def State.replayDone (s : State) : State :=
  let s := s.formResults
  let s := s.unformed.foldl State.diverge s
  let s := s.setBcn { s.bcn with frozen := some s.est }
  (s.setFld 0 0 Fld.RP_STATUS_STATE 4).raise 0 0x9B {}

/-- REPLAY_INJECT (R437 to R442): the triggers due fire, and the next record is injected if its instant has come. -/
def execReplayInject (t : Nat) (s : State) : Res :=
  .next (if s.running && s.replaying then
      let s := s.tick t
      let s := if s.fires then s.fireDue false else s
      match s.rp.left with
      | [] => s.replayDone
      | r :: l =>
        if s.recordDue r then
          let x := s.inject r
          if l.isEmpty && x.rp.left.isEmpty then x.replayDone else x
        else s
    else s)

end Sys2Proof.Machine
end

