-- ==== Sys2Proof/Machine/Dispatch.lean ====
section
/-! DEFINITION. The dispatch of a command to its meaning: one arm per constructor of `Instr`, in the table's order. -/

namespace Sys2Proof.Machine

def exec (i : Instr) (s : State) : Host.Outcome State Fault Refusal :=
  match i with
  | .beaconPinWord t w => Sys2Proof.Machine.execBeaconPinWord t w s
  | .beaconEcho t => Sys2Proof.Machine.execBeaconEcho t s
  | .beaconFrame t f => Sys2Proof.Machine.execBeaconFrame t f s
  | .backLimitReached t => Sys2Proof.Machine.execBackLimitReached t s
  | .pinLossTimeout t => Sys2Proof.Machine.execPinLossTimeout t s
  | .beaconLossTimeout t => Sys2Proof.Machine.execBeaconLossTimeout t s
  | .coastLimit t => Sys2Proof.Machine.execCoastLimit t s
  | .bcnRebase a v => Sys2Proof.Machine.execBcnRebase a v s
  | .bcnEnableWrite a v => Sys2Proof.Machine.execBcnEnableWrite a v s
  | .stepBoundaryBookkeeping t => Sys2Proof.Machine.execStepBoundaryBookkeeping t s
  | .leaseExpiry t slot => Sys2Proof.Machine.execLeaseExpiry t slot s
  | .checkpointTick t => Sys2Proof.Machine.execCheckpointTick t s
  | .gateOpen t port entry => Sys2Proof.Machine.execGateOpen t port entry s
  | .gateClose t port entry => Sys2Proof.Machine.execGateClose t port entry s
  | .promotionTrigger t slot layer => Sys2Proof.Machine.execPromotionTrigger t slot layer s
  | .prefetchTrigger t slot layer => Sys2Proof.Machine.execPrefetchTrigger t slot layer s
  | .t0CopyRelease t die => Sys2Proof.Machine.execT0CopyRelease t die s
  | .sessionOpen e m => Sys2Proof.Machine.execSessionOpen e m s
  | .sessionClose e m => Sys2Proof.Machine.execSessionClose e m s
  | .handover e m => Sys2Proof.Machine.execHandover e m s
  | .leaseRenew e m => Sys2Proof.Machine.execLeaseRenew e m s
  | .park e m => Sys2Proof.Machine.execPark e m s
  | .wake e m => Sys2Proof.Machine.execWake e m s
  | .sesHeldNextRead a => Sys2Proof.Machine.execSesHeldNextRead a s
  | .ctxQuotaWrite a tier v => Sys2Proof.Machine.execCtxQuotaWrite a tier v s
  | .kvAppendInline e m => Sys2Proof.Machine.execKvAppendInline e m s
  | .kvAppendRdma e m => Sys2Proof.Machine.execKvAppendRdma e m s
  | .link e m => Sys2Proof.Machine.execLink e m s
  | .truncate e m => Sys2Proof.Machine.execTruncate e m s
  | .pin e m => Sys2Proof.Machine.execPin e m s
  | .unpin e m => Sys2Proof.Machine.execUnpin e m s
  | .stagingEvict t slot => Sys2Proof.Machine.execStagingEvict t slot s
  | .ageingSweep t die => Sys2Proof.Machine.execAgeingSweep t die s
  | .xlInval a v => Sys2Proof.Machine.execXlInval a v s
  | .xlProbe a v => Sys2Proof.Machine.execXlProbe a v s
  | .attend e m => Sys2Proof.Machine.execAttend e m s
  | .resultFetch e m => Sys2Proof.Machine.execResultFetch e m s
  | .resultRelease e m => Sys2Proof.Machine.execResultRelease e m s
  | .attnUnitDone t slot key kvHead seg o => Sys2Proof.Machine.execAttnUnitDone t slot key kvHead seg o s
  | .fanoutWaitExpired t die cluster => Sys2Proof.Machine.execFanoutWaitExpired t die cluster s
  | .autoRelease t slot key => Sys2Proof.Machine.execAutoRelease t slot key s
  | .retentionEnd t slot key => Sys2Proof.Machine.execRetentionEnd t slot key s
  | .draw e m => Sys2Proof.Machine.execDraw e m s
  | .feed e m => Sys2Proof.Machine.execFeed e m s
  | .grammar e m => Sys2Proof.Machine.execGrammar e m s
  | .finReset e m => Sys2Proof.Machine.execFinReset e m s
  | .demotionStart t die => Sys2Proof.Machine.execDemotionStart t die s
  | .demotionComplete t die u => Sys2Proof.Machine.execDemotionComplete t die u s
  | .promotionComplete t die u o => Sys2Proof.Machine.execPromotionComplete t die u o s
  | .promotionResume t die => Sys2Proof.Machine.execPromotionResume t die s
  | .t3ReadTimeout t die u => Sys2Proof.Machine.execT3ReadTimeout t die u s
  | .patrolScrub t die cluster channel stripe sector o => Sys2Proof.Machine.execPatrolScrub t die cluster channel stripe sector o s
  | .coreT1Store t die core addr cached data => Sys2Proof.Machine.execCoreT1Store t die core addr cached data s
  | .mcDegradeWrite a v => Sys2Proof.Machine.execMcDegradeWrite a v s
  | .retireRow a v => Sys2Proof.Machine.execRetireRow a v s
  | .retireBank a v => Sys2Proof.Machine.execRetireBank a v s
  | .retireDone t die => Sys2Proof.Machine.execRetireDone t die s
  | .testWriteData a v => Sys2Proof.Machine.execTestWriteData a v s
  | .testWriteCheck a v => Sys2Proof.Machine.execTestWriteCheck a v s
  | .testWrite a v => Sys2Proof.Machine.execTestWrite a v s
  | .testWriteParity a v => Sys2Proof.Machine.execTestWriteParity a v s
  | .testReadRaw a v => Sys2Proof.Machine.execTestReadRaw a v s
  | .testRead a v => Sys2Proof.Machine.execTestRead a v s
  | .stripeWaitExpired t die group => Sys2Proof.Machine.execStripeWaitExpired t die group s
  | .flashProgramDone t die group ok => Sys2Proof.Machine.execFlashProgramDone t die group ok s
  | .wkDegradeWrite a v => Sys2Proof.Machine.execWkDegradeWrite a v s
  | .wkGc a v => Sys2Proof.Machine.execWkGc a v s
  | .gcDone t die group => Sys2Proof.Machine.execGcDone t die group s
  | .wkMerge a v p => Sys2Proof.Machine.execWkMerge a v p s
  | .imageRestoreDone t slot o headerOk => Sys2Proof.Machine.execImageRestoreDone t slot o headerOk s
  | .search e m => Sys2Proof.Machine.execSearch e m s
  | .searchDone t die qid o => Sys2Proof.Machine.execSearchDone t die qid o s
  | .batchWaitExpired t die group => Sys2Proof.Machine.execBatchWaitExpired t die group s
  | .insert e m => Sys2Proof.Machine.execInsert e m s
  | .delete e m => Sys2Proof.Machine.execDelete e m s
  | .gspFrameRx t f => Sys2Proof.Machine.execGspFrameRx t f s
  | .reasmTimeout t die ep ctx ekey keyGen reqId => Sys2Proof.Machine.execReasmTimeout t die ep ctx ekey keyGen reqId s
  | .linkDown t port => Sys2Proof.Machine.execLinkDown t port s
  | .linkUp t port => Sys2Proof.Machine.execLinkUp t port s
  | .pfcRx t port enable pauseNs => Sys2Proof.Machine.execPfcRx t port enable pauseNs s
  | .pauseRx t port => Sys2Proof.Machine.execPauseRx t port s
  | .pfcPauseExpired t port prio => Sys2Proof.Machine.execPfcPauseExpired t port prio s
  | .ptpMessage t m => Sys2Proof.Machine.execPtpMessage t m s
  | .cmReq t port src ep qp mtu => Sys2Proof.Machine.execCmReq t port src ep qp mtu s
  | .rdmaWriteRx t port qp ctx ce kind obj => Sys2Proof.Machine.execRdmaWriteRx t port qp ctx ce kind obj s
  | .rdmaAckRx t die qp psn nak => Sys2Proof.Machine.execRdmaAckRx t die qp psn nak s
  | .rdmaRetryTimeout t die qp => Sys2Proof.Machine.execRdmaRetryTimeout t die qp s
  | .cnpRx t die qp => Sys2Proof.Machine.execCnpRx t die qp s
  | .rateRise t die qp => Sys2Proof.Machine.execRateRise t die qp s
  | .csRead e m => Sys2Proof.Machine.execCsRead e m s
  | .csWrite e m => Sys2Proof.Machine.execCsWrite e m s
  | .event e op zeros => Sys2Proof.Machine.execEvent e op zeros s
  | .frameTxEnd t port => Sys2Proof.Machine.execFrameTxEnd t port s
  | .chShaperWrite a n v => Sys2Proof.Machine.execChShaperWrite a n v s
  | .chGateSwap a v => Sys2Proof.Machine.execChGateSwap a v s
  | .tallyAdd e m => Sys2Proof.Machine.execTallyAdd e m s
  | .tallyAdvance e m => Sys2Proof.Machine.execTallyAdvance e m s
  | .tallyRead e m => Sys2Proof.Machine.execTallyRead e m s
  | .tlAdd a v => Sys2Proof.Machine.execTlAdd a v s
  | .tlAddAdvance a v => Sys2Proof.Machine.execTlAddAdvance a v s
  | .tallyArm a v => Sys2Proof.Machine.execTallyArm a v s
  | .tlPairWrite a v => Sys2Proof.Machine.execTlPairWrite a v s
  | .tlFire a v => Sys2Proof.Machine.execTlFire a v s
  | .tlSleep a v => Sys2Proof.Machine.execTlSleep a v s
  | .tlWokenRead a n => Sys2Proof.Machine.execTlWokenRead a n s
  | .lpFill a v => Sys2Proof.Machine.execLpFill a v s
  | .lpScrubNextRead a => Sys2Proof.Machine.execLpScrubNextRead a s
  | .lpScrubDone a v => Sys2Proof.Machine.execLpScrubDone a v s
  | .scrubCheckDone t die job firstBad => Sys2Proof.Machine.execScrubCheckDone t die job firstBad s
  | .grammarInstall a c o => Sys2Proof.Machine.execGrammarInstall a c o s
  | .grammarRemove a c => Sys2Proof.Machine.execGrammarRemove a c s
  | .indexCreate a c sh => Sys2Proof.Machine.execIndexCreate a c sh s
  | .indexLoad a c p => Sys2Proof.Machine.execIndexLoad a c p s
  | .indexMerge a c p => Sys2Proof.Machine.execIndexMerge a c p s
  | .indexRemove a c => Sys2Proof.Machine.execIndexRemove a c s
  | .coreException t die core k => Sys2Proof.Machine.execCoreException t die core k s
  | .teardownDrain t ctx => Sys2Proof.Machine.execTeardownDrain t ctx s
  | .contextResumed a v => Sys2Proof.Machine.execContextResumed a v s
  | .reqStuck t die => Sys2Proof.Machine.execReqStuck t die s
  | .powerOnStart t img hw => Sys2Proof.Machine.execPowerOnStart t img hw s
  | .startStepTimeout t step => Sys2Proof.Machine.execStartStepTimeout t step s
  | .resetAssert t => Sys2Proof.Machine.execResetAssert t s
  | .pwrOkFall t => Sys2Proof.Machine.execPwrOkFall t s
  | .glbModeWrite a v => Sys2Proof.Machine.execGlbModeWrite a v s
  | .reportState a v => Sys2Proof.Machine.execReportState a v s
  | .reportScrub a v => Sys2Proof.Machine.execReportScrub a v s
  | .reportDone t => Sys2Proof.Machine.execReportDone t s
  | .provision a v p => Sys2Proof.Machine.execProvision a v p s
  | .deploy a v readBackOk => Sys2Proof.Machine.execDeploy a v readBackOk s
  | .raiseSvn a v readBackOk => Sys2Proof.Machine.execRaiseSvn a v readBackOk s
  | .scrubAll a v => Sys2Proof.Machine.execScrubAll a v s
  | .scrubAllDone t pass t1Bytes sramBytes skipBytes => Sys2Proof.Machine.execScrubAllDone t pass t1Bytes sramBytes skipBytes s
  | .lcReturn a v p => Sys2Proof.Machine.execLcReturn a v p s
  | .scrap a v readBackOk => Sys2Proof.Machine.execScrap a v readBackOk s
  | .advance a v => Sys2Proof.Machine.execAdvance a v s
  | .retirePrev a v => Sys2Proof.Machine.execRetirePrev a v s
  | .jtagInstruction t die j => Sys2Proof.Machine.execJtagInstruction t die j s
  | .checkpointTake e m => Sys2Proof.Machine.execCheckpointTake e m s
  | .checkpointDiscard e m => Sys2Proof.Machine.execCheckpointDiscard e m s
  | .checkpointCut t => Sys2Proof.Machine.execCheckpointCut t s
  | .cbwSpaceFreed t die units => Sys2Proof.Machine.execCbwSpaceFreed t die units s
  | .shardDone t shard bodyLen readFail sent => Sys2Proof.Machine.execShardDone t shard bodyLen readFail sent s
  | .restore e m => Sys2Proof.Machine.execRestore e m s
  | .restoreComplete t fail => Sys2Proof.Machine.execRestoreComplete t fail s
  | .coreKat t die cluster core pass => Sys2Proof.Machine.execCoreKat t die cluster core pass s
  | .unitOverrun t die cluster core => Sys2Proof.Machine.execUnitOverrun t die cluster core s
  | .coreFault t die cluster core => Sys2Proof.Machine.execCoreFault t die cluster core s
  | .spareKatDone t die cluster pass => Sys2Proof.Machine.execSpareKatDone t die cluster pass s
  | .watchdogExpiry t die core => Sys2Proof.Machine.execWatchdogExpiry t die core s
  | .lampFault t die core => Sys2Proof.Machine.execLampFault t die core s
  | .hlKick a v => Sys2Proof.Machine.execHlKick a v s
  | .lockstepMismatch t die => Sys2Proof.Machine.execLockstepMismatch t die s
  | .supRestart t die digestOk inTime => Sys2Proof.Machine.execSupRestart t die digestOk inTime s
  | .hlRowSpare a v => Sys2Proof.Machine.execHlRowSpare a v s
  | .dramRetrain t die cluster channel pass readPs writePs => Sys2Proof.Machine.execDramRetrain t die cluster channel pass readPs writePs s
  | .ageMeasure t die pair driftPpm refCount => Sys2Proof.Machine.execAgeMeasure t die pair driftPpm refCount s
  | .hlPlan a v => Sys2Proof.Machine.execHlPlan a v s
  | .hlAlertAck a v => Sys2Proof.Machine.execHlAlertAck a v s
  | .thermalSample t die temps => Sys2Proof.Machine.execThermalSample t die temps s
  | .dramTempPoll t die cluster channel hot rate => Sys2Proof.Machine.execDramTempPoll t die cluster channel hot rate s
  | .refclkLoss t c => Sys2Proof.Machine.execRefclkLoss t c s
  | .refclkRestored t c => Sys2Proof.Machine.execRefclkRestored t c s
  | .bdVack a v => Sys2Proof.Machine.execBdVack a v s
  | .vreqTimeout t => Sys2Proof.Machine.execVreqTimeout t s
  | .sidebandWrite t size addr data => Sys2Proof.Machine.execSidebandWrite t size addr data s
  | .sidebandRead t size addr => Sys2Proof.Machine.execSidebandRead t size addr s
  | .sidebandCcc t c => Sys2Proof.Machine.execSidebandCcc t c s
  | .recordArm a v => Sys2Proof.Machine.execRecordArm a v s
  | .recordStop a v => Sys2Proof.Machine.execRecordStop a v s
  | .replayArm a v => Sys2Proof.Machine.execReplayArm a v s
  | .replayInject t => Sys2Proof.Machine.execReplayInject t s
  | .registerWrite a addr v => Sys2Proof.Machine.execRegisterWrite a addr v s
  | .prefetchComplete t die slot layer o => Sys2Proof.Machine.execPrefetchComplete t die slot layer o s
  | .segmentEraseDone t die group seg ok => Sys2Proof.Machine.execSegmentEraseDone t die group seg ok s
  | .shaperCreditRecovered t port cls => Sys2Proof.Machine.execShaperCreditRecovered t port cls s
  | .laneEyeMeasure t lane heightMv widthMui => Sys2Proof.Machine.execLaneEyeMeasure t lane heightMv widthMui s
  | .eventLimitStepEnd t => Sys2Proof.Machine.execEventLimitStepEnd t s
  | .d2dLinkFault t laneFailed lane => Sys2Proof.Machine.execD2dLinkFault t laneFailed lane s
  | .sidebandIbiAccept t => Sys2Proof.Machine.execSidebandIbiAccept t s

end Sys2Proof.Machine
end

