-- ==== Sys2Proof/Machine/Step.lean ====
section
/-! DEFINITION. One step of the block: the command at the front of the queue runs (log 2), and the host's own entry. -/

namespace Sys2Proof.Machine

/-- `s` without the command at the front of its queue. -/
def State.withRest (s : State) (l : List Instr) : State := { s with pending := l }

/-- `s` with a command put at the front of its queue. -/
def State.push (s : State) (c : Instr) : State := { s with pending := c :: s.pending }

/-- One step: the command at the front is taken and runs on the rest; with an empty queue the block idles (log 2). -/
def step (s : State) : Host.Outcome State Fault Refusal :=
  match s.pending with
  | [] => .next s
  | c :: l => exec c (s.withRest l)

/-- `s` with the command that a word spells put at the front; no row of the table has bits, so no word spells one
(log 3). -/
def State.withFetchWord (s : State) (nbits w : Nat) : State :=
  match decodeTableWord nbits w with
  | some c => s.push c
  | none => s

end Sys2Proof.Machine
end

