-- ==== Sys2Proof/WellFormed.lean ====
section
/-! DEFINITION. When a command is well formed: every operand fits the field or the count of units that the spec gives it. A command
that is not well formed cannot come from the hardware's inputs; `exec` is total on it all the same. -/

namespace Sys2Proof

/-- A number fits a field of `n` bits. -/
def fits (n v : Nat) : Bool := decide (v < 2 ^ n)

/-- A die of the module (R1). -/
def dieOk (d : Nat) : Bool := decide (d < 2)
/-- A port: 24 on each die (R265). -/
def portOk (p : Nat) : Bool := decide (p < 48)
/-- A cluster of a die (R1). -/
def clusterOk (c : Nat) : Bool := decide (c < 8)
/-- An attention core of a cluster, the spare among them (R1, R410). -/
def coreOk (c : Nat) : Bool := decide (c < 17)
/-- A control core of a die by LP_LIMIT_STAT.CORE (R347). -/
def ctrlOk (c : Nat) : Bool := decide (c < 10)

/-- A requester that exists (R474). -/
def Requester.wf : Requester → Bool
  | .core d c => dieOk d && ctrlOk c
  | .ep id => fits 16 id
  | .sideband | .jtag | .start => true

/-- An access of a requester that exists on a die that exists. -/
def Acc.wf (a : Acc) : Bool := a.rq.wf && dieOk a.die

/-- The header fields of a message (R271). -/
def Env.wf (e : Env) : Bool :=
  portOk e.port && fits 16 e.srcUdp && fits 16 e.ep && fits 12 e.ctx && fits 8 e.keyGen && fits 64 e.reqId

/-- SESSION_OPEN (R43). -/
def OpenMsg.wf (m : OpenMsg) : Bool :=
  fits 64 m.reqTag && fits 16 m.context && fits 8 m.initial && fits 8 m.die && fits 16 m.holder && fits 16 m.zero
    && fits 32 m.leaseSteps && fits 32 m.window && fits 128 m.seed

/-- The other session messages (R43). -/
def SesMsg.wf (m : SesMsg) : Bool :=
  fits 64 m.handle && fits 32 m.epoch && fits 16 m.newOwner && fits 8 m.depth && fits 8 m.zero && fits 32 m.leaseSteps
    && fits 64 m.firstPos

/-- KV_APPEND (R82). -/
def KvMsg.wf (m : KvMsg) : Bool :=
  fits 64 m.handle && fits 32 m.epoch && fits 8 m.form && fits 8 m.layerFirst && fits 8 m.layerCount && fits 8 m.zero15
    && fits 32 m.firstPos && fits 32 m.count && fits 64 m.aux && fits 32 m.bytes && fits 32 m.zero36

/-- ATTEND (R124). -/
def AttendMsg.wf (m : AttendMsg) : Bool :=
  fits 64 m.handle && fits 32 m.epoch && fits 48 m.step && fits 8 m.layer && fits 8 m.aflags && fits 32 m.len && fits 64 m.qoff
    && fits 64 m.doff

/-- RESULT_FETCH and RESULT_RELEASE (R156). -/
def FetchMsg.wf (m : FetchMsg) : Bool :=
  fits 64 m.handle && fits 32 m.epoch && fits 48 m.step && fits 8 m.layer && fits 8 m.zero

/-- FINISH (R165). -/
def FinMsg.wf (m : FinMsg) : Bool :=
  fits 64 m.handle && fits 32 m.epoch && fits 32 m.opseq && fits 48 m.step && fits 8 m.form && fits 8 m.fflags && fits 16 m.topk
    && fits 16 m.minKeep && fits 16 m.grammar && fits 16 m.zero54 && fits 32 m.bytes && fits 32 m.zero60 && fits 64 m.ioff

/-- SEARCH (R258). -/
def SearchMsg.wf (m : SearchMsg) : Bool :=
  fits 16 m.context && fits 16 m.index && fits 8 m.mode && fits 8 m.zero5 && fits 16 m.k && fits 16 m.nprobe && fits 16 m.beam
    && fits 8 m.prefetch && fits 8 m.zero13 && fits 32 m.maxVisit && fits 32 m.bytes && fits 64 m.qtag

/-- INSERT and DELETE (R258). -/
def SideMsg.wf (m : SideMsg) : Bool :=
  fits 16 m.context && fits 16 m.index && fits 16 m.count && fits 16 m.zero6 && fits 32 m.bytes && fits 32 m.zero12

/-- TALLY_ADD and TALLY_READ (R321). -/
def TallyMsg.wf (m : TallyMsg) : Bool := fits 16 m.tally && fits 8 m.form && fits 32 m.zero && fits 64 m.amount

/-- CS_READ and CS_WRITE (R286). -/
def CsMsg.wf (m : CsMsg) : Bool := fits 64 m.addr && fits 16 m.count && fits 48 m.zero && decide (m.values.length ≤ 65535)

/-- CHECKPOINT and RESTORE (R395). -/
def CkptMsg.wf (m : CkptMsg) : Bool := fits 8 m.op && fits 56 m.zero && fits 64 m.ckptId

/-- A pin word (R10). -/
def PinWord.wf (w : PinWord) : Bool := fits 48 w.s && fits 8 w.l && fits 8 w.p

/-- A beacon frame (R13). -/
def BeaconFrame.wf (f : BeaconFrame) : Bool :=
  portOk f.port && fits 16 f.udp && fits 8 f.version && fits 48 f.s && fits 8 f.l && fits 8 f.p && fits 64 f.originNs && fits 32 f.seq

/-- A GSP frame (R271). -/
def GspFrame.wf (f : GspFrame) : Bool :=
  portOk f.port && fits 16 f.srcUdp && fits 8 f.version && fits 8 f.type && fits 8 f.status && fits 16 f.ep && fits 16 f.node
    && fits 16 f.ctxField && fits 8 f.keyGen && fits 8 f.reason && fits 32 f.length && fits 64 f.seq && fits 64 f.reqId
    && fits 16 f.segIndex && fits 16 f.segCount && fits 32 f.msgLen && fits 32 f.start && fits 32 f.zero44

/-- A unit that moves: slot, layer and page of R35 and R68, or a SHARE_ID (R73). -/
def UnitRef.wf : UnitRef → Bool
  | .page slot layer p => fits 20 slot && fits 7 layer && fits 20 p
  | .shared d id => dieOk d && fits 24 id
  | .staging slot => fits 20 slot

/-- A result's key (R153). -/
def ResKey.wf (k : ResKey) : Bool := fits 32 k.epoch && fits 48 k.step && fits 7 k.layer

/-- A firmware service (R343). -/
def SvcCmd.wf (c : SvcCmd) : Bool := fits 12 c.context && fits 16 c.tag && fits 40 c.ioff && fits 12 c.id

/-- A command is well formed. -/
def Instr.wf : Instr → Bool
  | .beaconPinWord _ w => w.wf
  | .beaconFrame _ f => f.wf
  | .beaconEcho _ | .backLimitReached _ | .pinLossTimeout _ | .beaconLossTimeout _ | .coastLimit _ | .stepBoundaryBookkeeping _
  | .checkpointTick _ | .reportDone _ | .checkpointCut _ | .vreqTimeout _ | .replayInject _ | .eventLimitStepEnd _
  | .sidebandIbiAccept _ | .resetAssert _ | .pwrOkFall _ => true
  | .bcnRebase a _ | .bcnEnableWrite a _ | .xlInval a _ | .xlProbe a _ | .mcDegradeWrite a _ | .retireRow a _ | .retireBank a _
  | .testWriteData a _ | .testWriteCheck a _ | .testWrite a _ | .testWriteParity a _ | .testReadRaw a _ | .testRead a _
  | .wkDegradeWrite a _ | .wkGc a _ | .wkMerge a _ _ | .chGateSwap a _ | .tlAdd a _ | .tlAddAdvance a _ | .tallyArm a _
  | .tlPairWrite a _ | .tlFire a _ | .tlSleep a _ | .lpFill a _ | .lpScrubDone a _ | .contextResumed a _ | .glbModeWrite a _
  | .reportState a _ | .reportScrub a _ | .provision a _ _ | .deploy a _ _ | .raiseSvn a _ _ | .scrubAll a _ | .lcReturn a _ _
  | .scrap a _ _ | .advance a _ | .retirePrev a _ | .hlKick a _ | .hlRowSpare a _ | .hlPlan a _ | .hlAlertAck a _ | .bdVack a _
  | .recordArm a _ | .recordStop a _ | .replayArm a _ | .sesHeldNextRead a | .lpScrubNextRead a => a.wf
  | .ctxQuotaWrite a tier _ => a.wf && fits 2 tier
  | .chShaperWrite a n _ => a.wf && fits 3 n
  | .tlWokenRead a n => a.wf && fits 2 n
  | .registerWrite a addr _ => a.wf && fits 48 addr
  | .leaseExpiry _ slot | .stagingEvict _ slot | .imageRestoreDone _ slot _ _ => fits 20 slot
  | .gateOpen _ p e | .gateClose _ p e => portOk p && fits 5 e
  | .promotionTrigger _ slot layer | .prefetchTrigger _ slot layer => fits 20 slot && fits 7 layer
  | .t0CopyRelease _ d | .ageingSweep _ d | .demotionStart _ d | .promotionResume _ d | .retireDone _ d | .reqStuck _ d
  | .lockstepMismatch _ d | .supRestart _ d _ _ => dieOk d
  | .sessionOpen e m => e.wf && m.wf
  | .sessionClose e m | .handover e m | .leaseRenew e m | .park e m | .wake e m => e.wf && m.wf
  | .kvAppendInline e m | .kvAppendRdma e m | .link e m | .truncate e m | .pin e m | .unpin e m => e.wf && m.wf
  | .attend e m => e.wf && m.wf
  | .resultFetch e m | .resultRelease e m => e.wf && m.wf
  | .draw e m | .feed e m | .grammar e m | .finReset e m => e.wf && m.wf
  | .search e m => e.wf && m.wf
  | .insert e m | .delete e m => e.wf && m.wf
  | .csRead e m | .csWrite e m => e.wf && m.wf
  | .event e op _ => e.wf && fits 8 op
  | .tallyAdd e m | .tallyAdvance e m | .tallyRead e m => e.wf && m.wf
  | .checkpointTake e m | .checkpointDiscard e m | .restore e m => e.wf && m.wf
  | .attnUnitDone _ slot k head seg _ => fits 20 slot && k.wf && fits 7 head && fits 20 seg
  | .fanoutWaitExpired _ d c | .spareKatDone _ d c _ => dieOk d && clusterOk c
  | .autoRelease _ slot k | .retentionEnd _ slot k => fits 20 slot && k.wf
  | .demotionComplete _ d u | .promotionComplete _ d u _ | .t3ReadTimeout _ d u => dieOk d && u.wf
  | .patrolScrub _ d c ch _ _ _ | .dramRetrain _ d c ch _ _ _ | .dramTempPoll _ d c ch _ _ => dieOk d && clusterOk c && fits 3 ch
  | .coreT1Store _ d c _ _ data => dieOk d && ctrlOk c && decide (data.length ≤ 64)
  | .stripeWaitExpired _ d g | .flashProgramDone _ d g _ | .gcDone _ d g | .batchWaitExpired _ d g => dieOk d && fits 1 g
  | .segmentEraseDone _ d g _ _ => dieOk d && fits 1 g
  | .searchDone _ d _ _ => dieOk d
  | .gspFrameRx _ f => f.wf
  | .reasmTimeout _ d ep ctx _ gen req => dieOk d && fits 16 ep && fits 12 ctx && fits 8 gen && fits 64 req
  | .linkDown _ p | .linkUp _ p | .pauseRx _ p | .frameTxEnd _ p => portOk p
  | .pfcRx _ p _ pause => portOk p && decide (pause.length = 8)
  | .pfcPauseExpired _ p prio | .shaperCreditRecovered _ p prio => portOk p && fits 3 prio
  | .ptpMessage _ m => portOk m.port
  | .cmReq _ p _ ep qp mtu => portOk p && fits 16 ep && fits 24 qp && fits 16 mtu
  | .rdmaWriteRx _ p qp ctx _ _ _ => portOk p && fits 24 qp && fits 12 ctx
  | .rdmaAckRx _ d qp psn _ => dieOk d && fits 24 qp && fits 24 psn
  | .rdmaRetryTimeout _ d qp | .cnpRx _ d qp | .rateRise _ d qp => dieOk d && fits 24 qp
  | .scrubCheckDone _ d _ _ => dieOk d
  | .grammarInstall a c _ | .grammarRemove a c | .indexCreate a c _ | .indexLoad a c _ | .indexMerge a c _ | .indexRemove a c =>
    a.wf && c.wf
  | .coreException _ d c _ | .watchdogExpiry _ d c | .lampFault _ d c => dieOk d && ctrlOk c
  | .teardownDrain _ ctx => fits 12 ctx
  | .powerOnStart _ img _ => img.ports.all (fun p => portOk p.port) && img.contexts.all (fun c => fits 12 c.id)
  | .startStepTimeout _ n => decide (1 ≤ n ∧ n ≤ 8)
  | .scrubAllDone _ _ _ _ _ => true
  | .jtagInstruction _ d _ => dieOk d
  | .cbwSpaceFreed _ d _ => dieOk d
  | .shardDone _ n _ _ _ => decide (n < 18)
  | .restoreComplete _ f => (match f with | some p => fits 8 p.1 && fits 56 p.2 | none => true)
  | .coreKat _ d c k _ | .unitOverrun _ d c k | .coreFault _ d c k => dieOk d && clusterOk c && coreOk k
  | .ageMeasure _ d pair _ _ => dieOk d && fits 6 pair
  | .thermalSample _ d _ => dieOk d
  | .refclkLoss _ c | .refclkRestored _ c => (match c with | .core => true | .eth q => fits 2 q)
  | .sidebandWrite _ _ addr _ | .sidebandRead _ _ addr => fits 48 addr
  | .sidebandCcc _ c => (match c with | .entdaa x | .setdasa x => fits 7 x | .other x => fits 8 x | _ => true)
  | .prefetchComplete _ d slot layer _ => dieOk d && fits 20 slot && fits 7 layer
  | .laneEyeMeasure _ lane _ _ => fits 16 lane
  | .d2dLinkFault _ _ lane => fits 16 lane

end Sys2Proof
end

