-- ==== Sys2Proof/Safety.lean ====
section
/-! DEFINITION. What counts as a safe state and a safe step, in the terms the statements use. -/

namespace Sys2Proof.Machine

/-- The command runs: `exec` answers a next state. -/
def Completes (c : Instr) (s : State) : Prop := ∃ t, exec c s = .next t

/-- The fuses of `b` are those of `a`, or some more are burned: a fuse never returns to its former value (R367). -/
def Fuses.burned (a b : Fuses) : Prop :=
  a.lc ≤ b.lc ∧ (a.used0 = true → b.used0 = true) ∧ (a.valid0 = true → b.valid0 = true) ∧ (a.used1 = true → b.used1 = true)
    ∧ (a.valid1 = true → b.valid1 = true) ∧ a.floor ≤ b.floor ∧ (a.rootKill = true → b.rootKill = true)

/-- The plain data of a state are in canonical form: the register file, the T1 bytes of both dies, and the same parts of every
checkpoint set. -/
def State.Canonical (s : State) : Prop :=
  regsWf s.regs = true ∧ memWf s.tier.t1a = true ∧ memWf s.tier.t1b = true
    ∧ ∀ x ∈ s.ckpt.snaps, regsWf x.regs = true ∧ memWf x.t1a = true ∧ memWf x.t1b = true

/-- The registers that hold what software or the boot image set, and that no operation of the J716 writes of its own (R7, R358). -/
def settings : List RegId :=
  [Reg.BCN_FETCH, Reg.BCN_INIT, Reg.BCN_LIMITS, Reg.BCN_TIMEOUT, Reg.BCN_PIN_CFG, Reg.BCN_FRAME_CFG, Reg.BCN_REBASE_POS,
    Reg.SES_CTRL, Reg.SES_TABLE, Reg.SES_LEASE, Reg.SES_REC_SEL, Reg.CTX_SEL, Reg.XL_CTRL, Reg.XL_ROOT, Reg.XL_CTX_RETAIN,
    Reg.PK_CTX_ENC, Reg.PK_CTRL, Reg.ATN_CTRL, Reg.ATN_T0_BUDGET, Reg.ATN_CTX_MODE, Reg.ATN_CTX_SCALE, Reg.FIN_CTRL_FLUSH,
    Reg.FIN_GSTORE, Reg.FIN_GRAM_SEL, Reg.FIN_CTX_PEN, Reg.TR_CTRL, Reg.TR_RATE, Reg.TR_WATER_T1, Reg.TR_WATER_T2,
    Reg.MC_SCRUB, Reg.MC_CE, Reg.MC_TEST_ADDR, Reg.WK_CTRL, Reg.WK_GEOM, Reg.WK_SEGTAB, Reg.WK_IDXTAB, Reg.WK_GC_RESERVE,
    Reg.WK_LDPC, Reg.WK_IDX_SEL, Reg.ETH_PORT_SEL, Reg.GSP_LIMITS, Reg.GSP_RDMA_CFG, Reg.GSP_EP_SEL, Reg.CH_CTRL,
    Reg.CH_PORT_SEL, Reg.CH_PORT_CFG, Reg.CH_CLASS_MAP, Reg.CH_GATE_SEL, Reg.TL_CTRL, Reg.TL_SEL,
    Reg.TL_EXPECT, Reg.LP_SCRUB_Q, Reg.LP_HOME_MAP, Reg.SEAL_WIN_SEL, Reg.SEAL_KEYGEN_SEL, Reg.CK_CTRL,
    Reg.CK_AREA, Reg.CK_SHARD, Reg.CK_RATE, Reg.HL_CTRL, Reg.HL_CORE_SEL, Reg.HL_MON_SEL, Reg.HL_AGE_CFG, Reg.RP_AREA,
    Reg.RP_BUF, Reg.BD_TEMP_SEL]

/-- A command that may change T1 as memory, a fuse, the boot image or one of the `settings`: a store or a fill, a write of whichever
register it names, a reset or a start, a restore, a command of the life cycle, the injection of a record. -/
def unsettling : Instr → Bool
  | .coreT1Store .. | .lpFill .. | .resetAssert .. | .pwrOkFall .. | .powerOnStart .. | .startStepTimeout ..
  | .restoreComplete .. | .provision .. | .deploy .. | .raiseSvn .. | .scrubAll .. | .lcReturn .. | .scrap .. | .csWrite ..
  | .registerWrite .. | .sidebandWrite .. | .replayInject .. => true
  | _ => false

/-- `b` holds the T1 bytes of both dies, the fuses, the boot image and the settings of `a`. -/
structure State.Fixed (a b : State) : Prop where
  t1a : b.tier.t1a = a.tier.t1a
  t1b : b.tier.t1b = a.tier.t1b
  fuses : b.ident.fuses = a.ident.fuses
  image : b.start.img = a.start.img
  settings : ∀ d i r, r ∈ settings → b.reg d i r = a.reg d i r

/-- A command that acts beside sessions, pages, automata, the tracker, the tiers and flash: on links and connections, on tallies and
wires, on lamplighters, on identity and reports, on health, clocks, sensors and the pins. -/
def sparing : Instr → Bool
  | .xlProbe .. | .fanoutWaitExpired .. | .retentionEnd .. | .mcDegradeWrite .. | .wkDegradeWrite .. | .gspFrameRx ..
  | .reasmTimeout .. | .linkDown .. | .pfcRx .. | .pauseRx .. | .pfcPauseExpired .. | .ptpMessage .. | .cmReq ..
  | .rdmaWriteRx .. | .rdmaAckRx .. | .rdmaRetryTimeout .. | .cnpRx .. | .rateRise .. | .frameTxEnd .. | .chShaperWrite ..
  | .chGateSwap .. | .tlAdd .. | .tlAddAdvance .. | .tallyArm .. | .tlPairWrite .. | .tlFire .. | .tlSleep ..
  | .tlWokenRead .. | .lpScrubNextRead .. | .lpScrubDone .. | .coreException .. | .teardownDrain .. | .contextResumed ..
  | .reqStuck .. | .glbModeWrite .. | .reportState .. | .reportScrub .. | .reportDone .. | .scrubAllDone .. | .advance ..
  | .retirePrev .. | .jtagInstruction .. | .cbwSpaceFreed .. | .watchdogExpiry .. | .lampFault .. | .hlKick ..
  | .lockstepMismatch .. | .supRestart .. | .hlRowSpare .. | .dramRetrain .. | .ageMeasure .. | .hlPlan .. | .hlAlertAck ..
  | .thermalSample .. | .dramTempPoll .. | .refclkLoss .. | .refclkRestored .. | .bdVack .. | .vreqTimeout ..
  | .sidebandCcc .. | .recordArm .. | .recordStop .. | .replayArm .. | .shaperCreditRecovered .. | .laneEyeMeasure ..
  | .eventLimitStepEnd .. | .d2dLinkFault .. | .sidebandIbiAccept .. => true
  | _ => false

/-- `b` holds the tracker, the sessions, the pages and areas, the automata, the tiers and the flash of `a`. -/
structure State.Spared (a b : State) : Prop where
  bcn : b.bcn = a.bcn
  ses : b.ses = a.ses
  kv : b.kv = a.kv
  grams : b.grams = a.grams
  tier : b.tier = a.tier
  flash : b.flash = a.flash

/-- A write of `v` to register `r` by access `a` is carried out, on item `sel`: the requester is there and no rule turns it away
(R7, R330, R331, R440, R461, R470 to R474). -/
abbrev State.Accepts (s : State) (a : Acc) (r : RegId) (v : Word) (sel : Nat) : Prop :=
  s.present a.rq = true ∧ a.die ≤ 1 ∧ (a.die = 0 ∨ (rowOf r).onDie1 = true)
    ∧ (s.tick a.t).selItem a.die a.rq (rowOf r).sel = some sel
    ∧ (s.tick a.t).writePass a.rq a.die sel (rowOf r) v = .go ∧ (s.replaying = false ∨ s.discarded a.rq r = false)

/-- A read of register `r` by access `a` is carried out, on item `sel` (R461, R470 to R474). -/
abbrev State.Shows (s : State) (a : Acc) (r : RegId) (sel : Nat) : Prop :=
  s.present a.rq = true ∧ a.die ≤ 1 ∧ (a.die = 0 ∨ (rowOf r).onDie1 = true)
    ∧ (s.tick a.t).selItem a.die a.rq (rowOf r).sel = some sel ∧ (s.tick a.t).readPass a.rq (rowOf r) = .go

/-- `s` when a message of type `type` has arrived: no answer yet. -/
def State.arrived (s : State) : State := { s.formResults with rp := { s.formResults.rp with answered := none } }

/-- A message of type `type` reaches the check order of its chapter (R270, R290, R333, R377, R399, R438). -/
abbrev State.Enters (s : State) (e : Env) (type : Nat) : Prop := s.arrived.entry e type = .enter

/-- What the check order of a message finds: its time has passed, and the tracker holds it. A record of slot `slot` that the message
finds corrupt is marked (R41). -/
def State.heard (s : State) (e : Env) (type : Nat) (slot : Option Nat) : State :=
  let u := ((s.arrived.tick e.t).takeReady e).track e type slot
  match slot with
  | some x => if e.recBad then u.setSess x { u.sess x with crcBad := true } else u
  | none => u

/-- A KV_APPEND of form `form` (0 INLINE, 1 RDMA, 2 LINK, 3 TRUNCATE, 4 PIN, 5 UNPIN) passes steps 2 to 7 of R50, and its session has
its staging area `g` in T1 (R82, R85, R245). `h` is what its checks find. -/
abbrev State.AppendPasses (s : State) (e : Env) (m : KvMsg) (form : Nat) (h : State) (g : Staging) : Prop :=
  s.Enters e 0x03 ∧ h = s.heard e 0x03 (some (handleSlot m.handle)) ∧ (form = 2 → handleClean m.aux = true)
    ∧ h.r50 e m.handle m.epoch 0x35 false (fun _ => false) (h.holderCell e true) = none ∧ h.kvFields m form = none
    ∧ alGet (handleSlot m.handle) s.kv.images = none ∧ s.staging (handleSlot m.handle) = some g

end Sys2Proof.Machine
end

