-- ==== Sys2Proof/Certificates/Slice0/Obligations.lean ====
section
/-! DEFINITION. What is claimed of the model: statements for the provers. -/

open Sys2Proof Sys2Proof.Machine

/-- With a command at the front of its queue, a step is that command's effect on the state with the queue's rest. With an empty queue the
block idles: nothing changes (the model's choice, log 2). -/
def Obligations.StepRunsFront : Prop :=
  (∀ (c : Instr) (l : List Instr) (s : State), step (s.withRest (c :: l)) = exec c (s.withRest l))
  ∧ ∀ s : State, s.pending = [] → step s = .next s

/-- After reset the J716 does not run, STATUS is 0, the queue is empty, the tracker is in NO_PHASE, the boundary count is 0, every slot is
FREE, no page is mapped, T1 reads 0 (the model's choice, log 7), the plain data are canonical, and every field of every mapped register
has the value its table gives for reset (24 in the two port selections of die 1; 0 where the table says 'image', the model's choice, log
5). -/
def Obligations.ResetState : Prop :=
  State.reset.status = 0 ∧ State.reset.running = false ∧ State.reset.pending = [] ∧ State.reset.bcn.trk = .noPhase ∧ State.reset.boundary = 0
    ∧ State.reset.Canonical ∧ (∀ slot, (State.reset.sess slot).st = .free) ∧ (∀ k, State.reset.leaf k = none)
    ∧ (∀ die x, memGet (State.reset.t1 die) x = 0)
    ∧ ∀ blk, blk ≤ 0x12 → ∀ r ∈ regRowsOf blk, ∀ f ∈ r.fields, ∀ die sel, die < 2 → (die = 1 → r.onDie1 = true) →
      getBits (State.reset.reg die sel r.id) f.hi f.lo
        = (if die = 1 ∧ (r.id = Reg.ETH_PORT_SEL ∨ r.id = Reg.CH_PORT_SEL) then 24 else f.reset)

/-- From every state whose register file, T1 bytes and checkpoint sets are in canonical form, every step that answers a next state answers one
in which they are. -/
def Obligations.StepKeepsCanonical : Prop :=
  ∀ s t : State, s.Canonical → step s = .next t → t.Canonical

/-- For every step that answers a next state: every fuse that was burned is burned (the life cycle, the key slots, the security-version floor,
the root kill), time is not earlier, and the queue is what stood behind its front. -/
def Obligations.FusesNeverUnburn : Prop :=
  ∀ s t : State, step s = .next t → s.ident.fuses.burned t.ident.fuses ∧ s.now ≤ t.now ∧ t.pending = s.pending.tail

/-- Whenever a command that is not one of the 17 of `unsettling` (stores and fills, writes of whichever register they name, resets and starts,
a restore, the commands of the life cycle, the injection of a record) answers a next state, that state holds the same T1 bytes on both
dies, the same fuses, the same boot image, and every register of `settings` on every die and item as before. -/
def Obligations.SettingsAndMemoryStand : Prop :=
  ∀ (c : Instr) (s t : State), unsettling c = false → exec c s = .next t → s.Fixed t

/-- Whenever one of the 68 commands of `sparing` (on links and connections, tallies and wires, lamplighters, identity and reports, health,
clocks, sensors and pins) answers a next state, that state holds the same beacon tracker, the same session records, the same pages and
areas, the same automata, the same tiers and the same flash state. -/
def Obligations.SparingCommandsStand : Prop :=
  ∀ (c : Instr) (s t : State), sparing c = true → exec c s = .next t → s.Spared t

/-- In every state every command answers a next state, but for CORE_T1_STORE with an address past the end of T1 and JTAG_INSTRUCTION with an
instruction of the maker, which the spec gives no effect. -/
def Obligations.CommandsComplete : Prop :=
  ∀ (c : Instr) (s : State), (∀ t die core addr cached d, c = .coreT1Store t die core addr cached d → addr + d.length ≤ Config.t1Granules * 128) →
    (∀ t die n, c ≠ .jtagInstruction t die (.maker n)) → Completes c s

/-- The ordering value of S:L:P is S × 2^16 + L × 2^8 + P. For layers and sub-phases in range, it orders positions by step, then layer, then
sub-phase; the linear position the model counts in has the same order; and the two turn into each other. (R6) -/
def Obligations.PositionsOrdered : Prop :=
  ∀ (S L P S' L' P' layers : Nat), L < layers → L' < layers → layers ≤ 256 → P < 256 → P' < 256 →
    posOrd S L P = S * 2 ^ 16 + L * 2 ^ 8 + P
    ∧ (posOrd S L P < posOrd S' L' P' ↔ S < S' ∨ S = S' ∧ (L < L' ∨ L = L' ∧ P < P'))
    ∧ (posLin layers S L P < posLin layers S' L' P' ↔ posOrd S L P < posOrd S' L' P')
    ∧ ordToLin layers (posOrd S L P) = posLin layers S L P ∧ linToOrd layers (posLin layers S L P) = posOrd S L P

/-- An address of 48 bits with any bit of 47:41 set, with a block above 0x12 or with an offset that is no multiple of 8 is unmapped. A mapped
one names die bit 40, the register's block in bits 39:24 and its offset in bits 23:0, and every listed register of a die is reached at the
address these fields give it. (R470) -/
def Obligations.AddressFields : Prop :=
  ∀ a : Nat, a < 2 ^ 48 →
    (a / 2 ^ 41 ≠ 0 → mapAddr a = none) ∧ (0x12 < a / 2 ^ 24 % 2 ^ 16 → mapAddr a = none) ∧ (a % 8 ≠ 0 → mapAddr a = none)
    ∧ (∀ die r, mapAddr a = some (die, r) → die = a / 2 ^ 40 % 2 ∧ r.id.blk = a / 2 ^ 24 % 2 ^ 16 ∧ r.id.off = a % 2 ^ 24
      ∧ a = die * 2 ^ 40 + r.id.blk * 2 ^ 24 + r.id.off)
    ∧ ∀ blk, blk ≤ 0x12 → ∀ r ∈ regRowsOf blk, ∀ die, die < 2 → (die = 1 → r.onDie1 = true) →
      a = die * 2 ^ 40 + blk * 2 ^ 24 + r.id.off → mapAddr a = some (die, r)

/-- A tile packed in PT16 from 1 to 16 rows holds in bytes 2e and 2e + 1 of its data slot the BF16 input of element e after R107, and +0 in
the rows that are not valid. Its scale bytes, outlier entries, OUT_COUNT and CLAMP_COUNT are zero. (R109) -/
def Obligations.Pt16StoresInput : Prop :=
  ∀ (dim hdim outShift rows : Nat) (outEn : Bool) (id : TileId) (input : List BF16) (t : Tile), input.length = rows * dim → 1 ≤ rows → rows ≤ 16 →
    t = packTile dim hdim 0 outEn outShift rows id input →
    t.slotData.length = 32 * dim
    ∧ (∀ e (h : e < input.length), t.bytes[2 * e]? = some ((bfClean input[e]).setWidth 8)
        ∧ t.bytes[2 * e + 1]? = some (((bfClean input[e]) >>> 8).setWidth 8))
    ∧ (∀ e, rows * dim ≤ e → e < 16 * dim → t.bytes[2 * e]? = some 0 ∧ t.bytes[2 * e + 1]? = some 0)
    ∧ (∀ i, 16 ≤ i → i < 112 → t.bytes[32 * dim + i]? = some 0)
    ∧ t.bytes[32 * dim + 2]? = some 0 ∧ t.bytes[32 * dim + 4]? = some 0 ∧ t.bytes[32 * dim + 5]? = some 0

/-- The first valid word starts the tracker (R17, R20): BEACON_PIN_WORD and BEACON_FRAME on a tracker in NO_PHASE whose source they are. The
lock window is empty, as entry to NO_PHASE leaves it. A corrupted word is dropped and counted, and nothing else of the tracker changes
(R10, R13). -/
def Obligations.WordsStartOrAreCounted : Prop :=
  ((∀ (s : State) (t : Nat) (w : PinWord), s.tracking = true → s.bcn.trk = .noPhase → s.bcn.periods = [] → s.bcn.frames = false →
    w.codeOk = true → crcOf w = w.crc → s.wordOk w.flags w.l = true → w.p < 256 →
    ∃ u, exec (.beaconPinWord t w) s = .next u ∧ u.bcn.trk = .learning ∧ u.bcn.anchor = posLin s.layers w.s w.l w.p
      ∧ u.bcn.tRef = max s.now t - 440 - s.fld 0 0 Fld.BCN_PIN_CFG_DELAY_NS
      ∧ u.reg 0 0 Reg.BCN_LAST_POS = BitVec.ofNat 64 (posOrd w.s w.l w.p))
  ∧ (∀ (s : State) (t : Nat) (f : BeaconFrame), s.tracking = true → s.bcn.trk = .noPhase → s.bcn.periods = [] → s.bcn.frames = true →
    (s.port f.port).link = true → f.udp = s.fld 0 0 Fld.BCN_FRAME_CFG_UDP_PORT → s.frameOk f = true → f.p < 256 →
    ∃ u, exec (.beaconFrame t f) s = .next u ∧ u.bcn.trk = .learning ∧ u.bcn.anchor = posLin s.layers f.s f.l f.p
      ∧ u.bcn.tRef = (s.tick t).frameRef f ∧ u.bcn.frameSeq = some f.seq
      ∧ u.reg 0 0 Reg.BCN_LAST_POS = BitVec.ofNat 64 (posOrd f.s f.l f.p)))
  ∧ ((∀ (s : State) (t : Nat) (w : PinWord), s.running = true → (w.codeOk = false ∨ crcOf w ≠ w.crc) →
    ∃ u, exec (.beaconPinWord t w) s = .next u ∧ u.bcn = s.bcn
      ∧ u.fld 0 0 Fld.BCN_COUNTS_CRC_ERR = min (s.fld 0 0 Fld.BCN_COUNTS_CRC_ERR + 1) 0xFFFF)
  ∧ (∀ (s : State) (t : Nat) (f : BeaconFrame), s.running = true → (s.port f.port).link = true →
    f.udp = s.fld 0 0 Fld.BCN_FRAME_CFG_UDP_PORT → s.frameOk f = false →
    ∃ u, exec (.beaconFrame t f) s = .next u ∧ u.bcn = s.bcn
      ∧ u.fld 0 0 Fld.BCN_COUNTS_FRAME_DROP = min (s.fld 0 0 Fld.BCN_COUNTS_FRAME_DROP + 1) 0xFFFF))

/-- BCN_REBASE (R25): the estimate takes the position of BCN_REBASE_POS, the window is cleared, no trigger of a waking session is left, and
the tracker is in LEARNING and takes only later words. BCN_ENABLE_WRITE (R20): a 0 in ENABLE brings the tracker to NO_PHASE with the
window cleared, a 1 starts the loss timers. -/
def Obligations.TrackerRegisterCommands : Prop :=
  (∀ (s : State) (a : Acc) (v : Word) (sel : Nat), s.Accepts a Reg.BCN_CTRL v sel → getBits v 0 0 = 1 → getBits v 2 2 = 1 →
    ∃ u, exec (.bcnRebase a v) s = .next u ∧ u.bcn.trk = .learning ∧ u.bcn.periods = [] ∧ u.tier.trigs = []
      ∧ u.est = ordToLin s.layers (s.reg 0 0 Reg.BCN_REBASE_POS).toNat
      ∧ u.bcn.after = some (ordToLin s.layers (s.reg 0 0 Reg.BCN_REBASE_POS).toNat) ∧ u.boundary = s.boundary)
  ∧ (∀ (s : State) (a : Acc) (v : Word) (sel : Nat), s.Accepts a Reg.BCN_CTRL v sel → getBits v 2 2 = 0 →
    (s.fld 0 0 Fld.BCN_CTRL_ENABLE = 1 → getBits v 0 0 = 0 →
      ∃ u, exec (.bcnEnableWrite a v) s = .next u ∧ u.bcn.trk = .noPhase ∧ u.bcn.periods = [] ∧ u.fld 0 0 Fld.BCN_CTRL_ENABLE = 0)
    ∧ (s.fld 0 0 Fld.BCN_CTRL_ENABLE = 0 → getBits v 0 0 = 1 →
      ∃ u, exec (.bcnEnableWrite a v) s = .next u ∧ u.bcn.enabledAt = max s.now a.t ∧ u.bcn.trk = s.bcn.trk
        ∧ u.fld 0 0 Fld.BCN_CTRL_ENABLE = 1))

/-- BEACON_ECHO (R12): the echoes whose start has come start, in their order, and the others wait. Loss (R15, R19, R20): BACK_LIMIT_REACHED,
PIN_LOSS_TIMEOUT, BEACON_LOSS_TIMEOUT and COAST_LIMIT. The estimate of a lost tracker is frozen where it stood. -/
def Obligations.EchoesStartAndLossMoves : Prop :=
  (∀ (s : State) (t : Nat), ∃ u, exec (.beaconEcho t) s = .next u
    ∧ u.bcn.echoed = s.bcn.echoed ++ s.bcn.echoes.filter (fun e => decide (e.at_ ≤ max s.now t))
    ∧ (∀ e ∈ u.bcn.echoes, e ∈ s.bcn.echoes ∧ max s.now t < e.at_) ∧ u.bcn.trk = s.bcn.trk ∧ u.regs = s.regs)
  ∧ (∀ (s : State) (t : Nat), s.running = true →
    (s.fires = true → s.fld 0 0 Fld.BCN_LIMITS_BACK_LIMIT ≤ s.bcn.back →
      ∃ u, exec (.backLimitReached t) s = .next u ∧ u.bcn.trk = .lost ∧ u.bcn.frozen = some (s.tick t).est)
    ∧ (s.tracking = true → s.bcn.frames = false → s.fld 0 0 Fld.BCN_CTRL_SRC_LOCK = 0 →
        max (s.bcn.lastPin.getD 0) s.bcn.enabledAt + s.lossNs ≤ max s.now t →
      ∃ u, exec (.pinLossTimeout t) s = .next u ∧ u.bcn.frames = true ∧ u.bcn.trk = s.bcn.trk ∧ u.bcn.periods = s.bcn.periods)
    ∧ (s.tracking = true → s.bcn.trk = .learning → s.bcn.periods = [] → s.bcn.lastValid + s.lossNs ≤ max s.now t →
      ∃ u, exec (.beaconLossTimeout t) s = .next u ∧ u.bcn.trk = .lost ∧ u.bcn.frozen = some (s.tick t).est)
    ∧ (s.tracking = true → s.bcn.trk = .learning ∨ s.bcn.trk = .locked → s.bcn.periods ≠ [] →
        s.bcn.lastValid + s.lossNs ≤ max s.now t →
      ∃ u, exec (.beaconLossTimeout t) s = .next u ∧ u.bcn.trk = .coasting ∧ u.bcn.before = s.bcn.trk ∧ u.bcn.frozen = none)
    ∧ (s.bcn.trk = .coasting → s.bcn.coastFrom + s.fld 0 0 Fld.BCN_LIMITS_COAST_LAYERS * 256 ≤ (s.tick t).est →
      ∃ u, exec (.coastLimit t) s = .next u ∧ u.bcn.trk = .lost ∧ u.bcn.frozen = some (s.tick t).est))

/-- The trigger commands fire what is due (R26, R29, R205): after STEP_BOUNDARY_BOOKKEEPING, CHECKPOINT_TICK, GATE_OPEN, GATE_CLOSE,
PROMOTION_TRIGGER or PREFETCH_TRIGGER in a state in which triggers fire, every position up to the estimate has fired, and no promotion or
prefetch of a waking session whose trigger position the estimate has reached is left waiting. -/
def Obligations.TriggersFireWhatIsDue : Prop :=
  ∀ (s : State) (t p i slot layer : Nat), s.running = true → s.fires = true →
    ∀ c ∈ [Instr.stepBoundaryBookkeeping t, .checkpointTick t, .gateOpen t p i, .gateClose t p i, .promotionTrigger t slot layer,
      .prefetchTrigger t slot layer],
    ∃ u, exec c s = .next u ∧ u.est = (s.tick t).est ∧ (s.tick t).est < u.bcn.fired
      ∧ ∀ x ∈ u.tier.trigs, x ∈ s.tier.trigs ∧ (s.tick t).est < trigAt x.target (if x.prefetch then u.lead else u.promoLead)

/-- STEP_BOUNDARY_BOOKKEEPING (R26, R45): the boundary count of 48 bits rises by the number of step boundaries that the estimate has reached
since the last firing. CHECKPOINT_TICK (R382, R383): at the boundary of a step that is a multiple of INTERVAL, with checkpoints on, a
checkpoint of kind TICK starts; while one runs, the tick is counted in SKIPPED and the running one goes on. -/
def Obligations.BoundariesAndTicks : Prop :=
  (∀ (s : State) (t : Nat), s.running = true → s.fires = true →
    ∃ u, exec (.stepBoundaryBookkeeping t) s = .next u
      ∧ u.boundary = (s.boundary + (if s.bcn.fired ≤ (s.tick t).est then (stepsIn s.layers s.bcn.fired (s.tick t).est).length else 0)) % 2 ^ 48)
  ∧ (∀ (s : State) (t k : Nat), s.running = true → s.fires = true → s.bcn.fired ≤ (s.tick t).est →
    stepsIn s.layers s.bcn.fired (s.tick t).est = [k] → s.fld 0 0 Fld.CK_CTRL_INTERVAL ≠ 0 → k % s.fld 0 0 Fld.CK_CTRL_INTERVAL = 0 →
    s.ckptOn = true → s.ckpt.plan = none →
    (s.ckpt.run = none → ∃ u, exec (.checkpointTick t) s = .next u ∧ ∃ r, u.ckpt.run = some r ∧ r.kind = 0)
    ∧ (s.ckpt.run.isSome = true → ∃ u, exec (.checkpointTick t) s = .next u ∧ u.ckpt.run = s.ckpt.run
        ∧ u.fld 0 0 Fld.CK_COUNTS_SKIPPED = min (s.fld 0 0 Fld.CK_COUNTS_SKIPPED + 1) 0xFFFF))

/-- GATE_OPEN and GATE_CLOSE (R27, R299): when the estimate has reached OPEN_SP of an entry in a layer it names and not yet its CLOSE_SP, with
no step boundary among what is due, the entry is open; when it has reached CLOSE_SP, the entry is closed. -/
def Obligations.GateEdgesTakeEffect : Prop :=
  ∀ (s : State) (t p i y : Nat), s.running = true → s.fires = true → p ∈ s.net.ports.map (·.1) → i ∈ s.gateList p →
    gateLayer (s.gate p i) (y % s.layers) = true → s.bcn.gateBase ≤ y * 256 + getBits (s.gate p i) 7 0 →
    getBits (s.gate p i) 7 0 < getBits (s.gate p i) 16 8 → getBits (s.gate p i) 16 8 ≤ 256 →
    (s.bcn.fired ≤ (s.tick t).est → stepsIn s.layers s.bcn.fired (s.tick t).est = []) →
    (s.bcn.fired ≤ y * 256 + getBits (s.gate p i) 7 0 → y * 256 + getBits (s.gate p i) 7 0 ≤ (s.tick t).est →
      (s.tick t).est < y * 256 + getBits (s.gate p i) 16 8 →
      ∃ u, exec (.gateOpen t p i) s = .next u ∧ i ∈ (u.port p).opened)
    ∧ (s.bcn.fired ≤ y * 256 + getBits (s.gate p i) 16 8 → y * 256 + getBits (s.gate p i) 16 8 ≤ (s.tick t).est →
      (s.tick t).est < (y + 1) * 256 + getBits (s.gate p i) 7 0 →
      ∃ u, exec (.gateClose t p i) s = .next u ∧ i ∉ (u.port p).opened)

/-- T0_COPY_RELEASE (R147): no copy of the die is left whose layer is over, but one that a running unit reads or whose session waits for a
scrub; no copy appears; and the sessions and the tracker are left alone. LEASE_EXPIRY (R44, R46, R52): the session goes to HELD with the
reason of the state it was in, its epoch rises unless at its top, and its holder stands. -/
def Obligations.ReleasesAndExpiry : Prop :=
  (∀ (s : State) (t die : Nat), s.running = true → ∃ u, exec (.t0CopyRelease t die) s = .next u ∧ u.bcn = s.bcn ∧ u.ses.recs = s.ses.recs
    ∧ (∀ c ∈ u.kv.copies, c ∈ s.kv.copies)
    ∧ ∀ c ∈ u.kv.copies, c.die = die → s.layerLin c.step c.layer + 256 ≤ (s.tick t).est →
        s.copyInUse c = true ∨ (s.sess c.slot).scrubPending = true)
  ∧ (∀ (s : State) (t slot : Nat), s.running = true → s.fires = true → (s.sess slot).st = .filling ∨ (s.sess slot).st = .owned →
      (s.sess slot).leaseEnd ≤ s.boundary → ∃ u, exec (.leaseExpiry t slot) s = .next u ∧ (u.sess slot).st = .held
        ∧ (u.sess slot).heldReason = (if (s.sess slot).st = .filling then 2 else 1)
        ∧ (u.sess slot).epoch = min ((s.sess slot).epoch + 1) 0xFFFFFFFF ∧ (u.sess slot).owner = (s.sess slot).owner
        ∧ (∀ x, x ≠ slot → u.sess x = s.sess x) ∧ u.bcn = s.bcn ∧ u.kv = s.kv)

/-- SESSION_OPEN (R47, R55, R56). One that is no repeat and that passes R50 takes the lowest free slot of its die: epoch 1, HOLDER as owner,
FILLING or OWNED as INITIAL says, a lease from now, and the answer DONE. A repeat of an open that is remembered changes no record and is
answered REPLAY. -/
def Obligations.OpenTakesLowestSlot : Prop :=
  ∀ (s : State) (e : Env) (m : OpenMsg), s.Enters e 0x01 →
    ((s.heard e 0x01 none).openRepeat e m = none → (s.heard e 0x01 none).openCheck e m = none →
      ∃ u slot, exec (.sessionOpen e m) s = .next u ∧ s.lowestSlot (s.openDie m) = some slot
        ∧ (∃ b, u.rp.answered = some (0x01, St.done, b))
        ∧ (u.sess slot).st = (if m.initial = 0 then .filling else .owned) ∧ (u.sess slot).epoch = 1 ∧ (u.sess slot).owner = m.holder
        ∧ (u.sess slot).lastBy = e.ep ∧ (u.sess slot).gen = (s.sess slot).gen ∧ (u.sess slot).context = m.context % 4096
        ∧ (u.sess slot).length = 0 ∧ (u.sess slot).leaseEnd = s.boundary + s.leaseOf m.leaseSteps
        ∧ (u.staging slot).isSome = true ∧ (u.area slot).isSome = true ∧ ∀ x, x ≠ slot → u.sess x = s.sess x)
    ∧ (∀ o, (s.heard e 0x01 none).openRepeat e m = some o →
      ∃ u, exec (.sessionOpen e m) s = .next u ∧ (∃ b, u.rp.answered = some (0x01, St.replay, b)) ∧ u.ses = s.ses ∧ u.kv = s.kv)

/-- HANDOVER, LEASE_RENEW, PARK, WAKE and SESSION_CLOSE that pass R50 (R44, R46, R47, R53, R57): what each does to the record of its session,
with the answer DONE. -/
def Obligations.SessionMessagesChangeRecord : Prop :=
  ∀ (s : State) (e : Env) (m : SesMsg) (slot : Nat), slot = handleSlot m.handle →
    (s.Enters e 0x04 → (s.heard e 0x04 (some slot)).handoverCheck e m = none →
      ∃ u, exec (.handover e m) s = .next u ∧ (∃ b, u.rp.answered = some (0x04, St.done, b))
        ∧ (u.sess slot).epoch = (s.sess slot).epoch + 1 ∧ (u.sess slot).lastBy = e.ep
        ∧ (m.newOwner = 0 → (u.sess slot).st = .held ∧ (u.sess slot).heldReason = 3 ∧ (u.sess slot).owner = (s.sess slot).owner)
        ∧ (m.newOwner ≠ 0 → (u.sess slot).st = (if s.role m.newOwner = 1 then .filling else .owned)
            ∧ (u.sess slot).owner = m.newOwner ∧ (u.sess slot).leaseEnd = u.boundary + s.leaseOf m.leaseSteps)
        ∧ u.boundary = s.boundary ∧ ∀ x, x ≠ slot → u.sess x = s.sess x)
    ∧ (s.Enters e 0x05 → (s.heard e 0x05 (some slot)).renewCheck e m = none →
      ∃ u, exec (.leaseRenew e m) s = .next u ∧ (∃ b, u.rp.answered = some (0x05, St.done, b))
        ∧ (u.sess slot).leaseEnd = s.boundary + (if m.leaseSteps = 0 then (s.sess slot).leaseLen else m.leaseSteps)
        ∧ (u.sess slot).epoch = (s.sess slot).epoch ∧ (u.sess slot).owner = (s.sess slot).owner ∧ (u.sess slot).st = (s.sess slot).st
        ∧ ∀ x, x ≠ slot → u.sess x = s.sess x)
    ∧ (s.Enters e 0x0A → (s.heard e 0x0A (some slot)).parkCheck e m = none →
      ∃ u, exec (.park e m) s = .next u ∧ (∃ b, u.rp.answered = some (0x0A, St.done, b))
        ∧ ((u.sess slot).st = .parked ∨ (u.sess slot).st = .dormant)
        ∧ ((s.sess slot).st ≠ .parked → (s.sess slot).st ≠ .dormant →
            (u.sess slot).epoch = (s.sess slot).epoch + 1 ∧ (u.sess slot).owner = 0 ∧ (u.sess slot).lastBy = e.ep))
    ∧ (s.Enters e 0x0B → (s.heard e 0x0B (some slot)).wakeCheck e m = none →
      ∃ u, exec (.wake e m) s = .next u ∧ (∃ b, u.rp.answered = some (0x0B, St.done, b))
        ∧ (u.sess slot).st = .owned ∧ (u.sess slot).owner = m.newOwner ∧ (u.sess slot).epoch = (s.sess slot).epoch + 1
        ∧ (u.sess slot).lastBy = e.ep ∧ (u.sess slot).leaseEnd = s.boundary + s.leaseOf m.leaseSteps)
    ∧ (s.Enters e 0x02 → (s.heard e 0x02 (some slot)).closeCheck e m = none →
      ∃ u, exec (.sessionClose e m) s = .next u ∧ (∃ b, u.rp.answered = some (0x02, St.done, b))
        ∧ (u.sess slot).st = .free ∧ (u.sess slot).owner = 0 ∧ (u.sess slot).scrubPending = true
        ∧ (u.sess slot).gen = (if (s.sess slot).gen + 1 < 2 ^ 24 then (s.sess slot).gen + 1 else 1))

/-- SES_HELD_NEXT_READ (R52): the read takes the oldest entry of the die's list and leaves the others, and the records. CTX_QUOTA_WRITE (R60,
R62): the quota takes what is written, and the context's OVER_QUOTA bit of the tier says whether its use exceeds it. -/
def Obligations.HeldListAndQuota : Prop :=
  (∀ (s : State) (a : Acc) (sel : Nat), s.Shows a Reg.SES_HELD_NEXT sel →
    ∃ u, exec (.sesHeldNextRead a) s = .next u ∧ u.ses.recs = s.ses.recs
      ∧ u.ses.held0 = (if a.die = 0 then s.ses.held0.tail else s.ses.held0)
      ∧ u.ses.held1 = (if a.die = 0 then s.ses.held1 else s.ses.held1.tail))
  ∧ (∀ (s : State) (a : Acc) (tier : Nat) (v : Word) (ctx : Nat), tier < 4 → s.Accepts a (quotaReg tier) v ctx →
    ∃ u, exec (.ctxQuotaWrite a tier v) s = .next u ∧ u.quota a.die ctx tier = getBits v 43 0 ∧ u.use a.die ctx tier = s.use a.die ctx tier
      ∧ u.overLimit a.die ctx tier = decide (u.quota a.die ctx tier < u.use a.die ctx tier))

/-- KV_APPEND of forms INLINE and RDMA (R78, R85, R90). One that starts where every covered layer ends, and whose pages find room, puts its
positions, cut at the greatest length, at the end of every layer it covers and of no other. It is answered DONE, or LIMIT when it was cut;
the record's LENGTH is the least layer length, and the lease runs anew. -/
def Obligations.AppendExtendsLayers : Prop :=
  ∀ (s h : State) (e : Env) (m : KvMsg) (g : Staging) (form slot n : Nat), slot = handleSlot m.handle → form < 2 →
    s.AppendPasses e m form h g → h.kvSizeOk m form = true → m.count ≠ 0 → (∀ l ∈ coveredLayers m, g.len l = m.firstPos ∧ l < g.lens.length) →
    n = min m.count (Config.maxPositions (h.sess slot).dense - m.firstPos) →
    (form = 0 → m.form = 0 → h.allocTest slot (h.appendNeed slot m.layerFirst m.layerCount n) = none →
      ∃ u g', exec (.kvAppendInline e m) s = .next u ∧ (∃ b, u.rp.answered = some (0x03, if n < m.count then St.limit else St.done, b))
        ∧ u.staging slot = some g' ∧ g'.globals = g.globals ∧ (∀ l, g'.len l = if l ∈ coveredLayers m then g.len l + n else g.len l)
        ∧ (u.sess slot).length = ((g'.lens.take u.layers).min?).getD 0 ∧ (u.sess slot).leaseEnd = u.boundary + (u.sess slot).leaseLen)
    ∧ (∀ o, form = 1 → h.openIngest (slotDie slot) (h.sess slot).context e.ep m.aux m.bytes = .inr o →
      (h.noteObject e o).allocTest slot ((h.noteObject e o).appendNeed slot m.layerFirst m.layerCount n) = none →
      ∃ u g', exec (.kvAppendRdma e m) s = .next u ∧ (∃ b, u.rp.answered = some (0x03, if n < m.count then St.limit else St.done, b))
        ∧ u.staging slot = some g' ∧ g'.globals = g.globals ∧ (∀ l, g'.len l = if l ∈ coveredLayers m then g.len l + n else g.len l)
        ∧ (u.sess slot).length = ((g'.lens.take u.layers).min?).getD 0 ∧ (u.sess slot).leaseEnd = u.boundary + (u.sess slot).leaseLen)

/-- TRUNCATE, PIN and UNPIN (R89, R95, R96), answered DONE, or LIMIT where a PIN leaves positions out. TRUNCATE to a length the session has,
with its window held, cuts every longer layer to it and drops the globals from it on. PIN of held positions adds them to the globals as
far as 1,024 allow. UNPIN of pinned positions takes them out. -/
def Obligations.TruncateAndPins : Prop :=
  ∀ (s h : State) (e : Env) (m : KvMsg) (g : Staging) (slot : Nat), slot = handleSlot m.handle →
    (s.AppendPasses e m 3 h g → m.firstPos ≤ (h.sess slot).length → (h.sess slot).dense = true ∨ h.windowHeld slot m.firstPos = true →
      (∀ l, h.layers ≤ l → g.len l ≤ m.firstPos) → (∀ p ∈ g.globals, p < (h.sess slot).length) →
      ∃ u g', exec (.truncate e m) s = .next u ∧ (∃ b, u.rp.answered = some (0x03, St.done, b))
        ∧ u.staging slot = some g' ∧ (∀ l, g'.len l = min (g.len l) m.firstPos)
        ∧ (∀ p, p ∈ g'.globals ↔ p ∈ g.globals ∧ p < m.firstPos) ∧ (u.sess slot).leaseEnd = u.boundary + (u.sess slot).leaseLen)
    ∧ (s.AppendPasses e m 4 h g → m.data.length = 4 * m.count → (h.sess slot).dense = false →
      (∀ p ∈ pinList m.data, p < (h.sess slot).length ∧ h.pinHeld slot p = true) →
      ∃ u g', exec (.pin e m) s = .next u ∧ u.staging slot = some g' ∧ g'.lens = g.lens
        ∧ g'.globals = (pinAll g.globals (pinList m.data)).1 ∧ (∀ p ∈ g.globals, p ∈ g'.globals)
        ∧ (∀ p ∈ g'.globals, p ∈ g.globals ∨ p ∈ pinList m.data)
        ∧ (∃ b, u.rp.answered = some (0x03, if ∀ p ∈ pinList m.data, p ∈ g'.globals then St.done else St.limit, b))
        ∧ (u.sess slot).globals = g'.globals.length)
    ∧ (s.AppendPasses e m 5 h g → m.data.length = 4 * m.count → (∀ p ∈ pinList m.data, p ∈ g.globals) →
      ∃ u g', exec (.unpin e m) s = .next u ∧ (∃ b, u.rp.answered = some (0x03, St.done, b)) ∧ u.staging slot = some g'
        ∧ g'.lens = g.lens ∧ (∀ p, p ∈ g'.globals ↔ p ∈ g.globals ∧ p ∉ pinList m.data)
        ∧ (u.sess slot).globals = g'.globals.length)

/-- LINK (R92, R93): a range of whole pages of a live session of the same die and context, at the end of every layer, becomes part of the
target: every layer grows by it, the answer is DONE, and the lease runs anew. -/
def Obligations.LinkExtendsLayers : Prop :=
  ∀ (s h : State) (e : Env) (m : KvMsg) (g : Staging) (slot src : Nat), slot = handleSlot m.handle → src = handleSlot m.aux →
    s.AppendPasses e m 2 h g → h.liveHandle m.aux = true → h.linkDone src slot m = false → slotDie src = slotDie slot →
    (h.sess src).context = (h.sess slot).context → (h.sess src).st ≠ .held → m.firstPos % 16 = 0 → m.count % 16 = 0 → m.count ≠ 0 →
    (∀ l, l < h.layers → g.len l = m.firstPos) → (∀ k ∈ h.linkKeys src m, ∃ x, h.leaf k = some x ∧ x.fill = 0) →
    h.fld (slotDie slot) 0 Fld.XL_SPT_USE_USED + h.linkFresh (h.linkKeys src m) ≤ h.fld (slotDie slot) 0 Fld.XL_SPT_ENTRIES →
    h.allocTest slot (h.tablesFor ((h.linkKeys src m).map (fun k => { k with slot := slot }))) = none →
    ∃ u g', exec (.link e m) s = .next u ∧ (∃ b, u.rp.answered = some (0x03, St.done, b)) ∧ u.staging slot = some g'
      ∧ g'.lens = g.lens.map (fun n => n + m.count) ∧ g'.globals = g.globals
      ∧ (u.sess slot).leaseEnd = u.boundary + (u.sess slot).leaseLen

/-- STAGING_EVICT (R81, R203): on a die with no flash, the areas of a session that are queued for a cold PARK, or that eviction may take,
leave T1 when T3 has room and no layer ends in a partial page. An image in T3 keeps the lengths, the globals and the finishing area. -/
def Obligations.EvictionParksAreas : Prop :=
  ∀ (s : State) (t slot : Nat) (g : Staging) (a : FinArea), s.running = true →
    s.tier.cold.any (fun c => c.slot == slot && c.unit == .staging slot) = true
      ∨ s.stagingEligible slot = true ∧ s.tier.evicting.contains (slotDie slot, 1) = true →
    s.staging slot = some g → s.area slot = some a → (∀ l, l < s.layers → g.len l % 16 = 0) → s.hasT2 (slotDie slot) = false →
    s.poolOk (slotDie slot) 3 896 = true →
    ∃ u p, exec (.stagingEvict t slot) s = .next u ∧ u.staging slot = none ∧ u.area slot = none ∧ alGet slot u.kv.images = some p
      ∧ p.tier = 3 ∧ p.lens = g.lens ∧ p.globals = g.globals ∧ p.area = a
      ∧ ∀ x, x ≠ slot → u.staging x = s.staging x ∧ u.area x = s.area x ∧ alGet x u.kv.images = alGet x s.kv.images

/-- AGEING_SWEEP (R72): with SWEEP_EN set, every own leaf entry and shared page of the die whose age is 512 or more gets OLD; no other entry,
and no other part of one, changes. XL_INVAL (R99): the die's TLB holds no unit of the range any more (of any range where COUNT is 0), and
keeps every other; the pages stay as they are. XL_PROBE (R99): XL_PROBE_RESULT takes the entry a walk finds for the VUN, and WALKS counts
one. -/
def Obligations.TranslationCommands : Prop :=
  (∀ (s : State) (t die : Nat), s.running = true → s.fld die 0 Fld.XL_CTRL_SWEEP_EN = 1 →
    ∃ u, exec (.ageingSweep t die) s = .next u ∧ u.ses = s.ses ∧ u.kv.staging = s.kv.staging
      ∧ (∀ k, u.leaf k = (s.leaf k).map (fun l =>
          if slotDie k.slot = die ∧ l.share = none ∧ 512 ≤ s.ageOf die l.age then { l with old := true } else l))
      ∧ ∀ d id, u.sharedPage d id = (s.sharedPage d id).map (fun p => if d = die ∧ 512 ≤ s.ageOf die p.age then { p with old := true } else p))
  ∧ (∀ (s : State) (a : Acc) (v : Word) (sel : Nat),
    (s.Accepts a Reg.XL_INVAL v sel → ∃ u, exec (.xlInval a v) s = .next u ∧ u.kv.leaves = s.kv.leaves ∧ u.kv.staging = s.kv.staging
      ∧ ∀ x, x ∈ u.kv.tlb ↔ x ∈ s.kv.tlb ∧ ¬ (x.1 = a.die ∧ (getBits v 63 48 = 0
          ∨ (getBits v 47 0 ≤ x.2 ∧ x.2 < getBits v 47 0 + getBits v 63 48))))
    ∧ (s.Accepts a Reg.XL_PROBE v sel → ∃ u, exec (.xlProbe a v) s = .next u ∧ u.kv = s.kv ∧ u.ses = s.ses
      ∧ u.reg a.die 0 Reg.XL_PROBE_RESULT = s.entryOf a.die (getBits v 47 0)
      ∧ u.fld a.die 0 Fld.XL_TLB_STAT_WALKS = min (s.fld a.die 0 Fld.XL_TLB_STAT_WALKS + 1)
          (2 ^ (Fld.XL_TLB_STAT_WALKS.hi - Fld.XL_TLB_STAT_WALKS.lo + 1) - 1)))

/-- ATTEND (R126 to R130, R133, R153). One that passes its checks takes a store entry with its key, the next RSEQ, its sender and the form
asked for; with the APPEND flag its row goes to the end of the layer, or is counted as dropped at the greatest length. -/
def Obligations.AttendTakesEntry : Prop :=
  ∀ (s h w : State) (e : Env) (m : AttendMsg) (g : Staging) (a : FinArea) (slot n : Nat) (d : List Byte), slot = handleSlot m.handle →
    s.Enters e 0x06 → h = s.heard e 0x06 (some slot) → h.fld (slotDie slot) 0 Fld.ATN_CTRL_ENABLE ≠ 0 →
    h.r50 e m.handle m.epoch 0x43 false (fun _ => false) (h.holderCell e false) = none → alGet slot s.kv.images = none →
    e.areaFail = none → h.attendRepeat slot (attendKey m) = false → s.staging slot = some g → s.area slot = some a →
    h.attendFields m = true → m.layer < g.lens.length → h.attendSizeOk slot m = true →
    h.openData e slot (aflag m 2) m.qoff (h.attendSize m) m.data = (w, .inr d) → m.len = g.len m.layer + b2n (aflag m 0) →
    w.stepFull slot m.step = false → w.storeFull slot = false →
    n = (if aflag m 0 = true ∧ g.len m.layer < Config.maxPositions (w.sess slot).dense then 1 else 0) →
    w.allocTest slot (w.appendNeed slot m.layer 1 n) = none →
    ∃ u r g' a', exec (.attend e m) s = .next u ∧ r ∈ u.attn.results ∧ r.slot = slot ∧ r.key = attendKey m ∧ r.ep = e.ep ∧ r.reqId = e.reqId
      ∧ r.rseq = a.rseqNext ∧ r.outFp32 = aflag m 1 ∧ r.dest = aflag m 3 ∧ r.dropped = b2n (aflag m 0) - n ∧ u.area slot = some a'
      ∧ a'.rseqNext = (a.rseqNext + 1) % 2 ^ 32 ∧ u.staging slot = some g' ∧ ∀ l, g'.len l = if l = m.layer then g.len l + n else g.len l

/-- RESULT_FETCH and RESULT_RELEASE (R51, R132, R156, R158). A fetch of a complete result is answered with its return and the result stays; a
release by the holder takes every result of the session up to its key, and no other, and the release mark is at its key or above.
AUTO_RELEASE and RETENTION_END (R51, R158): a result that is due leaves the store, and no other does; with its automatic release the
release mark of its session is at its key or above. -/
def Obligations.ResultsReturnAndLeave : Prop :=
  (∀ (s h : State) (e : Env) (m : FetchMsg) (slot : Nat), slot = handleSlot m.handle →
    (∀ r, s.Enters e 0x07 → h = s.heard e 0x07 (some slot) → h.result slot (fetchKey m) = some r → r.complete = true → e.areaFail = none →
      h.fetchCheck e m (h.retainedFor e slot r) = none → alGet slot s.kv.images = none →
      ∃ u, exec (.resultFetch e m) s = .next u ∧ u.rp.answered = some (0x07, r.nextStatus,
          (if h.retainedFor e slot r = true then h else h.accepted slot false).returnBody r true)
        ∧ (u.attn.results.map (fun x => (x.slot, x.key)) = h.attn.results.map (fun x => (x.slot, x.key))) ∧ u.kv = s.kv)
    ∧ (∀ a, s.Enters e 0x08 → h = s.heard e 0x08 (some slot) → (∀ r, h.result slot (fetchKey m) = some r → h.retainedFor e slot r = false) →
      h.fetchCheck e m false = none → alGet slot s.kv.images = none → s.area slot = some a →
      ∃ u a', exec (.resultRelease e m) s = .next u ∧ (∃ b, u.rp.answered = some (0x08, St.done, b))
        ∧ u.attn.results.map (fun x => (x.slot, x.key))
          = (h.attn.results.map (fun x => (x.slot, x.key))).filter (fun x => !(x.1 == slot && keyLe x.2 (fetchKey m)))
        ∧ u.area slot = some a' ∧ keyLe (fetchKey m) a'.mark = true ∧ keyLe a.mark a'.mark = true))
  ∧ (∀ (s : State) (t slot : Nat) (key : ResKey) (r : Result), s.running = true → s.result slot key = some r →
    (s.autoDue r = true → ∃ u, exec (.autoRelease t slot key) s = .next u ∧ u.attn.results.map (fun x => (x.slot, x.key))
        = (s.attn.results.map (fun x => (x.slot, x.key))).filter (fun x => x ≠ (slot, key))
      ∧ (∀ a, u.area slot = some a → keyLe key a.mark = true) ∧ u.ses = s.ses)
    ∧ (s.retentionOver r = true → ∃ u, exec (.retentionEnd t slot key) s = .next u ∧ u.attn.results.map (fun x => (x.slot, x.key))
        = (s.attn.results.map (fun x => (x.slot, x.key))).filter (fun x => x ≠ (slot, key)) ∧ u.ses = s.ses ∧ u.kv = s.kv))

/-- ATTN_UNIT_DONE (R139 to R141, R149): when the last unit of a request is done, or a unit of it fails, the result is complete.
FANOUT_WAIT_EXPIRED (R151): no group of the cluster whose wait is over, or that is full, stays open, and every other does. -/
def Obligations.UnitsCompleteGroupsStart : Prop :=
  (∀ (s : State) (t slot kvHead seg : Nat) (key : ResKey) (o : UnitOutcome) (r : Result), s.running = true → s.result slot key = some r →
    (∃ v ∈ r.units, v.kvHead = kvHead ∧ v.seg = seg ∧ v.st = .running) → r.complete = false →
    ((o = .done ∧ ∀ v ∈ r.units, (v.kvHead = kvHead ∧ v.seg = seg) ∨ v.st = .done) ∨ (∃ p i c, o = .tileFail p i c) ∨ (∃ x, o = .walkFail x)
      ∨ (∃ x, o = .entryUnread x) ∨ (∃ x, o = .ctxMismatch x) ∨ (∃ x, o = .sramFail x)) →
    ∃ u r', exec (.attnUnitDone t slot key kvHead seg o) s = .next u ∧ u.result slot key = some r' ∧ r'.complete = true
      ∧ r'.rseq = r.rseq ∧ r'.ep = r.ep ∧ r'.attended = r.attended)
  ∧ (∀ (s : State) (t die cluster : Nat), s.running = true → ∃ u, exec (.fanoutWaitExpired t die cluster) s = .next u
      ∧ u.attn.groups = s.attn.groups.filter (fun g => !(g.die == die && g.cluster == cluster
          && (decide (s.fld die 0 Fld.ATN_FANOUT_MAX_MEMBERS ≤ g.members.length)
            || decide (g.opened + s.fld die 0 Fld.ATN_FANOUT_WAIT_NS ≤ (s.tick t).now))))
      ∧ u.ses = s.ses ∧ u.kv = s.kv)

/-- The attended set (R133, R134): the pages of the walk are exactly those that hold an attended position, each once, in ascending order. -/
def Obligations.WalkCoversAttended : Prop :=
  ∀ (dense : Bool) (window n : Nat) (globals : List Nat), 0 < window →
    (∀ page, page ∈ attendedPages dense window n globals ↔ ∃ r, r < 16 ∧ attendedPos dense window n globals (16 * page + r) = true)
    ∧ (attendedPages dense window n globals).Pairwise (· < ·)

/-- FINISH in its four forms (R165, R168, R182, R186, R188, R192, R194). A request that passes its checks and whose run succeeds is answered
with the status of the run; FOPS rises by one, the record takes the run's finishing state, the area takes the run's area and keeps the
body, and the lease runs anew. RESET leaves the automaton at its start with an empty stack, no held byte, and every count at 0; GRAMMAR
selects what it names. A repeat of the last state-changing request is answered REPLAY with the kept body and changes no state of the
session but its lease. -/
def Obligations.FinishTakesEffect : Prop :=
  ∀ (s h w : State) (e : Env) (m : FinMsg) (a b : FinArea) (f : FinState) (o : FinOut) (d : FinData) (form slot : Nat) (c : Instr),
    slot = handleSlot m.handle → (c, form) ∈ [(.draw e m, 0), (.feed e m, 1), (.grammar e m, 2), (.finReset e m, 3)] →
    (form = 0 → m.form = 0) → s.Enters e 0x09 → h = s.heard e 0x09 (some slot) → h.fld (slotDie slot) 0 Fld.FIN_CTRL_ENABLE ≠ 0 →
    h.r50 e m.handle m.epoch 0x53 false (fun _ => false) (h.holderCell e false) = none → e.areaFail = none → s.area slot = some a →
    (finRepeat m form (h.sess slot).fin.fops m.epoch a = false → h.finFields m form = true → h.finData e m form = (w, .inr d) →
      m.opseq = 0xFFFFFFFF ∨ m.opseq = (w.sess slot).fin.fops → w.gramCheck m form = none → (form = 0 → w.drawFull slot m.step = false) →
      e.rowFail = none → w.finRunForm slot m a d form = .inr (f, b, o) →
      ∃ u a', exec c s = .next u ∧ (∃ x, u.rp.answered = some (0x09, o.status, x) ∧ a'.kept = x) ∧ u.area slot = some a'
        ∧ a'.counts = b.counts ∧ a'.stack = b.stack ∧ a'.drawn = b.drawn ∧ a'.keptEpoch = m.epoch ∧ a'.keptForm = form
        ∧ (u.sess slot).fin = { f with fops := ((w.sess slot).fin.fops + 1) % 2 ^ 32 }
        ∧ (u.sess slot).leaseEnd = u.boundary + (u.sess slot).leaseLen
        ∧ (form = 2 → f.on = decide (m.grammar / 32768 = 1) ∧ f.sp = 0)
        ∧ (form = 3 → f.sp = 0 ∧ f.hold = [] ∧ (∀ x ∈ a'.counts, x = 0) ∧ f.on = (w.sess slot).fin.on))
    ∧ (finRepeat m form (h.sess slot).fin.fops m.epoch a = true →
      ∃ u, exec c s = .next u ∧ u.rp.answered = some (0x09, St.replay, a.kept) ∧ u.kv = s.kv
        ∧ (u.sess slot).fin = (h.sess slot).fin ∧ (u.sess slot).leaseEnd = u.boundary + (u.sess slot).leaseLen)

/-- The symbol of a draw (R175, R177 to R181, R185): it is a candidate, so its logit is no NaN and not −∞ and the session's automaton allows
it; and WSEL, its share of WTOTAL, is at most WTOTAL. The text of a draw (R190, R191): the held bytes are always a proper prefix of one
well-formed sequence, and no byte of it is emitted until the sequence is whole or broken off. -/
def Obligations.DrawnAndHeld : Prop :=
  (∀ (s : State) (slot : Nat) (m : FinMsg) (f f' : FinState) (a b : FinArea) (ls : List F32) (o : FinOut),
    s.runDraw slot m f a ls = .inr (f', b, o) → o.status ≠ St.deadEnd →
    ∃ z, ls[o.symbol]? = some z ∧ (cleanLogit z).isSome = true ∧ (∀ g, s.gramOf slot = some g → g.allows (autoOf f a) o.symbol = true)
      ∧ o.wsel ≤ o.wtotal)
  ∧ (∀ (held : List Byte) (x : Byte), held = [] ∨ utfProper (held.map (·.toNat)) = true →
    ((detok held x).2 = [] ∨ utfProper ((detok held x).2.map (·.toNat)) = true)
    ∧ ((detok held x).1 = [] ∨ ∃ k r, (detok held x).1 = k ++ r ∧ (k = [] ∨ k = fffd) ∧ (r = [] ∨ r = fffd
        ∨ utfPrefix (r.map (·.toNat)) = true ∧ utfProper (r.map (·.toNat)) = false)))

/-- DEMOTION_START (R200, R201): the oldest unit of a T1 under eviction starts towards its tier as a background move; the entries keep naming
where it stands. PROMOTION_RESUME (R204): the promotion at the head of the queue that finds room starts. IMAGE_RESTORE_DONE (R245): an
image read whole is gone, and the session has its areas in T1 again, with the lengths and globals of the image. PREFETCH_COMPLETE (R146):
the copies that were being made for the layer are ready; with a clean read the entries of other pages stay. -/
def Obligations.MovesStartCopiesEnd : Prop :=
  (∀ (s : State) (t die : Nat) (u : UnitRef) (i : UnitInfo), s.running = true → die < 2 →
    (∀ w, w = ((s.tick t).evictTest die 1).evictTest die 2 → s.fld die 0 Fld.TR_RATE_DEMOTE_MBPS ≠ 0 →
      s.tier.moves.any (fun m => m.die == die && m.paced) = false → w.tier.evicting.contains (die, 1) = true →
      w.evictVictim die 1 = some (u, i) → w.demoteTo die i false = some 3 →
      ∃ x m, exec (.demotionStart t die) s = .next x ∧ m ∈ x.tier.moves ∧ m.unit = u ∧ m.dst = 3 ∧ m.srcLoc = i.loc ∧ m.paced = true
        ∧ x.kv.leaves = s.kv.leaves ∧ x.kv.shared = s.kv.shared)
    ∧ (∀ p, s.tier.promos.find? (fun p => p.die == die && !s.moving p.unit) = some p → s.unitInfo p.unit = some i → 2 ≤ i.tier →
      s.poolOk die 1 i.granules = true →
      ∃ x m, exec (.promotionResume t die) s = .next x ∧ m ∈ x.tier.moves ∧ m.unit = p.unit ∧ m.dst = 1 ∧ m.srcLoc = i.loc
        ∧ m.wake = p.wake ∧ x.kv.leaves = s.kv.leaves ∧ x.kv.shared = s.kv.shared))
  ∧ ((∀ (s : State) (t slot : Nat) (i : Parked), s.running = true → alGet slot s.kv.images = some i →
    ∃ u g a, exec (.imageRestoreDone t slot .clean true) s = .next u ∧ u.staging slot = some g ∧ g.lens = i.lens ∧ g.globals = i.globals
      ∧ u.area slot = some a ∧ a = { i.area with loc := a.loc } ∧ alGet slot u.kv.images = none
      ∧ ∀ x, x ≠ slot → u.staging x = s.staging x ∧ u.area x = s.area x ∧ alGet x u.kv.images = alGet x s.kv.images)
  ∧ (∀ (s : State) (t slot layer : Nat), s.running = true →
    ∃ u, exec (.prefetchComplete t (slotDie slot) slot layer .clean) s = .next u
      ∧ (∀ c ∈ s.kv.copies, s.copyOf (slotDie slot) slot layer c = true → { c with ready := true } ∈ u.kv.copies) ∧ u.ses = s.ses))

/-- DEMOTION_COMPLETE and PROMOTION_COMPLETE (R200, R205): a page whose entry still names the place the move read from stands where the move
led; its tiles, its fill and every other entry are unchanged. A failed read below T1 (R206, R207, R215): the entries keep naming the
source, and every request that waits for the unit is complete. -/
def Obligations.MovesEnd : Prop :=
  (∀ (s : State) (t die : Nat) (k : PageKey) (m : Move) (l : Leaf), s.running = true → s.leaf k = some l → l.share = none → l.tier = m.src →
    l.loc = m.srcLoc →
    (s.moveOf die (.page k.slot k.layer k.page) (fun d => decide (2 ≤ d)) = some m →
      ∃ u, exec (.demotionComplete t die (.page k.slot k.layer k.page)) s = .next u ∧ u.leaf k = some { l with tier := m.dst, loc := m.loc }
        ∧ ∀ x, x ≠ k → u.leaf x = s.leaf x)
    ∧ (s.moveOf die (.page k.slot k.layer k.page) (fun d => d == 1) = some m → ∀ o, o = .clean ∨ o = .corrected ∨ o = .reconstructed →
      ∃ u a, exec (.promotionComplete t die (.page k.slot k.layer k.page) o) s = .next u
        ∧ u.leaf k = some { l with tier := 1, loc := m.loc, age := a, old := false } ∧ ∀ x, x ≠ k → u.leaf x = s.leaf x))
  ∧ (∀ (s : State) (t die : Nat) (v : UnitRef) (m : Move), s.running = true → s.moveOf die v (fun d => d == 1) = some m →
    (∀ addr, ∃ u, exec (.promotionComplete t die v (.failed addr)) s = .next u ∧ u.kv.leaves = s.kv.leaves ∧ u.kv.shared = s.kv.shared
      ∧ ∀ w ∈ s.waitersOf v, ∃ r, u.result w.1 w.2 = some r ∧ r.complete = true)
    ∧ (m.src = 3 → ∃ u, exec (.t3ReadTimeout t die v) s = .next u ∧ u.kv.leaves = s.kv.leaves ∧ u.kv.shared = s.kv.shared
      ∧ ∀ w ∈ s.waitersOf v, ∃ r, u.result w.1 w.2 = some r ∧ r.complete = true))

/-- PATROL_SCRUB (R213, R216): a sector that patrol reads and corrects, reconstructs or cannot read leaves a record of that kind at its place
as the newest of the die's error log; a clean one leaves none. -/
def Obligations.PatrolLogsErrors : Prop :=
  ∀ (s : State) (t die cluster channel stripe sector : Nat), s.running = true → s.fld die 0 Fld.MC_SCRUB_ENABLE = 1 →
    stripe < clusterStripes → sector < 32 → channel < 8 → s.isRetired die cluster (stripe / 2) = false →
    s.inTest die cluster stripe = false → s.dramDegraded die cluster channel = false →
    (∃ u, exec (.patrolScrub t die cluster channel stripe sector .clean) s = .next u ∧ u.tier = s.tier ∧ u.regs = s.regs)
    ∧ ∀ o kind, (o = .corrected ∧ kind = 1) ∨ (o = .reconstructed ∧ kind = 2) ∨ ((∃ a, o = .failed a) ∧ kind = 3) →
      ∃ u r, exec (.patrolScrub t die cluster channel stripe sector o) s = .next u
        ∧ (if die = 0 then u.tier.err0 else u.tier.err1).getLast? = some r ∧ r.kind = kind ∧ r.cluster = cluster ∧ r.channel = channel
        ∧ r.stripe = stripe ∧ r.sector = sector ∧ r.patrol = true ∧ u.tier.t1a = s.tier.t1a ∧ u.tier.t1b = s.tier.t1b

/-- CORE_T1_STORE (R211): a store that breaks no limit reaches T1: its bytes read as stored, every other byte of both dies as before. One past
the end of T1 stops with the fault `noSuchT1`. -/
def Obligations.CoreStoreWritesT1 : Prop :=
  ∀ (s : State) (t die core addr : Nat) (cached : Bool) (data : List Byte), s.coreAwake die core = true → data ≠ [] →
    (addr + data.length ≤ Config.t1Granules * 128 → (cached = true ∨ addr % 64 = 0 ∧ data.length % 64 = 0) →
      s.tableRow die (addr / 128) (ceilDiv (addr + data.length) 128 - addr / 128) = none → s.inScrub die addr data.length = false →
      ∃ u, exec (.coreT1Store t die core addr cached data) s = .next u
        ∧ (∀ i (h : i < data.length), memGet (u.t1 die) (addr + i) = data[i])
        ∧ (∀ x, x < addr ∨ addr + data.length ≤ x → memGet (u.t1 die) x = memGet (s.t1 die) x)
        ∧ (die = 0 → u.t1 1 = s.t1 1) ∧ (die ≠ 0 → u.t1 0 = s.t1 0) ∧ u.kv = s.kv ∧ u.ses = s.ses)
    ∧ (Config.t1Granules * 128 < addr + data.length → exec (.coreT1Store t die core addr cached data) s = .fault .noSuchT1)

/-- MC_DEGRADE_WRITE (R217): the first channel of a cluster named is degraded, and only it; a second is refused. RETIRE_ROW and RETIRE_BANK
(R221): a stripe that covers no fixed structure is retired and migration is busy; one that covers it is refused. RETIRE_DONE ends it. -/
def Obligations.ChannelsAndRowsLeave : Prop :=
  ∀ (s : State) (a : Acc) (v : Word) (sel : Nat),
    (∀ i, i < 8 → v.toNat = 2 ^ i → s.Accepts a Reg.MC_DEGRADE v sel → ∃ u, exec (.mcDegradeWrite a v) s = .next u
      ∧ u.fld a.die sel Fld.MC_DEGRADE_DEGRADED
        = (if s.fld a.die sel Fld.MC_DEGRADE_DEGRADED = 0 then 2 ^ i else s.fld a.die sel Fld.MC_DEGRADE_DEGRADED))
    ∧ (∀ bank cl x, s.Accepts a Reg.MC_RETIRE v sel → getBits v 63 63 = 1 → cl = getBits v 61 59 →
      x = (if bank = true then getBits v 26 23 else getBits v 22 0) →
      ∃ u, exec (if bank = true then .retireBank a v else .retireRow a v) s = .next u ∧ u.kv = s.kv
        ∧ (if clusterStripes ≤ x ∨ s.coversFixed a.die cl bank x = true
          then u.fld a.die 0 Fld.MC_RETIRE_STATUS_REFUSED = 1 ∧ u.tier.retired = s.tier.retired
          else u.isRetired a.die cl (x / 2) = true ∧ u.fld a.die 0 Fld.MC_RETIRE_STATUS_BUSY = 1
            ∧ ∀ y ∈ s.tier.retired, y ∈ u.tier.retired))
    ∧ (∀ t die, s.running = true → s.fld die 0 Fld.MC_RETIRE_STATUS_BUSY = 1 →
      ∃ u, exec (.retireDone t die) s = .next u ∧ u.fld die 0 Fld.MC_RETIRE_STATUS_BUSY = 0)

/-- The checker test mode (R222), on a sector of the test region of a cluster with no degraded channel: WRITE_DATA and WRITE_CHECK change the
one part and leave the other, WRITE stores the data with its check word, WRITE_PARITY the parity, READ_RAW returns both parts as they
stand, and READ what the checker makes of them, with its status. -/
def Obligations.TestModeActs : Prop :=
  ∀ (s : State) (a : Acc) (v : Word) (sel op : Nat) (p : Place) (c : Instr),
    [.testWriteData a v, .testWriteCheck a v, .testWrite a v, .testWriteParity a v, .testReadRaw a v, .testRead a v][op]? = some c →
    s.Accepts a Reg.MC_TEST_CTRL (setBits v 6 4 op) sel →
    getBits v 0 0 = 1 → getBits v 1 1 = 1 → p = s.testPlace a.die (s.selReg a.die a.rq Reg.MC_SEL % 8) →
    s.inTest a.die p.cluster p.stripe = true → p.sector < 31 → s.fld a.die p.cluster Fld.MC_DEGRADE_DEGRADED = 0 →
    ∃ u, exec c s = .next u
      ∧ (op = 0 → u.testSector a.die p = { s.testSector a.die p with data := s.testData a.die })
      ∧ (op = 1 → u.testSector a.die p = { s.testSector a.die p with check := BitVec.ofNat 16 (s.fld a.die 0 Fld.MC_TEST_CHECK_CHECK) })
      ∧ (op = 2 → p.channel ≠ p.stripe % 8 → (u.testSector a.die p).data = s.testData a.die
        ∧ (u.testSector a.die p).check = checkWord (s.testData a.die)
        ∧ ∀ d, (s.testRead a.die p).1 = some d → (u.testSector a.die p.parity).data
          = (s.testSector a.die p.parity).data ^^^ d ^^^ s.testData a.die)
      ∧ (op = 3 → u.testSector a.die p.parity = { s.testSector a.die p.parity with data := s.testData a.die })
      ∧ (op = 4 → u.testData a.die = (s.testSector a.die p).data
        ∧ u.fld a.die 0 Fld.MC_TEST_CHECK_CHECK = (s.testSector a.die p).check.toNat)
      ∧ (op = 5 → u.testData a.die = ((s.testRead a.die p).1).getD (s.testData a.die)
        ∧ u.fld a.die 0 Fld.MC_TEST_CTRL_STATUS = (s.testRead a.die p).2)
      ∧ (op < 5 → u.fld a.die 0 Fld.MC_TEST_CTRL_STATUS = 0)

/-- STRIPE_WAIT_EXPIRED, FLASH_PROGRAM_DONE and SEGMENT_ERASE_DONE (R233, R234, R239): stripes that have waited become ready and no other
does; a programmed one leaves the buffer; an erased segment counts its erase. A failure with nothing live in its way marks the segment to
be retired, or retires it. WK_DEGRADE_WRITE (R238): a flash channel named is degraded unless its group has one. WK_GC and GC_DONE (R240):
a collection that is not refused is busy until it has dealt with every entry; a refused one says why. -/
def Obligations.FlashWorkEnds : Prop :=
  (∀ (s : State) (t die group : Nat), s.running = true →
    (∃ u, exec (.stripeWaitExpired t die group) s = .next u ∧ u.kv = s.kv
      ∧ u.flash.stripes = s.flash.stripes.map (fun (v : Stripe) => if v ∈ (s.tick t).waited die group then { v with ready := true } else v))
    ∧ (∀ y, s.flash.stripes.find? (fun y => y.die == die && y.group == group && y.ready && (s.seg die group y.seg).erased) = some y →
      (∃ u, exec (.flashProgramDone t die group true) s = .next u ∧ u.flash.stripes = s.flash.stripes.erase y ∧ u.flash.segs = s.flash.segs)
      ∧ ((s.seg die group y.seg).inStripe y.stripe = [] → ∃ u, exec (.flashProgramDone t die group false) s = .next u
        ∧ u.flash.stripes = s.flash.stripes.erase y ∧ (u.seg die group y.seg).retire = true ∧ u.kv = s.kv))
    ∧ (∀ seg x, x = s.seg die group seg → x.st = .open_ ∨ x.st = .closed → x.erased = false →
      (∃ u, exec (.segmentEraseDone t die group seg true) s = .next u ∧ u.seg die group seg = { x with erased := true, erases := x.erases + 1 }
        ∧ u.flash.stripes = s.flash.stripes)
      ∧ (x.entries.filter (·.live) = [] → ∃ u, exec (.segmentEraseDone t die group seg false) s = .next u
        ∧ u.seg die group seg = { x with st := .retired } ∧ u.kv = s.kv)))
  ∧ (∀ (s : State) (a : Acc) (v : Word) (sel : Nat),
    (∀ i, i < 16 → v.toNat = 2 ^ i → s.Accepts a Reg.WK_DEGRADE v sel → ∃ u, exec (.wkDegradeWrite a v) s = .next u
      ∧ u.fld a.die 0 Fld.WK_DEGRADE_DEGRADED
        = (if s.fld a.die 0 Fld.WK_DEGRADE_DEGRADED / 2 ^ (i / 8 * 8) % 256 = 0 then s.fld a.die 0 Fld.WK_DEGRADE_DEGRADED + 2 ^ i
          else s.fld a.die 0 Fld.WK_DEGRADE_DEGRADED))
    ∧ (∀ g n, s.Accepts a Reg.WK_GC v sel → getBits v 63 63 = 1 → g = getBits v 62 62 → n = getBits v 31 0 →
      ∃ u, exec (.wkGc a v) s = .next u ∧ u.kv = s.kv
        ∧ (∀ r, s.gcRefusal a.die g n = some r → u.fld a.die 0 Fld.WK_GC_STATUS_REFUSED = r ∧ u.flash = s.flash)
        ∧ (s.gcRefusal a.die g n = none → u.fld a.die 0 (gcBusy g) = 1 ∧ u.flash.gcs = s.flash.gcs ++ [(a.die, g, n)]))
    ∧ (∀ t die g n, s.running = true → s.flash.gcs.find? (fun x => x.1 == die && x.2.1 == g) = some (die, g, n) →
      ∃ u, exec (.gcDone t die g) s = .next u ∧ u.flash.gcs = s.flash.gcs.erase (die, g, n) ∧ u.fld die 0 (gcBusy g) = 0))

/-- WK_MERGE (R256): a descriptor that does not fit is refused and the index stays; one that fits and keeps its pages makes its generation the
current one, and the side list, its mark and the index's shape stay. -/
def Obligations.MergeSwitchesGeneration : Prop :=
  ∀ (s : State) (a : Acc) (v : Word) (num : Nat) (p : PendingIdx) (x : Index), s.Accepts a Reg.WK_MERGE v num → getBits v 63 63 = 1 →
    s.index a.die num = some x →
    (mergeBad x p = true → ∃ u, exec (.wkMerge a v p) s = .next u ∧ u.fld a.die num Fld.WK_MERGE_STATUS_REFUSED = 1 ∧ u.flash = s.flash)
    ∧ (mergeBad x p = false → newPageCount p = 0 → ∃ u y, exec (.wkMerge a v p) s = .next u ∧ u.index a.die num = some y ∧ y.gen = p.gen
      ∧ y.table.length = p.table.length ∧ y.shape = x.shape ∧ y.mark = x.mark ∧ ∀ e ∈ y.side, e ∈ x.side)

/-- SEARCH, INSERT and DELETE (R255, R258, R260): a SEARCH that passes its checks is admitted against the current generation and side list;
the items of an INSERT or DELETE join the side list in their order, and the answer says where. SEARCH_DONE (R259, R262): the search
leaves, and its answer gives the hits of its generation and its window of the side list. BATCH_WAIT_EXPIRED (R252): no search of a batch
whose wait is over waits any more. -/
def Obligations.SearchesRun : Prop :=
  (∀ (s h : State) (e : Env) (x : Index),
    (∀ m, s.Enters e 0x0C → h = s.heard e 0x0C none → h.idxCheck e (m.context % 4096) m.index = .inr x → searchBad x m = none →
      h.fld x.die 0 Fld.WK_CTRL_SEARCH_EN ≠ 0 → h.groupSearches x.die x.shape.group < 512 →
      ∃ u q, exec (.search e m) s = .next u ∧ q ∈ u.flash.searches ∧ q.qid = s.flash.nextQid ∧ q.msg = m
        ∧ q.generation = x.gen.generation ∧ q.cutoff = x.gen.cutoff ∧ q.mark = x.mark ∧ u.flash.nextQid = s.flash.nextQid + 1
        ∧ u.flash.indexes = s.flash.indexes)
    ∧ (∀ insert m type, type = (if insert = true then 0x0D else 0x0E) → s.Enters e type → h = s.heard e type none →
      h.idxCheck e (m.context % 4096) m.index = .inr x → sideBad x m insert = none → sideSpan x + m.count ≤ x.shape.sideCap →
      h.quotaOk x.die x.shape.context 1 (m.count * sideGranules x.shape) = true →
      h.poolOk x.die 1 (m.count * sideGranules x.shape) = true →
      ∃ u y, exec (if insert = true then .insert e m else .delete e m) s = .next u ∧ u.index x.die x.num = some y
        ∧ y.mark = x.mark + m.count ∧ y.gen = x.gen ∧ (∃ l, y.side = x.side ++ l ∧ ∀ z ∈ l, z.insert = insert ∧ x.mark ≤ z.seq)
        ∧ u.rp.answered = some (type, St.done, sideBody m m.count x.mark (x.mark + m.count) 0)))
  ∧ (∀ (s : State) (t die : Nat), s.running = true →
    (∀ qid q x f, s.flash.searches.find? (fun q => q.die == die && q.qid == qid && q.batch.isNone) = some q →
      s.index die (q.msg.index % 1024) = some x → f = searchIn x.shape (x.genOf q.generation) (x.window q.cutoff q.mark) q.msg →
      ∃ u b, exec (.searchDone t die qid .clean) s = .next u ∧ (∀ y ∈ u.flash.searches, y.qid ≠ qid)
        ∧ u.rp.answered = some (0x0C, (if f.hits.length = q.msg.k then St.done else St.partial_), b)
        ∧ b = searchBody q.msg q.msg.mode (b2n f.budget + 2 * b2n (decide (2 ≤ q.batched)) + 4 * b2n (f.hits.any (·.side))) f.hits.length
            (q.msg.k - f.hits.length) q.generation q.mark q.msg.qtag f.visited 0 ((f.hits.map hitBytes).flatten))
    ∧ (∀ group, ∃ u, exec (.batchWaitExpired t die group) s = .next u
      ∧ (∀ q ∈ u.flash.searches, q.die = die → (q.msg.index % 1024, q.generation) ∈ (s.tick t).dueBatches die group → q.batch = none)
      ∧ u.flash.searches.map (·.qid) = s.flash.searches.map (·.qid)))

/-- LINK_DOWN and LINK_UP (R269): the link of the port, and its status, follow. PFC_RX and PFC_PAUSE_EXPIRED (R267): each priority that the
frame names is shown paused while its time runs, and no other changes. PAUSE_RX (R266) is counted. PTP_MESSAGE (R268) sets the device time
and the offset. -/
def Obligations.LinksPausesTime : Prop :=
  ∀ (s : State) (t port : Nat), s.running = true →
    ((s.port port).link = true → ∃ u, exec (.linkDown t port) s = .next u ∧ (u.port port).link = false
      ∧ u.fld (portDie port) port Fld.ETH_PORT_STATUS_UP = 0 ∧ ∀ p, p ≠ port → (u.port p).link = (s.port p).link)
    ∧ (port < 48 → s.lanesOk port = true → s.fld (portDie port) port Fld.ETH_PORT_CFG_ENABLE = 1 → (s.port port).link = false →
      ∃ u, exec (.linkUp t port) s = .next u ∧ (u.port port).link = true ∧ ∀ p, p ≠ port → (u.port p).link = (s.port p).link)
    ∧ (∀ enable pauseNs, (s.port port).link = true → ∃ u, exec (.pfcRx t port enable pauseNs) s = .next u
      ∧ ∀ c, c < 8 → u.fld (portDie port) port Fld.ETH_PFC_PAUSED / 2 ^ c % 2 = (if enable.getLsbD c = true then b2n (decide (0 < pauseNs.getD c 0))
          else s.fld (portDie port) port Fld.ETH_PFC_PAUSED / 2 ^ c % 2))
    ∧ ((s.port port).link = true → ∃ u, exec (.pauseRx t port) s = .next u ∧ u.kv = s.kv ∧ u.net = s.net
      ∧ u.fld (portDie port) port Fld.ETH_PFC_PAUSE_DROP = min (s.fld (portDie port) port Fld.ETH_PFC_PAUSE_DROP + 1)
          (2 ^ (Fld.ETH_PFC_PAUSE_DROP.hi - Fld.ETH_PFC_PAUSE_DROP.lo + 1) - 1))
    ∧ (∀ prio, prio < 8 → ((s.port port).cls prio).pausedUntil ≤ max s.now t → ∃ u, exec (.pfcPauseExpired t port prio) s = .next u
      ∧ ∀ c, c < 8 → u.fld (portDie port) port Fld.ETH_PFC_PAUSED / 2 ^ c % 2
          = (if c = prio then 0 else s.fld (portDie port) port Fld.ETH_PFC_PAUSED / 2 ^ c % 2))
    ∧ (∀ m : PtpMsg, (s.port m.port).link = true → s.fld (portDie m.port) m.port Fld.ETH_PORT_CFG_CONTROL = 1 → s.fld 0 0 Fld.ETH_PTP_ENABLE = 1 →
      ∃ u, exec (.ptpMessage t m) s = .next u ∧ u.net.ptp.deviceNs = m.deviceNs ∧ u.net.ptp.at_ = max s.now t
        ∧ u.reg 0 0 Reg.ETH_PTP_OFFSET = BitVec.ofInt 64 m.offset ∧ u.reg 1 0 Reg.ETH_PTP_OFFSET = BitVec.ofInt 64 m.offset)

/-- RoCEv2 connections (R282 to R284): set-up, an acknowledgement, a retransmission timeout with tries left, with an alternate path, and with
neither, a congestion notification and a rise of the rate. -/
def Obligations.ConnectionsChange : Prop :=
  ∀ (s : State) (t : Nat), s.running = true →
    (∀ port src ep n mtu, (s.port port).link = true → s.cmOk port src ep n mtu = true → ∃ u q, exec (.cmReq t port src ep n mtu) s = .next u
      ∧ u.qp (portDie port) n = some q ∧ q.ep = ep ∧ q.port = port ∧ q.mtu = mtu ∧ q.error = false ∧ q.unacked = [])
    ∧ ∀ die n q, s.qp die n = some q → q.error = false →
      (∀ psn nak, ∃ u r, exec (.rdmaAckRx t die n psn nak) s = .next u ∧ u.qp die n = some r ∧ r.retries = 0
        ∧ r.acked = max q.acked (if nak = true then psn else psn + 1)
        ∧ r.unacked = q.unacked.filter (fun x => decide ((if nak = true then psn else psn + 1) ≤ x.1)))
      ∧ (q.unacked ≠ [] → ∃ u r, exec (.rdmaRetryTimeout t die n) s = .next u ∧ u.qp die n = some r
        ∧ (q.retries < s.fld die 0 Fld.GSP_RDMA_CFG_RETRY → r = { q with retries := q.retries + 1 })
        ∧ (s.fld die 0 Fld.GSP_RDMA_CFG_RETRY ≤ q.retries → ∀ p, q.migrated = false → s.altPath q = some p →
            r = { q with port := p.port, migrated := true, retries := 0 })
        ∧ (s.fld die 0 Fld.GSP_RDMA_CFG_RETRY ≤ q.retries → q.migrated = true ∨ s.altPath q = none →
            r = { q with error := true, unacked := [] }))
      ∧ (∃ u r, exec (.cnpRx t die n) s = .next u ∧ u.qp die n = some r
        ∧ r.rateMbps = q.rateMbps - q.rateMbps * s.fld die 0 Fld.GSP_RDMA_CFG_CUT / 256)
      ∧ (q.lastRise + s.fld die 0 Fld.GSP_RDMA_CFG_RISE_US * 1000 ≤ max s.now t → ∃ u r, exec (.rateRise t die n) s = .next u
        ∧ u.qp die n = some r ∧ r.rateMbps = min (s.rate q.port * 1000) (q.rateMbps + s.fld die 0 Fld.GSP_RDMA_CFG_STEP_MBPS))

/-- RDMA_WRITE_RX (R283), GSP_FRAME_RX (R278, R280) and REASM_TIMEOUT (R280): a WRITE inside the region of a listed context places its object;
a frame that passes every step makes its message whole, or opens its reassembly; one that fails a step of 1 to 5 leaves every window and
reassembly alone; an overdue reassembly is given up. -/
def Obligations.FramesAndObjectsArrive : Prop :=
  ∀ (s : State) (t : Nat), s.running = true →
    (∀ port n ctx ce o q, (s.port port).link = true → s.qp (portDie port) n = some q → q.error = false →
      (s.listed ctx q.ep = true → o.off + 32 + o.length ≤ s.ingestBytes (portDie port) ctx →
        ∃ u, exec (.rdmaWriteRx t port n ctx ce 0 o) s = .next u ∧ u.net.ingest = ⟨portDie port, ctx, o⟩ :: s.net.ingest.filter
          (fun x => !(x.die == portDie port && x.ctx == ctx && rangesMeet x.obj.off (32 + x.obj.length) o.off (32 + o.length))))
      ∧ (∀ kind, kind ≠ 0 ∨ s.listed ctx q.ep = false ∨ s.ingestBytes (portDie port) ctx < o.off + 32 + o.length →
        ∃ u, exec (.rdmaWriteRx t port n ctx ce kind o) s = .next u ∧ u.net.ingest = s.net.ingest))
    ∧ (∀ f, (s.port f.port).link = true →
      (s.pathOk f.ep f.port f.src = true → f.size = 48 + f.length + 16 → s.keyOk (frKey f) = true → f.tagOk = true →
        s.seqOk (frKey f) f.seq = true → s.frameBad f = none → s.reasmOf (frKey f) f.reqId = none →
        s.poolUse (portDie f.port) + f.msgLen ≤ s.fld (portDie f.port) 0 Fld.GSP_LIMITS_POOL_KIB * 1024 →
        ∃ u, exec (.gspFrameRx t f) s = .next u
          ∧ (f.segCount = 1 → ∃ m, u.net.ready = s.net.ready ++ [m] ∧ m.key = frKey f ∧ m.reqId = f.reqId ∧ m.type = f.type
              ∧ (f.segIndex = 0 → m.payload = f.payload))
          ∧ (f.segCount ≠ 1 → u.net.ready = s.net.ready ∧ ∃ r, u.reasmOf (frKey f) f.reqId = some r ∧ r.segs = [(f.segIndex, f.payload)]
              ∧ r.segCount = f.segCount ∧ r.opened = max s.now t))
      ∧ (s.pathOk f.ep f.port f.src = false ∨ f.size ≠ 48 + f.length + 16 ∨ s.keyOk (frKey f) = false ∨ f.tagOk = false
          ∨ s.seqOk (frKey f) f.seq = false →
        ∃ u, exec (.gspFrameRx t f) s = .next u ∧ u.net.seqIn = s.net.seqIn ∧ u.net.reasm = s.net.reasm ∧ u.net.ready = s.net.ready))
    ∧ (∀ die ep ctx ekey keyGen reqId r, r ∈ s.net.reasm → r.die = die → r.key = ⟨ep, if ekey = true then 0 else ctx, ekey, keyGen⟩ →
      r.reqId = reqId → r.opened + s.fld 0 0 Fld.GSP_LIMITS_REASM_US * 1000 ≤ max s.now t →
      ∃ u, exec (.reasmTimeout t die ep ctx ekey keyGen reqId) s = .next u ∧ r ∉ u.net.reasm ∧ (∀ x ∈ u.net.reasm, x ∈ s.net.reasm)
        ∧ u.net.ready = s.net.ready ∧ u.kv = s.kv)

/-- CS_READ, CS_WRITE and EVENT (R286, R287): registers are read and written in ascending address and the answer is DONE; a subscriber joins
the list once, or leaves it. -/
def Obligations.ControlMessages : Prop :=
  ∀ (s h : State) (e : Env),
    (∀ m l, s.Enters e 0x13 → h = s.heard e 0x13 none → csBad m false = none → csRows m.addr m.count = some l →
      ∃ u, exec (.csRead e m) s = .next u ∧ u.rp.answered = some (0x13, St.done, (h.csReads e l).2) ∧ (h.csReads e l).2.length = 8 * l.length)
    ∧ (∀ m l, s.Enters e 0x14 → h = s.heard e 0x14 none → csBad m true = none → csRows m.addr m.count = some l →
      l.any (fun p => p.2.id == Reg.HL_PLAN) = false →
      ∃ u w, exec (.csWrite e m) s = .next u ∧ (∃ b, u.rp.answered = some (0x14, St.done, b))
        ∧ w = (l.zip m.values).foldl (fun (s : State) p => s.writeReg ⟨e.t, .ep e.ep, p.1.1⟩ p.1.2 p.2 none) h ∧ u.kv = w.kv ∧ u.ses = w.ses)
    ∧ (∀ op x, s.Enters e 0x15 → h = s.heard e 0x15 none → h.subOf e = some x →
      (op = 0 → ∃ u, exec (.event e op 0) s = .next u ∧ u.net.subs = s.net.subs.filter (fun y => y != x) ∧ ∃ b, u.rp.answered = some (0x15, St.done, b))
      ∧ (op = 1 → (s.net.subs.filter (fun y => y.ctx == x.ctx)).length < Config.maxSubscribers →
        ∃ u, exec (.event e op 0) s = .next u ∧ u.net.subs = (if s.net.subs.contains x = true then s.net.subs else s.net.subs ++ [x])
          ∧ ∃ b, u.rp.answered = some (0x15, St.done, b)))

/-- FRAME_TX_END (R293), CH_SHAPER_WRITE (R298), CH_GATE_SWAP (R304), SHAPER_CREDIT_RECOVERED (R297): a frame leaves whole at the port's end
of transmission; a shaper write takes effect at once unless a frame of its class is being sent; a valid next list is pending, one that is
not is refused with its reason; a free port whose class may send starts its first frame. -/
def Obligations.ChimneyActs : Prop :=
  (∀ (s : State) (t port : Nat) (f : QFrame), s.running = true → (s.port port).sending = some f → ∃ u, exec (.frameTxEnd t port) s = .next u
      ∧ u.net.wire = s.net.wire ++ [⟨port, (s.port port).since, max s.now t, f⟩])
  ∧ (∀ (s w : State) (a : Acc) (v : Word) (p n : Nat), n < 8 → s.Accepts a (shaperReg n) v p → w = (s.tick a.t).noteWrite a.rq a.die (shaperReg n) v none →
    ((∀ f, (w.port p).sending = some f → f.cls ≠ n) → ∃ u, exec (.chShaperWrite a n v) s = .next u
      ∧ u.reg (portDie p) p (shaperReg n) = (rowOf (shaperReg n)).stored s.start.locked (s.reg (portDie p) p (shaperReg n)) v)
    ∧ (∀ f, (w.port p).sending = some f → f.cls = n → ∃ u, exec (.chShaperWrite a n v) s = .next u
      ∧ ((u.port p).cls n).pendShaper = some v ∧ (u.port p).sending = some f
      ∧ u.reg (portDie p) p (shaperReg n) = s.reg (portDie p) p (shaperReg n)))
  ∧ (∀ (s w : State) (a : Acc) (v : Word) (p : Nat), s.Accepts a Reg.CH_GATE_CTRL v p → getBits v 63 63 = 1 →
    w = ((s.tick a.t).noteWrite a.rq a.die Reg.CH_GATE_CTRL v none).store (portDie p) p (rowOf Reg.CH_GATE_CTRL) v →
    ∃ u, exec (.chGateSwap a v) s = .next u
      ∧ (w.gateRefusal p = none → u.fld (portDie p) p Fld.CH_GATE_CTRL_PENDING = 1 ∧ (u.port p).swapAt = true)
      ∧ (∀ r, w.gateRefusal p = some r → u.fld (portDie p) p Fld.CH_GATE_CTRL_REFUSED = 1 ∧ u.fld (portDie p) p Fld.CH_GATE_CTRL_REASON = r))
  ∧ (∀ (s : State) (t port c c' : Nat) (f : QFrame), s.running = true → 0 ≤ (s.tick t).creditAt port c (max s.now t) →
    (s.port port).link = true → (s.port port).sending = none → s.net.firing = false → ((s.tick t).settle port).bestClass port = some c' →
    (((s.tick t).settle port).port port).head c' = some f →
    ∃ w : State, exec (.shaperCreditRecovered t port c) s = .next w.formResults ∧ ∃ g : QFrame, (w.port port).sending = some g ∧ g.cls = f.cls
      ∧ g.flow = f.flow ∧ g.tag = f.tag ∧ g.len = f.len)

/-- TALLY_ADD, TALLY_READ and their register forms (R316, R317, R323, R326): a change that is no misuse and no breach of a counter that is not
saturated stores max of the value and N, or the saturating sum; a read answers the value's status and changes no counter. -/
def Obligations.CountersChange : Prop :=
  (∀ (s h : State) (e : Env) (m : TallyMsg) (die i : Nat), die = m.tally / 32768 → i = m.tally % 32768 → h.fld die 0 Fld.TL_CTRL_ENABLE = 1 →
    h.senderOk e e.ctx = true → h.tlIn die e.ctx i = true → e.areaFail = none →
    (∀ adv c, (adv = true → c = .tallyAdvance e m ∧ m.amount ≤ tlMax) → (adv = false → m.form = 0 ∧ c = .tallyAdd e m) → s.Enters e 0x11 →
      h = s.heard e 0x11 none → tlAddBad (b2n adv) m.zero m.amount = false → h.tlMisuse die i (some e.ep) = false →
      h.fld die i Fld.TL_DESC_SATURATED = 0 → tlNew adv (h.tlValue die i) m.amount ≠ h.tlValue die i →
      h.tlBreach die i (tlNew adv (h.tlValue die i) m.amount) = none →
      ∃ u, exec c s = .next u ∧ u.tlValue die i = tlNew adv (s.tlValue die i) m.amount
        ∧ ∃ b, u.rp.answered = some (0x11, (if u.tlValue die i = tlMax then St.saturated else St.done), b))
    ∧ (s.Enters e 0x12 → h = s.heard e 0x12 none → tlReadBad m = false →
      ∃ u, exec (.tallyRead e m) s = .next u ∧ (∀ d j, u.tlValue d j = s.tlValue d j)
        ∧ ∃ b, u.rp.answered = some (0x12, (if s.fld die i Fld.TL_DESC_SATURATED = 1 then St.saturated
            else if m.form = 1 ∧ s.tlValue die i < m.amount then St.notReady else St.done), b)))
  ∧ (∀ (s : State) (a : Acc) (v : Word) (adv : Bool) (i sel : Nat), s.Accepts a Reg.TL_ADD (setBits v 63 63 (b2n adv)) sel →
      i = s.selReg a.die a.rq Reg.TL_SEL % 32768 → (adv = false → 1 ≤ getBits v 62 0 ∧ getBits v 62 0 ≤ 0xFFFFFFFF) →
      s.tlMisuse a.die i none = false → s.fld a.die i Fld.TL_DESC_SATURATED = 0 →
      tlNew adv (s.tlValue a.die i) (getBits v 62 0) ≠ s.tlValue a.die i → s.tlBreach a.die i (tlNew adv (s.tlValue a.die i) (getBits v 62 0)) = none →
      ∃ u, exec (if adv = true then .tlAddAdvance a v else .tlAdd a v) s = .next u
        ∧ u.tlValue a.die i = tlNew adv (s.tlValue a.die i) (getBits v 62 0)
        ∧ u.reg a.die (rqCode a.rq) Reg.TL_ADD_STATUS = BitVec.ofNat 64 (if u.tlValue a.die i = tlMax then St.saturated else St.done))

/-- TALLY_ARM (R325): arming tests the counter at once: at or above EXPECT the wire's latch is set and the counter is not armed, below it
stays armed. TL_PAIR_WRITE (R315): PEER is stored, and BOUND unless it is 0. TL_FIRE (R325): the latch is set and its sleepers wake.
TL_SLEEP (R325): a core sleeps until the latch is set. TL_WOKEN_READ (R325): the latches of the register are cleared. -/
def Obligations.WiresArmFireAndSleep : Prop :=
  ∀ (s : State) (a : Acc) (v : Word),
    (∀ i, s.Accepts a Reg.TL_DESC v i → getBits v 6 6 = 1 → ∃ u, exec (.tallyArm a v) s = .next u ∧ u.tlValue a.die i = s.tlValue a.die i
      ∧ (s.fld a.die i Fld.TL_EXPECT_EXPECT ≤ s.tlValue a.die i → u.fld a.die i Fld.TL_DESC_ARMED = 0 ∧ u.latched a.die (getBits v 31 24) = true)
      ∧ (s.tlValue a.die i < s.fld a.die i Fld.TL_EXPECT_EXPECT → u.fld a.die i Fld.TL_DESC_ARMED = 1))
    ∧ (∀ i, s.Accepts a Reg.TL_PAIR v i → ∃ u, exec (.tlPairWrite a v) s = .next u ∧ u.fld a.die i Fld.TL_PAIR_PEER = getBits v 46 32
      ∧ u.fld a.die i Fld.TL_PAIR_BOUND = (if getBits v 31 0 = 0 then s.fld a.die i Fld.TL_PAIR_BOUND else getBits v 31 0)
      ∧ ∀ d j, u.tlValue d j = s.tlValue d j)
    ∧ (∀ sel, s.Accepts a Reg.TL_FIRE v sel → ∃ u, exec (.tlFire a v) s = .next u ∧ u.latched a.die (getBits v 7 0) = true
      ∧ ∀ c ∈ u.lamp.cores, c.asleep ≠ some (wireNo a.die (getBits v 7 0)))
    ∧ (∀ sel d code, s.Accepts a Reg.TL_SLEEP v sel → a.rq = .core d code → ∃ u, exec (.tlSleep a v) s = .next u
      ∧ (s.latched a.die (getBits v 7 0) = false → (u.core d code).asleep = some (wireNo a.die (getBits v 7 0)))
      ∧ (s.latched a.die (getBits v 7 0) = true → u.lamp.cores = s.lamp.cores))
    ∧ (∀ n sel, n < 4 → s.Shows a (wokenReg n) sel → ∃ u, exec (.tlWokenRead a n) s = .next u
      ∧ (∀ j, j < 64 → u.latched a.die (64 * n + j) = false) ∧ ∀ w, w < 256 → w / 64 ≠ n → u.latched a.die w = s.latched a.die w)

/-- LP_FILL, LP_SCRUB_NEXT_READ, LP_SCRUB_DONE, SCRUB_CHECK_DONE (R341, R342): a fill inside an open job's range leaves zeros; a job is handed
to its reader; DONE starts the check of a job that is taken; a check that passes ends the job, and one that fails puts it at the tail of
its queue, its failures one more. CORE_EXCEPTION (R337, R331, R413), TEARDOWN_DRAIN (R338), CONTEXT_RESUMED (R339) and REQ_STUCK (R334): a
fault in context mode tears the context down, a limit is recorded, a hardware fault halts the core; a drained teardown puts a job on each
cluster that holds something, or is scrubbed at once; a scrubbed context resumes; every stuck entry is reported. -/
def Obligations.ScrubsAndTeardowns : Prop :=
  (∀ (s : State),
    (∀ (w : State) (a : Acc) (v : Word) (sel d code : Nat), s.Accepts a Reg.LP_FILL v sel → a.rq = .core d code → getBits v 63 63 = 1 →
      w = (s.tick a.t).noteWrite a.rq a.die Reg.LP_FILL v none → getBits v 62 47 ≠ 0 →
      w.fillOk a.die (w.coreCluster d code) true (getBits v 46 6 * 64) (getBits v 62 47 * 64) = true →
      ∃ u, exec (.lpFill a v) s = .next u ∧ u.t1 a.die = memZero (s.t1 a.die) (getBits v 46 6 * 64) (getBits v 62 47 * 64))
    ∧ (∀ (a : Acc) (sel d code : Nat) (j : Scrub), s.Shows a Reg.LP_SCRUB_NEXT sel → a.rq = .core d code → (s.tick a.t).nextScrub a = some j →
      ∃ u, exec (.lpScrubNextRead a) s = .next u ∧ u.lamp.scrubs.length = s.lamp.scrubs.length
        ∧ ∀ x ∈ u.lamp.scrubs, x.job = j.job → x.taken = some code)
    ∧ (∀ (a : Acc) (v : Word) (sel : Nat), s.Accepts a Reg.LP_SCRUB_DONE v sel → ∃ u, exec (.lpScrubDone a v) s = .next u
      ∧ u.lamp.scrubs.length = s.lamp.scrubs.length
      ∧ ∀ x ∈ u.lamp.scrubs, x.die = a.die → x.job % 2 ^ 32 = getBits v 31 0 → x.taken.isSome = true → x.checking = true)
    ∧ (∀ (t die job : Nat) (j : Scrub), s.running = true → s.lamp.scrubs.find? (fun j => j.die == die && j.job == job && j.checking) = some j →
      (∃ u, exec (.scrubCheckDone t die job none) s = .next u ∧ u.lamp.scrubs = s.lamp.scrubs.filter (fun x => x.job != job))
      ∧ ∀ off, ∃ u, exec (.scrubCheckDone t die job (some off)) s = .next u ∧ u.fld die 0 Fld.LP_SCRUB_STATUS_FAILED = 1
        ∧ u.lamp.scrubs = s.lamp.scrubs.filter (fun x => x.job != job) ++ [{ j with taken := none, checking := false, fails := j.fails + 1 }]))
  ∧ (∀ (s : State) (t : Nat),
    (∀ die core, s.coreAwake die core = true →
      (∀ c, s.task die core = some c → ∃ u, exec (.coreException t die core .exception) s = .next u ∧ u.torn c = true)
      ∧ (∀ row, row < 16 → ∃ u, exec (.coreException t die core (.limit row)) s = .next u ∧ u.fld die 0 Fld.LP_LIMIT_STAT_LIMIT = row)
      ∧ (core < 9 → ∃ u, exec (.coreException t die core .hardware) s = .next u ∧ (u.core die core).halted = true))
    ∧ (∀ ctx, s.running = true → s.torn ctx = true → s.fld 0 ctx Fld.LP_CTX_CTRL_SCRUBBED = 0 → s.tearJobs ctx = false → s.ctxBusy ctx = false →
      ∃ u, exec (.teardownDrain t ctx) s = .next u
        ∧ (s.ctxClusters ctx = [] → u.fld 0 ctx Fld.LP_CTX_CTRL_SCRUBBED = 1 ∧ u.fld 1 ctx Fld.LP_CTX_CTRL_SCRUBBED = 1 ∧ u.lamp = s.lamp)
        ∧ ∀ p ∈ s.ctxClusters ctx, ∃ j ∈ u.lamp.scrubs, j.die = p.1 ∧ j.cluster = p.2 ∧ j.teardown = true ∧ j.context = ctx ∧ j.taken = none)
    ∧ (∀ (a : Acc) (v : Word) (ctx : Nat), s.Accepts a Reg.LP_CTX_CTRL v ctx → getBits v 63 63 = 1 →
      s.fld a.die ctx Fld.LP_CTX_CTRL_SCRUBBED = 1 → ∃ u, exec (.contextResumed a v) s = .next u ∧ u.torn ctx = false
        ∧ u.fld 0 ctx Fld.LP_CTX_CTRL_SCRUBBED = 0 ∧ u.fld 1 ctx Fld.LP_CTX_CTRL_SCRUBBED = 0)
    ∧ (∀ die, s.running = true → ∃ (w : State) (l : List Track),
      exec (.reqStuck t die) s = .next (l.foldl (fun s x => s.raiseStuck x) w)
      ∧ (∀ x, x ∈ l ↔ x ∈ s.lamp.track ∧ x.die = die ∧ x.reported = false ∧ x.since + s.fld die 0 Fld.LP_TRACK_STUCK_US * 1000 < max s.now t)
      ∧ w.kv = s.kv ∧ ∀ x ∈ w.lamp.track, x.die = die → x.since + s.fld die 0 Fld.LP_TRACK_STUCK_US * 1000 < max s.now t → x.reported = true))

/-- The services of R343 to R345: a command with its GO starts on the lowest running lamplighter; each service's end gives its status, and,
where none of R345's refusals holds, its effect. -/
def Obligations.ServicesRun : Prop :=
  ∀ (s : State) (a : Acc) (c : SvcCmd),
    (∀ (w : State) i code sel, (∃ o, i = .grammarInstall a c o ∧ code = 1) ∨ (i = .grammarRemove a c ∧ code = 2) ∨ (∃ sh, i = .indexCreate a c sh ∧ code = 3)
        ∨ (∃ p, i = .indexLoad a c p ∧ code = 4) ∨ (∃ p, i = .indexMerge a c p ∧ code = 5) ∨ (i = .indexRemove a c ∧ code = 6) →
      s.Accepts a Reg.LP_SVC_CTRL (BitVec.ofNat 64 (2 ^ 63)) sel → c.phase = .start → svcAsker a.rq = true →
      w = (s.tick a.t).noteWrite a.rq a.die Reg.LP_SVC_CTRL (BitVec.ofNat 64 (2 ^ 63)) none →
      w.fld a.die 0 Fld.LP_SVC_CTRL_BUSY = 0 → w.lampsUp a.die ≠ [] →
      ∃ u, exec i s = .next u ∧ u.fld a.die 0 Fld.LP_SVC_CTRL_BUSY = 1 ∧ ∃ v ∈ u.lamp.services, v.die = a.die ∧ v.code = code)
    ∧ (∀ (w : State) v, s.running = true → c.phase = .finish → w = s.tick a.t →
      (∀ o x, s.lamp.services.find? (fun v => v.die == a.die && v.code == 1) = some v → w.gramInstall v o c.sealOk = (x, St.done) →
        ∃ u g, exec (.grammarInstall a c o) s = .next u ∧ alGet (v.die, v.id) u.grams = some g ∧ g.states = o.states ∧ g.start = o.start
          ∧ g.alpha = o.alpha ∧ g.rows = o.rows ∧ u.fld v.die 0 Fld.LP_SVC_CTRL_STATUS = St.done ∧ u.fld v.die 0 Fld.LP_SVC_CTRL_BUSY = 0)
      ∧ (s.lamp.services.find? (fun v => v.die == a.die && v.code == 2) = some v → w.svcBad v 4096 true true = none →
        gramHeld (alGet (v.die, v.id) s.grams) v.ctx = false →
        ∃ u, exec (.grammarRemove a c) s = .next u ∧ alGet (v.die, v.id) u.grams = none ∧ u.fld v.die 0 Fld.LP_SVC_CTRL_STATUS = St.done)
      ∧ (∀ sh, s.lamp.services.find? (fun v => v.die == a.die && v.code == 3) = some v → w.svcBad v 1024 (shapeOk sh) c.sealOk = none →
        sh.context = v.ctx → s.index v.die v.id = none →
        ∃ u x, exec (.indexCreate a c sh) s = .next u ∧ u.index v.die v.id = some x ∧ x.shape = sh ∧ x.gen.generation = 1 ∧ x.gen.recs = []
          ∧ x.table = [] ∧ u.fld v.die 0 Fld.LP_SVC_CTRL_STATUS = St.done)
      ∧ (∀ p x y, s.index v.die v.id = some x →
        (s.lamp.services.find? (fun v => v.die == a.die && v.code == 4) = some v → w.indexNext v p c.sealOk false = (y, St.done) →
          ∃ u z, exec (.indexLoad a c p) s = .next u ∧ u.index v.die v.id = some z ∧ z.gen.generation = x.gen.generation + 1
            ∧ z.gen.recs = p.gen.recs ∧ z.gen.cutoff = x.gen.cutoff ∧ u.fld v.die 0 Fld.LP_SVC_CTRL_STATUS = St.done)
        ∧ (s.lamp.services.find? (fun v => v.die == a.die && v.code == 5) = some v → w.indexNext v p true true = (y, St.done) →
          ∃ u z, exec (.indexMerge a c p) s = .next u ∧ u.index v.die v.id = some z ∧ z.gen.generation = x.gen.generation + 1
            ∧ z.gen.recs = p.gen.recs ∧ z.gen.cutoff = x.mark ∧ u.fld v.die 0 Fld.LP_SVC_CTRL_STATUS = St.done))
      ∧ (∀ x, s.lamp.services.find? (fun v => v.die == a.die && v.code == 6) = some v → w.svcBad v 1024 true true = none →
        s.index v.die v.id = some x → x.shape.context = v.ctx → s.searchesOf x = [] →
        ∃ u, exec (.indexRemove a c) s = .next u ∧ u.index v.die v.id = none ∧ u.fld v.die 0 Fld.LP_SVC_CTRL_STATUS = St.done))

/-- POWER_ON_START and START_STEP_TIMEOUT (R360, R362, R364): a start that no rule stops ends in state 7 or 8 with the RWL fields locked; an
image that fails its checks, and a step that does not finish, stop it with STATUS, STEP and DETAIL. RESET_ASSERT and PWR_OK_FALL (R361,
R449): nothing of the run is left but the fuses, the checkpoint sets and the recording area, and the J716 does not run. GLB_MODE (R363):
SERVICE 1 gives state 8; SERVICE 0 gives state 7, or is refused while a session that is not FREE stands without DENSE. -/
def Obligations.StartAndMode : Prop :=
  (∀ (s : State) (t : Nat),
    (s.status = 0 → s.pins.released = false → s.pins.tripped = false →
      (∀ img hw c st d, hw.clocksOk = true → hw.romOk = true → imageFail s.ident.fuses.lc s.ident.fuses.floor img = some (c, st, d) →
        ∃ u, exec (.powerOnStart t img hw) s = .next u ∧ u.status = c ∧ u.fld 0 0 Fld.GLB_START_STEP = st
          ∧ u.fld 0 0 Fld.GLB_START_DETAIL = d % 2 ^ 32 ∧ u.start = s.start)
      ∧ (∀ img hw w, hw.clocksOk = true → hw.romOk = true → imageFail s.ident.fuses.lc s.ident.fuses.floor img = none →
        w = { s.tick t with pins := { s.pins with power := true, released := true } }.showClocks hw →
        configFail img ((w.putSections img).applyList img.registers) = none → memoryFail hw = none → coreFail hw = none →
        ∃ u, exec (.powerOnStart t img hw) s = .next u ∧ u.status = (if img.autoNormal = true then 8 else 7) ∧ u.fld 0 0 Fld.GLB_START_STEP = 9
          ∧ u.start.locked = true ∧ u.pins.released = true ∧ u.pins.power = true)
      ∧ (∀ step, 1 ≤ step → step ≤ 9 → ∃ u, exec (.startStepTimeout t step) s = .next u ∧ u.status = 14
          ∧ u.fld 0 0 Fld.GLB_START_STEP = step ∧ u.fld 0 0 Fld.GLB_START_DETAIL = step ∧ u.start = s.start))
    ∧ (∀ c, c = .resetAssert t ∨ c = .pwrOkFall t → ∃ u, exec c s = .next u ∧ u.status = 0 ∧ u.running = false ∧ u.ses.recs = [] ∧ u.kv.leaves = []
      ∧ u.attn.results = [] ∧ u.start.locked = false ∧ u.pins.released = false ∧ u.ident.fuses = s.ident.fuses ∧ u.ckpt.heads = s.ckpt.heads
      ∧ u.ckpt.snaps = s.ckpt.snaps ∧ u.rp.area = s.rp.area ∧ u.pins.power = (if c = .pwrOkFall t then false else s.pins.power)))
  ∧ (∀ (s : State) (a : Acc) (v : Word) (sel : Nat), s.Accepts a Reg.GLB_MODE v sel → s.up = true →
    ∃ u, exec (.glbModeWrite a v) s = .next u
      ∧ (getBits v 0 0 = 1 → u.status = 8 ∧ u.fld 0 0 Fld.GLB_MODE_SERVICE = 1)
      ∧ (getBits v 0 0 = 0 → s.looseSession = true → u.status = s.status ∧ u.fld 0 0 Fld.GLB_MODE_REFUSED = 1)
      ∧ (getBits v 0 0 = 0 → s.looseSession = false → u.status = 7 ∧ u.fld 0 0 Fld.GLB_MODE_SERVICE = 0))

/-- REPORT_STATE, REPORT_SCRUB and REPORT_DONE (R369, R370, R377): a report that may be asked for is taken and signed, and stands complete
when signing ends. ADVANCE and RETIRE_PREV (R373): the generation advances, its predecessor live, and the predecessor is retired.
JTAG_INSTRUCTION (R376): an instruction the port takes is in force, one it does not take changes nothing, and Ibgar's own, whose effect
the spec does not give, is refused by name. -/
def Obligations.ReportsKeysAndJtag : Prop :=
  ∀ (s : State),
    (∀ (a : Acc) (v : Word) (sel kind : Nat), s.Accepts a Reg.SEAL_RPT_CTRL v sel → getBits v 63 63 = 1 → kind = getBits v 61 61 → s.sealBusy = false →
      mayReport a.rq = true → (kind = 0 → s.lc ≠ 4) → (kind = 1 → s.scrubbed = true) → ∀ c, c = .reportState a v ∨ c = .reportScrub a v →
      ∃ u body, exec c s = .next u ∧ u.ident.signing = some (kind, body) ∧ u.ident.report = [] ∧ u.fld 0 0 Fld.SEAL_RPT_CTRL_BUSY = 1
        ∧ u.ident.fuses = s.ident.fuses)
    ∧ (∀ t kind body, s.running = true → s.ident.signing = some (kind, body) → ∃ u, exec (.reportDone t) s = .next u ∧ u.ident.signing = none
      ∧ u.ident.report = reportBytes body ∧ u.ident.reports = s.ident.reports + 1 ∧ u.fld 0 0 Fld.SEAL_RPT_CTRL_BUSY = 0
      ∧ u.fld 0 0 Fld.SEAL_RPT_CTRL_STATUS = St.done)
    ∧ (∀ (a : Acc) (v : Word) (x : Nat), s.Accepts a Reg.SEAL_KEYGEN v x → a.die = 0 →
      (getBits v 63 63 = 1 → getBits v 62 62 = 0 → s.fld 0 x Fld.SEAL_KEYGEN_PREV_LIVE = 0 → s.fld 0 x Fld.SEAL_KEYGEN_CUR ≠ 255 →
        ∃ u, exec (.advance a v) s = .next u ∧ u.fld 0 x Fld.SEAL_KEYGEN_CUR = s.fld 0 x Fld.SEAL_KEYGEN_CUR + 1
          ∧ u.fld 0 x Fld.SEAL_KEYGEN_PREV_LIVE = 1 ∧ u.fld 0 x Fld.SEAL_KEYGEN_REFUSED = 0)
      ∧ (getBits v 63 63 = 0 → getBits v 62 62 = 1 → ∃ u, exec (.retirePrev a v) s = .next u
          ∧ u.fld 0 x Fld.SEAL_KEYGEN_PREV_LIVE = 0 ∧ u.fld 0 x Fld.SEAL_KEYGEN_CUR = s.fld 0 x Fld.SEAL_KEYGEN_CUR))
    ∧ (∀ t die i, s.pins.power = true → die < 2 →
      (s.jtagTakes i = true → (∀ k, i ≠ .maker k) → ∃ u, exec (.jtagInstruction t die i) s = .next u ∧ alGet die u.pins.jtag = some i
        ∧ u.pins.released = s.pins.released ∧ u.regs = s.regs)
      ∧ (s.jtagTakes i = false → ∃ u, exec (.jtagInstruction t die i) s = .next u ∧ u.pins = s.pins ∧ u.regs = s.regs)
      ∧ (∀ k, i = .maker k → s.jtagTakes i = true → exec (.jtagInstruction t die i) s = .refused .makerInstruction))

/-- The life-cycle commands (R377 to R380): one that is allowed, with its package and its fuse rows good, burns its fuses and brings its state
into force; SCRUB_ALL leaves no page, result, automaton or T1 byte and no lamplighter, and its end frees the port for commands.
SCRUB_ALL_DONE (R377): the scrub ends with its status; one that passed is noted, with its position and its byte counts. -/
def Obligations.LifeCycleCommands : Prop :=
  (∀ (s : State) (a : Acc) (v : Word) (sel : Nat), s.Accepts a Reg.SEAL_LC_CMD v sel → getBits v 63 63 = 1 → s.sealBusy = false →
    s.mayCommand a.rq = true → s.lcAllows (getBits v 58 56) = true →
    (∀ p, getBits v 58 56 = 1 → getBits v 31 0 = 1816 → p.tagOk = true → p.readBackOk = true → (s.ident.fuses.used0 = false ∨ s.ident.fuses.used1 = false) →
      ∃ u, exec (.provision a v p) s = .next u ∧ u.ident.fuses.lc = max s.ident.fuses.lc 1 ∧ u.fld 0 0 Fld.SEAL_LC_CMD_STATUS = St.done
        ∧ (s.ident.fuses.used0 = false → u.ident.fuses.valid0 = true) ∧ (s.ident.fuses.used0 = true → u.ident.fuses.valid1 = true))
    ∧ (getBits v 58 56 = 2 → ∃ u, exec (.deploy a v true) s = .next u ∧ u.lc = 2 ∧ u.ident.fuses.lc = max s.ident.fuses.lc 2
      ∧ u.ident.fuses.floor = max s.ident.fuses.floor (min s.start.img.svn 64) ∧ u.fld 0 0 Fld.SEAL_LC_CMD_STATUS = St.done)
    ∧ (getBits v 58 56 = 3 → s.ident.fuses.floor < min s.start.img.svn 64 → ∃ u, exec (.raiseSvn a v true) s = .next u
      ∧ u.ident.fuses.floor = min s.start.img.svn 64 ∧ u.ident.fuses.lc = s.ident.fuses.lc ∧ u.fld 0 0 Fld.SEAL_LC_CMD_STATUS = St.done)
    ∧ (getBits v 58 56 = 4 → ∃ u, exec (.scrubAll a v) s = .next u ∧ u.ident.cmd = some 4 ∧ u.ident.closed = true ∧ u.kv.leaves = []
      ∧ u.attn.results = [] ∧ u.grams = [] ∧ u.tier.t1a = [] ∧ u.tier.t1b = [] ∧ u.fld 0 0 Fld.SEAL_LC_CMD_BUSY = 1)
    ∧ (∀ p, getBits v 58 56 = 5 → getBits v 31 0 = 17136 → p.keysOk = true → p.sigsOk = true → p.serial = Config.serial →
      s.ident.scrubDigest = some p.digest → p.readBackOk = true → ∃ u, exec (.lcReturn a v p) s = .next u ∧ u.lc = 3
        ∧ u.ident.fuses.rootKill = true ∧ u.ident.fuses.lc = max s.ident.fuses.lc 3 ∧ u.fld 0 0 Fld.SEAL_LC_CMD_STATUS = St.done)
    ∧ (getBits v 58 56 = 6 → ∃ u, exec (.scrap a v true) s = .next u ∧ u.lc = s.lc ∧ u.ident.fuses.rootKill = true
      ∧ u.ident.fuses.lc = max s.ident.fuses.lc 4 ∧ u.fld 0 0 Fld.SEAL_LC_CMD_STATUS = St.done))
  ∧ (∀ (s : State) (t : Nat) (pass : Bool) (a b c : Nat), s.running = true → s.ident.cmd ≠ none →
    ∃ u, exec (.scrubAllDone t pass a b c) s = .next u ∧ u.ident.cmd = none ∧ u.fld 0 0 Fld.SEAL_LC_CMD_BUSY = 0
      ∧ u.fld 0 0 Fld.SEAL_LC_CMD_STATUS = (if pass = true then St.done else St.integrity)
      ∧ (pass = true → u.scrubbed = true ∧ u.ident.scrubT1 = a ∧ u.ident.scrubSram = b ∧ u.ident.scrubSkip = c)
      ∧ (pass = false → u.scrubbed = s.scrubbed ∧ u.ident.scrubT1 = s.ident.scrubT1))

/-- CHECKPOINT with TAKE and DISCARD (R382, R393, R395), the cut (R384, R385), CBW_SPACE_FREED (R391), the end of a shard (R392) and its
failure (R394): a checkpoint is planned or cut and no other starts beside it; a discarded one is retained no longer; a shard's header is
complete when it is done, and the checkpoint when the last one is. RESTORE (R397) and RESTORE_COMPLETE (R399): a restore that R397 admits
loads and is answered at its end; one it does not is answered at once; a load that ends puts the set's automata and indexes in place, and
one that fails leaves them. -/
def Obligations.CheckpointsAndRestores : Prop :=
  (∀ (s : State) (t : Nat),
    (∀ (h : State) (e : Env) (m : CkptMsg), s.Enters e 0x0F → h = s.heard e 0x0F none → h.role e.ep = 3 → m.zero = 0 →
      (m.op = 0 → m.ckptId = 0 → h.ckptOn = true → h.ckptBusy = false → ∃ u, exec (.checkpointTake e m) s = .next u ∧ u.ckptBusy = true
        ∧ ∃ b, u.rp.answered = some (0x0F, St.done, b))
      ∧ (h.ckpt.retained.contains m.ckptId = true → (∀ r, h.ckpt.run = some r → r.id ≠ m.ckptId) →
        ∃ u, exec (.checkpointDiscard e m) s = .next u ∧ u.ckpt.retained = s.ckpt.retained.filter (fun n => n != m.ckptId)
          ∧ ∃ b, u.rp.answered = some (0x0F, St.done, b)))
    ∧ (∀ kind trigger mark, s.running = true → s.ckpt.plan = some (kind, trigger, mark) → mark ≤ (s.tick t).est →
      ∃ u r, exec (.checkpointCut t) s = .next u ∧ u.ckpt.plan = none ∧ u.ckpt.run = some r ∧ r.id = s.nextCkpt ∧ r.kind = kind ∧ r.trigger = trigger)
    ∧ (∀ die units, s.running = true → s.ckpt.run.isSome = true → die < 2 → ∃ u, exec (.cbwSpaceFreed t die units) s = .next u
      ∧ u.fld die 0 Fld.CK_CBW_USE_KIB = s.fld die 0 Fld.CK_CBW_USE_KIB - 28 * units)
    ∧ (∀ shard bodyLen r x, s.running = true → s.ckpt.run = some r → (if shard < 8 ∨ shard = 16 then r.order0 else r.order1).head? = some shard →
      (if shard < 8 ∨ shard = 16 then r.order0 else r.order1).Nodup →
      s.ckpt.snaps.find? (fun y => y.id == r.id) = some x →
      (4096 + bodyLen ≤ s.fld 0 0 Fld.CK_SHARD_BYTES → ∃ u, exec (.shardDone t shard bodyLen none true) s = .next u
        ∧ (∃ h ∈ u.ckpt.heads, h.slot = r.slot ∧ h.shard = shard ∧ h.id = r.id ∧ h.done = true ∧ h.bodyLen = bodyLen)
        ∧ ((shard < 8 ∨ shard = 16) → r.order0.length ≤ 1 → r.order1 = [] → u.ckpt.run = none ∧ u.reg 0 0 Reg.CK_LAST = BitVec.ofNat 64 r.id))
      ∧ (∀ at_, ∃ u, exec (.shardDone t shard bodyLen (some at_) true) s = .next u ∧ u.ckptBusy = false
        ∧ u.fld 0 0 Fld.CK_STATUS_CAUSE = 1 ∧ u.reg 0 0 Reg.CK_FAIL = BitVec.ofNat 64 at_)))
  ∧ (∀ (s : State),
    (∀ (h : State) (e : Env) (m : CkptMsg), s.Enters e 0x10 → h = s.heard e 0x10 none → h.role e.ep = 3 → m.zero = 0 →
      (∀ x, h.restoreCheck m.ckptId = .inr x → ∃ u, exec (.restore e m) s = .next u ∧ u.ckpt.restore = some (e, x.id)
        ∧ u.fld 0 0 Fld.CK_STATUS_RESTORING = 1)
      ∧ (∀ st d, h.restoreCheck m.ckptId = .inl (st, d) → ∃ u, exec (.restore e m) s = .next u ∧ u.ckpt.restore = s.ckpt.restore
        ∧ ∃ b, u.rp.answered = some (0x10, st, b)))
    ∧ (∀ t e id, s.running = true → s.ckpt.restore = some (e, id) →
      (∀ x, s.ckpt.snaps.find? (fun y => y.id == id) = some x → ∃ u, exec (.restoreComplete t none) s = .next u ∧ u.ckpt.restore = none
        ∧ u.grams = x.grams ∧ u.flash.indexes = x.flash.indexes)
      ∧ (∀ shard off, ∃ u, exec (.restoreComplete t (some (shard, off))) s = .next u ∧ u.ckpt.restore = none ∧ u.grams = s.grams
        ∧ u.flash.indexes = s.flash.indexes ∧ u.ses = s.ses ∧ u.fld 0 0 Fld.CK_STATUS_RESTORE_FAILED = 1)))

/-- CORE_KAT, UNIT_OVERRUN, CORE_FAULT (R408, R409, R412) and SPARE_KAT_DONE (R410): a passed test is noted with its position; a faulty core
leaves service, fenced, and its cluster's spare is tested, or the fault is not covered; a spare that passed takes the fenced core's place,
at the next step boundary while triggers fire, and one that failed leaves service. LAMP_FAULT, WATCHDOG_EXPIRY and HL_KICK (R413),
LOCKSTEP_MISMATCH and SUP_RESTART (R414): a faulty lamplighter halts, and so does one that has not kicked for WDOG_MS; a kick restarts the
writer's watchdog; a mismatched pair is halted and leaves service at its SUP_RETRY-th mismatch, and a halted one that restarts well is in
service again. -/
def Obligations.CoresFail : Prop :=
  (∀ (s : State) (t die cluster core : Nat), s.running = true →
    (core ≤ 16 → s.coreOut die cluster core = false → s.fld die 0 Fld.HL_CTRL_KAT_STEPS ≠ 0 →
      (s.katOf die cluster core).2 + s.fld die 0 Fld.HL_CTRL_KAT_STEPS ≤ s.boundary →
      ∃ u, exec (.coreKat t die cluster core true) s = .next u ∧ u.katOf die cluster core = ((s.tick t).pos, s.boundary) ∧ u.regs = s.regs)
    ∧ (∀ c, c = .unitOverrun t die cluster core ∨ c = .coreFault t die cluster core
        ∨ (c = .coreKat t die cluster core false ∧ s.fld die 0 Fld.HL_CTRL_KAT_STEPS ≠ 0
          ∧ (s.katOf die cluster core).2 + s.fld die 0 Fld.HL_CTRL_KAT_STEPS ≤ s.boundary) →
      core ≤ 16 → s.coreOut die cluster core = false →
      (core < 16 → ∃ u, exec c s = .next u ∧ u.coreOut die cluster core = true ∧ u.fld die cluster Fld.HL_CORE_FENCED = 1
        ∧ u.fld die cluster Fld.HL_CORE_FENCED_LOG = core
        ∧ (s.spare die cluster = 0 → u.spare die cluster = 1)
        ∧ (s.spare die cluster ≠ 0 → u.spare die cluster = s.spare die cluster ∧ (die, cluster, core) ∈ u.health.unmapped))
      ∧ (core = 16 → s.spare die cluster = 2 → ∃ u, exec c s = .next u ∧ u.coreOut die cluster 16 = true
        ∧ u.fld die cluster Fld.HL_CORE_FENCED = 1 ∧ (die, cluster, s.fld die cluster Fld.HL_CORE_FENCED_LOG) ∈ u.health.unmapped)
      ∧ (core = 16 → s.spare die cluster ≠ 2 → ∃ u, exec c s = .next u ∧ u.coreOut die cluster 16 = true ∧ u.spare die cluster = 3))
    ∧ (s.spare die cluster = 1 → s.health.spareOk = [] →
      (s.fires = true → ∃ u, exec (.spareKatDone t die cluster true) s = .next u ∧ u.health.spareOk = [(die, cluster)] ∧ u.regs = s.regs)
      ∧ (s.fires = false → (∀ r ∈ s.attn.results, slotDie r.slot = die → s.home r.slot = cluster → ∀ x ∈ r.units, x.st ≠ .running) →
        ∃ u, exec (.spareKatDone t die cluster true) s = .next u ∧ u.spare die cluster = 2 ∧ u.fld die cluster Fld.HL_CORE_FENCED = 0
          ∧ u.health.spareOk = [])
      ∧ ∃ u, exec (.spareKatDone t die cluster false) s = .next u ∧ u.spare die cluster = 3
        ∧ (die, cluster, s.fld die cluster Fld.HL_CORE_FENCED_LOG) ∈ u.health.unmapped))
  ∧ (∀ (s : State) (t die : Nat),
    (∀ core, core < 9 → s.coreUp die core = true → ∀ c, c = .lampFault t die core ∨ (c = .watchdogExpiry t die core
        ∧ (s.core die core).lastKick + s.fld die 0 Fld.HL_CTRL_WDOG_MS * 1000000 ≤ max s.now t) →
      ∃ u, exec c s = .next u ∧ (u.core die core).halted = true)
    ∧ (∀ core, s.coreUp die core = true → max s.now t < (s.core die core).lastKick + s.fld die 0 Fld.HL_CTRL_WDOG_MS * 1000000 →
      exec (.watchdogExpiry t die core) s = .next s)
    ∧ (∀ (a : Acc) (v : Word) (sel d code : Nat), s.Accepts a Reg.HL_KICK v sel → a.rq = .core d code →
      ∃ u, exec (.hlKick a v) s = .next u ∧ (u.core d code).lastKick = max s.now a.t)
    ∧ (s.coreUp die 9 = true → ∃ u, exec (.lockstepMismatch t die) s = .next u ∧ (u.core die 9).halted = true
      ∧ (u.core die 9).mismatches = (s.core die 9).mismatches + 1 ∧ u.fld die 0 Fld.LP_STATUS_SUP_OK = 0
      ∧ (s.fld die 0 Fld.HL_CTRL_SUP_RETRY ≤ (s.core die 9).mismatches + 1 → u.supGone die = true))
    ∧ (s.running = true → s.supGone die = false → (s.core die 9).halted = true →
      (∃ u, exec (.supRestart t die true true) s = .next u ∧ (u.core die 9).halted = false ∧ u.fld die 0 Fld.LP_STATUS_SUP_OK = 1)
      ∧ ∀ ok inTime, (ok && inTime) = false → ∃ u, exec (.supRestart t die ok inTime) s = .next u ∧ u.supGone die = true
        ∧ u.fld die 0 Fld.LP_STATUS_SUP_OK = 0))

/-- HL_ROW_SPARE (R415), HL_PLAN (R423), BD_VACK and VREQ_TIMEOUT (R463) and HL_ALERT_ACK (R420): a row is spared while its macro has a spare
row; a plan inside the envelope waits for its step boundary while triggers fire, and else asks for its first voltage at once, and one
outside it changes no plan; the acknowledged voltage is in force and the next request goes out, or the plan ends; a rise that is never
acknowledged gives the plan up; an acknowledged alert is pending no more. -/
def Obligations.PlansAndSpares : Prop :=
  ∀ (s w : State) (a : Acc) (v : Word) (sel : Nat),
    (s.Accepts a Reg.HL_ROW_SPARE v sel → getBits v 63 63 = 1 →
      (isRow a.die (getBits v 31 0) = true → s.rowsUsed (getBits v 31 0) < 8 → ∃ u, exec (.hlRowSpare a v) s = .next u
        ∧ u.health.rows = getBits v 31 0 :: s.health.rows ∧ u.fld a.die 0 Fld.HL_ROW_SPARE_STATUS = St.done)
      ∧ ((isRow a.die (getBits v 31 0) = false ∨ 8 ≤ s.rowsUsed (getBits v 31 0)) → ∃ u, exec (.hlRowSpare a v) s = .next u
        ∧ u.health.rows = s.health.rows ∧ u.fld a.die 0 Fld.HL_ROW_SPARE_STATUS = St.limit))
    ∧ (s.Accepts a Reg.HL_PLAN v sel → getBits v 63 63 = 1 → (s.planOk v = false →
        ∃ u, exec (.hlPlan a v) s = .next u ∧ u.health.plan = s.health.plan ∧ u.health.nextPlan = s.health.nextPlan)
      ∧ (s.planOk v = true → ∀ p : Plan, p = ⟨getBits v 42 40, getBits v 44 43, getBits v 15 0, getBits v 31 16, false, [], max s.now a.t⟩ →
        (s.fires = true → ∃ u, exec (.hlPlan a v) s = .next u ∧ u.health.nextPlan = some p ∧ u.fld 0 0 Fld.HL_PLAN_STATUS_PENDING = 1)
        ∧ (s.fires = false → s.health.plan = none → ∀ q l, s.rises p = q :: l → ∃ u, exec (.hlPlan a v) s = .next u
          ∧ u.health.plan = some { p with reqs := q :: l } ∧ u.health.nextPlan = none ∧ u.fld 0 0 Fld.BD_VREQ_PENDING = 1
          ∧ u.fld 0 0 Fld.BD_VREQ_RAIL = q.rail % 16 ∧ u.fld 0 0 Fld.BD_VREQ_MV = q.mv % 2 ^ 16)))
    ∧ (∀ p q l, s.health.plan = some p → p.reqs = q :: l → s.fld 0 0 Fld.BD_VREQ_PENDING = 1 →
      (s.Accepts a Reg.BD_VACK v sel → getBits v 55 48 = s.fld 0 0 Fld.BD_VREQ_SEQ → getBits v 15 0 = q.mv →
        (l = [] → p.clocked = true → ∃ u, exec (.bdVack a v) s = .next u ∧ u.health.plan = none
          ∧ u.fld 0 0 Fld.HL_PLAN_STATUS_REFRESH = p.refresh % 4 ∧ (q.rail = 0 → u.fld 0 0 Fld.HL_PLAN_STATUS_VCORE_MV = q.mv)
          ∧ (q.rail ≠ 0 → u.fld 0 0 Fld.HL_PLAN_STATUS_VSRAM_MV = q.mv) ∧ u.fld 0 0 Fld.BD_VREQ_PENDING = 0)
        ∧ (∀ r m, l = r :: m → ∃ u, exec (.bdVack a v) s = .next u ∧ u.health.plan = some { p with reqs := l, since := max s.now a.t }
          ∧ u.fld 0 0 Fld.BD_VREQ_MV = r.mv % 2 ^ 16 ∧ (q.rail = 0 → u.fld 0 0 Fld.HL_PLAN_STATUS_VCORE_MV = q.mv)
          ∧ (q.rail ≠ 0 → u.fld 0 0 Fld.HL_PLAN_STATUS_VSRAM_MV = q.mv)))
      ∧ (∀ t, s.running = true → p.since + 2000000 ≤ max s.now t → q.rise = true → ∃ u, exec (.vreqTimeout t) s = .next u ∧ u.health.plan = none
        ∧ u.fld 0 0 Fld.BD_VREQ_PENDING = 0 ∧ u.reg 0 0 Reg.HL_PLAN_STATUS = s.reg 0 0 Reg.HL_PLAN_STATUS))
    ∧ (s.Accepts a Reg.HL_ALERT v sel → w = (s.tick a.t).noteWrite a.rq a.die Reg.HL_ALERT v none →
      (s.fld a.die 0 Fld.HL_ALERT_ACK ≤ getBits v 47 0 → ∃ u, exec (.hlAlertAck a v) s = .next u ∧ u.fld a.die 0 Fld.HL_ALERT_ACK = getBits v 47 0
        ∧ u.alerts a.die = (w.alerts a.die).filter (fun i => decide (getBits v 47 0 < i)))
      ∧ (getBits v 47 0 < s.fld a.die 0 Fld.HL_ALERT_ACK → exec (.hlAlertAck a v) s = .next w))

/-- DRAM_RETRAIN (R416), AGE_MEASURE and LANE_EYE_MEASURE (R421, R424), D2D_LINK_FAULT (R404), DRAM_TEMP_POLL (R455), THERMAL_SAMPLE (R453)
and EVENT_LIMIT_STEP_END (R418): a measurement stands in HL_MON; a channel that cannot be trained is trained no more; a pair above
WARN_PPM is noted until it is below again; a failed lane is recorded; a hot device is reported once per step; a die's sensors stand in
BD_TEMP, and at 115 °C the J716 trips; a step of the event limits ends after LOSS_NS without a trigger. -/
def Obligations.MeasurementsEnter : Prop :=
  ∀ (s : State) (t die : Nat),
    (s.running = true →
      (∀ cluster channel pass readPs writePs, cluster < 8 → channel < 8 → ∃ u, exec (.dramRetrain t die cluster channel pass readPs writePs) s = .next u
        ∧ u.reg die (128 + 8 * cluster + channel) Reg.HL_MON = BitVec.ofNat 64 (readPs % 2 ^ 32 * 2 ^ 32 + writePs % 2 ^ 32)
        ∧ (pass = false → u.fld die cluster Fld.MC_DEGRADE_TRAINED / 2 ^ channel % 2 = 0)
        ∧ (pass = true → u.fld die cluster Fld.MC_DEGRADE_TRAINED = s.fld die cluster Fld.MC_DEGRADE_TRAINED))
      ∧ (∀ pair drift n, pair < 64 → ∃ u, exec (.ageMeasure t die pair drift n) s = .next u
        ∧ u.reg die pair Reg.HL_MON = BitVec.ofNat 64 (drift % 2 ^ 32 * 2 ^ 32 + n % 2 ^ 32)
        ∧ (s.fld die 0 Fld.HL_AGE_CFG_WARN_PPM < drift → (die, pair) ∈ u.health.aged)
        ∧ (drift ≤ s.fld die 0 Fld.HL_AGE_CFG_WARN_PPM → u.health.aged = s.health.aged.erase (die, pair)))
      ∧ (∀ lane height width, lane < 48 → ∃ u, exec (.laneEyeMeasure t lane height width) s = .next u
        ∧ u.reg (lane / 24) (64 + lane % 24) Reg.HL_MON = BitVec.ofNat 64 (height % 2 ^ 32 * 2 ^ 32 + width % 2 ^ 32))
      ∧ (∀ lane, ∃ u, exec (.d2dLinkFault t true lane) s = .next u ∧ lane ∈ u.health.d2d)
      ∧ (∀ lane, ∃ u, exec (.d2dLinkFault t false lane) s = .next u ∧ u.health = s.health)
      ∧ (∀ cluster channel rate, cluster < 8 → channel < 8 → ∃ u, exec (.dramTempPoll t die cluster channel true rate) s = .next u
        ∧ (u.onceRec die 0xA3 (cluster * 8 + channel)).raised = true)
      ∧ (s.fires = false → s.ev.lastStepEnd + s.fld 0 0 Fld.BCN_TIMEOUT_LOSS_NS ≤ max s.now t → ∃ u, exec (.eventLimitStepEnd t) s = .next u
        ∧ u.ev.lastStepEnd = max s.now t ∧ (∀ o ∈ u.ev.once, o.raised = false ∧ o.supp = 0) ∧ u.ev.once.map Once.prev = s.ev.once.map Once.supp))
    ∧ (∀ temps, s.pins.power = true → s.pins.released = true → s.pins.tripped = false → die < 2 →
      ∃ u, exec (.thermalSample t die temps) s = .next u
        ∧ (∀ i, i < 16 → u.fld die i Fld.BD_TEMP_TEMP = temp16 (temps.getD i 0))
        ∧ (tripTemp ≤ hottest temps → u.pins.tripped = true ∧ u.fld 0 0 Fld.BD_THERM_TRIP = 1 ∧ u.fld 0 0 Fld.BD_THERM_TRIP_DIE = die)
        ∧ (hottest temps < tripTemp → u.pins.tripped = false))

/-- REFCLK_LOSS and REFCLK_RESTORED (R451), SIDEBAND_CCC (R459) and SIDEBAND_IBI_ACCEPT (R462): BD_CLK shows a clock lost and present again,
with holdover while CORE_REFCLK is away; the I3C target takes one dynamic address, gives it up, enables and disables its interrupts, and
returns its identifiers; an accepted interrupt is the oldest one. SIDEBAND_WRITE and SIDEBAND_READ (R460, R461): a malformed access is
answered BAD_FRAME, one that the path does not admit DENIED, and any other is carried out. -/
def Obligations.PinsAndSideband : Prop :=
  ∀ (s : State) (t : Nat),
    (s.running = true →
      (∀ c, s.clkOk c = true → ∃ u, exec (.refclkLoss t c) s = .next u ∧ u.clkOk c = false ∧ (c = .core → u.fld 0 0 Fld.BD_CLK_HOLDOVER = 1))
      ∧ (∀ c, s.clkOk c = false → ∃ u, exec (.refclkRestored t c) s = .next u ∧ u.clkOk c = true
        ∧ (c = .core → s.fires = false → u.fld 0 0 Fld.BD_CLK_HOLDOVER = 0)
        ∧ (c = .core → s.fires = true → u.pins.coreBack = true ∧ u.fld 0 0 Fld.BD_CLK_HOLDOVER = s.fld 0 0 Fld.BD_CLK_HOLDOVER)))
    ∧ (s.pins.power = true →
      (∀ c addr, c = .entdaa addr ∨ c = .setdasa addr →
        (s.fld 0 0 Fld.BD_SB_I3C = 0 → ∃ u, exec (.sidebandCcc t c) s = .next u ∧ u.fld 0 0 Fld.BD_SB_DYN_ADDR = addr % 128 ∧ u.fld 0 0 Fld.BD_SB_I3C = 1)
        ∧ (s.fld 0 0 Fld.BD_SB_I3C = 1 → ∃ u, exec (.sidebandCcc t c) s = .next u ∧ u.regs = s.regs))
      ∧ (∃ u, exec (.sidebandCcc t .rstdaa) s = .next u ∧ u.fld 0 0 Fld.BD_SB_DYN_ADDR = 0 ∧ u.fld 0 0 Fld.BD_SB_I3C = 0)
      ∧ (∃ u, exec (.sidebandCcc t .enec) s = .next u ∧ u.fld 0 0 Fld.BD_SB_IBI_EN = 1 ∧ u.fld 0 0 Fld.BD_SB_I3C = s.fld 0 0 Fld.BD_SB_I3C)
      ∧ (∃ u, exec (.sidebandCcc t .disec) s = .next u ∧ u.fld 0 0 Fld.BD_SB_IBI_EN = 0 ∧ u.fld 0 0 Fld.BD_SB_I3C = s.fld 0 0 Fld.BD_SB_I3C)
      ∧ (∃ u, exec (.sidebandCcc t .getpid) s = .next u ∧ u.pins.ccc = be 6 (Config.mipiId % 2 ^ 15 * 2 ^ 33 + Config.serial % 2 ^ 32) ∧ u.regs = s.regs)
      ∧ (∃ u, exec (.sidebandCcc t .getbcr) s = .next u ∧ u.pins.ccc = [0x06] ∧ u.regs = s.regs)
      ∧ (∃ u, exec (.sidebandCcc t .getdcr) s = .next u ∧ u.pins.ccc = [0x00] ∧ u.regs = s.regs)
      ∧ (∀ n c, c = .getstatus ∧ n = 2 ∨ c = .getmrl ∧ n = 3 ∨ c = .getmwl ∧ n = 2 → ∃ u, exec (.sidebandCcc t c) s = .next u ∧ u.pins.ccc.length = n ∧ u.regs = s.regs)
      ∧ (∀ n, ∃ u, exec (.sidebandCcc t (.other n)) s = .next u ∧ u.regs = s.regs ∧ u.pins = s.pins)
      ∧ (s.fld 0 0 Fld.BD_SB_IBI_EN = 1 → ∃ u, exec (.sidebandIbiAccept t) s = .next u ∧ u.pins.ibi = s.pins.ibi.drop 1 ∧ u.regs = s.regs)
      ∧ (∀ size addr v, (size ≠ 15 ∨ mapAddr addr = none) → ∃ u, exec (.sidebandWrite t size addr v) s = .next u
        ∧ u.pins.outcome = (St.badFrame, 0) ∧ u.regs = s.regs)
      ∧ (∀ size addr, (size ≠ 7 ∨ mapAddr addr = none) → ∃ u, exec (.sidebandRead t size addr) s = .next u
        ∧ u.pins.outcome = (St.badFrame, 0) ∧ u.regs = s.regs)
      ∧ (∀ addr die r v, mapAddr addr = some (die, r) →
        ((s.tick t).writePass .sideband die 0 r v ≠ .go → ∃ u, exec (.sidebandWrite t 15 addr v) s = .next u
          ∧ u.pins.outcome = (St.denied, 0) ∧ u.regs = s.regs)
        ∧ ((s.tick t).writePass .sideband die 0 r v = .go → ∃ u, exec (.sidebandWrite t 15 addr v) s = .next u ∧ u.pins.outcome = (St.done, 0)
          ∧ u.regs = ((s.tick t).writeReg ⟨t, .sideband, die⟩ r v none).regs)
        ∧ ((s.tick t).readPass .sideband r ≠ .go → ∃ u, exec (.sidebandRead t 7 addr) s = .next u ∧ u.pins.outcome = (St.denied, 0) ∧ u.regs = s.regs)
        ∧ (∀ sel, (s.tick t).readPass .sideband r = .go → (s.tick t).selItem die .sideband r.sel = some sel →
          ∃ u, exec (.sidebandRead t 7 addr) s = .next u ∧ u.pins.outcome = (St.done, (s.tick t).readWord ⟨t, .sideband, die⟩ sel r.id))))

/-- REGISTER_WRITE (R7, R473): a write that no rule turns away stores the register's writable bits, where the register has no effect of its
own, and leaves every other register but counters of answers and reports, and sessions, pages and memory, as they were; a write of an
unmapped address does nothing on other paths than a control core's, whose refused access it is. -/
def Obligations.RegisterWriteStores : Prop :=
  ∀ (s : State) (a : Acc) (addr : Nat) (v : Word),
    (∀ die r sel, mapAddr addr = some (die, rowOf r) → (rowOf r).id = r → r ∉ [Reg.CH_COUNTS, Reg.ATN_COUNTS0, Reg.ATN_COUNTS1, Reg.HL_EVT_HEAD, Reg.GSP_EP_INFO,
        Reg.GSP_BAD, Reg.GSP_LAST_BAD, Reg.RP_STATUS, Reg.RP_REC, Reg.RP_DIVERGE, Reg.SES_OUTCOME0, Reg.SES_OUTCOME1] →
      s.Accepts { a with die } r v sel → (die0Only r && die == 1) = false →
      (∀ x : State, (if r.blk ≤ 0x08 then x.writeLow { a with die } sel (rowOf r) v none else x.writeHigh { a with die } sel (rowOf r) v) = none) →
      ∃ u, exec (.registerWrite a addr v) s = .next u ∧ u.reg die sel r = (rowOf r).stored s.start.locked (s.reg die sel r) v
        ∧ (∀ d i x, (d ≠ die ∨ i ≠ sel ∨ x ≠ r) → x ∉ [Reg.CH_COUNTS, Reg.ATN_COUNTS0, Reg.ATN_COUNTS1, Reg.HL_EVT_HEAD, Reg.GSP_EP_INFO,
        Reg.GSP_BAD, Reg.GSP_LAST_BAD, Reg.RP_STATUS, Reg.RP_REC, Reg.RP_DIVERGE, Reg.SES_OUTCOME0, Reg.SES_OUTCOME1] → u.reg d i x = s.reg d i x)
        ∧ u.ses = s.ses ∧ u.kv = s.kv ∧ u.tier = s.tier ∧ u.flash = s.flash ∧ u.bcn = s.bcn ∧ u.ident = s.ident)
    ∧ (mapAddr addr = none → (∀ d code, a.rq ≠ .core d code) → exec (.registerWrite a addr v) s = .next s)
    ∧ (∀ d code, mapAddr addr = none → a.rq = .core d code → s.present a.rq = true →
      ∃ u, exec (.registerWrite a addr v) s = .next u ∧ u.fld d 0 Fld.LP_LIMIT_STAT_LIMIT = 0)

/-- RECORD_ARM and RECORD_STOP (R433), REPLAY_ARM (R437) and REPLAY_INJECT (R438, R439, R442): an idle area is armed; recording stops, and so
does an armed area; a record that is due is injected, one that is not waits, an imposed answer takes its record, and after the last one
the replay is DONE and the position held. -/
def Obligations.RecordsAndReplays : Prop :=
  ∀ (s w : State),
    (∀ (a : Acc) (v : Word) (sel : Nat), s.Accepts a Reg.RP_CTRL v sel → w = (s.tick a.t).noteWrite a.rq a.die Reg.RP_CTRL v none →
      (w.fld 0 0 Fld.RP_STATUS_STATE = 0 → ∀ c, (c = .recordArm a v ∧ getBits v 1 0 = 1) ∨ (c = .replayArm a v ∧ getBits v 1 0 = 2) →
        ∃ u, exec c s = .next u ∧ u.fld 0 0 Fld.RP_STATUS_STATE = 1)
      ∧ (getBits v 1 0 = 0 →
        (w.fld 0 0 Fld.RP_STATUS_STATE = 2 → ∃ u, exec (.recordStop a v) s = .next u ∧ u.fld 0 0 Fld.RP_STATUS_STATE = 0 ∧ u.rp.area.state = 2
          ∧ u.rp.area.recs = w.rp.area.recs)
        ∧ (w.fld 0 0 Fld.RP_STATUS_STATE = 1 → ∃ u, exec (.recordStop a v) s = .next u ∧ u.fld 0 0 Fld.RP_STATUS_STATE = 0)))
    ∧ (∀ t, s.running = true → s.replaying = true → w = (if s.fires then (s.tick t).fireDue false else s.tick t) →
      (w.rp.left = [] → ∃ u, exec (.replayInject t) s = .next u ∧ u.fld 0 0 Fld.RP_STATUS_STATE = 4 ∧ u.bcn.frozen.isSome = true)
      ∧ (∀ r l, w.rp.left = r :: l →
        (w.recordDue r = false → exec (.replayInject t) s = .next w)
        ∧ (w.recordDue r = true → (∃ m form, r.body = .digest m form) ∨ (∃ c, r.body = .message c ∧ timingStatus r.status = true) →
          ∃ u, exec (.replayInject t) s = .next u ∧ u.rp.left = l ∧ (l ≠ [] → u.reg 0 0 Reg.RP_REC = BitVec.ofNat 64 r.rseq)
            ∧ (l = [] → u.fld 0 0 Fld.RP_STATUS_STATE = 4))
        ∧ (∀ o, w.recordDue r = true → r.body = .object o → l ≠ [] →
          ∃ u, exec (.replayInject t) s = .next u ∧ u.rp.left = l ∧ (⟨0, r.ctx, o⟩ : Ingest) ∈ u.net.ingest ∧ (⟨1, r.ctx, o⟩ : Ingest) ∈ u.net.ingest)))
end

