-- ==== Sys2Proof/Laws/Canonical.lean ====
section
/-! SUPPORT. The operations over the register file and over T1 bytes keep the canonical form, and the laws of reading after
writing. -/

namespace Sys2Proof.Machine

/-! ### Association lists -/

theorem alErase_sublist {α β : Type} [DecidableEq α] (k : α) (l : List (α × β)) : (alErase k l).Sublist l := by
  induction l with
  | nil => exact .slnil
  | cons p l ih =>
    unfold alErase
    split
    · exact ih.cons p
    · exact ih.cons_cons p

theorem alGet_alErase_self {α β : Type} [DecidableEq α] (k : α) (l : List (α × β)) : alGet k (alErase k l) = none := by
  induction l with
  | nil => rfl
  | cons p l ih => by_cases h : p.1 = k <;> simp [alErase, alGet, h, ih]

theorem alGet_alErase_ne {α β : Type} [DecidableEq α] {j k : α} (h : j ≠ k) (l : List (α × β)) :
    alGet j (alErase k l) = alGet j l := by
  induction l with
  | nil => rfl
  | cons p l ih =>
    by_cases hk : p.1 = k
    · subst hk; simp [alErase, alGet, ih, Ne.symm h]
    · simp [alErase, alGet, hk, ih]

@[simp] theorem alGet_alSet_self {α β : Type} [DecidableEq α] (k : α) (v : β) (l : List (α × β)) :
    alGet k (alSet k v l) = some v := by simp [alSet, alGet]

theorem alGet_alSet_ne {α β : Type} [DecidableEq α] {j k : α} (h : j ≠ k) (v : β) (l : List (α × β)) :
    alGet j (alSet k v l) = alGet j l := by simp [alSet, alGet, Ne.symm h, alGet_alErase_ne h]

theorem alGet_eq_none {α β : Type} [DecidableEq α] {k : α} {l : List (α × β)} (h : ∀ p ∈ l, p.1 ≠ k) : alGet k l = none := by
  induction l with
  | nil => rfl
  | cons p l ih =>
    simp only [alGet, h p (List.mem_cons_self ..), if_false]
    exact ih fun q hq => h q (List.mem_cons_of_mem _ hq)

theorem alErase_mem {α β : Type} [DecidableEq α] {k : α} {l : List (α × β)} {p : α × β} (h : p ∈ alErase k l) :
    p ∈ l ∧ p.1 ≠ k := by
  induction l with
  | nil => cases h
  | cons q l ih =>
    unfold alErase at h
    split at h
    · exact ⟨List.mem_cons_of_mem _ (ih h).1, (ih h).2⟩
    · next hq =>
      rcases List.mem_cons.1 h with rfl | h
      · exact ⟨List.mem_cons_self .., hq⟩
      · exact ⟨List.mem_cons_of_mem _ (ih h).1, (ih h).2⟩

/-! ### The register file -/

theorem RegKey.lt_iff (a b : RegKey) : a.lt b = true ↔ a.die < b.die ∨ a.die = b.die ∧ (a.blk < b.blk ∨ a.blk = b.blk ∧
    (a.off < b.off ∨ a.off = b.off ∧ a.sel < b.sel)) := by
  simp [RegKey.lt, Bool.or_eq_true, Bool.and_eq_true]

theorem RegKey.lt_trans {a b c : RegKey} (h : a.lt b = true) (h' : b.lt c = true) : a.lt c = true := by
  rw [RegKey.lt_iff] at *; omega

theorem RegKey.lt_irrefl (a : RegKey) : a.lt a = false := by
  rw [Bool.eq_false_iff, Ne, RegKey.lt_iff]; omega

theorem RegKey.lt_of_not {a b : RegKey} (h : a.lt b = false) (hne : a ≠ b) : b.lt a = true := by
  rw [Bool.eq_false_iff, Ne, RegKey.lt_iff] at h
  rw [RegKey.lt_iff]
  have : a.die ≠ b.die ∨ a.blk ≠ b.blk ∨ a.off ≠ b.off ∨ a.sel ≠ b.sel := by
    by_contra hc
    push Not at hc
    exact hne (by cases a; cases b; simp_all)
  omega

/-- The canonical form of the register file as a proposition. -/
theorem regsWf_iff (l : List (RegKey × Word)) :
    regsWf l = true ↔ l.Pairwise (fun p q => p.1.lt q.1 = true) ∧ ∀ p ∈ l, p.2 ≠ p.1.reset := by
  induction l with
  | nil => simp [regsWf]
  | cons p l ih =>
    simp only [regsWf, Bool.and_eq_true, decide_eq_true_eq, List.all_eq_true, ih, List.pairwise_cons, List.forall_mem_cons]
    tauto

theorem regsWf_sublist {l l' : List (RegKey × Word)} (h : l.Sublist l') (hl : regsWf l' = true) : regsWf l = true := by
  rw [regsWf_iff] at *
  exact ⟨hl.1.sublist h, fun p hp => hl.2 p (h.subset hp)⟩

theorem regsWf_filter {l : List (RegKey × Word)} (hl : regsWf l = true) (f : RegKey × Word → Bool) : regsWf (l.filter f) = true :=
  regsWf_sublist List.filter_sublist hl

theorem mem_regInsert {k : RegKey} {w : Word} {l : List (RegKey × Word)} {p : RegKey × Word} :
    p ∈ regInsert k w l ↔ p = (k, w) ∨ p ∈ l := by
  induction l with
  | nil => simp [regInsert]
  | cons q l ih =>
    unfold regInsert
    split
    · simp
    · simp [ih]; tauto

theorem regInsert_wf {k : RegKey} {w : Word} {l : List (RegKey × Word)} (hl : regsWf l = true) (hw : w ≠ k.reset)
    (hk : ∀ p ∈ l, p.1 ≠ k) : regsWf (regInsert k w l) = true := by
  induction l with
  | nil => simp [regInsert, regsWf, hw]
  | cons q l ih =>
    have hq := (regsWf_iff _).1 hl
    unfold regInsert
    split
    · next h =>
      rw [regsWf_iff]
      refine ⟨List.pairwise_cons.2 ⟨fun p hp => ?_, hq.1⟩, List.forall_mem_cons.2 ⟨hw, hq.2⟩⟩
      rcases List.mem_cons.1 hp with rfl | hp
      · exact h
      · exact RegKey.lt_trans h ((List.pairwise_cons.1 hq.1).1 p hp)
    · next h =>
      have ih' := (regsWf_iff _).1 (ih (regsWf_sublist (List.sublist_cons_self q l) hl) fun p hp => hk p (List.mem_cons_of_mem _ hp))
      rw [regsWf_iff]
      refine ⟨List.pairwise_cons.2 ⟨fun p hp => ?_, ih'.1⟩, List.forall_mem_cons.2 ⟨hq.2 q (List.mem_cons_self ..), ih'.2⟩⟩
      rcases mem_regInsert.1 hp with rfl | hp
      · exact RegKey.lt_of_not (by simpa using h) (hk q (List.mem_cons_self ..)).symm
      · exact (List.pairwise_cons.1 hq.1).1 p hp

/-- A write to the register file keeps the canonical form. -/
theorem regSet_wf {l : List (RegKey × Word)} (hl : regsWf l = true) (k : RegKey) (w : Word) : regsWf (regSet l k w) = true := by
  have he := regsWf_sublist (alErase_sublist k l) hl
  unfold regSet
  split
  · exact he
  · next h => exact regInsert_wf he h fun p hp => (alErase_mem hp).2

theorem alGet_regInsert_self (k : RegKey) (w : Word) {l : List (RegKey × Word)} (h : ∀ p ∈ l, p.1 ≠ k) :
    alGet k (regInsert k w l) = some w := by
  induction l with
  | nil => simp [regInsert, alGet]
  | cons q l ih =>
    unfold regInsert
    split
    · simp [alGet]
    · simp [alGet, h q (List.mem_cons_self ..), ih fun p hp => h p (List.mem_cons_of_mem _ hp)]

theorem alGet_regInsert_ne {j k : RegKey} (h : j ≠ k) (w : Word) (l : List (RegKey × Word)) :
    alGet j (regInsert k w l) = alGet j l := by
  induction l with
  | nil => simp [regInsert, alGet, Ne.symm h]
  | cons q l ih =>
    unfold regInsert
    split
    · simp [alGet, Ne.symm h]
    · by_cases hq : q.1 = j <;> simp [alGet, hq, ih]

/-- A register reads as it was written. -/
@[simp] theorem regGet_regSet_self (l : List (RegKey × Word)) (k : RegKey) (w : Word) : regGet (regSet l k w) k = w := by
  unfold regGet regSet
  split
  · next h => simp [alGet_alErase_self, h]
  · simp [alGet_regInsert_self k w (l := alErase k l) fun p hp => (alErase_mem hp).2]

/-- A write to one register leaves every other. -/
theorem regGet_regSet_ne {j k : RegKey} (h : j ≠ k) (l : List (RegKey × Word)) (w : Word) : regGet (regSet l k w) j = regGet l j := by
  unfold regGet regSet
  split
  · rw [alGet_alErase_ne h]
  · rw [alGet_regInsert_ne h, alGet_alErase_ne h]

/-! ### T1 bytes -/

/-- The canonical form of T1 bytes as a proposition. -/
theorem memWf_iff (l : List Host.Cell) : memWf l = true ↔ l.Pairwise (fun p q => p.1 < q.1) ∧ ∀ p ∈ l, p.2 ≠ 0 := by
  induction l with
  | nil => simp [memWf]
  | cons p l ih =>
    simp only [memWf, Bool.and_eq_true, decide_eq_true_eq, List.all_eq_true, ih, List.pairwise_cons, List.forall_mem_cons]
    tauto

theorem memWf_sublist {l l' : List Host.Cell} (h : l.Sublist l') (hl : memWf l' = true) : memWf l = true := by
  rw [memWf_iff] at *
  exact ⟨hl.1.sublist h, fun p hp => hl.2 p (h.subset hp)⟩

theorem mem_memInsert {a : Nat} {b : Byte} {l : List Host.Cell} {p : Host.Cell} : p ∈ memInsert a b l ↔ p = (a, b) ∨ p ∈ l := by
  induction l with
  | nil => simp [memInsert]
  | cons q l ih =>
    unfold memInsert
    split
    · simp
    · simp [ih]; tauto

theorem memInsert_wf {a : Nat} {b : Byte} {l : List Host.Cell} (hl : memWf l = true) (hb : b ≠ 0) (ha : ∀ p ∈ l, p.1 ≠ a) :
    memWf (memInsert a b l) = true := by
  induction l with
  | nil => simpa [memInsert, memWf] using hb
  | cons q l ih =>
    have hq := (memWf_iff _).1 hl
    unfold memInsert
    split
    · next h =>
      rw [memWf_iff]
      refine ⟨List.pairwise_cons.2 ⟨fun p hp => ?_, hq.1⟩, List.forall_mem_cons.2 ⟨hb, hq.2⟩⟩
      rcases List.mem_cons.1 hp with rfl | hp
      · exact h
      · exact lt_trans h ((List.pairwise_cons.1 hq.1).1 p hp)
    · next h =>
      have ih' := (memWf_iff _).1 (ih (memWf_sublist (List.sublist_cons_self q l) hl) fun p hp => ha p (List.mem_cons_of_mem _ hp))
      rw [memWf_iff]
      refine ⟨List.pairwise_cons.2 ⟨fun p hp => ?_, ih'.1⟩, List.forall_mem_cons.2 ⟨hq.2 q (List.mem_cons_self ..), ih'.2⟩⟩
      rcases mem_memInsert.1 hp with rfl | hp
      · have := ha q (List.mem_cons_self ..); simp only; omega
      · exact (List.pairwise_cons.1 hq.1).1 p hp

/-- A byte written keeps the canonical form. -/
theorem memSet_wf {m : List Host.Cell} (hm : memWf m = true) (a : Nat) (b : Byte) : memWf (memSet m a b) = true := by
  have he := memWf_sublist (alErase_sublist a m) hm
  unfold memSet
  split
  · exact he
  · next h => exact memInsert_wf he h fun p hp => (alErase_mem hp).2

/-- Bytes written keep the canonical form. -/
theorem memWrite_wf (l : List Byte) : ∀ {m : List Host.Cell} (_ : memWf m = true) (a : Nat), memWf (memWrite m a l) = true := by
  induction l with
  | nil => exact fun hm _ => hm
  | cons b l ih => exact fun hm a => ih (memSet_wf hm a b) (a + 1)

/-- Zeroing keeps the canonical form. -/
theorem memZero_wf {m : List Host.Cell} (hm : memWf m = true) (a n : Nat) : memWf (memZero m a n) = true :=
  memWf_sublist List.filter_sublist hm

theorem memZero_le_wf {m : List Host.Cell} (hm : memWf m = true) (f : Host.Cell → Bool) : memWf (m.filter f) = true :=
  memWf_sublist List.filter_sublist hm

theorem alGet_memInsert_self (a : Nat) (b : Byte) {l : List Host.Cell} (h : ∀ p ∈ l, p.1 ≠ a) : alGet a (memInsert a b l) = some b := by
  induction l with
  | nil => simp [memInsert, alGet]
  | cons q l ih =>
    unfold memInsert
    split
    · simp [alGet]
    · simp [alGet, h q (List.mem_cons_self ..), ih fun p hp => h p (List.mem_cons_of_mem _ hp)]

theorem alGet_memInsert_ne {a c : Nat} (h : c ≠ a) (b : Byte) (l : List Host.Cell) : alGet c (memInsert a b l) = alGet c l := by
  induction l with
  | nil => simp [memInsert, alGet, Ne.symm h]
  | cons q l ih =>
    unfold memInsert
    split
    · simp [alGet, Ne.symm h]
    · by_cases hq : q.1 = c <;> simp [alGet, hq, ih]

/-- A byte reads as it was written. -/
@[simp] theorem memGet_memSet_self (m : List Host.Cell) (a : Nat) (b : Byte) : memGet (memSet m a b) a = b := by
  unfold memGet memSet
  split
  · next h => simp [alGet_alErase_self, h]
  · simp [alGet_memInsert_self a b (l := alErase a m) fun p hp => (alErase_mem hp).2]

/-- A byte written leaves every other. -/
theorem memGet_memSet_ne {a c : Nat} (h : c ≠ a) (m : List Host.Cell) (b : Byte) : memGet (memSet m a b) c = memGet m c := by
  unfold memGet memSet
  split
  · rw [alGet_alErase_ne h]
  · rw [alGet_memInsert_ne h, alGet_alErase_ne h]

/-- Bytes written leave every address outside them. -/
theorem memGet_memWrite_out (l : List Byte) : ∀ (m : List Host.Cell) (a c : Nat), (c < a ∨ a + l.length ≤ c) →
    memGet (memWrite m a l) c = memGet m c := by
  induction l with
  | nil => intros; rfl
  | cons b l ih =>
    intro m a c h
    simp only [List.length_cons] at h
    rw [memWrite, ih _ _ _ (by omega), memGet_memSet_ne (by omega)]

/-- Bytes written read as they were written. -/
theorem memGet_memWrite_in (l : List Byte) : ∀ (m : List Host.Cell) (a i : Nat) (h : i < l.length),
    memGet (memWrite m a l) (a + i) = l[i] := by
  induction l with
  | nil => intro m a i h; exact absurd h (Nat.not_lt_zero i)
  | cons b l ih =>
    intro m a i h
    cases i with
    | zero => rw [memWrite, memGet_memWrite_out _ _ _ _ (by omega)]; simp
    | succ n =>
      have := ih (memSet m a b) (a + 1) n (by simpa using h)
      rw [memWrite, show a + (n + 1) = a + 1 + n by omega, this]
      simp

end Sys2Proof.Machine
end

