-- ==== Sys2Proof/Laws/Reported.lean ====
section
/-! SUPPORT. What sending, answering and reporting leave alone: everything but queued frames, event records, the request tracker,
the delivery of results, the recording area, and the counters and heads of `chatter`. -/

namespace Sys2Proof.Machine

/-- The registers that sending, answering and reporting may change. -/
def chatter : List RegId :=
  [Reg.CH_COUNTS, Reg.ATN_COUNTS0, Reg.ATN_COUNTS1, Reg.HL_EVT_HEAD, Reg.GSP_EP_INFO, Reg.GSP_BAD, Reg.GSP_LAST_BAD, Reg.RP_STATUS,
   Reg.RP_REC, Reg.RP_DIVERGE, Reg.SES_OUTCOME0, Reg.SES_OUTCOME1]

/-- A result apart from its way out: first return, delivery, and the record number of its message. -/
def Result.still (r : Result) : Result := { r with firstRet := none, delivery := .waiting, msg := 0 }

/-- `b` differs from `a` by sending, answering and reporting only. -/
structure State.Reported (a b : State) : Prop where
  now : b.now = a.now
  pending : b.pending = a.pending
  free : b.free = a.free
  bcn : b.bcn = a.bcn
  ses : b.ses = a.ses
  kv : b.kv = a.kv
  grams : b.grams = a.grams
  tier : b.tier = a.tier
  start : b.start = a.start
  flash : b.flash = a.flash
  ident : b.ident = a.ident
  ckpt : b.ckpt = a.ckpt
  health : b.health = a.health
  lamp : { b.lamp with track := [] } = { a.lamp with track := [] }
  attn : { b.attn with results := [] } = { a.attn with results := [] }
  results : b.attn.results.map Result.still = a.attn.results.map Result.still
  power : b.pins.power = a.pins.power
  released : b.pins.released = a.pins.released
  tripped : b.pins.tripped = a.pins.tripped
  reg : ∀ die sel r, r ∉ chatter → b.reg die sel r = a.reg die sel r

variable {s0 s t : State}

theorem reported_refl (s : State) : s.Reported s :=
  ⟨rfl, rfl, rfl, rfl, rfl, rfl, rfl, rfl, rfl, rfl, rfl, rfl, rfl, rfl, rfl, rfl, rfl, rfl, rfl, fun _ _ _ _ => rfl⟩

theorem reported_trans (h : s0.Reported s) (h' : s.Reported t) : s0.Reported t :=
  ⟨h'.now.trans h.now, h'.pending.trans h.pending, h'.free.trans h.free, h'.bcn.trans h.bcn, h'.ses.trans h.ses, h'.kv.trans h.kv,
   h'.grams.trans h.grams, h'.tier.trans h.tier, h'.start.trans h.start, h'.flash.trans h.flash, h'.ident.trans h.ident,
   h'.ckpt.trans h.ckpt, h'.health.trans h.health, h'.lamp.trans h.lamp, h'.attn.trans h.attn, h'.results.trans h.results, h'.power.trans h.power,
   h'.released.trans h.released, h'.tripped.trans h.tripped, fun d i r hr => (h'.reg d i r hr).trans (h.reg d i r hr)⟩

/-- A field of a register outside `chatter` keeps its value. -/
theorem State.Reported.fld (h : s0.Reported s) (die sel : Nat) {f : Field} (hf : f.reg ∉ chatter) :
    s.fld die sel f = s0.fld die sel f := by
  unfold State.fld
  rw [h.reg die sel f.reg hf]

/-- A change of events, queued frames, tracker, deliveries, recording or in-band interrupts. -/
theorem reported_mk (h : s0.Reported s) {now : Nat} {pending : List Instr} {free : Nat} {regs : List (RegKey × Word)} {bcn : Beacon}
    {ev : Events} {ses : Sessions} {kv : Kv} {attn : Attn} {grams : List ((Nat × Nat) × Gram)} {net : Net} {lamp : Lamp}
    {tier : Tier} {start : Start} {flash : Flash} {ident : Ident} {ckpt : Ckpt} {health : Health} {rp : Replay} {pins : Pins}
    (e1 : pending = s.pending) (e2 : now = s.now) (e3 : free = s.free) (e4 : regs = s.regs) (e5 : bcn = s.bcn) (e6 : ses = s.ses)
    (e7 : kv = s.kv) (e8 : grams = s.grams) (e9 : tier = s.tier) (e10 : start = s.start) (e11 : flash = s.flash)
    (e12 : ident = s.ident) (e13 : ckpt = s.ckpt) (e14 : health = s.health)
    (e15 : { lamp with track := [] } = { s.lamp with track := [] }) (e16 : { attn with results := [] } = { s.attn with results := [] })
    (e20 : attn.results.map Result.still = s.attn.results.map Result.still)
    (e17 : pins.power = s.pins.power) (e18 : pins.released = s.pins.released) (e19 : pins.tripped = s.pins.tripped) :
    s0.Reported ⟨now, pending, free, regs, bcn, ev, ses, kv, attn, grams, net, lamp, tier, start, flash, ident, ckpt, health, rp,
      pins⟩ :=
  reported_trans h ⟨e2, e1, e3, e5, e6, e7, e8, e9, e10, e11, e12, e13, e14, e15, e16, e20, e17, e18, e19,
    fun d i r _ => by unfold State.reg; rw [e4]⟩

theorem State.setReg_reported (h : s0.Reported s) {die sel : Nat} {r : RegId} {w : Word} (hr : r ∈ chatter) :
    s0.Reported (s.setReg die sel r w) :=
  reported_trans h ⟨rfl, rfl, rfl, rfl, rfl, rfl, rfl, rfl, rfl, rfl, rfl, rfl, rfl, rfl, rfl, rfl, rfl, rfl, rfl, fun d i x hx => by
    unfold State.reg State.setReg
    refine regGet_regSet_ne (fun e => hx ?_) _ _
    cases r
    cases x
    cases e
    exact hr⟩

theorem State.setFld_reported (h : s0.Reported s) {die sel : Nat} {f : Field} {v : Nat} (hf : f.reg ∈ chatter) :
    s0.Reported (s.setFld die sel f v) := State.setReg_reported h hf
theorem State.bumpBy_reported (h : s0.Reported s) {die sel : Nat} {f : Field} {n : Nat} (hf : f.reg ∈ chatter) :
    s0.Reported (s.bumpBy die sel f n) := State.setReg_reported h hf
theorem State.bump_reported (h : s0.Reported s) {die sel : Nat} {f : Field} (hf : f.reg ∈ chatter) :
    s0.Reported (s.bump die sel f) := State.setReg_reported h hf

theorem still_map (l : List Result) (f : Result → Result) (hf : ∀ r, (f r).still = r.still) :
    (l.map f).map Result.still = l.map Result.still := by
  rw [List.map_map]
  exact List.map_congr_left fun r _ => hf r

theorem reported_ite {c : Prop} [Decidable c] (h : s0.Reported s) (h' : s0.Reported t) : s0.Reported (if c then s else t) := by
  split
  · exact h
  · exact h'

theorem reported_foldl {α : Type} {f : State → α → State} (hf : ∀ s x, s0.Reported s → s0.Reported (f s x)) (l : List α)
    (h : s0.Reported s) : s0.Reported (l.foldl f s) := by
  induction l generalizing s with
  | nil => exact h
  | cons x l ih => exact ih (hf s x h)

end Sys2Proof.Machine
end

