-- ==== Sys2Proof/Laws/Reports.lean ====
section
/-! SUPPORT. The functions that send, answer and report: each leaves alone what `State.Reported` says. -/

namespace Sys2Proof.Machine

set_option linter.unusedTactic false
set_option linter.unreachableTactic false

variable {s0 s : State}

theorem State.setPort_reported (h : s0.Reported s) {p : Nat} {v : Port} : s0.Reported (State.setPort s p v) := by
  unfold State.setPort
  try dsimp only
  repeat' first | with_reducible assumption | with_reducible apply reported_ite | fail_if_no_progress with_reducible refine reported_mk ?_ rfl rfl rfl rfl rfl rfl rfl rfl rfl rfl rfl rfl rfl rfl rfl rfl rfl rfl rfl rfl | split | dsimp only | decide

theorem State.settle_reported (h : s0.Reported s) {p : Nat} : s0.Reported (State.settle s p) := by
  unfold State.settle
  try dsimp only
  repeat' first | with_reducible assumption | intro _ | with_reducible apply State.setPort_reported | with_reducible apply reported_ite | with_reducible apply reported_foldl | fail_if_no_progress with_reducible refine reported_mk ?_ rfl rfl rfl rfl rfl rfl rfl rfl rfl rfl rfl rfl rfl rfl rfl rfl rfl rfl rfl rfl | split | dsimp only | decide

theorem State.enqueue_reported (h : s0.Reported s) {p cls flow len : Nat} {result : Option (Nat × ResKey)} {body : FrameBody} : s0.Reported (State.enqueue s p cls flow len result body) := by
  unfold State.enqueue
  try dsimp only
  repeat' first | with_reducible assumption | with_reducible apply State.settle_reported | with_reducible apply State.setPort_reported | with_reducible apply reported_ite | fail_if_no_progress with_reducible refine reported_mk ?_ rfl rfl rfl rfl rfl rfl rfl rfl rfl rfl rfl rfl rfl rfl rfl rfl rfl rfl rfl rfl | split | dsimp only | decide

theorem State.countHeld_reported (h : s0.Reported s) {p : Nat} : s0.Reported (State.countHeld s p) := by
  unfold State.countHeld
  try dsimp only
  repeat' first | with_reducible assumption | intro _ | with_reducible apply State.setPort_reported | with_reducible apply State.bump_reported | with_reducible apply reported_ite | with_reducible apply reported_foldl | fail_if_no_progress with_reducible refine reported_mk ?_ rfl rfl rfl rfl rfl rfl rfl rfl rfl rfl rfl rfl rfl rfl rfl rfl rfl rfl rfl rfl | split | dsimp only | decide

theorem State.noteReturn_reported (h : s0.Reported s) {r : Result} : s0.Reported (State.noteReturn s r) := by
  unfold State.noteReturn
  try dsimp only
  repeat' first | with_reducible assumption | intro _ | with_reducible apply State.bump_reported | with_reducible apply reported_ite | fail_if_no_progress with_reducible refine reported_mk ?_ rfl rfl rfl rfl rfl rfl rfl rfl rfl rfl rfl rfl rfl rfl rfl rfl rfl rfl rfl rfl | fail_if_no_progress with_reducible refine reported_mk ?_ rfl rfl rfl rfl rfl rfl rfl rfl rfl rfl rfl rfl rfl rfl rfl rfl (still_map _ _ (fun r => by split <;> with_unfolding_all rfl)) rfl rfl rfl | split | dsimp only | decide

theorem State.markStarted_reported (h : s0.Reported s) {p : Nat} {f : QFrame} : s0.Reported (State.markStarted s p f) := by
  unfold State.markStarted
  try dsimp only
  repeat' first | with_reducible assumption | intro _ | with_reducible apply State.noteReturn_reported | with_reducible apply State.setPort_reported | with_reducible apply reported_ite | fail_if_no_progress with_reducible refine reported_mk ?_ rfl rfl rfl rfl rfl rfl rfl rfl rfl rfl rfl rfl rfl rfl rfl rfl rfl rfl rfl rfl | fail_if_no_progress with_reducible refine reported_mk ?_ rfl rfl rfl rfl rfl rfl rfl rfl rfl rfl rfl rfl rfl rfl rfl rfl (still_map _ _ (fun r => by split <;> with_unfolding_all rfl)) rfl rfl rfl | split | dsimp only | decide

theorem State.untrack_reported (h : s0.Reported s) {k : KeyRef} {reqId : Nat} : s0.Reported (State.untrack s k reqId) := by
  unfold State.untrack
  try dsimp only
  repeat' first | with_reducible assumption | intro _ | with_reducible apply reported_ite | fail_if_no_progress with_reducible refine reported_mk ?_ rfl rfl rfl rfl rfl rfl rfl rfl rfl rfl rfl rfl rfl rfl rfl rfl rfl rfl rfl rfl | split | dsimp only | decide

theorem State.untrackFrame_reported (h : s0.Reported s) {f : QFrame} : s0.Reported (State.untrackFrame s f) := by
  unfold State.untrackFrame
  try dsimp only
  repeat' first | with_reducible assumption | with_reducible apply State.untrack_reported | with_reducible apply reported_ite | fail_if_no_progress with_reducible refine reported_mk ?_ rfl rfl rfl rfl rfl rfl rfl rfl rfl rfl rfl rfl rfl rfl rfl rfl rfl rfl rfl rfl | split | dsimp only | decide

theorem State.pick_reported (h : s0.Reported s) {p : Nat} : s0.Reported (State.pick s p) := by
  unfold State.pick
  try dsimp only
  repeat' first | with_reducible assumption | with_reducible apply State.settle_reported | with_reducible apply State.countHeld_reported | with_reducible apply State.setPort_reported | with_reducible apply State.markStarted_reported | with_reducible apply State.untrackFrame_reported | with_reducible apply reported_ite | fail_if_no_progress with_reducible refine reported_mk ?_ rfl rfl rfl rfl rfl rfl rfl rfl rfl rfl rfl rfl rfl rfl rfl rfl rfl rfl rfl rfl | split | dsimp only | decide

theorem State.send_reported (h : s0.Reported s) {p cls flow len : Nat} {result : Option (Nat × ResKey)} {body : FrameBody} : s0.Reported (State.send s p cls flow len result body) := by
  unfold State.send
  try dsimp only
  repeat' first | with_reducible assumption | with_reducible apply State.enqueue_reported | with_reducible apply State.pick_reported | with_reducible apply reported_ite | split | dsimp only | decide

theorem State.sendSeg_reported (h : s0.Reported s) {d : Dest} {kind type status reason reqId : Nat} {response : Bool} {result : Option (Nat × ResKey)} {count len : Nat} {seg : Nat × List Byte} : s0.Reported (State.sendSeg s d kind type status reason reqId response result count len seg) := by
  unfold State.sendSeg
  try dsimp only
  repeat' first | with_reducible assumption | with_reducible apply State.send_reported | with_reducible apply reported_ite | fail_if_no_progress with_reducible refine reported_mk ?_ rfl rfl rfl rfl rfl rfl rfl rfl rfl rfl rfl rfl rfl rfl rfl rfl rfl rfl rfl rfl | split | dsimp only | decide

theorem State.sendMsg_reported (h : s0.Reported s) {d : Dest} {kind type status reason reqId : Nat} {response : Bool} {result : Option (Nat × ResKey)} {body : List Byte} : s0.Reported (State.sendMsg s d kind type status reason reqId response result body) := by
  unfold State.sendMsg
  try dsimp only
  repeat' first | with_reducible assumption | intro _ | with_reducible apply State.sendSeg_reported | with_reducible apply reported_ite | with_reducible apply reported_foldl | fail_if_no_progress with_reducible refine reported_mk ?_ rfl rfl rfl rfl rfl rfl rfl rfl rfl rfl rfl rfl rfl rfl rfl rfl rfl rfl rfl rfl | split | dsimp only | decide

theorem State.setRing_reported (h : s0.Reported s) {die : Nat} {l : List EvtRec} : s0.Reported (State.setRing s die l) := by
  unfold State.setRing
  try dsimp only
  repeat' first | with_reducible assumption | with_reducible apply reported_ite | fail_if_no_progress with_reducible refine reported_mk ?_ rfl rfl rfl rfl rfl rfl rfl rfl rfl rfl rfl rfl rfl rfl rfl rfl rfl rfl rfl rfl | split | dsimp only | decide

theorem State.setAlerts_reported (h : s0.Reported s) {die : Nat} {l : List Nat} : s0.Reported (State.setAlerts s die l) := by
  unfold State.setAlerts
  try dsimp only
  repeat' first | with_reducible assumption | with_reducible apply reported_ite | fail_if_no_progress with_reducible refine reported_mk ?_ rfl rfl rfl rfl rfl rfl rfl rfl rfl rfl rfl rfl rfl rfl rfl rfl rfl rfl rfl rfl | split | dsimp only | decide

theorem State.eventFrame_reported (h : s0.Reported s) {sub : Sub} {r : EvtRec} : s0.Reported (State.eventFrame s sub r) := by
  unfold State.eventFrame
  try dsimp only
  repeat' first | with_reducible assumption | with_reducible apply State.sendMsg_reported | with_reducible apply reported_ite | fail_if_no_progress with_reducible refine reported_mk ?_ rfl rfl rfl rfl rfl rfl rfl rfl rfl rfl rfl rfl rfl rfl rfl rfl rfl rfl rfl rfl | split | dsimp only | decide

theorem State.ibi_reported (h : s0.Reported s) {byte : Nat} : s0.Reported (State.ibi s byte) := by
  unfold State.ibi
  try dsimp only
  repeat' first | with_reducible assumption | with_reducible apply reported_ite | fail_if_no_progress with_reducible refine reported_mk ?_ rfl rfl rfl rfl rfl rfl rfl rfl rfl rfl rfl rfl rfl rfl rfl rfl rfl rfl rfl rfl | split | dsimp only | decide

theorem State.logEvent_reported (h : s0.Reported s) {die : Nat} {r : EvtRec} : s0.Reported (State.logEvent s die r) := by
  unfold State.logEvent
  try dsimp only
  repeat' first | with_reducible assumption | with_reducible apply State.setRing_reported | with_reducible apply State.setFld_reported | with_reducible apply State.setAlerts_reported | with_reducible apply State.ibi_reported | with_reducible apply reported_ite | split | dsimp only | decide

theorem State.raise_reported (h : s0.Reported s) {die sub : Nat} {a : EvtArgs} : s0.Reported (State.raise s die sub a) := by
  unfold State.raise
  try dsimp only
  repeat' first | with_reducible assumption | intro _ | with_reducible apply State.eventFrame_reported | with_reducible apply State.logEvent_reported | with_reducible apply reported_ite | with_reducible apply reported_foldl | split | dsimp only | decide

theorem State.setOnce_reported (h : s0.Reported s) {o : Once} : s0.Reported (State.setOnce s o) := by
  unfold State.setOnce
  try dsimp only
  repeat' first | with_reducible assumption | intro _ | with_reducible apply reported_ite | fail_if_no_progress with_reducible refine reported_mk ?_ rfl rfl rfl rfl rfl rfl rfl rfl rfl rfl rfl rfl rfl rfl rfl rfl rfl rfl rfl rfl | split | dsimp only | decide

theorem State.raiseOnce_reported (h : s0.Reported s) {die sub item : Nat} {a : EvtArgs} : s0.Reported (State.raiseOnce s die sub item a) := by
  unfold State.raiseOnce
  try dsimp only
  repeat' first | with_reducible assumption | with_reducible apply State.setOnce_reported | with_reducible apply State.raise_reported | with_reducible apply reported_ite | fail_if_no_progress with_reducible refine reported_mk ?_ rfl rfl rfl rfl rfl rfl rfl rfl rfl rfl rfl rfl rfl rfl rfl rfl rfl rfl rfl rfl | split | dsimp only | decide

theorem State.closeRec_reported (h : s0.Reported s) : s0.Reported (State.closeRec s) := by
  unfold State.closeRec
  try dsimp only
  repeat' first | with_reducible assumption | with_reducible apply State.setFld_reported | with_reducible apply reported_ite | fail_if_no_progress with_reducible refine reported_mk ?_ rfl rfl rfl rfl rfl rfl rfl rfl rfl rfl rfl rfl rfl rfl rfl rfl rfl rfl rfl rfl | split | dsimp only | decide

theorem State.addRec_reported (h : s0.Reported s) {status port ctx ep len : Nat} {body : RecBody} : s0.Reported (State.addRec s status port ctx ep len body) := by
  unfold State.addRec
  try dsimp only
  repeat' first | with_reducible assumption | with_reducible apply State.setFld_reported | with_reducible apply State.raiseOnce_reported | with_reducible apply State.closeRec_reported | with_reducible apply State.raise_reported | with_reducible apply State.setReg_reported | with_reducible apply reported_ite | fail_if_no_progress with_reducible refine reported_mk ?_ rfl rfl rfl rfl rfl rfl rfl rfl rfl rfl rfl rfl rfl rfl rfl rfl rfl rfl rfl rfl | split | dsimp only | decide

theorem State.diverge_reported (h : s0.Reported s) {msg : Nat} : s0.Reported (State.diverge s msg) := by
  unfold State.diverge
  try dsimp only
  repeat' first | with_reducible assumption | with_reducible apply State.bump_reported | with_reducible apply State.setFld_reported | with_reducible apply State.raise_reported | with_reducible apply reported_ite | split | dsimp only | decide

theorem State.formed_reported (h : s0.Reported s) {msg port : Nat} {f : List Byte} : s0.Reported (State.formed s msg port f) := by
  unfold State.formed
  try dsimp only
  repeat' first | with_reducible assumption | with_reducible apply State.addRec_reported | with_reducible apply State.diverge_reported | with_reducible apply reported_ite | fail_if_no_progress with_reducible refine reported_mk ?_ rfl rfl rfl rfl rfl rfl rfl rfl rfl rfl rfl rfl rfl rfl rfl rfl rfl rfl rfl rfl | split | dsimp only | decide

theorem State.formResult_reported (h : s0.Reported s) {r : Result} : s0.Reported (State.formResult s r) := by
  unfold State.formResult
  try dsimp only
  repeat' first | with_reducible assumption | intro _ | with_reducible apply State.formed_reported | with_reducible apply reported_ite | fail_if_no_progress with_reducible refine reported_mk ?_ rfl rfl rfl rfl rfl rfl rfl rfl rfl rfl rfl rfl rfl rfl rfl rfl rfl rfl rfl rfl | fail_if_no_progress with_reducible refine reported_mk ?_ rfl rfl rfl rfl rfl rfl rfl rfl rfl rfl rfl rfl rfl rfl rfl rfl (still_map _ _ (fun r => by split <;> with_unfolding_all rfl)) rfl rfl rfl | split | dsimp only | decide

theorem State.formResults_reported (h : s0.Reported s) : s0.Reported (State.formResults s) := by
  unfold State.formResults
  try dsimp only
  repeat' first | with_reducible assumption | intro _ | with_reducible apply State.formResult_reported | with_reducible apply reported_ite | with_reducible apply reported_foldl | split | dsimp only | decide

theorem State.noteBad_reported (h : s0.Reported s) {e : Env} {type reason : Nat} : s0.Reported (State.noteBad s e type reason) := by
  unfold State.noteBad
  try dsimp only
  repeat' first | with_reducible assumption | with_reducible apply State.bump_reported | with_reducible apply State.setFld_reported | with_reducible apply State.raiseOnce_reported | with_reducible apply reported_ite | split | dsimp only | decide

theorem State.answer_reported (h : s0.Reported s) {e : Env} {type status reason : Nat} {body : List Byte} : s0.Reported (State.answer s e type status reason body) := by
  unfold State.answer
  try dsimp only
  repeat' first | with_reducible assumption | with_reducible apply State.noteBad_reported | with_reducible apply State.sendMsg_reported | with_reducible apply State.untrack_reported | with_reducible apply reported_ite | fail_if_no_progress with_reducible refine reported_mk ?_ rfl rfl rfl rfl rfl rfl rfl rfl rfl rfl rfl rfl rfl rfl rfl rfl rfl rfl rfl rfl | split | dsimp only | decide

theorem State.takeReady_reported (h : s0.Reported s) {e : Env} : s0.Reported (State.takeReady s e) := by
  unfold State.takeReady
  try dsimp only
  repeat' first | with_reducible assumption | intro _ | with_reducible apply reported_ite | fail_if_no_progress with_reducible refine reported_mk ?_ rfl rfl rfl rfl rfl rfl rfl rfl rfl rfl rfl rfl rfl rfl rfl rfl rfl rfl rfl rfl | split | dsimp only | decide

theorem State.track_reported (h : s0.Reported s) {e : Env} {type : Nat} {slot : Option Nat} : s0.Reported (State.track s e type slot) := by
  unfold State.track
  try dsimp only
  repeat' first | with_reducible assumption | with_reducible apply reported_ite | fail_if_no_progress with_reducible refine reported_mk ?_ rfl rfl rfl rfl rfl rfl rfl rfl rfl rfl rfl rfl rfl rfl rfl rfl rfl rfl rfl rfl | split | dsimp only | decide

theorem State.countOutcome_reported (h : s0.Reported s) {die status : Nat} : s0.Reported (State.countOutcome s die status) := by
  unfold State.countOutcome
  try dsimp only
  repeat' first | with_reducible assumption | with_reducible apply State.bump_reported | with_reducible apply reported_ite | split | dsimp only | decide

theorem State.dataCheck_reported (h : s0.Reported s) {die addr : Nat} : s0.Reported (State.dataCheck s die addr) := by
  unfold State.dataCheck
  try dsimp only
  repeat' first | with_reducible assumption | with_reducible apply State.raise_reported | with_reducible apply reported_ite | split | dsimp only | decide

theorem State.noteMismatch_reported (h : s0.Reported s) {e : Env} {ctx status : Nat} : s0.Reported (State.noteMismatch s e ctx status) := by
  unfold State.noteMismatch
  try dsimp only
  repeat' first | with_reducible assumption | with_reducible apply State.bump_reported | with_reducible apply reported_ite | split | dsimp only | decide

theorem State.sesEvent_reported (h : s0.Reported s) {slot sub : Nat} {alert : Bool} {a1 a2 a3 : Nat} : s0.Reported (State.sesEvent s slot sub alert a1 a2 a3) := by
  unfold State.sesEvent
  try dsimp only
  repeat' first | with_reducible assumption | with_reducible apply State.raise_reported | with_reducible apply reported_ite | split | dsimp only | decide

theorem State.ownerChange_reported (h : s0.Reported s) {slot : Nat} : s0.Reported (State.ownerChange s slot) := by
  unfold State.ownerChange
  try dsimp only
  repeat' first | with_reducible assumption | intro _ | with_reducible apply State.raise_reported | with_reducible apply State.eventFrame_reported | with_reducible apply reported_ite | split | dsimp only | decide

theorem State.sesDone_reported (h : s0.Reported s) {e : Env} {type slot : Nat} : s0.Reported (State.sesDone s e type slot) := by
  unfold State.sesDone
  try dsimp only
  repeat' first | with_reducible assumption | with_reducible apply State.answer_reported | with_reducible apply reported_ite | split | dsimp only | decide

theorem State.pickAll_reported (h : s0.Reported s) : s0.Reported (State.pickAll s) := by
  unfold State.pickAll
  try dsimp only
  repeat' first | with_reducible assumption | intro _ | with_reducible apply State.pick_reported | with_reducible apply reported_ite | with_reducible apply reported_foldl | split | dsimp only | decide

theorem State.noteWrite_reported (h : s0.Reported s) {rq : Requester} {die : Nat} {r : RegId} {v : Word} {p : Option PendingIdx} : s0.Reported (State.noteWrite s rq die r v p) := by
  unfold State.noteWrite
  try dsimp only
  repeat' first | with_reducible assumption | with_reducible apply State.addRec_reported | with_reducible apply reported_ite | fail_if_no_progress with_reducible refine reported_mk ?_ rfl rfl rfl rfl rfl rfl rfl rfl rfl rfl rfl rfl rfl rfl rfl rfl rfl rfl rfl rfl | split | dsimp only | decide

end Sys2Proof.Machine
end

