-- ==== Sys2Proof/Laws/Aside.lean ====
section
/-! SUPPORT. What the end of a message leaves alone: copies of checkpoint units, the record of the message, and reports. -/

namespace Sys2Proof.Machine

/-- The registers that the end of a message may change. -/
def asideRegs : List RegId := chatter ++ [Reg.CK_COUNTS, Reg.CK_CBW_USE]

/-- `b` differs from `a` by the end of a message only: the answer stands. -/
structure State.Aside (a b : State) : Prop where
  now : b.now = a.now
  pending : b.pending = a.pending
  free : b.free = a.free
  bcn : b.bcn = a.bcn
  ses : b.ses = a.ses
  kv : b.kv = a.kv
  grams : b.grams = a.grams
  tier : b.tier = a.tier
  start : b.start = a.start
  ident : b.ident = a.ident
  health : b.health = a.health
  answered : b.rp.answered = a.rp.answered
  flash : { b.flash with searches := [] } = { a.flash with searches := [] }
  ckpt : { b.ckpt with early := [] } = { a.ckpt with early := [] }
  lamp : { b.lamp with track := [] } = { a.lamp with track := [] }
  attn : { b.attn with results := [] } = { a.attn with results := [] }
  results : b.attn.results.map Result.still = a.attn.results.map Result.still
  power : b.pins.power = a.pins.power
  released : b.pins.released = a.pins.released
  tripped : b.pins.tripped = a.pins.tripped
  reg : ∀ die sel r, r ∉ asideRegs → b.reg die sel r = a.reg die sel r

variable {s0 s t : State}

theorem aside_refl (s : State) : s.Aside s :=
  ⟨rfl, rfl, rfl, rfl, rfl, rfl, rfl, rfl, rfl, rfl, rfl, rfl, rfl, rfl, rfl, rfl, rfl, rfl, rfl, rfl, fun _ _ _ _ => rfl⟩

theorem aside_trans (h : s0.Aside s) (h' : s.Aside t) : s0.Aside t :=
  ⟨h'.now.trans h.now, h'.pending.trans h.pending, h'.free.trans h.free, h'.bcn.trans h.bcn, h'.ses.trans h.ses, h'.kv.trans h.kv, h'.grams.trans h.grams, h'.tier.trans h.tier, h'.start.trans h.start, h'.ident.trans h.ident, h'.health.trans h.health, h'.answered.trans h.answered, h'.flash.trans h.flash, h'.ckpt.trans h.ckpt, h'.lamp.trans h.lamp, h'.attn.trans h.attn, h'.results.trans h.results, h'.power.trans h.power, h'.released.trans h.released, h'.tripped.trans h.tripped, fun d i r hr => (h'.reg d i r hr).trans (h.reg d i r hr)⟩

/-- A field of a register outside `asideRegs` keeps its value. -/
theorem State.Aside.fld (h : s0.Aside s) (die sel : Nat) {f : Field} (hf : f.reg ∉ asideRegs) :
    s.fld die sel f = s0.fld die sel f := by
  unfold State.fld
  rw [h.reg die sel f.reg hf]

/-- A change of events, queued frames, tracker, deliveries, recording or in-band interrupts. -/
theorem aside_mk (h : s0.Aside s) {now : Nat} {pending : List Instr} {free : Nat} {regs : List (RegKey × Word)} {bcn : Beacon}
    {ev : Events} {ses : Sessions} {kv : Kv} {attn : Attn} {grams : List ((Nat × Nat) × Gram)} {net : Net} {lamp : Lamp}
    {tier : Tier} {start : Start} {flash : Flash} {ident : Ident} {ckpt : Ckpt} {health : Health} {rp : Replay} {pins : Pins}
    (e1 : pending = s.pending) (e2 : now = s.now) (e3 : free = s.free) (e4 : regs = s.regs) (e5 : bcn = s.bcn) (e6 : ses = s.ses)
    (e7 : kv = s.kv) (e8 : grams = s.grams) (e9 : tier = s.tier) (e10 : start = s.start) (e12 : ident = s.ident)
    (e14 : health = s.health) (e20 : rp.answered = s.rp.answered)
    (e11 : { flash with searches := [] } = { s.flash with searches := [] }) (e13 : { ckpt with early := [] } = { s.ckpt with early := [] })
    (e15 : { lamp with track := [] } = { s.lamp with track := [] }) (e16 : { attn with results := [] } = { s.attn with results := [] })
    (e21 : attn.results.map Result.still = s.attn.results.map Result.still)
    (e17 : pins.power = s.pins.power) (e18 : pins.released = s.pins.released) (e19 : pins.tripped = s.pins.tripped) :
    s0.Aside ⟨now, pending, free, regs, bcn, ev, ses, kv, attn, grams, net, lamp, tier, start, flash, ident, ckpt, health, rp,
      pins⟩ :=
  aside_trans h ⟨e2, e1, e3, e5, e6, e7, e8, e9, e10, e12, e14, e20, e11, e13, e15, e16, e21, e17, e18, e19,
    fun d i r _ => by unfold State.reg; rw [e4]⟩

theorem State.setReg_aside (h : s0.Aside s) {die sel : Nat} {r : RegId} {w : Word} (hr : r ∈ asideRegs) :
    s0.Aside (s.setReg die sel r w) :=
  aside_trans h ⟨rfl, rfl, rfl, rfl, rfl, rfl, rfl, rfl, rfl, rfl, rfl, rfl, rfl, rfl, rfl, rfl, rfl, rfl, rfl, rfl, fun d i x hx => by
    unfold State.reg State.setReg
    refine regGet_regSet_ne (fun e => hx ?_) _ _
    cases r
    cases x
    cases e
    exact hr⟩

theorem State.setFld_aside (h : s0.Aside s) {die sel : Nat} {f : Field} {v : Nat} (hf : f.reg ∈ asideRegs) :
    s0.Aside (s.setFld die sel f v) := State.setReg_aside h hf
theorem State.bumpBy_aside (h : s0.Aside s) {die sel : Nat} {f : Field} {n : Nat} (hf : f.reg ∈ asideRegs) :
    s0.Aside (s.bumpBy die sel f n) := State.setReg_aside h hf
theorem State.bump_aside (h : s0.Aside s) {die sel : Nat} {f : Field} (hf : f.reg ∈ asideRegs) :
    s0.Aside (s.bump die sel f) := State.setReg_aside h hf

theorem aside_ite {c : Prop} [Decidable c] (h : s0.Aside s) (h' : s0.Aside t) : s0.Aside (if c then s else t) := by
  split
  · exact h
  · exact h'

theorem aside_foldl {α : Type} {f : State → α → State} (hf : ∀ s x, s0.Aside s → s0.Aside (f s x)) (l : List α)
    (h : s0.Aside s) : s0.Aside (l.foldl f s) := by
  induction l generalizing s with
  | nil => exact h
  | cons x l ih => exact ih (hf s x h)

end Sys2Proof.Machine
end

