-- ==== Sys2Proof/Laws/Asides.lean ====
section
/-! SUPPORT. The functions that end a message: each leaves alone what `State.Aside` says. -/

namespace Sys2Proof.Machine

set_option linter.unusedTactic false
set_option linter.unreachableTactic false

variable {s0 s : State}

theorem State.setPort_aside (h : s0.Aside s) {p : Nat} {v : Port} : s0.Aside (State.setPort s p v) := by
  unfold State.setPort
  try dsimp only
  repeat' first | with_reducible assumption | with_reducible rfl | decide | with_reducible apply aside_ite | fail_if_no_progress with_reducible refine aside_mk ?_ rfl rfl rfl rfl rfl rfl rfl rfl rfl rfl rfl rfl rfl rfl rfl rfl rfl rfl rfl rfl rfl | split | dsimp only | decide

theorem State.settle_aside (h : s0.Aside s) {p : Nat} : s0.Aside (State.settle s p) := by
  unfold State.settle
  try dsimp only
  repeat' first | with_reducible assumption | with_reducible rfl | decide | intro _ | with_reducible apply State.setPort_aside | with_reducible apply aside_ite | with_reducible apply aside_foldl | fail_if_no_progress with_reducible refine aside_mk ?_ rfl rfl rfl rfl rfl rfl rfl rfl rfl rfl rfl rfl rfl rfl rfl rfl rfl rfl rfl rfl rfl | split | dsimp only | decide

theorem State.enqueue_aside (h : s0.Aside s) {p cls flow len : Nat} {result : Option (Nat × ResKey)} {body : FrameBody} : s0.Aside (State.enqueue s p cls flow len result body) := by
  unfold State.enqueue
  try dsimp only
  repeat' first | with_reducible assumption | with_reducible rfl | decide | with_reducible apply State.settle_aside | with_reducible apply State.setPort_aside | with_reducible apply aside_ite | fail_if_no_progress with_reducible refine aside_mk ?_ rfl rfl rfl rfl rfl rfl rfl rfl rfl rfl rfl rfl rfl rfl rfl rfl rfl rfl rfl rfl rfl | split | dsimp only | decide

theorem State.countHeld_aside (h : s0.Aside s) {p : Nat} : s0.Aside (State.countHeld s p) := by
  unfold State.countHeld
  try dsimp only
  repeat' first | with_reducible assumption | with_reducible rfl | decide | intro _ | with_reducible apply State.setPort_aside | with_reducible apply State.bump_aside | with_reducible apply aside_ite | with_reducible apply aside_foldl | fail_if_no_progress with_reducible refine aside_mk ?_ rfl rfl rfl rfl rfl rfl rfl rfl rfl rfl rfl rfl rfl rfl rfl rfl rfl rfl rfl rfl rfl | split | dsimp only | decide

theorem State.noteReturn_aside (h : s0.Aside s) {r : Result} : s0.Aside (State.noteReturn s r) := by
  unfold State.noteReturn
  try dsimp only
  repeat' first | with_reducible assumption | with_reducible rfl | decide | intro _ | with_reducible apply State.bump_aside | with_reducible apply aside_ite | fail_if_no_progress with_reducible refine aside_mk ?_ rfl rfl rfl rfl rfl rfl rfl rfl rfl rfl rfl rfl rfl rfl rfl rfl rfl rfl rfl rfl rfl | fail_if_no_progress with_reducible refine aside_mk ?_ rfl rfl rfl rfl rfl rfl rfl rfl rfl rfl rfl rfl rfl rfl rfl rfl rfl (still_map _ _ (fun r => by split <;> with_unfolding_all rfl)) rfl rfl rfl | split | dsimp only | decide

theorem State.markStarted_aside (h : s0.Aside s) {p : Nat} {f : QFrame} : s0.Aside (State.markStarted s p f) := by
  unfold State.markStarted
  try dsimp only
  repeat' first | with_reducible assumption | with_reducible rfl | decide | intro _ | with_reducible apply State.noteReturn_aside | with_reducible apply State.setPort_aside | with_reducible apply aside_ite | fail_if_no_progress with_reducible refine aside_mk ?_ rfl rfl rfl rfl rfl rfl rfl rfl rfl rfl rfl rfl rfl rfl rfl rfl rfl rfl rfl rfl rfl | fail_if_no_progress with_reducible refine aside_mk ?_ rfl rfl rfl rfl rfl rfl rfl rfl rfl rfl rfl rfl rfl rfl rfl rfl rfl (still_map _ _ (fun r => by split <;> with_unfolding_all rfl)) rfl rfl rfl | split | dsimp only | decide

theorem State.untrack_aside (h : s0.Aside s) {k : KeyRef} {reqId : Nat} : s0.Aside (State.untrack s k reqId) := by
  unfold State.untrack
  try dsimp only
  repeat' first | with_reducible assumption | with_reducible rfl | decide | intro _ | with_reducible apply aside_ite | fail_if_no_progress with_reducible refine aside_mk ?_ rfl rfl rfl rfl rfl rfl rfl rfl rfl rfl rfl rfl rfl rfl rfl rfl rfl rfl rfl rfl rfl | split | dsimp only | decide

theorem State.untrackFrame_aside (h : s0.Aside s) {f : QFrame} : s0.Aside (State.untrackFrame s f) := by
  unfold State.untrackFrame
  try dsimp only
  repeat' first | with_reducible assumption | with_reducible rfl | decide | with_reducible apply State.untrack_aside | with_reducible apply aside_ite | fail_if_no_progress with_reducible refine aside_mk ?_ rfl rfl rfl rfl rfl rfl rfl rfl rfl rfl rfl rfl rfl rfl rfl rfl rfl rfl rfl rfl rfl | split | dsimp only | decide

theorem State.pick_aside (h : s0.Aside s) {p : Nat} : s0.Aside (State.pick s p) := by
  unfold State.pick
  try dsimp only
  repeat' first | with_reducible assumption | with_reducible rfl | decide | with_reducible apply State.settle_aside | with_reducible apply State.countHeld_aside | with_reducible apply State.setPort_aside | with_reducible apply State.markStarted_aside | with_reducible apply State.untrackFrame_aside | with_reducible apply aside_ite | fail_if_no_progress with_reducible refine aside_mk ?_ rfl rfl rfl rfl rfl rfl rfl rfl rfl rfl rfl rfl rfl rfl rfl rfl rfl rfl rfl rfl rfl | split | dsimp only | decide

theorem State.send_aside (h : s0.Aside s) {p cls flow len : Nat} {result : Option (Nat × ResKey)} {body : FrameBody} : s0.Aside (State.send s p cls flow len result body) := by
  unfold State.send
  try dsimp only
  repeat' first | with_reducible assumption | with_reducible rfl | decide | with_reducible apply State.enqueue_aside | with_reducible apply State.pick_aside | with_reducible apply aside_ite | split | dsimp only | decide

theorem State.sendSeg_aside (h : s0.Aside s) {d : Dest} {kind type status reason reqId : Nat} {response : Bool} {result : Option (Nat × ResKey)} {count len : Nat} {seg : Nat × List Byte} : s0.Aside (State.sendSeg s d kind type status reason reqId response result count len seg) := by
  unfold State.sendSeg
  try dsimp only
  repeat' first | with_reducible assumption | with_reducible rfl | decide | with_reducible apply State.send_aside | with_reducible apply aside_ite | fail_if_no_progress with_reducible refine aside_mk ?_ rfl rfl rfl rfl rfl rfl rfl rfl rfl rfl rfl rfl rfl rfl rfl rfl rfl rfl rfl rfl rfl | split | dsimp only | decide

theorem State.sendMsg_aside (h : s0.Aside s) {d : Dest} {kind type status reason reqId : Nat} {response : Bool} {result : Option (Nat × ResKey)} {body : List Byte} : s0.Aside (State.sendMsg s d kind type status reason reqId response result body) := by
  unfold State.sendMsg
  try dsimp only
  repeat' first | with_reducible assumption | with_reducible rfl | decide | intro _ | with_reducible apply State.sendSeg_aside | with_reducible apply aside_ite | with_reducible apply aside_foldl | fail_if_no_progress with_reducible refine aside_mk ?_ rfl rfl rfl rfl rfl rfl rfl rfl rfl rfl rfl rfl rfl rfl rfl rfl rfl rfl rfl rfl rfl | split | dsimp only | decide

theorem State.setRing_aside (h : s0.Aside s) {die : Nat} {l : List EvtRec} : s0.Aside (State.setRing s die l) := by
  unfold State.setRing
  try dsimp only
  repeat' first | with_reducible assumption | with_reducible rfl | decide | with_reducible apply aside_ite | fail_if_no_progress with_reducible refine aside_mk ?_ rfl rfl rfl rfl rfl rfl rfl rfl rfl rfl rfl rfl rfl rfl rfl rfl rfl rfl rfl rfl rfl | split | dsimp only | decide

theorem State.setAlerts_aside (h : s0.Aside s) {die : Nat} {l : List Nat} : s0.Aside (State.setAlerts s die l) := by
  unfold State.setAlerts
  try dsimp only
  repeat' first | with_reducible assumption | with_reducible rfl | decide | with_reducible apply aside_ite | fail_if_no_progress with_reducible refine aside_mk ?_ rfl rfl rfl rfl rfl rfl rfl rfl rfl rfl rfl rfl rfl rfl rfl rfl rfl rfl rfl rfl rfl | split | dsimp only | decide

theorem State.eventFrame_aside (h : s0.Aside s) {sub : Sub} {r : EvtRec} : s0.Aside (State.eventFrame s sub r) := by
  unfold State.eventFrame
  try dsimp only
  repeat' first | with_reducible assumption | with_reducible rfl | decide | with_reducible apply State.sendMsg_aside | with_reducible apply aside_ite | fail_if_no_progress with_reducible refine aside_mk ?_ rfl rfl rfl rfl rfl rfl rfl rfl rfl rfl rfl rfl rfl rfl rfl rfl rfl rfl rfl rfl rfl | split | dsimp only | decide

theorem State.ibi_aside (h : s0.Aside s) {byte : Nat} : s0.Aside (State.ibi s byte) := by
  unfold State.ibi
  try dsimp only
  repeat' first | with_reducible assumption | with_reducible rfl | decide | with_reducible apply aside_ite | fail_if_no_progress with_reducible refine aside_mk ?_ rfl rfl rfl rfl rfl rfl rfl rfl rfl rfl rfl rfl rfl rfl rfl rfl rfl rfl rfl rfl rfl | split | dsimp only | decide

theorem State.logEvent_aside (h : s0.Aside s) {die : Nat} {r : EvtRec} : s0.Aside (State.logEvent s die r) := by
  unfold State.logEvent
  try dsimp only
  repeat' first | with_reducible assumption | with_reducible rfl | decide | with_reducible apply State.setRing_aside | with_reducible apply State.setFld_aside | with_reducible apply State.setAlerts_aside | with_reducible apply State.ibi_aside | with_reducible apply aside_ite | split | dsimp only | decide

theorem State.raise_aside (h : s0.Aside s) {die sub : Nat} {a : EvtArgs} : s0.Aside (State.raise s die sub a) := by
  unfold State.raise
  try dsimp only
  repeat' first | with_reducible assumption | with_reducible rfl | decide | intro _ | with_reducible apply State.eventFrame_aside | with_reducible apply State.logEvent_aside | with_reducible apply aside_ite | with_reducible apply aside_foldl | split | dsimp only | decide

theorem State.setOnce_aside (h : s0.Aside s) {o : Once} : s0.Aside (State.setOnce s o) := by
  unfold State.setOnce
  try dsimp only
  repeat' first | with_reducible assumption | with_reducible rfl | decide | intro _ | with_reducible apply aside_ite | fail_if_no_progress with_reducible refine aside_mk ?_ rfl rfl rfl rfl rfl rfl rfl rfl rfl rfl rfl rfl rfl rfl rfl rfl rfl rfl rfl rfl rfl | split | dsimp only | decide

theorem State.raiseOnce_aside (h : s0.Aside s) {die sub item : Nat} {a : EvtArgs} : s0.Aside (State.raiseOnce s die sub item a) := by
  unfold State.raiseOnce
  try dsimp only
  repeat' first | with_reducible assumption | with_reducible rfl | decide | with_reducible apply State.setOnce_aside | with_reducible apply State.raise_aside | with_reducible apply aside_ite | fail_if_no_progress with_reducible refine aside_mk ?_ rfl rfl rfl rfl rfl rfl rfl rfl rfl rfl rfl rfl rfl rfl rfl rfl rfl rfl rfl rfl rfl | split | dsimp only | decide

theorem State.closeRec_aside (h : s0.Aside s) : s0.Aside (State.closeRec s) := by
  unfold State.closeRec
  try dsimp only
  repeat' first | with_reducible assumption | with_reducible rfl | decide | with_reducible apply State.setFld_aside | with_reducible apply aside_ite | fail_if_no_progress with_reducible refine aside_mk ?_ rfl rfl rfl rfl rfl rfl rfl rfl rfl rfl rfl rfl rfl rfl rfl rfl rfl rfl rfl rfl rfl | split | dsimp only | decide

theorem State.addRec_aside (h : s0.Aside s) {status port ctx ep len : Nat} {body : RecBody} : s0.Aside (State.addRec s status port ctx ep len body) := by
  unfold State.addRec
  try dsimp only
  repeat' first | with_reducible assumption | with_reducible rfl | decide | with_reducible apply State.setFld_aside | with_reducible apply State.raiseOnce_aside | with_reducible apply State.closeRec_aside | with_reducible apply State.raise_aside | with_reducible apply State.setReg_aside | with_reducible apply aside_ite | fail_if_no_progress with_reducible refine aside_mk ?_ rfl rfl rfl rfl rfl rfl rfl rfl rfl rfl rfl rfl rfl rfl rfl rfl rfl rfl rfl rfl rfl | split | dsimp only | decide

theorem State.diverge_aside (h : s0.Aside s) {msg : Nat} : s0.Aside (State.diverge s msg) := by
  unfold State.diverge
  try dsimp only
  repeat' first | with_reducible assumption | with_reducible rfl | decide | with_reducible apply State.bump_aside | with_reducible apply State.setFld_aside | with_reducible apply State.raise_aside | with_reducible apply aside_ite | split | dsimp only | decide

theorem State.formed_aside (h : s0.Aside s) {msg port : Nat} {f : List Byte} : s0.Aside (State.formed s msg port f) := by
  unfold State.formed
  try dsimp only
  repeat' first | with_reducible assumption | with_reducible rfl | decide | with_reducible apply State.addRec_aside | with_reducible apply State.diverge_aside | with_reducible apply aside_ite | fail_if_no_progress with_reducible refine aside_mk ?_ rfl rfl rfl rfl rfl rfl rfl rfl rfl rfl rfl rfl rfl rfl rfl rfl rfl rfl rfl rfl rfl | split | dsimp only | decide

theorem State.formResult_aside (h : s0.Aside s) {r : Result} : s0.Aside (State.formResult s r) := by
  unfold State.formResult
  try dsimp only
  repeat' first | with_reducible assumption | with_reducible rfl | decide | intro _ | with_reducible apply State.formed_aside | with_reducible apply aside_ite | fail_if_no_progress with_reducible refine aside_mk ?_ rfl rfl rfl rfl rfl rfl rfl rfl rfl rfl rfl rfl rfl rfl rfl rfl rfl rfl rfl rfl rfl | fail_if_no_progress with_reducible refine aside_mk ?_ rfl rfl rfl rfl rfl rfl rfl rfl rfl rfl rfl rfl rfl rfl rfl rfl rfl (still_map _ _ (fun r => by split <;> with_unfolding_all rfl)) rfl rfl rfl | split | dsimp only | decide

theorem State.formResults_aside (h : s0.Aside s) : s0.Aside (State.formResults s) := by
  unfold State.formResults
  try dsimp only
  repeat' first | with_reducible assumption | with_reducible rfl | decide | intro _ | with_reducible apply State.formResult_aside | with_reducible apply aside_ite | with_reducible apply aside_foldl | split | dsimp only | decide

theorem State.cbwWrite_aside (h : s0.Aside s) {die granule : Nat} : s0.Aside (State.cbwWrite s die granule) := by
  unfold State.cbwWrite
  try dsimp only
  repeat' first | with_reducible assumption | with_reducible rfl | decide | intro _ | with_reducible apply State.bump_aside | with_reducible apply State.setFld_aside | with_reducible apply aside_ite | fail_if_no_progress with_reducible refine aside_mk ?_ rfl rfl rfl rfl rfl rfl rfl rfl rfl rfl rfl rfl rfl rfl rfl rfl rfl rfl rfl rfl rfl | split | dsimp only | decide

theorem State.cbwSlot_aside (h : s0.Aside s) {before : State} {slot : Nat} : s0.Aside (State.cbwSlot before s slot) := by
  unfold State.cbwSlot
  dsimp only
  repeat' first | assumption | with_reducible apply State.cbwWrite_aside | with_reducible apply aside_ite | split

theorem State.unnumber_aside (h : s0.Aside s) {n : Nat} : s0.Aside (State.unnumber s n) := by
  unfold State.unnumber
  try dsimp only
  repeat' first | with_reducible assumption | with_reducible rfl | decide | intro _ | with_reducible apply aside_ite | fail_if_no_progress with_reducible refine aside_mk ?_ rfl rfl rfl rfl rfl rfl rfl rfl rfl rfl rfl rfl rfl rfl rfl rfl rfl rfl rfl rfl rfl | fail_if_no_progress with_reducible refine aside_mk ?_ rfl rfl rfl rfl rfl rfl rfl rfl rfl rfl rfl rfl rfl rfl rfl rfl rfl (still_map _ _ (fun r => by split <;> with_unfolding_all rfl)) rfl rfl rfl | split | dsimp only | decide

theorem State.afterMessage_aside (h : s0.Aside s) {e : Env} {c : Instr} : s0.Aside (State.afterMessage s e c) := by
  unfold State.afterMessage
  try dsimp only
  repeat' first | with_reducible assumption | with_reducible rfl | decide | with_reducible apply State.addRec_aside | with_reducible apply State.unnumber_aside | with_reducible apply State.formed_aside | with_reducible apply aside_ite | fail_if_no_progress with_reducible refine aside_mk ?_ rfl rfl rfl rfl rfl rfl rfl rfl rfl rfl rfl rfl rfl rfl rfl rfl rfl rfl rfl rfl rfl | split | dsimp only | decide

end Sys2Proof.Machine
end

