-- ==== Sys2Proof/Laws/Fields.lean ====
section
/-! SUPPORT. Fields of register words: what a field reads after a write of it, of another field, or of another register. -/

namespace Sys2Proof.Machine

theorem bitMask_bit {hi lo : Nat} (h : hi < 64) (hl : lo ≤ hi) (i : Nat) :
    (bitMask hi lo).getLsbD i = (decide (lo ≤ i) && decide (i ≤ hi)) := by
  unfold bitMask
  rw [BitVec.getLsbD_shiftLeft, BitVec.getLsbD_ofNat, Nat.testBit_two_pow_sub_one]
  rw [Bool.eq_iff_iff]
  simp only [Bool.and_eq_true, Bool.not_eq_true', decide_eq_true_eq, decide_eq_false_iff_not]
  omega

/-- Each bit of a word with a field set. -/
theorem setBits_bit {hi lo : Nat} (h : hi < 64) (hl : lo ≤ hi) (w : Word) (v i : Nat) :
    (setBits w hi lo v).getLsbD i = if lo ≤ i ∧ i ≤ hi then v.testBit (i - lo) else w.getLsbD i := by
  unfold setBits
  rw [BitVec.getLsbD_or, BitVec.getLsbD_and, BitVec.getLsbD_and, BitVec.getLsbD_not, BitVec.getLsbD_shiftLeft,
    BitVec.getLsbD_ofNat, bitMask_bit h hl]
  by_cases h1 : lo ≤ i ∧ i ≤ hi
  · have h2 : i < 64 := by omega
    have h3 : i - lo < 64 := by omega
    simp [h1, h2, h3]
  · rw [if_neg h1]
    have h2 : (decide (lo ≤ i) && decide (i ≤ hi)) = false := by
      rw [Bool.and_eq_false_iff, decide_eq_false_iff_not, decide_eq_false_iff_not]
      omega
    rw [h2]
    by_cases h64 : i < 64
    · simp [h64]
    · simp [h64, BitVec.getLsbD_of_ge w i (Nat.le_of_not_lt h64)]

/-- A field reads as it was set, cut to its width. -/
theorem getBits_setBits {hi lo : Nat} (h : hi < 64) (hl : lo ≤ hi) (w : Word) (v : Nat) :
    getBits (setBits w hi lo v) hi lo = v % 2 ^ (hi - lo + 1) := by
  unfold getBits
  rw [← BitVec.toNat_ofNat]
  congr 1
  refine BitVec.eq_of_getLsbD_eq fun i hi' => ?_
  rw [BitVec.getLsbD_extractLsb', setBits_bit h hl, if_pos (by omega), BitVec.getLsbD_ofNat, Nat.add_sub_cancel_left]

/-- A field keeps its value when another field is set. -/
theorem getBits_setBits_ne {hi lo hi' lo' : Nat} (h : hi < 64) (hl : lo ≤ hi) (hl' : lo' ≤ hi') (d : hi' < lo ∨ hi < lo')
    (w : Word) (v : Nat) : getBits (setBits w hi lo v) hi' lo' = getBits w hi' lo' := by
  unfold getBits
  congr 1
  refine BitVec.eq_of_getLsbD_eq fun i hi2 => ?_
  rw [BitVec.getLsbD_extractLsb', BitVec.getLsbD_extractLsb', setBits_bit h hl, if_neg (by omega)]

/-- A field of a register. -/
theorem fld_setFld_self (s : State) (die sel : Nat) (f : Field) (v : Nat) (h : f.hi < 64) (hl : f.lo ≤ f.hi) :
    (s.setFld die sel f v).fld die sel f = v % 2 ^ (f.hi - f.lo + 1) := by
  unfold State.fld State.setFld State.reg State.setReg
  rw [regGet_regSet_self]
  exact getBits_setBits h hl _ _

/-- Another register, or another item, keeps its word. -/
theorem reg_setReg_ne (s : State) {die sel die' sel' : Nat} {r r' : RegId} (w : Word)
    (h : die' ≠ die ∨ sel' ≠ sel ∨ r' ≠ r) : (s.setReg die sel r w).reg die' sel' r' = s.reg die' sel' r' := by
  unfold State.reg State.setReg
  refine regGet_regSet_ne (fun e => ?_) _ _
  cases r
  cases r'
  cases e
  simp at h

@[simp] theorem reg_setReg_self (s : State) (die sel : Nat) (r : RegId) (w : Word) : (s.setReg die sel r w).reg die sel r = w := by
  unfold State.reg State.setReg
  rw [regGet_regSet_self]

/-- A field of another register keeps its value. -/
theorem fld_setReg_ne (s : State) {die sel die' sel' : Nat} {r : RegId} {f : Field} (w : Word)
    (h : die' ≠ die ∨ sel' ≠ sel ∨ f.reg ≠ r) : (s.setReg die sel r w).fld die' sel' f = s.fld die' sel' f := by
  unfold State.fld
  rw [reg_setReg_ne s w h]

/-- A field of another register keeps its value. -/
theorem fld_setFld_ne (s : State) {die sel die' sel' : Nat} {f g : Field} (v : Nat)
    (h : die' ≠ die ∨ sel' ≠ sel ∨ g.reg ≠ f.reg) : (s.setFld die sel f v).fld die' sel' g = s.fld die' sel' g :=
  fld_setReg_ne s _ h

/-- Another field keeps its value. -/
theorem fld_setFld_other (s : State) {die sel : Nat} {f g : Field} (v : Nat) (h : f.hi < 64) (hl : f.lo ≤ f.hi)
    (hg : g.lo ≤ g.hi) (d : g.hi < f.lo ∨ f.hi < g.lo) (die' sel' : Nat) : (s.setFld die sel f v).fld die' sel' g = s.fld die' sel' g := by
  by_cases e : die' = die ∧ sel' = sel ∧ g.reg = f.reg
  · obtain ⟨rfl, rfl, e⟩ := e
    unfold State.fld State.setFld
    rw [e, reg_setReg_self]
    exact getBits_setBits_ne h hl hg d _ _
  · exact fld_setFld_ne s v (by tauto)

/-! ### What a write stores (R7) -/

/-- The step of `RegRow.stored` at one field. -/
def storeField (r : RegId) (locked : Bool) (v w : Word) (f : FieldRow) : Word :=
  match f.acc with
  | .rw => if badValue r f.hi (getBits v f.hi f.lo) then w else (w &&& ~~~f.mask) ||| (v &&& f.mask)
  | .rwl => if locked || badValue r f.hi (getBits v f.hi f.lo) then w else (w &&& ~~~f.mask) ||| (v &&& f.mask)
  | .w1c => w &&& ~~~(v &&& f.mask)
  | .ro | .wo | .rc => w

theorem storeField_out {r : RegId} {lk : Bool} {v w : Word} {f : FieldRow} (h : f.hi < 64) (hl : f.lo ≤ f.hi) {i : Nat}
    (hi : ¬(f.lo ≤ i ∧ i ≤ f.hi)) : (storeField r lk v w f).getLsbD i = w.getLsbD i := by
  have hm : f.mask.getLsbD i = false := by
    unfold FieldRow.mask
    rw [bitMask_bit h hl, Bool.and_eq_false_iff, decide_eq_false_iff_not, decide_eq_false_iff_not]
    omega
  unfold storeField
  by_cases h64 : i < 64
  · have hm' : f.mask[i] = false := by
      rw [← BitVec.getLsbD_eq_getElem]
      exact hm
    split <;> (try split) <;> simp [hm', h64]
  · have hw : ∀ x : Word, x.getLsbD i = false := fun x => BitVec.getLsbD_of_ge x i (Nat.le_of_not_lt h64)
    rw [hw, hw]

theorem storeField_in {r : RegId} {lk : Bool} {v w : Word} {f : FieldRow} (h : f.hi < 64) (hl : f.lo ≤ f.hi) (ha : f.acc = .rw)
    (hb : badValue r f.hi (getBits v f.hi f.lo) = false) {i : Nat} (hi : f.lo ≤ i ∧ i ≤ f.hi) :
    (storeField r lk v w f).getLsbD i = v.getLsbD i := by
  have hm : f.mask.getLsbD i = true := by
    unfold FieldRow.mask
    rw [bitMask_bit h hl, decide_eq_true hi.1, decide_eq_true hi.2]
    rfl
  have h64 : i < 64 := by omega
  have hm' : f.mask[i] = true := by
    rw [← BitVec.getLsbD_eq_getElem]
    exact hm
  unfold storeField
  rw [ha]
  dsimp only
  rw [hb, if_neg Bool.false_ne_true]
  simp [hm', h64]

/-- The fields of a row stand apart. -/
def RegRow.tidy (r : RegRow) : Bool :=
  r.fields.all (fun f => decide (f.hi < 64) && decide (f.lo ≤ f.hi))
    && decide (r.fields.Pairwise (fun f g => f.hi < g.lo ∨ g.hi < f.lo))

theorem stored_eq (r : RegRow) (lk : Bool) (old v : Word) : r.stored lk old v = r.fields.foldl (storeField r.id lk v) old := rfl

theorem storeFields_out {r : RegId} {lk : Bool} {v : Word} {i : Nat} (l : List FieldRow) (w : Word)
    (hl : ∀ f ∈ l, f.hi < 64 ∧ f.lo ≤ f.hi) (hi : ∀ f ∈ l, ¬(f.lo ≤ i ∧ i ≤ f.hi)) :
    (l.foldl (storeField r lk v) w).getLsbD i = w.getLsbD i := by
  induction l generalizing w with
  | nil => rfl
  | cons f l ih =>
    refine (ih _ (fun g hg => hl g (.tail _ hg)) (fun g hg => hi g (.tail _ hg))).trans ?_
    exact storeField_out (hl f (.head _)).1 (hl f (.head _)).2 (hi f (.head _))

theorem storeFields_in {r : RegId} {lk : Bool} {v : Word} {i : Nat} {f : FieldRow} (l : List FieldRow) (w : Word)
    (hl : ∀ f ∈ l, f.hi < 64 ∧ f.lo ≤ f.hi) (hp : l.Pairwise (fun f g => f.hi < g.lo ∨ g.hi < f.lo)) (hf : f ∈ l) (ha : f.acc = .rw)
    (hb : badValue r f.hi (getBits v f.hi f.lo) = false) (hi : f.lo ≤ i ∧ i ≤ f.hi) :
    (l.foldl (storeField r lk v) w).getLsbD i = v.getLsbD i := by
  induction l generalizing w with
  | nil => cases hf
  | cons g l ih =>
    rw [List.pairwise_cons] at hp
    rcases List.mem_cons.mp hf with rfl | hf
    · refine (storeFields_out l _ (fun x hx => hl x (.tail _ hx)) fun x hx => ?_).trans
        (storeField_in (hl f (.head _)).1 (hl f (.head _)).2 ha hb hi)
      have := hp.1 x hx
      omega
    · exact ih _ (fun x hx => hl x (.tail _ hx)) hp.2 hf

/-- A writable field of a row whose fields stand apart takes what is written, unless the value is a bad one. -/
theorem getBits_stored {r : RegRow} (ht : r.tidy = true) {f : FieldRow} (hf : f ∈ r.fields) (ha : f.acc = .rw) {v : Word}
    (hb : badValue r.id f.hi (getBits v f.hi f.lo) = false) (lk : Bool) (old : Word) :
    getBits (r.stored lk old v) f.hi f.lo = getBits v f.hi f.lo := by
  unfold RegRow.tidy at ht
  simp only [Bool.and_eq_true, List.all_eq_true, decide_eq_true_eq] at ht
  rw [stored_eq]
  unfold getBits
  congr 1
  refine BitVec.eq_of_getLsbD_eq fun i hi => ?_
  rw [BitVec.getLsbD_extractLsb', BitVec.getLsbD_extractLsb']
  have h1 := ht.1 f hf
  rw [storeFields_in r.fields old ht.1 ht.2 hf ha hb (by omega)]

/-- A field that no write reaches keeps its value. -/
theorem getBits_stored_kept {r : RegRow} (ht : r.tidy = true) (lk : Bool) (old v : Word) {hi lo : Nat} (hl : lo ≤ hi)
    (hd : ∀ f ∈ r.fields, f.hi < lo ∨ hi < f.lo ∨ f.acc = .ro ∨ f.acc = .wo ∨ f.acc = .rc) :
    getBits (r.stored lk old v) hi lo = getBits old hi lo := by
  unfold RegRow.tidy at ht
  simp only [Bool.and_eq_true, List.all_eq_true, decide_eq_true_eq] at ht
  rw [stored_eq]
  unfold getBits
  congr 1
  refine BitVec.eq_of_getLsbD_eq fun i hi' => ?_
  rw [BitVec.getLsbD_extractLsb', BitVec.getLsbD_extractLsb']
  have key : ∀ (l : List FieldRow) (w : Word), (∀ f ∈ l, f ∈ r.fields) →
      (l.foldl (storeField r.id lk v) w).getLsbD (lo + i) = w.getLsbD (lo + i) := by
    intro l
    induction l with
    | nil => intro w _; rfl
    | cons f l ih =>
      intro w hm
      refine (ih _ fun g hg => hm g (.tail _ hg)).trans ?_
      have h1 := ht.1 f (hm f (.head _))
      rcases hd f (hm f (.head _)) with h | h | h | h | h
      · exact storeField_out h1.1 h1.2 (by omega)
      · exact storeField_out h1.1 h1.2 (by omega)
      all_goals
        unfold storeField
        rw [h]
  rw [key r.fields old fun _ h => h]

/-- A stored word, by field. -/
theorem fld_store {s : State} {die sel : Nat} {r : RegRow} {v : Word} (ht : r.tidy = true) {f : FieldRow} (hf : f ∈ r.fields)
    (ha : f.acc = .rw) (hb : badValue r.id f.hi (getBits v f.hi f.lo) = false) :
    (s.store die sel r v).fld die sel ⟨r.id, f.hi, f.lo⟩ = getBits v f.hi f.lo := by
  unfold State.fld State.store
  rw [reg_setReg_self]
  exact getBits_stored ht hf ha hb _ _

/-- A write stores in its own register and item only. -/
theorem reg_store_ne (s : State) {die sel die' sel' : Nat} {r : RegRow} {r' : RegId} (v : Word)
    (h : die' ≠ die ∨ sel' ≠ sel ∨ r' ≠ r.id) : (s.store die sel r v).reg die' sel' r' = s.reg die' sel' r' := reg_setReg_ne s _ h

theorem fld_store_ne (s : State) {die sel die' sel' : Nat} {r : RegRow} {f : Field} (v : Word)
    (h : die' ≠ die ∨ sel' ≠ sel ∨ f.reg ≠ r.id) : (s.store die sel r v).fld die' sel' f = s.fld die' sel' f := fld_setReg_ne s _ h

/-- A counter that does not stop short rises by one. -/
theorem fld_bump (s : State) (die sel : Nat) (f : Field) (h : f.hi < 64) (hl : f.lo ≤ f.hi) :
    (s.bump die sel f).fld die sel f = min (s.fld die sel f + 1) (2 ^ (f.hi - f.lo + 1) - 1) := by
  unfold State.bump State.bumpBy fieldMax
  rw [fld_setFld_self _ _ _ _ _ h hl]
  refine Nat.mod_eq_of_lt ?_
  have := Nat.two_pow_pos (f.hi - f.lo + 1)
  omega

end Sys2Proof.Machine
end

