-- ==== Sys2Proof/Laws/Charged.lean ====
section
/-! SUPPORT. What charging and releasing storage leaves alone: everything but the counters of use and free space, the watermark state
and the reports that follow. -/

namespace Sys2Proof.Machine

/-- The registers that charging may change. -/
def chargeRegs : List RegId :=
  chatter ++ [Reg.CTX_STATE, Reg.CTX_USE_T0, Reg.CTX_USE_T1, Reg.CTX_USE_T2, Reg.CTX_USE_T3, Reg.TR_FREE_T1, Reg.TR_FREE_T2, Reg.TR_FREE_T3]

/-- `b` differs from `a` by charging, releasing and reporting only. -/
structure State.Charged (a b : State) : Prop where
  now : b.now = a.now
  pending : b.pending = a.pending
  free : b.free = a.free
  bcn : b.bcn = a.bcn
  ses : { b.ses with stalled := [] } = { a.ses with stalled := [] }
  kv : b.kv = a.kv
  grams : b.grams = a.grams
  tier : { b.tier with evicting := [] } = { a.tier with evicting := [] }
  start : b.start = a.start
  flash : b.flash = a.flash
  ident : b.ident = a.ident
  ckpt : b.ckpt = a.ckpt
  health : b.health = a.health
  lamp : { b.lamp with track := [] } = { a.lamp with track := [] }
  attn : { b.attn with results := [] } = { a.attn with results := [] }
  results : b.attn.results.map Result.still = a.attn.results.map Result.still
  reg : ∀ die sel r, r ∉ chargeRegs → b.reg die sel r = a.reg die sel r

variable {s0 s t : State}

theorem charged_refl (s : State) : s.Charged s :=
  ⟨rfl, rfl, rfl, rfl, rfl, rfl, rfl, rfl, rfl, rfl, rfl, rfl, rfl, rfl, rfl, rfl, fun _ _ _ _ => rfl⟩

theorem charged_trans (h : s0.Charged s) (h' : s.Charged t) : s0.Charged t :=
  ⟨h'.now.trans h.now, h'.pending.trans h.pending, h'.free.trans h.free, h'.bcn.trans h.bcn, h'.ses.trans h.ses, h'.kv.trans h.kv,
   h'.grams.trans h.grams, h'.tier.trans h.tier, h'.start.trans h.start, h'.flash.trans h.flash, h'.ident.trans h.ident,
   h'.ckpt.trans h.ckpt, h'.health.trans h.health, h'.lamp.trans h.lamp, h'.attn.trans h.attn, h'.results.trans h.results,
   fun d i r hr => (h'.reg d i r hr).trans (h.reg d i r hr)⟩

theorem State.Charged.fld (h : s0.Charged s) (die sel : Nat) {f : Field} (hf : f.reg ∉ chargeRegs) :
    s.fld die sel f = s0.fld die sel f := by
  unfold State.fld
  rw [h.reg die sel f.reg hf]

theorem State.Charged.recs (h : s0.Charged s) : s.ses.recs = s0.ses.recs := by
  have e := congrArg Sessions.recs h.ses
  exact e
theorem State.Charged.home (h : s0.Charged s) : s.ses.home = s0.ses.home := by
  have e := congrArg Sessions.home h.ses
  exact e
theorem State.Charged.sess (h : s0.Charged s) (slot : Nat) : s.sess slot = s0.sess slot := by
  unfold State.sess
  rw [h.recs]
theorem State.Charged.est (h : s0.Charged s) : s.est = s0.est := by
  unfold State.est
  rw [h.bcn, h.now]

/-- Sending, answering and reporting charge nothing. -/
theorem charged_reported (h : s0.Charged s) (h' : s.Reported t) : s0.Charged t :=
  charged_trans h ⟨h'.now, h'.pending, h'.free, h'.bcn, by rw [h'.ses], h'.kv, h'.grams, by rw [h'.tier], h'.start, h'.flash, h'.ident,
    h'.ckpt, h'.health, h'.lamp, h'.attn, h'.results, fun d i r hr => h'.reg d i r (fun hc => hr (List.mem_append_left _ hc))⟩

theorem State.setReg_charged (h : s0.Charged s) {die sel : Nat} {r : RegId} {w : Word} (hr : r ∈ chargeRegs) :
    s0.Charged (s.setReg die sel r w) :=
  charged_trans h ⟨rfl, rfl, rfl, rfl, rfl, rfl, rfl, rfl, rfl, rfl, rfl, rfl, rfl, rfl, rfl, rfl, fun d i x hx => by
    unfold State.reg State.setReg
    refine regGet_regSet_ne (fun e => hx ?_) _ _
    cases r
    cases x
    cases e
    exact hr⟩

theorem State.setFld_charged (h : s0.Charged s) {die sel : Nat} {f : Field} {v : Nat} (hf : f.reg ∈ chargeRegs) :
    s0.Charged (s.setFld die sel f v) := State.setReg_charged h hf

theorem charged_ite {c : Prop} [Decidable c] (h : s0.Charged s) (h' : s0.Charged t) : s0.Charged (if c then s else t) := by
  split
  · exact h
  · exact h'

theorem State.quotaTest_charged (h : s0.Charged s) {die ctx tier : Nat} : s0.Charged (s.quotaTest die ctx tier) := by
  unfold State.quotaTest
  extract_lets isOver bits sx s1
  refine charged_ite (charged_reported (State.setFld_charged h (by decide)) (State.raise_reported (reported_refl _)))
    (charged_ite (charged_reported (State.setFld_charged (charged_trans h ?_) (by decide)) (State.raise_reported (reported_refl _))) h)
  exact ⟨rfl, rfl, rfl, rfl, rfl, rfl, rfl, rfl, rfl, rfl, rfl, rfl, rfl, rfl, rfl, rfl, fun _ _ _ _ => rfl⟩

theorem use_mem {tier : Nat} (ht : tier < 4) : (⟨0x02, 0x130 + 8 * tier⟩ : RegId) ∈ chargeRegs := by
  match tier, ht with
  | 0, _ | 1, _ | 2, _ | 3, _ => decide

theorem pool_mem {tier : Nat} (ht : tier < 4) (h0 : tier ≠ 0) : (⟨0x06, 0x030 + 8 * tier⟩ : RegId) ∈ chargeRegs := by
  match tier, ht, h0 with
  | 1, _, _ | 2, _, _ | 3, _, _ => decide

theorem State.setUse_charged (h : s0.Charged s) {die ctx tier g : Nat} (ht : tier < 4) : s0.Charged (s.setUse die ctx tier g) :=
  State.quotaTest_charged (State.setReg_charged h (use_mem ht))

theorem State.setPoolFree_charged (h : s0.Charged s) {die tier g : Nat} (ht : tier < 4) (h0 : tier ≠ 0) :
    s0.Charged (s.setPoolFree die tier g) := State.setReg_charged h (pool_mem ht h0)

theorem State.evictTest_charged (h : s0.Charged s) {die tier : Nat} : s0.Charged (s.evictTest die tier) := by
  unfold State.evictTest
  dsimp only
  refine charged_ite (charged_ite (charged_trans h ?_) (charged_ite (charged_trans h ?_) h)) h
  all_goals exact ⟨rfl, rfl, rfl, rfl, rfl, rfl, rfl, rfl, rfl, rfl, rfl, rfl, rfl, rfl, rfl, rfl, fun _ _ _ _ => rfl⟩

theorem State.alloc_charged (h : s0.Charged s) {die tier ctx g : Nat} (ht : tier < 4) : s0.Charged (s.alloc die tier ctx g) := by
  unfold State.alloc
  dsimp only
  split
  · exact State.setUse_charged h ht
  · rename_i h0
    exact State.evictTest_charged (State.setPoolFree_charged (State.setUse_charged h ht) ht h0)

theorem State.dealloc_charged (h : s0.Charged s) {die tier ctx g : Nat} (ht : tier < 4) : s0.Charged (s.dealloc die tier ctx g) := by
  unfold State.dealloc
  dsimp only
  split
  · exact State.setUse_charged h ht
  · rename_i h0
    exact State.evictTest_charged (State.setPoolFree_charged (State.setUse_charged h ht) ht h0)

end Sys2Proof.Machine
end

