-- ==== Sys2Proof/Laws/Commands.lean ====
section
/-! SUPPORT. What an accepted register access and a message that enters come to. -/

namespace Sys2Proof.Machine

variable {s : State}

/-- An accepted write has its register's effect, after its record. -/
theorem regWrite_accepts {a : Acc} {r : RegId} {v : Word} {sel : Nat} (h : s.Accepts a r v sel) (hr : (rowOf r).id = r)
    (p : Option PendingIdx) (f : State → Nat → State) :
    s.regWrite a (rowOf r) v p f = f ((s.tick a.t).noteWrite a.rq a.die r v p) sel := by
  obtain ⟨h1, h2, h3, h4, h5, h6⟩ := h
  have h6' : ((s.tick a.t).replaying && (s.tick a.t).discarded a.rq r) = false := by
    rw [Bool.and_eq_false_iff]
    exact h6
  unfold State.regWrite
  have hc : (!s.present a.rq || decide (1 < a.die) || (a.die == 1 && !(rowOf r).onDie1)) = false := by
    rcases h3 with h3 | h3 <;> simp [h1, h3] <;> omega
  rw [if_neg (by rw [hc]; decide)]
  simp only [h4, h5, hr, h6']
  rfl

/-- An accepted read has its register's effect. -/
theorem regRead_shows {a : Acc} {r : RegId} {sel : Nat} (h : s.Shows a r sel) (f : State → Nat → State) :
    s.regRead a (rowOf r) f = f (s.tick a.t) sel := by
  obtain ⟨h1, h2, h3, h4, h5⟩ := h
  unfold State.regRead
  have hc : (!s.present a.rq || decide (1 < a.die) || (a.die == 1 && !(rowOf r).onDie1)) = false := by
    rcases h3 with h3 | h3 <;> simp [h1, h3] <;> omega
  rw [if_neg (by rw [hc]; decide)]
  simp only [h4, h5]

theorem reported_tick {s t : State} (h : s.Reported t) (n : Nat) : (s.tick n).Reported (t.tick n) :=
  ⟨by unfold State.tick; rw [h.now], h.pending, h.free, h.bcn, h.ses, h.kv, h.grams, h.tier, h.start, h.flash, h.ident, h.ckpt,
   h.health, h.lamp, h.attn, h.results, h.power, h.released, h.tripped, h.reg⟩

/-- The check order of a message finds the state as it was, its time passed. -/
theorem heard_reported {e : Env} {type : Nat} {slot : Option Nat} (he : slot = none ∨ e.recBad = false) :
    (s.tick e.t).Reported (s.heard e type slot) := by
  have h : (s.tick e.t).Reported (((s.arrived.tick e.t).takeReady e).track e type slot) :=
    State.track_reported (State.takeReady_reported (reported_tick (reported_mk (State.formResults_reported (reported_refl s))
      rfl rfl rfl rfl rfl rfl rfl rfl rfl rfl rfl rfl rfl rfl rfl rfl rfl rfl rfl rfl) _))
  unfold State.heard
  rcases he with he | he
  · subst he
    exact h
  · cases slot with
    | none => exact h
    | some x =>
      dsimp only
      rw [if_neg (by rw [he]; decide)]
      exact h

/-- A message that enters has its chapter's meaning; what follows leaves alone what `State.Aside` says. -/
theorem message_aside {e : Env} {type : Nat} (h : s.Enters e type) (c : Instr) (slot : Option Nat) (body : List Byte)
    (f : State → State) : (f (s.heard e type slot)).Aside (s.message e c type slot body f) := by
  have hb : (f (s.heard e type slot)).Aside (s.arrived.messageBody e type slot body f) := by
    unfold State.messageBody State.heard
    unfold State.Enters at h
    rw [h]
    cases slot with
    | none => exact aside_refl _
    | some x => exact State.cbwSlot_aside (aside_refl _)
  unfold State.message
  dsimp only
  split
  · exact State.formResults_aside (State.afterMessage_aside hb)
  · exact hb

end Sys2Proof.Machine
end

