-- ==== Sys2Proof/Laws/Beat.lean ====
section
/-! SUPPORT. What the consequences of a trigger leave alone: the tracker, the open gates, the registers of position; and no trigger of a
waking session is added. -/

namespace Sys2Proof.Machine

/-- Registers of die 0 that only the tracker, the bookkeeping, and writes change. -/
def beatRegs : List RegId :=
  [Reg.BCN_CTRL, Reg.BCN_LEAD, Reg.BCN_INIT, Reg.BCN_FETCH, Reg.BCN_LIMITS, Reg.BCN_TIMEOUT, Reg.BCN_LAST_POS,
   Reg.SES_BOUNDARY, Reg.CK_CTRL]

/-- `b` follows `a` with the tracker as it was. -/
structure State.Beat (a b : State) : Prop where
  now : b.now = a.now
  start : b.start = a.start
  bcn : b.bcn = a.bcn
  opened : ∀ p, (b.port p).opened = (a.port p).opened
  trigs : ∀ x ∈ b.tier.trigs, x ∈ a.tier.trigs
  reg : ∀ r ∈ beatRegs, b.reg 0 0 r = a.reg 0 0 r

variable {s0 s t : State}

theorem beat_refl (s : State) : s.Beat s := ⟨rfl, rfl, rfl, fun _ => rfl, fun _ h => h, fun _ _ => rfl⟩

theorem beat_trans (h : s0.Beat s) (h' : s.Beat t) : s0.Beat t :=
  ⟨h'.now.trans h.now, h'.start.trans h.start, h'.bcn.trans h.bcn, fun p => (h'.opened p).trans (h.opened p),
   fun x hx => h.trigs x (h'.trigs x hx), fun r hr => (h'.reg r hr).trans (h.reg r hr)⟩

theorem State.Beat.fld (h : s0.Beat s) {f : Field} (hf : f.reg ∈ beatRegs) : s.fld 0 0 f = s0.fld 0 0 f := by
  unfold State.fld
  rw [h.reg f.reg hf]

/-- The estimate stands. -/
theorem State.Beat.est (h : s0.Beat s) : s.est = s0.est := by
  unfold State.est
  rw [h.bcn, h.now]

/-- A change elsewhere. -/
theorem beat_mk (h : s0.Beat s) {now : Nat} {pending : List Instr} {free : Nat} {regs : List (RegKey × Word)} {bcn : Beacon}
    {ev : Events} {ses : Sessions} {kv : Kv} {attn : Attn} {grams : List ((Nat × Nat) × Gram)} {net : Net} {lamp : Lamp}
    {tier : Tier} {start : Start} {flash : Flash} {ident : Ident} {ckpt : Ckpt} {health : Health} {rp : Replay} {pins : Pins}
    (e2 : now = s.now) (e4 : regs = s.regs) (e5 : bcn = s.bcn) (e9 : tier.trigs = s.tier.trigs) (e10 : start = s.start)
    (e11 : net.ports = s.net.ports) :
    s0.Beat ⟨now, pending, free, regs, bcn, ev, ses, kv, attn, grams, net, lamp, tier, start, flash, ident, ckpt, health, rp,
      pins⟩ :=
  beat_trans h ⟨e2, e10, e5, fun p => by unfold State.port; rw [e11], fun x hx => by rw [e9] at hx; exact hx,
    fun r _ => by unfold State.reg; rw [e4]⟩

/-- The list of waking sessions' triggers is filtered. -/
theorem beat_trigs (h : s0.Beat s) {f : Trig → Bool} : s0.Beat { s with tier := { s.tier with trigs := s.tier.trigs.filter f } } :=
  beat_trans h ⟨rfl, rfl, rfl, fun _ => rfl, fun _ hx => List.mem_of_mem_filter hx, fun _ _ => rfl⟩

theorem State.setReg_beat (h : s0.Beat s) {die sel : Nat} {r : RegId} {w : Word} (hr : r ∉ beatRegs) :
    s0.Beat (s.setReg die sel r w) :=
  beat_trans h ⟨rfl, rfl, rfl, fun _ => rfl, fun _ h => h, fun x hx => by
    unfold State.reg State.setReg
    refine regGet_regSet_ne (fun e => hr ?_) _ _
    cases r
    cases x
    cases e
    exact hx⟩

theorem State.setFld_beat (h : s0.Beat s) {die sel : Nat} {f : Field} {v : Nat} (hf : f.reg ∉ beatRegs) :
    s0.Beat (s.setFld die sel f v) := State.setReg_beat h hf
theorem State.bumpBy_beat (h : s0.Beat s) {die sel : Nat} {f : Field} {n : Nat} (hf : f.reg ∉ beatRegs) :
    s0.Beat (s.bumpBy die sel f n) := State.setReg_beat h hf
theorem State.bump_beat (h : s0.Beat s) {die sel : Nat} {f : Field} (hf : f.reg ∉ beatRegs) :
    s0.Beat (s.bump die sel f) := State.setReg_beat h hf
theorem State.lower_beat (h : s0.Beat s) {die sel : Nat} {f : Field} {n : Nat} (hf : f.reg ∉ beatRegs) :
    s0.Beat (s.lower die sel f n) := State.setReg_beat h hf

theorem State.setPort_beat (h : s0.Beat s) {p : Nat} {v : Port} (hv : v.opened = (s.port p).opened) : s0.Beat (s.setPort p v) :=
  beat_trans h ⟨rfl, rfl, rfl, fun q => by
    unfold State.port State.setPort at *
    by_cases e : q = p
    · subst e
      rw [alGet_alSet_self]
      exact hv
    · rw [alGet_alSet_ne e], fun _ h => h, fun _ _ => rfl⟩

theorem State.setPoolFree_beat (h : s0.Beat s) {die tier g : Nat} : s0.Beat (s.setPoolFree die tier g) :=
  State.setReg_beat h (by simp [beatRegs])

@[simp] theorem Port.setCls_opened (q : Port) (c : Nat) (v : ClassState) : (q.setCls c v).opened = q.opened := rfl

theorem Port.foldl_setCls_opened (l : List Nat) (f : Port → Nat → ClassState) (q : Port) :
    (l.foldl (fun q c => q.setCls c (f q c)) q).opened = q.opened := by
  induction l generalizing q with
  | nil => rfl
  | cons x l ih => exact (ih _).trans rfl

theorem beat_ite {c : Prop} [Decidable c] (h : s0.Beat s) (h' : s0.Beat t) : s0.Beat (if c then s else t) := by
  split
  · exact h
  · exact h'

theorem beat_foldl {α : Type} {f : State → α → State} (hf : ∀ s x, s0.Beat s → s0.Beat (f s x)) (l : List α)
    (h : s0.Beat s) : s0.Beat (l.foldl f s) := by
  induction l generalizing s with
  | nil => exact h
  | cons x l ih => exact ih (hf s x h)

/-- If a function answers a state, the state satisfies `P`. -/
structure SomeP {α : Type} (P : State → Prop) (o : Option (State × α)) : Prop where
  some : ∀ t x, o = some (t, x) → P t

theorem somep_none {α : Type} {P : State → Prop} : SomeP (α := α) P none := ⟨fun _ _ h => nomatch h⟩
theorem somep_some {α : Type} {P : State → Prop} {x : α} (h : P s) : SomeP P (some (s, x)) := by
  constructor
  rintro _ _ ⟨⟩
  exact h
theorem somep_of {α : Type} {P : State → Prop} {o : Option (State × α)} {x : α} (e : o = some (t, x)) (h : SomeP P o) : P t :=
  h.some t x e
theorem pair_of {α : Type} {P : State → Prop} {p : State × α} {x : α} (e : p = (t, x)) (h : P p.1) : P t := by
  rw [e] at h
  exact h
theorem somep_map {α β : Type} {P : State → Prop} {o : Option (State × α)} {g : State × α → β} (h : SomeP P o) :
    SomeP P (o.map (fun p => (p.1, g p))) := by
  constructor
  rintro t x e
  obtain ⟨p, e', hp⟩ := Option.map_eq_some_iff.mp e
  cases hp
  exact h.some p.1 p.2 e'

end Sys2Proof.Machine
end

