-- ==== Sys2Proof/Laws/Beats.lean ====
section
/-! SUPPORT. The consequences of a trigger: each function leaves alone what `State.Beat` says. -/

namespace Sys2Proof.Machine

set_option linter.unusedTactic false
set_option linter.unreachableTactic false

variable {s0 s : State}

theorem State.nextFree_beat (h : s0.Beat s) : s0.Beat (State.nextFree s) := by
  unfold State.nextFree
  try dsimp only
  repeat' first | with_reducible assumption | with_reducible rfl | decide | with_reducible exact Port.setCls_opened _ _ _ | with_reducible exact Port.foldl_setCls_opened _ _ _ | with_reducible apply beat_ite | fail_if_no_progress with_reducible refine beat_mk ?_ rfl rfl rfl rfl rfl rfl | split | dsimp only | decide

theorem State.setSess_beat (h : s0.Beat s) {slot : Nat} {r : Session} : s0.Beat (State.setSess s slot r) := by
  unfold State.setSess
  try dsimp only
  repeat' first | with_reducible assumption | with_reducible rfl | decide | with_reducible exact Port.setCls_opened _ _ _ | with_reducible exact Port.foldl_setCls_opened _ _ _ | with_reducible apply beat_ite | fail_if_no_progress with_reducible refine beat_mk ?_ rfl rfl rfl rfl rfl rfl | split | dsimp only | decide

theorem State.settle_beat (h : s0.Beat s) {p : Nat} : s0.Beat (State.settle s p) := by
  unfold State.settle
  try dsimp only
  repeat' first | with_reducible assumption | with_reducible rfl | decide | with_reducible exact Port.setCls_opened _ _ _ | with_reducible exact Port.foldl_setCls_opened _ _ _ | intro _ | with_reducible apply State.setPort_beat | with_reducible apply beat_ite | with_reducible apply beat_foldl | fail_if_no_progress with_reducible refine beat_mk ?_ rfl rfl rfl rfl rfl rfl | split | dsimp only | decide

theorem State.enqueue_beat (h : s0.Beat s) {p cls flow len : Nat} {result : Option (Nat × ResKey)} {body : FrameBody} : s0.Beat (State.enqueue s p cls flow len result body) := by
  unfold State.enqueue
  try dsimp only
  repeat' first | with_reducible assumption | with_reducible rfl | decide | with_reducible exact Port.setCls_opened _ _ _ | with_reducible exact Port.foldl_setCls_opened _ _ _ | with_reducible apply State.settle_beat | with_reducible apply State.setPort_beat | with_reducible apply beat_ite | fail_if_no_progress with_reducible refine beat_mk ?_ rfl rfl rfl rfl rfl rfl | split | dsimp only | decide

theorem State.countHeld_beat (h : s0.Beat s) {p : Nat} : s0.Beat (State.countHeld s p) := by
  unfold State.countHeld
  try dsimp only
  repeat' first | with_reducible assumption | with_reducible rfl | decide | with_reducible exact Port.setCls_opened _ _ _ | with_reducible exact Port.foldl_setCls_opened _ _ _ | intro _ | with_reducible apply State.setPort_beat | with_reducible apply State.bump_beat | with_reducible apply beat_ite | with_reducible apply beat_foldl | fail_if_no_progress with_reducible refine beat_mk ?_ rfl rfl rfl rfl rfl rfl | split | dsimp only | decide

theorem State.noteReturn_beat (h : s0.Beat s) {r : Result} : s0.Beat (State.noteReturn s r) := by
  unfold State.noteReturn
  try dsimp only
  repeat' first | with_reducible assumption | with_reducible rfl | decide | with_reducible exact Port.setCls_opened _ _ _ | with_reducible exact Port.foldl_setCls_opened _ _ _ | intro _ | with_reducible apply State.bump_beat | with_reducible apply beat_ite | fail_if_no_progress with_reducible refine beat_mk ?_ rfl rfl rfl rfl rfl rfl | split | dsimp only | decide

theorem State.markStarted_beat (h : s0.Beat s) {p : Nat} {f : QFrame} : s0.Beat (State.markStarted s p f) := by
  unfold State.markStarted
  try dsimp only
  repeat' first | with_reducible assumption | with_reducible rfl | decide | with_reducible exact Port.setCls_opened _ _ _ | with_reducible exact Port.foldl_setCls_opened _ _ _ | intro _ | with_reducible apply State.noteReturn_beat | with_reducible apply State.setPort_beat | with_reducible apply beat_ite | fail_if_no_progress with_reducible refine beat_mk ?_ rfl rfl rfl rfl rfl rfl | split | dsimp only | decide

theorem State.untrack_beat (h : s0.Beat s) {k : KeyRef} {reqId : Nat} : s0.Beat (State.untrack s k reqId) := by
  unfold State.untrack
  try dsimp only
  repeat' first | with_reducible assumption | with_reducible rfl | decide | with_reducible exact Port.setCls_opened _ _ _ | with_reducible exact Port.foldl_setCls_opened _ _ _ | intro _ | with_reducible apply beat_ite | fail_if_no_progress with_reducible refine beat_mk ?_ rfl rfl rfl rfl rfl rfl | split | dsimp only | decide

theorem State.untrackFrame_beat (h : s0.Beat s) {f : QFrame} : s0.Beat (State.untrackFrame s f) := by
  unfold State.untrackFrame
  try dsimp only
  repeat' first | with_reducible assumption | with_reducible rfl | decide | with_reducible exact Port.setCls_opened _ _ _ | with_reducible exact Port.foldl_setCls_opened _ _ _ | with_reducible apply State.untrack_beat | with_reducible apply beat_ite | fail_if_no_progress with_reducible refine beat_mk ?_ rfl rfl rfl rfl rfl rfl | split | dsimp only | decide

theorem State.pick_beat (h : s0.Beat s) {p : Nat} : s0.Beat (State.pick s p) := by
  unfold State.pick
  try dsimp only
  repeat' first | with_reducible assumption | with_reducible rfl | decide | with_reducible exact Port.setCls_opened _ _ _ | with_reducible exact Port.foldl_setCls_opened _ _ _ | with_reducible apply State.settle_beat | with_reducible apply State.countHeld_beat | with_reducible apply State.setPort_beat | with_reducible apply State.markStarted_beat | with_reducible apply State.untrackFrame_beat | with_reducible apply beat_ite | fail_if_no_progress with_reducible refine beat_mk ?_ rfl rfl rfl rfl rfl rfl | split | dsimp only | decide

theorem State.send_beat (h : s0.Beat s) {p cls flow len : Nat} {result : Option (Nat × ResKey)} {body : FrameBody} : s0.Beat (State.send s p cls flow len result body) := by
  unfold State.send
  try dsimp only
  repeat' first | with_reducible assumption | with_reducible rfl | decide | with_reducible exact Port.setCls_opened _ _ _ | with_reducible exact Port.foldl_setCls_opened _ _ _ | with_reducible apply State.enqueue_beat | with_reducible apply State.pick_beat | with_reducible apply beat_ite | split | dsimp only | decide

theorem State.resetClass_beat (h : s0.Beat s) {p c : Nat} : s0.Beat (State.resetClass s p c) := by
  unfold State.resetClass
  try dsimp only
  repeat' first | with_reducible assumption | with_reducible rfl | decide | with_reducible exact Port.setCls_opened _ _ _ | with_reducible exact Port.foldl_setCls_opened _ _ _ | intro _ | with_reducible apply State.setPort_beat | with_reducible apply beat_ite | fail_if_no_progress with_reducible refine beat_mk ?_ rfl rfl rfl rfl rfl rfl | split | dsimp only | decide

theorem State.sendSeg_beat (h : s0.Beat s) {d : Dest} {kind type status reason reqId : Nat} {response : Bool} {result : Option (Nat × ResKey)} {count len : Nat} {seg : Nat × List Byte} : s0.Beat (State.sendSeg s d kind type status reason reqId response result count len seg) := by
  unfold State.sendSeg
  try dsimp only
  repeat' first | with_reducible assumption | with_reducible rfl | decide | with_reducible exact Port.setCls_opened _ _ _ | with_reducible exact Port.foldl_setCls_opened _ _ _ | with_reducible apply State.send_beat | with_reducible apply beat_ite | fail_if_no_progress with_reducible refine beat_mk ?_ rfl rfl rfl rfl rfl rfl | split | dsimp only | decide

theorem State.sendMsg_beat (h : s0.Beat s) {d : Dest} {kind type status reason reqId : Nat} {response : Bool} {result : Option (Nat × ResKey)} {body : List Byte} : s0.Beat (State.sendMsg s d kind type status reason reqId response result body) := by
  unfold State.sendMsg
  try dsimp only
  repeat' first | with_reducible assumption | with_reducible rfl | decide | with_reducible exact Port.setCls_opened _ _ _ | with_reducible exact Port.foldl_setCls_opened _ _ _ | intro _ | with_reducible apply State.sendSeg_beat | with_reducible apply beat_ite | with_reducible apply beat_foldl | fail_if_no_progress with_reducible refine beat_mk ?_ rfl rfl rfl rfl rfl rfl | split | dsimp only | decide

theorem State.setRing_beat (h : s0.Beat s) {die : Nat} {l : List EvtRec} : s0.Beat (State.setRing s die l) := by
  unfold State.setRing
  try dsimp only
  repeat' first | with_reducible assumption | with_reducible rfl | decide | with_reducible exact Port.setCls_opened _ _ _ | with_reducible exact Port.foldl_setCls_opened _ _ _ | with_reducible apply beat_ite | fail_if_no_progress with_reducible refine beat_mk ?_ rfl rfl rfl rfl rfl rfl | split | dsimp only | decide

theorem State.setAlerts_beat (h : s0.Beat s) {die : Nat} {l : List Nat} : s0.Beat (State.setAlerts s die l) := by
  unfold State.setAlerts
  try dsimp only
  repeat' first | with_reducible assumption | with_reducible rfl | decide | with_reducible exact Port.setCls_opened _ _ _ | with_reducible exact Port.foldl_setCls_opened _ _ _ | with_reducible apply beat_ite | fail_if_no_progress with_reducible refine beat_mk ?_ rfl rfl rfl rfl rfl rfl | split | dsimp only | decide

theorem State.eventFrame_beat (h : s0.Beat s) {sub : Sub} {r : EvtRec} : s0.Beat (State.eventFrame s sub r) := by
  unfold State.eventFrame
  try dsimp only
  repeat' first | with_reducible assumption | with_reducible rfl | decide | with_reducible exact Port.setCls_opened _ _ _ | with_reducible exact Port.foldl_setCls_opened _ _ _ | with_reducible apply State.sendMsg_beat | with_reducible apply beat_ite | fail_if_no_progress with_reducible refine beat_mk ?_ rfl rfl rfl rfl rfl rfl | split | dsimp only | decide

theorem State.ibi_beat (h : s0.Beat s) {byte : Nat} : s0.Beat (State.ibi s byte) := by
  unfold State.ibi
  try dsimp only
  repeat' first | with_reducible assumption | with_reducible rfl | decide | with_reducible exact Port.setCls_opened _ _ _ | with_reducible exact Port.foldl_setCls_opened _ _ _ | with_reducible apply beat_ite | fail_if_no_progress with_reducible refine beat_mk ?_ rfl rfl rfl rfl rfl rfl | split | dsimp only | decide

theorem State.logEvent_beat (h : s0.Beat s) {die : Nat} {r : EvtRec} : s0.Beat (State.logEvent s die r) := by
  unfold State.logEvent
  try dsimp only
  repeat' first | with_reducible assumption | with_reducible rfl | decide | with_reducible exact Port.setCls_opened _ _ _ | with_reducible exact Port.foldl_setCls_opened _ _ _ | with_reducible apply State.setRing_beat | with_reducible apply State.setFld_beat | with_reducible apply State.setAlerts_beat | with_reducible apply State.ibi_beat | with_reducible apply beat_ite | split | dsimp only | decide

theorem State.raise_beat (h : s0.Beat s) {die sub : Nat} {a : EvtArgs} : s0.Beat (State.raise s die sub a) := by
  unfold State.raise
  try dsimp only
  repeat' first | with_reducible assumption | with_reducible rfl | decide | with_reducible exact Port.setCls_opened _ _ _ | with_reducible exact Port.foldl_setCls_opened _ _ _ | intro _ | with_reducible apply State.eventFrame_beat | with_reducible apply State.logEvent_beat | with_reducible apply beat_ite | with_reducible apply beat_foldl | split | dsimp only | decide

theorem State.setOnce_beat (h : s0.Beat s) {o : Once} : s0.Beat (State.setOnce s o) := by
  unfold State.setOnce
  try dsimp only
  repeat' first | with_reducible assumption | with_reducible rfl | decide | with_reducible exact Port.setCls_opened _ _ _ | with_reducible exact Port.foldl_setCls_opened _ _ _ | intro _ | with_reducible apply beat_ite | fail_if_no_progress with_reducible refine beat_mk ?_ rfl rfl rfl rfl rfl rfl | split | dsimp only | decide

theorem State.raiseOnce_beat (h : s0.Beat s) {die sub item : Nat} {a : EvtArgs} : s0.Beat (State.raiseOnce s die sub item a) := by
  unfold State.raiseOnce
  try dsimp only
  repeat' first | with_reducible assumption | with_reducible rfl | decide | with_reducible exact Port.setCls_opened _ _ _ | with_reducible exact Port.foldl_setCls_opened _ _ _ | with_reducible apply State.setOnce_beat | with_reducible apply State.raise_beat | with_reducible apply beat_ite | fail_if_no_progress with_reducible refine beat_mk ?_ rfl rfl rfl rfl rfl rfl | split | dsimp only | decide

theorem State.endLimitStep_beat (h : s0.Beat s) : s0.Beat (State.endLimitStep s) := by
  unfold State.endLimitStep
  try dsimp only
  repeat' first | with_reducible assumption | with_reducible rfl | decide | with_reducible exact Port.setCls_opened _ _ _ | with_reducible exact Port.foldl_setCls_opened _ _ _ | intro _ | with_reducible apply beat_ite | fail_if_no_progress with_reducible refine beat_mk ?_ rfl rfl rfl rfl rfl rfl | split | dsimp only | decide

theorem State.closeRec_beat (h : s0.Beat s) : s0.Beat (State.closeRec s) := by
  unfold State.closeRec
  try dsimp only
  repeat' first | with_reducible assumption | with_reducible rfl | decide | with_reducible exact Port.setCls_opened _ _ _ | with_reducible exact Port.foldl_setCls_opened _ _ _ | with_reducible apply State.setFld_beat | with_reducible apply beat_ite | fail_if_no_progress with_reducible refine beat_mk ?_ rfl rfl rfl rfl rfl rfl | split | dsimp only | decide

theorem State.addRec_beat (h : s0.Beat s) {status port ctx ep len : Nat} {body : RecBody} : s0.Beat (State.addRec s status port ctx ep len body) := by
  unfold State.addRec
  try dsimp only
  repeat' first | with_reducible assumption | with_reducible rfl | decide | with_reducible exact Port.setCls_opened _ _ _ | with_reducible exact Port.foldl_setCls_opened _ _ _ | with_reducible apply State.setFld_beat | with_reducible apply State.raiseOnce_beat | with_reducible apply State.closeRec_beat | with_reducible apply State.raise_beat | with_reducible apply State.setReg_beat | with_reducible apply beat_ite | fail_if_no_progress with_reducible refine beat_mk ?_ rfl rfl rfl rfl rfl rfl | split | dsimp only | decide

theorem State.diverge_beat (h : s0.Beat s) {msg : Nat} : s0.Beat (State.diverge s msg) := by
  unfold State.diverge
  try dsimp only
  repeat' first | with_reducible assumption | with_reducible rfl | decide | with_reducible exact Port.setCls_opened _ _ _ | with_reducible exact Port.foldl_setCls_opened _ _ _ | with_reducible apply State.bump_beat | with_reducible apply State.setFld_beat | with_reducible apply State.raise_beat | with_reducible apply beat_ite | split | dsimp only | decide

theorem State.formed_beat (h : s0.Beat s) {msg port : Nat} {f : List Byte} : s0.Beat (State.formed s msg port f) := by
  unfold State.formed
  try dsimp only
  repeat' first | with_reducible assumption | with_reducible rfl | decide | with_reducible exact Port.setCls_opened _ _ _ | with_reducible exact Port.foldl_setCls_opened _ _ _ | with_reducible apply State.addRec_beat | with_reducible apply State.diverge_beat | with_reducible apply beat_ite | fail_if_no_progress with_reducible refine beat_mk ?_ rfl rfl rfl rfl rfl rfl | split | dsimp only | decide

theorem State.formResult_beat (h : s0.Beat s) {r : Result} : s0.Beat (State.formResult s r) := by
  unfold State.formResult
  try dsimp only
  repeat' first | with_reducible assumption | with_reducible rfl | decide | with_reducible exact Port.setCls_opened _ _ _ | with_reducible exact Port.foldl_setCls_opened _ _ _ | intro _ | with_reducible apply State.formed_beat | with_reducible apply beat_ite | fail_if_no_progress with_reducible refine beat_mk ?_ rfl rfl rfl rfl rfl rfl | split | dsimp only | decide

theorem State.formResults_beat (h : s0.Beat s) : s0.Beat (State.formResults s) := by
  unfold State.formResults
  try dsimp only
  repeat' first | with_reducible assumption | with_reducible rfl | decide | with_reducible exact Port.setCls_opened _ _ _ | with_reducible exact Port.foldl_setCls_opened _ _ _ | intro _ | with_reducible apply State.formResult_beat | with_reducible apply beat_ite | with_reducible apply beat_foldl | split | dsimp only | decide

theorem State.track_beat (h : s0.Beat s) {e : Env} {type : Nat} {slot : Option Nat} : s0.Beat (State.track s e type slot) := by
  unfold State.track
  try dsimp only
  repeat' first | with_reducible assumption | with_reducible rfl | decide | with_reducible exact Port.setCls_opened _ _ _ | with_reducible exact Port.foldl_setCls_opened _ _ _ | with_reducible apply beat_ite | fail_if_no_progress with_reducible refine beat_mk ?_ rfl rfl rfl rfl rfl rfl | split | dsimp only | decide

theorem State.quotaTest_beat (h : s0.Beat s) {die ctx tier : Nat} : s0.Beat (State.quotaTest s die ctx tier) := by
  unfold State.quotaTest
  try dsimp only
  repeat' first | with_reducible assumption | with_reducible rfl | decide | with_reducible exact Port.setCls_opened _ _ _ | with_reducible exact Port.foldl_setCls_opened _ _ _ | with_reducible apply State.setFld_beat | with_reducible apply State.raise_beat | with_reducible apply beat_ite | fail_if_no_progress with_reducible refine beat_mk ?_ rfl rfl rfl rfl rfl rfl | split | dsimp only | decide

theorem State.setUse_beat (h : s0.Beat s) {die ctx tier g : Nat} : s0.Beat (s.setUse die ctx tier g) :=
  State.quotaTest_beat (State.setReg_beat h (by simp [beatRegs]; omega))

theorem State.evictTest_beat (h : s0.Beat s) {die tier : Nat} : s0.Beat (State.evictTest s die tier) := by
  unfold State.evictTest
  try dsimp only
  repeat' first | with_reducible assumption | with_reducible rfl | decide | with_reducible exact Port.setCls_opened _ _ _ | with_reducible exact Port.foldl_setCls_opened _ _ _ | with_reducible apply beat_ite | fail_if_no_progress with_reducible refine beat_mk ?_ rfl rfl rfl rfl rfl rfl | split | dsimp only | decide

theorem State.alloc_beat (h : s0.Beat s) {die tier ctx g : Nat} : s0.Beat (State.alloc s die tier ctx g) := by
  unfold State.alloc
  try dsimp only
  repeat' first | with_reducible assumption | with_reducible rfl | decide | with_reducible exact Port.setCls_opened _ _ _ | with_reducible exact Port.foldl_setCls_opened _ _ _ | with_reducible apply State.setUse_beat | with_reducible apply State.setPoolFree_beat | with_reducible apply State.evictTest_beat | with_reducible apply beat_ite | split | dsimp only | decide

theorem State.dealloc_beat (h : s0.Beat s) {die tier ctx g : Nat} : s0.Beat (State.dealloc s die tier ctx g) := by
  unfold State.dealloc
  try dsimp only
  repeat' first | with_reducible assumption | with_reducible rfl | decide | with_reducible exact Port.setCls_opened _ _ _ | with_reducible exact Port.foldl_setCls_opened _ _ _ | with_reducible apply State.setUse_beat | with_reducible apply State.setPoolFree_beat | with_reducible apply State.evictTest_beat | with_reducible apply beat_ite | split | dsimp only | decide

theorem State.putArea_beat (h : s0.Beat s) {slot : Nat} {a : FinArea} : s0.Beat (State.putArea s slot a) := by
  unfold State.putArea
  try dsimp only
  repeat' first | with_reducible assumption | with_reducible rfl | decide | with_reducible exact Port.setCls_opened _ _ _ | with_reducible exact Port.foldl_setCls_opened _ _ _ | with_reducible apply beat_ite | fail_if_no_progress with_reducible refine beat_mk ?_ rfl rfl rfl rfl rfl rfl | split | dsimp only | decide

theorem State.mapResult_beat (h : s0.Beat s) {slot : Nat} {key : ResKey} {f : Result → Result} : s0.Beat (State.mapResult s slot key f) := by
  unfold State.mapResult
  try dsimp only
  repeat' first | with_reducible assumption | with_reducible rfl | decide | with_reducible exact Port.setCls_opened _ _ _ | with_reducible exact Port.foldl_setCls_opened _ _ _ | intro _ | with_reducible apply beat_ite | fail_if_no_progress with_reducible refine beat_mk ?_ rfl rfl rfl rfl rfl rfl | split | dsimp only | decide

theorem State.sendWrite_beat (h : s0.Beat s) {d : Dest} {q : Qp} {result : Nat × ResKey} {seq : Nat} {piece : Bool × Nat × List Byte} : s0.Beat (State.sendWrite s d q result seq piece) := by
  unfold State.sendWrite
  try dsimp only
  repeat' first | with_reducible assumption | with_reducible rfl | decide | with_reducible exact Port.setCls_opened _ _ _ | with_reducible exact Port.foldl_setCls_opened _ _ _ | intro _ | with_reducible apply State.send_beat | with_reducible apply beat_ite | fail_if_no_progress with_reducible refine beat_mk ?_ rfl rfl rfl rfl rfl rfl | split | dsimp only | decide

theorem State.sendObject_beat (h : s0.Beat s) {d : Dest} {r : Result} {q : Qp} : s0.Beat (State.sendObject s d r q) := by
  unfold State.sendObject
  try dsimp only
  repeat' first | with_reducible assumption | with_reducible rfl | decide | with_reducible exact Port.setCls_opened _ _ _ | with_reducible exact Port.foldl_setCls_opened _ _ _ | intro _ | with_reducible apply State.sendWrite_beat | with_reducible apply beat_ite | with_reducible apply beat_foldl | fail_if_no_progress with_reducible refine beat_mk ?_ rfl rfl rfl rfl rfl rfl | split | dsimp only | decide

theorem State.joinQueue_beat (h : s0.Beat s) {slot : Nat} {key : ResKey} : s0.Beat (State.joinQueue s slot key) := by
  unfold State.joinQueue
  try dsimp only
  repeat' first | with_reducible assumption | with_reducible rfl | decide | with_reducible exact Port.setCls_opened _ _ _ | with_reducible exact Port.foldl_setCls_opened _ _ _ | intro _ | with_reducible apply State.noteReturn_beat | with_reducible apply State.mapResult_beat | with_reducible apply State.sendObject_beat | with_reducible apply State.sendMsg_beat | with_reducible apply beat_ite | fail_if_no_progress with_reducible refine beat_mk ?_ rfl rfl rfl rfl rfl rfl | split | dsimp only | decide

theorem State.unqueue_beat (h : s0.Beat s) {slot : Nat} {key : ResKey} : s0.Beat (State.unqueue s slot key) := by
  unfold State.unqueue
  try dsimp only
  repeat' first | with_reducible assumption | with_reducible rfl | decide | with_reducible exact Port.setCls_opened _ _ _ | with_reducible exact Port.foldl_setCls_opened _ _ _ | intro _ | with_reducible apply State.resetClass_beat | with_reducible apply State.settle_beat | with_reducible apply State.setPort_beat | with_reducible apply beat_ite | with_reducible apply beat_foldl | fail_if_no_progress with_reducible refine beat_mk ?_ rfl rfl rfl rfl rfl rfl | split | dsimp only | decide

theorem State.dropResult_beat (h : s0.Beat s) {slot : Nat} {key : ResKey} : s0.Beat (State.dropResult s slot key) := by
  unfold State.dropResult
  try dsimp only
  repeat' first | with_reducible assumption | with_reducible rfl | decide | with_reducible exact Port.setCls_opened _ _ _ | with_reducible exact Port.foldl_setCls_opened _ _ _ | intro _ | with_reducible apply State.formResult_beat | with_reducible apply State.unqueue_beat | with_reducible apply State.untrack_beat | with_reducible apply State.lower_beat | with_reducible apply beat_ite | fail_if_no_progress with_reducible refine beat_mk ?_ rfl rfl rfl rfl rfl rfl | split | dsimp only | decide

theorem State.markLate_beat (h : s0.Beat s) {slot : Nat} {key : ResKey} : s0.Beat (State.markLate s slot key) := by
  unfold State.markLate
  try dsimp only
  repeat' first | with_reducible assumption | with_reducible rfl | decide | with_reducible exact Port.setCls_opened _ _ _ | with_reducible exact Port.foldl_setCls_opened _ _ _ | intro _ | with_reducible apply State.mapResult_beat | with_reducible apply State.bump_beat | with_reducible apply State.setReg_beat | with_reducible apply State.raise_beat | with_reducible apply beat_ite | fail_if_no_progress with_reducible refine beat_mk ?_ rfl rfl rfl rfl rfl rfl | split | dsimp only | decide

theorem State.deliver_beat (h : s0.Beat s) {slot : Nat} {key : ResKey} : s0.Beat (State.deliver s slot key) := by
  unfold State.deliver
  try dsimp only
  repeat' first | with_reducible assumption | with_reducible rfl | decide | with_reducible exact Port.setCls_opened _ _ _ | with_reducible exact Port.foldl_setCls_opened _ _ _ | with_reducible apply State.joinQueue_beat | with_reducible apply State.markLate_beat | with_reducible apply beat_ite | fail_if_no_progress with_reducible refine beat_mk ?_ rfl rfl rfl rfl rfl rfl | split | dsimp only | decide

theorem State.carry_beat (h : s0.Beat s) {p step layer : Nat} : s0.Beat (State.carry s p step layer) := by
  unfold State.carry
  try dsimp only
  repeat' first | with_reducible assumption | with_reducible rfl | decide | with_reducible exact Port.setCls_opened _ _ _ | with_reducible exact Port.foldl_setCls_opened _ _ _ | intro _ | with_reducible apply State.joinQueue_beat | with_reducible apply beat_ite | with_reducible apply beat_foldl | fail_if_no_progress with_reducible refine beat_mk ?_ rfl rfl rfl rfl rfl rfl | split | dsimp only | decide

theorem State.missClose_beat (h : s0.Beat s) {p step layer : Nat} : s0.Beat (State.missClose s p step layer) := by
  unfold State.missClose
  try dsimp only
  repeat' first | with_reducible assumption | with_reducible rfl | decide | with_reducible exact Port.setCls_opened _ _ _ | with_reducible exact Port.foldl_setCls_opened _ _ _ | intro _ | with_reducible apply State.unqueue_beat | with_reducible apply State.mapResult_beat | with_reducible apply State.markLate_beat | with_reducible apply beat_ite | with_reducible apply beat_foldl | fail_if_no_progress with_reducible refine beat_mk ?_ rfl rfl rfl rfl rfl rfl | split | dsimp only | decide

theorem State.countSplit_beat (h : s0.Beat s) {p : Nat} : s0.Beat (State.countSplit s p) := by
  unfold State.countSplit
  try dsimp only
  repeat' first | with_reducible assumption | with_reducible rfl | decide | with_reducible exact Port.setCls_opened _ _ _ | with_reducible exact Port.foldl_setCls_opened _ _ _ | intro _ | with_reducible apply State.setPort_beat | with_reducible apply State.bumpBy_beat | with_reducible apply beat_ite | fail_if_no_progress with_reducible refine beat_mk ?_ rfl rfl rfl rfl rfl rfl | split | dsimp only | decide

theorem State.lateSweep_beat (h : s0.Beat s) : s0.Beat (State.lateSweep s) := by
  unfold State.lateSweep
  try dsimp only
  repeat' first | with_reducible assumption | with_reducible rfl | decide | with_reducible exact Port.setCls_opened _ _ _ | with_reducible exact Port.foldl_setCls_opened _ _ _ | intro _ | with_reducible apply State.deliver_beat | with_reducible apply beat_ite | with_reducible apply beat_foldl | split | dsimp only | decide

theorem State.raiseMark_beat (h : s0.Beat s) {slot : Nat} {k : ResKey} : s0.Beat (State.raiseMark s slot k) := by
  unfold State.raiseMark
  try dsimp only
  repeat' first | with_reducible assumption | with_reducible rfl | decide | with_reducible exact Port.setCls_opened _ _ _ | with_reducible exact Port.foldl_setCls_opened _ _ _ | with_reducible apply State.putArea_beat | with_reducible apply beat_ite | fail_if_no_progress with_reducible refine beat_mk ?_ rfl rfl rfl rfl rfl rfl | split | dsimp only | decide

theorem State.endEpoch_beat (h : s0.Beat s) {slot : Nat} : s0.Beat (State.endEpoch s slot) := by
  unfold State.endEpoch
  try dsimp only
  repeat' first | with_reducible assumption | with_reducible rfl | decide | with_reducible exact Port.setCls_opened _ _ _ | with_reducible exact Port.foldl_setCls_opened _ _ _ | intro _ | with_reducible apply beat_ite | fail_if_no_progress with_reducible refine beat_mk ?_ rfl rfl rfl rfl rfl rfl | split | dsimp only | decide

theorem State.autoRelease_beat (h : s0.Beat s) {slot : Nat} {key : ResKey} : s0.Beat (State.autoRelease s slot key) := by
  unfold State.autoRelease
  try dsimp only
  repeat' first | with_reducible assumption | with_reducible rfl | decide | with_reducible exact Port.setCls_opened _ _ _ | with_reducible exact Port.foldl_setCls_opened _ _ _ | with_reducible apply State.dropResult_beat | with_reducible apply State.raiseMark_beat | with_reducible apply beat_ite | split | dsimp only | decide

theorem State.releaseDue_beat (h : s0.Beat s) : s0.Beat (State.releaseDue s) := by
  unfold State.releaseDue
  try dsimp only
  repeat' first | with_reducible assumption | with_reducible rfl | decide | with_reducible exact Port.setCls_opened _ _ _ | with_reducible exact Port.foldl_setCls_opened _ _ _ | intro _ | with_reducible apply State.autoRelease_beat | with_reducible apply State.dropResult_beat | with_reducible apply beat_ite | with_reducible apply beat_foldl | split | dsimp only | decide

theorem State.setSeg_beat (h : s0.Beat s) {x : Seg} : s0.Beat (State.setSeg s x) := by
  unfold State.setSeg
  try dsimp only
  repeat' first | with_reducible assumption | with_reducible rfl | decide | with_reducible exact Port.setCls_opened _ _ _ | with_reducible exact Port.foldl_setCls_opened _ _ _ | intro _ | with_reducible apply beat_ite | fail_if_no_progress with_reducible refine beat_mk ?_ rfl rfl rfl rfl rfl rfl | split | dsimp only | decide

theorem State.openSeg_beat (h : s0.Beat s) {die group kind : Nat} : SomeP s0.Beat (State.openSeg s die group kind) := by
  unfold State.openSeg
  try dsimp only
  repeat' first | with_reducible assumption | with_reducible rfl | decide | with_reducible exact Port.setCls_opened _ _ _ | with_reducible exact Port.foldl_setCls_opened _ _ _ | with_reducible exact somep_none | with_reducible apply somep_some | with_reducible apply State.setSeg_beat | with_reducible apply State.raiseOnce_beat | with_reducible apply beat_ite | fail_if_no_progress with_reducible refine beat_mk ?_ rfl rfl rfl rfl rfl rfl | split | dsimp only | decide

theorem State.settleSeg_beat (h : s0.Beat s) {x : Seg} : s0.Beat (State.settleSeg s x) := by
  unfold State.settleSeg
  try dsimp only
  repeat' first | with_reducible assumption | with_reducible rfl | decide | with_reducible exact Port.setCls_opened _ _ _ | with_reducible exact Port.foldl_setCls_opened _ _ _ | with_reducible apply State.setSeg_beat | with_reducible apply beat_ite | fail_if_no_progress with_reducible refine beat_mk ?_ rfl rfl rfl rfl rfl rfl | split | dsimp only | decide

theorem State.bufferStripes_beat (h : s0.Beat s) {x : Seg} {a b : Nat} : s0.Beat (State.bufferStripes s x a b) := by
  unfold State.bufferStripes
  try dsimp only
  repeat' first | with_reducible assumption | with_reducible rfl | decide | with_reducible exact Port.setCls_opened _ _ _ | with_reducible exact Port.foldl_setCls_opened _ _ _ | intro _ | with_reducible apply beat_ite | with_reducible apply beat_foldl | fail_if_no_progress with_reducible refine beat_mk ?_ rfl rfl rfl rfl rfl rfl | split | dsimp only | decide

theorem State.placeIn_beat (h : s0.Beat s) {x : Seg} {align size : Nat} {o : Owner} : s0.Beat (State.placeIn s x align size o).1 := by
  unfold State.placeIn
  try dsimp only
  repeat' first | with_reducible assumption | with_reducible rfl | decide | with_reducible exact Port.setCls_opened _ _ _ | with_reducible exact Port.foldl_setCls_opened _ _ _ | with_reducible apply State.setSeg_beat | with_reducible apply State.bufferStripes_beat | with_reducible apply beat_ite | fail_if_no_progress with_reducible refine beat_mk ?_ rfl rfl rfl rfl rfl rfl | split | dsimp only | decide

theorem State.place_beat (h : s0.Beat s) {die group kind align size : Nat} {o : Owner} : SomeP s0.Beat (State.place s die group kind align size o) := by
  unfold State.place
  try dsimp only
  repeat' first | with_reducible assumption | with_reducible rfl | decide | with_reducible exact Port.setCls_opened _ _ _ | with_reducible exact Port.foldl_setCls_opened _ _ _ | with_reducible exact somep_none | with_reducible apply somep_some | with_reducible apply State.placeIn_beat | with_reducible apply State.settleSeg_beat | with_reducible apply State.openSeg_beat | with_reducible apply beat_ite | fail_if_no_progress with_reducible refine beat_mk ?_ rfl rfl rfl rfl rfl rfl | refine pair_of (P := s0.Beat) (by assumption) ?_ | refine somep_of (P := s0.Beat) (by assumption) ?_ | split | dsimp only | decide

theorem State.mapUnit_beat (h : s0.Beat s) {slot : Nat} {key : ResKey} {kvHead seg : Nat} {f : AttnUnit → AttnUnit} : s0.Beat (State.mapUnit s slot key kvHead seg f) := by
  unfold State.mapUnit
  try dsimp only
  repeat' first | with_reducible assumption | with_reducible rfl | decide | with_reducible exact Port.setCls_opened _ _ _ | with_reducible exact Port.foldl_setCls_opened _ _ _ | intro _ | with_reducible apply State.mapResult_beat | with_reducible apply beat_ite | fail_if_no_progress with_reducible refine beat_mk ?_ rfl rfl rfl rfl rfl rfl | split | dsimp only | decide

theorem State.promoteFirst_beat (h : s0.Beat s) {die : Nat} {u : UnitRef} : s0.Beat (State.promoteFirst s die u) := by
  unfold State.promoteFirst
  try dsimp only
  repeat' first | with_reducible assumption | with_reducible rfl | decide | with_reducible exact Port.setCls_opened _ _ _ | with_reducible exact Port.foldl_setCls_opened _ _ _ | intro _ | with_reducible apply beat_ite | fail_if_no_progress with_reducible refine beat_mk ?_ rfl rfl rfl rfl rfl rfl | split | dsimp only | decide

theorem State.waitPage_beat (h : s0.Beat s) {r : Result} {u : AttnUnit} {page : Nat} : s0.Beat (State.waitPage s r u page) := by
  unfold State.waitPage
  try dsimp only
  repeat' first | with_reducible assumption | with_reducible rfl | decide | with_reducible exact Port.setCls_opened _ _ _ | with_reducible exact Port.foldl_setCls_opened _ _ _ | intro _ | with_reducible apply State.mapUnit_beat | with_reducible apply State.promoteFirst_beat | with_reducible apply State.bump_beat | with_reducible apply State.raiseOnce_beat | with_reducible apply beat_ite | fail_if_no_progress with_reducible refine beat_mk ?_ rfl rfl rfl rfl rfl rfl | split | dsimp only | decide

theorem State.startUnit_beat (h : s0.Beat s) {r : Result} {u : AttnUnit} {core : Nat} : s0.Beat (State.startUnit s r u core) := by
  unfold State.startUnit
  try dsimp only
  repeat' first | with_reducible assumption | with_reducible rfl | decide | with_reducible exact Port.setCls_opened _ _ _ | with_reducible exact Port.foldl_setCls_opened _ _ _ | intro _ | with_reducible apply State.mapUnit_beat | with_reducible apply beat_ite | fail_if_no_progress with_reducible refine beat_mk ?_ rfl rfl rfl rfl rfl rfl | split | dsimp only | decide

theorem State.startGroup_beat (h : s0.Beat s) {g : Group} : s0.Beat (State.startGroup s g) := by
  unfold State.startGroup
  try dsimp only
  repeat' first | with_reducible assumption | with_reducible rfl | decide | with_reducible exact Port.setCls_opened _ _ _ | with_reducible exact Port.foldl_setCls_opened _ _ _ | intro _ | with_reducible apply State.bump_beat | with_reducible apply State.mapUnit_beat | with_reducible apply State.mapResult_beat | with_reducible apply beat_ite | with_reducible apply beat_foldl | fail_if_no_progress with_reducible refine beat_mk ?_ rfl rfl rfl rfl rfl rfl | split | dsimp only | decide

theorem State.startGroups_beat (h : s0.Beat s) {die cluster : Nat} : s0.Beat (State.startGroups s die cluster) := by
  unfold State.startGroups
  try dsimp only
  repeat' first | with_reducible assumption | with_reducible rfl | decide | with_reducible exact Port.setCls_opened _ _ _ | with_reducible exact Port.foldl_setCls_opened _ _ _ | intro _ | with_reducible apply State.startGroup_beat | with_reducible apply beat_ite | with_reducible apply beat_foldl | split | dsimp only | decide

theorem State.pumpUnit_beat (h : s0.Beat s) {r : Result} {u : AttnUnit} : s0.Beat (State.pumpUnit s r u) := by
  unfold State.pumpUnit
  try dsimp only
  repeat' first | with_reducible assumption | with_reducible rfl | decide | with_reducible exact Port.setCls_opened _ _ _ | with_reducible exact Port.foldl_setCls_opened _ _ _ | intro _ | with_reducible apply State.waitPage_beat | with_reducible apply State.mapUnit_beat | with_reducible apply State.bump_beat | with_reducible apply State.startUnit_beat | with_reducible apply beat_ite | fail_if_no_progress with_reducible refine beat_mk ?_ rfl rfl rfl rfl rfl rfl | split | dsimp only | decide

theorem State.pump_beat (h : s0.Beat s) {die cluster : Nat} : s0.Beat (State.pump s die cluster) := by
  unfold State.pump
  try dsimp only
  repeat' first | with_reducible assumption | with_reducible rfl | decide | with_reducible exact Port.setCls_opened _ _ _ | with_reducible exact Port.foldl_setCls_opened _ _ _ | intro _ | with_reducible apply State.pumpUnit_beat | with_reducible apply State.startGroups_beat | with_reducible apply beat_ite | with_reducible apply beat_foldl | split | dsimp only | decide

theorem State.startMove_beat (h : s0.Beat s) {die : Nat} {u : UnitRef} {i : UnitInfo} {dst : Nat} {quota paced : Bool} {wake : Option Nat} : s0.Beat (State.startMove s die u i dst quota paced wake) := by
  unfold State.startMove
  try dsimp only
  repeat' first | with_reducible assumption | with_reducible rfl | decide | with_reducible exact Port.setCls_opened _ _ _ | with_reducible exact Port.foldl_setCls_opened _ _ _ | with_reducible exact somep_none | with_reducible apply somep_some | with_reducible apply State.place_beat | with_reducible apply State.nextFree_beat | with_reducible apply State.alloc_beat | with_reducible apply beat_ite | fail_if_no_progress with_reducible refine beat_mk ?_ rfl rfl rfl rfl rfl rfl | refine somep_of (P := s0.Beat) (by assumption) ?_ | split | dsimp only | decide

theorem State.promotingTest_beat (h : s0.Beat s) {slot : Nat} : s0.Beat (State.promotingTest s slot) := by
  unfold State.promotingTest
  try dsimp only
  repeat' first | with_reducible assumption | with_reducible rfl | decide | with_reducible exact Port.setCls_opened _ _ _ | with_reducible exact Port.foldl_setCls_opened _ _ _ | intro _ | with_reducible apply State.setSess_beat | with_reducible apply beat_ite | fail_if_no_progress with_reducible refine beat_mk ?_ rfl rfl rfl rfl rfl rfl | split | dsimp only | decide

theorem State.startPromo_beat (h : s0.Beat s) {die : Nat} : s0.Beat (State.startPromo s die) := by
  unfold State.startPromo
  try dsimp only
  repeat' first | with_reducible assumption | with_reducible rfl | decide | with_reducible exact Port.setCls_opened _ _ _ | with_reducible exact Port.foldl_setCls_opened _ _ _ | intro _ | with_reducible apply State.promotingTest_beat | with_reducible apply State.startMove_beat | with_reducible apply beat_ite | fail_if_no_progress with_reducible refine beat_mk ?_ rfl rfl rfl rfl rfl rfl | split | dsimp only | decide

theorem State.startPromos_beat (h : s0.Beat s) {die n : Nat} : s0.Beat (State.startPromos s die n) := by
  induction n generalizing s with
  | zero => exact h
  | succ n ih => exact ih (State.startPromo_beat h)

theorem State.runPromos_beat (h : s0.Beat s) {die : Nat} : s0.Beat (State.runPromos s die) := by
  unfold State.runPromos
  try dsimp only
  repeat' first | with_reducible assumption | with_reducible rfl | decide | with_reducible exact Port.setCls_opened _ _ _ | with_reducible exact Port.foldl_setCls_opened _ _ _ | with_reducible apply State.startPromos_beat | with_reducible apply beat_ite | split | dsimp only | decide

theorem State.queuePromo_beat (h : s0.Beat s) {u : UnitRef} {wake : Option Nat} : s0.Beat (State.queuePromo s u wake) := by
  unfold State.queuePromo
  try dsimp only
  repeat' first | with_reducible assumption | with_reducible rfl | decide | with_reducible exact Port.setCls_opened _ _ _ | with_reducible exact Port.foldl_setCls_opened _ _ _ | intro _ | with_reducible apply beat_ite | fail_if_no_progress with_reducible refine beat_mk ?_ rfl rfl rfl rfl rfl rfl | split | dsimp only | decide

theorem State.firePromotion_beat (h : s0.Beat s) {slot layer : Nat} : s0.Beat (State.firePromotion s slot layer) := by
  unfold State.firePromotion
  try dsimp only
  repeat' first | with_reducible assumption | with_reducible rfl | decide | with_reducible exact Port.setCls_opened _ _ _ | with_reducible exact Port.foldl_setCls_opened _ _ _ | intro _ | with_reducible apply State.queuePromo_beat | with_reducible apply State.runPromos_beat | with_reducible apply State.promotingTest_beat | with_reducible apply beat_ite | with_reducible apply beat_foldl | fail_if_no_progress with_reducible refine beat_mk ?_ rfl rfl rfl rfl rfl rfl | with_reducible apply beat_trigs | split | dsimp only | decide

theorem State.addCopy_beat (h : s0.Beat s) {c : T0Copy} : s0.Beat (State.addCopy s c) := by
  unfold State.addCopy
  try dsimp only
  repeat' first | with_reducible assumption | with_reducible rfl | decide | with_reducible exact Port.setCls_opened _ _ _ | with_reducible exact Port.foldl_setCls_opened _ _ _ | intro _ | with_reducible apply State.alloc_beat | with_reducible apply State.bump_beat | with_reducible apply State.raiseOnce_beat | with_reducible apply beat_ite | fail_if_no_progress with_reducible refine beat_mk ?_ rfl rfl rfl rfl rfl rfl | split | dsimp only | decide

theorem State.firePrefetch_beat (h : s0.Beat s) {slot layer step : Nat} : s0.Beat (State.firePrefetch s slot layer step) := by
  unfold State.firePrefetch
  try dsimp only
  repeat' first | with_reducible assumption | with_reducible rfl | decide | with_reducible exact Port.setCls_opened _ _ _ | with_reducible exact Port.foldl_setCls_opened _ _ _ | intro _ | with_reducible apply State.addCopy_beat | with_reducible apply beat_ite | with_reducible apply beat_foldl | fail_if_no_progress with_reducible refine beat_mk ?_ rfl rfl rfl rfl rfl rfl | with_reducible apply beat_trigs | split | dsimp only | decide

theorem State.releaseCopies_beat (h : s0.Beat s) {die : Nat} : s0.Beat (State.releaseCopies s die) := by
  unfold State.releaseCopies
  try dsimp only
  repeat' first | with_reducible assumption | with_reducible rfl | decide | with_reducible exact Port.setCls_opened _ _ _ | with_reducible exact Port.foldl_setCls_opened _ _ _ | intro _ | with_reducible apply State.dealloc_beat | with_reducible apply beat_ite | with_reducible apply beat_foldl | fail_if_no_progress with_reducible refine beat_mk ?_ rfl rfl rfl rfl rfl rfl | split | dsimp only | decide

theorem State.countLate_beat (h : s0.Beat s) {die step layer : Nat} : s0.Beat (State.countLate s die step layer) := by
  unfold State.countLate
  try dsimp only
  repeat' first | with_reducible assumption | with_reducible rfl | decide | with_reducible exact Port.setCls_opened _ _ _ | with_reducible exact Port.foldl_setCls_opened _ _ _ | intro _ | with_reducible apply State.bump_beat | with_reducible apply beat_ite | fail_if_no_progress with_reducible refine beat_mk ?_ rfl rfl rfl rfl rfl rfl | split | dsimp only | decide

theorem State.fireTrig_beat (h : s0.Beat s) {x : Trig} : s0.Beat (State.fireTrig s x) := by
  unfold State.fireTrig
  try dsimp only
  repeat' first | with_reducible assumption | with_reducible rfl | decide | with_reducible exact Port.setCls_opened _ _ _ | with_reducible exact Port.foldl_setCls_opened _ _ _ | with_reducible apply State.firePrefetch_beat | with_reducible apply State.firePromotion_beat | with_reducible apply beat_ite | split | dsimp only | decide

theorem State.mapPins_beat (h : s0.Beat s) {l : List (Nat × Nat × Nat)} {f : Nat → Nat} : s0.Beat (State.mapPins s l f) := by
  unfold State.mapPins
  try dsimp only
  repeat' first | with_reducible assumption | with_reducible rfl | decide | with_reducible exact Port.setCls_opened _ _ _ | with_reducible exact Port.foldl_setCls_opened _ _ _ | intro _ | with_reducible apply State.settleSeg_beat | with_reducible apply beat_ite | with_reducible apply beat_foldl | fail_if_no_progress with_reducible refine beat_mk ?_ rfl rfl rfl rfl rfl rfl | split | dsimp only | decide

theorem State.discard_beat (h : s0.Beat s) {id : Nat} : s0.Beat (State.discard s id) := by
  unfold State.discard
  try dsimp only
  repeat' first | with_reducible assumption | with_reducible rfl | decide | with_reducible exact Port.setCls_opened _ _ _ | with_reducible exact Port.foldl_setCls_opened _ _ _ | intro _ | with_reducible apply State.mapPins_beat | with_reducible apply beat_ite | fail_if_no_progress with_reducible refine beat_mk ?_ rfl rfl rfl rfl rfl rfl | split | dsimp only | decide

theorem State.failCkpt_beat (h : s0.Beat s) {cause addr : Nat} : s0.Beat (State.failCkpt s cause addr) := by
  unfold State.failCkpt
  try dsimp only
  repeat' first | with_reducible assumption | with_reducible rfl | decide | with_reducible exact Port.setCls_opened _ _ _ | with_reducible exact Port.foldl_setCls_opened _ _ _ | with_reducible apply State.discard_beat | with_reducible apply State.setFld_beat | with_reducible apply State.setReg_beat | with_reducible apply State.bump_beat | with_reducible apply State.raise_beat | with_reducible apply beat_ite | fail_if_no_progress with_reducible refine beat_mk ?_ rfl rfl rfl rfl rfl rfl | split | dsimp only | decide

theorem State.putHead_beat (h0 : s0.Beat s) {h : ShardHdr} : s0.Beat (State.putHead s h) := by
  unfold State.putHead
  try dsimp only
  repeat' first | with_reducible assumption | with_reducible rfl | decide | with_reducible exact Port.setCls_opened _ _ _ | with_reducible exact Port.foldl_setCls_opened _ _ _ | intro _ | with_reducible apply beat_ite | fail_if_no_progress with_reducible refine beat_mk ?_ rfl rfl rfl rfl rfl rfl | split | dsimp only | decide

theorem State.startRec_beat (h : s0.Beat s) {id : Nat} : s0.Beat (State.startRec s id) := by
  unfold State.startRec
  try dsimp only
  repeat' first | with_reducible assumption | with_reducible rfl | decide | with_reducible exact Port.setCls_opened _ _ _ | with_reducible exact Port.foldl_setCls_opened _ _ _ | intro _ | with_reducible apply State.setFld_beat | with_reducible apply State.setReg_beat | with_reducible apply beat_ite | fail_if_no_progress with_reducible refine beat_mk ?_ rfl rfl rfl rfl rfl rfl | split | dsimp only | decide

theorem State.cut_beat (h : s0.Beat s) {kind trigger : Nat} : s0.Beat (State.cut s kind trigger) := by
  unfold State.cut
  try dsimp only
  repeat' first | with_reducible assumption | with_reducible rfl | decide | with_reducible exact Port.setCls_opened _ _ _ | with_reducible exact Port.foldl_setCls_opened _ _ _ | intro _ | with_reducible apply State.mapPins_beat | with_reducible apply State.putHead_beat | with_reducible apply State.discard_beat | with_reducible apply State.setFld_beat | with_reducible apply State.setReg_beat | with_reducible apply State.nextFree_beat | with_reducible apply State.startRec_beat | with_reducible apply State.raise_beat | with_reducible apply beat_ite | with_reducible apply beat_foldl | fail_if_no_progress with_reducible refine beat_mk ?_ rfl rfl rfl rfl rfl rfl | split | dsimp only | decide

theorem State.planCkpt_beat (h : s0.Beat s) {kind trigger : Nat} : s0.Beat (State.planCkpt s kind trigger) := by
  unfold State.planCkpt
  try dsimp only
  repeat' first | with_reducible assumption | with_reducible rfl | decide | with_reducible exact Port.setCls_opened _ _ _ | with_reducible exact Port.foldl_setCls_opened _ _ _ | with_reducible apply State.setFld_beat | with_reducible apply State.cut_beat | with_reducible apply beat_ite | fail_if_no_progress with_reducible refine beat_mk ?_ rfl rfl rfl rfl rfl rfl | split | dsimp only | decide

theorem State.cutDue_beat (h : s0.Beat s) : s0.Beat (State.cutDue s) := by
  unfold State.cutDue
  try dsimp only
  repeat' first | with_reducible assumption | with_reducible rfl | decide | with_reducible exact Port.setCls_opened _ _ _ | with_reducible exact Port.foldl_setCls_opened _ _ _ | with_reducible apply State.cut_beat | with_reducible apply beat_ite | fail_if_no_progress with_reducible refine beat_mk ?_ rfl rfl rfl rfl rfl rfl | split | dsimp only | decide

theorem State.ckptTick_beat (h : s0.Beat s) {step : Nat} : s0.Beat (State.ckptTick s step) := by
  unfold State.ckptTick
  try dsimp only
  repeat' first | with_reducible assumption | with_reducible rfl | decide | with_reducible exact Port.setCls_opened _ _ _ | with_reducible exact Port.foldl_setCls_opened _ _ _ | with_reducible apply State.bump_beat | with_reducible apply State.raise_beat | with_reducible apply State.cut_beat | with_reducible apply beat_ite | split | dsimp only | decide

theorem State.remap_beat (h : s0.Beat s) {die cluster : Nat} : s0.Beat (State.remap s die cluster) := by
  unfold State.remap
  try dsimp only
  repeat' first | with_reducible assumption | with_reducible rfl | decide | with_reducible exact Port.setCls_opened _ _ _ | with_reducible exact Port.foldl_setCls_opened _ _ _ | with_reducible apply State.setFld_beat | with_reducible apply State.raise_beat | with_reducible apply State.pump_beat | with_reducible apply beat_ite | fail_if_no_progress with_reducible refine beat_mk ?_ rfl rfl rfl rfl rfl rfl | split | dsimp only | decide

theorem State.remapAll_beat (h : s0.Beat s) : s0.Beat (State.remapAll s) := by
  unfold State.remapAll
  try dsimp only
  repeat' first | with_reducible assumption | with_reducible rfl | decide | with_reducible exact Port.setCls_opened _ _ _ | with_reducible exact Port.foldl_setCls_opened _ _ _ | intro _ | with_reducible apply State.remap_beat | with_reducible apply beat_ite | with_reducible apply beat_foldl | split | dsimp only | decide

theorem State.remapIdle_beat (h : s0.Beat s) : s0.Beat (State.remapIdle s) := by
  unfold State.remapIdle
  try dsimp only
  repeat' first | with_reducible assumption | with_reducible rfl | decide | with_reducible exact Port.setCls_opened _ _ _ | with_reducible exact Port.foldl_setCls_opened _ _ _ | intro _ | with_reducible apply State.remap_beat | with_reducible apply beat_ite | with_reducible apply beat_foldl | split | dsimp only | decide

theorem State.vreq_beat (h : s0.Beat s) {q : VReq} : s0.Beat (State.vreq s q) := by
  unfold State.vreq
  try dsimp only
  repeat' first | with_reducible assumption | with_reducible rfl | decide | with_reducible exact Port.setCls_opened _ _ _ | with_reducible exact Port.foldl_setCls_opened _ _ _ | with_reducible apply State.setFld_beat | with_reducible apply State.ibi_beat | with_reducible apply beat_ite | split | dsimp only | decide

theorem State.setPlan_beat (h : s0.Beat s) {p : Option Plan} : s0.Beat (State.setPlan s p) := by
  unfold State.setPlan
  try dsimp only
  repeat' first | with_reducible assumption | with_reducible rfl | decide | with_reducible exact Port.setCls_opened _ _ _ | with_reducible exact Port.foldl_setCls_opened _ _ _ | with_reducible apply beat_ite | fail_if_no_progress with_reducible refine beat_mk ?_ rfl rfl rfl rfl rfl rfl | split | dsimp only | decide

theorem State.endPlan_beat (h : s0.Beat s) {p : Plan} : s0.Beat (State.endPlan s p) := by
  unfold State.endPlan
  try dsimp only
  repeat' first | with_reducible assumption | with_reducible rfl | decide | with_reducible exact Port.setCls_opened _ _ _ | with_reducible exact Port.foldl_setCls_opened _ _ _ | with_reducible apply State.setPlan_beat | with_reducible apply State.setFld_beat | with_reducible apply State.raise_beat | with_reducible apply beat_ite | split | dsimp only | decide

theorem State.clockPlan_beat (h : s0.Beat s) {p : Plan} : s0.Beat (State.clockPlan s p) := by
  unfold State.clockPlan
  try dsimp only
  repeat' first | with_reducible assumption | with_reducible rfl | decide | with_reducible exact Port.setCls_opened _ _ _ | with_reducible exact Port.foldl_setCls_opened _ _ _ | with_reducible apply State.setFld_beat | with_reducible apply State.endPlan_beat | with_reducible apply State.setPlan_beat | with_reducible apply State.vreq_beat | with_reducible apply beat_ite | fail_if_no_progress with_reducible refine beat_mk ?_ rfl rfl rfl rfl rfl rfl | split | dsimp only | decide

theorem State.nextReq_beat (h : s0.Beat s) {p : Plan} {reqs : List VReq} : s0.Beat (State.nextReq s p reqs) := by
  unfold State.nextReq
  try dsimp only
  repeat' first | with_reducible assumption | with_reducible rfl | decide | with_reducible exact Port.setCls_opened _ _ _ | with_reducible exact Port.foldl_setCls_opened _ _ _ | with_reducible apply State.setPlan_beat | with_reducible apply State.vreq_beat | with_reducible apply State.endPlan_beat | with_reducible apply State.clockPlan_beat | with_reducible apply beat_ite | fail_if_no_progress with_reducible refine beat_mk ?_ rfl rfl rfl rfl rfl rfl | split | dsimp only | decide

theorem State.beginPlan_beat (h : s0.Beat s) : s0.Beat (State.beginPlan s) := by
  unfold State.beginPlan
  try dsimp only
  repeat' first | with_reducible assumption | with_reducible rfl | decide | with_reducible exact Port.setCls_opened _ _ _ | with_reducible exact Port.foldl_setCls_opened _ _ _ | with_reducible apply State.setFld_beat | with_reducible apply State.nextReq_beat | with_reducible apply beat_ite | fail_if_no_progress with_reducible refine beat_mk ?_ rfl rfl rfl rfl rfl rfl | split | dsimp only | decide

theorem State.addHeld_beat (h : s0.Beat s) {slot : Nat} : s0.Beat (State.addHeld s slot) := by
  unfold State.addHeld
  try dsimp only
  repeat' first | with_reducible assumption | with_reducible rfl | decide | with_reducible exact Port.setCls_opened _ _ _ | with_reducible exact Port.foldl_setCls_opened _ _ _ | with_reducible apply beat_ite | fail_if_no_progress with_reducible refine beat_mk ?_ rfl rfl rfl rfl rfl rfl | split | dsimp only | decide

theorem State.sesEvent_beat (h : s0.Beat s) {slot sub : Nat} {alert : Bool} {a1 a2 a3 : Nat} : s0.Beat (State.sesEvent s slot sub alert a1 a2 a3) := by
  unfold State.sesEvent
  try dsimp only
  repeat' first | with_reducible assumption | with_reducible rfl | decide | with_reducible exact Port.setCls_opened _ _ _ | with_reducible exact Port.foldl_setCls_opened _ _ _ | with_reducible apply State.raise_beat | with_reducible apply beat_ite | split | dsimp only | decide

theorem State.expire_beat (h : s0.Beat s) {slot : Nat} : s0.Beat (State.expire s slot) := by
  unfold State.expire
  try dsimp only
  repeat' first | with_reducible assumption | with_reducible rfl | decide | with_reducible exact Port.setCls_opened _ _ _ | with_reducible exact Port.foldl_setCls_opened _ _ _ | with_reducible apply State.setSess_beat | with_reducible apply State.endEpoch_beat | with_reducible apply State.addHeld_beat | with_reducible apply State.bump_beat | with_reducible apply State.sesEvent_beat | with_reducible apply beat_ite | fail_if_no_progress with_reducible refine beat_mk ?_ rfl rfl rfl rfl rfl rfl | split | dsimp only | decide

theorem State.expireAll_beat (h : s0.Beat s) : s0.Beat (State.expireAll s) := by
  unfold State.expireAll
  try dsimp only
  repeat' first | with_reducible assumption | with_reducible rfl | decide | with_reducible exact Port.setCls_opened _ _ _ | with_reducible exact Port.foldl_setCls_opened _ _ _ | intro _ | with_reducible apply State.expire_beat | with_reducible apply beat_ite | with_reducible apply beat_foldl | split | dsimp only | decide

theorem State.pickAll_beat (h : s0.Beat s) : s0.Beat (State.pickAll s) := by
  unfold State.pickAll
  try dsimp only
  repeat' first | with_reducible assumption | with_reducible rfl | decide | with_reducible exact Port.setCls_opened _ _ _ | with_reducible exact Port.foldl_setCls_opened _ _ _ | intro _ | with_reducible apply State.pick_beat | with_reducible apply beat_ite | with_reducible apply beat_foldl | split | dsimp only | decide

theorem State.pumpAll_beat (h : s0.Beat s) : s0.Beat (State.pumpAll s) := by
  unfold State.pumpAll
  try dsimp only
  repeat' first | with_reducible assumption | with_reducible rfl | decide | with_reducible exact Port.setCls_opened _ _ _ | with_reducible exact Port.foldl_setCls_opened _ _ _ | intro _ | with_reducible apply State.pump_beat | with_reducible apply State.runPromos_beat | with_reducible apply beat_ite | with_reducible apply beat_foldl | split | dsimp only | decide

theorem State.overrun_beat (h : s0.Beat s) {p : Nat} {was : List Nat} : s0.Beat (State.overrun s p was) := by
  unfold State.overrun
  try dsimp only
  repeat' first | with_reducible assumption | with_reducible rfl | decide | with_reducible exact Port.setCls_opened _ _ _ | with_reducible exact Port.foldl_setCls_opened _ _ _ | with_reducible apply State.bump_beat | with_reducible apply State.setPort_beat | with_reducible apply State.raise_beat | with_reducible apply beat_ite | fail_if_no_progress with_reducible refine beat_mk ?_ rfl rfl rfl rfl rfl rfl | split | dsimp only | decide

theorem State.markOver_beat (h : s0.Beat s) : s0.Beat (State.markOver s) := by
  unfold State.markOver
  try dsimp only
  repeat' first | with_reducible assumption | with_reducible rfl | decide | with_reducible exact Port.setCls_opened _ _ _ | with_reducible exact Port.foldl_setCls_opened _ _ _ | intro _ | with_reducible apply beat_ite | fail_if_no_progress with_reducible refine beat_mk ?_ rfl rfl rfl rfl rfl rfl | split | dsimp only | decide

theorem State.dropOldSteps_beat (h : s0.Beat s) : s0.Beat (State.dropOldSteps s) := by
  unfold State.dropOldSteps
  try dsimp only
  repeat' first | with_reducible assumption | with_reducible rfl | decide | with_reducible exact Port.setCls_opened _ _ _ | with_reducible exact Port.foldl_setCls_opened _ _ _ | intro _ | with_reducible apply beat_ite | fail_if_no_progress with_reducible refine beat_mk ?_ rfl rfl rfl rfl rfl rfl | split | dsimp only | decide

theorem State.retire_beat (h : s0.Beat s) {die cluster : Nat} {bank : Bool} {x : Nat} : s0.Beat (State.retire s die cluster bank x) := by
  unfold State.retire
  try dsimp only
  repeat' first | with_reducible assumption | with_reducible rfl | decide | with_reducible exact Port.setCls_opened _ _ _ | with_reducible exact Port.foldl_setCls_opened _ _ _ | with_reducible apply State.setPoolFree_beat | with_reducible apply State.setFld_beat | with_reducible apply State.evictTest_beat | with_reducible apply beat_ite | fail_if_no_progress with_reducible refine beat_mk ?_ rfl rfl rfl rfl rfl rfl | split | dsimp only | decide

end Sys2Proof.Machine
end

