-- ==== Sys2Proof/Laws/Tick.lean ====
section
/-! SUPPORT. What the firing of triggers leaves alone: the tracker but for LEARNING turning LOCKED, the registers of position but for the
leads and the boundary count; and no trigger of a waking session is added. -/

namespace Sys2Proof.Machine

/-- Registers of die 0 that no trigger changes. -/
def tickRegs : List RegId :=
  [Reg.BCN_CTRL, Reg.BCN_INIT, Reg.BCN_FETCH, Reg.BCN_LIMITS, Reg.BCN_TIMEOUT, Reg.BCN_LAST_POS, Reg.CK_CTRL]

/-- `b` follows `a` by the firing of triggers. -/
structure State.Ticked (a b : State) : Prop where
  now : b.now = a.now
  start : b.start = a.start
  bcn : ∀ k, { b.bcn with trk := k } = { a.bcn with trk := k }
  trk : b.bcn.trk = a.bcn.trk ∨ a.bcn.trk = .learning ∧ 256 ≤ a.bcn.periods.length ∧ b.bcn.trk = .locked
  trigs : ∀ x ∈ b.tier.trigs, x ∈ a.tier.trigs
  reg : ∀ r ∈ tickRegs, b.reg 0 0 r = a.reg 0 0 r

variable {s0 s t : State}

/-- Any part of the tracker but its state stands. -/
theorem State.Ticked.bcnPart (h : s0.Ticked s) {α : Type} (f : Beacon → α) (hf : ∀ b k, f { b with trk := k } = f b) :
    f s.bcn = f s0.bcn := by
  rw [← hf s.bcn .lost, ← hf s0.bcn .lost]
  exact congrArg f (h.bcn .lost)

theorem ticked_refl (s : State) : s.Ticked s := ⟨rfl, rfl, fun _ => rfl, .inl rfl, fun _ h => h, fun _ _ => rfl⟩

theorem ticked_trans (h : s0.Ticked s) (h' : s.Ticked t) : s0.Ticked t := by
  refine ⟨h'.now.trans h.now, h'.start.trans h.start, fun k => (h'.bcn k).trans (h.bcn k), ?_, fun x hx => h.trigs x (h'.trigs x hx),
    fun r hr => (h'.reg r hr).trans (h.reg r hr)⟩
  have hp : s.bcn.periods = s0.bcn.periods := by
    have e := congrArg Beacon.periods (h.bcn .lost)
    exact e
  rcases h.trk with e | ⟨e, n, e'⟩ <;> rcases h'.trk with d | ⟨d, m, d'⟩
  · exact .inl (d.trans e)
  · exact .inr ⟨e ▸ d, hp ▸ m, d'⟩
  · exact .inr ⟨e, n, d.trans e'⟩
  · rw [e'] at d
    cases d

theorem tickRegs_beat {r : RegId} (h : r ∈ tickRegs) : r ∈ beatRegs := by
  revert h
  simp only [tickRegs, beatRegs, List.mem_cons, List.not_mem_nil, or_false]
  tauto

theorem ticked_beat (h : s0.Ticked s) (h' : s.Beat t) : s0.Ticked t :=
  ticked_trans h ⟨h'.now, h'.start, fun k => by rw [h'.bcn], .inl (by rw [h'.bcn]), h'.trigs, fun r hr => h'.reg r (tickRegs_beat hr)⟩

theorem ticked_mk (h : s0.Ticked s) {now : Nat} {pending : List Instr} {free : Nat} {regs : List (RegKey × Word)} {bcn : Beacon}
    {ev : Events} {ses : Sessions} {kv : Kv} {attn : Attn} {grams : List ((Nat × Nat) × Gram)} {net : Net} {lamp : Lamp}
    {tier : Tier} {start : Start} {flash : Flash} {ident : Ident} {ckpt : Ckpt} {health : Health} {rp : Replay} {pins : Pins}
    (e2 : now = s.now) (e4 : regs = s.regs) (e5 : bcn = s.bcn) (e9 : tier.trigs = s.tier.trigs) (e10 : start = s.start) :
    s0.Ticked ⟨now, pending, free, regs, bcn, ev, ses, kv, attn, grams, net, lamp, tier, start, flash, ident, ckpt, health, rp,
      pins⟩ :=
  ticked_trans h ⟨e2, e10, fun k => by dsimp only; rw [e5], .inl (by rw [e5]), fun x hx => by rw [e9] at hx; exact hx,
    fun r _ => by unfold State.reg; rw [e4]⟩

theorem State.setReg_ticked (h : s0.Ticked s) {die sel : Nat} {r : RegId} {w : Word} (hr : r ∉ tickRegs) :
    s0.Ticked (s.setReg die sel r w) :=
  ticked_trans h ⟨rfl, rfl, fun _ => rfl, .inl rfl, fun _ h => h, fun x hx => by
    unfold State.reg State.setReg
    refine regGet_regSet_ne (fun e => hr ?_) _ _
    cases r
    cases x
    cases e
    exact hx⟩

theorem State.setFld_ticked (h : s0.Ticked s) {die sel : Nat} {f : Field} {v : Nat} (hf : f.reg ∉ tickRegs) :
    s0.Ticked (s.setFld die sel f v) := State.setReg_ticked h hf

theorem ticked_ite {c : Prop} [Decidable c] (h : s0.Ticked s) (h' : s0.Ticked t) : s0.Ticked (if c then s else t) := by
  split
  · exact h
  · exact h'

theorem ticked_foldl {α : Type} {f : State → α → State} (hf : ∀ s x, s0.Ticked s → s0.Ticked (f s x)) (l : List α)
    (h : s0.Ticked s) : s0.Ticked (l.foldl f s) := by
  induction l generalizing s with
  | nil => exact h
  | cons x l ih => exact ih (hf s x h)

/-- `b` follows `a` by triggers with a position of their own: the tracker and the registers of position stand. -/
structure State.Span (a b : State) : Prop where
  now : b.now = a.now
  start : b.start = a.start
  bcn : b.bcn = a.bcn
  trigs : ∀ x ∈ b.tier.trigs, x ∈ a.tier.trigs
  reg : ∀ r ∈ beatRegs, b.reg 0 0 r = a.reg 0 0 r

theorem span_refl (s : State) : s.Span s := ⟨rfl, rfl, rfl, fun _ h => h, fun _ _ => rfl⟩

theorem span_trans (h : s0.Span s) (h' : s.Span t) : s0.Span t :=
  ⟨h'.now.trans h.now, h'.start.trans h.start, h'.bcn.trans h.bcn, fun x hx => h.trigs x (h'.trigs x hx),
   fun r hr => (h'.reg r hr).trans (h.reg r hr)⟩

theorem span_beat (h : s0.Span s) (h' : s.Beat t) : s0.Span t :=
  span_trans h ⟨h'.now, h'.start, h'.bcn, h'.trigs, h'.reg⟩

theorem State.Span.est (h : s0.Span s) : s.est = s0.est := by
  unfold State.est
  rw [h.bcn, h.now]

theorem State.setReg_span (h : s0.Span s) {die sel : Nat} {r : RegId} {w : Word} (hr : r ∉ beatRegs) :
    s0.Span (s.setReg die sel r w) := span_beat h (State.setReg_beat (beat_refl s) hr)
theorem State.setFld_span (h : s0.Span s) {die sel : Nat} {f : Field} {v : Nat} (hf : f.reg ∉ beatRegs) :
    s0.Span (s.setFld die sel f v) := State.setReg_span h hf
theorem State.setPort_span (h : s0.Span s) {p : Nat} {v : Port} : s0.Span (s.setPort p v) :=
  span_trans h ⟨rfl, rfl, rfl, fun _ h => h, fun _ _ => rfl⟩
theorem span_ite {c : Prop} [Decidable c] (h : s0.Span s) (h' : s0.Span t) : s0.Span (if c then s else t) := by
  split
  · exact h
  · exact h'
theorem span_foldl {α : Type} {f : State → α → State} (hf : ∀ s x, s0.Span s → s0.Span (f s x)) (l : List α)
    (h : s0.Span s) : s0.Span (l.foldl f s) := by
  induction l generalizing s with
  | nil => exact h
  | cons x l ih => exact ih (hf s x h)

/-- The window that is full and steady locks the tracker; nothing else of it changes. -/
theorem State.lockTest_ticked (h : s0.Ticked s) : s0.Ticked s.lockTest := by
  unfold State.lockTest
  split
  · rename_i c
    exact ticked_trans h ⟨rfl, rfl, fun _ => rfl, .inr ⟨c.1, c.2.1, rfl⟩, fun _ h => h, fun _ _ => rfl⟩
  · exact h

theorem State.newLeads_ticked (h : s0.Ticked s) : s0.Ticked s.newLeads := by
  unfold State.newLeads
  dsimp only
  repeat' first | assumption | decide | apply State.setFld_ticked

theorem State.bookkeep_ticked (h : s0.Ticked s) : s0.Ticked s.bookkeep := by
  unfold State.bookkeep
  extract_lets s1 s2 s3 s4 s5 s6 s7 x8 s8 x9 s9 s10
  have h3 : s0.Ticked s3 := State.setFld_ticked (ticked_beat (ticked_beat h (State.remapAll_beat (beat_refl _)))
    (State.endLimitStep_beat (beat_refl _))) (by decide)
  have h5 : s0.Ticked s5 := ticked_beat (State.setFld_ticked h3 (by decide)) (State.expireAll_beat (beat_refl _))
  have h6 : s0.Ticked s6 := State.newLeads_ticked (State.lockTest_ticked h5)
  have h7 : s0.Ticked s7 := ticked_beat (ticked_beat (ticked_beat h6 (State.markOver_beat (beat_refl _)))
    (State.releaseDue_beat (beat_refl _))) (State.dropOldSteps_beat (beat_refl _))
  have h8 : s0.Ticked s8 := ticked_mk h7 rfl rfl rfl rfl rfl
  have h9 : s0.Ticked s9 := ticked_ite (State.setFld_ticked (ticked_mk h8 rfl rfl rfl rfl rfl) (by decide)) h8
  have h10 : s0.Ticked s10 := ticked_beat h9 (State.beginPlan_beat (beat_refl _))
  exact ticked_beat h10 (State.evictTest_beat (State.evictTest_beat (State.evictTest_beat (State.evictTest_beat (beat_refl _)))))

theorem State.openGate_span (h : s0.Span s) {p i y : Nat} : s0.Span (s.openGate p i y) := by
  unfold State.openGate
  extract_lets was s1 x2 s2
  have h2 : s0.Span s2 := span_beat (State.setPort_span (span_beat h (State.settle_beat (beat_refl _))))
    (State.overrun_beat (beat_refl _))
  exact span_ite h (span_ite (span_beat h2 (State.carry_beat (beat_refl _))) h2)

theorem State.closeGate_span (h : s0.Span s) {p i y : Nat} : s0.Span (s.closeGate p i y) := by
  unfold State.closeGate
  extract_lets was s1 x2 s2
  have h2 : s0.Span s2 := span_beat (State.setPort_span (span_beat h (State.settle_beat (beat_refl _))))
    (State.overrun_beat (beat_refl _))
  exact span_ite (span_ite (span_beat h2 (State.countSplit_beat (State.missClose_beat (beat_refl _)))) h2) h

theorem State.swapGates_span (h : s0.Span s) {p : Nat} : s0.Span (s.swapGates p) := by
  unfold State.swapGates
  extract_lets d s1 s2 s3 s4 s5
  have h1 : s0.Span s1 := span_foldl (fun _ _ h => State.closeGate_span h) _ h
  have h2 : s0.Span s2 := span_foldl (fun _ _ h => State.setReg_span h (by decide)) _ h1
  have h5 : s0.Span s5 := State.setFld_span (State.setFld_span (State.setFld_span h2 (by decide)) (by decide)) (by decide)
  exact span_ite (span_beat (State.setPort_span h5) (State.raise_beat (beat_refl _))) h

theorem State.withdrawAll_span (h : s0.Span s) : s0.Span s.withdrawAll := by
  unfold State.withdrawAll
  refine span_foldl (fun s p h => ?_) _ h
  extract_lets out s1 s2
  have h1 : s0.Span s1 := span_foldl (fun _ _ h => span_beat h (State.mapResult_beat (State.unqueue_beat (beat_refl _)))) _ h
  have h2 : s0.Span s2 := span_beat h1 (State.bumpBy_beat (beat_refl _) (by decide))
  exact span_beat (State.setPort_span h2) (State.pick_beat (beat_refl _))

theorem State.fireEv_span (h : s0.Span s) (e : TrigEv) : s0.Span (s.fireEv e) := by
  cases e with
  | close p i y => exact State.closeGate_span h
  | open_ p i y => exact State.openGate_span h
  | wake x => exact span_ite (span_beat h (State.fireTrig_beat (beat_refl _))) h
  | pf slot x => exact span_beat h (State.firePrefetch_beat (beat_refl _))

theorem State.fireSpan_span (h : s0.Span s) {a b now : Nat} : s0.Span (s.fireSpan a b now) := by
  unfold State.fireSpan
  exact span_trans (span_foldl (fun _ e h => State.fireEv_span h e.2) _ h) ⟨rfl, rfl, rfl, fun _ h => h, fun _ _ => rfl⟩

theorem ticked_span (h : s0.Ticked s) (h' : s.Span t) : s0.Ticked t :=
  ticked_trans h ⟨h'.now, h'.start, fun k => by rw [h'.bcn], .inl (by rw [h'.bcn]), h'.trigs, fun r hr => h'.reg r (tickRegs_beat hr)⟩

theorem State.swapGates_ticked (h : s0.Ticked s) {p : Nat} : s0.Ticked (s.swapGates p) :=
  ticked_span h (State.swapGates_span (span_refl _))
theorem State.fireSpan_ticked (h : s0.Ticked s) {a b now : Nat} : s0.Ticked (s.fireSpan a b now) :=
  ticked_span h (State.fireSpan_span (span_refl _))

theorem State.boundaryAt_ticked (h : s0.Ticked s) {l : List Nat} : s0.Ticked (s.boundaryAt l) := by
  unfold State.boundaryAt
  extract_lets s1 n s2
  have h2 : s0.Ticked s2 := by
    unfold s2
    split
    · exact ticked_beat (State.bookkeep_ticked h) (State.ckptTick_beat (beat_refl _))
    · exact State.bookkeep_ticked h
  exact ticked_foldl (fun _ _ h => State.swapGates_ticked h) _ h2

theorem State.walkBoundaries_ticked (h : s0.Ticked s) {now : Nat} {l : List Nat} {a : Nat} : s0.Ticked (s.walkBoundaries now l a) := by
  induction l generalizing s a with
  | nil => exact State.fireSpan_ticked h
  | cons x l ih => exact ih (State.boundaryAt_ticked (ticked_ite (State.fireSpan_ticked h) h))

theorem firePromotion_kept (s : State) (slot layer : Nat) :
    { s with tier := { s.tier with trigs := s.tier.trigs.filter (fun (x : Trig) => !(x.slot == slot && x.layer == layer && !x.prefetch)) } }.Beat
      (s.firePromotion slot layer) := by
  unfold State.firePromotion
  exact State.promotingTest_beat (State.runPromos_beat (beat_foldl (fun _ _ h => State.queuePromo_beat h) _ (beat_refl _)))

theorem firePrefetch_kept (s : State) (slot layer step : Nat) :
    { s with tier := { s.tier with trigs := s.tier.trigs.filter (fun (x : Trig) =>
      !(x.slot == slot && x.layer == layer && x.step == step && x.prefetch)) } }.Beat (s.firePrefetch slot layer step) := by
  unfold State.firePrefetch
  extract_lets t1 s1
  have h1 : s1.Beat s1 := beat_refl _
  change s1.Beat _
  clear_value s1
  split
  · exact h1
  · dsimp only
    repeat' first | with_reducible assumption | intro _ | with_reducible apply State.addCopy_beat | with_reducible apply beat_ite | with_reducible apply beat_foldl | split

/-- A trigger of a waking session that fires is not left. -/
theorem fireTrig_gone (s : State) (x : Trig) : x ∉ (s.fireTrig x).tier.trigs := by
  intro hx
  unfold State.fireTrig at hx
  split at hx
  · rename_i hp
    have := List.mem_filter.mp ((firePrefetch_kept s x.slot x.layer x.step).trigs x hx)
    simp [hp] at this
  · rename_i hp
    have := List.mem_filter.mp ((firePromotion_kept s x.slot x.layer).trigs x hx)
    simp [hp] at this

/-- After a list of triggers has fired, no trigger of a waking session that it names is left. -/
theorem fireEvs_gone (l : List (Nat × TrigEv)) (s : State) (x : Trig) (hx : x ∈ (l.foldl (fun s e => s.fireEv e.2) s).tier.trigs) :
    x ∈ s.tier.trigs ∧ ∀ e ∈ l, e.2 ≠ .wake x := by
  induction l generalizing s with
  | nil => exact ⟨hx, fun _ h => nomatch h⟩
  | cons e l ih =>
    obtain ⟨h1, h2⟩ := ih _ hx
    refine ⟨(State.fireEv_span (span_refl s) e.2).trigs x h1, fun y hy => ?_⟩
    rcases List.mem_cons.mp hy with rfl | hy
    · intro hw
      dsimp only at h1
      rw [hw] at h1
      unfold State.fireEv at h1
      dsimp only at h1
      split at h1
      · exact fireTrig_gone s x h1
      · rename_i hc
        exact hc (List.contains_iff_mem.mpr h1)
    · exact h2 y hy

/-- The position at which a trigger of a waking session is due (R29, R205). -/
def State.trigDue (s : State) (x : Trig) : Nat := trigAt x.target (if x.prefetch then s.lead else s.promoLead)

theorem mem_evInsert (a b : Nat × TrigEv) (l : List (Nat × TrigEv)) : b ∈ evInsert a l ↔ b = a ∨ b ∈ l := by
  induction l with
  | nil => simp [evInsert]
  | cons c l ih =>
    unfold evInsert
    split
    · simp [ih]
      tauto
    · simp

theorem mem_foldl_evInsert (l m : List (Nat × TrigEv)) (b : Nat × TrigEv) :
    b ∈ l.foldl (fun l e => evInsert e l) m ↔ b ∈ l ∨ b ∈ m := by
  induction l generalizing m with
  | nil => simp
  | cons c l ih => simp [ih, mem_evInsert]; tauto

/-- Of the triggers of waking sessions, only those that are not yet due are left. -/
theorem fireSpan_gone (s : State) (a b now : Nat) (x : Trig) (hx : x ∈ (s.fireSpan a b now).tier.trigs) : b < s.trigDue x := by
  unfold State.fireSpan at hx
  obtain ⟨h1, h2⟩ := fireEvs_gone _ s x hx
  by_contra hc
  refine h2 (max a (s.trigDue x), .wake x) ?_ rfl
  rw [mem_foldl_evInsert]
  refine .inl (List.mem_append_left _ (List.mem_append_right _ (List.mem_map.mpr ⟨x, List.mem_filter.mpr ⟨h1, ?_⟩, rfl⟩)))
  exact decide_eq_true (Nat.not_lt.mp hc)

theorem State.Beat.trigDue (h : s0.Beat s) (x : Trig) : s.trigDue x = s0.trigDue x := by
  unfold State.trigDue State.lead State.promoLead State.fld
  rw [h.reg Reg.BCN_LEAD (by decide)]

theorem State.Span.trigDue (h : s0.Span s) (x : Trig) : s.trigDue x = s0.trigDue x := by
  unfold State.trigDue State.lead State.promoLead State.fld
  rw [h.reg Reg.BCN_LEAD (by decide)]

/-- No trigger of a waking session that is due at `b` is left. -/
def State.noneDue (s : State) (b : Nat) : Prop := ∀ x ∈ s.tier.trigs, b < s.trigDue x

theorem fireSpan_noneDue (s : State) (a b now : Nat) : (s.fireSpan a b now).noneDue b := by
  intro x hx
  rw [(State.fireSpan_span (span_refl s)).trigDue]
  exact fireSpan_gone s a b now x hx

theorem walkBoundaries_noneDue (s : State) (now : Nat) (l : List Nat) (a : Nat) : (s.walkBoundaries now l a).noneDue now := by
  induction l generalizing s a with
  | nil => exact fireSpan_noneDue s a now now
  | cons x l ih => exact ih _ _

theorem beat_noneDue (h : s0.Beat s) {b : Nat} (hb : s0.noneDue b) : s.noneDue b := by
  intro x hx
  rw [h.trigDue]
  exact hb x (h.trigs x hx)

/-- Everything due fires: the tracker stands, but that LEARNING may turn LOCKED and that nothing up to the estimate is left to
fire. -/
theorem State.fireDue_fires (s : State) (jump : Bool) (hf : s.fires = true) :
    { s with bcn := { s.bcn with fired := max s.bcn.fired (s.est + 1) } }.Ticked (s.fireDue jump) ∧ (s.fireDue jump).noneDue s.est := by
  unfold State.fireDue
  extract_lets now a b1 n1 s1 steps s2 s3 s4 s5 s6
  rw [if_neg (by rw [hf]; decide)]
  have h1 : { s with bcn := { s.bcn with fired := max s.bcn.fired (s.est + 1) } }.Ticked s1 := ticked_mk (ticked_refl _) rfl rfl rfl rfl rfl
  have h2 : { s with bcn := { s.bcn with fired := max s.bcn.fired (s.est + 1) } }.Ticked s2 := by
    unfold s2
    clear_value s1
    repeat' first | with_reducible assumption | with_reducible apply State.fireSpan_ticked | with_reducible apply State.walkBoundaries_ticked | with_reducible apply State.boundaryAt_ticked | with_reducible apply ticked_ite | split
  have g2 : s2.noneDue s.est := by
    unfold s2
    clear_value s1
    repeat' first | exact fireSpan_noneDue _ _ _ _ | exact walkBoundaries_noneDue _ _ _ _ | split
  have h5 : s2.Beat s6 := State.pumpAll_beat (State.cutDue_beat (State.releaseCopies_beat
    (State.releaseCopies_beat (beat_foldl (fun _ _ h => State.countLate_beat h) _ (State.lateSweep_beat (beat_refl s2))))))
  clear_value s6
  have h6 : s6.Beat { s6 with net := { s6.net with firing := false } } := beat_mk (beat_refl s6) rfl rfl rfl rfl rfl rfl
  have h7 := beat_trans (beat_trans h5 h6) (State.formResults_beat (State.pickAll_beat (beat_refl _)))
  exact ⟨ticked_beat h2 h7, beat_noneDue h7 g2⟩

/-- While triggers do not fire, nothing fires. -/
theorem State.fireDue_idle (s : State) (jump : Bool) (hf : s.fires = false) : s.fireDue jump = s := by
  unfold State.fireDue
  simp [hf]

end Sys2Proof.Machine
end

