-- ==== Sys2Proof/Laws/Paced.lean ====
section
/-! SUPPORT. What the firing of triggers but the checkpoint tick leaves alone: the checkpoint that is planned or runs. -/

namespace Sys2Proof.Machine

/-- Registers of die 0 that decide on a checkpoint. -/
def pacedRegs : List RegId := [Reg.CK_CTRL, Reg.CK_COUNTS]

/-- Those registers, and the one that tells a replay. -/
def pacedOff : List RegId := [Reg.CK_CTRL, Reg.CK_COUNTS, Reg.RP_STATUS]

/-- `b` follows `a` with its checkpoint as it was. -/
structure State.Paced (a b : State) : Prop where
  run : b.ckpt.run = a.ckpt.run
  plan : b.ckpt.plan = a.ckpt.plan
  nextId : b.ckpt.nextId = a.ckpt.nextId
  restore : b.ckpt.restore = a.ckpt.restore
  rep : b.inReplay = a.inReplay
  reg : ∀ r ∈ pacedRegs, b.reg 0 0 r = a.reg 0 0 r

variable {s0 s t : State}

theorem paced_refl (s : State) : s.Paced s := ⟨rfl, rfl, rfl, rfl, rfl, fun _ _ => rfl⟩

theorem paced_trans (h : s0.Paced s) (h' : s.Paced t) : s0.Paced t :=
  ⟨h'.run.trans h.run, h'.plan.trans h.plan, h'.nextId.trans h.nextId, h'.restore.trans h.restore, h'.rep.trans h.rep,
   fun r hr => (h'.reg r hr).trans (h.reg r hr)⟩

theorem State.Paced.fld (h : s0.Paced s) {f : Field} (hf : f.reg ∈ pacedRegs) : s.fld 0 0 f = s0.fld 0 0 f := by
  unfold State.fld
  rw [h.reg f.reg hf]

/-- A change elsewhere. -/
theorem paced_mk (h : s0.Paced s) {now : Nat} {pending : List Instr} {free : Nat} {regs : List (RegKey × Word)} {bcn : Beacon}
    {ev : Events} {ses : Sessions} {kv : Kv} {attn : Attn} {grams : List ((Nat × Nat) × Gram)} {net : Net} {lamp : Lamp}
    {tier : Tier} {start : Start} {flash : Flash} {ident : Ident} {ckpt : Ckpt} {health : Health} {rp : Replay} {pins : Pins}
    (e4 : regs = s.regs) (e1 : ckpt.run = s.ckpt.run) (e2 : ckpt.plan = s.ckpt.plan) (e3 : ckpt.nextId = s.ckpt.nextId)
    (e5 : ckpt.restore = s.ckpt.restore) :
    s0.Paced ⟨now, pending, free, regs, bcn, ev, ses, kv, attn, grams, net, lamp, tier, start, flash, ident, ckpt, health, rp,
      pins⟩ :=
  paced_trans h ⟨e1, e2, e3, e5, by unfold State.inReplay State.replaying State.fld State.reg; rw [e4],
    fun r _ => by unfold State.reg; rw [e4]⟩

theorem pacedOff_of {r : RegId} (h : r ∈ pacedRegs) : r ∈ pacedOff := by
  revert h
  simp only [pacedRegs, pacedOff, List.mem_cons, List.not_mem_nil, or_false]
  tauto

theorem State.setReg_paced (h : s0.Paced s) {die sel : Nat} {r : RegId} {w : Word} (hr : r ∉ pacedOff) :
    s0.Paced (s.setReg die sel r w) := by
  have hk : ∀ x ∈ pacedOff, (s.setReg die sel r w).reg 0 0 x = s.reg 0 0 x := fun x hx => by
    unfold State.reg State.setReg
    refine regGet_regSet_ne (fun e => hr ?_) _ _
    cases r
    cases x
    cases e
    exact hx
  refine paced_trans h ⟨rfl, rfl, rfl, rfl, ?_, fun x hx => hk x (pacedOff_of hx)⟩
  unfold State.inReplay State.replaying State.fld
  rw [hk Reg.RP_STATUS (by decide)]

/-- A field of RP_STATUS apart from STATE. -/
theorem setStatus_paced (h : s0.Paced s) {f : Field} {v : Nat} (hf : f.reg = Reg.RP_STATUS) (h6 : f.hi < 64) (hl : f.lo ≤ f.hi)
    (hd : Fld.RP_STATUS_STATE.hi < f.lo) : s0.Paced (s.setFld 0 0 f v) := by
  refine paced_trans h ⟨rfl, rfl, rfl, rfl, ?_, fun x hx => reg_setReg_ne s _ ?_⟩
  · unfold State.inReplay State.replaying
    rw [fld_setFld_other s v h6 hl (by decide) (.inl hd)]
  · rw [hf]
    revert hx
    simp only [pacedRegs, List.mem_cons, List.not_mem_nil, or_false]
    rintro (rfl | rfl) <;> decide

theorem State.setFld_paced (h : s0.Paced s) {die sel : Nat} {f : Field} {v : Nat} (hf : f.reg ∉ pacedOff) :
    s0.Paced (s.setFld die sel f v) := State.setReg_paced h hf
theorem State.bumpBy_paced (h : s0.Paced s) {die sel : Nat} {f : Field} {n : Nat} (hf : f.reg ∉ pacedOff) :
    s0.Paced (s.bumpBy die sel f n) := State.setReg_paced h hf
theorem State.bump_paced (h : s0.Paced s) {die sel : Nat} {f : Field} (hf : f.reg ∉ pacedOff) :
    s0.Paced (s.bump die sel f) := State.setReg_paced h hf
theorem State.lower_paced (h : s0.Paced s) {die sel : Nat} {f : Field} {n : Nat} (hf : f.reg ∉ pacedOff) :
    s0.Paced (s.lower die sel f n) := State.setReg_paced h hf
theorem State.setPort_paced (h : s0.Paced s) {p : Nat} {v : Port} : s0.Paced (s.setPort p v) :=
  paced_trans h ⟨rfl, rfl, rfl, rfl, rfl, fun _ _ => rfl⟩
theorem State.setPoolFree_paced (h : s0.Paced s) {die tier g : Nat} : s0.Paced (s.setPoolFree die tier g) :=
  State.setReg_paced h (by simp [pacedOff])
theorem paced_ite {c : Prop} [Decidable c] (h : s0.Paced s) (h' : s0.Paced t) : s0.Paced (if c then s else t) := by
  split
  · exact h
  · exact h'
theorem paced_foldl {α : Type} {f : State → α → State} (hf : ∀ s x, s0.Paced s → s0.Paced (f s x)) (l : List α)
    (h : s0.Paced s) : s0.Paced (l.foldl f s) := by
  induction l generalizing s with
  | nil => exact h
  | cons x l ih => exact ih (hf s x h)

end Sys2Proof.Machine
end

