-- ==== Sys2Proof/Laws/Paceds.lean ====
section
/-! SUPPORT. The firing of triggers: each function leaves alone what `State.Paced` says. -/

namespace Sys2Proof.Machine

set_option linter.unusedTactic false
set_option linter.unreachableTactic false

variable {s0 s : State}

theorem State.nextFree_paced (h : s0.Paced s) : s0.Paced (State.nextFree s) := by
  unfold State.nextFree
  try dsimp only
  repeat' first | with_reducible assumption | with_reducible rfl | decide | with_reducible apply paced_ite | fail_if_no_progress with_reducible refine paced_mk ?_ rfl rfl rfl rfl rfl | split | dsimp only | decide

theorem State.setSess_paced (h : s0.Paced s) {slot : Nat} {r : Session} : s0.Paced (State.setSess s slot r) := by
  unfold State.setSess
  try dsimp only
  repeat' first | with_reducible assumption | with_reducible rfl | decide | with_reducible apply paced_ite | fail_if_no_progress with_reducible refine paced_mk ?_ rfl rfl rfl rfl rfl | split | dsimp only | decide

theorem State.settle_paced (h : s0.Paced s) {p : Nat} : s0.Paced (State.settle s p) := by
  unfold State.settle
  try dsimp only
  repeat' first | with_reducible assumption | with_reducible rfl | decide | intro _ | with_reducible apply State.setPort_paced | with_reducible apply paced_ite | with_reducible apply paced_foldl | fail_if_no_progress with_reducible refine paced_mk ?_ rfl rfl rfl rfl rfl | split | dsimp only | decide

theorem State.enqueue_paced (h : s0.Paced s) {p cls flow len : Nat} {result : Option (Nat × ResKey)} {body : FrameBody} : s0.Paced (State.enqueue s p cls flow len result body) := by
  unfold State.enqueue
  try dsimp only
  repeat' first | with_reducible assumption | with_reducible rfl | decide | with_reducible apply State.settle_paced | with_reducible apply State.setPort_paced | with_reducible apply paced_ite | fail_if_no_progress with_reducible refine paced_mk ?_ rfl rfl rfl rfl rfl | split | dsimp only | decide

theorem State.countHeld_paced (h : s0.Paced s) {p : Nat} : s0.Paced (State.countHeld s p) := by
  unfold State.countHeld
  try dsimp only
  repeat' first | with_reducible assumption | with_reducible rfl | decide | intro _ | with_reducible apply State.setPort_paced | with_reducible apply State.bump_paced | with_reducible apply paced_ite | with_reducible apply paced_foldl | fail_if_no_progress with_reducible refine paced_mk ?_ rfl rfl rfl rfl rfl | split | dsimp only | decide

theorem State.noteReturn_paced (h : s0.Paced s) {r : Result} : s0.Paced (State.noteReturn s r) := by
  unfold State.noteReturn
  try dsimp only
  repeat' first | with_reducible assumption | with_reducible rfl | decide | intro _ | with_reducible apply State.bump_paced | with_reducible apply paced_ite | fail_if_no_progress with_reducible refine paced_mk ?_ rfl rfl rfl rfl rfl | split | dsimp only | decide

theorem State.markStarted_paced (h : s0.Paced s) {p : Nat} {f : QFrame} : s0.Paced (State.markStarted s p f) := by
  unfold State.markStarted
  try dsimp only
  repeat' first | with_reducible assumption | with_reducible rfl | decide | intro _ | with_reducible apply State.noteReturn_paced | with_reducible apply State.setPort_paced | with_reducible apply paced_ite | fail_if_no_progress with_reducible refine paced_mk ?_ rfl rfl rfl rfl rfl | split | dsimp only | decide

theorem State.untrack_paced (h : s0.Paced s) {k : KeyRef} {reqId : Nat} : s0.Paced (State.untrack s k reqId) := by
  unfold State.untrack
  try dsimp only
  repeat' first | with_reducible assumption | with_reducible rfl | decide | intro _ | with_reducible apply paced_ite | fail_if_no_progress with_reducible refine paced_mk ?_ rfl rfl rfl rfl rfl | split | dsimp only | decide

theorem State.untrackFrame_paced (h : s0.Paced s) {f : QFrame} : s0.Paced (State.untrackFrame s f) := by
  unfold State.untrackFrame
  try dsimp only
  repeat' first | with_reducible assumption | with_reducible rfl | decide | with_reducible apply State.untrack_paced | with_reducible apply paced_ite | fail_if_no_progress with_reducible refine paced_mk ?_ rfl rfl rfl rfl rfl | split | dsimp only | decide

theorem State.pick_paced (h : s0.Paced s) {p : Nat} : s0.Paced (State.pick s p) := by
  unfold State.pick
  try dsimp only
  repeat' first | with_reducible assumption | with_reducible rfl | decide | with_reducible apply State.settle_paced | with_reducible apply State.countHeld_paced | with_reducible apply State.setPort_paced | with_reducible apply State.markStarted_paced | with_reducible apply State.untrackFrame_paced | with_reducible apply paced_ite | fail_if_no_progress with_reducible refine paced_mk ?_ rfl rfl rfl rfl rfl | split | dsimp only | decide

theorem State.send_paced (h : s0.Paced s) {p cls flow len : Nat} {result : Option (Nat × ResKey)} {body : FrameBody} : s0.Paced (State.send s p cls flow len result body) := by
  unfold State.send
  try dsimp only
  repeat' first | with_reducible assumption | with_reducible rfl | decide | with_reducible apply State.enqueue_paced | with_reducible apply State.pick_paced | with_reducible apply paced_ite | split | dsimp only | decide

theorem State.resetClass_paced (h : s0.Paced s) {p c : Nat} : s0.Paced (State.resetClass s p c) := by
  unfold State.resetClass
  try dsimp only
  repeat' first | with_reducible assumption | with_reducible rfl | decide | intro _ | with_reducible apply State.setPort_paced | with_reducible apply paced_ite | fail_if_no_progress with_reducible refine paced_mk ?_ rfl rfl rfl rfl rfl | split | dsimp only | decide

theorem State.sendSeg_paced (h : s0.Paced s) {d : Dest} {kind type status reason reqId : Nat} {response : Bool} {result : Option (Nat × ResKey)} {count len : Nat} {seg : Nat × List Byte} : s0.Paced (State.sendSeg s d kind type status reason reqId response result count len seg) := by
  unfold State.sendSeg
  try dsimp only
  repeat' first | with_reducible assumption | with_reducible rfl | decide | with_reducible apply State.send_paced | with_reducible apply paced_ite | fail_if_no_progress with_reducible refine paced_mk ?_ rfl rfl rfl rfl rfl | split | dsimp only | decide

theorem State.sendMsg_paced (h : s0.Paced s) {d : Dest} {kind type status reason reqId : Nat} {response : Bool} {result : Option (Nat × ResKey)} {body : List Byte} : s0.Paced (State.sendMsg s d kind type status reason reqId response result body) := by
  unfold State.sendMsg
  try dsimp only
  repeat' first | with_reducible assumption | with_reducible rfl | decide | intro _ | with_reducible apply State.sendSeg_paced | with_reducible apply paced_ite | with_reducible apply paced_foldl | fail_if_no_progress with_reducible refine paced_mk ?_ rfl rfl rfl rfl rfl | split | dsimp only | decide

theorem State.setRing_paced (h : s0.Paced s) {die : Nat} {l : List EvtRec} : s0.Paced (State.setRing s die l) := by
  unfold State.setRing
  try dsimp only
  repeat' first | with_reducible assumption | with_reducible rfl | decide | with_reducible apply paced_ite | fail_if_no_progress with_reducible refine paced_mk ?_ rfl rfl rfl rfl rfl | split | dsimp only | decide

theorem State.setAlerts_paced (h : s0.Paced s) {die : Nat} {l : List Nat} : s0.Paced (State.setAlerts s die l) := by
  unfold State.setAlerts
  try dsimp only
  repeat' first | with_reducible assumption | with_reducible rfl | decide | with_reducible apply paced_ite | fail_if_no_progress with_reducible refine paced_mk ?_ rfl rfl rfl rfl rfl | split | dsimp only | decide

theorem State.eventFrame_paced (h : s0.Paced s) {sub : Sub} {r : EvtRec} : s0.Paced (State.eventFrame s sub r) := by
  unfold State.eventFrame
  try dsimp only
  repeat' first | with_reducible assumption | with_reducible rfl | decide | with_reducible apply State.sendMsg_paced | with_reducible apply paced_ite | fail_if_no_progress with_reducible refine paced_mk ?_ rfl rfl rfl rfl rfl | split | dsimp only | decide

theorem State.ibi_paced (h : s0.Paced s) {byte : Nat} : s0.Paced (State.ibi s byte) := by
  unfold State.ibi
  try dsimp only
  repeat' first | with_reducible assumption | with_reducible rfl | decide | with_reducible apply paced_ite | fail_if_no_progress with_reducible refine paced_mk ?_ rfl rfl rfl rfl rfl | split | dsimp only | decide

theorem State.logEvent_paced (h : s0.Paced s) {die : Nat} {r : EvtRec} : s0.Paced (State.logEvent s die r) := by
  unfold State.logEvent
  try dsimp only
  repeat' first | with_reducible assumption | with_reducible rfl | decide | with_reducible apply State.setRing_paced | with_reducible apply State.setFld_paced | with_reducible apply State.setAlerts_paced | with_reducible apply State.ibi_paced | with_reducible apply paced_ite | split | dsimp only | decide

theorem State.raise_paced (h : s0.Paced s) {die sub : Nat} {a : EvtArgs} : s0.Paced (State.raise s die sub a) := by
  unfold State.raise
  try dsimp only
  repeat' first | with_reducible assumption | with_reducible rfl | decide | intro _ | with_reducible apply State.eventFrame_paced | with_reducible apply State.logEvent_paced | with_reducible apply paced_ite | with_reducible apply paced_foldl | split | dsimp only | decide

theorem State.setOnce_paced (h : s0.Paced s) {o : Once} : s0.Paced (State.setOnce s o) := by
  unfold State.setOnce
  try dsimp only
  repeat' first | with_reducible assumption | with_reducible rfl | decide | intro _ | with_reducible apply paced_ite | fail_if_no_progress with_reducible refine paced_mk ?_ rfl rfl rfl rfl rfl | split | dsimp only | decide

theorem State.raiseOnce_paced (h : s0.Paced s) {die sub item : Nat} {a : EvtArgs} : s0.Paced (State.raiseOnce s die sub item a) := by
  unfold State.raiseOnce
  try dsimp only
  repeat' first | with_reducible assumption | with_reducible rfl | decide | with_reducible apply State.setOnce_paced | with_reducible apply State.raise_paced | with_reducible apply paced_ite | fail_if_no_progress with_reducible refine paced_mk ?_ rfl rfl rfl rfl rfl | split | dsimp only | decide

theorem State.endLimitStep_paced (h : s0.Paced s) : s0.Paced (State.endLimitStep s) := by
  unfold State.endLimitStep
  try dsimp only
  repeat' first | with_reducible assumption | with_reducible rfl | decide | intro _ | with_reducible apply paced_ite | fail_if_no_progress with_reducible refine paced_mk ?_ rfl rfl rfl rfl rfl | split | dsimp only | decide

theorem State.addRec_paced (h : s0.Paced s) {status port ctx ep len : Nat} {body : RecBody} :
    s0.Paced (s.addRec status port ctx ep len body) := by
  unfold State.addRec
  dsimp only
  split
  · exact h
  · rename_i hr
    have hr' : s.fld 0 0 Fld.RP_STATUS_STATE = 2 := by
      unfold State.recording at hr
      simpa using hr
    split
    · exact State.raiseOnce_paced (setStatus_paced (paced_mk h rfl rfl rfl rfl rfl) rfl (by decide) (by decide) (by decide))
    · split
      · refine State.raise_paced (setStatus_paced (paced_trans h ?_) rfl (by decide) (by decide) (by decide))
        refine ⟨rfl, rfl, rfl, rfl, ?_, fun x hx => reg_setReg_ne _ _ ?_⟩
        · unfold State.closeRec State.inReplay State.replaying
          rw [fld_setFld_self _ _ _ _ _ (by decide) (by decide), hr']
          rfl
        · revert hx
          simp only [pacedRegs, List.mem_cons, List.not_mem_nil, or_false]
          rintro (rfl | rfl) <;> decide
      · exact State.setReg_paced (paced_mk h rfl rfl rfl rfl rfl) (by decide)

theorem State.diverge_paced (h : s0.Paced s) {msg : Nat} : s0.Paced (s.diverge msg) := by
  unfold State.diverge
  dsimp only
  exact paced_ite (State.raise_paced (State.setFld_paced (setStatus_paced (State.bump_paced h (by decide)) rfl (by decide)
    (by decide) (by decide)) (by decide))) (State.bump_paced h (by decide))

theorem State.formed_paced (h : s0.Paced s) {msg port : Nat} {f : List Byte} : s0.Paced (State.formed s msg port f) := by
  unfold State.formed
  try dsimp only
  repeat' first | with_reducible assumption | with_reducible rfl | decide | with_reducible apply State.addRec_paced | with_reducible apply State.diverge_paced | with_reducible apply paced_ite | fail_if_no_progress with_reducible refine paced_mk ?_ rfl rfl rfl rfl rfl | split | dsimp only | decide

theorem State.formResult_paced (h : s0.Paced s) {r : Result} : s0.Paced (State.formResult s r) := by
  unfold State.formResult
  try dsimp only
  repeat' first | with_reducible assumption | with_reducible rfl | decide | intro _ | with_reducible apply State.formed_paced | with_reducible apply paced_ite | fail_if_no_progress with_reducible refine paced_mk ?_ rfl rfl rfl rfl rfl | split | dsimp only | decide

theorem State.formResults_paced (h : s0.Paced s) : s0.Paced (State.formResults s) := by
  unfold State.formResults
  try dsimp only
  repeat' first | with_reducible assumption | with_reducible rfl | decide | intro _ | with_reducible apply State.formResult_paced | with_reducible apply paced_ite | with_reducible apply paced_foldl | split | dsimp only | decide

theorem State.track_paced (h : s0.Paced s) {e : Env} {type : Nat} {slot : Option Nat} : s0.Paced (State.track s e type slot) := by
  unfold State.track
  try dsimp only
  repeat' first | with_reducible assumption | with_reducible rfl | decide | with_reducible apply paced_ite | fail_if_no_progress with_reducible refine paced_mk ?_ rfl rfl rfl rfl rfl | split | dsimp only | decide

theorem State.quotaTest_paced (h : s0.Paced s) {die ctx tier : Nat} : s0.Paced (State.quotaTest s die ctx tier) := by
  unfold State.quotaTest
  try dsimp only
  repeat' first | with_reducible assumption | with_reducible rfl | decide | with_reducible apply State.setFld_paced | with_reducible apply State.raise_paced | with_reducible apply paced_ite | fail_if_no_progress with_reducible refine paced_mk ?_ rfl rfl rfl rfl rfl | split | dsimp only | decide

theorem State.setUse_paced (h : s0.Paced s) {die ctx tier g : Nat} : s0.Paced (s.setUse die ctx tier g) :=
  State.quotaTest_paced (State.setReg_paced h (by simp [pacedOff]))

theorem State.evictTest_paced (h : s0.Paced s) {die tier : Nat} : s0.Paced (State.evictTest s die tier) := by
  unfold State.evictTest
  try dsimp only
  repeat' first | with_reducible assumption | with_reducible rfl | decide | with_reducible apply paced_ite | fail_if_no_progress with_reducible refine paced_mk ?_ rfl rfl rfl rfl rfl | split | dsimp only | decide

theorem State.alloc_paced (h : s0.Paced s) {die tier ctx g : Nat} : s0.Paced (State.alloc s die tier ctx g) := by
  unfold State.alloc
  try dsimp only
  repeat' first | with_reducible assumption | with_reducible rfl | decide | with_reducible apply State.setUse_paced | with_reducible apply State.setPoolFree_paced | with_reducible apply State.evictTest_paced | with_reducible apply paced_ite | split | dsimp only | decide

theorem State.dealloc_paced (h : s0.Paced s) {die tier ctx g : Nat} : s0.Paced (State.dealloc s die tier ctx g) := by
  unfold State.dealloc
  try dsimp only
  repeat' first | with_reducible assumption | with_reducible rfl | decide | with_reducible apply State.setUse_paced | with_reducible apply State.setPoolFree_paced | with_reducible apply State.evictTest_paced | with_reducible apply paced_ite | split | dsimp only | decide

theorem State.putArea_paced (h : s0.Paced s) {slot : Nat} {a : FinArea} : s0.Paced (State.putArea s slot a) := by
  unfold State.putArea
  try dsimp only
  repeat' first | with_reducible assumption | with_reducible rfl | decide | with_reducible apply paced_ite | fail_if_no_progress with_reducible refine paced_mk ?_ rfl rfl rfl rfl rfl | split | dsimp only | decide

theorem State.mapResult_paced (h : s0.Paced s) {slot : Nat} {key : ResKey} {f : Result → Result} : s0.Paced (State.mapResult s slot key f) := by
  unfold State.mapResult
  try dsimp only
  repeat' first | with_reducible assumption | with_reducible rfl | decide | intro _ | with_reducible apply paced_ite | fail_if_no_progress with_reducible refine paced_mk ?_ rfl rfl rfl rfl rfl | split | dsimp only | decide

theorem State.sendWrite_paced (h : s0.Paced s) {d : Dest} {q : Qp} {result : Nat × ResKey} {seq : Nat} {piece : Bool × Nat × List Byte} : s0.Paced (State.sendWrite s d q result seq piece) := by
  unfold State.sendWrite
  try dsimp only
  repeat' first | with_reducible assumption | with_reducible rfl | decide | intro _ | with_reducible apply State.send_paced | with_reducible apply paced_ite | fail_if_no_progress with_reducible refine paced_mk ?_ rfl rfl rfl rfl rfl | split | dsimp only | decide

theorem State.sendObject_paced (h : s0.Paced s) {d : Dest} {r : Result} {q : Qp} : s0.Paced (State.sendObject s d r q) := by
  unfold State.sendObject
  try dsimp only
  repeat' first | with_reducible assumption | with_reducible rfl | decide | intro _ | with_reducible apply State.sendWrite_paced | with_reducible apply paced_ite | with_reducible apply paced_foldl | fail_if_no_progress with_reducible refine paced_mk ?_ rfl rfl rfl rfl rfl | split | dsimp only | decide

theorem State.joinQueue_paced (h : s0.Paced s) {slot : Nat} {key : ResKey} : s0.Paced (State.joinQueue s slot key) := by
  unfold State.joinQueue
  try dsimp only
  repeat' first | with_reducible assumption | with_reducible rfl | decide | intro _ | with_reducible apply State.noteReturn_paced | with_reducible apply State.mapResult_paced | with_reducible apply State.sendObject_paced | with_reducible apply State.sendMsg_paced | with_reducible apply paced_ite | fail_if_no_progress with_reducible refine paced_mk ?_ rfl rfl rfl rfl rfl | split | dsimp only | decide

theorem State.unqueue_paced (h : s0.Paced s) {slot : Nat} {key : ResKey} : s0.Paced (State.unqueue s slot key) := by
  unfold State.unqueue
  try dsimp only
  repeat' first | with_reducible assumption | with_reducible rfl | decide | intro _ | with_reducible apply State.resetClass_paced | with_reducible apply State.settle_paced | with_reducible apply State.setPort_paced | with_reducible apply paced_ite | with_reducible apply paced_foldl | fail_if_no_progress with_reducible refine paced_mk ?_ rfl rfl rfl rfl rfl | split | dsimp only | decide

theorem State.dropResult_paced (h : s0.Paced s) {slot : Nat} {key : ResKey} : s0.Paced (State.dropResult s slot key) := by
  unfold State.dropResult
  try dsimp only
  repeat' first | with_reducible assumption | with_reducible rfl | decide | intro _ | with_reducible apply State.formResult_paced | with_reducible apply State.unqueue_paced | with_reducible apply State.untrack_paced | with_reducible apply State.lower_paced | with_reducible apply paced_ite | fail_if_no_progress with_reducible refine paced_mk ?_ rfl rfl rfl rfl rfl | split | dsimp only | decide

theorem State.markLate_paced (h : s0.Paced s) {slot : Nat} {key : ResKey} : s0.Paced (State.markLate s slot key) := by
  unfold State.markLate
  try dsimp only
  repeat' first | with_reducible assumption | with_reducible rfl | decide | intro _ | with_reducible apply State.mapResult_paced | with_reducible apply State.bump_paced | with_reducible apply State.setReg_paced | with_reducible apply State.raise_paced | with_reducible apply paced_ite | fail_if_no_progress with_reducible refine paced_mk ?_ rfl rfl rfl rfl rfl | split | dsimp only | decide

theorem State.deliver_paced (h : s0.Paced s) {slot : Nat} {key : ResKey} : s0.Paced (State.deliver s slot key) := by
  unfold State.deliver
  try dsimp only
  repeat' first | with_reducible assumption | with_reducible rfl | decide | with_reducible apply State.joinQueue_paced | with_reducible apply State.markLate_paced | with_reducible apply paced_ite | fail_if_no_progress with_reducible refine paced_mk ?_ rfl rfl rfl rfl rfl | split | dsimp only | decide

theorem State.carry_paced (h : s0.Paced s) {p step layer : Nat} : s0.Paced (State.carry s p step layer) := by
  unfold State.carry
  try dsimp only
  repeat' first | with_reducible assumption | with_reducible rfl | decide | intro _ | with_reducible apply State.joinQueue_paced | with_reducible apply paced_ite | with_reducible apply paced_foldl | fail_if_no_progress with_reducible refine paced_mk ?_ rfl rfl rfl rfl rfl | split | dsimp only | decide

theorem State.missClose_paced (h : s0.Paced s) {p step layer : Nat} : s0.Paced (State.missClose s p step layer) := by
  unfold State.missClose
  try dsimp only
  repeat' first | with_reducible assumption | with_reducible rfl | decide | intro _ | with_reducible apply State.unqueue_paced | with_reducible apply State.mapResult_paced | with_reducible apply State.markLate_paced | with_reducible apply paced_ite | with_reducible apply paced_foldl | fail_if_no_progress with_reducible refine paced_mk ?_ rfl rfl rfl rfl rfl | split | dsimp only | decide

theorem State.countSplit_paced (h : s0.Paced s) {p : Nat} : s0.Paced (State.countSplit s p) := by
  unfold State.countSplit
  try dsimp only
  repeat' first | with_reducible assumption | with_reducible rfl | decide | intro _ | with_reducible apply State.setPort_paced | with_reducible apply State.bumpBy_paced | with_reducible apply paced_ite | fail_if_no_progress with_reducible refine paced_mk ?_ rfl rfl rfl rfl rfl | split | dsimp only | decide

theorem State.lateSweep_paced (h : s0.Paced s) : s0.Paced (State.lateSweep s) := by
  unfold State.lateSweep
  try dsimp only
  repeat' first | with_reducible assumption | with_reducible rfl | decide | intro _ | with_reducible apply State.deliver_paced | with_reducible apply paced_ite | with_reducible apply paced_foldl | split | dsimp only | decide

theorem State.raiseMark_paced (h : s0.Paced s) {slot : Nat} {k : ResKey} : s0.Paced (State.raiseMark s slot k) := by
  unfold State.raiseMark
  try dsimp only
  repeat' first | with_reducible assumption | with_reducible rfl | decide | with_reducible apply State.putArea_paced | with_reducible apply paced_ite | fail_if_no_progress with_reducible refine paced_mk ?_ rfl rfl rfl rfl rfl | split | dsimp only | decide

theorem State.endEpoch_paced (h : s0.Paced s) {slot : Nat} : s0.Paced (State.endEpoch s slot) := by
  unfold State.endEpoch
  try dsimp only
  repeat' first | with_reducible assumption | with_reducible rfl | decide | intro _ | with_reducible apply paced_ite | fail_if_no_progress with_reducible refine paced_mk ?_ rfl rfl rfl rfl rfl | split | dsimp only | decide

theorem State.autoRelease_paced (h : s0.Paced s) {slot : Nat} {key : ResKey} : s0.Paced (State.autoRelease s slot key) := by
  unfold State.autoRelease
  try dsimp only
  repeat' first | with_reducible assumption | with_reducible rfl | decide | with_reducible apply State.dropResult_paced | with_reducible apply State.raiseMark_paced | with_reducible apply paced_ite | split | dsimp only | decide

theorem State.releaseDue_paced (h : s0.Paced s) : s0.Paced (State.releaseDue s) := by
  unfold State.releaseDue
  try dsimp only
  repeat' first | with_reducible assumption | with_reducible rfl | decide | intro _ | with_reducible apply State.autoRelease_paced | with_reducible apply State.dropResult_paced | with_reducible apply paced_ite | with_reducible apply paced_foldl | split | dsimp only | decide

theorem State.setSeg_paced (h : s0.Paced s) {x : Seg} : s0.Paced (State.setSeg s x) := by
  unfold State.setSeg
  try dsimp only
  repeat' first | with_reducible assumption | with_reducible rfl | decide | intro _ | with_reducible apply paced_ite | fail_if_no_progress with_reducible refine paced_mk ?_ rfl rfl rfl rfl rfl | split | dsimp only | decide

theorem State.openSeg_paced (h : s0.Paced s) {die group kind : Nat} : SomeP s0.Paced (State.openSeg s die group kind) := by
  unfold State.openSeg
  try dsimp only
  repeat' first | with_reducible assumption | with_reducible rfl | decide | with_reducible exact somep_none | with_reducible apply somep_some | with_reducible apply State.setSeg_paced | with_reducible apply State.raiseOnce_paced | with_reducible apply paced_ite | fail_if_no_progress with_reducible refine paced_mk ?_ rfl rfl rfl rfl rfl | split | dsimp only | decide

theorem State.settleSeg_paced (h : s0.Paced s) {x : Seg} : s0.Paced (State.settleSeg s x) := by
  unfold State.settleSeg
  try dsimp only
  repeat' first | with_reducible assumption | with_reducible rfl | decide | with_reducible apply State.setSeg_paced | with_reducible apply paced_ite | fail_if_no_progress with_reducible refine paced_mk ?_ rfl rfl rfl rfl rfl | split | dsimp only | decide

theorem State.bufferStripes_paced (h : s0.Paced s) {x : Seg} {a b : Nat} : s0.Paced (State.bufferStripes s x a b) := by
  unfold State.bufferStripes
  try dsimp only
  repeat' first | with_reducible assumption | with_reducible rfl | decide | intro _ | with_reducible apply paced_ite | with_reducible apply paced_foldl | fail_if_no_progress with_reducible refine paced_mk ?_ rfl rfl rfl rfl rfl | split | dsimp only | decide

theorem State.placeIn_paced (h : s0.Paced s) {x : Seg} {align size : Nat} {o : Owner} : s0.Paced (State.placeIn s x align size o).1 := by
  unfold State.placeIn
  try dsimp only
  repeat' first | with_reducible assumption | with_reducible rfl | decide | with_reducible apply State.setSeg_paced | with_reducible apply State.bufferStripes_paced | with_reducible apply paced_ite | fail_if_no_progress with_reducible refine paced_mk ?_ rfl rfl rfl rfl rfl | split | dsimp only | decide

theorem State.place_paced (h : s0.Paced s) {die group kind align size : Nat} {o : Owner} : SomeP s0.Paced (State.place s die group kind align size o) := by
  unfold State.place
  try dsimp only
  repeat' first | with_reducible assumption | with_reducible rfl | decide | with_reducible exact somep_none | with_reducible apply somep_some | with_reducible apply State.placeIn_paced | with_reducible apply State.settleSeg_paced | with_reducible apply State.openSeg_paced | with_reducible apply paced_ite | fail_if_no_progress with_reducible refine paced_mk ?_ rfl rfl rfl rfl rfl | refine pair_of (P := s0.Paced) (by assumption) ?_ | refine somep_of (P := s0.Paced) (by assumption) ?_ | split | dsimp only | decide

theorem State.mapUnit_paced (h : s0.Paced s) {slot : Nat} {key : ResKey} {kvHead seg : Nat} {f : AttnUnit → AttnUnit} : s0.Paced (State.mapUnit s slot key kvHead seg f) := by
  unfold State.mapUnit
  try dsimp only
  repeat' first | with_reducible assumption | with_reducible rfl | decide | intro _ | with_reducible apply State.mapResult_paced | with_reducible apply paced_ite | fail_if_no_progress with_reducible refine paced_mk ?_ rfl rfl rfl rfl rfl | split | dsimp only | decide

theorem State.promoteFirst_paced (h : s0.Paced s) {die : Nat} {u : UnitRef} : s0.Paced (State.promoteFirst s die u) := by
  unfold State.promoteFirst
  try dsimp only
  repeat' first | with_reducible assumption | with_reducible rfl | decide | intro _ | with_reducible apply paced_ite | fail_if_no_progress with_reducible refine paced_mk ?_ rfl rfl rfl rfl rfl | split | dsimp only | decide

theorem State.waitPage_paced (h : s0.Paced s) {r : Result} {u : AttnUnit} {page : Nat} : s0.Paced (State.waitPage s r u page) := by
  unfold State.waitPage
  try dsimp only
  repeat' first | with_reducible assumption | with_reducible rfl | decide | intro _ | with_reducible apply State.mapUnit_paced | with_reducible apply State.promoteFirst_paced | with_reducible apply State.bump_paced | with_reducible apply State.raiseOnce_paced | with_reducible apply paced_ite | fail_if_no_progress with_reducible refine paced_mk ?_ rfl rfl rfl rfl rfl | split | dsimp only | decide

theorem State.startUnit_paced (h : s0.Paced s) {r : Result} {u : AttnUnit} {core : Nat} : s0.Paced (State.startUnit s r u core) := by
  unfold State.startUnit
  try dsimp only
  repeat' first | with_reducible assumption | with_reducible rfl | decide | intro _ | with_reducible apply State.mapUnit_paced | with_reducible apply paced_ite | fail_if_no_progress with_reducible refine paced_mk ?_ rfl rfl rfl rfl rfl | split | dsimp only | decide

theorem State.startGroup_paced (h : s0.Paced s) {g : Group} : s0.Paced (State.startGroup s g) := by
  unfold State.startGroup
  try dsimp only
  repeat' first | with_reducible assumption | with_reducible rfl | decide | intro _ | with_reducible apply State.bump_paced | with_reducible apply State.mapUnit_paced | with_reducible apply State.mapResult_paced | with_reducible apply paced_ite | with_reducible apply paced_foldl | fail_if_no_progress with_reducible refine paced_mk ?_ rfl rfl rfl rfl rfl | split | dsimp only | decide

theorem State.startGroups_paced (h : s0.Paced s) {die cluster : Nat} : s0.Paced (State.startGroups s die cluster) := by
  unfold State.startGroups
  try dsimp only
  repeat' first | with_reducible assumption | with_reducible rfl | decide | intro _ | with_reducible apply State.startGroup_paced | with_reducible apply paced_ite | with_reducible apply paced_foldl | split | dsimp only | decide

theorem State.pumpUnit_paced (h : s0.Paced s) {r : Result} {u : AttnUnit} : s0.Paced (State.pumpUnit s r u) := by
  unfold State.pumpUnit
  try dsimp only
  repeat' first | with_reducible assumption | with_reducible rfl | decide | intro _ | with_reducible apply State.waitPage_paced | with_reducible apply State.mapUnit_paced | with_reducible apply State.bump_paced | with_reducible apply State.startUnit_paced | with_reducible apply paced_ite | fail_if_no_progress with_reducible refine paced_mk ?_ rfl rfl rfl rfl rfl | split | dsimp only | decide

theorem State.pump_paced (h : s0.Paced s) {die cluster : Nat} : s0.Paced (State.pump s die cluster) := by
  unfold State.pump
  try dsimp only
  repeat' first | with_reducible assumption | with_reducible rfl | decide | intro _ | with_reducible apply State.pumpUnit_paced | with_reducible apply State.startGroups_paced | with_reducible apply paced_ite | with_reducible apply paced_foldl | split | dsimp only | decide

theorem State.startMove_paced (h : s0.Paced s) {die : Nat} {u : UnitRef} {i : UnitInfo} {dst : Nat} {quota paced : Bool} {wake : Option Nat} : s0.Paced (State.startMove s die u i dst quota paced wake) := by
  unfold State.startMove
  try dsimp only
  repeat' first | with_reducible assumption | with_reducible rfl | decide | with_reducible exact somep_none | with_reducible apply somep_some | with_reducible apply State.place_paced | with_reducible apply State.nextFree_paced | with_reducible apply State.alloc_paced | with_reducible apply paced_ite | fail_if_no_progress with_reducible refine paced_mk ?_ rfl rfl rfl rfl rfl | refine somep_of (P := s0.Paced) (by assumption) ?_ | split | dsimp only | decide

theorem State.promotingTest_paced (h : s0.Paced s) {slot : Nat} : s0.Paced (State.promotingTest s slot) := by
  unfold State.promotingTest
  try dsimp only
  repeat' first | with_reducible assumption | with_reducible rfl | decide | intro _ | with_reducible apply State.setSess_paced | with_reducible apply paced_ite | fail_if_no_progress with_reducible refine paced_mk ?_ rfl rfl rfl rfl rfl | split | dsimp only | decide

theorem State.startPromo_paced (h : s0.Paced s) {die : Nat} : s0.Paced (State.startPromo s die) := by
  unfold State.startPromo
  try dsimp only
  repeat' first | with_reducible assumption | with_reducible rfl | decide | intro _ | with_reducible apply State.promotingTest_paced | with_reducible apply State.startMove_paced | with_reducible apply paced_ite | fail_if_no_progress with_reducible refine paced_mk ?_ rfl rfl rfl rfl rfl | split | dsimp only | decide

theorem State.startPromos_paced (h : s0.Paced s) {die n : Nat} : s0.Paced (State.startPromos s die n) := by
  induction n generalizing s with
  | zero => exact h
  | succ n ih => exact ih (State.startPromo_paced h)

theorem State.runPromos_paced (h : s0.Paced s) {die : Nat} : s0.Paced (State.runPromos s die) := by
  unfold State.runPromos
  try dsimp only
  repeat' first | with_reducible assumption | with_reducible rfl | decide | with_reducible apply State.startPromos_paced | with_reducible apply paced_ite | split | dsimp only | decide

theorem State.queuePromo_paced (h : s0.Paced s) {u : UnitRef} {wake : Option Nat} : s0.Paced (State.queuePromo s u wake) := by
  unfold State.queuePromo
  try dsimp only
  repeat' first | with_reducible assumption | with_reducible rfl | decide | intro _ | with_reducible apply paced_ite | fail_if_no_progress with_reducible refine paced_mk ?_ rfl rfl rfl rfl rfl | split | dsimp only | decide

theorem State.firePromotion_paced (h : s0.Paced s) {slot layer : Nat} : s0.Paced (State.firePromotion s slot layer) := by
  unfold State.firePromotion
  try dsimp only
  repeat' first | with_reducible assumption | with_reducible rfl | decide | intro _ | with_reducible apply State.queuePromo_paced | with_reducible apply State.runPromos_paced | with_reducible apply State.promotingTest_paced | with_reducible apply paced_ite | with_reducible apply paced_foldl | fail_if_no_progress with_reducible refine paced_mk ?_ rfl rfl rfl rfl rfl | split | dsimp only | decide

theorem State.addCopy_paced (h : s0.Paced s) {c : T0Copy} : s0.Paced (State.addCopy s c) := by
  unfold State.addCopy
  try dsimp only
  repeat' first | with_reducible assumption | with_reducible rfl | decide | intro _ | with_reducible apply State.alloc_paced | with_reducible apply State.bump_paced | with_reducible apply State.raiseOnce_paced | with_reducible apply paced_ite | fail_if_no_progress with_reducible refine paced_mk ?_ rfl rfl rfl rfl rfl | split | dsimp only | decide

theorem State.firePrefetch_paced (h : s0.Paced s) {slot layer step : Nat} : s0.Paced (State.firePrefetch s slot layer step) := by
  unfold State.firePrefetch
  try dsimp only
  repeat' first | with_reducible assumption | with_reducible rfl | decide | intro _ | with_reducible apply State.addCopy_paced | with_reducible apply paced_ite | with_reducible apply paced_foldl | fail_if_no_progress with_reducible refine paced_mk ?_ rfl rfl rfl rfl rfl | split | dsimp only | decide

theorem State.releaseCopies_paced (h : s0.Paced s) {die : Nat} : s0.Paced (State.releaseCopies s die) := by
  unfold State.releaseCopies
  try dsimp only
  repeat' first | with_reducible assumption | with_reducible rfl | decide | intro _ | with_reducible apply State.dealloc_paced | with_reducible apply paced_ite | with_reducible apply paced_foldl | fail_if_no_progress with_reducible refine paced_mk ?_ rfl rfl rfl rfl rfl | split | dsimp only | decide

theorem State.countLate_paced (h : s0.Paced s) {die step layer : Nat} : s0.Paced (State.countLate s die step layer) := by
  unfold State.countLate
  try dsimp only
  repeat' first | with_reducible assumption | with_reducible rfl | decide | intro _ | with_reducible apply State.bump_paced | with_reducible apply paced_ite | fail_if_no_progress with_reducible refine paced_mk ?_ rfl rfl rfl rfl rfl | split | dsimp only | decide

theorem State.fireTrig_paced (h : s0.Paced s) {x : Trig} : s0.Paced (State.fireTrig s x) := by
  unfold State.fireTrig
  try dsimp only
  repeat' first | with_reducible assumption | with_reducible rfl | decide | with_reducible apply State.firePrefetch_paced | with_reducible apply State.firePromotion_paced | with_reducible apply paced_ite | split | dsimp only | decide

theorem State.mapPins_paced (h : s0.Paced s) {l : List (Nat × Nat × Nat)} {f : Nat → Nat} : s0.Paced (State.mapPins s l f) := by
  unfold State.mapPins
  try dsimp only
  repeat' first | with_reducible assumption | with_reducible rfl | decide | intro _ | with_reducible apply State.settleSeg_paced | with_reducible apply paced_ite | with_reducible apply paced_foldl | fail_if_no_progress with_reducible refine paced_mk ?_ rfl rfl rfl rfl rfl | split | dsimp only | decide

theorem State.remap_paced (h : s0.Paced s) {die cluster : Nat} : s0.Paced (State.remap s die cluster) := by
  unfold State.remap
  try dsimp only
  repeat' first | with_reducible assumption | with_reducible rfl | decide | with_reducible apply State.setFld_paced | with_reducible apply State.raise_paced | with_reducible apply State.pump_paced | with_reducible apply paced_ite | fail_if_no_progress with_reducible refine paced_mk ?_ rfl rfl rfl rfl rfl | split | dsimp only | decide

theorem State.remapAll_paced (h : s0.Paced s) : s0.Paced (State.remapAll s) := by
  unfold State.remapAll
  try dsimp only
  repeat' first | with_reducible assumption | with_reducible rfl | decide | intro _ | with_reducible apply State.remap_paced | with_reducible apply paced_ite | with_reducible apply paced_foldl | split | dsimp only | decide

theorem State.remapIdle_paced (h : s0.Paced s) : s0.Paced (State.remapIdle s) := by
  unfold State.remapIdle
  try dsimp only
  repeat' first | with_reducible assumption | with_reducible rfl | decide | intro _ | with_reducible apply State.remap_paced | with_reducible apply paced_ite | with_reducible apply paced_foldl | split | dsimp only | decide

theorem State.vreq_paced (h : s0.Paced s) {q : VReq} : s0.Paced (State.vreq s q) := by
  unfold State.vreq
  try dsimp only
  repeat' first | with_reducible assumption | with_reducible rfl | decide | with_reducible apply State.setFld_paced | with_reducible apply State.ibi_paced | with_reducible apply paced_ite | split | dsimp only | decide

theorem State.setPlan_paced (h : s0.Paced s) {p : Option Plan} : s0.Paced (State.setPlan s p) := by
  unfold State.setPlan
  try dsimp only
  repeat' first | with_reducible assumption | with_reducible rfl | decide | with_reducible apply paced_ite | fail_if_no_progress with_reducible refine paced_mk ?_ rfl rfl rfl rfl rfl | split | dsimp only | decide

theorem State.endPlan_paced (h : s0.Paced s) {p : Plan} : s0.Paced (State.endPlan s p) := by
  unfold State.endPlan
  try dsimp only
  repeat' first | with_reducible assumption | with_reducible rfl | decide | with_reducible apply State.setPlan_paced | with_reducible apply State.setFld_paced | with_reducible apply State.raise_paced | with_reducible apply paced_ite | split | dsimp only | decide

theorem State.clockPlan_paced (h : s0.Paced s) {p : Plan} : s0.Paced (State.clockPlan s p) := by
  unfold State.clockPlan
  try dsimp only
  repeat' first | with_reducible assumption | with_reducible rfl | decide | with_reducible apply State.setFld_paced | with_reducible apply State.endPlan_paced | with_reducible apply State.setPlan_paced | with_reducible apply State.vreq_paced | with_reducible apply paced_ite | fail_if_no_progress with_reducible refine paced_mk ?_ rfl rfl rfl rfl rfl | split | dsimp only | decide

theorem State.nextReq_paced (h : s0.Paced s) {p : Plan} {reqs : List VReq} : s0.Paced (State.nextReq s p reqs) := by
  unfold State.nextReq
  try dsimp only
  repeat' first | with_reducible assumption | with_reducible rfl | decide | with_reducible apply State.setPlan_paced | with_reducible apply State.vreq_paced | with_reducible apply State.endPlan_paced | with_reducible apply State.clockPlan_paced | with_reducible apply paced_ite | fail_if_no_progress with_reducible refine paced_mk ?_ rfl rfl rfl rfl rfl | split | dsimp only | decide

theorem State.beginPlan_paced (h : s0.Paced s) : s0.Paced (State.beginPlan s) := by
  unfold State.beginPlan
  try dsimp only
  repeat' first | with_reducible assumption | with_reducible rfl | decide | with_reducible apply State.setFld_paced | with_reducible apply State.nextReq_paced | with_reducible apply paced_ite | fail_if_no_progress with_reducible refine paced_mk ?_ rfl rfl rfl rfl rfl | split | dsimp only | decide

theorem State.addHeld_paced (h : s0.Paced s) {slot : Nat} : s0.Paced (State.addHeld s slot) := by
  unfold State.addHeld
  try dsimp only
  repeat' first | with_reducible assumption | with_reducible rfl | decide | with_reducible apply paced_ite | fail_if_no_progress with_reducible refine paced_mk ?_ rfl rfl rfl rfl rfl | split | dsimp only | decide

theorem State.sesEvent_paced (h : s0.Paced s) {slot sub : Nat} {alert : Bool} {a1 a2 a3 : Nat} : s0.Paced (State.sesEvent s slot sub alert a1 a2 a3) := by
  unfold State.sesEvent
  try dsimp only
  repeat' first | with_reducible assumption | with_reducible rfl | decide | with_reducible apply State.raise_paced | with_reducible apply paced_ite | split | dsimp only | decide

theorem State.expire_paced (h : s0.Paced s) {slot : Nat} : s0.Paced (State.expire s slot) := by
  unfold State.expire
  try dsimp only
  repeat' first | with_reducible assumption | with_reducible rfl | decide | with_reducible apply State.setSess_paced | with_reducible apply State.endEpoch_paced | with_reducible apply State.addHeld_paced | with_reducible apply State.bump_paced | with_reducible apply State.sesEvent_paced | with_reducible apply paced_ite | fail_if_no_progress with_reducible refine paced_mk ?_ rfl rfl rfl rfl rfl | split | dsimp only | decide

theorem State.expireAll_paced (h : s0.Paced s) : s0.Paced (State.expireAll s) := by
  unfold State.expireAll
  try dsimp only
  repeat' first | with_reducible assumption | with_reducible rfl | decide | intro _ | with_reducible apply State.expire_paced | with_reducible apply paced_ite | with_reducible apply paced_foldl | split | dsimp only | decide

theorem State.pickAll_paced (h : s0.Paced s) : s0.Paced (State.pickAll s) := by
  unfold State.pickAll
  try dsimp only
  repeat' first | with_reducible assumption | with_reducible rfl | decide | intro _ | with_reducible apply State.pick_paced | with_reducible apply paced_ite | with_reducible apply paced_foldl | split | dsimp only | decide

theorem State.pumpAll_paced (h : s0.Paced s) : s0.Paced (State.pumpAll s) := by
  unfold State.pumpAll
  try dsimp only
  repeat' first | with_reducible assumption | with_reducible rfl | decide | intro _ | with_reducible apply State.pump_paced | with_reducible apply State.runPromos_paced | with_reducible apply paced_ite | with_reducible apply paced_foldl | split | dsimp only | decide

theorem State.overrun_paced (h : s0.Paced s) {p : Nat} {was : List Nat} : s0.Paced (State.overrun s p was) := by
  unfold State.overrun
  try dsimp only
  repeat' first | with_reducible assumption | with_reducible rfl | decide | with_reducible apply State.bump_paced | with_reducible apply State.setPort_paced | with_reducible apply State.raise_paced | with_reducible apply paced_ite | fail_if_no_progress with_reducible refine paced_mk ?_ rfl rfl rfl rfl rfl | split | dsimp only | decide

theorem State.openGate_paced (h : s0.Paced s) {p i y : Nat} : s0.Paced (State.openGate s p i y) := by
  unfold State.openGate
  try dsimp only
  repeat' first | with_reducible assumption | with_reducible rfl | decide | with_reducible apply State.settle_paced | with_reducible apply State.setPort_paced | with_reducible apply State.overrun_paced | with_reducible apply State.carry_paced | with_reducible apply paced_ite | fail_if_no_progress with_reducible refine paced_mk ?_ rfl rfl rfl rfl rfl | split | dsimp only | decide

theorem State.closeGate_paced (h : s0.Paced s) {p i y : Nat} : s0.Paced (State.closeGate s p i y) := by
  unfold State.closeGate
  try dsimp only
  repeat' first | with_reducible assumption | with_reducible rfl | decide | with_reducible apply State.settle_paced | with_reducible apply State.setPort_paced | with_reducible apply State.overrun_paced | with_reducible apply State.missClose_paced | with_reducible apply State.countSplit_paced | with_reducible apply paced_ite | fail_if_no_progress with_reducible refine paced_mk ?_ rfl rfl rfl rfl rfl | split | dsimp only | decide

theorem State.swapGates_paced (h : s0.Paced s) {p : Nat} : s0.Paced (State.swapGates s p) := by
  unfold State.swapGates
  try dsimp only
  repeat' first | with_reducible assumption | with_reducible rfl | decide | intro _ | with_reducible apply State.closeGate_paced | with_reducible apply State.setReg_paced | with_reducible apply State.setFld_paced | with_reducible apply State.setPort_paced | with_reducible apply State.raise_paced | with_reducible apply paced_ite | with_reducible apply paced_foldl | fail_if_no_progress with_reducible refine paced_mk ?_ rfl rfl rfl rfl rfl | split | dsimp only | decide

theorem State.newLeads_paced (h : s0.Paced s) : s0.Paced (State.newLeads s) := by
  unfold State.newLeads
  try dsimp only
  repeat' first | with_reducible assumption | with_reducible rfl | decide | intro _ | with_reducible apply State.setFld_paced | with_reducible apply paced_ite | split | dsimp only | decide

theorem State.lockTest_paced (h : s0.Paced s) : s0.Paced (State.lockTest s) := by
  unfold State.lockTest
  try dsimp only
  repeat' first | with_reducible assumption | with_reducible rfl | decide | with_reducible apply paced_ite | fail_if_no_progress with_reducible refine paced_mk ?_ rfl rfl rfl rfl rfl | split | dsimp only | decide

theorem State.markOver_paced (h : s0.Paced s) : s0.Paced (State.markOver s) := by
  unfold State.markOver
  try dsimp only
  repeat' first | with_reducible assumption | with_reducible rfl | decide | intro _ | with_reducible apply paced_ite | fail_if_no_progress with_reducible refine paced_mk ?_ rfl rfl rfl rfl rfl | split | dsimp only | decide

theorem State.dropOldSteps_paced (h : s0.Paced s) : s0.Paced (State.dropOldSteps s) := by
  unfold State.dropOldSteps
  try dsimp only
  repeat' first | with_reducible assumption | with_reducible rfl | decide | intro _ | with_reducible apply paced_ite | fail_if_no_progress with_reducible refine paced_mk ?_ rfl rfl rfl rfl rfl | split | dsimp only | decide

theorem State.bookkeep_paced (h : s0.Paced s) : s0.Paced (State.bookkeep s) := by
  unfold State.bookkeep
  try dsimp only
  repeat' first | with_reducible assumption | with_reducible rfl | decide | with_reducible apply State.remapAll_paced | with_reducible apply State.endLimitStep_paced | with_reducible apply State.setFld_paced | with_reducible apply State.expireAll_paced | with_reducible apply State.lockTest_paced | with_reducible apply State.newLeads_paced | with_reducible apply State.markOver_paced | with_reducible apply State.releaseDue_paced | with_reducible apply State.dropOldSteps_paced | with_reducible apply State.beginPlan_paced | with_reducible apply State.evictTest_paced | with_reducible apply paced_ite | fail_if_no_progress with_reducible refine paced_mk ?_ rfl rfl rfl rfl rfl | split | dsimp only | decide

theorem State.fireEv_paced (h : s0.Paced s) {x0 : TrigEv} : s0.Paced (State.fireEv s x0) := by
  unfold State.fireEv
  try dsimp only
  repeat' first | with_reducible assumption | with_reducible rfl | decide | with_reducible apply State.closeGate_paced | with_reducible apply State.openGate_paced | with_reducible apply State.fireTrig_paced | with_reducible apply State.firePrefetch_paced | with_reducible apply paced_ite | split | dsimp only | decide

theorem State.fireSpan_paced (h : s0.Paced s) {a b now : Nat} : s0.Paced (State.fireSpan s a b now) := by
  unfold State.fireSpan
  try dsimp only
  repeat' first | with_reducible assumption | with_reducible rfl | decide | intro _ | with_reducible apply State.fireEv_paced | with_reducible apply paced_ite | with_reducible apply paced_foldl | fail_if_no_progress with_reducible refine paced_mk ?_ rfl rfl rfl rfl rfl | split | dsimp only | decide

theorem State.retire_paced (h : s0.Paced s) {die cluster : Nat} {bank : Bool} {x : Nat} : s0.Paced (State.retire s die cluster bank x) := by
  unfold State.retire
  try dsimp only
  repeat' first | with_reducible assumption | with_reducible rfl | decide | with_reducible apply State.setPoolFree_paced | with_reducible apply State.setFld_paced | with_reducible apply State.evictTest_paced | with_reducible apply paced_ite | fail_if_no_progress with_reducible refine paced_mk ?_ rfl rfl rfl rfl rfl | split | dsimp only | decide

end Sys2Proof.Machine
end

