-- ==== Sys2Proof/Laws/Firing.lean ====
section
/-! SUPPORT. What the firing of everything due comes to: the boundary count, the open gates, the checkpoint tick. -/

namespace Sys2Proof.Machine

variable {s s0 t : State}

/-- The firing of triggers leaves the estimate. -/
theorem State.Ticked.est (h : s.Ticked t) : t.est = s.est := by
  have e1 := h.bcnPart Beacon.frozen fun _ _ => rfl
  have e2 := h.bcnPart Beacon.anchor fun _ _ => rfl
  have e3 := h.bcnPart Beacon.hold fun _ _ => rfl
  have e4 : t.bcn.advance t.now = s.bcn.advance s.now := by
    rw [h.now]
    exact h.bcnPart (fun b => b.advance s.now) fun _ _ => rfl
  unfold State.est Beacon.est
  rw [e1, e2, e3, e4]
  rcases h.trk with e | ⟨e, -, e'⟩
  · rw [e]
  · rw [e, e']
    rfl

theorem fireDue_est (s : State) (j : Bool) : (s.fireDue j).est = s.est := by
  cases hf : s.fires with
  | false => rw [State.fireDue_idle s j hf]
  | true => exact (State.fireDue_fires s j hf).1.est

theorem fireDue_coasting (s : State) (j : Bool) (h : s.bcn.trk = .coasting) : (s.fireDue j).bcn.trk = .coasting := by
  rcases (State.fireDue_fires s j (by unfold State.fires; rw [h]; rfl)).1.trk with e | ⟨e, -⟩
  · exact e.trans h
  · have : s.bcn.trk = .learning := e
    rw [h] at this
    cases this

/-! ### The parts of a firing -/

/-- A firing starts: the tracker notes it, and no frame starts. -/
def State.begun (s : State) : State :=
  { s with bcn := { s.bcn with fired := max s.bcn.fired (s.est + 1) }, net := { s.net with firing := true } }

/-- The steps whose boundaries are due. -/
def State.stepsDue (s : State) : List Nat := if s.bcn.fired ≤ s.est then stepsIn s.begun.layers s.bcn.fired s.est else []

/-- What follows the triggers that fire together. -/
def State.ended (s : State) : State :=
  let s := s.lateSweep
  let s := s.kv.copies.foldl (fun s c => s.countLate c.die c.step c.layer) s
  let s := (s.releaseCopies 0).releaseCopies 1
  let s := s.cutDue.pumpAll
  { s with net := { s.net with firing := false } }.pickAll.formResults

/-- Without a jump, the boundaries due are walked one by one. -/
theorem fireDue_walk (s : State) (hf : s.fires = true) :
    s.fireDue false = (if s.est < s.bcn.fired then s.begun.fireSpan s.bcn.fired s.est s.est
      else s.begun.walkBoundaries s.est s.stepsDue s.bcn.fired).ended := by
  unfold State.fireDue State.stepsDue
  dsimp only
  rw [if_neg (by rw [hf]; decide)]
  unfold State.ended State.begun
  dsimp only
  by_cases h : s.est < s.bcn.fired
  · rw [if_pos h, if_pos h]
  · rw [if_neg h, if_neg h, if_neg Bool.false_ne_true]

theorem ended_beat (s : State) : s.Beat s.ended := by
  unfold State.ended
  extract_lets s3 s4 s5 s6
  have h5 : s.Beat s6 := State.pumpAll_beat (State.cutDue_beat (State.releaseCopies_beat
    (State.releaseCopies_beat (beat_foldl (fun _ _ h => State.countLate_beat h) _ (State.lateSweep_beat (beat_refl s))))))
  clear_value s6
  have h6 : s6.Beat { s6 with net := { s6.net with firing := false } } := beat_mk (beat_refl s6) rfl rfl rfl rfl rfl rfl
  exact beat_trans (beat_trans h5 h6) (State.formResults_beat (State.pickAll_beat (beat_refl _)))

/-- With no checkpoint planned, what follows the triggers takes none. -/
theorem ended_paced (s : State) (hp : s.ckpt.plan = none) : s.Paced s.ended := by
  unfold State.ended
  extract_lets s3 s4 s5 s6
  have h5 : s.Paced s5 := State.releaseCopies_paced (State.releaseCopies_paced
    (paced_foldl (fun _ _ h => State.countLate_paced h) _ (State.lateSweep_paced (paced_refl s))))
  have h6 : s.Paced s6 := by
    unfold s6 State.cutDue
    rw [h5.plan, hp]
    exact State.pumpAll_paced h5
  clear_value s6
  exact State.formResults_paced (State.pickAll_paced (paced_mk h6 rfl rfl rfl rfl rfl))

theorem begun_paced (s : State) : s.Paced s.begun := ⟨rfl, rfl, rfl, rfl, rfl, fun _ _ => rfl⟩

/-! ### The boundary count (R45) -/

theorem getBits_lt (w : Word) (hi lo : Nat) : getBits w hi lo < 2 ^ (hi - lo + 1) := BitVec.isLt _

theorem boundary_lt (s : State) : s.boundary < 2 ^ 48 := getBits_lt _ 47 0

theorem State.Beat.boundary (h : s0.Beat s) : s.boundary = s0.boundary := h.fld (by decide)
theorem State.Span.boundary (h : s0.Span s) : s.boundary = s0.boundary := by
  unfold State.boundary State.fld
  rw [h.reg Reg.SES_BOUNDARY (by decide)]

theorem setFld_boundary_ne {die sel : Nat} {f : Field} {v : Nat} (h : 0 ≠ die ∨ 0 ≠ sel ∨ Reg.SES_BOUNDARY ≠ f.reg) :
    (s.setFld die sel f v).boundary = s.boundary := fld_setFld_ne s v h

/-- Each bookkeeping raises the boundary count by one. -/
theorem bookkeep_boundary (s : State) : s.bookkeep.boundary = (s.boundary + 1) % 2 ^ 48 := by
  unfold State.bookkeep
  extract_lets s1 s2 s3 s4 s5 s6 s7 x8 s8 x9 s9 s10
  have b2 : s2.boundary = s.boundary := (beat_trans (State.remapAll_beat (beat_refl s)) (State.endLimitStep_beat (beat_refl _))).boundary
  have b3 : s3.boundary = (s.boundary + 1) % 2 ^ 48 := by
    unfold s3
    unfold State.boundary
    rw [fld_setFld_self _ _ _ _ _ (by decide) (by decide)]
    show (s2.boundary + 1) % _ = _
    rw [b2]
    rfl
  have b4 : s4.boundary = (s.boundary + 1) % 2 ^ 48 := (setFld_boundary_ne (by decide)).trans b3
  have b5 : s5.boundary = (s.boundary + 1) % 2 ^ 48 := (State.expireAll_beat (beat_refl _)).boundary.trans b4
  have b6 : s6.boundary = (s.boundary + 1) % 2 ^ 48 := by
    have : s5.lockTest.boundary = s5.boundary := by
      unfold State.lockTest
      split <;> rfl
    unfold s6 State.newLeads
    dsimp only
    rw [setFld_boundary_ne (by decide), setFld_boundary_ne (by decide), setFld_boundary_ne (by decide),
      setFld_boundary_ne (by decide), this, b5]
  have b7 : s7.boundary = (s.boundary + 1) % 2 ^ 48 := (beat_trans (beat_trans (State.markOver_beat (beat_refl s6))
    (State.releaseDue_beat (beat_refl _))) (State.dropOldSteps_beat (beat_refl _))).boundary.trans b6
  clear_value s7
  have b9 : s9.boundary = (s.boundary + 1) % 2 ^ 48 := by
    unfold s9
    split
    · exact (setFld_boundary_ne (by decide)).trans b7
    · exact b7
  clear_value s9
  have h10 : s9.Beat ((((s10.evictTest 0 1).evictTest 0 2).evictTest 1 1).evictTest 1 2) :=
    State.evictTest_beat (State.evictTest_beat (State.evictTest_beat (State.evictTest_beat (State.beginPlan_beat (beat_refl _)))))
  exact h10.boundary.trans b9

theorem boundaryAt_boundary (s : State) (l : List Nat) : (s.boundaryAt l).boundary = (s.boundary + 1) % 2 ^ 48 := by
  unfold State.boundaryAt
  extract_lets s1 n s2
  have h2 : s2.boundary = (s.boundary + 1) % 2 ^ 48 := by
    unfold s2
    split
    · exact (State.ckptTick_beat (beat_refl _)).boundary.trans (bookkeep_boundary s)
    · exact bookkeep_boundary s
  exact (span_foldl (fun _ _ h => State.swapGates_span h) _ (span_refl s2)).boundary.trans h2

theorem walkBoundaries_boundary (s : State) (now : Nat) (l : List Nat) (a : Nat) :
    (s.walkBoundaries now l a).boundary = (s.boundary + l.length) % 2 ^ 48 := by
  induction l generalizing s a with
  | nil =>
    refine (State.fireSpan_span (span_refl s)).boundary.trans ?_
    exact (Nat.mod_eq_of_lt (boundary_lt s)).symm
  | cons x l ih =>
    unfold State.walkBoundaries
    extract_lets pos u
    have hu : u.boundary = s.boundary := (span_ite (State.fireSpan_span (span_refl s)) (span_refl s)).boundary
    rw [ih, boundaryAt_boundary, hu, Nat.mod_add_mod]
    congr 1
    simp only [List.length_cons]
    omega

/-- Each boundary the estimate has reached raises the count by one, without a jump. -/
theorem fireDue_boundary (s : State) (hf : s.fires = true) :
    (s.fireDue false).boundary = (s.boundary + s.stepsDue.length) % 2 ^ 48 := by
  rw [fireDue_walk s hf, (ended_beat _).boundary]
  split
  · rename_i h
    unfold State.stepsDue
    rw [if_neg (by omega)]
    exact (State.fireSpan_span (span_refl s.begun)).boundary.trans (Nat.mod_eq_of_lt (boundary_lt s)).symm
  · exact walkBoundaries_boundary s.begun s.est s.stepsDue s.bcn.fired

/-! ### Open gates (R299) -/

/-- Whether entry `i` of port `p` is open after an event that found it as `b`. -/
def TrigEv.opens (p i : Nat) (b : Bool) : TrigEv → Bool
  | .close q j _ => if q = p ∧ j = i then false else b
  | .open_ q j _ => if q = p ∧ j = i then true else b
  | .wake _ => b
  | .pf _ _ => b

theorem setPort_opened (s : State) (p q : Nat) (v : Port) :
    ((s.setPort q v).port p).opened = if p = q then v.opened else (s.port p).opened := by
  unfold State.port State.setPort
  by_cases e : p = q
  · subst e
    rw [if_pos rfl, alGet_alSet_self]
    rfl
  · rw [if_neg e, alGet_alSet_ne e]

theorem openGate_opened (s : State) (q j y p i : Nat) :
    ((s.openGate q j y).port p).opened.contains i = (if q = p ∧ j = i then true else (s.port p).opened.contains i) := by
  unfold State.openGate
  extract_lets was s1 x2 s2
  split
  · rename_i h
    split
    · rename_i e
      obtain ⟨rfl, rfl⟩ := e
      exact h
    · rfl
  · have hb : (s1.setPort q { s1.port q with opened := j :: was }).Beat
        (if getBits (s2.gate q j) 61 61 = 1 then s2.carry q (y / s2.layers) (y % s2.layers) else s2) :=
      beat_ite (State.carry_beat (State.overrun_beat (beat_refl _))) (State.overrun_beat (beat_refl _))
    rw [hb.opened p, setPort_opened]
    have h1 : (s1.port p).opened = (s.port p).opened := (State.settle_beat (beat_refl s)).opened p
    by_cases e : p = q
    · subst e
      rw [if_pos rfl]
      show (j :: (s.port p).opened).contains i = _
      by_cases ej : j = i
      · subst ej
        simp
      · rw [if_neg (by simp [ej])]
        simp [Ne.symm ej]
    · rw [if_neg e, if_neg (by rintro ⟨rfl, -⟩; exact e rfl), h1]

theorem closeGate_opened (s : State) (q j y p i : Nat) :
    ((s.closeGate q j y).port p).opened.contains i = (if q = p ∧ j = i then false else (s.port p).opened.contains i) := by
  unfold State.closeGate
  extract_lets was s1 x2 s2
  split
  · have hb : (s1.setPort q { s1.port q with opened := was.filter (fun (x : Nat) => x != j) }).Beat
        (if getBits (s2.gate q j) 61 61 = 1 then (s2.missClose q (y / s2.layers) (y % s2.layers)).countSplit q else s2) :=
      beat_ite (State.countSplit_beat (State.missClose_beat (State.overrun_beat (beat_refl _)))) (State.overrun_beat (beat_refl _))
    rw [hb.opened p, setPort_opened]
    have h1 : (s1.port p).opened = (s.port p).opened := (State.settle_beat (beat_refl s)).opened p
    by_cases e : p = q
    · subst e
      rw [if_pos rfl]
      show ((s.port p).opened.filter (fun (x : Nat) => x != j)).contains i = _
      by_cases ej : j = i
      · subst ej
        simp
      · rw [if_neg (by simp [ej])]
        simp [Ne.symm ej]
    · rw [if_neg e, if_neg (by rintro ⟨rfl, -⟩; exact e rfl), h1]
  · rename_i h
    split
    · rename_i e
      obtain ⟨rfl, rfl⟩ := e
      exact eq_false_of_ne_true h
    · rfl

theorem fireEv_opened (s : State) (e : TrigEv) (p i : Nat) :
    ((s.fireEv e).port p).opened.contains i = e.opens p i ((s.port p).opened.contains i) := by
  cases e with
  | close q j y => exact closeGate_opened s q j y p i
  | open_ q j y => exact openGate_opened s q j y p i
  | wake x =>
    exact congrArg (fun l : List Nat => l.contains i) ((beat_ite (State.fireTrig_beat (beat_refl s)) (beat_refl s)).opened p)
  | pf slot x => exact congrArg (fun l : List Nat => l.contains i) ((State.firePrefetch_beat (beat_refl s)).opened p)

theorem fireEvs_opened (l : List (Nat × TrigEv)) (s : State) (p i : Nat) :
    ((l.foldl (fun s e => s.fireEv e.2) s).port p).opened.contains i
      = l.foldl (fun b e => e.2.opens p i b) ((s.port p).opened.contains i) := by
  induction l generalizing s with
  | nil => rfl
  | cons e l ih =>
    refine (ih _).trans ?_
    show List.foldl _ _ l = List.foldl _ _ l
    rw [fireEv_opened]

/-- The rank of a trigger by position and kind (R27). -/
def evRank (e : Nat × TrigEv) : Nat := e.1 * 8 + e.2.key.1

theorem key_lt (e : TrigEv) : e.key.1 < 8 := by
  cases e <;> unfold TrigEv.key <;> dsimp only <;> (try split) <;> decide

theorem evBefore_rank {a b : Nat × TrigEv} (h : evBefore a b = true) : evRank a ≤ evRank b := by
  have h1 := key_lt a.2
  have h2 := key_lt b.2
  unfold evBefore at h
  unfold evRank
  simp only [Bool.or_eq_true, Bool.and_eq_true, decide_eq_true_eq, beq_iff_eq] at h
  omega

theorem evBefore_not {a b : Nat × TrigEv} (h : evBefore a b = false) : evRank b ≤ evRank a := by
  have h1 := key_lt a.2
  have h2 := key_lt b.2
  unfold evBefore at h
  unfold evRank
  simp only [Bool.or_eq_false_iff, Bool.and_eq_false_iff, decide_eq_false_iff_not, beq_eq_false_iff_ne, ne_eq] at h
  omega

theorem evInsert_sorted (a : Nat × TrigEv) (l : List (Nat × TrigEv)) (h : l.Pairwise (fun x y => evRank x ≤ evRank y)) :
    (evInsert a l).Pairwise (fun x y => evRank x ≤ evRank y) := by
  induction l with
  | nil => exact List.pairwise_singleton _ _
  | cons b l ih =>
    rw [List.pairwise_cons] at h
    unfold evInsert
    split
    · rename_i hb
      rw [List.pairwise_cons]
      refine ⟨fun x hx => ?_, ih h.2⟩
      rcases (mem_evInsert a x l).mp hx with rfl | hx
      · exact evBefore_rank hb
      · exact h.1 x hx
    · rename_i hb
      have hr := evBefore_not (Bool.eq_false_iff.mpr hb)
      rw [List.pairwise_cons, List.pairwise_cons]
      refine ⟨fun x hx => ?_, h.1, h.2⟩
      rcases List.mem_cons.mp hx with rfl | hx
      · exact hr
      · exact Nat.le_trans hr (h.1 x hx)

theorem evSort_sorted (l m : List (Nat × TrigEv)) (h : m.Pairwise (fun x y => evRank x ≤ evRank y)) :
    (l.foldl (fun l e => evInsert e l) m).Pairwise (fun x y => evRank x ≤ evRank y) := by
  induction l generalizing m with
  | nil => exact h
  | cons a l ih => exact ih _ (evInsert_sorted a m h)

/-- The last edge of an entry decides, in a list in rank order. -/
theorem opens_last (l : List (Nat × TrigEv)) (hs : l.Pairwise (fun x y => evRank x ≤ evRank y)) (p i : Nat) (b c : Bool)
    (e : Nat × TrigEv) (he : e ∈ l) (hc : ∀ b, e.2.opens p i b = c)
    (hlast : ∀ x ∈ l, (∃ b, x.2.opens p i b ≠ b ∧ x.2.opens p i b ≠ c) → evRank x < evRank e) :
    l.foldl (fun b e => e.2.opens p i b) b = c := by
  have edge : ∀ x : TrigEv, (∀ b, x.opens p i b = b) ∨ (∃ d, ∀ b, x.opens p i b = d) := by
    intro x
    cases x with
    | close q j y =>
      by_cases h : q = p ∧ j = i
      · exact .inr ⟨false, fun b => if_pos h⟩
      · exact .inl fun b => if_neg h
    | open_ q j y =>
      by_cases h : q = p ∧ j = i
      · exact .inr ⟨true, fun b => if_pos h⟩
      · exact .inl fun b => if_neg h
    | wake x => exact .inl fun _ => rfl
    | pf s x => exact .inl fun _ => rfl
  have keep : ∀ l : List (Nat × TrigEv), (∀ x ∈ l, evRank e ≤ evRank x) → (∀ x ∈ l, (∃ b, x.2.opens p i b ≠ b ∧ x.2.opens p i b ≠ c) →
      evRank x < evRank e) → l.foldl (fun b e => e.2.opens p i b) c = c := by
    intro l
    induction l with
    | nil => intro _ _; rfl
    | cons x l ih =>
      intro h1 h2
      have hx : x.2.opens p i c = c := by
        rcases edge x.2 with h | ⟨d, h⟩
        · exact h c
        · by_contra hne
          have := h2 x (.head _) ⟨c, hne, hne⟩
          have := h1 x (.head _)
          omega
      show List.foldl _ (x.2.opens p i c) l = c
      rw [hx]
      exact ih (fun y hy => h1 y (.tail _ hy)) (fun y hy => h2 y (.tail _ hy))
  induction l generalizing b with
  | nil => cases he
  | cons x l ih =>
    rw [List.pairwise_cons] at hs
    rcases List.mem_cons.mp he with rfl | he
    · show List.foldl _ (e.2.opens p i b) l = c
      rw [hc]
      exact keep l (fun y hy => hs.1 y hy) (fun y hy => hlast y (.tail _ hy))
    · exact ih hs.2 _ he (fun y hy => hlast y (.tail _ hy))

/-- The edges of one entry among the edges of a port. -/
theorem mem_gateEvents {s : State} {a b p : Nat} {e : Nat × TrigEv} (h : e ∈ s.gateEvents a b p) :
    ∃ i y, e = (y * 256 + getBits (s.gate p i) 7 0, .open_ p i y) ∧ e.1 ≤ b
      ∨ e = (y * 256 + getBits (s.gate p i) 16 8, .close p i y) ∧ e.1 ≤ b := by
  unfold State.gateEvents at h
  simp only [List.mem_flatten, List.mem_map] at h
  obtain ⟨l, ⟨i, -, rfl⟩, h⟩ := h
  simp only [List.mem_flatten, List.mem_map] at h
  obtain ⟨l, ⟨k, -, rfl⟩, h⟩ := h
  refine ⟨i, max (a / 256 - 1) (b / 256 - (s.layers + 1)) + k, ?_⟩
  split at h
  · rcases List.mem_append.mp h with h | h
    · split at h
      · rename_i c
        rw [List.mem_singleton] at h
        exact .inl ⟨h, h ▸ c.2⟩
      · cases h
    · split at h
      · rename_i c
        rw [List.mem_singleton] at h
        exact .inr ⟨h, h ▸ c.2⟩
      · cases h
  · cases h

/-- An edge of a port is one of the events of a span. -/
theorem gateEvents_mem {s : State} {a b p i y : Nat} (hi : i ∈ s.gateList p) (hl : gateLayer (s.gate p i) (y % s.layers) = true)
    (hg : s.bcn.gateBase ≤ y * 256 + getBits (s.gate p i) 7 0) (hy : max (a / 256 - 1) (b / 256 - (s.layers + 1)) ≤ y)
    (hb : y ≤ b / 256) :
    (a ≤ y * 256 + getBits (s.gate p i) 7 0 ∧ y * 256 + getBits (s.gate p i) 7 0 ≤ b →
      (y * 256 + getBits (s.gate p i) 7 0, TrigEv.open_ p i y) ∈ s.gateEvents a b p)
    ∧ (a ≤ y * 256 + getBits (s.gate p i) 16 8 ∧ y * 256 + getBits (s.gate p i) 16 8 ≤ b →
      (y * 256 + getBits (s.gate p i) 16 8, TrigEv.close p i y) ∈ s.gateEvents a b p) := by
  have key : ∀ e : Nat × TrigEv,
      e ∈ (if a ≤ y * 256 + getBits (s.gate p i) 7 0 ∧ y * 256 + getBits (s.gate p i) 7 0 ≤ b
          then [(y * 256 + getBits (s.gate p i) 7 0, TrigEv.open_ p i y)] else [])
        ++ (if a ≤ y * 256 + getBits (s.gate p i) 16 8 ∧ y * 256 + getBits (s.gate p i) 16 8 ≤ b
          then [(y * 256 + getBits (s.gate p i) 16 8, TrigEv.close p i y)] else []) → e ∈ s.gateEvents a b p := by
    intro e he
    unfold State.gateEvents
    simp only [List.mem_flatten, List.mem_map]
    refine ⟨_, ⟨i, hi, rfl⟩, ?_⟩
    simp only [List.mem_flatten, List.mem_map]
    refine ⟨_, ⟨y - max (a / 256 - 1) (b / 256 - (s.layers + 1)), List.mem_range.mpr (by omega), rfl⟩, ?_⟩
    rw [Nat.add_sub_cancel' hy, if_pos (by rw [hl, decide_eq_true hg]; rfl)]
    exact he
  constructor
  · intro h
    exact key _ (List.mem_append_left _ (by rw [if_pos h]; exact .head _))
  · intro h
    exact key _ (List.mem_append_right _ (by rw [if_pos h]; exact .head _))

/-- The gate events of a span are fired among the others in rank order: the last edge of an entry decides. -/
theorem fireSpan_opened {s : State} {a b now p i : Nat} {c : Bool} {e : Nat × TrigEv} (hp : p ∈ s.net.ports.map (·.1))
    (he : e ∈ s.gateEvents a b p) (hc : ∀ b, e.2.opens p i b = c)
    (hlast : ∀ x ∈ s.gateEvents a b p, (∃ b, x.2.opens p i b ≠ b ∧ x.2.opens p i b ≠ c) → evRank x < evRank e) :
    ((s.fireSpan a b now).port p).opened.contains i = c := by
  unfold State.fireSpan
  extract_lets evs u
  show (u.port p).opened.contains i = c
  unfold u
  rw [fireEvs_opened]
  refine opens_last evs (evSort_sorted _ [] List.Pairwise.nil) p i _ c e ?_ hc ?_
  · unfold evs
    rw [mem_foldl_evInsert]
    refine .inl (List.mem_append_left _ (List.mem_append_left _ (List.mem_flatten.mpr ⟨_, List.mem_map.mpr ⟨p, hp, rfl⟩, he⟩)))
  · intro x hx hne
    unfold evs at hx
    rw [mem_foldl_evInsert] at hx
    rcases hx with hx | hx
    · obtain ⟨d, h1, h2⟩ := hne
      rcases List.mem_append.mp hx with hx | hx
      · rcases List.mem_append.mp hx with hx | hx
        · obtain ⟨l, hl, hx⟩ := List.mem_flatten.mp hx
          obtain ⟨q, -, rfl⟩ := List.mem_map.mp hl
          by_cases eq : q = p
          · subst eq
            exact hlast x hx ⟨d, h1, h2⟩
          · exfalso
            obtain ⟨j, y, ⟨ex, -⟩ | ⟨ex, -⟩⟩ := mem_gateEvents hx
            all_goals
              rw [ex] at h1
              exact h1 (if_neg fun h => eq h.1)
        · exfalso
          unfold State.wakeEvents at hx
          obtain ⟨z, -, rfl⟩ := List.mem_map.mp hx
          exact h1 rfl
      · exfalso
        unfold State.prefetchEvents at hx
        simp only [List.mem_flatten, List.mem_map] at hx
        obtain ⟨l, ⟨k, -, rfl⟩, hx⟩ := hx
        obtain ⟨z, -, rfl⟩ := List.mem_map.mp hx
        exact h1 rfl
    · cases hx

/-! ### The checkpoint tick (R382, R383) -/

theorem cut_run (s : State) (kind trigger : Nat) : ∃ r, (s.cut kind trigger).ckpt.run = some r ∧ r.kind = kind := by
  unfold State.cut
  extract_lets id slot x r old s1 x2 s2 s3 s4 x5 s5 s6 s7
  have hput : ∀ (u : State) (h : ShardHdr), (u.putHead h).ckpt.run = u.ckpt.run := fun _ _ => rfl
  have hpins : ∀ (l : List (Nat × Nat × Nat)) (f : Nat → Nat) (u : State), (u.mapPins l f).ckpt.run = u.ckpt.run :=
    fun l f u => (State.mapPins_paced (paced_refl u)).run
  have hold : ∀ (l : List Nat) (u : State), (l.foldl (fun s n => s.discard n) u).ckpt.run = u.ckpt.run := by
    intro l
    induction l with
    | nil => intro u; rfl
    | cons n l ih =>
      intro u
      refine (ih _).trans ?_
      exact hpins _ _ u
  have h7 : s7.ckpt.run = some r := by
    show s4.ckpt.run = some r
    unfold s4
    rw [hold]
    rfl
  refine ⟨r, ?_, rfl⟩
  have hr : (s7.startRec id).ckpt.run = some r := by
    unfold State.startRec
    split
    · exact h7
    · exact h7
  exact (State.raise_reported (reported_refl (s7.startRec id))).ckpt ▸ hr

theorem cut_plan (s : State) (kind trigger : Nat) : (s.cut kind trigger).ckpt.plan = none := by
  unfold State.cut
  extract_lets id slot x r old s1 x2 s2 s3 s4 x5 s5 s6 s7
  have hold : ∀ (l : List Nat) (u : State), (l.foldl (fun s n => s.discard n) u).ckpt.plan = u.ckpt.plan := by
    intro l
    induction l with
    | nil => intro u; rfl
    | cons n l ih =>
      intro u
      refine (ih _).trans ?_
      exact (State.mapPins_paced (paced_refl u)).plan
  have h7 : s7.ckpt.plan = none := by
    show s4.ckpt.plan = none
    unfold s4
    rw [hold]
    rfl
  have hr : (s7.startRec id).ckpt.plan = none := by
    unfold State.startRec
    split
    · exact h7
    · exact h7
  exact (State.raise_reported (reported_refl (s7.startRec id))).ckpt ▸ hr

end Sys2Proof.Machine
end

