-- ==== Sys2Proof/Laws/State.lean ====
section
/-! SUPPORT. What each update of the state leaves of its fields: one lemma per field per update. -/

namespace Sys2Proof.Machine

/-! ### `State.setReg` -/

@[simp] theorem State.setReg_now (s : State) (d i : Nat) (r : RegId) (w : Word) : (s.setReg d i r w).now = s.now := rfl
@[simp] theorem State.setReg_pending (s : State) (d i : Nat) (r : RegId) (w : Word) : (s.setReg d i r w).pending = s.pending := rfl
@[simp] theorem State.setReg_free (s : State) (d i : Nat) (r : RegId) (w : Word) : (s.setReg d i r w).free = s.free := rfl
@[simp] theorem State.setReg_bcn (s : State) (d i : Nat) (r : RegId) (w : Word) : (s.setReg d i r w).bcn = s.bcn := rfl
@[simp] theorem State.setReg_ev (s : State) (d i : Nat) (r : RegId) (w : Word) : (s.setReg d i r w).ev = s.ev := rfl
@[simp] theorem State.setReg_ses (s : State) (d i : Nat) (r : RegId) (w : Word) : (s.setReg d i r w).ses = s.ses := rfl
@[simp] theorem State.setReg_kv (s : State) (d i : Nat) (r : RegId) (w : Word) : (s.setReg d i r w).kv = s.kv := rfl
@[simp] theorem State.setReg_attn (s : State) (d i : Nat) (r : RegId) (w : Word) : (s.setReg d i r w).attn = s.attn := rfl
@[simp] theorem State.setReg_grams (s : State) (d i : Nat) (r : RegId) (w : Word) : (s.setReg d i r w).grams = s.grams := rfl
@[simp] theorem State.setReg_net (s : State) (d i : Nat) (r : RegId) (w : Word) : (s.setReg d i r w).net = s.net := rfl
@[simp] theorem State.setReg_lamp (s : State) (d i : Nat) (r : RegId) (w : Word) : (s.setReg d i r w).lamp = s.lamp := rfl
@[simp] theorem State.setReg_tier (s : State) (d i : Nat) (r : RegId) (w : Word) : (s.setReg d i r w).tier = s.tier := rfl
@[simp] theorem State.setReg_start (s : State) (d i : Nat) (r : RegId) (w : Word) : (s.setReg d i r w).start = s.start := rfl
@[simp] theorem State.setReg_flash (s : State) (d i : Nat) (r : RegId) (w : Word) : (s.setReg d i r w).flash = s.flash := rfl
@[simp] theorem State.setReg_ident (s : State) (d i : Nat) (r : RegId) (w : Word) : (s.setReg d i r w).ident = s.ident := rfl
@[simp] theorem State.setReg_ckpt (s : State) (d i : Nat) (r : RegId) (w : Word) : (s.setReg d i r w).ckpt = s.ckpt := rfl
@[simp] theorem State.setReg_health (s : State) (d i : Nat) (r : RegId) (w : Word) : (s.setReg d i r w).health = s.health := rfl
@[simp] theorem State.setReg_rp (s : State) (d i : Nat) (r : RegId) (w : Word) : (s.setReg d i r w).rp = s.rp := rfl
@[simp] theorem State.setReg_pins (s : State) (d i : Nat) (r : RegId) (w : Word) : (s.setReg d i r w).pins = s.pins := rfl

/-! ### `State.setFld` -/

@[simp] theorem State.setFld_now (s : State) (d i : Nat) (f : Field) (v : Nat) : (s.setFld d i f v).now = s.now := rfl
@[simp] theorem State.setFld_pending (s : State) (d i : Nat) (f : Field) (v : Nat) : (s.setFld d i f v).pending = s.pending := rfl
@[simp] theorem State.setFld_free (s : State) (d i : Nat) (f : Field) (v : Nat) : (s.setFld d i f v).free = s.free := rfl
@[simp] theorem State.setFld_bcn (s : State) (d i : Nat) (f : Field) (v : Nat) : (s.setFld d i f v).bcn = s.bcn := rfl
@[simp] theorem State.setFld_ev (s : State) (d i : Nat) (f : Field) (v : Nat) : (s.setFld d i f v).ev = s.ev := rfl
@[simp] theorem State.setFld_ses (s : State) (d i : Nat) (f : Field) (v : Nat) : (s.setFld d i f v).ses = s.ses := rfl
@[simp] theorem State.setFld_kv (s : State) (d i : Nat) (f : Field) (v : Nat) : (s.setFld d i f v).kv = s.kv := rfl
@[simp] theorem State.setFld_attn (s : State) (d i : Nat) (f : Field) (v : Nat) : (s.setFld d i f v).attn = s.attn := rfl
@[simp] theorem State.setFld_grams (s : State) (d i : Nat) (f : Field) (v : Nat) : (s.setFld d i f v).grams = s.grams := rfl
@[simp] theorem State.setFld_net (s : State) (d i : Nat) (f : Field) (v : Nat) : (s.setFld d i f v).net = s.net := rfl
@[simp] theorem State.setFld_lamp (s : State) (d i : Nat) (f : Field) (v : Nat) : (s.setFld d i f v).lamp = s.lamp := rfl
@[simp] theorem State.setFld_tier (s : State) (d i : Nat) (f : Field) (v : Nat) : (s.setFld d i f v).tier = s.tier := rfl
@[simp] theorem State.setFld_start (s : State) (d i : Nat) (f : Field) (v : Nat) : (s.setFld d i f v).start = s.start := rfl
@[simp] theorem State.setFld_flash (s : State) (d i : Nat) (f : Field) (v : Nat) : (s.setFld d i f v).flash = s.flash := rfl
@[simp] theorem State.setFld_ident (s : State) (d i : Nat) (f : Field) (v : Nat) : (s.setFld d i f v).ident = s.ident := rfl
@[simp] theorem State.setFld_ckpt (s : State) (d i : Nat) (f : Field) (v : Nat) : (s.setFld d i f v).ckpt = s.ckpt := rfl
@[simp] theorem State.setFld_health (s : State) (d i : Nat) (f : Field) (v : Nat) : (s.setFld d i f v).health = s.health := rfl
@[simp] theorem State.setFld_rp (s : State) (d i : Nat) (f : Field) (v : Nat) : (s.setFld d i f v).rp = s.rp := rfl
@[simp] theorem State.setFld_pins (s : State) (d i : Nat) (f : Field) (v : Nat) : (s.setFld d i f v).pins = s.pins := rfl

/-! ### `State.bumpBy` -/

@[simp] theorem State.bumpBy_now (s : State) (d i : Nat) (f : Field) (n : Nat) : (s.bumpBy d i f n).now = s.now := rfl
@[simp] theorem State.bumpBy_pending (s : State) (d i : Nat) (f : Field) (n : Nat) : (s.bumpBy d i f n).pending = s.pending := rfl
@[simp] theorem State.bumpBy_free (s : State) (d i : Nat) (f : Field) (n : Nat) : (s.bumpBy d i f n).free = s.free := rfl
@[simp] theorem State.bumpBy_bcn (s : State) (d i : Nat) (f : Field) (n : Nat) : (s.bumpBy d i f n).bcn = s.bcn := rfl
@[simp] theorem State.bumpBy_ev (s : State) (d i : Nat) (f : Field) (n : Nat) : (s.bumpBy d i f n).ev = s.ev := rfl
@[simp] theorem State.bumpBy_ses (s : State) (d i : Nat) (f : Field) (n : Nat) : (s.bumpBy d i f n).ses = s.ses := rfl
@[simp] theorem State.bumpBy_kv (s : State) (d i : Nat) (f : Field) (n : Nat) : (s.bumpBy d i f n).kv = s.kv := rfl
@[simp] theorem State.bumpBy_attn (s : State) (d i : Nat) (f : Field) (n : Nat) : (s.bumpBy d i f n).attn = s.attn := rfl
@[simp] theorem State.bumpBy_grams (s : State) (d i : Nat) (f : Field) (n : Nat) : (s.bumpBy d i f n).grams = s.grams := rfl
@[simp] theorem State.bumpBy_net (s : State) (d i : Nat) (f : Field) (n : Nat) : (s.bumpBy d i f n).net = s.net := rfl
@[simp] theorem State.bumpBy_lamp (s : State) (d i : Nat) (f : Field) (n : Nat) : (s.bumpBy d i f n).lamp = s.lamp := rfl
@[simp] theorem State.bumpBy_tier (s : State) (d i : Nat) (f : Field) (n : Nat) : (s.bumpBy d i f n).tier = s.tier := rfl
@[simp] theorem State.bumpBy_start (s : State) (d i : Nat) (f : Field) (n : Nat) : (s.bumpBy d i f n).start = s.start := rfl
@[simp] theorem State.bumpBy_flash (s : State) (d i : Nat) (f : Field) (n : Nat) : (s.bumpBy d i f n).flash = s.flash := rfl
@[simp] theorem State.bumpBy_ident (s : State) (d i : Nat) (f : Field) (n : Nat) : (s.bumpBy d i f n).ident = s.ident := rfl
@[simp] theorem State.bumpBy_ckpt (s : State) (d i : Nat) (f : Field) (n : Nat) : (s.bumpBy d i f n).ckpt = s.ckpt := rfl
@[simp] theorem State.bumpBy_health (s : State) (d i : Nat) (f : Field) (n : Nat) : (s.bumpBy d i f n).health = s.health := rfl
@[simp] theorem State.bumpBy_rp (s : State) (d i : Nat) (f : Field) (n : Nat) : (s.bumpBy d i f n).rp = s.rp := rfl
@[simp] theorem State.bumpBy_pins (s : State) (d i : Nat) (f : Field) (n : Nat) : (s.bumpBy d i f n).pins = s.pins := rfl

/-! ### `State.bump` -/

@[simp] theorem State.bump_now (s : State) (d i : Nat) (f : Field) : (s.bump d i f).now = s.now := rfl
@[simp] theorem State.bump_pending (s : State) (d i : Nat) (f : Field) : (s.bump d i f).pending = s.pending := rfl
@[simp] theorem State.bump_free (s : State) (d i : Nat) (f : Field) : (s.bump d i f).free = s.free := rfl
@[simp] theorem State.bump_bcn (s : State) (d i : Nat) (f : Field) : (s.bump d i f).bcn = s.bcn := rfl
@[simp] theorem State.bump_ev (s : State) (d i : Nat) (f : Field) : (s.bump d i f).ev = s.ev := rfl
@[simp] theorem State.bump_ses (s : State) (d i : Nat) (f : Field) : (s.bump d i f).ses = s.ses := rfl
@[simp] theorem State.bump_kv (s : State) (d i : Nat) (f : Field) : (s.bump d i f).kv = s.kv := rfl
@[simp] theorem State.bump_attn (s : State) (d i : Nat) (f : Field) : (s.bump d i f).attn = s.attn := rfl
@[simp] theorem State.bump_grams (s : State) (d i : Nat) (f : Field) : (s.bump d i f).grams = s.grams := rfl
@[simp] theorem State.bump_net (s : State) (d i : Nat) (f : Field) : (s.bump d i f).net = s.net := rfl
@[simp] theorem State.bump_lamp (s : State) (d i : Nat) (f : Field) : (s.bump d i f).lamp = s.lamp := rfl
@[simp] theorem State.bump_tier (s : State) (d i : Nat) (f : Field) : (s.bump d i f).tier = s.tier := rfl
@[simp] theorem State.bump_start (s : State) (d i : Nat) (f : Field) : (s.bump d i f).start = s.start := rfl
@[simp] theorem State.bump_flash (s : State) (d i : Nat) (f : Field) : (s.bump d i f).flash = s.flash := rfl
@[simp] theorem State.bump_ident (s : State) (d i : Nat) (f : Field) : (s.bump d i f).ident = s.ident := rfl
@[simp] theorem State.bump_ckpt (s : State) (d i : Nat) (f : Field) : (s.bump d i f).ckpt = s.ckpt := rfl
@[simp] theorem State.bump_health (s : State) (d i : Nat) (f : Field) : (s.bump d i f).health = s.health := rfl
@[simp] theorem State.bump_rp (s : State) (d i : Nat) (f : Field) : (s.bump d i f).rp = s.rp := rfl
@[simp] theorem State.bump_pins (s : State) (d i : Nat) (f : Field) : (s.bump d i f).pins = s.pins := rfl

/-! ### `State.lower` -/

@[simp] theorem State.lower_now (s : State) (d i : Nat) (f : Field) (n : Nat) : (s.lower d i f n).now = s.now := rfl
@[simp] theorem State.lower_pending (s : State) (d i : Nat) (f : Field) (n : Nat) : (s.lower d i f n).pending = s.pending := rfl
@[simp] theorem State.lower_free (s : State) (d i : Nat) (f : Field) (n : Nat) : (s.lower d i f n).free = s.free := rfl
@[simp] theorem State.lower_bcn (s : State) (d i : Nat) (f : Field) (n : Nat) : (s.lower d i f n).bcn = s.bcn := rfl
@[simp] theorem State.lower_ev (s : State) (d i : Nat) (f : Field) (n : Nat) : (s.lower d i f n).ev = s.ev := rfl
@[simp] theorem State.lower_ses (s : State) (d i : Nat) (f : Field) (n : Nat) : (s.lower d i f n).ses = s.ses := rfl
@[simp] theorem State.lower_kv (s : State) (d i : Nat) (f : Field) (n : Nat) : (s.lower d i f n).kv = s.kv := rfl
@[simp] theorem State.lower_attn (s : State) (d i : Nat) (f : Field) (n : Nat) : (s.lower d i f n).attn = s.attn := rfl
@[simp] theorem State.lower_grams (s : State) (d i : Nat) (f : Field) (n : Nat) : (s.lower d i f n).grams = s.grams := rfl
@[simp] theorem State.lower_net (s : State) (d i : Nat) (f : Field) (n : Nat) : (s.lower d i f n).net = s.net := rfl
@[simp] theorem State.lower_lamp (s : State) (d i : Nat) (f : Field) (n : Nat) : (s.lower d i f n).lamp = s.lamp := rfl
@[simp] theorem State.lower_tier (s : State) (d i : Nat) (f : Field) (n : Nat) : (s.lower d i f n).tier = s.tier := rfl
@[simp] theorem State.lower_start (s : State) (d i : Nat) (f : Field) (n : Nat) : (s.lower d i f n).start = s.start := rfl
@[simp] theorem State.lower_flash (s : State) (d i : Nat) (f : Field) (n : Nat) : (s.lower d i f n).flash = s.flash := rfl
@[simp] theorem State.lower_ident (s : State) (d i : Nat) (f : Field) (n : Nat) : (s.lower d i f n).ident = s.ident := rfl
@[simp] theorem State.lower_ckpt (s : State) (d i : Nat) (f : Field) (n : Nat) : (s.lower d i f n).ckpt = s.ckpt := rfl
@[simp] theorem State.lower_health (s : State) (d i : Nat) (f : Field) (n : Nat) : (s.lower d i f n).health = s.health := rfl
@[simp] theorem State.lower_rp (s : State) (d i : Nat) (f : Field) (n : Nat) : (s.lower d i f n).rp = s.rp := rfl
@[simp] theorem State.lower_pins (s : State) (d i : Nat) (f : Field) (n : Nat) : (s.lower d i f n).pins = s.pins := rfl

/-! ### `State.tick` -/

@[simp] theorem State.tick_pending (s : State) (n : Nat) : (s.tick n).pending = s.pending := rfl
@[simp] theorem State.tick_free (s : State) (n : Nat) : (s.tick n).free = s.free := rfl
@[simp] theorem State.tick_regs (s : State) (n : Nat) : (s.tick n).regs = s.regs := rfl
@[simp] theorem State.tick_bcn (s : State) (n : Nat) : (s.tick n).bcn = s.bcn := rfl
@[simp] theorem State.tick_ev (s : State) (n : Nat) : (s.tick n).ev = s.ev := rfl
@[simp] theorem State.tick_ses (s : State) (n : Nat) : (s.tick n).ses = s.ses := rfl
@[simp] theorem State.tick_kv (s : State) (n : Nat) : (s.tick n).kv = s.kv := rfl
@[simp] theorem State.tick_attn (s : State) (n : Nat) : (s.tick n).attn = s.attn := rfl
@[simp] theorem State.tick_grams (s : State) (n : Nat) : (s.tick n).grams = s.grams := rfl
@[simp] theorem State.tick_net (s : State) (n : Nat) : (s.tick n).net = s.net := rfl
@[simp] theorem State.tick_lamp (s : State) (n : Nat) : (s.tick n).lamp = s.lamp := rfl
@[simp] theorem State.tick_tier (s : State) (n : Nat) : (s.tick n).tier = s.tier := rfl
@[simp] theorem State.tick_start (s : State) (n : Nat) : (s.tick n).start = s.start := rfl
@[simp] theorem State.tick_flash (s : State) (n : Nat) : (s.tick n).flash = s.flash := rfl
@[simp] theorem State.tick_ident (s : State) (n : Nat) : (s.tick n).ident = s.ident := rfl
@[simp] theorem State.tick_ckpt (s : State) (n : Nat) : (s.tick n).ckpt = s.ckpt := rfl
@[simp] theorem State.tick_health (s : State) (n : Nat) : (s.tick n).health = s.health := rfl
@[simp] theorem State.tick_rp (s : State) (n : Nat) : (s.tick n).rp = s.rp := rfl
@[simp] theorem State.tick_pins (s : State) (n : Nat) : (s.tick n).pins = s.pins := rfl

/-! ### `State.nextFree` -/

@[simp] theorem State.nextFree_now (s : State) : (s.nextFree).now = s.now := rfl
@[simp] theorem State.nextFree_pending (s : State) : (s.nextFree).pending = s.pending := rfl
@[simp] theorem State.nextFree_regs (s : State) : (s.nextFree).regs = s.regs := rfl
@[simp] theorem State.nextFree_bcn (s : State) : (s.nextFree).bcn = s.bcn := rfl
@[simp] theorem State.nextFree_ev (s : State) : (s.nextFree).ev = s.ev := rfl
@[simp] theorem State.nextFree_ses (s : State) : (s.nextFree).ses = s.ses := rfl
@[simp] theorem State.nextFree_kv (s : State) : (s.nextFree).kv = s.kv := rfl
@[simp] theorem State.nextFree_attn (s : State) : (s.nextFree).attn = s.attn := rfl
@[simp] theorem State.nextFree_grams (s : State) : (s.nextFree).grams = s.grams := rfl
@[simp] theorem State.nextFree_net (s : State) : (s.nextFree).net = s.net := rfl
@[simp] theorem State.nextFree_lamp (s : State) : (s.nextFree).lamp = s.lamp := rfl
@[simp] theorem State.nextFree_tier (s : State) : (s.nextFree).tier = s.tier := rfl
@[simp] theorem State.nextFree_start (s : State) : (s.nextFree).start = s.start := rfl
@[simp] theorem State.nextFree_flash (s : State) : (s.nextFree).flash = s.flash := rfl
@[simp] theorem State.nextFree_ident (s : State) : (s.nextFree).ident = s.ident := rfl
@[simp] theorem State.nextFree_ckpt (s : State) : (s.nextFree).ckpt = s.ckpt := rfl
@[simp] theorem State.nextFree_health (s : State) : (s.nextFree).health = s.health := rfl
@[simp] theorem State.nextFree_rp (s : State) : (s.nextFree).rp = s.rp := rfl
@[simp] theorem State.nextFree_pins (s : State) : (s.nextFree).pins = s.pins := rfl

/-! ### `State.setSess` -/

@[simp] theorem State.setSess_now (s : State) (x : Nat) (r : Session) : (s.setSess x r).now = s.now := rfl
@[simp] theorem State.setSess_pending (s : State) (x : Nat) (r : Session) : (s.setSess x r).pending = s.pending := rfl
@[simp] theorem State.setSess_free (s : State) (x : Nat) (r : Session) : (s.setSess x r).free = s.free := rfl
@[simp] theorem State.setSess_regs (s : State) (x : Nat) (r : Session) : (s.setSess x r).regs = s.regs := rfl
@[simp] theorem State.setSess_bcn (s : State) (x : Nat) (r : Session) : (s.setSess x r).bcn = s.bcn := rfl
@[simp] theorem State.setSess_ev (s : State) (x : Nat) (r : Session) : (s.setSess x r).ev = s.ev := rfl
@[simp] theorem State.setSess_kv (s : State) (x : Nat) (r : Session) : (s.setSess x r).kv = s.kv := rfl
@[simp] theorem State.setSess_attn (s : State) (x : Nat) (r : Session) : (s.setSess x r).attn = s.attn := rfl
@[simp] theorem State.setSess_grams (s : State) (x : Nat) (r : Session) : (s.setSess x r).grams = s.grams := rfl
@[simp] theorem State.setSess_net (s : State) (x : Nat) (r : Session) : (s.setSess x r).net = s.net := rfl
@[simp] theorem State.setSess_lamp (s : State) (x : Nat) (r : Session) : (s.setSess x r).lamp = s.lamp := rfl
@[simp] theorem State.setSess_tier (s : State) (x : Nat) (r : Session) : (s.setSess x r).tier = s.tier := rfl
@[simp] theorem State.setSess_start (s : State) (x : Nat) (r : Session) : (s.setSess x r).start = s.start := rfl
@[simp] theorem State.setSess_flash (s : State) (x : Nat) (r : Session) : (s.setSess x r).flash = s.flash := rfl
@[simp] theorem State.setSess_ident (s : State) (x : Nat) (r : Session) : (s.setSess x r).ident = s.ident := rfl
@[simp] theorem State.setSess_ckpt (s : State) (x : Nat) (r : Session) : (s.setSess x r).ckpt = s.ckpt := rfl
@[simp] theorem State.setSess_health (s : State) (x : Nat) (r : Session) : (s.setSess x r).health = s.health := rfl
@[simp] theorem State.setSess_rp (s : State) (x : Nat) (r : Session) : (s.setSess x r).rp = s.rp := rfl
@[simp] theorem State.setSess_pins (s : State) (x : Nat) (r : Session) : (s.setSess x r).pins = s.pins := rfl

/-! ### `State.setPort` -/

@[simp] theorem State.setPort_now (s : State) (p : Nat) (v : Port) : (s.setPort p v).now = s.now := rfl
@[simp] theorem State.setPort_pending (s : State) (p : Nat) (v : Port) : (s.setPort p v).pending = s.pending := rfl
@[simp] theorem State.setPort_free (s : State) (p : Nat) (v : Port) : (s.setPort p v).free = s.free := rfl
@[simp] theorem State.setPort_regs (s : State) (p : Nat) (v : Port) : (s.setPort p v).regs = s.regs := rfl
@[simp] theorem State.setPort_bcn (s : State) (p : Nat) (v : Port) : (s.setPort p v).bcn = s.bcn := rfl
@[simp] theorem State.setPort_ev (s : State) (p : Nat) (v : Port) : (s.setPort p v).ev = s.ev := rfl
@[simp] theorem State.setPort_ses (s : State) (p : Nat) (v : Port) : (s.setPort p v).ses = s.ses := rfl
@[simp] theorem State.setPort_kv (s : State) (p : Nat) (v : Port) : (s.setPort p v).kv = s.kv := rfl
@[simp] theorem State.setPort_attn (s : State) (p : Nat) (v : Port) : (s.setPort p v).attn = s.attn := rfl
@[simp] theorem State.setPort_grams (s : State) (p : Nat) (v : Port) : (s.setPort p v).grams = s.grams := rfl
@[simp] theorem State.setPort_lamp (s : State) (p : Nat) (v : Port) : (s.setPort p v).lamp = s.lamp := rfl
@[simp] theorem State.setPort_tier (s : State) (p : Nat) (v : Port) : (s.setPort p v).tier = s.tier := rfl
@[simp] theorem State.setPort_start (s : State) (p : Nat) (v : Port) : (s.setPort p v).start = s.start := rfl
@[simp] theorem State.setPort_flash (s : State) (p : Nat) (v : Port) : (s.setPort p v).flash = s.flash := rfl
@[simp] theorem State.setPort_ident (s : State) (p : Nat) (v : Port) : (s.setPort p v).ident = s.ident := rfl
@[simp] theorem State.setPort_ckpt (s : State) (p : Nat) (v : Port) : (s.setPort p v).ckpt = s.ckpt := rfl
@[simp] theorem State.setPort_health (s : State) (p : Nat) (v : Port) : (s.setPort p v).health = s.health := rfl
@[simp] theorem State.setPort_rp (s : State) (p : Nat) (v : Port) : (s.setPort p v).rp = s.rp := rfl
@[simp] theorem State.setPort_pins (s : State) (p : Nat) (v : Port) : (s.setPort p v).pins = s.pins := rfl

/-! ### `State.setBcn` -/

@[simp] theorem State.setBcn_now (s : State) (b : Beacon) : (s.setBcn b).now = s.now := rfl
@[simp] theorem State.setBcn_pending (s : State) (b : Beacon) : (s.setBcn b).pending = s.pending := rfl
@[simp] theorem State.setBcn_free (s : State) (b : Beacon) : (s.setBcn b).free = s.free := rfl
@[simp] theorem State.setBcn_regs (s : State) (b : Beacon) : (s.setBcn b).regs = s.regs := rfl
@[simp] theorem State.setBcn_ev (s : State) (b : Beacon) : (s.setBcn b).ev = s.ev := rfl
@[simp] theorem State.setBcn_ses (s : State) (b : Beacon) : (s.setBcn b).ses = s.ses := rfl
@[simp] theorem State.setBcn_kv (s : State) (b : Beacon) : (s.setBcn b).kv = s.kv := rfl
@[simp] theorem State.setBcn_attn (s : State) (b : Beacon) : (s.setBcn b).attn = s.attn := rfl
@[simp] theorem State.setBcn_grams (s : State) (b : Beacon) : (s.setBcn b).grams = s.grams := rfl
@[simp] theorem State.setBcn_net (s : State) (b : Beacon) : (s.setBcn b).net = s.net := rfl
@[simp] theorem State.setBcn_lamp (s : State) (b : Beacon) : (s.setBcn b).lamp = s.lamp := rfl
@[simp] theorem State.setBcn_tier (s : State) (b : Beacon) : (s.setBcn b).tier = s.tier := rfl
@[simp] theorem State.setBcn_start (s : State) (b : Beacon) : (s.setBcn b).start = s.start := rfl
@[simp] theorem State.setBcn_flash (s : State) (b : Beacon) : (s.setBcn b).flash = s.flash := rfl
@[simp] theorem State.setBcn_ident (s : State) (b : Beacon) : (s.setBcn b).ident = s.ident := rfl
@[simp] theorem State.setBcn_ckpt (s : State) (b : Beacon) : (s.setBcn b).ckpt = s.ckpt := rfl
@[simp] theorem State.setBcn_health (s : State) (b : Beacon) : (s.setBcn b).health = s.health := rfl
@[simp] theorem State.setBcn_rp (s : State) (b : Beacon) : (s.setBcn b).rp = s.rp := rfl
@[simp] theorem State.setBcn_pins (s : State) (b : Beacon) : (s.setBcn b).pins = s.pins := rfl

/-! ### `State.putStaging` -/

@[simp] theorem State.putStaging_now (s : State) (x : Nat) (g : Staging) : (s.putStaging x g).now = s.now := rfl
@[simp] theorem State.putStaging_pending (s : State) (x : Nat) (g : Staging) : (s.putStaging x g).pending = s.pending := rfl
@[simp] theorem State.putStaging_free (s : State) (x : Nat) (g : Staging) : (s.putStaging x g).free = s.free := rfl
@[simp] theorem State.putStaging_regs (s : State) (x : Nat) (g : Staging) : (s.putStaging x g).regs = s.regs := rfl
@[simp] theorem State.putStaging_bcn (s : State) (x : Nat) (g : Staging) : (s.putStaging x g).bcn = s.bcn := rfl
@[simp] theorem State.putStaging_ev (s : State) (x : Nat) (g : Staging) : (s.putStaging x g).ev = s.ev := rfl
@[simp] theorem State.putStaging_ses (s : State) (x : Nat) (g : Staging) : (s.putStaging x g).ses = s.ses := rfl
@[simp] theorem State.putStaging_attn (s : State) (x : Nat) (g : Staging) : (s.putStaging x g).attn = s.attn := rfl
@[simp] theorem State.putStaging_grams (s : State) (x : Nat) (g : Staging) : (s.putStaging x g).grams = s.grams := rfl
@[simp] theorem State.putStaging_net (s : State) (x : Nat) (g : Staging) : (s.putStaging x g).net = s.net := rfl
@[simp] theorem State.putStaging_lamp (s : State) (x : Nat) (g : Staging) : (s.putStaging x g).lamp = s.lamp := rfl
@[simp] theorem State.putStaging_tier (s : State) (x : Nat) (g : Staging) : (s.putStaging x g).tier = s.tier := rfl
@[simp] theorem State.putStaging_start (s : State) (x : Nat) (g : Staging) : (s.putStaging x g).start = s.start := rfl
@[simp] theorem State.putStaging_flash (s : State) (x : Nat) (g : Staging) : (s.putStaging x g).flash = s.flash := rfl
@[simp] theorem State.putStaging_ident (s : State) (x : Nat) (g : Staging) : (s.putStaging x g).ident = s.ident := rfl
@[simp] theorem State.putStaging_ckpt (s : State) (x : Nat) (g : Staging) : (s.putStaging x g).ckpt = s.ckpt := rfl
@[simp] theorem State.putStaging_health (s : State) (x : Nat) (g : Staging) : (s.putStaging x g).health = s.health := rfl
@[simp] theorem State.putStaging_rp (s : State) (x : Nat) (g : Staging) : (s.putStaging x g).rp = s.rp := rfl
@[simp] theorem State.putStaging_pins (s : State) (x : Nat) (g : Staging) : (s.putStaging x g).pins = s.pins := rfl

/-! ### `State.putArea` -/

@[simp] theorem State.putArea_now (s : State) (x : Nat) (a : FinArea) : (s.putArea x a).now = s.now := rfl
@[simp] theorem State.putArea_pending (s : State) (x : Nat) (a : FinArea) : (s.putArea x a).pending = s.pending := rfl
@[simp] theorem State.putArea_free (s : State) (x : Nat) (a : FinArea) : (s.putArea x a).free = s.free := rfl
@[simp] theorem State.putArea_regs (s : State) (x : Nat) (a : FinArea) : (s.putArea x a).regs = s.regs := rfl
@[simp] theorem State.putArea_bcn (s : State) (x : Nat) (a : FinArea) : (s.putArea x a).bcn = s.bcn := rfl
@[simp] theorem State.putArea_ev (s : State) (x : Nat) (a : FinArea) : (s.putArea x a).ev = s.ev := rfl
@[simp] theorem State.putArea_ses (s : State) (x : Nat) (a : FinArea) : (s.putArea x a).ses = s.ses := rfl
@[simp] theorem State.putArea_attn (s : State) (x : Nat) (a : FinArea) : (s.putArea x a).attn = s.attn := rfl
@[simp] theorem State.putArea_grams (s : State) (x : Nat) (a : FinArea) : (s.putArea x a).grams = s.grams := rfl
@[simp] theorem State.putArea_net (s : State) (x : Nat) (a : FinArea) : (s.putArea x a).net = s.net := rfl
@[simp] theorem State.putArea_lamp (s : State) (x : Nat) (a : FinArea) : (s.putArea x a).lamp = s.lamp := rfl
@[simp] theorem State.putArea_tier (s : State) (x : Nat) (a : FinArea) : (s.putArea x a).tier = s.tier := rfl
@[simp] theorem State.putArea_start (s : State) (x : Nat) (a : FinArea) : (s.putArea x a).start = s.start := rfl
@[simp] theorem State.putArea_flash (s : State) (x : Nat) (a : FinArea) : (s.putArea x a).flash = s.flash := rfl
@[simp] theorem State.putArea_ident (s : State) (x : Nat) (a : FinArea) : (s.putArea x a).ident = s.ident := rfl
@[simp] theorem State.putArea_ckpt (s : State) (x : Nat) (a : FinArea) : (s.putArea x a).ckpt = s.ckpt := rfl
@[simp] theorem State.putArea_health (s : State) (x : Nat) (a : FinArea) : (s.putArea x a).health = s.health := rfl
@[simp] theorem State.putArea_rp (s : State) (x : Nat) (a : FinArea) : (s.putArea x a).rp = s.rp := rfl
@[simp] theorem State.putArea_pins (s : State) (x : Nat) (a : FinArea) : (s.putArea x a).pins = s.pins := rfl

/-! ### `State.endEpoch` -/

@[simp] theorem State.endEpoch_now (s : State) (x : Nat) : (s.endEpoch x).now = s.now := rfl
@[simp] theorem State.endEpoch_pending (s : State) (x : Nat) : (s.endEpoch x).pending = s.pending := rfl
@[simp] theorem State.endEpoch_free (s : State) (x : Nat) : (s.endEpoch x).free = s.free := rfl
@[simp] theorem State.endEpoch_regs (s : State) (x : Nat) : (s.endEpoch x).regs = s.regs := rfl
@[simp] theorem State.endEpoch_bcn (s : State) (x : Nat) : (s.endEpoch x).bcn = s.bcn := rfl
@[simp] theorem State.endEpoch_ev (s : State) (x : Nat) : (s.endEpoch x).ev = s.ev := rfl
@[simp] theorem State.endEpoch_ses (s : State) (x : Nat) : (s.endEpoch x).ses = s.ses := rfl
@[simp] theorem State.endEpoch_kv (s : State) (x : Nat) : (s.endEpoch x).kv = s.kv := rfl
@[simp] theorem State.endEpoch_grams (s : State) (x : Nat) : (s.endEpoch x).grams = s.grams := rfl
@[simp] theorem State.endEpoch_net (s : State) (x : Nat) : (s.endEpoch x).net = s.net := rfl
@[simp] theorem State.endEpoch_lamp (s : State) (x : Nat) : (s.endEpoch x).lamp = s.lamp := rfl
@[simp] theorem State.endEpoch_tier (s : State) (x : Nat) : (s.endEpoch x).tier = s.tier := rfl
@[simp] theorem State.endEpoch_start (s : State) (x : Nat) : (s.endEpoch x).start = s.start := rfl
@[simp] theorem State.endEpoch_flash (s : State) (x : Nat) : (s.endEpoch x).flash = s.flash := rfl
@[simp] theorem State.endEpoch_ident (s : State) (x : Nat) : (s.endEpoch x).ident = s.ident := rfl
@[simp] theorem State.endEpoch_ckpt (s : State) (x : Nat) : (s.endEpoch x).ckpt = s.ckpt := rfl
@[simp] theorem State.endEpoch_health (s : State) (x : Nat) : (s.endEpoch x).health = s.health := rfl
@[simp] theorem State.endEpoch_rp (s : State) (x : Nat) : (s.endEpoch x).rp = s.rp := rfl
@[simp] theorem State.endEpoch_pins (s : State) (x : Nat) : (s.endEpoch x).pins = s.pins := rfl

/-! ### `State.withRest` -/

@[simp] theorem State.withRest_now (s : State) (l : List Instr) : (s.withRest l).now = s.now := rfl
@[simp] theorem State.withRest_free (s : State) (l : List Instr) : (s.withRest l).free = s.free := rfl
@[simp] theorem State.withRest_regs (s : State) (l : List Instr) : (s.withRest l).regs = s.regs := rfl
@[simp] theorem State.withRest_bcn (s : State) (l : List Instr) : (s.withRest l).bcn = s.bcn := rfl
@[simp] theorem State.withRest_ev (s : State) (l : List Instr) : (s.withRest l).ev = s.ev := rfl
@[simp] theorem State.withRest_ses (s : State) (l : List Instr) : (s.withRest l).ses = s.ses := rfl
@[simp] theorem State.withRest_kv (s : State) (l : List Instr) : (s.withRest l).kv = s.kv := rfl
@[simp] theorem State.withRest_attn (s : State) (l : List Instr) : (s.withRest l).attn = s.attn := rfl
@[simp] theorem State.withRest_grams (s : State) (l : List Instr) : (s.withRest l).grams = s.grams := rfl
@[simp] theorem State.withRest_net (s : State) (l : List Instr) : (s.withRest l).net = s.net := rfl
@[simp] theorem State.withRest_lamp (s : State) (l : List Instr) : (s.withRest l).lamp = s.lamp := rfl
@[simp] theorem State.withRest_tier (s : State) (l : List Instr) : (s.withRest l).tier = s.tier := rfl
@[simp] theorem State.withRest_start (s : State) (l : List Instr) : (s.withRest l).start = s.start := rfl
@[simp] theorem State.withRest_flash (s : State) (l : List Instr) : (s.withRest l).flash = s.flash := rfl
@[simp] theorem State.withRest_ident (s : State) (l : List Instr) : (s.withRest l).ident = s.ident := rfl
@[simp] theorem State.withRest_ckpt (s : State) (l : List Instr) : (s.withRest l).ckpt = s.ckpt := rfl
@[simp] theorem State.withRest_health (s : State) (l : List Instr) : (s.withRest l).health = s.health := rfl
@[simp] theorem State.withRest_rp (s : State) (l : List Instr) : (s.withRest l).rp = s.rp := rfl
@[simp] theorem State.withRest_pins (s : State) (l : List Instr) : (s.withRest l).pins = s.pins := rfl

@[simp] theorem State.withRest_pending (s : State) (l : List Instr) : (s.withRest l).pending = l := rfl
@[simp] theorem State.setBcn_bcn (s : State) (b : Beacon) : (s.setBcn b).bcn = b := rfl
@[simp] theorem State.tick_now (s : State) (n : Nat) : (s.tick n).now = max s.now n := rfl
@[simp] theorem State.nextFree_free (s : State) : s.nextFree.free = s.free + 1 := rfl

end Sys2Proof.Machine
end

