-- ==== Sys2Proof/Laws/BeaconCmds.lean ====
section
/-! SUPPORT. The beacon commands: words, losses, rebase, and the releases at a boundary. -/

namespace Sys2Proof.Machine

variable {s s0 t : State}

theorem linToOrd_posLin {layers S L P : Nat} (hL : L < layers) (hP : P < 256) : linToOrd layers (posLin layers S L P) = posOrd S L P := by
  unfold linToOrd posLin
  have h1 : ((S * layers + L) * 256 + P) / 256 = S * layers + L := by omega
  have h2 : ((S * layers + L) * 256 + P) % 256 = P := by omega
  rw [h1, h2]
  have h3 : (S * layers + L) / layers = S := by
    rw [Nat.mul_comm, Nat.mul_add_div (by omega), Nat.div_eq_of_lt hL, Nat.add_zero]
  have h4 : (S * layers + L) % layers = L := by
    rw [Nat.mul_comm, Nat.mul_add_mod, Nat.mod_eq_of_lt hL]
  rw [h3, h4]

@[simp] theorem newLeads_bcn (s : State) : s.newLeads.bcn = s.bcn := rfl

theorem ite_p {P : State → Prop} {c : Prop} [Decidable c] {a b : State} (h1 : P a) (h2 : P b) : P (if c then a else b) := by
  split
  · exact h1
  · exact h2

/-- What a word that is accepted first makes of the tracker. -/
theorem acceptWord_first {w : BWord} (hn : s.bcn.trk = .noPhase) (hp : s.bcn.periods = []) :
    (s.acceptWord w false).bcn.trk = .learning ∧ (s.acceptWord w false).bcn.anchor = w.pos ∧ (s.acceptWord w false).bcn.tRef = w.tRef
      ∧ (s.acceptWord w false).bcn.frameSeq = s.bcn.frameSeq
      ∧ (s.acceptWord w false).reg 0 0 Reg.BCN_LAST_POS = BitVec.ofNat 64 (linToOrd s.layers w.pos) := by
  unfold State.acceptWord
  extract_lets first old trk stays b1 b2 b3 b4 s1 s2 s3 s4 tt tx s5 s6
  have hf : first = true := by unfold first; rw [hn]; rfl
  have ht : trk = .learning := by unfold trk State.trkAfter; rw [hn]
  have e4 : b4.trk = .learning ∧ b4.anchor = w.pos ∧ b4.tRef = w.tRef ∧ b4.frameSeq = s.bcn.frameSeq ∧ b4.periods.length < 256 := by
    have e1 : b1.periods.length ≤ 1 ∧ b1.frameSeq = s.bcn.frameSeq := by
      unfold b1 Beacon.notePeriod
      rw [hp]
      dsimp only
      constructor
      · split
        · dsimp only
          rw [List.length_drop]
          split
          · split <;> simp
          · simp
        · exact Nat.zero_le 1
      · split <;> rfl
    unfold b4 b3
    rw [if_pos hf]
    rw [if_neg]
    · exact ⟨ht, rfl, rfl, e1.2, by show b1.periods.length < 256; omega⟩
    · rintro ⟨hx, -⟩
      rw [show b2.trk = trk from rfl, ht] at hx
      cases hx
  clear_value b4
  have e6 : s6.bcn.trk = .learning ∧ s6.bcn.anchor = w.pos ∧ s6.bcn.tRef = w.tRef ∧ s6.bcn.frameSeq = s.bcn.frameSeq
      ∧ s6.bcn.periods.length < 256
      ∧ s6.reg 0 0 Reg.BCN_LAST_POS = BitVec.ofNat 64 (linToOrd s.layers w.pos) := by
    have e3 : s3.bcn = b4 ∧ s3.reg 0 0 Reg.BCN_LAST_POS = BitVec.ofNat 64 (linToOrd s.layers w.pos) := by
      refine ⟨rfl, ?_⟩
      unfold s3 s2
      rw [reg_setReg_ne _ _ (by decide), reg_setReg_self]
    clear_value s3
    have e4' : (s4.bcn.trk = b4.trk ∧ s4.bcn.anchor = b4.anchor ∧ s4.bcn.tRef = b4.tRef ∧ s4.bcn.frameSeq = b4.frameSeq ∧ s4.bcn.periods = b4.periods)
        ∧ s4.reg 0 0 Reg.BCN_LAST_POS = BitVec.ofNat 64 (linToOrd s.layers w.pos) := by
      unfold s4 State.noteHist
      extract_lets r l rx sx
      have hb : sx.bcn.trk = b4.trk ∧ sx.bcn.anchor = b4.anchor ∧ sx.bcn.tRef = b4.tRef ∧ sx.bcn.frameSeq = b4.frameSeq ∧ sx.bcn.periods = b4.periods := by
        rw [← e3.1]
        exact ⟨rfl, rfl, rfl, rfl, rfl⟩
      have hr := State.addRec_reported (reported_refl sx) (status := 0) (port := 0) (ctx := 0) (ep := 0) (len := 32) (body := .beacon r)
      rw [hr.bcn, hr.reg 0 0 Reg.BCN_LAST_POS (by decide)]
      exact ⟨hb, e3.2⟩
    clear_value s4
    have e5 : s5.bcn = s4.bcn ∧ s5.reg 0 0 Reg.BCN_LAST_POS = s4.reg 0 0 Reg.BCN_LAST_POS := by
      unfold s5
      rw [if_pos hf]
      refine ⟨rfl, ?_⟩
      have := (State.newLeads_ticked (ticked_refl s4)).reg Reg.BCN_LAST_POS (by decide)
      exact this
    have e6' : s6 = s5 := by
      unfold s6
      rw [hf]
      rfl
    rw [e6', e5.1, e5.2]
    obtain ⟨⟨a, b, c, d, e⟩, f⟩ := e4'
    rw [a, b, c, d, e, f]
    obtain ⟨g1, g2, g3, g4, g5⟩ := e4
    exact ⟨g1, g2, g3, g4, g5, rfl⟩
  clear_value s6
  have e7 : (s6.returnTest w).bcn.trk = .learning ∧ (s6.returnTest w).bcn.anchor = w.pos ∧ (s6.returnTest w).bcn.tRef = w.tRef
      ∧ (s6.returnTest w).bcn.frameSeq = s.bcn.frameSeq ∧ (s6.returnTest w).bcn.periods.length < 256
      ∧ (s6.returnTest w).reg 0 0 Reg.BCN_LAST_POS = BitVec.ofNat 64 (linToOrd s.layers w.pos) := by
    unfold State.returnTest
    refine ite_p (P := fun u => u.bcn.trk = .learning ∧ u.bcn.anchor = w.pos ∧ u.bcn.tRef = w.tRef
      ∧ u.bcn.frameSeq = s.bcn.frameSeq ∧ u.bcn.periods.length < 256 ∧ u.reg 0 0 Reg.BCN_LAST_POS = BitVec.ofNat 64 (linToOrd s.layers w.pos)) ?_ ?_
    · have hr := State.raise_reported (reported_refl (s6.setBcn { s6.bcn with frames := false, taint := true })) (die := 0) (sub := 1)
        (a := { a0 := 0 })
      dsimp only
      rw [hr.bcn, hr.reg 0 0 Reg.BCN_LAST_POS (by decide)]
      exact e6
    · exact e6
  have hj : (false && !first) = false := rfl
  rw [hj]
  generalize s6.returnTest w = u at e7
  have hd := (State.fireDue_fires u false (by unfold State.fires; rw [e7.1]; rfl)).1
  refine ⟨?_, ?_, ?_, ?_, ?_⟩
  · rcases hd.trk with h | ⟨-, h, -⟩
    · exact h.trans e7.1
    · have := e7.2.2.2.2.1
      exact absurd h (by show ¬ 256 ≤ u.bcn.periods.length; omega)
  · exact (hd.bcnPart Beacon.anchor fun _ _ => rfl).trans e7.2.1
  · exact (hd.bcnPart Beacon.tRef fun _ _ => rfl).trans e7.2.2.1
  · exact (hd.bcnPart Beacon.frameSeq fun _ _ => rfl).trans e7.2.2.2.1
  · exact (hd.reg Reg.BCN_LAST_POS (by decide)).trans e7.2.2.2.2.2

theorem takeWord_first {w : BWord} (h : s.bcn.trk = .noPhase) : s.takeWord w = s.acceptWord w false := by
  unfold State.takeWord
  rw [if_pos h]

theorem noteClean_kept (b : Beacon) (y : Nat) : (b.noteClean y).trk = b.trk ∧ (b.noteClean y).periods = b.periods
    ∧ (b.noteClean y).frameSeq = b.frameSeq ∧ (b.noteClean y).frames = b.frames := by
  unfold Beacon.noteClean
  split
  · split <;> exact ⟨rfl, rfl, rfl, rfl⟩
  · exact ⟨rfl, rfl, rfl, rfl⟩

/-- The first word of the selected source is accepted. -/
theorem validWord_first {w : BWord} (hn : s.bcn.trk = .noPhase) (hf : w.frame = s.bcn.frames) :
    ∃ u : State, s.validWord w = u.acceptWord w false ∧ u.bcn.trk = .noPhase ∧ u.bcn.periods = s.bcn.periods
      ∧ u.bcn.frameSeq = s.bcn.frameSeq ∧ u.layers = s.layers := by
  obtain ⟨k1, k2, k3, k4⟩ := noteClean_kept s.bcn (w.pos / 256)
  unfold State.validWord
  extract_lets ux uy u
  have hu : u.bcn.trk = .noPhase ∧ u.bcn.periods = s.bcn.periods ∧ u.bcn.frameSeq = s.bcn.frameSeq ∧ u.bcn.frames = s.bcn.frames
      ∧ u.layers = s.layers := by
    unfold u
    split
    · exact ⟨hn, rfl, rfl, rfl, rfl⟩
    · exact ⟨k1.trans hn, k2, k3, k4, rfl⟩
  clear_value u
  refine ⟨u, ?_, hu.1, hu.2.1, hu.2.2.1, hu.2.2.2.2⟩
  rw [if_pos (hf.trans hu.2.2.2.1.symm), takeWord_first hu.1]

theorem wordOk_layer {flags : BitVec 8} {l : Nat} (h : s.wordOk flags l = true) : l < s.layers := by
  unfold State.wordOk at h
  simp at h
  exact h.2

theorem tracking_running (h : s.tracking = true) : s.running = true := by
  unfold State.tracking at h
  simp only [Bool.and_eq_true] at h
  exact h.1.1

theorem afterLoss_span (s : State) : s.Span ((s.withdrawAll.remapIdle.beginPlan.cutDue).pickAll) :=
  span_beat (State.withdrawAll_span (span_refl _)) (State.pickAll_beat (State.cutDue_beat (State.beginPlan_beat (State.remapIdle_beat (beat_refl _)))))

/-- Entry to LOST freezes the estimate. -/
theorem lose_bcn (s : State) : s.lose.bcn = { s.bcn with trk := .lost, frozen := some s.est, pend := none } := by
  unfold State.lose
  refine (afterLoss_span _).bcn.trans ?_
  exact (State.raise_reported (reported_refl (s.setBcn { s.bcn with trk := .lost, frozen := some s.est, pend := none }))).bcn

theorem unphase_bcn (s : State) : s.unphase.bcn =
    { s.bcn with trk := .noPhase, periods := [], lastStart := none, frozen := some s.est, hold := none, pend := none, back := 0 } := by
  unfold State.unphase
  exact (afterLoss_span _).bcn

/-- Entry to COASTING. -/
theorem coast_bcn (s : State) : s.coast.bcn.trk = .coasting ∧ s.coast.bcn.before = s.bcn.trk ∧ s.coast.bcn.frozen = none := by
  unfold State.coast
  extract_lets x u
  have hu := (State.raise_reported (reported_refl u) (die := 0) (sub := 0x05) (a := {})).bcn
  obtain ⟨h, -⟩ := State.fireDue_fires (u.raise 0 0x05 {}) false (by unfold State.fires; rw [hu]; rfl)
  have e1 := h.bcnPart Beacon.before fun _ _ => rfl
  have e2 := h.bcnPart Beacon.frozen fun _ _ => rfl
  refine ⟨?_, ?_, ?_⟩
  · rcases h.trk with e | ⟨e, -⟩
    · refine e.trans ?_
      dsimp only
      rw [hu]
      rfl
    · dsimp only at e
      rw [hu] at e
      cases e
  · refine e1.trans ?_
    dsimp only
    rw [hu]
    rfl
  · refine e2.trans ?_
    dsimp only
    rw [hu]
    rfl

theorem promotingTest_trigs (s : State) (slot : Nat) : (s.promotingTest slot).tier.trigs = s.tier.trigs := by
  unfold State.promotingTest
  dsimp only
  split <;> rfl

/-- A rebase (R25). -/
theorem rebase_spec (s : State) (pos : Nat) : (s.rebase pos).bcn.trk = .learning ∧ (s.rebase pos).bcn.periods = []
    ∧ (s.rebase pos).tier.trigs = [] ∧ (s.rebase pos).est = pos ∧ (s.rebase pos).bcn.after = some pos
    ∧ (s.rebase pos).boundary = s.boundary := by
  unfold State.rebase
  extract_lets s1 s2 x s3 s4 bx b
  have h1 : s.Span s1 := span_ite (span_beat (span_refl _) (State.failCkpt_beat (beat_refl _))) (span_refl _)
  have h2 : s.Span s2 := span_foldl (fun _ _ h => State.setPort_span h) _ h1
  have h3 : s.Span s3 := span_trans h2 ⟨rfl, rfl, rfl, (fun _ hx => nomatch hx), fun _ _ => rfl⟩
  have h4 : s.Span s4 := span_foldl (fun _ _ h => span_beat h (State.promotingTest_beat (beat_refl _))) _ h3
  have t4 : s4.tier.trigs = [] := by
    have : ∀ (l : List (Nat × Session)) (u : State), u.tier.trigs = [] →
        (l.foldl (fun s p => s.promotingTest p.1) u).tier.trigs = [] := by
      intro l
      induction l with
      | nil => intro u h; exact h
      | cons p l ih => intro u h; exact ih _ ((promotingTest_trigs u p.1).trans h)
    exact this _ _ rfl
  have hb : ∀ y : Nat, b.est s4.now = pos := by
    intro y
    unfold Beacon.est
    have : b.advance s4.now = 0 := by
      unfold Beacon.advance
      exact if_pos rfl
    rw [show b.frozen = none from rfl, show b.trk = .learning from rfl, show b.hold = none from rfl, this]
    show min (pos + 0) (pos / 256 * 256 + 255) = pos
    omega
  have hr : (s4.setBcn b).Reported (((s4.setBcn b).raise 0 0x07 { a0 := s4.pos, a1 := linToOrd s4.layers pos }).pickAll) :=
    State.pickAll_reported (State.raise_reported (reported_refl _))
  refine ⟨?_, ?_, ?_, ?_, ?_, ?_⟩
  · rw [hr.bcn]; rfl
  · rw [hr.bcn]; rfl
  · rw [hr.tier]; exact t4
  · unfold State.est
    rw [hr.bcn, hr.now]
    exact hb 0
  · rw [hr.bcn]; rfl
  · unfold State.boundary
    rw [hr.fld 0 0 (by decide)]
    show s4.fld 0 0 _ = _
    unfold State.fld
    rw [h4.reg _ (by decide)]

theorem bcnCtrl_tidy : (rowOf Reg.BCN_CTRL).tidy = true := by decide

theorem layers_begun (s : State) : s.begun.layers = s.layers := rfl

theorem fireDue_fired (s : State) (hf : s.fires = true) : s.est < (s.fireDue false).bcn.fired := by
  have h := (State.fireDue_fires s false hf).1.bcnPart Beacon.fired fun _ _ => rfl
  rw [h]
  show s.est < max s.bcn.fired (s.est + 1)
  omega

/-- A copy that is used, or reserved, still is when results move only in their way out. -/
theorem copyInUse_of (s t : State) (hr : t.attn.results.map Result.still = s.attn.results.map Result.still)
    (hh : t.ses.home = s.ses.home) (c : T0Copy) : t.copyInUse c = s.copyInUse c := by
  have key : ∀ (x : State), x.copyInUse c = (x.attn.results.map Result.still).any (fun r => slotDie r.slot == c.die && x.home r.slot == c.cluster
      && r.key.layer == c.layer && r.key.step == c.step && r.units.any (fun u => u.st == .running
      && (match c.page, c.share with
        | some p, none => r.slot == c.slot && p / 16 == u.seg
        | some _, some id => (r.segViews u.seg).any (fun v => v.share == some id)
        | none, _ => r.slot == c.slot))) := by
    intro x
    unfold State.copyInUse
    rw [List.any_map]
    rfl
  have hhome : t.home = s.home := by
    funext x
    unfold State.home
    rw [hh]
  rw [key t, key s, hr, hhome]

theorem countLate_kept (s : State) (die step layer : Nat) : (s.countLate die step layer).kv = s.kv
    ∧ (s.countLate die step layer).ses = s.ses ∧ (s.countLate die step layer).attn.results = s.attn.results
    ∧ (s.countLate die step layer).bcn = s.bcn ∧ (s.countLate die step layer).now = s.now
    ∧ (s.countLate die step layer).start = s.start := by
  unfold State.countLate
  dsimp only
  split <;> exact ⟨rfl, rfl, rfl, rfl, rfl, rfl⟩

theorem countLates_kept (l : List T0Copy) (s : State) : let u := l.foldl (fun s c => s.countLate c.die c.step c.layer) s
    u.kv = s.kv ∧ u.ses = s.ses ∧ u.attn.results = s.attn.results ∧ u.bcn = s.bcn ∧ u.now = s.now ∧ u.start = s.start := by
  induction l generalizing s with
  | nil => exact ⟨rfl, rfl, rfl, rfl, rfl, rfl⟩
  | cons c l ih =>
    obtain ⟨a1, a2, a3, a4, a5, a6⟩ := countLate_kept s c.die c.step c.layer
    obtain ⟨b1, b2, b3, b4, b5, b6⟩ := ih (s.countLate c.die c.step c.layer)
    exact ⟨b1.trans a1, b2.trans a2, b3.trans a3, b4.trans a4, b5.trans a5, b6.trans a6⟩

/-- A copy may be released now (R147). -/
abbrev State.copyOver (s : State) (die : Nat) (c : T0Copy) : Prop :=
  c.die = die ∧ s.layerLin c.step c.layer + 256 ≤ s.est ∧ s.copyInUse c = false ∧ (s.sess c.slot).scrubPending = false

theorem releaseCopies_go (s : State) (die : Nat) (l : List T0Copy) (u : State) (hs : ({ s with kv := u.kv } : State).Charged u) :
    let f := fun (s : State) (c : T0Copy) =>
      if c.die = die ∧ s.layerLin c.step c.layer + 256 ≤ s.est ∧ s.copyInUse c = false ∧ (s.sess c.slot).scrubPending = false then
        ({ s with kv := { s.kv with copies := s.kv.copies.erase c } }).dealloc die 0 (s.sess c.slot).context c.granules
      else s
    ({ s with kv := (l.foldl f u).kv } : State).Charged (l.foldl f u)
      ∧ ∀ c, (l.foldl f u).kv.copies.count c = u.kv.copies.count c - (if s.copyOver die c then l.count c else 0) := by
  induction l generalizing u with
  | nil => exact ⟨hs, fun c => by simp⟩
  | cons d l ih =>
    intro f
    have hcond : (d.die = die ∧ u.layerLin d.step d.layer + 256 ≤ u.est ∧ u.copyInUse d = false ∧ (u.sess d.slot).scrubPending = false)
        ↔ s.copyOver die d := by
      have e1 : u.layerLin d.step d.layer = s.layerLin d.step d.layer := by
        unfold State.layerLin State.layers
        rw [hs.start]
      have e2 : u.est = s.est := hs.est
      have e3 : u.copyInUse d = s.copyInUse d := copyInUse_of s u hs.results hs.home d
      have e4 : u.sess d.slot = s.sess d.slot := hs.sess d.slot
      rw [e1, e2, e3, e4]
    show ({ s with kv := (l.foldl f (f u d)).kv } : State).Charged (l.foldl f (f u d)) ∧ _
    by_cases h : s.copyOver die d
    · have hf : f u d = ({ u with kv := { u.kv with copies := u.kv.copies.erase d } }).dealloc die 0 (u.sess d.slot).context d.granules :=
        if_pos (hcond.mpr h)
      have hd : ({ u with kv := { u.kv with copies := u.kv.copies.erase d } } : State).Charged (f u d) := by
        rw [hf]
        exact State.dealloc_charged (charged_refl _) (by decide)
      have hk : (f u d).kv = { u.kv with copies := u.kv.copies.erase d } := hd.kv
      have hs' : ({ s with kv := (f u d).kv } : State).Charged (f u d) := by
        refine charged_trans ?_ hd
        refine ⟨hs.now, hs.pending, hs.free, hs.bcn, hs.ses, hk.symm, hs.grams, hs.tier, hs.start, hs.flash, hs.ident, hs.ckpt,
          hs.health, hs.lamp, hs.attn, hs.results, fun a b r hr => hs.reg a b r hr⟩
      obtain ⟨g1, g2⟩ := ih (f u d) hs'
      refine ⟨g1, fun c => ?_⟩
      refine (g2 c).trans ?_
      rw [hk]
      show List.count c (u.kv.copies.erase d) - _ = _
      rw [List.count_erase, List.count_cons]
      by_cases e : d = c
      · subst e
        rw [if_pos h, if_pos h]
        simp
        omega
      · simp [e]
    · have hf : f u d = u := if_neg (fun hc => h (hcond.mp hc))
      rw [hf]
      obtain ⟨g1, g2⟩ := ih u hs
      refine ⟨g1, fun c => ?_⟩
      have e2 := g2 c
      show List.count c (l.foldl f (f u d)).kv.copies = _
      rw [hf]
      refine Eq.trans e2 ?_
      by_cases e : d = c
      · subst e
        rw [if_neg h, if_neg h]
      · rw [List.count_cons]
        simp [e]

/-- What releasing the copies of a die comes to. -/
theorem releaseCopies_spec (s : State) (die : Nat) : ({ s with kv := (s.releaseCopies die).kv } : State).Charged (s.releaseCopies die)
    ∧ ∀ c, (s.releaseCopies die).kv.copies.count c = s.kv.copies.count c - (if s.copyOver die c then s.kv.copies.count c else 0) :=
  releaseCopies_go s die s.kv.copies s (charged_refl s)

theorem setSess_sess (s : State) (slot : Nat) (r : Session) (x : Nat) :
    (s.setSess slot r).sess x = if x = slot then r else s.sess x := by
  unfold State.sess State.setSess
  by_cases e : x = slot
  · subst e
    rw [if_pos rfl, alGet_alSet_self]
    rfl
  · rw [if_neg e, alGet_alSet_ne e]

/-- A session whose lease runs out (R46, R52). -/
theorem expire_spec (s : State) (slot : Nat) : (s.expire slot).ses.recs = (s.setSess slot { s.sess slot with
    st := .held, heldReason := if (s.sess slot).st = .filling then 2 else 1, epoch := min ((s.sess slot).epoch + 1) 0xFFFFFFFF, lastBy := 0 }).ses.recs
    ∧ (s.expire slot).bcn = s.bcn ∧ (s.expire slot).kv = s.kv := by
  unfold State.expire
  extract_lets r reason epoch s1 s2
  have h := State.sesEvent_reported (reported_refl s2) (slot := slot) (sub := 0x11) (alert := true) (a1 := r.owner) (a2 := epoch) (a3 := reason)
  rw [h.ses, h.bcn, h.kv]
  have e2 : s2.ses = (s1.endEpoch slot |>.addHeld slot).ses ∧ s2.bcn = (s1.endEpoch slot |>.addHeld slot).bcn
      ∧ s2.kv = (s1.endEpoch slot |>.addHeld slot).kv := ⟨rfl, rfl, rfl⟩
  have e3 : (s1.endEpoch slot |>.addHeld slot).ses.recs = s1.ses.recs ∧ (s1.endEpoch slot |>.addHeld slot).bcn = s.bcn
      ∧ (s1.endEpoch slot |>.addHeld slot).kv = s.kv := by
    unfold State.addHeld
    split <;> exact ⟨rfl, rfl, rfl⟩
  rw [e2.1, e2.2.1, e2.2.2]
  exact e3

end Sys2Proof.Machine
end

