-- ==== Sys2Proof/Laws/Kept.lean ====
section
/-! SUPPORT. What leaves the staging and finishing areas of the sessions, and their images, alone. -/

namespace Sys2Proof.Machine

/-- `b` has the staging and finishing areas of `a`, and its images. -/
structure State.Kept (a b : State) : Prop where
  staging : b.kv.staging = a.kv.staging
  areas : b.kv.areas = a.kv.areas
  images : b.kv.images = a.kv.images

variable {s0 s t : State}

theorem kept_refl (s : State) : s.Kept s := ⟨rfl, rfl, rfl⟩

theorem kept_trans (h : s0.Kept s) (h' : s.Kept t) : s0.Kept t := ⟨h'.staging.trans h.staging, h'.areas.trans h.areas, h'.images.trans h.images⟩

theorem State.Kept.stagingAt (h : s0.Kept s) (slot : Nat) : s.staging slot = s0.staging slot := by
  unfold State.staging
  rw [h.staging]

theorem State.Kept.areaAt (h : s0.Kept s) (slot : Nat) : s.area slot = s0.area slot := by
  unfold State.area
  rw [h.areas]

/-- A change elsewhere. -/
theorem kept_mk (h : s0.Kept s) {now : Nat} {pending : List Instr} {free : Nat} {regs : List (RegKey × Word)} {bcn : Beacon}
    {ev : Events} {ses : Sessions} {kv : Kv} {attn : Attn} {grams : List ((Nat × Nat) × Gram)} {net : Net} {lamp : Lamp}
    {tier : Tier} {start : Start} {flash : Flash} {ident : Ident} {ckpt : Ckpt} {health : Health} {rp : Replay} {pins : Pins}
    (e1 : kv.staging = s.kv.staging) (e2 : kv.areas = s.kv.areas) (e3 : kv.images = s.kv.images) :
    s0.Kept ⟨now, pending, free, regs, bcn, ev, ses, kv, attn, grams, net, lamp, tier, start, flash, ident, ckpt, health, rp,
      pins⟩ := ⟨e1.trans h.staging, e2.trans h.areas, e3.trans h.images⟩

theorem kept_ite {c : Prop} [Decidable c] (h : s0.Kept s) (h' : s0.Kept t) : s0.Kept (if c then s else t) := by
  split <;> assumption

theorem kept_foldl {α : Type} {f : State → α → State} (hf : ∀ s x, s0.Kept s → s0.Kept (f s x)) (l : List α)
    (h : s0.Kept s) : s0.Kept (l.foldl f s) := by
  induction l generalizing s with
  | nil => exact h
  | cons x l ih => exact ih (hf s x h)

theorem State.setReg_kept (h : s0.Kept s) {die sel : Nat} {r : RegId} {w : Word} : s0.Kept (s.setReg die sel r w) := kept_mk h rfl rfl rfl
theorem State.setFld_kept (h : s0.Kept s) {die sel : Nat} {f : Field} {v : Nat} : s0.Kept (s.setFld die sel f v) := kept_mk h rfl rfl rfl
theorem State.bumpBy_kept (h : s0.Kept s) {die sel : Nat} {f : Field} {n : Nat} : s0.Kept (s.bumpBy die sel f n) := kept_mk h rfl rfl rfl
theorem State.bump_kept (h : s0.Kept s) {die sel : Nat} {f : Field} : s0.Kept (s.bump die sel f) := kept_mk h rfl rfl rfl
theorem State.lower_kept (h : s0.Kept s) {die sel : Nat} {f : Field} {n : Nat} : s0.Kept (s.lower die sel f n) := kept_mk h rfl rfl rfl
theorem State.setSess_kept (h : s0.Kept s) {slot : Nat} {r : Session} : s0.Kept (s.setSess slot r) := kept_mk h rfl rfl rfl
theorem State.setPort_kept (h : s0.Kept s) {p : Nat} {x : Port} : s0.Kept (s.setPort p x) := kept_mk h rfl rfl rfl
theorem State.setPoolFree_kept (h : s0.Kept s) {die tier n : Nat} : s0.Kept (s.setPoolFree die tier n) := by
  unfold State.setPoolFree
  dsimp only
  exact State.setReg_kept h

set_option linter.unusedTactic false
set_option linter.unreachableTactic false

theorem State.nextFree_kept (h : s0.Kept s) : s0.Kept (State.nextFree s) := by
  unfold State.nextFree
  try dsimp only
  repeat' first | with_reducible assumption | with_reducible rfl | with_reducible apply kept_ite | fail_if_no_progress with_reducible refine kept_mk ?_ rfl rfl rfl | split | dsimp only | decide

theorem State.settle_kept (h : s0.Kept s) {p : Nat} : s0.Kept (State.settle s p) := by
  unfold State.settle
  try dsimp only
  repeat' first | with_reducible assumption | with_reducible rfl | intro _ | with_reducible apply State.setPort_kept | with_reducible apply kept_ite | with_reducible apply kept_foldl | fail_if_no_progress with_reducible refine kept_mk ?_ rfl rfl rfl | split | dsimp only | decide

theorem State.enqueue_kept (h : s0.Kept s) {p cls flow len : Nat} {result : Option (Nat × ResKey)} {body : FrameBody} : s0.Kept (State.enqueue s p cls flow len result body) := by
  unfold State.enqueue
  try dsimp only
  repeat' first | with_reducible assumption | with_reducible rfl | with_reducible apply State.settle_kept | with_reducible apply State.setPort_kept | with_reducible apply kept_ite | fail_if_no_progress with_reducible refine kept_mk ?_ rfl rfl rfl | split | dsimp only | decide

theorem State.countHeld_kept (h : s0.Kept s) {p : Nat} : s0.Kept (State.countHeld s p) := by
  unfold State.countHeld
  try dsimp only
  repeat' first | with_reducible assumption | with_reducible rfl | intro _ | with_reducible apply State.setPort_kept | with_reducible apply State.bump_kept | with_reducible apply kept_ite | with_reducible apply kept_foldl | fail_if_no_progress with_reducible refine kept_mk ?_ rfl rfl rfl | split | dsimp only | decide

theorem State.noteReturn_kept (h : s0.Kept s) {r : Result} : s0.Kept (State.noteReturn s r) := by
  unfold State.noteReturn
  try dsimp only
  repeat' first | with_reducible assumption | with_reducible rfl | intro _ | with_reducible apply State.bump_kept | with_reducible apply kept_ite | fail_if_no_progress with_reducible refine kept_mk ?_ rfl rfl rfl | split | dsimp only | decide

theorem State.markStarted_kept (h : s0.Kept s) {p : Nat} {f : QFrame} : s0.Kept (State.markStarted s p f) := by
  unfold State.markStarted
  try dsimp only
  repeat' first | with_reducible assumption | with_reducible rfl | intro _ | with_reducible apply State.noteReturn_kept | with_reducible apply State.setPort_kept | with_reducible apply kept_ite | fail_if_no_progress with_reducible refine kept_mk ?_ rfl rfl rfl | split | dsimp only | decide

theorem State.untrack_kept (h : s0.Kept s) {k : KeyRef} {reqId : Nat} : s0.Kept (State.untrack s k reqId) := by
  unfold State.untrack
  try dsimp only
  repeat' first | with_reducible assumption | with_reducible rfl | intro _ | with_reducible apply kept_ite | fail_if_no_progress with_reducible refine kept_mk ?_ rfl rfl rfl | split | dsimp only | decide

theorem State.untrackFrame_kept (h : s0.Kept s) {f : QFrame} : s0.Kept (State.untrackFrame s f) := by
  unfold State.untrackFrame
  try dsimp only
  repeat' first | with_reducible assumption | with_reducible rfl | with_reducible apply State.untrack_kept | with_reducible apply kept_ite | fail_if_no_progress with_reducible refine kept_mk ?_ rfl rfl rfl | split | dsimp only | decide

theorem State.pick_kept (h : s0.Kept s) {p : Nat} : s0.Kept (State.pick s p) := by
  unfold State.pick
  try dsimp only
  repeat' first | with_reducible assumption | with_reducible rfl | with_reducible apply State.settle_kept | with_reducible apply State.countHeld_kept | with_reducible apply State.setPort_kept | with_reducible apply State.markStarted_kept | with_reducible apply State.untrackFrame_kept | with_reducible apply kept_ite | fail_if_no_progress with_reducible refine kept_mk ?_ rfl rfl rfl | split | dsimp only | decide

theorem State.send_kept (h : s0.Kept s) {p cls flow len : Nat} {result : Option (Nat × ResKey)} {body : FrameBody} : s0.Kept (State.send s p cls flow len result body) := by
  unfold State.send
  try dsimp only
  repeat' first | with_reducible assumption | with_reducible rfl | with_reducible apply State.enqueue_kept | with_reducible apply State.pick_kept | with_reducible apply kept_ite | split | dsimp only | decide

theorem State.resetClass_kept (h : s0.Kept s) {p c : Nat} : s0.Kept (State.resetClass s p c) := by
  unfold State.resetClass
  try dsimp only
  repeat' first | with_reducible assumption | with_reducible rfl | intro _ | with_reducible apply State.setPort_kept | with_reducible apply kept_ite | fail_if_no_progress with_reducible refine kept_mk ?_ rfl rfl rfl | split | dsimp only | decide

theorem State.sendSeg_kept (h : s0.Kept s) {d : Dest} {kind type status reason reqId : Nat} {response : Bool} {result : Option (Nat × ResKey)} {count len : Nat} {seg : Nat × List Byte} : s0.Kept (State.sendSeg s d kind type status reason reqId response result count len seg) := by
  unfold State.sendSeg
  try dsimp only
  repeat' first | with_reducible assumption | with_reducible rfl | with_reducible apply State.send_kept | with_reducible apply kept_ite | fail_if_no_progress with_reducible refine kept_mk ?_ rfl rfl rfl | split | dsimp only | decide

theorem State.sendMsg_kept (h : s0.Kept s) {d : Dest} {kind type status reason reqId : Nat} {response : Bool} {result : Option (Nat × ResKey)} {body : List Byte} : s0.Kept (State.sendMsg s d kind type status reason reqId response result body) := by
  unfold State.sendMsg
  try dsimp only
  repeat' first | with_reducible assumption | with_reducible rfl | intro _ | with_reducible apply State.sendSeg_kept | with_reducible apply kept_ite | with_reducible apply kept_foldl | fail_if_no_progress with_reducible refine kept_mk ?_ rfl rfl rfl | split | dsimp only | decide

theorem State.setRing_kept (h : s0.Kept s) {die : Nat} {l : List EvtRec} : s0.Kept (State.setRing s die l) := by
  unfold State.setRing
  try dsimp only
  repeat' first | with_reducible assumption | with_reducible rfl | with_reducible apply kept_ite | fail_if_no_progress with_reducible refine kept_mk ?_ rfl rfl rfl | split | dsimp only | decide

theorem State.setAlerts_kept (h : s0.Kept s) {die : Nat} {l : List Nat} : s0.Kept (State.setAlerts s die l) := by
  unfold State.setAlerts
  try dsimp only
  repeat' first | with_reducible assumption | with_reducible rfl | with_reducible apply kept_ite | fail_if_no_progress with_reducible refine kept_mk ?_ rfl rfl rfl | split | dsimp only | decide

theorem State.eventFrame_kept (h : s0.Kept s) {sub : Sub} {r : EvtRec} : s0.Kept (State.eventFrame s sub r) := by
  unfold State.eventFrame
  try dsimp only
  repeat' first | with_reducible assumption | with_reducible rfl | with_reducible apply State.sendMsg_kept | with_reducible apply kept_ite | fail_if_no_progress with_reducible refine kept_mk ?_ rfl rfl rfl | split | dsimp only | decide

theorem State.ibi_kept (h : s0.Kept s) {byte : Nat} : s0.Kept (State.ibi s byte) := by
  unfold State.ibi
  try dsimp only
  repeat' first | with_reducible assumption | with_reducible rfl | with_reducible apply kept_ite | fail_if_no_progress with_reducible refine kept_mk ?_ rfl rfl rfl | split | dsimp only | decide

theorem State.logEvent_kept (h : s0.Kept s) {die : Nat} {r : EvtRec} : s0.Kept (State.logEvent s die r) := by
  unfold State.logEvent
  try dsimp only
  repeat' first | with_reducible assumption | with_reducible rfl | with_reducible apply State.setRing_kept | with_reducible apply State.setFld_kept | with_reducible apply State.setAlerts_kept | with_reducible apply State.ibi_kept | with_reducible apply kept_ite | split | dsimp only | decide

theorem State.raise_kept (h : s0.Kept s) {die sub : Nat} {a : EvtArgs} : s0.Kept (State.raise s die sub a) := by
  unfold State.raise
  try dsimp only
  repeat' first | with_reducible assumption | with_reducible rfl | intro _ | with_reducible apply State.eventFrame_kept | with_reducible apply State.logEvent_kept | with_reducible apply kept_ite | with_reducible apply kept_foldl | split | dsimp only | decide

theorem State.setOnce_kept (h : s0.Kept s) {o : Once} : s0.Kept (State.setOnce s o) := by
  unfold State.setOnce
  try dsimp only
  repeat' first | with_reducible assumption | with_reducible rfl | intro _ | with_reducible apply kept_ite | fail_if_no_progress with_reducible refine kept_mk ?_ rfl rfl rfl | split | dsimp only | decide

theorem State.raiseOnce_kept (h : s0.Kept s) {die sub item : Nat} {a : EvtArgs} : s0.Kept (State.raiseOnce s die sub item a) := by
  unfold State.raiseOnce
  try dsimp only
  repeat' first | with_reducible assumption | with_reducible rfl | with_reducible apply State.setOnce_kept | with_reducible apply State.raise_kept | with_reducible apply kept_ite | fail_if_no_progress with_reducible refine kept_mk ?_ rfl rfl rfl | split | dsimp only | decide

theorem State.closeRec_kept (h : s0.Kept s) : s0.Kept (State.closeRec s) := by
  unfold State.closeRec
  try dsimp only
  repeat' first | with_reducible assumption | with_reducible rfl | with_reducible apply State.setFld_kept | with_reducible apply kept_ite | fail_if_no_progress with_reducible refine kept_mk ?_ rfl rfl rfl | split | dsimp only | decide

theorem State.addRec_kept (h : s0.Kept s) {status port ctx ep len : Nat} {body : RecBody} : s0.Kept (State.addRec s status port ctx ep len body) := by
  unfold State.addRec
  try dsimp only
  repeat' first | with_reducible assumption | with_reducible rfl | with_reducible apply State.setFld_kept | with_reducible apply State.raiseOnce_kept | with_reducible apply State.closeRec_kept | with_reducible apply State.raise_kept | with_reducible apply State.setReg_kept | with_reducible apply kept_ite | fail_if_no_progress with_reducible refine kept_mk ?_ rfl rfl rfl | split | dsimp only | decide

theorem State.diverge_kept (h : s0.Kept s) {msg : Nat} : s0.Kept (State.diverge s msg) := by
  unfold State.diverge
  try dsimp only
  repeat' first | with_reducible assumption | with_reducible rfl | with_reducible apply State.bump_kept | with_reducible apply State.setFld_kept | with_reducible apply State.raise_kept | with_reducible apply kept_ite | split | dsimp only | decide

theorem State.formed_kept (h : s0.Kept s) {msg port : Nat} {f : List Byte} : s0.Kept (State.formed s msg port f) := by
  unfold State.formed
  try dsimp only
  repeat' first | with_reducible assumption | with_reducible rfl | with_reducible apply State.addRec_kept | with_reducible apply State.diverge_kept | with_reducible apply kept_ite | fail_if_no_progress with_reducible refine kept_mk ?_ rfl rfl rfl | split | dsimp only | decide

theorem State.formResult_kept (h : s0.Kept s) {r : Result} : s0.Kept (State.formResult s r) := by
  unfold State.formResult
  try dsimp only
  repeat' first | with_reducible assumption | with_reducible rfl | intro _ | with_reducible apply State.formed_kept | with_reducible apply kept_ite | fail_if_no_progress with_reducible refine kept_mk ?_ rfl rfl rfl | split | dsimp only | decide

theorem State.noteBad_kept (h : s0.Kept s) {e : Env} {type reason : Nat} : s0.Kept (State.noteBad s e type reason) := by
  unfold State.noteBad
  try dsimp only
  repeat' first | with_reducible assumption | with_reducible rfl | with_reducible apply State.bump_kept | with_reducible apply State.setFld_kept | with_reducible apply State.raiseOnce_kept | with_reducible apply kept_ite | split | dsimp only | decide

theorem State.answer_kept (h : s0.Kept s) {e : Env} {type status reason : Nat} {body : List Byte} : s0.Kept (State.answer s e type status reason body) := by
  unfold State.answer
  try dsimp only
  repeat' first | with_reducible assumption | with_reducible rfl | with_reducible apply State.noteBad_kept | with_reducible apply State.sendMsg_kept | with_reducible apply State.untrack_kept | with_reducible apply kept_ite | fail_if_no_progress with_reducible refine kept_mk ?_ rfl rfl rfl | split | dsimp only | decide

theorem State.track_kept (h : s0.Kept s) {e : Env} {type : Nat} {slot : Option Nat} : s0.Kept (State.track s e type slot) := by
  unfold State.track
  try dsimp only
  repeat' first | with_reducible assumption | with_reducible rfl | with_reducible apply kept_ite | fail_if_no_progress with_reducible refine kept_mk ?_ rfl rfl rfl | split | dsimp only | decide

theorem State.noteObject_kept (h : s0.Kept s) {e : Env} {o : IngestObj} : s0.Kept (State.noteObject s e o) := by
  unfold State.noteObject
  try dsimp only
  repeat' first | with_reducible assumption | with_reducible rfl | with_reducible apply State.addRec_kept | with_reducible apply kept_ite | split | dsimp only | decide

theorem State.countOutcome_kept (h : s0.Kept s) {die status : Nat} : s0.Kept (State.countOutcome s die status) := by
  unfold State.countOutcome
  try dsimp only
  repeat' first | with_reducible assumption | with_reducible rfl | with_reducible apply State.bump_kept | with_reducible apply kept_ite | split | dsimp only | decide

theorem State.quotaTest_kept (h : s0.Kept s) {die ctx tier : Nat} : s0.Kept (State.quotaTest s die ctx tier) := by
  unfold State.quotaTest
  try dsimp only
  repeat' first | with_reducible assumption | with_reducible rfl | with_reducible apply State.setFld_kept | with_reducible apply State.raise_kept | with_reducible apply kept_ite | fail_if_no_progress with_reducible refine kept_mk ?_ rfl rfl rfl | split | dsimp only | decide

theorem State.setUse_kept (h : s0.Kept s) {die ctx tier g : Nat} : s0.Kept (State.setUse s die ctx tier g) := by
  unfold State.setUse
  try dsimp only
  repeat' first | with_reducible assumption | with_reducible rfl | with_reducible apply State.setReg_kept | with_reducible apply State.quotaTest_kept | with_reducible apply kept_ite | split | dsimp only | decide

theorem State.evictTest_kept (h : s0.Kept s) {die tier : Nat} : s0.Kept (State.evictTest s die tier) := by
  unfold State.evictTest
  try dsimp only
  repeat' first | with_reducible assumption | with_reducible rfl | with_reducible apply kept_ite | fail_if_no_progress with_reducible refine kept_mk ?_ rfl rfl rfl | split | dsimp only | decide

theorem State.alloc_kept (h : s0.Kept s) {die tier ctx g : Nat} : s0.Kept (State.alloc s die tier ctx g) := by
  unfold State.alloc
  try dsimp only
  repeat' first | with_reducible assumption | with_reducible rfl | with_reducible apply State.setUse_kept | with_reducible apply State.setPoolFree_kept | with_reducible apply State.evictTest_kept | with_reducible apply kept_ite | split | dsimp only | decide

theorem State.dealloc_kept (h : s0.Kept s) {die tier ctx g : Nat} : s0.Kept (State.dealloc s die tier ctx g) := by
  unfold State.dealloc
  try dsimp only
  repeat' first | with_reducible assumption | with_reducible rfl | with_reducible apply State.setUse_kept | with_reducible apply State.setPoolFree_kept | with_reducible apply State.evictTest_kept | with_reducible apply kept_ite | split | dsimp only | decide

theorem State.putLeaf_kept (h : s0.Kept s) {k : PageKey} {l : Leaf} : s0.Kept (State.putLeaf s k l) := by
  unfold State.putLeaf
  try dsimp only
  repeat' first | with_reducible assumption | with_reducible rfl | with_reducible apply kept_ite | fail_if_no_progress with_reducible refine kept_mk ?_ rfl rfl rfl | split | dsimp only | decide

theorem State.dropLeaf_kept (h : s0.Kept s) {k : PageKey} : s0.Kept (State.dropLeaf s k) := by
  unfold State.dropLeaf
  try dsimp only
  repeat' first | with_reducible assumption | with_reducible rfl | with_reducible apply kept_ite | fail_if_no_progress with_reducible refine kept_mk ?_ rfl rfl rfl | split | dsimp only | decide

theorem State.putShared_kept (h : s0.Kept s) {die id : Nat} {p : SharedPage} : s0.Kept (State.putShared s die id p) := by
  unfold State.putShared
  try dsimp only
  repeat' first | with_reducible assumption | with_reducible rfl | with_reducible apply kept_ite | fail_if_no_progress with_reducible refine kept_mk ?_ rfl rfl rfl | split | dsimp only | decide

theorem State.shootdown_kept (h : s0.Kept s) {die vun : Nat} : s0.Kept (State.shootdown s die vun) := by
  unfold State.shootdown
  try dsimp only
  repeat' first | with_reducible assumption | with_reducible rfl | intro _ | with_reducible apply State.bump_kept | with_reducible apply kept_ite | fail_if_no_progress with_reducible refine kept_mk ?_ rfl rfl rfl | split | dsimp only | decide

theorem State.addLeaf_kept (h : s0.Kept s) {k : PageKey} {l : Leaf} : s0.Kept (State.addLeaf s k l) := by
  unfold State.addLeaf
  try dsimp only
  repeat' first | with_reducible assumption | with_reducible rfl | with_reducible apply State.putLeaf_kept | with_reducible apply State.alloc_kept | with_reducible apply kept_ite | split | dsimp only | decide

theorem State.removeLeaf_kept (h : s0.Kept s) {k : PageKey} : s0.Kept (State.removeLeaf s k) := by
  unfold State.removeLeaf
  try dsimp only
  repeat' first | with_reducible assumption | with_reducible rfl | with_reducible apply State.dropLeaf_kept | with_reducible apply State.dealloc_kept | with_reducible apply kept_ite | split | dsimp only | decide

theorem State.unrefShared_kept (h : s0.Kept s) {die id : Nat} : s0.Kept (State.unrefShared s die id) := by
  unfold State.unrefShared
  try dsimp only
  repeat' first | with_reducible assumption | with_reducible rfl | with_reducible apply State.dealloc_kept | with_reducible apply State.lower_kept | with_reducible apply State.putShared_kept | with_reducible apply kept_ite | fail_if_no_progress with_reducible refine kept_mk ?_ rfl rfl rfl | split | dsimp only | decide

theorem State.releasePage_kept (h : s0.Kept s) {k : PageKey} : s0.Kept (State.releasePage s k) := by
  unfold State.releasePage
  try dsimp only
  repeat' first | with_reducible assumption | with_reducible rfl | with_reducible apply State.removeLeaf_kept | with_reducible apply State.shootdown_kept | with_reducible apply State.unrefShared_kept | with_reducible apply State.dealloc_kept | with_reducible apply kept_ite | fail_if_no_progress with_reducible refine kept_mk ?_ rfl rfl rfl | split | dsimp only | decide

theorem State.dormantTest_kept (h : s0.Kept s) {slot : Nat} : s0.Kept (State.dormantTest s slot) := by
  unfold State.dormantTest
  try dsimp only
  repeat' first | with_reducible assumption | with_reducible rfl | with_reducible apply State.setSess_kept | with_reducible apply State.raise_kept | with_reducible apply kept_ite | fail_if_no_progress with_reducible refine kept_mk ?_ rfl rfl rfl | split | dsimp only | decide

theorem State.notePacked_kept (h : s0.Kept s) {die ctx : Nat} {tiles : List Tile} : s0.Kept (State.notePacked s die ctx tiles) := by
  unfold State.notePacked
  try dsimp only
  repeat' first | with_reducible assumption | with_reducible rfl | intro _ | with_reducible apply State.bumpBy_kept | with_reducible apply State.raiseOnce_kept | with_reducible apply kept_ite | with_reducible apply kept_foldl | split | dsimp only | decide

theorem State.unqueue_kept (h : s0.Kept s) {slot : Nat} {key : ResKey} : s0.Kept (State.unqueue s slot key) := by
  unfold State.unqueue
  try dsimp only
  repeat' first | with_reducible assumption | with_reducible rfl | intro _ | with_reducible apply State.resetClass_kept | with_reducible apply State.settle_kept | with_reducible apply State.setPort_kept | with_reducible apply kept_ite | with_reducible apply kept_foldl | fail_if_no_progress with_reducible refine kept_mk ?_ rfl rfl rfl | split | dsimp only | decide

theorem State.dropResult_kept (h : s0.Kept s) {slot : Nat} {key : ResKey} : s0.Kept (State.dropResult s slot key) := by
  unfold State.dropResult
  try dsimp only
  repeat' first | with_reducible assumption | with_reducible rfl | intro _ | with_reducible apply State.formResult_kept | with_reducible apply State.unqueue_kept | with_reducible apply State.untrack_kept | with_reducible apply State.lower_kept | with_reducible apply kept_ite | fail_if_no_progress with_reducible refine kept_mk ?_ rfl rfl rfl | split | dsimp only | decide

theorem State.dropResults_kept (h : s0.Kept s) {slot : Nat} {p : Result → Bool} : s0.Kept (State.dropResults s slot p) := by
  unfold State.dropResults
  try dsimp only
  repeat' first | with_reducible assumption | with_reducible rfl | intro _ | with_reducible apply State.dropResult_kept | with_reducible apply kept_ite | with_reducible apply kept_foldl | split | dsimp only | decide

theorem State.setSeg_kept (h : s0.Kept s) {x : Seg} : s0.Kept (State.setSeg s x) := by
  unfold State.setSeg
  try dsimp only
  repeat' first | with_reducible assumption | with_reducible rfl | intro _ | with_reducible apply kept_ite | fail_if_no_progress with_reducible refine kept_mk ?_ rfl rfl rfl | split | dsimp only | decide

theorem State.openSeg_kept (h : s0.Kept s) {die group kind : Nat} : SomeP s0.Kept (State.openSeg s die group kind) := by
  unfold State.openSeg
  try dsimp only
  repeat' first | with_reducible assumption | with_reducible rfl | with_reducible exact somep_none | with_reducible apply somep_some | with_reducible apply State.setSeg_kept | with_reducible apply State.raiseOnce_kept | with_reducible apply kept_ite | fail_if_no_progress with_reducible refine kept_mk ?_ rfl rfl rfl | split | dsimp only | decide

theorem State.settleSeg_kept (h : s0.Kept s) {x : Seg} : s0.Kept (State.settleSeg s x) := by
  unfold State.settleSeg
  try dsimp only
  repeat' first | with_reducible assumption | with_reducible rfl | with_reducible apply State.setSeg_kept | with_reducible apply kept_ite | fail_if_no_progress with_reducible refine kept_mk ?_ rfl rfl rfl | split | dsimp only | decide

theorem State.bufferStripes_kept (h : s0.Kept s) {x : Seg} {a b : Nat} : s0.Kept (State.bufferStripes s x a b) := by
  unfold State.bufferStripes
  try dsimp only
  repeat' first | with_reducible assumption | with_reducible rfl | intro _ | with_reducible apply kept_ite | with_reducible apply kept_foldl | fail_if_no_progress with_reducible refine kept_mk ?_ rfl rfl rfl | split | dsimp only | decide

theorem State.placeIn_kept (h : s0.Kept s) {x : Seg} {align size : Nat} {o : Owner} : s0.Kept (State.placeIn s x align size o).1 := by
  unfold State.placeIn
  try dsimp only
  repeat' first | with_reducible assumption | with_reducible rfl | with_reducible apply State.setSeg_kept | with_reducible apply State.bufferStripes_kept | with_reducible apply kept_ite | fail_if_no_progress with_reducible refine kept_mk ?_ rfl rfl rfl | split | dsimp only | decide

theorem State.place_kept (h : s0.Kept s) {die group kind align size : Nat} {o : Owner} : SomeP s0.Kept (State.place s die group kind align size o) := by
  unfold State.place
  try dsimp only
  repeat' first | with_reducible assumption | with_reducible rfl | with_reducible exact somep_none | with_reducible apply somep_some | with_reducible apply State.placeIn_kept | with_reducible apply State.settleSeg_kept | with_reducible apply State.openSeg_kept | with_reducible apply kept_ite | fail_if_no_progress with_reducible refine kept_mk ?_ rfl rfl rfl | refine pair_of (P := s0.Kept) (by assumption) ?_ | refine somep_of (P := s0.Kept) (by assumption) ?_ | split | dsimp only | decide

theorem State.releaseT2_kept (h : s0.Kept s) {die loc : Nat} : s0.Kept (State.releaseT2 s die loc) := by
  unfold State.releaseT2
  try dsimp only
  repeat' first | with_reducible assumption | with_reducible rfl | intro _ | with_reducible apply State.settleSeg_kept | with_reducible apply kept_ite | fail_if_no_progress with_reducible refine kept_mk ?_ rfl rfl rfl | split | dsimp only | decide

theorem State.noteMoved_kept (h : s0.Kept s) {die dir g : Nat} : s0.Kept (State.noteMoved s die dir g) := by
  unfold State.noteMoved
  try dsimp only
  repeat' first | with_reducible assumption | with_reducible rfl | with_reducible apply State.bumpBy_kept | with_reducible apply kept_ite | fail_if_no_progress with_reducible refine kept_mk ?_ rfl rfl rfl | split | dsimp only | decide

theorem State.freePage_kept (h : s0.Kept s) {k : PageKey} : s0.Kept (State.freePage s k) := by
  unfold State.freePage
  try dsimp only
  repeat' first | with_reducible assumption | with_reducible rfl | with_reducible apply State.releaseT2_kept | with_reducible apply State.releasePage_kept | with_reducible apply kept_ite | fail_if_no_progress with_reducible refine kept_mk ?_ rfl rfl rfl | split | dsimp only | decide

theorem State.promotingTest_kept (h : s0.Kept s) {slot : Nat} : s0.Kept (State.promotingTest s slot) := by
  unfold State.promotingTest
  try dsimp only
  repeat' first | with_reducible assumption | with_reducible rfl | intro _ | with_reducible apply State.setSess_kept | with_reducible apply kept_ite | fail_if_no_progress with_reducible refine kept_mk ?_ rfl rfl rfl | split | dsimp only | decide

theorem State.accepted_kept (h : s0.Kept s) {slot : Nat} {renew : Bool} : s0.Kept (State.accepted s slot renew) := by
  unfold State.accepted
  try dsimp only
  repeat' first | with_reducible assumption | with_reducible rfl | with_reducible apply State.setSess_kept | with_reducible apply kept_ite | fail_if_no_progress with_reducible refine kept_mk ?_ rfl rfl rfl | split | dsimp only | decide

theorem State.sesEvent_kept (h : s0.Kept s) {slot sub : Nat} {alert : Bool} {a1 a2 a3 : Nat} : s0.Kept (State.sesEvent s slot sub alert a1 a2 a3) := by
  unfold State.sesEvent
  try dsimp only
  repeat' first | with_reducible assumption | with_reducible rfl | with_reducible apply State.raise_kept | with_reducible apply kept_ite | split | dsimp only | decide

theorem State.ownerChange_kept (h : s0.Kept s) {slot : Nat} : s0.Kept (State.ownerChange s slot) := by
  unfold State.ownerChange
  try dsimp only
  repeat' first | with_reducible assumption | with_reducible rfl | intro _ | with_reducible apply State.raise_kept | with_reducible apply State.eventFrame_kept | with_reducible apply kept_ite | split | dsimp only | decide

theorem State.sesDone_kept (h : s0.Kept s) {e : Env} {type slot : Nat} : s0.Kept (State.sesDone s e type slot) := by
  unfold State.sesDone
  try dsimp only
  repeat' first | with_reducible assumption | with_reducible rfl | with_reducible apply State.answer_kept | with_reducible apply kept_ite | split | dsimp only | decide

theorem State.unrefGram_kept (h : s0.Kept s) {die id : Nat} : s0.Kept (State.unrefGram s die id) := by
  unfold State.unrefGram
  try dsimp only
  repeat' first | with_reducible assumption | with_reducible rfl | with_reducible apply kept_ite | fail_if_no_progress with_reducible refine kept_mk ?_ rfl rfl rfl | split | dsimp only | decide

theorem State.releaseRule_kept (h : s0.Kept s) {slot layer : Nat} : s0.Kept (State.releaseRule s slot layer) := by
  unfold State.releaseRule
  try dsimp only
  repeat' first | with_reducible assumption | with_reducible rfl | intro _ | with_reducible apply State.freePage_kept | with_reducible apply State.bumpBy_kept | with_reducible apply kept_ite | with_reducible apply kept_foldl | split | dsimp only | decide

theorem State.kvAnswer_kept (h : s0.Kept s) {e : Env} {slot status reason dropped nonfinite detail : Nat} : s0.Kept (State.kvAnswer s e slot status reason dropped nonfinite detail) := by
  unfold State.kvAnswer
  try dsimp only
  repeat' first | with_reducible assumption | with_reducible rfl | with_reducible apply State.answer_kept | with_reducible apply kept_ite | split | dsimp only | decide

theorem State.renameUnit_kept (h : s0.Kept s) {u v : UnitRef} : s0.Kept (State.renameUnit s u v) := by
  unfold State.renameUnit
  try dsimp only
  repeat' first | with_reducible assumption | with_reducible rfl | intro _ | with_reducible apply kept_ite | fail_if_no_progress with_reducible refine kept_mk ?_ rfl rfl rfl | split | dsimp only | decide

theorem State.linkPage_kept (h : s0.Kept s) {src dst layer page : Nat} : s0.Kept (State.linkPage s src dst layer page) := by
  unfold State.linkPage
  try dsimp only
  repeat' first | with_reducible assumption | with_reducible rfl | intro _ | with_reducible apply State.addLeaf_kept | with_reducible apply State.putShared_kept | with_reducible apply State.bump_kept | with_reducible apply State.putLeaf_kept | with_reducible apply State.renameUnit_kept | with_reducible apply kept_ite | fail_if_no_progress with_reducible refine kept_mk ?_ rfl rfl rfl | split | dsimp only | decide

end Sys2Proof.Machine
end

