-- ==== Sys2Proof/Laws/Onward.lean ====
section
/-! SUPPORT. How a state may go on: the queue untouched, time not earlier, no fuse unburned, plain data in canonical form.
Every function of the model that answers a state keeps to this; the files Laws/Onward… say so, one lemma each.
Under `kw`, sessions, pages, automata, the tracker, the tiers and flash stand. Under `kq`, the T1 bytes, the fuses, the boot image and the settings stand as well; a function that changes one of these is stated
with `False` for it. -/

namespace Sys2Proof.Machine

/-- `b` is a state that `a` may go on to. -/
structure State.Onward (kq kw : Prop) (a b : State) : Prop where
  pending : b.pending = a.pending
  now : a.now ≤ b.now
  fuses : Fuses.burned a.ident.fuses b.ident.fuses
  canonical : a.Canonical → b.Canonical
  fixed : kq → a.Fixed b
  spared : kw → a.Spared b

theorem Fuses.burned_refl (a : Fuses) : a.burned a := ⟨le_rfl, id, id, id, id, le_rfl, id⟩

theorem Fuses.burned_trans {a b c : Fuses} (h : a.burned b) (h' : b.burned c) : a.burned c := by
  obtain ⟨h1, h2, h3, h4, h5, h6, h7⟩ := h
  obtain ⟨g1, g2, g3, g4, g5, g6, g7⟩ := h'
  exact ⟨h1.trans g1, g2 ∘ h2, g3 ∘ h3, g4 ∘ h4, g5 ∘ h5, h6.trans g6, g7 ∘ h7⟩

variable {kq kw : Prop} {s0 s t : State}

/-- A register past the settings of its block is none of them. -/
theorem not_setting {b o lo : Nat} (h : settings.all (fun r => r.blk != b || decide (r.off < lo)) = true) (ho : lo ≤ o) :
    (⟨b, o⟩ : RegId) ∉ settings := by
  intro hm
  have := List.all_eq_true.mp h _ hm
  simp at this
  omega

theorem rowOf_id (r : RegId) : (rowOf r).id = r := by
  unfold rowOf
  cases h : (regRowsOf r.blk).find? (fun x => x.id == r) with
  | none => rfl
  | some x =>
    have := List.find?_some h
    exact beq_iff_eq.mp this

theorem mapReg_not_setting (b : Nat) : mapReg b ∉ settings := by
  have h : b / 64 % 4 < 4 := Nat.mod_lt _ (by decide)
  unfold mapReg
  generalize b / 64 % 4 = n at h ⊢
  rcases n with _ | _ | _ | _ | n <;> first | decide | omega

theorem fixed_refl (s : State) : s.Fixed s := ⟨rfl, rfl, rfl, rfl, fun _ _ _ _ => rfl⟩

theorem spared_mk {a b : State} (e1 : b.bcn = a.bcn) (e2 : b.ses = a.ses) (e3 : b.kv = a.kv) (e4 : b.grams = a.grams)
    (e5 : b.tier = a.tier) (e6 : b.flash = a.flash) : a.Spared b := ⟨e1, e2, e3, e4, e5, e6⟩

theorem spared_trans {a b c : State} (h : a.Spared b) (h' : b.Spared c) : a.Spared c :=
  ⟨h'.bcn.trans h.bcn, h'.ses.trans h.ses, h'.kv.trans h.kv, h'.grams.trans h.grams, h'.tier.trans h.tier, h'.flash.trans h.flash⟩

theorem fixed_trans {a b c : State} (h : a.Fixed b) (h' : b.Fixed c) : a.Fixed c :=
  ⟨h'.t1a.trans h.t1a, h'.t1b.trans h.t1b, h'.fuses.trans h.fuses, h'.image.trans h.image,
    fun d i r hr => (h'.settings d i r hr).trans (h.settings d i r hr)⟩

theorem fixed_mk {a b : State} (e1 : b.tier.t1a = a.tier.t1a) (e2 : b.tier.t1b = a.tier.t1b) (e3 : b.ident.fuses = a.ident.fuses)
    (e4 : b.start.img = a.start.img) (e5 : b.regs = a.regs) : a.Fixed b :=
  ⟨e1, e2, e3, e4, fun _ _ _ _ => by unfold State.reg; rw [e5]⟩

theorem onward_refl (s : State) : s.Onward kq kw s := ⟨rfl, le_rfl, Fuses.burned_refl _, id, fun _ => fixed_refl s,
  fun _ => spared_mk rfl rfl rfl rfl rfl rfl⟩

theorem onward_trans (h : s0.Onward kq kw s) (h' : s.Onward kq kw t) : s0.Onward kq kw t :=
  ⟨h'.pending.trans h.pending, h.now.trans h'.now, Fuses.burned_trans h.fuses h'.fuses, h'.canonical ∘ h.canonical,
    fun k => fixed_trans (h.fixed k) (h'.fixed k), fun k => spared_trans (h.spared k) (h'.spared k)⟩

/-- A weaker claim: what touches one of the settings still goes on. -/
theorem onward_weaken (h : s0.Onward kq kw s) : s0.Onward False kw s := ⟨h.pending, h.now, h.fuses, h.canonical, False.elim, h.spared⟩

/-- The same of what touches sessions, pages, automata, the tracker, the tiers or flash. -/
theorem onward_plain (h : s0.Onward kq kw s) : s0.Onward kq False s := ⟨h.pending, h.now, h.fuses, h.canonical, h.fixed, False.elim⟩

/-- A change of anything else. -/
theorem onward_other (h : s0.Onward kq kw s) (e1 : t.pending = s.pending) (e2 : t.now = s.now) (e3 : t.ident.fuses = s.ident.fuses)
    (e4 : t.regs = s.regs) (e5 : t.tier.t1a = s.tier.t1a) (e6 : t.tier.t1b = s.tier.t1b) (e7 : t.ckpt.snaps = s.ckpt.snaps) (e8 : t.start.img = s.start.img)
    (ew : kw → s.Spared t) : s0.Onward kq kw t := by
  refine onward_trans h ⟨e1, e2.ge, e3 ▸ Fuses.burned_refl _, ?_, fun _ => fixed_mk e5 e6 e3 e8 e4, ew⟩
  unfold State.Canonical
  rw [e4, e5, e6, e7]
  exact id

/-- A change of the register file that keeps its form. -/
theorem onward_regs (h : s0.Onward kq kw s) {l : List (RegKey × Word)} (hl : regsWf s.regs = true → regsWf l = true)
    (hk : kq → ∀ d i r, r ∈ settings → State.reg { s with regs := l } d i r = s.reg d i r) :
    s0.Onward kq kw { s with regs := l } :=
  onward_trans h ⟨rfl, le_rfl, Fuses.burned_refl _, fun c => ⟨hl c.1, c.2⟩, fun k => ⟨rfl, rfl, rfl, rfl, hk k⟩,
    fun _ => spared_mk rfl rfl rfl rfl rfl rfl⟩

/-- A change of any other fields, each a record of its own. -/
theorem onward_mkw (h : s0.Onward kq False s) {now : Nat} {pending : List Instr} {free : Nat} {regs : List (RegKey × Word)} {bcn : Beacon}
    {ev : Events} {ses : Sessions} {kv : Kv} {attn : Attn} {grams : List ((Nat × Nat) × Gram)} {net : Net} {lamp : Lamp}
    {tier : Tier} {start : Start} {flash : Flash} {ident : Ident} {ckpt : Ckpt} {health : Health} {rp : Replay} {pins : Pins}
    (e1 : pending = s.pending) (e2 : now = s.now) (e3 : regs = s.regs) (e4 : ident.fuses = s.ident.fuses)
    (e5 : tier.t1a = s.tier.t1a) (e6 : tier.t1b = s.tier.t1b) (e7 : ckpt.snaps = s.ckpt.snaps)
    (e8 : start.img = s.start.img) : s0.Onward kq False ⟨now, pending, free, regs, bcn, ev, ses, kv, attn, grams, net, lamp, tier, start, flash, ident, ckpt, health, rp,
      pins⟩ :=
  onward_other h e1 e2 e4 e3 e5 e6 e7 e8 False.elim

/-- The same where sessions, pages, automata, the tracker, the tiers and flash stand. -/
theorem onward_mk (h : s0.Onward kq kw s) {now : Nat} {pending : List Instr} {free : Nat} {regs : List (RegKey × Word)} {bcn : Beacon}
    {ev : Events} {ses : Sessions} {kv : Kv} {attn : Attn} {grams : List ((Nat × Nat) × Gram)} {net : Net} {lamp : Lamp}
    {tier : Tier} {start : Start} {flash : Flash} {ident : Ident} {ckpt : Ckpt} {health : Health} {rp : Replay} {pins : Pins}
    (f1 : bcn = s.bcn) (f2 : ses = s.ses) (f3 : kv = s.kv) (f4 : grams = s.grams) (f5 : tier = s.tier) (f6 : flash = s.flash)
    (e1 : pending = s.pending) (e2 : now = s.now) (e3 : regs = s.regs) (e4 : ident.fuses = s.ident.fuses)
    (e5 : tier.t1a = s.tier.t1a) (e6 : tier.t1b = s.tier.t1b) (e7 : ckpt.snaps = s.ckpt.snaps)
    (e8 : start.img = s.start.img) : s0.Onward kq kw ⟨now, pending, free, regs, bcn, ev, ses, kv, attn, grams, net, lamp, tier, start, flash, ident, ckpt, health, rp,
      pins⟩ :=
  onward_other h e1 e2 e4 e3 e5 e6 e7 e8 (fun _ => spared_mk f1 f2 f3 f4 f5 f6)

/-- A change of what start keeps, the boot image among it. -/
theorem onward_start (h : s0.Onward False kw s) {start : Start} : s0.Onward False kw { s with start := start } :=
  ⟨h.pending, h.now, h.fuses, h.canonical, False.elim,
    fun k => spared_trans (h.spared k) (spared_mk rfl rfl rfl rfl rfl rfl)⟩

/-- The first component of a pair that a function answers. -/
theorem onward_of_pair {α : Type} {p : State × α} {x : α} (e : p = (t, x)) (h : s0.Onward kq kw p.1) : s0.Onward kq kw t := by
  rw [e] at h
  exact h

/-- If a function answers a state, it is one to go on to. -/
structure OptOnward (kq kw : Prop) (s0 : State) (o : Option State) : Prop where
  some : ∀ t, o = some t → s0.Onward kq kw t

/-- The same of an answer that carries something beside the state. -/
structure OptOnward1 {α : Type} (kq kw : Prop) (s0 : State) (o : Option (State × α)) : Prop where
  some : ∀ t x, o = some (t, x) → s0.Onward kq kw t

/-- If a command completes, its next state is one to go on to. -/
structure ResOnward (kq kw : Prop) (s0 : State) (r : Res) : Prop where
  next : ∀ t, r = .next t → s0.Onward kq kw t

theorem onward_none : OptOnward kq kw s0 none := ⟨fun _ h => nomatch h⟩
theorem onward_some (h : s0.Onward kq kw s) : OptOnward kq kw s0 (some s) := ⟨fun _ e => Option.some.inj e ▸ h⟩
theorem onward_of_some {o : Option State} (e : o = some t) (h : OptOnward kq kw s0 o) : s0.Onward kq kw t := h.some t e
theorem onward_none1 {α : Type} : OptOnward1 (α := α) kq kw s0 none := ⟨fun _ _ h => nomatch h⟩
theorem onward_some1 {α : Type} {x : α} (h : s0.Onward kq kw s) : OptOnward1 kq kw s0 (some (s, x)) := by
  constructor
  rintro _ _ ⟨⟩
  exact h
theorem onward_of_some1 {α : Type} {o : Option (State × α)} {x : α} (e : o = some (t, x)) (h : OptOnward1 kq kw s0 o) : s0.Onward kq kw t :=
  h.some t x e
theorem onward_map1 {α β : Type} {o : Option (State × α)} {g : State × α → β} (h : OptOnward1 kq kw s0 o) :
    OptOnward1 kq kw s0 (o.map (fun p => (p.1, g p))) := by
  constructor
  rintro t x e
  obtain ⟨p, e', hp⟩ := Option.map_eq_some_iff.mp e
  cases hp
  exact h.some p.1 p.2 e'
theorem onward_getD {o : Option State} (h : OptOnward kq kw s0 o) (h' : s0.Onward kq kw s) : s0.Onward kq kw (o.getD s) := by
  cases o with
  | none => exact h'
  | some t => exact h.some t rfl
theorem onward_next (h : s0.Onward kq kw s) : ResOnward kq kw s0 (.next s) := by
  constructor
  rintro _ ⟨⟩
  exact h
theorem onward_of_next {r : Res} (e : r = .next t) (h : ResOnward kq kw s0 r) : s0.Onward kq kw t := h.next t e
theorem onward_fault {f : Fault} : ResOnward kq kw s0 (.fault f) := ⟨fun _ h => nomatch h⟩
theorem onward_refused {r : Refusal} : ResOnward kq kw s0 (.refused r) := ⟨fun _ h => nomatch h⟩

/-- A command that touches a setting: nothing is claimed of the settings. -/
theorem res_touching {r : Res} (hk : ¬kq) (h : ResOnward False kw s0 r) : ResOnward kq kw s0 r :=
  ⟨fun t e => have g := h.next t e; ⟨g.pending, g.now, g.fuses, g.canonical, fun k => absurd k hk, g.spared⟩⟩

/-- A command that touches sessions, pages, automata, the tracker, the tiers or flash: nothing is claimed of them. -/
theorem res_stirring {r : Res} (hk : ¬kw) (h : ResOnward kq False s0 r) : ResOnward kq kw s0 r :=
  ⟨fun t e => have g := h.next t e; ⟨g.pending, g.now, g.fuses, g.canonical, g.fixed, fun k => absurd k hk⟩⟩

theorem onward_ite {c : Prop} [Decidable c] (h : s0.Onward kq kw s) (h' : s0.Onward kq kw t) : s0.Onward kq kw (if c then s else t) := by
  split
  · exact h
  · exact h'

theorem onward_ite_opt {c : Prop} [Decidable c] {a b : Option State} (h : OptOnward kq kw s0 a) (h' : OptOnward kq kw s0 b) :
    OptOnward kq kw s0 (if c then a else b) := by
  split
  · exact h
  · exact h'

theorem onward_foldl {α : Type} {f : State → α → State} (hf : ∀ s x, s0.Onward kq kw s → s0.Onward kq kw (f s x)) (l : List α) (h : s0.Onward kq kw s) :
    s0.Onward kq kw (l.foldl f s) := by
  induction l generalizing s with
  | nil => exact h
  | cons x l ih => exact ih (hf s x h)

theorem onward_foldl1 {α β : Type} {f : State × β → α → State × β} (hf : ∀ p x, s0.Onward kq kw p.1 → s0.Onward kq kw (f p x).1) (l : List α)
    {p : State × β} (h : s0.Onward kq kw p.1) : s0.Onward kq kw (l.foldl f p).1 := by
  induction l generalizing p with
  | nil => exact h
  | cons x l ih => exact ih (hf p x h)

end Sys2Proof.Machine
end

