-- ==== Sys2Proof/Laws/OnwardOps.lean ====
section
/-! SUPPORT. What the functions of Machine/Ops.lean keep: each answers a state its argument may go on to. -/

namespace Sys2Proof.Machine

set_option linter.unusedTactic false
set_option linter.unreachableTactic false

variable {kq kw : Prop} {s0 s : State}

theorem State.setReg_onward (h : s0.Onward kq kw s) {die sel : Nat} {r : RegId} {w : Word} (hr : kq → r ∉ settings) :
    s0.Onward kq kw (State.setReg s die sel r w) :=
  onward_regs h (fun c => regSet_wf c _ _) (fun hq _ _ _ hx => reg_setReg_ne s _ (.inr (.inr (fun e => hr hq (e ▸ hx)))))

theorem State.setFld_onward (h : s0.Onward kq kw s) {die sel : Nat} {f : Field} {v : Nat} (hr : kq → f.reg ∉ settings) : s0.Onward kq kw (State.setFld s die sel f v) := by
  unfold State.setFld
  try dsimp only
  repeat' first | with_reducible assumption | (show kq → _ ∉ settings; first | exact False.elim | (with_reducible assumption) | exact fun _ => by decide | exact fun _ => mapReg_not_setting _ | exact fun _ => (by unfold gcBusy; split <;> decide) | exact fun _ => not_setting (lo := 272) (by decide) (by omega) | exact fun _ => not_setting (lo := 88) (by decide) (by omega) | exact fun _ => not_setting (lo := 64) (by decide) (by omega) | exact fun _ => not_setting (lo := 96) (by decide) (by omega) | exact fun _ => (by rw [rowOf_id]; first | assumption | exact not_setting (lo := 64) (by decide) (by omega) | exact not_setting (lo := 272) (by decide) (by omega)) | exact fun _ => not_setting (lo := 32) (by decide) (by omega)) | with_reducible apply State.setReg_onward | with_reducible apply onward_ite | split | dsimp only

theorem State.bumpBy_onward (h : s0.Onward kq kw s) {die sel : Nat} {f : Field} {n : Nat} (hr : kq → f.reg ∉ settings) : s0.Onward kq kw (State.bumpBy s die sel f n) := by
  unfold State.bumpBy
  try dsimp only
  repeat' first | with_reducible assumption | (show kq → _ ∉ settings; first | exact False.elim | (with_reducible assumption) | exact fun _ => by decide | exact fun _ => mapReg_not_setting _ | exact fun _ => (by unfold gcBusy; split <;> decide) | exact fun _ => not_setting (lo := 272) (by decide) (by omega) | exact fun _ => not_setting (lo := 88) (by decide) (by omega) | exact fun _ => not_setting (lo := 64) (by decide) (by omega) | exact fun _ => not_setting (lo := 96) (by decide) (by omega) | exact fun _ => (by rw [rowOf_id]; first | assumption | exact not_setting (lo := 64) (by decide) (by omega) | exact not_setting (lo := 272) (by decide) (by omega)) | exact fun _ => not_setting (lo := 32) (by decide) (by omega)) | with_reducible apply State.setFld_onward | with_reducible apply onward_ite | split | dsimp only

theorem State.bump_onward (h : s0.Onward kq kw s) {die sel : Nat} {f : Field} (hr : kq → f.reg ∉ settings) : s0.Onward kq kw (State.bump s die sel f) := by
  unfold State.bump
  try dsimp only
  repeat' first | with_reducible assumption | (show kq → _ ∉ settings; first | exact False.elim | (with_reducible assumption) | exact fun _ => by decide | exact fun _ => mapReg_not_setting _ | exact fun _ => (by unfold gcBusy; split <;> decide) | exact fun _ => not_setting (lo := 272) (by decide) (by omega) | exact fun _ => not_setting (lo := 88) (by decide) (by omega) | exact fun _ => not_setting (lo := 64) (by decide) (by omega) | exact fun _ => not_setting (lo := 96) (by decide) (by omega) | exact fun _ => (by rw [rowOf_id]; first | assumption | exact not_setting (lo := 64) (by decide) (by omega) | exact not_setting (lo := 272) (by decide) (by omega)) | exact fun _ => not_setting (lo := 32) (by decide) (by omega)) | with_reducible apply State.bumpBy_onward | with_reducible apply onward_ite | split | dsimp only

theorem State.lower_onward (h : s0.Onward kq kw s) {die sel : Nat} {f : Field} {n : Nat} (hr : kq → f.reg ∉ settings) : s0.Onward kq kw (State.lower s die sel f n) := by
  unfold State.lower
  try dsimp only
  repeat' first | with_reducible assumption | (show kq → _ ∉ settings; first | exact False.elim | (with_reducible assumption) | exact fun _ => by decide | exact fun _ => mapReg_not_setting _ | exact fun _ => (by unfold gcBusy; split <;> decide) | exact fun _ => not_setting (lo := 272) (by decide) (by omega) | exact fun _ => not_setting (lo := 88) (by decide) (by omega) | exact fun _ => not_setting (lo := 64) (by decide) (by omega) | exact fun _ => not_setting (lo := 96) (by decide) (by omega) | exact fun _ => (by rw [rowOf_id]; first | assumption | exact not_setting (lo := 64) (by decide) (by omega) | exact not_setting (lo := 272) (by decide) (by omega)) | exact fun _ => not_setting (lo := 32) (by decide) (by omega)) | with_reducible apply State.setFld_onward | with_reducible apply onward_ite | split | dsimp only

theorem State.tick_onward (h : s0.Onward kq kw s) {t : Nat} : s0.Onward kq kw (State.tick s t) :=
  onward_trans h ⟨rfl, Nat.le_max_left _ _, Fuses.burned_refl _, id, fun _ => fixed_mk rfl rfl rfl rfl rfl, fun _ => spared_mk rfl rfl rfl rfl rfl rfl⟩

theorem State.nextFree_onward (h : s0.Onward kq kw s) : s0.Onward kq kw (State.nextFree s) := by
  unfold State.nextFree
  try dsimp only
  repeat' first | with_reducible assumption | with_reducible apply onward_ite | fail_if_no_progress with_reducible refine onward_mk ?_ rfl rfl rfl rfl rfl rfl rfl rfl rfl rfl rfl rfl rfl rfl | split | dsimp only

theorem State.setT1_onward (h : s0.Onward False False s) {die : Nat} {m : List Host.Cell} (hm : memWf (s.t1 die) = true → memWf m = true) :
    s0.Onward False False (State.setT1 s die m) := by
  unfold State.t1 at hm
  unfold State.setT1
  split <;> rename_i hd
  · rw [if_pos hd] at hm
    exact onward_trans h ⟨rfl, le_rfl, Fuses.burned_refl _, fun c => ⟨c.1, hm c.2.1, c.2.2⟩, False.elim, False.elim⟩
  · rw [if_neg hd] at hm
    exact onward_trans h ⟨rfl, le_rfl, Fuses.burned_refl _, fun c => ⟨c.1, c.2.1, hm c.2.2.1, c.2.2.2⟩, False.elim, False.elim⟩

theorem State.setSess_onward (h : s0.Onward kq False s) {slot : Nat} {r : Session} : s0.Onward kq False (State.setSess s slot r) := by
  unfold State.setSess
  try dsimp only
  repeat' first | with_reducible assumption | with_reducible apply onward_ite | fail_if_no_progress with_reducible refine onward_mkw ?_ rfl rfl rfl rfl rfl rfl rfl rfl | split | dsimp only

end Sys2Proof.Machine
end

