-- ==== Sys2Proof/Laws/OnwardChim.lean ====
section
/-! SUPPORT. What the functions of Machine/Chim.lean keep: each answers a state its argument may go on to. -/

namespace Sys2Proof.Machine

set_option linter.unusedTactic false
set_option linter.unreachableTactic false

variable {kq kw : Prop} {s0 s : State}

theorem State.setPort_onward (h : s0.Onward kq kw s) {p : Nat} {v : Port} : s0.Onward kq kw (State.setPort s p v) := by
  unfold State.setPort
  try dsimp only
  repeat' first | with_reducible assumption | with_reducible apply onward_ite | fail_if_no_progress with_reducible refine onward_mk ?_ rfl rfl rfl rfl rfl rfl rfl rfl rfl rfl rfl rfl rfl rfl | split | dsimp only

theorem State.settle_onward (h : s0.Onward kq kw s) {p : Nat} : s0.Onward kq kw (State.settle s p) := by
  unfold State.settle
  try dsimp only
  repeat' first | with_reducible assumption | intro _ | with_reducible apply State.setPort_onward | with_reducible apply onward_ite | with_reducible apply onward_foldl | fail_if_no_progress with_reducible refine onward_mk ?_ rfl rfl rfl rfl rfl rfl rfl rfl rfl rfl rfl rfl rfl rfl | split | dsimp only

theorem State.enqueue_onward (h : s0.Onward kq kw s) {p cls flow len : Nat} {result : Option (Nat × ResKey)} {body : FrameBody} : s0.Onward kq kw (State.enqueue s p cls flow len result body) := by
  unfold State.enqueue
  try dsimp only
  repeat' first | with_reducible assumption | with_reducible apply State.settle_onward | with_reducible apply State.setPort_onward | with_reducible apply onward_ite | with_reducible apply onward_getD | fail_if_no_progress with_reducible refine onward_mk ?_ rfl rfl rfl rfl rfl rfl rfl rfl rfl rfl rfl rfl rfl rfl | split | dsimp only

theorem State.countHeld_onward (h : s0.Onward kq kw s) {p : Nat} : s0.Onward kq kw (State.countHeld s p) := by
  unfold State.countHeld
  try dsimp only
  repeat' first | with_reducible assumption | (show kq → _ ∉ settings; first | exact False.elim | (with_reducible assumption) | exact fun _ => by decide | exact fun _ => mapReg_not_setting _ | exact fun _ => (by unfold gcBusy; split <;> decide) | exact fun _ => not_setting (lo := 272) (by decide) (by omega) | exact fun _ => not_setting (lo := 88) (by decide) (by omega) | exact fun _ => not_setting (lo := 64) (by decide) (by omega) | exact fun _ => not_setting (lo := 96) (by decide) (by omega) | exact fun _ => (by rw [rowOf_id]; first | assumption | exact not_setting (lo := 64) (by decide) (by omega) | exact not_setting (lo := 272) (by decide) (by omega)) | exact fun _ => not_setting (lo := 32) (by decide) (by omega)) | intro _ | with_reducible apply State.setPort_onward | with_reducible apply State.bump_onward | with_reducible apply onward_ite | with_reducible apply onward_foldl | fail_if_no_progress with_reducible refine onward_mk ?_ rfl rfl rfl rfl rfl rfl rfl rfl rfl rfl rfl rfl rfl rfl | split | dsimp only

theorem State.noteReturn_onward (h : s0.Onward kq kw s) {r : Result} : s0.Onward kq kw (State.noteReturn s r) := by
  unfold State.noteReturn
  try dsimp only
  repeat' first | with_reducible assumption | (show kq → _ ∉ settings; first | exact False.elim | (with_reducible assumption) | exact fun _ => by decide | exact fun _ => mapReg_not_setting _ | exact fun _ => (by unfold gcBusy; split <;> decide) | exact fun _ => not_setting (lo := 272) (by decide) (by omega) | exact fun _ => not_setting (lo := 88) (by decide) (by omega) | exact fun _ => not_setting (lo := 64) (by decide) (by omega) | exact fun _ => not_setting (lo := 96) (by decide) (by omega) | exact fun _ => (by rw [rowOf_id]; first | assumption | exact not_setting (lo := 64) (by decide) (by omega) | exact not_setting (lo := 272) (by decide) (by omega)) | exact fun _ => not_setting (lo := 32) (by decide) (by omega)) | intro _ | with_reducible apply State.bump_onward | with_reducible apply onward_ite | with_reducible apply onward_getD | fail_if_no_progress with_reducible refine onward_mk ?_ rfl rfl rfl rfl rfl rfl rfl rfl rfl rfl rfl rfl rfl rfl | split | dsimp only

theorem State.markStarted_onward (h : s0.Onward kq kw s) {p : Nat} {f : QFrame} : s0.Onward kq kw (State.markStarted s p f) := by
  unfold State.markStarted
  try dsimp only
  repeat' first | with_reducible assumption | intro _ | with_reducible apply State.noteReturn_onward | with_reducible apply State.setPort_onward | with_reducible apply onward_ite | fail_if_no_progress with_reducible refine onward_mk ?_ rfl rfl rfl rfl rfl rfl rfl rfl rfl rfl rfl rfl rfl rfl | split | dsimp only

theorem State.untrack_onward (h : s0.Onward kq kw s) {k : KeyRef} {reqId : Nat} : s0.Onward kq kw (State.untrack s k reqId) := by
  unfold State.untrack
  try dsimp only
  repeat' first | with_reducible assumption | intro _ | with_reducible apply onward_ite | fail_if_no_progress with_reducible refine onward_mk ?_ rfl rfl rfl rfl rfl rfl rfl rfl rfl rfl rfl rfl rfl rfl | split | dsimp only

theorem State.untrackFrame_onward (h : s0.Onward kq kw s) {f : QFrame} : s0.Onward kq kw (State.untrackFrame s f) := by
  unfold State.untrackFrame
  try dsimp only
  repeat' first | with_reducible assumption | with_reducible apply State.untrack_onward | with_reducible apply onward_ite | fail_if_no_progress with_reducible refine onward_mk ?_ rfl rfl rfl rfl rfl rfl rfl rfl rfl rfl rfl rfl rfl rfl | split | dsimp only

theorem State.pick_onward (h : s0.Onward kq kw s) {p : Nat} : s0.Onward kq kw (State.pick s p) := by
  unfold State.pick
  try dsimp only
  repeat' first | with_reducible assumption | with_reducible apply State.settle_onward | with_reducible apply State.countHeld_onward | with_reducible apply State.setPort_onward | with_reducible apply State.markStarted_onward | with_reducible apply State.untrackFrame_onward | with_reducible apply onward_ite | fail_if_no_progress with_reducible refine onward_mk ?_ rfl rfl rfl rfl rfl rfl rfl rfl rfl rfl rfl rfl rfl rfl | split | dsimp only

theorem State.send_onward (h : s0.Onward kq kw s) {p cls flow len : Nat} {result : Option (Nat × ResKey)} {body : FrameBody} : s0.Onward kq kw (State.send s p cls flow len result body) := by
  unfold State.send
  try dsimp only
  repeat' first | with_reducible assumption | with_reducible apply State.enqueue_onward | with_reducible apply State.pick_onward | with_reducible apply onward_ite | split | dsimp only

theorem State.resetClass_onward (h : s0.Onward kq kw s) {p c : Nat} : s0.Onward kq kw (State.resetClass s p c) := by
  unfold State.resetClass
  try dsimp only
  repeat' first | with_reducible assumption | intro _ | with_reducible apply State.setPort_onward | with_reducible apply onward_ite | fail_if_no_progress with_reducible refine onward_mk ?_ rfl rfl rfl rfl rfl rfl rfl rfl rfl rfl rfl rfl rfl rfl | split | dsimp only

end Sys2Proof.Machine
end

