-- ==== Sys2Proof/Laws/OnwardEvents.lean ====
section
/-! SUPPORT. What the functions of Machine/Events.lean keep: each answers a state its argument may go on to. -/

namespace Sys2Proof.Machine

set_option linter.unusedTactic false
set_option linter.unreachableTactic false

variable {kq kw : Prop} {s0 s : State}

theorem State.sendSeg_onward (h : s0.Onward kq kw s) {d : Dest} {kind type status reason reqId : Nat} {response : Bool} {result : Option (Nat × ResKey)} {count len : Nat} {seg : Nat × List Byte} : s0.Onward kq kw (State.sendSeg s d kind type status reason reqId response result count len seg) := by
  unfold State.sendSeg
  try dsimp only
  repeat' first | with_reducible assumption | with_reducible apply State.send_onward | with_reducible apply onward_ite | fail_if_no_progress with_reducible refine onward_mk ?_ rfl rfl rfl rfl rfl rfl rfl rfl rfl rfl rfl rfl rfl rfl | split | dsimp only

theorem State.sendMsg_onward (h : s0.Onward kq kw s) {d : Dest} {kind type status reason reqId : Nat} {response : Bool} {result : Option (Nat × ResKey)} {body : List Byte} : s0.Onward kq kw (State.sendMsg s d kind type status reason reqId response result body) := by
  unfold State.sendMsg
  try dsimp only
  repeat' first | with_reducible assumption | intro _ | with_reducible apply State.sendSeg_onward | with_reducible apply onward_ite | with_reducible apply onward_foldl | fail_if_no_progress with_reducible refine onward_mk ?_ rfl rfl rfl rfl rfl rfl rfl rfl rfl rfl rfl rfl rfl rfl | split | dsimp only

theorem State.setRing_onward (h : s0.Onward kq kw s) {die : Nat} {l : List EvtRec} : s0.Onward kq kw (State.setRing s die l) := by
  unfold State.setRing
  try dsimp only
  repeat' first | with_reducible assumption | with_reducible apply onward_ite | fail_if_no_progress with_reducible refine onward_mk ?_ rfl rfl rfl rfl rfl rfl rfl rfl rfl rfl rfl rfl rfl rfl | split | dsimp only

theorem State.setAlerts_onward (h : s0.Onward kq kw s) {die : Nat} {l : List Nat} : s0.Onward kq kw (State.setAlerts s die l) := by
  unfold State.setAlerts
  try dsimp only
  repeat' first | with_reducible assumption | with_reducible apply onward_ite | fail_if_no_progress with_reducible refine onward_mk ?_ rfl rfl rfl rfl rfl rfl rfl rfl rfl rfl rfl rfl rfl rfl | split | dsimp only

theorem State.eventFrame_onward (h : s0.Onward kq kw s) {sub : Sub} {r : EvtRec} : s0.Onward kq kw (State.eventFrame s sub r) := by
  unfold State.eventFrame
  try dsimp only
  repeat' first | with_reducible assumption | with_reducible apply State.sendMsg_onward | with_reducible apply onward_ite | with_reducible apply onward_getD | fail_if_no_progress with_reducible refine onward_mk ?_ rfl rfl rfl rfl rfl rfl rfl rfl rfl rfl rfl rfl rfl rfl | split | dsimp only

theorem State.ibi_onward (h : s0.Onward kq kw s) {byte : Nat} : s0.Onward kq kw (State.ibi s byte) := by
  unfold State.ibi
  try dsimp only
  repeat' first | with_reducible assumption | with_reducible apply onward_ite | fail_if_no_progress with_reducible refine onward_mk ?_ rfl rfl rfl rfl rfl rfl rfl rfl rfl rfl rfl rfl rfl rfl | split | dsimp only

theorem State.logEvent_onward (h : s0.Onward kq kw s) {die : Nat} {r : EvtRec} : s0.Onward kq kw (State.logEvent s die r) := by
  unfold State.logEvent
  try dsimp only
  repeat' first | with_reducible assumption | (show kq → _ ∉ settings; first | exact False.elim | (with_reducible assumption) | exact fun _ => by decide | exact fun _ => mapReg_not_setting _ | exact fun _ => (by unfold gcBusy; split <;> decide) | exact fun _ => not_setting (lo := 272) (by decide) (by omega) | exact fun _ => not_setting (lo := 88) (by decide) (by omega) | exact fun _ => not_setting (lo := 64) (by decide) (by omega) | exact fun _ => not_setting (lo := 96) (by decide) (by omega) | exact fun _ => (by rw [rowOf_id]; first | assumption | exact not_setting (lo := 64) (by decide) (by omega) | exact not_setting (lo := 272) (by decide) (by omega)) | exact fun _ => not_setting (lo := 32) (by decide) (by omega)) | with_reducible apply State.setRing_onward | with_reducible apply State.setFld_onward | with_reducible apply State.setAlerts_onward | with_reducible apply State.ibi_onward | with_reducible apply onward_ite | split | dsimp only

theorem State.raise_onward (h : s0.Onward kq kw s) {die sub : Nat} {a : EvtArgs} : s0.Onward kq kw (State.raise s die sub a) := by
  unfold State.raise
  try dsimp only
  repeat' first | with_reducible assumption | intro _ | with_reducible apply State.eventFrame_onward | with_reducible apply State.logEvent_onward | with_reducible apply onward_ite | with_reducible apply onward_foldl | split | dsimp only

theorem State.setOnce_onward (h : s0.Onward kq kw s) {o : Once} : s0.Onward kq kw (State.setOnce s o) := by
  unfold State.setOnce
  try dsimp only
  repeat' first | with_reducible assumption | intro _ | with_reducible apply onward_ite | fail_if_no_progress with_reducible refine onward_mk ?_ rfl rfl rfl rfl rfl rfl rfl rfl rfl rfl rfl rfl rfl rfl | split | dsimp only

theorem State.raiseOnce_onward (h : s0.Onward kq kw s) {die sub item : Nat} {a : EvtArgs} : s0.Onward kq kw (State.raiseOnce s die sub item a) := by
  unfold State.raiseOnce
  try dsimp only
  repeat' first | with_reducible assumption | with_reducible apply State.setOnce_onward | with_reducible apply State.raise_onward | with_reducible apply onward_ite | fail_if_no_progress with_reducible refine onward_mk ?_ rfl rfl rfl rfl rfl rfl rfl rfl rfl rfl rfl rfl rfl rfl | split | dsimp only

theorem State.endLimitStep_onward (h : s0.Onward kq kw s) : s0.Onward kq kw (State.endLimitStep s) := by
  unfold State.endLimitStep
  try dsimp only
  repeat' first | with_reducible assumption | intro _ | with_reducible apply onward_ite | fail_if_no_progress with_reducible refine onward_mk ?_ rfl rfl rfl rfl rfl rfl rfl rfl rfl rfl rfl rfl rfl rfl | split | dsimp only

theorem State.closeRec_onward (h : s0.Onward kq kw s) : s0.Onward kq kw (State.closeRec s) := by
  unfold State.closeRec
  try dsimp only
  repeat' first | with_reducible assumption | (show kq → _ ∉ settings; first | exact False.elim | (with_reducible assumption) | exact fun _ => by decide | exact fun _ => mapReg_not_setting _ | exact fun _ => (by unfold gcBusy; split <;> decide) | exact fun _ => not_setting (lo := 272) (by decide) (by omega) | exact fun _ => not_setting (lo := 88) (by decide) (by omega) | exact fun _ => not_setting (lo := 64) (by decide) (by omega) | exact fun _ => not_setting (lo := 96) (by decide) (by omega) | exact fun _ => (by rw [rowOf_id]; first | assumption | exact not_setting (lo := 64) (by decide) (by omega) | exact not_setting (lo := 272) (by decide) (by omega)) | exact fun _ => not_setting (lo := 32) (by decide) (by omega)) | with_reducible apply State.setFld_onward | with_reducible apply onward_ite | fail_if_no_progress with_reducible refine onward_mk ?_ rfl rfl rfl rfl rfl rfl rfl rfl rfl rfl rfl rfl rfl rfl | split | dsimp only

theorem State.addRec_onward (h : s0.Onward kq kw s) {status port ctx ep len : Nat} {body : RecBody} : s0.Onward kq kw (State.addRec s status port ctx ep len body) := by
  unfold State.addRec
  try dsimp only
  repeat' first | with_reducible assumption | (show kq → _ ∉ settings; first | exact False.elim | (with_reducible assumption) | exact fun _ => by decide | exact fun _ => mapReg_not_setting _ | exact fun _ => (by unfold gcBusy; split <;> decide) | exact fun _ => not_setting (lo := 272) (by decide) (by omega) | exact fun _ => not_setting (lo := 88) (by decide) (by omega) | exact fun _ => not_setting (lo := 64) (by decide) (by omega) | exact fun _ => not_setting (lo := 96) (by decide) (by omega) | exact fun _ => (by rw [rowOf_id]; first | assumption | exact not_setting (lo := 64) (by decide) (by omega) | exact not_setting (lo := 272) (by decide) (by omega)) | exact fun _ => not_setting (lo := 32) (by decide) (by omega)) | with_reducible apply State.setFld_onward | with_reducible apply State.raiseOnce_onward | with_reducible apply State.closeRec_onward | with_reducible apply State.raise_onward | with_reducible apply State.setReg_onward | with_reducible apply onward_ite | fail_if_no_progress with_reducible refine onward_mk ?_ rfl rfl rfl rfl rfl rfl rfl rfl rfl rfl rfl rfl rfl rfl | split | dsimp only

theorem State.diverge_onward (h : s0.Onward kq kw s) {msg : Nat} : s0.Onward kq kw (State.diverge s msg) := by
  unfold State.diverge
  try dsimp only
  repeat' first | with_reducible assumption | (show kq → _ ∉ settings; first | exact False.elim | (with_reducible assumption) | exact fun _ => by decide | exact fun _ => mapReg_not_setting _ | exact fun _ => (by unfold gcBusy; split <;> decide) | exact fun _ => not_setting (lo := 272) (by decide) (by omega) | exact fun _ => not_setting (lo := 88) (by decide) (by omega) | exact fun _ => not_setting (lo := 64) (by decide) (by omega) | exact fun _ => not_setting (lo := 96) (by decide) (by omega) | exact fun _ => (by rw [rowOf_id]; first | assumption | exact not_setting (lo := 64) (by decide) (by omega) | exact not_setting (lo := 272) (by decide) (by omega)) | exact fun _ => not_setting (lo := 32) (by decide) (by omega)) | with_reducible apply State.bump_onward | with_reducible apply State.setFld_onward | with_reducible apply State.raise_onward | with_reducible apply onward_ite | split | dsimp only

theorem State.formed_onward (h : s0.Onward kq kw s) {msg port : Nat} {f : List Byte} : s0.Onward kq kw (State.formed s msg port f) := by
  unfold State.formed
  try dsimp only
  repeat' first | with_reducible assumption | with_reducible apply State.addRec_onward | with_reducible apply State.diverge_onward | with_reducible apply onward_ite | fail_if_no_progress with_reducible refine onward_mk ?_ rfl rfl rfl rfl rfl rfl rfl rfl rfl rfl rfl rfl rfl rfl | split | dsimp only

theorem State.formResult_onward (h : s0.Onward kq kw s) {r : Result} : s0.Onward kq kw (State.formResult s r) := by
  unfold State.formResult
  try dsimp only
  repeat' first | with_reducible assumption | intro _ | with_reducible apply State.formed_onward | with_reducible apply onward_ite | fail_if_no_progress with_reducible refine onward_mk ?_ rfl rfl rfl rfl rfl rfl rfl rfl rfl rfl rfl rfl rfl rfl | split | dsimp only

theorem State.formResults_onward (h : s0.Onward kq kw s) : s0.Onward kq kw (State.formResults s) := by
  unfold State.formResults
  try dsimp only
  repeat' first | with_reducible assumption | intro _ | with_reducible apply State.formResult_onward | with_reducible apply onward_ite | with_reducible apply onward_foldl | split | dsimp only

theorem State.noteBad_onward (h : s0.Onward kq kw s) {e : Env} {type reason : Nat} : s0.Onward kq kw (State.noteBad s e type reason) := by
  unfold State.noteBad
  try dsimp only
  repeat' first | with_reducible assumption | (show kq → _ ∉ settings; first | exact False.elim | (with_reducible assumption) | exact fun _ => by decide | exact fun _ => mapReg_not_setting _ | exact fun _ => (by unfold gcBusy; split <;> decide) | exact fun _ => not_setting (lo := 272) (by decide) (by omega) | exact fun _ => not_setting (lo := 88) (by decide) (by omega) | exact fun _ => not_setting (lo := 64) (by decide) (by omega) | exact fun _ => not_setting (lo := 96) (by decide) (by omega) | exact fun _ => (by rw [rowOf_id]; first | assumption | exact not_setting (lo := 64) (by decide) (by omega) | exact not_setting (lo := 272) (by decide) (by omega)) | exact fun _ => not_setting (lo := 32) (by decide) (by omega)) | with_reducible apply State.bump_onward | with_reducible apply State.setFld_onward | with_reducible apply State.raiseOnce_onward | with_reducible apply onward_ite | split | dsimp only

theorem State.answer_onward (h : s0.Onward kq kw s) {e : Env} {type status reason : Nat} {body : List Byte} : s0.Onward kq kw (State.answer s e type status reason body) := by
  unfold State.answer
  try dsimp only
  repeat' first | with_reducible assumption | with_reducible apply State.noteBad_onward | with_reducible apply State.sendMsg_onward | with_reducible apply State.untrack_onward | with_reducible apply onward_ite | fail_if_no_progress with_reducible refine onward_mk ?_ rfl rfl rfl rfl rfl rfl rfl rfl rfl rfl rfl rfl rfl rfl | split | dsimp only

theorem State.takeReady_onward (h : s0.Onward kq kw s) {e : Env} : s0.Onward kq kw (State.takeReady s e) := by
  unfold State.takeReady
  try dsimp only
  repeat' first | with_reducible assumption | intro _ | with_reducible apply onward_ite | fail_if_no_progress with_reducible refine onward_mk ?_ rfl rfl rfl rfl rfl rfl rfl rfl rfl rfl rfl rfl rfl rfl | split | dsimp only

theorem State.track_onward (h : s0.Onward kq kw s) {e : Env} {type : Nat} {slot : Option Nat} : s0.Onward kq kw (State.track s e type slot) := by
  unfold State.track
  try dsimp only
  repeat' first | with_reducible assumption | with_reducible apply onward_ite | fail_if_no_progress with_reducible refine onward_mk ?_ rfl rfl rfl rfl rfl rfl rfl rfl rfl rfl rfl rfl rfl rfl | split | dsimp only

theorem State.cbwWrite_onward (h : s0.Onward kq kw s) {die granule : Nat} : s0.Onward kq kw (State.cbwWrite s die granule) := by
  unfold State.cbwWrite
  try dsimp only
  repeat' first | with_reducible assumption | (show kq → _ ∉ settings; first | exact False.elim | (with_reducible assumption) | exact fun _ => by decide | exact fun _ => mapReg_not_setting _ | exact fun _ => (by unfold gcBusy; split <;> decide) | exact fun _ => not_setting (lo := 272) (by decide) (by omega) | exact fun _ => not_setting (lo := 88) (by decide) (by omega) | exact fun _ => not_setting (lo := 64) (by decide) (by omega) | exact fun _ => not_setting (lo := 96) (by decide) (by omega) | exact fun _ => (by rw [rowOf_id]; first | assumption | exact not_setting (lo := 64) (by decide) (by omega) | exact not_setting (lo := 272) (by decide) (by omega)) | exact fun _ => not_setting (lo := 32) (by decide) (by omega)) | intro _ | with_reducible apply State.bump_onward | with_reducible apply State.setFld_onward | with_reducible apply onward_ite | fail_if_no_progress with_reducible refine onward_mk ?_ rfl rfl rfl rfl rfl rfl rfl rfl rfl rfl rfl rfl rfl rfl | split | dsimp only

theorem State.cbwSlot_onward (h : s0.Onward kq kw s) {before : State} {slot : Nat} : s0.Onward kq kw (State.cbwSlot before s slot) := by
  unfold State.cbwSlot
  dsimp only
  repeat' first | assumption | with_reducible apply State.cbwWrite_onward | with_reducible apply onward_ite | split

theorem State.messageBody_onward (h : s0.Onward kq False s) {e : Env} {type : Nat} {slot : Option Nat} {body : List Byte} {f : State → State} (hf : ∀ (s : State), s0.Onward kq False s → s0.Onward kq False (f s)) : s0.Onward kq False (State.messageBody s e type slot body f) := by
  unfold State.messageBody
  try dsimp only
  repeat' first | with_reducible assumption | (show kq → _ ∉ settings; first | exact False.elim | (with_reducible assumption) | exact fun _ => by decide | exact fun _ => mapReg_not_setting _ | exact fun _ => (by unfold gcBusy; split <;> decide) | exact fun _ => not_setting (lo := 272) (by decide) (by omega) | exact fun _ => not_setting (lo := 88) (by decide) (by omega) | exact fun _ => not_setting (lo := 64) (by decide) (by omega) | exact fun _ => not_setting (lo := 96) (by decide) (by omega) | exact fun _ => (by rw [rowOf_id]; first | assumption | exact not_setting (lo := 64) (by decide) (by omega) | exact not_setting (lo := 272) (by decide) (by omega)) | exact fun _ => not_setting (lo := 32) (by decide) (by omega)) | with_reducible apply State.tick_onward | with_reducible apply State.takeReady_onward | with_reducible apply State.answer_onward | with_reducible apply State.bump_onward | with_reducible apply State.track_onward | with_reducible apply State.setSess_onward | with_reducible apply State.cbwSlot_onward | with_reducible apply hf | with_reducible apply onward_ite | fail_if_no_progress with_reducible refine onward_mkw ?_ rfl rfl rfl rfl rfl rfl rfl rfl | split | dsimp only

theorem State.noteObject_onward (h : s0.Onward kq kw s) {e : Env} {o : IngestObj} : s0.Onward kq kw (State.noteObject s e o) := by
  unfold State.noteObject
  try dsimp only
  repeat' first | with_reducible assumption | with_reducible apply State.addRec_onward | with_reducible apply onward_ite | split | dsimp only

theorem State.unnumber_onward (h : s0.Onward kq False s) {n : Nat} : s0.Onward kq False (State.unnumber s n) := by
  unfold State.unnumber
  try dsimp only
  repeat' first | with_reducible assumption | intro _ | with_reducible apply onward_ite | fail_if_no_progress with_reducible refine onward_mkw ?_ rfl rfl rfl rfl rfl rfl rfl rfl | split | dsimp only

theorem State.afterMessage_onward (h : s0.Onward kq False s) {e : Env} {c : Instr} : s0.Onward kq False (State.afterMessage s e c) := by
  unfold State.afterMessage
  try dsimp only
  repeat' first | with_reducible assumption | with_reducible apply State.addRec_onward | with_reducible apply State.unnumber_onward | with_reducible apply State.formed_onward | with_reducible apply onward_ite | fail_if_no_progress with_reducible refine onward_mkw ?_ rfl rfl rfl rfl rfl rfl rfl rfl | split | dsimp only

theorem State.message_onward (h : s0.Onward kq False s) {e : Env} {c : Instr} {type : Nat} {slot : Option Nat} {body : List Byte} {f : State → State} (hf : ∀ (s : State), s0.Onward kq False s → s0.Onward kq False (f s)) : s0.Onward kq False (State.message s e c type slot body f) := by
  unfold State.message
  try dsimp only
  repeat' first | with_reducible assumption | with_reducible apply State.formResults_onward | with_reducible apply State.messageBody_onward | with_reducible apply State.afterMessage_onward | with_reducible apply hf | with_reducible apply onward_ite | fail_if_no_progress with_reducible refine onward_mkw ?_ rfl rfl rfl rfl rfl rfl rfl rfl | split | dsimp only

end Sys2Proof.Machine
end

