-- ==== Sys2Proof/Laws/OnwardFlags.lean ====
section
/-! SUPPORT. What the functions of Machine/Flags.lean keep: each answers a state its argument may go on to. -/

namespace Sys2Proof.Machine

set_option linter.unusedTactic false
set_option linter.unreachableTactic false

variable {kq kw : Prop} {s0 s : State}

theorem State.countOutcome_onward (h : s0.Onward kq kw s) {die status : Nat} : s0.Onward kq kw (State.countOutcome s die status) := by
  unfold State.countOutcome
  try dsimp only
  repeat' first | with_reducible assumption | (show kq → _ ∉ settings; first | exact False.elim | (with_reducible assumption) | exact fun _ => by decide | exact fun _ => mapReg_not_setting _ | exact fun _ => (by unfold gcBusy; split <;> decide) | exact fun _ => not_setting (lo := 272) (by decide) (by omega) | exact fun _ => not_setting (lo := 88) (by decide) (by omega) | exact fun _ => not_setting (lo := 64) (by decide) (by omega) | exact fun _ => not_setting (lo := 96) (by decide) (by omega) | exact fun _ => (by rw [rowOf_id]; first | assumption | exact not_setting (lo := 64) (by decide) (by omega) | exact not_setting (lo := 272) (by decide) (by omega)) | exact fun _ => not_setting (lo := 32) (by decide) (by omega)) | with_reducible apply State.bump_onward | with_reducible apply onward_ite | split | dsimp only

theorem State.dataCheck_onward (h : s0.Onward kq kw s) {die addr : Nat} : s0.Onward kq kw (State.dataCheck s die addr) := by
  unfold State.dataCheck
  try dsimp only
  repeat' first | with_reducible assumption | with_reducible apply State.raise_onward | with_reducible apply onward_ite | split | dsimp only

theorem State.logErr_onward (h : s0.Onward kq False s) {die kind cluster channel : Nat} {test patrol : Bool} {stripe sector addr : Nat} : s0.Onward kq False (State.logErr s die kind cluster channel test patrol stripe sector addr) := by
  unfold State.logErr
  try dsimp only
  repeat' first | with_reducible assumption | (show kq → _ ∉ settings; first | exact False.elim | (with_reducible assumption) | exact fun _ => by decide | exact fun _ => mapReg_not_setting _ | exact fun _ => (by unfold gcBusy; split <;> decide) | exact fun _ => not_setting (lo := 272) (by decide) (by omega) | exact fun _ => not_setting (lo := 88) (by decide) (by omega) | exact fun _ => not_setting (lo := 64) (by decide) (by omega) | exact fun _ => not_setting (lo := 96) (by decide) (by omega) | exact fun _ => (by rw [rowOf_id]; first | assumption | exact not_setting (lo := 64) (by decide) (by omega) | exact not_setting (lo := 272) (by decide) (by omega)) | exact fun _ => not_setting (lo := 32) (by decide) (by omega)) | with_reducible apply State.setFld_onward | with_reducible apply onward_ite | fail_if_no_progress with_reducible refine onward_mkw ?_ rfl rfl rfl rfl rfl rfl rfl rfl | split | dsimp only

theorem State.setFlag_onward (h : s0.Onward kq kw s) {die sel : Nat} {f : Field} {v : Bool} (hr : kq → f.reg ∉ settings) : s0.Onward kq kw (State.setFlag s die sel f v) := by
  unfold State.setFlag
  try dsimp only
  repeat' first | with_reducible assumption | (show kq → _ ∉ settings; first | exact False.elim | (with_reducible assumption) | exact fun _ => by decide | exact fun _ => mapReg_not_setting _ | exact fun _ => (by unfold gcBusy; split <;> decide) | exact fun _ => not_setting (lo := 272) (by decide) (by omega) | exact fun _ => not_setting (lo := 88) (by decide) (by omega) | exact fun _ => not_setting (lo := 64) (by decide) (by omega) | exact fun _ => not_setting (lo := 96) (by decide) (by omega) | exact fun _ => (by rw [rowOf_id]; first | assumption | exact not_setting (lo := 64) (by decide) (by omega) | exact not_setting (lo := 272) (by decide) (by omega)) | exact fun _ => not_setting (lo := 32) (by decide) (by omega)) | with_reducible apply State.setFld_onward | with_reducible apply onward_ite | split | dsimp only

theorem State.memUe_onward (h : s0.Onward kq False s) {die : Nat} {p : Place} {test patrol : Bool} : s0.Onward kq False (State.memUe s die p test patrol) := by
  unfold State.memUe
  try dsimp only
  repeat' first | with_reducible assumption | (show kq → _ ∉ settings; first | exact False.elim | (with_reducible assumption) | exact fun _ => by decide | exact fun _ => mapReg_not_setting _ | exact fun _ => (by unfold gcBusy; split <;> decide) | exact fun _ => not_setting (lo := 272) (by decide) (by omega) | exact fun _ => not_setting (lo := 88) (by decide) (by omega) | exact fun _ => not_setting (lo := 64) (by decide) (by omega) | exact fun _ => not_setting (lo := 96) (by decide) (by omega) | exact fun _ => (by rw [rowOf_id]; first | assumption | exact not_setting (lo := 64) (by decide) (by omega) | exact not_setting (lo := 272) (by decide) (by omega)) | exact fun _ => not_setting (lo := 32) (by decide) (by omega)) | with_reducible apply State.bump_onward | with_reducible apply State.logErr_onward | with_reducible apply State.nextFree_onward | with_reducible apply onward_ite | split | dsimp only

theorem State.t1Fail_onward (h : s0.Onward kq False s) {die off : Nat} : s0.Onward kq False (State.t1Fail s die off) := by
  unfold State.t1Fail
  try dsimp only
  repeat' first | with_reducible assumption | with_reducible apply State.memUe_onward | with_reducible apply State.dataCheck_onward | with_reducible apply onward_ite | split | dsimp only

end Sys2Proof.Machine
end

