-- ==== Sys2Proof/Laws/OnwardStore.lean ====
section
/-! SUPPORT. What the functions of Machine/Store.lean keep: each answers a state its argument may go on to. -/

namespace Sys2Proof.Machine

set_option linter.unusedTactic false
set_option linter.unreachableTactic false

variable {kq kw : Prop} {s0 s : State}

theorem State.quotaTest_onward (h : s0.Onward kq False s) {die ctx tier : Nat} : s0.Onward kq False (State.quotaTest s die ctx tier) := by
  unfold State.quotaTest
  try dsimp only
  repeat' first | with_reducible assumption | (show kq → _ ∉ settings; first | exact False.elim | (with_reducible assumption) | exact fun _ => by decide | exact fun _ => mapReg_not_setting _ | exact fun _ => (by unfold gcBusy; split <;> decide) | exact fun _ => not_setting (lo := 272) (by decide) (by omega) | exact fun _ => not_setting (lo := 88) (by decide) (by omega) | exact fun _ => not_setting (lo := 64) (by decide) (by omega) | exact fun _ => not_setting (lo := 96) (by decide) (by omega) | exact fun _ => (by rw [rowOf_id]; first | assumption | exact not_setting (lo := 64) (by decide) (by omega) | exact not_setting (lo := 272) (by decide) (by omega)) | exact fun _ => not_setting (lo := 32) (by decide) (by omega)) | with_reducible apply State.setFld_onward | with_reducible apply State.raise_onward | with_reducible apply onward_ite | fail_if_no_progress with_reducible refine onward_mkw ?_ rfl rfl rfl rfl rfl rfl rfl rfl | split | dsimp only

theorem State.setUse_onward (h : s0.Onward kq False s) {die ctx tier g : Nat} : s0.Onward kq False (State.setUse s die ctx tier g) := by
  unfold State.setUse
  try dsimp only
  repeat' first | with_reducible assumption | (show kq → _ ∉ settings; first | exact False.elim | (with_reducible assumption) | exact fun _ => by decide | exact fun _ => mapReg_not_setting _ | exact fun _ => (by unfold gcBusy; split <;> decide) | exact fun _ => not_setting (lo := 272) (by decide) (by omega) | exact fun _ => not_setting (lo := 88) (by decide) (by omega) | exact fun _ => not_setting (lo := 64) (by decide) (by omega) | exact fun _ => not_setting (lo := 96) (by decide) (by omega) | exact fun _ => (by rw [rowOf_id]; first | assumption | exact not_setting (lo := 64) (by decide) (by omega) | exact not_setting (lo := 272) (by decide) (by omega)) | exact fun _ => not_setting (lo := 32) (by decide) (by omega)) | with_reducible apply State.setReg_onward | with_reducible apply State.quotaTest_onward | with_reducible apply onward_ite | split | dsimp only

theorem State.setPoolFree_onward (h : s0.Onward kq kw s) {die tier g : Nat} : s0.Onward kq kw (State.setPoolFree s die tier g) := by
  unfold State.setPoolFree
  try dsimp only
  repeat' first | with_reducible assumption | (show kq → _ ∉ settings; first | exact False.elim | (with_reducible assumption) | exact fun _ => by decide | exact fun _ => mapReg_not_setting _ | exact fun _ => (by unfold gcBusy; split <;> decide) | exact fun _ => not_setting (lo := 272) (by decide) (by omega) | exact fun _ => not_setting (lo := 88) (by decide) (by omega) | exact fun _ => not_setting (lo := 64) (by decide) (by omega) | exact fun _ => not_setting (lo := 96) (by decide) (by omega) | exact fun _ => (by rw [rowOf_id]; first | assumption | exact not_setting (lo := 64) (by decide) (by omega) | exact not_setting (lo := 272) (by decide) (by omega)) | exact fun _ => not_setting (lo := 32) (by decide) (by omega)) | with_reducible apply State.setReg_onward | with_reducible apply onward_ite | split | dsimp only

theorem State.evictTest_onward (h : s0.Onward kq False s) {die tier : Nat} : s0.Onward kq False (State.evictTest s die tier) := by
  unfold State.evictTest
  try dsimp only
  repeat' first | with_reducible assumption | with_reducible apply onward_ite | fail_if_no_progress with_reducible refine onward_mkw ?_ rfl rfl rfl rfl rfl rfl rfl rfl | split | dsimp only

theorem State.alloc_onward (h : s0.Onward kq False s) {die tier ctx g : Nat} : s0.Onward kq False (State.alloc s die tier ctx g) := by
  unfold State.alloc
  try dsimp only
  repeat' first | with_reducible assumption | with_reducible apply State.setUse_onward | with_reducible apply State.setPoolFree_onward | with_reducible apply State.evictTest_onward | with_reducible apply onward_ite | split | dsimp only

theorem State.dealloc_onward (h : s0.Onward kq False s) {die tier ctx g : Nat} : s0.Onward kq False (State.dealloc s die tier ctx g) := by
  unfold State.dealloc
  try dsimp only
  repeat' first | with_reducible assumption | with_reducible apply State.setUse_onward | with_reducible apply State.setPoolFree_onward | with_reducible apply State.evictTest_onward | with_reducible apply onward_ite | split | dsimp only

theorem State.putLeaf_onward (h : s0.Onward kq False s) {k : PageKey} {l : Leaf} : s0.Onward kq False (State.putLeaf s k l) := by
  unfold State.putLeaf
  try dsimp only
  repeat' first | with_reducible assumption | with_reducible apply onward_ite | fail_if_no_progress with_reducible refine onward_mkw ?_ rfl rfl rfl rfl rfl rfl rfl rfl | split | dsimp only

theorem State.dropLeaf_onward (h : s0.Onward kq False s) {k : PageKey} : s0.Onward kq False (State.dropLeaf s k) := by
  unfold State.dropLeaf
  try dsimp only
  repeat' first | with_reducible assumption | with_reducible apply onward_ite | fail_if_no_progress with_reducible refine onward_mkw ?_ rfl rfl rfl rfl rfl rfl rfl rfl | split | dsimp only

theorem State.putShared_onward (h : s0.Onward kq False s) {die id : Nat} {p : SharedPage} : s0.Onward kq False (State.putShared s die id p) := by
  unfold State.putShared
  try dsimp only
  repeat' first | with_reducible assumption | with_reducible apply onward_ite | fail_if_no_progress with_reducible refine onward_mkw ?_ rfl rfl rfl rfl rfl rfl rfl rfl | split | dsimp only

theorem State.shootdown_onward (h : s0.Onward kq False s) {die vun : Nat} : s0.Onward kq False (State.shootdown s die vun) := by
  unfold State.shootdown
  try dsimp only
  repeat' first | with_reducible assumption | (show kq → _ ∉ settings; first | exact False.elim | (with_reducible assumption) | exact fun _ => by decide | exact fun _ => mapReg_not_setting _ | exact fun _ => (by unfold gcBusy; split <;> decide) | exact fun _ => not_setting (lo := 272) (by decide) (by omega) | exact fun _ => not_setting (lo := 88) (by decide) (by omega) | exact fun _ => not_setting (lo := 64) (by decide) (by omega) | exact fun _ => not_setting (lo := 96) (by decide) (by omega) | exact fun _ => (by rw [rowOf_id]; first | assumption | exact not_setting (lo := 64) (by decide) (by omega) | exact not_setting (lo := 272) (by decide) (by omega)) | exact fun _ => not_setting (lo := 32) (by decide) (by omega)) | intro _ | with_reducible apply State.bump_onward | with_reducible apply onward_ite | fail_if_no_progress with_reducible refine onward_mkw ?_ rfl rfl rfl rfl rfl rfl rfl rfl | split | dsimp only

theorem State.addLeaf_onward (h : s0.Onward kq False s) {k : PageKey} {l : Leaf} : s0.Onward kq False (State.addLeaf s k l) := by
  unfold State.addLeaf
  try dsimp only
  repeat' first | with_reducible assumption | with_reducible apply State.putLeaf_onward | with_reducible apply State.alloc_onward | with_reducible apply onward_ite | split | dsimp only

theorem State.removeLeaf_onward (h : s0.Onward kq False s) {k : PageKey} : s0.Onward kq False (State.removeLeaf s k) := by
  unfold State.removeLeaf
  try dsimp only
  repeat' first | with_reducible assumption | with_reducible apply State.dropLeaf_onward | with_reducible apply State.dealloc_onward | with_reducible apply onward_ite | split | dsimp only

theorem State.unrefShared_onward (h : s0.Onward kq False s) {die id : Nat} : s0.Onward kq False (State.unrefShared s die id) := by
  unfold State.unrefShared
  try dsimp only
  repeat' first | with_reducible assumption | (show kq → _ ∉ settings; first | exact False.elim | (with_reducible assumption) | exact fun _ => by decide | exact fun _ => mapReg_not_setting _ | exact fun _ => (by unfold gcBusy; split <;> decide) | exact fun _ => not_setting (lo := 272) (by decide) (by omega) | exact fun _ => not_setting (lo := 88) (by decide) (by omega) | exact fun _ => not_setting (lo := 64) (by decide) (by omega) | exact fun _ => not_setting (lo := 96) (by decide) (by omega) | exact fun _ => (by rw [rowOf_id]; first | assumption | exact not_setting (lo := 64) (by decide) (by omega) | exact not_setting (lo := 272) (by decide) (by omega)) | exact fun _ => not_setting (lo := 32) (by decide) (by omega)) | with_reducible apply State.dealloc_onward | with_reducible apply State.lower_onward | with_reducible apply State.putShared_onward | with_reducible apply onward_ite | fail_if_no_progress with_reducible refine onward_mkw ?_ rfl rfl rfl rfl rfl rfl rfl rfl | split | dsimp only

theorem State.releasePage_onward (h : s0.Onward kq False s) {k : PageKey} : s0.Onward kq False (State.releasePage s k) := by
  unfold State.releasePage
  try dsimp only
  repeat' first | with_reducible assumption | with_reducible apply State.removeLeaf_onward | with_reducible apply State.shootdown_onward | with_reducible apply State.unrefShared_onward | with_reducible apply State.dealloc_onward | with_reducible apply onward_ite | fail_if_no_progress with_reducible refine onward_mkw ?_ rfl rfl rfl rfl rfl rfl rfl rfl | split | dsimp only

theorem State.touch_onward (h : s0.Onward kq False s) {k : PageKey} : s0.Onward kq False (State.touch s k) := by
  unfold State.touch
  try dsimp only
  repeat' first | with_reducible assumption | with_reducible apply State.putLeaf_onward | with_reducible apply State.putShared_onward | with_reducible apply onward_ite | fail_if_no_progress with_reducible refine onward_mkw ?_ rfl rfl rfl rfl rfl rfl rfl rfl | split | dsimp only

theorem State.putStaging_onward (h : s0.Onward kq False s) {slot : Nat} {g : Staging} : s0.Onward kq False (State.putStaging s slot g) := by
  unfold State.putStaging
  try dsimp only
  repeat' first | with_reducible assumption | with_reducible apply onward_ite | fail_if_no_progress with_reducible refine onward_mkw ?_ rfl rfl rfl rfl rfl rfl rfl rfl | split | dsimp only

theorem State.putArea_onward (h : s0.Onward kq False s) {slot : Nat} {a : FinArea} : s0.Onward kq False (State.putArea s slot a) := by
  unfold State.putArea
  try dsimp only
  repeat' first | with_reducible assumption | with_reducible apply onward_ite | fail_if_no_progress with_reducible refine onward_mkw ?_ rfl rfl rfl rfl rfl rfl rfl rfl | split | dsimp only

theorem State.dormantTest_onward (h : s0.Onward kq False s) {slot : Nat} : s0.Onward kq False (State.dormantTest s slot) := by
  unfold State.dormantTest
  try dsimp only
  repeat' first | with_reducible assumption | with_reducible apply State.setSess_onward | with_reducible apply State.raise_onward | with_reducible apply onward_ite | fail_if_no_progress with_reducible refine onward_mkw ?_ rfl rfl rfl rfl rfl rfl rfl rfl | split | dsimp only

theorem State.queueScrub_onward (h : s0.Onward kq kw s) {die cluster : Nat} {teardown : Bool} {ctx slot : Nat} {ranges : List Range} : s0.Onward kq kw (State.queueScrub s die cluster teardown ctx slot ranges) := by
  unfold State.queueScrub
  try dsimp only
  repeat' first | with_reducible assumption | with_reducible apply onward_ite | fail_if_no_progress with_reducible refine onward_mk ?_ rfl rfl rfl rfl rfl rfl rfl rfl rfl rfl rfl rfl rfl rfl | split | dsimp only

end Sys2Proof.Machine
end

