-- ==== Sys2Proof/Laws/OnwardOperands.lean ====
section
/-! SUPPORT. What the functions of Machine/Operands.lean keep: each answers a state its argument may go on to. -/

namespace Sys2Proof.Machine

set_option linter.unusedTactic false
set_option linter.unreachableTactic false

variable {kq kw : Prop} {s0 s : State}

theorem State.noteMismatch_onward (h : s0.Onward kq kw s) {e : Env} {ctx status : Nat} : s0.Onward kq kw (State.noteMismatch s e ctx status) := by
  unfold State.noteMismatch
  try dsimp only
  repeat' first | with_reducible assumption | (show kq → _ ∉ settings; first | exact False.elim | (with_reducible assumption) | exact fun _ => by decide | exact fun _ => mapReg_not_setting _ | exact fun _ => (by unfold gcBusy; split <;> decide) | exact fun _ => not_setting (lo := 272) (by decide) (by omega) | exact fun _ => not_setting (lo := 88) (by decide) (by omega) | exact fun _ => not_setting (lo := 64) (by decide) (by omega) | exact fun _ => not_setting (lo := 96) (by decide) (by omega) | exact fun _ => (by rw [rowOf_id]; first | assumption | exact not_setting (lo := 64) (by decide) (by omega) | exact not_setting (lo := 272) (by decide) (by omega)) | exact fun _ => not_setting (lo := 32) (by decide) (by omega)) | with_reducible apply State.bump_onward | with_reducible apply onward_ite | split | dsimp only

theorem State.noteRefuse_onward (h : s0.Onward kq False s) {e : Env} {slot : Nat} {x : Refuse} : s0.Onward kq False (State.noteRefuse s e slot x) := by
  unfold State.noteRefuse
  try dsimp only
  repeat' first | with_reducible assumption | with_reducible apply State.countOutcome_onward | with_reducible apply State.noteMismatch_onward | with_reducible apply State.t1Fail_onward | with_reducible apply onward_ite | split | dsimp only

theorem State.sesRefuse_onward (h : s0.Onward kq False s) {e : Env} {type h : Nat} {x : Refuse} : s0.Onward kq False (State.sesRefuse s e type h x) := by
  unfold State.sesRefuse
  try dsimp only
  repeat' first | with_reducible assumption | with_reducible apply State.noteRefuse_onward | with_reducible apply State.answer_onward | with_reducible apply onward_ite | split | dsimp only

end Sys2Proof.Machine
end

