-- ==== Sys2Proof/Laws/OnwardTiles.lean ====
section
/-! SUPPORT. What the functions of Machine/Tiles.lean keep: each answers a state its argument may go on to. -/

namespace Sys2Proof.Machine

set_option linter.unusedTactic false
set_option linter.unreachableTactic false

variable {kq kw : Prop} {s0 s : State}

theorem State.tileCheck_onward (h : s0.Onward kq kw s) {die addr : Nat} : s0.Onward kq kw (State.tileCheck s die addr) := by
  unfold State.tileCheck
  try dsimp only
  repeat' first | with_reducible assumption | (show kq → _ ∉ settings; first | exact False.elim | (with_reducible assumption) | exact fun _ => by decide | exact fun _ => mapReg_not_setting _ | exact fun _ => (by unfold gcBusy; split <;> decide) | exact fun _ => not_setting (lo := 272) (by decide) (by omega) | exact fun _ => not_setting (lo := 88) (by decide) (by omega) | exact fun _ => not_setting (lo := 64) (by decide) (by omega) | exact fun _ => not_setting (lo := 96) (by decide) (by omega) | exact fun _ => (by rw [rowOf_id]; first | assumption | exact not_setting (lo := 64) (by decide) (by omega) | exact not_setting (lo := 272) (by decide) (by omega)) | exact fun _ => not_setting (lo := 32) (by decide) (by omega)) | with_reducible apply State.setReg_onward | with_reducible apply State.bump_onward | with_reducible apply State.raise_onward | with_reducible apply onward_ite | split | dsimp only

theorem State.notePacked_onward (h : s0.Onward kq kw s) {die ctx : Nat} {tiles : List Tile} : s0.Onward kq kw (State.notePacked s die ctx tiles) := by
  unfold State.notePacked
  try dsimp only
  repeat' first | with_reducible assumption | (show kq → _ ∉ settings; first | exact False.elim | (with_reducible assumption) | exact fun _ => by decide | exact fun _ => mapReg_not_setting _ | exact fun _ => (by unfold gcBusy; split <;> decide) | exact fun _ => not_setting (lo := 272) (by decide) (by omega) | exact fun _ => not_setting (lo := 88) (by decide) (by omega) | exact fun _ => not_setting (lo := 64) (by decide) (by omega) | exact fun _ => not_setting (lo := 96) (by decide) (by omega) | exact fun _ => (by rw [rowOf_id]; first | assumption | exact not_setting (lo := 64) (by decide) (by omega) | exact not_setting (lo := 272) (by decide) (by omega)) | exact fun _ => not_setting (lo := 32) (by decide) (by omega)) | intro _ | with_reducible apply State.bumpBy_onward | with_reducible apply State.raiseOnce_onward | with_reducible apply onward_ite | with_reducible apply onward_foldl | split | dsimp only

end Sys2Proof.Machine
end

