-- ==== Sys2Proof/Laws/OnwardResults.lean ====
section
/-! SUPPORT. What the functions of Machine/Results.lean keep: each answers a state its argument may go on to. -/

namespace Sys2Proof.Machine

set_option linter.unusedTactic false
set_option linter.unreachableTactic false

variable {kq kw : Prop} {s0 s : State}

theorem State.mapResult_onward (h : s0.Onward kq kw s) {slot : Nat} {key : ResKey} {f : Result → Result} : s0.Onward kq kw (State.mapResult s slot key f) := by
  unfold State.mapResult
  try dsimp only
  repeat' first | with_reducible assumption | intro _ | with_reducible apply onward_ite | fail_if_no_progress with_reducible refine onward_mk ?_ rfl rfl rfl rfl rfl rfl rfl rfl rfl rfl rfl rfl rfl rfl | split | dsimp only

theorem State.sendWrite_onward (h : s0.Onward kq kw s) {d : Dest} {q : Qp} {result : Nat × ResKey} {seq : Nat} {piece : Bool × Nat × List Byte} : s0.Onward kq kw (State.sendWrite s d q result seq piece) := by
  unfold State.sendWrite
  try dsimp only
  repeat' first | with_reducible assumption | intro _ | with_reducible apply State.send_onward | with_reducible apply onward_ite | fail_if_no_progress with_reducible refine onward_mk ?_ rfl rfl rfl rfl rfl rfl rfl rfl rfl rfl rfl rfl rfl rfl | split | dsimp only

theorem State.sendObject_onward (h : s0.Onward kq kw s) {d : Dest} {r : Result} {q : Qp} : s0.Onward kq kw (State.sendObject s d r q) := by
  unfold State.sendObject
  try dsimp only
  repeat' first | with_reducible assumption | intro _ | with_reducible apply State.sendWrite_onward | with_reducible apply onward_ite | with_reducible apply onward_getD | with_reducible apply onward_foldl | fail_if_no_progress with_reducible refine onward_mk ?_ rfl rfl rfl rfl rfl rfl rfl rfl rfl rfl rfl rfl rfl rfl | split | dsimp only

theorem State.joinQueue_onward (h : s0.Onward kq kw s) {slot : Nat} {key : ResKey} : s0.Onward kq kw (State.joinQueue s slot key) := by
  unfold State.joinQueue
  try dsimp only
  repeat' first | with_reducible assumption | intro _ | with_reducible apply State.noteReturn_onward | with_reducible apply State.mapResult_onward | with_reducible apply State.sendObject_onward | with_reducible apply State.sendMsg_onward | with_reducible apply onward_ite | fail_if_no_progress with_reducible refine onward_mk ?_ rfl rfl rfl rfl rfl rfl rfl rfl rfl rfl rfl rfl rfl rfl | split | dsimp only

theorem State.unqueue_onward (h : s0.Onward kq kw s) {slot : Nat} {key : ResKey} : s0.Onward kq kw (State.unqueue s slot key) := by
  unfold State.unqueue
  try dsimp only
  repeat' first | with_reducible assumption | intro _ | with_reducible apply State.resetClass_onward | with_reducible apply State.settle_onward | with_reducible apply State.setPort_onward | with_reducible apply onward_ite | with_reducible apply onward_foldl | fail_if_no_progress with_reducible refine onward_mk ?_ rfl rfl rfl rfl rfl rfl rfl rfl rfl rfl rfl rfl rfl rfl | split | dsimp only

theorem State.dropResult_onward (h : s0.Onward kq kw s) {slot : Nat} {key : ResKey} : s0.Onward kq kw (State.dropResult s slot key) := by
  unfold State.dropResult
  try dsimp only
  repeat' first | with_reducible assumption | (show kq → _ ∉ settings; first | exact False.elim | (with_reducible assumption) | exact fun _ => by decide | exact fun _ => mapReg_not_setting _ | exact fun _ => (by unfold gcBusy; split <;> decide) | exact fun _ => not_setting (lo := 272) (by decide) (by omega) | exact fun _ => not_setting (lo := 88) (by decide) (by omega) | exact fun _ => not_setting (lo := 64) (by decide) (by omega) | exact fun _ => not_setting (lo := 96) (by decide) (by omega) | exact fun _ => (by rw [rowOf_id]; first | assumption | exact not_setting (lo := 64) (by decide) (by omega) | exact not_setting (lo := 272) (by decide) (by omega)) | exact fun _ => not_setting (lo := 32) (by decide) (by omega)) | intro _ | with_reducible apply State.formResult_onward | with_reducible apply State.unqueue_onward | with_reducible apply State.untrack_onward | with_reducible apply State.lower_onward | with_reducible apply onward_ite | fail_if_no_progress with_reducible refine onward_mk ?_ rfl rfl rfl rfl rfl rfl rfl rfl rfl rfl rfl rfl rfl rfl | split | dsimp only

theorem State.dropResults_onward (h : s0.Onward kq kw s) {slot : Nat} {p : Result → Bool} : s0.Onward kq kw (State.dropResults s slot p) := by
  unfold State.dropResults
  try dsimp only
  repeat' first | with_reducible assumption | intro _ | with_reducible apply State.dropResult_onward | with_reducible apply onward_ite | with_reducible apply onward_foldl | split | dsimp only

theorem State.markLate_onward (h : s0.Onward kq False s) {slot : Nat} {key : ResKey} : s0.Onward kq False (State.markLate s slot key) := by
  unfold State.markLate
  try dsimp only
  repeat' first | with_reducible assumption | (show kq → _ ∉ settings; first | exact False.elim | (with_reducible assumption) | exact fun _ => by decide | exact fun _ => mapReg_not_setting _ | exact fun _ => (by unfold gcBusy; split <;> decide) | exact fun _ => not_setting (lo := 272) (by decide) (by omega) | exact fun _ => not_setting (lo := 88) (by decide) (by omega) | exact fun _ => not_setting (lo := 64) (by decide) (by omega) | exact fun _ => not_setting (lo := 96) (by decide) (by omega) | exact fun _ => (by rw [rowOf_id]; first | assumption | exact not_setting (lo := 64) (by decide) (by omega) | exact not_setting (lo := 272) (by decide) (by omega)) | exact fun _ => not_setting (lo := 32) (by decide) (by omega)) | intro _ | with_reducible apply State.mapResult_onward | with_reducible apply State.bump_onward | with_reducible apply State.setReg_onward | with_reducible apply State.raise_onward | with_reducible apply onward_ite | fail_if_no_progress with_reducible refine onward_mkw ?_ rfl rfl rfl rfl rfl rfl rfl rfl | split | dsimp only

theorem State.deliver_onward (h : s0.Onward kq False s) {slot : Nat} {key : ResKey} : s0.Onward kq False (State.deliver s slot key) := by
  unfold State.deliver
  try dsimp only
  repeat' first | with_reducible assumption | with_reducible apply State.joinQueue_onward | with_reducible apply State.markLate_onward | with_reducible apply onward_ite | fail_if_no_progress with_reducible refine onward_mkw ?_ rfl rfl rfl rfl rfl rfl rfl rfl | split | dsimp only

theorem State.carry_onward (h : s0.Onward kq False s) {p step layer : Nat} : s0.Onward kq False (State.carry s p step layer) := by
  unfold State.carry
  try dsimp only
  repeat' first | with_reducible assumption | intro _ | with_reducible apply State.joinQueue_onward | with_reducible apply onward_ite | with_reducible apply onward_foldl | fail_if_no_progress with_reducible refine onward_mkw ?_ rfl rfl rfl rfl rfl rfl rfl rfl | split | dsimp only

theorem State.missClose_onward (h : s0.Onward kq False s) {p step layer : Nat} : s0.Onward kq False (State.missClose s p step layer) := by
  unfold State.missClose
  try dsimp only
  repeat' first | with_reducible assumption | intro _ | with_reducible apply State.unqueue_onward | with_reducible apply State.mapResult_onward | with_reducible apply State.markLate_onward | with_reducible apply onward_ite | with_reducible apply onward_foldl | fail_if_no_progress with_reducible refine onward_mkw ?_ rfl rfl rfl rfl rfl rfl rfl rfl | split | dsimp only

theorem State.countSplit_onward (h : s0.Onward kq kw s) {p : Nat} : s0.Onward kq kw (State.countSplit s p) := by
  unfold State.countSplit
  try dsimp only
  repeat' first | with_reducible assumption | (show kq → _ ∉ settings; first | exact False.elim | (with_reducible assumption) | exact fun _ => by decide | exact fun _ => mapReg_not_setting _ | exact fun _ => (by unfold gcBusy; split <;> decide) | exact fun _ => not_setting (lo := 272) (by decide) (by omega) | exact fun _ => not_setting (lo := 88) (by decide) (by omega) | exact fun _ => not_setting (lo := 64) (by decide) (by omega) | exact fun _ => not_setting (lo := 96) (by decide) (by omega) | exact fun _ => (by rw [rowOf_id]; first | assumption | exact not_setting (lo := 64) (by decide) (by omega) | exact not_setting (lo := 272) (by decide) (by omega)) | exact fun _ => not_setting (lo := 32) (by decide) (by omega)) | intro _ | with_reducible apply State.setPort_onward | with_reducible apply State.bumpBy_onward | with_reducible apply onward_ite | fail_if_no_progress with_reducible refine onward_mk ?_ rfl rfl rfl rfl rfl rfl rfl rfl rfl rfl rfl rfl rfl rfl | split | dsimp only

theorem State.lateSweep_onward (h : s0.Onward kq False s) : s0.Onward kq False (State.lateSweep s) := by
  unfold State.lateSweep
  try dsimp only
  repeat' first | with_reducible assumption | intro _ | with_reducible apply State.deliver_onward | with_reducible apply onward_ite | with_reducible apply onward_foldl | split | dsimp only

theorem State.withdrawAll_onward (h : s0.Onward kq kw s) : s0.Onward kq kw (State.withdrawAll s) := by
  unfold State.withdrawAll
  try dsimp only
  repeat' first | with_reducible assumption | (show kq → _ ∉ settings; first | exact False.elim | (with_reducible assumption) | exact fun _ => by decide | exact fun _ => mapReg_not_setting _ | exact fun _ => (by unfold gcBusy; split <;> decide) | exact fun _ => not_setting (lo := 272) (by decide) (by omega) | exact fun _ => not_setting (lo := 88) (by decide) (by omega) | exact fun _ => not_setting (lo := 64) (by decide) (by omega) | exact fun _ => not_setting (lo := 96) (by decide) (by omega) | exact fun _ => (by rw [rowOf_id]; first | assumption | exact not_setting (lo := 64) (by decide) (by omega) | exact not_setting (lo := 272) (by decide) (by omega)) | exact fun _ => not_setting (lo := 32) (by decide) (by omega)) | intro _ | with_reducible apply State.unqueue_onward | with_reducible apply State.mapResult_onward | with_reducible apply State.bumpBy_onward | with_reducible apply State.setPort_onward | with_reducible apply State.pick_onward | with_reducible apply onward_ite | with_reducible apply onward_foldl | fail_if_no_progress with_reducible refine onward_mk ?_ rfl rfl rfl rfl rfl rfl rfl rfl rfl rfl rfl rfl rfl rfl | split | dsimp only

theorem State.raiseMark_onward (h : s0.Onward kq False s) {slot : Nat} {k : ResKey} : s0.Onward kq False (State.raiseMark s slot k) := by
  unfold State.raiseMark
  try dsimp only
  repeat' first | with_reducible assumption | with_reducible apply State.putArea_onward | with_reducible apply onward_ite | fail_if_no_progress with_reducible refine onward_mkw ?_ rfl rfl rfl rfl rfl rfl rfl rfl | split | dsimp only

theorem State.endEpoch_onward (h : s0.Onward kq kw s) {slot : Nat} : s0.Onward kq kw (State.endEpoch s slot) := by
  unfold State.endEpoch
  try dsimp only
  repeat' first | with_reducible assumption | intro _ | with_reducible apply onward_ite | fail_if_no_progress with_reducible refine onward_mk ?_ rfl rfl rfl rfl rfl rfl rfl rfl rfl rfl rfl rfl rfl rfl | split | dsimp only

theorem State.autoRelease_onward (h : s0.Onward kq False s) {slot : Nat} {key : ResKey} : s0.Onward kq False (State.autoRelease s slot key) := by
  unfold State.autoRelease
  try dsimp only
  repeat' first | with_reducible assumption | with_reducible apply State.dropResult_onward | with_reducible apply State.raiseMark_onward | with_reducible apply onward_ite | split | dsimp only

theorem State.releaseDue_onward (h : s0.Onward kq False s) : s0.Onward kq False (State.releaseDue s) := by
  unfold State.releaseDue
  try dsimp only
  repeat' first | with_reducible assumption | intro _ | with_reducible apply State.autoRelease_onward | with_reducible apply State.dropResult_onward | with_reducible apply onward_ite | with_reducible apply onward_foldl | split | dsimp only

end Sys2Proof.Machine
end

