-- ==== Sys2Proof/Laws/OnwardFlash.lean ====
section
/-! SUPPORT. What the functions of Machine/Flash.lean keep: each answers a state its argument may go on to. -/

namespace Sys2Proof.Machine

set_option linter.unusedTactic false
set_option linter.unreachableTactic false

variable {kq kw : Prop} {s0 s : State}

theorem State.setSeg_onward (h : s0.Onward kq False s) {x : Seg} : s0.Onward kq False (State.setSeg s x) := by
  unfold State.setSeg
  try dsimp only
  repeat' first | with_reducible assumption | intro _ | with_reducible apply onward_ite | fail_if_no_progress with_reducible refine onward_mkw ?_ rfl rfl rfl rfl rfl rfl rfl rfl | split | dsimp only

theorem State.openSeg_onward (h : s0.Onward kq False s) {die group kind : Nat} : OptOnward1 kq False s0 (State.openSeg s die group kind) := by
  unfold State.openSeg
  try dsimp only
  repeat' first | with_reducible assumption | with_reducible exact onward_none1 | with_reducible apply onward_some1 | with_reducible apply State.setSeg_onward | with_reducible apply State.raiseOnce_onward | with_reducible apply onward_ite | with_reducible apply onward_getD | fail_if_no_progress with_reducible refine onward_mkw ?_ rfl rfl rfl rfl rfl rfl rfl rfl | split | dsimp only

theorem State.settleSeg_onward (h : s0.Onward kq False s) {x : Seg} : s0.Onward kq False (State.settleSeg s x) := by
  unfold State.settleSeg
  try dsimp only
  repeat' first | with_reducible assumption | with_reducible apply State.setSeg_onward | with_reducible apply onward_ite | fail_if_no_progress with_reducible refine onward_mkw ?_ rfl rfl rfl rfl rfl rfl rfl rfl | split | dsimp only

theorem State.bufferStripes_onward (h : s0.Onward kq False s) {x : Seg} {a b : Nat} : s0.Onward kq False (State.bufferStripes s x a b) := by
  unfold State.bufferStripes
  try dsimp only
  repeat' first | with_reducible assumption | intro _ | with_reducible apply onward_ite | with_reducible apply onward_getD | with_reducible apply onward_foldl | fail_if_no_progress with_reducible refine onward_mkw ?_ rfl rfl rfl rfl rfl rfl rfl rfl | split | dsimp only

theorem State.placeIn_onward (h : s0.Onward kq False s) {x : Seg} {align size : Nat} {o : Owner} : s0.Onward kq False (State.placeIn s x align size o).1 := by
  unfold State.placeIn
  try dsimp only
  repeat' first | with_reducible assumption | with_reducible apply State.setSeg_onward | with_reducible apply State.bufferStripes_onward | with_reducible apply onward_ite | fail_if_no_progress with_reducible refine onward_mkw ?_ rfl rfl rfl rfl rfl rfl rfl rfl | split | dsimp only

theorem State.place_onward (h : s0.Onward kq False s) {die group kind align size : Nat} {o : Owner} : OptOnward1 kq False s0 (State.place s die group kind align size o) := by
  unfold State.place
  try dsimp only
  repeat' first | with_reducible assumption | with_reducible exact onward_none1 | with_reducible apply onward_some1 | with_reducible apply State.placeIn_onward | with_reducible apply State.settleSeg_onward | with_reducible apply State.openSeg_onward | with_reducible apply onward_ite | fail_if_no_progress with_reducible refine onward_mkw ?_ rfl rfl rfl rfl rfl rfl rfl rfl | refine onward_of_pair (by assumption) ?_ | refine onward_of_some1 (by assumption) ?_ | split | dsimp only

theorem State.releaseT2_onward (h : s0.Onward kq False s) {die loc : Nat} : s0.Onward kq False (State.releaseT2 s die loc) := by
  unfold State.releaseT2
  try dsimp only
  repeat' first | with_reducible assumption | intro _ | with_reducible apply State.settleSeg_onward | with_reducible apply onward_ite | fail_if_no_progress with_reducible refine onward_mkw ?_ rfl rfl rfl rfl rfl rfl rfl rfl | split | dsimp only

end Sys2Proof.Machine
end

