-- ==== Sys2Proof/Laws/OnwardUnits.lean ====
section
/-! SUPPORT. What the functions of Machine/Units.lean keep: each answers a state its argument may go on to. -/

namespace Sys2Proof.Machine

set_option linter.unusedTactic false
set_option linter.unreachableTactic false

variable {kq kw : Prop} {s0 s : State}

theorem State.mapUnit_onward (h : s0.Onward kq kw s) {slot : Nat} {key : ResKey} {kvHead seg : Nat} {f : AttnUnit → AttnUnit} : s0.Onward kq kw (State.mapUnit s slot key kvHead seg f) := by
  unfold State.mapUnit
  try dsimp only
  repeat' first | with_reducible assumption | intro _ | with_reducible apply State.mapResult_onward | with_reducible apply onward_ite | fail_if_no_progress with_reducible refine onward_mk ?_ rfl rfl rfl rfl rfl rfl rfl rfl rfl rfl rfl rfl rfl rfl | split | dsimp only

theorem State.promoteFirst_onward (h : s0.Onward kq False s) {die : Nat} {u : UnitRef} : s0.Onward kq False (State.promoteFirst s die u) := by
  unfold State.promoteFirst
  try dsimp only
  repeat' first | with_reducible assumption | intro _ | with_reducible apply onward_ite | with_reducible apply onward_getD | fail_if_no_progress with_reducible refine onward_mkw ?_ rfl rfl rfl rfl rfl rfl rfl rfl | split | dsimp only

theorem State.waitPage_onward (h : s0.Onward kq False s) {r : Result} {u : AttnUnit} {page : Nat} : s0.Onward kq False (State.waitPage s r u page) := by
  unfold State.waitPage
  try dsimp only
  repeat' first | with_reducible assumption | (show kq → _ ∉ settings; first | exact False.elim | (with_reducible assumption) | exact fun _ => by decide | exact fun _ => mapReg_not_setting _ | exact fun _ => (by unfold gcBusy; split <;> decide) | exact fun _ => not_setting (lo := 272) (by decide) (by omega) | exact fun _ => not_setting (lo := 88) (by decide) (by omega) | exact fun _ => not_setting (lo := 64) (by decide) (by omega) | exact fun _ => not_setting (lo := 96) (by decide) (by omega) | exact fun _ => (by rw [rowOf_id]; first | assumption | exact not_setting (lo := 64) (by decide) (by omega) | exact not_setting (lo := 272) (by decide) (by omega)) | exact fun _ => not_setting (lo := 32) (by decide) (by omega)) | intro _ | with_reducible apply State.mapUnit_onward | with_reducible apply State.promoteFirst_onward | with_reducible apply State.bump_onward | with_reducible apply State.raiseOnce_onward | with_reducible apply onward_ite | with_reducible apply onward_getD | fail_if_no_progress with_reducible refine onward_mkw ?_ rfl rfl rfl rfl rfl rfl rfl rfl | split | dsimp only

theorem State.walkPage_onward (h : s0.Onward kq False s) {die vun : Nat} : s0.Onward kq False (State.walkPage s die vun) := by
  unfold State.walkPage
  try dsimp only
  repeat' first | with_reducible assumption | (show kq → _ ∉ settings; first | exact False.elim | (with_reducible assumption) | exact fun _ => by decide | exact fun _ => mapReg_not_setting _ | exact fun _ => (by unfold gcBusy; split <;> decide) | exact fun _ => not_setting (lo := 272) (by decide) (by omega) | exact fun _ => not_setting (lo := 88) (by decide) (by omega) | exact fun _ => not_setting (lo := 64) (by decide) (by omega) | exact fun _ => not_setting (lo := 96) (by decide) (by omega) | exact fun _ => (by rw [rowOf_id]; first | assumption | exact not_setting (lo := 64) (by decide) (by omega) | exact not_setting (lo := 272) (by decide) (by omega)) | exact fun _ => not_setting (lo := 32) (by decide) (by omega)) | with_reducible apply State.bump_onward | with_reducible apply onward_ite | fail_if_no_progress with_reducible refine onward_mkw ?_ rfl rfl rfl rfl rfl rfl rfl rfl | split | dsimp only

theorem State.startUnit_onward (h : s0.Onward kq kw s) {r : Result} {u : AttnUnit} {core : Nat} : s0.Onward kq kw (State.startUnit s r u core) := by
  unfold State.startUnit
  try dsimp only
  repeat' first | with_reducible assumption | intro _ | with_reducible apply State.mapUnit_onward | with_reducible apply onward_ite | fail_if_no_progress with_reducible refine onward_mk ?_ rfl rfl rfl rfl rfl rfl rfl rfl rfl rfl rfl rfl rfl rfl | split | dsimp only

theorem State.startGroup_onward (h : s0.Onward kq kw s) {g : Group} : s0.Onward kq kw (State.startGroup s g) := by
  unfold State.startGroup
  try dsimp only
  repeat' first | with_reducible assumption | (show kq → _ ∉ settings; first | exact False.elim | (with_reducible assumption) | exact fun _ => by decide | exact fun _ => mapReg_not_setting _ | exact fun _ => (by unfold gcBusy; split <;> decide) | exact fun _ => not_setting (lo := 272) (by decide) (by omega) | exact fun _ => not_setting (lo := 88) (by decide) (by omega) | exact fun _ => not_setting (lo := 64) (by decide) (by omega) | exact fun _ => not_setting (lo := 96) (by decide) (by omega) | exact fun _ => (by rw [rowOf_id]; first | assumption | exact not_setting (lo := 64) (by decide) (by omega) | exact not_setting (lo := 272) (by decide) (by omega)) | exact fun _ => not_setting (lo := 32) (by decide) (by omega)) | intro _ | with_reducible apply State.bump_onward | with_reducible apply State.mapUnit_onward | with_reducible apply State.mapResult_onward | with_reducible apply onward_ite | with_reducible apply onward_foldl | fail_if_no_progress with_reducible refine onward_mk ?_ rfl rfl rfl rfl rfl rfl rfl rfl rfl rfl rfl rfl rfl rfl | split | dsimp only

theorem State.startGroups_onward (h : s0.Onward kq kw s) {die cluster : Nat} : s0.Onward kq kw (State.startGroups s die cluster) := by
  unfold State.startGroups
  try dsimp only
  repeat' first | with_reducible assumption | intro _ | with_reducible apply State.startGroup_onward | with_reducible apply onward_ite | with_reducible apply onward_foldl | split | dsimp only

theorem State.pumpUnit_onward (h : s0.Onward kq False s) {r : Result} {u : AttnUnit} : s0.Onward kq False (State.pumpUnit s r u) := by
  unfold State.pumpUnit
  try dsimp only
  repeat' first | with_reducible assumption | (show kq → _ ∉ settings; first | exact False.elim | (with_reducible assumption) | exact fun _ => by decide | exact fun _ => mapReg_not_setting _ | exact fun _ => (by unfold gcBusy; split <;> decide) | exact fun _ => not_setting (lo := 272) (by decide) (by omega) | exact fun _ => not_setting (lo := 88) (by decide) (by omega) | exact fun _ => not_setting (lo := 64) (by decide) (by omega) | exact fun _ => not_setting (lo := 96) (by decide) (by omega) | exact fun _ => (by rw [rowOf_id]; first | assumption | exact not_setting (lo := 64) (by decide) (by omega) | exact not_setting (lo := 272) (by decide) (by omega)) | exact fun _ => not_setting (lo := 32) (by decide) (by omega)) | intro _ | with_reducible apply State.waitPage_onward | with_reducible apply State.mapUnit_onward | with_reducible apply State.bump_onward | with_reducible apply State.startUnit_onward | with_reducible apply onward_ite | fail_if_no_progress with_reducible refine onward_mkw ?_ rfl rfl rfl rfl rfl rfl rfl rfl | split | dsimp only

theorem State.pump_onward (h : s0.Onward kq False s) {die cluster : Nat} : s0.Onward kq False (State.pump s die cluster) := by
  unfold State.pump
  try dsimp only
  repeat' first | with_reducible assumption | intro _ | with_reducible apply State.pumpUnit_onward | with_reducible apply State.startGroups_onward | with_reducible apply onward_ite | with_reducible apply onward_foldl | split | dsimp only

theorem State.wakeUnits_onward (h : s0.Onward kq False s) {die : Nat} {p : Result → Nat → Bool} : s0.Onward kq False (State.wakeUnits s die p) := by
  unfold State.wakeUnits
  try dsimp only
  repeat' first | with_reducible assumption | intro _ | with_reducible apply State.pump_onward | with_reducible apply onward_ite | with_reducible apply onward_foldl | fail_if_no_progress with_reducible refine onward_mkw ?_ rfl rfl rfl rfl rfl rfl rfl rfl | split | dsimp only

theorem State.finishResult_onward (h : s0.Onward kq False s) {slot : Nat} {key : ResKey} : s0.Onward kq False (State.finishResult s slot key) := by
  unfold State.finishResult
  try dsimp only
  repeat' first | with_reducible assumption | (show kq → _ ∉ settings; first | exact False.elim | (with_reducible assumption) | exact fun _ => by decide | exact fun _ => mapReg_not_setting _ | exact fun _ => (by unfold gcBusy; split <;> decide) | exact fun _ => not_setting (lo := 272) (by decide) (by omega) | exact fun _ => not_setting (lo := 88) (by decide) (by omega) | exact fun _ => not_setting (lo := 64) (by decide) (by omega) | exact fun _ => not_setting (lo := 96) (by decide) (by omega) | exact fun _ => (by rw [rowOf_id]; first | assumption | exact not_setting (lo := 64) (by decide) (by omega) | exact not_setting (lo := 272) (by decide) (by omega)) | exact fun _ => not_setting (lo := 32) (by decide) (by omega)) | intro _ | with_reducible apply State.mapResult_onward | with_reducible apply State.bump_onward | with_reducible apply State.deliver_onward | with_reducible apply onward_ite | fail_if_no_progress with_reducible refine onward_mkw ?_ rfl rfl rfl rfl rfl rfl rfl rfl | split | dsimp only

theorem State.failResult_onward (h : s0.Onward kq False s) {slot : Nat} {key : ResKey} {addr : Nat} : s0.Onward kq False (State.failResult s slot key addr) := by
  unfold State.failResult
  try dsimp only
  repeat' first | with_reducible assumption | intro _ | with_reducible apply State.mapResult_onward | with_reducible apply State.deliver_onward | with_reducible apply onward_ite | fail_if_no_progress with_reducible refine onward_mkw ?_ rfl rfl rfl rfl rfl rfl rfl rfl | split | dsimp only

end Sys2Proof.Machine
end

