-- ==== Sys2Proof/Laws/OnwardMoves.lean ====
section
/-! SUPPORT. What the functions of Machine/Moves.lean keep: each answers a state its argument may go on to. -/

namespace Sys2Proof.Machine

set_option linter.unusedTactic false
set_option linter.unreachableTactic false

variable {kq kw : Prop} {s0 s : State}

theorem State.retarget_onward (h : s0.Onward kq False s) {u : UnitRef} {tier loc : Nat} : s0.Onward kq False (State.retarget s u tier loc) := by
  unfold State.retarget
  try dsimp only
  repeat' first | with_reducible assumption | with_reducible apply State.putLeaf_onward | with_reducible apply State.putShared_onward | with_reducible apply onward_ite | fail_if_no_progress with_reducible refine onward_mkw ?_ rfl rfl rfl rfl rfl rfl rfl rfl | split | dsimp only

theorem State.noteMoved_onward (h : s0.Onward kq False s) {die dir g : Nat} : s0.Onward kq False (State.noteMoved s die dir g) := by
  unfold State.noteMoved
  try dsimp only
  repeat' first | with_reducible assumption | (show kq → _ ∉ settings; first | exact False.elim | (with_reducible assumption) | exact fun _ => by decide | exact fun _ => mapReg_not_setting _ | exact fun _ => (by unfold gcBusy; split <;> decide) | exact fun _ => not_setting (lo := 272) (by decide) (by omega) | exact fun _ => not_setting (lo := 88) (by decide) (by omega) | exact fun _ => not_setting (lo := 64) (by decide) (by omega) | exact fun _ => not_setting (lo := 96) (by decide) (by omega) | exact fun _ => (by rw [rowOf_id]; first | assumption | exact not_setting (lo := 64) (by decide) (by omega) | exact not_setting (lo := 272) (by decide) (by omega)) | exact fun _ => not_setting (lo := 32) (by decide) (by omega)) | with_reducible apply State.bumpBy_onward | with_reducible apply onward_ite | with_reducible apply onward_getD | fail_if_no_progress with_reducible refine onward_mkw ?_ rfl rfl rfl rfl rfl rfl rfl rfl | split | dsimp only

theorem State.startMove_onward (h : s0.Onward kq False s) {die : Nat} {u : UnitRef} {i : UnitInfo} {dst : Nat} {quota paced : Bool} {wake : Option Nat} : s0.Onward kq False (State.startMove s die u i dst quota paced wake) := by
  unfold State.startMove
  try dsimp only
  repeat' first | with_reducible assumption | with_reducible apply State.place_onward | with_reducible apply State.nextFree_onward | with_reducible apply State.alloc_onward | with_reducible apply onward_ite | fail_if_no_progress with_reducible refine onward_mkw ?_ rfl rfl rfl rfl rfl rfl rfl rfl | with_reducible apply onward_none1 | with_reducible apply onward_some1 | refine onward_of_some1 (by assumption) ?_ | split | dsimp only

theorem State.abandon_onward (h : s0.Onward kq False s) {m : Move} : s0.Onward kq False (State.abandon s m) := by
  unfold State.abandon
  try dsimp only
  repeat' first | with_reducible assumption | with_reducible apply State.dealloc_onward | with_reducible apply State.releaseT2_onward | with_reducible apply onward_ite | split | dsimp only

theorem State.finishMove_onward (h : s0.Onward kq False s) {m : Move} : s0.Onward kq False (State.finishMove s m) := by
  unfold State.finishMove
  try dsimp only
  repeat' first | with_reducible assumption | (show kq → _ ∉ settings; first | exact False.elim | (with_reducible assumption) | exact fun _ => by decide | exact fun _ => mapReg_not_setting _ | exact fun _ => (by unfold gcBusy; split <;> decide) | exact fun _ => not_setting (lo := 272) (by decide) (by omega) | exact fun _ => not_setting (lo := 88) (by decide) (by omega) | exact fun _ => not_setting (lo := 64) (by decide) (by omega) | exact fun _ => not_setting (lo := 96) (by decide) (by omega) | exact fun _ => (by rw [rowOf_id]; first | assumption | exact not_setting (lo := 64) (by decide) (by omega) | exact not_setting (lo := 272) (by decide) (by omega)) | exact fun _ => not_setting (lo := 32) (by decide) (by omega)) | with_reducible apply State.retarget_onward | with_reducible apply State.shootdown_onward | with_reducible apply State.dealloc_onward | with_reducible apply State.releaseT2_onward | with_reducible apply State.bumpBy_onward | with_reducible apply State.noteMoved_onward | with_reducible apply State.abandon_onward | with_reducible apply onward_ite | fail_if_no_progress with_reducible refine onward_mkw ?_ rfl rfl rfl rfl rfl rfl rfl rfl | split | dsimp only

theorem State.poolStalled_onward (h : s0.Onward kq kw s) {die tier : Nat} : s0.Onward kq kw (State.poolStalled s die tier) := by
  unfold State.poolStalled
  try dsimp only
  repeat' first | with_reducible assumption | (show kq → _ ∉ settings; first | exact False.elim | (with_reducible assumption) | exact fun _ => by decide | exact fun _ => mapReg_not_setting _ | exact fun _ => (by unfold gcBusy; split <;> decide) | exact fun _ => not_setting (lo := 272) (by decide) (by omega) | exact fun _ => not_setting (lo := 88) (by decide) (by omega) | exact fun _ => not_setting (lo := 64) (by decide) (by omega) | exact fun _ => not_setting (lo := 96) (by decide) (by omega) | exact fun _ => (by rw [rowOf_id]; first | assumption | exact not_setting (lo := 64) (by decide) (by omega) | exact not_setting (lo := 272) (by decide) (by omega)) | exact fun _ => not_setting (lo := 32) (by decide) (by omega)) | with_reducible apply State.raiseOnce_onward | with_reducible apply State.bump_onward | with_reducible apply onward_ite | split | dsimp only

theorem State.demoteStalled_onward (h : s0.Onward kq False s) {die ctx tier : Nat} : s0.Onward kq False (State.demoteStalled s die ctx tier) := by
  unfold State.demoteStalled
  try dsimp only
  repeat' first | with_reducible assumption | with_reducible apply State.raise_onward | with_reducible apply onward_ite | fail_if_no_progress with_reducible refine onward_mkw ?_ rfl rfl rfl rfl rfl rfl rfl rfl | split | dsimp only

theorem State.freePage_onward (h : s0.Onward kq False s) {k : PageKey} : s0.Onward kq False (State.freePage s k) := by
  unfold State.freePage
  try dsimp only
  repeat' first | with_reducible assumption | with_reducible apply State.releaseT2_onward | with_reducible apply State.releasePage_onward | with_reducible apply onward_ite | fail_if_no_progress with_reducible refine onward_mkw ?_ rfl rfl rfl rfl rfl rfl rfl rfl | split | dsimp only

theorem State.flushPartial_onward (h : s0.Onward kq False s) {slot layer : Nat} : s0.Onward kq False (State.flushPartial s slot layer) := by
  unfold State.flushPartial
  try dsimp only
  repeat' first | with_reducible assumption | (show kq → _ ∉ settings; first | exact False.elim | (with_reducible assumption) | exact fun _ => by decide | exact fun _ => mapReg_not_setting _ | exact fun _ => (by unfold gcBusy; split <;> decide) | exact fun _ => not_setting (lo := 272) (by decide) (by omega) | exact fun _ => not_setting (lo := 88) (by decide) (by omega) | exact fun _ => not_setting (lo := 64) (by decide) (by omega) | exact fun _ => not_setting (lo := 96) (by decide) (by omega) | exact fun _ => (by rw [rowOf_id]; first | assumption | exact not_setting (lo := 64) (by decide) (by omega) | exact not_setting (lo := 272) (by decide) (by omega)) | exact fun _ => not_setting (lo := 32) (by decide) (by omega)) | intro _ | with_reducible apply State.bump_onward | with_reducible apply State.freePage_onward | with_reducible apply State.notePacked_onward | with_reducible apply State.alloc_onward | with_reducible apply State.nextFree_onward | with_reducible apply State.addLeaf_onward | with_reducible apply onward_ite | with_reducible apply onward_getD | fail_if_no_progress with_reducible refine onward_mkw ?_ rfl rfl rfl rfl rfl rfl rfl rfl | split | dsimp only

theorem State.evictStaging_onward (h : s0.Onward kq False s) {slot : Nat} : s0.Onward kq False (State.evictStaging s slot) := by
  unfold State.evictStaging
  split
  · extract_lets r die s1 placed
    have h1 : s0.Onward kq False s1 := onward_foldl (fun _ _ h => State.flushPartial_onward h) _ h
    have hp : OptOnward1 kq False s0 placed := by
      unfold placed
      repeat' first | assumption | exact onward_none1 | with_reducible apply onward_some1 | with_reducible apply onward_map1 | with_reducible apply State.place_onward | with_reducible apply State.nextFree_onward | split
    clear_value placed
    split
    · exact h
    · rename_i e
      exact State.dormantTest_onward (State.noteMoved_onward (State.dealloc_onward (State.shootdown_onward
        (onward_mkw (State.alloc_onward (onward_of_some1 rfl hp)) rfl rfl rfl rfl rfl rfl rfl rfl))))
  · exact h

theorem State.shedCopies_onward (h : s0.Onward kq False s) {die ctx : Nat} : s0.Onward kq False (State.shedCopies s die ctx) := by
  unfold State.shedCopies
  try dsimp only
  repeat' first | with_reducible assumption | (show kq → _ ∉ settings; first | exact False.elim | (with_reducible assumption) | exact fun _ => by decide | exact fun _ => mapReg_not_setting _ | exact fun _ => (by unfold gcBusy; split <;> decide) | exact fun _ => not_setting (lo := 272) (by decide) (by omega) | exact fun _ => not_setting (lo := 88) (by decide) (by omega) | exact fun _ => not_setting (lo := 64) (by decide) (by omega) | exact fun _ => not_setting (lo := 96) (by decide) (by omega) | exact fun _ => (by rw [rowOf_id]; first | assumption | exact not_setting (lo := 64) (by decide) (by omega) | exact not_setting (lo := 272) (by decide) (by omega)) | exact fun _ => not_setting (lo := 32) (by decide) (by omega)) | intro _ | with_reducible apply State.dealloc_onward | with_reducible apply State.bumpBy_onward | with_reducible apply onward_ite | with_reducible apply onward_foldl | fail_if_no_progress with_reducible refine onward_mkw ?_ rfl rfl rfl rfl rfl rfl rfl rfl | split | dsimp only

theorem State.quotaStep_onward (h : s0.Onward kq False s) {die ctx tier : Nat} : s0.Onward kq False (State.quotaStep s die ctx tier) := by
  unfold State.quotaStep
  try dsimp only
  repeat' first | with_reducible assumption | (show kq → _ ∉ settings; first | exact False.elim | (with_reducible assumption) | exact fun _ => by decide | exact fun _ => mapReg_not_setting _ | exact fun _ => (by unfold gcBusy; split <;> decide) | exact fun _ => not_setting (lo := 272) (by decide) (by omega) | exact fun _ => not_setting (lo := 88) (by decide) (by omega) | exact fun _ => not_setting (lo := 64) (by decide) (by omega) | exact fun _ => not_setting (lo := 96) (by decide) (by omega) | exact fun _ => (by rw [rowOf_id]; first | assumption | exact not_setting (lo := 64) (by decide) (by omega) | exact not_setting (lo := 272) (by decide) (by omega)) | exact fun _ => not_setting (lo := 32) (by decide) (by omega)) | intro _ | with_reducible apply State.shedCopies_onward | with_reducible apply State.demoteStalled_onward | with_reducible apply State.startMove_onward | with_reducible apply State.evictStaging_onward | with_reducible apply State.bumpBy_onward | with_reducible apply onward_ite | fail_if_no_progress with_reducible refine onward_mkw ?_ rfl rfl rfl rfl rfl rfl rfl rfl | split | dsimp only

theorem State.coldStep_onward (h : s0.Onward kq False s) {die : Nat} : s0.Onward kq False (State.coldStep s die) := by
  unfold State.coldStep
  try dsimp only
  repeat' first | with_reducible assumption | intro _ | with_reducible apply State.evictStaging_onward | with_reducible apply State.startMove_onward | with_reducible apply onward_ite | fail_if_no_progress with_reducible refine onward_mkw ?_ rfl rfl rfl rfl rfl rfl rfl rfl | split | dsimp only

theorem State.evictStep_onward (h : s0.Onward kq False s) {die tier : Nat} : s0.Onward kq False (State.evictStep s die tier) := by
  unfold State.evictStep
  try dsimp only
  repeat' first | with_reducible assumption | with_reducible apply State.startMove_onward | with_reducible apply State.poolStalled_onward | with_reducible apply onward_ite | fail_if_no_progress with_reducible refine onward_mkw ?_ rfl rfl rfl rfl rfl rfl rfl rfl | split | dsimp only

theorem State.demoteNext_onward (h : s0.Onward kq False s) {die : Nat} : s0.Onward kq False (State.demoteNext s die) := by
  unfold State.demoteNext
  try dsimp only
  repeat' first | with_reducible assumption | intro _ | with_reducible apply State.evictTest_onward | with_reducible apply State.evictStep_onward | with_reducible apply State.quotaStep_onward | with_reducible apply State.coldStep_onward | with_reducible apply onward_ite | fail_if_no_progress with_reducible refine onward_mkw ?_ rfl rfl rfl rfl rfl rfl rfl rfl | split | dsimp only

theorem State.promotingTest_onward (h : s0.Onward kq False s) {slot : Nat} : s0.Onward kq False (State.promotingTest s slot) := by
  unfold State.promotingTest
  try dsimp only
  repeat' first | with_reducible assumption | intro _ | with_reducible apply State.setSess_onward | with_reducible apply onward_ite | fail_if_no_progress with_reducible refine onward_mkw ?_ rfl rfl rfl rfl rfl rfl rfl rfl | split | dsimp only

theorem State.startPromo_onward (h : s0.Onward kq False s) {die : Nat} : s0.Onward kq False (State.startPromo s die) := by
  unfold State.startPromo
  try dsimp only
  repeat' first | with_reducible assumption | intro _ | with_reducible apply State.promotingTest_onward | with_reducible apply State.startMove_onward | with_reducible apply onward_ite | fail_if_no_progress with_reducible refine onward_mkw ?_ rfl rfl rfl rfl rfl rfl rfl rfl | split | dsimp only

theorem State.startPromos_onward (h : s0.Onward kq False s) {die n : Nat} : s0.Onward kq False (State.startPromos s die n) := by
  induction n generalizing s with
  | zero => exact h
  | succ n ih => exact ih (State.startPromo_onward h)

theorem State.runPromos_onward (h : s0.Onward kq False s) {die : Nat} : s0.Onward kq False (State.runPromos s die) := by
  unfold State.runPromos
  try dsimp only
  repeat' first | with_reducible assumption | with_reducible apply State.startPromos_onward | with_reducible apply onward_ite | split | dsimp only

theorem State.queuePromo_onward (h : s0.Onward kq False s) {u : UnitRef} {wake : Option Nat} : s0.Onward kq False (State.queuePromo s u wake) := by
  unfold State.queuePromo
  try dsimp only
  repeat' first | with_reducible assumption | intro _ | with_reducible apply onward_ite | fail_if_no_progress with_reducible refine onward_mkw ?_ rfl rfl rfl rfl rfl rfl rfl rfl | split | dsimp only

theorem State.firePromotion_onward (h : s0.Onward kq False s) {slot layer : Nat} : s0.Onward kq False (State.firePromotion s slot layer) := by
  unfold State.firePromotion
  try dsimp only
  repeat' first | with_reducible assumption | intro _ | with_reducible apply State.queuePromo_onward | with_reducible apply State.runPromos_onward | with_reducible apply State.promotingTest_onward | with_reducible apply onward_ite | with_reducible apply onward_foldl | fail_if_no_progress with_reducible refine onward_mkw ?_ rfl rfl rfl rfl rfl rfl rfl rfl | split | dsimp only

theorem State.addCopy_onward (h : s0.Onward kq False s) {c : T0Copy} : s0.Onward kq False (State.addCopy s c) := by
  unfold State.addCopy
  try dsimp only
  repeat' first | with_reducible assumption | (show kq → _ ∉ settings; first | exact False.elim | (with_reducible assumption) | exact fun _ => by decide | exact fun _ => mapReg_not_setting _ | exact fun _ => (by unfold gcBusy; split <;> decide) | exact fun _ => not_setting (lo := 272) (by decide) (by omega) | exact fun _ => not_setting (lo := 88) (by decide) (by omega) | exact fun _ => not_setting (lo := 64) (by decide) (by omega) | exact fun _ => not_setting (lo := 96) (by decide) (by omega) | exact fun _ => (by rw [rowOf_id]; first | assumption | exact not_setting (lo := 64) (by decide) (by omega) | exact not_setting (lo := 272) (by decide) (by omega)) | exact fun _ => not_setting (lo := 32) (by decide) (by omega)) | intro _ | with_reducible apply State.alloc_onward | with_reducible apply State.bump_onward | with_reducible apply State.raiseOnce_onward | with_reducible apply onward_ite | fail_if_no_progress with_reducible refine onward_mkw ?_ rfl rfl rfl rfl rfl rfl rfl rfl | split | dsimp only

theorem State.firePrefetch_onward (h : s0.Onward kq False s) {slot layer step : Nat} : s0.Onward kq False (State.firePrefetch s slot layer step) := by
  unfold State.firePrefetch
  try dsimp only
  repeat' first | with_reducible assumption | intro _ | with_reducible apply State.addCopy_onward | with_reducible apply onward_ite | with_reducible apply onward_foldl | fail_if_no_progress with_reducible refine onward_mkw ?_ rfl rfl rfl rfl rfl rfl rfl rfl | split | dsimp only

theorem State.releaseCopies_onward (h : s0.Onward kq False s) {die : Nat} : s0.Onward kq False (State.releaseCopies s die) := by
  unfold State.releaseCopies
  try dsimp only
  repeat' first | with_reducible assumption | intro _ | with_reducible apply State.dealloc_onward | with_reducible apply onward_ite | with_reducible apply onward_foldl | fail_if_no_progress with_reducible refine onward_mkw ?_ rfl rfl rfl rfl rfl rfl rfl rfl | split | dsimp only

theorem State.countLate_onward (h : s0.Onward kq False s) {die step layer : Nat} : s0.Onward kq False (State.countLate s die step layer) := by
  unfold State.countLate
  try dsimp only
  repeat' first | with_reducible assumption | (show kq → _ ∉ settings; first | exact False.elim | (with_reducible assumption) | exact fun _ => by decide | exact fun _ => mapReg_not_setting _ | exact fun _ => (by unfold gcBusy; split <;> decide) | exact fun _ => not_setting (lo := 272) (by decide) (by omega) | exact fun _ => not_setting (lo := 88) (by decide) (by omega) | exact fun _ => not_setting (lo := 64) (by decide) (by omega) | exact fun _ => not_setting (lo := 96) (by decide) (by omega) | exact fun _ => (by rw [rowOf_id]; first | assumption | exact not_setting (lo := 64) (by decide) (by omega) | exact not_setting (lo := 272) (by decide) (by omega)) | exact fun _ => not_setting (lo := 32) (by decide) (by omega)) | intro _ | with_reducible apply State.bump_onward | with_reducible apply onward_ite | fail_if_no_progress with_reducible refine onward_mkw ?_ rfl rfl rfl rfl rfl rfl rfl rfl | split | dsimp only

theorem State.fireTrig_onward (h : s0.Onward kq False s) {x : Trig} : s0.Onward kq False (State.fireTrig s x) := by
  unfold State.fireTrig
  try dsimp only
  repeat' first | with_reducible assumption | with_reducible apply State.firePrefetch_onward | with_reducible apply State.firePromotion_onward | with_reducible apply onward_ite | split | dsimp only

theorem State.fireTrigs_onward (h : s0.Onward kq False s) : s0.Onward kq False (State.fireTrigs s) := by
  unfold State.fireTrigs
  try dsimp only
  repeat' first | with_reducible assumption | intro _ | with_reducible apply State.fireTrig_onward | with_reducible apply onward_ite | with_reducible apply onward_foldl | split | dsimp only

theorem State.scheduleWake_onward (h : s0.Onward kq False s) {slot firstPos : Nat} : s0.Onward kq False (State.scheduleWake s slot firstPos) := by
  unfold State.scheduleWake
  try dsimp only
  repeat' first | with_reducible assumption | intro _ | with_reducible apply State.fireTrigs_onward | with_reducible apply State.firePromotion_onward | with_reducible apply onward_ite | with_reducible apply onward_foldl | fail_if_no_progress with_reducible refine onward_mkw ?_ rfl rfl rfl rfl rfl rfl rfl rfl | split | dsimp only

theorem State.restoreImage_onward (h : s0.Onward kq False s) {slot : Nat} : s0.Onward kq False (State.restoreImage s slot) := by
  unfold State.restoreImage
  try dsimp only
  repeat' first | with_reducible assumption | intro _ | with_reducible apply State.alloc_onward | with_reducible apply State.putStaging_onward | with_reducible apply State.nextFree_onward | with_reducible apply State.putArea_onward | with_reducible apply State.dealloc_onward | with_reducible apply State.noteMoved_onward | with_reducible apply State.releaseT2_onward | with_reducible apply onward_ite | fail_if_no_progress with_reducible refine onward_mkw ?_ rfl rfl rfl rfl rfl rfl rfl rfl | split | dsimp only

end Sys2Proof.Machine
end

