-- ==== Sys2Proof/Laws/OnwardCkpt.lean ====
section
/-! SUPPORT. What the functions of Machine/Ckpt.lean keep: each answers a state its argument may go on to. -/

namespace Sys2Proof.Machine

set_option linter.unusedTactic false
set_option linter.unreachableTactic false

variable {kq kw : Prop} {s0 s : State}

theorem State.mapPins_onward (h : s0.Onward kq False s) {l : List (Nat × Nat × Nat)} {f : Nat → Nat} : s0.Onward kq False (State.mapPins s l f) := by
  unfold State.mapPins
  try dsimp only
  repeat' first | with_reducible assumption | intro _ | with_reducible apply State.settleSeg_onward | with_reducible apply onward_ite | with_reducible apply onward_foldl | fail_if_no_progress with_reducible refine onward_mkw ?_ rfl rfl rfl rfl rfl rfl rfl rfl | split | dsimp only

theorem State.discard_onward (h : s0.Onward kq False s) {id : Nat} : s0.Onward kq False (State.discard s id) := by
  unfold State.discard
  try dsimp only
  repeat' first | with_reducible assumption | intro _ | with_reducible apply State.mapPins_onward | with_reducible apply onward_ite | with_reducible apply onward_getD | fail_if_no_progress with_reducible refine onward_mkw ?_ rfl rfl rfl rfl rfl rfl rfl rfl | split | dsimp only

theorem State.failCkpt_onward (h : s0.Onward kq False s) {cause addr : Nat} : s0.Onward kq False (State.failCkpt s cause addr) := by
  unfold State.failCkpt
  try dsimp only
  repeat' first | with_reducible assumption | (show kq → _ ∉ settings; first | exact False.elim | (with_reducible assumption) | exact fun _ => by decide | exact fun _ => mapReg_not_setting _ | exact fun _ => (by unfold gcBusy; split <;> decide) | exact fun _ => not_setting (lo := 272) (by decide) (by omega) | exact fun _ => not_setting (lo := 88) (by decide) (by omega) | exact fun _ => not_setting (lo := 64) (by decide) (by omega) | exact fun _ => not_setting (lo := 96) (by decide) (by omega) | exact fun _ => (by rw [rowOf_id]; first | assumption | exact not_setting (lo := 64) (by decide) (by omega) | exact not_setting (lo := 272) (by decide) (by omega)) | exact fun _ => not_setting (lo := 32) (by decide) (by omega)) | with_reducible apply State.discard_onward | with_reducible apply State.setFld_onward | with_reducible apply State.setReg_onward | with_reducible apply State.bump_onward | with_reducible apply State.raise_onward | with_reducible apply onward_ite | fail_if_no_progress with_reducible refine onward_mkw ?_ rfl rfl rfl rfl rfl rfl rfl rfl | split | dsimp only

theorem State.putHead_onward (h : s0.Onward kq kw s) {x : ShardHdr} : s0.Onward kq kw (State.putHead s x) :=
  onward_trans h ⟨rfl, le_rfl, Fuses.burned_refl _, fun c => ⟨c.1, c.2.1, c.2.2.1, fun y hy => c.2.2.2 y (List.mem_of_mem_filter hy)⟩, fun _ => fixed_mk rfl rfl rfl rfl rfl, fun _ => spared_mk rfl rfl rfl rfl rfl rfl⟩

theorem State.startRec_onward (h : s0.Onward kq kw s) {id : Nat} : s0.Onward kq kw (State.startRec s id) := by
  unfold State.startRec
  try dsimp only
  repeat' first | with_reducible assumption | (show kq → _ ∉ settings; first | exact False.elim | (with_reducible assumption) | exact fun _ => by decide | exact fun _ => mapReg_not_setting _ | exact fun _ => (by unfold gcBusy; split <;> decide) | exact fun _ => not_setting (lo := 272) (by decide) (by omega) | exact fun _ => not_setting (lo := 88) (by decide) (by omega) | exact fun _ => not_setting (lo := 64) (by decide) (by omega) | exact fun _ => not_setting (lo := 96) (by decide) (by omega) | exact fun _ => (by rw [rowOf_id]; first | assumption | exact not_setting (lo := 64) (by decide) (by omega) | exact not_setting (lo := 272) (by decide) (by omega)) | exact fun _ => not_setting (lo := 32) (by decide) (by omega)) | intro _ | with_reducible apply State.setFld_onward | with_reducible apply State.setReg_onward | with_reducible apply onward_ite | fail_if_no_progress with_reducible refine onward_mk ?_ rfl rfl rfl rfl rfl rfl rfl rfl rfl rfl rfl rfl rfl rfl | split | dsimp only

theorem State.cut_onward (h : s0.Onward kq False s) {kind trigger : Nat} : s0.Onward kq False (State.cut s kind trigger) := by
  unfold State.cut
  extract_lets id slot x r old s1 c1 s2 s3 s4 c5 s5 s6 s7
  have h1 : s0.Onward kq False s1 := State.mapPins_onward h
  have h2 : s0.Onward kq False s2 := ⟨h1.pending, h1.now, h1.fuses, fun c => ⟨(h1.canonical c).1, (h1.canonical c).2.1, (h1.canonical c).2.2.1,
    fun y hy => (List.mem_cons.mp hy).elim (fun e => e ▸ ⟨(h.canonical c).1, (h.canonical c).2.1, (h.canonical c).2.2.1⟩)
      (fun hy => (h1.canonical c).2.2.2 y hy)⟩, fun k => fixed_trans (h1.fixed k) (fixed_mk rfl rfl rfl rfl rfl), False.elim⟩
  have h4 : s0.Onward kq False s4 := onward_foldl (fun _ _ h => State.discard_onward h) _ (State.putHead_onward (State.putHead_onward h2))
  have h5 : s0.Onward kq False s5 := onward_mkw h4 rfl rfl rfl rfl rfl rfl rfl rfl
  have h6 : s0.Onward kq False s6 := State.setFld_onward (State.setReg_onward (State.setFld_onward h5 (fun _ => by decide)) (fun _ => by decide)) (fun _ => by decide)
  exact State.raise_onward (State.startRec_onward (State.nextFree_onward (State.setFld_onward h6 (fun _ => by decide))))

theorem State.planCkpt_onward (h : s0.Onward kq False s) {kind trigger : Nat} : s0.Onward kq False (State.planCkpt s kind trigger) := by
  unfold State.planCkpt
  try dsimp only
  repeat' first | with_reducible assumption | (show kq → _ ∉ settings; first | exact False.elim | (with_reducible assumption) | exact fun _ => by decide | exact fun _ => mapReg_not_setting _ | exact fun _ => (by unfold gcBusy; split <;> decide) | exact fun _ => not_setting (lo := 272) (by decide) (by omega) | exact fun _ => not_setting (lo := 88) (by decide) (by omega) | exact fun _ => not_setting (lo := 64) (by decide) (by omega) | exact fun _ => not_setting (lo := 96) (by decide) (by omega) | exact fun _ => (by rw [rowOf_id]; first | assumption | exact not_setting (lo := 64) (by decide) (by omega) | exact not_setting (lo := 272) (by decide) (by omega)) | exact fun _ => not_setting (lo := 32) (by decide) (by omega)) | with_reducible apply State.setFld_onward | with_reducible apply State.cut_onward | with_reducible apply onward_ite | fail_if_no_progress with_reducible refine onward_mkw ?_ rfl rfl rfl rfl rfl rfl rfl rfl | split | dsimp only

theorem State.cutDue_onward (h : s0.Onward kq False s) : s0.Onward kq False (State.cutDue s) := by
  unfold State.cutDue
  try dsimp only
  repeat' first | with_reducible assumption | with_reducible apply State.cut_onward | with_reducible apply onward_ite | fail_if_no_progress with_reducible refine onward_mkw ?_ rfl rfl rfl rfl rfl rfl rfl rfl | split | dsimp only

theorem State.ckptTick_onward (h : s0.Onward kq False s) {step : Nat} : s0.Onward kq False (State.ckptTick s step) := by
  unfold State.ckptTick
  try dsimp only
  repeat' first | with_reducible assumption | (show kq → _ ∉ settings; first | exact False.elim | (with_reducible assumption) | exact fun _ => by decide | exact fun _ => mapReg_not_setting _ | exact fun _ => (by unfold gcBusy; split <;> decide) | exact fun _ => not_setting (lo := 272) (by decide) (by omega) | exact fun _ => not_setting (lo := 88) (by decide) (by omega) | exact fun _ => not_setting (lo := 64) (by decide) (by omega) | exact fun _ => not_setting (lo := 96) (by decide) (by omega) | exact fun _ => (by rw [rowOf_id]; first | assumption | exact not_setting (lo := 64) (by decide) (by omega) | exact not_setting (lo := 272) (by decide) (by omega)) | exact fun _ => not_setting (lo := 32) (by decide) (by omega)) | with_reducible apply State.bump_onward | with_reducible apply State.raise_onward | with_reducible apply State.cut_onward | with_reducible apply onward_ite | split | dsimp only

theorem State.warnCkpt_onward (h : s0.Onward kq False s) {die cluster : Nat} : s0.Onward kq False (State.warnCkpt s die cluster) := by
  unfold State.warnCkpt
  try dsimp only
  repeat' first | with_reducible assumption | intro _ | with_reducible apply State.planCkpt_onward | with_reducible apply onward_ite | fail_if_no_progress with_reducible refine onward_mkw ?_ rfl rfl rfl rfl rfl rfl rfl rfl | split | dsimp only

end Sys2Proof.Machine
end

