-- ==== Sys2Proof/Laws/OnwardHealth.lean ====
section
/-! SUPPORT. What the functions of Machine/Health.lean keep: each answers a state its argument may go on to. -/

namespace Sys2Proof.Machine

set_option linter.unusedTactic false
set_option linter.unreachableTactic false

variable {kq kw : Prop} {s0 s : State}

theorem State.setMap_onward (h : s0.Onward kq kw s) {die b : Nat} {v : Bool} : s0.Onward kq kw (State.setMap s die b v) := by
  unfold State.setMap
  try dsimp only
  repeat' first | with_reducible assumption | (show kq → _ ∉ settings; first | exact False.elim | (with_reducible assumption) | exact fun _ => by decide | exact fun _ => mapReg_not_setting _ | exact fun _ => (by unfold gcBusy; split <;> decide) | exact fun _ => not_setting (lo := 272) (by decide) (by omega) | exact fun _ => not_setting (lo := 88) (by decide) (by omega) | exact fun _ => not_setting (lo := 64) (by decide) (by omega) | exact fun _ => not_setting (lo := 96) (by decide) (by omega) | exact fun _ => (by rw [rowOf_id]; first | assumption | exact not_setting (lo := 64) (by decide) (by omega) | exact not_setting (lo := 272) (by decide) (by omega)) | exact fun _ => not_setting (lo := 32) (by decide) (by omega)) | with_reducible apply State.setReg_onward | with_reducible apply onward_ite | split | dsimp only

theorem State.takeOut_onward (h : s0.Onward kq kw s) {die cluster core : Nat} : s0.Onward kq kw (State.takeOut s die cluster core) := by
  unfold State.takeOut
  try dsimp only
  repeat' first | with_reducible assumption | (show kq → _ ∉ settings; first | exact False.elim | (with_reducible assumption) | exact fun _ => by decide | exact fun _ => mapReg_not_setting _ | exact fun _ => (by unfold gcBusy; split <;> decide) | exact fun _ => not_setting (lo := 272) (by decide) (by omega) | exact fun _ => not_setting (lo := 88) (by decide) (by omega) | exact fun _ => not_setting (lo := 64) (by decide) (by omega) | exact fun _ => not_setting (lo := 96) (by decide) (by omega) | exact fun _ => (by rw [rowOf_id]; first | assumption | exact not_setting (lo := 64) (by decide) (by omega) | exact not_setting (lo := 272) (by decide) (by omega)) | exact fun _ => not_setting (lo := 32) (by decide) (by omega)) | with_reducible apply State.setFld_onward | with_reducible apply State.setMap_onward | with_reducible apply onward_ite | split | dsimp only

theorem State.rerun_onward (h : s0.Onward kq kw s) {die cluster core : Nat} : s0.Onward kq kw (State.rerun s die cluster core) := by
  unfold State.rerun
  try dsimp only
  repeat' first | with_reducible assumption | (show kq → _ ∉ settings; first | exact False.elim | (with_reducible assumption) | exact fun _ => by decide | exact fun _ => mapReg_not_setting _ | exact fun _ => (by unfold gcBusy; split <;> decide) | exact fun _ => not_setting (lo := 272) (by decide) (by omega) | exact fun _ => not_setting (lo := 88) (by decide) (by omega) | exact fun _ => not_setting (lo := 64) (by decide) (by omega) | exact fun _ => not_setting (lo := 96) (by decide) (by omega) | exact fun _ => (by rw [rowOf_id]; first | assumption | exact not_setting (lo := 64) (by decide) (by omega) | exact not_setting (lo := 272) (by decide) (by omega)) | exact fun _ => not_setting (lo := 32) (by decide) (by omega)) | intro _ | with_reducible apply State.bumpBy_onward | with_reducible apply onward_ite | fail_if_no_progress with_reducible refine onward_mk ?_ rfl rfl rfl rfl rfl rfl rfl rfl rfl rfl rfl rfl rfl rfl | split | dsimp only

theorem State.dropCopies_onward (h : s0.Onward kq False s) {die cluster core : Nat} : s0.Onward kq False (State.dropCopies s die cluster core) := by
  unfold State.dropCopies
  try dsimp only
  repeat' first | with_reducible assumption | intro _ | with_reducible apply State.dealloc_onward | with_reducible apply onward_ite | with_reducible apply onward_foldl | fail_if_no_progress with_reducible refine onward_mkw ?_ rfl rfl rfl rfl rfl rfl rfl rfl | split | dsimp only

theorem State.coreFault_onward (h : s0.Onward kq False s) {die cluster core : Nat} : s0.Onward kq False (State.coreFault s die cluster core) := by
  unfold State.coreFault
  try dsimp only
  repeat' first | with_reducible assumption | (show kq → _ ∉ settings; first | exact False.elim | (with_reducible assumption) | exact fun _ => by decide | exact fun _ => mapReg_not_setting _ | exact fun _ => (by unfold gcBusy; split <;> decide) | exact fun _ => not_setting (lo := 272) (by decide) (by omega) | exact fun _ => not_setting (lo := 88) (by decide) (by omega) | exact fun _ => not_setting (lo := 64) (by decide) (by omega) | exact fun _ => not_setting (lo := 96) (by decide) (by omega) | exact fun _ => (by rw [rowOf_id]; first | assumption | exact not_setting (lo := 64) (by decide) (by omega) | exact not_setting (lo := 272) (by decide) (by omega)) | exact fun _ => not_setting (lo := 32) (by decide) (by omega)) | with_reducible apply State.bump_onward | with_reducible apply State.takeOut_onward | with_reducible apply State.setFld_onward | with_reducible apply State.raise_onward | with_reducible apply State.pump_onward | with_reducible apply State.rerun_onward | with_reducible apply State.dropCopies_onward | with_reducible apply onward_ite | fail_if_no_progress with_reducible refine onward_mkw ?_ rfl rfl rfl rfl rfl rfl rfl rfl | split | dsimp only

theorem State.remap_onward (h : s0.Onward kq False s) {die cluster : Nat} : s0.Onward kq False (State.remap s die cluster) := by
  unfold State.remap
  try dsimp only
  repeat' first | with_reducible assumption | (show kq → _ ∉ settings; first | exact False.elim | (with_reducible assumption) | exact fun _ => by decide | exact fun _ => mapReg_not_setting _ | exact fun _ => (by unfold gcBusy; split <;> decide) | exact fun _ => not_setting (lo := 272) (by decide) (by omega) | exact fun _ => not_setting (lo := 88) (by decide) (by omega) | exact fun _ => not_setting (lo := 64) (by decide) (by omega) | exact fun _ => not_setting (lo := 96) (by decide) (by omega) | exact fun _ => (by rw [rowOf_id]; first | assumption | exact not_setting (lo := 64) (by decide) (by omega) | exact not_setting (lo := 272) (by decide) (by omega)) | exact fun _ => not_setting (lo := 32) (by decide) (by omega)) | with_reducible apply State.setFld_onward | with_reducible apply State.raise_onward | with_reducible apply State.pump_onward | with_reducible apply onward_ite | fail_if_no_progress with_reducible refine onward_mkw ?_ rfl rfl rfl rfl rfl rfl rfl rfl | split | dsimp only

theorem State.remapAll_onward (h : s0.Onward kq False s) : s0.Onward kq False (State.remapAll s) := by
  unfold State.remapAll
  try dsimp only
  repeat' first | with_reducible assumption | intro _ | with_reducible apply State.remap_onward | with_reducible apply onward_ite | with_reducible apply onward_foldl | split | dsimp only

theorem State.remapIdle_onward (h : s0.Onward kq False s) : s0.Onward kq False (State.remapIdle s) := by
  unfold State.remapIdle
  try dsimp only
  repeat' first | with_reducible assumption | intro _ | with_reducible apply State.remap_onward | with_reducible apply onward_ite | with_reducible apply onward_foldl | split | dsimp only

theorem execCoreKat_onward (h : s0.Onward kq False s) {t die cluster core : Nat} {pass : Bool} : ResOnward kq False s0 (execCoreKat t die cluster core pass s) := by
  unfold execCoreKat
  try dsimp only
  repeat' first | with_reducible assumption | with_reducible exact onward_fault | with_reducible exact onward_refused | with_reducible apply onward_next | with_reducible apply State.tick_onward | with_reducible apply State.coreFault_onward | with_reducible apply onward_ite | fail_if_no_progress with_reducible refine onward_mkw ?_ rfl rfl rfl rfl rfl rfl rfl rfl | split | dsimp only

theorem execUnitOverrun_onward (h : s0.Onward kq False s) {t die cluster core : Nat} : ResOnward kq False s0 (execUnitOverrun t die cluster core s) := by
  unfold execUnitOverrun
  try dsimp only
  repeat' first | with_reducible assumption | with_reducible exact onward_fault | with_reducible exact onward_refused | with_reducible apply onward_next | with_reducible apply State.tick_onward | with_reducible apply State.coreFault_onward | with_reducible apply onward_ite | split | dsimp only

theorem execCoreFault_onward (h : s0.Onward kq False s) {t die cluster core : Nat} : ResOnward kq False s0 (execCoreFault t die cluster core s) := by
  unfold execCoreFault
  try dsimp only
  repeat' first | with_reducible assumption | with_reducible exact onward_fault | with_reducible exact onward_refused | with_reducible apply onward_next | with_reducible apply State.tick_onward | with_reducible apply State.coreFault_onward | with_reducible apply onward_ite | split | dsimp only

theorem State.spareDone_onward (h : s0.Onward kq False s) {die cluster : Nat} {pass : Bool} : s0.Onward kq False (State.spareDone s die cluster pass) := by
  unfold State.spareDone
  try dsimp only
  repeat' first | with_reducible assumption | (show kq → _ ∉ settings; first | exact False.elim | (with_reducible assumption) | exact fun _ => by decide | exact fun _ => mapReg_not_setting _ | exact fun _ => (by unfold gcBusy; split <;> decide) | exact fun _ => not_setting (lo := 272) (by decide) (by omega) | exact fun _ => not_setting (lo := 88) (by decide) (by omega) | exact fun _ => not_setting (lo := 64) (by decide) (by omega) | exact fun _ => not_setting (lo := 96) (by decide) (by omega) | exact fun _ => (by rw [rowOf_id]; first | assumption | exact not_setting (lo := 64) (by decide) (by omega) | exact not_setting (lo := 272) (by decide) (by omega)) | exact fun _ => not_setting (lo := 32) (by decide) (by omega)) | with_reducible apply State.remapIdle_onward | with_reducible apply State.setFld_onward | with_reducible apply State.takeOut_onward | with_reducible apply State.raise_onward | with_reducible apply State.pump_onward | with_reducible apply onward_ite | fail_if_no_progress with_reducible refine onward_mkw ?_ rfl rfl rfl rfl rfl rfl rfl rfl | split | dsimp only

theorem execSpareKatDone_onward (h : s0.Onward kq False s) {t die cluster : Nat} {pass : Bool} : ResOnward kq False s0 (execSpareKatDone t die cluster pass s) := by
  unfold execSpareKatDone
  try dsimp only
  repeat' first | with_reducible assumption | with_reducible exact onward_fault | with_reducible exact onward_refused | with_reducible apply onward_next | with_reducible apply State.tick_onward | with_reducible apply State.spareDone_onward | with_reducible apply onward_ite | split | dsimp only

theorem State.sramError_onward (h : s0.Onward kq False s) {die cluster core : Nat} : s0.Onward kq False (State.sramError s die cluster core) := by
  unfold State.sramError
  try dsimp only
  repeat' first | with_reducible assumption | with_reducible apply State.coreFault_onward | with_reducible apply onward_ite | fail_if_no_progress with_reducible refine onward_mkw ?_ rfl rfl rfl rfl rfl rfl rfl rfl | split | dsimp only

theorem State.vreq_onward (h : s0.Onward kq kw s) {q : VReq} : s0.Onward kq kw (State.vreq s q) := by
  unfold State.vreq
  try dsimp only
  repeat' first | with_reducible assumption | (show kq → _ ∉ settings; first | exact False.elim | (with_reducible assumption) | exact fun _ => by decide | exact fun _ => mapReg_not_setting _ | exact fun _ => (by unfold gcBusy; split <;> decide) | exact fun _ => not_setting (lo := 272) (by decide) (by omega) | exact fun _ => not_setting (lo := 88) (by decide) (by omega) | exact fun _ => not_setting (lo := 64) (by decide) (by omega) | exact fun _ => not_setting (lo := 96) (by decide) (by omega) | exact fun _ => (by rw [rowOf_id]; first | assumption | exact not_setting (lo := 64) (by decide) (by omega) | exact not_setting (lo := 272) (by decide) (by omega)) | exact fun _ => not_setting (lo := 32) (by decide) (by omega)) | with_reducible apply State.setFld_onward | with_reducible apply State.ibi_onward | with_reducible apply onward_ite | split | dsimp only

theorem State.setPlan_onward (h : s0.Onward kq kw s) {p : Option Plan} : s0.Onward kq kw (State.setPlan s p) := by
  unfold State.setPlan
  try dsimp only
  repeat' first | with_reducible assumption | with_reducible apply onward_ite | fail_if_no_progress with_reducible refine onward_mk ?_ rfl rfl rfl rfl rfl rfl rfl rfl rfl rfl rfl rfl rfl rfl | split | dsimp only

theorem State.endPlan_onward (h : s0.Onward kq kw s) {p : Plan} : s0.Onward kq kw (State.endPlan s p) := by
  unfold State.endPlan
  try dsimp only
  repeat' first | with_reducible assumption | (show kq → _ ∉ settings; first | exact False.elim | (with_reducible assumption) | exact fun _ => by decide | exact fun _ => mapReg_not_setting _ | exact fun _ => (by unfold gcBusy; split <;> decide) | exact fun _ => not_setting (lo := 272) (by decide) (by omega) | exact fun _ => not_setting (lo := 88) (by decide) (by omega) | exact fun _ => not_setting (lo := 64) (by decide) (by omega) | exact fun _ => not_setting (lo := 96) (by decide) (by omega) | exact fun _ => (by rw [rowOf_id]; first | assumption | exact not_setting (lo := 64) (by decide) (by omega) | exact not_setting (lo := 272) (by decide) (by omega)) | exact fun _ => not_setting (lo := 32) (by decide) (by omega)) | with_reducible apply State.setPlan_onward | with_reducible apply State.setFld_onward | with_reducible apply State.raise_onward | with_reducible apply onward_ite | split | dsimp only

theorem State.clockPlan_onward (h : s0.Onward kq kw s) {p : Plan} : s0.Onward kq kw (State.clockPlan s p) := by
  unfold State.clockPlan
  try dsimp only
  repeat' first | with_reducible assumption | (show kq → _ ∉ settings; first | exact False.elim | (with_reducible assumption) | exact fun _ => by decide | exact fun _ => mapReg_not_setting _ | exact fun _ => (by unfold gcBusy; split <;> decide) | exact fun _ => not_setting (lo := 272) (by decide) (by omega) | exact fun _ => not_setting (lo := 88) (by decide) (by omega) | exact fun _ => not_setting (lo := 64) (by decide) (by omega) | exact fun _ => not_setting (lo := 96) (by decide) (by omega) | exact fun _ => (by rw [rowOf_id]; first | assumption | exact not_setting (lo := 64) (by decide) (by omega) | exact not_setting (lo := 272) (by decide) (by omega)) | exact fun _ => not_setting (lo := 32) (by decide) (by omega)) | with_reducible apply State.setFld_onward | with_reducible apply State.endPlan_onward | with_reducible apply State.setPlan_onward | with_reducible apply State.vreq_onward | with_reducible apply onward_ite | fail_if_no_progress with_reducible refine onward_mk ?_ rfl rfl rfl rfl rfl rfl rfl rfl rfl rfl rfl rfl rfl rfl | split | dsimp only

theorem State.nextReq_onward (h : s0.Onward kq kw s) {p : Plan} {reqs : List VReq} : s0.Onward kq kw (State.nextReq s p reqs) := by
  unfold State.nextReq
  try dsimp only
  repeat' first | with_reducible assumption | with_reducible apply State.setPlan_onward | with_reducible apply State.vreq_onward | with_reducible apply State.endPlan_onward | with_reducible apply State.clockPlan_onward | with_reducible apply onward_ite | fail_if_no_progress with_reducible refine onward_mk ?_ rfl rfl rfl rfl rfl rfl rfl rfl rfl rfl rfl rfl rfl rfl | split | dsimp only

theorem State.beginPlan_onward (h : s0.Onward kq kw s) : s0.Onward kq kw (State.beginPlan s) := by
  unfold State.beginPlan
  try dsimp only
  repeat' first | with_reducible assumption | (show kq → _ ∉ settings; first | exact False.elim | (with_reducible assumption) | exact fun _ => by decide | exact fun _ => mapReg_not_setting _ | exact fun _ => (by unfold gcBusy; split <;> decide) | exact fun _ => not_setting (lo := 272) (by decide) (by omega) | exact fun _ => not_setting (lo := 88) (by decide) (by omega) | exact fun _ => not_setting (lo := 64) (by decide) (by omega) | exact fun _ => not_setting (lo := 96) (by decide) (by omega) | exact fun _ => (by rw [rowOf_id]; first | assumption | exact not_setting (lo := 64) (by decide) (by omega) | exact not_setting (lo := 272) (by decide) (by omega)) | exact fun _ => not_setting (lo := 32) (by decide) (by omega)) | with_reducible apply State.setFld_onward | with_reducible apply State.nextReq_onward | with_reducible apply onward_ite | fail_if_no_progress with_reducible refine onward_mk ?_ rfl rfl rfl rfl rfl rfl rfl rfl rfl rfl rfl rfl rfl rfl | split | dsimp only

theorem State.acceptPlan_onward (h : s0.Onward kq kw s) {v : Word} : s0.Onward kq kw (State.acceptPlan s v) := by
  unfold State.acceptPlan
  try dsimp only
  repeat' first | with_reducible assumption | (show kq → _ ∉ settings; first | exact False.elim | (with_reducible assumption) | exact fun _ => by decide | exact fun _ => mapReg_not_setting _ | exact fun _ => (by unfold gcBusy; split <;> decide) | exact fun _ => not_setting (lo := 272) (by decide) (by omega) | exact fun _ => not_setting (lo := 88) (by decide) (by omega) | exact fun _ => not_setting (lo := 64) (by decide) (by omega) | exact fun _ => not_setting (lo := 96) (by decide) (by omega) | exact fun _ => (by rw [rowOf_id]; first | assumption | exact not_setting (lo := 64) (by decide) (by omega) | exact not_setting (lo := 272) (by decide) (by omega)) | exact fun _ => not_setting (lo := 32) (by decide) (by omega)) | with_reducible apply State.setFld_onward | with_reducible apply State.beginPlan_onward | with_reducible apply onward_ite | fail_if_no_progress with_reducible refine onward_mk ?_ rfl rfl rfl rfl rfl rfl rfl rfl rfl rfl rfl rfl rfl rfl | split | dsimp only

theorem State.vack_onward (h : s0.Onward kq kw s) {v : Word} : s0.Onward kq kw (State.vack s v) := by
  unfold State.vack
  try dsimp only
  repeat' first | with_reducible assumption | (show kq → _ ∉ settings; first | exact False.elim | (with_reducible assumption) | exact fun _ => by decide | exact fun _ => mapReg_not_setting _ | exact fun _ => (by unfold gcBusy; split <;> decide) | exact fun _ => not_setting (lo := 272) (by decide) (by omega) | exact fun _ => not_setting (lo := 88) (by decide) (by omega) | exact fun _ => not_setting (lo := 64) (by decide) (by omega) | exact fun _ => not_setting (lo := 96) (by decide) (by omega) | exact fun _ => (by rw [rowOf_id]; first | assumption | exact not_setting (lo := 64) (by decide) (by omega) | exact not_setting (lo := 272) (by decide) (by omega)) | exact fun _ => not_setting (lo := 32) (by decide) (by omega)) | with_reducible apply State.setFld_onward | with_reducible apply State.nextReq_onward | with_reducible apply onward_ite | fail_if_no_progress with_reducible refine onward_mk ?_ rfl rfl rfl rfl rfl rfl rfl rfl rfl rfl rfl rfl rfl rfl | split | dsimp only

theorem State.vreqLost_onward (h : s0.Onward kq kw s) : s0.Onward kq kw (State.vreqLost s) := by
  unfold State.vreqLost
  try dsimp only
  repeat' first | with_reducible assumption | (show kq → _ ∉ settings; first | exact False.elim | (with_reducible assumption) | exact fun _ => by decide | exact fun _ => mapReg_not_setting _ | exact fun _ => (by unfold gcBusy; split <;> decide) | exact fun _ => not_setting (lo := 272) (by decide) (by omega) | exact fun _ => not_setting (lo := 88) (by decide) (by omega) | exact fun _ => not_setting (lo := 64) (by decide) (by omega) | exact fun _ => not_setting (lo := 96) (by decide) (by omega) | exact fun _ => (by rw [rowOf_id]; first | assumption | exact not_setting (lo := 64) (by decide) (by omega) | exact not_setting (lo := 272) (by decide) (by omega)) | exact fun _ => not_setting (lo := 32) (by decide) (by omega)) | with_reducible apply State.setFld_onward | with_reducible apply State.raise_onward | with_reducible apply State.setPlan_onward | with_reducible apply State.nextReq_onward | with_reducible apply onward_ite | fail_if_no_progress with_reducible refine onward_mk ?_ rfl rfl rfl rfl rfl rfl rfl rfl rfl rfl rfl rfl rfl rfl | split | dsimp only

theorem execVreqTimeout_onward (h : s0.Onward kq kw s) {t : Nat} : ResOnward kq kw s0 (execVreqTimeout t s) := by
  unfold execVreqTimeout
  try dsimp only
  repeat' first | with_reducible assumption | with_reducible exact onward_fault | with_reducible exact onward_refused | with_reducible apply onward_next | with_reducible apply State.tick_onward | with_reducible apply State.vreqLost_onward | with_reducible apply onward_ite | split | dsimp only

theorem State.exceeded_onward (h : s0.Onward kq kw s) {die unit value limit : Nat} : s0.Onward kq kw (State.exceeded s die unit value limit) := by
  unfold State.exceeded
  try dsimp only
  repeat' first | with_reducible assumption | with_reducible apply State.raise_onward | with_reducible apply onward_ite | split | dsimp only

theorem State.setMon_onward (h : s0.Onward kq kw s) {die type index a b : Nat} : s0.Onward kq kw (State.setMon s die type index a b) := by
  unfold State.setMon
  try dsimp only
  repeat' first | with_reducible assumption | (show kq → _ ∉ settings; first | exact False.elim | (with_reducible assumption) | exact fun _ => by decide | exact fun _ => mapReg_not_setting _ | exact fun _ => (by unfold gcBusy; split <;> decide) | exact fun _ => not_setting (lo := 272) (by decide) (by omega) | exact fun _ => not_setting (lo := 88) (by decide) (by omega) | exact fun _ => not_setting (lo := 64) (by decide) (by omega) | exact fun _ => not_setting (lo := 96) (by decide) (by omega) | exact fun _ => (by rw [rowOf_id]; first | assumption | exact not_setting (lo := 64) (by decide) (by omega) | exact not_setting (lo := 272) (by decide) (by omega)) | exact fun _ => not_setting (lo := 32) (by decide) (by omega)) | with_reducible apply State.setReg_onward | with_reducible apply onward_ite | split | dsimp only

theorem State.measure_onward (h : s0.Onward kq kw s) {die pair drift refCount : Nat} : s0.Onward kq kw (State.measure s die pair drift refCount) := by
  unfold State.measure
  try dsimp only
  repeat' first | with_reducible assumption | with_reducible apply State.setMon_onward | with_reducible apply State.raise_onward | with_reducible apply State.exceeded_onward | with_reducible apply onward_ite | fail_if_no_progress with_reducible refine onward_mk ?_ rfl rfl rfl rfl rfl rfl rfl rfl rfl rfl rfl rfl rfl rfl | split | dsimp only

theorem execAgeMeasure_onward (h : s0.Onward kq kw s) {t die pair drift refCount : Nat} : ResOnward kq kw s0 (execAgeMeasure t die pair drift refCount s) := by
  unfold execAgeMeasure
  try dsimp only
  repeat' first | with_reducible assumption | with_reducible exact onward_fault | with_reducible exact onward_refused | with_reducible apply onward_next | with_reducible apply State.tick_onward | with_reducible apply State.measure_onward | with_reducible apply onward_ite | split | dsimp only

theorem State.eye_onward (h : s0.Onward kq kw s) {lane height width : Nat} : s0.Onward kq kw (State.eye s lane height width) := by
  unfold State.eye
  try dsimp only
  repeat' first | with_reducible assumption | with_reducible apply State.setMon_onward | with_reducible apply State.exceeded_onward | with_reducible apply onward_ite | split | dsimp only

theorem execLaneEyeMeasure_onward (h : s0.Onward kq kw s) {t lane height width : Nat} : ResOnward kq kw s0 (execLaneEyeMeasure t lane height width s) := by
  unfold execLaneEyeMeasure
  try dsimp only
  repeat' first | with_reducible assumption | with_reducible exact onward_fault | with_reducible exact onward_refused | with_reducible apply onward_next | with_reducible apply State.tick_onward | with_reducible apply State.eye_onward | with_reducible apply onward_ite | split | dsimp only

theorem execD2dLinkFault_onward (h : s0.Onward kq kw s) {t : Nat} {laneFailed : Bool} {lane : Nat} : ResOnward kq kw s0 (execD2dLinkFault t laneFailed lane s) := by
  unfold execD2dLinkFault
  try dsimp only
  repeat' first | with_reducible assumption | with_reducible exact onward_fault | with_reducible exact onward_refused | with_reducible apply onward_next | with_reducible apply State.tick_onward | with_reducible apply onward_ite | fail_if_no_progress with_reducible refine onward_mk ?_ rfl rfl rfl rfl rfl rfl rfl rfl rfl rfl rfl rfl rfl rfl | split | dsimp only

end Sys2Proof.Machine
end

