-- ==== Sys2Proof/Laws/OnwardSessions.lean ====
section
/-! SUPPORT. What the functions of Machine/Sessions.lean keep: each answers a state its argument may go on to. -/

namespace Sys2Proof.Machine

set_option linter.unusedTactic false
set_option linter.unreachableTactic false

variable {kq kw : Prop} {s0 s : State}

theorem State.accepted_onward (h : s0.Onward kq False s) {slot : Nat} {renew : Bool} : s0.Onward kq False (State.accepted s slot renew) := by
  unfold State.accepted
  try dsimp only
  repeat' first | with_reducible assumption | with_reducible apply State.setSess_onward | with_reducible apply onward_ite | fail_if_no_progress with_reducible refine onward_mkw ?_ rfl rfl rfl rfl rfl rfl rfl rfl | split | dsimp only

theorem State.addHeld_onward (h : s0.Onward kq False s) {slot : Nat} : s0.Onward kq False (State.addHeld s slot) := by
  unfold State.addHeld
  try dsimp only
  repeat' first | with_reducible assumption | with_reducible apply onward_ite | fail_if_no_progress with_reducible refine onward_mkw ?_ rfl rfl rfl rfl rfl rfl rfl rfl | split | dsimp only

theorem State.sesEvent_onward (h : s0.Onward kq kw s) {slot sub : Nat} {alert : Bool} {a1 a2 a3 : Nat} : s0.Onward kq kw (State.sesEvent s slot sub alert a1 a2 a3) := by
  unfold State.sesEvent
  try dsimp only
  repeat' first | with_reducible assumption | with_reducible apply State.raise_onward | with_reducible apply onward_ite | split | dsimp only

theorem State.ownerChange_onward (h : s0.Onward kq kw s) {slot : Nat} : s0.Onward kq kw (State.ownerChange s slot) := by
  unfold State.ownerChange
  try dsimp only
  repeat' first | with_reducible assumption | intro _ | with_reducible apply State.raise_onward | with_reducible apply State.eventFrame_onward | with_reducible apply onward_ite | split | dsimp only

theorem State.cancelTrigs_onward (h : s0.Onward kq False s) {slot : Nat} : s0.Onward kq False (State.cancelTrigs s slot) := by
  unfold State.cancelTrigs
  try dsimp only
  repeat' first | with_reducible assumption | intro _ | with_reducible apply State.promotingTest_onward | with_reducible apply onward_ite | fail_if_no_progress with_reducible refine onward_mkw ?_ rfl rfl rfl rfl rfl rfl rfl rfl | split | dsimp only

theorem State.queueCold_onward (h : s0.Onward kq False s) {slot : Nat} : s0.Onward kq False (State.queueCold s slot) := by
  unfold State.queueCold
  try dsimp only
  repeat' first | with_reducible assumption | intro _ | with_reducible apply onward_ite | fail_if_no_progress with_reducible refine onward_mkw ?_ rfl rfl rfl rfl rfl rfl rfl rfl | split | dsimp only

theorem State.sesDone_onward (h : s0.Onward kq kw s) {e : Env} {type slot : Nat} : s0.Onward kq kw (State.sesDone s e type slot) := by
  unfold State.sesDone
  try dsimp only
  repeat' first | with_reducible assumption | with_reducible apply State.answer_onward | with_reducible apply onward_ite | split | dsimp only

theorem State.openApply_onward (h : s0.Onward kq False s) {e : Env} {m : OpenMsg} {slot : Nat} : s0.Onward kq False (State.openApply s e m slot) := by
  unfold State.openApply
  try dsimp only
  repeat' first | with_reducible assumption | (show kq → _ ∉ settings; first | exact False.elim | (with_reducible assumption) | exact fun _ => by decide | exact fun _ => mapReg_not_setting _ | exact fun _ => (by unfold gcBusy; split <;> decide) | exact fun _ => not_setting (lo := 272) (by decide) (by omega) | exact fun _ => not_setting (lo := 88) (by decide) (by omega) | exact fun _ => not_setting (lo := 64) (by decide) (by omega) | exact fun _ => not_setting (lo := 96) (by decide) (by omega) | exact fun _ => (by rw [rowOf_id]; first | assumption | exact not_setting (lo := 64) (by decide) (by omega) | exact not_setting (lo := 272) (by decide) (by omega)) | exact fun _ => not_setting (lo := 32) (by decide) (by omega)) | with_reducible apply State.bump_onward | with_reducible apply State.setSess_onward | with_reducible apply State.alloc_onward | with_reducible apply State.putStaging_onward | with_reducible apply State.nextFree_onward | with_reducible apply State.putArea_onward | with_reducible apply onward_ite | fail_if_no_progress with_reducible refine onward_mkw ?_ rfl rfl rfl rfl rfl rfl rfl rfl | split | dsimp only

theorem State.openBody_onward (h : s0.Onward kq False s) {e : Env} {m : OpenMsg} : s0.Onward kq False (State.openBody s e m) := by
  unfold State.openBody
  try dsimp only
  repeat' first | with_reducible assumption | (show kq → _ ∉ settings; first | exact False.elim | (with_reducible assumption) | exact fun _ => by decide | exact fun _ => mapReg_not_setting _ | exact fun _ => (by unfold gcBusy; split <;> decide) | exact fun _ => not_setting (lo := 272) (by decide) (by omega) | exact fun _ => not_setting (lo := 88) (by decide) (by omega) | exact fun _ => not_setting (lo := 64) (by decide) (by omega) | exact fun _ => not_setting (lo := 96) (by decide) (by omega) | exact fun _ => (by rw [rowOf_id]; first | assumption | exact not_setting (lo := 64) (by decide) (by omega) | exact not_setting (lo := 272) (by decide) (by omega)) | exact fun _ => not_setting (lo := 32) (by decide) (by omega)) | with_reducible apply State.bump_onward | with_reducible apply State.answer_onward | with_reducible apply State.countOutcome_onward | with_reducible apply State.noteMismatch_onward | with_reducible apply State.openApply_onward | with_reducible apply State.sesDone_onward | with_reducible apply onward_ite | fail_if_no_progress with_reducible refine onward_mkw ?_ rfl rfl rfl rfl rfl rfl rfl rfl | split | dsimp only

theorem execSessionOpen_onward (h : s0.Onward kq False s) {e : Env} {m : OpenMsg} : ResOnward kq False s0 (execSessionOpen e m s) := by
  unfold execSessionOpen
  try dsimp only
  repeat' first | with_reducible assumption | intro _ | with_reducible exact onward_fault | with_reducible exact onward_refused | with_reducible apply onward_next | with_reducible apply State.message_onward | with_reducible apply State.openBody_onward | with_reducible apply onward_ite | split | dsimp only

theorem State.sesMessage_onward (h : s0.Onward kq False s) {e : Env} {c : Instr} {type : Nat} {m : SesMsg} {check : State → Option Refuse}
    {apply : State → State} (ha : ∀ s, s0.Onward kq False s → s0.Onward kq False (apply s)) : s0.Onward kq False (State.sesMessage s e c type m check apply) := by
  unfold State.sesMessage
  refine State.message_onward h (fun s h => ?_)
  split
  · exact State.sesRefuse_onward (onward_ite (State.bump_onward h (fun _ => by decide)) h)
  · exact ha s h

theorem State.freeze_onward (h : s0.Onward kq False s) {e : Env} {slot : Nat} : s0.Onward kq False (State.freeze s e slot) := by
  unfold State.freeze
  try dsimp only
  repeat' first | with_reducible assumption | with_reducible apply State.setSess_onward | with_reducible apply State.endEpoch_onward | with_reducible apply State.addHeld_onward | with_reducible apply State.sesEvent_onward | with_reducible apply onward_ite | fail_if_no_progress with_reducible refine onward_mkw ?_ rfl rfl rfl rfl rfl rfl rfl rfl | split | dsimp only

theorem State.handTo_onward (h : s0.Onward kq False s) {e : Env} {slot newOwner leaseSteps : Nat} : s0.Onward kq False (State.handTo s e slot newOwner leaseSteps) := by
  unfold State.handTo
  try dsimp only
  repeat' first | with_reducible assumption | with_reducible apply State.setSess_onward | with_reducible apply State.endEpoch_onward | with_reducible apply State.sesEvent_onward | with_reducible apply State.ownerChange_onward | with_reducible apply onward_ite | fail_if_no_progress with_reducible refine onward_mkw ?_ rfl rfl rfl rfl rfl rfl rfl rfl | split | dsimp only

theorem State.handoverApply_onward (h : s0.Onward kq False s) {e : Env} {m : SesMsg} : s0.Onward kq False (State.handoverApply s e m) := by
  unfold State.handoverApply
  try dsimp only
  repeat' first | with_reducible assumption | with_reducible apply State.freeze_onward | with_reducible apply State.handTo_onward | with_reducible apply State.sesDone_onward | with_reducible apply onward_ite | split | dsimp only

theorem execHandover_onward (h : s0.Onward kq False s) {e : Env} {m : SesMsg} : ResOnward kq False s0 (execHandover e m s) := by
  unfold execHandover
  try dsimp only
  repeat' first | with_reducible assumption | intro _ | with_reducible exact onward_fault | with_reducible exact onward_refused | with_reducible apply onward_next | with_reducible apply State.sesMessage_onward | with_reducible apply State.handoverApply_onward | with_reducible apply onward_ite | split | dsimp only

theorem State.renewApply_onward (h : s0.Onward kq False s) {e : Env} {m : SesMsg} : s0.Onward kq False (State.renewApply s e m) := by
  unfold State.renewApply
  try dsimp only
  repeat' first | with_reducible assumption | with_reducible apply State.setSess_onward | with_reducible apply State.accepted_onward | with_reducible apply State.sesDone_onward | with_reducible apply onward_ite | fail_if_no_progress with_reducible refine onward_mkw ?_ rfl rfl rfl rfl rfl rfl rfl rfl | split | dsimp only

theorem execLeaseRenew_onward (h : s0.Onward kq False s) {e : Env} {m : SesMsg} : ResOnward kq False s0 (execLeaseRenew e m s) := by
  unfold execLeaseRenew
  try dsimp only
  repeat' first | with_reducible assumption | intro _ | with_reducible exact onward_fault | with_reducible exact onward_refused | with_reducible apply onward_next | with_reducible apply State.sesMessage_onward | with_reducible apply State.renewApply_onward | with_reducible apply onward_ite | split | dsimp only

theorem State.parkApply_onward (h : s0.Onward kq False s) {e : Env} {m : SesMsg} : s0.Onward kq False (State.parkApply s e m) := by
  unfold State.parkApply
  try dsimp only
  repeat' first | with_reducible assumption | with_reducible apply State.setSess_onward | with_reducible apply State.endEpoch_onward | with_reducible apply State.cancelTrigs_onward | with_reducible apply State.sesEvent_onward | with_reducible apply State.queueCold_onward | with_reducible apply State.dormantTest_onward | with_reducible apply State.sesDone_onward | with_reducible apply onward_ite | fail_if_no_progress with_reducible refine onward_mkw ?_ rfl rfl rfl rfl rfl rfl rfl rfl | split | dsimp only

theorem execPark_onward (h : s0.Onward kq False s) {e : Env} {m : SesMsg} : ResOnward kq False s0 (execPark e m s) := by
  unfold execPark
  try dsimp only
  repeat' first | with_reducible assumption | intro _ | with_reducible exact onward_fault | with_reducible exact onward_refused | with_reducible apply onward_next | with_reducible apply State.sesMessage_onward | with_reducible apply State.parkApply_onward | with_reducible apply onward_ite | split | dsimp only

theorem State.wakeApply_onward (h : s0.Onward kq False s) {e : Env} {m : SesMsg} : s0.Onward kq False (State.wakeApply s e m) := by
  unfold State.wakeApply
  try dsimp only
  repeat' first | with_reducible assumption | intro _ | with_reducible apply State.setSess_onward | with_reducible apply State.endEpoch_onward | with_reducible apply State.alloc_onward | with_reducible apply State.scheduleWake_onward | with_reducible apply State.promotingTest_onward | with_reducible apply State.ownerChange_onward | with_reducible apply State.sesDone_onward | with_reducible apply onward_ite | fail_if_no_progress with_reducible refine onward_mkw ?_ rfl rfl rfl rfl rfl rfl rfl rfl | split | dsimp only

theorem execWake_onward (h : s0.Onward kq False s) {e : Env} {m : SesMsg} : ResOnward kq False s0 (execWake e m s) := by
  unfold execWake
  try dsimp only
  repeat' first | with_reducible assumption | intro _ | with_reducible exact onward_fault | with_reducible exact onward_refused | with_reducible apply onward_next | with_reducible apply State.sesMessage_onward | with_reducible apply State.wakeApply_onward | with_reducible apply onward_ite | split | dsimp only

theorem State.unrefGram_onward (h : s0.Onward kq False s) {die id : Nat} : s0.Onward kq False (State.unrefGram s die id) := by
  unfold State.unrefGram
  try dsimp only
  repeat' first | with_reducible assumption | with_reducible apply onward_ite | fail_if_no_progress with_reducible refine onward_mkw ?_ rfl rfl rfl rfl rfl rfl rfl rfl | split | dsimp only

theorem State.dropWork_onward (h : s0.Onward kq False s) {slot : Nat} : s0.Onward kq False (State.dropWork s slot) := by
  unfold State.dropWork
  try dsimp only
  repeat' first | with_reducible assumption | intro _ | with_reducible apply State.dealloc_onward | with_reducible apply State.releaseT2_onward | with_reducible apply onward_ite | fail_if_no_progress with_reducible refine onward_mkw ?_ rfl rfl rfl rfl rfl rfl rfl rfl | split | dsimp only

theorem State.closeRecord_onward (h : s0.Onward kq False s) {slot : Nat} : s0.Onward kq False (State.closeRecord s slot) := by
  unfold State.closeRecord
  try dsimp only
  repeat' first | with_reducible assumption | (show kq → _ ∉ settings; first | exact False.elim | (with_reducible assumption) | exact fun _ => by decide | exact fun _ => mapReg_not_setting _ | exact fun _ => (by unfold gcBusy; split <;> decide) | exact fun _ => not_setting (lo := 272) (by decide) (by omega) | exact fun _ => not_setting (lo := 88) (by decide) (by omega) | exact fun _ => not_setting (lo := 64) (by decide) (by omega) | exact fun _ => not_setting (lo := 96) (by decide) (by omega) | exact fun _ => (by rw [rowOf_id]; first | assumption | exact not_setting (lo := 64) (by decide) (by omega) | exact not_setting (lo := 272) (by decide) (by omega)) | exact fun _ => not_setting (lo := 32) (by decide) (by omega)) | with_reducible apply State.setSess_onward | with_reducible apply State.bump_onward | with_reducible apply State.raise_onward | with_reducible apply onward_ite | fail_if_no_progress with_reducible refine onward_mkw ?_ rfl rfl rfl rfl rfl rfl rfl rfl | split | dsimp only

theorem State.closeApply_onward (h : s0.Onward kq False s) {e : Env} {m : SesMsg} : s0.Onward kq False (State.closeApply s e m) := by
  unfold State.closeApply
  try dsimp only
  repeat' first | with_reducible assumption | (show kq → _ ∉ settings; first | exact False.elim | (with_reducible assumption) | exact fun _ => by decide | exact fun _ => mapReg_not_setting _ | exact fun _ => (by unfold gcBusy; split <;> decide) | exact fun _ => not_setting (lo := 272) (by decide) (by omega) | exact fun _ => not_setting (lo := 88) (by decide) (by omega) | exact fun _ => not_setting (lo := 64) (by decide) (by omega) | exact fun _ => not_setting (lo := 96) (by decide) (by omega) | exact fun _ => (by rw [rowOf_id]; first | assumption | exact not_setting (lo := 64) (by decide) (by omega) | exact not_setting (lo := 272) (by decide) (by omega)) | exact fun _ => not_setting (lo := 32) (by decide) (by omega)) | intro _ | with_reducible apply State.dropResults_onward | with_reducible apply State.freePage_onward | with_reducible apply State.dropWork_onward | with_reducible apply State.unrefGram_onward | with_reducible apply State.sesEvent_onward | with_reducible apply State.closeRecord_onward | with_reducible apply State.lower_onward | with_reducible apply State.nextFree_onward | with_reducible apply State.queueScrub_onward | with_reducible apply State.answer_onward | with_reducible apply onward_ite | with_reducible apply onward_foldl | fail_if_no_progress with_reducible refine onward_mkw ?_ rfl rfl rfl rfl rfl rfl rfl rfl | split | dsimp only

theorem execSessionClose_onward (h : s0.Onward kq False s) {e : Env} {m : SesMsg} : ResOnward kq False s0 (execSessionClose e m s) := by
  unfold execSessionClose
  try dsimp only
  repeat' first | with_reducible assumption | intro _ | with_reducible exact onward_fault | with_reducible exact onward_refused | with_reducible apply onward_next | with_reducible apply State.sesMessage_onward | with_reducible apply State.closeApply_onward | with_reducible apply onward_ite | split | dsimp only

theorem State.expire_onward (h : s0.Onward kq False s) {slot : Nat} : s0.Onward kq False (State.expire s slot) := by
  unfold State.expire
  try dsimp only
  repeat' first | with_reducible assumption | (show kq → _ ∉ settings; first | exact False.elim | (with_reducible assumption) | exact fun _ => by decide | exact fun _ => mapReg_not_setting _ | exact fun _ => (by unfold gcBusy; split <;> decide) | exact fun _ => not_setting (lo := 272) (by decide) (by omega) | exact fun _ => not_setting (lo := 88) (by decide) (by omega) | exact fun _ => not_setting (lo := 64) (by decide) (by omega) | exact fun _ => not_setting (lo := 96) (by decide) (by omega) | exact fun _ => (by rw [rowOf_id]; first | assumption | exact not_setting (lo := 64) (by decide) (by omega) | exact not_setting (lo := 272) (by decide) (by omega)) | exact fun _ => not_setting (lo := 32) (by decide) (by omega)) | with_reducible apply State.setSess_onward | with_reducible apply State.endEpoch_onward | with_reducible apply State.addHeld_onward | with_reducible apply State.bump_onward | with_reducible apply State.sesEvent_onward | with_reducible apply onward_ite | fail_if_no_progress with_reducible refine onward_mkw ?_ rfl rfl rfl rfl rfl rfl rfl rfl | split | dsimp only

theorem State.expireAll_onward (h : s0.Onward kq False s) : s0.Onward kq False (State.expireAll s) := by
  unfold State.expireAll
  try dsimp only
  repeat' first | with_reducible assumption | intro _ | with_reducible apply State.expire_onward | with_reducible apply onward_ite | with_reducible apply onward_foldl | split | dsimp only

theorem execLeaseExpiry_onward (h : s0.Onward kq False s) {t slot : Nat} : ResOnward kq False s0 (execLeaseExpiry t slot s) := by
  unfold execLeaseExpiry
  try dsimp only
  repeat' first | with_reducible assumption | with_reducible exact onward_fault | with_reducible exact onward_refused | with_reducible apply onward_next | with_reducible apply State.tick_onward | with_reducible apply State.expire_onward | with_reducible apply onward_ite | split | dsimp only

end Sys2Proof.Machine
end

