-- ==== Sys2Proof/Laws/OnwardTriggers.lean ====
section
/-! SUPPORT. What the functions of Machine/Triggers.lean keep: each answers a state its argument may go on to. -/

namespace Sys2Proof.Machine

set_option linter.unusedTactic false
set_option linter.unreachableTactic false

variable {kq kw : Prop} {s0 s : State}

theorem State.pickAll_onward (h : s0.Onward kq kw s) : s0.Onward kq kw (State.pickAll s) := by
  unfold State.pickAll
  try dsimp only
  repeat' first | with_reducible assumption | intro _ | with_reducible apply State.pick_onward | with_reducible apply onward_ite | with_reducible apply onward_foldl | split | dsimp only

theorem State.pumpAll_onward (h : s0.Onward kq False s) : s0.Onward kq False (State.pumpAll s) := by
  unfold State.pumpAll
  try dsimp only
  repeat' first | with_reducible assumption | intro _ | with_reducible apply State.pump_onward | with_reducible apply State.runPromos_onward | with_reducible apply onward_ite | with_reducible apply onward_foldl | split | dsimp only

theorem State.overrun_onward (h : s0.Onward kq kw s) {p : Nat} {was : List Nat} : s0.Onward kq kw (State.overrun s p was) := by
  unfold State.overrun
  try dsimp only
  repeat' first | with_reducible assumption | (show kq → _ ∉ settings; first | exact False.elim | (with_reducible assumption) | exact fun _ => by decide | exact fun _ => mapReg_not_setting _ | exact fun _ => (by unfold gcBusy; split <;> decide) | exact fun _ => not_setting (lo := 272) (by decide) (by omega) | exact fun _ => not_setting (lo := 88) (by decide) (by omega) | exact fun _ => not_setting (lo := 64) (by decide) (by omega) | exact fun _ => not_setting (lo := 96) (by decide) (by omega) | exact fun _ => (by rw [rowOf_id]; first | assumption | exact not_setting (lo := 64) (by decide) (by omega) | exact not_setting (lo := 272) (by decide) (by omega)) | exact fun _ => not_setting (lo := 32) (by decide) (by omega)) | with_reducible apply State.bump_onward | with_reducible apply State.setPort_onward | with_reducible apply State.raise_onward | with_reducible apply onward_ite | fail_if_no_progress with_reducible refine onward_mk ?_ rfl rfl rfl rfl rfl rfl rfl rfl rfl rfl rfl rfl rfl rfl | split | dsimp only

theorem State.openGate_onward (h : s0.Onward kq False s) {p i y : Nat} : s0.Onward kq False (State.openGate s p i y) := by
  unfold State.openGate
  try dsimp only
  repeat' first | with_reducible assumption | with_reducible apply State.settle_onward | with_reducible apply State.setPort_onward | with_reducible apply State.overrun_onward | with_reducible apply State.carry_onward | with_reducible apply onward_ite | fail_if_no_progress with_reducible refine onward_mkw ?_ rfl rfl rfl rfl rfl rfl rfl rfl | split | dsimp only

theorem State.closeGate_onward (h : s0.Onward kq False s) {p i y : Nat} : s0.Onward kq False (State.closeGate s p i y) := by
  unfold State.closeGate
  try dsimp only
  repeat' first | with_reducible assumption | intro _ | with_reducible apply State.settle_onward | with_reducible apply State.setPort_onward | with_reducible apply State.overrun_onward | with_reducible apply State.missClose_onward | with_reducible apply State.countSplit_onward | with_reducible apply onward_ite | fail_if_no_progress with_reducible refine onward_mkw ?_ rfl rfl rfl rfl rfl rfl rfl rfl | split | dsimp only

theorem State.swapGates_onward (h : s0.Onward kq False s) {p : Nat} : s0.Onward kq False (State.swapGates s p) := by
  unfold State.swapGates
  try dsimp only
  repeat' first | with_reducible assumption | (show kq → _ ∉ settings; first | exact False.elim | (with_reducible assumption) | exact fun _ => by decide | exact fun _ => mapReg_not_setting _ | exact fun _ => (by unfold gcBusy; split <;> decide) | exact fun _ => not_setting (lo := 272) (by decide) (by omega) | exact fun _ => not_setting (lo := 88) (by decide) (by omega) | exact fun _ => not_setting (lo := 64) (by decide) (by omega) | exact fun _ => not_setting (lo := 96) (by decide) (by omega) | exact fun _ => (by rw [rowOf_id]; first | assumption | exact not_setting (lo := 64) (by decide) (by omega) | exact not_setting (lo := 272) (by decide) (by omega)) | exact fun _ => not_setting (lo := 32) (by decide) (by omega)) | intro _ | with_reducible apply State.closeGate_onward | with_reducible apply State.setReg_onward | with_reducible apply State.setFld_onward | with_reducible apply State.setPort_onward | with_reducible apply State.raise_onward | with_reducible apply onward_ite | with_reducible apply onward_foldl | fail_if_no_progress with_reducible refine onward_mkw ?_ rfl rfl rfl rfl rfl rfl rfl rfl | split | dsimp only

theorem State.newLeads_onward (h : s0.Onward kq kw s) : s0.Onward kq kw (State.newLeads s) := by
  unfold State.newLeads
  try dsimp only
  repeat' first | with_reducible assumption | (show kq → _ ∉ settings; first | exact False.elim | (with_reducible assumption) | exact fun _ => by decide | exact fun _ => mapReg_not_setting _ | exact fun _ => (by unfold gcBusy; split <;> decide) | exact fun _ => not_setting (lo := 272) (by decide) (by omega) | exact fun _ => not_setting (lo := 88) (by decide) (by omega) | exact fun _ => not_setting (lo := 64) (by decide) (by omega) | exact fun _ => not_setting (lo := 96) (by decide) (by omega) | exact fun _ => (by rw [rowOf_id]; first | assumption | exact not_setting (lo := 64) (by decide) (by omega) | exact not_setting (lo := 272) (by decide) (by omega)) | exact fun _ => not_setting (lo := 32) (by decide) (by omega)) | intro _ | with_reducible apply State.setFld_onward | with_reducible apply onward_ite | split | dsimp only

theorem State.lockTest_onward (h : s0.Onward kq False s) : s0.Onward kq False (State.lockTest s) := by
  unfold State.lockTest
  try dsimp only
  repeat' first | with_reducible assumption | with_reducible apply onward_ite | fail_if_no_progress with_reducible refine onward_mkw ?_ rfl rfl rfl rfl rfl rfl rfl rfl | split | dsimp only

theorem State.markOver_onward (h : s0.Onward kq kw s) : s0.Onward kq kw (State.markOver s) := by
  unfold State.markOver
  try dsimp only
  repeat' first | with_reducible assumption | intro _ | with_reducible apply onward_ite | fail_if_no_progress with_reducible refine onward_mk ?_ rfl rfl rfl rfl rfl rfl rfl rfl rfl rfl rfl rfl rfl rfl | split | dsimp only

theorem State.dropOldSteps_onward (h : s0.Onward kq False s) : s0.Onward kq False (State.dropOldSteps s) := by
  unfold State.dropOldSteps
  try dsimp only
  repeat' first | with_reducible assumption | intro _ | with_reducible apply onward_ite | fail_if_no_progress with_reducible refine onward_mkw ?_ rfl rfl rfl rfl rfl rfl rfl rfl | split | dsimp only

theorem State.bookkeep_onward (h : s0.Onward kq False s) : s0.Onward kq False (State.bookkeep s) := by
  unfold State.bookkeep
  try dsimp only
  repeat' first | with_reducible assumption | (show kq → _ ∉ settings; first | exact False.elim | (with_reducible assumption) | exact fun _ => by decide | exact fun _ => mapReg_not_setting _ | exact fun _ => (by unfold gcBusy; split <;> decide) | exact fun _ => not_setting (lo := 272) (by decide) (by omega) | exact fun _ => not_setting (lo := 88) (by decide) (by omega) | exact fun _ => not_setting (lo := 64) (by decide) (by omega) | exact fun _ => not_setting (lo := 96) (by decide) (by omega) | exact fun _ => (by rw [rowOf_id]; first | assumption | exact not_setting (lo := 64) (by decide) (by omega) | exact not_setting (lo := 272) (by decide) (by omega)) | exact fun _ => not_setting (lo := 32) (by decide) (by omega)) | with_reducible apply State.remapAll_onward | with_reducible apply State.endLimitStep_onward | with_reducible apply State.setFld_onward | with_reducible apply State.expireAll_onward | with_reducible apply State.lockTest_onward | with_reducible apply State.newLeads_onward | with_reducible apply State.markOver_onward | with_reducible apply State.releaseDue_onward | with_reducible apply State.dropOldSteps_onward | with_reducible apply State.beginPlan_onward | with_reducible apply State.evictTest_onward | with_reducible apply onward_ite | fail_if_no_progress with_reducible refine onward_mkw ?_ rfl rfl rfl rfl rfl rfl rfl rfl | split | dsimp only

theorem State.fireEv_onward (h : s0.Onward kq False s) {x0 : TrigEv} : s0.Onward kq False (State.fireEv s x0) := by
  unfold State.fireEv
  try dsimp only
  repeat' first | with_reducible assumption | with_reducible apply State.closeGate_onward | with_reducible apply State.openGate_onward | with_reducible apply State.fireTrig_onward | with_reducible apply State.firePrefetch_onward | with_reducible apply onward_ite | split | dsimp only

theorem State.fireSpan_onward (h : s0.Onward kq False s) {a b now : Nat} : s0.Onward kq False (State.fireSpan s a b now) := by
  unfold State.fireSpan
  try dsimp only
  repeat' first | with_reducible assumption | intro _ | with_reducible apply State.fireEv_onward | with_reducible apply onward_ite | with_reducible apply onward_foldl | fail_if_no_progress with_reducible refine onward_mkw ?_ rfl rfl rfl rfl rfl rfl rfl rfl | split | dsimp only

theorem State.boundaryAt_onward (h : s0.Onward kq False s) {steps : List Nat} : s0.Onward kq False (State.boundaryAt s steps) := by
  unfold State.boundaryAt
  try dsimp only
  repeat' first | with_reducible assumption | intro _ | with_reducible apply State.bookkeep_onward | with_reducible apply State.ckptTick_onward | with_reducible apply State.swapGates_onward | with_reducible apply onward_ite | with_reducible apply onward_foldl | fail_if_no_progress with_reducible refine onward_mkw ?_ rfl rfl rfl rfl rfl rfl rfl rfl | split | dsimp only

theorem State.walkBoundaries_onward (h : s0.Onward kq False s) {now : Nat} {l : List Nat} {a : Nat} :
    s0.Onward kq False (State.walkBoundaries s now l a) := by
  induction l generalizing s a with
  | nil => exact State.fireSpan_onward h
  | cons x l ih => exact ih (State.boundaryAt_onward (onward_ite (State.fireSpan_onward h) h))

theorem State.fireDue_onward (h : s0.Onward kq False s) {jump : Bool} : s0.Onward kq False (State.fireDue s jump) := by
  unfold State.fireDue
  try dsimp only
  repeat' first | with_reducible assumption | intro _ | with_reducible apply State.fireSpan_onward | with_reducible apply State.boundaryAt_onward | with_reducible apply State.walkBoundaries_onward | with_reducible apply State.lateSweep_onward | with_reducible apply State.countLate_onward | with_reducible apply State.releaseCopies_onward | with_reducible apply State.cutDue_onward | with_reducible apply State.pumpAll_onward | with_reducible apply State.pickAll_onward | with_reducible apply State.formResults_onward | with_reducible apply onward_ite | with_reducible apply onward_foldl | fail_if_no_progress with_reducible refine onward_mkw ?_ rfl rfl rfl rfl rfl rfl rfl rfl | split | dsimp only

end Sys2Proof.Machine
end

