-- ==== Sys2Proof/Laws/OnwardBeacon.lean ====
section
/-! SUPPORT. What the functions of Machine/Beacon.lean keep: each answers a state its argument may go on to. -/

namespace Sys2Proof.Machine

set_option linter.unusedTactic false
set_option linter.unreachableTactic false

variable {kq kw : Prop} {s0 s : State}

theorem State.setBcn_onward (h : s0.Onward kq False s) {b : Beacon} : s0.Onward kq False (State.setBcn s b) := by
  unfold State.setBcn
  try dsimp only
  repeat' first | with_reducible assumption | with_reducible apply onward_ite | fail_if_no_progress with_reducible refine onward_mkw ?_ rfl rfl rfl rfl rfl rfl rfl rfl | split | dsimp only

theorem State.coast_onward (h : s0.Onward kq False s) : s0.Onward kq False (State.coast s) := by
  unfold State.coast
  try dsimp only
  repeat' first | with_reducible assumption | with_reducible apply State.setBcn_onward | with_reducible apply State.raise_onward | with_reducible apply State.fireDue_onward | with_reducible apply onward_ite | fail_if_no_progress with_reducible refine onward_mkw ?_ rfl rfl rfl rfl rfl rfl rfl rfl | split | dsimp only

theorem State.lose_onward (h : s0.Onward kq False s) : s0.Onward kq False (State.lose s) := by
  unfold State.lose
  try dsimp only
  repeat' first | with_reducible assumption | with_reducible apply State.setBcn_onward | with_reducible apply State.raise_onward | with_reducible apply State.withdrawAll_onward | with_reducible apply State.remapIdle_onward | with_reducible apply State.beginPlan_onward | with_reducible apply State.cutDue_onward | with_reducible apply State.pickAll_onward | with_reducible apply onward_ite | fail_if_no_progress with_reducible refine onward_mkw ?_ rfl rfl rfl rfl rfl rfl rfl rfl | split | dsimp only

theorem State.unphase_onward (h : s0.Onward kq False s) : s0.Onward kq False (State.unphase s) := by
  unfold State.unphase
  try dsimp only
  repeat' first | with_reducible assumption | with_reducible apply State.setBcn_onward | with_reducible apply State.withdrawAll_onward | with_reducible apply State.remapIdle_onward | with_reducible apply State.beginPlan_onward | with_reducible apply State.cutDue_onward | with_reducible apply State.pickAll_onward | with_reducible apply onward_ite | fail_if_no_progress with_reducible refine onward_mkw ?_ rfl rfl rfl rfl rfl rfl rfl rfl | split | dsimp only

theorem State.noteHist_onward (h : s0.Onward kq False s) {w : BWord} : s0.Onward kq False (State.noteHist s w) := by
  unfold State.noteHist
  try dsimp only
  repeat' first | with_reducible assumption | with_reducible apply State.setBcn_onward | with_reducible apply State.addRec_onward | with_reducible apply onward_ite | fail_if_no_progress with_reducible refine onward_mkw ?_ rfl rfl rfl rfl rfl rfl rfl rfl | split | dsimp only

theorem State.returnTest_onward (h : s0.Onward kq False s) {w : BWord} : s0.Onward kq False (State.returnTest s w) := by
  unfold State.returnTest
  try dsimp only
  repeat' first | with_reducible assumption | with_reducible apply State.setBcn_onward | with_reducible apply State.raise_onward | with_reducible apply onward_ite | fail_if_no_progress with_reducible refine onward_mkw ?_ rfl rfl rfl rfl rfl rfl rfl rfl | split | dsimp only

theorem State.acceptWord_onward (h : s0.Onward kq False s) {w : BWord} {jump : Bool} : s0.Onward kq False (State.acceptWord s w jump) := by
  unfold State.acceptWord
  try dsimp only
  repeat' first | with_reducible assumption | (show kq → _ ∉ settings; first | exact False.elim | (with_reducible assumption) | exact fun _ => by decide | exact fun _ => mapReg_not_setting _ | exact fun _ => (by unfold gcBusy; split <;> decide) | exact fun _ => not_setting (lo := 272) (by decide) (by omega) | exact fun _ => not_setting (lo := 88) (by decide) (by omega) | exact fun _ => not_setting (lo := 64) (by decide) (by omega) | exact fun _ => not_setting (lo := 96) (by decide) (by omega) | exact fun _ => (by rw [rowOf_id]; first | assumption | exact not_setting (lo := 64) (by decide) (by omega) | exact not_setting (lo := 272) (by decide) (by omega)) | exact fun _ => not_setting (lo := 32) (by decide) (by omega)) | with_reducible apply State.setBcn_onward | with_reducible apply State.setReg_onward | with_reducible apply State.noteHist_onward | with_reducible apply State.newLeads_onward | with_reducible apply State.raise_onward | with_reducible apply State.returnTest_onward | with_reducible apply State.fireDue_onward | with_reducible apply onward_ite | fail_if_no_progress with_reducible refine onward_mkw ?_ rfl rfl rfl rfl rfl rfl rfl rfl | split | dsimp only

theorem State.backward_onward (h : s0.Onward kq False s) : s0.Onward kq False (State.backward s) := by
  unfold State.backward
  try dsimp only
  repeat' first | with_reducible assumption | (show kq → _ ∉ settings; first | exact False.elim | (with_reducible assumption) | exact fun _ => by decide | exact fun _ => mapReg_not_setting _ | exact fun _ => (by unfold gcBusy; split <;> decide) | exact fun _ => not_setting (lo := 272) (by decide) (by omega) | exact fun _ => not_setting (lo := 88) (by decide) (by omega) | exact fun _ => not_setting (lo := 64) (by decide) (by omega) | exact fun _ => not_setting (lo := 96) (by decide) (by omega) | exact fun _ => (by rw [rowOf_id]; first | assumption | exact not_setting (lo := 64) (by decide) (by omega) | exact not_setting (lo := 272) (by decide) (by omega)) | exact fun _ => not_setting (lo := 32) (by decide) (by omega)) | with_reducible apply State.setBcn_onward | with_reducible apply State.bump_onward | with_reducible apply State.raiseOnce_onward | with_reducible apply onward_ite | fail_if_no_progress with_reducible refine onward_mkw ?_ rfl rfl rfl rfl rfl rfl rfl rfl | split | dsimp only

theorem State.testWord_onward (h : s0.Onward kq False s) {w : BWord} : s0.Onward kq False (State.testWord s w) := by
  unfold State.testWord
  try dsimp only
  repeat' first | with_reducible assumption | with_reducible apply State.backward_onward | with_reducible apply State.acceptWord_onward | with_reducible apply State.setBcn_onward | with_reducible apply onward_ite | fail_if_no_progress with_reducible refine onward_mkw ?_ rfl rfl rfl rfl rfl rfl rfl rfl | split | dsimp only

theorem State.takeWord_onward (h : s0.Onward kq False s) {w : BWord} : s0.Onward kq False (State.takeWord s w) := by
  unfold State.takeWord
  try dsimp only
  repeat' first | with_reducible assumption | (show kq → _ ∉ settings; first | exact False.elim | (with_reducible assumption) | exact fun _ => by decide | exact fun _ => mapReg_not_setting _ | exact fun _ => (by unfold gcBusy; split <;> decide) | exact fun _ => not_setting (lo := 272) (by decide) (by omega) | exact fun _ => not_setting (lo := 88) (by decide) (by omega) | exact fun _ => not_setting (lo := 64) (by decide) (by omega) | exact fun _ => not_setting (lo := 96) (by decide) (by omega) | exact fun _ => (by rw [rowOf_id]; first | assumption | exact not_setting (lo := 64) (by decide) (by omega) | exact not_setting (lo := 272) (by decide) (by omega)) | exact fun _ => not_setting (lo := 32) (by decide) (by omega)) | with_reducible apply State.acceptWord_onward | with_reducible apply State.testWord_onward | with_reducible apply State.setBcn_onward | with_reducible apply State.bump_onward | with_reducible apply onward_ite | fail_if_no_progress with_reducible refine onward_mkw ?_ rfl rfl rfl rfl rfl rfl rfl rfl | split | dsimp only

theorem State.compareWord_onward (h : s0.Onward kq kw s) {w : BWord} : s0.Onward kq kw (State.compareWord s w) := by
  unfold State.compareWord
  try dsimp only
  repeat' first | with_reducible assumption | (show kq → _ ∉ settings; first | exact False.elim | (with_reducible assumption) | exact fun _ => by decide | exact fun _ => mapReg_not_setting _ | exact fun _ => (by unfold gcBusy; split <;> decide) | exact fun _ => not_setting (lo := 272) (by decide) (by omega) | exact fun _ => not_setting (lo := 88) (by decide) (by omega) | exact fun _ => not_setting (lo := 64) (by decide) (by omega) | exact fun _ => not_setting (lo := 96) (by decide) (by omega) | exact fun _ => (by rw [rowOf_id]; first | assumption | exact not_setting (lo := 64) (by decide) (by omega) | exact not_setting (lo := 272) (by decide) (by omega)) | exact fun _ => not_setting (lo := 32) (by decide) (by omega)) | intro _ | with_reducible apply State.bump_onward | with_reducible apply State.raiseOnce_onward | with_reducible apply onward_ite | fail_if_no_progress with_reducible refine onward_mk ?_ rfl rfl rfl rfl rfl rfl rfl rfl rfl rfl rfl rfl rfl rfl | split | dsimp only

theorem State.validWord_onward (h : s0.Onward kq False s) {w : BWord} : s0.Onward kq False (State.validWord s w) := by
  unfold State.validWord
  try dsimp only
  repeat' first | with_reducible assumption | with_reducible apply State.setBcn_onward | with_reducible apply State.takeWord_onward | with_reducible apply State.compareWord_onward | with_reducible apply onward_ite | fail_if_no_progress with_reducible refine onward_mkw ?_ rfl rfl rfl rfl rfl rfl rfl rfl | split | dsimp only

theorem State.queueEcho_onward (h : s0.Onward kq False s) {tRef pos : Nat} {accepted : Bool} : s0.Onward kq False (State.queueEcho s tRef pos accepted) := by
  unfold State.queueEcho
  try dsimp only
  repeat' first | with_reducible assumption | with_reducible apply State.accepted_onward | with_reducible apply State.setBcn_onward | with_reducible apply onward_ite | fail_if_no_progress with_reducible refine onward_mkw ?_ rfl rfl rfl rfl rfl rfl rfl rfl | split | dsimp only

theorem State.pinWord_onward (h : s0.Onward kq False s) {w : PinWord} : s0.Onward kq False (State.pinWord s w) := by
  unfold State.pinWord
  try dsimp only
  repeat' first | with_reducible assumption | (show kq → _ ∉ settings; first | exact False.elim | (with_reducible assumption) | exact fun _ => by decide | exact fun _ => mapReg_not_setting _ | exact fun _ => (by unfold gcBusy; split <;> decide) | exact fun _ => not_setting (lo := 272) (by decide) (by omega) | exact fun _ => not_setting (lo := 88) (by decide) (by omega) | exact fun _ => not_setting (lo := 64) (by decide) (by omega) | exact fun _ => not_setting (lo := 96) (by decide) (by omega) | exact fun _ => (by rw [rowOf_id]; first | assumption | exact not_setting (lo := 64) (by decide) (by omega) | exact not_setting (lo := 272) (by decide) (by omega)) | exact fun _ => not_setting (lo := 32) (by decide) (by omega)) | with_reducible apply State.bump_onward | with_reducible apply State.validWord_onward | with_reducible apply State.queueEcho_onward | with_reducible apply onward_ite | split | dsimp only

theorem execBeaconPinWord_onward (h : s0.Onward kq False s) {t : Nat} {w : PinWord} : ResOnward kq False s0 (execBeaconPinWord t w s) := by
  unfold execBeaconPinWord
  try dsimp only
  repeat' first | with_reducible assumption | with_reducible exact onward_fault | with_reducible exact onward_refused | with_reducible apply onward_next | with_reducible apply State.tick_onward | with_reducible apply State.pinWord_onward | with_reducible apply onward_ite | split | dsimp only

theorem execBeaconEcho_onward (h : s0.Onward kq False s) {t : Nat} : ResOnward kq False s0 (execBeaconEcho t s) := by
  unfold execBeaconEcho
  try dsimp only
  repeat' first | with_reducible assumption | intro _ | with_reducible exact onward_fault | with_reducible exact onward_refused | with_reducible apply onward_next | with_reducible apply State.tick_onward | with_reducible apply State.setBcn_onward | with_reducible apply onward_ite | fail_if_no_progress with_reducible refine onward_mkw ?_ rfl rfl rfl rfl rfl rfl rfl rfl | split | dsimp only

theorem State.frameWord_onward (h : s0.Onward kq False s) {f : BeaconFrame} : s0.Onward kq False (State.frameWord s f) := by
  unfold State.frameWord
  try dsimp only
  repeat' first | with_reducible assumption | (show kq → _ ∉ settings; first | exact False.elim | (with_reducible assumption) | exact fun _ => by decide | exact fun _ => mapReg_not_setting _ | exact fun _ => (by unfold gcBusy; split <;> decide) | exact fun _ => not_setting (lo := 272) (by decide) (by omega) | exact fun _ => not_setting (lo := 88) (by decide) (by omega) | exact fun _ => not_setting (lo := 64) (by decide) (by omega) | exact fun _ => not_setting (lo := 96) (by decide) (by omega) | exact fun _ => (by rw [rowOf_id]; first | assumption | exact not_setting (lo := 64) (by decide) (by omega) | exact not_setting (lo := 272) (by decide) (by omega)) | exact fun _ => not_setting (lo := 32) (by decide) (by omega)) | with_reducible apply State.setBcn_onward | with_reducible apply State.validWord_onward | with_reducible apply State.bump_onward | with_reducible apply onward_ite | fail_if_no_progress with_reducible refine onward_mkw ?_ rfl rfl rfl rfl rfl rfl rfl rfl | split | dsimp only

theorem execBeaconFrame_onward (h : s0.Onward kq False s) {t : Nat} {f : BeaconFrame} : ResOnward kq False s0 (execBeaconFrame t f s) := by
  unfold execBeaconFrame
  try dsimp only
  repeat' first | with_reducible assumption | with_reducible exact onward_fault | with_reducible exact onward_refused | with_reducible apply onward_next | with_reducible apply State.tick_onward | with_reducible apply State.frameWord_onward | with_reducible apply onward_ite | split | dsimp only

theorem execBackLimitReached_onward (h : s0.Onward kq False s) {t : Nat} : ResOnward kq False s0 (execBackLimitReached t s) := by
  unfold execBackLimitReached
  try dsimp only
  repeat' first | with_reducible assumption | with_reducible exact onward_fault | with_reducible exact onward_refused | with_reducible apply onward_next | with_reducible apply State.tick_onward | with_reducible apply State.lose_onward | with_reducible apply onward_ite | split | dsimp only

theorem State.toFrames_onward (h : s0.Onward kq False s) : s0.Onward kq False (State.toFrames s) := by
  unfold State.toFrames
  try dsimp only
  repeat' first | with_reducible assumption | with_reducible apply State.setBcn_onward | with_reducible apply State.raise_onward | with_reducible apply onward_ite | fail_if_no_progress with_reducible refine onward_mkw ?_ rfl rfl rfl rfl rfl rfl rfl rfl | split | dsimp only

theorem execPinLossTimeout_onward (h : s0.Onward kq False s) {t : Nat} : ResOnward kq False s0 (execPinLossTimeout t s) := by
  unfold execPinLossTimeout
  try dsimp only
  repeat' first | with_reducible assumption | with_reducible exact onward_fault | with_reducible exact onward_refused | with_reducible apply onward_next | with_reducible apply State.tick_onward | with_reducible apply State.toFrames_onward | with_reducible apply onward_ite | fail_if_no_progress with_reducible refine onward_mkw ?_ rfl rfl rfl rfl rfl rfl rfl rfl | split | dsimp only

theorem State.lossOfBoth_onward (h : s0.Onward kq False s) : s0.Onward kq False (State.lossOfBoth s) := by
  unfold State.lossOfBoth
  try dsimp only
  repeat' first | with_reducible assumption | with_reducible apply State.lose_onward | with_reducible apply State.coast_onward | with_reducible apply onward_ite | split | dsimp only

theorem execBeaconLossTimeout_onward (h : s0.Onward kq False s) {t : Nat} : ResOnward kq False s0 (execBeaconLossTimeout t s) := by
  unfold execBeaconLossTimeout
  try dsimp only
  repeat' first | with_reducible assumption | with_reducible exact onward_fault | with_reducible exact onward_refused | with_reducible apply onward_next | with_reducible apply State.tick_onward | with_reducible apply State.lossOfBoth_onward | with_reducible apply onward_ite | split | dsimp only

theorem execCoastLimit_onward (h : s0.Onward kq False s) {t : Nat} : ResOnward kq False s0 (execCoastLimit t s) := by
  unfold execCoastLimit
  try dsimp only
  repeat' first | with_reducible assumption | with_reducible exact onward_fault | with_reducible exact onward_refused | with_reducible apply onward_next | with_reducible apply State.tick_onward | with_reducible apply State.fireDue_onward | with_reducible apply State.lose_onward | with_reducible apply onward_ite | split | dsimp only

theorem State.rebase_onward (h : s0.Onward kq False s) {pos : Nat} : s0.Onward kq False (State.rebase s pos) := by
  unfold State.rebase
  try dsimp only
  repeat' first | with_reducible assumption | intro _ | with_reducible apply State.failCkpt_onward | with_reducible apply State.setPort_onward | with_reducible apply State.promotingTest_onward | with_reducible apply State.setBcn_onward | with_reducible apply State.raise_onward | with_reducible apply State.pickAll_onward | with_reducible apply onward_ite | with_reducible apply onward_foldl | fail_if_no_progress with_reducible refine onward_mkw ?_ rfl rfl rfl rfl rfl rfl rfl rfl | split | dsimp only

theorem State.rebaseWrite_onward (h : s0.Onward kq False s) : s0.Onward kq False (State.rebaseWrite s) := by
  unfold State.rebaseWrite
  try dsimp only
  repeat' first | with_reducible assumption | with_reducible apply State.rebase_onward | with_reducible apply onward_ite | split | dsimp only

theorem State.enableWrite_onward (h : s0.Onward kq False s) {was : Bool} : s0.Onward kq False (State.enableWrite s was) := by
  unfold State.enableWrite
  try dsimp only
  repeat' first | with_reducible assumption | with_reducible apply State.unphase_onward | with_reducible apply State.setBcn_onward | with_reducible apply onward_ite | fail_if_no_progress with_reducible refine onward_mkw ?_ rfl rfl rfl rfl rfl rfl rfl rfl | split | dsimp only

theorem State.trigger_onward (h : s0.Onward kq False s) {t : Nat} : s0.Onward kq False (State.trigger s t) := by
  unfold State.trigger
  try dsimp only
  repeat' first | with_reducible assumption | with_reducible apply State.tick_onward | with_reducible apply State.fireDue_onward | with_reducible apply onward_ite | split | dsimp only

theorem execStepBoundaryBookkeeping_onward (h : s0.Onward kq False s) {t : Nat} : ResOnward kq False s0 (execStepBoundaryBookkeeping t s) := by
  unfold execStepBoundaryBookkeeping
  try dsimp only
  repeat' first | with_reducible assumption | with_reducible exact onward_fault | with_reducible exact onward_refused | with_reducible apply onward_next | with_reducible apply State.trigger_onward | with_reducible apply onward_ite | split | dsimp only

theorem execCheckpointTick_onward (h : s0.Onward kq False s) {t : Nat} : ResOnward kq False s0 (execCheckpointTick t s) := by
  unfold execCheckpointTick
  try dsimp only
  repeat' first | with_reducible assumption | with_reducible exact onward_fault | with_reducible exact onward_refused | with_reducible apply onward_next | with_reducible apply State.trigger_onward | with_reducible apply onward_ite | split | dsimp only

theorem execGateOpen_onward (h : s0.Onward kq False s) {t _port _entry : Nat} : ResOnward kq False s0 (execGateOpen t _port _entry s) := by
  unfold execGateOpen
  try dsimp only
  repeat' first | with_reducible assumption | with_reducible exact onward_fault | with_reducible exact onward_refused | with_reducible apply onward_next | with_reducible apply State.trigger_onward | with_reducible apply onward_ite | split | dsimp only

theorem execGateClose_onward (h : s0.Onward kq False s) {t _port _entry : Nat} : ResOnward kq False s0 (execGateClose t _port _entry s) := by
  unfold execGateClose
  try dsimp only
  repeat' first | with_reducible assumption | with_reducible exact onward_fault | with_reducible exact onward_refused | with_reducible apply onward_next | with_reducible apply State.trigger_onward | with_reducible apply onward_ite | split | dsimp only

theorem execPromotionTrigger_onward (h : s0.Onward kq False s) {t _slot _layer : Nat} : ResOnward kq False s0 (execPromotionTrigger t _slot _layer s) := by
  unfold execPromotionTrigger
  try dsimp only
  repeat' first | with_reducible assumption | with_reducible exact onward_fault | with_reducible exact onward_refused | with_reducible apply onward_next | with_reducible apply State.trigger_onward | with_reducible apply onward_ite | split | dsimp only

theorem execPrefetchTrigger_onward (h : s0.Onward kq False s) {t _slot _layer : Nat} : ResOnward kq False s0 (execPrefetchTrigger t _slot _layer s) := by
  unfold execPrefetchTrigger
  try dsimp only
  repeat' first | with_reducible assumption | with_reducible exact onward_fault | with_reducible exact onward_refused | with_reducible apply onward_next | with_reducible apply State.trigger_onward | with_reducible apply onward_ite | split | dsimp only

theorem execT0CopyRelease_onward (h : s0.Onward kq False s) {t die : Nat} : ResOnward kq False s0 (execT0CopyRelease t die s) := by
  unfold execT0CopyRelease
  try dsimp only
  repeat' first | with_reducible assumption | intro _ | with_reducible exact onward_fault | with_reducible exact onward_refused | with_reducible apply onward_next | with_reducible apply State.tick_onward | with_reducible apply State.countLate_onward | with_reducible apply State.releaseCopies_onward | with_reducible apply onward_ite | with_reducible apply onward_foldl | split | dsimp only

end Sys2Proof.Machine
end

