-- ==== Sys2Proof/Laws/OnwardPages.lean ====
section
/-! SUPPORT. What the functions of Machine/Pages.lean keep: each answers a state its argument may go on to. -/

namespace Sys2Proof.Machine

set_option linter.unusedTactic false
set_option linter.unreachableTactic false

variable {kq kw : Prop} {s0 s : State}

theorem State.openData_onward (h : s0.Onward kq kw s) {e : Env} {slot : Nat} {ingest : Bool} {off len : Nat} {inline_ : List Byte} : s0.Onward kq kw (State.openData s e slot ingest off len inline_).1 := by
  unfold State.openData
  try dsimp only
  repeat' first | with_reducible assumption | with_reducible apply State.noteObject_onward | with_reducible apply onward_ite | fail_if_no_progress with_reducible refine onward_mk ?_ rfl rfl rfl rfl rfl rfl rfl rfl rfl rfl rfl rfl rfl rfl | split | dsimp only

theorem State.needAreas_onward (h : s0.Onward kq False s) {slot : Nat} : s0.Onward kq False (State.needAreas s slot).1 := by
  unfold State.needAreas
  try dsimp only
  repeat' first | with_reducible assumption | with_reducible apply State.restoreImage_onward | with_reducible apply State.promotingTest_onward | with_reducible apply onward_ite | fail_if_no_progress with_reducible refine onward_mkw ?_ rfl rfl rfl rfl rfl rfl rfl rfl | split | dsimp only

theorem State.releaseRule_onward (h : s0.Onward kq False s) {slot layer : Nat} : s0.Onward kq False (State.releaseRule s slot layer) := by
  unfold State.releaseRule
  try dsimp only
  repeat' first | with_reducible assumption | (show kq → _ ∉ settings; first | exact False.elim | (with_reducible assumption) | exact fun _ => by decide | exact fun _ => mapReg_not_setting _ | exact fun _ => (by unfold gcBusy; split <;> decide) | exact fun _ => not_setting (lo := 272) (by decide) (by omega) | exact fun _ => not_setting (lo := 88) (by decide) (by omega) | exact fun _ => not_setting (lo := 64) (by decide) (by omega) | exact fun _ => not_setting (lo := 96) (by decide) (by omega) | exact fun _ => (by rw [rowOf_id]; first | assumption | exact not_setting (lo := 64) (by decide) (by omega) | exact not_setting (lo := 272) (by decide) (by omega)) | exact fun _ => not_setting (lo := 32) (by decide) (by omega)) | intro _ | with_reducible apply State.freePage_onward | with_reducible apply State.bumpBy_onward | with_reducible apply onward_ite | with_reducible apply onward_foldl | split | dsimp only

theorem State.flush_onward (h : s0.Onward kq False s) {slot layer page : Nat} : s0.Onward kq False (State.flush s slot layer page) := by
  unfold State.flush
  try dsimp only
  repeat' first | with_reducible assumption | (show kq → _ ∉ settings; first | exact False.elim | (with_reducible assumption) | exact fun _ => by decide | exact fun _ => mapReg_not_setting _ | exact fun _ => (by unfold gcBusy; split <;> decide) | exact fun _ => not_setting (lo := 272) (by decide) (by omega) | exact fun _ => not_setting (lo := 88) (by decide) (by omega) | exact fun _ => not_setting (lo := 64) (by decide) (by omega) | exact fun _ => not_setting (lo := 96) (by decide) (by omega) | exact fun _ => (by rw [rowOf_id]; first | assumption | exact not_setting (lo := 64) (by decide) (by omega) | exact not_setting (lo := 272) (by decide) (by omega)) | exact fun _ => not_setting (lo := 32) (by decide) (by omega)) | intro _ | with_reducible apply State.bump_onward | with_reducible apply State.freePage_onward | with_reducible apply State.notePacked_onward | with_reducible apply State.alloc_onward | with_reducible apply State.nextFree_onward | with_reducible apply State.addLeaf_onward | with_reducible apply State.putStaging_onward | with_reducible apply State.releaseRule_onward | with_reducible apply onward_ite | with_reducible apply onward_getD | fail_if_no_progress with_reducible refine onward_mkw ?_ rfl rfl rfl rfl rfl rfl rfl rfl | split | dsimp only

theorem State.appendRow_onward (h : s0.Onward kq False s) {slot layer : Nat} {row : List BF16} : s0.Onward kq False (State.appendRow s slot layer row) := by
  unfold State.appendRow
  try dsimp only
  repeat' first | with_reducible assumption | with_reducible apply State.putStaging_onward | with_reducible apply State.flush_onward | with_reducible apply onward_ite | fail_if_no_progress with_reducible refine onward_mkw ?_ rfl rfl rfl rfl rfl rfl rfl rfl | split | dsimp only

theorem State.setLength_onward (h : s0.Onward kq False s) {slot : Nat} : s0.Onward kq False (State.setLength s slot) := by
  unfold State.setLength
  try dsimp only
  repeat' first | with_reducible assumption | with_reducible apply State.setSess_onward | with_reducible apply onward_ite | with_reducible apply onward_getD | fail_if_no_progress with_reducible refine onward_mkw ?_ rfl rfl rfl rfl rfl rfl rfl rfl | split | dsimp only

theorem State.kvAnswer_onward (h : s0.Onward kq kw s) {e : Env} {slot status reason dropped nonfinite detail : Nat} : s0.Onward kq kw (State.kvAnswer s e slot status reason dropped nonfinite detail) := by
  unfold State.kvAnswer
  try dsimp only
  repeat' first | with_reducible assumption | with_reducible apply State.answer_onward | with_reducible apply onward_ite | split | dsimp only

theorem State.kvRefuse_onward (h : s0.Onward kq False s) {e : Env} {m : KvMsg} {x : Refuse} : s0.Onward kq False (State.kvRefuse s e m x) := by
  unfold State.kvRefuse
  try dsimp only
  repeat' first | with_reducible assumption | with_reducible apply State.noteRefuse_onward | with_reducible apply State.kvAnswer_onward | with_reducible apply State.answer_onward | with_reducible apply onward_ite | split | dsimp only

theorem State.kvReplay_onward (h : s0.Onward kq False s) {e : Env} {slot : Nat} : s0.Onward kq False (State.kvReplay s e slot) := by
  unfold State.kvReplay
  try dsimp only
  repeat' first | with_reducible assumption | (show kq → _ ∉ settings; first | exact False.elim | (with_reducible assumption) | exact fun _ => by decide | exact fun _ => mapReg_not_setting _ | exact fun _ => (by unfold gcBusy; split <;> decide) | exact fun _ => not_setting (lo := 272) (by decide) (by omega) | exact fun _ => not_setting (lo := 88) (by decide) (by omega) | exact fun _ => not_setting (lo := 64) (by decide) (by omega) | exact fun _ => not_setting (lo := 96) (by decide) (by omega) | exact fun _ => (by rw [rowOf_id]; first | assumption | exact not_setting (lo := 64) (by decide) (by omega) | exact not_setting (lo := 272) (by decide) (by omega)) | exact fun _ => not_setting (lo := 32) (by decide) (by omega)) | with_reducible apply State.accepted_onward | with_reducible apply State.bump_onward | with_reducible apply State.kvAnswer_onward | with_reducible apply onward_ite | split | dsimp only

theorem State.appendAll_onward (h : s0.Onward kq False s) {slot : Nat} {m : KvMsg} {n : Nat} {xs : List BF16} : s0.Onward kq False (State.appendAll s slot m n xs) := by
  unfold State.appendAll
  try dsimp only
  repeat' first | with_reducible assumption | intro _ | with_reducible apply State.appendRow_onward | with_reducible apply State.setLength_onward | with_reducible apply onward_ite | with_reducible apply onward_foldl | split | dsimp only

theorem State.kvAppend_onward (h : s0.Onward kq False s) {e : Env} {m : KvMsg} {form : Nat} : s0.Onward kq False (State.kvAppend s e m form) := by
  unfold State.kvAppend
  try dsimp only
  repeat' first | with_reducible assumption | intro _ | with_reducible apply State.kvRefuse_onward | with_reducible apply State.kvReplay_onward | with_reducible apply State.openData_onward | with_reducible apply State.appendAll_onward | with_reducible apply State.accepted_onward | with_reducible apply State.countOutcome_onward | with_reducible apply State.kvAnswer_onward | with_reducible apply onward_ite | fail_if_no_progress with_reducible refine onward_mkw ?_ rfl rfl rfl rfl rfl rfl rfl rfl | refine onward_of_pair (by assumption) ?_ | split | dsimp only

theorem State.renameUnit_onward (h : s0.Onward kq False s) {u v : UnitRef} : s0.Onward kq False (State.renameUnit s u v) := by
  unfold State.renameUnit
  try dsimp only
  repeat' first | with_reducible assumption | intro _ | with_reducible apply onward_ite | fail_if_no_progress with_reducible refine onward_mkw ?_ rfl rfl rfl rfl rfl rfl rfl rfl | split | dsimp only

theorem State.linkPage_onward (h : s0.Onward kq False s) {src dst layer page : Nat} : s0.Onward kq False (State.linkPage s src dst layer page) := by
  unfold State.linkPage
  try dsimp only
  repeat' first | with_reducible assumption | (show kq → _ ∉ settings; first | exact False.elim | (with_reducible assumption) | exact fun _ => by decide | exact fun _ => mapReg_not_setting _ | exact fun _ => (by unfold gcBusy; split <;> decide) | exact fun _ => not_setting (lo := 272) (by decide) (by omega) | exact fun _ => not_setting (lo := 88) (by decide) (by omega) | exact fun _ => not_setting (lo := 64) (by decide) (by omega) | exact fun _ => not_setting (lo := 96) (by decide) (by omega) | exact fun _ => (by rw [rowOf_id]; first | assumption | exact not_setting (lo := 64) (by decide) (by omega) | exact not_setting (lo := 272) (by decide) (by omega)) | exact fun _ => not_setting (lo := 32) (by decide) (by omega)) | intro _ | with_reducible apply State.addLeaf_onward | with_reducible apply State.putShared_onward | with_reducible apply State.bump_onward | with_reducible apply State.putLeaf_onward | with_reducible apply State.renameUnit_onward | with_reducible apply onward_ite | fail_if_no_progress with_reducible refine onward_mkw ?_ rfl rfl rfl rfl rfl rfl rfl rfl | split | dsimp only

theorem State.kvLink_onward (h : s0.Onward kq False s) {e : Env} {m : KvMsg} : s0.Onward kq False (State.kvLink s e m) := by
  unfold State.kvLink
  try dsimp only
  repeat' first | with_reducible assumption | (show kq → _ ∉ settings; first | exact False.elim | (with_reducible assumption) | exact fun _ => by decide | exact fun _ => mapReg_not_setting _ | exact fun _ => (by unfold gcBusy; split <;> decide) | exact fun _ => not_setting (lo := 272) (by decide) (by omega) | exact fun _ => not_setting (lo := 88) (by decide) (by omega) | exact fun _ => not_setting (lo := 64) (by decide) (by omega) | exact fun _ => not_setting (lo := 96) (by decide) (by omega) | exact fun _ => (by rw [rowOf_id]; first | assumption | exact not_setting (lo := 64) (by decide) (by omega) | exact not_setting (lo := 272) (by decide) (by omega)) | exact fun _ => not_setting (lo := 32) (by decide) (by omega)) | intro _ | with_reducible apply State.kvRefuse_onward | with_reducible apply State.kvReplay_onward | with_reducible apply State.bump_onward | with_reducible apply State.raiseOnce_onward | with_reducible apply State.linkPage_onward | with_reducible apply State.putStaging_onward | with_reducible apply State.setLength_onward | with_reducible apply State.accepted_onward | with_reducible apply State.kvAnswer_onward | with_reducible apply onward_ite | with_reducible apply onward_foldl | fail_if_no_progress with_reducible refine onward_mkw ?_ rfl rfl rfl rfl rfl rfl rfl rfl | split | dsimp only

theorem State.truncLayer_onward (h : s0.Onward kq False s) {slot layer n : Nat} : s0.Onward kq False (State.truncLayer s slot layer n) := by
  unfold State.truncLayer
  try dsimp only
  repeat' first | with_reducible assumption | intro _ | with_reducible apply State.freePage_onward | with_reducible apply State.putLeaf_onward | with_reducible apply State.putStaging_onward | with_reducible apply onward_ite | with_reducible apply onward_foldl | fail_if_no_progress with_reducible refine onward_mkw ?_ rfl rfl rfl rfl rfl rfl rfl rfl | split | dsimp only

theorem State.kvTruncate_onward (h : s0.Onward kq False s) {e : Env} {m : KvMsg} : s0.Onward kq False (State.kvTruncate s e m) := by
  unfold State.kvTruncate
  try dsimp only
  repeat' first | with_reducible assumption | (show kq → _ ∉ settings; first | exact False.elim | (with_reducible assumption) | exact fun _ => by decide | exact fun _ => mapReg_not_setting _ | exact fun _ => (by unfold gcBusy; split <;> decide) | exact fun _ => not_setting (lo := 272) (by decide) (by omega) | exact fun _ => not_setting (lo := 88) (by decide) (by omega) | exact fun _ => not_setting (lo := 64) (by decide) (by omega) | exact fun _ => not_setting (lo := 96) (by decide) (by omega) | exact fun _ => (by rw [rowOf_id]; first | assumption | exact not_setting (lo := 64) (by decide) (by omega) | exact not_setting (lo := 272) (by decide) (by omega)) | exact fun _ => not_setting (lo := 32) (by decide) (by omega)) | intro _ | with_reducible apply State.kvRefuse_onward | with_reducible apply State.accepted_onward | with_reducible apply State.kvAnswer_onward | with_reducible apply State.truncLayer_onward | with_reducible apply State.putStaging_onward | with_reducible apply State.bump_onward | with_reducible apply State.setLength_onward | with_reducible apply onward_ite | with_reducible apply onward_foldl | fail_if_no_progress with_reducible refine onward_mkw ?_ rfl rfl rfl rfl rfl rfl rfl rfl | split | dsimp only

theorem State.kvPin_onward (h : s0.Onward kq False s) {e : Env} {m : KvMsg} {unpin : Bool} : s0.Onward kq False (State.kvPin s e m unpin) := by
  unfold State.kvPin
  try dsimp only
  repeat' first | with_reducible assumption | intro _ | with_reducible apply State.kvRefuse_onward | with_reducible apply State.putStaging_onward | with_reducible apply State.releaseRule_onward | with_reducible apply State.setLength_onward | with_reducible apply State.accepted_onward | with_reducible apply State.kvAnswer_onward | with_reducible apply onward_ite | with_reducible apply onward_foldl | fail_if_no_progress with_reducible refine onward_mkw ?_ rfl rfl rfl rfl rfl rfl rfl rfl | split | dsimp only

theorem State.kvRun_onward (h : s0.Onward kq False s) {e : Env} {m : KvMsg} {form : Nat} : s0.Onward kq False (State.kvRun s e m form) := by
  unfold State.kvRun
  try dsimp only
  repeat' first | with_reducible assumption | intro _ | with_reducible apply State.kvRefuse_onward | with_reducible apply State.needAreas_onward | with_reducible apply State.kvLink_onward | with_reducible apply State.kvTruncate_onward | with_reducible apply State.kvPin_onward | with_reducible apply State.kvAppend_onward | with_reducible apply onward_ite | fail_if_no_progress with_reducible refine onward_mkw ?_ rfl rfl rfl rfl rfl rfl rfl rfl | refine onward_of_pair (by assumption) ?_ | split | dsimp only

theorem State.kvMessage_onward (h : s0.Onward kq False s) {e : Env} {c : Instr} {m : KvMsg} {form : Nat} : s0.Onward kq False (State.kvMessage s e c m form) := by
  unfold State.kvMessage
  try dsimp only
  repeat' first | with_reducible assumption | intro _ | with_reducible apply State.message_onward | with_reducible apply State.kvRun_onward | with_reducible apply onward_ite | split | dsimp only

theorem execKvAppendInline_onward (h : s0.Onward kq False s) {e : Env} {m : KvMsg} : ResOnward kq False s0 (execKvAppendInline e m s) := by
  unfold execKvAppendInline
  try dsimp only
  repeat' first | with_reducible assumption | with_reducible exact onward_fault | with_reducible exact onward_refused | with_reducible apply onward_next | with_reducible apply State.kvMessage_onward | with_reducible apply onward_ite | split | dsimp only

theorem execKvAppendRdma_onward (h : s0.Onward kq False s) {e : Env} {m : KvMsg} : ResOnward kq False s0 (execKvAppendRdma e m s) := by
  unfold execKvAppendRdma
  try dsimp only
  repeat' first | with_reducible assumption | with_reducible exact onward_fault | with_reducible exact onward_refused | with_reducible apply onward_next | with_reducible apply State.kvMessage_onward | with_reducible apply onward_ite | split | dsimp only

theorem execLink_onward (h : s0.Onward kq False s) {e : Env} {m : KvMsg} : ResOnward kq False s0 (execLink e m s) := by
  unfold execLink
  try dsimp only
  repeat' first | with_reducible assumption | with_reducible exact onward_fault | with_reducible exact onward_refused | with_reducible apply onward_next | with_reducible apply State.kvMessage_onward | with_reducible apply onward_ite | split | dsimp only

theorem execTruncate_onward (h : s0.Onward kq False s) {e : Env} {m : KvMsg} : ResOnward kq False s0 (execTruncate e m s) := by
  unfold execTruncate
  try dsimp only
  repeat' first | with_reducible assumption | with_reducible exact onward_fault | with_reducible exact onward_refused | with_reducible apply onward_next | with_reducible apply State.kvMessage_onward | with_reducible apply onward_ite | split | dsimp only

theorem execPin_onward (h : s0.Onward kq False s) {e : Env} {m : KvMsg} : ResOnward kq False s0 (execPin e m s) := by
  unfold execPin
  try dsimp only
  repeat' first | with_reducible assumption | with_reducible exact onward_fault | with_reducible exact onward_refused | with_reducible apply onward_next | with_reducible apply State.kvMessage_onward | with_reducible apply onward_ite | split | dsimp only

theorem execUnpin_onward (h : s0.Onward kq False s) {e : Env} {m : KvMsg} : ResOnward kq False s0 (execUnpin e m s) := by
  unfold execUnpin
  try dsimp only
  repeat' first | with_reducible assumption | with_reducible exact onward_fault | with_reducible exact onward_refused | with_reducible apply onward_next | with_reducible apply State.kvMessage_onward | with_reducible apply onward_ite | split | dsimp only

theorem execStagingEvict_onward (h : s0.Onward kq False s) {t slot : Nat} : ResOnward kq False s0 (execStagingEvict t slot s) := by
  unfold execStagingEvict
  try dsimp only
  repeat' first | with_reducible assumption | intro _ | with_reducible exact onward_fault | with_reducible exact onward_refused | with_reducible apply onward_next | with_reducible apply State.tick_onward | with_reducible apply State.evictStaging_onward | with_reducible apply onward_ite | fail_if_no_progress with_reducible refine onward_mkw ?_ rfl rfl rfl rfl rfl rfl rfl rfl | split | dsimp only

theorem State.sweep_onward (h : s0.Onward kq False s) {die : Nat} : s0.Onward kq False (State.sweep s die) := by
  unfold State.sweep
  try dsimp only
  repeat' first | with_reducible assumption | intro _ | with_reducible apply onward_ite | fail_if_no_progress with_reducible refine onward_mkw ?_ rfl rfl rfl rfl rfl rfl rfl rfl | split | dsimp only

theorem execAgeingSweep_onward (h : s0.Onward kq False s) {t die : Nat} : ResOnward kq False s0 (execAgeingSweep t die s) := by
  unfold execAgeingSweep
  try dsimp only
  repeat' first | with_reducible assumption | with_reducible exact onward_fault | with_reducible exact onward_refused | with_reducible apply onward_next | with_reducible apply State.tick_onward | with_reducible apply State.sweep_onward | with_reducible apply onward_ite | split | dsimp only

theorem State.inval_onward (h : s0.Onward kq False s) {die : Nat} {v : Word} : s0.Onward kq False (State.inval s die v) := by
  unfold State.inval
  try dsimp only
  repeat' first | with_reducible assumption | intro _ | with_reducible apply onward_ite | fail_if_no_progress with_reducible refine onward_mkw ?_ rfl rfl rfl rfl rfl rfl rfl rfl | split | dsimp only

theorem State.probe_onward (h : s0.Onward kq kw s) {die : Nat} {v : Word} : s0.Onward kq kw (State.probe s die v) := by
  unfold State.probe
  try dsimp only
  repeat' first | with_reducible assumption | (show kq → _ ∉ settings; first | exact False.elim | (with_reducible assumption) | exact fun _ => by decide | exact fun _ => mapReg_not_setting _ | exact fun _ => (by unfold gcBusy; split <;> decide) | exact fun _ => not_setting (lo := 272) (by decide) (by omega) | exact fun _ => not_setting (lo := 88) (by decide) (by omega) | exact fun _ => not_setting (lo := 64) (by decide) (by omega) | exact fun _ => not_setting (lo := 96) (by decide) (by omega) | exact fun _ => (by rw [rowOf_id]; first | assumption | exact not_setting (lo := 64) (by decide) (by omega) | exact not_setting (lo := 272) (by decide) (by omega)) | exact fun _ => not_setting (lo := 32) (by decide) (by omega)) | with_reducible apply State.setReg_onward | with_reducible apply State.bump_onward | with_reducible apply onward_ite | split | dsimp only

end Sys2Proof.Machine
end

