-- ==== Sys2Proof/Laws/OnwardAttention.lean ====
section
/-! SUPPORT. What the functions of Machine/Attention.lean keep: each answers a state its argument may go on to. -/

namespace Sys2Proof.Machine

set_option linter.unusedTactic false
set_option linter.unreachableTactic false

variable {kq kw : Prop} {s0 s : State}

theorem State.tearDown_onward (h : s0.Onward kq kw s) {die ctx cause : Nat} : s0.Onward kq kw (State.tearDown s die ctx cause) := by
  unfold State.tearDown
  try dsimp only
  repeat' first | with_reducible assumption | (show kq → _ ∉ settings; first | exact False.elim | (with_reducible assumption) | exact fun _ => by decide | exact fun _ => mapReg_not_setting _ | exact fun _ => (by unfold gcBusy; split <;> decide) | exact fun _ => not_setting (lo := 272) (by decide) (by omega) | exact fun _ => not_setting (lo := 88) (by decide) (by omega) | exact fun _ => not_setting (lo := 64) (by decide) (by omega) | exact fun _ => not_setting (lo := 96) (by decide) (by omega) | exact fun _ => (by rw [rowOf_id]; first | assumption | exact not_setting (lo := 64) (by decide) (by omega) | exact not_setting (lo := 272) (by decide) (by omega)) | exact fun _ => not_setting (lo := 32) (by decide) (by omega)) | intro _ | with_reducible apply State.setFld_onward | with_reducible apply State.raise_onward | with_reducible apply onward_ite | with_reducible apply onward_foldl | fail_if_no_progress with_reducible refine onward_mk ?_ rfl rfl rfl rfl rfl rfl rfl rfl rfl rfl rfl rfl rfl rfl | split | dsimp only

theorem State.resRefuse_onward (h : s0.Onward kq False s) {e : Env} {type h step layer rflags : Nat} {x : Refuse} : s0.Onward kq False (State.resRefuse s e type h step layer rflags x) := by
  unfold State.resRefuse
  try dsimp only
  repeat' first | with_reducible assumption | with_reducible apply State.noteRefuse_onward | with_reducible apply State.answer_onward | with_reducible apply onward_ite | split | dsimp only

theorem State.notReady_onward (h : s0.Onward kq kw s) {e : Env} {type slot : Nat} {body : List Byte} : s0.Onward kq kw (State.notReady s e type slot body) := by
  unfold State.notReady
  try dsimp only
  repeat' first | with_reducible assumption | (show kq → _ ∉ settings; first | exact False.elim | (with_reducible assumption) | exact fun _ => by decide | exact fun _ => mapReg_not_setting _ | exact fun _ => (by unfold gcBusy; split <;> decide) | exact fun _ => not_setting (lo := 272) (by decide) (by omega) | exact fun _ => not_setting (lo := 88) (by decide) (by omega) | exact fun _ => not_setting (lo := 64) (by decide) (by omega) | exact fun _ => not_setting (lo := 96) (by decide) (by omega) | exact fun _ => (by rw [rowOf_id]; first | assumption | exact not_setting (lo := 64) (by decide) (by omega) | exact not_setting (lo := 272) (by decide) (by omega)) | exact fun _ => not_setting (lo := 32) (by decide) (by omega)) | with_reducible apply State.bump_onward | with_reducible apply State.answer_onward | with_reducible apply onward_ite | split | dsimp only

theorem State.serveFetch_onward (h : s0.Onward kq False s) {e : Env} {type h : Nat} {key : ResKey} : s0.Onward kq False (State.serveFetch s e type h key) := by
  unfold State.serveFetch
  try dsimp only
  repeat' first | with_reducible assumption | intro _ | with_reducible apply State.noteReturn_onward | with_reducible apply State.untrack_onward | with_reducible apply State.answer_onward | with_reducible apply State.notReady_onward | with_reducible apply State.resRefuse_onward | with_reducible apply onward_ite | fail_if_no_progress with_reducible refine onward_mkw ?_ rfl rfl rfl rfl rfl rfl rfl rfl | split | dsimp only

theorem State.fetchRun_onward (h : s0.Onward kq False s) {e : Env} {m : FetchMsg} : s0.Onward kq False (State.fetchRun s e m) := by
  unfold State.fetchRun
  try dsimp only
  repeat' first | with_reducible assumption | with_reducible apply State.resRefuse_onward | with_reducible apply State.serveFetch_onward | with_reducible apply State.needAreas_onward | with_reducible apply State.accepted_onward | with_reducible apply onward_ite | fail_if_no_progress with_reducible refine onward_mkw ?_ rfl rfl rfl rfl rfl rfl rfl rfl | refine onward_of_pair (by assumption) ?_ | split | dsimp only

theorem execResultFetch_onward (h : s0.Onward kq False s) {e : Env} {m : FetchMsg} : ResOnward kq False s0 (execResultFetch e m s) := by
  unfold execResultFetch
  try dsimp only
  repeat' first | with_reducible assumption | intro _ | with_reducible exact onward_fault | with_reducible exact onward_refused | with_reducible apply onward_next | with_reducible apply State.message_onward | with_reducible apply State.fetchRun_onward | with_reducible apply onward_ite | split | dsimp only

theorem State.releaseAnswer_onward (h : s0.Onward kq False s) {e : Env} {m : FetchMsg} : s0.Onward kq False (State.releaseAnswer s e m) := by
  unfold State.releaseAnswer
  try dsimp only
  repeat' first | with_reducible assumption | with_reducible apply State.answer_onward | with_reducible apply onward_ite | split | dsimp only

theorem State.releaseRun_onward (h : s0.Onward kq False s) {e : Env} {m : FetchMsg} : s0.Onward kq False (State.releaseRun s e m) := by
  unfold State.releaseRun
  try dsimp only
  repeat' first | with_reducible assumption | intro _ | with_reducible apply State.resRefuse_onward | with_reducible apply State.dropResults_onward | with_reducible apply State.releaseAnswer_onward | with_reducible apply State.needAreas_onward | with_reducible apply State.raiseMark_onward | with_reducible apply State.accepted_onward | with_reducible apply onward_ite | fail_if_no_progress with_reducible refine onward_mkw ?_ rfl rfl rfl rfl rfl rfl rfl rfl | refine onward_of_pair (by assumption) ?_ | split | dsimp only

theorem execResultRelease_onward (h : s0.Onward kq False s) {e : Env} {m : FetchMsg} : ResOnward kq False s0 (execResultRelease e m s) := by
  unfold execResultRelease
  try dsimp only
  repeat' first | with_reducible assumption | intro _ | with_reducible exact onward_fault | with_reducible exact onward_refused | with_reducible apply onward_next | with_reducible apply State.message_onward | with_reducible apply State.releaseRun_onward | with_reducible apply onward_ite | split | dsimp only

theorem State.noteStoreFull_onward (h : s0.Onward kq kw s) {slot : Nat} : s0.Onward kq kw (State.noteStoreFull s slot) := by
  unfold State.noteStoreFull
  try dsimp only
  repeat' first | with_reducible assumption | (show kq → _ ∉ settings; first | exact False.elim | (with_reducible assumption) | exact fun _ => by decide | exact fun _ => mapReg_not_setting _ | exact fun _ => (by unfold gcBusy; split <;> decide) | exact fun _ => not_setting (lo := 272) (by decide) (by omega) | exact fun _ => not_setting (lo := 88) (by decide) (by omega) | exact fun _ => not_setting (lo := 64) (by decide) (by omega) | exact fun _ => not_setting (lo := 96) (by decide) (by omega) | exact fun _ => (by rw [rowOf_id]; first | assumption | exact not_setting (lo := 64) (by decide) (by omega) | exact not_setting (lo := 272) (by decide) (by omega)) | exact fun _ => not_setting (lo := 32) (by decide) (by omega)) | with_reducible apply State.bump_onward | with_reducible apply State.raiseOnce_onward | with_reducible apply onward_ite | split | dsimp only

theorem State.addResult_onward (h : s0.Onward kq False s) {e : Env} {r : Result} : s0.Onward kq False (State.addResult s e r) := by
  unfold State.addResult
  try dsimp only
  repeat' first | with_reducible assumption | (show kq → _ ∉ settings; first | exact False.elim | (with_reducible assumption) | exact fun _ => by decide | exact fun _ => mapReg_not_setting _ | exact fun _ => (by unfold gcBusy; split <;> decide) | exact fun _ => not_setting (lo := 272) (by decide) (by omega) | exact fun _ => not_setting (lo := 88) (by decide) (by omega) | exact fun _ => not_setting (lo := 64) (by decide) (by omega) | exact fun _ => not_setting (lo := 96) (by decide) (by omega) | exact fun _ => (by rw [rowOf_id]; first | assumption | exact not_setting (lo := 64) (by decide) (by omega) | exact not_setting (lo := 272) (by decide) (by omega)) | exact fun _ => not_setting (lo := 32) (by decide) (by omega)) | intro _ | with_reducible apply State.track_onward | with_reducible apply State.bump_onward | with_reducible apply State.finishResult_onward | with_reducible apply State.pump_onward | with_reducible apply State.runPromos_onward | with_reducible apply onward_ite | fail_if_no_progress with_reducible refine onward_mkw ?_ rfl rfl rfl rfl rfl rfl rfl rfl | split | dsimp only

theorem State.attendAppend_onward (h : s0.Onward kq False s) {slot : Nat} {m : AttendMsg} {row : List BF16} : s0.Onward kq False (State.attendAppend s slot m row).1 := by
  unfold State.attendAppend
  try dsimp only
  repeat' first | with_reducible assumption | with_reducible apply State.appendRow_onward | with_reducible apply State.setLength_onward | with_reducible apply onward_ite | fail_if_no_progress with_reducible refine onward_mkw ?_ rfl rfl rfl rfl rfl rfl rfl rfl | split | dsimp only

theorem State.attendApply_onward (h : s0.Onward kq False s) {e : Env} {m : AttendMsg} {slot : Nat} {xs : List BF16} : s0.Onward kq False (State.attendApply s e m slot xs) := by
  unfold State.attendApply
  try dsimp only
  repeat' first | with_reducible assumption | with_reducible apply State.attendAppend_onward | with_reducible apply State.putArea_onward | with_reducible apply State.accepted_onward | with_reducible apply State.addResult_onward | with_reducible apply onward_ite | fail_if_no_progress with_reducible refine onward_mkw ?_ rfl rfl rfl rfl rfl rfl rfl rfl | refine onward_of_pair (by assumption) ?_ | split | dsimp only

theorem State.attendTests_onward (h : s0.Onward kq False s) {e : Env} {m : AttendMsg} : s0.Onward kq False (State.attendTests s e m) := by
  unfold State.attendTests
  try dsimp only
  repeat' first | with_reducible assumption | intro _ | with_reducible apply State.resRefuse_onward | with_reducible apply State.openData_onward | with_reducible apply State.noteStoreFull_onward | with_reducible apply State.attendApply_onward | with_reducible apply onward_ite | fail_if_no_progress with_reducible refine onward_mkw ?_ rfl rfl rfl rfl rfl rfl rfl rfl | refine onward_of_pair (by assumption) ?_ | split | dsimp only

theorem State.attendRun_onward (h : s0.Onward kq False s) {e : Env} {m : AttendMsg} : s0.Onward kq False (State.attendRun s e m) := by
  unfold State.attendRun
  try dsimp only
  repeat' first | with_reducible assumption | intro _ | with_reducible apply State.resRefuse_onward | with_reducible apply State.needAreas_onward | with_reducible apply State.accepted_onward | with_reducible apply State.serveFetch_onward | with_reducible apply State.attendTests_onward | with_reducible apply onward_ite | fail_if_no_progress with_reducible refine onward_mkw ?_ rfl rfl rfl rfl rfl rfl rfl rfl | refine onward_of_pair (by assumption) ?_ | split | dsimp only

theorem execAttend_onward (h : s0.Onward kq False s) {e : Env} {m : AttendMsg} : ResOnward kq False s0 (execAttend e m s) := by
  unfold execAttend
  try dsimp only
  repeat' first | with_reducible assumption | intro _ | with_reducible exact onward_fault | with_reducible exact onward_refused | with_reducible apply onward_next | with_reducible apply State.message_onward | with_reducible apply State.attendRun_onward | with_reducible apply onward_ite | split | dsimp only

theorem State.readPages_onward (h : s0.Onward kq False s) {r : Result} {seg : Nat} : s0.Onward kq False (State.readPages s r seg) := by
  unfold State.readPages
  try dsimp only
  repeat' first | with_reducible assumption | intro _ | with_reducible apply State.touch_onward | with_reducible apply State.walkPage_onward | with_reducible apply onward_ite | with_reducible apply onward_foldl | fail_if_no_progress with_reducible refine onward_mkw ?_ rfl rfl rfl rfl rfl rfl rfl rfl | split | dsimp only

theorem State.unitComputed_onward (h : s0.Onward kq False s) {r : Result} {u : AttnUnit} : s0.Onward kq False (State.unitComputed s r u) := by
  unfold State.unitComputed
  try dsimp only
  repeat' first | with_reducible assumption | intro _ | with_reducible apply State.readPages_onward | with_reducible apply State.mapUnit_onward | with_reducible apply State.mapResult_onward | with_reducible apply State.finishResult_onward | with_reducible apply onward_ite | fail_if_no_progress with_reducible refine onward_mkw ?_ rfl rfl rfl rfl rfl rfl rfl rfl | split | dsimp only

theorem State.walkFault_onward (h : s0.Onward kq kw s) {die : Nat} {ctx addr : Nat} : s0.Onward kq kw (State.walkFault s die ctx addr) := by
  unfold State.walkFault
  try dsimp only
  repeat' first | with_reducible assumption | (show kq → _ ∉ settings; first | exact False.elim | (with_reducible assumption) | exact fun _ => by decide | exact fun _ => mapReg_not_setting _ | exact fun _ => (by unfold gcBusy; split <;> decide) | exact fun _ => not_setting (lo := 272) (by decide) (by omega) | exact fun _ => not_setting (lo := 88) (by decide) (by omega) | exact fun _ => not_setting (lo := 64) (by decide) (by omega) | exact fun _ => not_setting (lo := 96) (by decide) (by omega) | exact fun _ => (by rw [rowOf_id]; first | assumption | exact not_setting (lo := 64) (by decide) (by omega) | exact not_setting (lo := 272) (by decide) (by omega)) | exact fun _ => not_setting (lo := 32) (by decide) (by omega)) | with_reducible apply State.bump_onward | with_reducible apply State.raise_onward | with_reducible apply onward_ite | split | dsimp only

theorem State.loseCopy_onward (h : s0.Onward kq False s) {r : Result} {u : AttnUnit} {page : Option Nat} : s0.Onward kq False (State.loseCopy s r u page) := by
  unfold State.loseCopy
  try dsimp only
  repeat' first | with_reducible assumption | (show kq → _ ∉ settings; first | exact False.elim | (with_reducible assumption) | exact fun _ => by decide | exact fun _ => mapReg_not_setting _ | exact fun _ => (by unfold gcBusy; split <;> decide) | exact fun _ => not_setting (lo := 272) (by decide) (by omega) | exact fun _ => not_setting (lo := 88) (by decide) (by omega) | exact fun _ => not_setting (lo := 64) (by decide) (by omega) | exact fun _ => not_setting (lo := 96) (by decide) (by omega) | exact fun _ => (by rw [rowOf_id]; first | assumption | exact not_setting (lo := 64) (by decide) (by omega) | exact not_setting (lo := 272) (by decide) (by omega)) | exact fun _ => not_setting (lo := 32) (by decide) (by omega)) | intro _ | with_reducible apply State.dealloc_onward | with_reducible apply State.bump_onward | with_reducible apply State.logErr_onward | with_reducible apply State.nextFree_onward | with_reducible apply State.sramError_onward | with_reducible apply onward_ite | with_reducible apply onward_foldl | fail_if_no_progress with_reducible refine onward_mkw ?_ rfl rfl rfl rfl rfl rfl rfl rfl | split | dsimp only

theorem State.unitOutcome_onward (h : s0.Onward kq False s) {r : Result} {u : AttnUnit} {x0 : UnitOutcome} : s0.Onward kq False (State.unitOutcome s r u x0) := by
  unfold State.unitOutcome
  try dsimp only
  repeat' first | with_reducible assumption | intro _ | with_reducible apply State.unitComputed_onward | with_reducible apply State.loseCopy_onward | with_reducible apply State.tileCheck_onward | with_reducible apply State.failResult_onward | with_reducible apply State.walkFault_onward | with_reducible apply State.t1Fail_onward | with_reducible apply State.tearDown_onward | with_reducible apply State.logErr_onward | with_reducible apply State.sramError_onward | with_reducible apply State.waitPage_onward | with_reducible apply onward_ite | fail_if_no_progress with_reducible refine onward_mkw ?_ rfl rfl rfl rfl rfl rfl rfl rfl | split | dsimp only

theorem execAttnUnitDone_onward (h : s0.Onward kq False s) {t slot : Nat} {key : ResKey} {kvHead seg : Nat} {o : UnitOutcome} : ResOnward kq False s0 (execAttnUnitDone t slot key kvHead seg o s) := by
  unfold execAttnUnitDone
  try dsimp only
  repeat' first | with_reducible assumption | intro _ | with_reducible exact onward_fault | with_reducible exact onward_refused | with_reducible apply onward_next | with_reducible apply State.tick_onward | with_reducible apply State.unitOutcome_onward | with_reducible apply State.remapIdle_onward | with_reducible apply State.pump_onward | with_reducible apply State.runPromos_onward | with_reducible apply State.pickAll_onward | with_reducible apply State.formResults_onward | with_reducible apply onward_ite | fail_if_no_progress with_reducible refine onward_mkw ?_ rfl rfl rfl rfl rfl rfl rfl rfl | split | dsimp only

theorem execFanoutWaitExpired_onward (h : s0.Onward kq kw s) {t die cluster : Nat} : ResOnward kq kw s0 (execFanoutWaitExpired t die cluster s) := by
  unfold execFanoutWaitExpired
  try dsimp only
  repeat' first | with_reducible assumption | with_reducible exact onward_fault | with_reducible exact onward_refused | with_reducible apply onward_next | with_reducible apply State.tick_onward | with_reducible apply State.startGroups_onward | with_reducible apply onward_ite | split | dsimp only

theorem execAutoRelease_onward (h : s0.Onward kq False s) {t slot : Nat} {key : ResKey} : ResOnward kq False s0 (execAutoRelease t slot key s) := by
  unfold execAutoRelease
  try dsimp only
  repeat' first | with_reducible assumption | with_reducible exact onward_fault | with_reducible exact onward_refused | with_reducible apply onward_next | with_reducible apply State.tick_onward | with_reducible apply State.autoRelease_onward | with_reducible apply onward_ite | fail_if_no_progress with_reducible refine onward_mkw ?_ rfl rfl rfl rfl rfl rfl rfl rfl | split | dsimp only

theorem execRetentionEnd_onward (h : s0.Onward kq kw s) {t slot : Nat} {key : ResKey} : ResOnward kq kw s0 (execRetentionEnd t slot key s) := by
  unfold execRetentionEnd
  try dsimp only
  repeat' first | with_reducible assumption | with_reducible exact onward_fault | with_reducible exact onward_refused | with_reducible apply onward_next | with_reducible apply State.tick_onward | with_reducible apply State.dropResult_onward | with_reducible apply onward_ite | fail_if_no_progress with_reducible refine onward_mk ?_ rfl rfl rfl rfl rfl rfl rfl rfl rfl rfl rfl rfl rfl rfl | split | dsimp only

theorem State.takeHeld_onward (h : s0.Onward kq False s) {die : Nat} : s0.Onward kq False (State.takeHeld s die).1 := by
  unfold State.takeHeld
  try dsimp only
  repeat' first | with_reducible assumption | with_reducible apply onward_ite | fail_if_no_progress with_reducible refine onward_mkw ?_ rfl rfl rfl rfl rfl rfl rfl rfl | split | dsimp only

end Sys2Proof.Machine
end

