-- ==== Sys2Proof/Laws/OnwardFinishing.lean ====
section
/-! SUPPORT. What the functions of Machine/Finishing.lean keep: each answers a state its argument may go on to. -/

namespace Sys2Proof.Machine

set_option linter.unusedTactic false
set_option linter.unreachableTactic false

variable {kq kw : Prop} {s0 s : State}

theorem State.finRefuse_onward (h : s0.Onward kq False s) {e : Env} {m : FinMsg} {x : Refuse} : s0.Onward kq False (State.finRefuse s e m x) := by
  unfold State.finRefuse
  try dsimp only
  repeat' first | with_reducible assumption | (show kq → _ ∉ settings; first | exact False.elim | (with_reducible assumption) | exact fun _ => by decide | exact fun _ => mapReg_not_setting _ | exact fun _ => (by unfold gcBusy; split <;> decide) | exact fun _ => not_setting (lo := 272) (by decide) (by omega) | exact fun _ => not_setting (lo := 88) (by decide) (by omega) | exact fun _ => not_setting (lo := 64) (by decide) (by omega) | exact fun _ => not_setting (lo := 96) (by decide) (by omega) | exact fun _ => (by rw [rowOf_id]; first | assumption | exact not_setting (lo := 64) (by decide) (by omega) | exact not_setting (lo := 272) (by decide) (by omega)) | exact fun _ => not_setting (lo := 32) (by decide) (by omega)) | with_reducible apply State.noteRefuse_onward | with_reducible apply State.bump_onward | with_reducible apply State.answer_onward | with_reducible apply onward_ite | split | dsimp only

theorem State.finData_onward (h : s0.Onward kq kw s) {e : Env} {m : FinMsg} {form : Nat} : s0.Onward kq kw (State.finData s e m form).1 := by
  unfold State.finData
  try dsimp only
  repeat' first | with_reducible assumption | with_reducible apply State.openData_onward | with_reducible apply onward_ite | fail_if_no_progress with_reducible refine onward_mk ?_ rfl rfl rfl rfl rfl rfl rfl rfl rfl rfl rfl rfl rfl rfl | refine onward_of_pair (by assumption) ?_ | split | dsimp only

theorem State.refGram_onward (h : s0.Onward kq False s) {die id : Nat} : s0.Onward kq False (State.refGram s die id) := by
  unfold State.refGram
  try dsimp only
  repeat' first | with_reducible assumption | with_reducible apply onward_ite | fail_if_no_progress with_reducible refine onward_mkw ?_ rfl rfl rfl rfl rfl rfl rfl rfl | split | dsimp only

theorem State.finCount_onward (h : s0.Onward kq kw s) {slot form : Nat} {o : FinOut} {sats : Nat} : s0.Onward kq kw (State.finCount s slot form o sats) := by
  unfold State.finCount
  try dsimp only
  repeat' first | with_reducible assumption | (show kq → _ ∉ settings; first | exact False.elim | (with_reducible assumption) | exact fun _ => by decide | exact fun _ => mapReg_not_setting _ | exact fun _ => (by unfold gcBusy; split <;> decide) | exact fun _ => not_setting (lo := 272) (by decide) (by omega) | exact fun _ => not_setting (lo := 88) (by decide) (by omega) | exact fun _ => not_setting (lo := 64) (by decide) (by omega) | exact fun _ => not_setting (lo := 96) (by decide) (by omega) | exact fun _ => (by rw [rowOf_id]; first | assumption | exact not_setting (lo := 64) (by decide) (by omega) | exact not_setting (lo := 272) (by decide) (by omega)) | exact fun _ => not_setting (lo := 32) (by decide) (by omega)) | with_reducible apply State.bump_onward | with_reducible apply State.bumpBy_onward | with_reducible apply State.raiseOnce_onward | with_reducible apply onward_ite | split | dsimp only

theorem State.finApply_onward (h : s0.Onward kq False s) {e : Env} {m : FinMsg} {form : Nat} {d : FinData} {f : FinState} {a0 a : FinArea} {o : FinOut} : s0.Onward kq False (State.finApply s e m form d f a0 a o) := by
  unfold State.finApply
  try dsimp only
  repeat' first | with_reducible assumption | with_reducible apply State.unrefGram_onward | with_reducible apply State.refGram_onward | with_reducible apply State.setSess_onward | with_reducible apply State.putArea_onward | with_reducible apply State.accepted_onward | with_reducible apply State.finCount_onward | with_reducible apply State.answer_onward | with_reducible apply onward_ite | fail_if_no_progress with_reducible refine onward_mkw ?_ rfl rfl rfl rfl rfl rfl rfl rfl | split | dsimp only

theorem State.finReplay_onward (h : s0.Onward kq False s) {e : Env} {slot : Nat} {a : FinArea} : s0.Onward kq False (State.finReplay s e slot a) := by
  unfold State.finReplay
  try dsimp only
  repeat' first | with_reducible assumption | (show kq → _ ∉ settings; first | exact False.elim | (with_reducible assumption) | exact fun _ => by decide | exact fun _ => mapReg_not_setting _ | exact fun _ => (by unfold gcBusy; split <;> decide) | exact fun _ => not_setting (lo := 272) (by decide) (by omega) | exact fun _ => not_setting (lo := 88) (by decide) (by omega) | exact fun _ => not_setting (lo := 64) (by decide) (by omega) | exact fun _ => not_setting (lo := 96) (by decide) (by omega) | exact fun _ => (by rw [rowOf_id]; first | assumption | exact not_setting (lo := 64) (by decide) (by omega) | exact not_setting (lo := 272) (by decide) (by omega)) | exact fun _ => not_setting (lo := 32) (by decide) (by omega)) | with_reducible apply State.accepted_onward | with_reducible apply State.bump_onward | with_reducible apply State.answer_onward | with_reducible apply onward_ite | split | dsimp only

theorem State.finRest_onward (h : s0.Onward kq False s) {e : Env} {m : FinMsg} {form : Nat} {d : FinData} : s0.Onward kq False (State.finRest s e m form d) := by
  unfold State.finRest
  try dsimp only
  repeat' first | with_reducible assumption | with_reducible apply State.finRefuse_onward | with_reducible apply State.raiseOnce_onward | with_reducible apply State.finApply_onward | with_reducible apply onward_ite | fail_if_no_progress with_reducible refine onward_mkw ?_ rfl rfl rfl rfl rfl rfl rfl rfl | split | dsimp only

theorem State.finRun_onward (h : s0.Onward kq False s) {e : Env} {m : FinMsg} {form : Nat} : s0.Onward kq False (State.finRun s e m form) := by
  unfold State.finRun
  try dsimp only
  repeat' first | with_reducible assumption | intro _ | with_reducible apply State.finRefuse_onward | with_reducible apply State.finReplay_onward | with_reducible apply State.finData_onward | with_reducible apply State.finRest_onward | with_reducible apply onward_ite | fail_if_no_progress with_reducible refine onward_mkw ?_ rfl rfl rfl rfl rfl rfl rfl rfl | refine onward_of_pair (by assumption) ?_ | split | dsimp only

theorem State.finMessage_onward (h : s0.Onward kq False s) {e : Env} {c : Instr} {m : FinMsg} {form : Nat} : s0.Onward kq False (State.finMessage s e c m form) := by
  unfold State.finMessage
  try dsimp only
  repeat' first | with_reducible assumption | intro _ | with_reducible apply State.message_onward | with_reducible apply State.finRun_onward | with_reducible apply onward_ite | split | dsimp only

theorem execDraw_onward (h : s0.Onward kq False s) {e : Env} {m : FinMsg} : ResOnward kq False s0 (execDraw e m s) := by
  unfold execDraw
  try dsimp only
  repeat' first | with_reducible assumption | with_reducible exact onward_fault | with_reducible exact onward_refused | with_reducible apply onward_next | with_reducible apply State.finMessage_onward | with_reducible apply onward_ite | split | dsimp only

theorem execFeed_onward (h : s0.Onward kq False s) {e : Env} {m : FinMsg} : ResOnward kq False s0 (execFeed e m s) := by
  unfold execFeed
  try dsimp only
  repeat' first | with_reducible assumption | with_reducible exact onward_fault | with_reducible exact onward_refused | with_reducible apply onward_next | with_reducible apply State.finMessage_onward | with_reducible apply onward_ite | split | dsimp only

theorem execGrammar_onward (h : s0.Onward kq False s) {e : Env} {m : FinMsg} : ResOnward kq False s0 (execGrammar e m s) := by
  unfold execGrammar
  try dsimp only
  repeat' first | with_reducible assumption | with_reducible exact onward_fault | with_reducible exact onward_refused | with_reducible apply onward_next | with_reducible apply State.finMessage_onward | with_reducible apply onward_ite | split | dsimp only

theorem execFinReset_onward (h : s0.Onward kq False s) {e : Env} {m : FinMsg} : ResOnward kq False s0 (execFinReset e m s) := by
  unfold execFinReset
  try dsimp only
  repeat' first | with_reducible assumption | with_reducible exact onward_fault | with_reducible exact onward_refused | with_reducible apply onward_next | with_reducible apply State.finMessage_onward | with_reducible apply onward_ite | split | dsimp only

end Sys2Proof.Machine
end

