-- ==== Sys2Proof/Laws/OnwardAccess.lean ====
section
/-! SUPPORT. What the functions of Machine/Access.lean keep: each answers a state its argument may go on to. -/

namespace Sys2Proof.Machine

set_option linter.unusedTactic false
set_option linter.unreachableTactic false

variable {kq kw : Prop} {s0 s : State}

theorem State.setCore_onward (h : s0.Onward kq kw s) {c : CoreState} : s0.Onward kq kw (State.setCore s c) := by
  unfold State.setCore
  try dsimp only
  repeat' first | with_reducible assumption | intro _ | with_reducible apply onward_ite | fail_if_no_progress with_reducible refine onward_mk ?_ rfl rfl rfl rfl rfl rfl rfl rfl rfl rfl rfl rfl rfl rfl | split | dsimp only

theorem State.endService_onward (h : s0.Onward kq kw s) {v : Service} {status : Nat} : s0.Onward kq kw (State.endService s v status) := by
  unfold State.endService
  try dsimp only
  repeat' first | with_reducible assumption | (show kq → _ ∉ settings; first | exact False.elim | (with_reducible assumption) | exact fun _ => by decide | exact fun _ => mapReg_not_setting _ | exact fun _ => (by unfold gcBusy; split <;> decide) | exact fun _ => not_setting (lo := 272) (by decide) (by omega) | exact fun _ => not_setting (lo := 88) (by decide) (by omega) | exact fun _ => not_setting (lo := 64) (by decide) (by omega) | exact fun _ => not_setting (lo := 96) (by decide) (by omega) | exact fun _ => (by rw [rowOf_id]; first | assumption | exact not_setting (lo := 64) (by decide) (by omega) | exact not_setting (lo := 272) (by decide) (by omega)) | exact fun _ => not_setting (lo := 32) (by decide) (by omega)) | intro _ | with_reducible apply State.setReg_onward | with_reducible apply State.setFld_onward | with_reducible apply onward_ite | fail_if_no_progress with_reducible refine onward_mk ?_ rfl rfl rfl rfl rfl rfl rfl rfl rfl rfl rfl rfl rfl rfl | split | dsimp only

theorem State.abandonService_onward (h : s0.Onward kq kw s) {die code : Nat} : s0.Onward kq kw (State.abandonService s die code) := by
  unfold State.abandonService
  try dsimp only
  repeat' first | with_reducible assumption | intro _ | with_reducible apply State.endService_onward | with_reducible apply onward_ite | fail_if_no_progress with_reducible refine onward_mk ?_ rfl rfl rfl rfl rfl rfl rfl rfl rfl rfl rfl rfl rfl rfl | split | dsimp only

theorem State.returnJobs_onward (h : s0.Onward kq kw s) {die code : Nat} : s0.Onward kq kw (State.returnJobs s die code) := by
  unfold State.returnJobs
  try dsimp only
  repeat' first | with_reducible assumption | intro _ | with_reducible apply onward_ite | fail_if_no_progress with_reducible refine onward_mk ?_ rfl rfl rfl rfl rfl rfl rfl rfl rfl rfl rfl rfl rfl rfl | split | dsimp only

theorem State.lampFault_onward (h : s0.Onward kq kw s) {die code : Nat} : s0.Onward kq kw (State.lampFault s die code) := by
  unfold State.lampFault
  try dsimp only
  repeat' first | with_reducible assumption | (show kq → _ ∉ settings; first | exact False.elim | (with_reducible assumption) | exact fun _ => by decide | exact fun _ => mapReg_not_setting _ | exact fun _ => (by unfold gcBusy; split <;> decide) | exact fun _ => not_setting (lo := 272) (by decide) (by omega) | exact fun _ => not_setting (lo := 88) (by decide) (by omega) | exact fun _ => not_setting (lo := 64) (by decide) (by omega) | exact fun _ => not_setting (lo := 96) (by decide) (by omega) | exact fun _ => (by rw [rowOf_id]; first | assumption | exact not_setting (lo := 64) (by decide) (by omega) | exact not_setting (lo := 272) (by decide) (by omega)) | exact fun _ => not_setting (lo := 32) (by decide) (by omega)) | with_reducible apply State.bump_onward | with_reducible apply State.setCore_onward | with_reducible apply State.abandonService_onward | with_reducible apply State.returnJobs_onward | with_reducible apply State.setFld_onward | with_reducible apply State.setMap_onward | with_reducible apply State.setReg_onward | with_reducible apply State.raise_onward | with_reducible apply onward_ite | fail_if_no_progress with_reducible refine onward_mk ?_ rfl rfl rfl rfl rfl rfl rfl rfl rfl rfl rfl rfl rfl rfl | split | dsimp only

theorem State.fwLimit_onward (h : s0.Onward kq kw s) {die code row : Nat} : s0.Onward kq kw (State.fwLimit s die code row) := by
  unfold State.fwLimit
  try dsimp only
  repeat' first | with_reducible assumption | (show kq → _ ∉ settings; first | exact False.elim | (with_reducible assumption) | exact fun _ => by decide | exact fun _ => mapReg_not_setting _ | exact fun _ => (by unfold gcBusy; split <;> decide) | exact fun _ => not_setting (lo := 272) (by decide) (by omega) | exact fun _ => not_setting (lo := 88) (by decide) (by omega) | exact fun _ => not_setting (lo := 64) (by decide) (by omega) | exact fun _ => not_setting (lo := 96) (by decide) (by omega) | exact fun _ => (by rw [rowOf_id]; first | assumption | exact not_setting (lo := 64) (by decide) (by omega) | exact not_setting (lo := 272) (by decide) (by omega)) | exact fun _ => not_setting (lo := 32) (by decide) (by omega)) | with_reducible apply State.bump_onward | with_reducible apply State.setFld_onward | with_reducible apply State.raiseOnce_onward | with_reducible apply State.tearDown_onward | with_reducible apply State.lampFault_onward | with_reducible apply onward_ite | fail_if_no_progress with_reducible refine onward_mk ?_ rfl rfl rfl rfl rfl rfl rfl rfl rfl rfl rfl rfl rfl rfl | split | dsimp only

theorem State.fwLimitFree_onward (h : s0.Onward kq kw s) {die code : Nat} : s0.Onward kq kw (State.fwLimitFree s die code) := by
  unfold State.fwLimitFree
  try dsimp only
  repeat' first | with_reducible assumption | with_reducible apply State.fwLimit_onward | with_reducible apply State.nextFree_onward | with_reducible apply onward_ite | split | dsimp only

theorem State.coreTrap_onward (h : s0.Onward kq kw s) {die code : Nat} {x0 : CoreTrap} : s0.Onward kq kw (State.coreTrap s die code x0) := by
  unfold State.coreTrap
  try dsimp only
  repeat' first | with_reducible assumption | with_reducible apply State.tearDown_onward | with_reducible apply State.lampFault_onward | with_reducible apply State.fwLimit_onward | with_reducible apply onward_ite | fail_if_no_progress with_reducible refine onward_mk ?_ rfl rfl rfl rfl rfl rfl rfl rfl rfl rfl rfl rfl rfl rfl | split | dsimp only

theorem execCoreException_onward (h : s0.Onward kq kw s) {t die core : Nat} {k : CoreTrap} : ResOnward kq kw s0 (execCoreException t die core k s) := by
  unfold execCoreException
  try dsimp only
  repeat' first | with_reducible assumption | with_reducible exact onward_fault | with_reducible exact onward_refused | with_reducible apply onward_next | with_reducible apply State.tick_onward | with_reducible apply State.coreTrap_onward | with_reducible apply onward_ite | split | dsimp only

theorem execLampFault_onward (h : s0.Onward kq kw s) {t die core : Nat} : ResOnward kq kw s0 (execLampFault t die core s) := by
  unfold execLampFault
  try dsimp only
  repeat' first | with_reducible assumption | with_reducible exact onward_fault | with_reducible exact onward_refused | with_reducible apply onward_next | with_reducible apply State.tick_onward | with_reducible apply State.lampFault_onward | with_reducible apply onward_ite | split | dsimp only

theorem execWatchdogExpiry_onward (h : s0.Onward kq kw s) {t die core : Nat} : ResOnward kq kw s0 (execWatchdogExpiry t die core s) := by
  unfold execWatchdogExpiry
  try dsimp only
  repeat' first | with_reducible assumption | with_reducible exact onward_fault | with_reducible exact onward_refused | with_reducible apply onward_next | with_reducible apply State.tick_onward | with_reducible apply State.lampFault_onward | with_reducible apply onward_ite | split | dsimp only

theorem State.supOut_onward (h : s0.Onward kq kw s) {die : Nat} : s0.Onward kq kw (State.supOut s die) := by
  unfold State.supOut
  try dsimp only
  repeat' first | with_reducible assumption | (show kq → _ ∉ settings; first | exact False.elim | (with_reducible assumption) | exact fun _ => by decide | exact fun _ => mapReg_not_setting _ | exact fun _ => (by unfold gcBusy; split <;> decide) | exact fun _ => not_setting (lo := 272) (by decide) (by omega) | exact fun _ => not_setting (lo := 88) (by decide) (by omega) | exact fun _ => not_setting (lo := 64) (by decide) (by omega) | exact fun _ => not_setting (lo := 96) (by decide) (by omega) | exact fun _ => (by rw [rowOf_id]; first | assumption | exact not_setting (lo := 64) (by decide) (by omega) | exact not_setting (lo := 272) (by decide) (by omega)) | exact fun _ => not_setting (lo := 32) (by decide) (by omega)) | with_reducible apply State.setFld_onward | with_reducible apply State.setMap_onward | with_reducible apply State.raise_onward | with_reducible apply onward_ite | split | dsimp only

theorem State.mismatch_onward (h : s0.Onward kq kw s) {die : Nat} : s0.Onward kq kw (State.mismatch s die) := by
  unfold State.mismatch
  try dsimp only
  repeat' first | with_reducible assumption | (show kq → _ ∉ settings; first | exact False.elim | (with_reducible assumption) | exact fun _ => by decide | exact fun _ => mapReg_not_setting _ | exact fun _ => (by unfold gcBusy; split <;> decide) | exact fun _ => not_setting (lo := 272) (by decide) (by omega) | exact fun _ => not_setting (lo := 88) (by decide) (by omega) | exact fun _ => not_setting (lo := 64) (by decide) (by omega) | exact fun _ => not_setting (lo := 96) (by decide) (by omega) | exact fun _ => (by rw [rowOf_id]; first | assumption | exact not_setting (lo := 64) (by decide) (by omega) | exact not_setting (lo := 272) (by decide) (by omega)) | exact fun _ => not_setting (lo := 32) (by decide) (by omega)) | with_reducible apply State.bump_onward | with_reducible apply State.setCore_onward | with_reducible apply State.setFld_onward | with_reducible apply State.setReg_onward | with_reducible apply State.raise_onward | with_reducible apply State.supOut_onward | with_reducible apply onward_ite | fail_if_no_progress with_reducible refine onward_mk ?_ rfl rfl rfl rfl rfl rfl rfl rfl rfl rfl rfl rfl rfl rfl | split | dsimp only

theorem execLockstepMismatch_onward (h : s0.Onward kq kw s) {t die : Nat} : ResOnward kq kw s0 (execLockstepMismatch t die s) := by
  unfold execLockstepMismatch
  try dsimp only
  repeat' first | with_reducible assumption | with_reducible exact onward_fault | with_reducible exact onward_refused | with_reducible apply onward_next | with_reducible apply State.tick_onward | with_reducible apply State.mismatch_onward | with_reducible apply onward_ite | split | dsimp only

theorem State.supRestart_onward (h : s0.Onward kq kw s) {die : Nat} {ok : Bool} : s0.Onward kq kw (State.supRestart s die ok) := by
  unfold State.supRestart
  try dsimp only
  repeat' first | with_reducible assumption | (show kq → _ ∉ settings; first | exact False.elim | (with_reducible assumption) | exact fun _ => by decide | exact fun _ => mapReg_not_setting _ | exact fun _ => (by unfold gcBusy; split <;> decide) | exact fun _ => not_setting (lo := 272) (by decide) (by omega) | exact fun _ => not_setting (lo := 88) (by decide) (by omega) | exact fun _ => not_setting (lo := 64) (by decide) (by omega) | exact fun _ => not_setting (lo := 96) (by decide) (by omega) | exact fun _ => (by rw [rowOf_id]; first | assumption | exact not_setting (lo := 64) (by decide) (by omega) | exact not_setting (lo := 272) (by decide) (by omega)) | exact fun _ => not_setting (lo := 32) (by decide) (by omega)) | with_reducible apply State.setCore_onward | with_reducible apply State.setFld_onward | with_reducible apply State.supOut_onward | with_reducible apply onward_ite | fail_if_no_progress with_reducible refine onward_mk ?_ rfl rfl rfl rfl rfl rfl rfl rfl rfl rfl rfl rfl rfl rfl | split | dsimp only

theorem execSupRestart_onward (h : s0.Onward kq kw s) {t die : Nat} {digestOk inTime : Bool} : ResOnward kq kw s0 (execSupRestart t die digestOk inTime s) := by
  unfold execSupRestart
  try dsimp only
  repeat' first | with_reducible assumption | with_reducible exact onward_fault | with_reducible exact onward_refused | with_reducible apply onward_next | with_reducible apply State.tick_onward | with_reducible apply State.supRestart_onward | with_reducible apply onward_ite | split | dsimp only

theorem State.noteWrite_onward (h : s0.Onward kq kw s) {rq : Requester} {die : Nat} {r : RegId} {v : Word} {p : Option PendingIdx} : s0.Onward kq kw (State.noteWrite s rq die r v p) := by
  unfold State.noteWrite
  try dsimp only
  repeat' first | with_reducible assumption | with_reducible apply State.addRec_onward | with_reducible apply onward_ite | fail_if_no_progress with_reducible refine onward_mk ?_ rfl rfl rfl rfl rfl rfl rfl rfl rfl rfl rfl rfl rfl rfl | split | dsimp only

theorem State.store_onward (h : s0.Onward kq kw s) {die sel : Nat} {r : RegRow} {v : Word} (hr : kq → r.id ∉ settings) : s0.Onward kq kw (State.store s die sel r v) := by
  unfold State.store
  try dsimp only
  repeat' first | with_reducible assumption | (show kq → _ ∉ settings; first | exact False.elim | (with_reducible assumption) | exact fun _ => by decide | exact fun _ => mapReg_not_setting _ | exact fun _ => (by unfold gcBusy; split <;> decide) | exact fun _ => not_setting (lo := 272) (by decide) (by omega) | exact fun _ => not_setting (lo := 88) (by decide) (by omega) | exact fun _ => not_setting (lo := 64) (by decide) (by omega) | exact fun _ => not_setting (lo := 96) (by decide) (by omega) | exact fun _ => (by rw [rowOf_id]; first | assumption | exact not_setting (lo := 64) (by decide) (by omega) | exact not_setting (lo := 272) (by decide) (by omega)) | exact fun _ => not_setting (lo := 32) (by decide) (by omega)) | with_reducible apply State.setReg_onward | with_reducible apply onward_ite | split | dsimp only

theorem State.regWrite_onward (h : s0.Onward kq kw s) {a : Acc} {r : RegRow} {v : Word} {p : Option PendingIdx} {f : State → Nat → State} (hf : ∀ (s : State) (x1 : Nat), s0.Onward kq kw s → s0.Onward kq kw (f s x1)) : s0.Onward kq kw (State.regWrite s a r v p f) := by
  unfold State.regWrite
  try dsimp only
  repeat' first | with_reducible assumption | with_reducible apply State.tick_onward | with_reducible apply State.noteWrite_onward | with_reducible apply State.fwLimit_onward | with_reducible apply State.fwLimitFree_onward | with_reducible apply hf | with_reducible apply onward_ite | fail_if_no_progress with_reducible refine onward_mk ?_ rfl rfl rfl rfl rfl rfl rfl rfl rfl rfl rfl rfl rfl rfl | split | dsimp only

theorem State.regRead_onward (h : s0.Onward kq kw s) {a : Acc} {r : RegRow} {f : State → Nat → State} (hf : ∀ (s : State) (x1 : Nat), s0.Onward kq kw s → s0.Onward kq kw (f s x1)) : s0.Onward kq kw (State.regRead s a r f) := by
  unfold State.regRead
  try dsimp only
  repeat' first | with_reducible assumption | with_reducible apply State.tick_onward | with_reducible apply hf | with_reducible apply onward_ite | fail_if_no_progress with_reducible refine onward_mk ?_ rfl rfl rfl rfl rfl rfl rfl rfl rfl rfl rfl rfl rfl rfl | split | dsimp only

end Sys2Proof.Machine
end

