-- ==== Sys2Proof/Laws/OnwardMemory.lean ====
section
/-! SUPPORT. What the functions of Machine/Memory.lean keep: each answers a state its argument may go on to. -/

namespace Sys2Proof.Machine

set_option linter.unusedTactic false
set_option linter.unreachableTactic false

variable {kq kw : Prop} {s0 s : State}

theorem State.noteCe_onward (h : s0.Onward kq False s) {die cluster : Nat} : s0.Onward kq False (State.noteCe s die cluster) := by
  unfold State.noteCe
  try dsimp only
  repeat' first | with_reducible assumption | intro _ | with_reducible apply State.raise_onward | with_reducible apply State.warnCkpt_onward | with_reducible apply onward_ite | fail_if_no_progress with_reducible refine onward_mkw ?_ rfl rfl rfl rfl rfl rfl rfl rfl | split | dsimp only

theorem State.memCe_onward (h : s0.Onward kq False s) {die : Nat} {p : Place} {test patrol : Bool} : s0.Onward kq False (State.memCe s die p test patrol) := by
  unfold State.memCe
  try dsimp only
  repeat' first | with_reducible assumption | (show kq → _ ∉ settings; first | exact False.elim | (with_reducible assumption) | exact fun _ => by decide | exact fun _ => mapReg_not_setting _ | exact fun _ => (by unfold gcBusy; split <;> decide) | exact fun _ => not_setting (lo := 272) (by decide) (by omega) | exact fun _ => not_setting (lo := 88) (by decide) (by omega) | exact fun _ => not_setting (lo := 64) (by decide) (by omega) | exact fun _ => not_setting (lo := 96) (by decide) (by omega) | exact fun _ => (by rw [rowOf_id]; first | assumption | exact not_setting (lo := 64) (by decide) (by omega) | exact not_setting (lo := 272) (by decide) (by omega)) | exact fun _ => not_setting (lo := 32) (by decide) (by omega)) | with_reducible apply State.bump_onward | with_reducible apply State.logErr_onward | with_reducible apply State.nextFree_onward | with_reducible apply State.noteCe_onward | with_reducible apply onward_ite | split | dsimp only

theorem State.memFix_onward (h : s0.Onward kq False s) {die : Nat} {p : Place} {test patrol : Bool} : s0.Onward kq False (State.memFix s die p test patrol) := by
  unfold State.memFix
  try dsimp only
  repeat' first | with_reducible assumption | (show kq → _ ∉ settings; first | exact False.elim | (with_reducible assumption) | exact fun _ => by decide | exact fun _ => mapReg_not_setting _ | exact fun _ => (by unfold gcBusy; split <;> decide) | exact fun _ => not_setting (lo := 272) (by decide) (by omega) | exact fun _ => not_setting (lo := 88) (by decide) (by omega) | exact fun _ => not_setting (lo := 64) (by decide) (by omega) | exact fun _ => not_setting (lo := 96) (by decide) (by omega) | exact fun _ => (by rw [rowOf_id]; first | assumption | exact not_setting (lo := 64) (by decide) (by omega) | exact not_setting (lo := 272) (by decide) (by omega)) | exact fun _ => not_setting (lo := 32) (by decide) (by omega)) | with_reducible apply State.bump_onward | with_reducible apply State.logErr_onward | with_reducible apply State.nextFree_onward | with_reducible apply State.raiseOnce_onward | with_reducible apply State.noteCe_onward | with_reducible apply onward_ite | split | dsimp only

theorem State.patrol_onward (h : s0.Onward kq False s) {die : Nat} {p : Place} {x0 : ReadOutcome} : s0.Onward kq False (State.patrol s die p x0) := by
  unfold State.patrol
  try dsimp only
  repeat' first | with_reducible assumption | with_reducible apply State.memCe_onward | with_reducible apply State.memFix_onward | with_reducible apply State.memUe_onward | with_reducible apply State.dataCheck_onward | with_reducible apply onward_ite | split | dsimp only

theorem execPatrolScrub_onward (h : s0.Onward kq False s) {t die cluster channel stripe sector : Nat} {o : ReadOutcome} : ResOnward kq False s0 (execPatrolScrub t die cluster channel stripe sector o s) := by
  unfold execPatrolScrub
  try dsimp only
  repeat' first | with_reducible assumption | with_reducible exact onward_fault | with_reducible exact onward_refused | with_reducible apply onward_next | with_reducible apply State.tick_onward | with_reducible apply State.patrol_onward | with_reducible apply onward_ite | split | dsimp only

theorem State.degradeRefused_onward (h : s0.Onward kq kw s) {die unit : Nat} : s0.Onward kq kw (State.degradeRefused s die unit) := by
  unfold State.degradeRefused
  try dsimp only
  repeat' first | with_reducible assumption | with_reducible apply State.raise_onward | with_reducible apply onward_ite | split | dsimp only

theorem State.degrade_onward (h : s0.Onward kq kw s) {die cluster channel : Nat} : s0.Onward kq kw (State.degrade s die cluster channel) := by
  unfold State.degrade
  try dsimp only
  repeat' first | with_reducible assumption | (show kq → _ ∉ settings; first | exact False.elim | (with_reducible assumption) | exact fun _ => by decide | exact fun _ => mapReg_not_setting _ | exact fun _ => (by unfold gcBusy; split <;> decide) | exact fun _ => not_setting (lo := 272) (by decide) (by omega) | exact fun _ => not_setting (lo := 88) (by decide) (by omega) | exact fun _ => not_setting (lo := 64) (by decide) (by omega) | exact fun _ => not_setting (lo := 96) (by decide) (by omega) | exact fun _ => (by rw [rowOf_id]; first | assumption | exact not_setting (lo := 64) (by decide) (by omega) | exact not_setting (lo := 272) (by decide) (by omega)) | exact fun _ => not_setting (lo := 32) (by decide) (by omega)) | with_reducible apply State.degradeRefused_onward | with_reducible apply State.setFld_onward | with_reducible apply State.setMap_onward | with_reducible apply State.raise_onward | with_reducible apply onward_ite | split | dsimp only

theorem State.mcDegradeEffect_onward (h : s0.Onward kq kw s) {die cluster : Nat} {v : Word} : s0.Onward kq kw (State.mcDegradeEffect s die cluster v) := by
  unfold State.mcDegradeEffect
  try dsimp only
  repeat' first | with_reducible assumption | intro _ | with_reducible apply State.degrade_onward | with_reducible apply onward_ite | with_reducible apply onward_foldl | split | dsimp only

theorem execMcDegradeWrite_onward (h : s0.Onward kq kw s) {a : Acc} {v : Word} : ResOnward kq kw s0 (execMcDegradeWrite a v s) := by
  unfold execMcDegradeWrite
  try dsimp only
  repeat' first | with_reducible assumption | intro _ | with_reducible exact onward_fault | with_reducible exact onward_refused | with_reducible apply onward_next | with_reducible apply State.regWrite_onward | with_reducible apply State.mcDegradeEffect_onward | with_reducible apply onward_ite | split | dsimp only

theorem State.retrain_onward (h : s0.Onward kq kw s) {die cluster channel : Nat} {pass : Bool} {readPs writePs : Nat} : s0.Onward kq kw (State.retrain s die cluster channel pass readPs writePs) := by
  unfold State.retrain
  try dsimp only
  repeat' first | with_reducible assumption | (show kq → _ ∉ settings; first | exact False.elim | (with_reducible assumption) | exact fun _ => by decide | exact fun _ => mapReg_not_setting _ | exact fun _ => (by unfold gcBusy; split <;> decide) | exact fun _ => not_setting (lo := 272) (by decide) (by omega) | exact fun _ => not_setting (lo := 88) (by decide) (by omega) | exact fun _ => not_setting (lo := 64) (by decide) (by omega) | exact fun _ => not_setting (lo := 96) (by decide) (by omega) | exact fun _ => (by rw [rowOf_id]; first | assumption | exact not_setting (lo := 64) (by decide) (by omega) | exact not_setting (lo := 272) (by decide) (by omega)) | exact fun _ => not_setting (lo := 32) (by decide) (by omega)) | with_reducible apply State.setMon_onward | with_reducible apply State.exceeded_onward | with_reducible apply State.setFld_onward | with_reducible apply State.degrade_onward | with_reducible apply State.raise_onward | with_reducible apply onward_ite | split | dsimp only

theorem execDramRetrain_onward (h : s0.Onward kq kw s) {t die cluster channel : Nat} {pass : Bool} {readPs writePs : Nat} : ResOnward kq kw s0 (execDramRetrain t die cluster channel pass readPs writePs s) := by
  unfold execDramRetrain
  try dsimp only
  repeat' first | with_reducible assumption | with_reducible exact onward_fault | with_reducible exact onward_refused | with_reducible apply onward_next | with_reducible apply State.tick_onward | with_reducible apply State.retrain_onward | with_reducible apply onward_ite | split | dsimp only

theorem State.storeT1_onward (h : s0.Onward False False s) {die a : Nat} {data : List Byte} : s0.Onward False False (State.storeT1 s die a data) :=
  State.setT1_onward (onward_foldl (fun _ _ h => State.cbwWrite_onward h) _ h) (fun c => memWrite_wf _ c _)

theorem State.coreStore_onward (h : s0.Onward False False s) {die core a : Nat} {cached : Bool} {data : List Byte} : s0.Onward False False (State.coreStore s die core a cached data) := by
  unfold State.coreStore
  try dsimp only
  repeat' first | with_reducible assumption | (show False → _ ∉ settings; first | exact False.elim | (with_reducible assumption) | exact fun _ => by decide | exact fun _ => mapReg_not_setting _ | exact fun _ => (by unfold gcBusy; split <;> decide) | exact fun _ => not_setting (lo := 272) (by decide) (by omega) | exact fun _ => not_setting (lo := 88) (by decide) (by omega) | exact fun _ => not_setting (lo := 64) (by decide) (by omega) | exact fun _ => not_setting (lo := 96) (by decide) (by omega) | exact fun _ => (by rw [rowOf_id]; first | assumption | exact not_setting (lo := 64) (by decide) (by omega) | exact not_setting (lo := 272) (by decide) (by omega)) | exact fun _ => not_setting (lo := 32) (by decide) (by omega)) | with_reducible apply State.bump_onward | with_reducible apply State.logErr_onward | with_reducible apply State.raise_onward | with_reducible apply State.fwLimit_onward | with_reducible apply State.storeT1_onward | with_reducible apply onward_ite | fail_if_no_progress with_reducible refine onward_mkw ?_ rfl rfl rfl rfl rfl rfl rfl rfl | split | dsimp only

theorem execCoreT1Store_onward (h : s0.Onward False False s) {t die core addr : Nat} {cached : Bool} {data : List Byte} : ResOnward False False s0 (execCoreT1Store t die core addr cached data s) := by
  unfold execCoreT1Store
  try dsimp only
  repeat' first | with_reducible assumption | with_reducible exact onward_fault | with_reducible exact onward_refused | with_reducible apply onward_next | with_reducible apply State.tick_onward | with_reducible apply State.coreStore_onward | with_reducible apply onward_ite | split | dsimp only

theorem State.retire_onward (h : s0.Onward kq False s) {die cluster : Nat} {bank : Bool} {x : Nat} : s0.Onward kq False (State.retire s die cluster bank x) := by
  unfold State.retire
  try dsimp only
  repeat' first | with_reducible assumption | (show kq → _ ∉ settings; first | exact False.elim | (with_reducible assumption) | exact fun _ => by decide | exact fun _ => mapReg_not_setting _ | exact fun _ => (by unfold gcBusy; split <;> decide) | exact fun _ => not_setting (lo := 272) (by decide) (by omega) | exact fun _ => not_setting (lo := 88) (by decide) (by omega) | exact fun _ => not_setting (lo := 64) (by decide) (by omega) | exact fun _ => not_setting (lo := 96) (by decide) (by omega) | exact fun _ => (by rw [rowOf_id]; first | assumption | exact not_setting (lo := 64) (by decide) (by omega) | exact not_setting (lo := 272) (by decide) (by omega)) | exact fun _ => not_setting (lo := 32) (by decide) (by omega)) | with_reducible apply State.setPoolFree_onward | with_reducible apply State.setFld_onward | with_reducible apply State.evictTest_onward | with_reducible apply onward_ite | fail_if_no_progress with_reducible refine onward_mkw ?_ rfl rfl rfl rfl rfl rfl rfl rfl | split | dsimp only

theorem State.retireEffect_onward (h : s0.Onward kq False s) {die : Nat} {v : Word} : s0.Onward kq False (State.retireEffect s die v) := by
  unfold State.retireEffect
  try dsimp only
  repeat' first | with_reducible assumption | (show kq → _ ∉ settings; first | exact False.elim | (with_reducible assumption) | exact fun _ => by decide | exact fun _ => mapReg_not_setting _ | exact fun _ => (by unfold gcBusy; split <;> decide) | exact fun _ => not_setting (lo := 272) (by decide) (by omega) | exact fun _ => not_setting (lo := 88) (by decide) (by omega) | exact fun _ => not_setting (lo := 64) (by decide) (by omega) | exact fun _ => not_setting (lo := 96) (by decide) (by omega) | exact fun _ => (by rw [rowOf_id]; first | assumption | exact not_setting (lo := 64) (by decide) (by omega) | exact not_setting (lo := 272) (by decide) (by omega)) | exact fun _ => not_setting (lo := 32) (by decide) (by omega)) | with_reducible apply State.setFld_onward | with_reducible apply State.retire_onward | with_reducible apply onward_ite | split | dsimp only

theorem execRetireRow_onward (h : s0.Onward kq False s) {a : Acc} {v : Word} : ResOnward kq False s0 (execRetireRow a v s) := by
  unfold execRetireRow
  try dsimp only
  repeat' first | with_reducible assumption | intro _ | with_reducible exact onward_fault | with_reducible exact onward_refused | with_reducible apply onward_next | with_reducible apply State.regWrite_onward | with_reducible apply State.retireEffect_onward | with_reducible apply onward_ite | split | dsimp only

theorem execRetireBank_onward (h : s0.Onward kq False s) {a : Acc} {v : Word} : ResOnward kq False s0 (execRetireBank a v s) := by
  unfold execRetireBank
  try dsimp only
  repeat' first | with_reducible assumption | intro _ | with_reducible exact onward_fault | with_reducible exact onward_refused | with_reducible apply onward_next | with_reducible apply State.regWrite_onward | with_reducible apply State.retireEffect_onward | with_reducible apply onward_ite | split | dsimp only

theorem State.migrate_onward (h : s0.Onward kq False s) {die : Nat} {u : UnitRef × Nat × Nat} : s0.Onward kq False (State.migrate s die u) := by
  unfold State.migrate
  try dsimp only
  repeat' first | with_reducible assumption | with_reducible apply State.setPoolFree_onward | with_reducible apply State.putStaging_onward | with_reducible apply State.nextFree_onward | with_reducible apply State.putLeaf_onward | with_reducible apply State.shootdown_onward | with_reducible apply State.putShared_onward | with_reducible apply State.evictStaging_onward | with_reducible apply State.startMove_onward | with_reducible apply onward_ite | fail_if_no_progress with_reducible refine onward_mkw ?_ rfl rfl rfl rfl rfl rfl rfl rfl | split | dsimp only

theorem State.retireEnd_onward (h : s0.Onward kq False s) {die : Nat} : s0.Onward kq False (State.retireEnd s die) := by
  unfold State.retireEnd
  try dsimp only
  repeat' first | with_reducible assumption | (show kq → _ ∉ settings; first | exact False.elim | (with_reducible assumption) | exact fun _ => by decide | exact fun _ => mapReg_not_setting _ | exact fun _ => (by unfold gcBusy; split <;> decide) | exact fun _ => not_setting (lo := 272) (by decide) (by omega) | exact fun _ => not_setting (lo := 88) (by decide) (by omega) | exact fun _ => not_setting (lo := 64) (by decide) (by omega) | exact fun _ => not_setting (lo := 96) (by decide) (by omega) | exact fun _ => (by rw [rowOf_id]; first | assumption | exact not_setting (lo := 64) (by decide) (by omega) | exact not_setting (lo := 272) (by decide) (by omega)) | exact fun _ => not_setting (lo := 32) (by decide) (by omega)) | intro _ | with_reducible apply State.migrate_onward | with_reducible apply State.setPoolFree_onward | with_reducible apply State.putArea_onward | with_reducible apply State.nextFree_onward | with_reducible apply State.setFld_onward | with_reducible apply State.raise_onward | with_reducible apply onward_ite | with_reducible apply onward_foldl | fail_if_no_progress with_reducible refine onward_mkw ?_ rfl rfl rfl rfl rfl rfl rfl rfl | split | dsimp only

theorem execRetireDone_onward (h : s0.Onward kq False s) {t die : Nat} : ResOnward kq False s0 (execRetireDone t die s) := by
  unfold execRetireDone
  try dsimp only
  repeat' first | with_reducible assumption | with_reducible exact onward_fault | with_reducible exact onward_refused | with_reducible apply onward_next | with_reducible apply State.tick_onward | with_reducible apply State.retireEnd_onward | with_reducible apply onward_ite | split | dsimp only

theorem State.setTest_onward (h : s0.Onward kq False s) {x : TestSector} : s0.Onward kq False (State.setTest s x) := by
  unfold State.setTest
  try dsimp only
  repeat' first | with_reducible assumption | intro _ | with_reducible apply onward_ite | fail_if_no_progress with_reducible refine onward_mkw ?_ rfl rfl rfl rfl rfl rfl rfl rfl | split | dsimp only

theorem State.setTestData_onward (h : s0.Onward kq kw s) {die : Nat} {d : BitVec 512} : s0.Onward kq kw (State.setTestData s die d) := by
  unfold State.setTestData
  try dsimp only
  repeat' first | with_reducible assumption | (show kq → _ ∉ settings; first | exact False.elim | (with_reducible assumption) | exact fun _ => by decide | exact fun _ => mapReg_not_setting _ | exact fun _ => (by unfold gcBusy; split <;> decide) | exact fun _ => not_setting (lo := 272) (by decide) (by omega) | exact fun _ => not_setting (lo := 88) (by decide) (by omega) | exact fun _ => not_setting (lo := 64) (by decide) (by omega) | exact fun _ => not_setting (lo := 96) (by decide) (by omega) | exact fun _ => (by rw [rowOf_id]; first | assumption | exact not_setting (lo := 64) (by decide) (by omega) | exact not_setting (lo := 272) (by decide) (by omega)) | exact fun _ => not_setting (lo := 32) (by decide) (by omega)) | intro _ | with_reducible apply State.setReg_onward | with_reducible apply onward_ite | with_reducible apply onward_foldl | split | dsimp only

theorem State.testWrite_onward (h : s0.Onward kq False s) {die : Nat} {p : Place} : s0.Onward kq False (State.testWrite s die p) := by
  unfold State.testWrite
  try dsimp only
  repeat' first | with_reducible assumption | with_reducible apply State.setTest_onward | with_reducible apply State.nextFree_onward | with_reducible apply onward_ite | fail_if_no_progress with_reducible refine onward_mkw ?_ rfl rfl rfl rfl rfl rfl rfl rfl | split | dsimp only

theorem State.testRun_onward (h : s0.Onward kq False s) {die : Nat} {p : Place} {op : Nat} : s0.Onward kq False (State.testRun s die p op).1 := by
  unfold State.testRun
  try dsimp only
  repeat' first | with_reducible assumption | (show kq → _ ∉ settings; first | exact False.elim | (with_reducible assumption) | exact fun _ => by decide | exact fun _ => mapReg_not_setting _ | exact fun _ => (by unfold gcBusy; split <;> decide) | exact fun _ => not_setting (lo := 272) (by decide) (by omega) | exact fun _ => not_setting (lo := 88) (by decide) (by omega) | exact fun _ => not_setting (lo := 64) (by decide) (by omega) | exact fun _ => not_setting (lo := 96) (by decide) (by omega) | exact fun _ => (by rw [rowOf_id]; first | assumption | exact not_setting (lo := 64) (by decide) (by omega) | exact not_setting (lo := 272) (by decide) (by omega)) | exact fun _ => not_setting (lo := 32) (by decide) (by omega)) | with_reducible apply State.setTest_onward | with_reducible apply State.testWrite_onward | with_reducible apply State.setTestData_onward | with_reducible apply State.setFld_onward | with_reducible apply State.memCe_onward | with_reducible apply State.memFix_onward | with_reducible apply State.memUe_onward | with_reducible apply onward_ite | fail_if_no_progress with_reducible refine onward_mkw ?_ rfl rfl rfl rfl rfl rfl rfl rfl | split | dsimp only

theorem State.testGo_onward (h : s0.Onward kq False s) {die cluster : Nat} {v : Word} : s0.Onward kq False (State.testGo s die cluster v) := by
  unfold State.testGo
  try dsimp only
  repeat' first | with_reducible assumption | (show kq → _ ∉ settings; first | exact False.elim | (with_reducible assumption) | exact fun _ => by decide | exact fun _ => mapReg_not_setting _ | exact fun _ => (by unfold gcBusy; split <;> decide) | exact fun _ => not_setting (lo := 272) (by decide) (by omega) | exact fun _ => not_setting (lo := 88) (by decide) (by omega) | exact fun _ => not_setting (lo := 64) (by decide) (by omega) | exact fun _ => not_setting (lo := 96) (by decide) (by omega) | exact fun _ => (by rw [rowOf_id]; first | assumption | exact not_setting (lo := 64) (by decide) (by omega) | exact not_setting (lo := 272) (by decide) (by omega)) | exact fun _ => not_setting (lo := 32) (by decide) (by omega)) | with_reducible apply State.testRun_onward | with_reducible apply State.setFld_onward | with_reducible apply onward_ite | refine onward_of_pair (by assumption) ?_ | split | dsimp only

theorem State.testEffect_onward (h : s0.Onward kq False s) {a : Acc} {v : Word} : s0.Onward kq False (State.testEffect s a v) := by
  unfold State.testEffect
  try dsimp only
  repeat' first | with_reducible assumption | (show kq → _ ∉ settings; first | exact False.elim | (with_reducible assumption) | exact fun _ => by decide | exact fun _ => mapReg_not_setting _ | exact fun _ => (by unfold gcBusy; split <;> decide) | exact fun _ => not_setting (lo := 272) (by decide) (by omega) | exact fun _ => not_setting (lo := 88) (by decide) (by omega) | exact fun _ => not_setting (lo := 64) (by decide) (by omega) | exact fun _ => not_setting (lo := 96) (by decide) (by omega) | exact fun _ => (by rw [rowOf_id]; first | assumption | exact not_setting (lo := 64) (by decide) (by omega) | exact not_setting (lo := 272) (by decide) (by omega)) | exact fun _ => not_setting (lo := 32) (by decide) (by omega)) | with_reducible apply State.store_onward | with_reducible apply State.testGo_onward | with_reducible apply onward_ite | split | dsimp only

theorem State.testRow_onward (h : s0.Onward kq False s) {a : Acc} {v : Word} {op : Nat} : s0.Onward kq False (State.testRow s a v op) := by
  unfold State.testRow
  try dsimp only
  repeat' first | with_reducible assumption | intro _ | with_reducible apply State.regWrite_onward | with_reducible apply State.testEffect_onward | with_reducible apply onward_ite | split | dsimp only

theorem execTestWriteData_onward (h : s0.Onward kq False s) {a : Acc} {v : Word} : ResOnward kq False s0 (execTestWriteData a v s) := by
  unfold execTestWriteData
  try dsimp only
  repeat' first | with_reducible assumption | with_reducible exact onward_fault | with_reducible exact onward_refused | with_reducible apply onward_next | with_reducible apply State.testRow_onward | with_reducible apply onward_ite | split | dsimp only

theorem execTestWriteCheck_onward (h : s0.Onward kq False s) {a : Acc} {v : Word} : ResOnward kq False s0 (execTestWriteCheck a v s) := by
  unfold execTestWriteCheck
  try dsimp only
  repeat' first | with_reducible assumption | with_reducible exact onward_fault | with_reducible exact onward_refused | with_reducible apply onward_next | with_reducible apply State.testRow_onward | with_reducible apply onward_ite | split | dsimp only

theorem execTestWrite_onward (h : s0.Onward kq False s) {a : Acc} {v : Word} : ResOnward kq False s0 (execTestWrite a v s) := by
  unfold execTestWrite
  try dsimp only
  repeat' first | with_reducible assumption | with_reducible exact onward_fault | with_reducible exact onward_refused | with_reducible apply onward_next | with_reducible apply State.testRow_onward | with_reducible apply onward_ite | split | dsimp only

theorem execTestWriteParity_onward (h : s0.Onward kq False s) {a : Acc} {v : Word} : ResOnward kq False s0 (execTestWriteParity a v s) := by
  unfold execTestWriteParity
  try dsimp only
  repeat' first | with_reducible assumption | with_reducible exact onward_fault | with_reducible exact onward_refused | with_reducible apply onward_next | with_reducible apply State.testRow_onward | with_reducible apply onward_ite | split | dsimp only

theorem execTestReadRaw_onward (h : s0.Onward kq False s) {a : Acc} {v : Word} : ResOnward kq False s0 (execTestReadRaw a v s) := by
  unfold execTestReadRaw
  try dsimp only
  repeat' first | with_reducible assumption | with_reducible exact onward_fault | with_reducible exact onward_refused | with_reducible apply onward_next | with_reducible apply State.testRow_onward | with_reducible apply onward_ite | split | dsimp only

theorem execTestRead_onward (h : s0.Onward kq False s) {a : Acc} {v : Word} : ResOnward kq False s0 (execTestRead a v s) := by
  unfold execTestRead
  try dsimp only
  repeat' first | with_reducible assumption | with_reducible exact onward_fault | with_reducible exact onward_refused | with_reducible apply onward_next | with_reducible apply State.testRow_onward | with_reducible apply onward_ite | split | dsimp only

end Sys2Proof.Machine
end

