-- ==== Sys2Proof/Laws/OnwardTransit.lean ====
section
/-! SUPPORT. What the functions of Machine/Transit.lean keep: each answers a state its argument may go on to. -/

namespace Sys2Proof.Machine

set_option linter.unusedTactic false
set_option linter.unreachableTactic false

variable {kq kw : Prop} {s0 s : State}

theorem State.noteT2Read_onward (h : s0.Onward kq False s) {die group n : Nat} {x0 : ReadOutcome} : s0.Onward kq False (State.noteT2Read s die group n x0) := by
  unfold State.noteT2Read
  try dsimp only
  repeat' first | with_reducible assumption | (show kq → _ ∉ settings; first | exact False.elim | (with_reducible assumption) | exact fun _ => by decide | exact fun _ => mapReg_not_setting _ | exact fun _ => (by unfold gcBusy; split <;> decide) | exact fun _ => not_setting (lo := 272) (by decide) (by omega) | exact fun _ => not_setting (lo := 88) (by decide) (by omega) | exact fun _ => not_setting (lo := 64) (by decide) (by omega) | exact fun _ => not_setting (lo := 96) (by decide) (by omega) | exact fun _ => (by rw [rowOf_id]; first | assumption | exact not_setting (lo := 64) (by decide) (by omega) | exact not_setting (lo := 272) (by decide) (by omega)) | exact fun _ => not_setting (lo := 32) (by decide) (by omega)) | with_reducible apply State.bump_onward | with_reducible apply State.setSeg_onward | with_reducible apply State.raiseOnce_onward | with_reducible apply State.raise_onward | with_reducible apply onward_ite | fail_if_no_progress with_reducible refine onward_mkw ?_ rfl rfl rfl rfl rfl rfl rfl rfl | split | dsimp only

theorem State.noteT2At_onward (h : s0.Onward kq False s) {die loc : Nat} {o : ReadOutcome} : s0.Onward kq False (State.noteT2At s die loc o) := by
  unfold State.noteT2At
  try dsimp only
  repeat' first | with_reducible assumption | with_reducible apply State.noteT2Read_onward | with_reducible apply onward_ite | split | dsimp only

theorem State.wakeReady_onward (h : s0.Onward kq False s) {die : Nat} : s0.Onward kq False (State.wakeReady s die) := by
  unfold State.wakeReady
  try dsimp only
  repeat' first | with_reducible assumption | intro _ | with_reducible apply State.wakeUnits_onward | with_reducible apply State.runPromos_onward | with_reducible apply onward_ite | fail_if_no_progress with_reducible refine onward_mkw ?_ rfl rfl rfl rfl rfl rfl rfl rfl | split | dsimp only

theorem State.failWaiters_onward (h : s0.Onward kq False s) {u : UnitRef} {addr : Nat} : s0.Onward kq False (State.failWaiters s u addr) := by
  unfold State.failWaiters
  try dsimp only
  repeat' first | with_reducible assumption | intro _ | with_reducible apply State.failResult_onward | with_reducible apply onward_ite | with_reducible apply onward_foldl | split | dsimp only

theorem State.demoted_onward (h : s0.Onward kq False s) {m : Move} : s0.Onward kq False (State.demoted s m) := by
  unfold State.demoted
  try dsimp only
  repeat' first | with_reducible assumption | intro _ | with_reducible apply State.dormantTest_onward | with_reducible apply State.finishMove_onward | with_reducible apply State.runPromos_onward | with_reducible apply onward_ite | with_reducible apply onward_foldl | split | dsimp only

theorem execDemotionStart_onward (h : s0.Onward kq False s) {t die : Nat} : ResOnward kq False s0 (execDemotionStart t die s) := by
  unfold execDemotionStart
  try dsimp only
  repeat' first | with_reducible assumption | with_reducible exact onward_fault | with_reducible exact onward_refused | with_reducible apply onward_next | with_reducible apply State.tick_onward | with_reducible apply State.demoteNext_onward | with_reducible apply onward_ite | split | dsimp only

theorem execDemotionComplete_onward (h : s0.Onward kq False s) {t die : Nat} {u : UnitRef} : ResOnward kq False s0 (execDemotionComplete t die u s) := by
  unfold execDemotionComplete
  try dsimp only
  repeat' first | with_reducible assumption | intro _ | with_reducible exact onward_fault | with_reducible exact onward_refused | with_reducible apply onward_next | with_reducible apply State.tick_onward | with_reducible apply State.demoted_onward | with_reducible apply onward_ite | fail_if_no_progress with_reducible refine onward_mkw ?_ rfl rfl rfl rfl rfl rfl rfl rfl | split | dsimp only

theorem State.cancelMove_onward (h : s0.Onward kq False s) {m : Move} : s0.Onward kq False (State.cancelMove s m) := by
  unfold State.cancelMove
  try dsimp only
  repeat' first | with_reducible assumption | with_reducible apply State.abandon_onward | with_reducible apply onward_ite | fail_if_no_progress with_reducible refine onward_mkw ?_ rfl rfl rfl rfl rfl rfl rfl rfl | split | dsimp only

theorem State.afterPromo_onward (h : s0.Onward kq False s) {m : Move} : s0.Onward kq False (State.afterPromo s m) := by
  unfold State.afterPromo
  try dsimp only
  repeat' first | with_reducible assumption | with_reducible apply State.wakeReady_onward | with_reducible apply State.promotingTest_onward | with_reducible apply onward_ite | fail_if_no_progress with_reducible refine onward_mkw ?_ rfl rfl rfl rfl rfl rfl rfl rfl | split | dsimp only

theorem State.promoFailed_onward (h : s0.Onward kq False s) {m : Move} {addr : Nat} : s0.Onward kq False (State.promoFailed s m addr) := by
  unfold State.promoFailed
  try dsimp only
  repeat' first | with_reducible assumption | (show kq → _ ∉ settings; first | exact False.elim | (with_reducible assumption) | exact fun _ => by decide | exact fun _ => mapReg_not_setting _ | exact fun _ => (by unfold gcBusy; split <;> decide) | exact fun _ => not_setting (lo := 272) (by decide) (by omega) | exact fun _ => not_setting (lo := 88) (by decide) (by omega) | exact fun _ => not_setting (lo := 64) (by decide) (by omega) | exact fun _ => not_setting (lo := 96) (by decide) (by omega) | exact fun _ => (by rw [rowOf_id]; first | assumption | exact not_setting (lo := 64) (by decide) (by omega) | exact not_setting (lo := 272) (by decide) (by omega)) | exact fun _ => not_setting (lo := 32) (by decide) (by omega)) | with_reducible apply State.cancelMove_onward | with_reducible apply State.bump_onward | with_reducible apply State.dataCheck_onward | with_reducible apply State.tileCheck_onward | with_reducible apply State.failWaiters_onward | with_reducible apply State.afterPromo_onward | with_reducible apply onward_ite | split | dsimp only

theorem State.promoTile_onward (h : s0.Onward kq False s) {m : Move} {tile cause : Nat} : s0.Onward kq False (State.promoTile s m tile cause) := by
  unfold State.promoTile
  try dsimp only
  repeat' first | with_reducible assumption | with_reducible apply State.cancelMove_onward | with_reducible apply State.tileCheck_onward | with_reducible apply State.failWaiters_onward | with_reducible apply State.afterPromo_onward | with_reducible apply onward_ite | split | dsimp only

theorem State.promoted_onward (h : s0.Onward kq False s) {m : Move} {o : ReadOutcome} : s0.Onward kq False (State.promoted s m o) := by
  unfold State.promoted
  try dsimp only
  repeat' first | with_reducible assumption | with_reducible apply State.noteT2At_onward | with_reducible apply State.promoFailed_onward | with_reducible apply State.promoTile_onward | with_reducible apply State.finishMove_onward | with_reducible apply State.afterPromo_onward | with_reducible apply onward_ite | fail_if_no_progress with_reducible refine onward_mkw ?_ rfl rfl rfl rfl rfl rfl rfl rfl | split | dsimp only

theorem execPromotionComplete_onward (h : s0.Onward kq False s) {t die : Nat} {u : UnitRef} {o : ReadOutcome} : ResOnward kq False s0 (execPromotionComplete t die u o s) := by
  unfold execPromotionComplete
  try dsimp only
  repeat' first | with_reducible assumption | intro _ | with_reducible exact onward_fault | with_reducible exact onward_refused | with_reducible apply onward_next | with_reducible apply State.tick_onward | with_reducible apply State.promoted_onward | with_reducible apply onward_ite | fail_if_no_progress with_reducible refine onward_mkw ?_ rfl rfl rfl rfl rfl rfl rfl rfl | split | dsimp only

theorem execPromotionResume_onward (h : s0.Onward kq False s) {t die : Nat} : ResOnward kq False s0 (execPromotionResume t die s) := by
  unfold execPromotionResume
  try dsimp only
  repeat' first | with_reducible assumption | with_reducible exact onward_fault | with_reducible exact onward_refused | with_reducible apply onward_next | with_reducible apply State.tick_onward | with_reducible apply State.runPromos_onward | with_reducible apply State.wakeReady_onward | with_reducible apply onward_ite | split | dsimp only

theorem execT3ReadTimeout_onward (h : s0.Onward kq False s) {t die : Nat} {u : UnitRef} : ResOnward kq False s0 (execT3ReadTimeout t die u s) := by
  unfold execT3ReadTimeout
  try dsimp only
  repeat' first | with_reducible assumption | intro _ | with_reducible exact onward_fault | with_reducible exact onward_refused | with_reducible apply onward_next | with_reducible apply State.tick_onward | with_reducible apply State.promoFailed_onward | with_reducible apply onward_ite | fail_if_no_progress with_reducible refine onward_mkw ?_ rfl rfl rfl rfl rfl rfl rfl rfl | split | dsimp only

theorem State.dropCopy_onward (h : s0.Onward kq False s) {c : T0Copy} : s0.Onward kq False (State.dropCopy s c) := by
  unfold State.dropCopy
  try dsimp only
  repeat' first | with_reducible assumption | with_reducible apply State.dealloc_onward | with_reducible apply onward_ite | fail_if_no_progress with_reducible refine onward_mkw ?_ rfl rfl rfl rfl rfl rfl rfl rfl | split | dsimp only

theorem State.copyReady_onward (h : s0.Onward kq False s) {c : T0Copy} : s0.Onward kq False (State.copyReady s c) := by
  unfold State.copyReady
  try dsimp only
  repeat' first | with_reducible assumption | intro _ | with_reducible apply State.touch_onward | with_reducible apply State.walkPage_onward | with_reducible apply onward_ite | fail_if_no_progress with_reducible refine onward_mkw ?_ rfl rfl rfl rfl rfl rfl rfl rfl | split | dsimp only

theorem State.copyBad_onward (h : s0.Onward kq False s) {l : List T0Copy} {tile cause : Nat} : s0.Onward kq False (State.copyBad s l tile cause) := by
  unfold State.copyBad
  try dsimp only
  repeat' first | with_reducible assumption | intro _ | with_reducible apply State.tileCheck_onward | with_reducible apply State.dropCopy_onward | with_reducible apply onward_ite | fail_if_no_progress with_reducible refine onward_mkw ?_ rfl rfl rfl rfl rfl rfl rfl rfl | split | dsimp only

theorem State.prefetched_onward (h : s0.Onward kq False s) {die slot layer : Nat} {o : ReadOutcome} : s0.Onward kq False (State.prefetched s die slot layer o) := by
  unfold State.prefetched
  try dsimp only
  repeat' first | with_reducible assumption | intro _ | with_reducible apply State.memCe_onward | with_reducible apply State.memFix_onward | with_reducible apply State.memUe_onward | with_reducible apply State.copyBad_onward | with_reducible apply State.dataCheck_onward | with_reducible apply State.dropCopy_onward | with_reducible apply State.copyReady_onward | with_reducible apply onward_ite | with_reducible apply onward_foldl | fail_if_no_progress with_reducible refine onward_mkw ?_ rfl rfl rfl rfl rfl rfl rfl rfl | split | dsimp only

theorem execPrefetchComplete_onward (h : s0.Onward kq False s) {t die slot layer : Nat} {o : ReadOutcome} : ResOnward kq False s0 (execPrefetchComplete t die slot layer o s) := by
  unfold execPrefetchComplete
  try dsimp only
  repeat' first | with_reducible assumption | with_reducible exact onward_fault | with_reducible exact onward_refused | with_reducible apply onward_next | with_reducible apply State.tick_onward | with_reducible apply State.prefetched_onward | with_reducible apply onward_ite | split | dsimp only

theorem State.imageRestored_onward (h : s0.Onward kq False s) {slot : Nat} {i : Parked} {o : ReadOutcome} {headerOk : Bool} : s0.Onward kq False (State.imageRestored s slot i o headerOk) := by
  unfold State.imageRestored
  try dsimp only
  repeat' first | with_reducible assumption | (show kq → _ ∉ settings; first | exact False.elim | (with_reducible assumption) | exact fun _ => by decide | exact fun _ => mapReg_not_setting _ | exact fun _ => (by unfold gcBusy; split <;> decide) | exact fun _ => not_setting (lo := 272) (by decide) (by omega) | exact fun _ => not_setting (lo := 88) (by decide) (by omega) | exact fun _ => not_setting (lo := 64) (by decide) (by omega) | exact fun _ => not_setting (lo := 96) (by decide) (by omega) | exact fun _ => (by rw [rowOf_id]; first | assumption | exact not_setting (lo := 64) (by decide) (by omega) | exact not_setting (lo := 272) (by decide) (by omega)) | exact fun _ => not_setting (lo := 32) (by decide) (by omega)) | intro _ | with_reducible apply State.noteT2At_onward | with_reducible apply State.dealloc_onward | with_reducible apply State.bump_onward | with_reducible apply State.dataCheck_onward | with_reducible apply State.promotingTest_onward | with_reducible apply State.restoreImage_onward | with_reducible apply State.wakeReady_onward | with_reducible apply onward_ite | fail_if_no_progress with_reducible refine onward_mkw ?_ rfl rfl rfl rfl rfl rfl rfl rfl | split | dsimp only

theorem execImageRestoreDone_onward (h : s0.Onward kq False s) {t slot : Nat} {o : ReadOutcome} {headerOk : Bool} : ResOnward kq False s0 (execImageRestoreDone t slot o headerOk s) := by
  unfold execImageRestoreDone
  try dsimp only
  repeat' first | with_reducible assumption | with_reducible exact onward_fault | with_reducible exact onward_refused | with_reducible apply onward_next | with_reducible apply State.tick_onward | with_reducible apply State.imageRestored_onward | with_reducible apply onward_ite | fail_if_no_progress with_reducible refine onward_mkw ?_ rfl rfl rfl rfl rfl rfl rfl rfl | split | dsimp only

end Sys2Proof.Machine
end

