-- ==== Sys2Proof/Laws/OnwardFlashCmds.lean ====
section
/-! SUPPORT. What the functions of Machine/FlashCmds.lean keep: each answers a state its argument may go on to. -/

namespace Sys2Proof.Machine

set_option linter.unusedTactic false
set_option linter.unreachableTactic false

variable {kq kw : Prop} {s0 s : State}

theorem State.relocate_onward (h : s0.Onward kq False s) {die : Nat} {o : Owner} {a b : Nat} : s0.Onward kq False (State.relocate s die o a b) := by
  unfold State.relocate
  try dsimp only
  repeat' first | with_reducible assumption | intro _ | with_reducible apply State.retarget_onward | with_reducible apply State.shootdown_onward | with_reducible apply onward_ite | fail_if_no_progress with_reducible refine onward_mkw ?_ rfl rfl rfl rfl rfl rfl rfl rfl | split | dsimp only

theorem State.replace_onward (h : s0.Onward kq False s) {die group n kind : Nat} {e : SumEnt} : s0.Onward kq False (State.replace s die group n kind e) := by
  unfold State.replace
  try dsimp only
  repeat' first | with_reducible assumption | with_reducible apply State.place_onward | with_reducible apply State.relocate_onward | with_reducible apply State.releaseT2_onward | with_reducible apply onward_ite | fail_if_no_progress with_reducible refine onward_mkw ?_ rfl rfl rfl rfl rfl rfl rfl rfl | refine onward_of_some1 (by assumption) ?_ | split | dsimp only

theorem State.padStripe_onward (h : s0.Onward kq False s) {y : Stripe} : s0.Onward kq False (State.padStripe s y) := by
  unfold State.padStripe
  try dsimp only
  repeat' first | with_reducible assumption | intro _ | with_reducible apply State.setSeg_onward | with_reducible apply onward_ite | fail_if_no_progress with_reducible refine onward_mkw ?_ rfl rfl rfl rfl rfl rfl rfl rfl | split | dsimp only

theorem execStripeWaitExpired_onward (h : s0.Onward kq False s) {t die group : Nat} : ResOnward kq False s0 (execStripeWaitExpired t die group s) := by
  unfold execStripeWaitExpired
  try dsimp only
  repeat' first | with_reducible assumption | intro _ | with_reducible exact onward_fault | with_reducible exact onward_refused | with_reducible apply onward_next | with_reducible apply State.tick_onward | with_reducible apply State.padStripe_onward | with_reducible apply onward_ite | with_reducible apply onward_foldl | split | dsimp only

theorem State.dropStripe_onward (h : s0.Onward kq False s) {y : Stripe} : s0.Onward kq False (State.dropStripe s y) := by
  unfold State.dropStripe
  try dsimp only
  repeat' first | with_reducible assumption | with_reducible apply onward_ite | fail_if_no_progress with_reducible refine onward_mkw ?_ rfl rfl rfl rfl rfl rfl rfl rfl | split | dsimp only

theorem State.programFailed_onward (h : s0.Onward kq False s) {y : Stripe} : s0.Onward kq False (State.programFailed s y) := by
  unfold State.programFailed
  try dsimp only
  repeat' first | with_reducible assumption | (show kq → _ ∉ settings; first | exact False.elim | (with_reducible assumption) | exact fun _ => by decide | exact fun _ => mapReg_not_setting _ | exact fun _ => (by unfold gcBusy; split <;> decide) | exact fun _ => not_setting (lo := 272) (by decide) (by omega) | exact fun _ => not_setting (lo := 88) (by decide) (by omega) | exact fun _ => not_setting (lo := 64) (by decide) (by omega) | exact fun _ => not_setting (lo := 96) (by decide) (by omega) | exact fun _ => (by rw [rowOf_id]; first | assumption | exact not_setting (lo := 64) (by decide) (by omega) | exact not_setting (lo := 272) (by decide) (by omega)) | exact fun _ => not_setting (lo := 32) (by decide) (by omega)) | intro _ | with_reducible apply State.setSeg_onward | with_reducible apply State.retire_onward | with_reducible apply State.dropStripe_onward | with_reducible apply State.bump_onward | with_reducible apply State.raise_onward | with_reducible apply State.replace_onward | with_reducible apply onward_ite | with_reducible apply onward_foldl | fail_if_no_progress with_reducible refine onward_mkw ?_ rfl rfl rfl rfl rfl rfl rfl rfl | split | dsimp only

theorem execFlashProgramDone_onward (h : s0.Onward kq False s) {t die group : Nat} {ok : Bool} : ResOnward kq False s0 (execFlashProgramDone t die group ok s) := by
  unfold execFlashProgramDone
  try dsimp only
  repeat' first | with_reducible assumption | intro _ | with_reducible exact onward_fault | with_reducible exact onward_refused | with_reducible apply onward_next | with_reducible apply State.tick_onward | with_reducible apply State.dropStripe_onward | with_reducible apply State.programFailed_onward | with_reducible apply onward_ite | fail_if_no_progress with_reducible refine onward_mkw ?_ rfl rfl rfl rfl rfl rfl rfl rfl | split | dsimp only

theorem State.eraseFailed_onward (h : s0.Onward kq False s) {x : Seg} : s0.Onward kq False (State.eraseFailed s x) := by
  unfold State.eraseFailed
  try dsimp only
  repeat' first | with_reducible assumption | intro _ | with_reducible apply State.setSeg_onward | with_reducible apply State.raise_onward | with_reducible apply State.replace_onward | with_reducible apply onward_ite | with_reducible apply onward_foldl | fail_if_no_progress with_reducible refine onward_mkw ?_ rfl rfl rfl rfl rfl rfl rfl rfl | split | dsimp only

theorem execSegmentEraseDone_onward (h : s0.Onward kq False s) {t die group seg : Nat} {ok : Bool} : ResOnward kq False s0 (execSegmentEraseDone t die group seg ok s) := by
  unfold execSegmentEraseDone
  try dsimp only
  repeat' first | with_reducible assumption | with_reducible exact onward_fault | with_reducible exact onward_refused | with_reducible apply onward_next | with_reducible apply State.tick_onward | with_reducible apply State.setSeg_onward | with_reducible apply State.eraseFailed_onward | with_reducible apply onward_ite | fail_if_no_progress with_reducible refine onward_mkw ?_ rfl rfl rfl rfl rfl rfl rfl rfl | split | dsimp only

theorem State.degradeFlash_onward (h : s0.Onward kq kw s) {die c : Nat} : s0.Onward kq kw (State.degradeFlash s die c) := by
  unfold State.degradeFlash
  try dsimp only
  repeat' first | with_reducible assumption | (show kq → _ ∉ settings; first | exact False.elim | (with_reducible assumption) | exact fun _ => by decide | exact fun _ => mapReg_not_setting _ | exact fun _ => (by unfold gcBusy; split <;> decide) | exact fun _ => not_setting (lo := 272) (by decide) (by omega) | exact fun _ => not_setting (lo := 88) (by decide) (by omega) | exact fun _ => not_setting (lo := 64) (by decide) (by omega) | exact fun _ => not_setting (lo := 96) (by decide) (by omega) | exact fun _ => (by rw [rowOf_id]; first | assumption | exact not_setting (lo := 64) (by decide) (by omega) | exact not_setting (lo := 272) (by decide) (by omega)) | exact fun _ => not_setting (lo := 32) (by decide) (by omega)) | with_reducible apply State.raise_onward | with_reducible apply State.setFld_onward | with_reducible apply State.setMap_onward | with_reducible apply onward_ite | split | dsimp only

theorem State.wkDegradeEffect_onward (h : s0.Onward kq kw s) {die : Nat} {v : Word} : s0.Onward kq kw (State.wkDegradeEffect s die v) := by
  unfold State.wkDegradeEffect
  try dsimp only
  repeat' first | with_reducible assumption | intro _ | with_reducible apply State.degradeFlash_onward | with_reducible apply onward_ite | with_reducible apply onward_foldl | split | dsimp only

theorem execWkDegradeWrite_onward (h : s0.Onward kq kw s) {a : Acc} {v : Word} : ResOnward kq kw s0 (execWkDegradeWrite a v s) := by
  unfold execWkDegradeWrite
  try dsimp only
  repeat' first | with_reducible assumption | intro _ | with_reducible exact onward_fault | with_reducible exact onward_refused | with_reducible apply onward_next | with_reducible apply State.regWrite_onward | with_reducible apply State.wkDegradeEffect_onward | with_reducible apply onward_ite | split | dsimp only

theorem State.gcEffect_onward (h : s0.Onward kq False s) {die : Nat} {v : Word} : s0.Onward kq False (State.gcEffect s die v) := by
  unfold State.gcEffect
  try dsimp only
  repeat' first | with_reducible assumption | (show kq → _ ∉ settings; first | exact False.elim | (with_reducible assumption) | exact fun _ => by decide | exact fun _ => mapReg_not_setting _ | exact fun _ => (by unfold gcBusy; split <;> decide) | exact fun _ => not_setting (lo := 272) (by decide) (by omega) | exact fun _ => not_setting (lo := 88) (by decide) (by omega) | exact fun _ => not_setting (lo := 64) (by decide) (by omega) | exact fun _ => not_setting (lo := 96) (by decide) (by omega) | exact fun _ => (by rw [rowOf_id]; first | assumption | exact not_setting (lo := 64) (by decide) (by omega) | exact not_setting (lo := 272) (by decide) (by omega)) | exact fun _ => not_setting (lo := 32) (by decide) (by omega)) | with_reducible apply State.setFld_onward | with_reducible apply onward_ite | fail_if_no_progress with_reducible refine onward_mkw ?_ rfl rfl rfl rfl rfl rfl rfl rfl | split | dsimp only

theorem execWkGc_onward (h : s0.Onward kq False s) {a : Acc} {v : Word} : ResOnward kq False s0 (execWkGc a v s) := by
  unfold execWkGc
  try dsimp only
  repeat' first | with_reducible assumption | intro _ | with_reducible exact onward_fault | with_reducible exact onward_refused | with_reducible apply onward_next | with_reducible apply State.regWrite_onward | with_reducible apply State.gcEffect_onward | with_reducible apply onward_ite | split | dsimp only

theorem collectEntry_onward {p : State × Nat} (h : s0.Onward kq False p.1) {die group n : Nat} {e : SumEnt} :
    s0.Onward kq False (collectEntry die group n p e).1 := by
  unfold collectEntry
  split
  · exact h
  · exact State.replace_onward h

theorem State.gcEnd_onward (h : s0.Onward kq False s) {die group n : Nat} : s0.Onward kq False (State.gcEnd s die group n) := by
  unfold State.gcEnd
  try dsimp only
  repeat' first | with_reducible assumption | (show kq → _ ∉ settings; first | exact False.elim | (with_reducible assumption) | exact fun _ => by decide | exact fun _ => mapReg_not_setting _ | exact fun _ => (by unfold gcBusy; split <;> decide) | exact fun _ => not_setting (lo := 272) (by decide) (by omega) | exact fun _ => not_setting (lo := 88) (by decide) (by omega) | exact fun _ => not_setting (lo := 64) (by decide) (by omega) | exact fun _ => not_setting (lo := 96) (by decide) (by omega) | exact fun _ => (by rw [rowOf_id]; first | assumption | exact not_setting (lo := 64) (by decide) (by omega) | exact not_setting (lo := 272) (by decide) (by omega)) | exact fun _ => not_setting (lo := 32) (by decide) (by omega)) | intro _ | with_reducible apply collectEntry_onward | with_reducible apply State.setFld_onward | with_reducible apply State.bumpBy_onward | with_reducible apply State.settleSeg_onward | with_reducible apply State.raise_onward | with_reducible apply onward_ite | with_reducible apply onward_foldl | fail_if_no_progress with_reducible refine onward_mkw ?_ rfl rfl rfl rfl rfl rfl rfl rfl | refine onward_of_pair (by assumption) ?_ | with_reducible apply onward_foldl1 | split | dsimp only

theorem execGcDone_onward (h : s0.Onward kq False s) {t die group : Nat} : ResOnward kq False s0 (execGcDone t die group s) := by
  unfold execGcDone
  try dsimp only
  repeat' first | with_reducible assumption | intro _ | with_reducible exact onward_fault | with_reducible exact onward_refused | with_reducible apply onward_next | with_reducible apply State.tick_onward | with_reducible apply State.gcEnd_onward | with_reducible apply onward_ite | fail_if_no_progress with_reducible refine onward_mkw ?_ rfl rfl rfl rfl rfl rfl rfl rfl | split | dsimp only

end Sys2Proof.Machine
end

