-- ==== Sys2Proof/Laws/OnwardSearch.lean ====
section
/-! SUPPORT. What the functions of Machine/Search.lean keep: each answers a state its argument may go on to. -/

namespace Sys2Proof.Machine

set_option linter.unusedTactic false
set_option linter.unreachableTactic false

variable {kq kw : Prop} {s0 s : State}

theorem State.setIndex_onward (h : s0.Onward kq False s) {x : Index} : s0.Onward kq False (State.setIndex s x) := by
  unfold State.setIndex
  try dsimp only
  repeat' first | with_reducible assumption | intro _ | with_reducible apply onward_ite | fail_if_no_progress with_reducible refine onward_mkw ?_ rfl rfl rfl rfl rfl rfl rfl rfl | split | dsimp only

theorem State.trimSide_onward (h : s0.Onward kq False s) {x : Index} : s0.Onward kq False (State.trimSide s x) := by
  unfold State.trimSide
  try dsimp only
  repeat' first | with_reducible assumption | intro _ | with_reducible apply State.setIndex_onward | with_reducible apply State.dealloc_onward | with_reducible apply onward_ite | fail_if_no_progress with_reducible refine onward_mkw ?_ rfl rfl rfl rfl rfl rfl rfl rfl | split | dsimp only

theorem State.dropGen_onward (h : s0.Onward kq False s) {x : Index} {g : OldGen} : s0.Onward kq False (State.dropGen s x g) := by
  unfold State.dropGen
  try dsimp only
  repeat' first | with_reducible assumption | intro _ | with_reducible apply State.releaseT2_onward | with_reducible apply State.dealloc_onward | with_reducible apply onward_ite | with_reducible apply onward_foldl | split | dsimp only

theorem State.retire__onward (h : s0.Onward kq False s) {die num : Nat} : s0.Onward kq False (State.retire_ s die num) := by
  unfold State.retire_
  try dsimp only
  repeat' first | with_reducible assumption | intro _ | with_reducible apply State.dropGen_onward | with_reducible apply State.trimSide_onward | with_reducible apply onward_ite | with_reducible apply onward_foldl | fail_if_no_progress with_reducible refine onward_mkw ?_ rfl rfl rfl rfl rfl rfl rfl rfl | split | dsimp only

theorem State.placePages_onward (h : s0.Onward kq False s) {x : Index} {gen : Nat} {l : List (Option Nat)} {i : Nat} :
    OptOnward1 kq False s0 (State.placePages s x gen l i) := by
  induction l generalizing s i with
  | nil => exact onward_some1 h
  | cons o l ih =>
    cases o with
    | some n => exact onward_map1 (ih h)
    | none =>
      unfold State.placePages
      split
      · exact onward_none1
      · exact onward_map1 (ih (onward_of_some1 ‹_› (State.place_onward h)))

theorem State.switchGen_onward (h : s0.Onward kq False s) {x : Index} {p : PendingIdx} {table : List Nat} : s0.Onward kq False (State.switchGen s x p table) := by
  unfold State.switchGen
  try dsimp only
  repeat' first | with_reducible assumption | intro _ | with_reducible apply State.alloc_onward | with_reducible apply State.setIndex_onward | with_reducible apply State.raise_onward | with_reducible apply State.retire__onward | with_reducible apply onward_ite | fail_if_no_progress with_reducible refine onward_mkw ?_ rfl rfl rfl rfl rfl rfl rfl rfl | split | dsimp only

theorem State.merge_onward (h : s0.Onward kq False s) {x : Index} {p : PendingIdx} : OptOnward kq False s0 (State.merge s x p) := by
  unfold State.merge
  constructor
  intro t e
  obtain ⟨r, e', rfl⟩ := Option.map_eq_some_iff.mp e
  exact State.switchGen_onward ((State.placePages_onward h).some r.1 r.2 e')

theorem State.mergeEffect_onward (h : s0.Onward kq False s) {die num : Nat} {v : Word} {p : Option PendingIdx} : s0.Onward kq False (State.mergeEffect s die num v p) := by
  unfold State.mergeEffect
  try dsimp only
  repeat' first | with_reducible assumption | (show kq → _ ∉ settings; first | exact False.elim | (with_reducible assumption) | exact fun _ => by decide | exact fun _ => mapReg_not_setting _ | exact fun _ => (by unfold gcBusy; split <;> decide) | exact fun _ => not_setting (lo := 272) (by decide) (by omega) | exact fun _ => not_setting (lo := 88) (by decide) (by omega) | exact fun _ => not_setting (lo := 64) (by decide) (by omega) | exact fun _ => not_setting (lo := 96) (by decide) (by omega) | exact fun _ => (by rw [rowOf_id]; first | assumption | exact not_setting (lo := 64) (by decide) (by omega) | exact not_setting (lo := 272) (by decide) (by omega)) | exact fun _ => not_setting (lo := 32) (by decide) (by omega)) | with_reducible apply State.store_onward | with_reducible apply State.setFld_onward | with_reducible apply State.merge_onward | with_reducible apply onward_ite | with_reducible apply onward_getD | fail_if_no_progress with_reducible refine onward_mkw ?_ rfl rfl rfl rfl rfl rfl rfl rfl | refine onward_of_some (by assumption) ?_ | split | dsimp only

theorem execWkMerge_onward (h : s0.Onward kq False s) {a : Acc} {v : Word} {p : PendingIdx} : ResOnward kq False s0 (execWkMerge a v p s) := by
  unfold execWkMerge
  try dsimp only
  repeat' first | with_reducible assumption | intro _ | with_reducible exact onward_fault | with_reducible exact onward_refused | with_reducible apply onward_next | with_reducible apply State.regWrite_onward | with_reducible apply State.mergeEffect_onward | with_reducible apply onward_ite | split | dsimp only

theorem State.searchRefuse_onward (h : s0.Onward kq kw s) {e : Env} {m : SearchMsg} {x : Refuse} : s0.Onward kq kw (State.searchRefuse s e m x) := by
  unfold State.searchRefuse
  try dsimp only
  repeat' first | with_reducible assumption | with_reducible apply State.answer_onward | with_reducible apply onward_ite | split | dsimp only

theorem State.runBatch_onward (h : s0.Onward kq False s) {die num gen : Nat} : s0.Onward kq False (State.runBatch s die num gen) := by
  unfold State.runBatch
  try dsimp only
  repeat' first | with_reducible assumption | (show kq → _ ∉ settings; first | exact False.elim | (with_reducible assumption) | exact fun _ => by decide | exact fun _ => mapReg_not_setting _ | exact fun _ => (by unfold gcBusy; split <;> decide) | exact fun _ => not_setting (lo := 272) (by decide) (by omega) | exact fun _ => not_setting (lo := 88) (by decide) (by omega) | exact fun _ => not_setting (lo := 64) (by decide) (by omega) | exact fun _ => not_setting (lo := 96) (by decide) (by omega) | exact fun _ => (by rw [rowOf_id]; first | assumption | exact not_setting (lo := 64) (by decide) (by omega) | exact not_setting (lo := 272) (by decide) (by omega)) | exact fun _ => not_setting (lo := 32) (by decide) (by omega)) | intro _ | with_reducible apply State.bumpBy_onward | with_reducible apply onward_ite | fail_if_no_progress with_reducible refine onward_mkw ?_ rfl rfl rfl rfl rfl rfl rfl rfl | split | dsimp only

theorem State.admitReq_onward (h : s0.Onward kq False s) {e : Env} {m : SearchMsg} {x : Index} : s0.Onward kq False (State.admitReq s e m x) := by
  unfold State.admitReq
  try dsimp only
  repeat' first | with_reducible assumption | (show kq → _ ∉ settings; first | exact False.elim | (with_reducible assumption) | exact fun _ => by decide | exact fun _ => mapReg_not_setting _ | exact fun _ => (by unfold gcBusy; split <;> decide) | exact fun _ => not_setting (lo := 272) (by decide) (by omega) | exact fun _ => not_setting (lo := 88) (by decide) (by omega) | exact fun _ => not_setting (lo := 64) (by decide) (by omega) | exact fun _ => not_setting (lo := 96) (by decide) (by omega) | exact fun _ => (by rw [rowOf_id]; first | assumption | exact not_setting (lo := 64) (by decide) (by omega) | exact not_setting (lo := 272) (by decide) (by omega)) | exact fun _ => not_setting (lo := 32) (by decide) (by omega)) | with_reducible apply State.bump_onward | with_reducible apply State.runBatch_onward | with_reducible apply onward_ite | fail_if_no_progress with_reducible refine onward_mkw ?_ rfl rfl rfl rfl rfl rfl rfl rfl | split | dsimp only

theorem State.searchRun_onward (h : s0.Onward kq False s) {e : Env} {m : SearchMsg} : s0.Onward kq False (State.searchRun s e m) := by
  unfold State.searchRun
  try dsimp only
  repeat' first | with_reducible assumption | with_reducible apply State.noteMismatch_onward | with_reducible apply State.searchRefuse_onward | with_reducible apply State.admitReq_onward | with_reducible apply onward_ite | fail_if_no_progress with_reducible refine onward_mkw ?_ rfl rfl rfl rfl rfl rfl rfl rfl | split | dsimp only

theorem execSearch_onward (h : s0.Onward kq False s) {e : Env} {m : SearchMsg} : ResOnward kq False s0 (execSearch e m s) := by
  unfold execSearch
  try dsimp only
  repeat' first | with_reducible assumption | intro _ | with_reducible exact onward_fault | with_reducible exact onward_refused | with_reducible apply onward_next | with_reducible apply State.message_onward | with_reducible apply State.searchRun_onward | with_reducible apply onward_ite | split | dsimp only

theorem State.searchResult_onward (h : s0.Onward kq kw s) {x : Index} {q : Search} : s0.Onward kq kw (State.searchResult s x q).1 := by
  unfold State.searchResult
  try dsimp only
  repeat' first | with_reducible assumption | (show kq → _ ∉ settings; first | exact False.elim | (with_reducible assumption) | exact fun _ => by decide | exact fun _ => mapReg_not_setting _ | exact fun _ => (by unfold gcBusy; split <;> decide) | exact fun _ => not_setting (lo := 272) (by decide) (by omega) | exact fun _ => not_setting (lo := 88) (by decide) (by omega) | exact fun _ => not_setting (lo := 64) (by decide) (by omega) | exact fun _ => not_setting (lo := 96) (by decide) (by omega) | exact fun _ => (by rw [rowOf_id]; first | assumption | exact not_setting (lo := 64) (by decide) (by omega) | exact not_setting (lo := 272) (by decide) (by omega)) | exact fun _ => not_setting (lo := 32) (by decide) (by omega)) | with_reducible apply State.bump_onward | with_reducible apply onward_ite | split | dsimp only

theorem State.searchFailed_onward (h : s0.Onward kq kw s) {q : Search} {addr : Nat} : s0.Onward kq kw (State.searchFailed s q addr).1 := by
  unfold State.searchFailed
  try dsimp only
  repeat' first | with_reducible assumption | with_reducible apply State.nextFree_onward | with_reducible apply State.dataCheck_onward | with_reducible apply onward_ite | split | dsimp only

theorem State.lateAnswer_onward (h : s0.Onward kq kw s) {e : Env} {type n status : Nat} {body : List Byte} : s0.Onward kq kw (State.lateAnswer s e type n status body) := by
  unfold State.lateAnswer
  try dsimp only
  repeat' first | with_reducible assumption | with_reducible apply State.answer_onward | with_reducible apply State.formed_onward | with_reducible apply onward_ite | fail_if_no_progress with_reducible refine onward_mk ?_ rfl rfl rfl rfl rfl rfl rfl rfl rfl rfl rfl rfl rfl rfl | split | dsimp only

theorem State.searchEnd_onward (h : s0.Onward kq False s) {q : Search} {x : Index} {o : ReadOutcome} : s0.Onward kq False (State.searchEnd s q x o) := by
  unfold State.searchEnd
  try dsimp only
  repeat' first | with_reducible assumption | intro _ | with_reducible apply State.noteT2At_onward | with_reducible apply State.searchResult_onward | with_reducible apply State.searchFailed_onward | with_reducible apply State.nextFree_onward | with_reducible apply State.lateAnswer_onward | with_reducible apply State.retire__onward | with_reducible apply State.formResults_onward | with_reducible apply onward_ite | fail_if_no_progress with_reducible refine onward_mkw ?_ rfl rfl rfl rfl rfl rfl rfl rfl | refine onward_of_pair (by assumption) ?_ | split | dsimp only

theorem execSearchDone_onward (h : s0.Onward kq False s) {t die qid : Nat} {o : ReadOutcome} : ResOnward kq False s0 (execSearchDone t die qid o s) := by
  unfold execSearchDone
  try dsimp only
  repeat' first | with_reducible assumption | intro _ | with_reducible exact onward_fault | with_reducible exact onward_refused | with_reducible apply onward_next | with_reducible apply State.tick_onward | with_reducible apply State.searchEnd_onward | with_reducible apply onward_ite | fail_if_no_progress with_reducible refine onward_mkw ?_ rfl rfl rfl rfl rfl rfl rfl rfl | split | dsimp only

theorem execBatchWaitExpired_onward (h : s0.Onward kq False s) {t die group : Nat} : ResOnward kq False s0 (execBatchWaitExpired t die group s) := by
  unfold execBatchWaitExpired
  try dsimp only
  repeat' first | with_reducible assumption | intro _ | with_reducible exact onward_fault | with_reducible exact onward_refused | with_reducible apply onward_next | with_reducible apply State.tick_onward | with_reducible apply State.runBatch_onward | with_reducible apply onward_ite | with_reducible apply onward_foldl | split | dsimp only

theorem State.appendSide_onward (h : s0.Onward kq False s) {x : Index} {m : SideMsg} {insert : Bool} : s0.Onward kq False (State.appendSide s x m insert) := by
  unfold State.appendSide
  try dsimp only
  repeat' first | with_reducible assumption | intro _ | with_reducible apply State.setIndex_onward | with_reducible apply State.alloc_onward | with_reducible apply onward_ite | fail_if_no_progress with_reducible refine onward_mkw ?_ rfl rfl rfl rfl rfl rfl rfl rfl | split | dsimp only

theorem State.sideRun_onward (h : s0.Onward kq False s) {e : Env} {type : Nat} {m : SideMsg} {insert : Bool} : s0.Onward kq False (State.sideRun s e type m insert) := by
  unfold State.sideRun
  try dsimp only
  repeat' first | with_reducible assumption | (show kq → _ ∉ settings; first | exact False.elim | (with_reducible assumption) | exact fun _ => by decide | exact fun _ => mapReg_not_setting _ | exact fun _ => (by unfold gcBusy; split <;> decide) | exact fun _ => not_setting (lo := 272) (by decide) (by omega) | exact fun _ => not_setting (lo := 88) (by decide) (by omega) | exact fun _ => not_setting (lo := 64) (by decide) (by omega) | exact fun _ => not_setting (lo := 96) (by decide) (by omega) | exact fun _ => (by rw [rowOf_id]; first | assumption | exact not_setting (lo := 64) (by decide) (by omega) | exact not_setting (lo := 272) (by decide) (by omega)) | exact fun _ => not_setting (lo := 32) (by decide) (by omega)) | intro _ | with_reducible apply State.answer_onward | with_reducible apply State.noteMismatch_onward | with_reducible apply State.bump_onward | with_reducible apply State.raiseOnce_onward | with_reducible apply State.countOutcome_onward | with_reducible apply State.appendSide_onward | with_reducible apply onward_ite | fail_if_no_progress with_reducible refine onward_mkw ?_ rfl rfl rfl rfl rfl rfl rfl rfl | split | dsimp only

theorem execInsert_onward (h : s0.Onward kq False s) {e : Env} {m : SideMsg} : ResOnward kq False s0 (execInsert e m s) := by
  unfold execInsert
  try dsimp only
  repeat' first | with_reducible assumption | intro _ | with_reducible exact onward_fault | with_reducible exact onward_refused | with_reducible apply onward_next | with_reducible apply State.message_onward | with_reducible apply State.sideRun_onward | with_reducible apply onward_ite | split | dsimp only

theorem execDelete_onward (h : s0.Onward kq False s) {e : Env} {m : SideMsg} : ResOnward kq False s0 (execDelete e m s) := by
  unfold execDelete
  try dsimp only
  repeat' first | with_reducible assumption | intro _ | with_reducible exact onward_fault | with_reducible exact onward_refused | with_reducible apply onward_next | with_reducible apply State.message_onward | with_reducible apply State.sideRun_onward | with_reducible apply onward_ite | split | dsimp only

end Sys2Proof.Machine
end

