-- ==== Sys2Proof/Laws/OnwardTransport.lean ====
section
/-! SUPPORT. What the functions of Machine/Transport.lean keep: each answers a state its argument may go on to. -/

namespace Sys2Proof.Machine

set_option linter.unusedTactic false
set_option linter.unreachableTactic false

variable {kq kw : Prop} {s0 s : State}

theorem State.takeSeq_onward (h : s0.Onward kq kw s) {k : KeyRef} {seq : Nat} : s0.Onward kq kw (State.takeSeq s k seq) := by
  unfold State.takeSeq
  try dsimp only
  repeat' first | with_reducible assumption | intro _ | with_reducible apply onward_ite | fail_if_no_progress with_reducible refine onward_mk ?_ rfl rfl rfl rfl rfl rfl rfl rfl rfl rfl rfl rfl rfl rfl | split | dsimp only

theorem State.dropFrame_onward (h : s0.Onward kq kw s) {f : GspFrame} {c : Field} (hr : kq → c.reg ∉ settings) : s0.Onward kq kw (State.dropFrame s f c) := by
  unfold State.dropFrame
  try dsimp only
  repeat' first | with_reducible assumption | (show kq → _ ∉ settings; first | exact False.elim | (with_reducible assumption) | exact fun _ => by decide | exact fun _ => mapReg_not_setting _ | exact fun _ => (by unfold gcBusy; split <;> decide) | exact fun _ => not_setting (lo := 272) (by decide) (by omega) | exact fun _ => not_setting (lo := 88) (by decide) (by omega) | exact fun _ => not_setting (lo := 64) (by decide) (by omega) | exact fun _ => not_setting (lo := 96) (by decide) (by omega) | exact fun _ => (by rw [rowOf_id]; first | assumption | exact not_setting (lo := 64) (by decide) (by omega) | exact not_setting (lo := 272) (by decide) (by omega)) | exact fun _ => not_setting (lo := 32) (by decide) (by omega)) | with_reducible apply State.bump_onward | with_reducible apply State.raiseOnce_onward | with_reducible apply onward_ite | split | dsimp only

theorem State.answerFrame_onward (h : s0.Onward kq kw s) {f : GspFrame} {status reason : Nat} : s0.Onward kq kw (State.answerFrame s f status reason) := by
  unfold State.answerFrame
  try dsimp only
  repeat' first | with_reducible assumption | with_reducible apply State.noteBad_onward | with_reducible apply State.sendMsg_onward | with_reducible apply onward_ite | split | dsimp only

theorem State.whole_onward (h : s0.Onward kq kw s) {r : Reasm} {f : GspFrame} : s0.Onward kq kw (State.whole s r f) := by
  unfold State.whole
  try dsimp only
  repeat' first | with_reducible assumption | intro _ | with_reducible apply onward_ite | fail_if_no_progress with_reducible refine onward_mk ?_ rfl rfl rfl rfl rfl rfl rfl rfl rfl rfl rfl rfl rfl rfl | split | dsimp only

theorem State.joinReasm_onward (h : s0.Onward kq kw s) {r : Reasm} {f : GspFrame} : s0.Onward kq kw (State.joinReasm s r f) := by
  unfold State.joinReasm
  try dsimp only
  repeat' first | with_reducible assumption | intro _ | with_reducible apply State.whole_onward | with_reducible apply onward_ite | fail_if_no_progress with_reducible refine onward_mk ?_ rfl rfl rfl rfl rfl rfl rfl rfl rfl rfl rfl rfl rfl rfl | split | dsimp only

theorem State.reassemble_onward (h : s0.Onward kq kw s) {f : GspFrame} : s0.Onward kq kw (State.reassemble s f) := by
  unfold State.reassemble
  try dsimp only
  repeat' first | with_reducible assumption | (show kq → _ ∉ settings; first | exact False.elim | (with_reducible assumption) | exact fun _ => by decide | exact fun _ => mapReg_not_setting _ | exact fun _ => (by unfold gcBusy; split <;> decide) | exact fun _ => not_setting (lo := 272) (by decide) (by omega) | exact fun _ => not_setting (lo := 88) (by decide) (by omega) | exact fun _ => not_setting (lo := 64) (by decide) (by omega) | exact fun _ => not_setting (lo := 96) (by decide) (by omega) | exact fun _ => (by rw [rowOf_id]; first | assumption | exact not_setting (lo := 64) (by decide) (by omega) | exact not_setting (lo := 272) (by decide) (by omega)) | exact fun _ => not_setting (lo := 32) (by decide) (by omega)) | intro _ | with_reducible apply State.bump_onward | with_reducible apply State.joinReasm_onward | with_reducible apply State.answerFrame_onward | with_reducible apply onward_ite | fail_if_no_progress with_reducible refine onward_mk ?_ rfl rfl rfl rfl rfl rfl rfl rfl rfl rfl rfl rfl rfl rfl | split | dsimp only

theorem State.frameRx_onward (h : s0.Onward kq kw s) {f : GspFrame} : s0.Onward kq kw (State.frameRx s f) := by
  unfold State.frameRx
  try dsimp only
  repeat' first | with_reducible assumption | (show kq → _ ∉ settings; first | exact False.elim | (with_reducible assumption) | exact fun _ => by decide | exact fun _ => mapReg_not_setting _ | exact fun _ => (by unfold gcBusy; split <;> decide) | exact fun _ => not_setting (lo := 272) (by decide) (by omega) | exact fun _ => not_setting (lo := 88) (by decide) (by omega) | exact fun _ => not_setting (lo := 64) (by decide) (by omega) | exact fun _ => not_setting (lo := 96) (by decide) (by omega) | exact fun _ => (by rw [rowOf_id]; first | assumption | exact not_setting (lo := 64) (by decide) (by omega) | exact not_setting (lo := 272) (by decide) (by omega)) | exact fun _ => not_setting (lo := 32) (by decide) (by omega)) | with_reducible apply State.dropFrame_onward | with_reducible apply State.takeSeq_onward | with_reducible apply State.answerFrame_onward | with_reducible apply State.reassemble_onward | with_reducible apply onward_ite | fail_if_no_progress with_reducible refine onward_mk ?_ rfl rfl rfl rfl rfl rfl rfl rfl rfl rfl rfl rfl rfl rfl | split | dsimp only

theorem execGspFrameRx_onward (h : s0.Onward kq kw s) {t : Nat} {f : GspFrame} : ResOnward kq kw s0 (execGspFrameRx t f s) := by
  unfold execGspFrameRx
  try dsimp only
  repeat' first | with_reducible assumption | with_reducible exact onward_fault | with_reducible exact onward_refused | with_reducible apply onward_next | with_reducible apply State.tick_onward | with_reducible apply State.frameRx_onward | with_reducible apply onward_ite | split | dsimp only

theorem execReasmTimeout_onward (h : s0.Onward kq kw s) {t die ep ctx : Nat} {ekey : Bool} {keyGen reqId : Nat} : ResOnward kq kw s0 (execReasmTimeout t die ep ctx ekey keyGen reqId s) := by
  unfold execReasmTimeout
  try dsimp only
  repeat' first | with_reducible assumption | (show kq → _ ∉ settings; first | exact False.elim | (with_reducible assumption) | exact fun _ => by decide | exact fun _ => mapReg_not_setting _ | exact fun _ => (by unfold gcBusy; split <;> decide) | exact fun _ => not_setting (lo := 272) (by decide) (by omega) | exact fun _ => not_setting (lo := 88) (by decide) (by omega) | exact fun _ => not_setting (lo := 64) (by decide) (by omega) | exact fun _ => not_setting (lo := 96) (by decide) (by omega) | exact fun _ => (by rw [rowOf_id]; first | assumption | exact not_setting (lo := 64) (by decide) (by omega) | exact not_setting (lo := 272) (by decide) (by omega)) | exact fun _ => not_setting (lo := 32) (by decide) (by omega)) | intro _ | with_reducible exact onward_fault | with_reducible exact onward_refused | with_reducible apply onward_next | with_reducible apply State.tick_onward | with_reducible apply State.bump_onward | with_reducible apply onward_ite | fail_if_no_progress with_reducible refine onward_mk ?_ rfl rfl rfl rfl rfl rfl rfl rfl rfl rfl rfl rfl rfl rfl | split | dsimp only

theorem State.portDown_onward (h : s0.Onward kq kw s) {p : Nat} : s0.Onward kq kw (State.portDown s p) := by
  unfold State.portDown
  try dsimp only
  repeat' first | with_reducible assumption | (show kq → _ ∉ settings; first | exact False.elim | (with_reducible assumption) | exact fun _ => by decide | exact fun _ => mapReg_not_setting _ | exact fun _ => (by unfold gcBusy; split <;> decide) | exact fun _ => not_setting (lo := 272) (by decide) (by omega) | exact fun _ => not_setting (lo := 88) (by decide) (by omega) | exact fun _ => not_setting (lo := 64) (by decide) (by omega) | exact fun _ => not_setting (lo := 96) (by decide) (by omega) | exact fun _ => (by rw [rowOf_id]; first | assumption | exact not_setting (lo := 64) (by decide) (by omega) | exact not_setting (lo := 272) (by decide) (by omega)) | exact fun _ => not_setting (lo := 32) (by decide) (by omega)) | intro _ | with_reducible apply State.mapResult_onward | with_reducible apply State.settle_onward | with_reducible apply State.setPort_onward | with_reducible apply State.resetClass_onward | with_reducible apply State.setFld_onward | with_reducible apply State.bump_onward | with_reducible apply State.raise_onward | with_reducible apply onward_ite | with_reducible apply onward_foldl | fail_if_no_progress with_reducible refine onward_mk ?_ rfl rfl rfl rfl rfl rfl rfl rfl rfl rfl rfl rfl rfl rfl | split | dsimp only

theorem execLinkDown_onward (h : s0.Onward kq kw s) {t port : Nat} : ResOnward kq kw s0 (execLinkDown t port s) := by
  unfold execLinkDown
  try dsimp only
  repeat' first | with_reducible assumption | with_reducible exact onward_fault | with_reducible exact onward_refused | with_reducible apply onward_next | with_reducible apply State.tick_onward | with_reducible apply State.portDown_onward | with_reducible apply onward_ite | split | dsimp only

theorem State.portUp_onward (h : s0.Onward kq False s) {p : Nat} : s0.Onward kq False (State.portUp s p) := by
  unfold State.portUp
  try dsimp only
  repeat' first | with_reducible assumption | (show kq → _ ∉ settings; first | exact False.elim | (with_reducible assumption) | exact fun _ => by decide | exact fun _ => mapReg_not_setting _ | exact fun _ => (by unfold gcBusy; split <;> decide) | exact fun _ => not_setting (lo := 272) (by decide) (by omega) | exact fun _ => not_setting (lo := 88) (by decide) (by omega) | exact fun _ => not_setting (lo := 64) (by decide) (by omega) | exact fun _ => not_setting (lo := 96) (by decide) (by omega) | exact fun _ => (by rw [rowOf_id]; first | assumption | exact not_setting (lo := 64) (by decide) (by omega) | exact not_setting (lo := 272) (by decide) (by omega)) | exact fun _ => not_setting (lo := 32) (by decide) (by omega)) | with_reducible apply State.settle_onward | with_reducible apply State.setPort_onward | with_reducible apply State.setFld_onward | with_reducible apply State.raise_onward | with_reducible apply State.lateSweep_onward | with_reducible apply onward_ite | fail_if_no_progress with_reducible refine onward_mkw ?_ rfl rfl rfl rfl rfl rfl rfl rfl | split | dsimp only

theorem execLinkUp_onward (h : s0.Onward kq False s) {t port : Nat} : ResOnward kq False s0 (execLinkUp t port s) := by
  unfold execLinkUp
  try dsimp only
  repeat' first | with_reducible assumption | with_reducible exact onward_fault | with_reducible exact onward_refused | with_reducible apply onward_next | with_reducible apply State.tick_onward | with_reducible apply State.portUp_onward | with_reducible apply onward_ite | split | dsimp only

theorem State.pausePrio_onward (h : s0.Onward kq kw s) {p c until_ : Nat} : s0.Onward kq kw (State.pausePrio s p c until_) := by
  unfold State.pausePrio
  try dsimp only
  repeat' first | with_reducible assumption | (show kq → _ ∉ settings; first | exact False.elim | (with_reducible assumption) | exact fun _ => by decide | exact fun _ => mapReg_not_setting _ | exact fun _ => (by unfold gcBusy; split <;> decide) | exact fun _ => not_setting (lo := 272) (by decide) (by omega) | exact fun _ => not_setting (lo := 88) (by decide) (by omega) | exact fun _ => not_setting (lo := 64) (by decide) (by omega) | exact fun _ => not_setting (lo := 96) (by decide) (by omega) | exact fun _ => (by rw [rowOf_id]; first | assumption | exact not_setting (lo := 64) (by decide) (by omega) | exact not_setting (lo := 272) (by decide) (by omega)) | exact fun _ => not_setting (lo := 32) (by decide) (by omega)) | with_reducible apply State.setPort_onward | with_reducible apply State.setFld_onward | with_reducible apply onward_ite | fail_if_no_progress with_reducible refine onward_mk ?_ rfl rfl rfl rfl rfl rfl rfl rfl rfl rfl rfl rfl rfl rfl | split | dsimp only

theorem State.pfc_onward (h : s0.Onward kq kw s) {p : Nat} {enable : BitVec 8} {pauseNs : List Nat} : s0.Onward kq kw (State.pfc s p enable pauseNs) := by
  unfold State.pfc
  try dsimp only
  repeat' first | with_reducible assumption | intro _ | with_reducible apply State.settle_onward | with_reducible apply State.pausePrio_onward | with_reducible apply State.pick_onward | with_reducible apply onward_ite | with_reducible apply onward_getD | with_reducible apply onward_foldl | split | dsimp only

theorem execPfcRx_onward (h : s0.Onward kq kw s) {t port : Nat} {enable : BitVec 8} {pauseNs : List Nat} : ResOnward kq kw s0 (execPfcRx t port enable pauseNs s) := by
  unfold execPfcRx
  try dsimp only
  repeat' first | with_reducible assumption | with_reducible exact onward_fault | with_reducible exact onward_refused | with_reducible apply onward_next | with_reducible apply State.tick_onward | with_reducible apply State.pfc_onward | with_reducible apply State.formResults_onward | with_reducible apply onward_ite | split | dsimp only

theorem execPauseRx_onward (h : s0.Onward kq kw s) {t port : Nat} : ResOnward kq kw s0 (execPauseRx t port s) := by
  unfold execPauseRx
  try dsimp only
  repeat' first | with_reducible assumption | (show kq → _ ∉ settings; first | exact False.elim | (with_reducible assumption) | exact fun _ => by decide | exact fun _ => mapReg_not_setting _ | exact fun _ => (by unfold gcBusy; split <;> decide) | exact fun _ => not_setting (lo := 272) (by decide) (by omega) | exact fun _ => not_setting (lo := 88) (by decide) (by omega) | exact fun _ => not_setting (lo := 64) (by decide) (by omega) | exact fun _ => not_setting (lo := 96) (by decide) (by omega) | exact fun _ => (by rw [rowOf_id]; first | assumption | exact not_setting (lo := 64) (by decide) (by omega) | exact not_setting (lo := 272) (by decide) (by omega)) | exact fun _ => not_setting (lo := 32) (by decide) (by omega)) | with_reducible exact onward_fault | with_reducible exact onward_refused | with_reducible apply onward_next | with_reducible apply State.tick_onward | with_reducible apply State.bump_onward | with_reducible apply onward_ite | split | dsimp only

theorem State.pauseOver_onward (h : s0.Onward kq kw s) {p c : Nat} : s0.Onward kq kw (State.pauseOver s p c) := by
  unfold State.pauseOver
  try dsimp only
  repeat' first | with_reducible assumption | with_reducible apply State.settle_onward | with_reducible apply State.pausePrio_onward | with_reducible apply State.pick_onward | with_reducible apply onward_ite | split | dsimp only

theorem execPfcPauseExpired_onward (h : s0.Onward kq kw s) {t port prio : Nat} : ResOnward kq kw s0 (execPfcPauseExpired t port prio s) := by
  unfold execPfcPauseExpired
  try dsimp only
  repeat' first | with_reducible assumption | with_reducible exact onward_fault | with_reducible exact onward_refused | with_reducible apply onward_next | with_reducible apply State.tick_onward | with_reducible apply State.pauseOver_onward | with_reducible apply State.formResults_onward | with_reducible apply onward_ite | split | dsimp only

theorem State.ptpLocked_onward (h : s0.Onward kq kw s) {v : Bool} : s0.Onward kq kw (State.ptpLocked s v) := by
  unfold State.ptpLocked
  try dsimp only
  repeat' first | with_reducible assumption | (show kq → _ ∉ settings; first | exact False.elim | (with_reducible assumption) | exact fun _ => by decide | exact fun _ => mapReg_not_setting _ | exact fun _ => (by unfold gcBusy; split <;> decide) | exact fun _ => not_setting (lo := 272) (by decide) (by omega) | exact fun _ => not_setting (lo := 88) (by decide) (by omega) | exact fun _ => not_setting (lo := 64) (by decide) (by omega) | exact fun _ => not_setting (lo := 96) (by decide) (by omega) | exact fun _ => (by rw [rowOf_id]; first | assumption | exact not_setting (lo := 64) (by decide) (by omega) | exact not_setting (lo := 272) (by decide) (by omega)) | exact fun _ => not_setting (lo := 32) (by decide) (by omega)) | with_reducible apply State.setFlag_onward | with_reducible apply State.raise_onward | with_reducible apply onward_ite | split | dsimp only

theorem State.ptpInterval_onward (h : s0.Onward kq kw s) {inside : Bool} : s0.Onward kq kw (State.ptpInterval s inside) := by
  unfold State.ptpInterval
  try dsimp only
  repeat' first | with_reducible assumption | with_reducible apply State.ptpLocked_onward | with_reducible apply onward_ite | fail_if_no_progress with_reducible refine onward_mk ?_ rfl rfl rfl rfl rfl rfl rfl rfl rfl rfl rfl rfl rfl rfl | split | dsimp only

theorem State.ptp_onward (h : s0.Onward kq kw s) {m : PtpMsg} : s0.Onward kq kw (State.ptp s m) := by
  unfold State.ptp
  try dsimp only
  repeat' first | with_reducible assumption | (show kq → _ ∉ settings; first | exact False.elim | (with_reducible assumption) | exact fun _ => by decide | exact fun _ => mapReg_not_setting _ | exact fun _ => (by unfold gcBusy; split <;> decide) | exact fun _ => not_setting (lo := 272) (by decide) (by omega) | exact fun _ => not_setting (lo := 88) (by decide) (by omega) | exact fun _ => not_setting (lo := 64) (by decide) (by omega) | exact fun _ => not_setting (lo := 96) (by decide) (by omega) | exact fun _ => (by rw [rowOf_id]; first | assumption | exact not_setting (lo := 64) (by decide) (by omega) | exact not_setting (lo := 272) (by decide) (by omega)) | exact fun _ => not_setting (lo := 32) (by decide) (by omega)) | with_reducible apply State.setReg_onward | with_reducible apply State.setFld_onward | with_reducible apply State.ptpInterval_onward | with_reducible apply onward_ite | fail_if_no_progress with_reducible refine onward_mk ?_ rfl rfl rfl rfl rfl rfl rfl rfl rfl rfl rfl rfl rfl rfl | split | dsimp only

theorem execPtpMessage_onward (h : s0.Onward kq kw s) {t : Nat} {m : PtpMsg} : ResOnward kq kw s0 (execPtpMessage t m s) := by
  unfold execPtpMessage
  try dsimp only
  repeat' first | with_reducible assumption | with_reducible exact onward_fault | with_reducible exact onward_refused | with_reducible apply onward_next | with_reducible apply State.tick_onward | with_reducible apply State.ptp_onward | with_reducible apply onward_ite | split | dsimp only

theorem State.setQp_onward (h : s0.Onward kq kw s) {q : Qp} : s0.Onward kq kw (State.setQp s q) := by
  unfold State.setQp
  try dsimp only
  repeat' first | with_reducible assumption | intro _ | with_reducible apply onward_ite | fail_if_no_progress with_reducible refine onward_mk ?_ rfl rfl rfl rfl rfl rfl rfl rfl rfl rfl rfl rfl rfl rfl | split | dsimp only

theorem State.sendKind3_onward (h : s0.Onward kq kw s) {port ep n : Nat} {b : FrameBody} : s0.Onward kq kw (State.sendKind3 s port ep n b) := by
  unfold State.sendKind3
  try dsimp only
  repeat' first | with_reducible assumption | with_reducible apply State.send_onward | with_reducible apply onward_ite | split | dsimp only

theorem State.connect_onward (h : s0.Onward kq kw s) {port src ep qp mtu : Nat} : s0.Onward kq kw (State.connect s port src ep qp mtu) := by
  unfold State.connect
  try dsimp only
  repeat' first | with_reducible assumption | with_reducible apply State.setQp_onward | with_reducible apply State.sendKind3_onward | with_reducible apply onward_ite | split | dsimp only

theorem execCmReq_onward (h : s0.Onward kq kw s) {t port src ep qp mtu : Nat} : ResOnward kq kw s0 (execCmReq t port src ep qp mtu s) := by
  unfold execCmReq
  try dsimp only
  repeat' first | with_reducible assumption | with_reducible exact onward_fault | with_reducible exact onward_refused | with_reducible apply onward_next | with_reducible apply State.tick_onward | with_reducible apply State.connect_onward | with_reducible apply onward_ite | split | dsimp only

theorem State.congested_onward (h : s0.Onward kq kw s) {port : Nat} {q : Qp} : s0.Onward kq kw (State.congested s port q) := by
  unfold State.congested
  try dsimp only
  repeat' first | with_reducible assumption | with_reducible apply State.setQp_onward | with_reducible apply State.sendKind3_onward | with_reducible apply onward_ite | fail_if_no_progress with_reducible refine onward_mk ?_ rfl rfl rfl rfl rfl rfl rfl rfl rfl rfl rfl rfl rfl rfl | split | dsimp only

theorem State.placeObj_onward (h : s0.Onward kq kw s) {die ctx : Nat} {o : IngestObj} : s0.Onward kq kw (State.placeObj s die ctx o) := by
  unfold State.placeObj
  try dsimp only
  repeat' first | with_reducible assumption | intro _ | with_reducible apply onward_ite | fail_if_no_progress with_reducible refine onward_mk ?_ rfl rfl rfl rfl rfl rfl rfl rfl rfl rfl rfl rfl rfl rfl | split | dsimp only

theorem State.rdmaRx_onward (h : s0.Onward kq kw s) {port ctx : Nat} {q : Qp} {kind : Nat} {o : IngestObj} : s0.Onward kq kw (State.rdmaRx s port ctx q kind o) := by
  unfold State.rdmaRx
  try dsimp only
  repeat' first | with_reducible assumption | (show kq → _ ∉ settings; first | exact False.elim | (with_reducible assumption) | exact fun _ => by decide | exact fun _ => mapReg_not_setting _ | exact fun _ => (by unfold gcBusy; split <;> decide) | exact fun _ => not_setting (lo := 272) (by decide) (by omega) | exact fun _ => not_setting (lo := 88) (by decide) (by omega) | exact fun _ => not_setting (lo := 64) (by decide) (by omega) | exact fun _ => not_setting (lo := 96) (by decide) (by omega) | exact fun _ => (by rw [rowOf_id]; first | assumption | exact not_setting (lo := 64) (by decide) (by omega) | exact not_setting (lo := 272) (by decide) (by omega)) | exact fun _ => not_setting (lo := 32) (by decide) (by omega)) | intro _ | with_reducible apply State.nextFree_onward | with_reducible apply State.sendKind3_onward | with_reducible apply State.bump_onward | with_reducible apply State.placeObj_onward | with_reducible apply onward_ite | split | dsimp only

theorem execRdmaWriteRx_onward (h : s0.Onward kq kw s) {t port qp ctx : Nat} {ce : Bool} {kind : Nat} {o : IngestObj} : ResOnward kq kw s0 (execRdmaWriteRx t port qp ctx ce kind o s) := by
  unfold execRdmaWriteRx
  try dsimp only
  repeat' first | with_reducible assumption | with_reducible exact onward_fault | with_reducible exact onward_refused | with_reducible apply onward_next | with_reducible apply State.tick_onward | with_reducible apply State.congested_onward | with_reducible apply State.rdmaRx_onward | with_reducible apply onward_ite | fail_if_no_progress with_reducible refine onward_mk ?_ rfl rfl rfl rfl rfl rfl rfl rfl rfl rfl rfl rfl rfl rfl | split | dsimp only

theorem State.resend_onward (h : s0.Onward kq kw s) {q : Qp} : s0.Onward kq kw (State.resend s q) := by
  unfold State.resend
  try dsimp only
  repeat' first | with_reducible assumption | intro _ | with_reducible apply State.send_onward | with_reducible apply onward_ite | with_reducible apply onward_foldl | split | dsimp only

theorem State.rdmaAck_onward (h : s0.Onward kq kw s) {q : Qp} {psn : Nat} {nak : Bool} : s0.Onward kq kw (State.rdmaAck s q psn nak) := by
  unfold State.rdmaAck
  try dsimp only
  repeat' first | with_reducible assumption | intro _ | with_reducible apply State.setQp_onward | with_reducible apply State.resend_onward | with_reducible apply onward_ite | fail_if_no_progress with_reducible refine onward_mk ?_ rfl rfl rfl rfl rfl rfl rfl rfl rfl rfl rfl rfl rfl rfl | split | dsimp only

theorem execRdmaAckRx_onward (h : s0.Onward kq kw s) {t die qp psn : Nat} {nak : Bool} : ResOnward kq kw s0 (execRdmaAckRx t die qp psn nak s) := by
  unfold execRdmaAckRx
  try dsimp only
  repeat' first | with_reducible assumption | with_reducible exact onward_fault | with_reducible exact onward_refused | with_reducible apply onward_next | with_reducible apply State.tick_onward | with_reducible apply State.rdmaAck_onward | with_reducible apply onward_ite | fail_if_no_progress with_reducible refine onward_mk ?_ rfl rfl rfl rfl rfl rfl rfl rfl rfl rfl rfl rfl rfl rfl | split | dsimp only

theorem State.rdmaTimeout_onward (h : s0.Onward kq kw s) {q : Qp} : s0.Onward kq kw (State.rdmaTimeout s q) := by
  unfold State.rdmaTimeout
  try dsimp only
  repeat' first | with_reducible assumption | (show kq → _ ∉ settings; first | exact False.elim | (with_reducible assumption) | exact fun _ => by decide | exact fun _ => mapReg_not_setting _ | exact fun _ => (by unfold gcBusy; split <;> decide) | exact fun _ => not_setting (lo := 272) (by decide) (by omega) | exact fun _ => not_setting (lo := 88) (by decide) (by omega) | exact fun _ => not_setting (lo := 64) (by decide) (by omega) | exact fun _ => not_setting (lo := 96) (by decide) (by omega) | exact fun _ => (by rw [rowOf_id]; first | assumption | exact not_setting (lo := 64) (by decide) (by omega) | exact not_setting (lo := 272) (by decide) (by omega)) | exact fun _ => not_setting (lo := 32) (by decide) (by omega)) | with_reducible apply State.setQp_onward | with_reducible apply State.resend_onward | with_reducible apply State.bump_onward | with_reducible apply State.raise_onward | with_reducible apply onward_ite | fail_if_no_progress with_reducible refine onward_mk ?_ rfl rfl rfl rfl rfl rfl rfl rfl rfl rfl rfl rfl rfl rfl | split | dsimp only

theorem execRdmaRetryTimeout_onward (h : s0.Onward kq kw s) {t die qp : Nat} : ResOnward kq kw s0 (execRdmaRetryTimeout t die qp s) := by
  unfold execRdmaRetryTimeout
  try dsimp only
  repeat' first | with_reducible assumption | with_reducible exact onward_fault | with_reducible exact onward_refused | with_reducible apply onward_next | with_reducible apply State.tick_onward | with_reducible apply State.rdmaTimeout_onward | with_reducible apply onward_ite | fail_if_no_progress with_reducible refine onward_mk ?_ rfl rfl rfl rfl rfl rfl rfl rfl rfl rfl rfl rfl rfl rfl | split | dsimp only

theorem execCnpRx_onward (h : s0.Onward kq kw s) {t die qp : Nat} : ResOnward kq kw s0 (execCnpRx t die qp s) := by
  unfold execCnpRx
  try dsimp only
  repeat' first | with_reducible assumption | (show kq → _ ∉ settings; first | exact False.elim | (with_reducible assumption) | exact fun _ => by decide | exact fun _ => mapReg_not_setting _ | exact fun _ => (by unfold gcBusy; split <;> decide) | exact fun _ => not_setting (lo := 272) (by decide) (by omega) | exact fun _ => not_setting (lo := 88) (by decide) (by omega) | exact fun _ => not_setting (lo := 64) (by decide) (by omega) | exact fun _ => not_setting (lo := 96) (by decide) (by omega) | exact fun _ => (by rw [rowOf_id]; first | assumption | exact not_setting (lo := 64) (by decide) (by omega) | exact not_setting (lo := 272) (by decide) (by omega)) | exact fun _ => not_setting (lo := 32) (by decide) (by omega)) | with_reducible exact onward_fault | with_reducible exact onward_refused | with_reducible apply onward_next | with_reducible apply State.tick_onward | with_reducible apply State.setQp_onward | with_reducible apply State.bump_onward | with_reducible apply onward_ite | fail_if_no_progress with_reducible refine onward_mk ?_ rfl rfl rfl rfl rfl rfl rfl rfl rfl rfl rfl rfl rfl rfl | split | dsimp only

theorem execRateRise_onward (h : s0.Onward kq kw s) {t die qp : Nat} : ResOnward kq kw s0 (execRateRise t die qp s) := by
  unfold execRateRise
  try dsimp only
  repeat' first | with_reducible assumption | with_reducible exact onward_fault | with_reducible exact onward_refused | with_reducible apply onward_next | with_reducible apply State.tick_onward | with_reducible apply State.setQp_onward | with_reducible apply onward_ite | fail_if_no_progress with_reducible refine onward_mk ?_ rfl rfl rfl rfl rfl rfl rfl rfl rfl rfl rfl rfl rfl rfl | split | dsimp only

theorem State.subscribe_onward (h : s0.Onward kq kw s) {e : Env} {op zeros_ : Nat} : s0.Onward kq kw (State.subscribe s e op zeros_) := by
  unfold State.subscribe
  try dsimp only
  repeat' first | with_reducible assumption | intro _ | with_reducible apply State.answer_onward | with_reducible apply onward_ite | fail_if_no_progress with_reducible refine onward_mk ?_ rfl rfl rfl rfl rfl rfl rfl rfl rfl rfl rfl rfl rfl rfl | split | dsimp only

theorem execEvent_onward (h : s0.Onward kq False s) {e : Env} {op zeros_ : Nat} : ResOnward kq False s0 (execEvent e op zeros_ s) := by
  unfold execEvent
  try dsimp only
  repeat' first | with_reducible assumption | intro _ | with_reducible exact onward_fault | with_reducible exact onward_refused | with_reducible apply onward_next | with_reducible apply State.message_onward | with_reducible apply State.subscribe_onward | with_reducible apply onward_ite | split | dsimp only

end Sys2Proof.Machine
end

