-- ==== Sys2Proof/Laws/OnwardChimneyCmds.lean ====
section
/-! SUPPORT. What the functions of Machine/ChimneyCmds.lean keep: each answers a state its argument may go on to. -/

namespace Sys2Proof.Machine

set_option linter.unusedTactic false
set_option linter.unreachableTactic false

variable {kq kw : Prop} {s0 s : State}

theorem State.setShaper_onward (h : s0.Onward kq kw s) {p c : Nat} {v : Word} : s0.Onward kq kw (State.setShaper s p c v) := by
  unfold State.setShaper
  try dsimp only
  repeat' first | with_reducible assumption | (show kq → _ ∉ settings; first | exact False.elim | (with_reducible assumption) | exact fun _ => by decide | exact fun _ => mapReg_not_setting _ | exact fun _ => (by unfold gcBusy; split <;> decide) | exact fun _ => not_setting (lo := 272) (by decide) (by omega) | exact fun _ => not_setting (lo := 88) (by decide) (by omega) | exact fun _ => not_setting (lo := 64) (by decide) (by omega) | exact fun _ => not_setting (lo := 96) (by decide) (by omega) | exact fun _ => (by rw [rowOf_id]; first | assumption | exact not_setting (lo := 64) (by decide) (by omega) | exact not_setting (lo := 272) (by decide) (by omega)) | exact fun _ => not_setting (lo := 32) (by decide) (by omega)) | with_reducible apply State.settle_onward | with_reducible apply State.store_onward | with_reducible apply State.setPort_onward | with_reducible apply onward_ite | fail_if_no_progress with_reducible refine onward_mk ?_ rfl rfl rfl rfl rfl rfl rfl rfl rfl rfl rfl rfl rfl rfl | split | dsimp only

theorem State.charge_onward (h : s0.Onward kq kw s) {p c lc : Nat} : s0.Onward kq kw (State.charge s p c lc) := by
  unfold State.charge
  try dsimp only
  repeat' first | with_reducible assumption | with_reducible apply State.setPort_onward | with_reducible apply onward_ite | fail_if_no_progress with_reducible refine onward_mk ?_ rfl rfl rfl rfl rfl rfl rfl rfl rfl rfl rfl rfl rfl rfl | split | dsimp only

theorem State.txEnd_onward (h : s0.Onward kq kw s) {p : Nat} {f : QFrame} : s0.Onward kq kw (State.txEnd s p f) := by
  unfold State.txEnd
  try dsimp only
  repeat' first | with_reducible assumption | with_reducible apply State.settle_onward | with_reducible apply State.charge_onward | with_reducible apply State.setPort_onward | with_reducible apply State.setShaper_onward | with_reducible apply State.resetClass_onward | with_reducible apply State.pick_onward | with_reducible apply State.formResults_onward | with_reducible apply onward_ite | fail_if_no_progress with_reducible refine onward_mk ?_ rfl rfl rfl rfl rfl rfl rfl rfl rfl rfl rfl rfl rfl rfl | split | dsimp only

theorem execFrameTxEnd_onward (h : s0.Onward kq kw s) {t port : Nat} : ResOnward kq kw s0 (execFrameTxEnd t port s) := by
  unfold execFrameTxEnd
  try dsimp only
  repeat' first | with_reducible assumption | with_reducible exact onward_fault | with_reducible exact onward_refused | with_reducible apply onward_next | with_reducible apply State.tick_onward | with_reducible apply State.txEnd_onward | with_reducible apply onward_ite | fail_if_no_progress with_reducible refine onward_mk ?_ rfl rfl rfl rfl rfl rfl rfl rfl rfl rfl rfl rfl rfl rfl | split | dsimp only

theorem execShaperCreditRecovered_onward (h : s0.Onward kq kw s) {t port cls : Nat} : ResOnward kq kw s0 (execShaperCreditRecovered t port cls s) := by
  unfold execShaperCreditRecovered
  try dsimp only
  repeat' first | with_reducible assumption | with_reducible exact onward_fault | with_reducible exact onward_refused | with_reducible apply onward_next | with_reducible apply State.tick_onward | with_reducible apply State.pick_onward | with_reducible apply State.formResults_onward | with_reducible apply onward_ite | split | dsimp only

theorem State.shaperEffect_onward (h : s0.Onward kq kw s) {p c : Nat} {v : Word} : s0.Onward kq kw (State.shaperEffect s p c v) := by
  unfold State.shaperEffect
  try dsimp only
  repeat' first | with_reducible assumption | with_reducible apply State.setPort_onward | with_reducible apply State.setShaper_onward | with_reducible apply State.pick_onward | with_reducible apply State.formResults_onward | with_reducible apply onward_ite | fail_if_no_progress with_reducible refine onward_mk ?_ rfl rfl rfl rfl rfl rfl rfl rfl rfl rfl rfl rfl rfl rfl | split | dsimp only

theorem execChShaperWrite_onward (h : s0.Onward kq kw s) {a : Acc} {n : Nat} {v : Word} : ResOnward kq kw s0 (execChShaperWrite a n v s) := by
  unfold execChShaperWrite
  try dsimp only
  repeat' first | with_reducible assumption | intro _ | with_reducible exact onward_fault | with_reducible exact onward_refused | with_reducible apply onward_next | with_reducible apply State.regWrite_onward | with_reducible apply State.shaperEffect_onward | with_reducible apply onward_ite | split | dsimp only

theorem State.gateCtrlEffect_onward (h : s0.Onward kq kw s) {p : Nat} {v : Word} : s0.Onward kq kw (State.gateCtrlEffect s p v) := by
  unfold State.gateCtrlEffect
  try dsimp only
  repeat' first | with_reducible assumption | (show kq → _ ∉ settings; first | exact False.elim | (with_reducible assumption) | exact fun _ => by decide | exact fun _ => mapReg_not_setting _ | exact fun _ => (by unfold gcBusy; split <;> decide) | exact fun _ => not_setting (lo := 272) (by decide) (by omega) | exact fun _ => not_setting (lo := 88) (by decide) (by omega) | exact fun _ => not_setting (lo := 64) (by decide) (by omega) | exact fun _ => not_setting (lo := 96) (by decide) (by omega) | exact fun _ => (by rw [rowOf_id]; first | assumption | exact not_setting (lo := 64) (by decide) (by omega) | exact not_setting (lo := 272) (by decide) (by omega)) | exact fun _ => not_setting (lo := 32) (by decide) (by omega)) | with_reducible apply State.store_onward | with_reducible apply State.setFld_onward | with_reducible apply State.setPort_onward | with_reducible apply onward_ite | fail_if_no_progress with_reducible refine onward_mk ?_ rfl rfl rfl rfl rfl rfl rfl rfl rfl rfl rfl rfl rfl rfl | split | dsimp only

theorem execChGateSwap_onward (h : s0.Onward kq kw s) {a : Acc} {v : Word} : ResOnward kq kw s0 (execChGateSwap a v s) := by
  unfold execChGateSwap
  try dsimp only
  repeat' first | with_reducible assumption | intro _ | with_reducible exact onward_fault | with_reducible exact onward_refused | with_reducible apply onward_next | with_reducible apply State.regWrite_onward | with_reducible apply State.gateCtrlEffect_onward | with_reducible apply onward_ite | split | dsimp only

end Sys2Proof.Machine
end

