-- ==== Sys2Proof/Laws/OnwardTally.lean ====
section
/-! SUPPORT. What the functions of Machine/Tally.lean keep: each answers a state its argument may go on to. -/

namespace Sys2Proof.Machine

set_option linter.unusedTactic false
set_option linter.unreachableTactic false

variable {kq kw : Prop} {s0 s : State}

theorem State.tlEvent_onward (h : s0.Onward kq kw s) {die i sub : Nat} {alert : Bool} : s0.Onward kq kw (State.tlEvent s die i sub alert) := by
  unfold State.tlEvent
  try dsimp only
  repeat' first | with_reducible assumption | with_reducible apply State.raiseOnce_onward | with_reducible apply onward_ite | split | dsimp only

theorem State.fireWire_onward (h : s0.Onward kq kw s) {die w : Nat} : s0.Onward kq kw (State.fireWire s die w) := by
  unfold State.fireWire
  try dsimp only
  repeat' first | with_reducible assumption | (show kq → _ ∉ settings; first | exact False.elim | (with_reducible assumption) | exact fun _ => by decide | exact fun _ => mapReg_not_setting _ | exact fun _ => (by unfold gcBusy; split <;> decide) | exact fun _ => not_setting (lo := 272) (by decide) (by omega) | exact fun _ => not_setting (lo := 88) (by decide) (by omega) | exact fun _ => not_setting (lo := 64) (by decide) (by omega) | exact fun _ => not_setting (lo := 96) (by decide) (by omega) | exact fun _ => (by rw [rowOf_id]; first | assumption | exact not_setting (lo := 64) (by decide) (by omega) | exact not_setting (lo := 272) (by decide) (by omega)) | exact fun _ => not_setting (lo := 32) (by decide) (by omega)) | intro _ | with_reducible apply State.setReg_onward | with_reducible apply onward_ite | fail_if_no_progress with_reducible refine onward_mk ?_ rfl rfl rfl rfl rfl rfl rfl rfl rfl rfl rfl rfl rfl rfl | split | dsimp only

theorem State.tlTest_onward (h : s0.Onward kq kw s) {die i : Nat} : s0.Onward kq kw (State.tlTest s die i) := by
  unfold State.tlTest
  try dsimp only
  repeat' first | with_reducible assumption | (show kq → _ ∉ settings; first | exact False.elim | (with_reducible assumption) | exact fun _ => by decide | exact fun _ => mapReg_not_setting _ | exact fun _ => (by unfold gcBusy; split <;> decide) | exact fun _ => not_setting (lo := 272) (by decide) (by omega) | exact fun _ => not_setting (lo := 88) (by decide) (by omega) | exact fun _ => not_setting (lo := 64) (by decide) (by omega) | exact fun _ => not_setting (lo := 96) (by decide) (by omega) | exact fun _ => (by rw [rowOf_id]; first | assumption | exact not_setting (lo := 64) (by decide) (by omega) | exact not_setting (lo := 272) (by decide) (by omega)) | exact fun _ => not_setting (lo := 32) (by decide) (by omega)) | with_reducible apply State.setFld_onward | with_reducible apply State.fireWire_onward | with_reducible apply onward_ite | split | dsimp only

theorem State.tlNoteBreach_onward (h : s0.Onward kq kw s) {die i : Nat} : s0.Onward kq kw (State.tlNoteBreach s die i) := by
  unfold State.tlNoteBreach
  try dsimp only
  repeat' first | with_reducible assumption | (show kq → _ ∉ settings; first | exact False.elim | (with_reducible assumption) | exact fun _ => by decide | exact fun _ => mapReg_not_setting _ | exact fun _ => (by unfold gcBusy; split <;> decide) | exact fun _ => not_setting (lo := 272) (by decide) (by omega) | exact fun _ => not_setting (lo := 88) (by decide) (by omega) | exact fun _ => not_setting (lo := 64) (by decide) (by omega) | exact fun _ => not_setting (lo := 96) (by decide) (by omega) | exact fun _ => (by rw [rowOf_id]; first | assumption | exact not_setting (lo := 64) (by decide) (by omega) | exact not_setting (lo := 272) (by decide) (by omega)) | exact fun _ => not_setting (lo := 32) (by decide) (by omega)) | with_reducible apply State.setFld_onward | with_reducible apply State.bump_onward | with_reducible apply State.tlEvent_onward | with_reducible apply onward_ite | split | dsimp only

theorem State.tlStore_onward (h : s0.Onward kq kw s) {die i v : Nat} : s0.Onward kq kw (State.tlStore s die i v).1 := by
  unfold State.tlStore
  try dsimp only
  repeat' first | with_reducible assumption | (show kq → _ ∉ settings; first | exact False.elim | (with_reducible assumption) | exact fun _ => by decide | exact fun _ => mapReg_not_setting _ | exact fun _ => (by unfold gcBusy; split <;> decide) | exact fun _ => not_setting (lo := 272) (by decide) (by omega) | exact fun _ => not_setting (lo := 88) (by decide) (by omega) | exact fun _ => not_setting (lo := 64) (by decide) (by omega) | exact fun _ => not_setting (lo := 96) (by decide) (by omega) | exact fun _ => (by rw [rowOf_id]; first | assumption | exact not_setting (lo := 64) (by decide) (by omega) | exact not_setting (lo := 272) (by decide) (by omega)) | exact fun _ => not_setting (lo := 32) (by decide) (by omega)) | with_reducible apply State.setFld_onward | with_reducible apply State.bump_onward | with_reducible apply State.tlEvent_onward | with_reducible apply State.tlTest_onward | with_reducible apply onward_ite | split | dsimp only

theorem State.tlChange_onward (h : s0.Onward kq kw s) {die i : Nat} {ep : Option Nat} {adv : Bool} {n : Nat} : s0.Onward kq kw (State.tlChange s die i ep adv n).1 := by
  unfold State.tlChange
  try dsimp only
  repeat' first | with_reducible assumption | (show kq → _ ∉ settings; first | exact False.elim | (with_reducible assumption) | exact fun _ => by decide | exact fun _ => mapReg_not_setting _ | exact fun _ => (by unfold gcBusy; split <;> decide) | exact fun _ => not_setting (lo := 272) (by decide) (by omega) | exact fun _ => not_setting (lo := 88) (by decide) (by omega) | exact fun _ => not_setting (lo := 64) (by decide) (by omega) | exact fun _ => not_setting (lo := 96) (by decide) (by omega) | exact fun _ => (by rw [rowOf_id]; first | assumption | exact not_setting (lo := 64) (by decide) (by omega) | exact not_setting (lo := 272) (by decide) (by omega)) | exact fun _ => not_setting (lo := 32) (by decide) (by omega)) | with_reducible apply State.setFld_onward | with_reducible apply State.bump_onward | with_reducible apply State.tlEvent_onward | with_reducible apply State.tlNoteBreach_onward | with_reducible apply State.tlStore_onward | with_reducible apply onward_ite | fail_if_no_progress with_reducible refine onward_mk ?_ rfl rfl rfl rfl rfl rfl rfl rfl rfl rfl rfl rfl rfl rfl | refine onward_of_pair (by assumption) ?_ | split | dsimp only

theorem State.tlAnswer_onward (h : s0.Onward kq kw s) {e : Env} {type die i status reason detail : Nat} : s0.Onward kq kw (State.tlAnswer s e type die i status reason detail) := by
  unfold State.tlAnswer
  try dsimp only
  repeat' first | with_reducible assumption | with_reducible apply State.answer_onward | with_reducible apply onward_ite | split | dsimp only

theorem State.tlSender_onward (h : s0.Onward kq kw s) {e : Env} {die i : Nat} : s0.Onward kq kw (State.tlSender s e die i).1 := by
  unfold State.tlSender
  try dsimp only
  repeat' first | with_reducible assumption | (show kq → _ ∉ settings; first | exact False.elim | (with_reducible assumption) | exact fun _ => by decide | exact fun _ => mapReg_not_setting _ | exact fun _ => (by unfold gcBusy; split <;> decide) | exact fun _ => not_setting (lo := 272) (by decide) (by omega) | exact fun _ => not_setting (lo := 88) (by decide) (by omega) | exact fun _ => not_setting (lo := 64) (by decide) (by omega) | exact fun _ => not_setting (lo := 96) (by decide) (by omega) | exact fun _ => (by rw [rowOf_id]; first | assumption | exact not_setting (lo := 64) (by decide) (by omega) | exact not_setting (lo := 272) (by decide) (by omega)) | exact fun _ => not_setting (lo := 32) (by decide) (by omega)) | with_reducible apply State.bump_onward | with_reducible apply onward_ite | split | dsimp only

theorem State.tlRun_onward (h : s0.Onward kq kw s) {e : Env} {type : Nat} {m : TallyMsg} {bad : Bool} {f : State → Nat → Nat → State} (hf : ∀ (s : State) (x1 : Nat) (x2 : Nat), s0.Onward kq kw s → s0.Onward kq kw (f s x1 x2)) : s0.Onward kq kw (State.tlRun s e type m bad f) := by
  unfold State.tlRun
  try dsimp only
  repeat' first | with_reducible assumption | with_reducible apply State.answer_onward | with_reducible apply State.tlSender_onward | with_reducible apply State.tlAnswer_onward | with_reducible apply hf | with_reducible apply onward_ite | fail_if_no_progress with_reducible refine onward_mk ?_ rfl rfl rfl rfl rfl rfl rfl rfl rfl rfl rfl rfl rfl rfl | refine onward_of_pair (by assumption) ?_ | split | dsimp only

theorem State.tlAddRun_onward (h : s0.Onward kq kw s) {e : Env} {m : TallyMsg} {die i : Nat} : s0.Onward kq kw (State.tlAddRun s e m die i) := by
  unfold State.tlAddRun
  try dsimp only
  repeat' first | with_reducible assumption | with_reducible apply State.tlChange_onward | with_reducible apply State.tlAnswer_onward | with_reducible apply onward_ite | refine onward_of_pair (by assumption) ?_ | split | dsimp only

theorem State.tlReadRun_onward (h : s0.Onward kq kw s) {e : Env} {m : TallyMsg} {die i : Nat} : s0.Onward kq kw (State.tlReadRun s e m die i) := by
  unfold State.tlReadRun
  try dsimp only
  repeat' first | with_reducible assumption | with_reducible apply State.tlAnswer_onward | with_reducible apply State.notReady_onward | with_reducible apply onward_ite | split | dsimp only

theorem State.tlAddMsg_onward (h : s0.Onward kq False s) {e : Env} {c : Instr} {m : TallyMsg} : s0.Onward kq False (State.tlAddMsg s e c m) := by
  unfold State.tlAddMsg
  try dsimp only
  repeat' first | with_reducible assumption | intro _ | with_reducible apply State.message_onward | with_reducible apply State.tlRun_onward | with_reducible apply State.tlAddRun_onward | with_reducible apply onward_ite | split | dsimp only

theorem execTallyAdd_onward (h : s0.Onward kq False s) {e : Env} {m : TallyMsg} : ResOnward kq False s0 (execTallyAdd e m s) := by
  unfold execTallyAdd
  try dsimp only
  repeat' first | with_reducible assumption | with_reducible exact onward_fault | with_reducible exact onward_refused | with_reducible apply onward_next | with_reducible apply State.tlAddMsg_onward | with_reducible apply onward_ite | split | dsimp only

theorem execTallyAdvance_onward (h : s0.Onward kq False s) {e : Env} {m : TallyMsg} : ResOnward kq False s0 (execTallyAdvance e m s) := by
  unfold execTallyAdvance
  try dsimp only
  repeat' first | with_reducible assumption | with_reducible exact onward_fault | with_reducible exact onward_refused | with_reducible apply onward_next | with_reducible apply State.tlAddMsg_onward | with_reducible apply onward_ite | fail_if_no_progress with_reducible refine onward_mkw ?_ rfl rfl rfl rfl rfl rfl rfl rfl | split | dsimp only

theorem execTallyRead_onward (h : s0.Onward kq False s) {e : Env} {m : TallyMsg} : ResOnward kq False s0 (execTallyRead e m s) := by
  unfold execTallyRead
  try dsimp only
  repeat' first | with_reducible assumption | intro _ | with_reducible exact onward_fault | with_reducible exact onward_refused | with_reducible apply onward_next | with_reducible apply State.message_onward | with_reducible apply State.tlRun_onward | with_reducible apply State.tlReadRun_onward | with_reducible apply onward_ite | split | dsimp only

theorem State.tlAddEffect_onward (h : s0.Onward kq kw s) {a : Acc} {v : Word} : s0.Onward kq kw (State.tlAddEffect s a v) := by
  unfold State.tlAddEffect
  try dsimp only
  repeat' first | with_reducible assumption | (show kq → _ ∉ settings; first | exact False.elim | (with_reducible assumption) | exact fun _ => by decide | exact fun _ => mapReg_not_setting _ | exact fun _ => (by unfold gcBusy; split <;> decide) | exact fun _ => not_setting (lo := 272) (by decide) (by omega) | exact fun _ => not_setting (lo := 88) (by decide) (by omega) | exact fun _ => not_setting (lo := 64) (by decide) (by omega) | exact fun _ => not_setting (lo := 96) (by decide) (by omega) | exact fun _ => (by rw [rowOf_id]; first | assumption | exact not_setting (lo := 64) (by decide) (by omega) | exact not_setting (lo := 272) (by decide) (by omega)) | exact fun _ => not_setting (lo := 32) (by decide) (by omega)) | with_reducible apply State.tlChange_onward | with_reducible apply State.setReg_onward | with_reducible apply onward_ite | refine onward_of_pair (by assumption) ?_ | split | dsimp only

theorem State.tlAddWrite_onward (h : s0.Onward kq kw s) {a : Acc} {v : Word} : s0.Onward kq kw (State.tlAddWrite s a v) := by
  unfold State.tlAddWrite
  try dsimp only
  repeat' first | with_reducible assumption | intro _ | with_reducible apply State.regWrite_onward | with_reducible apply State.tlAddEffect_onward | with_reducible apply onward_ite | split | dsimp only

theorem execTlAdd_onward (h : s0.Onward kq kw s) {a : Acc} {v : Word} : ResOnward kq kw s0 (execTlAdd a v s) := by
  unfold execTlAdd
  try dsimp only
  repeat' first | with_reducible assumption | with_reducible exact onward_fault | with_reducible exact onward_refused | with_reducible apply onward_next | with_reducible apply State.tlAddWrite_onward | with_reducible apply onward_ite | split | dsimp only

theorem execTlAddAdvance_onward (h : s0.Onward kq kw s) {a : Acc} {v : Word} : ResOnward kq kw s0 (execTlAddAdvance a v s) := by
  unfold execTlAddAdvance
  try dsimp only
  repeat' first | with_reducible assumption | with_reducible exact onward_fault | with_reducible exact onward_refused | with_reducible apply onward_next | with_reducible apply State.tlAddWrite_onward | with_reducible apply onward_ite | split | dsimp only

theorem State.tlDescEffect_onward (h : s0.Onward kq kw s) {die i : Nat} {v : Word} : s0.Onward kq kw (State.tlDescEffect s die i v) := by
  unfold State.tlDescEffect
  try dsimp only
  repeat' first | with_reducible assumption | (show kq → _ ∉ settings; first | exact False.elim | (with_reducible assumption) | exact fun _ => by decide | exact fun _ => mapReg_not_setting _ | exact fun _ => (by unfold gcBusy; split <;> decide) | exact fun _ => not_setting (lo := 272) (by decide) (by omega) | exact fun _ => not_setting (lo := 88) (by decide) (by omega) | exact fun _ => not_setting (lo := 64) (by decide) (by omega) | exact fun _ => not_setting (lo := 96) (by decide) (by omega) | exact fun _ => (by rw [rowOf_id]; first | assumption | exact not_setting (lo := 64) (by decide) (by omega) | exact not_setting (lo := 272) (by decide) (by omega)) | exact fun _ => not_setting (lo := 32) (by decide) (by omega)) | with_reducible apply State.store_onward | with_reducible apply State.tlTest_onward | with_reducible apply onward_ite | split | dsimp only

theorem execTallyArm_onward (h : s0.Onward kq kw s) {a : Acc} {v : Word} : ResOnward kq kw s0 (execTallyArm a v s) := by
  unfold execTallyArm
  try dsimp only
  repeat' first | with_reducible assumption | intro _ | with_reducible exact onward_fault | with_reducible exact onward_refused | with_reducible apply onward_next | with_reducible apply State.regWrite_onward | with_reducible apply State.tlDescEffect_onward | with_reducible apply onward_ite | split | dsimp only

theorem State.tlPairEffect_onward (h : s0.Onward kq kw s) {die i : Nat} {v : Word} : s0.Onward kq kw (State.tlPairEffect s die i v) := by
  unfold State.tlPairEffect
  try dsimp only
  repeat' first | with_reducible assumption | (show kq → _ ∉ settings; first | exact False.elim | (with_reducible assumption) | exact fun _ => by decide | exact fun _ => mapReg_not_setting _ | exact fun _ => (by unfold gcBusy; split <;> decide) | exact fun _ => not_setting (lo := 272) (by decide) (by omega) | exact fun _ => not_setting (lo := 88) (by decide) (by omega) | exact fun _ => not_setting (lo := 64) (by decide) (by omega) | exact fun _ => not_setting (lo := 96) (by decide) (by omega) | exact fun _ => (by rw [rowOf_id]; first | assumption | exact not_setting (lo := 64) (by decide) (by omega) | exact not_setting (lo := 272) (by decide) (by omega)) | exact fun _ => not_setting (lo := 32) (by decide) (by omega)) | with_reducible apply State.store_onward | with_reducible apply State.tlNoteBreach_onward | with_reducible apply onward_ite | split | dsimp only

theorem execTlPairWrite_onward (h : s0.Onward kq kw s) {a : Acc} {v : Word} : ResOnward kq kw s0 (execTlPairWrite a v s) := by
  unfold execTlPairWrite
  try dsimp only
  repeat' first | with_reducible assumption | intro _ | with_reducible exact onward_fault | with_reducible exact onward_refused | with_reducible apply onward_next | with_reducible apply State.regWrite_onward | with_reducible apply State.tlPairEffect_onward | with_reducible apply onward_ite | split | dsimp only

theorem State.tlFireEffect_onward (h : s0.Onward kq kw s) {die : Nat} {v : Word} : s0.Onward kq kw (State.tlFireEffect s die v) := by
  unfold State.tlFireEffect
  try dsimp only
  repeat' first | with_reducible assumption | with_reducible apply State.fireWire_onward | with_reducible apply onward_ite | split | dsimp only

theorem execTlFire_onward (h : s0.Onward kq kw s) {a : Acc} {v : Word} : ResOnward kq kw s0 (execTlFire a v s) := by
  unfold execTlFire
  try dsimp only
  repeat' first | with_reducible assumption | intro _ | with_reducible exact onward_fault | with_reducible exact onward_refused | with_reducible apply onward_next | with_reducible apply State.regWrite_onward | with_reducible apply State.tlFireEffect_onward | with_reducible apply onward_ite | split | dsimp only

theorem State.tlSleepEffect_onward (h : s0.Onward kq kw s) {a : Acc} {v : Word} : s0.Onward kq kw (State.tlSleepEffect s a v) := by
  unfold State.tlSleepEffect
  try dsimp only
  repeat' first | with_reducible assumption | with_reducible apply State.setCore_onward | with_reducible apply onward_ite | fail_if_no_progress with_reducible refine onward_mk ?_ rfl rfl rfl rfl rfl rfl rfl rfl rfl rfl rfl rfl rfl rfl | split | dsimp only

theorem execTlSleep_onward (h : s0.Onward kq kw s) {a : Acc} {v : Word} : ResOnward kq kw s0 (execTlSleep a v s) := by
  unfold execTlSleep
  try dsimp only
  repeat' first | with_reducible assumption | intro _ | with_reducible exact onward_fault | with_reducible exact onward_refused | with_reducible apply onward_next | with_reducible apply State.regWrite_onward | with_reducible apply State.tlSleepEffect_onward | with_reducible apply onward_ite | split | dsimp only

theorem State.tlWokenEffect_onward (h : s0.Onward kq kw s) {die n : Nat} : s0.Onward kq kw (State.tlWokenEffect s die n) := by
  unfold State.tlWokenEffect
  try dsimp only
  repeat' first | with_reducible assumption | (show kq → _ ∉ settings; first | exact False.elim | (with_reducible assumption) | exact fun _ => by decide | exact fun _ => mapReg_not_setting _ | exact fun _ => (by unfold gcBusy; split <;> decide) | exact fun _ => not_setting (lo := 272) (by decide) (by omega) | exact fun _ => not_setting (lo := 88) (by decide) (by omega) | exact fun _ => not_setting (lo := 64) (by decide) (by omega) | exact fun _ => not_setting (lo := 96) (by decide) (by omega) | exact fun _ => (by rw [rowOf_id]; first | assumption | exact not_setting (lo := 64) (by decide) (by omega) | exact not_setting (lo := 272) (by decide) (by omega)) | exact fun _ => not_setting (lo := 32) (by decide) (by omega)) | with_reducible apply State.setReg_onward | with_reducible apply onward_ite | split | dsimp only

theorem execTlWokenRead_onward (h : s0.Onward kq kw s) {a : Acc} {n : Nat} : ResOnward kq kw s0 (execTlWokenRead a n s) := by
  unfold execTlWokenRead
  try dsimp only
  repeat' first | with_reducible assumption | intro _ | with_reducible exact onward_fault | with_reducible exact onward_refused | with_reducible apply onward_next | with_reducible apply State.regRead_onward | with_reducible apply State.tlWokenEffect_onward | with_reducible apply onward_ite | split | dsimp only

end Sys2Proof.Machine
end

