-- ==== Sys2Proof/Laws/OnwardLamp.lean ====
section
/-! SUPPORT. What the functions of Machine/Lamp.lean keep: each answers a state its argument may go on to. -/

namespace Sys2Proof.Machine

set_option linter.unusedTactic false
set_option linter.unreachableTactic false

variable {kq kw : Prop} {s0 s : State}

theorem State.setScrubs_onward (h : s0.Onward kq kw s) {l : List Scrub} : s0.Onward kq kw (State.setScrubs s l) := by
  unfold State.setScrubs
  try dsimp only
  repeat' first | with_reducible assumption | with_reducible apply onward_ite | fail_if_no_progress with_reducible refine onward_mk ?_ rfl rfl rfl rfl rfl rfl rfl rfl rfl rfl rfl rfl rfl rfl | split | dsimp only

theorem State.zeroT1_onward (h : s0.Onward False False s) {die a n : Nat} : s0.Onward False False (State.zeroT1 s die a n) :=
  State.setT1_onward (onward_foldl (fun _ _ h => State.cbwWrite_onward h) _ h) (fun c => memZero_wf c _ _)

theorem State.fillEffect_onward (h : s0.Onward False False s) {a : Acc} {v : Word} : s0.Onward False False (State.fillEffect s a v) := by
  unfold State.fillEffect
  try dsimp only
  repeat' first | with_reducible assumption | with_reducible apply State.zeroT1_onward | with_reducible apply State.fwLimit_onward | with_reducible apply onward_ite | fail_if_no_progress with_reducible refine onward_mkw ?_ rfl rfl rfl rfl rfl rfl rfl rfl | split | dsimp only

theorem execLpFill_onward (h : s0.Onward False False s) {a : Acc} {v : Word} : ResOnward False False s0 (execLpFill a v s) := by
  unfold execLpFill
  try dsimp only
  repeat' first | with_reducible assumption | intro _ | with_reducible exact onward_fault | with_reducible exact onward_refused | with_reducible apply onward_next | with_reducible apply State.regWrite_onward | with_reducible apply State.fillEffect_onward | with_reducible apply onward_ite | split | dsimp only

theorem State.scrubNextEffect_onward (h : s0.Onward kq kw s) {a : Acc} : s0.Onward kq kw (State.scrubNextEffect s a) := by
  unfold State.scrubNextEffect
  try dsimp only
  repeat' first | with_reducible assumption | intro _ | with_reducible apply State.setScrubs_onward | with_reducible apply onward_ite | fail_if_no_progress with_reducible refine onward_mk ?_ rfl rfl rfl rfl rfl rfl rfl rfl rfl rfl rfl rfl rfl rfl | split | dsimp only

theorem execLpScrubNextRead_onward (h : s0.Onward kq kw s) {a : Acc} : ResOnward kq kw s0 (execLpScrubNextRead a s) := by
  unfold execLpScrubNextRead
  try dsimp only
  repeat' first | with_reducible assumption | intro _ | with_reducible exact onward_fault | with_reducible exact onward_refused | with_reducible apply onward_next | with_reducible apply State.regRead_onward | with_reducible apply State.scrubNextEffect_onward | with_reducible apply onward_ite | split | dsimp only

theorem State.scrubDoneEffect_onward (h : s0.Onward kq kw s) {die : Nat} {v : Word} : s0.Onward kq kw (State.scrubDoneEffect s die v) := by
  unfold State.scrubDoneEffect
  try dsimp only
  repeat' first | with_reducible assumption | intro _ | with_reducible apply State.setScrubs_onward | with_reducible apply onward_ite | fail_if_no_progress with_reducible refine onward_mk ?_ rfl rfl rfl rfl rfl rfl rfl rfl rfl rfl rfl rfl rfl rfl | split | dsimp only

theorem execLpScrubDone_onward (h : s0.Onward kq kw s) {a : Acc} {v : Word} : ResOnward kq kw s0 (execLpScrubDone a v s) := by
  unfold execLpScrubDone
  try dsimp only
  repeat' first | with_reducible assumption | intro _ | with_reducible exact onward_fault | with_reducible exact onward_refused | with_reducible apply onward_next | with_reducible apply State.regWrite_onward | with_reducible apply State.scrubDoneEffect_onward | with_reducible apply onward_ite | split | dsimp only

theorem State.freeCopies_onward (h : s0.Onward kq False s) {p : T0Copy → Bool} : s0.Onward kq False (State.freeCopies s p) := by
  unfold State.freeCopies
  try dsimp only
  repeat' first | with_reducible assumption | intro _ | with_reducible apply State.dealloc_onward | with_reducible apply onward_ite | with_reducible apply onward_foldl | fail_if_no_progress with_reducible refine onward_mkw ?_ rfl rfl rfl rfl rfl rfl rfl rfl | split | dsimp only

theorem State.slotScrubbed_onward (h : s0.Onward kq False s) {die slot : Nat} : s0.Onward kq False (State.slotScrubbed s die slot) := by
  unfold State.slotScrubbed
  try dsimp only
  repeat' first | with_reducible assumption | intro _ | with_reducible apply State.freeCopies_onward | with_reducible apply State.shootdown_onward | with_reducible apply State.dealloc_onward | with_reducible apply State.setSess_onward | with_reducible apply State.cbwWrite_onward | with_reducible apply onward_ite | fail_if_no_progress with_reducible refine onward_mkw ?_ rfl rfl rfl rfl rfl rfl rfl rfl | split | dsimp only

theorem State.setCtxCtrl_onward (h : s0.Onward kq kw s) {ctx : Nat} {f : Field} {v : Nat} (hr : kq → f.reg ∉ settings) : s0.Onward kq kw (State.setCtxCtrl s ctx f v) := by
  unfold State.setCtxCtrl
  try dsimp only
  repeat' first | with_reducible assumption | (show kq → _ ∉ settings; first | exact False.elim | (with_reducible assumption) | exact fun _ => by decide | exact fun _ => mapReg_not_setting _ | exact fun _ => (by unfold gcBusy; split <;> decide) | exact fun _ => not_setting (lo := 272) (by decide) (by omega) | exact fun _ => not_setting (lo := 88) (by decide) (by omega) | exact fun _ => not_setting (lo := 64) (by decide) (by omega) | exact fun _ => not_setting (lo := 96) (by decide) (by omega) | exact fun _ => (by rw [rowOf_id]; first | assumption | exact not_setting (lo := 64) (by decide) (by omega) | exact not_setting (lo := 272) (by decide) (by omega)) | exact fun _ => not_setting (lo := 32) (by decide) (by omega)) | with_reducible apply State.setFld_onward | with_reducible apply onward_ite | split | dsimp only

theorem State.scrubPass_onward (h : s0.Onward kq False s) {j : Scrub} : s0.Onward kq False (State.scrubPass s j) := by
  unfold State.scrubPass
  try dsimp only
  repeat' first | with_reducible assumption | (show kq → _ ∉ settings; first | exact False.elim | (with_reducible assumption) | exact fun _ => by decide | exact fun _ => mapReg_not_setting _ | exact fun _ => (by unfold gcBusy; split <;> decide) | exact fun _ => not_setting (lo := 272) (by decide) (by omega) | exact fun _ => not_setting (lo := 88) (by decide) (by omega) | exact fun _ => not_setting (lo := 64) (by decide) (by omega) | exact fun _ => not_setting (lo := 96) (by decide) (by omega) | exact fun _ => (by rw [rowOf_id]; first | assumption | exact not_setting (lo := 64) (by decide) (by omega) | exact not_setting (lo := 272) (by decide) (by omega)) | exact fun _ => not_setting (lo := 32) (by decide) (by omega)) | intro _ | with_reducible apply State.setScrubs_onward | with_reducible apply State.freeCopies_onward | with_reducible apply State.setCtxCtrl_onward | with_reducible apply State.slotScrubbed_onward | with_reducible apply onward_ite | split | dsimp only

theorem State.scrubFail_onward (h : s0.Onward kq kw s) {j : Scrub} {off : Nat} : s0.Onward kq kw (State.scrubFail s j off) := by
  unfold State.scrubFail
  try dsimp only
  repeat' first | with_reducible assumption | (show kq → _ ∉ settings; first | exact False.elim | (with_reducible assumption) | exact fun _ => by decide | exact fun _ => mapReg_not_setting _ | exact fun _ => (by unfold gcBusy; split <;> decide) | exact fun _ => not_setting (lo := 272) (by decide) (by omega) | exact fun _ => not_setting (lo := 88) (by decide) (by omega) | exact fun _ => not_setting (lo := 64) (by decide) (by omega) | exact fun _ => not_setting (lo := 96) (by decide) (by omega) | exact fun _ => (by rw [rowOf_id]; first | assumption | exact not_setting (lo := 64) (by decide) (by omega) | exact not_setting (lo := 272) (by decide) (by omega)) | exact fun _ => not_setting (lo := 32) (by decide) (by omega)) | intro _ | with_reducible apply State.setScrubs_onward | with_reducible apply State.setFld_onward | with_reducible apply State.raise_onward | with_reducible apply onward_ite | fail_if_no_progress with_reducible refine onward_mk ?_ rfl rfl rfl rfl rfl rfl rfl rfl rfl rfl rfl rfl rfl rfl | split | dsimp only

theorem execScrubCheckDone_onward (h : s0.Onward kq False s) {t die job : Nat} {firstBad : Option Nat} : ResOnward kq False s0 (execScrubCheckDone t die job firstBad s) := by
  unfold execScrubCheckDone
  try dsimp only
  repeat' first | with_reducible assumption | intro _ | with_reducible exact onward_fault | with_reducible exact onward_refused | with_reducible apply onward_next | with_reducible apply State.tick_onward | with_reducible apply State.scrubPass_onward | with_reducible apply State.pumpAll_onward | with_reducible apply State.formResults_onward | with_reducible apply State.scrubFail_onward | with_reducible apply onward_ite | fail_if_no_progress with_reducible refine onward_mkw ?_ rfl rfl rfl rfl rfl rfl rfl rfl | split | dsimp only

theorem State.drain_onward (h : s0.Onward kq kw s) {ctx : Nat} : s0.Onward kq kw (State.drain s ctx) := by
  unfold State.drain
  try dsimp only
  repeat' first | with_reducible assumption | (show kq → _ ∉ settings; first | exact False.elim | (with_reducible assumption) | exact fun _ => by decide | exact fun _ => mapReg_not_setting _ | exact fun _ => (by unfold gcBusy; split <;> decide) | exact fun _ => not_setting (lo := 272) (by decide) (by omega) | exact fun _ => not_setting (lo := 88) (by decide) (by omega) | exact fun _ => not_setting (lo := 64) (by decide) (by omega) | exact fun _ => not_setting (lo := 96) (by decide) (by omega) | exact fun _ => (by rw [rowOf_id]; first | assumption | exact not_setting (lo := 64) (by decide) (by omega) | exact not_setting (lo := 272) (by decide) (by omega)) | exact fun _ => not_setting (lo := 32) (by decide) (by omega)) | intro _ | with_reducible apply State.setCtxCtrl_onward | with_reducible apply State.nextFree_onward | with_reducible apply State.queueScrub_onward | with_reducible apply onward_ite | with_reducible apply onward_foldl | split | dsimp only

theorem execTeardownDrain_onward (h : s0.Onward kq kw s) {t ctx : Nat} : ResOnward kq kw s0 (execTeardownDrain t ctx s) := by
  unfold execTeardownDrain
  try dsimp only
  repeat' first | with_reducible assumption | with_reducible exact onward_fault | with_reducible exact onward_refused | with_reducible apply onward_next | with_reducible apply State.tick_onward | with_reducible apply State.drain_onward | with_reducible apply onward_ite | split | dsimp only

theorem State.ctxCtrlEffect_onward (h : s0.Onward kq kw s) {die ctx : Nat} {v : Word} : s0.Onward kq kw (State.ctxCtrlEffect s die ctx v) := by
  unfold State.ctxCtrlEffect
  try dsimp only
  repeat' first | with_reducible assumption | (show kq → _ ∉ settings; first | exact False.elim | (with_reducible assumption) | exact fun _ => by decide | exact fun _ => mapReg_not_setting _ | exact fun _ => (by unfold gcBusy; split <;> decide) | exact fun _ => not_setting (lo := 272) (by decide) (by omega) | exact fun _ => not_setting (lo := 88) (by decide) (by omega) | exact fun _ => not_setting (lo := 64) (by decide) (by omega) | exact fun _ => not_setting (lo := 96) (by decide) (by omega) | exact fun _ => (by rw [rowOf_id]; first | assumption | exact not_setting (lo := 64) (by decide) (by omega) | exact not_setting (lo := 272) (by decide) (by omega)) | exact fun _ => not_setting (lo := 32) (by decide) (by omega)) | with_reducible apply State.setCtxCtrl_onward | with_reducible apply State.raise_onward | with_reducible apply onward_ite | split | dsimp only

theorem execContextResumed_onward (h : s0.Onward kq kw s) {a : Acc} {v : Word} : ResOnward kq kw s0 (execContextResumed a v s) := by
  unfold execContextResumed
  try dsimp only
  repeat' first | with_reducible assumption | intro _ | with_reducible exact onward_fault | with_reducible exact onward_refused | with_reducible apply onward_next | with_reducible apply State.regWrite_onward | with_reducible apply State.ctxCtrlEffect_onward | with_reducible apply onward_ite | split | dsimp only

theorem State.raiseStuck_onward (h : s0.Onward kq kw s) {x : Track} : s0.Onward kq kw (State.raiseStuck s x) := by
  unfold State.raiseStuck
  try dsimp only
  repeat' first | with_reducible assumption | with_reducible apply State.raise_onward | with_reducible apply onward_ite | fail_if_no_progress with_reducible refine onward_mk ?_ rfl rfl rfl rfl rfl rfl rfl rfl rfl rfl rfl rfl rfl rfl | split | dsimp only

theorem State.reportStuck_onward (h : s0.Onward kq kw s) {die : Nat} : s0.Onward kq kw (State.reportStuck s die) := by
  unfold State.reportStuck
  try dsimp only
  repeat' first | with_reducible assumption | intro _ | with_reducible apply State.track_onward | with_reducible apply State.raiseStuck_onward | with_reducible apply onward_ite | with_reducible apply onward_foldl | fail_if_no_progress with_reducible refine onward_mk ?_ rfl rfl rfl rfl rfl rfl rfl rfl rfl rfl rfl rfl rfl rfl | split | dsimp only

theorem execReqStuck_onward (h : s0.Onward kq kw s) {t die : Nat} : ResOnward kq kw s0 (execReqStuck t die s) := by
  unfold execReqStuck
  try dsimp only
  repeat' first | with_reducible assumption | with_reducible exact onward_fault | with_reducible exact onward_refused | with_reducible apply onward_next | with_reducible apply State.tick_onward | with_reducible apply State.reportStuck_onward | with_reducible apply onward_ite | split | dsimp only

theorem State.svcWrite_onward (h : s0.Onward kq kw s) {die code : Nat} {c : SvcCmd} : s0.Onward kq kw (State.svcWrite s die code c) := by
  unfold State.svcWrite
  try dsimp only
  repeat' first | with_reducible assumption | (show kq → _ ∉ settings; first | exact False.elim | (with_reducible assumption) | exact fun _ => by decide | exact fun _ => mapReg_not_setting _ | exact fun _ => (by unfold gcBusy; split <;> decide) | exact fun _ => not_setting (lo := 272) (by decide) (by omega) | exact fun _ => not_setting (lo := 88) (by decide) (by omega) | exact fun _ => not_setting (lo := 64) (by decide) (by omega) | exact fun _ => not_setting (lo := 96) (by decide) (by omega) | exact fun _ => (by rw [rowOf_id]; first | assumption | exact not_setting (lo := 64) (by decide) (by omega) | exact not_setting (lo := 272) (by decide) (by omega)) | exact fun _ => not_setting (lo := 32) (by decide) (by omega)) | intro _ | with_reducible apply State.setReg_onward | with_reducible apply onward_ite | with_reducible apply onward_foldl | split | dsimp only

theorem State.svcRefuse_onward (h : s0.Onward kq kw s) {die tag status : Nat} : s0.Onward kq kw (State.svcRefuse s die tag status) := by
  unfold State.svcRefuse
  try dsimp only
  repeat' first | with_reducible assumption | (show kq → _ ∉ settings; first | exact False.elim | (with_reducible assumption) | exact fun _ => by decide | exact fun _ => mapReg_not_setting _ | exact fun _ => (by unfold gcBusy; split <;> decide) | exact fun _ => not_setting (lo := 272) (by decide) (by omega) | exact fun _ => not_setting (lo := 88) (by decide) (by omega) | exact fun _ => not_setting (lo := 64) (by decide) (by omega) | exact fun _ => not_setting (lo := 96) (by decide) (by omega) | exact fun _ => (by rw [rowOf_id]; first | assumption | exact not_setting (lo := 64) (by decide) (by omega) | exact not_setting (lo := 272) (by decide) (by omega)) | exact fun _ => not_setting (lo := 32) (by decide) (by omega)) | with_reducible apply State.setFld_onward | with_reducible apply onward_ite | split | dsimp only

theorem State.svcGo_onward (h : s0.Onward kq kw s) {die : Nat} {rq : Requester} {v : Word} : s0.Onward kq kw (State.svcGo s die rq v) := by
  unfold State.svcGo
  try dsimp only
  repeat' first | with_reducible assumption | (show kq → _ ∉ settings; first | exact False.elim | (with_reducible assumption) | exact fun _ => by decide | exact fun _ => mapReg_not_setting _ | exact fun _ => (by unfold gcBusy; split <;> decide) | exact fun _ => not_setting (lo := 272) (by decide) (by omega) | exact fun _ => not_setting (lo := 88) (by decide) (by omega) | exact fun _ => not_setting (lo := 64) (by decide) (by omega) | exact fun _ => not_setting (lo := 96) (by decide) (by omega) | exact fun _ => (by rw [rowOf_id]; first | assumption | exact not_setting (lo := 64) (by decide) (by omega) | exact not_setting (lo := 272) (by decide) (by omega)) | exact fun _ => not_setting (lo := 32) (by decide) (by omega)) | with_reducible apply State.svcRefuse_onward | with_reducible apply State.setReg_onward | with_reducible apply State.setFld_onward | with_reducible apply onward_ite | with_reducible apply onward_getD | fail_if_no_progress with_reducible refine onward_mk ?_ rfl rfl rfl rfl rfl rfl rfl rfl rfl rfl rfl rfl rfl rfl | split | dsimp only

theorem State.gramInstall_onward (h : s0.Onward kq False s) {v : Service} {o : GramObj} {sealOk : Bool} : s0.Onward kq False (State.gramInstall s v o sealOk).1 := by
  unfold State.gramInstall
  try dsimp only
  repeat' first | with_reducible assumption | with_reducible apply State.nextFree_onward | with_reducible apply onward_ite | fail_if_no_progress with_reducible refine onward_mkw ?_ rfl rfl rfl rfl rfl rfl rfl rfl | split | dsimp only

theorem State.gramRemove_onward (h : s0.Onward kq False s) {v : Service} : s0.Onward kq False (State.gramRemove s v).1 := by
  unfold State.gramRemove
  try dsimp only
  repeat' first | with_reducible assumption | with_reducible apply onward_ite | fail_if_no_progress with_reducible refine onward_mkw ?_ rfl rfl rfl rfl rfl rfl rfl rfl | split | dsimp only

theorem State.indexCreate_onward (h : s0.Onward kq False s) {v : Service} {sh : IdxShape} {sealOk : Bool} : s0.Onward kq False (State.indexCreate s v sh sealOk).1 := by
  unfold State.indexCreate
  try dsimp only
  repeat' first | with_reducible assumption | with_reducible apply State.setIndex_onward | with_reducible apply onward_ite | fail_if_no_progress with_reducible refine onward_mkw ?_ rfl rfl rfl rfl rfl rfl rfl rfl | split | dsimp only

theorem State.indexNext_onward (h : s0.Onward kq False s) {v : Service} {p : PendingIdx} {sealOk merge : Bool} : s0.Onward kq False (State.indexNext s v p sealOk merge).1 := by
  unfold State.indexNext
  try dsimp only
  repeat' first | with_reducible assumption | intro _ | with_reducible apply State.merge_onward | with_reducible apply onward_ite | fail_if_no_progress with_reducible refine onward_mkw ?_ rfl rfl rfl rfl rfl rfl rfl rfl | refine onward_of_some (by assumption) ?_ | split | dsimp only

theorem State.indexRemove_onward (h : s0.Onward kq False s) {v : Service} : s0.Onward kq False (State.indexRemove s v).1 := by
  unfold State.indexRemove
  try dsimp only
  repeat' first | with_reducible assumption | intro _ | with_reducible apply State.releaseT2_onward | with_reducible apply State.dealloc_onward | with_reducible apply onward_ite | with_reducible apply onward_foldl | fail_if_no_progress with_reducible refine onward_mkw ?_ rfl rfl rfl rfl rfl rfl rfl rfl | split | dsimp only

theorem State.svcFinish_onward (h : s0.Onward kq kw s) {die code : Nat} {f : State → Service → State × Nat}
    (hf : ∀ s v, s0.Onward kq kw s → s0.Onward kq kw (f s v).1) : s0.Onward kq kw (State.svcFinish s die code f) := by
  unfold State.svcFinish
  split
  · exact h
  · exact State.endService_onward (hf _ _ h)

theorem State.svcRow_onward (h : s0.Onward kq kw s) {a : Acc} {code : Nat} {c : SvcCmd} {f : State → Service → State × Nat}
    (hf : ∀ s v, s0.Onward kq kw s → s0.Onward kq kw (f s v).1) : s0.Onward kq kw (State.svcRow s a code c f) := by
  have go : s0.Onward kq kw (s.regWrite a (rowOf Reg.LP_SVC_CTRL) (BitVec.ofNat 64 (2 ^ 63)) none
      (fun s _ => (s.svcWrite a.die code c).svcGo a.die a.rq (BitVec.ofNat 64 (2 ^ 63)))) :=
    State.regWrite_onward h (fun s _ h => State.svcGo_onward (State.svcWrite_onward h))
  unfold State.svcRow
  dsimp only
  repeat' first | assumption | with_reducible apply onward_ite | with_reducible apply State.svcFinish_onward | with_reducible apply State.tick_onward | split

theorem execGrammarInstall_onward (h : s0.Onward kq False s) {a : Acc} {c : SvcCmd} {o : GramObj} : ResOnward kq False s0 (execGrammarInstall a c o s) := by
  unfold execGrammarInstall
  try dsimp only
  repeat' first | with_reducible assumption | intro _ | with_reducible exact onward_fault | with_reducible exact onward_refused | with_reducible apply onward_next | with_reducible apply State.svcRow_onward | with_reducible apply State.gramInstall_onward | with_reducible apply onward_ite | refine onward_of_pair (by assumption) ?_ | split | dsimp only

theorem execGrammarRemove_onward (h : s0.Onward kq False s) {a : Acc} {c : SvcCmd} : ResOnward kq False s0 (execGrammarRemove a c s) := by
  unfold execGrammarRemove
  try dsimp only
  repeat' first | with_reducible assumption | intro _ | with_reducible exact onward_fault | with_reducible exact onward_refused | with_reducible apply onward_next | with_reducible apply State.svcRow_onward | with_reducible apply State.gramRemove_onward | with_reducible apply onward_ite | refine onward_of_pair (by assumption) ?_ | split | dsimp only

theorem execIndexCreate_onward (h : s0.Onward kq False s) {a : Acc} {c : SvcCmd} {sh : IdxShape} : ResOnward kq False s0 (execIndexCreate a c sh s) := by
  unfold execIndexCreate
  try dsimp only
  repeat' first | with_reducible assumption | intro _ | with_reducible exact onward_fault | with_reducible exact onward_refused | with_reducible apply onward_next | with_reducible apply State.svcRow_onward | with_reducible apply State.indexCreate_onward | with_reducible apply onward_ite | refine onward_of_pair (by assumption) ?_ | split | dsimp only

theorem execIndexLoad_onward (h : s0.Onward kq False s) {a : Acc} {c : SvcCmd} {p : PendingIdx} : ResOnward kq False s0 (execIndexLoad a c p s) := by
  unfold execIndexLoad
  try dsimp only
  repeat' first | with_reducible assumption | intro _ | with_reducible exact onward_fault | with_reducible exact onward_refused | with_reducible apply onward_next | with_reducible apply State.svcRow_onward | with_reducible apply State.indexNext_onward | with_reducible apply onward_ite | refine onward_of_pair (by assumption) ?_ | split | dsimp only

theorem execIndexMerge_onward (h : s0.Onward kq False s) {a : Acc} {c : SvcCmd} {p : PendingIdx} : ResOnward kq False s0 (execIndexMerge a c p s) := by
  unfold execIndexMerge
  try dsimp only
  repeat' first | with_reducible assumption | intro _ | with_reducible exact onward_fault | with_reducible exact onward_refused | with_reducible apply onward_next | with_reducible apply State.svcRow_onward | with_reducible apply State.indexNext_onward | with_reducible apply onward_ite | refine onward_of_pair (by assumption) ?_ | split | dsimp only

theorem execIndexRemove_onward (h : s0.Onward kq False s) {a : Acc} {c : SvcCmd} : ResOnward kq False s0 (execIndexRemove a c s) := by
  unfold execIndexRemove
  try dsimp only
  repeat' first | with_reducible assumption | intro _ | with_reducible exact onward_fault | with_reducible exact onward_refused | with_reducible apply onward_next | with_reducible apply State.svcRow_onward | with_reducible apply State.indexRemove_onward | with_reducible apply onward_ite | refine onward_of_pair (by assumption) ?_ | split | dsimp only

end Sys2Proof.Machine
end

