-- ==== Sys2Proof/Laws/OnwardHealthCmds.lean ====
section
/-! SUPPORT. What the functions of Machine/HealthCmds.lean keep: each answers a state its argument may go on to. -/

namespace Sys2Proof.Machine

set_option linter.unusedTactic false
set_option linter.unreachableTactic false

variable {kq kw : Prop} {s0 s : State}

theorem State.kickEffect_onward (h : s0.Onward kq kw s) {rq : Requester} : s0.Onward kq kw (State.kickEffect s rq) := by
  unfold State.kickEffect
  try dsimp only
  repeat' first | with_reducible assumption | with_reducible apply State.setCore_onward | with_reducible apply onward_ite | fail_if_no_progress with_reducible refine onward_mk ?_ rfl rfl rfl rfl rfl rfl rfl rfl rfl rfl rfl rfl rfl rfl | split | dsimp only

theorem execHlKick_onward (h : s0.Onward kq kw s) {a : Acc} {v : Word} : ResOnward kq kw s0 (execHlKick a v s) := by
  unfold execHlKick
  try dsimp only
  repeat' first | with_reducible assumption | intro _ | with_reducible exact onward_fault | with_reducible exact onward_refused | with_reducible apply onward_next | with_reducible apply State.regWrite_onward | with_reducible apply State.kickEffect_onward | with_reducible apply onward_ite | split | dsimp only

theorem State.rowSpareEffect_onward (h : s0.Onward kq kw s) {die : Nat} {v : Word} : s0.Onward kq kw (State.rowSpareEffect s die v) := by
  unfold State.rowSpareEffect
  try dsimp only
  repeat' first | with_reducible assumption | (show kq → _ ∉ settings; first | exact False.elim | (with_reducible assumption) | exact fun _ => by decide | exact fun _ => mapReg_not_setting _ | exact fun _ => (by unfold gcBusy; split <;> decide) | exact fun _ => not_setting (lo := 272) (by decide) (by omega) | exact fun _ => not_setting (lo := 88) (by decide) (by omega) | exact fun _ => not_setting (lo := 64) (by decide) (by omega) | exact fun _ => not_setting (lo := 96) (by decide) (by omega) | exact fun _ => (by rw [rowOf_id]; first | assumption | exact not_setting (lo := 64) (by decide) (by omega) | exact not_setting (lo := 272) (by decide) (by omega)) | exact fun _ => not_setting (lo := 32) (by decide) (by omega)) | with_reducible apply State.store_onward | with_reducible apply State.setFld_onward | with_reducible apply onward_ite | fail_if_no_progress with_reducible refine onward_mk ?_ rfl rfl rfl rfl rfl rfl rfl rfl rfl rfl rfl rfl rfl rfl | split | dsimp only

theorem execHlRowSpare_onward (h : s0.Onward kq kw s) {a : Acc} {v : Word} : ResOnward kq kw s0 (execHlRowSpare a v s) := by
  unfold execHlRowSpare
  try dsimp only
  repeat' first | with_reducible assumption | intro _ | with_reducible exact onward_fault | with_reducible exact onward_refused | with_reducible apply onward_next | with_reducible apply State.regWrite_onward | with_reducible apply State.rowSpareEffect_onward | with_reducible apply onward_ite | split | dsimp only

theorem State.planEffect_onward (h : s0.Onward kq kw s) {v : Word} : s0.Onward kq kw (State.planEffect s v) := by
  unfold State.planEffect
  try dsimp only
  repeat' first | with_reducible assumption | (show kq → _ ∉ settings; first | exact False.elim | (with_reducible assumption) | exact fun _ => by decide | exact fun _ => mapReg_not_setting _ | exact fun _ => (by unfold gcBusy; split <;> decide) | exact fun _ => not_setting (lo := 272) (by decide) (by omega) | exact fun _ => not_setting (lo := 88) (by decide) (by omega) | exact fun _ => not_setting (lo := 64) (by decide) (by omega) | exact fun _ => not_setting (lo := 96) (by decide) (by omega) | exact fun _ => (by rw [rowOf_id]; first | assumption | exact not_setting (lo := 64) (by decide) (by omega) | exact not_setting (lo := 272) (by decide) (by omega)) | exact fun _ => not_setting (lo := 32) (by decide) (by omega)) | with_reducible apply State.store_onward | with_reducible apply State.acceptPlan_onward | with_reducible apply onward_ite | split | dsimp only

theorem execHlPlan_onward (h : s0.Onward kq kw s) {a : Acc} {v : Word} : ResOnward kq kw s0 (execHlPlan a v s) := by
  unfold execHlPlan
  try dsimp only
  repeat' first | with_reducible assumption | intro _ | with_reducible exact onward_fault | with_reducible exact onward_refused | with_reducible apply onward_next | with_reducible apply State.regWrite_onward | with_reducible apply State.planEffect_onward | with_reducible apply onward_ite | split | dsimp only

theorem State.alertEffect_onward (h : s0.Onward kq kw s) {die : Nat} {v : Word} : s0.Onward kq kw (State.alertEffect s die v) := by
  unfold State.alertEffect
  try dsimp only
  repeat' first | with_reducible assumption | (show kq → _ ∉ settings; first | exact False.elim | (with_reducible assumption) | exact fun _ => by decide | exact fun _ => mapReg_not_setting _ | exact fun _ => (by unfold gcBusy; split <;> decide) | exact fun _ => not_setting (lo := 272) (by decide) (by omega) | exact fun _ => not_setting (lo := 88) (by decide) (by omega) | exact fun _ => not_setting (lo := 64) (by decide) (by omega) | exact fun _ => not_setting (lo := 96) (by decide) (by omega) | exact fun _ => (by rw [rowOf_id]; first | assumption | exact not_setting (lo := 64) (by decide) (by omega) | exact not_setting (lo := 272) (by decide) (by omega)) | exact fun _ => not_setting (lo := 32) (by decide) (by omega)) | intro _ | with_reducible apply State.setFld_onward | with_reducible apply State.setAlerts_onward | with_reducible apply onward_ite | split | dsimp only

theorem execHlAlertAck_onward (h : s0.Onward kq kw s) {a : Acc} {v : Word} : ResOnward kq kw s0 (execHlAlertAck a v s) := by
  unfold execHlAlertAck
  try dsimp only
  repeat' first | with_reducible assumption | intro _ | with_reducible exact onward_fault | with_reducible exact onward_refused | with_reducible apply onward_next | with_reducible apply State.regWrite_onward | with_reducible apply State.alertEffect_onward | with_reducible apply onward_ite | split | dsimp only

theorem execEventLimitStepEnd_onward (h : s0.Onward kq kw s) {t : Nat} : ResOnward kq kw s0 (execEventLimitStepEnd t s) := by
  unfold execEventLimitStepEnd
  try dsimp only
  repeat' first | with_reducible assumption | with_reducible exact onward_fault | with_reducible exact onward_refused | with_reducible apply onward_next | with_reducible apply State.tick_onward | with_reducible apply State.endLimitStep_onward | with_reducible apply onward_ite | split | dsimp only

end Sys2Proof.Machine
end

