-- ==== Sys2Proof/Laws/OnwardStart.lean ====
section
/-! SUPPORT. What the functions of Machine/Start.lean keep: each answers a state its argument may go on to. -/

namespace Sys2Proof.Machine

set_option linter.unusedTactic false
set_option linter.unreachableTactic false

variable {kq kw : Prop} {s0 s : State}

theorem State.setStatus_onward (h : s0.Onward kq kw s) {v : Nat} : s0.Onward kq kw (State.setStatus s v) := by
  unfold State.setStatus
  try dsimp only
  repeat' first | with_reducible assumption | (show kq → _ ∉ settings; first | exact False.elim | (with_reducible assumption) | exact fun _ => by decide | exact fun _ => mapReg_not_setting _ | exact fun _ => (by unfold gcBusy; split <;> decide) | exact fun _ => not_setting (lo := 272) (by decide) (by omega) | exact fun _ => not_setting (lo := 88) (by decide) (by omega) | exact fun _ => not_setting (lo := 64) (by decide) (by omega) | exact fun _ => not_setting (lo := 96) (by decide) (by omega) | exact fun _ => (by rw [rowOf_id]; first | assumption | exact not_setting (lo := 64) (by decide) (by omega) | exact not_setting (lo := 272) (by decide) (by omega)) | exact fun _ => not_setting (lo := 32) (by decide) (by omega)) | with_reducible apply State.setFld_onward | with_reducible apply State.ibi_onward | with_reducible apply onward_ite | split | dsimp only

theorem State.coldBase_onward (h : s0.Onward False False s) : s0.Onward False False (State.coldBase s) := by
  unfold State.coldBase
  refine State.setFld_onward ?_ False.elim
  exact onward_trans h ⟨rfl, le_rfl, Fuses.burned_refl _, fun c => ⟨rfl, rfl, rfl, c.2.2.2⟩, False.elim, False.elim⟩

theorem State.cold_onward (h : s0.Onward False False s) : s0.Onward False False (State.cold s) := by
  unfold State.cold
  try dsimp only
  repeat' first | with_reducible assumption | (show False → _ ∉ settings; first | exact False.elim | (with_reducible assumption) | exact fun _ => by decide | exact fun _ => mapReg_not_setting _ | exact fun _ => (by unfold gcBusy; split <;> decide) | exact fun _ => not_setting (lo := 272) (by decide) (by omega) | exact fun _ => not_setting (lo := 88) (by decide) (by omega) | exact fun _ => not_setting (lo := 64) (by decide) (by omega) | exact fun _ => not_setting (lo := 96) (by decide) (by omega) | exact fun _ => (by rw [rowOf_id]; first | assumption | exact not_setting (lo := 64) (by decide) (by omega) | exact not_setting (lo := 272) (by decide) (by omega)) | exact fun _ => not_setting (lo := 32) (by decide) (by omega)) | with_reducible apply State.coldBase_onward | with_reducible apply State.setFld_onward | with_reducible apply onward_ite | split | dsimp only

theorem execResetAssert_onward (h : s0.Onward False False s) {t : Nat} : ResOnward False False s0 (execResetAssert t s) := by
  unfold execResetAssert
  try dsimp only
  repeat' first | with_reducible assumption | with_reducible exact onward_fault | with_reducible exact onward_refused | with_reducible apply onward_next | with_reducible apply State.tick_onward | with_reducible apply State.cold_onward | with_reducible apply onward_ite | split | dsimp only

theorem execPwrOkFall_onward (h : s0.Onward False False s) {t : Nat} : ResOnward False False s0 (execPwrOkFall t s) := by
  unfold execPwrOkFall
  try dsimp only
  repeat' first | with_reducible assumption | with_reducible exact onward_fault | with_reducible exact onward_refused | with_reducible apply onward_next | with_reducible apply State.tick_onward | with_reducible apply State.coldBase_onward | with_reducible apply onward_ite | fail_if_no_progress with_reducible refine onward_mkw ?_ rfl rfl rfl rfl rfl rfl rfl rfl | split | dsimp only

theorem State.putTiers_onward (h : s0.Onward False kw s) {img : Image} {die : Nat} : s0.Onward False kw (State.putTiers s img die) := by
  unfold State.putTiers
  try dsimp only
  repeat' first | with_reducible assumption | (show False → _ ∉ settings; first | exact False.elim | (with_reducible assumption) | exact fun _ => by decide | exact fun _ => mapReg_not_setting _ | exact fun _ => (by unfold gcBusy; split <;> decide) | exact fun _ => not_setting (lo := 272) (by decide) (by omega) | exact fun _ => not_setting (lo := 88) (by decide) (by omega) | exact fun _ => not_setting (lo := 64) (by decide) (by omega) | exact fun _ => not_setting (lo := 96) (by decide) (by omega) | exact fun _ => (by rw [rowOf_id]; first | assumption | exact not_setting (lo := 64) (by decide) (by omega) | exact not_setting (lo := 272) (by decide) (by omega)) | exact fun _ => not_setting (lo := 32) (by decide) (by omega)) | intro _ | with_reducible apply State.setFld_onward | with_reducible apply onward_ite | with_reducible apply onward_foldl | split | dsimp only

theorem State.putPort_onward (h : s0.Onward False kw s) {p : PortRec} : s0.Onward False kw (State.putPort s p) := by
  unfold State.putPort
  try dsimp only
  repeat' first | with_reducible assumption | (show False → _ ∉ settings; first | exact False.elim | (with_reducible assumption) | exact fun _ => by decide | exact fun _ => mapReg_not_setting _ | exact fun _ => (by unfold gcBusy; split <;> decide) | exact fun _ => not_setting (lo := 272) (by decide) (by omega) | exact fun _ => not_setting (lo := 88) (by decide) (by omega) | exact fun _ => not_setting (lo := 64) (by decide) (by omega) | exact fun _ => not_setting (lo := 96) (by decide) (by omega) | exact fun _ => (by rw [rowOf_id]; first | assumption | exact not_setting (lo := 64) (by decide) (by omega) | exact not_setting (lo := 272) (by decide) (by omega)) | exact fun _ => not_setting (lo := 32) (by decide) (by omega)) | intro _ | with_reducible apply State.setFld_onward | with_reducible apply onward_ite | split | dsimp only

theorem State.putEndpoint_onward (h : s0.Onward False kw s) {img : Image} {e : EpRec} : s0.Onward False kw (State.putEndpoint s img e) := by
  unfold State.putEndpoint
  try dsimp only
  repeat' first | with_reducible assumption | (show False → _ ∉ settings; first | exact False.elim | (with_reducible assumption) | exact fun _ => by decide | exact fun _ => mapReg_not_setting _ | exact fun _ => (by unfold gcBusy; split <;> decide) | exact fun _ => not_setting (lo := 272) (by decide) (by omega) | exact fun _ => not_setting (lo := 88) (by decide) (by omega) | exact fun _ => not_setting (lo := 64) (by decide) (by omega) | exact fun _ => not_setting (lo := 96) (by decide) (by omega) | exact fun _ => (by rw [rowOf_id]; first | assumption | exact not_setting (lo := 64) (by decide) (by omega) | exact not_setting (lo := 272) (by decide) (by omega)) | exact fun _ => not_setting (lo := 32) (by decide) (by omega)) | intro _ | with_reducible apply State.setFld_onward | with_reducible apply onward_ite | with_reducible apply onward_foldl | fail_if_no_progress with_reducible refine onward_mk ?_ rfl rfl rfl rfl rfl rfl rfl rfl rfl rfl rfl rfl rfl rfl | split | dsimp only

theorem State.putContext_onward (h : s0.Onward False kw s) {c : CtxRec} : s0.Onward False kw (State.putContext s c) := by
  unfold State.putContext
  try dsimp only
  repeat' first | with_reducible assumption | (show False → _ ∉ settings; first | exact False.elim | (with_reducible assumption) | exact fun _ => by decide | exact fun _ => mapReg_not_setting _ | exact fun _ => (by unfold gcBusy; split <;> decide) | exact fun _ => not_setting (lo := 272) (by decide) (by omega) | exact fun _ => not_setting (lo := 88) (by decide) (by omega) | exact fun _ => not_setting (lo := 64) (by decide) (by omega) | exact fun _ => not_setting (lo := 96) (by decide) (by omega) | exact fun _ => (by rw [rowOf_id]; first | assumption | exact not_setting (lo := 64) (by decide) (by omega) | exact not_setting (lo := 272) (by decide) (by omega)) | exact fun _ => not_setting (lo := 32) (by decide) (by omega)) | intro _ | with_reducible apply State.setFld_onward | with_reducible apply State.bump_onward | with_reducible apply State.raise_onward | with_reducible apply onward_ite | with_reducible apply onward_foldl | split | dsimp only

theorem State.putRetire_onward (h : s0.Onward False False s) {v : Word} : s0.Onward False False (State.putRetire s v) := by
  unfold State.putRetire
  try dsimp only
  repeat' first | with_reducible assumption | (show False → _ ∉ settings; first | exact False.elim | (with_reducible assumption) | exact fun _ => by decide | exact fun _ => mapReg_not_setting _ | exact fun _ => (by unfold gcBusy; split <;> decide) | exact fun _ => not_setting (lo := 272) (by decide) (by omega) | exact fun _ => not_setting (lo := 88) (by decide) (by omega) | exact fun _ => not_setting (lo := 64) (by decide) (by omega) | exact fun _ => not_setting (lo := 96) (by decide) (by omega) | exact fun _ => (by rw [rowOf_id]; first | assumption | exact not_setting (lo := 64) (by decide) (by omega) | exact not_setting (lo := 272) (by decide) (by omega)) | exact fun _ => not_setting (lo := 32) (by decide) (by omega)) | intro _ | with_reducible apply State.setFld_onward | with_reducible apply onward_ite | with_reducible apply onward_foldl | fail_if_no_progress with_reducible refine onward_mkw ?_ rfl rfl rfl rfl rfl rfl rfl rfl | split | dsimp only

theorem State.putSections_onward (h : s0.Onward False False s) {img : Image} : s0.Onward False False (State.putSections s img) := by
  unfold State.putSections
  try dsimp only
  repeat' first | with_reducible assumption | (show False → _ ∉ settings; first | exact False.elim | (with_reducible assumption) | exact fun _ => by decide | exact fun _ => mapReg_not_setting _ | exact fun _ => (by unfold gcBusy; split <;> decide) | exact fun _ => not_setting (lo := 272) (by decide) (by omega) | exact fun _ => not_setting (lo := 88) (by decide) (by omega) | exact fun _ => not_setting (lo := 64) (by decide) (by omega) | exact fun _ => not_setting (lo := 96) (by decide) (by omega) | exact fun _ => (by rw [rowOf_id]; first | assumption | exact not_setting (lo := 64) (by decide) (by omega) | exact not_setting (lo := 272) (by decide) (by omega)) | exact fun _ => not_setting (lo := 32) (by decide) (by omega)) | intro _ | with_reducible apply State.setFld_onward | with_reducible apply State.retire_onward | with_reducible apply State.putRetire_onward | with_reducible apply State.putTiers_onward | with_reducible apply State.putPort_onward | with_reducible apply State.putEndpoint_onward | with_reducible apply State.putContext_onward | with_reducible apply onward_ite | with_reducible apply onward_foldl | fail_if_no_progress with_reducible refine onward_mkw ?_ rfl rfl rfl rfl rfl rfl rfl rfl | with_reducible refine onward_start ?_ | split | dsimp only

theorem Applied.entry_onward {a : Applied} (h : s0.Onward False kw a.s) {p : RegEntry × Nat} : s0.Onward False kw (a.entry p).s := by
  unfold Applied.entry
  dsimp only
  repeat' first | with_reducible assumption | with_reducible apply State.setReg_onward | exact False.elim | split

theorem State.applyList_onward (h : s0.Onward False kw s) {l : List RegEntry} : s0.Onward False kw (s.applyList l).s := by
  unfold State.applyList
  have hl : ∀ (l : List (RegEntry × Nat)) (a : Applied), s0.Onward False kw a.s → s0.Onward False kw (l.foldl Applied.entry a).s := by
    intro l
    induction l with
    | nil => exact fun _ h => h
    | cons x l ih => exact fun a h => ih _ (Applied.entry_onward h)
  exact hl _ _ h

theorem State.placeFixed_onward (h : s0.Onward False kw s) {die : Nat} {l : List (Nat × Nat × Option Field)} {a : Nat} :
    OptOnward1 False kw s0 (State.placeFixed s die l a) := by
  induction l generalizing s a with
  | nil => exact onward_some1 h
  | cons x l ih =>
    obtain ⟨al, n, f⟩ := x
    unfold State.placeFixed
    split
    · exact onward_none1
    · split
      · exact ih (State.setFld_onward h False.elim)
      · exact ih h

theorem State.layOut_onward (h : s0.Onward False False s) {img : Image} {die : Nat} : OptOnward False False s0 (State.layOut s img die) := by
  unfold State.layOut
  try dsimp only
  repeat' first | with_reducible assumption | (show False → _ ∉ settings; first | exact False.elim | (with_reducible assumption) | exact fun _ => by decide | exact fun _ => mapReg_not_setting _ | exact fun _ => (by unfold gcBusy; split <;> decide) | exact fun _ => not_setting (lo := 272) (by decide) (by omega) | exact fun _ => not_setting (lo := 88) (by decide) (by omega) | exact fun _ => not_setting (lo := 64) (by decide) (by omega) | exact fun _ => not_setting (lo := 96) (by decide) (by omega) | exact fun _ => (by rw [rowOf_id]; first | assumption | exact not_setting (lo := 64) (by decide) (by omega) | exact not_setting (lo := 272) (by decide) (by omega)) | exact fun _ => not_setting (lo := 32) (by decide) (by omega)) | with_reducible apply onward_ite_opt | with_reducible exact onward_none | with_reducible apply onward_some | with_reducible apply State.placeFixed_onward | with_reducible apply State.setFld_onward | with_reducible apply State.setPoolFree_onward | with_reducible apply onward_ite | fail_if_no_progress with_reducible refine onward_mkw ?_ rfl rfl rfl rfl rfl rfl rfl rfl | refine onward_of_some1 (by assumption) ?_ | split | dsimp only

theorem State.startCore_onward (h : s0.Onward False kw s) {x : Nat × Nat × Nat} : s0.Onward False kw (State.startCore s x) := by
  unfold State.startCore
  try dsimp only
  repeat' first | with_reducible assumption | (show False → _ ∉ settings; first | exact False.elim | (with_reducible assumption) | exact fun _ => by decide | exact fun _ => mapReg_not_setting _ | exact fun _ => (by unfold gcBusy; split <;> decide) | exact fun _ => not_setting (lo := 272) (by decide) (by omega) | exact fun _ => not_setting (lo := 88) (by decide) (by omega) | exact fun _ => not_setting (lo := 64) (by decide) (by omega) | exact fun _ => not_setting (lo := 96) (by decide) (by omega) | exact fun _ => (by rw [rowOf_id]; first | assumption | exact not_setting (lo := 64) (by decide) (by omega) | exact not_setting (lo := 272) (by decide) (by omega)) | exact fun _ => not_setting (lo := 32) (by decide) (by omega)) | with_reducible apply State.takeOut_onward | with_reducible apply State.setFld_onward | with_reducible apply onward_ite | split | dsimp only

theorem State.startLamps_onward (h : s0.Onward False kw s) {hw : StartTests} {die : Nat} : s0.Onward False kw (State.startLamps s hw die) := by
  unfold State.startLamps
  try dsimp only
  repeat' first | with_reducible assumption | (show False → _ ∉ settings; first | exact False.elim | (with_reducible assumption) | exact fun _ => by decide | exact fun _ => mapReg_not_setting _ | exact fun _ => (by unfold gcBusy; split <;> decide) | exact fun _ => not_setting (lo := 272) (by decide) (by omega) | exact fun _ => not_setting (lo := 88) (by decide) (by omega) | exact fun _ => not_setting (lo := 64) (by decide) (by omega) | exact fun _ => not_setting (lo := 96) (by decide) (by omega) | exact fun _ => (by rw [rowOf_id]; first | assumption | exact not_setting (lo := 64) (by decide) (by omega) | exact not_setting (lo := 272) (by decide) (by omega)) | exact fun _ => not_setting (lo := 32) (by decide) (by omega)) | intro _ | with_reducible apply State.setFld_onward | with_reducible apply State.setCore_onward | with_reducible apply State.setMap_onward | with_reducible apply onward_ite | with_reducible apply onward_foldl | fail_if_no_progress with_reducible refine onward_mk ?_ rfl rfl rfl rfl rfl rfl rfl rfl rfl rfl rfl rfl rfl rfl | split | dsimp only

theorem State.startUnits_onward (h : s0.Onward False kw s) {hw : StartTests} : s0.Onward False kw (State.startUnits s hw) := by
  unfold State.startUnits
  try dsimp only
  repeat' first | with_reducible assumption | (show False → _ ∉ settings; first | exact False.elim | (with_reducible assumption) | exact fun _ => by decide | exact fun _ => mapReg_not_setting _ | exact fun _ => (by unfold gcBusy; split <;> decide) | exact fun _ => not_setting (lo := 272) (by decide) (by omega) | exact fun _ => not_setting (lo := 88) (by decide) (by omega) | exact fun _ => not_setting (lo := 64) (by decide) (by omega) | exact fun _ => not_setting (lo := 96) (by decide) (by omega) | exact fun _ => (by rw [rowOf_id]; first | assumption | exact not_setting (lo := 64) (by decide) (by omega) | exact not_setting (lo := 272) (by decide) (by omega)) | exact fun _ => not_setting (lo := 32) (by decide) (by omega)) | intro _ | with_reducible apply State.setFld_onward | with_reducible apply State.degrade_onward | with_reducible apply State.wkDegradeEffect_onward | with_reducible apply State.startCore_onward | with_reducible apply State.setMap_onward | with_reducible apply onward_ite | with_reducible apply onward_foldl | fail_if_no_progress with_reducible refine onward_mk ?_ rfl rfl rfl rfl rfl rfl rfl rfl rfl rfl rfl rfl rfl rfl | split | dsimp only

theorem State.startGram_onward (h : s0.Onward False False s) {die : Nat} {g : Nat × GramObj} : s0.Onward False False (State.startGram s die g) := by
  unfold State.startGram
  try dsimp only
  repeat' first | with_reducible assumption | with_reducible apply State.nextFree_onward | with_reducible apply onward_ite | fail_if_no_progress with_reducible refine onward_mkw ?_ rfl rfl rfl rfl rfl rfl rfl rfl | split | dsimp only

theorem State.startPort_onward (h : s0.Onward False kw s) {p : Nat} : s0.Onward False kw (State.startPort s p) := by
  unfold State.startPort
  try dsimp only
  repeat' first | with_reducible assumption | (show False → _ ∉ settings; first | exact False.elim | (with_reducible assumption) | exact fun _ => by decide | exact fun _ => mapReg_not_setting _ | exact fun _ => (by unfold gcBusy; split <;> decide) | exact fun _ => not_setting (lo := 272) (by decide) (by omega) | exact fun _ => not_setting (lo := 88) (by decide) (by omega) | exact fun _ => not_setting (lo := 64) (by decide) (by omega) | exact fun _ => not_setting (lo := 96) (by decide) (by omega) | exact fun _ => (by rw [rowOf_id]; first | assumption | exact not_setting (lo := 64) (by decide) (by omega) | exact not_setting (lo := 272) (by decide) (by omega)) | exact fun _ => not_setting (lo := 32) (by decide) (by omega)) | intro _ | with_reducible apply State.setReg_onward | with_reducible apply State.setFld_onward | with_reducible apply State.setPort_onward | with_reducible apply onward_ite | with_reducible apply onward_foldl | split | dsimp only

theorem State.startPoint_onward (h : s0.Onward False kw s) {e : Envelope} : s0.Onward False kw (State.startPoint s e) := by
  unfold State.startPoint
  try dsimp only
  repeat' first | with_reducible assumption | (show False → _ ∉ settings; first | exact False.elim | (with_reducible assumption) | exact fun _ => by decide | exact fun _ => mapReg_not_setting _ | exact fun _ => (by unfold gcBusy; split <;> decide) | exact fun _ => not_setting (lo := 272) (by decide) (by omega) | exact fun _ => not_setting (lo := 88) (by decide) (by omega) | exact fun _ => not_setting (lo := 64) (by decide) (by omega) | exact fun _ => not_setting (lo := 96) (by decide) (by omega) | exact fun _ => (by rw [rowOf_id]; first | assumption | exact not_setting (lo := 64) (by decide) (by omega) | exact not_setting (lo := 272) (by decide) (by omega)) | exact fun _ => not_setting (lo := 32) (by decide) (by omega)) | with_reducible apply State.setFld_onward | with_reducible apply onward_ite | fail_if_no_progress with_reducible refine onward_mk ?_ rfl rfl rfl rfl rfl rfl rfl rfl rfl rfl rfl rfl rfl rfl | split | dsimp only

theorem State.startValue_onward (h : s0.Onward False kw s) : s0.Onward False kw (State.startValue s) := by
  unfold State.startValue
  try dsimp only
  repeat' first | with_reducible assumption | (show False → _ ∉ settings; first | exact False.elim | (with_reducible assumption) | exact fun _ => by decide | exact fun _ => mapReg_not_setting _ | exact fun _ => (by unfold gcBusy; split <;> decide) | exact fun _ => not_setting (lo := 272) (by decide) (by omega) | exact fun _ => not_setting (lo := 88) (by decide) (by omega) | exact fun _ => not_setting (lo := 64) (by decide) (by omega) | exact fun _ => not_setting (lo := 96) (by decide) (by omega) | exact fun _ => (by rw [rowOf_id]; first | assumption | exact not_setting (lo := 64) (by decide) (by omega) | exact not_setting (lo := 272) (by decide) (by omega)) | exact fun _ => not_setting (lo := 32) (by decide) (by omega)) | intro _ | with_reducible apply State.nextFree_onward | with_reducible apply State.setFld_onward | with_reducible apply onward_ite | with_reducible apply onward_foldl | fail_if_no_progress with_reducible refine onward_mk ?_ rfl rfl rfl rfl rfl rfl rfl rfl rfl rfl rfl rfl rfl rfl | split | dsimp only

theorem State.startEnd_onward (h : s0.Onward False False s) {img : Image} {hw : StartTests} : s0.Onward False False (State.startEnd s img hw) := by
  unfold State.startEnd
  try dsimp only
  repeat' first | with_reducible assumption | (show False → _ ∉ settings; first | exact False.elim | (with_reducible assumption) | exact fun _ => by decide | exact fun _ => mapReg_not_setting _ | exact fun _ => (by unfold gcBusy; split <;> decide) | exact fun _ => not_setting (lo := 272) (by decide) (by omega) | exact fun _ => not_setting (lo := 88) (by decide) (by omega) | exact fun _ => not_setting (lo := 64) (by decide) (by omega) | exact fun _ => not_setting (lo := 96) (by decide) (by omega) | exact fun _ => (by rw [rowOf_id]; first | assumption | exact not_setting (lo := 64) (by decide) (by omega) | exact not_setting (lo := 272) (by decide) (by omega)) | exact fun _ => not_setting (lo := 32) (by decide) (by omega)) | intro _ | with_reducible apply State.startGram_onward | with_reducible apply State.startLamps_onward | with_reducible apply State.startPoint_onward | with_reducible apply State.startPort_onward | with_reducible apply State.startValue_onward | with_reducible apply State.newLeads_onward | with_reducible apply State.setFld_onward | with_reducible apply onward_ite | with_reducible apply onward_foldl | fail_if_no_progress with_reducible refine onward_mkw ?_ rfl rfl rfl rfl rfl rfl rfl rfl | split | dsimp only

theorem State.steps_onward (h : s0.Onward False False s) {n : Nat} : s0.Onward False False (State.steps s n) := by
  unfold State.steps
  try dsimp only
  repeat' first | with_reducible assumption | intro _ | with_reducible apply State.setStatus_onward | with_reducible apply onward_ite | with_reducible apply onward_foldl | split | dsimp only

theorem State.startFail_onward (h : s0.Onward False False s) {code step detail ms : Nat} : s0.Onward False False (State.startFail s code step detail ms) := by
  unfold State.startFail
  try dsimp only
  repeat' first | with_reducible assumption | (show False → _ ∉ settings; first | exact False.elim | (with_reducible assumption) | exact fun _ => by decide | exact fun _ => mapReg_not_setting _ | exact fun _ => (by unfold gcBusy; split <;> decide) | exact fun _ => not_setting (lo := 272) (by decide) (by omega) | exact fun _ => not_setting (lo := 88) (by decide) (by omega) | exact fun _ => not_setting (lo := 64) (by decide) (by omega) | exact fun _ => not_setting (lo := 96) (by decide) (by omega) | exact fun _ => (by rw [rowOf_id]; first | assumption | exact not_setting (lo := 64) (by decide) (by omega) | exact not_setting (lo := 272) (by decide) (by omega)) | exact fun _ => not_setting (lo := 32) (by decide) (by omega)) | with_reducible apply State.steps_onward | with_reducible apply State.setFld_onward | with_reducible apply State.setStatus_onward | with_reducible apply onward_ite | split | dsimp only

theorem State.started_onward {a : Applied} (h : s0.Onward False False a.s) {img : Image} {hw : StartTests} :
    s0.Onward False False (State.started s img hw a) := by
  unfold State.started
  extract_lets t1 t2 t3 t4
  have h1 : s0.Onward False False t1 := by
    unfold t1
    split
    · exact onward_getD (State.layOut_onward (onward_of_some (by assumption) (State.layOut_onward h)))
        (onward_of_some (by assumption) (State.layOut_onward h))
    · exact h
  have h3 : s0.Onward False False t3 := State.setFld_onward (State.setFld_onward (State.startEnd_onward (State.startUnits_onward h1)) False.elim) False.elim
  exact State.setStatus_onward (onward_mkw h3 rfl rfl rfl rfl rfl rfl rfl rfl)

theorem State.startRun_onward (h : s0.Onward False False s) {img : Image} {hw : StartTests} : s0.Onward False False (State.startRun s img hw) := by
  unfold State.startRun
  extract_lets ms a
  have ha : s0.Onward False False a.s := State.applyList_onward (State.putSections_onward h)
  clear_value a
  have hs : regsWf a.s.regs = true → regsWf (regSet a.s.regs ⟨0, 0, 0, 0⟩ ((s.steps 8).reg 0 0 Reg.GLB_START)) = true := fun c => regSet_wf c _ _
  have hr := onward_regs ha hs False.elim
  generalize regSet a.s.regs ⟨0, 0, 0, 0⟩ ((s.steps 8).reg 0 0 Reg.GLB_START) = l at hr ⊢
  have hp : s0.Onward False False { a.s with pins := (s.steps 8).pins, regs := l } := onward_mkw hr rfl rfl rfl rfl rfl rfl rfl rfl
  repeat' first | with_reducible assumption | with_reducible apply State.startFail_onward | with_reducible apply State.nextFree_onward | with_reducible apply State.started_onward | split

theorem State.showClocks_onward (h : s0.Onward False kw s) {hw : StartTests} : s0.Onward False kw (State.showClocks s hw) := by
  unfold State.showClocks
  try dsimp only
  repeat' first | with_reducible assumption | (show False → _ ∉ settings; first | exact False.elim | (with_reducible assumption) | exact fun _ => by decide | exact fun _ => mapReg_not_setting _ | exact fun _ => (by unfold gcBusy; split <;> decide) | exact fun _ => not_setting (lo := 272) (by decide) (by omega) | exact fun _ => not_setting (lo := 88) (by decide) (by omega) | exact fun _ => not_setting (lo := 64) (by decide) (by omega) | exact fun _ => not_setting (lo := 96) (by decide) (by omega) | exact fun _ => (by rw [rowOf_id]; first | assumption | exact not_setting (lo := 64) (by decide) (by omega) | exact not_setting (lo := 272) (by decide) (by omega)) | exact fun _ => not_setting (lo := 32) (by decide) (by omega)) | intro _ | with_reducible apply State.setFld_onward | with_reducible apply onward_ite | split | dsimp only

theorem execPowerOnStart_onward (h : s0.Onward False False s) {t : Nat} {img : Image} {hw : StartTests} : ResOnward False False s0 (execPowerOnStart t img hw s) := by
  unfold execPowerOnStart
  try dsimp only
  repeat' first | with_reducible assumption | with_reducible exact onward_fault | with_reducible exact onward_refused | with_reducible apply onward_next | with_reducible apply State.tick_onward | with_reducible apply State.showClocks_onward | with_reducible apply State.startRun_onward | with_reducible apply onward_ite | fail_if_no_progress with_reducible refine onward_mkw ?_ rfl rfl rfl rfl rfl rfl rfl rfl | split | dsimp only

theorem execStartStepTimeout_onward (h : s0.Onward False False s) {t step : Nat} : ResOnward False False s0 (execStartStepTimeout t step s) := by
  unfold execStartStepTimeout
  try dsimp only
  repeat' first | with_reducible assumption | with_reducible exact onward_fault | with_reducible exact onward_refused | with_reducible apply onward_next | with_reducible apply State.tick_onward | with_reducible apply State.startFail_onward | with_reducible apply onward_ite | with_reducible apply onward_getD | fail_if_no_progress with_reducible refine onward_mkw ?_ rfl rfl rfl rfl rfl rfl rfl rfl | split | dsimp only

theorem State.modeEffect_onward (h : s0.Onward kq kw s) {v : Word} : s0.Onward kq kw (State.modeEffect s v) := by
  unfold State.modeEffect
  try dsimp only
  repeat' first | with_reducible assumption | (show kq → _ ∉ settings; first | exact False.elim | (with_reducible assumption) | exact fun _ => by decide | exact fun _ => mapReg_not_setting _ | exact fun _ => (by unfold gcBusy; split <;> decide) | exact fun _ => not_setting (lo := 272) (by decide) (by omega) | exact fun _ => not_setting (lo := 88) (by decide) (by omega) | exact fun _ => not_setting (lo := 64) (by decide) (by omega) | exact fun _ => not_setting (lo := 96) (by decide) (by omega) | exact fun _ => (by rw [rowOf_id]; first | assumption | exact not_setting (lo := 64) (by decide) (by omega) | exact not_setting (lo := 272) (by decide) (by omega)) | exact fun _ => not_setting (lo := 32) (by decide) (by omega)) | with_reducible apply State.setFld_onward | with_reducible apply State.setStatus_onward | with_reducible apply onward_ite | split | dsimp only

theorem execGlbModeWrite_onward (h : s0.Onward kq kw s) {a : Acc} {v : Word} : ResOnward kq kw s0 (execGlbModeWrite a v s) := by
  unfold execGlbModeWrite
  try dsimp only
  repeat' first | with_reducible assumption | intro _ | with_reducible exact onward_fault | with_reducible exact onward_refused | with_reducible apply onward_next | with_reducible apply State.regWrite_onward | with_reducible apply State.modeEffect_onward | with_reducible apply onward_ite | split | dsimp only

end Sys2Proof.Machine
end

