-- ==== Sys2Proof/Laws/OnwardIdentity.lean ====
section
/-! SUPPORT. What the functions of Machine/Identity.lean keep: each answers a state its argument may go on to. -/

namespace Sys2Proof.Machine

set_option linter.unusedTactic false
set_option linter.unreachableTactic false

variable {kq kw : Prop} {s0 s : State}

theorem State.lcRefuse_onward (h : s0.Onward kq kw s) {f : Field} {status : Nat} (hr : kq → f.reg ∉ settings) : s0.Onward kq kw (State.lcRefuse s f status) := by
  unfold State.lcRefuse
  try dsimp only
  repeat' first | with_reducible assumption | (show kq → _ ∉ settings; first | exact False.elim | (with_reducible assumption) | exact fun _ => by decide | exact fun _ => mapReg_not_setting _ | exact fun _ => (by unfold gcBusy; split <;> decide) | exact fun _ => not_setting (lo := 272) (by decide) (by omega) | exact fun _ => not_setting (lo := 88) (by decide) (by omega) | exact fun _ => not_setting (lo := 64) (by decide) (by omega) | exact fun _ => not_setting (lo := 96) (by decide) (by omega) | exact fun _ => (by rw [rowOf_id]; first | assumption | exact not_setting (lo := 64) (by decide) (by omega) | exact not_setting (lo := 272) (by decide) (by omega)) | exact fun _ => not_setting (lo := 32) (by decide) (by omega)) | with_reducible apply State.setFld_onward | with_reducible apply State.bump_onward | with_reducible apply onward_ite | split | dsimp only

theorem State.reportGo_onward (h : s0.Onward kq kw s) {rq : Requester} {kind : Nat} : s0.Onward kq kw (State.reportGo s rq kind) := by
  unfold State.reportGo
  try dsimp only
  repeat' first | with_reducible assumption | (show kq → _ ∉ settings; first | exact False.elim | (with_reducible assumption) | exact fun _ => by decide | exact fun _ => mapReg_not_setting _ | exact fun _ => (by unfold gcBusy; split <;> decide) | exact fun _ => not_setting (lo := 272) (by decide) (by omega) | exact fun _ => not_setting (lo := 88) (by decide) (by omega) | exact fun _ => not_setting (lo := 64) (by decide) (by omega) | exact fun _ => not_setting (lo := 96) (by decide) (by omega) | exact fun _ => (by rw [rowOf_id]; first | assumption | exact not_setting (lo := 64) (by decide) (by omega) | exact not_setting (lo := 272) (by decide) (by omega)) | exact fun _ => not_setting (lo := 32) (by decide) (by omega)) | with_reducible apply State.lcRefuse_onward | with_reducible apply State.setFld_onward | with_reducible apply onward_ite | fail_if_no_progress with_reducible refine onward_mk ?_ rfl rfl rfl rfl rfl rfl rfl rfl rfl rfl rfl rfl rfl rfl | split | dsimp only

theorem State.reportEffect_onward (h : s0.Onward kq kw s) {rq : Requester} {v : Word} : s0.Onward kq kw (State.reportEffect s rq v) := by
  unfold State.reportEffect
  try dsimp only
  repeat' first | with_reducible assumption | (show kq → _ ∉ settings; first | exact False.elim | (with_reducible assumption) | exact fun _ => by decide | exact fun _ => mapReg_not_setting _ | exact fun _ => (by unfold gcBusy; split <;> decide) | exact fun _ => not_setting (lo := 272) (by decide) (by omega) | exact fun _ => not_setting (lo := 88) (by decide) (by omega) | exact fun _ => not_setting (lo := 64) (by decide) (by omega) | exact fun _ => not_setting (lo := 96) (by decide) (by omega) | exact fun _ => (by rw [rowOf_id]; first | assumption | exact not_setting (lo := 64) (by decide) (by omega) | exact not_setting (lo := 272) (by decide) (by omega)) | exact fun _ => not_setting (lo := 32) (by decide) (by omega)) | with_reducible apply State.store_onward | with_reducible apply State.reportGo_onward | with_reducible apply onward_ite | split | dsimp only

theorem execReportState_onward (h : s0.Onward kq kw s) {a : Acc} {v : Word} : ResOnward kq kw s0 (execReportState a v s) := by
  unfold execReportState
  try dsimp only
  repeat' first | with_reducible assumption | intro _ | with_reducible exact onward_fault | with_reducible exact onward_refused | with_reducible apply onward_next | with_reducible apply State.regWrite_onward | with_reducible apply State.reportEffect_onward | with_reducible apply onward_ite | split | dsimp only

theorem execReportScrub_onward (h : s0.Onward kq kw s) {a : Acc} {v : Word} : ResOnward kq kw s0 (execReportScrub a v s) := by
  unfold execReportScrub
  try dsimp only
  repeat' first | with_reducible assumption | intro _ | with_reducible exact onward_fault | with_reducible exact onward_refused | with_reducible apply onward_next | with_reducible apply State.regWrite_onward | with_reducible apply State.reportEffect_onward | with_reducible apply onward_ite | split | dsimp only

theorem State.reportEnd_onward (h : s0.Onward kq kw s) : s0.Onward kq kw (State.reportEnd s) := by
  unfold State.reportEnd
  try dsimp only
  repeat' first | with_reducible assumption | (show kq → _ ∉ settings; first | exact False.elim | (with_reducible assumption) | exact fun _ => by decide | exact fun _ => mapReg_not_setting _ | exact fun _ => (by unfold gcBusy; split <;> decide) | exact fun _ => not_setting (lo := 272) (by decide) (by omega) | exact fun _ => not_setting (lo := 88) (by decide) (by omega) | exact fun _ => not_setting (lo := 64) (by decide) (by omega) | exact fun _ => not_setting (lo := 96) (by decide) (by omega) | exact fun _ => (by rw [rowOf_id]; first | assumption | exact not_setting (lo := 64) (by decide) (by omega) | exact not_setting (lo := 272) (by decide) (by omega)) | exact fun _ => not_setting (lo := 32) (by decide) (by omega)) | with_reducible apply State.setFld_onward | with_reducible apply onward_ite | fail_if_no_progress with_reducible refine onward_mk ?_ rfl rfl rfl rfl rfl rfl rfl rfl rfl rfl rfl rfl rfl rfl | split | dsimp only

theorem execReportDone_onward (h : s0.Onward kq kw s) {t : Nat} : ResOnward kq kw s0 (execReportDone t s) := by
  unfold execReportDone
  try dsimp only
  repeat' first | with_reducible assumption | with_reducible exact onward_fault | with_reducible exact onward_refused | with_reducible apply onward_next | with_reducible apply State.tick_onward | with_reducible apply State.reportEnd_onward | with_reducible apply onward_ite | split | dsimp only

theorem State.lcEnd_onward (h : s0.Onward kq kw s) {status : Nat} : s0.Onward kq kw (State.lcEnd s status) := by
  unfold State.lcEnd
  try dsimp only
  repeat' first | with_reducible assumption | (show kq → _ ∉ settings; first | exact False.elim | (with_reducible assumption) | exact fun _ => by decide | exact fun _ => mapReg_not_setting _ | exact fun _ => (by unfold gcBusy; split <;> decide) | exact fun _ => not_setting (lo := 272) (by decide) (by omega) | exact fun _ => not_setting (lo := 88) (by decide) (by omega) | exact fun _ => not_setting (lo := 64) (by decide) (by omega) | exact fun _ => not_setting (lo := 96) (by decide) (by omega) | exact fun _ => (by rw [rowOf_id]; first | assumption | exact not_setting (lo := 64) (by decide) (by omega) | exact not_setting (lo := 272) (by decide) (by omega)) | exact fun _ => not_setting (lo := 32) (by decide) (by omega)) | with_reducible apply State.setFld_onward | with_reducible apply onward_ite | fail_if_no_progress with_reducible refine onward_mk ?_ rfl rfl rfl rfl rfl rfl rfl rfl rfl rfl rfl rfl rfl rfl | split | dsimp only

theorem State.burn_onward (h : s0.Onward False kw s) {f : Fuses} (hf : s.ident.fuses.burned f) : s0.Onward False kw (State.burn s f) :=
  State.raise_onward (onward_trans h (t := { s with ident := { s.ident with fuses := f } }) ⟨rfl, le_rfl, hf, id, False.elim, fun _ => spared_mk rfl rfl rfl rfl rfl rfl⟩)

theorem State.inForce_onward (h : s0.Onward kq kw s) {lc : Nat} : s0.Onward kq kw (State.inForce s lc) := by
  unfold State.inForce
  try dsimp only
  repeat' first | with_reducible assumption | (show kq → _ ∉ settings; first | exact False.elim | (with_reducible assumption) | exact fun _ => by decide | exact fun _ => mapReg_not_setting _ | exact fun _ => (by unfold gcBusy; split <;> decide) | exact fun _ => not_setting (lo := 272) (by decide) (by omega) | exact fun _ => not_setting (lo := 88) (by decide) (by omega) | exact fun _ => not_setting (lo := 64) (by decide) (by omega) | exact fun _ => not_setting (lo := 96) (by decide) (by omega) | exact fun _ => (by rw [rowOf_id]; first | assumption | exact not_setting (lo := 64) (by decide) (by omega) | exact not_setting (lo := 272) (by decide) (by omega)) | exact fun _ => not_setting (lo := 32) (by decide) (by omega)) | with_reducible apply State.setFld_onward | with_reducible apply onward_ite | split | dsimp only

theorem State.provision_onward (h : s0.Onward False kw s) {len : Nat} {p : ProvPkg} : s0.Onward False kw (State.provision s len p) := by
  unfold State.provision
  try dsimp only
  repeat' first | with_reducible assumption | (show False → _ ∉ settings; first | exact False.elim | (with_reducible assumption) | exact fun _ => by decide | exact fun _ => mapReg_not_setting _ | exact fun _ => (by unfold gcBusy; split <;> decide) | exact fun _ => not_setting (lo := 272) (by decide) (by omega) | exact fun _ => not_setting (lo := 88) (by decide) (by omega) | exact fun _ => not_setting (lo := 64) (by decide) (by omega) | exact fun _ => not_setting (lo := 96) (by decide) (by omega) | exact fun _ => (by rw [rowOf_id]; first | assumption | exact not_setting (lo := 64) (by decide) (by omega) | exact not_setting (lo := 272) (by decide) (by omega)) | exact fun _ => not_setting (lo := 32) (by decide) (by omega)) | with_reducible apply State.lcRefuse_onward | with_reducible apply State.burn_onward | with_reducible apply State.lcEnd_onward | with_reducible apply onward_ite | fail_if_no_progress with_reducible refine onward_mk ?_ rfl rfl rfl rfl rfl rfl rfl rfl rfl rfl rfl rfl rfl rfl | split | dsimp only
  all_goals (unfold Fuses.burned; simp_all)

theorem State.burnFloorBadly_onward (h : s0.Onward False kw s) : s0.Onward False kw (State.burnFloorBadly s) := by
  unfold State.burnFloorBadly
  try dsimp only
  repeat' first | with_reducible assumption | with_reducible apply State.burn_onward | with_reducible apply State.nextFree_onward | with_reducible apply State.lcEnd_onward | with_reducible apply onward_ite | fail_if_no_progress with_reducible refine onward_mk ?_ rfl rfl rfl rfl rfl rfl rfl rfl rfl rfl rfl rfl rfl rfl | split | dsimp only
  all_goals (unfold Fuses.burned; simp_all)

theorem State.deploy_onward (h : s0.Onward False kw s) {readBackOk : Bool} : s0.Onward False kw (State.deploy s readBackOk) := by
  unfold State.deploy
  try dsimp only
  repeat' first | with_reducible assumption | with_reducible apply State.burn_onward | with_reducible apply State.inForce_onward | with_reducible apply State.lcEnd_onward | with_reducible apply State.burnFloorBadly_onward | with_reducible apply onward_ite | fail_if_no_progress with_reducible refine onward_mk ?_ rfl rfl rfl rfl rfl rfl rfl rfl rfl rfl rfl rfl rfl rfl | split | dsimp only
  all_goals (unfold Fuses.burned; simp_all [State.newFloor])

theorem State.raiseSvn_onward (h : s0.Onward False kw s) {readBackOk : Bool} : s0.Onward False kw (State.raiseSvn s readBackOk) := by
  unfold State.raiseSvn
  try dsimp only
  repeat' first | with_reducible assumption | (show False → _ ∉ settings; first | exact False.elim | (with_reducible assumption) | exact fun _ => by decide | exact fun _ => mapReg_not_setting _ | exact fun _ => (by unfold gcBusy; split <;> decide) | exact fun _ => not_setting (lo := 272) (by decide) (by omega) | exact fun _ => not_setting (lo := 88) (by decide) (by omega) | exact fun _ => not_setting (lo := 64) (by decide) (by omega) | exact fun _ => not_setting (lo := 96) (by decide) (by omega) | exact fun _ => (by rw [rowOf_id]; first | assumption | exact not_setting (lo := 64) (by decide) (by omega) | exact not_setting (lo := 272) (by decide) (by omega)) | exact fun _ => not_setting (lo := 32) (by decide) (by omega)) | with_reducible apply State.lcRefuse_onward | with_reducible apply State.burn_onward | with_reducible apply State.lcEnd_onward | with_reducible apply State.burnFloorBadly_onward | with_reducible apply onward_ite | fail_if_no_progress with_reducible refine onward_mk ?_ rfl rfl rfl rfl rfl rfl rfl rfl rfl rfl rfl rfl rfl rfl | split | dsimp only
  all_goals (unfold Fuses.burned; simp_all [State.newFloor])

theorem State.clearTallies_onward (h : s0.Onward False kw s) : s0.Onward False kw (State.clearTallies s) :=
  onward_regs h (fun c => regsWf_filter c _) False.elim

theorem State.scrubAll_onward (h : s0.Onward False False s) : s0.Onward False False (State.scrubAll s) := by
  unfold State.scrubAll
  extract_lets s1 s2
  have h1 : s0.Onward False False s1 := by
    refine onward_foldl (fun s d h => ?_) _ h
    refine State.setFld_onward (State.setFld_onward (onward_foldl (fun s c h => ?_) _ h) False.elim) False.elim
    exact onward_ite (State.abandonService_onward (State.setCore_onward h)) h
  have h2 : s0.Onward False False s2 := State.clearTallies_onward h1
  clear_value s2
  refine State.setFld_onward ?_ False.elim
  exact onward_trans h2 ⟨rfl, le_rfl, Fuses.burned_refl _, fun c => ⟨c.1, rfl, rfl, c.2.2.2⟩, False.elim, False.elim⟩

theorem State.lcReturn_onward (h : s0.Onward False kw s) {len : Nat} {p : ReturnPkg} : s0.Onward False kw (State.lcReturn s len p) := by
  unfold State.lcReturn
  try dsimp only
  repeat' first | with_reducible assumption | (show False → _ ∉ settings; first | exact False.elim | (with_reducible assumption) | exact fun _ => by decide | exact fun _ => mapReg_not_setting _ | exact fun _ => (by unfold gcBusy; split <;> decide) | exact fun _ => not_setting (lo := 272) (by decide) (by omega) | exact fun _ => not_setting (lo := 88) (by decide) (by omega) | exact fun _ => not_setting (lo := 64) (by decide) (by omega) | exact fun _ => not_setting (lo := 96) (by decide) (by omega) | exact fun _ => (by rw [rowOf_id]; first | assumption | exact not_setting (lo := 64) (by decide) (by omega) | exact not_setting (lo := 272) (by decide) (by omega)) | exact fun _ => not_setting (lo := 32) (by decide) (by omega)) | with_reducible apply State.lcRefuse_onward | with_reducible apply State.burn_onward | with_reducible apply State.inForce_onward | with_reducible apply State.lcEnd_onward | with_reducible apply onward_ite | fail_if_no_progress with_reducible refine onward_mk ?_ rfl rfl rfl rfl rfl rfl rfl rfl rfl rfl rfl rfl rfl rfl | split | dsimp only
  all_goals (unfold Fuses.burned; simp_all)

theorem State.scrap_onward (h : s0.Onward False kw s) {readBackOk : Bool} : s0.Onward False kw (State.scrap s readBackOk) := by
  unfold State.scrap
  try dsimp only
  repeat' first | with_reducible assumption | with_reducible apply State.burn_onward | with_reducible apply State.lcEnd_onward | with_reducible apply onward_ite | fail_if_no_progress with_reducible refine onward_mk ?_ rfl rfl rfl rfl rfl rfl rfl rfl rfl rfl rfl rfl rfl rfl | split | dsimp only
  all_goals (unfold Fuses.burned; simp_all)

theorem State.lcGo_onward (h : s0.Onward False False s) {rq : Requester} {cmd len : Nat} {o : LcOutcome} : s0.Onward False False (State.lcGo s rq cmd len o) := by
  unfold State.lcGo
  try dsimp only
  repeat' first | with_reducible assumption | (show False → _ ∉ settings; first | exact False.elim | (with_reducible assumption) | exact fun _ => by decide | exact fun _ => mapReg_not_setting _ | exact fun _ => (by unfold gcBusy; split <;> decide) | exact fun _ => not_setting (lo := 272) (by decide) (by omega) | exact fun _ => not_setting (lo := 88) (by decide) (by omega) | exact fun _ => not_setting (lo := 64) (by decide) (by omega) | exact fun _ => not_setting (lo := 96) (by decide) (by omega) | exact fun _ => (by rw [rowOf_id]; first | assumption | exact not_setting (lo := 64) (by decide) (by omega) | exact not_setting (lo := 272) (by decide) (by omega)) | exact fun _ => not_setting (lo := 32) (by decide) (by omega)) | with_reducible apply State.lcRefuse_onward | with_reducible apply State.provision_onward | with_reducible apply State.deploy_onward | with_reducible apply State.raiseSvn_onward | with_reducible apply State.scrubAll_onward | with_reducible apply State.lcReturn_onward | with_reducible apply State.scrap_onward | with_reducible apply onward_ite | split | dsimp only

theorem State.lcEffect_onward (h : s0.Onward False False s) {rq : Requester} {v : Word} {o : LcOutcome} : s0.Onward False False (State.lcEffect s rq v o) := by
  unfold State.lcEffect
  try dsimp only
  repeat' first | with_reducible assumption | (show False → _ ∉ settings; first | exact False.elim | (with_reducible assumption) | exact fun _ => by decide | exact fun _ => mapReg_not_setting _ | exact fun _ => (by unfold gcBusy; split <;> decide) | exact fun _ => not_setting (lo := 272) (by decide) (by omega) | exact fun _ => not_setting (lo := 88) (by decide) (by omega) | exact fun _ => not_setting (lo := 64) (by decide) (by omega) | exact fun _ => not_setting (lo := 96) (by decide) (by omega) | exact fun _ => (by rw [rowOf_id]; first | assumption | exact not_setting (lo := 64) (by decide) (by omega) | exact not_setting (lo := 272) (by decide) (by omega)) | exact fun _ => not_setting (lo := 32) (by decide) (by omega)) | with_reducible apply State.store_onward | with_reducible apply State.lcGo_onward | with_reducible apply onward_ite | split | dsimp only

theorem State.lcWrite_onward (h : s0.Onward False False s) {a : Acc} {v : Word} {o : LcOutcome} : s0.Onward False False (State.lcWrite s a v o) := by
  unfold State.lcWrite
  try dsimp only
  repeat' first | with_reducible assumption | intro _ | with_reducible apply State.regWrite_onward | with_reducible apply State.lcEffect_onward | with_reducible apply onward_ite | split | dsimp only

theorem execProvision_onward (h : s0.Onward False False s) {a : Acc} {v : Word} {p : ProvPkg} : ResOnward False False s0 (execProvision a v p s) := by
  unfold execProvision
  try dsimp only
  repeat' first | with_reducible assumption | with_reducible exact onward_fault | with_reducible exact onward_refused | with_reducible apply onward_next | with_reducible apply State.lcWrite_onward | with_reducible apply onward_ite | fail_if_no_progress with_reducible refine onward_mkw ?_ rfl rfl rfl rfl rfl rfl rfl rfl | split | dsimp only

theorem execDeploy_onward (h : s0.Onward False False s) {a : Acc} {v : Word} {readBackOk : Bool} : ResOnward False False s0 (execDeploy a v readBackOk s) := by
  unfold execDeploy
  try dsimp only
  repeat' first | with_reducible assumption | with_reducible exact onward_fault | with_reducible exact onward_refused | with_reducible apply onward_next | with_reducible apply State.lcWrite_onward | with_reducible apply onward_ite | split | dsimp only

theorem execRaiseSvn_onward (h : s0.Onward False False s) {a : Acc} {v : Word} {readBackOk : Bool} : ResOnward False False s0 (execRaiseSvn a v readBackOk s) := by
  unfold execRaiseSvn
  try dsimp only
  repeat' first | with_reducible assumption | with_reducible exact onward_fault | with_reducible exact onward_refused | with_reducible apply onward_next | with_reducible apply State.lcWrite_onward | with_reducible apply onward_ite | split | dsimp only

theorem execScrubAll_onward (h : s0.Onward False False s) {a : Acc} {v : Word} : ResOnward False False s0 (execScrubAll a v s) := by
  unfold execScrubAll
  try dsimp only
  repeat' first | with_reducible assumption | with_reducible exact onward_fault | with_reducible exact onward_refused | with_reducible apply onward_next | with_reducible apply State.lcWrite_onward | with_reducible apply onward_ite | split | dsimp only

theorem State.scrubEnd_onward (h : s0.Onward kq kw s) {pass : Bool} {t1 sram skip : Nat} : s0.Onward kq kw (State.scrubEnd s pass t1 sram skip) := by
  unfold State.scrubEnd
  try dsimp only
  repeat' first | with_reducible assumption | (show kq → _ ∉ settings; first | exact False.elim | (with_reducible assumption) | exact fun _ => by decide | exact fun _ => mapReg_not_setting _ | exact fun _ => (by unfold gcBusy; split <;> decide) | exact fun _ => not_setting (lo := 272) (by decide) (by omega) | exact fun _ => not_setting (lo := 88) (by decide) (by omega) | exact fun _ => not_setting (lo := 64) (by decide) (by omega) | exact fun _ => not_setting (lo := 96) (by decide) (by omega) | exact fun _ => (by rw [rowOf_id]; first | assumption | exact not_setting (lo := 64) (by decide) (by omega) | exact not_setting (lo := 272) (by decide) (by omega)) | exact fun _ => not_setting (lo := 32) (by decide) (by omega)) | with_reducible apply State.setFld_onward | with_reducible apply State.lcEnd_onward | with_reducible apply State.raise_onward | with_reducible apply onward_ite | fail_if_no_progress with_reducible refine onward_mk ?_ rfl rfl rfl rfl rfl rfl rfl rfl rfl rfl rfl rfl rfl rfl | split | dsimp only

theorem execScrubAllDone_onward (h : s0.Onward kq kw s) {t : Nat} {pass : Bool} {t1Bytes sramBytes skipBytes : Nat} : ResOnward kq kw s0 (execScrubAllDone t pass t1Bytes sramBytes skipBytes s) := by
  unfold execScrubAllDone
  try dsimp only
  repeat' first | with_reducible assumption | with_reducible exact onward_fault | with_reducible exact onward_refused | with_reducible apply onward_next | with_reducible apply State.tick_onward | with_reducible apply State.scrubEnd_onward | with_reducible apply onward_ite | split | dsimp only

theorem execLcReturn_onward (h : s0.Onward False False s) {a : Acc} {v : Word} {p : ReturnPkg} : ResOnward False False s0 (execLcReturn a v p s) := by
  unfold execLcReturn
  try dsimp only
  repeat' first | with_reducible assumption | with_reducible exact onward_fault | with_reducible exact onward_refused | with_reducible apply onward_next | with_reducible apply State.lcWrite_onward | with_reducible apply onward_ite | fail_if_no_progress with_reducible refine onward_mkw ?_ rfl rfl rfl rfl rfl rfl rfl rfl | split | dsimp only

theorem execScrap_onward (h : s0.Onward False False s) {a : Acc} {v : Word} {readBackOk : Bool} : ResOnward False False s0 (execScrap a v readBackOk s) := by
  unfold execScrap
  try dsimp only
  repeat' first | with_reducible assumption | with_reducible exact onward_fault | with_reducible exact onward_refused | with_reducible apply onward_next | with_reducible apply State.lcWrite_onward | with_reducible apply onward_ite | split | dsimp only

theorem State.advanceKey_onward (h : s0.Onward kq kw s) {x : Nat} : s0.Onward kq kw (State.advanceKey s x) := by
  unfold State.advanceKey
  try dsimp only
  repeat' first | with_reducible assumption | (show kq → _ ∉ settings; first | exact False.elim | (with_reducible assumption) | exact fun _ => by decide | exact fun _ => mapReg_not_setting _ | exact fun _ => (by unfold gcBusy; split <;> decide) | exact fun _ => not_setting (lo := 272) (by decide) (by omega) | exact fun _ => not_setting (lo := 88) (by decide) (by omega) | exact fun _ => not_setting (lo := 64) (by decide) (by omega) | exact fun _ => not_setting (lo := 96) (by decide) (by omega) | exact fun _ => (by rw [rowOf_id]; first | assumption | exact not_setting (lo := 64) (by decide) (by omega) | exact not_setting (lo := 272) (by decide) (by omega)) | exact fun _ => not_setting (lo := 32) (by decide) (by omega)) | with_reducible apply State.setFld_onward | with_reducible apply State.raise_onward | with_reducible apply onward_ite | split | dsimp only

theorem State.retireKey_onward (h : s0.Onward kq kw s) {x : Nat} : s0.Onward kq kw (State.retireKey s x) := by
  unfold State.retireKey
  try dsimp only
  repeat' first | with_reducible assumption | (show kq → _ ∉ settings; first | exact False.elim | (with_reducible assumption) | exact fun _ => by decide | exact fun _ => mapReg_not_setting _ | exact fun _ => (by unfold gcBusy; split <;> decide) | exact fun _ => not_setting (lo := 272) (by decide) (by omega) | exact fun _ => not_setting (lo := 88) (by decide) (by omega) | exact fun _ => not_setting (lo := 64) (by decide) (by omega) | exact fun _ => not_setting (lo := 96) (by decide) (by omega) | exact fun _ => (by rw [rowOf_id]; first | assumption | exact not_setting (lo := 64) (by decide) (by omega) | exact not_setting (lo := 272) (by decide) (by omega)) | exact fun _ => not_setting (lo := 32) (by decide) (by omega)) | intro _ | with_reducible apply State.setFld_onward | with_reducible apply State.raise_onward | with_reducible apply onward_ite | fail_if_no_progress with_reducible refine onward_mk ?_ rfl rfl rfl rfl rfl rfl rfl rfl rfl rfl rfl rfl rfl rfl | split | dsimp only

theorem State.keygenEffect_onward (h : s0.Onward kq kw s) {die x : Nat} {v : Word} : s0.Onward kq kw (State.keygenEffect s die x v) := by
  unfold State.keygenEffect
  try dsimp only
  repeat' first | with_reducible assumption | (show kq → _ ∉ settings; first | exact False.elim | (with_reducible assumption) | exact fun _ => by decide | exact fun _ => mapReg_not_setting _ | exact fun _ => (by unfold gcBusy; split <;> decide) | exact fun _ => not_setting (lo := 272) (by decide) (by omega) | exact fun _ => not_setting (lo := 88) (by decide) (by omega) | exact fun _ => not_setting (lo := 64) (by decide) (by omega) | exact fun _ => not_setting (lo := 96) (by decide) (by omega) | exact fun _ => (by rw [rowOf_id]; first | assumption | exact not_setting (lo := 64) (by decide) (by omega) | exact not_setting (lo := 272) (by decide) (by omega)) | exact fun _ => not_setting (lo := 32) (by decide) (by omega)) | with_reducible apply State.store_onward | with_reducible apply State.advanceKey_onward | with_reducible apply State.retireKey_onward | with_reducible apply onward_ite | split | dsimp only

theorem execAdvance_onward (h : s0.Onward kq kw s) {a : Acc} {v : Word} : ResOnward kq kw s0 (execAdvance a v s) := by
  unfold execAdvance
  try dsimp only
  repeat' first | with_reducible assumption | intro _ | with_reducible exact onward_fault | with_reducible exact onward_refused | with_reducible apply onward_next | with_reducible apply State.regWrite_onward | with_reducible apply State.keygenEffect_onward | with_reducible apply onward_ite | split | dsimp only

theorem execRetirePrev_onward (h : s0.Onward kq kw s) {a : Acc} {v : Word} : ResOnward kq kw s0 (execRetirePrev a v s) := by
  unfold execRetirePrev
  try dsimp only
  repeat' first | with_reducible assumption | intro _ | with_reducible exact onward_fault | with_reducible exact onward_refused | with_reducible apply onward_next | with_reducible apply State.regWrite_onward | with_reducible apply State.keygenEffect_onward | with_reducible apply onward_ite | split | dsimp only

theorem execJtagInstruction_onward (h : s0.Onward kq kw s) {t die : Nat} {i : JtagInstr} : ResOnward kq kw s0 (execJtagInstruction t die i s) := by
  unfold execJtagInstruction
  try dsimp only
  repeat' first | with_reducible assumption | with_reducible exact onward_fault | with_reducible exact onward_refused | with_reducible apply onward_next | with_reducible apply State.tick_onward | with_reducible apply onward_ite | fail_if_no_progress with_reducible refine onward_mk ?_ rfl rfl rfl rfl rfl rfl rfl rfl rfl rfl rfl rfl rfl rfl | split | dsimp only

end Sys2Proof.Machine
end

