-- ==== Sys2Proof/Laws/OnwardCkptCmds.lean ====
section
/-! SUPPORT. What the functions of Machine/CkptCmds.lean keep: each answers a state its argument may go on to. -/

namespace Sys2Proof.Machine

set_option linter.unusedTactic false
set_option linter.unreachableTactic false

variable {kq kw : Prop} {s0 s : State}

theorem State.ckptRefuse_onward (h : s0.Onward kq kw s) {e : Env} {status reason : Nat} : s0.Onward kq kw (State.ckptRefuse s e status reason) := by
  unfold State.ckptRefuse
  try dsimp only
  repeat' first | with_reducible assumption | with_reducible apply State.answer_onward | with_reducible apply onward_ite | split | dsimp only

theorem State.take_onward (h : s0.Onward kq False s) {e : Env} : s0.Onward kq False (State.take s e) := by
  unfold State.take
  try dsimp only
  repeat' first | with_reducible assumption | with_reducible apply State.ckptRefuse_onward | with_reducible apply State.answer_onward | with_reducible apply State.planCkpt_onward | with_reducible apply onward_ite | split | dsimp only

theorem State.discardMsg_onward (h : s0.Onward kq False s) {e : Env} {id : Nat} : s0.Onward kq False (State.discardMsg s e id) := by
  unfold State.discardMsg
  try dsimp only
  repeat' first | with_reducible assumption | intro _ | with_reducible apply State.discard_onward | with_reducible apply State.answer_onward | with_reducible apply State.ckptRefuse_onward | with_reducible apply onward_ite | with_reducible apply onward_getD | fail_if_no_progress with_reducible refine onward_mkw ?_ rfl rfl rfl rfl rfl rfl rfl rfl | split | dsimp only

theorem State.ckptMsg_onward (h : s0.Onward kq False s) {e : Env} {op rsv id : Nat} : s0.Onward kq False (State.ckptMsg s e op rsv id) := by
  unfold State.ckptMsg
  try dsimp only
  repeat' first | with_reducible assumption | with_reducible apply State.ckptRefuse_onward | with_reducible apply State.take_onward | with_reducible apply State.discardMsg_onward | with_reducible apply onward_ite | split | dsimp only

theorem execCheckpointTake_onward (h : s0.Onward kq False s) {e : Env} {m : CkptMsg} : ResOnward kq False s0 (execCheckpointTake e m s) := by
  unfold execCheckpointTake
  try dsimp only
  repeat' first | with_reducible assumption | intro _ | with_reducible exact onward_fault | with_reducible exact onward_refused | with_reducible apply onward_next | with_reducible apply State.message_onward | with_reducible apply State.ckptMsg_onward | with_reducible apply onward_ite | split | dsimp only

theorem execCheckpointDiscard_onward (h : s0.Onward kq False s) {e : Env} {m : CkptMsg} : ResOnward kq False s0 (execCheckpointDiscard e m s) := by
  unfold execCheckpointDiscard
  try dsimp only
  repeat' first | with_reducible assumption | intro _ | with_reducible exact onward_fault | with_reducible exact onward_refused | with_reducible apply onward_next | with_reducible apply State.message_onward | with_reducible apply State.ckptMsg_onward | with_reducible apply onward_ite | split | dsimp only

theorem execCheckpointCut_onward (h : s0.Onward kq False s) {t : Nat} : ResOnward kq False s0 (execCheckpointCut t s) := by
  unfold execCheckpointCut
  try dsimp only
  repeat' first | with_reducible assumption | with_reducible exact onward_fault | with_reducible exact onward_refused | with_reducible apply onward_next | with_reducible apply State.tick_onward | with_reducible apply State.cutDue_onward | with_reducible apply onward_ite | split | dsimp only

theorem execCbwSpaceFreed_onward (h : s0.Onward kq kw s) {t die units : Nat} : ResOnward kq kw s0 (execCbwSpaceFreed t die units s) := by
  unfold execCbwSpaceFreed
  try dsimp only
  repeat' first | with_reducible assumption | (show kq → _ ∉ settings; first | exact False.elim | (with_reducible assumption) | exact fun _ => by decide | exact fun _ => mapReg_not_setting _ | exact fun _ => (by unfold gcBusy; split <;> decide) | exact fun _ => not_setting (lo := 272) (by decide) (by omega) | exact fun _ => not_setting (lo := 88) (by decide) (by omega) | exact fun _ => not_setting (lo := 64) (by decide) (by omega) | exact fun _ => not_setting (lo := 96) (by decide) (by omega) | exact fun _ => (by rw [rowOf_id]; first | assumption | exact not_setting (lo := 64) (by decide) (by omega) | exact not_setting (lo := 272) (by decide) (by omega)) | exact fun _ => not_setting (lo := 32) (by decide) (by omega)) | with_reducible exact onward_fault | with_reducible exact onward_refused | with_reducible apply onward_next | with_reducible apply State.tick_onward | with_reducible apply State.lower_onward | with_reducible apply onward_ite | split | dsimp only

theorem State.shardEnd_onward (h : s0.Onward kq kw s) {r : CkptRun} {x : Snap} {shard bodyLen die : Nat} : s0.Onward kq kw (State.shardEnd s r x shard bodyLen die) := by
  unfold State.shardEnd
  try dsimp only
  repeat' first | with_reducible assumption | (show kq → _ ∉ settings; first | exact False.elim | (with_reducible assumption) | exact fun _ => by decide | exact fun _ => mapReg_not_setting _ | exact fun _ => (by unfold gcBusy; split <;> decide) | exact fun _ => not_setting (lo := 272) (by decide) (by omega) | exact fun _ => not_setting (lo := 88) (by decide) (by omega) | exact fun _ => not_setting (lo := 64) (by decide) (by omega) | exact fun _ => not_setting (lo := 96) (by decide) (by omega) | exact fun _ => (by rw [rowOf_id]; first | assumption | exact not_setting (lo := 64) (by decide) (by omega) | exact not_setting (lo := 272) (by decide) (by omega)) | exact fun _ => not_setting (lo := 32) (by decide) (by omega)) | with_reducible apply State.putHead_onward | with_reducible apply State.setFld_onward | with_reducible apply onward_ite | fail_if_no_progress with_reducible refine onward_mk ?_ rfl rfl rfl rfl rfl rfl rfl rfl rfl rfl rfl rfl rfl rfl | split | dsimp only

theorem State.ckptComplete_onward (h : s0.Onward kq kw s) {x : Snap} : s0.Onward kq kw (State.ckptComplete s x) := by
  unfold State.ckptComplete
  try dsimp only
  repeat' first | with_reducible assumption | (show kq → _ ∉ settings; first | exact False.elim | (with_reducible assumption) | exact fun _ => by decide | exact fun _ => mapReg_not_setting _ | exact fun _ => (by unfold gcBusy; split <;> decide) | exact fun _ => not_setting (lo := 272) (by decide) (by omega) | exact fun _ => not_setting (lo := 88) (by decide) (by omega) | exact fun _ => not_setting (lo := 64) (by decide) (by omega) | exact fun _ => not_setting (lo := 96) (by decide) (by omega) | exact fun _ => (by rw [rowOf_id]; first | assumption | exact not_setting (lo := 64) (by decide) (by omega) | exact not_setting (lo := 272) (by decide) (by omega)) | exact fun _ => not_setting (lo := 32) (by decide) (by omega)) | with_reducible apply State.setFld_onward | with_reducible apply State.setReg_onward | with_reducible apply State.raise_onward | with_reducible apply onward_ite | fail_if_no_progress with_reducible refine onward_mk ?_ rfl rfl rfl rfl rfl rfl rfl rfl rfl rfl rfl rfl rfl rfl | split | dsimp only

theorem State.shardDone_onward (h : s0.Onward kq False s) {shard bodyLen : Nat} {readFail : Option Nat} {sent : Bool} : s0.Onward kq False (State.shardDone s shard bodyLen readFail sent) := by
  unfold State.shardDone
  try dsimp only
  repeat' first | with_reducible assumption | intro _ | with_reducible apply State.failCkpt_onward | with_reducible apply State.shardEnd_onward | with_reducible apply State.ckptComplete_onward | with_reducible apply onward_ite | fail_if_no_progress with_reducible refine onward_mkw ?_ rfl rfl rfl rfl rfl rfl rfl rfl | split | dsimp only

theorem execShardDone_onward (h : s0.Onward kq False s) {t shard bodyLen : Nat} {readFail : Option Nat} {sent : Bool} : ResOnward kq False s0 (execShardDone t shard bodyLen readFail sent s) := by
  unfold execShardDone
  try dsimp only
  repeat' first | with_reducible assumption | with_reducible exact onward_fault | with_reducible exact onward_refused | with_reducible apply onward_next | with_reducible apply State.tick_onward | with_reducible apply State.shardDone_onward | with_reducible apply onward_ite | split | dsimp only

theorem State.restoreMsg_onward (h : s0.Onward kq kw s) {e : Env} {rsv id : Nat} : s0.Onward kq kw (State.restoreMsg s e rsv id) := by
  unfold State.restoreMsg
  try dsimp only
  repeat' first | with_reducible assumption | (show kq → _ ∉ settings; first | exact False.elim | (with_reducible assumption) | exact fun _ => by decide | exact fun _ => mapReg_not_setting _ | exact fun _ => (by unfold gcBusy; split <;> decide) | exact fun _ => not_setting (lo := 272) (by decide) (by omega) | exact fun _ => not_setting (lo := 88) (by decide) (by omega) | exact fun _ => not_setting (lo := 64) (by decide) (by omega) | exact fun _ => not_setting (lo := 96) (by decide) (by omega) | exact fun _ => (by rw [rowOf_id]; first | assumption | exact not_setting (lo := 64) (by decide) (by omega) | exact not_setting (lo := 272) (by decide) (by omega)) | exact fun _ => not_setting (lo := 32) (by decide) (by omega)) | with_reducible apply State.answer_onward | with_reducible apply State.setFld_onward | with_reducible apply onward_ite | fail_if_no_progress with_reducible refine onward_mk ?_ rfl rfl rfl rfl rfl rfl rfl rfl rfl rfl rfl rfl rfl rfl | split | dsimp only

theorem execRestore_onward (h : s0.Onward kq False s) {e : Env} {m : CkptMsg} : ResOnward kq False s0 (execRestore e m s) := by
  unfold execRestore
  try dsimp only
  repeat' first | with_reducible assumption | intro _ | with_reducible exact onward_fault | with_reducible exact onward_refused | with_reducible apply onward_next | with_reducible apply State.message_onward | with_reducible apply State.restoreMsg_onward | with_reducible apply onward_ite | split | dsimp only

theorem State.restoreReg_onward (h : s0.Onward False kw s) {x : Snap} {k : RegKey} : s0.Onward False kw (State.restoreReg s x k) :=
  onward_regs h (fun c => regSet_wf c _ _) False.elim

theorem State.restoreRegs_onward (h : s0.Onward False False s) {x : Snap} : s0.Onward False False (State.restoreRegs s x) := by
  unfold State.restoreRegs
  try dsimp only
  repeat' first | with_reducible assumption | (show False → _ ∉ settings; first | exact False.elim | (with_reducible assumption) | exact fun _ => by decide | exact fun _ => mapReg_not_setting _ | exact fun _ => (by unfold gcBusy; split <;> decide) | exact fun _ => not_setting (lo := 272) (by decide) (by omega) | exact fun _ => not_setting (lo := 88) (by decide) (by omega) | exact fun _ => not_setting (lo := 64) (by decide) (by omega) | exact fun _ => not_setting (lo := 96) (by decide) (by omega) | exact fun _ => (by rw [rowOf_id]; first | assumption | exact not_setting (lo := 64) (by decide) (by omega) | exact not_setting (lo := 272) (by decide) (by omega)) | exact fun _ => not_setting (lo := 32) (by decide) (by omega)) | intro _ | with_reducible apply State.restoreReg_onward | with_reducible apply State.quotaTest_onward | with_reducible apply State.setFld_onward | with_reducible apply onward_ite | with_reducible apply onward_foldl | split | dsimp only

theorem State.restoreData_onward (h : s0.Onward False False s) {x : Snap}
    (hx : s0.Canonical → regsWf x.regs = true ∧ memWf x.t1a = true ∧ memWf x.t1b = true) : s0.Onward False False (State.restoreData s x) :=
  ⟨h.pending, h.now, h.fuses, fun c => ⟨(h.canonical c).1, (hx c).2.1, (hx c).2.2, (h.canonical c).2.2.2⟩, False.elim, False.elim⟩

theorem State.restoreBoundary_onward (h : s0.Onward kq False s) {saved : Nat} : s0.Onward kq False (State.restoreBoundary s saved) := by
  unfold State.restoreBoundary
  try dsimp only
  repeat' first | with_reducible assumption | (show kq → _ ∉ settings; first | exact False.elim | (with_reducible assumption) | exact fun _ => by decide | exact fun _ => mapReg_not_setting _ | exact fun _ => (by unfold gcBusy; split <;> decide) | exact fun _ => not_setting (lo := 272) (by decide) (by omega) | exact fun _ => not_setting (lo := 88) (by decide) (by omega) | exact fun _ => not_setting (lo := 64) (by decide) (by omega) | exact fun _ => not_setting (lo := 96) (by decide) (by omega) | exact fun _ => (by rw [rowOf_id]; first | assumption | exact not_setting (lo := 64) (by decide) (by omega) | exact not_setting (lo := 272) (by decide) (by omega)) | exact fun _ => not_setting (lo := 32) (by decide) (by omega)) | intro _ | with_reducible apply State.setFld_onward | with_reducible apply onward_ite | fail_if_no_progress with_reducible refine onward_mkw ?_ rfl rfl rfl rfl rfl rfl rfl rfl | split | dsimp only

theorem State.restorePins_onward (h : s0.Onward kq False s) : s0.Onward kq False (State.restorePins s) := by
  unfold State.restorePins
  try dsimp only
  repeat' first | with_reducible assumption | intro _ | with_reducible apply onward_ite | with_reducible apply onward_foldl | fail_if_no_progress with_reducible refine onward_mkw ?_ rfl rfl rfl rfl rfl rfl rfl rfl | split | dsimp only

theorem State.restoreWires_onward (h : s0.Onward kq kw s) : s0.Onward kq kw (State.restoreWires s) := by
  unfold State.restoreWires
  try dsimp only
  repeat' first | with_reducible assumption | (show kq → _ ∉ settings; first | exact False.elim | (with_reducible assumption) | exact fun _ => by decide | exact fun _ => mapReg_not_setting _ | exact fun _ => (by unfold gcBusy; split <;> decide) | exact fun _ => not_setting (lo := 272) (by decide) (by omega) | exact fun _ => not_setting (lo := 88) (by decide) (by omega) | exact fun _ => not_setting (lo := 64) (by decide) (by omega) | exact fun _ => not_setting (lo := 96) (by decide) (by omega) | exact fun _ => (by rw [rowOf_id]; first | assumption | exact not_setting (lo := 64) (by decide) (by omega) | exact not_setting (lo := 272) (by decide) (by omega)) | exact fun _ => not_setting (lo := 32) (by decide) (by omega)) | intro _ | with_reducible apply State.setReg_onward | with_reducible apply State.tlTest_onward | with_reducible apply onward_ite | with_reducible apply onward_foldl | split | dsimp only

theorem State.restoreScrubs_onward (h : s0.Onward kq kw s) : s0.Onward kq kw (State.restoreScrubs s) := by
  unfold State.restoreScrubs
  try dsimp only
  repeat' first | with_reducible assumption | intro _ | with_reducible apply State.nextFree_onward | with_reducible apply State.queueScrub_onward | with_reducible apply onward_ite | with_reducible apply onward_foldl | split | dsimp only

theorem State.startReplay_onward (h : s0.Onward kq kw s) {x : Snap} : s0.Onward kq kw (State.startReplay s x) := by
  unfold State.startReplay
  try dsimp only
  repeat' first | with_reducible assumption | (show kq → _ ∉ settings; first | exact False.elim | (with_reducible assumption) | exact fun _ => by decide | exact fun _ => mapReg_not_setting _ | exact fun _ => (by unfold gcBusy; split <;> decide) | exact fun _ => not_setting (lo := 272) (by decide) (by omega) | exact fun _ => not_setting (lo := 88) (by decide) (by omega) | exact fun _ => not_setting (lo := 64) (by decide) (by omega) | exact fun _ => not_setting (lo := 96) (by decide) (by omega) | exact fun _ => (by rw [rowOf_id]; first | assumption | exact not_setting (lo := 64) (by decide) (by omega) | exact not_setting (lo := 272) (by decide) (by omega)) | exact fun _ => not_setting (lo := 32) (by decide) (by omega)) | intro _ | with_reducible apply State.formed_onward | with_reducible apply State.setFld_onward | with_reducible apply State.setReg_onward | with_reducible apply onward_ite | fail_if_no_progress with_reducible refine onward_mk ?_ rfl rfl rfl rfl rfl rfl rfl rfl rfl rfl rfl rfl rfl rfl | split | dsimp only

theorem State.restoreSet_onward (h : s0.Onward False False s) {e : Env} {x : Snap}
    (hx : s0.Canonical → regsWf x.regs = true ∧ memWf x.t1a = true ∧ memWf x.t1b = true) : s0.Onward False False (State.restoreSet s e x) := by
  unfold State.restoreSet
  extract_lets c1 s1 s2 s3 s4 s5 s6 s7
  have h1 : s0.Onward False False s1 := onward_mkw h rfl rfl rfl rfl rfl rfl rfl rfl
  have h2 : s0.Onward False False s2 := State.setFld_onward (State.setFld_onward h1 False.elim) False.elim
  have h3 : s0.Onward False False s3 := State.restoreBoundary_onward (State.restoreRegs_onward (State.restoreData_onward h2 hx))
  have h4 : s0.Onward False False s4 := State.setStatus_onward (State.setFld_onward h3 False.elim)
  have h5 : s0.Onward False False s5 := State.restoreScrubs_onward (State.restoreWires_onward (State.restorePins_onward h4))
  have h7 : s0.Onward False False s7 := State.answer_onward (State.rebase_onward h5)
  exact State.pumpAll_onward (State.lateSweep_onward (State.raise_onward (State.startReplay_onward h7)))

theorem State.restoreFailed_onward (h : s0.Onward kq kw s) {e : Env} {shard off : Nat} : s0.Onward kq kw (State.restoreFailed s e shard off) := by
  unfold State.restoreFailed
  try dsimp only
  repeat' first | with_reducible assumption | (show kq → _ ∉ settings; first | exact False.elim | (with_reducible assumption) | exact fun _ => by decide | exact fun _ => mapReg_not_setting _ | exact fun _ => (by unfold gcBusy; split <;> decide) | exact fun _ => not_setting (lo := 272) (by decide) (by omega) | exact fun _ => not_setting (lo := 88) (by decide) (by omega) | exact fun _ => not_setting (lo := 64) (by decide) (by omega) | exact fun _ => not_setting (lo := 96) (by decide) (by omega) | exact fun _ => (by rw [rowOf_id]; first | assumption | exact not_setting (lo := 64) (by decide) (by omega) | exact not_setting (lo := 272) (by decide) (by omega)) | exact fun _ => not_setting (lo := 32) (by decide) (by omega)) | with_reducible apply State.setFld_onward | with_reducible apply State.answer_onward | with_reducible apply State.raise_onward | with_reducible apply onward_ite | fail_if_no_progress with_reducible refine onward_mk ?_ rfl rfl rfl rfl rfl rfl rfl rfl rfl rfl rfl rfl rfl rfl | split | dsimp only

theorem State.restoreEnd_onward (h : s0.Onward False False s) {fail : Option (Nat × Nat)} : s0.Onward False False (State.restoreEnd s fail) := by
  unfold State.restoreEnd
  repeat' first | with_reducible assumption | with_reducible apply State.restoreFailed_onward | split
  rename_i hx
  exact State.restoreSet_onward h (fun c => (h.canonical c).2.2.2 _ (List.mem_of_find?_eq_some hx))

theorem execRestoreComplete_onward (h : s0.Onward False False s) {t : Nat} {fail : Option (Nat × Nat)} : ResOnward False False s0 (execRestoreComplete t fail s) := by
  unfold execRestoreComplete
  try dsimp only
  repeat' first | with_reducible assumption | with_reducible exact onward_fault | with_reducible exact onward_refused | with_reducible apply onward_next | with_reducible apply State.tick_onward | with_reducible apply State.restoreEnd_onward | with_reducible apply onward_ite | split | dsimp only

end Sys2Proof.Machine
end

