-- ==== Sys2Proof/Laws/OnwardRegisters.lean ====
section
/-! SUPPORT. What the functions of Machine/Registers.lean keep: each answers a state its argument may go on to. -/

namespace Sys2Proof.Machine

set_option linter.unusedTactic false
set_option linter.unreachableTactic false

variable {kq kw : Prop} {s0 s : State}

/-- A row that is none of the settings, or of which a read clears nothing. -/
def RegRow.readSafe (r : RegRow) : Prop := r.id ∉ settings ∨ ∀ f ∈ r.fields, f.acc ≠ .rc

theorem regRows_readSafe (b : Nat) : ∀ r ∈ regRowsOf b, r.readSafe := by
  have h : (regRowsOf b).all (fun r => !settings.contains r.id || r.fields.all (fun f => f.acc != .rc)) = true := by
    unfold regRowsOf
    split <;> decide
  intro r hr
  have := List.all_eq_true.mp h r hr
  rw [Bool.or_eq_true] at this
  rcases this with h1 | h1
  · refine .inl (fun e => ?_)
    rw [List.contains_iff_mem.mpr e] at h1
    exact absurd h1 (by decide)
  · refine .inr (fun f hf => ?_)
    have := List.all_eq_true.mp h1 f hf
    exact bne_iff_ne.mp this

theorem mapAddr_readSafe {addr die : Nat} {r : RegRow} (h : mapAddr addr = some (die, r)) : r.readSafe := by
  unfold mapAddr at h
  split at h
  · exact nomatch h
  · split at h
    · rename_i x hx
      cases h
      unfold findRow at hx
      split at hx
      · rename_i y hy
        split at hx
        · cases hx
          exact regRows_readSafe _ _ (List.mem_of_find?_eq_some hy)
        · exact nomatch hx
      · exact nomatch hx
    · exact nomatch h

theorem csRows_readSafe {addr count : Nat} {p : Nat × RegRow} (h : p ∈ (csRows addr count).getD []) : p.2.readSafe := by
  unfold csRows at h
  dsimp only at h
  split at h
  · obtain ⟨o, ho, e⟩ := List.mem_filterMap.mp h
    obtain ⟨i, _, hi⟩ := List.mem_map.mp ho
    rw [show o = some p from e] at hi
    exact mapAddr_readSafe (die := p.1) hi
  · exact nomatch h

theorem State.clearRc_onward (h : s0.Onward kq kw s) {die sel : Nat} {r : RegRow} (hr : r.readSafe) : s0.Onward kq kw (State.clearRc s die sel r) := by
  unfold State.clearRc
  rcases hr with h1 | h1
  · exact State.setReg_onward h (fun _ => h1)
  · have hw : ∀ (l : List FieldRow) (w : Word), (∀ f ∈ l, f.acc ≠ .rc) → l.foldl (fun (w : Word) f => match f.acc with
        | .rc => w &&& ~~~f.mask
        | .ro | .rw | .rwl | .w1c | .wo => w) w = w := by
      intro l
      induction l with
      | nil => exact fun _ _ => rfl
      | cons f l ih =>
        intro w hl
        rw [List.foldl_cons, ih _ (fun g hg => hl g (List.mem_cons_of_mem _ hg))]
        have := hl f List.mem_cons_self
        split
        · exact absurd ‹_› this
        all_goals rfl
    have e : s0.Onward kq kw (s.setReg die sel r.id (s.reg die sel r.id)) → s0.Onward kq kw (s.setReg die sel r.id _) :=
      fun g => (congrArg (s.setReg die sel r.id) (hw r.fields (s.reg die sel r.id) h1)).symm ▸ g
    refine e ?_
    clear e
    refine onward_regs h (fun c => regSet_wf c _ _) (fun _ d i x _ => ?_)
    by_cases e : d = die ∧ i = sel ∧ x = r.id
    · obtain ⟨rfl, rfl, rfl⟩ := e
      exact reg_setReg_self s _ _ _ _
    · refine reg_setReg_ne s _ ?_
      by_cases h1 : d = die
      · by_cases h2 : i = sel
        · exact .inr (.inr (fun h3 => e ⟨h1, h2, h3⟩))
        · exact .inr (.inl h2)
      · exact .inl h1

theorem State.readEffect_onward (h : s0.Onward kq False s) {a : Acc} {sel : Nat} {r : RegRow} (hr : r.readSafe) : s0.Onward kq False (State.readEffect s a sel r) := by
  unfold State.readEffect
  exact onward_ite (State.takeHeld_onward h) (onward_ite (State.scrubNextEffect_onward h)
    (onward_ite (State.nextFree_onward (State.clearRc_onward h hr)) (State.clearRc_onward h hr)))

theorem State.readReg_onward (h : s0.Onward kq False s) {a : Acc} {r : RegRow} (hr : r.readSafe) : s0.Onward kq False (State.readReg s a r).1 := by
  unfold State.readReg
  split
  · exact State.readEffect_onward h hr
  · exact h

theorem execSesHeldNextRead_onward (h : s0.Onward kq False s) {a : Acc} : ResOnward kq False s0 (execSesHeldNextRead a s) := by
  unfold execSesHeldNextRead
  try dsimp only
  repeat' first | with_reducible assumption | intro _ | with_reducible exact onward_fault | with_reducible exact onward_refused | with_reducible apply onward_next | with_reducible apply State.regRead_onward | with_reducible apply State.takeHeld_onward | with_reducible apply onward_ite | refine onward_of_pair (by assumption) ?_ | split | dsimp only

theorem State.bcnCtrlEffect_onward (h : s0.Onward kq False s) {v : Word} : s0.Onward kq False (State.bcnCtrlEffect s v) := by
  unfold State.bcnCtrlEffect
  try dsimp only
  repeat' first | with_reducible assumption | (show kq → _ ∉ settings; first | exact False.elim | (with_reducible assumption) | exact fun _ => by decide | exact fun _ => mapReg_not_setting _ | exact fun _ => (by unfold gcBusy; split <;> decide) | exact fun _ => not_setting (lo := 272) (by decide) (by omega) | exact fun _ => not_setting (lo := 88) (by decide) (by omega) | exact fun _ => not_setting (lo := 64) (by decide) (by omega) | exact fun _ => not_setting (lo := 96) (by decide) (by omega) | exact fun _ => (by rw [rowOf_id]; first | assumption | exact not_setting (lo := 64) (by decide) (by omega) | exact not_setting (lo := 272) (by decide) (by omega)) | exact fun _ => not_setting (lo := 32) (by decide) (by omega)) | with_reducible apply State.store_onward | with_reducible apply State.enableWrite_onward | with_reducible apply State.rebaseWrite_onward | with_reducible apply onward_ite | split | dsimp only

theorem execBcnRebase_onward (h : s0.Onward kq False s) {a : Acc} {v : Word} : ResOnward kq False s0 (execBcnRebase a v s) := by
  unfold execBcnRebase
  try dsimp only
  repeat' first | with_reducible assumption | intro _ | with_reducible exact onward_fault | with_reducible exact onward_refused | with_reducible apply onward_next | with_reducible apply State.regWrite_onward | with_reducible apply State.bcnCtrlEffect_onward | with_reducible apply onward_ite | split | dsimp only

theorem execBcnEnableWrite_onward (h : s0.Onward kq False s) {a : Acc} {v : Word} : ResOnward kq False s0 (execBcnEnableWrite a v s) := by
  unfold execBcnEnableWrite
  try dsimp only
  repeat' first | with_reducible assumption | intro _ | with_reducible exact onward_fault | with_reducible exact onward_refused | with_reducible apply onward_next | with_reducible apply State.regWrite_onward | with_reducible apply State.bcnCtrlEffect_onward | with_reducible apply onward_ite | split | dsimp only

theorem State.quotaEffect_onward (h : s0.Onward kq False s) {die ctx tier : Nat} {r : RegRow} {v : Word} (hr : kq → r.id ∉ settings) : s0.Onward kq False (State.quotaEffect s die ctx tier r v) := by
  unfold State.quotaEffect
  try dsimp only
  repeat' first | with_reducible assumption | (show kq → _ ∉ settings; first | exact False.elim | (with_reducible assumption) | exact fun _ => by decide | exact fun _ => mapReg_not_setting _ | exact fun _ => (by unfold gcBusy; split <;> decide) | exact fun _ => not_setting (lo := 272) (by decide) (by omega) | exact fun _ => not_setting (lo := 88) (by decide) (by omega) | exact fun _ => not_setting (lo := 64) (by decide) (by omega) | exact fun _ => not_setting (lo := 96) (by decide) (by omega) | exact fun _ => (by rw [rowOf_id]; first | assumption | exact not_setting (lo := 64) (by decide) (by omega) | exact not_setting (lo := 272) (by decide) (by omega)) | exact fun _ => not_setting (lo := 32) (by decide) (by omega)) | with_reducible apply State.store_onward | with_reducible apply State.quotaTest_onward | with_reducible apply onward_ite | split | dsimp only

theorem execCtxQuotaWrite_onward (h : s0.Onward kq False s) {a : Acc} {tier : Nat} {v : Word} : ResOnward kq False s0 (execCtxQuotaWrite a tier v s) := by
  unfold execCtxQuotaWrite
  try dsimp only
  repeat' first | with_reducible assumption | (show kq → _ ∉ settings; first | exact False.elim | (with_reducible assumption) | exact fun _ => by decide | exact fun _ => mapReg_not_setting _ | exact fun _ => (by unfold gcBusy; split <;> decide) | exact fun _ => not_setting (lo := 272) (by decide) (by omega) | exact fun _ => not_setting (lo := 88) (by decide) (by omega) | exact fun _ => not_setting (lo := 64) (by decide) (by omega) | exact fun _ => not_setting (lo := 96) (by decide) (by omega) | exact fun _ => (by rw [rowOf_id]; first | assumption | exact not_setting (lo := 64) (by decide) (by omega) | exact not_setting (lo := 272) (by decide) (by omega)) | exact fun _ => not_setting (lo := 32) (by decide) (by omega)) | intro _ | with_reducible exact onward_fault | with_reducible exact onward_refused | with_reducible apply onward_next | with_reducible apply State.regWrite_onward | with_reducible apply State.quotaEffect_onward | with_reducible apply onward_ite | split | dsimp only

theorem execXlInval_onward (h : s0.Onward kq False s) {a : Acc} {v : Word} : ResOnward kq False s0 (execXlInval a v s) := by
  unfold execXlInval
  try dsimp only
  repeat' first | with_reducible assumption | intro _ | with_reducible exact onward_fault | with_reducible exact onward_refused | with_reducible apply onward_next | with_reducible apply State.regWrite_onward | with_reducible apply State.inval_onward | with_reducible apply onward_ite | split | dsimp only

theorem State.probeEffect_onward (h : s0.Onward kq kw s) {die : Nat} {v : Word} : s0.Onward kq kw (State.probeEffect s die v) := by
  unfold State.probeEffect
  try dsimp only
  repeat' first | with_reducible assumption | (show kq → _ ∉ settings; first | exact False.elim | (with_reducible assumption) | exact fun _ => by decide | exact fun _ => mapReg_not_setting _ | exact fun _ => (by unfold gcBusy; split <;> decide) | exact fun _ => not_setting (lo := 272) (by decide) (by omega) | exact fun _ => not_setting (lo := 88) (by decide) (by omega) | exact fun _ => not_setting (lo := 64) (by decide) (by omega) | exact fun _ => not_setting (lo := 96) (by decide) (by omega) | exact fun _ => (by rw [rowOf_id]; first | assumption | exact not_setting (lo := 64) (by decide) (by omega) | exact not_setting (lo := 272) (by decide) (by omega)) | exact fun _ => not_setting (lo := 32) (by decide) (by omega)) | with_reducible apply State.store_onward | with_reducible apply State.probe_onward | with_reducible apply onward_ite | split | dsimp only

theorem execXlProbe_onward (h : s0.Onward kq kw s) {a : Acc} {v : Word} : ResOnward kq kw s0 (execXlProbe a v s) := by
  unfold execXlProbe
  try dsimp only
  repeat' first | with_reducible assumption | intro _ | with_reducible exact onward_fault | with_reducible exact onward_refused | with_reducible apply onward_next | with_reducible apply State.regWrite_onward | with_reducible apply State.probeEffect_onward | with_reducible apply onward_ite | split | dsimp only

theorem State.windowEffect_onward (h : s0.Onward kq kw s) {sel n : Nat} {v : Word} : s0.Onward kq kw (State.windowEffect s sel n v) := by
  unfold State.windowEffect
  try dsimp only
  repeat' first | with_reducible assumption | with_reducible apply onward_ite | fail_if_no_progress with_reducible refine onward_mk ?_ rfl rfl rfl rfl rfl rfl rfl rfl rfl rfl rfl rfl rfl rfl | split | dsimp only

theorem State.rpCtrlEffect_onward (h : s0.Onward kq kw s) {v : Word} : s0.Onward kq kw (State.rpCtrlEffect s v) := by
  unfold State.rpCtrlEffect
  try dsimp only
  repeat' first | with_reducible assumption | (show kq → _ ∉ settings; first | exact False.elim | (with_reducible assumption) | exact fun _ => by decide | exact fun _ => mapReg_not_setting _ | exact fun _ => (by unfold gcBusy; split <;> decide) | exact fun _ => not_setting (lo := 272) (by decide) (by omega) | exact fun _ => not_setting (lo := 88) (by decide) (by omega) | exact fun _ => not_setting (lo := 64) (by decide) (by omega) | exact fun _ => not_setting (lo := 96) (by decide) (by omega) | exact fun _ => (by rw [rowOf_id]; first | assumption | exact not_setting (lo := 64) (by decide) (by omega) | exact not_setting (lo := 272) (by decide) (by omega)) | exact fun _ => not_setting (lo := 32) (by decide) (by omega)) | with_reducible apply State.store_onward | with_reducible apply State.closeRec_onward | with_reducible apply State.setFld_onward | with_reducible apply onward_ite | split | dsimp only

theorem execRecordArm_onward (h : s0.Onward kq kw s) {a : Acc} {v : Word} : ResOnward kq kw s0 (execRecordArm a v s) := by
  unfold execRecordArm
  try dsimp only
  repeat' first | with_reducible assumption | intro _ | with_reducible exact onward_fault | with_reducible exact onward_refused | with_reducible apply onward_next | with_reducible apply State.regWrite_onward | with_reducible apply State.rpCtrlEffect_onward | with_reducible apply onward_ite | split | dsimp only

theorem execRecordStop_onward (h : s0.Onward kq kw s) {a : Acc} {v : Word} : ResOnward kq kw s0 (execRecordStop a v s) := by
  unfold execRecordStop
  try dsimp only
  repeat' first | with_reducible assumption | intro _ | with_reducible exact onward_fault | with_reducible exact onward_refused | with_reducible apply onward_next | with_reducible apply State.regWrite_onward | with_reducible apply State.rpCtrlEffect_onward | with_reducible apply onward_ite | split | dsimp only

theorem execReplayArm_onward (h : s0.Onward kq kw s) {a : Acc} {v : Word} : ResOnward kq kw s0 (execReplayArm a v s) := by
  unfold execReplayArm
  try dsimp only
  repeat' first | with_reducible assumption | intro _ | with_reducible exact onward_fault | with_reducible exact onward_refused | with_reducible apply onward_next | with_reducible apply State.regWrite_onward | with_reducible apply State.rpCtrlEffect_onward | with_reducible apply onward_ite | split | dsimp only

theorem State.writeLow_onward (h : s0.Onward False False s) {a : Acc} {sel : Nat} {r : RegRow} {v : Word} {p : Option PendingIdx} : OptOnward False False s0 (State.writeLow s a sel r v p) := by
  unfold State.writeLow
  try dsimp only
  repeat' first | with_reducible assumption | (show False → _ ∉ settings; first | exact False.elim | (with_reducible assumption) | exact fun _ => by decide | exact fun _ => mapReg_not_setting _ | exact fun _ => (by unfold gcBusy; split <;> decide) | exact fun _ => not_setting (lo := 272) (by decide) (by omega) | exact fun _ => not_setting (lo := 88) (by decide) (by omega) | exact fun _ => not_setting (lo := 64) (by decide) (by omega) | exact fun _ => not_setting (lo := 96) (by decide) (by omega) | exact fun _ => (by rw [rowOf_id]; first | assumption | exact not_setting (lo := 64) (by decide) (by omega) | exact not_setting (lo := 272) (by decide) (by omega)) | exact fun _ => not_setting (lo := 32) (by decide) (by omega)) | with_reducible apply onward_ite_opt | with_reducible exact onward_none | with_reducible apply onward_some | with_reducible apply State.modeEffect_onward | with_reducible apply State.bcnCtrlEffect_onward | with_reducible apply State.quotaEffect_onward | with_reducible apply State.inval_onward | with_reducible apply State.probeEffect_onward | with_reducible apply State.store_onward | with_reducible apply State.evictTest_onward | with_reducible apply State.mcDegradeEffect_onward | with_reducible apply State.retireEffect_onward | with_reducible apply State.testEffect_onward | with_reducible apply State.wkDegradeEffect_onward | with_reducible apply State.gcEffect_onward | with_reducible apply State.mergeEffect_onward | with_reducible apply onward_ite | split | dsimp only

theorem State.writeHigh_onward (h : s0.Onward False False s) {a : Acc} {sel : Nat} {r : RegRow} {v : Word} : OptOnward False False s0 (State.writeHigh s a sel r v) := by
  unfold State.writeHigh
  try dsimp only
  repeat' first | with_reducible assumption | (show False → _ ∉ settings; first | exact False.elim | (with_reducible assumption) | exact fun _ => by decide | exact fun _ => mapReg_not_setting _ | exact fun _ => (by unfold gcBusy; split <;> decide) | exact fun _ => not_setting (lo := 272) (by decide) (by omega) | exact fun _ => not_setting (lo := 88) (by decide) (by omega) | exact fun _ => not_setting (lo := 64) (by decide) (by omega) | exact fun _ => not_setting (lo := 96) (by decide) (by omega) | exact fun _ => (by rw [rowOf_id]; first | assumption | exact not_setting (lo := 64) (by decide) (by omega) | exact not_setting (lo := 272) (by decide) (by omega)) | exact fun _ => not_setting (lo := 32) (by decide) (by omega)) | with_reducible apply onward_ite_opt | with_reducible exact onward_none | with_reducible apply onward_some | with_reducible apply State.shaperEffect_onward | with_reducible apply State.settle_onward | with_reducible apply State.store_onward | with_reducible apply State.pick_onward | with_reducible apply State.formResults_onward | with_reducible apply State.gateCtrlEffect_onward | with_reducible apply State.tlDescEffect_onward | with_reducible apply State.tlPairEffect_onward | with_reducible apply State.tlAddEffect_onward | with_reducible apply State.tlFireEffect_onward | with_reducible apply State.tlSleepEffect_onward | with_reducible apply State.fillEffect_onward | with_reducible apply State.scrubDoneEffect_onward | with_reducible apply State.svcGo_onward | with_reducible apply State.ctxCtrlEffect_onward | with_reducible apply State.reportEffect_onward | with_reducible apply State.lcEffect_onward | with_reducible apply State.nextFree_onward | with_reducible apply State.keygenEffect_onward | with_reducible apply State.windowEffect_onward | with_reducible apply State.kickEffect_onward | with_reducible apply State.rowSpareEffect_onward | with_reducible apply State.planEffect_onward | with_reducible apply State.alertEffect_onward | with_reducible apply State.rpCtrlEffect_onward | with_reducible apply State.vack_onward | with_reducible apply onward_ite | split | dsimp only

theorem State.writeEffect_onward (h : s0.Onward False False s) {a : Acc} {sel : Nat} {r : RegRow} {v : Word} {p : Option PendingIdx} : s0.Onward False False (State.writeEffect s a sel r v p) := by
  unfold State.writeEffect
  try dsimp only
  repeat' first | with_reducible assumption | (show False → _ ∉ settings; first | exact False.elim | (with_reducible assumption) | exact fun _ => by decide | exact fun _ => mapReg_not_setting _ | exact fun _ => (by unfold gcBusy; split <;> decide) | exact fun _ => not_setting (lo := 272) (by decide) (by omega) | exact fun _ => not_setting (lo := 88) (by decide) (by omega) | exact fun _ => not_setting (lo := 64) (by decide) (by omega) | exact fun _ => not_setting (lo := 96) (by decide) (by omega) | exact fun _ => (by rw [rowOf_id]; first | assumption | exact not_setting (lo := 64) (by decide) (by omega) | exact not_setting (lo := 272) (by decide) (by omega)) | exact fun _ => not_setting (lo := 32) (by decide) (by omega)) | with_reducible apply State.writeLow_onward | with_reducible apply State.writeHigh_onward | with_reducible apply State.store_onward | with_reducible apply onward_ite | with_reducible apply onward_getD | refine onward_of_some (by assumption) ?_ | split | dsimp only

theorem State.writeReg_onward (h : s0.Onward False False s) {a : Acc} {r : RegRow} {v : Word} {p : Option PendingIdx} : s0.Onward False False (State.writeReg s a r v p) := by
  unfold State.writeReg
  try dsimp only
  repeat' first | with_reducible assumption | intro _ | with_reducible apply State.regWrite_onward | with_reducible apply State.writeEffect_onward | with_reducible apply onward_ite | split | dsimp only

theorem execRegisterWrite_onward (h : s0.Onward False False s) {a : Acc} {addr : Nat} {v : Word} : ResOnward False False s0 (execRegisterWrite a addr v s) := by
  unfold execRegisterWrite
  try dsimp only
  repeat' first | with_reducible assumption | with_reducible exact onward_fault | with_reducible exact onward_refused | with_reducible apply onward_next | with_reducible apply State.writeReg_onward | with_reducible apply State.tick_onward | with_reducible apply State.fwLimit_onward | with_reducible apply onward_ite | fail_if_no_progress with_reducible refine onward_mkw ?_ rfl rfl rfl rfl rfl rfl rfl rfl | split | dsimp only

theorem State.csReads_onward (h : s0.Onward kq False s) {e : Env} {l : List (Nat × RegRow)} (hl : ∀ p ∈ l, p.2.readSafe) :
    s0.Onward kq False (State.csReads s e l).1 := by
  have go : ∀ (l : List (Nat × RegRow)) (x : State × List Byte), s0.Onward kq False x.1 → (∀ p ∈ l, p.2.readSafe) →
      s0.Onward kq False (l.foldl (fun (x : State × List Byte) p =>
        let y := x.1.readReg ⟨e.t, .ep e.ep, p.1⟩ p.2
        (y.1, x.2 ++ le 8 y.2.toNat)) x).1 := by
    intro l
    induction l with
    | nil => exact fun _ h _ => h
    | cons p l ih => exact fun x h hl => ih _ (State.readReg_onward h (hl p List.mem_cons_self)) (fun q hq => hl q (List.mem_cons_of_mem _ hq))
  exact go l _ h hl

theorem State.csReadRun_onward (h : s0.Onward kq False s) {e : Env} {m : CsMsg} : s0.Onward kq False (State.csReadRun s e m) := by
  unfold State.csReadRun
  split
  · exact State.answer_onward h
  · exact State.answer_onward (State.csReads_onward h (fun p hp => csRows_readSafe hp))

theorem execCsRead_onward (h : s0.Onward kq False s) {e : Env} {m : CsMsg} : ResOnward kq False s0 (execCsRead e m s) := by
  unfold execCsRead
  try dsimp only
  repeat' first | with_reducible assumption | intro _ | with_reducible exact onward_fault | with_reducible exact onward_refused | with_reducible apply onward_next | with_reducible apply State.message_onward | with_reducible apply State.csReadRun_onward | with_reducible apply onward_ite | split | dsimp only

theorem State.csWriteRun_onward (h : s0.Onward False False s) {e : Env} {m : CsMsg} : s0.Onward False False (State.csWriteRun s e m) := by
  unfold State.csWriteRun
  try dsimp only
  repeat' first | with_reducible assumption | intro _ | with_reducible apply State.answer_onward | with_reducible apply State.writeReg_onward | with_reducible apply onward_ite | with_reducible apply onward_getD | with_reducible apply onward_foldl | fail_if_no_progress with_reducible refine onward_mkw ?_ rfl rfl rfl rfl rfl rfl rfl rfl | split | dsimp only

theorem execCsWrite_onward (h : s0.Onward False False s) {e : Env} {m : CsMsg} : ResOnward False False s0 (execCsWrite e m s) := by
  unfold execCsWrite
  try dsimp only
  repeat' first | with_reducible assumption | intro _ | with_reducible exact onward_fault | with_reducible exact onward_refused | with_reducible apply onward_next | with_reducible apply State.message_onward | with_reducible apply State.csWriteRun_onward | with_reducible apply onward_ite | split | dsimp only

theorem State.sbOutcome_onward (h : s0.Onward kq kw s) {status : Nat} {data : Word} : s0.Onward kq kw (State.sbOutcome s status data) := by
  unfold State.sbOutcome
  try dsimp only
  repeat' first | with_reducible assumption | with_reducible apply onward_ite | fail_if_no_progress with_reducible refine onward_mk ?_ rfl rfl rfl rfl rfl rfl rfl rfl rfl rfl rfl rfl rfl rfl | split | dsimp only

theorem State.sbWrite_onward (h : s0.Onward False False s) {t size addr : Nat} {v : Word} : s0.Onward False False (State.sbWrite s t size addr v) := by
  unfold State.sbWrite
  try dsimp only
  repeat' first | with_reducible assumption | with_reducible apply State.sbOutcome_onward | with_reducible apply State.writeReg_onward | with_reducible apply onward_ite | fail_if_no_progress with_reducible refine onward_mkw ?_ rfl rfl rfl rfl rfl rfl rfl rfl | split | dsimp only

theorem execSidebandWrite_onward (h : s0.Onward False False s) {t size addr : Nat} {data : Word} : ResOnward False False s0 (execSidebandWrite t size addr data s) := by
  unfold execSidebandWrite
  try dsimp only
  repeat' first | with_reducible assumption | with_reducible exact onward_fault | with_reducible exact onward_refused | with_reducible apply onward_next | with_reducible apply State.tick_onward | with_reducible apply State.sbWrite_onward | with_reducible apply onward_ite | split | dsimp only

theorem State.sbRead_onward (h : s0.Onward kq False s) {t size addr : Nat} : s0.Onward kq False (State.sbRead s t size addr) := by
  unfold State.sbRead
  split
  · exact State.sbOutcome_onward h
  · rename_i die r hm
    split at hm
    · split
      · exact State.sbOutcome_onward (State.readReg_onward h (mapAddr_readSafe hm))
      all_goals exact State.sbOutcome_onward h
    · exact nomatch hm

theorem execSidebandRead_onward (h : s0.Onward kq False s) {t size addr : Nat} : ResOnward kq False s0 (execSidebandRead t size addr s) := by
  unfold execSidebandRead
  try dsimp only
  repeat' first | with_reducible assumption | with_reducible exact onward_fault | with_reducible exact onward_refused | with_reducible apply onward_next | with_reducible apply State.tick_onward | with_reducible apply State.sbRead_onward | with_reducible apply onward_ite | split | dsimp only

end Sys2Proof.Machine
end

