-- ==== Sys2Proof/Laws/OnwardReplay.lean ====
section
/-! SUPPORT. What the functions of Machine/Replay.lean keep: each answers a state its argument may go on to. -/

namespace Sys2Proof.Machine

set_option linter.unusedTactic false
set_option linter.unreachableTactic false

variable {kq kw : Prop} {s0 s : State}

theorem runMessage_onward (h : s0.Onward False False s) {t : Nat} {c : Instr} : ResOnward False False s0 (runMessage t c s) := by
  unfold runMessage
  try dsimp only
  repeat' first | with_reducible assumption | with_reducible exact onward_fault | with_reducible exact onward_refused | with_reducible apply onward_next | with_reducible apply execSessionOpen_onward | with_reducible apply execSessionClose_onward | with_reducible apply execHandover_onward | with_reducible apply execLeaseRenew_onward | with_reducible apply execPark_onward | with_reducible apply execWake_onward | with_reducible apply execKvAppendInline_onward | with_reducible apply execKvAppendRdma_onward | with_reducible apply execLink_onward | with_reducible apply execTruncate_onward | with_reducible apply execPin_onward | with_reducible apply execUnpin_onward | with_reducible apply execAttend_onward | with_reducible apply execResultFetch_onward | with_reducible apply execResultRelease_onward | with_reducible apply execDraw_onward | with_reducible apply execFeed_onward | with_reducible apply execGrammar_onward | with_reducible apply execFinReset_onward | with_reducible apply execSearch_onward | with_reducible apply execInsert_onward | with_reducible apply execDelete_onward | with_reducible apply execCsRead_onward | with_reducible apply execCsWrite_onward | with_reducible apply execEvent_onward | with_reducible apply execTallyAdd_onward | with_reducible apply execTallyAdvance_onward | with_reducible apply execTallyRead_onward | with_reducible apply execCheckpointTake_onward | with_reducible apply execCheckpointDiscard_onward | with_reducible apply execRestore_onward | with_reducible apply onward_ite | fail_if_no_progress with_reducible refine onward_mkw ?_ rfl rfl rfl rfl rfl rfl rfl rfl | split | dsimp only

theorem State.injected_onward (h : s0.Onward kq kw s) {r : Rec} : s0.Onward kq kw (State.injected s r) := by
  unfold State.injected
  try dsimp only
  repeat' first | with_reducible assumption | (show kq → _ ∉ settings; first | exact False.elim | (with_reducible assumption) | exact fun _ => by decide | exact fun _ => mapReg_not_setting _ | exact fun _ => (by unfold gcBusy; split <;> decide) | exact fun _ => not_setting (lo := 272) (by decide) (by omega) | exact fun _ => not_setting (lo := 88) (by decide) (by omega) | exact fun _ => not_setting (lo := 64) (by decide) (by omega) | exact fun _ => not_setting (lo := 96) (by decide) (by omega) | exact fun _ => (by rw [rowOf_id]; first | assumption | exact not_setting (lo := 64) (by decide) (by omega) | exact not_setting (lo := 272) (by decide) (by omega)) | exact fun _ => not_setting (lo := 32) (by decide) (by omega)) | with_reducible apply State.setReg_onward | with_reducible apply onward_ite | fail_if_no_progress with_reducible refine onward_mk ?_ rfl rfl rfl rfl rfl rfl rfl rfl rfl rfl rfl rfl rfl rfl | split | dsimp only

theorem State.heldBack_onward (h : s0.Onward kq kw s) : s0.Onward kq kw (State.heldBack s) := by
  unfold State.heldBack
  try dsimp only
  repeat' first | with_reducible assumption | (show kq → _ ∉ settings; first | exact False.elim | (with_reducible assumption) | exact fun _ => by decide | exact fun _ => mapReg_not_setting _ | exact fun _ => (by unfold gcBusy; split <;> decide) | exact fun _ => not_setting (lo := 272) (by decide) (by omega) | exact fun _ => not_setting (lo := 88) (by decide) (by omega) | exact fun _ => not_setting (lo := 64) (by decide) (by omega) | exact fun _ => not_setting (lo := 96) (by decide) (by omega) | exact fun _ => (by rw [rowOf_id]; first | assumption | exact not_setting (lo := 64) (by decide) (by omega) | exact not_setting (lo := 272) (by decide) (by omega)) | exact fun _ => not_setting (lo := 32) (by decide) (by omega)) | with_reducible apply State.bump_onward | with_reducible apply onward_ite | fail_if_no_progress with_reducible refine onward_mk ?_ rfl rfl rfl rfl rfl rfl rfl rfl rfl rfl rfl rfl rfl rfl | split | dsimp only

theorem State.injectMessage_onward (h : s0.Onward False False s) {r : Rec} {c : Instr} : s0.Onward False False (State.injectMessage s r c) := by
  unfold State.injectMessage
  try dsimp only
  repeat' first | with_reducible assumption | (show False → _ ∉ settings; first | exact False.elim | (with_reducible assumption) | exact fun _ => by decide | exact fun _ => mapReg_not_setting _ | exact fun _ => (by unfold gcBusy; split <;> decide) | exact fun _ => not_setting (lo := 272) (by decide) (by omega) | exact fun _ => not_setting (lo := 88) (by decide) (by omega) | exact fun _ => not_setting (lo := 64) (by decide) (by omega) | exact fun _ => not_setting (lo := 96) (by decide) (by omega) | exact fun _ => (by rw [rowOf_id]; first | assumption | exact not_setting (lo := 64) (by decide) (by omega) | exact not_setting (lo := 272) (by decide) (by omega)) | exact fun _ => not_setting (lo := 32) (by decide) (by omega)) | with_reducible apply State.bump_onward | with_reducible apply State.injected_onward | with_reducible apply runMessage_onward | with_reducible apply State.heldBack_onward | with_reducible apply onward_ite | fail_if_no_progress with_reducible refine onward_mkw ?_ rfl rfl rfl rfl rfl rfl rfl rfl | refine onward_of_next (by assumption) ?_ | split | dsimp only

theorem State.injectObject_onward (h : s0.Onward kq kw s) {r : Rec} {o : IngestObj} : s0.Onward kq kw (State.injectObject s r o) := by
  unfold State.injectObject
  try dsimp only
  repeat' first | with_reducible assumption | with_reducible apply State.placeObj_onward | with_reducible apply onward_ite | split | dsimp only

theorem State.injectBeacon_onward (h : s0.Onward False False s) {w : HistRec} : s0.Onward False False (State.injectBeacon s w) := by
  unfold State.injectBeacon
  try dsimp only
  repeat' first | with_reducible assumption | with_reducible apply State.setBcn_onward | with_reducible apply State.acceptWord_onward | with_reducible apply onward_ite | fail_if_no_progress with_reducible refine onward_mkw ?_ rfl rfl rfl rfl rfl rfl rfl rfl | split | dsimp only

theorem State.injectWrite_onward (h : s0.Onward False False s) {die addr : Nat} {v : Word} {core : Nat} {p : Option PendingIdx} : s0.Onward False False (State.injectWrite s die addr v core p) := by
  unfold State.injectWrite
  try dsimp only
  repeat' first | with_reducible assumption | with_reducible apply State.writeEffect_onward | with_reducible apply onward_ite | fail_if_no_progress with_reducible refine onward_mkw ?_ rfl rfl rfl rfl rfl rfl rfl rfl | split | dsimp only

theorem State.injectSideband_onward (h : s0.Onward False False s) {addr : Nat} {v : Word} : s0.Onward False False (State.injectSideband s addr v) := by
  unfold State.injectSideband
  try dsimp only
  repeat' first | with_reducible assumption | with_reducible apply State.writeReg_onward | with_reducible apply onward_ite | fail_if_no_progress with_reducible refine onward_mkw ?_ rfl rfl rfl rfl rfl rfl rfl rfl | split | dsimp only

theorem State.inject_onward (h : s0.Onward False False s) {r : Rec} : s0.Onward False False (State.inject s r) := by
  unfold State.inject
  try dsimp only
  repeat' first | with_reducible assumption | with_reducible apply State.message_onward | with_reducible apply State.injectMessage_onward | with_reducible apply State.injectObject_onward | with_reducible apply State.injected_onward | with_reducible apply State.injectBeacon_onward | with_reducible apply State.injectWrite_onward | with_reducible apply State.injectSideband_onward | with_reducible apply onward_ite | fail_if_no_progress with_reducible refine onward_mkw ?_ rfl rfl rfl rfl rfl rfl rfl rfl | split | dsimp only

theorem State.replayDone_onward (h : s0.Onward kq False s) : s0.Onward kq False (State.replayDone s) := by
  unfold State.replayDone
  try dsimp only
  repeat' first | with_reducible assumption | (show kq → _ ∉ settings; first | exact False.elim | (with_reducible assumption) | exact fun _ => by decide | exact fun _ => mapReg_not_setting _ | exact fun _ => (by unfold gcBusy; split <;> decide) | exact fun _ => not_setting (lo := 272) (by decide) (by omega) | exact fun _ => not_setting (lo := 88) (by decide) (by omega) | exact fun _ => not_setting (lo := 64) (by decide) (by omega) | exact fun _ => not_setting (lo := 96) (by decide) (by omega) | exact fun _ => (by rw [rowOf_id]; first | assumption | exact not_setting (lo := 64) (by decide) (by omega) | exact not_setting (lo := 272) (by decide) (by omega)) | exact fun _ => not_setting (lo := 32) (by decide) (by omega)) | intro _ | with_reducible apply State.formResults_onward | with_reducible apply State.diverge_onward | with_reducible apply State.setBcn_onward | with_reducible apply State.setFld_onward | with_reducible apply State.raise_onward | with_reducible apply onward_ite | with_reducible apply onward_foldl | fail_if_no_progress with_reducible refine onward_mkw ?_ rfl rfl rfl rfl rfl rfl rfl rfl | split | dsimp only

theorem execReplayInject_onward (h : s0.Onward False False s) {t : Nat} : ResOnward False False s0 (execReplayInject t s) := by
  unfold execReplayInject
  try dsimp only
  repeat' first | with_reducible assumption | with_reducible exact onward_fault | with_reducible exact onward_refused | with_reducible apply onward_next | with_reducible apply State.tick_onward | with_reducible apply State.fireDue_onward | with_reducible apply State.replayDone_onward | with_reducible apply State.inject_onward | with_reducible apply onward_ite | fail_if_no_progress with_reducible refine onward_mkw ?_ rfl rfl rfl rfl rfl rfl rfl rfl | split | dsimp only

end Sys2Proof.Machine
end

