-- ==== Sys2Proof/Laws/OnwardDispatch.lean ====
section
/-! SUPPORT. What the functions of Machine/Dispatch.lean keep: each answers a state its argument may go on to. -/

namespace Sys2Proof.Machine

set_option linter.unusedTactic false
set_option linter.unreachableTactic false

variable {kq kw : Prop} {s0 s : State}

/-- Whatever a command does, its next state is one to go on to. -/
theorem exec_onward (i : Instr) (h : s0.Onward (unsettling i = false) (sparing i = true) s) : ResOnward (unsettling i = false) (sparing i = true) s0 (exec i s) := by
  cases i with
  | beaconPinWord => exact res_stirring (fun e => nomatch (show false = true from e)) (execBeaconPinWord_onward (onward_plain h))
  | beaconEcho => exact res_stirring (fun e => nomatch (show false = true from e)) (execBeaconEcho_onward (onward_plain h))
  | beaconFrame => exact res_stirring (fun e => nomatch (show false = true from e)) (execBeaconFrame_onward (onward_plain h))
  | backLimitReached => exact res_stirring (fun e => nomatch (show false = true from e)) (execBackLimitReached_onward (onward_plain h))
  | pinLossTimeout => exact res_stirring (fun e => nomatch (show false = true from e)) (execPinLossTimeout_onward (onward_plain h))
  | beaconLossTimeout => exact res_stirring (fun e => nomatch (show false = true from e)) (execBeaconLossTimeout_onward (onward_plain h))
  | coastLimit => exact res_stirring (fun e => nomatch (show false = true from e)) (execCoastLimit_onward (onward_plain h))
  | bcnRebase => exact res_stirring (fun e => nomatch (show false = true from e)) (execBcnRebase_onward (onward_plain h))
  | bcnEnableWrite => exact res_stirring (fun e => nomatch (show false = true from e)) (execBcnEnableWrite_onward (onward_plain h))
  | stepBoundaryBookkeeping => exact res_stirring (fun e => nomatch (show false = true from e)) (execStepBoundaryBookkeeping_onward (onward_plain h))
  | leaseExpiry => exact res_stirring (fun e => nomatch (show false = true from e)) (execLeaseExpiry_onward (onward_plain h))
  | checkpointTick => exact res_stirring (fun e => nomatch (show false = true from e)) (execCheckpointTick_onward (onward_plain h))
  | gateOpen _ x1 x2 => exact res_stirring (fun e => nomatch (show false = true from e)) (execGateOpen_onward (onward_plain h) (_port := x1) (_entry := x2))
  | gateClose _ x1 x2 => exact res_stirring (fun e => nomatch (show false = true from e)) (execGateClose_onward (onward_plain h) (_port := x1) (_entry := x2))
  | promotionTrigger _ x1 x2 => exact res_stirring (fun e => nomatch (show false = true from e)) (execPromotionTrigger_onward (onward_plain h) (_slot := x1) (_layer := x2))
  | prefetchTrigger _ x1 x2 => exact res_stirring (fun e => nomatch (show false = true from e)) (execPrefetchTrigger_onward (onward_plain h) (_slot := x1) (_layer := x2))
  | t0CopyRelease => exact res_stirring (fun e => nomatch (show false = true from e)) (execT0CopyRelease_onward (onward_plain h))
  | sessionOpen => exact res_stirring (fun e => nomatch (show false = true from e)) (execSessionOpen_onward (onward_plain h))
  | sessionClose => exact res_stirring (fun e => nomatch (show false = true from e)) (execSessionClose_onward (onward_plain h))
  | handover => exact res_stirring (fun e => nomatch (show false = true from e)) (execHandover_onward (onward_plain h))
  | leaseRenew => exact res_stirring (fun e => nomatch (show false = true from e)) (execLeaseRenew_onward (onward_plain h))
  | park => exact res_stirring (fun e => nomatch (show false = true from e)) (execPark_onward (onward_plain h))
  | wake => exact res_stirring (fun e => nomatch (show false = true from e)) (execWake_onward (onward_plain h))
  | sesHeldNextRead => exact res_stirring (fun e => nomatch (show false = true from e)) (execSesHeldNextRead_onward (onward_plain h))
  | ctxQuotaWrite => exact res_stirring (fun e => nomatch (show false = true from e)) (execCtxQuotaWrite_onward (onward_plain h))
  | kvAppendInline => exact res_stirring (fun e => nomatch (show false = true from e)) (execKvAppendInline_onward (onward_plain h))
  | kvAppendRdma => exact res_stirring (fun e => nomatch (show false = true from e)) (execKvAppendRdma_onward (onward_plain h))
  | link => exact res_stirring (fun e => nomatch (show false = true from e)) (execLink_onward (onward_plain h))
  | truncate => exact res_stirring (fun e => nomatch (show false = true from e)) (execTruncate_onward (onward_plain h))
  | pin => exact res_stirring (fun e => nomatch (show false = true from e)) (execPin_onward (onward_plain h))
  | unpin => exact res_stirring (fun e => nomatch (show false = true from e)) (execUnpin_onward (onward_plain h))
  | stagingEvict => exact res_stirring (fun e => nomatch (show false = true from e)) (execStagingEvict_onward (onward_plain h))
  | ageingSweep => exact res_stirring (fun e => nomatch (show false = true from e)) (execAgeingSweep_onward (onward_plain h))
  | xlInval => exact res_stirring (fun e => nomatch (show false = true from e)) (execXlInval_onward (onward_plain h))
  | xlProbe => exact execXlProbe_onward h
  | attend => exact res_stirring (fun e => nomatch (show false = true from e)) (execAttend_onward (onward_plain h))
  | resultFetch => exact res_stirring (fun e => nomatch (show false = true from e)) (execResultFetch_onward (onward_plain h))
  | resultRelease => exact res_stirring (fun e => nomatch (show false = true from e)) (execResultRelease_onward (onward_plain h))
  | attnUnitDone => exact res_stirring (fun e => nomatch (show false = true from e)) (execAttnUnitDone_onward (onward_plain h))
  | fanoutWaitExpired => exact execFanoutWaitExpired_onward h
  | autoRelease => exact res_stirring (fun e => nomatch (show false = true from e)) (execAutoRelease_onward (onward_plain h))
  | retentionEnd => exact execRetentionEnd_onward h
  | draw => exact res_stirring (fun e => nomatch (show false = true from e)) (execDraw_onward (onward_plain h))
  | feed => exact res_stirring (fun e => nomatch (show false = true from e)) (execFeed_onward (onward_plain h))
  | grammar => exact res_stirring (fun e => nomatch (show false = true from e)) (execGrammar_onward (onward_plain h))
  | finReset => exact res_stirring (fun e => nomatch (show false = true from e)) (execFinReset_onward (onward_plain h))
  | demotionStart => exact res_stirring (fun e => nomatch (show false = true from e)) (execDemotionStart_onward (onward_plain h))
  | demotionComplete => exact res_stirring (fun e => nomatch (show false = true from e)) (execDemotionComplete_onward (onward_plain h))
  | promotionComplete => exact res_stirring (fun e => nomatch (show false = true from e)) (execPromotionComplete_onward (onward_plain h))
  | promotionResume => exact res_stirring (fun e => nomatch (show false = true from e)) (execPromotionResume_onward (onward_plain h))
  | t3ReadTimeout => exact res_stirring (fun e => nomatch (show false = true from e)) (execT3ReadTimeout_onward (onward_plain h))
  | patrolScrub => exact res_stirring (fun e => nomatch (show false = true from e)) (execPatrolScrub_onward (onward_plain h))
  | coreT1Store => exact res_touching (fun e => nomatch (show true = false from e)) (res_stirring (fun e => nomatch (show false = true from e)) (execCoreT1Store_onward (onward_plain (onward_weaken h))))
  | mcDegradeWrite => exact execMcDegradeWrite_onward h
  | retireRow => exact res_stirring (fun e => nomatch (show false = true from e)) (execRetireRow_onward (onward_plain h))
  | retireBank => exact res_stirring (fun e => nomatch (show false = true from e)) (execRetireBank_onward (onward_plain h))
  | retireDone => exact res_stirring (fun e => nomatch (show false = true from e)) (execRetireDone_onward (onward_plain h))
  | testWriteData => exact res_stirring (fun e => nomatch (show false = true from e)) (execTestWriteData_onward (onward_plain h))
  | testWriteCheck => exact res_stirring (fun e => nomatch (show false = true from e)) (execTestWriteCheck_onward (onward_plain h))
  | testWrite => exact res_stirring (fun e => nomatch (show false = true from e)) (execTestWrite_onward (onward_plain h))
  | testWriteParity => exact res_stirring (fun e => nomatch (show false = true from e)) (execTestWriteParity_onward (onward_plain h))
  | testReadRaw => exact res_stirring (fun e => nomatch (show false = true from e)) (execTestReadRaw_onward (onward_plain h))
  | testRead => exact res_stirring (fun e => nomatch (show false = true from e)) (execTestRead_onward (onward_plain h))
  | stripeWaitExpired => exact res_stirring (fun e => nomatch (show false = true from e)) (execStripeWaitExpired_onward (onward_plain h))
  | flashProgramDone => exact res_stirring (fun e => nomatch (show false = true from e)) (execFlashProgramDone_onward (onward_plain h))
  | wkDegradeWrite => exact execWkDegradeWrite_onward h
  | wkGc => exact res_stirring (fun e => nomatch (show false = true from e)) (execWkGc_onward (onward_plain h))
  | gcDone => exact res_stirring (fun e => nomatch (show false = true from e)) (execGcDone_onward (onward_plain h))
  | wkMerge => exact res_stirring (fun e => nomatch (show false = true from e)) (execWkMerge_onward (onward_plain h))
  | imageRestoreDone => exact res_stirring (fun e => nomatch (show false = true from e)) (execImageRestoreDone_onward (onward_plain h))
  | search => exact res_stirring (fun e => nomatch (show false = true from e)) (execSearch_onward (onward_plain h))
  | searchDone => exact res_stirring (fun e => nomatch (show false = true from e)) (execSearchDone_onward (onward_plain h))
  | batchWaitExpired => exact res_stirring (fun e => nomatch (show false = true from e)) (execBatchWaitExpired_onward (onward_plain h))
  | insert => exact res_stirring (fun e => nomatch (show false = true from e)) (execInsert_onward (onward_plain h))
  | delete => exact res_stirring (fun e => nomatch (show false = true from e)) (execDelete_onward (onward_plain h))
  | gspFrameRx => exact execGspFrameRx_onward h
  | reasmTimeout => exact execReasmTimeout_onward h
  | linkDown => exact execLinkDown_onward h
  | linkUp => exact res_stirring (fun e => nomatch (show false = true from e)) (execLinkUp_onward (onward_plain h))
  | pfcRx => exact execPfcRx_onward h
  | pauseRx => exact execPauseRx_onward h
  | pfcPauseExpired => exact execPfcPauseExpired_onward h
  | ptpMessage => exact execPtpMessage_onward h
  | cmReq => exact execCmReq_onward h
  | rdmaWriteRx => exact execRdmaWriteRx_onward h
  | rdmaAckRx => exact execRdmaAckRx_onward h
  | rdmaRetryTimeout => exact execRdmaRetryTimeout_onward h
  | cnpRx => exact execCnpRx_onward h
  | rateRise => exact execRateRise_onward h
  | csRead => exact res_stirring (fun e => nomatch (show false = true from e)) (execCsRead_onward (onward_plain h))
  | csWrite => exact res_touching (fun e => nomatch (show true = false from e)) (res_stirring (fun e => nomatch (show false = true from e)) (execCsWrite_onward (onward_plain (onward_weaken h))))
  | event => exact res_stirring (fun e => nomatch (show false = true from e)) (execEvent_onward (onward_plain h))
  | frameTxEnd => exact execFrameTxEnd_onward h
  | chShaperWrite => exact execChShaperWrite_onward h
  | chGateSwap => exact execChGateSwap_onward h
  | tallyAdd => exact res_stirring (fun e => nomatch (show false = true from e)) (execTallyAdd_onward (onward_plain h))
  | tallyAdvance => exact res_stirring (fun e => nomatch (show false = true from e)) (execTallyAdvance_onward (onward_plain h))
  | tallyRead => exact res_stirring (fun e => nomatch (show false = true from e)) (execTallyRead_onward (onward_plain h))
  | tlAdd => exact execTlAdd_onward h
  | tlAddAdvance => exact execTlAddAdvance_onward h
  | tallyArm => exact execTallyArm_onward h
  | tlPairWrite => exact execTlPairWrite_onward h
  | tlFire => exact execTlFire_onward h
  | tlSleep => exact execTlSleep_onward h
  | tlWokenRead => exact execTlWokenRead_onward h
  | lpFill => exact res_touching (fun e => nomatch (show true = false from e)) (res_stirring (fun e => nomatch (show false = true from e)) (execLpFill_onward (onward_plain (onward_weaken h))))
  | lpScrubNextRead => exact execLpScrubNextRead_onward h
  | lpScrubDone => exact execLpScrubDone_onward h
  | scrubCheckDone => exact res_stirring (fun e => nomatch (show false = true from e)) (execScrubCheckDone_onward (onward_plain h))
  | grammarInstall => exact res_stirring (fun e => nomatch (show false = true from e)) (execGrammarInstall_onward (onward_plain h))
  | grammarRemove => exact res_stirring (fun e => nomatch (show false = true from e)) (execGrammarRemove_onward (onward_plain h))
  | indexCreate => exact res_stirring (fun e => nomatch (show false = true from e)) (execIndexCreate_onward (onward_plain h))
  | indexLoad => exact res_stirring (fun e => nomatch (show false = true from e)) (execIndexLoad_onward (onward_plain h))
  | indexMerge => exact res_stirring (fun e => nomatch (show false = true from e)) (execIndexMerge_onward (onward_plain h))
  | indexRemove => exact res_stirring (fun e => nomatch (show false = true from e)) (execIndexRemove_onward (onward_plain h))
  | coreException => exact execCoreException_onward h
  | teardownDrain => exact execTeardownDrain_onward h
  | contextResumed => exact execContextResumed_onward h
  | reqStuck => exact execReqStuck_onward h
  | powerOnStart => exact res_touching (fun e => nomatch (show true = false from e)) (res_stirring (fun e => nomatch (show false = true from e)) (execPowerOnStart_onward (onward_plain (onward_weaken h))))
  | startStepTimeout => exact res_touching (fun e => nomatch (show true = false from e)) (res_stirring (fun e => nomatch (show false = true from e)) (execStartStepTimeout_onward (onward_plain (onward_weaken h))))
  | resetAssert => exact res_touching (fun e => nomatch (show true = false from e)) (res_stirring (fun e => nomatch (show false = true from e)) (execResetAssert_onward (onward_plain (onward_weaken h))))
  | pwrOkFall => exact res_touching (fun e => nomatch (show true = false from e)) (res_stirring (fun e => nomatch (show false = true from e)) (execPwrOkFall_onward (onward_plain (onward_weaken h))))
  | glbModeWrite => exact execGlbModeWrite_onward h
  | reportState => exact execReportState_onward h
  | reportScrub => exact execReportScrub_onward h
  | reportDone => exact execReportDone_onward h
  | provision => exact res_touching (fun e => nomatch (show true = false from e)) (res_stirring (fun e => nomatch (show false = true from e)) (execProvision_onward (onward_plain (onward_weaken h))))
  | deploy => exact res_touching (fun e => nomatch (show true = false from e)) (res_stirring (fun e => nomatch (show false = true from e)) (execDeploy_onward (onward_plain (onward_weaken h))))
  | raiseSvn => exact res_touching (fun e => nomatch (show true = false from e)) (res_stirring (fun e => nomatch (show false = true from e)) (execRaiseSvn_onward (onward_plain (onward_weaken h))))
  | scrubAll => exact res_touching (fun e => nomatch (show true = false from e)) (res_stirring (fun e => nomatch (show false = true from e)) (execScrubAll_onward (onward_plain (onward_weaken h))))
  | scrubAllDone => exact execScrubAllDone_onward h
  | lcReturn => exact res_touching (fun e => nomatch (show true = false from e)) (res_stirring (fun e => nomatch (show false = true from e)) (execLcReturn_onward (onward_plain (onward_weaken h))))
  | scrap => exact res_touching (fun e => nomatch (show true = false from e)) (res_stirring (fun e => nomatch (show false = true from e)) (execScrap_onward (onward_plain (onward_weaken h))))
  | advance => exact execAdvance_onward h
  | retirePrev => exact execRetirePrev_onward h
  | jtagInstruction => exact execJtagInstruction_onward h
  | checkpointTake => exact res_stirring (fun e => nomatch (show false = true from e)) (execCheckpointTake_onward (onward_plain h))
  | checkpointDiscard => exact res_stirring (fun e => nomatch (show false = true from e)) (execCheckpointDiscard_onward (onward_plain h))
  | checkpointCut => exact res_stirring (fun e => nomatch (show false = true from e)) (execCheckpointCut_onward (onward_plain h))
  | cbwSpaceFreed => exact execCbwSpaceFreed_onward h
  | shardDone => exact res_stirring (fun e => nomatch (show false = true from e)) (execShardDone_onward (onward_plain h))
  | restore => exact res_stirring (fun e => nomatch (show false = true from e)) (execRestore_onward (onward_plain h))
  | restoreComplete => exact res_touching (fun e => nomatch (show true = false from e)) (res_stirring (fun e => nomatch (show false = true from e)) (execRestoreComplete_onward (onward_plain (onward_weaken h))))
  | coreKat => exact res_stirring (fun e => nomatch (show false = true from e)) (execCoreKat_onward (onward_plain h))
  | unitOverrun => exact res_stirring (fun e => nomatch (show false = true from e)) (execUnitOverrun_onward (onward_plain h))
  | coreFault => exact res_stirring (fun e => nomatch (show false = true from e)) (execCoreFault_onward (onward_plain h))
  | spareKatDone => exact res_stirring (fun e => nomatch (show false = true from e)) (execSpareKatDone_onward (onward_plain h))
  | watchdogExpiry => exact execWatchdogExpiry_onward h
  | lampFault => exact execLampFault_onward h
  | hlKick => exact execHlKick_onward h
  | lockstepMismatch => exact execLockstepMismatch_onward h
  | supRestart => exact execSupRestart_onward h
  | hlRowSpare => exact execHlRowSpare_onward h
  | dramRetrain => exact execDramRetrain_onward h
  | ageMeasure => exact execAgeMeasure_onward h
  | hlPlan => exact execHlPlan_onward h
  | hlAlertAck => exact execHlAlertAck_onward h
  | thermalSample => exact execThermalSample_onward h
  | dramTempPoll _ _ _ _ _ x5 => exact execDramTempPoll_onward h (_rate := x5)
  | refclkLoss => exact execRefclkLoss_onward h
  | refclkRestored => exact execRefclkRestored_onward h
  | bdVack => exact execBdVack_onward h
  | vreqTimeout => exact execVreqTimeout_onward h
  | sidebandWrite => exact res_touching (fun e => nomatch (show true = false from e)) (res_stirring (fun e => nomatch (show false = true from e)) (execSidebandWrite_onward (onward_plain (onward_weaken h))))
  | sidebandRead => exact res_stirring (fun e => nomatch (show false = true from e)) (execSidebandRead_onward (onward_plain h))
  | sidebandCcc => exact execSidebandCcc_onward h
  | recordArm => exact execRecordArm_onward h
  | recordStop => exact execRecordStop_onward h
  | replayArm => exact execReplayArm_onward h
  | replayInject => exact res_touching (fun e => nomatch (show true = false from e)) (res_stirring (fun e => nomatch (show false = true from e)) (execReplayInject_onward (onward_plain (onward_weaken h))))
  | registerWrite => exact res_touching (fun e => nomatch (show true = false from e)) (res_stirring (fun e => nomatch (show false = true from e)) (execRegisterWrite_onward (onward_plain (onward_weaken h))))
  | prefetchComplete => exact res_stirring (fun e => nomatch (show false = true from e)) (execPrefetchComplete_onward (onward_plain h))
  | segmentEraseDone => exact res_stirring (fun e => nomatch (show false = true from e)) (execSegmentEraseDone_onward (onward_plain h))
  | shaperCreditRecovered => exact execShaperCreditRecovered_onward h
  | laneEyeMeasure => exact execLaneEyeMeasure_onward h
  | eventLimitStepEnd => exact execEventLimitStepEnd_onward h
  | d2dLinkFault => exact execD2dLinkFault_onward h
  | sidebandIbiAccept => exact execSidebandIbiAccept_onward h

end Sys2Proof.Machine
end

