-- ==== Sys2Proof/Laws/Roll.lean ====
section
/-! SUPPORT. What the background work that follows a command leaves alone: the tracker, and the session records but for PROMOTING and
for PARKED turning DORMANT. -/

namespace Sys2Proof.Machine

/-- A record apart from PROMOTING and its state. -/
def Session.core (r : Session) : Session := { r with promoting := false, st := .free }

/-- A record rolls on. -/
def Session.Rolls (a b : Session) : Prop :=
  b.core = a.core ∧ (b.st = a.st ∨ a.st = .parked ∧ b.st = .dormant) ∧ (b.promoting = true → a.promoting = true)

theorem rolls_refl (a : Session) : a.Rolls a := ⟨rfl, .inl rfl, id⟩

theorem rolls_trans {a b c : Session} (h : a.Rolls b) (h' : b.Rolls c) : a.Rolls c := by
  refine ⟨h'.1.trans h.1, ?_, fun x => h.2.2 (h'.2.2 x)⟩
  rcases h.2.1 with e | ⟨e, e'⟩ <;> rcases h'.2.1 with d | ⟨d, d'⟩
  · exact .inl (d.trans e)
  · exact .inr ⟨e ▸ d, d'⟩
  · exact .inr ⟨e, d.trans e'⟩
  · rw [e'] at d
    cases d

/-- Any part of a record but those two stands. -/
theorem Session.Rolls.part {a b : Session} (h : a.Rolls b) {α : Type} (f : Session → α) (hf : ∀ r, f r.core = f r) : f b = f a := by
  rw [← hf a, ← hf b, h.1]

/-- `b` follows `a` by background work. -/
structure State.Roll (a b : State) : Prop where
  now : b.now = a.now
  bcn : b.bcn = a.bcn
  start : b.start = a.start
  sess : ∀ x, (a.sess x).Rolls (b.sess x)
  boundary : b.reg 0 0 Reg.SES_BOUNDARY = a.reg 0 0 Reg.SES_BOUNDARY

variable {s0 s t : State}

theorem roll_refl (s : State) : s.Roll s := ⟨rfl, rfl, rfl, fun _ => rolls_refl _, rfl⟩

theorem roll_trans (h : s0.Roll s) (h' : s.Roll t) : s0.Roll t :=
  ⟨h'.now.trans h.now, h'.bcn.trans h.bcn, h'.start.trans h.start, fun x => rolls_trans (h.sess x) (h'.sess x),
   h'.boundary.trans h.boundary⟩

theorem State.Roll.est (h : s0.Roll s) : s.est = s0.est := by
  unfold State.est
  rw [h.bcn, h.now]

/-- A change elsewhere. -/
theorem roll_mk (h : s0.Roll s) {now : Nat} {pending : List Instr} {free : Nat} {regs : List (RegKey × Word)} {bcn : Beacon}
    {ev : Events} {ses : Sessions} {kv : Kv} {attn : Attn} {grams : List ((Nat × Nat) × Gram)} {net : Net} {lamp : Lamp}
    {tier : Tier} {start : Start} {flash : Flash} {ident : Ident} {ckpt : Ckpt} {health : Health} {rp : Replay} {pins : Pins}
    (e2 : now = s.now) (e4 : regs = s.regs) (e5 : bcn = s.bcn) (e6 : ses.recs = s.ses.recs) (e10 : start = s.start) :
    s0.Roll ⟨now, pending, free, regs, bcn, ev, ses, kv, attn, grams, net, lamp, tier, start, flash, ident, ckpt, health, rp,
      pins⟩ :=
  roll_trans h ⟨e2, e5, e10, fun x => by unfold State.sess; rw [e6]; exact rolls_refl _, by unfold State.reg; rw [e4]⟩

theorem State.setReg_roll (h : s0.Roll s) {die sel : Nat} {r : RegId} {w : Word} (hr : r ≠ Reg.SES_BOUNDARY) :
    s0.Roll (s.setReg die sel r w) :=
  roll_trans h ⟨rfl, rfl, rfl, fun _ => rolls_refl _, reg_setReg_ne s w (.inr (.inr (Ne.symm hr)))⟩
theorem State.setFld_roll (h : s0.Roll s) {die sel : Nat} {f : Field} {v : Nat} (hf : f.reg ≠ Reg.SES_BOUNDARY) :
    s0.Roll (s.setFld die sel f v) := State.setReg_roll h hf
theorem State.bumpBy_roll (h : s0.Roll s) {die sel : Nat} {f : Field} {n : Nat} (hf : f.reg ≠ Reg.SES_BOUNDARY) :
    s0.Roll (s.bumpBy die sel f n) := State.setReg_roll h hf
theorem State.bump_roll (h : s0.Roll s) {die sel : Nat} {f : Field} (hf : f.reg ≠ Reg.SES_BOUNDARY) :
    s0.Roll (s.bump die sel f) := State.setReg_roll h hf
theorem State.lower_roll (h : s0.Roll s) {die sel : Nat} {f : Field} {n : Nat} (hf : f.reg ≠ Reg.SES_BOUNDARY) :
    s0.Roll (s.lower die sel f n) := State.setReg_roll h hf
theorem State.setPort_roll (h : s0.Roll s) {p : Nat} {v : Port} : s0.Roll (s.setPort p v) :=
  roll_trans h ⟨rfl, rfl, rfl, fun _ => rolls_refl _, rfl⟩
theorem State.setPoolFree_roll (h : s0.Roll s) {die tier g : Nat} : s0.Roll (s.setPoolFree die tier g) :=
  State.setReg_roll h (by simp)

/-- A record is replaced by one that rolls on from it. -/
theorem setSess_roll (h : s0.Roll s) {x : Nat} {r : Session} (hr : (s.sess x).Rolls r) : s0.Roll (s.setSess x r) :=
  roll_trans h ⟨rfl, rfl, rfl, fun y => by
    rw [setSess_sess]
    split
    · rename_i e
      subst e
      exact hr
    · exact rolls_refl _, rfl⟩

theorem roll_ite {c : Prop} [Decidable c] (h : s0.Roll s) (h' : s0.Roll t) : s0.Roll (if c then s else t) := by
  split
  · exact h
  · exact h'
theorem roll_foldl {α : Type} {f : State → α → State} (hf : ∀ s x, s0.Roll s → s0.Roll (f s x)) (l : List α)
    (h : s0.Roll s) : s0.Roll (l.foldl f s) := by
  induction l generalizing s with
  | nil => exact h
  | cons x l ih => exact ih (hf s x h)

end Sys2Proof.Machine
end

