-- ==== Sys2Proof/Laws/Rolls.lean ====
section
/-! SUPPORT. The background work: each function leaves alone what `State.Roll` says. -/

namespace Sys2Proof.Machine

set_option linter.unusedTactic false
set_option linter.unreachableTactic false

variable {s0 s : State}

theorem State.nextFree_roll (h : s0.Roll s) : s0.Roll (State.nextFree s) := by
  unfold State.nextFree
  try dsimp only
  repeat' first | with_reducible assumption | with_reducible rfl | decide | with_reducible apply roll_ite | fail_if_no_progress with_reducible refine roll_mk ?_ rfl rfl rfl rfl rfl | split | dsimp only | decide

theorem State.setT1_roll (h : s0.Roll s) {die : Nat} {m : List Host.Cell} : s0.Roll (State.setT1 s die m) := by
  unfold State.setT1
  try dsimp only
  repeat' first | with_reducible assumption | with_reducible rfl | decide | with_reducible apply roll_ite | fail_if_no_progress with_reducible refine roll_mk ?_ rfl rfl rfl rfl rfl | split | dsimp only | decide

theorem State.settle_roll (h : s0.Roll s) {p : Nat} : s0.Roll (State.settle s p) := by
  unfold State.settle
  try dsimp only
  repeat' first | with_reducible assumption | with_reducible rfl | decide | intro _ | with_reducible apply State.setPort_roll | with_reducible apply roll_ite | with_reducible apply roll_foldl | fail_if_no_progress with_reducible refine roll_mk ?_ rfl rfl rfl rfl rfl | split | dsimp only | decide

theorem State.enqueue_roll (h : s0.Roll s) {p cls flow len : Nat} {result : Option (Nat × ResKey)} {body : FrameBody} : s0.Roll (State.enqueue s p cls flow len result body) := by
  unfold State.enqueue
  try dsimp only
  repeat' first | with_reducible assumption | with_reducible rfl | decide | with_reducible apply State.settle_roll | with_reducible apply State.setPort_roll | with_reducible apply roll_ite | fail_if_no_progress with_reducible refine roll_mk ?_ rfl rfl rfl rfl rfl | split | dsimp only | decide

theorem State.countHeld_roll (h : s0.Roll s) {p : Nat} : s0.Roll (State.countHeld s p) := by
  unfold State.countHeld
  try dsimp only
  repeat' first | with_reducible assumption | with_reducible rfl | decide | intro _ | with_reducible apply State.setPort_roll | with_reducible apply State.bump_roll | with_reducible apply roll_ite | with_reducible apply roll_foldl | fail_if_no_progress with_reducible refine roll_mk ?_ rfl rfl rfl rfl rfl | split | dsimp only | decide

theorem State.noteReturn_roll (h : s0.Roll s) {r : Result} : s0.Roll (State.noteReturn s r) := by
  unfold State.noteReturn
  try dsimp only
  repeat' first | with_reducible assumption | with_reducible rfl | decide | intro _ | with_reducible apply State.bump_roll | with_reducible apply roll_ite | fail_if_no_progress with_reducible refine roll_mk ?_ rfl rfl rfl rfl rfl | split | dsimp only | decide

theorem State.markStarted_roll (h : s0.Roll s) {p : Nat} {f : QFrame} : s0.Roll (State.markStarted s p f) := by
  unfold State.markStarted
  try dsimp only
  repeat' first | with_reducible assumption | with_reducible rfl | decide | intro _ | with_reducible apply State.noteReturn_roll | with_reducible apply State.setPort_roll | with_reducible apply roll_ite | fail_if_no_progress with_reducible refine roll_mk ?_ rfl rfl rfl rfl rfl | split | dsimp only | decide

theorem State.untrack_roll (h : s0.Roll s) {k : KeyRef} {reqId : Nat} : s0.Roll (State.untrack s k reqId) := by
  unfold State.untrack
  try dsimp only
  repeat' first | with_reducible assumption | with_reducible rfl | decide | intro _ | with_reducible apply roll_ite | fail_if_no_progress with_reducible refine roll_mk ?_ rfl rfl rfl rfl rfl | split | dsimp only | decide

theorem State.untrackFrame_roll (h : s0.Roll s) {f : QFrame} : s0.Roll (State.untrackFrame s f) := by
  unfold State.untrackFrame
  try dsimp only
  repeat' first | with_reducible assumption | with_reducible rfl | decide | with_reducible apply State.untrack_roll | with_reducible apply roll_ite | fail_if_no_progress with_reducible refine roll_mk ?_ rfl rfl rfl rfl rfl | split | dsimp only | decide

theorem State.pick_roll (h : s0.Roll s) {p : Nat} : s0.Roll (State.pick s p) := by
  unfold State.pick
  try dsimp only
  repeat' first | with_reducible assumption | with_reducible rfl | decide | with_reducible apply State.settle_roll | with_reducible apply State.countHeld_roll | with_reducible apply State.setPort_roll | with_reducible apply State.markStarted_roll | with_reducible apply State.untrackFrame_roll | with_reducible apply roll_ite | fail_if_no_progress with_reducible refine roll_mk ?_ rfl rfl rfl rfl rfl | split | dsimp only | decide

theorem State.send_roll (h : s0.Roll s) {p cls flow len : Nat} {result : Option (Nat × ResKey)} {body : FrameBody} : s0.Roll (State.send s p cls flow len result body) := by
  unfold State.send
  try dsimp only
  repeat' first | with_reducible assumption | with_reducible rfl | decide | with_reducible apply State.enqueue_roll | with_reducible apply State.pick_roll | with_reducible apply roll_ite | split | dsimp only | decide

theorem State.resetClass_roll (h : s0.Roll s) {p c : Nat} : s0.Roll (State.resetClass s p c) := by
  unfold State.resetClass
  try dsimp only
  repeat' first | with_reducible assumption | with_reducible rfl | decide | intro _ | with_reducible apply State.setPort_roll | with_reducible apply roll_ite | fail_if_no_progress with_reducible refine roll_mk ?_ rfl rfl rfl rfl rfl | split | dsimp only | decide

theorem State.sendSeg_roll (h : s0.Roll s) {d : Dest} {kind type status reason reqId : Nat} {response : Bool} {result : Option (Nat × ResKey)} {count len : Nat} {seg : Nat × List Byte} : s0.Roll (State.sendSeg s d kind type status reason reqId response result count len seg) := by
  unfold State.sendSeg
  try dsimp only
  repeat' first | with_reducible assumption | with_reducible rfl | decide | with_reducible apply State.send_roll | with_reducible apply roll_ite | fail_if_no_progress with_reducible refine roll_mk ?_ rfl rfl rfl rfl rfl | split | dsimp only | decide

theorem State.sendMsg_roll (h : s0.Roll s) {d : Dest} {kind type status reason reqId : Nat} {response : Bool} {result : Option (Nat × ResKey)} {body : List Byte} : s0.Roll (State.sendMsg s d kind type status reason reqId response result body) := by
  unfold State.sendMsg
  try dsimp only
  repeat' first | with_reducible assumption | with_reducible rfl | decide | intro _ | with_reducible apply State.sendSeg_roll | with_reducible apply roll_ite | with_reducible apply roll_foldl | fail_if_no_progress with_reducible refine roll_mk ?_ rfl rfl rfl rfl rfl | split | dsimp only | decide

theorem State.setRing_roll (h : s0.Roll s) {die : Nat} {l : List EvtRec} : s0.Roll (State.setRing s die l) := by
  unfold State.setRing
  try dsimp only
  repeat' first | with_reducible assumption | with_reducible rfl | decide | with_reducible apply roll_ite | fail_if_no_progress with_reducible refine roll_mk ?_ rfl rfl rfl rfl rfl | split | dsimp only | decide

theorem State.setAlerts_roll (h : s0.Roll s) {die : Nat} {l : List Nat} : s0.Roll (State.setAlerts s die l) := by
  unfold State.setAlerts
  try dsimp only
  repeat' first | with_reducible assumption | with_reducible rfl | decide | with_reducible apply roll_ite | fail_if_no_progress with_reducible refine roll_mk ?_ rfl rfl rfl rfl rfl | split | dsimp only | decide

theorem State.eventFrame_roll (h : s0.Roll s) {sub : Sub} {r : EvtRec} : s0.Roll (State.eventFrame s sub r) := by
  unfold State.eventFrame
  try dsimp only
  repeat' first | with_reducible assumption | with_reducible rfl | decide | with_reducible apply State.sendMsg_roll | with_reducible apply roll_ite | fail_if_no_progress with_reducible refine roll_mk ?_ rfl rfl rfl rfl rfl | split | dsimp only | decide

theorem State.ibi_roll (h : s0.Roll s) {byte : Nat} : s0.Roll (State.ibi s byte) := by
  unfold State.ibi
  try dsimp only
  repeat' first | with_reducible assumption | with_reducible rfl | decide | with_reducible apply roll_ite | fail_if_no_progress with_reducible refine roll_mk ?_ rfl rfl rfl rfl rfl | split | dsimp only | decide

theorem State.logEvent_roll (h : s0.Roll s) {die : Nat} {r : EvtRec} : s0.Roll (State.logEvent s die r) := by
  unfold State.logEvent
  try dsimp only
  repeat' first | with_reducible assumption | with_reducible rfl | decide | with_reducible apply State.setRing_roll | with_reducible apply State.setFld_roll | with_reducible apply State.setAlerts_roll | with_reducible apply State.ibi_roll | with_reducible apply roll_ite | split | dsimp only | decide

theorem State.raise_roll (h : s0.Roll s) {die sub : Nat} {a : EvtArgs} : s0.Roll (State.raise s die sub a) := by
  unfold State.raise
  try dsimp only
  repeat' first | with_reducible assumption | with_reducible rfl | decide | intro _ | with_reducible apply State.eventFrame_roll | with_reducible apply State.logEvent_roll | with_reducible apply roll_ite | with_reducible apply roll_foldl | split | dsimp only | decide

theorem State.setOnce_roll (h : s0.Roll s) {o : Once} : s0.Roll (State.setOnce s o) := by
  unfold State.setOnce
  try dsimp only
  repeat' first | with_reducible assumption | with_reducible rfl | decide | intro _ | with_reducible apply roll_ite | fail_if_no_progress with_reducible refine roll_mk ?_ rfl rfl rfl rfl rfl | split | dsimp only | decide

theorem State.raiseOnce_roll (h : s0.Roll s) {die sub item : Nat} {a : EvtArgs} : s0.Roll (State.raiseOnce s die sub item a) := by
  unfold State.raiseOnce
  try dsimp only
  repeat' first | with_reducible assumption | with_reducible rfl | decide | with_reducible apply State.setOnce_roll | with_reducible apply State.raise_roll | with_reducible apply roll_ite | fail_if_no_progress with_reducible refine roll_mk ?_ rfl rfl rfl rfl rfl | split | dsimp only | decide

theorem State.endLimitStep_roll (h : s0.Roll s) : s0.Roll (State.endLimitStep s) := by
  unfold State.endLimitStep
  try dsimp only
  repeat' first | with_reducible assumption | with_reducible rfl | decide | intro _ | with_reducible apply roll_ite | fail_if_no_progress with_reducible refine roll_mk ?_ rfl rfl rfl rfl rfl | split | dsimp only | decide

theorem State.closeRec_roll (h : s0.Roll s) : s0.Roll (State.closeRec s) := by
  unfold State.closeRec
  try dsimp only
  repeat' first | with_reducible assumption | with_reducible rfl | decide | with_reducible apply State.setFld_roll | with_reducible apply roll_ite | fail_if_no_progress with_reducible refine roll_mk ?_ rfl rfl rfl rfl rfl | split | dsimp only | decide

theorem State.addRec_roll (h : s0.Roll s) {status port ctx ep len : Nat} {body : RecBody} : s0.Roll (State.addRec s status port ctx ep len body) := by
  unfold State.addRec
  try dsimp only
  repeat' first | with_reducible assumption | with_reducible rfl | decide | with_reducible apply State.setFld_roll | with_reducible apply State.raiseOnce_roll | with_reducible apply State.closeRec_roll | with_reducible apply State.raise_roll | with_reducible apply State.setReg_roll | with_reducible apply roll_ite | fail_if_no_progress with_reducible refine roll_mk ?_ rfl rfl rfl rfl rfl | split | dsimp only | decide

theorem State.diverge_roll (h : s0.Roll s) {msg : Nat} : s0.Roll (State.diverge s msg) := by
  unfold State.diverge
  try dsimp only
  repeat' first | with_reducible assumption | with_reducible rfl | decide | with_reducible apply State.bump_roll | with_reducible apply State.setFld_roll | with_reducible apply State.raise_roll | with_reducible apply roll_ite | split | dsimp only | decide

theorem State.formed_roll (h : s0.Roll s) {msg port : Nat} {f : List Byte} : s0.Roll (State.formed s msg port f) := by
  unfold State.formed
  try dsimp only
  repeat' first | with_reducible assumption | with_reducible rfl | decide | with_reducible apply State.addRec_roll | with_reducible apply State.diverge_roll | with_reducible apply roll_ite | fail_if_no_progress with_reducible refine roll_mk ?_ rfl rfl rfl rfl rfl | split | dsimp only | decide

theorem State.formResult_roll (h : s0.Roll s) {r : Result} : s0.Roll (State.formResult s r) := by
  unfold State.formResult
  try dsimp only
  repeat' first | with_reducible assumption | with_reducible rfl | decide | intro _ | with_reducible apply State.formed_roll | with_reducible apply roll_ite | fail_if_no_progress with_reducible refine roll_mk ?_ rfl rfl rfl rfl rfl | split | dsimp only | decide

theorem State.formResults_roll (h : s0.Roll s) : s0.Roll (State.formResults s) := by
  unfold State.formResults
  try dsimp only
  repeat' first | with_reducible assumption | with_reducible rfl | decide | intro _ | with_reducible apply State.formResult_roll | with_reducible apply roll_ite | with_reducible apply roll_foldl | split | dsimp only | decide

theorem State.noteBad_roll (h : s0.Roll s) {e : Env} {type reason : Nat} : s0.Roll (State.noteBad s e type reason) := by
  unfold State.noteBad
  try dsimp only
  repeat' first | with_reducible assumption | with_reducible rfl | decide | with_reducible apply State.bump_roll | with_reducible apply State.setFld_roll | with_reducible apply State.raiseOnce_roll | with_reducible apply roll_ite | split | dsimp only | decide

theorem State.answer_roll (h : s0.Roll s) {e : Env} {type status reason : Nat} {body : List Byte} : s0.Roll (State.answer s e type status reason body) := by
  unfold State.answer
  try dsimp only
  repeat' first | with_reducible assumption | with_reducible rfl | decide | with_reducible apply State.noteBad_roll | with_reducible apply State.sendMsg_roll | with_reducible apply State.untrack_roll | with_reducible apply roll_ite | fail_if_no_progress with_reducible refine roll_mk ?_ rfl rfl rfl rfl rfl | split | dsimp only | decide

theorem State.takeReady_roll (h : s0.Roll s) {e : Env} : s0.Roll (State.takeReady s e) := by
  unfold State.takeReady
  try dsimp only
  repeat' first | with_reducible assumption | with_reducible rfl | decide | intro _ | with_reducible apply roll_ite | fail_if_no_progress with_reducible refine roll_mk ?_ rfl rfl rfl rfl rfl | split | dsimp only | decide

theorem State.track_roll (h : s0.Roll s) {e : Env} {type : Nat} {slot : Option Nat} : s0.Roll (State.track s e type slot) := by
  unfold State.track
  try dsimp only
  repeat' first | with_reducible assumption | with_reducible rfl | decide | with_reducible apply roll_ite | fail_if_no_progress with_reducible refine roll_mk ?_ rfl rfl rfl rfl rfl | split | dsimp only | decide

theorem State.cbwWrite_roll (h : s0.Roll s) {die granule : Nat} : s0.Roll (State.cbwWrite s die granule) := by
  unfold State.cbwWrite
  try dsimp only
  repeat' first | with_reducible assumption | with_reducible rfl | decide | intro _ | with_reducible apply State.bump_roll | with_reducible apply State.setFld_roll | with_reducible apply roll_ite | fail_if_no_progress with_reducible refine roll_mk ?_ rfl rfl rfl rfl rfl | split | dsimp only | decide

theorem State.cbwSlot_roll (h : s0.Roll s) {before : State} {slot : Nat} : s0.Roll (State.cbwSlot before s slot) := by
  unfold State.cbwSlot
  dsimp only
  repeat' first | assumption | with_reducible apply State.cbwWrite_roll | with_reducible apply roll_ite | split

theorem State.unnumber_roll (h : s0.Roll s) {n : Nat} : s0.Roll (State.unnumber s n) := by
  unfold State.unnumber
  try dsimp only
  repeat' first | with_reducible assumption | with_reducible rfl | decide | intro _ | with_reducible apply roll_ite | fail_if_no_progress with_reducible refine roll_mk ?_ rfl rfl rfl rfl rfl | split | dsimp only | decide

theorem State.afterMessage_roll (h : s0.Roll s) {e : Env} {c : Instr} : s0.Roll (State.afterMessage s e c) := by
  unfold State.afterMessage
  try dsimp only
  repeat' first | with_reducible assumption | with_reducible rfl | decide | with_reducible apply State.addRec_roll | with_reducible apply State.unnumber_roll | with_reducible apply State.formed_roll | with_reducible apply roll_ite | fail_if_no_progress with_reducible refine roll_mk ?_ rfl rfl rfl rfl rfl | split | dsimp only | decide

theorem State.countOutcome_roll (h : s0.Roll s) {die status : Nat} : s0.Roll (State.countOutcome s die status) := by
  unfold State.countOutcome
  try dsimp only
  repeat' first | with_reducible assumption | with_reducible rfl | decide | with_reducible apply State.bump_roll | with_reducible apply roll_ite | split | dsimp only | decide

theorem State.dataCheck_roll (h : s0.Roll s) {die addr : Nat} : s0.Roll (State.dataCheck s die addr) := by
  unfold State.dataCheck
  try dsimp only
  repeat' first | with_reducible assumption | with_reducible rfl | decide | with_reducible apply State.raise_roll | with_reducible apply roll_ite | split | dsimp only | decide

theorem State.quotaTest_roll (h : s0.Roll s) {die ctx tier : Nat} : s0.Roll (State.quotaTest s die ctx tier) := by
  unfold State.quotaTest
  try dsimp only
  repeat' first | with_reducible assumption | with_reducible rfl | decide | with_reducible apply State.setFld_roll | with_reducible apply State.raise_roll | with_reducible apply roll_ite | fail_if_no_progress with_reducible refine roll_mk ?_ rfl rfl rfl rfl rfl | split | dsimp only | decide

theorem State.setUse_roll (h : s0.Roll s) {die ctx tier g : Nat} : s0.Roll (s.setUse die ctx tier g) :=
  State.quotaTest_roll (State.setReg_roll h (by simp; omega))

theorem State.evictTest_roll (h : s0.Roll s) {die tier : Nat} : s0.Roll (State.evictTest s die tier) := by
  unfold State.evictTest
  try dsimp only
  repeat' first | with_reducible assumption | with_reducible rfl | decide | with_reducible apply roll_ite | fail_if_no_progress with_reducible refine roll_mk ?_ rfl rfl rfl rfl rfl | split | dsimp only | decide

theorem State.alloc_roll (h : s0.Roll s) {die tier ctx g : Nat} : s0.Roll (State.alloc s die tier ctx g) := by
  unfold State.alloc
  try dsimp only
  repeat' first | with_reducible assumption | with_reducible rfl | decide | with_reducible apply State.setUse_roll | with_reducible apply State.setPoolFree_roll | with_reducible apply State.evictTest_roll | with_reducible apply roll_ite | split | dsimp only | decide

theorem State.dealloc_roll (h : s0.Roll s) {die tier ctx g : Nat} : s0.Roll (State.dealloc s die tier ctx g) := by
  unfold State.dealloc
  try dsimp only
  repeat' first | with_reducible assumption | with_reducible rfl | decide | with_reducible apply State.setUse_roll | with_reducible apply State.setPoolFree_roll | with_reducible apply State.evictTest_roll | with_reducible apply roll_ite | split | dsimp only | decide

theorem State.putLeaf_roll (h : s0.Roll s) {k : PageKey} {l : Leaf} : s0.Roll (State.putLeaf s k l) := by
  unfold State.putLeaf
  try dsimp only
  repeat' first | with_reducible assumption | with_reducible rfl | decide | with_reducible apply roll_ite | fail_if_no_progress with_reducible refine roll_mk ?_ rfl rfl rfl rfl rfl | split | dsimp only | decide

theorem State.dropLeaf_roll (h : s0.Roll s) {k : PageKey} : s0.Roll (State.dropLeaf s k) := by
  unfold State.dropLeaf
  try dsimp only
  repeat' first | with_reducible assumption | with_reducible rfl | decide | with_reducible apply roll_ite | fail_if_no_progress with_reducible refine roll_mk ?_ rfl rfl rfl rfl rfl | split | dsimp only | decide

theorem State.putShared_roll (h : s0.Roll s) {die id : Nat} {p : SharedPage} : s0.Roll (State.putShared s die id p) := by
  unfold State.putShared
  try dsimp only
  repeat' first | with_reducible assumption | with_reducible rfl | decide | with_reducible apply roll_ite | fail_if_no_progress with_reducible refine roll_mk ?_ rfl rfl rfl rfl rfl | split | dsimp only | decide

theorem State.shootdown_roll (h : s0.Roll s) {die vun : Nat} : s0.Roll (State.shootdown s die vun) := by
  unfold State.shootdown
  try dsimp only
  repeat' first | with_reducible assumption | with_reducible rfl | decide | intro _ | with_reducible apply State.bump_roll | with_reducible apply roll_ite | fail_if_no_progress with_reducible refine roll_mk ?_ rfl rfl rfl rfl rfl | split | dsimp only | decide

theorem State.removeLeaf_roll (h : s0.Roll s) {k : PageKey} : s0.Roll (State.removeLeaf s k) := by
  unfold State.removeLeaf
  try dsimp only
  repeat' first | with_reducible assumption | with_reducible rfl | decide | with_reducible apply State.dropLeaf_roll | with_reducible apply State.dealloc_roll | with_reducible apply roll_ite | split | dsimp only | decide

theorem State.unrefShared_roll (h : s0.Roll s) {die id : Nat} : s0.Roll (State.unrefShared s die id) := by
  unfold State.unrefShared
  try dsimp only
  repeat' first | with_reducible assumption | with_reducible rfl | decide | with_reducible apply State.dealloc_roll | with_reducible apply State.lower_roll | with_reducible apply State.putShared_roll | with_reducible apply roll_ite | fail_if_no_progress with_reducible refine roll_mk ?_ rfl rfl rfl rfl rfl | split | dsimp only | decide

theorem State.releasePage_roll (h : s0.Roll s) {k : PageKey} : s0.Roll (State.releasePage s k) := by
  unfold State.releasePage
  try dsimp only
  repeat' first | with_reducible assumption | with_reducible rfl | decide | with_reducible apply State.removeLeaf_roll | with_reducible apply State.shootdown_roll | with_reducible apply State.unrefShared_roll | with_reducible apply State.dealloc_roll | with_reducible apply roll_ite | fail_if_no_progress with_reducible refine roll_mk ?_ rfl rfl rfl rfl rfl | split | dsimp only | decide

theorem State.putStaging_roll (h : s0.Roll s) {slot : Nat} {g : Staging} : s0.Roll (State.putStaging s slot g) := by
  unfold State.putStaging
  try dsimp only
  repeat' first | with_reducible assumption | with_reducible rfl | decide | with_reducible apply roll_ite | fail_if_no_progress with_reducible refine roll_mk ?_ rfl rfl rfl rfl rfl | split | dsimp only | decide

theorem State.putArea_roll (h : s0.Roll s) {slot : Nat} {a : FinArea} : s0.Roll (State.putArea s slot a) := by
  unfold State.putArea
  try dsimp only
  repeat' first | with_reducible assumption | with_reducible rfl | decide | with_reducible apply roll_ite | fail_if_no_progress with_reducible refine roll_mk ?_ rfl rfl rfl rfl rfl | split | dsimp only | decide

theorem State.dormantTest_roll (h : s0.Roll s) {slot : Nat} : s0.Roll (State.dormantTest s slot) := by
  unfold State.dormantTest
  dsimp only
  split
  · rename_i c
    refine State.raise_roll (setSess_roll h ⟨?_, .inr ⟨c.1, ?_⟩, ?_⟩)
    · rfl
    · rfl
    · exact id
  · exact h

theorem State.queueScrub_roll (h : s0.Roll s) {die cluster : Nat} {teardown : Bool} {ctx slot : Nat} {ranges : List Range} : s0.Roll (State.queueScrub s die cluster teardown ctx slot ranges) := by
  unfold State.queueScrub
  try dsimp only
  repeat' first | with_reducible assumption | with_reducible rfl | decide | with_reducible apply roll_ite | fail_if_no_progress with_reducible refine roll_mk ?_ rfl rfl rfl rfl rfl | split | dsimp only | decide

theorem State.mapResult_roll (h : s0.Roll s) {slot : Nat} {key : ResKey} {f : Result → Result} : s0.Roll (State.mapResult s slot key f) := by
  unfold State.mapResult
  try dsimp only
  repeat' first | with_reducible assumption | with_reducible rfl | decide | intro _ | with_reducible apply roll_ite | fail_if_no_progress with_reducible refine roll_mk ?_ rfl rfl rfl rfl rfl | split | dsimp only | decide

theorem State.sendWrite_roll (h : s0.Roll s) {d : Dest} {q : Qp} {result : Nat × ResKey} {seq : Nat} {piece : Bool × Nat × List Byte} : s0.Roll (State.sendWrite s d q result seq piece) := by
  unfold State.sendWrite
  try dsimp only
  repeat' first | with_reducible assumption | with_reducible rfl | decide | intro _ | with_reducible apply State.send_roll | with_reducible apply roll_ite | fail_if_no_progress with_reducible refine roll_mk ?_ rfl rfl rfl rfl rfl | split | dsimp only | decide

theorem State.sendObject_roll (h : s0.Roll s) {d : Dest} {r : Result} {q : Qp} : s0.Roll (State.sendObject s d r q) := by
  unfold State.sendObject
  try dsimp only
  repeat' first | with_reducible assumption | with_reducible rfl | decide | intro _ | with_reducible apply State.sendWrite_roll | with_reducible apply roll_ite | with_reducible apply roll_foldl | fail_if_no_progress with_reducible refine roll_mk ?_ rfl rfl rfl rfl rfl | split | dsimp only | decide

theorem State.joinQueue_roll (h : s0.Roll s) {slot : Nat} {key : ResKey} : s0.Roll (State.joinQueue s slot key) := by
  unfold State.joinQueue
  try dsimp only
  repeat' first | with_reducible assumption | with_reducible rfl | decide | intro _ | with_reducible apply State.noteReturn_roll | with_reducible apply State.mapResult_roll | with_reducible apply State.sendObject_roll | with_reducible apply State.sendMsg_roll | with_reducible apply roll_ite | fail_if_no_progress with_reducible refine roll_mk ?_ rfl rfl rfl rfl rfl | split | dsimp only | decide

theorem State.unqueue_roll (h : s0.Roll s) {slot : Nat} {key : ResKey} : s0.Roll (State.unqueue s slot key) := by
  unfold State.unqueue
  try dsimp only
  repeat' first | with_reducible assumption | with_reducible rfl | decide | intro _ | with_reducible apply State.resetClass_roll | with_reducible apply State.settle_roll | with_reducible apply State.setPort_roll | with_reducible apply roll_ite | with_reducible apply roll_foldl | fail_if_no_progress with_reducible refine roll_mk ?_ rfl rfl rfl rfl rfl | split | dsimp only | decide

theorem State.dropResult_roll (h : s0.Roll s) {slot : Nat} {key : ResKey} : s0.Roll (State.dropResult s slot key) := by
  unfold State.dropResult
  try dsimp only
  repeat' first | with_reducible assumption | with_reducible rfl | decide | intro _ | with_reducible apply State.formResult_roll | with_reducible apply State.unqueue_roll | with_reducible apply State.untrack_roll | with_reducible apply State.lower_roll | with_reducible apply roll_ite | fail_if_no_progress with_reducible refine roll_mk ?_ rfl rfl rfl rfl rfl | split | dsimp only | decide

theorem State.dropResults_roll (h : s0.Roll s) {slot : Nat} {p : Result → Bool} : s0.Roll (State.dropResults s slot p) := by
  unfold State.dropResults
  try dsimp only
  repeat' first | with_reducible assumption | with_reducible rfl | decide | intro _ | with_reducible apply State.dropResult_roll | with_reducible apply roll_ite | with_reducible apply roll_foldl | split | dsimp only | decide

theorem State.markLate_roll (h : s0.Roll s) {slot : Nat} {key : ResKey} : s0.Roll (State.markLate s slot key) := by
  unfold State.markLate
  try dsimp only
  repeat' first | with_reducible assumption | with_reducible rfl | decide | intro _ | with_reducible apply State.mapResult_roll | with_reducible apply State.bump_roll | with_reducible apply State.setReg_roll | with_reducible apply State.raise_roll | with_reducible apply roll_ite | fail_if_no_progress with_reducible refine roll_mk ?_ rfl rfl rfl rfl rfl | split | dsimp only | decide

theorem State.deliver_roll (h : s0.Roll s) {slot : Nat} {key : ResKey} : s0.Roll (State.deliver s slot key) := by
  unfold State.deliver
  try dsimp only
  repeat' first | with_reducible assumption | with_reducible rfl | decide | with_reducible apply State.joinQueue_roll | with_reducible apply State.markLate_roll | with_reducible apply roll_ite | fail_if_no_progress with_reducible refine roll_mk ?_ rfl rfl rfl rfl rfl | split | dsimp only | decide

theorem State.carry_roll (h : s0.Roll s) {p step layer : Nat} : s0.Roll (State.carry s p step layer) := by
  unfold State.carry
  try dsimp only
  repeat' first | with_reducible assumption | with_reducible rfl | decide | intro _ | with_reducible apply State.joinQueue_roll | with_reducible apply roll_ite | with_reducible apply roll_foldl | fail_if_no_progress with_reducible refine roll_mk ?_ rfl rfl rfl rfl rfl | split | dsimp only | decide

theorem State.missClose_roll (h : s0.Roll s) {p step layer : Nat} : s0.Roll (State.missClose s p step layer) := by
  unfold State.missClose
  try dsimp only
  repeat' first | with_reducible assumption | with_reducible rfl | decide | intro _ | with_reducible apply State.unqueue_roll | with_reducible apply State.mapResult_roll | with_reducible apply State.markLate_roll | with_reducible apply roll_ite | with_reducible apply roll_foldl | fail_if_no_progress with_reducible refine roll_mk ?_ rfl rfl rfl rfl rfl | split | dsimp only | decide

theorem State.countSplit_roll (h : s0.Roll s) {p : Nat} : s0.Roll (State.countSplit s p) := by
  unfold State.countSplit
  try dsimp only
  repeat' first | with_reducible assumption | with_reducible rfl | decide | intro _ | with_reducible apply State.setPort_roll | with_reducible apply State.bumpBy_roll | with_reducible apply roll_ite | fail_if_no_progress with_reducible refine roll_mk ?_ rfl rfl rfl rfl rfl | split | dsimp only | decide

theorem State.lateSweep_roll (h : s0.Roll s) : s0.Roll (State.lateSweep s) := by
  unfold State.lateSweep
  try dsimp only
  repeat' first | with_reducible assumption | with_reducible rfl | decide | intro _ | with_reducible apply State.deliver_roll | with_reducible apply roll_ite | with_reducible apply roll_foldl | split | dsimp only | decide

theorem State.withdrawAll_roll (h : s0.Roll s) : s0.Roll (State.withdrawAll s) := by
  unfold State.withdrawAll
  try dsimp only
  repeat' first | with_reducible assumption | with_reducible rfl | decide | intro _ | with_reducible apply State.unqueue_roll | with_reducible apply State.mapResult_roll | with_reducible apply State.bumpBy_roll | with_reducible apply State.setPort_roll | with_reducible apply State.pick_roll | with_reducible apply roll_ite | with_reducible apply roll_foldl | fail_if_no_progress with_reducible refine roll_mk ?_ rfl rfl rfl rfl rfl | split | dsimp only | decide

theorem State.raiseMark_roll (h : s0.Roll s) {slot : Nat} {k : ResKey} : s0.Roll (State.raiseMark s slot k) := by
  unfold State.raiseMark
  try dsimp only
  repeat' first | with_reducible assumption | with_reducible rfl | decide | with_reducible apply State.putArea_roll | with_reducible apply roll_ite | fail_if_no_progress with_reducible refine roll_mk ?_ rfl rfl rfl rfl rfl | split | dsimp only | decide

theorem State.endEpoch_roll (h : s0.Roll s) {slot : Nat} : s0.Roll (State.endEpoch s slot) := by
  unfold State.endEpoch
  try dsimp only
  repeat' first | with_reducible assumption | with_reducible rfl | decide | intro _ | with_reducible apply roll_ite | fail_if_no_progress with_reducible refine roll_mk ?_ rfl rfl rfl rfl rfl | split | dsimp only | decide

theorem State.autoRelease_roll (h : s0.Roll s) {slot : Nat} {key : ResKey} : s0.Roll (State.autoRelease s slot key) := by
  unfold State.autoRelease
  try dsimp only
  repeat' first | with_reducible assumption | with_reducible rfl | decide | with_reducible apply State.dropResult_roll | with_reducible apply State.raiseMark_roll | with_reducible apply roll_ite | split | dsimp only | decide

theorem State.releaseDue_roll (h : s0.Roll s) : s0.Roll (State.releaseDue s) := by
  unfold State.releaseDue
  try dsimp only
  repeat' first | with_reducible assumption | with_reducible rfl | decide | intro _ | with_reducible apply State.autoRelease_roll | with_reducible apply State.dropResult_roll | with_reducible apply roll_ite | with_reducible apply roll_foldl | split | dsimp only | decide

theorem State.setSeg_roll (h : s0.Roll s) {x : Seg} : s0.Roll (State.setSeg s x) := by
  unfold State.setSeg
  try dsimp only
  repeat' first | with_reducible assumption | with_reducible rfl | decide | intro _ | with_reducible apply roll_ite | fail_if_no_progress with_reducible refine roll_mk ?_ rfl rfl rfl rfl rfl | split | dsimp only | decide

theorem State.openSeg_roll (h : s0.Roll s) {die group kind : Nat} : SomeP s0.Roll (State.openSeg s die group kind) := by
  unfold State.openSeg
  try dsimp only
  repeat' first | with_reducible assumption | with_reducible rfl | decide | with_reducible exact somep_none | with_reducible apply somep_some | with_reducible apply State.setSeg_roll | with_reducible apply State.raiseOnce_roll | with_reducible apply roll_ite | fail_if_no_progress with_reducible refine roll_mk ?_ rfl rfl rfl rfl rfl | split | dsimp only | decide

theorem State.settleSeg_roll (h : s0.Roll s) {x : Seg} : s0.Roll (State.settleSeg s x) := by
  unfold State.settleSeg
  try dsimp only
  repeat' first | with_reducible assumption | with_reducible rfl | decide | with_reducible apply State.setSeg_roll | with_reducible apply roll_ite | fail_if_no_progress with_reducible refine roll_mk ?_ rfl rfl rfl rfl rfl | split | dsimp only | decide

theorem State.bufferStripes_roll (h : s0.Roll s) {x : Seg} {a b : Nat} : s0.Roll (State.bufferStripes s x a b) := by
  unfold State.bufferStripes
  try dsimp only
  repeat' first | with_reducible assumption | with_reducible rfl | decide | intro _ | with_reducible apply roll_ite | with_reducible apply roll_foldl | fail_if_no_progress with_reducible refine roll_mk ?_ rfl rfl rfl rfl rfl | split | dsimp only | decide

theorem State.placeIn_roll (h : s0.Roll s) {x : Seg} {align size : Nat} {o : Owner} : s0.Roll (State.placeIn s x align size o).1 := by
  unfold State.placeIn
  try dsimp only
  repeat' first | with_reducible assumption | with_reducible rfl | decide | with_reducible apply State.setSeg_roll | with_reducible apply State.bufferStripes_roll | with_reducible apply roll_ite | fail_if_no_progress with_reducible refine roll_mk ?_ rfl rfl rfl rfl rfl | split | dsimp only | decide

theorem State.place_roll (h : s0.Roll s) {die group kind align size : Nat} {o : Owner} : SomeP s0.Roll (State.place s die group kind align size o) := by
  unfold State.place
  try dsimp only
  repeat' first | with_reducible assumption | with_reducible rfl | decide | with_reducible exact somep_none | with_reducible apply somep_some | with_reducible apply State.placeIn_roll | with_reducible apply State.settleSeg_roll | with_reducible apply State.openSeg_roll | with_reducible apply roll_ite | fail_if_no_progress with_reducible refine roll_mk ?_ rfl rfl rfl rfl rfl | refine pair_of (P := s0.Roll) (by assumption) ?_ | refine somep_of (P := s0.Roll) (by assumption) ?_ | split | dsimp only | decide

theorem State.releaseT2_roll (h : s0.Roll s) {die loc : Nat} : s0.Roll (State.releaseT2 s die loc) := by
  unfold State.releaseT2
  try dsimp only
  repeat' first | with_reducible assumption | with_reducible rfl | decide | intro _ | with_reducible apply State.settleSeg_roll | with_reducible apply roll_ite | fail_if_no_progress with_reducible refine roll_mk ?_ rfl rfl rfl rfl rfl | split | dsimp only | decide

theorem State.mapUnit_roll (h : s0.Roll s) {slot : Nat} {key : ResKey} {kvHead seg : Nat} {f : AttnUnit → AttnUnit} : s0.Roll (State.mapUnit s slot key kvHead seg f) := by
  unfold State.mapUnit
  try dsimp only
  repeat' first | with_reducible assumption | with_reducible rfl | decide | intro _ | with_reducible apply State.mapResult_roll | with_reducible apply roll_ite | fail_if_no_progress with_reducible refine roll_mk ?_ rfl rfl rfl rfl rfl | split | dsimp only | decide

theorem State.promoteFirst_roll (h : s0.Roll s) {die : Nat} {u : UnitRef} : s0.Roll (State.promoteFirst s die u) := by
  unfold State.promoteFirst
  try dsimp only
  repeat' first | with_reducible assumption | with_reducible rfl | decide | intro _ | with_reducible apply roll_ite | fail_if_no_progress with_reducible refine roll_mk ?_ rfl rfl rfl rfl rfl | split | dsimp only | decide

theorem State.waitPage_roll (h : s0.Roll s) {r : Result} {u : AttnUnit} {page : Nat} : s0.Roll (State.waitPage s r u page) := by
  unfold State.waitPage
  try dsimp only
  repeat' first | with_reducible assumption | with_reducible rfl | decide | intro _ | with_reducible apply State.mapUnit_roll | with_reducible apply State.promoteFirst_roll | with_reducible apply State.bump_roll | with_reducible apply State.raiseOnce_roll | with_reducible apply roll_ite | fail_if_no_progress with_reducible refine roll_mk ?_ rfl rfl rfl rfl rfl | split | dsimp only | decide

theorem State.startUnit_roll (h : s0.Roll s) {r : Result} {u : AttnUnit} {core : Nat} : s0.Roll (State.startUnit s r u core) := by
  unfold State.startUnit
  try dsimp only
  repeat' first | with_reducible assumption | with_reducible rfl | decide | intro _ | with_reducible apply State.mapUnit_roll | with_reducible apply roll_ite | fail_if_no_progress with_reducible refine roll_mk ?_ rfl rfl rfl rfl rfl | split | dsimp only | decide

theorem State.startGroup_roll (h : s0.Roll s) {g : Group} : s0.Roll (State.startGroup s g) := by
  unfold State.startGroup
  try dsimp only
  repeat' first | with_reducible assumption | with_reducible rfl | decide | intro _ | with_reducible apply State.bump_roll | with_reducible apply State.mapUnit_roll | with_reducible apply State.mapResult_roll | with_reducible apply roll_ite | with_reducible apply roll_foldl | fail_if_no_progress with_reducible refine roll_mk ?_ rfl rfl rfl rfl rfl | split | dsimp only | decide

theorem State.startGroups_roll (h : s0.Roll s) {die cluster : Nat} : s0.Roll (State.startGroups s die cluster) := by
  unfold State.startGroups
  try dsimp only
  repeat' first | with_reducible assumption | with_reducible rfl | decide | intro _ | with_reducible apply State.startGroup_roll | with_reducible apply roll_ite | with_reducible apply roll_foldl | split | dsimp only | decide

theorem State.pumpUnit_roll (h : s0.Roll s) {r : Result} {u : AttnUnit} : s0.Roll (State.pumpUnit s r u) := by
  unfold State.pumpUnit
  try dsimp only
  repeat' first | with_reducible assumption | with_reducible rfl | decide | intro _ | with_reducible apply State.waitPage_roll | with_reducible apply State.mapUnit_roll | with_reducible apply State.bump_roll | with_reducible apply State.startUnit_roll | with_reducible apply roll_ite | fail_if_no_progress with_reducible refine roll_mk ?_ rfl rfl rfl rfl rfl | split | dsimp only | decide

theorem State.pump_roll (h : s0.Roll s) {die cluster : Nat} : s0.Roll (State.pump s die cluster) := by
  unfold State.pump
  try dsimp only
  repeat' first | with_reducible assumption | with_reducible rfl | decide | intro _ | with_reducible apply State.pumpUnit_roll | with_reducible apply State.startGroups_roll | with_reducible apply roll_ite | with_reducible apply roll_foldl | split | dsimp only | decide

theorem State.retarget_roll (h : s0.Roll s) {u : UnitRef} {tier loc : Nat} : s0.Roll (State.retarget s u tier loc) := by
  unfold State.retarget
  try dsimp only
  repeat' first | with_reducible assumption | with_reducible rfl | decide | with_reducible apply State.putLeaf_roll | with_reducible apply State.putShared_roll | with_reducible apply roll_ite | fail_if_no_progress with_reducible refine roll_mk ?_ rfl rfl rfl rfl rfl | split | dsimp only | decide

theorem State.noteMoved_roll (h : s0.Roll s) {die dir g : Nat} : s0.Roll (State.noteMoved s die dir g) := by
  unfold State.noteMoved
  try dsimp only
  repeat' first | with_reducible assumption | with_reducible rfl | decide | with_reducible apply State.bumpBy_roll | with_reducible apply roll_ite | fail_if_no_progress with_reducible refine roll_mk ?_ rfl rfl rfl rfl rfl | split | dsimp only | decide

theorem State.startMove_roll (h : s0.Roll s) {die : Nat} {u : UnitRef} {i : UnitInfo} {dst : Nat} {quota paced : Bool} {wake : Option Nat} : s0.Roll (State.startMove s die u i dst quota paced wake) := by
  unfold State.startMove
  try dsimp only
  repeat' first | with_reducible assumption | with_reducible rfl | decide | with_reducible exact somep_none | with_reducible apply somep_some | with_reducible apply State.place_roll | with_reducible apply State.nextFree_roll | with_reducible apply State.alloc_roll | with_reducible apply roll_ite | fail_if_no_progress with_reducible refine roll_mk ?_ rfl rfl rfl rfl rfl | refine somep_of (P := s0.Roll) (by assumption) ?_ | split | dsimp only | decide

theorem State.abandon_roll (h : s0.Roll s) {m : Move} : s0.Roll (State.abandon s m) := by
  unfold State.abandon
  try dsimp only
  repeat' first | with_reducible assumption | with_reducible rfl | decide | with_reducible apply State.dealloc_roll | with_reducible apply State.releaseT2_roll | with_reducible apply roll_ite | split | dsimp only | decide

theorem State.finishMove_roll (h : s0.Roll s) {m : Move} : s0.Roll (State.finishMove s m) := by
  unfold State.finishMove
  try dsimp only
  repeat' first | with_reducible assumption | with_reducible rfl | decide | with_reducible apply State.retarget_roll | with_reducible apply State.shootdown_roll | with_reducible apply State.dealloc_roll | with_reducible apply State.releaseT2_roll | with_reducible apply State.bumpBy_roll | with_reducible apply State.noteMoved_roll | with_reducible apply State.abandon_roll | with_reducible apply roll_ite | fail_if_no_progress with_reducible refine roll_mk ?_ rfl rfl rfl rfl rfl | split | dsimp only | decide

theorem State.freePage_roll (h : s0.Roll s) {k : PageKey} : s0.Roll (State.freePage s k) := by
  unfold State.freePage
  try dsimp only
  repeat' first | with_reducible assumption | with_reducible rfl | decide | with_reducible apply State.releaseT2_roll | with_reducible apply State.releasePage_roll | with_reducible apply roll_ite | fail_if_no_progress with_reducible refine roll_mk ?_ rfl rfl rfl rfl rfl | split | dsimp only | decide

theorem State.promotingTest_roll (h : s0.Roll s) {slot : Nat} : s0.Roll (State.promotingTest s slot) := by
  unfold State.promotingTest
  dsimp only
  exact roll_ite (setSess_roll h ⟨rfl, .inl rfl, fun h => nomatch h⟩) h

theorem State.startPromo_roll (h : s0.Roll s) {die : Nat} : s0.Roll (State.startPromo s die) := by
  unfold State.startPromo
  try dsimp only
  repeat' first | with_reducible assumption | with_reducible rfl | decide | intro _ | with_reducible apply State.promotingTest_roll | with_reducible apply State.startMove_roll | with_reducible apply roll_ite | fail_if_no_progress with_reducible refine roll_mk ?_ rfl rfl rfl rfl rfl | split | dsimp only | decide

theorem State.startPromos_roll (h : s0.Roll s) {die n : Nat} : s0.Roll (State.startPromos s die n) := by
  induction n generalizing s with
  | zero => exact h
  | succ n ih => exact ih (State.startPromo_roll h)

theorem State.runPromos_roll (h : s0.Roll s) {die : Nat} : s0.Roll (State.runPromos s die) := by
  unfold State.runPromos
  try dsimp only
  repeat' first | with_reducible assumption | with_reducible rfl | decide | with_reducible apply State.startPromos_roll | with_reducible apply roll_ite | split | dsimp only | decide

theorem State.queuePromo_roll (h : s0.Roll s) {u : UnitRef} {wake : Option Nat} : s0.Roll (State.queuePromo s u wake) := by
  unfold State.queuePromo
  try dsimp only
  repeat' first | with_reducible assumption | with_reducible rfl | decide | intro _ | with_reducible apply roll_ite | fail_if_no_progress with_reducible refine roll_mk ?_ rfl rfl rfl rfl rfl | split | dsimp only | decide

theorem State.firePromotion_roll (h : s0.Roll s) {slot layer : Nat} : s0.Roll (State.firePromotion s slot layer) := by
  unfold State.firePromotion
  try dsimp only
  repeat' first | with_reducible assumption | with_reducible rfl | decide | intro _ | with_reducible apply State.queuePromo_roll | with_reducible apply State.runPromos_roll | with_reducible apply State.promotingTest_roll | with_reducible apply roll_ite | with_reducible apply roll_foldl | fail_if_no_progress with_reducible refine roll_mk ?_ rfl rfl rfl rfl rfl | split | dsimp only | decide

theorem State.addCopy_roll (h : s0.Roll s) {c : T0Copy} : s0.Roll (State.addCopy s c) := by
  unfold State.addCopy
  try dsimp only
  repeat' first | with_reducible assumption | with_reducible rfl | decide | intro _ | with_reducible apply State.alloc_roll | with_reducible apply State.bump_roll | with_reducible apply State.raiseOnce_roll | with_reducible apply roll_ite | fail_if_no_progress with_reducible refine roll_mk ?_ rfl rfl rfl rfl rfl | split | dsimp only | decide

theorem State.firePrefetch_roll (h : s0.Roll s) {slot layer step : Nat} : s0.Roll (State.firePrefetch s slot layer step) := by
  unfold State.firePrefetch
  try dsimp only
  repeat' first | with_reducible assumption | with_reducible rfl | decide | intro _ | with_reducible apply State.addCopy_roll | with_reducible apply roll_ite | with_reducible apply roll_foldl | fail_if_no_progress with_reducible refine roll_mk ?_ rfl rfl rfl rfl rfl | split | dsimp only | decide

theorem State.releaseCopies_roll (h : s0.Roll s) {die : Nat} : s0.Roll (State.releaseCopies s die) := by
  unfold State.releaseCopies
  try dsimp only
  repeat' first | with_reducible assumption | with_reducible rfl | decide | intro _ | with_reducible apply State.dealloc_roll | with_reducible apply roll_ite | with_reducible apply roll_foldl | fail_if_no_progress with_reducible refine roll_mk ?_ rfl rfl rfl rfl rfl | split | dsimp only | decide

theorem State.countLate_roll (h : s0.Roll s) {die step layer : Nat} : s0.Roll (State.countLate s die step layer) := by
  unfold State.countLate
  try dsimp only
  repeat' first | with_reducible assumption | with_reducible rfl | decide | intro _ | with_reducible apply State.bump_roll | with_reducible apply roll_ite | fail_if_no_progress with_reducible refine roll_mk ?_ rfl rfl rfl rfl rfl | split | dsimp only | decide

theorem State.fireTrig_roll (h : s0.Roll s) {x : Trig} : s0.Roll (State.fireTrig s x) := by
  unfold State.fireTrig
  try dsimp only
  repeat' first | with_reducible assumption | with_reducible rfl | decide | with_reducible apply State.firePrefetch_roll | with_reducible apply State.firePromotion_roll | with_reducible apply roll_ite | split | dsimp only | decide

theorem State.fireTrigs_roll (h : s0.Roll s) : s0.Roll (State.fireTrigs s) := by
  unfold State.fireTrigs
  try dsimp only
  repeat' first | with_reducible assumption | with_reducible rfl | decide | intro _ | with_reducible apply State.fireTrig_roll | with_reducible apply roll_ite | with_reducible apply roll_foldl | split | dsimp only | decide

theorem State.scheduleWake_roll (h : s0.Roll s) {slot firstPos : Nat} : s0.Roll (State.scheduleWake s slot firstPos) := by
  unfold State.scheduleWake
  try dsimp only
  repeat' first | with_reducible assumption | with_reducible rfl | decide | intro _ | with_reducible apply State.fireTrigs_roll | with_reducible apply State.firePromotion_roll | with_reducible apply roll_ite | with_reducible apply roll_foldl | fail_if_no_progress with_reducible refine roll_mk ?_ rfl rfl rfl rfl rfl | split | dsimp only | decide

theorem State.restoreImage_roll (h : s0.Roll s) {slot : Nat} : s0.Roll (State.restoreImage s slot) := by
  unfold State.restoreImage
  try dsimp only
  repeat' first | with_reducible assumption | with_reducible rfl | decide | intro _ | with_reducible apply State.alloc_roll | with_reducible apply State.putStaging_roll | with_reducible apply State.nextFree_roll | with_reducible apply State.putArea_roll | with_reducible apply State.dealloc_roll | with_reducible apply State.noteMoved_roll | with_reducible apply State.releaseT2_roll | with_reducible apply roll_ite | fail_if_no_progress with_reducible refine roll_mk ?_ rfl rfl rfl rfl rfl | split | dsimp only | decide

theorem State.mapPins_roll (h : s0.Roll s) {l : List (Nat × Nat × Nat)} {f : Nat → Nat} : s0.Roll (State.mapPins s l f) := by
  unfold State.mapPins
  try dsimp only
  repeat' first | with_reducible assumption | with_reducible rfl | decide | intro _ | with_reducible apply State.settleSeg_roll | with_reducible apply roll_ite | with_reducible apply roll_foldl | fail_if_no_progress with_reducible refine roll_mk ?_ rfl rfl rfl rfl rfl | split | dsimp only | decide

theorem State.discard_roll (h : s0.Roll s) {id : Nat} : s0.Roll (State.discard s id) := by
  unfold State.discard
  try dsimp only
  repeat' first | with_reducible assumption | with_reducible rfl | decide | intro _ | with_reducible apply State.mapPins_roll | with_reducible apply roll_ite | fail_if_no_progress with_reducible refine roll_mk ?_ rfl rfl rfl rfl rfl | split | dsimp only | decide

theorem State.failCkpt_roll (h : s0.Roll s) {cause addr : Nat} : s0.Roll (State.failCkpt s cause addr) := by
  unfold State.failCkpt
  try dsimp only
  repeat' first | with_reducible assumption | with_reducible rfl | decide | with_reducible apply State.discard_roll | with_reducible apply State.setFld_roll | with_reducible apply State.setReg_roll | with_reducible apply State.bump_roll | with_reducible apply State.raise_roll | with_reducible apply roll_ite | fail_if_no_progress with_reducible refine roll_mk ?_ rfl rfl rfl rfl rfl | split | dsimp only | decide

theorem State.putHead_roll (h0 : s0.Roll s) {h : ShardHdr} : s0.Roll (State.putHead s h) := by
  unfold State.putHead
  try dsimp only
  repeat' first | with_reducible assumption | with_reducible rfl | decide | intro _ | with_reducible apply roll_ite | fail_if_no_progress with_reducible refine roll_mk ?_ rfl rfl rfl rfl rfl | split | dsimp only | decide

theorem State.remap_roll (h : s0.Roll s) {die cluster : Nat} : s0.Roll (State.remap s die cluster) := by
  unfold State.remap
  try dsimp only
  repeat' first | with_reducible assumption | with_reducible rfl | decide | with_reducible apply State.setFld_roll | with_reducible apply State.raise_roll | with_reducible apply State.pump_roll | with_reducible apply roll_ite | fail_if_no_progress with_reducible refine roll_mk ?_ rfl rfl rfl rfl rfl | split | dsimp only | decide

theorem State.remapAll_roll (h : s0.Roll s) : s0.Roll (State.remapAll s) := by
  unfold State.remapAll
  try dsimp only
  repeat' first | with_reducible assumption | with_reducible rfl | decide | intro _ | with_reducible apply State.remap_roll | with_reducible apply roll_ite | with_reducible apply roll_foldl | split | dsimp only | decide

theorem State.remapIdle_roll (h : s0.Roll s) : s0.Roll (State.remapIdle s) := by
  unfold State.remapIdle
  try dsimp only
  repeat' first | with_reducible assumption | with_reducible rfl | decide | intro _ | with_reducible apply State.remap_roll | with_reducible apply roll_ite | with_reducible apply roll_foldl | split | dsimp only | decide

theorem State.vreq_roll (h : s0.Roll s) {q : VReq} : s0.Roll (State.vreq s q) := by
  unfold State.vreq
  try dsimp only
  repeat' first | with_reducible assumption | with_reducible rfl | decide | with_reducible apply State.setFld_roll | with_reducible apply State.ibi_roll | with_reducible apply roll_ite | split | dsimp only | decide

theorem State.setPlan_roll (h : s0.Roll s) {p : Option Plan} : s0.Roll (State.setPlan s p) := by
  unfold State.setPlan
  try dsimp only
  repeat' first | with_reducible assumption | with_reducible rfl | decide | with_reducible apply roll_ite | fail_if_no_progress with_reducible refine roll_mk ?_ rfl rfl rfl rfl rfl | split | dsimp only | decide

theorem State.endPlan_roll (h : s0.Roll s) {p : Plan} : s0.Roll (State.endPlan s p) := by
  unfold State.endPlan
  try dsimp only
  repeat' first | with_reducible assumption | with_reducible rfl | decide | with_reducible apply State.setPlan_roll | with_reducible apply State.setFld_roll | with_reducible apply State.raise_roll | with_reducible apply roll_ite | split | dsimp only | decide

theorem State.clockPlan_roll (h : s0.Roll s) {p : Plan} : s0.Roll (State.clockPlan s p) := by
  unfold State.clockPlan
  try dsimp only
  repeat' first | with_reducible assumption | with_reducible rfl | decide | with_reducible apply State.setFld_roll | with_reducible apply State.endPlan_roll | with_reducible apply State.setPlan_roll | with_reducible apply State.vreq_roll | with_reducible apply roll_ite | fail_if_no_progress with_reducible refine roll_mk ?_ rfl rfl rfl rfl rfl | split | dsimp only | decide

theorem State.nextReq_roll (h : s0.Roll s) {p : Plan} {reqs : List VReq} : s0.Roll (State.nextReq s p reqs) := by
  unfold State.nextReq
  try dsimp only
  repeat' first | with_reducible assumption | with_reducible rfl | decide | with_reducible apply State.setPlan_roll | with_reducible apply State.vreq_roll | with_reducible apply State.endPlan_roll | with_reducible apply State.clockPlan_roll | with_reducible apply roll_ite | fail_if_no_progress with_reducible refine roll_mk ?_ rfl rfl rfl rfl rfl | split | dsimp only | decide

theorem State.beginPlan_roll (h : s0.Roll s) : s0.Roll (State.beginPlan s) := by
  unfold State.beginPlan
  try dsimp only
  repeat' first | with_reducible assumption | with_reducible rfl | decide | with_reducible apply State.setFld_roll | with_reducible apply State.nextReq_roll | with_reducible apply roll_ite | fail_if_no_progress with_reducible refine roll_mk ?_ rfl rfl rfl rfl rfl | split | dsimp only | decide

theorem State.addHeld_roll (h : s0.Roll s) {slot : Nat} : s0.Roll (State.addHeld s slot) := by
  unfold State.addHeld
  try dsimp only
  repeat' first | with_reducible assumption | with_reducible rfl | decide | with_reducible apply roll_ite | fail_if_no_progress with_reducible refine roll_mk ?_ rfl rfl rfl rfl rfl | split | dsimp only | decide

theorem State.sesEvent_roll (h : s0.Roll s) {slot sub : Nat} {alert : Bool} {a1 a2 a3 : Nat} : s0.Roll (State.sesEvent s slot sub alert a1 a2 a3) := by
  unfold State.sesEvent
  try dsimp only
  repeat' first | with_reducible assumption | with_reducible rfl | decide | with_reducible apply State.raise_roll | with_reducible apply roll_ite | split | dsimp only | decide

theorem State.ownerChange_roll (h : s0.Roll s) {slot : Nat} : s0.Roll (State.ownerChange s slot) := by
  unfold State.ownerChange
  try dsimp only
  repeat' first | with_reducible assumption | with_reducible rfl | decide | intro _ | with_reducible apply State.raise_roll | with_reducible apply State.eventFrame_roll | with_reducible apply roll_ite | split | dsimp only | decide

theorem State.cancelTrigs_roll (h : s0.Roll s) {slot : Nat} : s0.Roll (State.cancelTrigs s slot) := by
  unfold State.cancelTrigs
  try dsimp only
  repeat' first | with_reducible assumption | with_reducible rfl | decide | intro _ | with_reducible apply State.promotingTest_roll | with_reducible apply roll_ite | fail_if_no_progress with_reducible refine roll_mk ?_ rfl rfl rfl rfl rfl | split | dsimp only | decide

theorem State.queueCold_roll (h : s0.Roll s) {slot : Nat} : s0.Roll (State.queueCold s slot) := by
  unfold State.queueCold
  try dsimp only
  repeat' first | with_reducible assumption | with_reducible rfl | decide | intro _ | with_reducible apply roll_ite | fail_if_no_progress with_reducible refine roll_mk ?_ rfl rfl rfl rfl rfl | split | dsimp only | decide

theorem State.sesDone_roll (h : s0.Roll s) {e : Env} {type slot : Nat} : s0.Roll (State.sesDone s e type slot) := by
  unfold State.sesDone
  try dsimp only
  repeat' first | with_reducible assumption | with_reducible rfl | decide | with_reducible apply State.answer_roll | with_reducible apply roll_ite | split | dsimp only | decide

theorem State.unrefGram_roll (h : s0.Roll s) {die id : Nat} : s0.Roll (State.unrefGram s die id) := by
  unfold State.unrefGram
  try dsimp only
  repeat' first | with_reducible assumption | with_reducible rfl | decide | with_reducible apply roll_ite | fail_if_no_progress with_reducible refine roll_mk ?_ rfl rfl rfl rfl rfl | split | dsimp only | decide

theorem State.dropWork_roll (h : s0.Roll s) {slot : Nat} : s0.Roll (State.dropWork s slot) := by
  unfold State.dropWork
  try dsimp only
  repeat' first | with_reducible assumption | with_reducible rfl | decide | intro _ | with_reducible apply State.dealloc_roll | with_reducible apply State.releaseT2_roll | with_reducible apply roll_ite | fail_if_no_progress with_reducible refine roll_mk ?_ rfl rfl rfl rfl rfl | split | dsimp only | decide

theorem State.pickAll_roll (h : s0.Roll s) : s0.Roll (State.pickAll s) := by
  unfold State.pickAll
  try dsimp only
  repeat' first | with_reducible assumption | with_reducible rfl | decide | intro _ | with_reducible apply State.pick_roll | with_reducible apply roll_ite | with_reducible apply roll_foldl | split | dsimp only | decide

theorem State.pumpAll_roll (h : s0.Roll s) : s0.Roll (State.pumpAll s) := by
  unfold State.pumpAll
  try dsimp only
  repeat' first | with_reducible assumption | with_reducible rfl | decide | intro _ | with_reducible apply State.pump_roll | with_reducible apply State.runPromos_roll | with_reducible apply roll_ite | with_reducible apply roll_foldl | split | dsimp only | decide

theorem State.overrun_roll (h : s0.Roll s) {p : Nat} {was : List Nat} : s0.Roll (State.overrun s p was) := by
  unfold State.overrun
  try dsimp only
  repeat' first | with_reducible assumption | with_reducible rfl | decide | with_reducible apply State.bump_roll | with_reducible apply State.setPort_roll | with_reducible apply State.raise_roll | with_reducible apply roll_ite | fail_if_no_progress with_reducible refine roll_mk ?_ rfl rfl rfl rfl rfl | split | dsimp only | decide

theorem State.openGate_roll (h : s0.Roll s) {p i y : Nat} : s0.Roll (State.openGate s p i y) := by
  unfold State.openGate
  try dsimp only
  repeat' first | with_reducible assumption | with_reducible rfl | decide | with_reducible apply State.settle_roll | with_reducible apply State.setPort_roll | with_reducible apply State.overrun_roll | with_reducible apply State.carry_roll | with_reducible apply roll_ite | fail_if_no_progress with_reducible refine roll_mk ?_ rfl rfl rfl rfl rfl | split | dsimp only | decide

theorem State.closeGate_roll (h : s0.Roll s) {p i y : Nat} : s0.Roll (State.closeGate s p i y) := by
  unfold State.closeGate
  try dsimp only
  repeat' first | with_reducible assumption | with_reducible rfl | decide | intro _ | with_reducible apply State.settle_roll | with_reducible apply State.setPort_roll | with_reducible apply State.overrun_roll | with_reducible apply State.missClose_roll | with_reducible apply State.countSplit_roll | with_reducible apply roll_ite | fail_if_no_progress with_reducible refine roll_mk ?_ rfl rfl rfl rfl rfl | split | dsimp only | decide

theorem State.swapGates_roll (h : s0.Roll s) {p : Nat} : s0.Roll (State.swapGates s p) := by
  unfold State.swapGates
  try dsimp only
  repeat' first | with_reducible assumption | with_reducible rfl | decide | intro _ | with_reducible apply State.closeGate_roll | with_reducible apply State.setReg_roll | with_reducible apply State.setFld_roll | with_reducible apply State.setPort_roll | with_reducible apply State.raise_roll | with_reducible apply roll_ite | with_reducible apply roll_foldl | fail_if_no_progress with_reducible refine roll_mk ?_ rfl rfl rfl rfl rfl | split | dsimp only | decide

theorem State.markOver_roll (h : s0.Roll s) : s0.Roll (State.markOver s) := by
  unfold State.markOver
  try dsimp only
  repeat' first | with_reducible assumption | with_reducible rfl | decide | intro _ | with_reducible apply roll_ite | fail_if_no_progress with_reducible refine roll_mk ?_ rfl rfl rfl rfl rfl | split | dsimp only | decide

theorem State.dropOldSteps_roll (h : s0.Roll s) : s0.Roll (State.dropOldSteps s) := by
  unfold State.dropOldSteps
  try dsimp only
  repeat' first | with_reducible assumption | with_reducible rfl | decide | intro _ | with_reducible apply roll_ite | fail_if_no_progress with_reducible refine roll_mk ?_ rfl rfl rfl rfl rfl | split | dsimp only | decide

end Sys2Proof.Machine
end

