-- ==== Sys2Proof/Laws/SessionCmds.lean ====
section
/-! SUPPORT. What the session commands come to: the records a message finds, and what each leaves of them. -/

namespace Sys2Proof.Machine

variable {s s0 t : State}

theorem reported_sess (h : s.Reported t) (x : Nat) : t.sess x = s.sess x := by
  unfold State.sess
  rw [h.ses]

theorem reported_boundary (h : s.Reported t) : t.boundary = s.boundary := h.fld 0 0 (by decide)

theorem aside_sess (h : s.Aside t) (x : Nat) : t.sess x = s.sess x := by
  unfold State.sess
  rw [h.ses]

theorem aside_boundary (h : s.Aside t) : t.boundary = s.boundary := h.fld 0 0 (by decide)

theorem roll_boundary (h : s.Roll t) : t.boundary = s.boundary := by
  unfold State.boundary State.fld
  rw [h.boundary]

theorem heard_pre (s : State) (e : Env) (type : Nat) (slot : Option Nat) :
    (s.tick e.t).Reported (((s.arrived.tick e.t).takeReady e).track e type slot) :=
  State.track_reported (State.takeReady_reported (reported_tick (reported_mk (State.formResults_reported (reported_refl s))
    rfl rfl rfl rfl rfl rfl rfl rfl rfl rfl rfl rfl rfl rfl rfl rfl rfl rfl rfl rfl) _))

/-- The records that a message finds: its own may be marked as corrupt. -/
theorem heard_sess (s : State) (e : Env) (type slot x : Nat) : (s.heard e type (some slot)).sess x =
    if x = slot ∧ e.recBad = true then { s.sess x with crcBad := true } else s.sess x := by
  have h := heard_pre s e type (some slot)
  unfold State.heard
  dsimp only
  by_cases hb : e.recBad = true
  · rw [if_pos hb, setSess_sess]
    by_cases hx : x = slot
    · subst hx
      rw [if_pos rfl, if_pos ⟨rfl, hb⟩, reported_sess h]
      rfl
    · rw [if_neg hx, if_neg (fun c => hx c.1), reported_sess h]
      rfl
  · rw [if_neg hb, if_neg (fun c => hb c.2), reported_sess h]
    rfl

theorem heard_other (s : State) (e : Env) (type : Nat) {slot x : Nat} (hx : x ≠ slot) :
    (s.heard e type (some slot)).sess x = s.sess x := by
  rw [heard_sess, if_neg (fun c => hx c.1)]

/-- Any part of a record but the mark is as it was. -/
theorem heard_part (s : State) (e : Env) (type slot x : Nat) {α : Type} (f : Session → α)
    (hf : ∀ r : Session, f { r with crcBad := true } = f r) : f ((s.heard e type (some slot)).sess x) = f (s.sess x) := by
  rw [heard_sess]
  split
  · exact hf _
  · rfl

theorem heard_regs (s : State) (e : Env) (type : Nat) (slot : Option Nat) (die sel : Nat) {r : RegId} (hr : r ∉ chatter) :
    (s.heard e type slot).reg die sel r = s.reg die sel r := by
  have h := (heard_pre s e type slot).reg die sel r hr
  unfold State.heard
  cases slot with
  | none => exact h
  | some x =>
    dsimp only
    split
    · exact h
    · exact h

theorem heard_fld (s : State) (e : Env) (type : Nat) (slot : Option Nat) (die sel : Nat) {f : Field} (hf : f.reg ∉ chatter) :
    (s.heard e type slot).fld die sel f = s.fld die sel f := by
  unfold State.fld
  rw [heard_regs s e type slot die sel hf]

theorem heard_boundary (s : State) (e : Env) (type : Nat) (slot : Option Nat) : (s.heard e type slot).boundary = s.boundary :=
  heard_fld s e type slot 0 0 (by decide)

theorem heard_start (s : State) (e : Env) (type : Nat) (slot : Option Nat) : (s.heard e type slot).start = s.start := by
  have h := (heard_pre s e type slot).start
  unfold State.heard
  cases slot with
  | none => exact h
  | some x =>
    dsimp only
    split
    · exact h
    · exact h

theorem heard_role (s : State) (e : Env) (type : Nat) (slot : Option Nat) (ep : Nat) : (s.heard e type slot).role ep = s.role ep := by
  unfold State.role State.endpoint
  rw [heard_start]

theorem heard_leaseOf (s : State) (e : Env) (type : Nat) (slot : Option Nat) (n : Nat) :
    (s.heard e type slot).leaseOf n = s.leaseOf n := by
  unfold State.leaseOf
  rw [heard_fld s e type slot 0 0 (by decide)]

/-- A session message that passes its check is carried out. -/
theorem sesMessage_done {e : Env} {c : Instr} {type : Nat} {m : SesMsg} {check : State → Option Refuse} {apply : State → State}
    (h : s.Enters e type) (hc : check (s.heard e type (some (handleSlot m.handle))) = none) :
    (apply (s.heard e type (some (handleSlot m.handle)))).Aside (s.sesMessage e c type m check apply) := by
  have := message_aside h c (some (handleSlot m.handle)) (zeros 24) (fun s =>
    match check s with
    | some x => (if x.status = St.replay then s.bump (slotDie (handleSlot m.handle)) 0 Fld.SES_OUTCOME1_REPLAY else s).sesRefuse
        e type m.handle x
    | none => apply s)
  rw [hc] at this
  exact this

theorem answer_answered (s : State) (e : Env) (type status reason : Nat) (body : List Byte) :
    (s.answer e type status reason body).rp.answered = some (type, status, body) := rfl

theorem sesDone_answered (s : State) (e : Env) (type slot : Nat) : ∃ b, (s.sesDone e type slot).rp.answered = some (type, St.done, b) :=
  ⟨_, rfl⟩

theorem sesDone_sess (s : State) (e : Env) (type slot x : Nat) : (s.sesDone e type slot).sess x = s.sess x :=
  reported_sess (State.sesDone_reported (reported_refl s)) x

theorem setSess_self (s : State) (slot : Nat) (r : Session) : (s.setSess slot r).sess slot = r := by
  rw [setSess_sess, if_pos rfl]

theorem setSess_other (s : State) {slot x : Nat} (r : Session) (h : x ≠ slot) : (s.setSess slot r).sess x = s.sess x := by
  rw [setSess_sess, if_neg h]

theorem freeze_spec (s : State) (e : Env) (slot : Nat) : (s.freeze e slot).ses.recs = (s.setSess slot { s.sess slot with
    st := .held, heldReason := 3, epoch := (s.sess slot).epoch + 1, lastBy := e.ep, lastPos := s.pos }).ses.recs
    ∧ (s.freeze e slot).boundary = s.boundary := by
  unfold State.freeze
  extract_lets r s1
  have h := State.sesEvent_reported (reported_refl ((s1.endEpoch slot).addHeld slot)) (slot := slot) (sub := 0x12) (alert := false)
    (a1 := r.owner) (a2 := r.epoch + 1) (a3 := 3)
  have h2 : ((s1.endEpoch slot).addHeld slot).ses.recs = s1.ses.recs ∧ ((s1.endEpoch slot).addHeld slot).boundary = s.boundary := by
    unfold State.addHeld
    split <;> exact ⟨rfl, rfl⟩
  exact ⟨(congrArg Sessions.recs h.ses).trans h2.1, (reported_boundary h).trans h2.2⟩

theorem handTo_spec (s : State) (e : Env) (slot newOwner leaseSteps : Nat) : (s.setSess slot { s.sess slot with
    st := if s.role newOwner = 1 then .filling else .owned, heldReason := 0, owner := newOwner, epoch := (s.sess slot).epoch + 1,
    lastBy := e.ep, leaseLen := s.leaseOf leaseSteps, leaseEnd := s.boundary + s.leaseOf leaseSteps, lastPos := s.pos }).ses.recs
      = (s.handTo e slot newOwner leaseSteps).ses.recs ∧ (s.handTo e slot newOwner leaseSteps).boundary = s.boundary := by
  unfold State.handTo
  extract_lets r len s1 s2 s3
  have h3 : s2.Reported s3 := reported_ite (State.sesEvent_reported (reported_refl _)) (reported_refl _)
  have h4 : s2.Reported (if r.owner ≠ newOwner then s3.ownerChange slot else s3) := reported_ite (State.ownerChange_reported h3) h3
  exact ⟨(congrArg Sessions.recs h4.ses).symm, (reported_boundary h4).trans rfl⟩

theorem sess_of_recs (h : t.ses.recs = s.ses.recs) (x : Nat) : t.sess x = s.sess x := by
  unfold State.sess
  rw [h]

theorem closeRecord_sess (s : State) (slot : Nat) : ((s.closeRecord slot).sess slot).st = .free ∧ ((s.closeRecord slot).sess slot).owner = 0
    ∧ ((s.closeRecord slot).sess slot).scrubPending = true ∧ ((s.closeRecord slot).sess slot).gen = nextGen (s.sess slot).gen := by
  unfold State.closeRecord
  extract_lets r wrap fx s1
  have h1 : s1.sess slot = { r with gen := nextGen r.gen, st := .free, heldReason := 0, owner := 0, leaseEnd := 0, scrubPending := true, lastPos := s.pos, crcBad := false, fin := { r.fin with hold := [] } } :=
    setSess_self _ _ _
  have h2 : ∀ u : State, u.ses.recs = s1.ses.recs → (u.sess slot).st = .free ∧ (u.sess slot).owner = 0
      ∧ (u.sess slot).scrubPending = true ∧ (u.sess slot).gen = nextGen (s.sess slot).gen := by
    intro u hu
    rw [sess_of_recs hu, h1]
    exact ⟨rfl, rfl, rfl, rfl⟩
  split
  · refine h2 _ ?_
    exact congrArg Sessions.recs (State.raise_reported (reported_refl (s1.bump (slotDie slot) 0 Fld.SES_OUTCOME1_GEN_WRAP))).ses
  · exact h2 _ rfl

/-- What a SESSION_OPEN leaves of its slot. -/
theorem openApply_spec (s : State) (e : Env) (m : OpenMsg) (slot : Nat) :
    (∀ x, (s.openApply e m slot).sess x = if x = slot then { s.openRecord m slot with lastBy := e.ep } else s.sess x)
      ∧ ((s.openApply e m slot).staging slot).isSome = true ∧ ((s.openApply e m slot).area slot).isSome = true := by
  unfold State.openApply
  extract_lets ctx die home s1 rx r s2 x3 s3 s4 s5 s6
  have h1 : s1.ses = s.ses ∧ s1.boundary = s.boundary ∧ s1.pos = s.pos ∧ s1.step = s.step := by
    unfold s1
    split
    · exact ⟨rfl, fld_setFld_ne s _ (.inr (.inr (by decide))), rfl, rfl⟩
    · exact ⟨rfl, rfl, rfl, rfl⟩
  have hr : r = { s.openRecord m slot with lastBy := e.ep } := by
    unfold r rx s1
    split
    · unfold State.openRecord
      dsimp only
      have hb : (s.bump die 0 Fld.RP_CHOICES0_PLACE).boundary = s.boundary := fld_setFld_ne s _ (.inr (.inr (by decide)))
      have hl : (s.bump die 0 Fld.RP_CHOICES0_PLACE).leaseOf m.leaseSteps = s.leaseOf m.leaseSteps := by
        unfold State.leaseOf
        rw [show (s.bump die 0 Fld.RP_CHOICES0_PLACE).fld 0 0 Fld.SES_LEASE_LEASE_DEFAULT = s.fld 0 0 Fld.SES_LEASE_LEASE_DEFAULT from
          fld_setFld_ne s _ (.inr (.inr (by decide)))]
      have hn : (s.bump die 0 Fld.RP_CHOICES0_PLACE).fld 0 0 Fld.SES_CTRL_NODE_ID = s.fld 0 0 Fld.SES_CTRL_NODE_ID :=
        fld_setFld_ne s _ (.inr (.inr (by decide)))
      have ho : (s.bump die 0 Fld.RP_CHOICES0_PLACE).normal = s.normal := by
        unfold State.normal State.status
        rw [show (s.bump die 0 Fld.RP_CHOICES0_PLACE).fld 0 0 Fld.GLB_START_STATUS = s.fld 0 0 Fld.GLB_START_STATUS from
          fld_setFld_ne s _ (.inr (.inr (by decide)))]
      rw [hb, hl, hn, ho]
      rfl
    · rfl
  have h2 : ∀ x, s2.sess x = if x = slot then r else s.sess x := by
    intro x
    refine (setSess_sess s1 slot r x).trans ?_
    rw [show s1.sess x = s.sess x by unfold State.sess; rw [h1.1]]
  have h5 : s5.ses.recs = s2.ses.recs := by
    have : s4.Charged s5 := State.alloc_charged (charged_refl _) (by decide)
    rw [this.recs, show s4.ses = s3.ses from State.bump_ses _ _ _ _]
  clear_value s5
  refine ⟨fun x => ?_, ?_, ?_⟩
  · rw [← hr, ← h2 x]
    refine (sess_of_recs (s := s5) ?_ x).trans (sess_of_recs h5 x)
    rfl
  · show (alGet slot (alSet slot _ s5.kv.staging)).isSome = true
    rw [alGet_alSet_self]
    rfl
  · show (alGet slot (alSet slot _ s6.kv.areas)).isSome = true
    rw [alGet_alSet_self]
    rfl

theorem quotaTest_spec (s : State) (die ctx tier : Nat) (ht : tier < 4) :
    (s.quotaTest die ctx tier).overLimit die ctx tier = decide (s.quota die ctx tier < s.use die ctx tier)
      ∧ (s.quotaTest die ctx tier).quota die ctx tier = s.quota die ctx tier
      ∧ (s.quotaTest die ctx tier).use die ctx tier = s.use die ctx tier := by
  have hlt : s.fld die ctx Fld.CTX_STATE_OVER_QUOTA < 16 := getBits_lt _ 3 0
  have keep : ∀ (n : Nat) (u : State), (u.setFld die ctx Fld.CTX_STATE_OVER_QUOTA n).quota die ctx tier = u.quota die ctx tier
      ∧ (u.setFld die ctx Fld.CTX_STATE_OVER_QUOTA n).use die ctx tier = u.use die ctx tier := by
    intro n u
    unfold State.quota State.use State.setFld
    constructor
    · rw [reg_setReg_ne u _ (.inr (.inr (by simp; omega)))]
    · rw [reg_setReg_ne u _ (.inr (.inr (by simp; omega)))]
  have rep : ∀ {u v : State}, u.Reported v → v.quota die ctx tier = u.quota die ctx tier ∧ v.use die ctx tier = u.use die ctx tier
      ∧ v.overLimit die ctx tier = u.overLimit die ctx tier := by
    intro u v h
    unfold State.quota State.use State.overLimit
    rw [h.reg _ _ _ (by simp [chatter]; omega), h.reg _ _ _ (by simp [chatter]; omega), h.fld _ _ (by decide)]
    exact ⟨rfl, rfl, rfl⟩
  have set : ∀ (n : Nat) (u : State), (u.setFld die ctx Fld.CTX_STATE_OVER_QUOTA n).overLimit die ctx tier = (n % 16 / 2 ^ tier % 2 == 1) := by
    intro n u
    unfold State.overLimit
    rw [fld_setFld_self _ _ _ _ _ (by decide) (by decide)]
    rfl
  unfold State.quotaTest
  extract_lets isOver bits x1 s1
  cases hi : isOver with
  | true =>
    cases ho : s.overLimit die ctx tier with
    | true =>
      rw [if_neg (by decide), if_neg (by decide)]
      exact ⟨ho.trans hi.symm, rfl, rfl⟩
    | false =>
      rw [if_pos (by decide)]
      obtain ⟨r1, r2, r3⟩ := rep (State.raise_reported (reported_refl (s.setFld die ctx Fld.CTX_STATE_OVER_QUOTA (bits + 2 ^ tier)))
        (die := die) (sub := 0x15) (a := { ctx := some ctx, a0 := tier }))
      obtain ⟨k1, k2⟩ := keep (bits + 2 ^ tier) s
      refine ⟨?_, r1.trans k1, r2.trans k2⟩
      rw [r3, set]
      refine Eq.trans ?_ hi.symm
      unfold State.overLimit at ho
      show ((s.fld die ctx Fld.CTX_STATE_OVER_QUOTA + 2 ^ tier) % 16 / 2 ^ tier % 2 == 1) = true
      generalize s.fld die ctx Fld.CTX_STATE_OVER_QUOTA = n at hlt ho
      clear r1 r2 r3 k1 k2
      revert ho
      revert n
      match tier, ht with
      | 0, _ | 1, _ | 2, _ | 3, _ => decide
  | false =>
    cases ho : s.overLimit die ctx tier with
    | true =>
      rw [if_neg (by decide), if_pos (by decide)]
      obtain ⟨r1, r2, r3⟩ := rep (State.raise_reported (reported_refl (s1.setFld die ctx Fld.CTX_STATE_OVER_QUOTA (bits - 2 ^ tier)))
        (die := die) (sub := 0x16) (a := { ctx := some ctx, a0 := tier }))
      obtain ⟨k1, k2⟩ := keep (bits - 2 ^ tier) s1
      refine ⟨?_, r1.trans k1, r2.trans k2⟩
      rw [r3, set]
      refine Eq.trans ?_ hi.symm
      unfold State.overLimit at ho
      show ((s.fld die ctx Fld.CTX_STATE_OVER_QUOTA - 2 ^ tier) % 16 / 2 ^ tier % 2 == 1) = false
      generalize s.fld die ctx Fld.CTX_STATE_OVER_QUOTA = n at hlt ho
      clear r1 r2 r3 k1 k2
      revert ho
      revert n
      match tier, ht with
      | 0, _ | 1, _ | 2, _ | 3, _ => decide
    | false =>
      rw [if_neg (by decide), if_neg (by decide)]
      exact ⟨ho.trans hi.symm, rfl, rfl⟩

theorem heard_ses (s : State) (e : Env) (type : Nat) : (s.heard e type none).ses = s.ses := by
  have h := heard_pre s e type none
  unfold State.heard
  exact h.ses

theorem heard_kv (s : State) (e : Env) (type : Nat) : (s.heard e type none).kv = s.kv := by
  have h := heard_pre s e type none
  unfold State.heard
  exact h.kv

theorem heard_lowestSlot (s : State) (e : Env) (type die : Nat) : (s.heard e type none).lowestSlot die = s.lowestSlot die := by
  unfold State.lowestSlot State.slotFree State.sess
  rw [heard_ses]

theorem heard_openDie (s : State) (e : Env) (type : Nat) (m : OpenMsg) : (s.heard e type none).openDie m = s.openDie m := by
  unfold State.openDie
  rw [heard_fld s e type none 0 _ (by decide)]

theorem openCheck_slot {s : State} {e : Env} {m : OpenMsg} (h : s.openCheck e m = none) : ∃ slot, s.lowestSlot (s.openDie m) = some slot := by
  unfold State.openCheck at h
  split at h
  · cases h
  split at h
  · cases h
  split at h
  · cases h
  split at h
  · cases h
  cases ha : s.openAlloc m with
  | some st => rw [ha] at h; cases h
  | none =>
    unfold State.openAlloc at ha
    dsimp only at ha
    split at ha
    · cases ha
    split at ha
    · cases ha
    split at ha
    · cases ha
    rename_i hx
    cases hl : s.lowestSlot (s.openDie m) with
    | some x => exact ⟨x, rfl⟩
    | none =>
      rw [hl] at hx
      exact absurd rfl hx

theorem takeHeld_spec (s : State) (die : Nat) : (s.takeHeld die).1.ses.recs = s.ses.recs
    ∧ (s.takeHeld die).1.ses.held0 = (if die = 0 then s.ses.held0.tail else s.ses.held0)
    ∧ (s.takeHeld die).1.ses.held1 = (if die = 0 then s.ses.held1 else s.ses.held1.tail) := by
  unfold State.takeHeld
  split
  · exact ⟨rfl, List.drop_one, rfl⟩
  · exact ⟨rfl, rfl, List.drop_one⟩

theorem quotaRow_id {tier : Nat} (ht : tier < 4) : (rowOf (quotaReg tier)).id = quotaReg tier := by
  match tier, ht with
  | 0, _ | 1, _ | 2, _ | 3, _ => decide

theorem quota_store (s : State) (die ctx : Nat) (v : Word) {tier : Nat} (ht : tier < 4) :
    (s.store die ctx (rowOf (quotaReg tier)) v).quota die ctx tier = getBits v 43 0 := by
  have htidy : (rowOf (quotaReg tier)).tidy = true := by
    match tier, ht with
    | 0, _ | 1, _ | 2, _ | 3, _ => decide
  have hmem : (⟨43, 0, .rw, 0⟩ : FieldRow) ∈ (rowOf (quotaReg tier)).fields := by
    match tier, ht with
    | 0, _ | 1, _ | 2, _ | 3, _ => decide
  have hbad : badValue (rowOf (quotaReg tier)).id 43 (getBits v 43 0) = false := by
    rw [quotaRow_id ht]
    match tier, ht with
    | 0, _ | 1, _ | 2, _ | 3, _ => rfl
  have h := fld_store (s := s) (die := die) (sel := ctx) (v := v) htidy hmem rfl hbad
  rw [quotaRow_id ht] at h
  exact h

theorem use_store (s : State) (die ctx : Nat) (v : Word) {tier : Nat} (ht : tier < 4) :
    (s.store die ctx (rowOf (quotaReg tier)) v).use die ctx tier = s.use die ctx tier := by
  unfold State.use
  rw [reg_store_ne s v (.inr (.inr ?_))]
  rw [quotaRow_id ht]
  unfold quotaReg
  intro h
  have h2 := congrArg RegId.off h
  simp at h2
  try omega

theorem reported_use {s t : State} (h : s.Reported t) (die ctx tier : Nat) (ht : tier < 4) : t.use die ctx tier = s.use die ctx tier := by
  unfold State.use
  rw [h.reg _ _ _ (by simp [chatter]; omega)]

end Sys2Proof.Machine
end

