-- ==== Sys2Proof/Laws/PageCmds.lean ====
section
/-! SUPPORT. What the key-value page commands come to: the staging area of a session, its pins, and the entries of a die. -/

namespace Sys2Proof.Machine

variable {s s0 t : State}

theorem heard_kv' (s : State) (e : Env) (type : Nat) (slot : Option Nat) : (s.heard e type slot).kv = s.kv := by
  have h := (heard_pre s e type slot).kv
  unfold State.heard
  cases slot with
  | none => exact h
  | some x =>
    dsimp only
    split
    · exact h
    · exact h

theorem heard_staging (s : State) (e : Env) (type : Nat) (slot : Option Nat) (x : Nat) : (s.heard e type slot).staging x = s.staging x := by
  unfold State.staging
  rw [heard_kv']

theorem putStaging_self (s : State) (slot : Nat) (g : Staging) : (s.putStaging slot g).staging slot = some g := alGet_alSet_self _ _ _

theorem putStaging_ne (s : State) {slot x : Nat} (g : Staging) (h : x ≠ slot) : (s.putStaging slot g).staging x = s.staging x :=
  alGet_alSet_ne h _ _

theorem needAreas_none {s : State} {slot : Nat} (h : alGet slot s.kv.images = none) : s.needAreas slot = (s, none) := by
  unfold State.needAreas
  rw [h]

/-- A KV_APPEND that passes its checks comes to what its form does. -/
theorem kvMessage_passes {s h : State} {e : Env} {m : KvMsg} {form : Nat} {g : Staging} (c : Instr) (hp : s.AppendPasses e m form h g) :
    State.Aside (if form = 2 then h.kvLink e m else if form = 3 then h.kvTruncate e m
      else if form = 4 ∨ form = 5 then h.kvPin e m (form == 5) else h.kvAppend e m form) (s.kvMessage e c m form)
      ∧ h.staging (handleSlot m.handle) = some g := by
  obtain ⟨hE, rfl, hc, hr, hf, hi, hg⟩ := hp
  have ha : ((s.heard e 3 (some (handleSlot m.handle))).kvRun e m form).Aside (s.kvMessage e c m form) :=
    message_aside hE c (some (handleSlot m.handle)) (kvBody m.handle 0 0 0 0 0) (fun s => s.kvRun e m form)
  refine ⟨?_, (heard_staging _ _ _ _ _).trans hg⟩
  have hcond : (form == 2 && !handleClean m.aux) = false := by
    by_cases h2 : form = 2
    · rw [hc h2, Bool.not_true, Bool.and_false]
    · rw [Bool.and_eq_false_iff]
      exact .inl (by simpa using h2)
  have hi' : alGet (handleSlot m.handle) (s.heard e 3 (some (handleSlot m.handle))).kv.images = none := by
    rw [heard_kv']
    exact hi
  unfold State.kvRun at ha
  rw [hcond, if_neg (by decide)] at ha
  simp only [hr, hf, needAreas_none hi'] at ha
  exact ha

theorem kvAnswer_answered (s : State) (e : Env) (slot status reason d n x : Nat) :
    ∃ b, (s.kvAnswer e slot status reason d n x).rp.answered = some (3, status, b) := ⟨_, rfl⟩

theorem kvAnswer_reported (s : State) (e : Env) (slot status reason d n x : Nat) : s.Reported (s.kvAnswer e slot status reason d n x) :=
  State.answer_reported (reported_refl s)

theorem reported_kept {s t : State} (h : s.Reported t) : s.Kept t := ⟨by rw [h.kv], by rw [h.kv], by rw [h.kv]⟩

theorem aside_kept {s t : State} (h : s.Aside t) : s.Kept t := ⟨by rw [h.kv], by rw [h.kv], by rw [h.kv]⟩

/-- Flushing a page leaves the layer lengths and the globals. -/
theorem flush_staging {s : State} {slot : Nat} {g : Staging} (h : s.staging slot = some g) (layer page : Nat) :
    ∃ g', (s.flush slot layer page).staging slot = some g' ∧ g'.lens = g.lens ∧ g'.globals = g.globals := by
  unfold State.flush
  rw [h]
  dsimp only
  split
  · rename_i g1 h1
    refine ⟨_, (State.releaseRule_kept (kept_refl _)).stagingAt slot |>.trans (putStaging_self _ _ _), ?_⟩
    have hk : s.staging slot = some g1 := by
      rw [← h1]
      refine ((State.Kept.stagingAt (?_ : s.Kept _) slot)).symm
      refine State.addLeaf_kept (State.nextFree_kept (State.alloc_kept (State.notePacked_kept ?_)))
      exact kept_ite (State.freePage_kept (State.bump_kept (kept_refl s))) (kept_refl s)
    rw [h] at hk
    cases hk
    exact ⟨rfl, rfl⟩
  · rename_i h1
    exfalso
    have hk : s.staging slot = none := by
      rw [← h1]
      refine ((State.Kept.stagingAt (?_ : s.Kept _) slot)).symm
      refine State.addLeaf_kept (State.nextFree_kept (State.alloc_kept (State.notePacked_kept ?_)))
      exact kept_ite (State.freePage_kept (State.bump_kept (kept_refl s))) (kept_refl s)
    rw [h] at hk
    cases hk

theorem len_set {g g' : Staging} {l n : Nat} (h : g'.lens = g.lens.set l n) (hl : l < g.lens.length) (x : Nat) :
    g'.len x = if x = l then n else g.len x := by
  unfold Staging.len
  rw [h]
  simp only [List.getD_eq_getElem?_getD]
  by_cases hx : x = l
  · subst hx
    rw [if_pos rfl, List.getElem?_set_self hl]
    rfl
  · rw [if_neg hx, List.getElem?_set_ne (fun e => hx e.symm)]

theorem len_of_lens {g g' : Staging} (h : g'.lens = g.lens) (x : Nat) : g'.len x = g.len x := by
  unfold Staging.len
  rw [h]

theorem appendRow_staging {s : State} {slot : Nat} {g : Staging} (h : s.staging slot = some g) (layer : Nat) (row : List BF16) :
    ∃ g', (s.appendRow slot layer row).staging slot = some g' ∧ g'.lens = g.lens.set layer (g.len layer + 1)
      ∧ g'.globals = g.globals := by
  unfold State.appendRow
  rw [h]
  dsimp only
  split
  · obtain ⟨g', h1, h2, h3⟩ := flush_staging (putStaging_self s slot
      { g with lens := g.lens.set layer (g.len layer + 1), rows := alSet (layer * 16 + g.len layer % 16) (row.map bfClean) g.rows })
      layer (g.len layer / 16)
    exact ⟨g', h1, h2, h3⟩
  · exact ⟨_, putStaging_self _ _ _, rfl, rfl⟩

/-- `n` rows appended to one layer. -/
theorem appendRows_staging {slot layer : Nat} (f : State → Nat → List BF16) (n : Nat) {s : State} {g : Staging}
    (h : s.staging slot = some g) (hl : layer < g.lens.length) :
    ∃ g', ((List.range n).foldl (fun s i => s.appendRow slot layer (f s i)) s).staging slot = some g'
      ∧ g'.lens.length = g.lens.length ∧ g'.globals = g.globals ∧ ∀ x, g'.len x = if x = layer then g.len x + n else g.len x := by
  induction n with
  | zero => exact ⟨g, h, rfl, rfl, fun x => by split <;> rfl⟩
  | succ n ih =>
    obtain ⟨g1, h1, h2, h3, h4⟩ := ih
    rw [List.range_succ, List.foldl_append]
    obtain ⟨g2, k1, k2, k3⟩ := appendRow_staging h1 layer (f _ n)
    refine ⟨g2, k1, ?_, k3.trans h3, fun x => ?_⟩
    · rw [k2, List.length_set, h2]
    · rw [len_set k2 (by omega), h4, h4, if_pos rfl]
      split
      · rename_i e
        rw [e]
        omega
      · rfl

/-- Rows appended to every layer of a range. -/
theorem appendLayers_staging {slot a : Nat} (f : State → Nat → Nat → List BF16) (n c : Nat) {s : State} {g : Staging}
    (h : s.staging slot = some g) (hl : ∀ l, l < c → a + l < g.lens.length) :
    ∃ g', ((List.range c).foldl (fun s l => (List.range n).foldl (fun s i => s.appendRow slot (a + l) (f s l i)) s) s).staging slot = some g'
      ∧ g'.lens.length = g.lens.length ∧ g'.globals = g.globals ∧ ∀ x, g'.len x = if a ≤ x ∧ x < a + c then g.len x + n else g.len x := by
  induction c with
  | zero => exact ⟨g, h, rfl, rfl, fun x => by rw [if_neg (by omega)]⟩
  | succ c ih =>
    obtain ⟨g1, h1, h2, h3, h4⟩ := ih (fun l hlc => hl l (by omega))
    rw [List.range_succ, List.foldl_append]
    obtain ⟨g2, k1, k2, k3, k4⟩ := appendRows_staging (layer := a + c) (fun s i => f s c i) n h1 (by rw [h2]; exact hl c (by omega))
    refine ⟨g2, k1, k2.trans h2, k3.trans h3, fun x => ?_⟩
    rw [k4, h4]
    by_cases hx : x = a + c
    · rw [if_pos hx, if_neg (by omega), if_pos (by omega)]
    · rw [if_neg hx]
      by_cases hy : a ≤ x ∧ x < a + c
      · rw [if_pos hy, if_pos (by omega)]
      · rw [if_neg hy, if_neg (by omega)]

theorem mem_coveredLayers (m : KvMsg) (l : Nat) : l ∈ coveredLayers m ↔ m.layerFirst ≤ l ∧ l < m.layerFirst + m.layerCount := by
  unfold coveredLayers
  simp only [List.mem_map, List.mem_range]
  constructor
  · rintro ⟨x, h, rfl⟩
    omega
  · rintro ⟨h1, h2⟩
    exact ⟨l - m.layerFirst, by omega, by omega⟩

theorem setLength_staging (s : State) (slot x : Nat) : (s.setLength slot).staging x = s.staging x := by
  unfold State.setLength
  split <;> rfl

theorem setLength_sess {s : State} {slot : Nat} {g : Staging} (h : s.staging slot = some g) : (s.setLength slot).sess slot =
    { s.sess slot with length := ((g.lens.take s.layers).min?).getD 0, globals := g.globals.length } := by
  unfold State.setLength
  rw [h]
  exact setSess_self _ _ _

theorem setLength_start (s : State) (slot : Nat) : (s.setLength slot).start = s.start := by
  unfold State.setLength
  split <;> rfl

theorem accepted_spec (s : State) (slot : Nat) : ((s.accepted slot true).sess slot).leaseEnd = (s.accepted slot true).boundary + ((s.accepted slot true).sess slot).leaseLen
    ∧ ((s.accepted slot true).sess slot).length = (s.sess slot).length ∧ ((s.accepted slot true).sess slot).globals = (s.sess slot).globals
    ∧ (s.accepted slot true).kv = s.kv ∧ (s.accepted slot true).start = s.start := by
  have h : (s.accepted slot true).sess slot = { s.sess slot with lastPos := s.pos, leaseEnd := s.boundary + (s.sess slot).leaseLen } :=
    setSess_self _ _ _
  rw [h]
  exact ⟨rfl, rfl, rfl, rfl, rfl⟩

/-- What stands at the end of an accepted KV_APPEND. -/
theorem kvEnd_spec {s v u : State} {e : Env} {slot st rs d n x : Nat} {g : Staging} (hg : s.staging slot = some g)
    (hv : ((s.setLength slot).accepted slot true).Reported v) (ha : (v.kvAnswer e slot st rs d n x).Aside u) :
    (∃ b, u.rp.answered = some (3, st, b)) ∧ u.staging slot = some g ∧ (u.sess slot).length = ((g.lens.take u.layers).min?).getD 0
      ∧ (u.sess slot).globals = g.globals.length ∧ (u.sess slot).leaseEnd = u.boundary + (u.sess slot).leaseLen := by
  obtain ⟨b, hb⟩ := kvAnswer_answered v e slot st rs d n x
  have hr := reported_trans hv (kvAnswer_reported v e slot st rs d n x)
  obtain ⟨a1, a2, a3, a4, a5⟩ := accepted_spec (s.setLength slot) slot
  have hs : u.sess slot = ((s.setLength slot).accepted slot true).sess slot := (aside_sess ha slot).trans (reported_sess hr slot)
  have hk : u.kv = s.kv := by
    rw [ha.kv, hr.kv, a4]
    unfold State.setLength
    split <;> rfl
  have hl : u.layers = s.layers := by
    unfold State.layers
    rw [ha.start, hr.start, a5, setLength_start]
  refine ⟨⟨b, ha.answered.trans hb⟩, ?_, ?_, ?_, ?_⟩
  · unfold State.staging at hg ⊢
    rw [hk, hg]
  · rw [hs, a2, setLength_sess hg, hl]
  · rw [hs, a3, setLength_sess hg]
  · rw [hs, a1, aside_boundary ha, reported_boundary hr]

theorem countOutcome_reported' (s : State) (die st : Nat) : s.Reported (s.countOutcome die st) := State.countOutcome_reported (reported_refl s)

theorem kvAppend_spec {h w u : State} {e : Env} {m : KvMsg} {g : Staging} {form slot n : Nat} {d : List Byte} (hslot : slot = handleSlot m.handle)
    (hf : h.kvFields m form = none) (hform : form < 2) (hg : h.staging slot = some g) (hz : h.kvSizeOk m form = true) (hc : m.count ≠ 0)
    (hl : ∀ l ∈ coveredLayers m, g.len l = m.firstPos ∧ l < g.lens.length)
    (hn : n = min m.count (Config.maxPositions (h.sess slot).dense - m.firstPos))
    (ho : h.openData e slot (form != 0) m.aux m.bytes m.data = (w, .inr d)) (hw : w.staging slot = some g)
    (hal : w.allocTest slot (w.appendNeed slot m.layerFirst m.layerCount n) = none) (ha : (h.kvAppend e m form).Aside u) :
    ∃ g', (∃ b, u.rp.answered = some (0x03, if n < m.count then St.limit else St.done, b))
        ∧ u.staging slot = some g' ∧ g'.globals = g.globals ∧ (∀ l, g'.len l = if l ∈ coveredLayers m then g.len l + n else g.len l)
        ∧ (u.sess slot).length = ((g'.lens.take u.layers).min?).getD 0 ∧ (u.sess slot).leaseEnd = u.boundary + (u.sess slot).leaseLen := by
  have hcov : m.layerCount ≠ 0 := by
    intro e0
    unfold State.kvFields at hf
    have : (form == 0 || form == 1) = true := by
      rcases form with _ | _ | _
      · rfl
      · rfl
      · omega
    rw [this, e0] at hf
    simp at hf
  have hmem : m.layerFirst ∈ coveredLayers m := (mem_coveredLayers _ _).2 ⟨Nat.le_refl _, by omega⟩
  have hall : (coveredLayers m).all (fun l => decide (m.firstPos + m.count ≤ g.len l)) = false := by
    rw [← Bool.not_eq_true, List.all_eq_true]
    intro hh
    have := hh _ hmem
    rw [decide_eq_true_eq, (hl _ hmem).1] at this
    omega
  have hany : (coveredLayers m).any (fun l => m.firstPos != g.len l) = false := by
    rw [← Bool.not_eq_true, List.any_eq_true]
    rintro ⟨l, h1, h2⟩
    rw [(hl l h1).1] at h2
    simp at h2
  unfold State.kvAppend at ha
  subst hslot
  simp only [hg, hz, hall, hany, ho, ← hn, hal] at ha
  obtain ⟨g', h1, -, h3, h4⟩ := appendLayers_staging (slot := handleSlot m.handle) (a := m.layerFirst)
    (fun s l i => dataRow s.kvh s.dim m.count l i (bf16s d)) n m.layerCount hw
    (fun l hlc => (hl _ ((mem_coveredLayers _ _).2 ⟨by omega, by omega⟩)).2)
  refine ⟨g', ?_⟩
  have h4' : ∀ l, g'.len l = if l ∈ coveredLayers m then g.len l + n else g.len l := by
    intro l
    rw [h4]
    by_cases hx : l ∈ coveredLayers m
    · rw [if_pos hx, if_pos ((mem_coveredLayers _ _).1 hx)]
    · rw [if_neg hx, if_neg (fun hy => hx ((mem_coveredLayers _ _).2 hy))]
  unfold State.appendAll at ha
  by_cases hlt : n < m.count
  · simp only [if_pos hlt] at ha ⊢
    obtain ⟨e1, e2, e3, -, e5⟩ := kvEnd_spec h1 (countOutcome_reported' _ _ _) ha
    exact ⟨e1, e2, h3, h4', e3, e5⟩
  · simp only [if_neg hlt] at ha ⊢
    obtain ⟨e1, e2, e3, -, e5⟩ := kvEnd_spec h1 (reported_refl _) ha
    exact ⟨e1, e2, h3, h4', e3, e5⟩

theorem truncLayer_staging {s : State} {slot : Nat} {g : Staging} (h : s.staging slot = some g) (layer n : Nat) :
    ∃ g', (s.truncLayer slot layer n).staging slot = some g' ∧ g'.globals = g.globals
      ∧ ∀ x, g'.len x = if x = layer then min (g.len x) n else g.len x := by
  unfold State.truncLayer
  rw [h]
  dsimp only
  split
  · rename_i hle
    refine ⟨g, h, rfl, fun x => ?_⟩
    split
    · rename_i e
      rw [e, Nat.min_eq_left hle]
    · rfl
  · rename_i hle
    have hlen : layer < g.lens.length := by
      by_contra hx
      apply hle
      unfold Staging.len
      rw [List.getD_eq_default _ _ (by omega)]
      omega
    split
    · rename_i g1 h1
      refine ⟨_, putStaging_self _ _ _, ?_⟩
      have hk : s.staging slot = some g1 := by
        rw [← h1]
        refine ((State.Kept.stagingAt (?_ : s.Kept _) slot)).symm
        have h2 := kept_foldl (s0 := s) (f := fun s k => s.freePage k) (fun _ _ h => State.freePage_kept h)
          ((s.pagesOf slot).filter (fun k => k.layer == layer && decide (n ≤ 16 * k.page))) (kept_refl s)
        generalize ((s.pagesOf slot).filter (fun k => k.layer == layer && decide (n ≤ 16 * k.page))).foldl
          (fun s k => s.freePage k) s = w at h2
        split
        · exact State.putLeaf_kept h2
        · exact h2
      rw [h] at hk
      cases hk
      refine ⟨rfl, fun x => ?_⟩
      rw [len_set (g := g) rfl hlen]
      split
      · rename_i e
        rw [e]
        omega
      · rfl
    · rename_i h1
      exfalso
      have hk : s.staging slot = none := by
        rw [← h1]
        refine ((State.Kept.stagingAt (?_ : s.Kept _) slot)).symm
        have h2 := kept_foldl (s0 := s) (f := fun s k => s.freePage k) (fun _ _ h => State.freePage_kept h)
          ((s.pagesOf slot).filter (fun k => k.layer == layer && decide (n ≤ 16 * k.page))) (kept_refl s)
        generalize ((s.pagesOf slot).filter (fun k => k.layer == layer && decide (n ≤ 16 * k.page))).foldl
          (fun s k => s.freePage k) s = w at h2
        split
        · exact State.putLeaf_kept h2
        · exact h2
      rw [h] at hk
      cases hk

theorem truncLayers_staging {slot : Nat} (n c : Nat) {s : State} {g : Staging} (h : s.staging slot = some g) :
    ∃ g', ((List.range c).foldl (fun s l => s.truncLayer slot l n) s).staging slot = some g' ∧ g'.globals = g.globals
      ∧ ∀ x, g'.len x = if x < c then min (g.len x) n else g.len x := by
  induction c with
  | zero => exact ⟨g, h, rfl, fun x => by rw [if_neg (by omega)]⟩
  | succ c ih =>
    obtain ⟨g1, h1, h2, h3⟩ := ih
    rw [List.range_succ, List.foldl_append]
    obtain ⟨g2, k1, k2, k3⟩ := truncLayer_staging h1 c n
    refine ⟨g2, k1, k2.trans h2, fun x => ?_⟩
    rw [k3, h3]
    by_cases hx : x = c
    · rw [if_pos hx, if_neg (by omega), if_pos (by omega)]
    · rw [if_neg hx]
      by_cases hy : x < c
      · rw [if_pos hy, if_pos (by omega)]
      · rw [if_neg hy, if_neg (by omega)]

theorem mem_insertPos (p x : Nat) (l : List Nat) : x ∈ insertPos p l ↔ x = p ∨ x ∈ l := by
  unfold insertPos
  have : x ∈ l ↔ x ∈ l.takeWhile (· < p) ∨ x ∈ l.dropWhile (· < p) := by
    rw [← List.mem_append, List.takeWhile_append_dropWhile]
  rw [this]
  simp only [List.mem_append, List.mem_singleton]
  tauto

theorem pinAll_mem (ps : List Nat) : ∀ l : List Nat, (∀ p ∈ l, p ∈ (pinAll l ps).1) ∧ (∀ p ∈ (pinAll l ps).1, p ∈ l ∨ p ∈ ps)
    ∧ (1024 ≤ l.length → (pinAll l ps).1 = l) ∧ ((pinAll l ps).2 = 0 ↔ ∀ p ∈ ps, p ∈ (pinAll l ps).1) := by
  induction ps with
  | nil => exact fun l => ⟨fun _ h => h, fun _ h => .inl h, fun _ => rfl, by simp [pinAll]⟩
  | cons p ps ih =>
    intro l
    unfold pinAll
    split
    · rename_i hp
      obtain ⟨i1, i2, i3, i4⟩ := ih l
      have hp' : p ∈ l := by simpa using hp
      refine ⟨i1, fun x hx => (i2 x hx).imp id (List.mem_cons_of_mem _), i3, ?_⟩
      rw [i4]
      simp only [List.forall_mem_cons]
      exact ⟨fun h => ⟨i1 _ hp', h⟩, fun h => h.2⟩
    · rename_i hp
      split
      · rename_i hl
        obtain ⟨i1, i2, i3, i4⟩ := ih (insertPos p l)
        refine ⟨fun x hx => i1 x ((mem_insertPos _ _ _).2 (.inr hx)), fun x hx => ?_, fun hh => absurd hl (by omega), ?_⟩
        · rcases i2 x hx with h | h
          · rcases (mem_insertPos _ _ _).1 h with h | h
            · exact .inr (h ▸ List.mem_cons_self ..)
            · exact .inl h
          · exact .inr (List.mem_cons_of_mem _ h)
        · rw [i4]
          simp only [List.forall_mem_cons]
          exact ⟨fun h => ⟨i1 _ ((mem_insertPos _ _ _).2 (.inl rfl)), h⟩, fun h => h.2⟩
      · rename_i hl
        obtain ⟨i1, i2, i3, i4⟩ := ih l
        refine ⟨i1, fun x hx => (i2 x hx).imp id (List.mem_cons_of_mem _), i3, ?_⟩
        constructor
        · intro h
          exact absurd h (by simp)
        · intro h
          have := (List.forall_mem_cons.1 h).1
          rw [i3 (by omega)] at this
          exact absurd (by simpa using this) hp

theorem releaseRules_kept {s0 s : State} (h : s0.Kept s) (slot : Nat) (l : List Nat) : s0.Kept (l.foldl (fun s x => s.releaseRule slot x) s) :=
  kept_foldl (fun _ _ h => State.releaseRule_kept h) l h

theorem linkAll_kept {s0 s : State} (h : s0.Kept s) (src dst : Nat) (l : List PageKey) :
    s0.Kept (l.foldl (fun s k => s.linkPage src dst k.layer k.page) s) :=
  kept_foldl (fun _ _ h => State.linkPage_kept h) l h


theorem kvEnd0_spec {s u : State} {e : Env} {slot st rs d n x : Nat} (ha : ((s.accepted slot true).kvAnswer e slot st rs d n x).Aside u) :
    (∃ b, u.rp.answered = some (3, st, b)) ∧ u.staging slot = s.staging slot ∧ (u.sess slot).leaseEnd = u.boundary + (u.sess slot).leaseLen := by
  obtain ⟨b, hb⟩ := kvAnswer_answered (s.accepted slot true) e slot st rs d n x
  have hr := kvAnswer_reported (s.accepted slot true) e slot st rs d n x
  obtain ⟨a1, a2, a3, a4, a5⟩ := accepted_spec s slot
  have hs : u.sess slot = (s.accepted slot true).sess slot := (aside_sess ha slot).trans (reported_sess hr slot)
  refine ⟨⟨b, ha.answered.trans hb⟩, ?_, ?_⟩
  · unfold State.staging
    rw [ha.kv, hr.kv, a4]
  · rw [hs, a1, aside_boundary ha, reported_boundary hr]

theorem alGet_mapKey {α β : Type} [DecidableEq α] (f : α → β → β) (k : α) (l : List (α × β)) :
    alGet k (l.map (fun p => (p.1, f p.1 p.2))) = (alGet k l).map (f k) := by
  induction l with
  | nil => rfl
  | cons p l ih =>
    unfold alGet
    rw [List.map_cons]
    dsimp only
    split
    · rename_i h
      subst h
      rfl
    · exact ih

theorem flushPartials_whole {slot : Nat} {g : Staging} (c : Nat) {s : State} (h : s.staging slot = some g)
    (hw : ∀ l, l < c → g.len l % 16 = 0) : (List.range c).foldl (fun s l => s.flushPartial slot l) s = s := by
  induction c with
  | zero => rfl
  | succ c ih =>
    rw [List.range_succ, List.foldl_append, ih (fun l hl => hw l (by omega))]
    show s.flushPartial slot c = s
    unfold State.flushPartial
    rw [h]
    dsimp only
    rw [if_pos (hw c (by omega))]

theorem evictStaging_spec {s : State} {slot : Nat} {g : Staging} {a : FinArea} (h : s.staging slot = some g) (ha : s.area slot = some a)
    (hw : ∀ l, l < s.layers → g.len l % 16 = 0) (ht : s.hasT2 (slotDie slot) = false) (hp : s.poolOk (slotDie slot) 3 896 = true) :
    ∃ p, alGet slot (s.evictStaging slot).kv.images = some p ∧ p.tier = 3 ∧ p.lens = g.lens ∧ p.globals = g.globals ∧ p.area = a
      ∧ (s.evictStaging slot).kv.staging = alErase slot s.kv.staging ∧ (s.evictStaging slot).kv.areas = alErase slot s.kv.areas
      ∧ (s.evictStaging slot).kv.images = alSet slot p s.kv.images := by
  have hf := flushPartials_whole (s := s) s.layers h hw
  unfold State.evictStaging
  rw [h, ha]
  extract_lets r die s1 placed
  have h1 : s1 = s := hf
  have hpl : placed = some (s1.nextFree, 3, s1.freeVal % 2 ^ 40) := by
    unfold placed die
    rw [h1, ht, hp]
    rfl
  rw [hpl]
  dsimp only
  have hg1 : s1.staging slot = some g := h1 ▸ h
  have hg2 : s1.nextFree.staging slot = some g := hg1
  generalize ho : ((State.nextFree s1).staging slot).getD (s1.nextFree.newStaging) = g1
  have hgg : g1 = g := by rw [← ho, hg2]; rfl
  have hk1 : s.Kept (s1.nextFree.alloc die 3 r.context 896) := State.alloc_kept (State.nextFree_kept (h1 ▸ kept_refl s))
  generalize s1.nextFree.alloc die 3 r.context 896 = w at hk1
  generalize hs4 : ({ w with kv := { w.kv with staging := alErase slot w.kv.staging, areas := alErase slot w.kv.areas, images := alSet slot { tier := 3, loc := s1.freeVal % 2 ^ 40, granules := 896, lens := g1.lens, globals := g1.globals, area := a, written := s1.nextFree.boundary } w.kv.images } } : State) = v
  have hk2 : v.Kept (((((v.shootdown die (stagingVun slot)).dealloc die 1 r.context (v.stagingGranules + areaGranules)).noteMoved die 0 896).dormantTest slot)) :=
    State.dormantTest_kept (State.noteMoved_kept (State.dealloc_kept (State.shootdown_kept (kept_refl v))))
  refine ⟨{ tier := 3, loc := s1.freeVal % 2 ^ 40, granules := 896, lens := g1.lens, globals := g1.globals, area := a, written := s1.nextFree.boundary }, ?_, rfl, by rw [hgg], by rw [hgg], rfl, ?_, ?_, ?_⟩
  · rw [hk2.images, ← hs4]
    exact alGet_alSet_self _ _ _
  · rw [hk2.staging, ← hs4, ← hk1.staging]
  · rw [hk2.areas, ← hs4, ← hk1.areas]
  · rw [hk2.images, ← hs4, ← hk1.images]

end Sys2Proof.Machine
end

