-- ==== Sys2Proof/Laws/Borne.lean ====
section
/-! SUPPORT. What units, groups and promotions do to the results of the store: each stays in its place with what its acceptance fixed, and
a complete one stays complete. -/

namespace Sys2Proof.Machine

/-- What the acceptance of a request fixes in its result. -/
def Result.core (r : Result) : Result :=
  { r with units := [], views := [], running := [], complete := false, integrity := none, data := [], overflow := false, delivery := .waiting, firstRet := none, late := false, fanout := false, msg := 0 }

/-- `b` is `a` later on. -/
def Result.Later (a b : Result) : Prop := b.core = a.core ∧ (a.complete = true → b.complete = true)

/-- `b` has the results of `a`, later on, and its areas and images. -/
structure State.Borne (a b : State) : Prop where
  results : List.Forall₂ Result.Later a.attn.results b.attn.results
  staging : b.kv.staging = a.kv.staging
  areas : b.kv.areas = a.kv.areas
  images : b.kv.images = a.kv.images

variable {s0 s t : State}

theorem later_refl (r : Result) : r.Later r := ⟨rfl, fun h => h⟩
theorem later_trans {a b c : Result} (h : a.Later b) (h' : b.Later c) : a.Later c := ⟨h'.1.trans h.1, fun x => h'.2 (h.2 x)⟩

theorem later_ite {c : Prop} {i : Decidable c} {a b d : Result} (h : a.Later b) (h' : a.Later d) : a.Later (if c then b else d) := by
  split <;> assumption

theorem laters_refl (l : List Result) : List.Forall₂ Result.Later l l := by
  induction l with
  | nil => exact .nil
  | cons a l ih => exact .cons (later_refl a) ih

theorem laters_trans {a b c : List Result} (h : List.Forall₂ Result.Later a b) (h' : List.Forall₂ Result.Later b c) :
    List.Forall₂ Result.Later a c := by
  induction h generalizing c with
  | nil => exact h'
  | cons x _ ih =>
    cases h' with
    | cons y hy => exact .cons (later_trans x y) (ih hy)

theorem laters_map {f : Result → Result} (hf : ∀ r : Result, r.Later (f r)) (l : List Result) : List.Forall₂ Result.Later l (l.map f) := by
  induction l with
  | nil => exact .nil
  | cons a l ih => exact .cons (hf a) ih

theorem borne_refl (s : State) : s.Borne s := ⟨laters_refl _, rfl, rfl, rfl⟩

theorem borne_trans (h : s0.Borne s) (h' : s.Borne t) : s0.Borne t :=
  ⟨laters_trans h.results h'.results, h'.staging.trans h.staging, h'.areas.trans h.areas, h'.images.trans h.images⟩

theorem State.Borne.kept (h : s0.Borne s) : s0.Kept s := ⟨h.staging, h.areas, h.images⟩

/-- A change elsewhere. -/
theorem borne_mk (h : s0.Borne s) {now : Nat} {pending : List Instr} {free : Nat} {regs : List (RegKey × Word)} {bcn : Beacon}
    {ev : Events} {ses : Sessions} {kv : Kv} {attn : Attn} {grams : List ((Nat × Nat) × Gram)} {net : Net} {lamp : Lamp}
    {tier : Tier} {start : Start} {flash : Flash} {ident : Ident} {ckpt : Ckpt} {health : Health} {rp : Replay} {pins : Pins}
    (e0 : attn.results = s.attn.results) (e1 : kv.staging = s.kv.staging) (e2 : kv.areas = s.kv.areas) (e3 : kv.images = s.kv.images) :
    s0.Borne ⟨now, pending, free, regs, bcn, ev, ses, kv, attn, grams, net, lamp, tier, start, flash, ident, ckpt, health, rp,
      pins⟩ := ⟨by show List.Forall₂ _ _ attn.results; rw [e0]; exact h.results, e1.trans h.staging, e2.trans h.areas, e3.trans h.images⟩

theorem borne_map (h : s0.Borne s) {f : Result → Result} (hf : ∀ r : Result, r.Later (f r)) {attn : Attn} (e : attn.results = s.attn.results.map f) :
    s0.Borne { s with attn := attn } :=
  ⟨laters_trans h.results (by show List.Forall₂ _ _ attn.results; rw [e]; exact laters_map hf _), h.staging, h.areas, h.images⟩

theorem borne_ite {c : Prop} [Decidable c] (h : s0.Borne s) (h' : s0.Borne t) : s0.Borne (if c then s else t) := by
  split <;> assumption

theorem borne_foldl {α : Type} {f : State → α → State} (hf : ∀ s x, s0.Borne s → s0.Borne (f s x)) (l : List α)
    (h : s0.Borne s) : s0.Borne (l.foldl f s) := by
  induction l generalizing s with
  | nil => exact h
  | cons x l ih => exact ih (hf s x h)

theorem State.setReg_borne (h : s0.Borne s) {die sel : Nat} {r : RegId} {w : Word} : s0.Borne (s.setReg die sel r w) := borne_mk h rfl rfl rfl rfl
theorem State.setFld_borne (h : s0.Borne s) {die sel : Nat} {f : Field} {v : Nat} : s0.Borne (s.setFld die sel f v) := borne_mk h rfl rfl rfl rfl
theorem State.bumpBy_borne (h : s0.Borne s) {die sel : Nat} {f : Field} {n : Nat} : s0.Borne (s.bumpBy die sel f n) := borne_mk h rfl rfl rfl rfl
theorem State.bump_borne (h : s0.Borne s) {die sel : Nat} {f : Field} : s0.Borne (s.bump die sel f) := borne_mk h rfl rfl rfl rfl
theorem State.lower_borne (h : s0.Borne s) {die sel : Nat} {f : Field} {n : Nat} : s0.Borne (s.lower die sel f n) := borne_mk h rfl rfl rfl rfl
theorem State.setSess_borne (h : s0.Borne s) {slot : Nat} {r : Session} : s0.Borne (s.setSess slot r) := borne_mk h rfl rfl rfl rfl
theorem State.setPort_borne (h : s0.Borne s) {p : Nat} {x : Port} : s0.Borne (s.setPort p x) := borne_mk h rfl rfl rfl rfl
theorem State.setPoolFree_borne (h : s0.Borne s) {die tier n : Nat} : s0.Borne (s.setPoolFree die tier n) := by
  unfold State.setPoolFree
  dsimp only
  exact State.setReg_borne h
theorem State.mapResult_borne (h : s0.Borne s) {slot : Nat} {key : ResKey} {f : Result → Result} (hf : ∀ r : Result, r.Later (f r)) :
    s0.Borne (s.mapResult slot key f) := by
  unfold State.mapResult
  refine borne_map h (fun r => ?_) rfl
  split
  · exact hf r
  · exact later_refl r
theorem State.noteReturn_borne (h : s0.Borne s) {r : Result} : s0.Borne (s.noteReturn r) := by
  unfold State.noteReturn
  dsimp only
  refine borne_map (borne_ite (State.bump_borne h) (borne_ite (State.bump_borne h) h)) (fun x => ?_) rfl
  split
  · exact ⟨rfl, fun h => h⟩
  · exact later_refl x
theorem State.markStarted_borne (h : s0.Borne s) {p : Nat} {f : QFrame} : s0.Borne (s.markStarted p f) := by
  unfold State.markStarted
  split
  · exact h
  · split
    · exact h
    · split
      · exact h
      · refine State.setPort_borne (borne_map (State.noteReturn_borne h) (fun x => ?_) rfl)
        split
        · exact ⟨rfl, fun h => h⟩
        · exact later_refl x
theorem State.rerun_borne (h : s0.Borne s) {die cluster core : Nat} : s0.Borne (s.rerun die cluster core) := by
  unfold State.rerun
  dsimp only
  refine State.bumpBy_borne (borne_map h (fun x => ?_) rfl)
  split
  · exact ⟨rfl, fun h => h⟩
  · exact later_refl x

set_option linter.unusedTactic false
set_option linter.unreachableTactic false

theorem State.nextFree_borne (h : s0.Borne s) : s0.Borne (State.nextFree s) := by
  unfold State.nextFree
  try dsimp only
  repeat' first | with_reducible assumption | with_reducible rfl | exact fun _ => ⟨rfl, fun h => h⟩ | exact fun _ => ⟨rfl, fun _ => rfl⟩ | with_reducible apply borne_ite | fail_if_no_progress with_reducible refine borne_mk ?_ rfl rfl rfl rfl | split | dsimp only | decide

theorem State.settle_borne (h : s0.Borne s) {p : Nat} : s0.Borne (State.settle s p) := by
  unfold State.settle
  try dsimp only
  repeat' first | with_reducible assumption | with_reducible rfl | exact fun _ => ⟨rfl, fun h => h⟩ | exact fun _ => ⟨rfl, fun _ => rfl⟩ | intro _ | with_reducible apply State.setPort_borne | with_reducible apply borne_ite | with_reducible apply borne_foldl | fail_if_no_progress with_reducible refine borne_mk ?_ rfl rfl rfl rfl | split | dsimp only | decide

theorem State.enqueue_borne (h : s0.Borne s) {p cls flow len : Nat} {result : Option (Nat × ResKey)} {body : FrameBody} : s0.Borne (State.enqueue s p cls flow len result body) := by
  unfold State.enqueue
  try dsimp only
  repeat' first | with_reducible assumption | with_reducible rfl | exact fun _ => ⟨rfl, fun h => h⟩ | exact fun _ => ⟨rfl, fun _ => rfl⟩ | with_reducible apply State.settle_borne | with_reducible apply State.setPort_borne | with_reducible apply borne_ite | fail_if_no_progress with_reducible refine borne_mk ?_ rfl rfl rfl rfl | split | dsimp only | decide

theorem State.countHeld_borne (h : s0.Borne s) {p : Nat} : s0.Borne (State.countHeld s p) := by
  unfold State.countHeld
  try dsimp only
  repeat' first | with_reducible assumption | with_reducible rfl | exact fun _ => ⟨rfl, fun h => h⟩ | exact fun _ => ⟨rfl, fun _ => rfl⟩ | intro _ | with_reducible apply State.setPort_borne | with_reducible apply State.bump_borne | with_reducible apply borne_ite | with_reducible apply borne_foldl | fail_if_no_progress with_reducible refine borne_mk ?_ rfl rfl rfl rfl | split | dsimp only | decide

theorem State.untrack_borne (h : s0.Borne s) {k : KeyRef} {reqId : Nat} : s0.Borne (State.untrack s k reqId) := by
  unfold State.untrack
  try dsimp only
  repeat' first | with_reducible assumption | with_reducible rfl | exact fun _ => ⟨rfl, fun h => h⟩ | exact fun _ => ⟨rfl, fun _ => rfl⟩ | intro _ | with_reducible apply borne_ite | fail_if_no_progress with_reducible refine borne_mk ?_ rfl rfl rfl rfl | split | dsimp only | decide

theorem State.untrackFrame_borne (h : s0.Borne s) {f : QFrame} : s0.Borne (State.untrackFrame s f) := by
  unfold State.untrackFrame
  try dsimp only
  repeat' first | with_reducible assumption | with_reducible rfl | exact fun _ => ⟨rfl, fun h => h⟩ | exact fun _ => ⟨rfl, fun _ => rfl⟩ | with_reducible apply State.untrack_borne | with_reducible apply borne_ite | fail_if_no_progress with_reducible refine borne_mk ?_ rfl rfl rfl rfl | split | dsimp only | decide

theorem State.pick_borne (h : s0.Borne s) {p : Nat} : s0.Borne (State.pick s p) := by
  unfold State.pick
  try dsimp only
  repeat' first | with_reducible assumption | with_reducible rfl | exact fun _ => ⟨rfl, fun h => h⟩ | exact fun _ => ⟨rfl, fun _ => rfl⟩ | with_reducible apply State.settle_borne | with_reducible apply State.countHeld_borne | with_reducible apply State.setPort_borne | with_reducible apply State.markStarted_borne | with_reducible apply State.untrackFrame_borne | with_reducible apply borne_ite | fail_if_no_progress with_reducible refine borne_mk ?_ rfl rfl rfl rfl | split | dsimp only | decide

theorem State.send_borne (h : s0.Borne s) {p cls flow len : Nat} {result : Option (Nat × ResKey)} {body : FrameBody} : s0.Borne (State.send s p cls flow len result body) := by
  unfold State.send
  try dsimp only
  repeat' first | with_reducible assumption | with_reducible rfl | exact fun _ => ⟨rfl, fun h => h⟩ | exact fun _ => ⟨rfl, fun _ => rfl⟩ | with_reducible apply State.enqueue_borne | with_reducible apply State.pick_borne | with_reducible apply borne_ite | split | dsimp only | decide

theorem State.sendSeg_borne (h : s0.Borne s) {d : Dest} {kind type status reason reqId : Nat} {response : Bool} {result : Option (Nat × ResKey)} {count len : Nat} {seg : Nat × List Byte} : s0.Borne (State.sendSeg s d kind type status reason reqId response result count len seg) := by
  unfold State.sendSeg
  try dsimp only
  repeat' first | with_reducible assumption | with_reducible rfl | exact fun _ => ⟨rfl, fun h => h⟩ | exact fun _ => ⟨rfl, fun _ => rfl⟩ | with_reducible apply State.send_borne | with_reducible apply borne_ite | fail_if_no_progress with_reducible refine borne_mk ?_ rfl rfl rfl rfl | split | dsimp only | decide

theorem State.sendMsg_borne (h : s0.Borne s) {d : Dest} {kind type status reason reqId : Nat} {response : Bool} {result : Option (Nat × ResKey)} {body : List Byte} : s0.Borne (State.sendMsg s d kind type status reason reqId response result body) := by
  unfold State.sendMsg
  try dsimp only
  repeat' first | with_reducible assumption | with_reducible rfl | exact fun _ => ⟨rfl, fun h => h⟩ | exact fun _ => ⟨rfl, fun _ => rfl⟩ | intro _ | with_reducible apply State.sendSeg_borne | with_reducible apply borne_ite | with_reducible apply borne_foldl | fail_if_no_progress with_reducible refine borne_mk ?_ rfl rfl rfl rfl | split | dsimp only | decide

theorem State.setRing_borne (h : s0.Borne s) {die : Nat} {l : List EvtRec} : s0.Borne (State.setRing s die l) := by
  unfold State.setRing
  try dsimp only
  repeat' first | with_reducible assumption | with_reducible rfl | exact fun _ => ⟨rfl, fun h => h⟩ | exact fun _ => ⟨rfl, fun _ => rfl⟩ | with_reducible apply borne_ite | fail_if_no_progress with_reducible refine borne_mk ?_ rfl rfl rfl rfl | split | dsimp only | decide

theorem State.setAlerts_borne (h : s0.Borne s) {die : Nat} {l : List Nat} : s0.Borne (State.setAlerts s die l) := by
  unfold State.setAlerts
  try dsimp only
  repeat' first | with_reducible assumption | with_reducible rfl | exact fun _ => ⟨rfl, fun h => h⟩ | exact fun _ => ⟨rfl, fun _ => rfl⟩ | with_reducible apply borne_ite | fail_if_no_progress with_reducible refine borne_mk ?_ rfl rfl rfl rfl | split | dsimp only | decide

theorem State.eventFrame_borne (h : s0.Borne s) {sub : Sub} {r : EvtRec} : s0.Borne (State.eventFrame s sub r) := by
  unfold State.eventFrame
  try dsimp only
  repeat' first | with_reducible assumption | with_reducible rfl | exact fun _ => ⟨rfl, fun h => h⟩ | exact fun _ => ⟨rfl, fun _ => rfl⟩ | with_reducible apply State.sendMsg_borne | with_reducible apply borne_ite | fail_if_no_progress with_reducible refine borne_mk ?_ rfl rfl rfl rfl | split | dsimp only | decide

theorem State.ibi_borne (h : s0.Borne s) {byte : Nat} : s0.Borne (State.ibi s byte) := by
  unfold State.ibi
  try dsimp only
  repeat' first | with_reducible assumption | with_reducible rfl | exact fun _ => ⟨rfl, fun h => h⟩ | exact fun _ => ⟨rfl, fun _ => rfl⟩ | with_reducible apply borne_ite | fail_if_no_progress with_reducible refine borne_mk ?_ rfl rfl rfl rfl | split | dsimp only | decide

theorem State.logEvent_borne (h : s0.Borne s) {die : Nat} {r : EvtRec} : s0.Borne (State.logEvent s die r) := by
  unfold State.logEvent
  try dsimp only
  repeat' first | with_reducible assumption | with_reducible rfl | exact fun _ => ⟨rfl, fun h => h⟩ | exact fun _ => ⟨rfl, fun _ => rfl⟩ | with_reducible apply State.setRing_borne | with_reducible apply State.setFld_borne | with_reducible apply State.setAlerts_borne | with_reducible apply State.ibi_borne | with_reducible apply borne_ite | split | dsimp only | decide

theorem State.raise_borne (h : s0.Borne s) {die sub : Nat} {a : EvtArgs} : s0.Borne (State.raise s die sub a) := by
  unfold State.raise
  try dsimp only
  repeat' first | with_reducible assumption | with_reducible rfl | exact fun _ => ⟨rfl, fun h => h⟩ | exact fun _ => ⟨rfl, fun _ => rfl⟩ | intro _ | with_reducible apply State.eventFrame_borne | with_reducible apply State.logEvent_borne | with_reducible apply borne_ite | with_reducible apply borne_foldl | split | dsimp only | decide

theorem State.setOnce_borne (h : s0.Borne s) {o : Once} : s0.Borne (State.setOnce s o) := by
  unfold State.setOnce
  try dsimp only
  repeat' first | with_reducible assumption | with_reducible rfl | exact fun _ => ⟨rfl, fun h => h⟩ | exact fun _ => ⟨rfl, fun _ => rfl⟩ | intro _ | with_reducible apply borne_ite | fail_if_no_progress with_reducible refine borne_mk ?_ rfl rfl rfl rfl | split | dsimp only | decide

theorem State.raiseOnce_borne (h : s0.Borne s) {die sub item : Nat} {a : EvtArgs} : s0.Borne (State.raiseOnce s die sub item a) := by
  unfold State.raiseOnce
  try dsimp only
  repeat' first | with_reducible assumption | with_reducible rfl | exact fun _ => ⟨rfl, fun h => h⟩ | exact fun _ => ⟨rfl, fun _ => rfl⟩ | with_reducible apply State.setOnce_borne | with_reducible apply State.raise_borne | with_reducible apply borne_ite | fail_if_no_progress with_reducible refine borne_mk ?_ rfl rfl rfl rfl | split | dsimp only | decide

theorem State.closeRec_borne (h : s0.Borne s) : s0.Borne (State.closeRec s) := by
  unfold State.closeRec
  try dsimp only
  repeat' first | with_reducible assumption | with_reducible rfl | exact fun _ => ⟨rfl, fun h => h⟩ | exact fun _ => ⟨rfl, fun _ => rfl⟩ | with_reducible apply State.setFld_borne | with_reducible apply borne_ite | fail_if_no_progress with_reducible refine borne_mk ?_ rfl rfl rfl rfl | split | dsimp only | decide

theorem State.addRec_borne (h : s0.Borne s) {status port ctx ep len : Nat} {body : RecBody} : s0.Borne (State.addRec s status port ctx ep len body) := by
  unfold State.addRec
  try dsimp only
  repeat' first | with_reducible assumption | with_reducible rfl | exact fun _ => ⟨rfl, fun h => h⟩ | exact fun _ => ⟨rfl, fun _ => rfl⟩ | with_reducible apply State.setFld_borne | with_reducible apply State.raiseOnce_borne | with_reducible apply State.closeRec_borne | with_reducible apply State.raise_borne | with_reducible apply State.setReg_borne | with_reducible apply borne_ite | fail_if_no_progress with_reducible refine borne_mk ?_ rfl rfl rfl rfl | split | dsimp only | decide

theorem State.noteBad_borne (h : s0.Borne s) {e : Env} {type reason : Nat} : s0.Borne (State.noteBad s e type reason) := by
  unfold State.noteBad
  try dsimp only
  repeat' first | with_reducible assumption | with_reducible rfl | exact fun _ => ⟨rfl, fun h => h⟩ | exact fun _ => ⟨rfl, fun _ => rfl⟩ | with_reducible apply State.bump_borne | with_reducible apply State.setFld_borne | with_reducible apply State.raiseOnce_borne | with_reducible apply borne_ite | split | dsimp only | decide

theorem State.answer_borne (h : s0.Borne s) {e : Env} {type status reason : Nat} {body : List Byte} : s0.Borne (State.answer s e type status reason body) := by
  unfold State.answer
  try dsimp only
  repeat' first | with_reducible assumption | with_reducible rfl | exact fun _ => ⟨rfl, fun h => h⟩ | exact fun _ => ⟨rfl, fun _ => rfl⟩ | with_reducible apply State.noteBad_borne | with_reducible apply State.sendMsg_borne | with_reducible apply State.untrack_borne | with_reducible apply borne_ite | fail_if_no_progress with_reducible refine borne_mk ?_ rfl rfl rfl rfl | split | dsimp only | decide

theorem State.track_borne (h : s0.Borne s) {e : Env} {type : Nat} {slot : Option Nat} : s0.Borne (State.track s e type slot) := by
  unfold State.track
  try dsimp only
  repeat' first | with_reducible assumption | with_reducible rfl | exact fun _ => ⟨rfl, fun h => h⟩ | exact fun _ => ⟨rfl, fun _ => rfl⟩ | with_reducible apply borne_ite | fail_if_no_progress with_reducible refine borne_mk ?_ rfl rfl rfl rfl | split | dsimp only | decide

theorem State.noteObject_borne (h : s0.Borne s) {e : Env} {o : IngestObj} : s0.Borne (State.noteObject s e o) := by
  unfold State.noteObject
  try dsimp only
  repeat' first | with_reducible assumption | with_reducible rfl | exact fun _ => ⟨rfl, fun h => h⟩ | exact fun _ => ⟨rfl, fun _ => rfl⟩ | with_reducible apply State.addRec_borne | with_reducible apply borne_ite | split | dsimp only | decide

theorem State.countOutcome_borne (h : s0.Borne s) {die status : Nat} : s0.Borne (State.countOutcome s die status) := by
  unfold State.countOutcome
  try dsimp only
  repeat' first | with_reducible assumption | with_reducible rfl | exact fun _ => ⟨rfl, fun h => h⟩ | exact fun _ => ⟨rfl, fun _ => rfl⟩ | with_reducible apply State.bump_borne | with_reducible apply borne_ite | split | dsimp only | decide

theorem State.dataCheck_borne (h : s0.Borne s) {die addr : Nat} : s0.Borne (State.dataCheck s die addr) := by
  unfold State.dataCheck
  try dsimp only
  repeat' first | with_reducible assumption | with_reducible rfl | exact fun _ => ⟨rfl, fun h => h⟩ | exact fun _ => ⟨rfl, fun _ => rfl⟩ | with_reducible apply State.raise_borne | with_reducible apply borne_ite | split | dsimp only | decide

theorem State.logErr_borne (h : s0.Borne s) {die kind cluster channel : Nat} {test patrol : Bool} {stripe sector addr : Nat} : s0.Borne (State.logErr s die kind cluster channel test patrol stripe sector addr) := by
  unfold State.logErr
  try dsimp only
  repeat' first | with_reducible assumption | with_reducible rfl | exact fun _ => ⟨rfl, fun h => h⟩ | exact fun _ => ⟨rfl, fun _ => rfl⟩ | with_reducible apply State.setFld_borne | with_reducible apply borne_ite | fail_if_no_progress with_reducible refine borne_mk ?_ rfl rfl rfl rfl | split | dsimp only | decide

theorem State.memUe_borne (h : s0.Borne s) {die : Nat} {p : Place} {test patrol : Bool} : s0.Borne (State.memUe s die p test patrol) := by
  unfold State.memUe
  try dsimp only
  repeat' first | with_reducible assumption | with_reducible rfl | exact fun _ => ⟨rfl, fun h => h⟩ | exact fun _ => ⟨rfl, fun _ => rfl⟩ | with_reducible apply State.bump_borne | with_reducible apply State.logErr_borne | with_reducible apply State.nextFree_borne | with_reducible apply borne_ite | split | dsimp only | decide

theorem State.t1Fail_borne (h : s0.Borne s) {die off : Nat} : s0.Borne (State.t1Fail s die off) := by
  unfold State.t1Fail
  try dsimp only
  repeat' first | with_reducible assumption | with_reducible rfl | exact fun _ => ⟨rfl, fun h => h⟩ | exact fun _ => ⟨rfl, fun _ => rfl⟩ | with_reducible apply State.memUe_borne | with_reducible apply State.dataCheck_borne | with_reducible apply borne_ite | split | dsimp only | decide

theorem State.quotaTest_borne (h : s0.Borne s) {die ctx tier : Nat} : s0.Borne (State.quotaTest s die ctx tier) := by
  unfold State.quotaTest
  try dsimp only
  repeat' first | with_reducible assumption | with_reducible rfl | exact fun _ => ⟨rfl, fun h => h⟩ | exact fun _ => ⟨rfl, fun _ => rfl⟩ | with_reducible apply State.setFld_borne | with_reducible apply State.raise_borne | with_reducible apply borne_ite | fail_if_no_progress with_reducible refine borne_mk ?_ rfl rfl rfl rfl | split | dsimp only | decide

theorem State.setUse_borne (h : s0.Borne s) {die ctx tier g : Nat} : s0.Borne (State.setUse s die ctx tier g) := by
  unfold State.setUse
  try dsimp only
  repeat' first | with_reducible assumption | with_reducible rfl | exact fun _ => ⟨rfl, fun h => h⟩ | exact fun _ => ⟨rfl, fun _ => rfl⟩ | with_reducible apply State.setReg_borne | with_reducible apply State.quotaTest_borne | with_reducible apply borne_ite | split | dsimp only | decide

theorem State.evictTest_borne (h : s0.Borne s) {die tier : Nat} : s0.Borne (State.evictTest s die tier) := by
  unfold State.evictTest
  try dsimp only
  repeat' first | with_reducible assumption | with_reducible rfl | exact fun _ => ⟨rfl, fun h => h⟩ | exact fun _ => ⟨rfl, fun _ => rfl⟩ | with_reducible apply borne_ite | fail_if_no_progress with_reducible refine borne_mk ?_ rfl rfl rfl rfl | split | dsimp only | decide

theorem State.alloc_borne (h : s0.Borne s) {die tier ctx g : Nat} : s0.Borne (State.alloc s die tier ctx g) := by
  unfold State.alloc
  try dsimp only
  repeat' first | with_reducible assumption | with_reducible rfl | exact fun _ => ⟨rfl, fun h => h⟩ | exact fun _ => ⟨rfl, fun _ => rfl⟩ | with_reducible apply State.setUse_borne | with_reducible apply State.setPoolFree_borne | with_reducible apply State.evictTest_borne | with_reducible apply borne_ite | split | dsimp only | decide

theorem State.dealloc_borne (h : s0.Borne s) {die tier ctx g : Nat} : s0.Borne (State.dealloc s die tier ctx g) := by
  unfold State.dealloc
  try dsimp only
  repeat' first | with_reducible assumption | with_reducible rfl | exact fun _ => ⟨rfl, fun h => h⟩ | exact fun _ => ⟨rfl, fun _ => rfl⟩ | with_reducible apply State.setUse_borne | with_reducible apply State.setPoolFree_borne | with_reducible apply State.evictTest_borne | with_reducible apply borne_ite | split | dsimp only | decide

theorem State.putLeaf_borne (h : s0.Borne s) {k : PageKey} {l : Leaf} : s0.Borne (State.putLeaf s k l) := by
  unfold State.putLeaf
  try dsimp only
  repeat' first | with_reducible assumption | with_reducible rfl | exact fun _ => ⟨rfl, fun h => h⟩ | exact fun _ => ⟨rfl, fun _ => rfl⟩ | with_reducible apply borne_ite | fail_if_no_progress with_reducible refine borne_mk ?_ rfl rfl rfl rfl | split | dsimp only | decide

theorem State.putShared_borne (h : s0.Borne s) {die id : Nat} {p : SharedPage} : s0.Borne (State.putShared s die id p) := by
  unfold State.putShared
  try dsimp only
  repeat' first | with_reducible assumption | with_reducible rfl | exact fun _ => ⟨rfl, fun h => h⟩ | exact fun _ => ⟨rfl, fun _ => rfl⟩ | with_reducible apply borne_ite | fail_if_no_progress with_reducible refine borne_mk ?_ rfl rfl rfl rfl | split | dsimp only | decide

theorem State.touch_borne (h : s0.Borne s) {k : PageKey} : s0.Borne (State.touch s k) := by
  unfold State.touch
  try dsimp only
  repeat' first | with_reducible assumption | with_reducible rfl | exact fun _ => ⟨rfl, fun h => h⟩ | exact fun _ => ⟨rfl, fun _ => rfl⟩ | with_reducible apply State.putLeaf_borne | with_reducible apply State.putShared_borne | with_reducible apply borne_ite | fail_if_no_progress with_reducible refine borne_mk ?_ rfl rfl rfl rfl | split | dsimp only | decide

theorem State.tileCheck_borne (h : s0.Borne s) {die addr : Nat} : s0.Borne (State.tileCheck s die addr) := by
  unfold State.tileCheck
  try dsimp only
  repeat' first | with_reducible assumption | with_reducible rfl | exact fun _ => ⟨rfl, fun h => h⟩ | exact fun _ => ⟨rfl, fun _ => rfl⟩ | with_reducible apply State.setReg_borne | with_reducible apply State.bump_borne | with_reducible apply State.raise_borne | with_reducible apply borne_ite | split | dsimp only | decide

theorem State.sendWrite_borne (h : s0.Borne s) {d : Dest} {q : Qp} {result : Nat × ResKey} {seq : Nat} {piece : Bool × Nat × List Byte} : s0.Borne (State.sendWrite s d q result seq piece) := by
  unfold State.sendWrite
  try dsimp only
  repeat' first | with_reducible assumption | with_reducible rfl | exact fun _ => ⟨rfl, fun h => h⟩ | exact fun _ => ⟨rfl, fun _ => rfl⟩ | intro _ | with_reducible apply State.send_borne | with_reducible apply borne_ite | fail_if_no_progress with_reducible refine borne_mk ?_ rfl rfl rfl rfl | split | dsimp only | decide

theorem State.sendObject_borne (h : s0.Borne s) {d : Dest} {r : Result} {q : Qp} : s0.Borne (State.sendObject s d r q) := by
  unfold State.sendObject
  try dsimp only
  repeat' first | with_reducible assumption | with_reducible rfl | exact fun _ => ⟨rfl, fun h => h⟩ | exact fun _ => ⟨rfl, fun _ => rfl⟩ | intro _ | with_reducible apply State.sendWrite_borne | with_reducible apply borne_ite | with_reducible apply borne_foldl | fail_if_no_progress with_reducible refine borne_mk ?_ rfl rfl rfl rfl | split | dsimp only | decide

theorem State.joinQueue_borne (h : s0.Borne s) {slot : Nat} {key : ResKey} : s0.Borne (State.joinQueue s slot key) := by
  unfold State.joinQueue
  try dsimp only
  repeat' first | with_reducible assumption | with_reducible rfl | exact fun _ => ⟨rfl, fun h => h⟩ | exact fun _ => ⟨rfl, fun _ => rfl⟩ | intro _ | with_reducible apply State.noteReturn_borne | with_reducible apply State.mapResult_borne | with_reducible apply State.sendObject_borne | with_reducible apply State.sendMsg_borne | with_reducible apply borne_ite | fail_if_no_progress with_reducible refine borne_mk ?_ rfl rfl rfl rfl | split | dsimp only | decide

theorem State.markLate_borne (h : s0.Borne s) {slot : Nat} {key : ResKey} : s0.Borne (State.markLate s slot key) := by
  unfold State.markLate
  try dsimp only
  repeat' first | with_reducible assumption | with_reducible rfl | exact fun _ => ⟨rfl, fun h => h⟩ | exact fun _ => ⟨rfl, fun _ => rfl⟩ | intro _ | with_reducible apply State.mapResult_borne | with_reducible apply State.bump_borne | with_reducible apply State.setReg_borne | with_reducible apply State.raise_borne | with_reducible apply borne_ite | fail_if_no_progress with_reducible refine borne_mk ?_ rfl rfl rfl rfl | split | dsimp only | decide

theorem State.deliver_borne (h : s0.Borne s) {slot : Nat} {key : ResKey} : s0.Borne (State.deliver s slot key) := by
  unfold State.deliver
  try dsimp only
  repeat' first | with_reducible assumption | with_reducible rfl | exact fun _ => ⟨rfl, fun h => h⟩ | exact fun _ => ⟨rfl, fun _ => rfl⟩ | with_reducible apply State.joinQueue_borne | with_reducible apply State.markLate_borne | with_reducible apply borne_ite | fail_if_no_progress with_reducible refine borne_mk ?_ rfl rfl rfl rfl | split | dsimp only | decide

theorem State.setSeg_borne (h : s0.Borne s) {x : Seg} : s0.Borne (State.setSeg s x) := by
  unfold State.setSeg
  try dsimp only
  repeat' first | with_reducible assumption | with_reducible rfl | exact fun _ => ⟨rfl, fun h => h⟩ | exact fun _ => ⟨rfl, fun _ => rfl⟩ | intro _ | with_reducible apply borne_ite | fail_if_no_progress with_reducible refine borne_mk ?_ rfl rfl rfl rfl | split | dsimp only | decide

theorem State.openSeg_borne (h : s0.Borne s) {die group kind : Nat} : SomeP s0.Borne (State.openSeg s die group kind) := by
  unfold State.openSeg
  try dsimp only
  repeat' first | with_reducible assumption | with_reducible rfl | exact fun _ => ⟨rfl, fun h => h⟩ | exact fun _ => ⟨rfl, fun _ => rfl⟩ | with_reducible exact somep_none | with_reducible apply somep_some | with_reducible apply State.setSeg_borne | with_reducible apply State.raiseOnce_borne | with_reducible apply borne_ite | fail_if_no_progress with_reducible refine borne_mk ?_ rfl rfl rfl rfl | split | dsimp only | decide

theorem State.settleSeg_borne (h : s0.Borne s) {x : Seg} : s0.Borne (State.settleSeg s x) := by
  unfold State.settleSeg
  try dsimp only
  repeat' first | with_reducible assumption | with_reducible rfl | exact fun _ => ⟨rfl, fun h => h⟩ | exact fun _ => ⟨rfl, fun _ => rfl⟩ | with_reducible apply State.setSeg_borne | with_reducible apply borne_ite | fail_if_no_progress with_reducible refine borne_mk ?_ rfl rfl rfl rfl | split | dsimp only | decide

theorem State.bufferStripes_borne (h : s0.Borne s) {x : Seg} {a b : Nat} : s0.Borne (State.bufferStripes s x a b) := by
  unfold State.bufferStripes
  try dsimp only
  repeat' first | with_reducible assumption | with_reducible rfl | exact fun _ => ⟨rfl, fun h => h⟩ | exact fun _ => ⟨rfl, fun _ => rfl⟩ | intro _ | with_reducible apply borne_ite | with_reducible apply borne_foldl | fail_if_no_progress with_reducible refine borne_mk ?_ rfl rfl rfl rfl | split | dsimp only | decide

theorem State.placeIn_borne (h : s0.Borne s) {x : Seg} {align size : Nat} {o : Owner} : s0.Borne (State.placeIn s x align size o).1 := by
  unfold State.placeIn
  try dsimp only
  repeat' first | with_reducible assumption | with_reducible rfl | exact fun _ => ⟨rfl, fun h => h⟩ | exact fun _ => ⟨rfl, fun _ => rfl⟩ | with_reducible apply State.setSeg_borne | with_reducible apply State.bufferStripes_borne | with_reducible apply borne_ite | fail_if_no_progress with_reducible refine borne_mk ?_ rfl rfl rfl rfl | split | dsimp only | decide

theorem State.place_borne (h : s0.Borne s) {die group kind align size : Nat} {o : Owner} : SomeP s0.Borne (State.place s die group kind align size o) := by
  unfold State.place
  try dsimp only
  repeat' first | with_reducible assumption | with_reducible rfl | exact fun _ => ⟨rfl, fun h => h⟩ | exact fun _ => ⟨rfl, fun _ => rfl⟩ | with_reducible exact somep_none | with_reducible apply somep_some | with_reducible apply State.placeIn_borne | with_reducible apply State.settleSeg_borne | with_reducible apply State.openSeg_borne | with_reducible apply borne_ite | fail_if_no_progress with_reducible refine borne_mk ?_ rfl rfl rfl rfl | refine pair_of (P := s0.Borne) (by assumption) ?_ | refine somep_of (P := s0.Borne) (by assumption) ?_ | split | dsimp only | decide

theorem State.mapUnit_borne (h : s0.Borne s) {slot : Nat} {key : ResKey} {kvHead seg : Nat} {f : AttnUnit → AttnUnit} :
    s0.Borne (State.mapUnit s slot key kvHead seg f) := State.mapResult_borne h fun _ => ⟨rfl, fun h => h⟩

theorem State.promoteFirst_borne (h : s0.Borne s) {die : Nat} {u : UnitRef} : s0.Borne (State.promoteFirst s die u) := by
  unfold State.promoteFirst
  try dsimp only
  repeat' first | with_reducible assumption | with_reducible rfl | exact fun _ => ⟨rfl, fun h => h⟩ | exact fun _ => ⟨rfl, fun _ => rfl⟩ | intro _ | with_reducible apply borne_ite | fail_if_no_progress with_reducible refine borne_mk ?_ rfl rfl rfl rfl | split | dsimp only | decide

theorem State.waitPage_borne (h : s0.Borne s) {r : Result} {u : AttnUnit} {page : Nat} : s0.Borne (State.waitPage s r u page) := by
  unfold State.waitPage
  try dsimp only
  repeat' first | with_reducible assumption | with_reducible rfl | exact fun _ => ⟨rfl, fun h => h⟩ | exact fun _ => ⟨rfl, fun _ => rfl⟩ | intro _ | with_reducible apply State.mapUnit_borne | with_reducible apply State.promoteFirst_borne | with_reducible apply State.bump_borne | with_reducible apply State.raiseOnce_borne | with_reducible apply borne_ite | fail_if_no_progress with_reducible refine borne_mk ?_ rfl rfl rfl rfl | split | dsimp only | decide

theorem State.walkPage_borne (h : s0.Borne s) {die vun : Nat} : s0.Borne (State.walkPage s die vun) := by
  unfold State.walkPage
  try dsimp only
  repeat' first | with_reducible assumption | with_reducible rfl | exact fun _ => ⟨rfl, fun h => h⟩ | exact fun _ => ⟨rfl, fun _ => rfl⟩ | with_reducible apply State.bump_borne | with_reducible apply borne_ite | fail_if_no_progress with_reducible refine borne_mk ?_ rfl rfl rfl rfl | split | dsimp only | decide

theorem State.startUnit_borne (h : s0.Borne s) {r : Result} {u : AttnUnit} {core : Nat} : s0.Borne (State.startUnit s r u core) := by
  unfold State.startUnit
  try dsimp only
  repeat' first | with_reducible assumption | with_reducible rfl | exact fun _ => ⟨rfl, fun h => h⟩ | exact fun _ => ⟨rfl, fun _ => rfl⟩ | intro _ | with_reducible apply State.mapUnit_borne | with_reducible apply borne_ite | fail_if_no_progress with_reducible refine borne_mk ?_ rfl rfl rfl rfl | split | dsimp only | decide

theorem State.startGroup_borne (h : s0.Borne s) {g : Group} : s0.Borne (State.startGroup s g) := by
  unfold State.startGroup
  try dsimp only
  repeat' first | with_reducible assumption | with_reducible rfl | exact fun _ => ⟨rfl, fun h => h⟩ | exact fun _ => ⟨rfl, fun _ => rfl⟩ | intro _ | with_reducible apply State.bump_borne | with_reducible apply State.mapUnit_borne | with_reducible apply State.mapResult_borne | with_reducible apply borne_ite | with_reducible apply borne_foldl | fail_if_no_progress with_reducible refine borne_mk ?_ rfl rfl rfl rfl | split | dsimp only | decide

theorem State.startGroups_borne (h : s0.Borne s) {die cluster : Nat} : s0.Borne (State.startGroups s die cluster) := by
  unfold State.startGroups
  try dsimp only
  repeat' first | with_reducible assumption | with_reducible rfl | exact fun _ => ⟨rfl, fun h => h⟩ | exact fun _ => ⟨rfl, fun _ => rfl⟩ | intro _ | with_reducible apply State.startGroup_borne | with_reducible apply borne_ite | with_reducible apply borne_foldl | split | dsimp only | decide

theorem State.pumpUnit_borne (h : s0.Borne s) {r : Result} {u : AttnUnit} : s0.Borne (State.pumpUnit s r u) := by
  unfold State.pumpUnit
  try dsimp only
  repeat' first | with_reducible assumption | with_reducible rfl | exact fun _ => ⟨rfl, fun h => h⟩ | exact fun _ => ⟨rfl, fun _ => rfl⟩ | intro _ | with_reducible apply State.waitPage_borne | with_reducible apply State.mapUnit_borne | with_reducible apply State.bump_borne | with_reducible apply State.startUnit_borne | with_reducible apply borne_ite | fail_if_no_progress with_reducible refine borne_mk ?_ rfl rfl rfl rfl | split | dsimp only | decide

theorem State.pump_borne (h : s0.Borne s) {die cluster : Nat} : s0.Borne (State.pump s die cluster) := by
  unfold State.pump
  try dsimp only
  repeat' first | with_reducible assumption | with_reducible rfl | exact fun _ => ⟨rfl, fun h => h⟩ | exact fun _ => ⟨rfl, fun _ => rfl⟩ | intro _ | with_reducible apply State.pumpUnit_borne | with_reducible apply State.startGroups_borne | with_reducible apply borne_ite | with_reducible apply borne_foldl | split | dsimp only | decide

theorem State.finishResult_borne (h : s0.Borne s) {slot : Nat} {key : ResKey} : s0.Borne (State.finishResult s slot key) := by
  unfold State.finishResult
  try dsimp only
  repeat' first | with_reducible assumption | with_reducible rfl | exact fun _ => ⟨rfl, fun h => h⟩ | exact fun _ => ⟨rfl, fun _ => rfl⟩ | intro _ | with_reducible apply State.mapResult_borne | with_reducible apply State.bump_borne | with_reducible apply State.deliver_borne | with_reducible apply borne_ite | fail_if_no_progress with_reducible refine borne_mk ?_ rfl rfl rfl rfl | split | dsimp only | decide

theorem State.failResult_borne (h : s0.Borne s) {slot : Nat} {key : ResKey} {addr : Nat} : s0.Borne (State.failResult s slot key addr) := by
  unfold State.failResult
  try dsimp only
  repeat' first | with_reducible assumption | with_reducible rfl | exact fun _ => ⟨rfl, fun h => h⟩ | exact fun _ => ⟨rfl, fun _ => rfl⟩ | intro _ | with_reducible apply State.mapResult_borne | with_reducible apply State.deliver_borne | with_reducible apply borne_ite | fail_if_no_progress with_reducible refine borne_mk ?_ rfl rfl rfl rfl | split | dsimp only | decide

theorem State.startMove_borne (h : s0.Borne s) {die : Nat} {u : UnitRef} {i : UnitInfo} {dst : Nat} {quota paced : Bool} {wake : Option Nat} : s0.Borne (State.startMove s die u i dst quota paced wake) := by
  unfold State.startMove
  try dsimp only
  repeat' first | with_reducible assumption | with_reducible rfl | exact fun _ => ⟨rfl, fun h => h⟩ | exact fun _ => ⟨rfl, fun _ => rfl⟩ | with_reducible exact somep_none | with_reducible apply somep_some | with_reducible apply State.place_borne | with_reducible apply State.nextFree_borne | with_reducible apply State.alloc_borne | with_reducible apply borne_ite | fail_if_no_progress with_reducible refine borne_mk ?_ rfl rfl rfl rfl | refine somep_of (P := s0.Borne) (by assumption) ?_ | split | dsimp only | decide

theorem State.promotingTest_borne (h : s0.Borne s) {slot : Nat} : s0.Borne (State.promotingTest s slot) := by
  unfold State.promotingTest
  try dsimp only
  repeat' first | with_reducible assumption | with_reducible rfl | exact fun _ => ⟨rfl, fun h => h⟩ | exact fun _ => ⟨rfl, fun _ => rfl⟩ | intro _ | with_reducible apply State.setSess_borne | with_reducible apply borne_ite | fail_if_no_progress with_reducible refine borne_mk ?_ rfl rfl rfl rfl | split | dsimp only | decide

theorem State.startPromo_borne (h : s0.Borne s) {die : Nat} : s0.Borne (State.startPromo s die) := by
  unfold State.startPromo
  try dsimp only
  repeat' first | with_reducible assumption | with_reducible rfl | exact fun _ => ⟨rfl, fun h => h⟩ | exact fun _ => ⟨rfl, fun _ => rfl⟩ | intro _ | with_reducible apply State.promotingTest_borne | with_reducible apply State.startMove_borne | with_reducible apply borne_ite | fail_if_no_progress with_reducible refine borne_mk ?_ rfl rfl rfl rfl | split | dsimp only | decide

theorem State.startPromos_borne (h : s0.Borne s) {die n : Nat} : s0.Borne (State.startPromos s die n) := by
  induction n generalizing s with
  | zero => exact h
  | succ n ih => exact ih (State.startPromo_borne h)

theorem State.runPromos_borne (h : s0.Borne s) {die : Nat} : s0.Borne (State.runPromos s die) := by
  unfold State.runPromos
  try dsimp only
  repeat' first | with_reducible assumption | with_reducible rfl | exact fun _ => ⟨rfl, fun h => h⟩ | exact fun _ => ⟨rfl, fun _ => rfl⟩ | with_reducible apply State.startPromos_borne | with_reducible apply borne_ite | split | dsimp only | decide

theorem State.setMap_borne (h : s0.Borne s) {die b : Nat} {v : Bool} : s0.Borne (State.setMap s die b v) := by
  unfold State.setMap
  try dsimp only
  repeat' first | with_reducible assumption | with_reducible rfl | exact fun _ => ⟨rfl, fun h => h⟩ | exact fun _ => ⟨rfl, fun _ => rfl⟩ | with_reducible apply State.setReg_borne | with_reducible apply borne_ite | split | dsimp only | decide

theorem State.takeOut_borne (h : s0.Borne s) {die cluster core : Nat} : s0.Borne (State.takeOut s die cluster core) := by
  unfold State.takeOut
  try dsimp only
  repeat' first | with_reducible assumption | with_reducible rfl | exact fun _ => ⟨rfl, fun h => h⟩ | exact fun _ => ⟨rfl, fun _ => rfl⟩ | with_reducible apply State.setFld_borne | with_reducible apply State.setMap_borne | with_reducible apply borne_ite | split | dsimp only | decide

theorem State.dropCopies_borne (h : s0.Borne s) {die cluster core : Nat} : s0.Borne (State.dropCopies s die cluster core) := by
  unfold State.dropCopies
  try dsimp only
  repeat' first | with_reducible assumption | with_reducible rfl | exact fun _ => ⟨rfl, fun h => h⟩ | exact fun _ => ⟨rfl, fun _ => rfl⟩ | intro _ | with_reducible apply State.dealloc_borne | with_reducible apply borne_ite | with_reducible apply borne_foldl | fail_if_no_progress with_reducible refine borne_mk ?_ rfl rfl rfl rfl | split | dsimp only | decide

theorem State.coreFault_borne (h : s0.Borne s) {die cluster core : Nat} : s0.Borne (State.coreFault s die cluster core) := by
  unfold State.coreFault
  try dsimp only
  repeat' first | with_reducible assumption | with_reducible rfl | exact fun _ => ⟨rfl, fun h => h⟩ | exact fun _ => ⟨rfl, fun _ => rfl⟩ | with_reducible apply State.bump_borne | with_reducible apply State.takeOut_borne | with_reducible apply State.setFld_borne | with_reducible apply State.raise_borne | with_reducible apply State.pump_borne | with_reducible apply State.rerun_borne | with_reducible apply State.dropCopies_borne | with_reducible apply borne_ite | fail_if_no_progress with_reducible refine borne_mk ?_ rfl rfl rfl rfl | split | dsimp only | decide

theorem State.remap_borne (h : s0.Borne s) {die cluster : Nat} : s0.Borne (State.remap s die cluster) := by
  unfold State.remap
  try dsimp only
  repeat' first | with_reducible assumption | with_reducible rfl | exact fun _ => ⟨rfl, fun h => h⟩ | exact fun _ => ⟨rfl, fun _ => rfl⟩ | with_reducible apply State.setFld_borne | with_reducible apply State.raise_borne | with_reducible apply State.pump_borne | with_reducible apply borne_ite | fail_if_no_progress with_reducible refine borne_mk ?_ rfl rfl rfl rfl | split | dsimp only | decide

theorem State.remapIdle_borne (h : s0.Borne s) : s0.Borne (State.remapIdle s) := by
  unfold State.remapIdle
  try dsimp only
  repeat' first | with_reducible assumption | with_reducible rfl | exact fun _ => ⟨rfl, fun h => h⟩ | exact fun _ => ⟨rfl, fun _ => rfl⟩ | intro _ | with_reducible apply State.remap_borne | with_reducible apply borne_ite | with_reducible apply borne_foldl | split | dsimp only | decide

theorem State.sramError_borne (h : s0.Borne s) {die cluster core : Nat} : s0.Borne (State.sramError s die cluster core) := by
  unfold State.sramError
  try dsimp only
  repeat' first | with_reducible assumption | with_reducible rfl | exact fun _ => ⟨rfl, fun h => h⟩ | exact fun _ => ⟨rfl, fun _ => rfl⟩ | with_reducible apply State.coreFault_borne | with_reducible apply borne_ite | fail_if_no_progress with_reducible refine borne_mk ?_ rfl rfl rfl rfl | split | dsimp only | decide

theorem State.accepted_borne (h : s0.Borne s) {slot : Nat} {renew : Bool} : s0.Borne (State.accepted s slot renew) := by
  unfold State.accepted
  try dsimp only
  repeat' first | with_reducible assumption | with_reducible rfl | exact fun _ => ⟨rfl, fun h => h⟩ | exact fun _ => ⟨rfl, fun _ => rfl⟩ | with_reducible apply State.setSess_borne | with_reducible apply borne_ite | fail_if_no_progress with_reducible refine borne_mk ?_ rfl rfl rfl rfl | split | dsimp only | decide

theorem State.pickAll_borne (h : s0.Borne s) : s0.Borne (State.pickAll s) := by
  unfold State.pickAll
  try dsimp only
  repeat' first | with_reducible assumption | with_reducible rfl | exact fun _ => ⟨rfl, fun h => h⟩ | exact fun _ => ⟨rfl, fun _ => rfl⟩ | intro _ | with_reducible apply State.pick_borne | with_reducible apply borne_ite | with_reducible apply borne_foldl | split | dsimp only | decide

theorem State.kvAnswer_borne (h : s0.Borne s) {e : Env} {slot status reason dropped nonfinite detail : Nat} : s0.Borne (State.kvAnswer s e slot status reason dropped nonfinite detail) := by
  unfold State.kvAnswer
  try dsimp only
  repeat' first | with_reducible assumption | with_reducible rfl | exact fun _ => ⟨rfl, fun h => h⟩ | exact fun _ => ⟨rfl, fun _ => rfl⟩ | with_reducible apply State.answer_borne | with_reducible apply borne_ite | split | dsimp only | decide

theorem State.tearDown_borne (h : s0.Borne s) {die ctx cause : Nat} : s0.Borne (State.tearDown s die ctx cause) := by
  unfold State.tearDown
  try dsimp only
  repeat' first | with_reducible assumption | with_reducible rfl | exact fun _ => ⟨rfl, fun h => h⟩ | exact fun _ => ⟨rfl, fun _ => rfl⟩ | intro _ | with_reducible apply State.setFld_borne | with_reducible apply State.raise_borne | with_reducible apply borne_ite | with_reducible apply borne_foldl | fail_if_no_progress with_reducible refine borne_mk ?_ rfl rfl rfl rfl | split | dsimp only | decide

theorem State.readPages_borne (h : s0.Borne s) {r : Result} {seg : Nat} : s0.Borne (State.readPages s r seg) := by
  unfold State.readPages
  try dsimp only
  repeat' first | with_reducible assumption | with_reducible rfl | exact fun _ => ⟨rfl, fun h => h⟩ | exact fun _ => ⟨rfl, fun _ => rfl⟩ | intro _ | with_reducible apply State.touch_borne | with_reducible apply State.walkPage_borne | with_reducible apply borne_ite | with_reducible apply borne_foldl | fail_if_no_progress with_reducible refine borne_mk ?_ rfl rfl rfl rfl | split | dsimp only | decide

theorem State.unitComputed_borne (h : s0.Borne s) {r : Result} {u : AttnUnit} : s0.Borne (State.unitComputed s r u) := by
  unfold State.unitComputed
  try dsimp only
  repeat' first | with_reducible assumption | with_reducible rfl | exact fun _ => ⟨rfl, fun h => h⟩ | exact fun _ => ⟨rfl, fun _ => rfl⟩ | intro _ | with_reducible apply State.readPages_borne | with_reducible apply State.mapUnit_borne | with_reducible apply State.mapResult_borne | with_reducible apply State.finishResult_borne | with_reducible apply borne_ite | fail_if_no_progress with_reducible refine borne_mk ?_ rfl rfl rfl rfl | split | dsimp only | decide

theorem State.walkFault_borne (h : s0.Borne s) {die : Nat} {ctx addr : Nat} : s0.Borne (State.walkFault s die ctx addr) := by
  unfold State.walkFault
  try dsimp only
  repeat' first | with_reducible assumption | with_reducible rfl | exact fun _ => ⟨rfl, fun h => h⟩ | exact fun _ => ⟨rfl, fun _ => rfl⟩ | with_reducible apply State.bump_borne | with_reducible apply State.raise_borne | with_reducible apply borne_ite | split | dsimp only | decide

theorem State.loseCopy_borne (h : s0.Borne s) {r : Result} {u : AttnUnit} {page : Option Nat} : s0.Borne (State.loseCopy s r u page) := by
  unfold State.loseCopy
  try dsimp only
  repeat' first | with_reducible assumption | with_reducible rfl | exact fun _ => ⟨rfl, fun h => h⟩ | exact fun _ => ⟨rfl, fun _ => rfl⟩ | intro _ | with_reducible apply State.dealloc_borne | with_reducible apply State.bump_borne | with_reducible apply State.logErr_borne | with_reducible apply State.nextFree_borne | with_reducible apply State.sramError_borne | with_reducible apply borne_ite | with_reducible apply borne_foldl | fail_if_no_progress with_reducible refine borne_mk ?_ rfl rfl rfl rfl | split | dsimp only | decide

theorem State.unitOutcome_borne (h : s0.Borne s) {r : Result} {u : AttnUnit} {x0 : UnitOutcome} : s0.Borne (State.unitOutcome s r u x0) := by
  unfold State.unitOutcome
  try dsimp only
  repeat' first | with_reducible assumption | with_reducible rfl | exact fun _ => ⟨rfl, fun h => h⟩ | exact fun _ => ⟨rfl, fun _ => rfl⟩ | intro _ | with_reducible apply State.unitComputed_borne | with_reducible apply State.loseCopy_borne | with_reducible apply State.tileCheck_borne | with_reducible apply State.failResult_borne | with_reducible apply State.walkFault_borne | with_reducible apply State.t1Fail_borne | with_reducible apply State.tearDown_borne | with_reducible apply State.logErr_borne | with_reducible apply State.sramError_borne | with_reducible apply State.waitPage_borne | with_reducible apply borne_ite | fail_if_no_progress with_reducible refine borne_mk ?_ rfl rfl rfl rfl | split | dsimp only | decide

end Sys2Proof.Machine
end

