-- ==== Sys2Proof/Laws/AttnCmds.lean ====
section
/-! SUPPORT. What the attention commands come to: the store, the units and the groups. -/

namespace Sys2Proof.Machine

variable {s s0 t : State}

/-- The keys of the store. -/
def State.keys (s : State) : List (Nat × ResKey) := s.attn.results.map (fun x => (x.slot, x.key))

theorem keys_of_still (h : t.attn.results.map Result.still = s.attn.results.map Result.still) : t.keys = s.keys := by
  have e := congrArg (List.map (fun x : Result => (x.slot, x.key))) h
  simp only [List.map_map] at e
  exact e

theorem keys_of_laters {a b : List Result} (h : List.Forall₂ Result.Later a b) :
    b.map (fun x => (x.slot, x.key)) = a.map (fun x => (x.slot, x.key)) := by
  induction h with
  | nil => rfl
  | cons x _ ih =>
    have h1 := congrArg Result.slot x.1
    have h2 := congrArg Result.key x.1
    unfold Result.core at h1 h2
    dsimp only at h1 h2
    rw [List.map_cons, List.map_cons, ih, h1, h2]

theorem result_later {slot : Nat} {key : ResKey} {a b : List Result} (h : List.Forall₂ Result.Later a b) {r : Result}
    (hr : a.find? (fun r => r.is slot key) = some r) : ∃ r', b.find? (fun r => r.is slot key) = some r' ∧ r.Later r' := by
  induction h with
  | nil => cases hr
  | @cons x y l l' hxy _ ih =>
    have hi : y.is slot key = x.is slot key := by
      unfold Result.is
      have h1 := congrArg Result.slot hxy.1
      have h2 := congrArg Result.key hxy.1
      unfold Result.core at h1 h2
      dsimp only at h1 h2
      rw [h1, h2]
    rw [List.find?_cons] at hr
    rw [List.find?_cons, hi]
    cases hx : x.is slot key with
    | true =>
      rw [hx] at hr
      cases hr
      exact ⟨y, rfl, hxy⟩
    | false =>
      rw [hx] at hr
      exact ih hr

theorem laters_mem {a b : List Result} (h : List.Forall₂ Result.Later a b) {r : Result} (hr : r ∈ a) : ∃ r', r' ∈ b ∧ r.Later r' := by
  induction h with
  | nil => cases hr
  | cons hxy _ ih =>
    rcases List.mem_cons.1 hr with e | e
    · subst e
      exact ⟨_, List.mem_cons_self .., hxy⟩
    · obtain ⟨r', h1, h2⟩ := ih e
      exact ⟨r', List.mem_cons_of_mem _ h1, h2⟩

theorem later_of_still {a b : Result} (h : b.still = a.still) : a.Later b := by
  have hc := congrArg Result.core h
  have hf := congrArg Result.complete h
  refine ⟨hc, fun x => ?_⟩
  exact hf.trans x

theorem laters_of_still {a b : List Result} (h : b.map Result.still = a.map Result.still) : List.Forall₂ Result.Later a b := by
  induction a generalizing b with
  | nil =>
    cases b with
    | nil => exact .nil
    | cons y b => cases h
  | cons x a ih =>
    cases b with
    | nil => cases h
    | cons y b =>
      rw [List.map_cons, List.map_cons] at h
      injection h with h1 h2
      exact .cons (later_of_still h1) (ih h2)

theorem aside_borne (h : s.Aside t) : s.Borne t := ⟨laters_of_still h.results, by rw [h.kv], by rw [h.kv], by rw [h.kv]⟩

theorem reported_borne (h : s.Reported t) : s.Borne t := ⟨laters_of_still h.results, by rw [h.kv], by rw [h.kv], by rw [h.kv]⟩

theorem heard_area (s : State) (e : Env) (type : Nat) (slot : Option Nat) (x : Nat) : (s.heard e type slot).area x = s.area x := by
  unfold State.area
  rw [heard_kv']

theorem result_is {slot : Nat} {key : ResKey} {r : Result} (h : s.result slot key = some r) : r.slot = slot ∧ r.key = key := by
  have := List.find?_some h
  unfold Result.is at this
  simpa using this

/-- A part that no step of a list changes. -/
theorem foldl_keep {α β : Type} {f : State → α → State} (g : State → β) (hf : ∀ s x, g (f s x) = g s) (l : List α) :
    ∀ s, g (l.foldl f s) = g s := by
  induction l with
  | nil => exact fun _ => rfl
  | cons x l ih => exact fun s => (ih (f s x)).trans (hf s x)

theorem resetClass_keep (s : State) (p c : Nat) : (s.resetClass p c).attn = s.attn ∧ (s.resetClass p c).ses = s.ses
    ∧ (s.resetClass p c).kv = s.kv := by
  unfold State.resetClass
  dsimp only
  split
  · exact ⟨rfl, rfl, rfl⟩
  · split
    · split
      · exact ⟨rfl, rfl, rfl⟩
      · exact ⟨rfl, rfl, rfl⟩
    · exact ⟨rfl, rfl, rfl⟩

/-- Withdrawing frames touches the queues only. -/
theorem unqueue_keep (s : State) (slot : Nat) (key : ResKey) : (s.unqueue slot key).attn = s.attn ∧ (s.unqueue slot key).ses = s.ses
    ∧ (s.unqueue slot key).kv = s.kv := by
  unfold State.unqueue
  have h : ∀ {β : Type} (g : State → β), (∀ s p c, g (State.resetClass s p c) = g s) → (∀ s p q, g (State.setPort s p q) = g s) →
      ∀ (l : List Nat) s, g (l.foldl (fun s p =>
        let q := s.port p
        if q.queue.any (fun f => f.result == some (slot, key)) then
          (List.range 8).foldl (fun s c => s.resetClass p c)
            ((s.settle p).setPort p { (s.settle p).port p with
              queue := q.queue.filter (fun f => f.result != some (slot, key)) })
        else s) s) = g s := by
    intro β g h1 h2 l
    refine foldl_keep g (fun s p => ?_) l
    dsimp only
    split
    · refine (foldl_keep g (fun s c => h1 s p c) _ _).trans ((h2 _ _ _).trans ?_)
      unfold State.settle
      exact h2 _ _ _
    · rfl
  exact ⟨h State.attn (fun s p c => (resetClass_keep s p c).1) (fun _ _ _ => rfl) _ s,
    h State.ses (fun s p c => (resetClass_keep s p c).2.1) (fun _ _ _ => rfl) _ s,
    h State.kv (fun s p c => (resetClass_keep s p c).2.2) (fun _ _ _ => rfl) _ s⟩

theorem keys_filter (l : List Result) (slot : Nat) (key : ResKey) :
    (l.filter (fun x => !x.is slot key)).map (fun x => (x.slot, x.key)) = (l.map (fun x => (x.slot, x.key))).filter (fun x => x ≠ (slot, key)) := by
  rw [List.filter_map]
  congr 1
  refine List.filter_congr fun x _ => ?_
  unfold Result.is
  by_cases h1 : x.slot = slot <;> by_cases h2 : x.key = key <;> simp [h1, h2]

theorem dropResult_spec (s : State) (slot : Nat) (key : ResKey) :
    (s.dropResult slot key).keys = s.keys.filter (fun x => x ≠ (slot, key)) ∧ (s.dropResult slot key).ses = s.ses
      ∧ (s.dropResult slot key).kv = s.kv := by
  unfold State.dropResult
  split
  · rename_i h
    refine ⟨?_, rfl, rfl⟩
    unfold State.keys
    rw [← keys_filter]
    congr 1
    symm
    rw [List.filter_eq_self]
    unfold State.result at h
    rw [List.find?_eq_none] at h
    intro x hx
    simpa using h x hx
  · rename_i r _
    extract_lets s1 s2 x3 s3 s4
    have h1 : s.Reported s1 := State.formResult_reported (reported_refl s)
    have h2 : s2.attn = s1.attn ∧ s2.ses = s1.ses ∧ s2.kv = s1.kv := by
      unfold s2
      split
      · exact unqueue_keep _ _ _
      · exact ⟨rfl, rfl, rfl⟩
    clear_value s2
    refine ⟨?_, ?_, ?_⟩
    · show (s2.attn.results.filter (fun x => !x.is slot key)).map (fun x => (x.slot, x.key)) = _
      rw [keys_filter, h2.1]
      exact congrArg (List.filter _) (keys_of_still h1.results)
    · exact h2.2.1.trans h1.ses
    · exact h2.2.2.trans h1.kv

theorem keyLe_refl (a : ResKey) : keyLe a a = true := by
  simp [keyLe]

theorem raiseMark_spec (s : State) (slot : Nat) (k : ResKey) : (s.raiseMark slot k).attn.results = s.attn.results
    ∧ (∀ a, (s.raiseMark slot k).area slot = some a → keyLe k a.mark = true) ∧ (s.raiseMark slot k).ses = s.ses
    ∧ (∀ a, s.area slot = some a → ∃ a', (s.raiseMark slot k).area slot = some a' ∧ keyLe k a'.mark = true
        ∧ (keyLe k a.mark = true → a' = a) ∧ (keyLe k a.mark = false → a'.mark = k)) := by
  unfold State.raiseMark
  split
  · rename_i h
    refine ⟨rfl, fun a ha => ?_, rfl, fun a ha => ?_⟩ <;> rw [h] at ha <;> cases ha
  · rename_i a h
    split
    · rename_i hk
      refine ⟨rfl, fun a ha => ?_, rfl, fun a ha => ?_⟩
      · rw [h] at ha
        cases ha
        exact hk
      · rw [h] at ha
        cases ha
        exact ⟨_, h, hk, fun _ => rfl, fun hn => absurd hk (by rw [hn]; decide)⟩
    · rename_i hk
      have hs : ∀ b : FinArea, (s.putArea slot b).area slot = some b := fun _ => alGet_alSet_self _ _ _
      refine ⟨rfl, fun a ha => ?_, rfl, fun a ha => ?_⟩
      · rw [hs] at ha
        cases ha
        exact keyLe_refl k
      · rw [h] at ha
        cases ha
        exact ⟨_, hs _, keyLe_refl k, fun hn => absurd hn hk, fun _ => rfl⟩

theorem dropResults_keys (l : List ResKey) (slot : Nat) : ∀ s : State, (l.foldl (fun s k => s.dropResult slot k) s).keys
    = s.keys.filter (fun x => !(x.1 == slot && l.contains x.2)) ∧ (l.foldl (fun s k => s.dropResult slot k) s).kv = s.kv := by
  induction l with
  | nil => exact fun s => ⟨by simp, rfl⟩
  | cons k l ih =>
    intro s
    rw [List.foldl_cons]
    obtain ⟨i1, i2⟩ := ih (s.dropResult slot k)
    obtain ⟨d1, d2, d3⟩ := dropResult_spec s slot k
    refine ⟨?_, i2.trans d3⟩
    rw [i1, d1, List.filter_filter]
    refine List.filter_congr fun x _ => ?_
    rcases x with ⟨x1, x2⟩
    by_cases h1 : x1 = slot <;> by_cases h2 : x2 = k <;> simp [h1, h2]

theorem keyLe_total (a b : ResKey) : keyLe a b = true ∨ keyLe b a = true := by
  unfold keyLe
  simp only [Bool.or_eq_true, decide_eq_true_eq, Bool.and_eq_true, beq_iff_eq]
  omega

theorem accepted_keep (s : State) (slot : Nat) (b : Bool) : (s.accepted slot b).attn = s.attn ∧ (s.accepted slot b).kv = s.kv := ⟨rfl, rfl⟩

theorem noteReturn_keep (s : State) (r : Result) : (s.noteReturn r).keys = s.keys ∧ (s.noteReturn r).kv = s.kv := by
  refine ⟨?_, ?_⟩
  · exact keys_of_laters (State.noteReturn_borne (borne_refl s)).results
  · unfold State.noteReturn
    dsimp only
    split
    · rfl
    · split <;> rfl

theorem serveFetch_spec {s : State} {e : Env} {type h : Nat} {key : ResKey} {r : Result} (hr : s.result (handleSlot h) key = some r)
    (hc : r.complete = true) : (s.serveFetch e type h key).rp.answered = some (7, r.nextStatus, s.returnBody r true)
      ∧ (s.serveFetch e type h key).keys = s.keys ∧ (s.serveFetch e type h key).kv = s.kv := by
  unfold State.serveFetch
  extract_lets slot out
  have ho : out = ((s.noteReturn r).untrack ⟨r.ep, r.context, false, r.keyGen⟩ r.reqId).answer e type r.nextStatus 0 (s.returnBody r true) := by
    unfold out slot
    rw [hr]
    dsimp only
    rw [if_pos hc]
  clear_value out
  subst ho
  obtain ⟨k1, k2⟩ := noteReturn_keep s r
  have hn := State.answer_reported (e := e) (type := type) (status := r.nextStatus) (reason := 0) (body := s.returnBody r true)
    (State.untrack_reported (k := ⟨r.ep, r.context, false, r.keyGen⟩) (reqId := r.reqId) (reported_refl (s.noteReturn r)))
  exact ⟨rfl, (keys_of_still hn.results).trans k1, hn.kv.trans k2⟩

theorem touch_attn (s : State) (k : PageKey) : (s.touch k).attn = s.attn := by
  unfold State.touch
  split
  · rfl
  · dsimp only
    split
    · rfl
    · split <;> rfl

theorem walkPage_attn (s : State) (die vun : Nat) : (s.walkPage die vun).attn = s.attn := by
  unfold State.walkPage
  split <;> rfl

theorem readPages_attn (s : State) (r : Result) (seg : Nat) : (s.readPages r seg).attn = s.attn := by
  unfold State.readPages
  refine foldl_keep State.attn (fun s v => ?_) _ s
  split
  · rfl
  · dsimp only
    split
    · exact (walkPage_attn _ _ _).trans (touch_attn _ _)
    · rfl

theorem find_map_is {slot : Nat} {key : ResKey} {f : Result → Result} (hf : ∀ r : Result, (f r).is slot key = r.is slot key) (l : List Result) :
    (l.map f).find? (fun r => r.is slot key) = (l.find? (fun r => r.is slot key)).map f := by
  induction l with
  | nil => rfl
  | cons a l ih =>
    rw [List.map_cons, List.find?_cons, List.find?_cons, hf]
    cases a.is slot key with
    | true => rfl
    | false => exact ih

theorem mapResult_result {slot : Nat} {key : ResKey} {f : Result → Result} (hf : ∀ r : Result, (f r).slot = r.slot ∧ (f r).key = r.key)
    {r : Result} (h : s.result slot key = some r) : (s.mapResult slot key f).result slot key = some (f r) := by
  have h2 := find_map_is (slot := slot) (key := key) (f := fun r => if r.is slot key then f r else r) (fun r => by
    split
    · unfold Result.is
      rw [(hf r).1, (hf r).2]
    · rfl) s.attn.results
  unfold State.result at h ⊢
  refine h2.trans ?_
  rw [h, Option.map_some]
  rw [if_pos (List.find?_some h)]

theorem finishResult_complete {slot : Nat} {key : ResKey} {r : Result} (h : s.result slot key = some r)
    (hd : r.complete = true ∨ ∀ u ∈ r.units, u.st = .done) : ∃ r', (s.finishResult slot key).result slot key = some r' ∧ r'.complete = true ∧ r'.core = r.core := by
  unfold State.finishResult
  rw [h]
  dsimp only
  split
  · rename_i hc
    refine ⟨r, h, ?_, rfl⟩
    rcases hd with hd | hd
    · exact hd
    · simp only [Bool.or_eq_true, List.any_eq_true] at hc
      rcases hc with hc | ⟨u, u1, u2⟩
      · exact hc
      · rw [hd u u1] at u2
        cases u2
  · generalize hw : s.mapResult slot key (fun r => { r with complete := true, data := (s.outputs r).1, overflow := (s.outputs r).2, units := [], views := [], running := [] }) = w0
    clear hw
    have h1 := mapResult_result (s := s) (f := fun x => { x with complete := true, data := (s.outputs r).1, overflow := (s.outputs r).2, units := [], views := [], running := [] }) (fun _ => ⟨rfl, rfl⟩) h
    generalize s.mapResult slot key (fun x => { x with complete := true, data := (s.outputs r).1, overflow := (s.outputs r).2, units := [], views := [], running := [] }) = w at h1 ⊢
    have hb : w.Borne (State.deliver (if r.relaxed = true then (w.bump (slotDie slot) 0 Fld.ATN_COUNTS0_RELAXED).bump (slotDie slot) 0 Fld.RP_CHOICES1_RELAXED else w) slot key) :=
      State.deliver_borne (borne_ite (State.bump_borne (State.bump_borne (borne_refl w))) (borne_refl w))
    obtain ⟨r', q1, q2⟩ := result_later hb.results h1
    exact ⟨r', q1, q2.2 rfl, q2.1⟩

theorem failResult_complete {slot : Nat} {key : ResKey} {r : Result} (addr : Nat) (h : s.result slot key = some r) :
    ∃ r', (s.failResult slot key addr).result slot key = some r' ∧ r'.complete = true ∧ r'.core = r.core := by
  unfold State.failResult
  rw [h]
  dsimp only
  split
  · rename_i hc
    exact ⟨r, h, hc, rfl⟩
  · have h1 := mapResult_result (s := s) (f := fun x => { x with complete := true, integrity := some addr, data := [], units := [], views := [], running := [] }) (fun _ => ⟨rfl, rfl⟩) h
    generalize s.mapResult slot key (fun x => { x with complete := true, integrity := some addr, data := [], units := [], views := [], running := [] }) = w at h1 ⊢
    generalize hv : ({ w with attn := { w.attn with groups := w.attn.groups.map (fun (g : Group) => { g with members := g.members.filter (fun m => m != (slot, key)) }) } } : State) = v
    have hwv : w.Borne v := by
      rw [← hv]
      exact borne_mk (borne_refl w) rfl rfl rfl rfl
    obtain ⟨r', q1, q2⟩ := result_later (State.deliver_borne hwv).results h1
    exact ⟨r', q1, q2.2 rfl, q2.1⟩

theorem core_parts {a b : Result} (h : b.core = a.core) : b.rseq = a.rseq ∧ b.ep = a.ep ∧ b.attended = a.attended ∧ b.slot = a.slot
    ∧ b.key = a.key ∧ b.reqId = a.reqId ∧ b.outFp32 = a.outFp32 ∧ b.dest = a.dest ∧ b.dropped = a.dropped := by
  have h1 := congrArg Result.rseq h
  have h2 := congrArg Result.ep h
  have h3 := congrArg Result.attended h
  have h4 := congrArg Result.slot h
  have h5 := congrArg Result.key h
  have h6 := congrArg Result.reqId h
  have h7 := congrArg Result.outFp32 h
  have h8 := congrArg Result.dest h
  have h9 := congrArg Result.dropped h
  exact ⟨h1, h2, h3, h4, h5, h6, h7, h8, h9⟩

/-- A failing or last unit completes its request. -/
theorem unitOutcome_complete {slot kvHead seg : Nat} {key : ResKey} {o : UnitOutcome} {r : Result} {v : AttnUnit} (hr : s.result slot key = some r)
    (hv : v.kvHead = kvHead ∧ v.seg = seg)
    (ho : (o = .done ∧ ∀ v ∈ r.units, (v.kvHead = kvHead ∧ v.seg = seg) ∨ v.st = .done) ∨ (∃ p i c, o = .tileFail p i c) ∨ (∃ x, o = .walkFail x)
      ∨ (∃ x, o = .entryUnread x) ∨ (∃ x, o = .ctxMismatch x) ∨ (∃ x, o = .sramFail x)) :
    ∃ r', (s.unitOutcome r v o).result slot key = some r' ∧ r'.complete = true ∧ r'.core = r.core := by
  obtain ⟨e1, e2⟩ := result_is hr
  subst e1 e2
  have fail : ∀ {w : State} {a : Nat}, s.Borne w → ∃ r', (w.failResult r.slot r.key a).result r.slot r.key = some r' ∧ r'.complete = true ∧ r'.core = r.core := by
    intro w a hw
    obtain ⟨r1, q1, q2⟩ := result_later hw.results hr
    obtain ⟨r', p1, p2, p3⟩ := failResult_complete a q1
    exact ⟨r', p1, p2, p3.trans q2.1⟩
  rcases ho with ⟨rfl, hd⟩ | ⟨p, i, c, rfl⟩ | ⟨x, rfl⟩ | ⟨x, rfl⟩ | ⟨x, rfl⟩ | ⟨x, rfl⟩
  · show ∃ r', (s.unitComputed r v).result r.slot r.key = some r' ∧ r'.complete = true ∧ r'.core = r.core
    unfold State.unitComputed
    extract_lets parts s1 s2 s3
    have h1 : s1.result r.slot r.key = some r := by
      unfold State.result at hr ⊢
      rw [show s1.attn = s.attn from readPages_attn s r v.seg]
      exact hr
    have h2 := mapResult_result (s := s1) (f := fun r' => { r' with units := r'.units.map (fun (u : AttnUnit) => if u.kvHead = v.kvHead ∧ u.seg = v.seg then { u with st := .done, parts := if r.relaxed = true then [] else parts } else u) }) (fun _ => ⟨rfl, rfl⟩) h1
    change s2.result r.slot r.key = _ at h2
    have h3 : ∃ r3, s3.result r.slot r.key = some r3 ∧ r3.core = r.core ∧ ∀ u ∈ r3.units, u.st = .done := by
      have hall : ∀ u ∈ (r.units.map (fun (u : AttnUnit) => if u.kvHead = v.kvHead ∧ u.seg = v.seg then { u with st := .done, parts := if r.relaxed = true then [] else parts } else u)), u.st = .done := by
        intro u hu
        obtain ⟨y, y1, y2⟩ := List.mem_map.1 hu
        subst y2
        split
        · rfl
        · rename_i hn
          rcases hd y y1 with h | h
          · rw [hv.1, hv.2] at hn
            exact absurd h hn
          · exact h
      unfold s3
      split
      · exact ⟨_, mapResult_result (s := s2) (f := fun r => { r with running := addRunning (s2.qh / s2.kvh) v.kvHead parts r.running }) (fun _ => ⟨rfl, rfl⟩) h2, rfl, hall⟩
      · exact ⟨_, h2, rfl, hall⟩
    obtain ⟨r3, a1, a2, a3⟩ := h3
    obtain ⟨r', b1, b2, b3⟩ := finishResult_complete a1 (.inr a3)
    exact ⟨r', b1, b2, b3.trans a2⟩
  · exact fail (State.tileCheck_borne (borne_refl s))
  · exact fail (State.walkFault_borne (borne_refl s))
  · exact fail (State.walkFault_borne (State.t1Fail_borne (borne_refl s)))
  · exact fail (State.walkFault_borne (State.tearDown_borne (borne_refl s)))
  · exact fail (State.sramError_borne (State.logErr_borne (borne_refl s)))

theorem erase_all {α : Type} [DecidableEq α] (p : α → Bool) : ∀ (l m : List α), l.filter p = m → m.foldl (fun a x => a.erase x) l = l.filter (fun x => !p x) := by
  intro l
  induction l with
  | nil =>
    intro m h
    subst h
    rfl
  | cons a l ih =>
    intro m h
    cases hp : p a with
    | true =>
      rw [List.filter_cons, hp, if_pos rfl] at h
      subst h
      rw [List.foldl_cons, List.erase_cons_head, ih _ rfl, List.filter_cons, hp]
      rfl
    | false =>
      rw [List.filter_cons, hp, if_neg (by decide)] at h
      subst h
      rw [List.filter_cons, hp]
      have hne : ∀ (m : List α), (∀ x ∈ m, p x = true) → ∀ l', m.foldl (fun b x => b.erase x) (a :: l') = a :: m.foldl (fun b x => b.erase x) l' := by
        intro m
        induction m with
        | nil => exact fun _ _ => rfl
        | cons x m ihm =>
          intro hm l'
          rw [List.foldl_cons, List.foldl_cons, List.erase_cons_tail (by
            intro e
            rw [beq_iff_eq] at e
            subst e
            rw [hm a (List.mem_cons_self ..)] at hp
            cases hp)]
          exact ihm (fun y hy => hm y (List.mem_cons_of_mem _ hy)) _
      rw [hne _ (fun x hx => (List.mem_filter.1 hx).2), ih _ rfl]
      rfl

theorem startGroup_spec (s : State) (g : Group) : (s.startGroup g).attn.groups = s.attn.groups.erase g ∧ (s.startGroup g).ses = s.ses
    ∧ (s.startGroup g).kv = s.kv := by
  unfold State.startGroup
  extract_lets many x1 s1 s2
  have h2 : s2.attn = s1.attn ∧ s2.ses = s.ses ∧ s2.kv = s.kv := by
    unfold s2
    split <;> exact ⟨rfl, rfl, rfl⟩
  have step : ∀ {β : Type} (f : State → β), (∀ (s : State) r, f { s with attn := { s.attn with results := r } } = f s) →
      ∀ (s : State) (m : Nat × ResKey), f (match s.result m.1 m.2 with
        | none => s
        | some r => (s.mapUnit m.1 m.2 g.kvHead g.seg (fun u => { u with st := .running, core := r.coreOf g.seg })).mapResult m.1 m.2
            (fun r => { r with fanout := r.fanout || many })) = f s := by
    intro β f hf s m
    split
    · rfl
    · exact (hf _ _).trans (hf _ _)
  refine ⟨?_, ?_, ?_⟩
  · exact (foldl_keep (fun s => s.attn.groups) (step (fun s => s.attn.groups) fun _ _ => rfl) _ s2).trans (congrArg Attn.groups h2.1)
  · exact (foldl_keep State.ses (step State.ses fun _ _ => rfl) _ s2).trans h2.2.1
  · exact (foldl_keep State.kv (step State.kv fun _ _ => rfl) _ s2).trans h2.2.2

theorem flush_areas (s : State) (slot layer page : Nat) : (s.flush slot layer page).kv.areas = s.kv.areas := by
  unfold State.flush
  cases hs : s.staging slot with
  | none => rfl
  | some g =>
    dsimp only
    have hp : ∀ (u : State) (x : Staging), (u.putStaging slot x).kv.areas = u.kv.areas := fun _ _ => rfl
    split
    · refine (State.releaseRule_kept (kept_refl _)).areas.trans ((hp _ _).trans (State.Kept.areas (?_ : s.Kept _)))
      refine State.addLeaf_kept (State.nextFree_kept (State.alloc_kept (State.notePacked_kept ?_)))
      exact kept_ite (State.freePage_kept (State.bump_kept (kept_refl s))) (kept_refl s)
    · refine (State.releaseRule_kept (kept_refl _)).areas.trans (State.Kept.areas (?_ : s.Kept _))
      refine State.addLeaf_kept (State.nextFree_kept (State.alloc_kept (State.notePacked_kept ?_)))
      exact kept_ite (State.freePage_kept (State.bump_kept (kept_refl s))) (kept_refl s)

theorem appendRow_areas (s : State) (slot layer : Nat) (row : List BF16) : (s.appendRow slot layer row).kv.areas = s.kv.areas := by
  unfold State.appendRow
  cases hs : s.staging slot with
  | none => rfl
  | some g =>
    dsimp only
    split
    · exact flush_areas _ _ _ _
    · rfl

theorem attendAppend_spec {slot : Nat} {m : AttendMsg} {row : List BF16} {g : Staging} {n : Nat} (hg : s.staging slot = some g)
    (hl : m.layer < g.lens.length) (hn : n = if aflag m 0 = true ∧ g.len m.layer < Config.maxPositions (s.sess slot).dense then 1 else 0) :
    ∃ g', (s.attendAppend slot m row).1.staging slot = some g' ∧ (s.attendAppend slot m row).1.kv.areas = s.kv.areas
      ∧ (s.attendAppend slot m row).2 = b2n (aflag m 0) - n ∧ ∀ l, g'.len l = if l = m.layer then g.len l + n else g.len l := by
  unfold State.attendAppend
  cases ha : aflag m 0 with
  | false =>
    rw [ha, if_neg (by simp)] at hn
    subst hn
    refine ⟨g, hg, rfl, rfl, fun l => ?_⟩
    split <;> rfl
  | true =>
    rw [if_pos rfl]
    rw [ha] at hn
    simp only [hg]
    split
    · rename_i hx
      rw [if_pos ⟨rfl, hx⟩] at hn
      subst hn
      obtain ⟨g', h1, h2, h3⟩ := appendRow_staging hg m.layer row
      refine ⟨g', (setLength_staging _ _ _).trans h1, ?_, rfl, fun l => ?_⟩
      · have : ∀ u : State, (u.setLength slot).kv = u.kv := by
          intro u
          unfold State.setLength
          split <;> rfl
        rw [this]
        exact appendRow_areas _ _ _ _
      · rw [len_set h2 hl]
        split
        · rename_i e
          rw [e]
        · rfl
    · rename_i hx
      rw [if_neg (fun c => hx c.2)] at hn
      subst hn
      refine ⟨g, hg, rfl, rfl, fun l => ?_⟩
      split <;> rfl

theorem addResult_spec (s : State) (e : Env) (r : Result) : ∃ r', r' ∈ (s.addResult e r).attn.results ∧ r'.core = r.core
    ∧ s.Kept (s.addResult e r) := by
  unfold State.addResult
  extract_lets die x1 x2 s1 s2
  have h1 : r ∈ s2.attn.results := List.mem_append_right _ (List.mem_singleton_self r)
  have hk : s.Kept s2 := ⟨rfl, rfl, rfl⟩
  clear_value s2
  have hb : s2.Borne (if r.empty = true then s2.finishResult r.slot r.key else (s2.pump die (s2.home r.slot)).runPromos die) :=
    borne_ite (State.finishResult_borne (borne_refl _)) (State.runPromos_borne (State.pump_borne (borne_refl _)))
  obtain ⟨r', p1, p2⟩ := laters_mem hb.results h1
  exact ⟨r', p1, p2.1, kept_trans hk hb.kept⟩

theorem openData_kept {e : Env} {slot : Nat} {b : Bool} {off len : Nat} {x : List Byte} {w : State} {d : Nat ⊕ List Byte}
    (h : s.openData e slot b off len x = (w, d)) : s.Kept w := by
  unfold State.openData at h
  split at h
  · split at h
    · cases h
      exact kept_refl s
    · cases h
      exact State.noteObject_kept (kept_refl s)
  · cases h
    exact kept_refl s

theorem insertPos_sorted {p : Nat} {l : List Nat} (h : l.Pairwise (· < ·)) (hp : p ∉ l) : (insertPos p l).Pairwise (· < ·) := by
  induction l with
  | nil => simp [insertPos]
  | cons a l ih =>
    obtain ⟨h1, h2⟩ := List.pairwise_cons.1 h
    have hpa : p ≠ a := fun e => hp (e ▸ List.mem_cons_self ..)
    have hpl : p ∉ l := fun e => hp (List.mem_cons_of_mem _ e)
    by_cases hlt : a < p
    · have e : insertPos p (a :: l) = a :: insertPos p l := by
        unfold insertPos
        rw [List.takeWhile_cons, List.dropWhile_cons]
        simp [hlt]
      rw [e, List.pairwise_cons]
      refine ⟨fun x hx => ?_, ih h2 hpl⟩
      rcases (mem_insertPos p x l).1 hx with e | e
      · rw [e]
        exact hlt
      · exact h1 x e
    · have e : insertPos p (a :: l) = p :: a :: l := by
        unfold insertPos
        rw [List.takeWhile_cons, List.dropWhile_cons]
        simp [hlt]
      rw [e, List.pairwise_cons]
      refine ⟨fun x hx => ?_, h⟩
      rcases List.mem_cons.1 hx with e | e
      · omega
      · have := h1 x e
        omega

theorem insertAll_spec (ps : List Nat) : ∀ l : List Nat, l.Pairwise (· < ·) → ps.Nodup → (∀ p ∈ ps, p ∉ l) →
    (ps.foldl (fun l p => insertPos p l) l).Pairwise (· < ·) ∧ ∀ x, x ∈ ps.foldl (fun l p => insertPos p l) l ↔ x ∈ l ∨ x ∈ ps := by
  induction ps with
  | nil => exact fun l h _ _ => ⟨h, fun x => by simp⟩
  | cons p ps ih =>
    intro l h hn hd
    obtain ⟨n1, n2⟩ := List.nodup_cons.1 hn
    obtain ⟨i1, i2⟩ := ih (insertPos p l) (insertPos_sorted h (hd p (List.mem_cons_self ..))) n2 (fun q hq => by
      rw [mem_insertPos]
      rintro (e | e)
      · exact n1 (e ▸ hq)
      · exact hd q (List.mem_cons_of_mem _ hq) e)
    refine ⟨i1, fun x => ?_⟩
    rw [List.foldl_cons, i2, mem_insertPos, List.mem_cons]
    tauto

theorem eraseDups_nodup {α : Type} [DecidableEq α] (n : Nat) : ∀ l : List α, l.length ≤ n → l.eraseDups.Nodup := by
  induction n with
  | zero =>
    intro l h
    rw [List.length_eq_zero_iff.1 (Nat.le_zero.1 h)]
    exact List.nodup_nil
  | succ n ih =>
    intro l h
    cases l with
    | nil => exact List.nodup_nil
    | cons a l =>
      rw [List.eraseDups_cons, List.nodup_cons]
      refine ⟨fun hm => ?_, ih _ ?_⟩
      · have := (List.mem_filter.1 (List.mem_eraseDups.1 hm)).2
        simp at this
      · exact Nat.le_trans (List.length_filter_le _ _) (by simpa using h)

end Sys2Proof.Machine
end

