-- ==== Sys2Proof/Laws/FinishCmds.lean ====
section
/-! SUPPORT. What the finishing requests come to: the run of a form, the draw, and the held bytes. -/

namespace Sys2Proof.Machine

variable {s s0 t : State}

theorem detokFresh_spec (x : Byte) : ((detokFresh x).2 = [] ∨ utfProper ((detokFresh x).2.map (·.toNat)) = true)
    ∧ ((detokFresh x).1 = [] ∨ (detokFresh x).1 = fffd
        ∨ utfPrefix ((detokFresh x).1.map (·.toNat)) = true ∧ utfProper ((detokFresh x).1.map (·.toNat)) = false) := by
  unfold detokFresh
  split
  · rename_i h
    refine ⟨.inl rfl, .inr (.inr ?_)⟩
    simp [utfPrefix, utfProper, h]
  · split
    · rename_i h
      refine ⟨.inr ?_, .inl rfl⟩
      have h0 : seqLen (BitVec.toNat x) ≠ 0 := by omega
      have h1 : 0 < seqLen (BitVec.toNat x) := by omega
      have h2 : 1 < seqLen (BitVec.toNat x) := by omega
      simp [utfProper, utfPrefix, h0, h1, h2]
    · exact ⟨.inl rfl, .inr (.inl rfl)⟩

theorem mem_rankIn (c x : Nat × F32) : ∀ l, x ∈ rankIn c l ↔ x = c ∨ x ∈ l := by
  intro l
  induction l with
  | nil => simp [rankIn]
  | cons d l ih =>
    unfold rankIn
    split
    · rw [List.mem_cons]
    · rw [List.mem_cons, ih, List.mem_cons]
      tauto

theorem mem_ranking (x : Nat × F32) (l : List (Nat × F32)) : x ∈ ranking l ↔ x ∈ l := by
  unfold ranking
  have : ∀ (l r : List (Nat × F32)), x ∈ l.foldl (fun r c => rankIn c r) r ↔ x ∈ r ∨ x ∈ l := by
    intro l
    induction l with
    | nil => simp
    | cons c l ih =>
      intro r
      rw [List.foldl_cons, ih, mem_rankIn, List.mem_cons]
      tauto
  rw [this]
  simp

theorem pickW_mem (t : Nat) (x : Nat × Nat) : ∀ (l : List (Nat × Nat)) (acc : Nat), pickW t acc l = some x → x ∈ l := by
  intro l
  induction l with
  | nil => exact fun _ h => nomatch h
  | cons c l ih =>
    intro acc h
    unfold pickW at h
    split at h
    · cases h
      exact List.mem_cons_self ..
    · exact List.mem_cons_of_mem _ (ih _ h)

theorem le_foldl_add (l : List Nat) : ∀ (n : Nat), n ≤ l.foldl (· + ·) n ∧ ∀ x ∈ l, x ≤ l.foldl (· + ·) n := by
  induction l with
  | nil => exact fun n => ⟨Nat.le_refl _, fun _ h => nomatch h⟩
  | cons a l ih =>
    intro n
    rw [List.foldl_cons]
    obtain ⟨i1, i2⟩ := ih (n + a)
    refine ⟨by omega, fun x hx => ?_⟩
    rcases List.mem_cons.1 hx with e | e
    · omega
    · exact i2 x e

theorem headD_mem {α : Type} {l : List α} (d : α) (h : l ≠ []) : l.headD d ∈ l := by
  cases l with
  | nil => exact absurd rfl h
  | cons a l => exact List.mem_cons_self ..

theorem neg_spec (x : Nat) (h : x < 2 ^ 32) : (x ^^^ 0x80000000) % 2 ^ 31 = x % 2 ^ 31
    ∧ ((x ^^^ 0x80000000) / 2 ^ 31 % 2 = 1 ↔ ¬ x / 2 ^ 31 % 2 = 1) := by
  constructor
  · rw [Nat.xor_mod_two_pow, show (0x80000000 : Nat) % 2 ^ 31 = 0 by decide, Nat.xor_zero]
  · rw [Nat.xor_div_two_pow, show (0x80000000 : Nat) / 2 ^ 31 = 1 by decide]
    have : x / 2 ^ 31 = 0 ∨ x / 2 ^ 31 = 1 := by omega
    rcases this with e | e <;> rw [e] <;> decide

theorem dec_neg (v : F32) : (Fl.of v).neg.dy = (Fl.of v).dy.neg := by
  unfold Fl.dy Fl.neg Fl.of Fmt.dec Dy.neg fp32
  obtain ⟨h1, h2⟩ := neg_spec v.toNat v.isLt
  have e : (v ^^^ (0x80000000 : F32)).toNat = v.toNat ^^^ 0x80000000 := by
    rw [BitVec.toNat_xor]
    rfl
  simp only [e, h1]
  by_cases hx : v.toNat / 2 ^ 31 % 2 = 1
  · rw [if_pos hx, if_neg (fun hc => h2.1 hc hx), Int.neg_neg]
  · rw [if_neg hx, if_pos (h2.2 hx)]

theorem sub_self_zero (x : F32) : ((Fl.of x).sub (Fl.of x)).v.toNat % 2 ^ 31 = 0 ∧ ((Fl.of x).sub (Fl.of x)).o = false := by
  unfold Fl.sub Fl.add
  rw [dec_neg]
  have hm : ((Fl.of x).dy.add (Fl.of x).dy.neg).m = 0 := by
    unfold Dy.add Dy.neg
    simp
  dsimp only
  rw [hm]
  split
  · exact ⟨show (0x80000000 : F32).toNat % 2 ^ 31 = 0 by decide, rfl⟩
  · unfold Fl.ofDy Fmt.ofDy Fmt.round Fmt.mag
    rw [hm]
    exact ⟨rfl, rfl⟩

theorem fexp_zero {x : F32} (h : x.toNat % 2 ^ 31 = 0) : quantW (fexp x) ≠ 0 := by
  unfold fexp Fl.exp Fl.isNegInf Fl.of
  dsimp only
  rw [if_neg, if_pos h]
  · decide
  · intro hc
    rw [beq_iff_eq] at hc
    rw [hc] at h
    exact absurd h (by decide)

theorem fexp_self (x : F32) : quantW (fexp (fsub x x)) ≠ 0 := by
  obtain ⟨h1, h2⟩ := sub_self_zero x
  refine fexp_zero ?_
  unfold fsub finFix
  rw [h2, if_neg (by decide)]
  exact h1

theorem take_ne_nil {α : Type} {l : List α} {n : Nat} (h : l ≠ []) (hn : 0 < n) : ∃ a r, l = a :: r ∧ l.take n = a :: r.take (n - 1) := by
  cases l with
  | nil => exact absurd rfl h
  | cons a r =>
    cases n with
    | zero => omega
    | succ n => exact ⟨a, r, rfl, by simp⟩

theorem topP_pos {topp : F32} {mk : Nat} {ws : List F32} (h : ws ≠ []) : 0 < topP topp mk ws := by
  unfold topP
  split
  · dsimp only
    omega
  · exact List.length_pos_iff.2 h

theorem minP_pos {minp : F32} {mk : Nat} {ws : List F32} (h : ws ≠ []) (hm : 0 < mk) : 0 < minP minp mk ws := by
  unfold minP
  split
  · omega
  · exact List.length_pos_iff.2 h

/-- A draw chooses a candidate, whose weight is part of the total. -/
theorem drawFrom_mem (m : FinMsg) (seed drawn : Nat) {cs : List (Nat × F32)} (hc : cs ≠ []) :
    (∃ z, ((drawFrom m seed drawn cs).sym, z) ∈ cs) ∧ (drawFrom m seed drawn cs).wsel ≤ (drawFrom m seed drawn cs).wtotal := by
  have hrn : ∀ l : List (Nat × F32), l ≠ [] → ranking l ≠ [] := by
    intro l hl
    obtain ⟨a, ha⟩ := List.exists_mem_of_ne_nil _ hl
    exact List.ne_nil_of_mem ((mem_ranking a l).2 ha)
  unfold drawFrom
  extract_lets mk r want short k top ws p q d total t c
  split
  · exact ⟨⟨_, (mem_ranking _ _).1 (headD_mem (0, 0) (hrn cs hc))⟩, Nat.le_refl _⟩
  · have hr : r ≠ [] := hrn _ (by simpa using hc)
    have hk : k ≠ [] := by
      unfold k
      split
      · exact hr
      · obtain ⟨a, b, e1, e2⟩ := take_ne_nil hr (n := m.topk) (by omega)
        rw [e2]
        exact List.cons_ne_nil _ _
    obtain ⟨a, b, hab⟩ := List.exists_cons_of_ne_nil hk
    have hws : ws = (a.1, fexp (fsub a.2 a.2)) :: b.map (fun c => (c.1, fexp (fsub c.2 top))) := by
      have : top = a.2 := by
        unfold top
        rw [hab]
        rfl
      unfold ws
      rw [this, hab]
      rfl
    have hp : ∃ p', p = (a.1, fexp (fsub a.2 a.2)) :: p' := by
      obtain ⟨x, y, e1, e2⟩ := take_ne_nil (l := ws) (n := topP m.topp mk (ws.map (·.2))) (by rw [hws]; exact List.cons_ne_nil _ _)
        (topP_pos (by rw [hws]; exact List.cons_ne_nil _ _))
      rw [hws] at e1
      injection e1 with e1 e3
      exact ⟨_, e2.trans (by rw [e1])⟩
    obtain ⟨p', hp⟩ := hp
    have hq : ∃ q', q = (a.1, fexp (fsub a.2 a.2)) :: q' := by
      obtain ⟨x, y, e1, e2⟩ := take_ne_nil (l := p) (n := minP m.minp mk (p.map (·.2))) (by rw [hp]; exact List.cons_ne_nil _ _)
        (minP_pos (by rw [hp]; exact List.cons_ne_nil _ _) (by unfold mk; omega))
      rw [hp] at e1
      injection e1 with e1 e3
      exact ⟨_, e2.trans (by rw [e1])⟩
    obtain ⟨q', hq⟩ := hq
    have hd : d ≠ [] := by
      have : (a.1, quantW (fexp (fsub a.2 a.2))) ∈ d := by
        refine List.mem_filter.2 ⟨List.mem_map.2 ⟨_, by rw [hq]; exact List.mem_cons_self .., rfl⟩, ?_⟩
        simpa using fexp_self a.2
      exact List.ne_nil_of_mem this
    have hcd : c ∈ d := by
      unfold c
      cases hx : pickW t 0 d with
      | none => exact headD_mem (0, 0) hd
      | some y => exact pickW_mem t y d 0 hx
    constructor
    · obtain ⟨y, y1, y2⟩ := List.mem_map.1 (List.mem_filter.1 hcd).1
      have y3 := List.mem_of_mem_take (List.mem_of_mem_take y1)
      obtain ⟨z, z1, z2⟩ := List.mem_map.1 y3
      have z3 : z ∈ r := by
        change z ∈ k at z1
        unfold k at z1
        split at z1
        · exact z1
        · exact List.mem_of_mem_take z1
      obtain ⟨v, v1, v2⟩ := List.mem_map.1 ((mem_ranking _ _).1 z3)
      refine ⟨v.2, ?_⟩
      have : c.1 = v.1 := by rw [← y2, ← z2, ← v2]
      show (c.1, v.2) ∈ cs
      rw [this]
      exact v1
    · show c.2 ≤ total
      exact (le_foldl_add (d.map (·.2)) 0).2 _ (List.mem_map.2 ⟨c, hcd, rfl⟩)

theorem finCount_spec (h : s0.Roll s) (h' : s0.Kept s) {slot form : Nat} {o : FinOut} {sats : Nat} : s0.Roll (s.finCount slot form o sats)
    ∧ s0.Kept (s.finCount slot form o sats) := by
  unfold State.finCount
  dsimp only
  have step : ∀ {u : State} {c : Prop} [Decidable c] {die : Nat} {f : Field}, f.reg ≠ Reg.SES_BOUNDARY → s0.Roll u ∧ s0.Kept u →
      s0.Roll (if c then u.bump die 0 f else u) ∧ s0.Kept (if c then u.bump die 0 f else u) :=
    fun hf hu => ⟨roll_ite (State.bump_roll hu.1 hf) hu.1, kept_ite (State.bump_kept hu.2) hu.2⟩
  have h1 := step (c := o.status = St.deadEnd) (die := slotDie slot) (f := Fld.FIN_COUNTS0_DEAD_END) (by decide) ⟨h, h'⟩
  have h2 := step (c := o.status = St.partial_) (die := slotDie slot) (f := Fld.FIN_COUNTS0_PARTIAL) (by decide) h1
  have h3 := step (c := o.dropped ≠ 0) (die := slotDie slot) (f := Fld.FIN_COUNTS0_LIMIT) (by decide) h2
  have h4 := step (c := form = 0 ∧ o.symbol ≠ 0xFFFF) (die := slotDie slot) (f := Fld.FIN_DRAWS_DRAWS) (by decide)
    (⟨State.bumpBy_roll h3.1 (by decide), State.bumpBy_kept h3.2⟩ : s0.Roll _ ∧ s0.Kept (State.bumpBy _ (slotDie slot) 0 Fld.FIN_COUNTS1_SAT sats))
  split
  · exact ⟨State.raiseOnce_roll (State.bump_roll h4.1 (by decide)), State.raiseOnce_kept (State.bump_kept h4.2)⟩
  · exact h4

theorem refGram_ses (s : State) (die id : Nat) : (s.refGram die id).ses = s.ses ∧ (s.unrefGram die id).ses = s.ses := by
  unfold State.refGram State.unrefGram
  constructor <;> split <;> rfl

theorem finApply_spec (s : State) (e : Env) (m : FinMsg) (form : Nat) (d : FinData) (f : FinState) (a0 a : FinArea) (o : FinOut) (slot : Nat)
    (hslot : slot = handleSlot m.handle) : ∃ x a', (s.finApply e m form d f a0 a o).rp.answered = some (9, o.status, x)
      ∧ a' = { a with keptEpoch := m.epoch, keptForm := form, kept := x } ∧ (s.finApply e m form d f a0 a o).area slot = some a'
      ∧ ((s.finApply e m form d f a0 a o).sess slot).fin = { f with fops := ((s.sess slot).fin.fops + 1) % 2 ^ 32 }
      ∧ ((s.finApply e m form d f a0 a o).sess slot).leaseEnd = (s.finApply e m form d f a0 a o).boundary + ((s.finApply e m form d f a0 a o).sess slot).leaseLen := by
  rw [hslot]
  clear hslot slot
  unfold State.finApply
  extract_lets slot die old sats s1 s2 s3 s4 r4 s5 body s6 s7
  obtain ⟨c1, c2⟩ := finCount_spec (slot := slot) (form := form) (o := o) (sats := sats) (roll_refl (s6.accepted slot true)) (kept_refl (s6.accepted slot true))
  change State.Roll _ s7 at c1
  change State.Kept _ s7 at c2
  clear_value s7
  have hr := State.answer_reported (reported_refl s7) (e := e) (type := 9) (status := o.status) (reason := 0) (body := body)
  have hs6 : (s6.accepted slot true).sess slot = { s6.sess slot with lastPos := s6.pos, leaseEnd := s6.boundary + (s6.sess slot).leaseLen } := setSess_self _ _ _
  have hs5 : s6.sess slot = { r4 with fin := { f with fops := (old.fops + 1) % 2 ^ 32 } } := setSess_self s4 slot _
  have hsess : (s7.answer e 9 o.status 0 body).sess slot = s7.sess slot := reported_sess hr slot
  refine ⟨body, _, answer_answered _ _ _ _ _ _, rfl, ?_, ?_, ?_⟩
  · refine ((reported_kept hr).areaAt slot).trans ((c2.areaAt slot).trans ?_)
    exact alGet_alSet_self _ _ _
  · change ((s7.answer e 9 o.status 0 body).sess slot).fin = _
    rw [hsess, (c1.sess slot).part Session.fin fun _ => rfl, hs6, hs5]
  · change ((s7.answer e 9 o.status 0 body).sess slot).leaseEnd = _ + ((s7.answer e 9 o.status 0 body).sess slot).leaseLen
    rw [hsess, reported_boundary hr, roll_boundary c1, (c1.sess slot).part Session.leaseEnd fun _ => rfl, (c1.sess slot).part Session.leaseLen fun _ => rfl, hs6]
    rfl

theorem finData_keep {e : Env} {m : FinMsg} {form : Nat} {w : State} {d : Nat ⊕ FinData} (h : s.finData e m form = (w, d)) :
    s.Kept w := by
  unfold State.finData at h
  dsimp only at h
  generalize hx : s.openData e (handleSlot m.handle) (m.fflags / 2 % 2 == 1) m.ioff m.bytes m.data = y at h
  obtain ⟨v, r⟩ := y
  have hv := openData_kept hx
  clear hx
  have hw : w = s ∨ w = v := by
    have hp := congrArg Prod.fst h
    clear h
    revert hp
    cases r
    all_goals dsimp only
    all_goals repeat' split
    all_goals intro hp
    all_goals first | exact .inl hp.symm | exact .inr hp.symm
  rcases hw with rfl | rfl
  · exact kept_refl _
  · exact hv

theorem finData_plain {e : Env} {m : FinMsg} {form : Nat} {w : State} {d : FinData} (hf : form = 2 ∨ form = 3)
    (h : s.finData e m form = (w, .inr d)) : w = s ∧ d = .none_ := by
  unfold State.finData at h
  rcases hf with rfl | rfl
  · cases h
    exact ⟨rfl, rfl⟩
  · cases h
    exact ⟨rfl, rfl⟩

end Sys2Proof.Machine
end

