-- ==== Sys2Proof/Laws/Stood.lean ====
section
/-! SUPPORT. What leaves every page entry where it stands, and no move forgotten. -/

namespace Sys2Proof.Machine

/-- `b` has the page entries of `a`, and at least its moves. -/
structure State.Stood (a b : State) : Prop where
  leaves : b.kv.leaves = a.kv.leaves
  shared : b.kv.shared = a.kv.shared
  moves : ∀ m ∈ a.tier.moves, m ∈ b.tier.moves

variable {s0 s t : State}

theorem stood_refl (s : State) : s.Stood s := ⟨rfl, rfl, fun _ h => h⟩

theorem stood_trans (h : s0.Stood s) (h' : s.Stood t) : s0.Stood t :=
  ⟨h'.leaves.trans h.leaves, h'.shared.trans h.shared, fun m hm => h'.moves m (h.moves m hm)⟩

/-- A change elsewhere. -/
theorem stood_mk (h : s0.Stood s) {now : Nat} {pending : List Instr} {free : Nat} {regs : List (RegKey × Word)} {bcn : Beacon}
    {ev : Events} {ses : Sessions} {kv : Kv} {attn : Attn} {grams : List ((Nat × Nat) × Gram)} {net : Net} {lamp : Lamp}
    {tier : Tier} {start : Start} {flash : Flash} {ident : Ident} {ckpt : Ckpt} {health : Health} {rp : Replay} {pins : Pins}
    (e1 : kv.leaves = s.kv.leaves) (e2 : kv.shared = s.kv.shared) (e3 : tier.moves = s.tier.moves) :
    s0.Stood ⟨now, pending, free, regs, bcn, ev, ses, kv, attn, grams, net, lamp, tier, start, flash, ident, ckpt, health, rp,
      pins⟩ := ⟨e1.trans h.leaves, e2.trans h.shared, fun m hm => by
        show m ∈ tier.moves
        rw [e3]
        exact h.moves m hm⟩

theorem stood_ite {c : Prop} [Decidable c] (h : s0.Stood s) (h' : s0.Stood t) : s0.Stood (if c then s else t) := by
  split <;> assumption

theorem stood_foldl {α : Type} {f : State → α → State} (hf : ∀ s x, s0.Stood s → s0.Stood (f s x)) (l : List α)
    (h : s0.Stood s) : s0.Stood (l.foldl f s) := by
  induction l generalizing s with
  | nil => exact h
  | cons x l ih => exact ih (hf s x h)

theorem State.setReg_stood (h : s0.Stood s) {die sel : Nat} {r : RegId} {w : Word} : s0.Stood (s.setReg die sel r w) := stood_mk h rfl rfl rfl
theorem State.setFld_stood (h : s0.Stood s) {die sel : Nat} {f : Field} {v : Nat} : s0.Stood (s.setFld die sel f v) := stood_mk h rfl rfl rfl
theorem State.bumpBy_stood (h : s0.Stood s) {die sel : Nat} {f : Field} {n : Nat} : s0.Stood (s.bumpBy die sel f n) := stood_mk h rfl rfl rfl
theorem State.bump_stood (h : s0.Stood s) {die sel : Nat} {f : Field} : s0.Stood (s.bump die sel f) := stood_mk h rfl rfl rfl
theorem State.lower_stood (h : s0.Stood s) {die sel : Nat} {f : Field} {n : Nat} : s0.Stood (s.lower die sel f n) := stood_mk h rfl rfl rfl
theorem State.setSess_stood (h : s0.Stood s) {slot : Nat} {r : Session} : s0.Stood (s.setSess slot r) := stood_mk h rfl rfl rfl
theorem State.setPort_stood (h : s0.Stood s) {p : Nat} {x : Port} : s0.Stood (s.setPort p x) := stood_mk h rfl rfl rfl
theorem State.putStaging_stood (h : s0.Stood s) {slot : Nat} {g : Staging} : s0.Stood (s.putStaging slot g) := stood_mk h rfl rfl rfl
theorem State.putArea_stood (h : s0.Stood s) {slot : Nat} {a : FinArea} : s0.Stood (s.putArea slot a) := stood_mk h rfl rfl rfl
theorem State.setPoolFree_stood (h : s0.Stood s) {die tier n : Nat} : s0.Stood (s.setPoolFree die tier n) := by
  unfold State.setPoolFree
  dsimp only
  exact State.setReg_stood h

set_option linter.unusedTactic false
set_option linter.unreachableTactic false

theorem State.nextFree_stood (h : s0.Stood s) : s0.Stood (State.nextFree s) := by
  unfold State.nextFree
  try dsimp only
  repeat' first | with_reducible assumption | with_reducible rfl | with_reducible apply stood_ite | fail_if_no_progress with_reducible refine stood_mk ?_ rfl rfl rfl | split | dsimp only | decide

theorem State.settle_stood (h : s0.Stood s) {p : Nat} : s0.Stood (State.settle s p) := by
  unfold State.settle
  try dsimp only
  repeat' first | with_reducible assumption | with_reducible rfl | intro _ | with_reducible apply State.setPort_stood | with_reducible apply stood_ite | with_reducible apply stood_foldl | fail_if_no_progress with_reducible refine stood_mk ?_ rfl rfl rfl | split | dsimp only | decide

theorem State.enqueue_stood (h : s0.Stood s) {p cls flow len : Nat} {result : Option (Nat × ResKey)} {body : FrameBody} : s0.Stood (State.enqueue s p cls flow len result body) := by
  unfold State.enqueue
  try dsimp only
  repeat' first | with_reducible assumption | with_reducible rfl | with_reducible apply State.settle_stood | with_reducible apply State.setPort_stood | with_reducible apply stood_ite | fail_if_no_progress with_reducible refine stood_mk ?_ rfl rfl rfl | split | dsimp only | decide

theorem State.countHeld_stood (h : s0.Stood s) {p : Nat} : s0.Stood (State.countHeld s p) := by
  unfold State.countHeld
  try dsimp only
  repeat' first | with_reducible assumption | with_reducible rfl | intro _ | with_reducible apply State.setPort_stood | with_reducible apply State.bump_stood | with_reducible apply stood_ite | with_reducible apply stood_foldl | fail_if_no_progress with_reducible refine stood_mk ?_ rfl rfl rfl | split | dsimp only | decide

theorem State.noteReturn_stood (h : s0.Stood s) {r : Result} : s0.Stood (State.noteReturn s r) := by
  unfold State.noteReturn
  try dsimp only
  repeat' first | with_reducible assumption | with_reducible rfl | intro _ | with_reducible apply State.bump_stood | with_reducible apply stood_ite | fail_if_no_progress with_reducible refine stood_mk ?_ rfl rfl rfl | split | dsimp only | decide

theorem State.markStarted_stood (h : s0.Stood s) {p : Nat} {f : QFrame} : s0.Stood (State.markStarted s p f) := by
  unfold State.markStarted
  try dsimp only
  repeat' first | with_reducible assumption | with_reducible rfl | intro _ | with_reducible apply State.noteReturn_stood | with_reducible apply State.setPort_stood | with_reducible apply stood_ite | fail_if_no_progress with_reducible refine stood_mk ?_ rfl rfl rfl | split | dsimp only | decide

theorem State.untrack_stood (h : s0.Stood s) {k : KeyRef} {reqId : Nat} : s0.Stood (State.untrack s k reqId) := by
  unfold State.untrack
  try dsimp only
  repeat' first | with_reducible assumption | with_reducible rfl | intro _ | with_reducible apply stood_ite | fail_if_no_progress with_reducible refine stood_mk ?_ rfl rfl rfl | split | dsimp only | decide

theorem State.untrackFrame_stood (h : s0.Stood s) {f : QFrame} : s0.Stood (State.untrackFrame s f) := by
  unfold State.untrackFrame
  try dsimp only
  repeat' first | with_reducible assumption | with_reducible rfl | with_reducible apply State.untrack_stood | with_reducible apply stood_ite | fail_if_no_progress with_reducible refine stood_mk ?_ rfl rfl rfl | split | dsimp only | decide

theorem State.pick_stood (h : s0.Stood s) {p : Nat} : s0.Stood (State.pick s p) := by
  unfold State.pick
  try dsimp only
  repeat' first | with_reducible assumption | with_reducible rfl | with_reducible apply State.settle_stood | with_reducible apply State.countHeld_stood | with_reducible apply State.setPort_stood | with_reducible apply State.markStarted_stood | with_reducible apply State.untrackFrame_stood | with_reducible apply stood_ite | fail_if_no_progress with_reducible refine stood_mk ?_ rfl rfl rfl | split | dsimp only | decide

theorem State.send_stood (h : s0.Stood s) {p cls flow len : Nat} {result : Option (Nat × ResKey)} {body : FrameBody} : s0.Stood (State.send s p cls flow len result body) := by
  unfold State.send
  try dsimp only
  repeat' first | with_reducible assumption | with_reducible rfl | with_reducible apply State.enqueue_stood | with_reducible apply State.pick_stood | with_reducible apply stood_ite | split | dsimp only | decide

theorem State.sendSeg_stood (h : s0.Stood s) {d : Dest} {kind type status reason reqId : Nat} {response : Bool} {result : Option (Nat × ResKey)} {count len : Nat} {seg : Nat × List Byte} : s0.Stood (State.sendSeg s d kind type status reason reqId response result count len seg) := by
  unfold State.sendSeg
  try dsimp only
  repeat' first | with_reducible assumption | with_reducible rfl | with_reducible apply State.send_stood | with_reducible apply stood_ite | fail_if_no_progress with_reducible refine stood_mk ?_ rfl rfl rfl | split | dsimp only | decide

theorem State.sendMsg_stood (h : s0.Stood s) {d : Dest} {kind type status reason reqId : Nat} {response : Bool} {result : Option (Nat × ResKey)} {body : List Byte} : s0.Stood (State.sendMsg s d kind type status reason reqId response result body) := by
  unfold State.sendMsg
  try dsimp only
  repeat' first | with_reducible assumption | with_reducible rfl | intro _ | with_reducible apply State.sendSeg_stood | with_reducible apply stood_ite | with_reducible apply stood_foldl | fail_if_no_progress with_reducible refine stood_mk ?_ rfl rfl rfl | split | dsimp only | decide

theorem State.setRing_stood (h : s0.Stood s) {die : Nat} {l : List EvtRec} : s0.Stood (State.setRing s die l) := by
  unfold State.setRing
  try dsimp only
  repeat' first | with_reducible assumption | with_reducible rfl | with_reducible apply stood_ite | fail_if_no_progress with_reducible refine stood_mk ?_ rfl rfl rfl | split | dsimp only | decide

theorem State.setAlerts_stood (h : s0.Stood s) {die : Nat} {l : List Nat} : s0.Stood (State.setAlerts s die l) := by
  unfold State.setAlerts
  try dsimp only
  repeat' first | with_reducible assumption | with_reducible rfl | with_reducible apply stood_ite | fail_if_no_progress with_reducible refine stood_mk ?_ rfl rfl rfl | split | dsimp only | decide

theorem State.eventFrame_stood (h : s0.Stood s) {sub : Sub} {r : EvtRec} : s0.Stood (State.eventFrame s sub r) := by
  unfold State.eventFrame
  try dsimp only
  repeat' first | with_reducible assumption | with_reducible rfl | with_reducible apply State.sendMsg_stood | with_reducible apply stood_ite | fail_if_no_progress with_reducible refine stood_mk ?_ rfl rfl rfl | split | dsimp only | decide

theorem State.ibi_stood (h : s0.Stood s) {byte : Nat} : s0.Stood (State.ibi s byte) := by
  unfold State.ibi
  try dsimp only
  repeat' first | with_reducible assumption | with_reducible rfl | with_reducible apply stood_ite | fail_if_no_progress with_reducible refine stood_mk ?_ rfl rfl rfl | split | dsimp only | decide

theorem State.logEvent_stood (h : s0.Stood s) {die : Nat} {r : EvtRec} : s0.Stood (State.logEvent s die r) := by
  unfold State.logEvent
  try dsimp only
  repeat' first | with_reducible assumption | with_reducible rfl | with_reducible apply State.setRing_stood | with_reducible apply State.setFld_stood | with_reducible apply State.setAlerts_stood | with_reducible apply State.ibi_stood | with_reducible apply stood_ite | split | dsimp only | decide

theorem State.raise_stood (h : s0.Stood s) {die sub : Nat} {a : EvtArgs} : s0.Stood (State.raise s die sub a) := by
  unfold State.raise
  try dsimp only
  repeat' first | with_reducible assumption | with_reducible rfl | intro _ | with_reducible apply State.eventFrame_stood | with_reducible apply State.logEvent_stood | with_reducible apply stood_ite | with_reducible apply stood_foldl | split | dsimp only | decide

theorem State.setOnce_stood (h : s0.Stood s) {o : Once} : s0.Stood (State.setOnce s o) := by
  unfold State.setOnce
  try dsimp only
  repeat' first | with_reducible assumption | with_reducible rfl | intro _ | with_reducible apply stood_ite | fail_if_no_progress with_reducible refine stood_mk ?_ rfl rfl rfl | split | dsimp only | decide

theorem State.raiseOnce_stood (h : s0.Stood s) {die sub item : Nat} {a : EvtArgs} : s0.Stood (State.raiseOnce s die sub item a) := by
  unfold State.raiseOnce
  try dsimp only
  repeat' first | with_reducible assumption | with_reducible rfl | with_reducible apply State.setOnce_stood | with_reducible apply State.raise_stood | with_reducible apply stood_ite | fail_if_no_progress with_reducible refine stood_mk ?_ rfl rfl rfl | split | dsimp only | decide

theorem State.track_stood (h : s0.Stood s) {e : Env} {type : Nat} {slot : Option Nat} : s0.Stood (State.track s e type slot) := by
  unfold State.track
  try dsimp only
  repeat' first | with_reducible assumption | with_reducible rfl | with_reducible apply stood_ite | fail_if_no_progress with_reducible refine stood_mk ?_ rfl rfl rfl | split | dsimp only | decide

theorem State.dataCheck_stood (h : s0.Stood s) {die addr : Nat} : s0.Stood (State.dataCheck s die addr) := by
  unfold State.dataCheck
  try dsimp only
  repeat' first | with_reducible assumption | with_reducible rfl | with_reducible apply State.raise_stood | with_reducible apply stood_ite | split | dsimp only | decide

theorem State.quotaTest_stood (h : s0.Stood s) {die ctx tier : Nat} : s0.Stood (State.quotaTest s die ctx tier) := by
  unfold State.quotaTest
  try dsimp only
  repeat' first | with_reducible assumption | with_reducible rfl | with_reducible apply State.setFld_stood | with_reducible apply State.raise_stood | with_reducible apply stood_ite | fail_if_no_progress with_reducible refine stood_mk ?_ rfl rfl rfl | split | dsimp only | decide

theorem State.setUse_stood (h : s0.Stood s) {die ctx tier g : Nat} : s0.Stood (State.setUse s die ctx tier g) := by
  unfold State.setUse
  try dsimp only
  repeat' first | with_reducible assumption | with_reducible rfl | with_reducible apply State.setReg_stood | with_reducible apply State.quotaTest_stood | with_reducible apply stood_ite | split | dsimp only | decide

theorem State.evictTest_stood (h : s0.Stood s) {die tier : Nat} : s0.Stood (State.evictTest s die tier) := by
  unfold State.evictTest
  try dsimp only
  repeat' first | with_reducible assumption | with_reducible rfl | with_reducible apply stood_ite | fail_if_no_progress with_reducible refine stood_mk ?_ rfl rfl rfl | split | dsimp only | decide

theorem State.alloc_stood (h : s0.Stood s) {die tier ctx g : Nat} : s0.Stood (State.alloc s die tier ctx g) := by
  unfold State.alloc
  try dsimp only
  repeat' first | with_reducible assumption | with_reducible rfl | with_reducible apply State.setUse_stood | with_reducible apply State.setPoolFree_stood | with_reducible apply State.evictTest_stood | with_reducible apply stood_ite | split | dsimp only | decide

theorem State.dealloc_stood (h : s0.Stood s) {die tier ctx g : Nat} : s0.Stood (State.dealloc s die tier ctx g) := by
  unfold State.dealloc
  try dsimp only
  repeat' first | with_reducible assumption | with_reducible rfl | with_reducible apply State.setUse_stood | with_reducible apply State.setPoolFree_stood | with_reducible apply State.evictTest_stood | with_reducible apply stood_ite | split | dsimp only | decide

theorem State.shootdown_stood (h : s0.Stood s) {die vun : Nat} : s0.Stood (State.shootdown s die vun) := by
  unfold State.shootdown
  try dsimp only
  repeat' first | with_reducible assumption | with_reducible rfl | intro _ | with_reducible apply State.bump_stood | with_reducible apply stood_ite | fail_if_no_progress with_reducible refine stood_mk ?_ rfl rfl rfl | split | dsimp only | decide

theorem State.dormantTest_stood (h : s0.Stood s) {slot : Nat} : s0.Stood (State.dormantTest s slot) := by
  unfold State.dormantTest
  try dsimp only
  repeat' first | with_reducible assumption | with_reducible rfl | with_reducible apply State.setSess_stood | with_reducible apply State.raise_stood | with_reducible apply stood_ite | fail_if_no_progress with_reducible refine stood_mk ?_ rfl rfl rfl | split | dsimp only | decide

theorem State.tileCheck_stood (h : s0.Stood s) {die addr : Nat} : s0.Stood (State.tileCheck s die addr) := by
  unfold State.tileCheck
  try dsimp only
  repeat' first | with_reducible assumption | with_reducible rfl | with_reducible apply State.setReg_stood | with_reducible apply State.bump_stood | with_reducible apply State.raise_stood | with_reducible apply stood_ite | split | dsimp only | decide

theorem State.mapResult_stood (h : s0.Stood s) {slot : Nat} {key : ResKey} {f : Result → Result} : s0.Stood (State.mapResult s slot key f) := by
  unfold State.mapResult
  try dsimp only
  repeat' first | with_reducible assumption | with_reducible rfl | intro _ | with_reducible apply stood_ite | fail_if_no_progress with_reducible refine stood_mk ?_ rfl rfl rfl | split | dsimp only | decide

theorem State.sendWrite_stood (h : s0.Stood s) {d : Dest} {q : Qp} {result : Nat × ResKey} {seq : Nat} {piece : Bool × Nat × List Byte} : s0.Stood (State.sendWrite s d q result seq piece) := by
  unfold State.sendWrite
  try dsimp only
  repeat' first | with_reducible assumption | with_reducible rfl | intro _ | with_reducible apply State.send_stood | with_reducible apply stood_ite | fail_if_no_progress with_reducible refine stood_mk ?_ rfl rfl rfl | split | dsimp only | decide

theorem State.sendObject_stood (h : s0.Stood s) {d : Dest} {r : Result} {q : Qp} : s0.Stood (State.sendObject s d r q) := by
  unfold State.sendObject
  try dsimp only
  repeat' first | with_reducible assumption | with_reducible rfl | intro _ | with_reducible apply State.sendWrite_stood | with_reducible apply stood_ite | with_reducible apply stood_foldl | fail_if_no_progress with_reducible refine stood_mk ?_ rfl rfl rfl | split | dsimp only | decide

theorem State.joinQueue_stood (h : s0.Stood s) {slot : Nat} {key : ResKey} : s0.Stood (State.joinQueue s slot key) := by
  unfold State.joinQueue
  try dsimp only
  repeat' first | with_reducible assumption | with_reducible rfl | intro _ | with_reducible apply State.noteReturn_stood | with_reducible apply State.mapResult_stood | with_reducible apply State.sendObject_stood | with_reducible apply State.sendMsg_stood | with_reducible apply stood_ite | fail_if_no_progress with_reducible refine stood_mk ?_ rfl rfl rfl | split | dsimp only | decide

theorem State.markLate_stood (h : s0.Stood s) {slot : Nat} {key : ResKey} : s0.Stood (State.markLate s slot key) := by
  unfold State.markLate
  try dsimp only
  repeat' first | with_reducible assumption | with_reducible rfl | intro _ | with_reducible apply State.mapResult_stood | with_reducible apply State.bump_stood | with_reducible apply State.setReg_stood | with_reducible apply State.raise_stood | with_reducible apply stood_ite | fail_if_no_progress with_reducible refine stood_mk ?_ rfl rfl rfl | split | dsimp only | decide

theorem State.deliver_stood (h : s0.Stood s) {slot : Nat} {key : ResKey} : s0.Stood (State.deliver s slot key) := by
  unfold State.deliver
  try dsimp only
  repeat' first | with_reducible assumption | with_reducible rfl | with_reducible apply State.joinQueue_stood | with_reducible apply State.markLate_stood | with_reducible apply stood_ite | fail_if_no_progress with_reducible refine stood_mk ?_ rfl rfl rfl | split | dsimp only | decide

theorem State.setSeg_stood (h : s0.Stood s) {x : Seg} : s0.Stood (State.setSeg s x) := by
  unfold State.setSeg
  try dsimp only
  repeat' first | with_reducible assumption | with_reducible rfl | intro _ | with_reducible apply stood_ite | fail_if_no_progress with_reducible refine stood_mk ?_ rfl rfl rfl | split | dsimp only | decide

theorem State.openSeg_stood (h : s0.Stood s) {die group kind : Nat} : SomeP s0.Stood (State.openSeg s die group kind) := by
  unfold State.openSeg
  try dsimp only
  repeat' first | with_reducible assumption | with_reducible rfl | with_reducible exact somep_none | with_reducible apply somep_some | with_reducible apply State.setSeg_stood | with_reducible apply State.raiseOnce_stood | with_reducible apply stood_ite | fail_if_no_progress with_reducible refine stood_mk ?_ rfl rfl rfl | split | dsimp only | decide

theorem State.settleSeg_stood (h : s0.Stood s) {x : Seg} : s0.Stood (State.settleSeg s x) := by
  unfold State.settleSeg
  try dsimp only
  repeat' first | with_reducible assumption | with_reducible rfl | with_reducible apply State.setSeg_stood | with_reducible apply stood_ite | fail_if_no_progress with_reducible refine stood_mk ?_ rfl rfl rfl | split | dsimp only | decide

theorem State.bufferStripes_stood (h : s0.Stood s) {x : Seg} {a b : Nat} : s0.Stood (State.bufferStripes s x a b) := by
  unfold State.bufferStripes
  try dsimp only
  repeat' first | with_reducible assumption | with_reducible rfl | intro _ | with_reducible apply stood_ite | with_reducible apply stood_foldl | fail_if_no_progress with_reducible refine stood_mk ?_ rfl rfl rfl | split | dsimp only | decide

theorem State.placeIn_stood (h : s0.Stood s) {x : Seg} {align size : Nat} {o : Owner} : s0.Stood (State.placeIn s x align size o).1 := by
  unfold State.placeIn
  try dsimp only
  repeat' first | with_reducible assumption | with_reducible rfl | with_reducible apply State.setSeg_stood | with_reducible apply State.bufferStripes_stood | with_reducible apply stood_ite | fail_if_no_progress with_reducible refine stood_mk ?_ rfl rfl rfl | split | dsimp only | decide

theorem State.place_stood (h : s0.Stood s) {die group kind align size : Nat} {o : Owner} : SomeP s0.Stood (State.place s die group kind align size o) := by
  unfold State.place
  try dsimp only
  repeat' first | with_reducible assumption | with_reducible rfl | with_reducible exact somep_none | with_reducible apply somep_some | with_reducible apply State.placeIn_stood | with_reducible apply State.settleSeg_stood | with_reducible apply State.openSeg_stood | with_reducible apply stood_ite | fail_if_no_progress with_reducible refine stood_mk ?_ rfl rfl rfl | refine pair_of (P := s0.Stood) (by assumption) ?_ | refine somep_of (P := s0.Stood) (by assumption) ?_ | split | dsimp only | decide

theorem State.releaseT2_stood (h : s0.Stood s) {die loc : Nat} : s0.Stood (State.releaseT2 s die loc) := by
  unfold State.releaseT2
  try dsimp only
  repeat' first | with_reducible assumption | with_reducible rfl | intro _ | with_reducible apply State.settleSeg_stood | with_reducible apply stood_ite | fail_if_no_progress with_reducible refine stood_mk ?_ rfl rfl rfl | split | dsimp only | decide

theorem State.mapUnit_stood (h : s0.Stood s) {slot : Nat} {key : ResKey} {kvHead seg : Nat} {f : AttnUnit → AttnUnit} : s0.Stood (State.mapUnit s slot key kvHead seg f) := by
  unfold State.mapUnit
  try dsimp only
  repeat' first | with_reducible assumption | with_reducible rfl | intro _ | with_reducible apply State.mapResult_stood | with_reducible apply stood_ite | fail_if_no_progress with_reducible refine stood_mk ?_ rfl rfl rfl | split | dsimp only | decide

theorem State.promoteFirst_stood (h : s0.Stood s) {die : Nat} {u : UnitRef} : s0.Stood (State.promoteFirst s die u) := by
  unfold State.promoteFirst
  try dsimp only
  repeat' first | with_reducible assumption | with_reducible rfl | intro _ | with_reducible apply stood_ite | fail_if_no_progress with_reducible refine stood_mk ?_ rfl rfl rfl | split | dsimp only | decide

theorem State.waitPage_stood (h : s0.Stood s) {r : Result} {u : AttnUnit} {page : Nat} : s0.Stood (State.waitPage s r u page) := by
  unfold State.waitPage
  try dsimp only
  repeat' first | with_reducible assumption | with_reducible rfl | intro _ | with_reducible apply State.mapUnit_stood | with_reducible apply State.promoteFirst_stood | with_reducible apply State.bump_stood | with_reducible apply State.raiseOnce_stood | with_reducible apply stood_ite | fail_if_no_progress with_reducible refine stood_mk ?_ rfl rfl rfl | split | dsimp only | decide

theorem State.startUnit_stood (h : s0.Stood s) {r : Result} {u : AttnUnit} {core : Nat} : s0.Stood (State.startUnit s r u core) := by
  unfold State.startUnit
  try dsimp only
  repeat' first | with_reducible assumption | with_reducible rfl | intro _ | with_reducible apply State.mapUnit_stood | with_reducible apply stood_ite | fail_if_no_progress with_reducible refine stood_mk ?_ rfl rfl rfl | split | dsimp only | decide

theorem State.startGroup_stood (h : s0.Stood s) {g : Group} : s0.Stood (State.startGroup s g) := by
  unfold State.startGroup
  try dsimp only
  repeat' first | with_reducible assumption | with_reducible rfl | intro _ | with_reducible apply State.bump_stood | with_reducible apply State.mapUnit_stood | with_reducible apply State.mapResult_stood | with_reducible apply stood_ite | with_reducible apply stood_foldl | fail_if_no_progress with_reducible refine stood_mk ?_ rfl rfl rfl | split | dsimp only | decide

theorem State.startGroups_stood (h : s0.Stood s) {die cluster : Nat} : s0.Stood (State.startGroups s die cluster) := by
  unfold State.startGroups
  try dsimp only
  repeat' first | with_reducible assumption | with_reducible rfl | intro _ | with_reducible apply State.startGroup_stood | with_reducible apply stood_ite | with_reducible apply stood_foldl | split | dsimp only | decide

theorem State.pumpUnit_stood (h : s0.Stood s) {r : Result} {u : AttnUnit} : s0.Stood (State.pumpUnit s r u) := by
  unfold State.pumpUnit
  try dsimp only
  repeat' first | with_reducible assumption | with_reducible rfl | intro _ | with_reducible apply State.waitPage_stood | with_reducible apply State.mapUnit_stood | with_reducible apply State.bump_stood | with_reducible apply State.startUnit_stood | with_reducible apply stood_ite | fail_if_no_progress with_reducible refine stood_mk ?_ rfl rfl rfl | split | dsimp only | decide

theorem State.pump_stood (h : s0.Stood s) {die cluster : Nat} : s0.Stood (State.pump s die cluster) := by
  unfold State.pump
  try dsimp only
  repeat' first | with_reducible assumption | with_reducible rfl | intro _ | with_reducible apply State.pumpUnit_stood | with_reducible apply State.startGroups_stood | with_reducible apply stood_ite | with_reducible apply stood_foldl | split | dsimp only | decide

theorem State.wakeUnits_stood (h : s0.Stood s) {die : Nat} {p : Result → Nat → Bool} : s0.Stood (State.wakeUnits s die p) := by
  unfold State.wakeUnits
  try dsimp only
  repeat' first | with_reducible assumption | with_reducible rfl | intro _ | with_reducible apply State.pump_stood | with_reducible apply stood_ite | with_reducible apply stood_foldl | fail_if_no_progress with_reducible refine stood_mk ?_ rfl rfl rfl | split | dsimp only | decide

theorem State.failResult_stood (h : s0.Stood s) {slot : Nat} {key : ResKey} {addr : Nat} : s0.Stood (State.failResult s slot key addr) := by
  unfold State.failResult
  try dsimp only
  repeat' first | with_reducible assumption | with_reducible rfl | intro _ | with_reducible apply State.mapResult_stood | with_reducible apply State.deliver_stood | with_reducible apply stood_ite | fail_if_no_progress with_reducible refine stood_mk ?_ rfl rfl rfl | split | dsimp only | decide

theorem State.noteMoved_stood (h : s0.Stood s) {die dir g : Nat} : s0.Stood (State.noteMoved s die dir g) := by
  unfold State.noteMoved
  try dsimp only
  repeat' first | with_reducible assumption | with_reducible rfl | with_reducible apply State.bumpBy_stood | with_reducible apply stood_ite | fail_if_no_progress with_reducible refine stood_mk ?_ rfl rfl rfl | split | dsimp only | decide

theorem State.startMove_stood (h : s0.Stood s) {die : Nat} {u : UnitRef} {i : UnitInfo} {dst : Nat} {quota paced : Bool} {wake : Option Nat} :
    s0.Stood (State.startMove s die u i dst quota paced wake) := by
  unfold State.startMove
  extract_lets placed
  have hp : SomeP s0.Stood placed := by
    unfold placed
    split
    · exact State.place_stood h
    · exact somep_some (State.nextFree_stood h)
  clear_value placed
  rcases placed with _ | ⟨s', loc⟩
  · exact h
  · have h2 : s0.Stood s' := somep_of (P := s0.Stood) rfl hp
    dsimp only
    exact ⟨(State.alloc_stood h2).leaves, (State.alloc_stood h2).shared, fun m hm => List.mem_append_left _ ((State.alloc_stood h2).moves m hm)⟩

theorem State.poolStalled_stood (h : s0.Stood s) {die tier : Nat} : s0.Stood (State.poolStalled s die tier) := by
  unfold State.poolStalled
  try dsimp only
  repeat' first | with_reducible assumption | with_reducible rfl | with_reducible apply State.raiseOnce_stood | with_reducible apply State.bump_stood | with_reducible apply stood_ite | split | dsimp only | decide

theorem State.promotingTest_stood (h : s0.Stood s) {slot : Nat} : s0.Stood (State.promotingTest s slot) := by
  unfold State.promotingTest
  try dsimp only
  repeat' first | with_reducible assumption | with_reducible rfl | intro _ | with_reducible apply State.setSess_stood | with_reducible apply stood_ite | fail_if_no_progress with_reducible refine stood_mk ?_ rfl rfl rfl | split | dsimp only | decide

theorem State.startPromo_stood (h : s0.Stood s) {die : Nat} : s0.Stood (State.startPromo s die) := by
  unfold State.startPromo
  try dsimp only
  repeat' first | with_reducible assumption | with_reducible rfl | intro _ | with_reducible apply State.promotingTest_stood | with_reducible apply State.startMove_stood | with_reducible apply stood_ite | fail_if_no_progress with_reducible refine stood_mk ?_ rfl rfl rfl | split | dsimp only | decide

theorem State.startPromos_stood (h : s0.Stood s) {die n : Nat} : s0.Stood (State.startPromos s die n) := by
  induction n generalizing s with
  | zero => exact h
  | succ n ih => exact ih (State.startPromo_stood h)

theorem State.runPromos_stood (h : s0.Stood s) {die : Nat} : s0.Stood (State.runPromos s die) := by
  unfold State.runPromos
  try dsimp only
  repeat' first | with_reducible assumption | with_reducible rfl | with_reducible apply State.startPromos_stood | with_reducible apply stood_ite | split | dsimp only | decide

theorem State.retire_stood (h : s0.Stood s) {die cluster : Nat} {bank : Bool} {x : Nat} : s0.Stood (State.retire s die cluster bank x) := by
  unfold State.retire
  try dsimp only
  repeat' first | with_reducible assumption | with_reducible rfl | with_reducible apply State.setPoolFree_stood | with_reducible apply State.setFld_stood | with_reducible apply State.evictTest_stood | with_reducible apply stood_ite | fail_if_no_progress with_reducible refine stood_mk ?_ rfl rfl rfl | split | dsimp only | decide

theorem State.noteT2Read_stood (h : s0.Stood s) {die group n : Nat} {x0 : ReadOutcome} : s0.Stood (State.noteT2Read s die group n x0) := by
  unfold State.noteT2Read
  try dsimp only
  repeat' first | with_reducible assumption | with_reducible rfl | with_reducible apply State.bump_stood | with_reducible apply State.setSeg_stood | with_reducible apply State.raiseOnce_stood | with_reducible apply State.raise_stood | with_reducible apply stood_ite | fail_if_no_progress with_reducible refine stood_mk ?_ rfl rfl rfl | split | dsimp only | decide

theorem State.noteT2At_stood (h : s0.Stood s) {die loc : Nat} {o : ReadOutcome} : s0.Stood (State.noteT2At s die loc o) := by
  unfold State.noteT2At
  try dsimp only
  repeat' first | with_reducible assumption | with_reducible rfl | with_reducible apply State.noteT2Read_stood | with_reducible apply stood_ite | split | dsimp only | decide

theorem State.wakeReady_stood (h : s0.Stood s) {die : Nat} : s0.Stood (State.wakeReady s die) := by
  unfold State.wakeReady
  try dsimp only
  repeat' first | with_reducible assumption | with_reducible rfl | intro _ | with_reducible apply State.wakeUnits_stood | with_reducible apply State.runPromos_stood | with_reducible apply stood_ite | fail_if_no_progress with_reducible refine stood_mk ?_ rfl rfl rfl | split | dsimp only | decide

theorem State.failWaiters_stood (h : s0.Stood s) {u : UnitRef} {addr : Nat} : s0.Stood (State.failWaiters s u addr) := by
  unfold State.failWaiters
  try dsimp only
  repeat' first | with_reducible assumption | with_reducible rfl | intro _ | with_reducible apply State.failResult_stood | with_reducible apply stood_ite | with_reducible apply stood_foldl | split | dsimp only | decide

theorem State.afterPromo_stood (h : s0.Stood s) {m : Move} : s0.Stood (State.afterPromo s m) := by
  unfold State.afterPromo
  try dsimp only
  repeat' first | with_reducible assumption | with_reducible rfl | with_reducible apply State.wakeReady_stood | with_reducible apply State.promotingTest_stood | with_reducible apply stood_ite | fail_if_no_progress with_reducible refine stood_mk ?_ rfl rfl rfl | split | dsimp only | decide

end Sys2Proof.Machine
end

