-- ==== Sys2Proof/Laws/Quiet.lean ====
section
/-! SUPPORT. What leaves the page entries, and every result but its way out, as they are. -/

namespace Sys2Proof.Machine

/-- `b` has the page entries of `a`, and its results apart from their way out. -/
structure State.Quiet (a b : State) : Prop where
  leaves : b.kv.leaves = a.kv.leaves
  shared : b.kv.shared = a.kv.shared
  results : b.attn.results.map Result.still = a.attn.results.map Result.still

variable {s0 s t : State}

theorem quiet_refl (s : State) : s.Quiet s := ⟨rfl, rfl, rfl⟩

theorem quiet_trans (h : s0.Quiet s) (h' : s.Quiet t) : s0.Quiet t :=
  ⟨h'.leaves.trans h.leaves, h'.shared.trans h.shared, h'.results.trans h.results⟩

/-- A change elsewhere. -/
theorem quiet_mk (h : s0.Quiet s) {now : Nat} {pending : List Instr} {free : Nat} {regs : List (RegKey × Word)} {bcn : Beacon}
    {ev : Events} {ses : Sessions} {kv : Kv} {attn : Attn} {grams : List ((Nat × Nat) × Gram)} {net : Net} {lamp : Lamp}
    {tier : Tier} {start : Start} {flash : Flash} {ident : Ident} {ckpt : Ckpt} {health : Health} {rp : Replay} {pins : Pins}
    (e1 : kv.leaves = s.kv.leaves) (e2 : kv.shared = s.kv.shared) (e3 : attn.results = s.attn.results) :
    s0.Quiet ⟨now, pending, free, regs, bcn, ev, ses, kv, attn, grams, net, lamp, tier, start, flash, ident, ckpt, health, rp,
      pins⟩ := ⟨e1.trans h.leaves, e2.trans h.shared, (congrArg (List.map Result.still) e3).trans h.results⟩

theorem quiet_map (h : s0.Quiet s) {f : Result → Result} (hf : ∀ x, (f x).still = x.still) :
    s0.Quiet { s with attn := { s.attn with results := s.attn.results.map f } } :=
  ⟨h.leaves, h.shared, by
    show List.map Result.still (s.attn.results.map f) = _
    rw [List.map_map, show Result.still ∘ f = Result.still from funext hf]
    exact h.results⟩

theorem quiet_ite {c : Prop} [Decidable c] (h : s0.Quiet s) (h' : s0.Quiet t) : s0.Quiet (if c then s else t) := by
  split <;> assumption

theorem quiet_foldl {α : Type} {f : State → α → State} (hf : ∀ s x, s0.Quiet s → s0.Quiet (f s x)) (l : List α)
    (h : s0.Quiet s) : s0.Quiet (l.foldl f s) := by
  induction l generalizing s with
  | nil => exact h
  | cons x l ih => exact ih (hf s x h)

theorem State.setReg_quiet (h : s0.Quiet s) {die sel : Nat} {r : RegId} {w : Word} : s0.Quiet (s.setReg die sel r w) := quiet_mk h rfl rfl rfl
theorem State.setFld_quiet (h : s0.Quiet s) {die sel : Nat} {f : Field} {v : Nat} : s0.Quiet (s.setFld die sel f v) := quiet_mk h rfl rfl rfl
theorem State.bumpBy_quiet (h : s0.Quiet s) {die sel : Nat} {f : Field} {n : Nat} : s0.Quiet (s.bumpBy die sel f n) := quiet_mk h rfl rfl rfl
theorem State.bump_quiet (h : s0.Quiet s) {die sel : Nat} {f : Field} : s0.Quiet (s.bump die sel f) := quiet_mk h rfl rfl rfl
theorem State.lower_quiet (h : s0.Quiet s) {die sel : Nat} {f : Field} {n : Nat} : s0.Quiet (s.lower die sel f n) := quiet_mk h rfl rfl rfl
theorem State.setSess_quiet (h : s0.Quiet s) {slot : Nat} {r : Session} : s0.Quiet (s.setSess slot r) := quiet_mk h rfl rfl rfl
theorem State.setPort_quiet (h : s0.Quiet s) {p : Nat} {x : Port} : s0.Quiet (s.setPort p x) := quiet_mk h rfl rfl rfl
theorem State.putStaging_quiet (h : s0.Quiet s) {slot : Nat} {g : Staging} : s0.Quiet (s.putStaging slot g) := quiet_mk h rfl rfl rfl
theorem State.putArea_quiet (h : s0.Quiet s) {slot : Nat} {a : FinArea} : s0.Quiet (s.putArea slot a) := quiet_mk h rfl rfl rfl
theorem State.setPoolFree_quiet (h : s0.Quiet s) {die tier n : Nat} : s0.Quiet (s.setPoolFree die tier n) := by
  unfold State.setPoolFree
  dsimp only
  exact State.setReg_quiet h

set_option linter.unusedTactic false
set_option linter.unreachableTactic false

theorem State.settle_quiet (h : s0.Quiet s) {p : Nat} : s0.Quiet (State.settle s p) := by
  unfold State.settle
  try dsimp only
  repeat' first | with_reducible assumption | with_reducible rfl | with_reducible refine quiet_map ?_ (fun _ => ?_) | intro _ | with_reducible apply State.setPort_quiet | with_reducible apply quiet_ite | with_reducible apply quiet_foldl | fail_if_no_progress with_reducible refine quiet_mk ?_ rfl rfl rfl | rfl | split | dsimp only | decide

theorem State.enqueue_quiet (h : s0.Quiet s) {p cls flow len : Nat} {result : Option (Nat × ResKey)} {body : FrameBody} : s0.Quiet (State.enqueue s p cls flow len result body) := by
  unfold State.enqueue
  try dsimp only
  repeat' first | with_reducible assumption | with_reducible rfl | with_reducible refine quiet_map ?_ (fun _ => ?_) | with_reducible apply State.settle_quiet | with_reducible apply State.setPort_quiet | with_reducible apply quiet_ite | fail_if_no_progress with_reducible refine quiet_mk ?_ rfl rfl rfl | split | dsimp only | decide

theorem State.countHeld_quiet (h : s0.Quiet s) {p : Nat} : s0.Quiet (State.countHeld s p) := by
  unfold State.countHeld
  try dsimp only
  repeat' first | with_reducible assumption | with_reducible rfl | with_reducible refine quiet_map ?_ (fun _ => ?_) | intro _ | with_reducible apply State.setPort_quiet | with_reducible apply State.bump_quiet | with_reducible apply quiet_ite | with_reducible apply quiet_foldl | fail_if_no_progress with_reducible refine quiet_mk ?_ rfl rfl rfl | split | dsimp only | decide

theorem State.noteReturn_quiet (h : s0.Quiet s) {r : Result} : s0.Quiet (s.noteReturn r) := by
  unfold State.noteReturn
  dsimp only
  refine quiet_map (quiet_ite (State.bump_quiet h) (quiet_ite (State.bump_quiet h) h)) (fun x => ?_)
  split <;> rfl

theorem State.markStarted_quiet (h : s0.Quiet s) {p : Nat} {f : QFrame} : s0.Quiet (s.markStarted p f) := by
  unfold State.markStarted
  split
  · exact h
  · split
    · exact h
    · split
      · exact h
      · refine State.setPort_quiet (quiet_map (State.noteReturn_quiet h) (fun x => ?_))
        split <;> rfl

theorem State.untrack_quiet (h : s0.Quiet s) {k : KeyRef} {reqId : Nat} : s0.Quiet (State.untrack s k reqId) := by
  unfold State.untrack
  try dsimp only
  repeat' first | with_reducible assumption | with_reducible rfl | with_reducible refine quiet_map ?_ (fun _ => ?_) | intro _ | with_reducible apply quiet_ite | fail_if_no_progress with_reducible refine quiet_mk ?_ rfl rfl rfl | split | dsimp only | decide

theorem State.untrackFrame_quiet (h : s0.Quiet s) {f : QFrame} : s0.Quiet (State.untrackFrame s f) := by
  unfold State.untrackFrame
  try dsimp only
  repeat' first | with_reducible assumption | with_reducible rfl | with_reducible refine quiet_map ?_ (fun _ => ?_) | with_reducible apply State.untrack_quiet | with_reducible apply quiet_ite | fail_if_no_progress with_reducible refine quiet_mk ?_ rfl rfl rfl | split | dsimp only | decide

theorem State.pick_quiet (h : s0.Quiet s) {p : Nat} : s0.Quiet (State.pick s p) := by
  unfold State.pick
  try dsimp only
  repeat' first | with_reducible assumption | with_reducible rfl | with_reducible refine quiet_map ?_ (fun _ => ?_) | with_reducible apply State.settle_quiet | with_reducible apply State.countHeld_quiet | with_reducible apply State.setPort_quiet | with_reducible apply State.markStarted_quiet | with_reducible apply State.untrackFrame_quiet | with_reducible apply quiet_ite | fail_if_no_progress with_reducible refine quiet_mk ?_ rfl rfl rfl | split | dsimp only | decide

theorem State.send_quiet (h : s0.Quiet s) {p cls flow len : Nat} {result : Option (Nat × ResKey)} {body : FrameBody} : s0.Quiet (State.send s p cls flow len result body) := by
  unfold State.send
  try dsimp only
  repeat' first | with_reducible assumption | with_reducible rfl | with_reducible refine quiet_map ?_ (fun _ => ?_) | with_reducible apply State.enqueue_quiet | with_reducible apply State.pick_quiet | with_reducible apply quiet_ite | split | dsimp only | decide

theorem State.sendSeg_quiet (h : s0.Quiet s) {d : Dest} {kind type status reason reqId : Nat} {response : Bool} {result : Option (Nat × ResKey)} {count len : Nat} {seg : Nat × List Byte} : s0.Quiet (State.sendSeg s d kind type status reason reqId response result count len seg) := by
  unfold State.sendSeg
  try dsimp only
  repeat' first | with_reducible assumption | with_reducible rfl | with_reducible refine quiet_map ?_ (fun _ => ?_) | with_reducible apply State.send_quiet | with_reducible apply quiet_ite | fail_if_no_progress with_reducible refine quiet_mk ?_ rfl rfl rfl | split | dsimp only | decide

theorem State.sendMsg_quiet (h : s0.Quiet s) {d : Dest} {kind type status reason reqId : Nat} {response : Bool} {result : Option (Nat × ResKey)} {body : List Byte} : s0.Quiet (State.sendMsg s d kind type status reason reqId response result body) := by
  unfold State.sendMsg
  try dsimp only
  repeat' first | with_reducible assumption | with_reducible rfl | with_reducible refine quiet_map ?_ (fun _ => ?_) | intro _ | with_reducible apply State.sendSeg_quiet | with_reducible apply quiet_ite | with_reducible apply quiet_foldl | fail_if_no_progress with_reducible refine quiet_mk ?_ rfl rfl rfl | rfl | split | dsimp only | decide

theorem State.setRing_quiet (h : s0.Quiet s) {die : Nat} {l : List EvtRec} : s0.Quiet (State.setRing s die l) := by
  unfold State.setRing
  try dsimp only
  repeat' first | with_reducible assumption | with_reducible rfl | with_reducible refine quiet_map ?_ (fun _ => ?_) | with_reducible apply quiet_ite | fail_if_no_progress with_reducible refine quiet_mk ?_ rfl rfl rfl | split | dsimp only | decide

theorem State.setAlerts_quiet (h : s0.Quiet s) {die : Nat} {l : List Nat} : s0.Quiet (State.setAlerts s die l) := by
  unfold State.setAlerts
  try dsimp only
  repeat' first | with_reducible assumption | with_reducible rfl | with_reducible refine quiet_map ?_ (fun _ => ?_) | with_reducible apply quiet_ite | fail_if_no_progress with_reducible refine quiet_mk ?_ rfl rfl rfl | split | dsimp only | decide

theorem State.eventFrame_quiet (h : s0.Quiet s) {sub : Sub} {r : EvtRec} : s0.Quiet (State.eventFrame s sub r) := by
  unfold State.eventFrame
  try dsimp only
  repeat' first | with_reducible assumption | with_reducible rfl | with_reducible refine quiet_map ?_ (fun _ => ?_) | with_reducible apply State.sendMsg_quiet | with_reducible apply quiet_ite | fail_if_no_progress with_reducible refine quiet_mk ?_ rfl rfl rfl | split | dsimp only | decide

theorem State.ibi_quiet (h : s0.Quiet s) {byte : Nat} : s0.Quiet (State.ibi s byte) := by
  unfold State.ibi
  try dsimp only
  repeat' first | with_reducible assumption | with_reducible rfl | with_reducible refine quiet_map ?_ (fun _ => ?_) | with_reducible apply quiet_ite | fail_if_no_progress with_reducible refine quiet_mk ?_ rfl rfl rfl | split | dsimp only | decide

theorem State.logEvent_quiet (h : s0.Quiet s) {die : Nat} {r : EvtRec} : s0.Quiet (State.logEvent s die r) := by
  unfold State.logEvent
  try dsimp only
  repeat' first | with_reducible assumption | with_reducible rfl | with_reducible refine quiet_map ?_ (fun _ => ?_) | with_reducible apply State.setRing_quiet | with_reducible apply State.setFld_quiet | with_reducible apply State.setAlerts_quiet | with_reducible apply State.ibi_quiet | with_reducible apply quiet_ite | split | dsimp only | decide

theorem State.raise_quiet (h : s0.Quiet s) {die sub : Nat} {a : EvtArgs} : s0.Quiet (State.raise s die sub a) := by
  unfold State.raise
  try dsimp only
  repeat' first | with_reducible assumption | with_reducible rfl | with_reducible refine quiet_map ?_ (fun _ => ?_) | intro _ | with_reducible apply State.eventFrame_quiet | with_reducible apply State.logEvent_quiet | with_reducible apply quiet_ite | with_reducible apply quiet_foldl | split | dsimp only | decide

theorem State.setOnce_quiet (h : s0.Quiet s) {o : Once} : s0.Quiet (State.setOnce s o) := by
  unfold State.setOnce
  try dsimp only
  repeat' first | with_reducible assumption | with_reducible rfl | with_reducible refine quiet_map ?_ (fun _ => ?_) | intro _ | with_reducible apply quiet_ite | fail_if_no_progress with_reducible refine quiet_mk ?_ rfl rfl rfl | split | dsimp only | decide

theorem State.raiseOnce_quiet (h : s0.Quiet s) {die sub item : Nat} {a : EvtArgs} : s0.Quiet (State.raiseOnce s die sub item a) := by
  unfold State.raiseOnce
  try dsimp only
  repeat' first | with_reducible assumption | with_reducible rfl | with_reducible refine quiet_map ?_ (fun _ => ?_) | with_reducible apply State.setOnce_quiet | with_reducible apply State.raise_quiet | with_reducible apply quiet_ite | fail_if_no_progress with_reducible refine quiet_mk ?_ rfl rfl rfl | split | dsimp only | decide

theorem State.track_quiet (h : s0.Quiet s) {e : Env} {type : Nat} {slot : Option Nat} : s0.Quiet (State.track s e type slot) := by
  unfold State.track
  try dsimp only
  repeat' first | with_reducible assumption | with_reducible rfl | with_reducible refine quiet_map ?_ (fun _ => ?_) | with_reducible apply quiet_ite | fail_if_no_progress with_reducible refine quiet_mk ?_ rfl rfl rfl | split | dsimp only | decide

theorem State.dataCheck_quiet (h : s0.Quiet s) {die addr : Nat} : s0.Quiet (State.dataCheck s die addr) := by
  unfold State.dataCheck
  try dsimp only
  repeat' first | with_reducible assumption | with_reducible rfl | with_reducible refine quiet_map ?_ (fun _ => ?_) | with_reducible apply State.raise_quiet | with_reducible apply quiet_ite | split | dsimp only | decide

theorem State.quotaTest_quiet (h : s0.Quiet s) {die ctx tier : Nat} : s0.Quiet (State.quotaTest s die ctx tier) := by
  unfold State.quotaTest
  try dsimp only
  repeat' first | with_reducible assumption | with_reducible rfl | with_reducible refine quiet_map ?_ (fun _ => ?_) | with_reducible apply State.setFld_quiet | with_reducible apply State.raise_quiet | with_reducible apply quiet_ite | fail_if_no_progress with_reducible refine quiet_mk ?_ rfl rfl rfl | split | dsimp only | decide

theorem State.setUse_quiet (h : s0.Quiet s) {die ctx tier g : Nat} : s0.Quiet (State.setUse s die ctx tier g) := by
  unfold State.setUse
  try dsimp only
  repeat' first | with_reducible assumption | with_reducible rfl | with_reducible refine quiet_map ?_ (fun _ => ?_) | with_reducible apply State.setReg_quiet | with_reducible apply State.quotaTest_quiet | with_reducible apply quiet_ite | split | dsimp only | decide

theorem State.evictTest_quiet (h : s0.Quiet s) {die tier : Nat} : s0.Quiet (State.evictTest s die tier) := by
  unfold State.evictTest
  try dsimp only
  repeat' first | with_reducible assumption | with_reducible rfl | with_reducible refine quiet_map ?_ (fun _ => ?_) | with_reducible apply quiet_ite | fail_if_no_progress with_reducible refine quiet_mk ?_ rfl rfl rfl | split | dsimp only | decide

theorem State.dealloc_quiet (h : s0.Quiet s) {die tier ctx g : Nat} : s0.Quiet (State.dealloc s die tier ctx g) := by
  unfold State.dealloc
  try dsimp only
  repeat' first | with_reducible assumption | with_reducible rfl | with_reducible refine quiet_map ?_ (fun _ => ?_) | with_reducible apply State.setUse_quiet | with_reducible apply State.setPoolFree_quiet | with_reducible apply State.evictTest_quiet | with_reducible apply quiet_ite | split | dsimp only | decide

theorem State.tileCheck_quiet (h : s0.Quiet s) {die addr : Nat} : s0.Quiet (State.tileCheck s die addr) := by
  unfold State.tileCheck
  try dsimp only
  repeat' first | with_reducible assumption | with_reducible rfl | with_reducible refine quiet_map ?_ (fun _ => ?_) | with_reducible apply State.setReg_quiet | with_reducible apply State.bump_quiet | with_reducible apply State.raise_quiet | with_reducible apply quiet_ite | split | dsimp only | decide

theorem State.setSeg_quiet (h : s0.Quiet s) {x : Seg} : s0.Quiet (State.setSeg s x) := by
  unfold State.setSeg
  try dsimp only
  repeat' first | with_reducible assumption | with_reducible rfl | with_reducible refine quiet_map ?_ (fun _ => ?_) | intro _ | with_reducible apply quiet_ite | fail_if_no_progress with_reducible refine quiet_mk ?_ rfl rfl rfl | split | dsimp only | decide

theorem State.settleSeg_quiet (h : s0.Quiet s) {x : Seg} : s0.Quiet (State.settleSeg s x) := by
  unfold State.settleSeg
  try dsimp only
  repeat' first | with_reducible assumption | with_reducible rfl | with_reducible refine quiet_map ?_ (fun _ => ?_) | with_reducible apply State.setSeg_quiet | with_reducible apply quiet_ite | fail_if_no_progress with_reducible refine quiet_mk ?_ rfl rfl rfl | split | dsimp only | decide

theorem State.releaseT2_quiet (h : s0.Quiet s) {die loc : Nat} : s0.Quiet (State.releaseT2 s die loc) := by
  unfold State.releaseT2
  try dsimp only
  repeat' first | with_reducible assumption | with_reducible rfl | with_reducible refine quiet_map ?_ (fun _ => ?_) | intro _ | with_reducible apply State.settleSeg_quiet | with_reducible apply quiet_ite | fail_if_no_progress with_reducible refine quiet_mk ?_ rfl rfl rfl | split | dsimp only | decide

theorem State.retire_quiet (h : s0.Quiet s) {die cluster : Nat} {bank : Bool} {x : Nat} : s0.Quiet (State.retire s die cluster bank x) := by
  unfold State.retire
  try dsimp only
  repeat' first | with_reducible assumption | with_reducible rfl | with_reducible refine quiet_map ?_ (fun _ => ?_) | with_reducible apply State.setPoolFree_quiet | with_reducible apply State.setFld_quiet | with_reducible apply State.evictTest_quiet | with_reducible apply quiet_ite | fail_if_no_progress with_reducible refine quiet_mk ?_ rfl rfl rfl | split | dsimp only | decide

theorem State.noteT2Read_quiet (h : s0.Quiet s) {die group n : Nat} {x0 : ReadOutcome} : s0.Quiet (State.noteT2Read s die group n x0) := by
  unfold State.noteT2Read
  try dsimp only
  repeat' first | with_reducible assumption | with_reducible rfl | with_reducible refine quiet_map ?_ (fun _ => ?_) | with_reducible apply State.bump_quiet | with_reducible apply State.setSeg_quiet | with_reducible apply State.raiseOnce_quiet | with_reducible apply State.raise_quiet | with_reducible apply quiet_ite | fail_if_no_progress with_reducible refine quiet_mk ?_ rfl rfl rfl | split | dsimp only | decide

theorem State.noteT2At_quiet (h : s0.Quiet s) {die loc : Nat} {o : ReadOutcome} : s0.Quiet (State.noteT2At s die loc o) := by
  unfold State.noteT2At
  try dsimp only
  repeat' first | with_reducible assumption | with_reducible rfl | with_reducible refine quiet_map ?_ (fun _ => ?_) | with_reducible apply State.noteT2Read_quiet | with_reducible apply quiet_ite | split | dsimp only | decide

end Sys2Proof.Machine
end

