-- ==== Sys2Proof/Laws/TierCmds.lean ====
section
/-! SUPPORT. What the ends of moves, restores and copies come to. -/

namespace Sys2Proof.Machine

variable {s s0 t : State}

theorem tick_stood (h : s0.Stood s) (n : Nat) : s0.Stood (s.tick n) := stood_mk h rfl rfl rfl

theorem startMove_low (s : State) (die : Nat) (u : UnitRef) (i : UnitInfo) {dst : Nat} (quota paced : Bool) (wake : Option Nat)
    (hd : dst ≠ 2) : ∃ m ∈ (s.startMove die u i dst quota paced wake).tier.moves, m.unit = u ∧ m.dst = dst ∧ m.srcLoc = i.loc
      ∧ m.paced = paced ∧ m.wake = wake := by
  unfold State.startMove
  dsimp only
  rw [if_neg hd]
  dsimp only
  exact ⟨_, List.mem_append_right _ (List.mem_singleton.mpr rfl), rfl, rfl, rfl, rfl, rfl⟩

theorem evictTest_moves (s : State) (die tier : Nat) : (s.evictTest die tier).tier.moves = s.tier.moves ∧ (s.evictTest die tier).regs = s.regs := by
  unfold State.evictTest
  dsimp only
  split
  · split
    · exact ⟨rfl, rfl⟩
    · split <;> exact ⟨rfl, rfl⟩
  · exact ⟨rfl, rfl⟩

theorem finishMove_page (s : State) (m : Move) (k : PageKey) (l : Leaf) (hu : m.unit = .page k.slot k.layer k.page)
    (hl : s.leaf k = some l) (hs : l.share = none) (ht : l.tier = m.src) (hc : l.loc = m.srcLoc) :
    (s.finishMove m).kv.leaves = alSet k { (if m.dst = 1 then { l with age := s.stamp (slotDie k.slot), old := false } else l) with
      tier := m.dst, loc := m.loc } s.kv.leaves := by
  have hv : ({ s with tier := { s.tier with moves := s.tier.moves.erase m } } : State).moveValid m = true := by
    unfold State.moveValid State.unitInfo
    rw [hu]
    dsimp only
    rw [show State.leaf { s with tier := { s.tier with moves := s.tier.moves.erase m } } ⟨k.slot, k.layer, k.page⟩ = some l from hl]
    dsimp only
    rw [if_neg (by rw [hs]; decide)]
    simp [ht, hc]
  unfold State.finishMove
  dsimp only
  rw [if_pos hv]
  have e : (({ s with tier := { s.tier with moves := s.tier.moves.erase m } } : State).retarget m.unit m.dst m.loc).kv.leaves
      = alSet k { (if m.dst = 1 then { l with age := s.stamp (slotDie k.slot), old := false } else l) with
      tier := m.dst, loc := m.loc } s.kv.leaves := by
    unfold State.retarget
    rw [hu]
    dsimp only
    rw [show State.leaf { s with tier := { s.tier with moves := s.tier.moves.erase m } } ⟨k.slot, k.layer, k.page⟩ = some l from hl]
    rfl
  generalize State.retarget { s with tier := { s.tier with moves := s.tier.moves.erase m } } m.unit m.dst m.loc = w at e ⊢
  rw [← e]
  refine State.Stood.leaves (State.noteMoved_stood ?_)
  have h1 : w.Stood ((w.shootdown m.die (unitVun m.unit)).dealloc m.die m.src m.ctx m.granules) :=
    State.dealloc_stood (State.shootdown_stood (stood_refl _))
  generalize (w.shootdown m.die (unitVun m.unit)).dealloc m.die m.src m.ctx m.granules = v at h1 ⊢
  have h2 : w.Stood (if m.src = 2 then v.releaseT2 m.die m.srcLoc else v) := stood_ite (State.releaseT2_stood h1) h1
  generalize (if m.src = 2 then v.releaseT2 m.die m.srcLoc else v) = v2 at h2 ⊢
  exact stood_ite (State.bumpBy_stood h2) h2

theorem moveOf_spec {s : State} {die : Nat} {u : UnitRef} {p : Nat → Bool} {m : Move} (h : s.moveOf die u p = some m) :
    m.die = die ∧ m.unit = u ∧ p m.dst = true := by
  have := List.find?_some h
  simp only [Bool.and_eq_true, beq_iff_eq] at this
  exact ⟨this.1.1, this.1.2, this.2⟩

theorem leaf_of {s t : State} (h : t.kv.leaves = s.kv.leaves) (k : PageKey) : t.leaf k = s.leaf k := congrArg (alGet k) h

theorem abandon_stood (h : s0.Stood s) {m : Move} : s0.Stood (s.abandon m) := by
  unfold State.abandon
  dsimp only
  exact stood_ite (State.releaseT2_stood (State.dealloc_stood h)) (State.dealloc_stood h)

theorem quiet_waiters (h : s.Quiet t) (u : UnitRef) : t.waitersOf u = s.waitersOf u := by
  have hp : ∀ k, t.pageUnit k = s.pageUnit k := by
    intro k
    unfold State.pageUnit State.leaf
    rw [h.leaves]
  have e : ∀ s : State, s.waitersOf u = ((s.attn.results.map Result.still).filter (fun r => r.units.any (fun x => match x.st with
      | .waiting page => s.pageUnit ⟨r.slot, r.key.layer, page⟩ == u
      | .queued | .grouped | .running | .done => false))).map (fun r => (r.slot, r.key)) := by
    intro s
    unfold State.waitersOf
    rw [List.filter_map, List.map_map]
    rfl
  rw [e, e, h.results]
  simp only [hp]

theorem waiter_result {u : UnitRef} {w : Nat × ResKey} (h : w ∈ s.waitersOf u) : ∃ r, s.result w.1 w.2 = some r := by
  unfold State.waitersOf at h
  obtain ⟨r, h1, rfl⟩ := List.mem_map.1 h
  have h2 := (List.mem_filter.1 h1).1
  have : (s.attn.results.find? (fun x => x.is r.slot r.key)).isSome = true := by
    rw [List.find?_isSome]
    exact ⟨r, h2, by simp [Result.is]⟩
  exact Option.isSome_iff_exists.1 this

theorem failWaiters_complete (l : List (Nat × ResKey)) (addr : Nat) : ∀ s : State, (∀ w ∈ l, ∃ r, s.result w.1 w.2 = some r) →
    ∀ w ∈ l, ∃ r, (l.foldl (fun s w => s.failResult w.1 w.2 addr) s).result w.1 w.2 = some r ∧ r.complete = true := by
  induction l with
  | nil => intro s _ w hw; cases hw
  | cons a l ih =>
    intro s hs w hw
    have hb : s.Borne (s.failResult a.1 a.2 addr) := State.failResult_borne (borne_refl s)
    have hn : ∀ w ∈ l, ∃ r, (s.failResult a.1 a.2 addr).result w.1 w.2 = some r := by
      intro w hw
      obtain ⟨r, hr⟩ := hs w (List.mem_cons_of_mem _ hw)
      obtain ⟨r', h1, _⟩ := result_later hb.results hr
      exact ⟨r', h1⟩
    rcases List.mem_cons.1 hw with rfl | hw
    · obtain ⟨r, hr⟩ := hs w (List.mem_cons_self ..)
      obtain ⟨r', h1, h2, _⟩ := failResult_complete addr hr
      have hf : (s.failResult w.1 w.2 addr).Borne (l.foldl (fun s w => s.failResult w.1 w.2 addr) (s.failResult w.1 w.2 addr)) :=
        borne_foldl (fun _ _ h => State.failResult_borne h) l (borne_refl _)
      obtain ⟨r2, h3, h4⟩ := result_later hf.results h1
      exact ⟨r2, h3, h4.2 h2⟩
    · exact ih _ hn w hw

theorem wakeUnits_borne (h : s0.Borne s) {die : Nat} {p : Result → Nat → Bool} : s0.Borne (State.wakeUnits s die p) := by
  unfold State.wakeUnits
  dsimp only
  refine borne_foldl (fun _ _ h => State.pump_borne h) _ (borne_map h (fun r => ?_) rfl)
  split
  · exact ⟨rfl, fun h => h⟩
  · exact later_refl r

theorem afterPromo_borne (h : s0.Borne s) {m : Move} : s0.Borne (s.afterPromo m) := by
  have hw : s0.Borne (s.wakeReady m.die) := State.runPromos_borne (wakeUnits_borne h)
  unfold State.afterPromo
  dsimp only
  split
  · exact State.promotingTest_borne hw
  · exact hw

theorem cancelMove_quiet (h : s0.Quiet s) {m : Move} : s0.Quiet (s.cancelMove m) := by
  unfold State.cancelMove State.abandon
  dsimp only
  have h1 : s0.Quiet ({ s with tier := { s.tier with moves := s.tier.moves.erase m } } : State) := quiet_mk h rfl rfl rfl
  exact quiet_ite (State.releaseT2_quiet (State.dealloc_quiet h1)) (State.dealloc_quiet h1)

theorem cancelMove_leaves (s : State) {m : Move} : (s.cancelMove m).kv.leaves = s.kv.leaves ∧ (s.cancelMove m).kv.shared = s.kv.shared :=
  ⟨(cancelMove_quiet (quiet_refl s)).leaves, (cancelMove_quiet (quiet_refl s)).shared⟩

theorem promoFailed_spec (s : State) (m : Move) (addr : Nat) : (s.promoFailed m addr).kv.leaves = s.kv.leaves
    ∧ (s.promoFailed m addr).kv.shared = s.kv.shared
    ∧ ∀ w ∈ s.waitersOf m.unit, ∃ r, (s.promoFailed m addr).result w.1 w.2 = some r ∧ r.complete = true := by
  have hq : s.Quiet ((s.cancelMove m).bump m.die 0 Fld.TR_COUNTS_LOWER_FAIL) := State.bump_quiet (cancelMove_quiet (quiet_refl s))
  unfold State.promoFailed
  dsimp only
  generalize (s.cancelMove m).bump m.die 0 Fld.TR_COUNTS_LOWER_FAIL = v at hq ⊢
  rw [quiet_waiters hq]
  split
  · rename_i he
    have h1 : v.Stood ((v.dataCheck m.die (memFail m.src m.die addr)).afterPromo m) := State.afterPromo_stood (State.dataCheck_stood (stood_refl v))
    refine ⟨h1.leaves.trans hq.leaves, h1.shared.trans hq.shared, fun w hw => ?_⟩
    rw [List.isEmpty_iff.1 he] at hw
    cases hw
  · generalize tileFail m.src 1 (v.tileAt m.unit (addr - m.srcLoc * 128)) m.srcLoc = tl
    have h1 : v.Stood (((v.tileCheck m.die tl).failWaiters m.unit tl).afterPromo m) :=
      State.afterPromo_stood (State.failWaiters_stood (State.tileCheck_stood (stood_refl v)))
    refine ⟨h1.leaves.trans hq.leaves, h1.shared.trans hq.shared, fun w hw => ?_⟩
    rw [← quiet_waiters hq] at hw
    have hb : v.Borne (v.tileCheck m.die tl) := State.tileCheck_borne (borne_refl v)
    have hq2 : v.Stood (v.tileCheck m.die tl) := State.tileCheck_stood (stood_refl v)
    have hw2 : w ∈ (v.tileCheck m.die tl).waitersOf m.unit := by
      rw [quiet_waiters (State.tileCheck_quiet (quiet_refl v))]
      exact hw
    generalize v.tileCheck m.die tl = v2 at hw2 ⊢
    obtain ⟨r, h2, h3⟩ := failWaiters_complete (v2.waitersOf m.unit) tl v2 (fun w hw => waiter_result hw) w hw2
    obtain ⟨r2, h4, h5⟩ := result_later (afterPromo_borne (m := m) (borne_refl _)).results h2
    exact ⟨r2, h4, h5.2 h3⟩

theorem wakeReady_kept (h : s0.Kept s) {die : Nat} : s0.Kept (s.wakeReady die) :=
  kept_trans h (State.runPromos_borne (wakeUnits_borne (borne_refl s))).kept

theorem imageRestored_clean (s : State) (slot : Nat) (i : Parked) :
    s.imageRestored slot i .clean true = ((s.restoreImage slot).wakeReady (slotDie slot)).promotingTest slot := by
  unfold State.imageRestored
  have h : (if i.tier = 2 then s.noteT2At (slotDie slot) i.loc .clean else s) = s := by
    split
    · unfold State.noteT2At
      dsimp only
      unfold State.noteT2Read
      rfl
    · rfl
  dsimp only
  rw [h]
  simp only [if_true]

theorem kept_chain {A : List (Nat × Staging)} {B : List (Nat × FinArea)} {C : List (Nat × Parked)} {P : Prop} (hx : s.Kept t)
    (h1 : s.kv.staging = A) (h2 : s.kv.areas = B) (h3 : s.kv.images = C) (p : P) :
    t.kv.staging = A ∧ t.kv.areas = B ∧ t.kv.images = C ∧ P := ⟨hx.staging.trans h1, hx.areas.trans h2, hx.images.trans h3, p⟩

theorem restoreImage_spec (s : State) (slot : Nat) (i : Parked) (hi : alGet slot s.kv.images = some i) :
    ∃ g a, (s.restoreImage slot).kv.staging = alSet slot g s.kv.staging ∧ (s.restoreImage slot).kv.areas = alSet slot a s.kv.areas
      ∧ (s.restoreImage slot).kv.images = alErase slot s.kv.images ∧ g.lens = i.lens ∧ g.globals = i.globals ∧ a = { i.area with loc := a.loc } := by
  unfold State.restoreImage
  rw [hi]
  dsimp only
  have hk : s.Kept (if s.tier.restores.contains slot = true then s
      else s.alloc (slotDie slot) 1 (s.sess slot).context (s.stagingGranules + areaGranules)) :=
    kept_ite (kept_refl s) (State.alloc_kept (kept_refl s))
  generalize (if s.tier.restores.contains slot = true then s
      else s.alloc (slotDie slot) 1 (s.sess slot).context (s.stagingGranules + areaGranules)) = v at hk ⊢
  refine ⟨{ v.newStaging with lens := i.lens, globals := i.globals }, { i.area with
    loc := (v.putStaging slot { v.newStaging with lens := i.lens, globals := i.globals }).nextFree.freeVal % 2 ^ 40 }, ?_⟩
  refine kept_chain (kept_ite (State.releaseT2_kept (State.noteMoved_kept (State.dealloc_kept (kept_refl _))))
    (State.noteMoved_kept (State.dealloc_kept (kept_refl _)))) ?_ ?_ ?_ ⟨rfl, rfl, rfl⟩
  · show alSet slot _ v.kv.staging = _
    rw [hk.staging]
  · show alSet slot _ v.kv.areas = _
    rw [hk.areas]
  · show alErase slot v.kv.images = _
    rw [hk.images]

theorem copyReady_copies (s : State) (c : T0Copy) : (s.copyReady c).kv.copies
    = s.kv.copies.map (fun (x : T0Copy) => if x = c then { x with ready := true } else x) ∧ (s.copyReady c).ses = s.ses := by
  unfold State.copyReady
  dsimp only
  split
  · exact ⟨rfl, rfl⟩
  · split
    · have h1 : ∀ (w : State) (d v : Nat), (w.walkPage d v).kv.copies = w.kv.copies ∧ (w.walkPage d v).ses = w.ses := by
        intro w d v
        unfold State.walkPage
        split <;> exact ⟨rfl, rfl⟩
      have h2 : ∀ (w : State) (k : PageKey), (w.touch k).kv.copies = w.kv.copies ∧ (w.touch k).ses = w.ses := by
        intro w k
        unfold State.touch
        split
        · exact ⟨rfl, rfl⟩
        · dsimp only
          split
          · exact ⟨rfl, rfl⟩
          · split <;> exact ⟨rfl, rfl⟩
      exact ⟨(h1 _ _ _).1.trans (h2 _ _).1, (h1 _ _ _).2.trans (h2 _ _).2⟩
    · exact ⟨rfl, rfl⟩

theorem copiesReady (l : List T0Copy) : ∀ s : State, (l.foldl (fun s c => s.copyReady c) s).ses = s.ses
    ∧ (∀ c, c.ready = true → c ∈ s.kv.copies → c ∈ (l.foldl (fun s c => s.copyReady c) s).kv.copies)
    ∧ (∀ c ∈ l, c ∈ s.kv.copies → ({ c with ready := true } : T0Copy) ∈ (l.foldl (fun s c => s.copyReady c) s).kv.copies)
    ∧ (∀ c, c ∈ s.kv.copies → c ∈ (l.foldl (fun s c => s.copyReady c) s).kv.copies
        ∨ ({ c with ready := true } : T0Copy) ∈ (l.foldl (fun s c => s.copyReady c) s).kv.copies) := by
  induction l with
  | nil => exact fun s => ⟨rfl, fun _ _ h => h, (fun _ h => by cases h), fun _ h => .inl h⟩
  | cons a l ih =>
    intro s
    obtain ⟨h1, h2⟩ := copyReady_copies s a
    obtain ⟨i1, i2, i3, i4⟩ := ih (s.copyReady a)
    have hr : ∀ c, c.ready = true → c ∈ s.kv.copies → c ∈ (s.copyReady a).kv.copies := by
      intro c hc hm
      rw [h1]
      refine List.mem_map.2 ⟨c, hm, ?_⟩
      split
      · cases c
        dsimp only at hc
        subst hc
        rfl
      · rfl
    have ha : a ∈ s.kv.copies → ({ a with ready := true } : T0Copy) ∈ (s.copyReady a).kv.copies := by
      intro hm
      rw [h1]
      exact List.mem_map.2 ⟨a, hm, if_pos rfl⟩
    refine ⟨i1.trans h2, fun c hc hm => i2 c hc (hr c hc hm), fun c hc hm => ?_, fun c hm => ?_⟩
    · by_cases e : c = a
      · subst e
        exact i2 _ rfl (ha hm)
      · have hm' : c ∈ (s.copyReady a).kv.copies := by
          rw [h1]
          exact List.mem_map.2 ⟨c, hm, if_neg e⟩
        rcases List.mem_cons.1 hc with hc | hc
        · exact absurd hc e
        · exact i3 c hc hm'
    · by_cases e : c = a
      · subst e
        exact .inr (i2 _ rfl (ha hm))
      · have hm' : c ∈ (s.copyReady a).kv.copies := by
          rw [h1]
          exact List.mem_map.2 ⟨c, hm, if_neg e⟩
        exact i4 c hm'

end Sys2Proof.Machine
end

