-- ==== Sys2Proof/Laws/Logged.lean ====
section
/-! SUPPORT. What leaves the error logs, the retired units and the bytes of T1 alone. -/

namespace Sys2Proof.Machine

/-- `b` has the error logs, the retired units and the T1 bytes of `a`. -/
structure State.Logged (a b : State) : Prop where
  err0 : b.tier.err0 = a.tier.err0
  err1 : b.tier.err1 = a.tier.err1
  retired : b.tier.retired = a.tier.retired
  t1a : b.tier.t1a = a.tier.t1a
  t1b : b.tier.t1b = a.tier.t1b

variable {s0 s t : State}

theorem logged_refl (s : State) : s.Logged s := ⟨rfl, rfl, rfl, rfl, rfl⟩

theorem logged_trans (h : s0.Logged s) (h' : s.Logged t) : s0.Logged t :=
  ⟨h'.err0.trans h.err0, h'.err1.trans h.err1, h'.retired.trans h.retired, h'.t1a.trans h.t1a, h'.t1b.trans h.t1b⟩

/-- A change elsewhere. -/
theorem logged_mk (h : s0.Logged s) {now : Nat} {pending : List Instr} {free : Nat} {regs : List (RegKey × Word)} {bcn : Beacon}
    {ev : Events} {ses : Sessions} {kv : Kv} {attn : Attn} {grams : List ((Nat × Nat) × Gram)} {net : Net} {lamp : Lamp}
    {tier : Tier} {start : Start} {flash : Flash} {ident : Ident} {ckpt : Ckpt} {health : Health} {rp : Replay} {pins : Pins}
    (e0 : tier.err0 = s.tier.err0) (e1 : tier.err1 = s.tier.err1) (e2 : tier.retired = s.tier.retired) (e3 : tier.t1a = s.tier.t1a) (e4 : tier.t1b = s.tier.t1b) :
    s0.Logged ⟨now, pending, free, regs, bcn, ev, ses, kv, attn, grams, net, lamp, tier, start, flash, ident, ckpt, health, rp,
      pins⟩ := ⟨e0.trans h.err0, e1.trans h.err1, e2.trans h.retired, e3.trans h.t1a, e4.trans h.t1b⟩

theorem logged_ite {c : Prop} [Decidable c] (h : s0.Logged s) (h' : s0.Logged t) : s0.Logged (if c then s else t) := by
  split <;> assumption

theorem logged_foldl {α : Type} {f : State → α → State} (hf : ∀ s x, s0.Logged s → s0.Logged (f s x)) (l : List α)
    (h : s0.Logged s) : s0.Logged (l.foldl f s) := by
  induction l generalizing s with
  | nil => exact h
  | cons x l ih => exact ih (hf s x h)

theorem State.setReg_logged (h : s0.Logged s) {die sel : Nat} {r : RegId} {w : Word} : s0.Logged (s.setReg die sel r w) := logged_mk h rfl rfl rfl rfl rfl
theorem State.setFld_logged (h : s0.Logged s) {die sel : Nat} {f : Field} {v : Nat} : s0.Logged (s.setFld die sel f v) := logged_mk h rfl rfl rfl rfl rfl
theorem State.bumpBy_logged (h : s0.Logged s) {die sel : Nat} {f : Field} {n : Nat} : s0.Logged (s.bumpBy die sel f n) := logged_mk h rfl rfl rfl rfl rfl
theorem State.bump_logged (h : s0.Logged s) {die sel : Nat} {f : Field} : s0.Logged (s.bump die sel f) := logged_mk h rfl rfl rfl rfl rfl
theorem State.lower_logged (h : s0.Logged s) {die sel : Nat} {f : Field} {n : Nat} : s0.Logged (s.lower die sel f n) := logged_mk h rfl rfl rfl rfl rfl
theorem State.setSess_logged (h : s0.Logged s) {slot : Nat} {r : Session} : s0.Logged (s.setSess slot r) := logged_mk h rfl rfl rfl rfl rfl
theorem State.setPort_logged (h : s0.Logged s) {p : Nat} {x : Port} : s0.Logged (s.setPort p x) := logged_mk h rfl rfl rfl rfl rfl
theorem State.setPoolFree_logged (h : s0.Logged s) {die tier n : Nat} : s0.Logged (s.setPoolFree die tier n) := by
  unfold State.setPoolFree
  dsimp only
  exact State.setReg_logged h

set_option linter.unusedTactic false
set_option linter.unreachableTactic false

theorem State.nextFree_logged (h : s0.Logged s) : s0.Logged (State.nextFree s) := by
  unfold State.nextFree
  try dsimp only
  repeat' first | with_reducible assumption | with_reducible rfl | with_reducible apply logged_ite | fail_if_no_progress with_reducible refine logged_mk ?_ rfl rfl rfl rfl rfl | split | dsimp only | decide

theorem State.settle_logged (h : s0.Logged s) {p : Nat} : s0.Logged (State.settle s p) := by
  unfold State.settle
  try dsimp only
  repeat' first | with_reducible assumption | with_reducible rfl | intro _ | with_reducible apply State.setPort_logged | with_reducible apply logged_ite | with_reducible apply logged_foldl | fail_if_no_progress with_reducible refine logged_mk ?_ rfl rfl rfl rfl rfl | split | dsimp only | decide

theorem State.enqueue_logged (h : s0.Logged s) {p cls flow len : Nat} {result : Option (Nat × ResKey)} {body : FrameBody} : s0.Logged (State.enqueue s p cls flow len result body) := by
  unfold State.enqueue
  try dsimp only
  repeat' first | with_reducible assumption | with_reducible rfl | with_reducible apply State.settle_logged | with_reducible apply State.setPort_logged | with_reducible apply logged_ite | fail_if_no_progress with_reducible refine logged_mk ?_ rfl rfl rfl rfl rfl | split | dsimp only | decide

theorem State.countHeld_logged (h : s0.Logged s) {p : Nat} : s0.Logged (State.countHeld s p) := by
  unfold State.countHeld
  try dsimp only
  repeat' first | with_reducible assumption | with_reducible rfl | intro _ | with_reducible apply State.setPort_logged | with_reducible apply State.bump_logged | with_reducible apply logged_ite | with_reducible apply logged_foldl | fail_if_no_progress with_reducible refine logged_mk ?_ rfl rfl rfl rfl rfl | split | dsimp only | decide

theorem State.noteReturn_logged (h : s0.Logged s) {r : Result} : s0.Logged (State.noteReturn s r) := by
  unfold State.noteReturn
  try dsimp only
  repeat' first | with_reducible assumption | with_reducible rfl | intro _ | with_reducible apply State.bump_logged | with_reducible apply logged_ite | fail_if_no_progress with_reducible refine logged_mk ?_ rfl rfl rfl rfl rfl | split | dsimp only | decide

theorem State.markStarted_logged (h : s0.Logged s) {p : Nat} {f : QFrame} : s0.Logged (State.markStarted s p f) := by
  unfold State.markStarted
  try dsimp only
  repeat' first | with_reducible assumption | with_reducible rfl | intro _ | with_reducible apply State.noteReturn_logged | with_reducible apply State.setPort_logged | with_reducible apply logged_ite | fail_if_no_progress with_reducible refine logged_mk ?_ rfl rfl rfl rfl rfl | split | dsimp only | decide

theorem State.untrack_logged (h : s0.Logged s) {k : KeyRef} {reqId : Nat} : s0.Logged (State.untrack s k reqId) := by
  unfold State.untrack
  try dsimp only
  repeat' first | with_reducible assumption | with_reducible rfl | intro _ | with_reducible apply logged_ite | fail_if_no_progress with_reducible refine logged_mk ?_ rfl rfl rfl rfl rfl | split | dsimp only | decide

theorem State.untrackFrame_logged (h : s0.Logged s) {f : QFrame} : s0.Logged (State.untrackFrame s f) := by
  unfold State.untrackFrame
  try dsimp only
  repeat' first | with_reducible assumption | with_reducible rfl | with_reducible apply State.untrack_logged | with_reducible apply logged_ite | fail_if_no_progress with_reducible refine logged_mk ?_ rfl rfl rfl rfl rfl | split | dsimp only | decide

theorem State.pick_logged (h : s0.Logged s) {p : Nat} : s0.Logged (State.pick s p) := by
  unfold State.pick
  try dsimp only
  repeat' first | with_reducible assumption | with_reducible rfl | with_reducible apply State.settle_logged | with_reducible apply State.countHeld_logged | with_reducible apply State.setPort_logged | with_reducible apply State.markStarted_logged | with_reducible apply State.untrackFrame_logged | with_reducible apply logged_ite | fail_if_no_progress with_reducible refine logged_mk ?_ rfl rfl rfl rfl rfl | split | dsimp only | decide

theorem State.send_logged (h : s0.Logged s) {p cls flow len : Nat} {result : Option (Nat × ResKey)} {body : FrameBody} : s0.Logged (State.send s p cls flow len result body) := by
  unfold State.send
  try dsimp only
  repeat' first | with_reducible assumption | with_reducible rfl | with_reducible apply State.enqueue_logged | with_reducible apply State.pick_logged | with_reducible apply logged_ite | split | dsimp only | decide

theorem State.sendSeg_logged (h : s0.Logged s) {d : Dest} {kind type status reason reqId : Nat} {response : Bool} {result : Option (Nat × ResKey)} {count len : Nat} {seg : Nat × List Byte} : s0.Logged (State.sendSeg s d kind type status reason reqId response result count len seg) := by
  unfold State.sendSeg
  try dsimp only
  repeat' first | with_reducible assumption | with_reducible rfl | with_reducible apply State.send_logged | with_reducible apply logged_ite | fail_if_no_progress with_reducible refine logged_mk ?_ rfl rfl rfl rfl rfl | split | dsimp only | decide

theorem State.sendMsg_logged (h : s0.Logged s) {d : Dest} {kind type status reason reqId : Nat} {response : Bool} {result : Option (Nat × ResKey)} {body : List Byte} : s0.Logged (State.sendMsg s d kind type status reason reqId response result body) := by
  unfold State.sendMsg
  try dsimp only
  repeat' first | with_reducible assumption | with_reducible rfl | intro _ | with_reducible apply State.sendSeg_logged | with_reducible apply logged_ite | with_reducible apply logged_foldl | fail_if_no_progress with_reducible refine logged_mk ?_ rfl rfl rfl rfl rfl | split | dsimp only | decide

theorem State.setRing_logged (h : s0.Logged s) {die : Nat} {l : List EvtRec} : s0.Logged (State.setRing s die l) := by
  unfold State.setRing
  try dsimp only
  repeat' first | with_reducible assumption | with_reducible rfl | with_reducible apply logged_ite | fail_if_no_progress with_reducible refine logged_mk ?_ rfl rfl rfl rfl rfl | split | dsimp only | decide

theorem State.setAlerts_logged (h : s0.Logged s) {die : Nat} {l : List Nat} : s0.Logged (State.setAlerts s die l) := by
  unfold State.setAlerts
  try dsimp only
  repeat' first | with_reducible assumption | with_reducible rfl | with_reducible apply logged_ite | fail_if_no_progress with_reducible refine logged_mk ?_ rfl rfl rfl rfl rfl | split | dsimp only | decide

theorem State.eventFrame_logged (h : s0.Logged s) {sub : Sub} {r : EvtRec} : s0.Logged (State.eventFrame s sub r) := by
  unfold State.eventFrame
  try dsimp only
  repeat' first | with_reducible assumption | with_reducible rfl | with_reducible apply State.sendMsg_logged | with_reducible apply logged_ite | fail_if_no_progress with_reducible refine logged_mk ?_ rfl rfl rfl rfl rfl | split | dsimp only | decide

theorem State.ibi_logged (h : s0.Logged s) {byte : Nat} : s0.Logged (State.ibi s byte) := by
  unfold State.ibi
  try dsimp only
  repeat' first | with_reducible assumption | with_reducible rfl | with_reducible apply logged_ite | fail_if_no_progress with_reducible refine logged_mk ?_ rfl rfl rfl rfl rfl | split | dsimp only | decide

theorem State.logEvent_logged (h : s0.Logged s) {die : Nat} {r : EvtRec} : s0.Logged (State.logEvent s die r) := by
  unfold State.logEvent
  try dsimp only
  repeat' first | with_reducible assumption | with_reducible rfl | with_reducible apply State.setRing_logged | with_reducible apply State.setFld_logged | with_reducible apply State.setAlerts_logged | with_reducible apply State.ibi_logged | with_reducible apply logged_ite | split | dsimp only | decide

theorem State.raise_logged (h : s0.Logged s) {die sub : Nat} {a : EvtArgs} : s0.Logged (State.raise s die sub a) := by
  unfold State.raise
  try dsimp only
  repeat' first | with_reducible assumption | with_reducible rfl | intro _ | with_reducible apply State.eventFrame_logged | with_reducible apply State.logEvent_logged | with_reducible apply logged_ite | with_reducible apply logged_foldl | split | dsimp only | decide

theorem State.setOnce_logged (h : s0.Logged s) {o : Once} : s0.Logged (State.setOnce s o) := by
  unfold State.setOnce
  try dsimp only
  repeat' first | with_reducible assumption | with_reducible rfl | intro _ | with_reducible apply logged_ite | fail_if_no_progress with_reducible refine logged_mk ?_ rfl rfl rfl rfl rfl | split | dsimp only | decide

theorem State.raiseOnce_logged (h : s0.Logged s) {die sub item : Nat} {a : EvtArgs} : s0.Logged (State.raiseOnce s die sub item a) := by
  unfold State.raiseOnce
  try dsimp only
  repeat' first | with_reducible assumption | with_reducible rfl | with_reducible apply State.setOnce_logged | with_reducible apply State.raise_logged | with_reducible apply logged_ite | fail_if_no_progress with_reducible refine logged_mk ?_ rfl rfl rfl rfl rfl | split | dsimp only | decide

theorem State.cbwWrite_logged (h : s0.Logged s) {die granule : Nat} : s0.Logged (State.cbwWrite s die granule) := by
  unfold State.cbwWrite
  try dsimp only
  repeat' first | with_reducible assumption | with_reducible rfl | intro _ | with_reducible apply State.bump_logged | with_reducible apply State.setFld_logged | with_reducible apply logged_ite | fail_if_no_progress with_reducible refine logged_mk ?_ rfl rfl rfl rfl rfl | split | dsimp only | decide

theorem State.dataCheck_logged (h : s0.Logged s) {die addr : Nat} : s0.Logged (State.dataCheck s die addr) := by
  unfold State.dataCheck
  try dsimp only
  repeat' first | with_reducible assumption | with_reducible rfl | with_reducible apply State.raise_logged | with_reducible apply logged_ite | split | dsimp only | decide

theorem State.evictTest_logged (h : s0.Logged s) {die tier : Nat} : s0.Logged (State.evictTest s die tier) := by
  unfold State.evictTest
  try dsimp only
  repeat' first | with_reducible assumption | with_reducible rfl | with_reducible apply logged_ite | fail_if_no_progress with_reducible refine logged_mk ?_ rfl rfl rfl rfl rfl | split | dsimp only | decide

theorem State.setSeg_logged (h : s0.Logged s) {x : Seg} : s0.Logged (State.setSeg s x) := by
  unfold State.setSeg
  try dsimp only
  repeat' first | with_reducible assumption | with_reducible rfl | intro _ | with_reducible apply logged_ite | fail_if_no_progress with_reducible refine logged_mk ?_ rfl rfl rfl rfl rfl | split | dsimp only | decide

theorem State.settleSeg_logged (h : s0.Logged s) {x : Seg} : s0.Logged (State.settleSeg s x) := by
  unfold State.settleSeg
  try dsimp only
  repeat' first | with_reducible assumption | with_reducible rfl | with_reducible apply State.setSeg_logged | with_reducible apply logged_ite | fail_if_no_progress with_reducible refine logged_mk ?_ rfl rfl rfl rfl rfl | split | dsimp only | decide

theorem State.mapPins_logged (h : s0.Logged s) {l : List (Nat × Nat × Nat)} {f : Nat → Nat} : s0.Logged (State.mapPins s l f) := by
  unfold State.mapPins
  try dsimp only
  repeat' first | with_reducible assumption | with_reducible rfl | intro _ | with_reducible apply State.settleSeg_logged | with_reducible apply logged_ite | with_reducible apply logged_foldl | fail_if_no_progress with_reducible refine logged_mk ?_ rfl rfl rfl rfl rfl | split | dsimp only | decide

theorem State.discard_logged (h : s0.Logged s) {id : Nat} : s0.Logged (State.discard s id) := by
  unfold State.discard
  try dsimp only
  repeat' first | with_reducible assumption | with_reducible rfl | intro _ | with_reducible apply State.mapPins_logged | with_reducible apply logged_ite | fail_if_no_progress with_reducible refine logged_mk ?_ rfl rfl rfl rfl rfl | split | dsimp only | decide

theorem State.putHead_logged (h0 : s0.Logged s) {h : ShardHdr} : s0.Logged (State.putHead s h) := by
  unfold State.putHead
  try dsimp only
  repeat' first | with_reducible assumption | with_reducible rfl | intro _ | with_reducible apply logged_ite | fail_if_no_progress with_reducible refine logged_mk ?_ rfl rfl rfl rfl rfl | split | dsimp only | decide

theorem State.startRec_logged (h : s0.Logged s) {id : Nat} : s0.Logged (State.startRec s id) := by
  unfold State.startRec
  try dsimp only
  repeat' first | with_reducible assumption | with_reducible rfl | intro _ | with_reducible apply State.setFld_logged | with_reducible apply State.setReg_logged | with_reducible apply logged_ite | fail_if_no_progress with_reducible refine logged_mk ?_ rfl rfl rfl rfl rfl | split | dsimp only | decide

theorem State.cut_logged (h : s0.Logged s) {kind trigger : Nat} : s0.Logged (State.cut s kind trigger) := by
  unfold State.cut
  try dsimp only
  repeat' first | with_reducible assumption | with_reducible rfl | intro _ | with_reducible apply State.mapPins_logged | with_reducible apply State.putHead_logged | with_reducible apply State.discard_logged | with_reducible apply State.setFld_logged | with_reducible apply State.setReg_logged | with_reducible apply State.nextFree_logged | with_reducible apply State.startRec_logged | with_reducible apply State.raise_logged | with_reducible apply logged_ite | with_reducible apply logged_foldl | fail_if_no_progress with_reducible refine logged_mk ?_ rfl rfl rfl rfl rfl | split | dsimp only | decide

theorem State.planCkpt_logged (h : s0.Logged s) {kind trigger : Nat} : s0.Logged (State.planCkpt s kind trigger) := by
  unfold State.planCkpt
  try dsimp only
  repeat' first | with_reducible assumption | with_reducible rfl | with_reducible apply State.setFld_logged | with_reducible apply State.cut_logged | with_reducible apply logged_ite | fail_if_no_progress with_reducible refine logged_mk ?_ rfl rfl rfl rfl rfl | split | dsimp only | decide

theorem State.warnCkpt_logged (h : s0.Logged s) {die cluster : Nat} : s0.Logged (State.warnCkpt s die cluster) := by
  unfold State.warnCkpt
  try dsimp only
  repeat' first | with_reducible assumption | with_reducible rfl | intro _ | with_reducible apply State.planCkpt_logged | with_reducible apply logged_ite | fail_if_no_progress with_reducible refine logged_mk ?_ rfl rfl rfl rfl rfl | split | dsimp only | decide

theorem State.noteCe_logged (h : s0.Logged s) {die cluster : Nat} : s0.Logged (State.noteCe s die cluster) := by
  unfold State.noteCe
  try dsimp only
  repeat' first | with_reducible assumption | with_reducible rfl | intro _ | with_reducible apply State.raise_logged | with_reducible apply State.warnCkpt_logged | with_reducible apply logged_ite | fail_if_no_progress with_reducible refine logged_mk ?_ rfl rfl rfl rfl rfl | split | dsimp only | decide

end Sys2Proof.Machine
end

