-- ==== Sys2Proof/Laws/MemoryCmds.lean ====
section
/-! SUPPORT. What the commands of the memory come to: logged errors, stores, retirement, and the sectors of the test region. -/

namespace Sys2Proof.Machine

variable {s s0 t : State}

/-- The error log of a die. -/
def State.errLog (s : State) (die : Nat) : List ErrRec := if die = 0 then s.tier.err0 else s.tier.err1

theorem logErr_last (s : State) (die kind cluster channel : Nat) (test patrol : Bool) (stripe sector addr : Nat) :
    ∃ r, (if die = 0 then (s.logErr die kind cluster channel test patrol stripe sector addr).tier.err0
      else (s.logErr die kind cluster channel test patrol stripe sector addr).tier.err1).getLast? = some r ∧ r.kind = kind ∧ r.cluster = cluster
      ∧ r.channel = channel ∧ r.stripe = stripe ∧ r.sector = sector ∧ r.patrol = patrol := by
  refine ⟨{ pos := s.pos, time := s.ieee, kind, cluster, channel, test, patrol, bank := stripe % 16, sector, stripe, addr }, ?_, rfl, rfl, rfl, rfl,
    rfl, rfl⟩
  unfold State.logErr
  extract_lets r size old full new w0 w w1
  have hn : new.getLast? = some r := by
    unfold new
    split <;> exact List.getLast?_concat ..
  clear_value new
  have hw : (if die = 0 then w.tier.err0 else w.tier.err1) = new := by
    unfold w
    split
    · rfl
    · rfl
  have : (if die = 0 then (if full = true then w1.setFld die 0 Fld.MC_ERRLOG_LOST 1 else w1).tier.err0
      else (if full = true then w1.setFld die 0 Fld.MC_ERRLOG_LOST 1 else w1).tier.err1) = new := by
    rw [← hw]
    cases full <;> rfl
  rw [this, hn]

theorem logErr_t1 (s : State) (die kind cluster channel : Nat) (test patrol : Bool) (stripe sector addr : Nat) :
    (s.logErr die kind cluster channel test patrol stripe sector addr).tier.t1a = s.tier.t1a
    ∧ (s.logErr die kind cluster channel test patrol stripe sector addr).tier.t1b = s.tier.t1b := by
  unfold State.logErr
  dsimp only
  split <;> split <;> exact ⟨rfl, rfl⟩

theorem Logged.pick {s t : State} {die : Nat} {r : ErrRec} {P : Prop} (h : s.Logged t)
    (e : (if die = 0 then s.tier.err0 else s.tier.err1).getLast? = some r ∧ P) :
    (if die = 0 then t.tier.err0 else t.tier.err1).getLast? = some r ∧ P := by
  rw [h.err0, h.err1]
  exact e

theorem foldl_logged {α : Type} (f : State → α → State) (l : List α) (h : ∀ s x, State.Logged s (f s x)) : ∀ s : State, s.Logged (l.foldl f s) := by
  induction l with
  | nil => exact fun s => logged_refl s
  | cons x l ih => exact fun s => logged_trans (h s x) (ih _)

theorem raise_fld (s : State) (die sub : Nat) (x : EvtArgs) (d sel : Nat) {f : Field} (hf : f.reg ∉ chatter) :
    (s.raise die sub x).fld d sel f = s.fld d sel f := (State.raise_reported (reported_refl s)).fld d sel hf

theorem degrade_fld (s : State) (die cl i : Nat) (hi : i < 8) : (s.degrade die cl i).fld die cl Fld.MC_DEGRADE_DEGRADED
    = if s.fld die cl Fld.MC_DEGRADE_DEGRADED = 0 then 2 ^ i else s.fld die cl Fld.MC_DEGRADE_DEGRADED := by
  unfold State.degrade
  dsimp only
  split
  · rename_i h
    rw [if_neg]
    intro h0
    rw [h0, Nat.zero_div] at h
    cases h
  · split
    · rename_i h
      unfold State.degradeRefused
      exact raise_fld _ _ _ _ _ _ (by decide)
    · rename_i h
      rw [raise_fld _ _ _ _ _ _ (by decide)]
      unfold State.setMap
      rw [fld_setReg_ne _ _ (.inr (.inr (by unfold mapReg; simp [Reg.MC_DEGRADE]))),
        fld_setFld_self _ _ _ _ _ (by decide) (by decide), if_pos (by omega)]
      exact Nat.mod_eq_of_lt (by
        show 2 ^ i < 2 ^ 8
        exact Nat.pow_lt_pow_right (by decide) hi)

theorem degradeOne (s : State) (die cl i : Nat) (v : Word) (hi : i < 8) (hv : v.toNat = 2 ^ i) :
    s.mcDegradeEffect die cl v = s.degrade die cl i := by
  unfold State.mcDegradeEffect
  rw [hv]
  have : ∀ j, (2 ^ i / 2 ^ j % 2 = 1) ↔ j = i := by
    intro j
    have := Nat.testBit_two_pow (n := i) (m := j)
    rw [Nat.testBit_eq_decide_div_mod_eq] at this
    rw [show (2 ^ i / 2 ^ j % 2 = 1) ↔ i = j from ⟨fun h => by simpa [h] using this, fun h => by simpa [h] using this⟩]
    exact eq_comm
  simp only [this]
  have h8 : List.range 8 = [0, 1, 2, 3, 4, 5, 6, 7] := rfl
  rw [h8]
  simp only [List.foldl_cons, List.foldl_nil]
  interval_cases i <;> simp

theorem evictTest_retired (s : State) (die tier : Nat) : (s.evictTest die tier).tier.retired = s.tier.retired
    ∧ (s.evictTest die tier).kv = s.kv := by
  unfold State.evictTest
  dsimp only
  split
  · split
    · exact ⟨rfl, rfl⟩
    · split <;> exact ⟨rfl, rfl⟩
  · exact ⟨rfl, rfl⟩

theorem retire_spec (s : State) (die cl : Nat) (bank : Bool) (x : Nat) (hb : bank = true → x / 2 < 8) : (s.retire die cl bank x).isRetired die cl (x / 2) = true
    ∧ (s.retire die cl bank x).fld die 0 Fld.MC_RETIRE_STATUS_BUSY = 1 ∧ (s.retire die cl bank x).kv = s.kv
    ∧ ∀ y ∈ s.tier.retired, y ∈ (s.retire die cl bank x).tier.retired := by
  unfold State.retire
  extract_lets n before src w1 w2 w3
  have e1 : w3.tier.retired = (die, cl, if bank = true then bankMark (x / 2) else x / 2) :: s.tier.retired := rfl
  have hk : w3.kv = s.kv := rfl
  clear_value w3
  obtain ⟨h1, h2⟩ := evictTest_retired (w3.setFld die 0 Fld.MC_RETIRE_STATUS_BUSY 1) die 1
  refine ⟨?_, ?_, h2.trans hk, fun y hy => ?_⟩
  · unfold State.isRetired
    rw [h1]
    show (w3.tier.retired.contains _ || w3.tier.retired.contains _) = true
    rw [e1]
    cases bank with
    | true => simp [Nat.mod_eq_of_lt (hb rfl)]
    | false => simp
  · unfold State.fld State.reg
    rw [(evictTest_moves (w3.setFld die 0 Fld.MC_RETIRE_STATUS_BUSY 1) die 1).2]
    exact fld_setFld_self _ _ _ _ _ (by decide) (by decide)
  · rw [h1]
    show y ∈ w3.tier.retired
    rw [e1]
    exact List.mem_cons_of_mem _ hy

theorem retireEffect_spec (s : State) (die : Nat) (v : Word) (bank : Bool) (cl x : Nat) (hg : getBits v 63 63 = 1)
    (hb : (getBits v 62 62 == 1) = bank) (hcl : cl = getBits v 61 59)
    (hx : x = (if bank = true then getBits v 26 23 else getBits v 22 0)) : (s.retireEffect die v).kv = s.kv
        ∧ (if clusterStripes ≤ x ∨ s.coversFixed die cl bank x = true
          then (s.retireEffect die v).fld die 0 Fld.MC_RETIRE_STATUS_REFUSED = 1 ∧ (s.retireEffect die v).tier.retired = s.tier.retired
          else (s.retireEffect die v).isRetired die cl (x / 2) = true ∧ (s.retireEffect die v).fld die 0 Fld.MC_RETIRE_STATUS_BUSY = 1
            ∧ ∀ y ∈ s.tier.retired, y ∈ (s.retireEffect die v).tier.retired) := by
  unfold State.retireEffect
  dsimp only
  rw [if_neg (by omega), hb, ← hcl, ← hx]
  by_cases hc : clusterStripes ≤ x ∨ s.coversFixed die cl bank x = true
  · rw [if_pos hc, if_pos hc]
    exact ⟨rfl, fld_setFld_self _ _ _ _ _ (by decide) (by decide), rfl⟩
  · rw [if_neg hc, if_neg hc]
    obtain ⟨h1, h2, h3, h4⟩ := retire_spec s die cl bank x (fun e => by
      subst e
      rw [hx]
      simp only [if_true]
      have : getBits v 26 23 < 16 := by
        unfold getBits
        exact Nat.mod_lt _ (by decide)
      omega)
    exact ⟨h3, h1, h2, h4⟩

theorem testSector_at (s : State) (die : Nat) (p : Place) : (s.testSector die p).die = die ∧ (s.testSector die p).cluster = p.cluster
    ∧ (s.testSector die p).stripe = p.stripe ∧ (s.testSector die p).channel = p.channel ∧ (s.testSector die p).sector = p.sector := by
  unfold State.testSector
  cases h : s.tier.test.find? (fun x => x.die == die && x.cluster == p.cluster && x.stripe == p.stripe && x.channel == p.channel
    && x.sector == p.sector) with
  | none => exact ⟨rfl, rfl, rfl, rfl, rfl⟩
  | some x =>
    have := List.find?_some h
    simp only [Bool.and_eq_true, beq_iff_eq] at this
    exact ⟨this.1.1.1.1, this.1.1.1.2, this.1.1.2, this.1.2, this.2⟩

theorem testSector_setTest (s : State) (die : Nat) (p : Place) (x : TestSector) (h : x.die = die ∧ x.cluster = p.cluster ∧ x.stripe = p.stripe
    ∧ x.channel = p.channel ∧ x.sector = p.sector) : (s.setTest x).testSector die p = x := by
  unfold State.setTest State.testSector
  dsimp only
  rw [List.find?_cons_of_pos (by simp [h])]
  rfl

theorem testSector_setTest_ne (s : State) (die : Nat) (p : Place) (x : TestSector) (h : x.channel ≠ p.channel) :
    (s.setTest x).testSector die p = s.testSector die p := by
  unfold State.setTest State.testSector
  dsimp only
  rw [List.find?_cons_of_neg (by simp [h])]
  congr 1
  rw [List.find?_filter]
  congr 1
  funext y
  by_cases hc : y.channel = p.channel
  · simp [hc, Ne.symm h, beq_eq_decide]
  · simp [hc]

theorem testSector_of {s t : State} (h : t.tier = s.tier) (die : Nat) (p : Place) : t.testSector die p = s.testSector die p := by
  unfold State.testSector
  rw [h]

theorem words_sum (n : Nat) : ∀ k, ((List.range k).map (fun i => n / 2 ^ (64 * i) % 2 ^ 64 * 2 ^ (64 * i))).foldl (· + ·) 0 = n % 2 ^ (64 * k) := by
  intro k
  induction k with
  | zero => simp [Nat.mod_one]
  | succ k ih =>
    rw [List.range_succ, List.map_append, List.foldl_append, ih]
    simp only [List.map_cons, List.map_nil, List.foldl_cons, List.foldl_nil]
    rw [show 64 * (k + 1) = 64 * k + 64 by ring, Nat.pow_add, Nat.mod_mul]
    ring

theorem setTestData_reg (s : State) (die : Nat) (d : BitVec 512) : (∀ i, i < 8 → (s.setTestData die d).reg die 0 ⟨0x07, 0x58 + 8 * i⟩
    = d.extractLsb' (64 * i) 64) ∧ (∀ d' sel r, (∀ i, i < 8 → r ≠ ⟨0x07, 0x58 + 8 * i⟩) → (s.setTestData die d).reg d' sel r = s.reg d' sel r)
    ∧ (s.setTestData die d).tier = s.tier := by
  unfold State.setTestData
  have key : ∀ n, n ≤ 8 → (∀ i, i < n → ((List.range n).foldl (fun s i => s.setReg die 0 ⟨0x07, 0x58 + 8 * i⟩ (d.extractLsb' (64 * i) 64)) s).reg die 0
      ⟨0x07, 0x58 + 8 * i⟩ = d.extractLsb' (64 * i) 64) ∧ (∀ d' sel r, (∀ i, i < 8 → r ≠ ⟨0x07, 0x58 + 8 * i⟩) →
      ((List.range n).foldl (fun s i => s.setReg die 0 ⟨0x07, 0x58 + 8 * i⟩ (d.extractLsb' (64 * i) 64)) s).reg d' sel r = s.reg d' sel r)
      ∧ ((List.range n).foldl (fun s i => s.setReg die 0 ⟨0x07, 0x58 + 8 * i⟩ (d.extractLsb' (64 * i) 64)) s).tier = s.tier := by
    intro n
    induction n with
    | zero => exact fun _ => ⟨fun i h => absurd h (Nat.not_lt_zero i), fun _ _ _ _ => rfl, rfl⟩
    | succ n ih =>
      intro hn
      obtain ⟨h1, h2, h3⟩ := ih (by omega)
      rw [List.range_succ, List.foldl_append]
      simp only [List.foldl_cons, List.foldl_nil]
      refine ⟨fun i hi => ?_, fun d' sel r hr => ?_, h3⟩
      · by_cases e : i = n
        · subst e
          exact reg_setReg_self _ _ _ _ _
        · rw [reg_setReg_ne _ _ (.inr (.inr (by simp; omega)))]
          exact h1 i (by omega)
      · rw [reg_setReg_ne _ _ (.inr (.inr (hr n (by omega))))]
        exact h2 d' sel r hr
  exact key 8 (by decide)

theorem testData_setTestData (s : State) (die : Nat) (d : BitVec 512) : (s.setTestData die d).testData die = d := by
  unfold State.testData
  have h := (setTestData_reg s die d).1
  have e : (List.range 8).map (fun i => ((s.setTestData die d).reg die 0 ⟨0x07, 0x58 + 8 * i⟩).toNat * 2 ^ (64 * i))
      = (List.range 8).map (fun i => d.toNat / 2 ^ (64 * i) % 2 ^ 64 * 2 ^ (64 * i)) := by
    refine List.map_congr_left fun i hi => ?_
    rw [h i (List.mem_range.1 hi), BitVec.extractLsb'_toNat, Nat.shiftRight_eq_div_pow]
  rw [e, words_sum]
  refine BitVec.eq_of_toNat_eq ?_
  rw [BitVec.toNat_ofNat, show 64 * 8 = 512 from rfl, Nat.mod_mod]
  exact Nat.mod_eq_of_lt d.isLt

theorem logErr_reg (s : State) (die kind cluster channel : Nat) (test patrol : Bool) (stripe sector addr d sel : Nat) {r : RegId}
    (h : r ≠ Reg.MC_ERRLOG_HEAD) (h' : r ≠ Reg.MC_ERRLOG) :
    (s.logErr die kind cluster channel test patrol stripe sector addr).reg d sel r = s.reg d sel r := by
  unfold State.logErr
  extract_lets r0 size old full new w0 w w1
  have e : w1.reg d sel r = s.reg d sel r := by
    refine (reg_setReg_ne _ _ (.inr (.inr h))).trans ?_
    unfold w
    split <;> rfl
  clear_value w1
  split
  · exact (reg_setReg_ne _ _ (.inr (.inr h'))).trans e
  · exact e

theorem testData_of {s t : State} {die : Nat} (h : ∀ i, i < 8 → t.reg die 0 ⟨0x07, 0x58 + 8 * i⟩ = s.reg die 0 ⟨0x07, 0x58 + 8 * i⟩) :
    t.testData die = s.testData die := by
  unfold State.testData
  rw [List.map_congr_left fun i hi => by rw [h i (List.mem_range.1 hi)]]

end Sys2Proof.Machine
end

