-- ==== Sys2Proof/Laws/Sought.lean ====
section
/-! SUPPORT. What leaves the searches, but for the numbers of their messages, and the indexes alone. -/

namespace Sys2Proof.Machine

/-- A search apart from the number of its message. -/
def Search.unrec (q : Search) : Search := { q with rec_ := 0 }

/-- `b` has the searches, the indexes and the collections of `a`. -/
structure State.Sought (a b : State) : Prop where
  searches : List.map Search.unrec (b.flash.searches) = List.map Search.unrec (a.flash.searches)
  indexes : b.flash.indexes = a.flash.indexes
  nextQid : b.flash.nextQid = a.flash.nextQid
  gcs : b.flash.gcs = a.flash.gcs

variable {s0 s t : State}

theorem sought_refl (s : State) : s.Sought s := ⟨rfl, rfl, rfl, rfl⟩

theorem sought_trans (h : s0.Sought s) (h' : s.Sought t) : s0.Sought t :=
  ⟨h'.searches.trans h.searches, h'.indexes.trans h.indexes, h'.nextQid.trans h.nextQid, h'.gcs.trans h.gcs⟩

/-- A change elsewhere. -/
theorem sought_mk (h : s0.Sought s) {now : Nat} {pending : List Instr} {free : Nat} {regs : List (RegKey × Word)} {bcn : Beacon}
    {ev : Events} {ses : Sessions} {kv : Kv} {attn : Attn} {grams : List ((Nat × Nat) × Gram)} {net : Net} {lamp : Lamp}
    {tier : Tier} {start : Start} {flash : Flash} {ident : Ident} {ckpt : Ckpt} {health : Health} {rp : Replay} {pins : Pins}
    (e0 : flash.searches = s.flash.searches) (e1 : flash.indexes = s.flash.indexes) (e2 : flash.nextQid = s.flash.nextQid) (e3 : flash.gcs = s.flash.gcs) :
    s0.Sought ⟨now, pending, free, regs, bcn, ev, ses, kv, attn, grams, net, lamp, tier, start, flash, ident, ckpt, health, rp,
      pins⟩ := ⟨(congrArg (List.map Search.unrec) e0).trans h.searches, e1.trans h.indexes, e2.trans h.nextQid, e3.trans h.gcs⟩

theorem sought_ite {c : Prop} [Decidable c] (h : s0.Sought s) (h' : s0.Sought t) : s0.Sought (if c then s else t) := by
  split <;> assumption

theorem sought_foldl {α : Type} {f : State → α → State} (hf : ∀ s x, s0.Sought s → s0.Sought (f s x)) (l : List α)
    (h : s0.Sought s) : s0.Sought (l.foldl f s) := by
  induction l generalizing s with
  | nil => exact h
  | cons x l ih => exact ih (hf s x h)

theorem State.setReg_sought (h : s0.Sought s) {die sel : Nat} {r : RegId} {w : Word} : s0.Sought (s.setReg die sel r w) := sought_mk h rfl rfl rfl rfl
theorem State.setFld_sought (h : s0.Sought s) {die sel : Nat} {f : Field} {v : Nat} : s0.Sought (s.setFld die sel f v) := sought_mk h rfl rfl rfl rfl
theorem State.bumpBy_sought (h : s0.Sought s) {die sel : Nat} {f : Field} {n : Nat} : s0.Sought (s.bumpBy die sel f n) := sought_mk h rfl rfl rfl rfl
theorem State.bump_sought (h : s0.Sought s) {die sel : Nat} {f : Field} : s0.Sought (s.bump die sel f) := sought_mk h rfl rfl rfl rfl
theorem State.lower_sought (h : s0.Sought s) {die sel : Nat} {f : Field} {n : Nat} : s0.Sought (s.lower die sel f n) := sought_mk h rfl rfl rfl rfl
theorem State.setSess_sought (h : s0.Sought s) {slot : Nat} {r : Session} : s0.Sought (s.setSess slot r) := sought_mk h rfl rfl rfl rfl
theorem State.setPort_sought (h : s0.Sought s) {p : Nat} {x : Port} : s0.Sought (s.setPort p x) := sought_mk h rfl rfl rfl rfl
theorem State.setPoolFree_sought (h : s0.Sought s) {die tier n : Nat} : s0.Sought (s.setPoolFree die tier n) := by
  unfold State.setPoolFree
  dsimp only
  exact State.setReg_sought h
theorem sought_map (h : s0.Sought s) {f : Search → Search} (hf : ∀ x, (f x).unrec = x.unrec) {attn : Attn} :
    s0.Sought { s with attn := attn, flash := { s.flash with searches := s.flash.searches.map f } } :=
  ⟨by
    show List.map Search.unrec (s.flash.searches.map f) = _
    rw [List.map_map, show Search.unrec ∘ f = Search.unrec from funext hf]
    exact h.searches, h.indexes, h.nextQid, h.gcs⟩

set_option linter.unusedTactic false
set_option linter.unreachableTactic false

theorem State.nextFree_sought (h : s0.Sought s) : s0.Sought (State.nextFree s) := by
  unfold State.nextFree
  try dsimp only
  repeat' first | with_reducible assumption | with_reducible rfl | with_reducible apply sought_ite | fail_if_no_progress with_reducible refine sought_mk ?_ rfl rfl rfl rfl | split | dsimp only | decide

theorem State.settle_sought (h : s0.Sought s) {p : Nat} : s0.Sought (State.settle s p) := by
  unfold State.settle
  try dsimp only
  repeat' first | with_reducible assumption | with_reducible rfl | intro _ | with_reducible apply State.setPort_sought | with_reducible apply sought_ite | with_reducible apply sought_foldl | fail_if_no_progress with_reducible refine sought_mk ?_ rfl rfl rfl rfl | split | dsimp only | decide

theorem State.enqueue_sought (h : s0.Sought s) {p cls flow len : Nat} {result : Option (Nat × ResKey)} {body : FrameBody} : s0.Sought (State.enqueue s p cls flow len result body) := by
  unfold State.enqueue
  try dsimp only
  repeat' first | with_reducible assumption | with_reducible rfl | with_reducible apply State.settle_sought | with_reducible apply State.setPort_sought | with_reducible apply sought_ite | fail_if_no_progress with_reducible refine sought_mk ?_ rfl rfl rfl rfl | split | dsimp only | decide

theorem State.countHeld_sought (h : s0.Sought s) {p : Nat} : s0.Sought (State.countHeld s p) := by
  unfold State.countHeld
  try dsimp only
  repeat' first | with_reducible assumption | with_reducible rfl | intro _ | with_reducible apply State.setPort_sought | with_reducible apply State.bump_sought | with_reducible apply sought_ite | with_reducible apply sought_foldl | fail_if_no_progress with_reducible refine sought_mk ?_ rfl rfl rfl rfl | split | dsimp only | decide

theorem State.noteReturn_sought (h : s0.Sought s) {r : Result} : s0.Sought (State.noteReturn s r) := by
  unfold State.noteReturn
  try dsimp only
  repeat' first | with_reducible assumption | with_reducible rfl | intro _ | with_reducible apply State.bump_sought | with_reducible apply sought_ite | fail_if_no_progress with_reducible refine sought_mk ?_ rfl rfl rfl rfl | split | dsimp only | decide

theorem State.markStarted_sought (h : s0.Sought s) {p : Nat} {f : QFrame} : s0.Sought (State.markStarted s p f) := by
  unfold State.markStarted
  try dsimp only
  repeat' first | with_reducible assumption | with_reducible rfl | intro _ | with_reducible apply State.noteReturn_sought | with_reducible apply State.setPort_sought | with_reducible apply sought_ite | fail_if_no_progress with_reducible refine sought_mk ?_ rfl rfl rfl rfl | split | dsimp only | decide

theorem State.untrack_sought (h : s0.Sought s) {k : KeyRef} {reqId : Nat} : s0.Sought (State.untrack s k reqId) := by
  unfold State.untrack
  try dsimp only
  repeat' first | with_reducible assumption | with_reducible rfl | intro _ | with_reducible apply sought_ite | fail_if_no_progress with_reducible refine sought_mk ?_ rfl rfl rfl rfl | split | dsimp only | decide

theorem State.untrackFrame_sought (h : s0.Sought s) {f : QFrame} : s0.Sought (State.untrackFrame s f) := by
  unfold State.untrackFrame
  try dsimp only
  repeat' first | with_reducible assumption | with_reducible rfl | with_reducible apply State.untrack_sought | with_reducible apply sought_ite | fail_if_no_progress with_reducible refine sought_mk ?_ rfl rfl rfl rfl | split | dsimp only | decide

theorem State.pick_sought (h : s0.Sought s) {p : Nat} : s0.Sought (State.pick s p) := by
  unfold State.pick
  try dsimp only
  repeat' first | with_reducible assumption | with_reducible rfl | with_reducible apply State.settle_sought | with_reducible apply State.countHeld_sought | with_reducible apply State.setPort_sought | with_reducible apply State.markStarted_sought | with_reducible apply State.untrackFrame_sought | with_reducible apply sought_ite | fail_if_no_progress with_reducible refine sought_mk ?_ rfl rfl rfl rfl | split | dsimp only | decide

theorem State.send_sought (h : s0.Sought s) {p cls flow len : Nat} {result : Option (Nat × ResKey)} {body : FrameBody} : s0.Sought (State.send s p cls flow len result body) := by
  unfold State.send
  try dsimp only
  repeat' first | with_reducible assumption | with_reducible rfl | with_reducible apply State.enqueue_sought | with_reducible apply State.pick_sought | with_reducible apply sought_ite | split | dsimp only | decide

theorem State.sendSeg_sought (h : s0.Sought s) {d : Dest} {kind type status reason reqId : Nat} {response : Bool} {result : Option (Nat × ResKey)} {count len : Nat} {seg : Nat × List Byte} : s0.Sought (State.sendSeg s d kind type status reason reqId response result count len seg) := by
  unfold State.sendSeg
  try dsimp only
  repeat' first | with_reducible assumption | with_reducible rfl | with_reducible apply State.send_sought | with_reducible apply sought_ite | fail_if_no_progress with_reducible refine sought_mk ?_ rfl rfl rfl rfl | split | dsimp only | decide

theorem State.sendMsg_sought (h : s0.Sought s) {d : Dest} {kind type status reason reqId : Nat} {response : Bool} {result : Option (Nat × ResKey)} {body : List Byte} : s0.Sought (State.sendMsg s d kind type status reason reqId response result body) := by
  unfold State.sendMsg
  try dsimp only
  repeat' first | with_reducible assumption | with_reducible rfl | intro _ | with_reducible apply State.sendSeg_sought | with_reducible apply sought_ite | with_reducible apply sought_foldl | fail_if_no_progress with_reducible refine sought_mk ?_ rfl rfl rfl rfl | split | dsimp only | decide

theorem State.setRing_sought (h : s0.Sought s) {die : Nat} {l : List EvtRec} : s0.Sought (State.setRing s die l) := by
  unfold State.setRing
  try dsimp only
  repeat' first | with_reducible assumption | with_reducible rfl | with_reducible apply sought_ite | fail_if_no_progress with_reducible refine sought_mk ?_ rfl rfl rfl rfl | split | dsimp only | decide

theorem State.setAlerts_sought (h : s0.Sought s) {die : Nat} {l : List Nat} : s0.Sought (State.setAlerts s die l) := by
  unfold State.setAlerts
  try dsimp only
  repeat' first | with_reducible assumption | with_reducible rfl | with_reducible apply sought_ite | fail_if_no_progress with_reducible refine sought_mk ?_ rfl rfl rfl rfl | split | dsimp only | decide

theorem State.eventFrame_sought (h : s0.Sought s) {sub : Sub} {r : EvtRec} : s0.Sought (State.eventFrame s sub r) := by
  unfold State.eventFrame
  try dsimp only
  repeat' first | with_reducible assumption | with_reducible rfl | with_reducible apply State.sendMsg_sought | with_reducible apply sought_ite | fail_if_no_progress with_reducible refine sought_mk ?_ rfl rfl rfl rfl | split | dsimp only | decide

theorem State.ibi_sought (h : s0.Sought s) {byte : Nat} : s0.Sought (State.ibi s byte) := by
  unfold State.ibi
  try dsimp only
  repeat' first | with_reducible assumption | with_reducible rfl | with_reducible apply sought_ite | fail_if_no_progress with_reducible refine sought_mk ?_ rfl rfl rfl rfl | split | dsimp only | decide

theorem State.logEvent_sought (h : s0.Sought s) {die : Nat} {r : EvtRec} : s0.Sought (State.logEvent s die r) := by
  unfold State.logEvent
  try dsimp only
  repeat' first | with_reducible assumption | with_reducible rfl | with_reducible apply State.setRing_sought | with_reducible apply State.setFld_sought | with_reducible apply State.setAlerts_sought | with_reducible apply State.ibi_sought | with_reducible apply sought_ite | split | dsimp only | decide

theorem State.raise_sought (h : s0.Sought s) {die sub : Nat} {a : EvtArgs} : s0.Sought (State.raise s die sub a) := by
  unfold State.raise
  try dsimp only
  repeat' first | with_reducible assumption | with_reducible rfl | intro _ | with_reducible apply State.eventFrame_sought | with_reducible apply State.logEvent_sought | with_reducible apply sought_ite | with_reducible apply sought_foldl | split | dsimp only | decide

theorem State.setOnce_sought (h : s0.Sought s) {o : Once} : s0.Sought (State.setOnce s o) := by
  unfold State.setOnce
  try dsimp only
  repeat' first | with_reducible assumption | with_reducible rfl | intro _ | with_reducible apply sought_ite | fail_if_no_progress with_reducible refine sought_mk ?_ rfl rfl rfl rfl | split | dsimp only | decide

theorem State.raiseOnce_sought (h : s0.Sought s) {die sub item : Nat} {a : EvtArgs} : s0.Sought (State.raiseOnce s die sub item a) := by
  unfold State.raiseOnce
  try dsimp only
  repeat' first | with_reducible assumption | with_reducible rfl | with_reducible apply State.setOnce_sought | with_reducible apply State.raise_sought | with_reducible apply sought_ite | fail_if_no_progress with_reducible refine sought_mk ?_ rfl rfl rfl rfl | split | dsimp only | decide

theorem State.closeRec_sought (h : s0.Sought s) : s0.Sought (State.closeRec s) := by
  unfold State.closeRec
  try dsimp only
  repeat' first | with_reducible assumption | with_reducible rfl | with_reducible apply State.setFld_sought | with_reducible apply sought_ite | fail_if_no_progress with_reducible refine sought_mk ?_ rfl rfl rfl rfl | split | dsimp only | decide

theorem State.addRec_sought (h : s0.Sought s) {status port ctx ep len : Nat} {body : RecBody} : s0.Sought (State.addRec s status port ctx ep len body) := by
  unfold State.addRec
  try dsimp only
  repeat' first | with_reducible assumption | with_reducible rfl | with_reducible apply State.setFld_sought | with_reducible apply State.raiseOnce_sought | with_reducible apply State.closeRec_sought | with_reducible apply State.raise_sought | with_reducible apply State.setReg_sought | with_reducible apply sought_ite | fail_if_no_progress with_reducible refine sought_mk ?_ rfl rfl rfl rfl | split | dsimp only | decide

theorem State.diverge_sought (h : s0.Sought s) {msg : Nat} : s0.Sought (State.diverge s msg) := by
  unfold State.diverge
  try dsimp only
  repeat' first | with_reducible assumption | with_reducible rfl | with_reducible apply State.bump_sought | with_reducible apply State.setFld_sought | with_reducible apply State.raise_sought | with_reducible apply sought_ite | split | dsimp only | decide

theorem State.formed_sought (h : s0.Sought s) {msg port : Nat} {f : List Byte} : s0.Sought (State.formed s msg port f) := by
  unfold State.formed
  try dsimp only
  repeat' first | with_reducible assumption | with_reducible rfl | with_reducible apply State.addRec_sought | with_reducible apply State.diverge_sought | with_reducible apply sought_ite | fail_if_no_progress with_reducible refine sought_mk ?_ rfl rfl rfl rfl | split | dsimp only | decide

theorem State.formResult_sought (h : s0.Sought s) {r : Result} : s0.Sought (State.formResult s r) := by
  unfold State.formResult
  try dsimp only
  repeat' first | with_reducible assumption | with_reducible rfl | intro _ | with_reducible apply State.formed_sought | with_reducible apply sought_ite | fail_if_no_progress with_reducible refine sought_mk ?_ rfl rfl rfl rfl | split | dsimp only | decide

theorem State.formResults_sought (h : s0.Sought s) : s0.Sought (State.formResults s) := by
  unfold State.formResults
  try dsimp only
  repeat' first | with_reducible assumption | with_reducible rfl | intro _ | with_reducible apply State.formResult_sought | with_reducible apply sought_ite | with_reducible apply sought_foldl | split | dsimp only | decide

theorem State.noteBad_sought (h : s0.Sought s) {e : Env} {type reason : Nat} : s0.Sought (State.noteBad s e type reason) := by
  unfold State.noteBad
  try dsimp only
  repeat' first | with_reducible assumption | with_reducible rfl | with_reducible apply State.bump_sought | with_reducible apply State.setFld_sought | with_reducible apply State.raiseOnce_sought | with_reducible apply sought_ite | split | dsimp only | decide

theorem State.answer_sought (h : s0.Sought s) {e : Env} {type status reason : Nat} {body : List Byte} : s0.Sought (State.answer s e type status reason body) := by
  unfold State.answer
  try dsimp only
  repeat' first | with_reducible assumption | with_reducible rfl | with_reducible apply State.noteBad_sought | with_reducible apply State.sendMsg_sought | with_reducible apply State.untrack_sought | with_reducible apply sought_ite | fail_if_no_progress with_reducible refine sought_mk ?_ rfl rfl rfl rfl | split | dsimp only | decide

theorem State.takeReady_sought (h : s0.Sought s) {e : Env} : s0.Sought (State.takeReady s e) := by
  unfold State.takeReady
  try dsimp only
  repeat' first | with_reducible assumption | with_reducible rfl | intro _ | with_reducible apply sought_ite | fail_if_no_progress with_reducible refine sought_mk ?_ rfl rfl rfl rfl | split | dsimp only | decide

theorem State.track_sought (h : s0.Sought s) {e : Env} {type : Nat} {slot : Option Nat} : s0.Sought (State.track s e type slot) := by
  unfold State.track
  try dsimp only
  repeat' first | with_reducible assumption | with_reducible rfl | with_reducible apply sought_ite | fail_if_no_progress with_reducible refine sought_mk ?_ rfl rfl rfl rfl | split | dsimp only | decide

theorem State.unnumber_sought (h : s0.Sought s) {n : Nat} : s0.Sought (s.unnumber n) := by
  unfold State.unnumber
  refine sought_map h (fun x => ?_)
  split <;> rfl

theorem State.afterMessage_sought (h : s0.Sought s) {e : Env} {c : Instr} : s0.Sought (State.afterMessage s e c) := by
  unfold State.afterMessage
  try dsimp only
  repeat' first | with_reducible assumption | with_reducible rfl | with_reducible apply State.addRec_sought | with_reducible apply State.unnumber_sought | with_reducible apply State.formed_sought | with_reducible apply sought_ite | fail_if_no_progress with_reducible refine sought_mk ?_ rfl rfl rfl rfl | split | dsimp only | decide

theorem State.dataCheck_sought (h : s0.Sought s) {die addr : Nat} : s0.Sought (State.dataCheck s die addr) := by
  unfold State.dataCheck
  try dsimp only
  repeat' first | with_reducible assumption | with_reducible rfl | with_reducible apply State.raise_sought | with_reducible apply sought_ite | split | dsimp only | decide

theorem State.quotaTest_sought (h : s0.Sought s) {die ctx tier : Nat} : s0.Sought (State.quotaTest s die ctx tier) := by
  unfold State.quotaTest
  try dsimp only
  repeat' first | with_reducible assumption | with_reducible rfl | with_reducible apply State.setFld_sought | with_reducible apply State.raise_sought | with_reducible apply sought_ite | fail_if_no_progress with_reducible refine sought_mk ?_ rfl rfl rfl rfl | split | dsimp only | decide

theorem State.setUse_sought (h : s0.Sought s) {die ctx tier g : Nat} : s0.Sought (State.setUse s die ctx tier g) := by
  unfold State.setUse
  try dsimp only
  repeat' first | with_reducible assumption | with_reducible rfl | with_reducible apply State.setReg_sought | with_reducible apply State.quotaTest_sought | with_reducible apply sought_ite | split | dsimp only | decide

theorem State.evictTest_sought (h : s0.Sought s) {die tier : Nat} : s0.Sought (State.evictTest s die tier) := by
  unfold State.evictTest
  try dsimp only
  repeat' first | with_reducible assumption | with_reducible rfl | with_reducible apply sought_ite | fail_if_no_progress with_reducible refine sought_mk ?_ rfl rfl rfl rfl | split | dsimp only | decide

theorem State.alloc_sought (h : s0.Sought s) {die tier ctx g : Nat} : s0.Sought (State.alloc s die tier ctx g) := by
  unfold State.alloc
  try dsimp only
  repeat' first | with_reducible assumption | with_reducible rfl | with_reducible apply State.setUse_sought | with_reducible apply State.setPoolFree_sought | with_reducible apply State.evictTest_sought | with_reducible apply sought_ite | split | dsimp only | decide

theorem State.dealloc_sought (h : s0.Sought s) {die tier ctx g : Nat} : s0.Sought (State.dealloc s die tier ctx g) := by
  unfold State.dealloc
  try dsimp only
  repeat' first | with_reducible assumption | with_reducible rfl | with_reducible apply State.setUse_sought | with_reducible apply State.setPoolFree_sought | with_reducible apply State.evictTest_sought | with_reducible apply sought_ite | split | dsimp only | decide

theorem State.shootdown_sought (h : s0.Sought s) {die vun : Nat} : s0.Sought (State.shootdown s die vun) := by
  unfold State.shootdown
  try dsimp only
  repeat' first | with_reducible assumption | with_reducible rfl | intro _ | with_reducible apply State.bump_sought | with_reducible apply sought_ite | fail_if_no_progress with_reducible refine sought_mk ?_ rfl rfl rfl rfl | split | dsimp only | decide

theorem State.setSeg_sought (h : s0.Sought s) {x : Seg} : s0.Sought (State.setSeg s x) := by
  unfold State.setSeg
  try dsimp only
  repeat' first | with_reducible assumption | with_reducible rfl | intro _ | with_reducible apply sought_ite | fail_if_no_progress with_reducible refine sought_mk ?_ rfl rfl rfl rfl | split | dsimp only | decide

theorem State.openSeg_sought (h : s0.Sought s) {die group kind : Nat} : SomeP s0.Sought (State.openSeg s die group kind) := by
  unfold State.openSeg
  try dsimp only
  repeat' first | with_reducible assumption | with_reducible rfl | with_reducible exact somep_none | with_reducible apply somep_some | with_reducible apply State.setSeg_sought | with_reducible apply State.raiseOnce_sought | with_reducible apply sought_ite | fail_if_no_progress with_reducible refine sought_mk ?_ rfl rfl rfl rfl | split | dsimp only | decide

theorem State.settleSeg_sought (h : s0.Sought s) {x : Seg} : s0.Sought (State.settleSeg s x) := by
  unfold State.settleSeg
  try dsimp only
  repeat' first | with_reducible assumption | with_reducible rfl | with_reducible apply State.setSeg_sought | with_reducible apply sought_ite | fail_if_no_progress with_reducible refine sought_mk ?_ rfl rfl rfl rfl | split | dsimp only | decide

theorem State.bufferStripes_sought (h : s0.Sought s) {x : Seg} {a b : Nat} : s0.Sought (State.bufferStripes s x a b) := by
  unfold State.bufferStripes
  try dsimp only
  repeat' first | with_reducible assumption | with_reducible rfl | intro _ | with_reducible apply sought_ite | with_reducible apply sought_foldl | fail_if_no_progress with_reducible refine sought_mk ?_ rfl rfl rfl rfl | split | dsimp only | decide

theorem State.placeIn_sought (h : s0.Sought s) {x : Seg} {align size : Nat} {o : Owner} : s0.Sought (State.placeIn s x align size o).1 := by
  unfold State.placeIn
  try dsimp only
  repeat' first | with_reducible assumption | with_reducible rfl | with_reducible apply State.setSeg_sought | with_reducible apply State.bufferStripes_sought | with_reducible apply sought_ite | fail_if_no_progress with_reducible refine sought_mk ?_ rfl rfl rfl rfl | split | dsimp only | decide

theorem State.place_sought (h : s0.Sought s) {die group kind align size : Nat} {o : Owner} : SomeP s0.Sought (State.place s die group kind align size o) := by
  unfold State.place
  try dsimp only
  repeat' first | with_reducible assumption | with_reducible rfl | with_reducible exact somep_none | with_reducible apply somep_some | with_reducible apply State.placeIn_sought | with_reducible apply State.settleSeg_sought | with_reducible apply State.openSeg_sought | with_reducible apply sought_ite | fail_if_no_progress with_reducible refine sought_mk ?_ rfl rfl rfl rfl | refine pair_of (P := s0.Sought) (by assumption) ?_ | refine somep_of (P := s0.Sought) (by assumption) ?_ | split | dsimp only | decide

theorem State.releaseT2_sought (h : s0.Sought s) {die loc : Nat} : s0.Sought (State.releaseT2 s die loc) := by
  unfold State.releaseT2
  try dsimp only
  repeat' first | with_reducible assumption | with_reducible rfl | intro _ | with_reducible apply State.settleSeg_sought | with_reducible apply sought_ite | fail_if_no_progress with_reducible refine sought_mk ?_ rfl rfl rfl rfl | split | dsimp only | decide

theorem State.noteT2Read_sought (h : s0.Sought s) {die group n : Nat} {x0 : ReadOutcome} : s0.Sought (State.noteT2Read s die group n x0) := by
  unfold State.noteT2Read
  try dsimp only
  repeat' first | with_reducible assumption | with_reducible rfl | with_reducible apply State.bump_sought | with_reducible apply State.setSeg_sought | with_reducible apply State.raiseOnce_sought | with_reducible apply State.raise_sought | with_reducible apply sought_ite | fail_if_no_progress with_reducible refine sought_mk ?_ rfl rfl rfl rfl | split | dsimp only | decide

theorem State.noteT2At_sought (h : s0.Sought s) {die loc : Nat} {o : ReadOutcome} : s0.Sought (State.noteT2At s die loc o) := by
  unfold State.noteT2At
  try dsimp only
  repeat' first | with_reducible assumption | with_reducible rfl | with_reducible apply State.noteT2Read_sought | with_reducible apply sought_ite | split | dsimp only | decide

theorem State.lateAnswer_sought (h : s0.Sought s) {e : Env} {type n status : Nat} {body : List Byte} : s0.Sought (State.lateAnswer s e type n status body) := by
  unfold State.lateAnswer
  try dsimp only
  repeat' first | with_reducible assumption | with_reducible rfl | with_reducible apply State.answer_sought | with_reducible apply State.formed_sought | with_reducible apply sought_ite | fail_if_no_progress with_reducible refine sought_mk ?_ rfl rfl rfl rfl | split | dsimp only | decide

end Sys2Proof.Machine
end

