-- ==== Sys2Proof/Laws/Said.lean ====
section
/-! SUPPORT. What leaves the last answer and the sessions alone. -/

namespace Sys2Proof.Machine

/-- `b` has the last answer and the session records of `a`. -/
structure State.Said (a b : State) : Prop where
  answered : b.rp.answered = a.rp.answered
  sess : b.ses.recs = a.ses.recs

variable {s0 s t : State}

theorem said_refl (s : State) : s.Said s := ⟨rfl, rfl⟩

theorem said_trans (h : s0.Said s) (h' : s.Said t) : s0.Said t :=
  ⟨h'.answered.trans h.answered, h'.sess.trans h.sess⟩

/-- A change elsewhere. -/
theorem said_mk (h : s0.Said s) {now : Nat} {pending : List Instr} {free : Nat} {regs : List (RegKey × Word)} {bcn : Beacon}
    {ev : Events} {ses : Sessions} {kv : Kv} {attn : Attn} {grams : List ((Nat × Nat) × Gram)} {net : Net} {lamp : Lamp}
    {tier : Tier} {start : Start} {flash : Flash} {ident : Ident} {ckpt : Ckpt} {health : Health} {rp : Replay} {pins : Pins}
    (e0 : rp.answered = s.rp.answered) (e1 : ses.recs = s.ses.recs) :
    s0.Said ⟨now, pending, free, regs, bcn, ev, ses, kv, attn, grams, net, lamp, tier, start, flash, ident, ckpt, health, rp,
      pins⟩ := ⟨e0.trans h.answered, e1.trans h.sess⟩

theorem said_ite {c : Prop} [Decidable c] (h : s0.Said s) (h' : s0.Said t) : s0.Said (if c then s else t) := by
  split <;> assumption

theorem said_foldl {α : Type} {f : State → α → State} (hf : ∀ s x, s0.Said s → s0.Said (f s x)) (l : List α)
    (h : s0.Said s) : s0.Said (l.foldl f s) := by
  induction l generalizing s with
  | nil => exact h
  | cons x l ih => exact ih (hf s x h)

theorem State.setReg_said (h : s0.Said s) {die sel : Nat} {r : RegId} {w : Word} : s0.Said (s.setReg die sel r w) := said_mk h rfl rfl
theorem State.setFld_said (h : s0.Said s) {die sel : Nat} {f : Field} {v : Nat} : s0.Said (s.setFld die sel f v) := said_mk h rfl rfl
theorem State.bumpBy_said (h : s0.Said s) {die sel : Nat} {f : Field} {n : Nat} : s0.Said (s.bumpBy die sel f n) := said_mk h rfl rfl
theorem State.bump_said (h : s0.Said s) {die sel : Nat} {f : Field} : s0.Said (s.bump die sel f) := said_mk h rfl rfl
theorem State.lower_said (h : s0.Said s) {die sel : Nat} {f : Field} {n : Nat} : s0.Said (s.lower die sel f n) := said_mk h rfl rfl
theorem State.setPort_said (h : s0.Said s) {p : Nat} {x : Port} : s0.Said (s.setPort p x) := said_mk h rfl rfl
theorem State.setPoolFree_said (h : s0.Said s) {die tier n : Nat} : s0.Said (s.setPoolFree die tier n) := by
  unfold State.setPoolFree
  dsimp only
  exact State.setReg_said h

set_option linter.unusedTactic false
set_option linter.unreachableTactic false

theorem State.settle_said (h : s0.Said s) {p : Nat} : s0.Said (State.settle s p) := by
  unfold State.settle
  try dsimp only
  repeat' first | with_reducible assumption | with_reducible rfl | intro _ | with_reducible apply State.setPort_said | with_reducible apply said_ite | with_reducible apply said_foldl | fail_if_no_progress with_reducible refine said_mk ?_ rfl rfl | split | dsimp only | decide

theorem State.enqueue_said (h : s0.Said s) {p cls flow len : Nat} {result : Option (Nat × ResKey)} {body : FrameBody} : s0.Said (State.enqueue s p cls flow len result body) := by
  unfold State.enqueue
  try dsimp only
  repeat' first | with_reducible assumption | with_reducible rfl | with_reducible apply State.settle_said | with_reducible apply State.setPort_said | with_reducible apply said_ite | fail_if_no_progress with_reducible refine said_mk ?_ rfl rfl | split | dsimp only | decide

theorem State.countHeld_said (h : s0.Said s) {p : Nat} : s0.Said (State.countHeld s p) := by
  unfold State.countHeld
  try dsimp only
  repeat' first | with_reducible assumption | with_reducible rfl | intro _ | with_reducible apply State.setPort_said | with_reducible apply State.bump_said | with_reducible apply said_ite | with_reducible apply said_foldl | fail_if_no_progress with_reducible refine said_mk ?_ rfl rfl | split | dsimp only | decide

theorem State.noteReturn_said (h : s0.Said s) {r : Result} : s0.Said (State.noteReturn s r) := by
  unfold State.noteReturn
  try dsimp only
  repeat' first | with_reducible assumption | with_reducible rfl | intro _ | with_reducible apply State.bump_said | with_reducible apply said_ite | fail_if_no_progress with_reducible refine said_mk ?_ rfl rfl | split | dsimp only | decide

theorem State.markStarted_said (h : s0.Said s) {p : Nat} {f : QFrame} : s0.Said (State.markStarted s p f) := by
  unfold State.markStarted
  try dsimp only
  repeat' first | with_reducible assumption | with_reducible rfl | intro _ | with_reducible apply State.noteReturn_said | with_reducible apply State.setPort_said | with_reducible apply said_ite | fail_if_no_progress with_reducible refine said_mk ?_ rfl rfl | split | dsimp only | decide

theorem State.untrack_said (h : s0.Said s) {k : KeyRef} {reqId : Nat} : s0.Said (State.untrack s k reqId) := by
  unfold State.untrack
  try dsimp only
  repeat' first | with_reducible assumption | with_reducible rfl | intro _ | with_reducible apply said_ite | fail_if_no_progress with_reducible refine said_mk ?_ rfl rfl | split | dsimp only | decide

theorem State.untrackFrame_said (h : s0.Said s) {f : QFrame} : s0.Said (State.untrackFrame s f) := by
  unfold State.untrackFrame
  try dsimp only
  repeat' first | with_reducible assumption | with_reducible rfl | with_reducible apply State.untrack_said | with_reducible apply said_ite | fail_if_no_progress with_reducible refine said_mk ?_ rfl rfl | split | dsimp only | decide

theorem State.pick_said (h : s0.Said s) {p : Nat} : s0.Said (State.pick s p) := by
  unfold State.pick
  try dsimp only
  repeat' first | with_reducible assumption | with_reducible rfl | with_reducible apply State.settle_said | with_reducible apply State.countHeld_said | with_reducible apply State.setPort_said | with_reducible apply State.markStarted_said | with_reducible apply State.untrackFrame_said | with_reducible apply said_ite | fail_if_no_progress with_reducible refine said_mk ?_ rfl rfl | split | dsimp only | decide

theorem State.send_said (h : s0.Said s) {p cls flow len : Nat} {result : Option (Nat × ResKey)} {body : FrameBody} : s0.Said (State.send s p cls flow len result body) := by
  unfold State.send
  try dsimp only
  repeat' first | with_reducible assumption | with_reducible rfl | with_reducible apply State.enqueue_said | with_reducible apply State.pick_said | with_reducible apply said_ite | split | dsimp only | decide

theorem State.sendSeg_said (h : s0.Said s) {d : Dest} {kind type status reason reqId : Nat} {response : Bool} {result : Option (Nat × ResKey)} {count len : Nat} {seg : Nat × List Byte} : s0.Said (State.sendSeg s d kind type status reason reqId response result count len seg) := by
  unfold State.sendSeg
  try dsimp only
  repeat' first | with_reducible assumption | with_reducible rfl | with_reducible apply State.send_said | with_reducible apply said_ite | fail_if_no_progress with_reducible refine said_mk ?_ rfl rfl | split | dsimp only | decide

theorem State.sendMsg_said (h : s0.Said s) {d : Dest} {kind type status reason reqId : Nat} {response : Bool} {result : Option (Nat × ResKey)} {body : List Byte} : s0.Said (State.sendMsg s d kind type status reason reqId response result body) := by
  unfold State.sendMsg
  try dsimp only
  repeat' first | with_reducible assumption | with_reducible rfl | intro _ | with_reducible apply State.sendSeg_said | with_reducible apply said_ite | with_reducible apply said_foldl | fail_if_no_progress with_reducible refine said_mk ?_ rfl rfl | split | dsimp only | decide

theorem State.setRing_said (h : s0.Said s) {die : Nat} {l : List EvtRec} : s0.Said (State.setRing s die l) := by
  unfold State.setRing
  try dsimp only
  repeat' first | with_reducible assumption | with_reducible rfl | with_reducible apply said_ite | fail_if_no_progress with_reducible refine said_mk ?_ rfl rfl | split | dsimp only | decide

theorem State.setAlerts_said (h : s0.Said s) {die : Nat} {l : List Nat} : s0.Said (State.setAlerts s die l) := by
  unfold State.setAlerts
  try dsimp only
  repeat' first | with_reducible assumption | with_reducible rfl | with_reducible apply said_ite | fail_if_no_progress with_reducible refine said_mk ?_ rfl rfl | split | dsimp only | decide

theorem State.eventFrame_said (h : s0.Said s) {sub : Sub} {r : EvtRec} : s0.Said (State.eventFrame s sub r) := by
  unfold State.eventFrame
  try dsimp only
  repeat' first | with_reducible assumption | with_reducible rfl | with_reducible apply State.sendMsg_said | with_reducible apply said_ite | fail_if_no_progress with_reducible refine said_mk ?_ rfl rfl | split | dsimp only | decide

theorem State.ibi_said (h : s0.Said s) {byte : Nat} : s0.Said (State.ibi s byte) := by
  unfold State.ibi
  try dsimp only
  repeat' first | with_reducible assumption | with_reducible rfl | with_reducible apply said_ite | fail_if_no_progress with_reducible refine said_mk ?_ rfl rfl | split | dsimp only | decide

theorem State.logEvent_said (h : s0.Said s) {die : Nat} {r : EvtRec} : s0.Said (State.logEvent s die r) := by
  unfold State.logEvent
  try dsimp only
  repeat' first | with_reducible assumption | with_reducible rfl | with_reducible apply State.setRing_said | with_reducible apply State.setFld_said | with_reducible apply State.setAlerts_said | with_reducible apply State.ibi_said | with_reducible apply said_ite | split | dsimp only | decide

theorem State.raise_said (h : s0.Said s) {die sub : Nat} {a : EvtArgs} : s0.Said (State.raise s die sub a) := by
  unfold State.raise
  try dsimp only
  repeat' first | with_reducible assumption | with_reducible rfl | intro _ | with_reducible apply State.eventFrame_said | with_reducible apply State.logEvent_said | with_reducible apply said_ite | with_reducible apply said_foldl | split | dsimp only | decide

theorem State.setOnce_said (h : s0.Said s) {o : Once} : s0.Said (State.setOnce s o) := by
  unfold State.setOnce
  try dsimp only
  repeat' first | with_reducible assumption | with_reducible rfl | intro _ | with_reducible apply said_ite | fail_if_no_progress with_reducible refine said_mk ?_ rfl rfl | split | dsimp only | decide

theorem State.raiseOnce_said (h : s0.Said s) {die sub item : Nat} {a : EvtArgs} : s0.Said (State.raiseOnce s die sub item a) := by
  unfold State.raiseOnce
  try dsimp only
  repeat' first | with_reducible assumption | with_reducible rfl | with_reducible apply State.setOnce_said | with_reducible apply State.raise_said | with_reducible apply said_ite | fail_if_no_progress with_reducible refine said_mk ?_ rfl rfl | split | dsimp only | decide

theorem State.closeRec_said (h : s0.Said s) : s0.Said (State.closeRec s) := by
  unfold State.closeRec
  try dsimp only
  repeat' first | with_reducible assumption | with_reducible rfl | with_reducible apply State.setFld_said | with_reducible apply said_ite | fail_if_no_progress with_reducible refine said_mk ?_ rfl rfl | split | dsimp only | decide

theorem State.addRec_said (h : s0.Said s) {status port ctx ep len : Nat} {body : RecBody} : s0.Said (State.addRec s status port ctx ep len body) := by
  unfold State.addRec
  try dsimp only
  repeat' first | with_reducible assumption | with_reducible rfl | with_reducible apply State.setFld_said | with_reducible apply State.raiseOnce_said | with_reducible apply State.closeRec_said | with_reducible apply State.raise_said | with_reducible apply State.setReg_said | with_reducible apply said_ite | fail_if_no_progress with_reducible refine said_mk ?_ rfl rfl | split | dsimp only | decide

theorem State.diverge_said (h : s0.Said s) {msg : Nat} : s0.Said (State.diverge s msg) := by
  unfold State.diverge
  try dsimp only
  repeat' first | with_reducible assumption | with_reducible rfl | with_reducible apply State.bump_said | with_reducible apply State.setFld_said | with_reducible apply State.raise_said | with_reducible apply said_ite | split | dsimp only | decide

theorem State.formed_said (h : s0.Said s) {msg port : Nat} {f : List Byte} : s0.Said (State.formed s msg port f) := by
  unfold State.formed
  try dsimp only
  repeat' first | with_reducible assumption | with_reducible rfl | with_reducible apply State.addRec_said | with_reducible apply State.diverge_said | with_reducible apply said_ite | fail_if_no_progress with_reducible refine said_mk ?_ rfl rfl | split | dsimp only | decide

theorem State.formResult_said (h : s0.Said s) {r : Result} : s0.Said (State.formResult s r) := by
  unfold State.formResult
  try dsimp only
  repeat' first | with_reducible assumption | with_reducible rfl | intro _ | with_reducible apply State.formed_said | with_reducible apply said_ite | fail_if_no_progress with_reducible refine said_mk ?_ rfl rfl | split | dsimp only | decide

theorem State.formResults_said (h : s0.Said s) : s0.Said (State.formResults s) := by
  unfold State.formResults
  try dsimp only
  repeat' first | with_reducible assumption | with_reducible rfl | intro _ | with_reducible apply State.formResult_said | with_reducible apply said_ite | with_reducible apply said_foldl | split | dsimp only | decide

theorem State.unnumber_said (h : s0.Said s) {n : Nat} : s0.Said (State.unnumber s n) := by
  unfold State.unnumber
  try dsimp only
  repeat' first | with_reducible assumption | with_reducible rfl | intro _ | with_reducible apply said_ite | fail_if_no_progress with_reducible refine said_mk ?_ rfl rfl | split | dsimp only | decide

theorem State.afterMessage_said (h : s0.Said s) {e : Env} {c : Instr} : s0.Said (State.afterMessage s e c) := by
  unfold State.afterMessage
  try dsimp only
  repeat' first | with_reducible assumption | with_reducible rfl | with_reducible apply State.addRec_said | with_reducible apply State.unnumber_said | with_reducible apply State.formed_said | with_reducible apply said_ite | fail_if_no_progress with_reducible refine said_mk ?_ rfl rfl | split | dsimp only | decide

theorem State.quotaTest_said (h : s0.Said s) {die ctx tier : Nat} : s0.Said (State.quotaTest s die ctx tier) := by
  unfold State.quotaTest
  try dsimp only
  repeat' first | with_reducible assumption | with_reducible rfl | with_reducible apply State.setFld_said | with_reducible apply State.raise_said | with_reducible apply said_ite | fail_if_no_progress with_reducible refine said_mk ?_ rfl rfl | split | dsimp only | decide

theorem State.setUse_said (h : s0.Said s) {die ctx tier g : Nat} : s0.Said (State.setUse s die ctx tier g) := by
  unfold State.setUse
  try dsimp only
  repeat' first | with_reducible assumption | with_reducible rfl | with_reducible apply State.setReg_said | with_reducible apply State.quotaTest_said | with_reducible apply said_ite | split | dsimp only | decide

theorem State.evictTest_said (h : s0.Said s) {die tier : Nat} : s0.Said (State.evictTest s die tier) := by
  unfold State.evictTest
  try dsimp only
  repeat' first | with_reducible assumption | with_reducible rfl | with_reducible apply said_ite | fail_if_no_progress with_reducible refine said_mk ?_ rfl rfl | split | dsimp only | decide

theorem State.alloc_said (h : s0.Said s) {die tier ctx g : Nat} : s0.Said (State.alloc s die tier ctx g) := by
  unfold State.alloc
  try dsimp only
  repeat' first | with_reducible assumption | with_reducible rfl | with_reducible apply State.setUse_said | with_reducible apply State.setPoolFree_said | with_reducible apply State.evictTest_said | with_reducible apply said_ite | split | dsimp only | decide

theorem State.dealloc_said (h : s0.Said s) {die tier ctx g : Nat} : s0.Said (State.dealloc s die tier ctx g) := by
  unfold State.dealloc
  try dsimp only
  repeat' first | with_reducible assumption | with_reducible rfl | with_reducible apply State.setUse_said | with_reducible apply State.setPoolFree_said | with_reducible apply State.evictTest_said | with_reducible apply said_ite | split | dsimp only | decide

theorem State.setSeg_said (h : s0.Said s) {x : Seg} : s0.Said (State.setSeg s x) := by
  unfold State.setSeg
  try dsimp only
  repeat' first | with_reducible assumption | with_reducible rfl | intro _ | with_reducible apply said_ite | fail_if_no_progress with_reducible refine said_mk ?_ rfl rfl | split | dsimp only | decide

theorem State.settleSeg_said (h : s0.Said s) {x : Seg} : s0.Said (State.settleSeg s x) := by
  unfold State.settleSeg
  try dsimp only
  repeat' first | with_reducible assumption | with_reducible rfl | with_reducible apply State.setSeg_said | with_reducible apply said_ite | fail_if_no_progress with_reducible refine said_mk ?_ rfl rfl | split | dsimp only | decide

theorem State.releaseT2_said (h : s0.Said s) {die loc : Nat} : s0.Said (State.releaseT2 s die loc) := by
  unfold State.releaseT2
  try dsimp only
  repeat' first | with_reducible assumption | with_reducible rfl | intro _ | with_reducible apply State.settleSeg_said | with_reducible apply said_ite | fail_if_no_progress with_reducible refine said_mk ?_ rfl rfl | split | dsimp only | decide

end Sys2Proof.Machine
end

