-- ==== Sys2Proof/Laws/FlashCmds.lean ====
section
/-! SUPPORT. What the commands of the flash and of the vector search come to. -/

namespace Sys2Proof.Machine

variable {s s0 t : State}

theorem padStripe_stripes (s : State) (y : Stripe) : (s.padStripe y).flash.stripes
    = s.flash.stripes.map (fun (v : Stripe) => if v = y then { v with ready := true } else v) ∧ (s.padStripe y).kv = s.kv := by
  unfold State.padStripe
  exact ⟨rfl, rfl⟩

theorem padStripes (l : List Stripe) (hl : ∀ y ∈ l, y.ready = false) : ∀ s : State, (l.foldl (fun s y => s.padStripe y) s).flash.stripes
    = s.flash.stripes.map (fun (v : Stripe) => if v ∈ l then { v with ready := true } else v) ∧ (l.foldl (fun s y => s.padStripe y) s).kv = s.kv := by
  induction l with
  | nil => exact fun s => ⟨by simp, rfl⟩
  | cons a l ih =>
    intro s
    obtain ⟨h1, h2⟩ := padStripe_stripes s a
    obtain ⟨i1, i2⟩ := ih (fun y hy => hl y (List.mem_cons_of_mem _ hy)) (s.padStripe a)
    refine ⟨?_, i2.trans h2⟩
    rw [List.foldl_cons, i1, h1, List.map_map]
    refine List.map_congr_left fun v _ => ?_
    show (if (if v = a then { v with ready := true } else v) ∈ l then _ else _) = _
    by_cases e : v = a
    · subst e
      have hn : ({ v with ready := true } : Stripe) ∉ l := fun hm => by
        have := hl _ (List.mem_cons_of_mem _ hm)
        cases this
      rw [if_pos rfl, if_neg hn, if_pos (List.mem_cons_self ..)]
    · simp only [List.mem_cons, false_or, e, if_false]

theorem seg_setSeg (s : State) (x : Seg) : (s.setSeg x).seg x.die x.group x.seg = x := by
  unfold State.setSeg State.seg
  dsimp only
  rw [List.find?_cons_of_pos (by simp)]
  rfl

theorem seg_setSeg' (s : State) (x : Seg) {die group n : Nat} (h1 : x.die = die) (h2 : x.group = group) (h3 : x.seg = n) :
    (s.setSeg x).seg die group n = x := by
  subst h1 h2 h3
  exact seg_setSeg s x

theorem seg_at (s : State) (die group n : Nat) : (s.seg die group n).die = die ∧ (s.seg die group n).group = group ∧ (s.seg die group n).seg = n := by
  unfold State.seg
  cases h : s.flash.segs.find? (fun x => x.die == die && x.group == group && x.seg == n) with
  | none => exact ⟨rfl, rfl, rfl⟩
  | some x =>
    have := List.find?_some h
    simp only [Bool.and_eq_true, beq_iff_eq] at this
    exact ⟨this.1.1, this.1.2, this.2⟩

theorem seg_of (h : t.flash.segs = s.flash.segs) (die group n : Nat) : t.seg die group n = s.seg die group n := by
  unfold State.seg
  rw [h]

theorem raise_flash (s : State) (die sub : Nat) (x : EvtArgs) : (s.raise die sub x).flash = s.flash ∧ (s.raise die sub x).kv = s.kv :=
  ⟨(State.raise_reported (reported_refl s)).flash, (State.raise_reported (reported_refl s)).kv⟩

theorem degradeFlash_fld (s : State) (die i : Nat) (hi : i < 16) (h0 : s.fld die 0 Fld.WK_DEGRADE_DEGRADED < 2 ^ 16) :
    (s.degradeFlash die i).fld die 0 Fld.WK_DEGRADE_DEGRADED
      = if s.fld die 0 Fld.WK_DEGRADE_DEGRADED / 2 ^ (i / 8 * 8) % 256 = 0 then s.fld die 0 Fld.WK_DEGRADE_DEGRADED + 2 ^ i
        else s.fld die 0 Fld.WK_DEGRADE_DEGRADED := by
  unfold State.degradeFlash
  dsimp only
  generalize ho : s.fld die 0 Fld.WK_DEGRADE_DEGRADED = old at h0 ⊢
  split
  · rename_i h
    rw [if_neg]
    · exact ho
    · interval_cases i <;> omega
  · split
    · rename_i h
      rw [raise_fld _ _ _ _ _ _ (by decide)]
      exact ho
    · rename_i h1 h
      rw [if_pos (by omega), raise_fld _ _ _ _ _ _ (by decide)]
      unfold State.setMap
      rw [fld_setReg_ne _ _ (.inr (.inr (by unfold mapReg; simp [Reg.WK_DEGRADE]))), fld_setFld_self _ _ _ _ _ (by decide) (by decide)]
      refine Nat.mod_eq_of_lt ?_
      show old + 2 ^ i < 2 ^ 16
      interval_cases i <;> omega

theorem degradeFlashOne (s : State) (die i : Nat) (v : Word) (hi : i < 16) (hv : v.toNat = 2 ^ i) :
    s.wkDegradeEffect die v = s.degradeFlash die i := by
  unfold State.wkDegradeEffect
  rw [hv]
  have : ∀ j, (2 ^ i / 2 ^ j % 2 = 1) ↔ j = i := by
    intro j
    have := Nat.testBit_two_pow (n := i) (m := j)
    rw [Nat.testBit_eq_decide_div_mod_eq] at this
    rw [show (2 ^ i / 2 ^ j % 2 = 1) ↔ i = j from ⟨fun h => by simpa [h] using this, fun h => by simp [h] at this ⊢⟩]
    exact eq_comm
  simp only [this]
  have h8 : List.range 16 = [0, 1, 2, 3, 4, 5, 6, 7, 8, 9, 10, 11, 12, 13, 14, 15] := rfl
  rw [h8]
  simp only [List.foldl_cons, List.foldl_nil]
  interval_cases i <;> simp

theorem fld_lt (s : State) (die sel : Nat) (f : Field) : s.fld die sel f < 2 ^ (f.hi - f.lo + 1) := by
  unfold State.fld getBits
  exact Nat.mod_lt _ (Nat.two_pow_pos _)

theorem relocate_sought (h : s0.Sought s) {die : Nat} {u : UnitRef} {a b : Nat} : s0.Sought (s.relocate die (.unit u) a b) := by
  unfold State.relocate
  dsimp only
  have h1 : s0.Sought ({ s with tier := { s.tier with moves := s.tier.moves.map (fun (m : Move) =>
      if m.die = die ∧ m.unit = u ∧ m.dst = 2 ∧ m.loc = a then { m with loc := b }
      else if m.die = die ∧ m.unit = u ∧ m.src = 2 ∧ m.srcLoc = a then { m with srcLoc := b } else m) } } : State) := sought_mk h rfl rfl rfl rfl
  revert h1
  generalize ({ s with tier := { s.tier with moves := s.tier.moves.map (fun (m : Move) =>
      if m.die = die ∧ m.unit = u ∧ m.dst = 2 ∧ m.loc = a then { m with loc := b }
      else if m.die = die ∧ m.unit = u ∧ m.src = 2 ∧ m.srcLoc = a then { m with srcLoc := b } else m) } } : State) = w
  intro h1
  have hr : s0.Sought (w.retarget u 2 b) := by
    unfold State.retarget
    split <;> (dsimp only; split <;> first | exact h1 | exact sought_mk h1 rfl rfl rfl rfl)
  split
  · split
    · exact State.shootdown_sought hr
    · exact h1
  · exact h1

/-- Collecting changes neither the list of collections. -/
theorem replace_gcs (s : State) (die group n kind : Nat) (e : SumEnt) : (s.replace die group n kind e).flash.gcs = s.flash.gcs := by
  unfold State.replace
  split
  · rfl
  · rename_i w loc h
    have hw : s.Sought w := somep_of h (State.place_sought (sought_refl s))
    have h2 : ∀ v : State, (v.releaseT2 die (w.t2Loc (w.seg die group n) e.first)).flash.gcs = v.flash.gcs := fun v =>
      (State.releaseT2_sought (sought_refl v)).gcs
    dsimp only
    rw [h2]
    cases ho : e.owner with
    | unit u => exact (relocate_sought hw).gcs
    | index a b c => exact hw.gcs

theorem collect_gcs (l : List SumEnt) (die group n : Nat) : ∀ p : State × Nat,
    (l.foldl (fun p e => collectEntry die group n p e) p).1.flash.gcs = p.1.flash.gcs := by
  induction l with
  | nil => exact fun _ => rfl
  | cons e l ih =>
    intro p
    refine (ih _).trans ?_
    unfold collectEntry
    dsimp only
    split
    · rfl
    · exact replace_gcs ..

theorem index_at {die num : Nat} {x : Index} (h : s.index die num = some x) : x.die = die ∧ x.num = num := by
  have := List.find?_some h
  simp only [Bool.and_eq_true, beq_iff_eq] at this
  exact this

theorem index_of (h : t.flash.indexes = s.flash.indexes) (die num : Nat) : t.index die num = s.index die num := by
  unfold State.index
  rw [h]

theorem index_setIndex (s : State) (x : Index) {die num : Nat} (h1 : x.die = die) (h2 : x.num = num) : (s.setIndex x).index die num = some x := by
  subst h1 h2
  unfold State.setIndex State.index
  dsimp only
  exact List.find?_cons_of_pos (by simp)

theorem foldl_sought {α : Type} {f : State → α → State} (hf : ∀ s x, State.Sought s (f s x)) (l : List α) : ∀ s : State, s.Sought (l.foldl f s) := by
  induction l with
  | nil => exact fun s => sought_refl s
  | cons x l ih => exact fun s => sought_trans (hf s x) (ih _)

theorem dropGen_sought (s : State) (x : Index) (g : OldGen) : s.Sought (s.dropGen x g) := by
  unfold State.dropGen
  dsimp only
  exact State.dealloc_sought (foldl_sought (fun s _ => State.dealloc_sought (State.releaseT2_sought (sought_refl s))) _ _)

/-- Releasing older generations leaves the index but for them and for side entries that nothing needs. -/
theorem retire_spec' (s : State) (die num : Nat) : ((s.retire_ die num).flash.searches.map Search.unrec = s.flash.searches.map Search.unrec)
    ∧ ((s.retire_ die num).flash.nextQid = s.flash.nextQid)
    ∧ ∀ x, s.index die num = some x → ∃ y, (s.retire_ die num).index die num = some y ∧ y.gen = x.gen ∧ y.table = x.table ∧ y.shape = x.shape
      ∧ y.mark = x.mark ∧ ∀ e ∈ y.side, e ∈ x.side := by
  unfold State.retire_
  cases hx : s.index die num with
  | none => exact ⟨rfl, rfl, fun x h => by cases h⟩
  | some x =>
    obtain ⟨h1, h2⟩ := index_at hx
    dsimp only
    have hs : s.Sought ((x.old.filter (fun g => !(s.searchesOf x).any (fun q => q.generation == g.gen.generation))).foldl (fun s g => s.dropGen x g) s) :=
      foldl_sought (fun s g => dropGen_sought s x g) _ s
    generalize (x.old.filter (fun g => !(s.searchesOf x).any (fun q => q.generation == g.gen.generation))).foldl (fun s g => s.dropGen x g) s = w at hs ⊢
    generalize x.old.filter (fun g => (s.searchesOf x).any (fun q => q.generation == g.gen.generation)) = o
    unfold State.trimSide
    dsimp only
    generalize hk : x.side.filter (fun e => decide (w.sideFloor { x with old := o } ≤ e.seq)) = keep
    have hd : (w.setIndex { x with old := o, side := keep }).Sought ((w.setIndex { x with old := o, side := keep }).dealloc x.die 1 x.shape.context
        ((x.side.length - keep.length) * sideGranules x.shape)) := State.dealloc_sought (sought_refl _)
    refine ⟨hd.searches.trans hs.searches, hd.nextQid.trans hs.nextQid, fun y hy => ?_⟩
    cases hy
    refine ⟨{ x with old := o, side := keep }, (index_of hd.indexes _ _).trans (index_setIndex _ _ h1 h2), rfl, rfl, rfl, rfl, fun e he => ?_⟩
    rw [← hk] at he
    exact List.mem_of_mem_filter he

theorem placePages_kept (x : Index) (gen : Nat) (l : List (Option Nat)) : ∀ (s : State) (i : Nat), (∀ e ∈ l, e.isNone = false) →
    ∃ table, s.placePages x gen l i = some (s, table) ∧ table.length = l.length := by
  induction l with
  | nil => exact fun s i _ => ⟨[], rfl, rfl⟩
  | cons a l ih =>
    intro s i h
    cases a with
    | none => cases h none (List.mem_cons_self ..)
    | some n =>
      obtain ⟨tb, h1, h2⟩ := ih s (i + 1) (fun e he => h e (List.mem_cons_of_mem _ he))
      refine ⟨x.table.getD n 0 :: tb, ?_, by simp [h2]⟩
      unfold State.placePages
      rw [h1]
      rfl

theorem runBatch_unrec (s : State) (die num gen : Nat) : (s.runBatch die num gen).flash.searches.map (fun q => (q.qid, q.msg, q.generation, q.cutoff, q.mark, q.die))
    = s.flash.searches.map (fun q => (q.qid, q.msg, q.generation, q.cutoff, q.mark, q.die)) ∧ (s.runBatch die num gen).flash.indexes = s.flash.indexes
    ∧ (s.runBatch die num gen).flash.nextQid = s.flash.nextQid := by
  unfold State.runBatch
  dsimp only
  split
  all_goals
    refine ⟨?_, rfl, rfl⟩
    show List.map _ (List.map _ _) = _
    rw [List.map_map]
    refine List.map_congr_left fun q _ => ?_
    show _ = _
    dsimp only [Function.comp]
    split <;> rfl

theorem runBatch_none (s : State) (die num gen : Nat) {q : Search} (hq : q ∈ (s.runBatch die num gen).flash.searches) :
    (q.die = die → q.msg.index % 1024 = num → q.generation = gen → q.batch = none)
    ∧ ∃ p ∈ s.flash.searches, p.die = q.die ∧ p.msg = q.msg ∧ p.generation = q.generation ∧ (p.batch = none → q.batch = none) := by
  have hq2 : q ∈ s.flash.searches.map (fun (q : Search) => if (s.batchOf die num gen).any (fun y => y.qid == q.qid) then
      { q with batch := none, batched := (s.batchOf die num gen).length } else q) := by
    unfold State.runBatch at hq
    dsimp only at hq
    split at hq <;> exact hq
  obtain ⟨p, hp, rfl⟩ := List.mem_map.1 hq2
  refine ⟨fun h1 h2 h3 => ?_, p, hp, ?_⟩
  · split
    · rfl
    · rename_i hn
      rw [if_neg hn] at h1 h2 h3
      by_contra hb
      refine hn (List.any_eq_true.2 ⟨p, List.mem_filter.2 ⟨hp, ?_⟩, by simp⟩)
      rw [h1, h2, h3]
      cases hpb : p.batch with
      | none => exact absurd hpb hb
      | some b => simp
  · split
    · exact ⟨rfl, rfl, rfl, fun _ => rfl⟩
    · exact ⟨rfl, rfl, rfl, fun h => h⟩

theorem runBatches (die : Nat) (l : List (Nat × Nat)) : ∀ s : State,
    (l.foldl (fun s b => s.runBatch die b.1 b.2) s).flash.searches.map (·.qid) = s.flash.searches.map (·.qid)
    ∧ ∀ q ∈ (l.foldl (fun s b => s.runBatch die b.1 b.2) s).flash.searches, (q.die = die → (q.msg.index % 1024, q.generation) ∈ l → q.batch = none)
      ∧ ∃ p ∈ s.flash.searches, p.die = q.die ∧ p.msg = q.msg ∧ p.generation = q.generation ∧ (p.batch = none → q.batch = none) := by
  induction l with
  | nil => exact fun s => ⟨rfl, fun q hq => ⟨fun _ h => (by cases h), q, hq, rfl, rfl, rfl, fun h => h⟩⟩
  | cons b l ih =>
    intro s
    obtain ⟨h1, h2⟩ := ih (s.runBatch die b.1 b.2)
    refine ⟨h1.trans ?_, fun q hq => ?_⟩
    · have := congrArg (List.map Prod.fst) (runBatch_unrec s die b.1 b.2).1
      simp only [List.map_map] at this
      exact this
    · obtain ⟨a1, p, a2, a3, a4, a5, a6⟩ := h2 q hq
      obtain ⟨b1, p2, b2, b3, b4, b5, b6⟩ := runBatch_none s die b.1 b.2 a2
      refine ⟨fun hd hm => ?_, p2, b2, b3.trans a3, b4.trans a4, b5.trans a5, fun h => a6 (b6 h)⟩
      rcases List.mem_cons.1 hm with e | e
      · refine a6 (b1 (a3.trans hd) ?_ ?_)
        · rw [a4]
          exact congrArg Prod.fst e
        · rw [a5]
          exact congrArg Prod.snd e
      · exact a1 hd e

theorem admitted (w2 : State) (c : Prop) [Decidable c] (die num gen : Nat) (q : Search) (k : Nat × SearchMsg × Nat × Nat × Nat × Nat) (l : List Index) (n : Nat)
    (hq : (q.qid, q.msg, q.generation, q.cutoff, q.mark, q.die) = k) (w3 : q ∈ w2.flash.searches) (w4 : w2.flash.indexes = l)
    (w5 : w2.flash.nextQid = n) : (∃ q : Search, q ∈ (if c then w2.runBatch die num gen else w2).flash.searches
    ∧ (q.qid, q.msg, q.generation, q.cutoff, q.mark, q.die) = k)
    ∧ (if c then w2.runBatch die num gen else w2).flash.indexes = l ∧ (if c then w2.runBatch die num gen else w2).flash.nextQid = n := by
  split
  · obtain ⟨b1, b2, b3⟩ := runBatch_unrec w2 die num gen
    have : (q.qid, q.msg, q.generation, q.cutoff, q.mark, q.die) ∈ (w2.runBatch die num gen).flash.searches.map
        (fun q => (q.qid, q.msg, q.generation, q.cutoff, q.mark, q.die)) := by
      rw [b1]
      exact List.mem_map.2 ⟨q, w3, rfl⟩
    obtain ⟨q', h1, h2⟩ := List.mem_map.1 this
    exact ⟨⟨q', h1, h2.trans hq⟩, b2.trans w4, b3.trans w5⟩
  · exact ⟨⟨q, w3, hq⟩, w4, w5⟩

theorem admitReq_spec (h : State) (e : Env) (m : SearchMsg) (x : Index) : (∃ q : Search, q ∈ (h.admitReq e m x).flash.searches
    ∧ (q.qid, q.msg, q.generation, q.cutoff, q.mark, q.die) = (h.flash.nextQid, m, x.gen.generation, x.gen.cutoff, x.mark, x.die))
    ∧ (h.admitReq e m x).flash.indexes = h.flash.indexes ∧ (h.admitReq e m x).flash.nextQid = h.flash.nextQid + 1 := by
  unfold State.admitReq
  extract_lets wait q w0 w w2
  have hw : q ∈ w2.flash.searches ∧ w2.flash.indexes = h.flash.indexes ∧ w2.flash.nextQid = h.flash.nextQid + 1 := by
    unfold w2
    split <;> exact ⟨List.mem_append_right _ (List.mem_singleton.2 rfl), rfl, rfl⟩
  exact admitted w2 _ _ _ _ q _ _ _ rfl hw.1 hw.2.1 hw.2.2

theorem message_sought {e : Env} {type : Nat} (h : s.Enters e type) (c : Instr) (body : List Byte)
    (f : State → State) : (f (s.heard e type none)).Sought (s.message e c type none body f) := by
  have hb : (f (s.heard e type none)).Sought (s.arrived.messageBody e type none body f) := by
    unfold State.messageBody State.heard
    unfold State.Enters at h
    rw [h]
    exact sought_refl _
  unfold State.message
  dsimp only
  split
  · exact State.formResults_sought (State.afterMessage_sought hb)
  · exact hb

end Sys2Proof.Machine
end

