-- ==== Sys2Proof/Laws/Wired.lean ====
section
/-! SUPPORT. What leaves links, windows, reassemblies, ingest regions, subscriptions and the device time alone. -/

namespace Sys2Proof.Machine

/-- `b` has the links, windows, reassemblies, whole messages, ingest regions, subscriptions and device time of `a`. -/
structure State.Wired (a b : State) : Prop where
  link : ∀ p, (b.port p).link = (a.port p).link
  ingest : b.net.ingest = a.net.ingest
  seqIn : b.net.seqIn = a.net.seqIn
  reasm : b.net.reasm = a.net.reasm
  ready : b.net.ready = a.net.ready
  subs : b.net.subs = a.net.subs
  ptp : b.net.ptp = a.net.ptp
  startVal : b.net.startVal = a.net.startVal
  wire : b.net.wire = a.net.wire

variable {s0 s t : State}

theorem wired_refl (s : State) : s.Wired s := ⟨fun _ => rfl, rfl, rfl, rfl, rfl, rfl, rfl, rfl, rfl⟩

theorem wired_trans (h : s0.Wired s) (h' : s.Wired t) : s0.Wired t :=
  ⟨fun p => (h'.link p).trans (h.link p), h'.ingest.trans h.ingest, h'.seqIn.trans h.seqIn, h'.reasm.trans h.reasm, h'.ready.trans h.ready, h'.subs.trans h.subs, h'.ptp.trans h.ptp, h'.startVal.trans h.startVal, h'.wire.trans h.wire⟩

/-- A change elsewhere. -/
theorem wired_mk (h : s0.Wired s) {now : Nat} {pending : List Instr} {free : Nat} {regs : List (RegKey × Word)} {bcn : Beacon}
    {ev : Events} {ses : Sessions} {kv : Kv} {attn : Attn} {grams : List ((Nat × Nat) × Gram)} {net : Net} {lamp : Lamp}
    {tier : Tier} {start : Start} {flash : Flash} {ident : Ident} {ckpt : Ckpt} {health : Health} {rp : Replay} {pins : Pins}
    (e0 : net.ports = s.net.ports) (e1 : net.ingest = s.net.ingest) (e2 : net.seqIn = s.net.seqIn) (e3 : net.reasm = s.net.reasm) (e4 : net.ready = s.net.ready) (e5 : net.subs = s.net.subs) (e6 : net.ptp = s.net.ptp) (e7 : net.startVal = s.net.startVal) (e8 : net.wire = s.net.wire) :
    s0.Wired ⟨now, pending, free, regs, bcn, ev, ses, kv, attn, grams, net, lamp, tier, start, flash, ident, ckpt, health, rp,
      pins⟩ := ⟨fun p => (by show _ = _; unfold State.port; dsimp only; rw [e0]; exact h.link p), e1.trans h.ingest, e2.trans h.seqIn, e3.trans h.reasm, e4.trans h.ready, e5.trans h.subs, e6.trans h.ptp, e7.trans h.startVal, e8.trans h.wire⟩

theorem wired_ite {c : Prop} [Decidable c] (h : s0.Wired s) (h' : s0.Wired t) : s0.Wired (if c then s else t) := by
  split <;> assumption

theorem wired_foldl {α : Type} {f : State → α → State} (hf : ∀ s x, s0.Wired s → s0.Wired (f s x)) (l : List α)
    (h : s0.Wired s) : s0.Wired (l.foldl f s) := by
  induction l generalizing s with
  | nil => exact h
  | cons x l ih => exact ih (hf s x h)

theorem State.setReg_wired (h : s0.Wired s) {die sel : Nat} {r : RegId} {w : Word} : s0.Wired (s.setReg die sel r w) := wired_mk h rfl rfl rfl rfl rfl rfl rfl rfl rfl
theorem State.setFld_wired (h : s0.Wired s) {die sel : Nat} {f : Field} {v : Nat} : s0.Wired (s.setFld die sel f v) := wired_mk h rfl rfl rfl rfl rfl rfl rfl rfl rfl
theorem State.bumpBy_wired (h : s0.Wired s) {die sel : Nat} {f : Field} {n : Nat} : s0.Wired (s.bumpBy die sel f n) := wired_mk h rfl rfl rfl rfl rfl rfl rfl rfl rfl
theorem State.bump_wired (h : s0.Wired s) {die sel : Nat} {f : Field} : s0.Wired (s.bump die sel f) := wired_mk h rfl rfl rfl rfl rfl rfl rfl rfl rfl
theorem State.lower_wired (h : s0.Wired s) {die sel : Nat} {f : Field} {n : Nat} : s0.Wired (s.lower die sel f n) := wired_mk h rfl rfl rfl rfl rfl rfl rfl rfl rfl
theorem State.setSess_wired (h : s0.Wired s) {slot : Nat} {r : Session} : s0.Wired (s.setSess slot r) := wired_mk h rfl rfl rfl rfl rfl rfl rfl rfl rfl
theorem State.setPoolFree_wired (h : s0.Wired s) {die tier n : Nat} : s0.Wired (s.setPoolFree die tier n) := by
  unfold State.setPoolFree
  dsimp only
  exact State.setReg_wired h
theorem State.setPort_wired (h : s0.Wired s) {p : Nat} {v : Port} (hv : v.link = (s.port p).link) : s0.Wired (s.setPort p v) :=
  wired_trans h ⟨fun q => by
    unfold State.port State.setPort at *
    by_cases e : q = p
    · subst e
      rw [alGet_alSet_self]
      exact hv
    · rw [alGet_alSet_ne e], rfl, rfl, rfl, rfl, rfl, rfl, rfl, rfl⟩

theorem Port.setCls_link (q : Port) (c : Nat) (v : ClassState) : (q.setCls c v).link = q.link := rfl

theorem Port.foldl_setCls_link (l : List Nat) (f : Port → Nat → ClassState) : ∀ q : Port, (l.foldl (fun q c => q.setCls c (f q c)) q).link = q.link := by
  induction l with
  | nil => exact fun _ => rfl
  | cons c l ih => exact fun q => ih _

set_option linter.unusedTactic false
set_option linter.unreachableTactic false

theorem State.nextFree_wired (h : s0.Wired s) : s0.Wired (State.nextFree s) := by
  unfold State.nextFree
  try dsimp only
  repeat' first | with_reducible assumption | with_reducible rfl | with_reducible exact Port.setCls_link _ _ _ | with_reducible exact Port.foldl_setCls_link _ _ _ | with_reducible apply wired_ite | fail_if_no_progress with_reducible refine wired_mk ?_ rfl rfl rfl rfl rfl rfl rfl rfl rfl | split | dsimp only | decide

theorem State.settle_wired (h : s0.Wired s) {p : Nat} : s0.Wired (State.settle s p) := by
  unfold State.settle
  try dsimp only
  repeat' first | with_reducible assumption | with_reducible rfl | with_reducible exact Port.setCls_link _ _ _ | with_reducible exact Port.foldl_setCls_link _ _ _ | intro _ | with_reducible apply State.setPort_wired | with_reducible apply wired_ite | with_reducible apply wired_foldl | fail_if_no_progress with_reducible refine wired_mk ?_ rfl rfl rfl rfl rfl rfl rfl rfl rfl | split | dsimp only | decide

theorem State.enqueue_wired (h : s0.Wired s) {p cls flow len : Nat} {result : Option (Nat × ResKey)} {body : FrameBody} : s0.Wired (State.enqueue s p cls flow len result body) := by
  unfold State.enqueue
  try dsimp only
  repeat' first | with_reducible assumption | with_reducible rfl | with_reducible exact Port.setCls_link _ _ _ | with_reducible exact Port.foldl_setCls_link _ _ _ | with_reducible apply State.settle_wired | with_reducible apply State.setPort_wired | with_reducible apply wired_ite | fail_if_no_progress with_reducible refine wired_mk ?_ rfl rfl rfl rfl rfl rfl rfl rfl rfl | split | dsimp only | decide

theorem State.countHeld_wired (h : s0.Wired s) {p : Nat} : s0.Wired (State.countHeld s p) := by
  unfold State.countHeld
  try dsimp only
  repeat' first | with_reducible assumption | with_reducible rfl | with_reducible exact Port.setCls_link _ _ _ | with_reducible exact Port.foldl_setCls_link _ _ _ | intro _ | with_reducible apply State.setPort_wired | with_reducible apply State.bump_wired | with_reducible apply wired_ite | with_reducible apply wired_foldl | fail_if_no_progress with_reducible refine wired_mk ?_ rfl rfl rfl rfl rfl rfl rfl rfl rfl | split | dsimp only | decide

theorem State.noteReturn_wired (h : s0.Wired s) {r : Result} : s0.Wired (State.noteReturn s r) := by
  unfold State.noteReturn
  try dsimp only
  repeat' first | with_reducible assumption | with_reducible rfl | with_reducible exact Port.setCls_link _ _ _ | with_reducible exact Port.foldl_setCls_link _ _ _ | intro _ | with_reducible apply State.bump_wired | with_reducible apply wired_ite | fail_if_no_progress with_reducible refine wired_mk ?_ rfl rfl rfl rfl rfl rfl rfl rfl rfl | split | dsimp only | decide

theorem State.markStarted_wired (h : s0.Wired s) {p : Nat} {f : QFrame} : s0.Wired (State.markStarted s p f) := by
  unfold State.markStarted
  try dsimp only
  repeat' first | with_reducible assumption | with_reducible rfl | with_reducible exact Port.setCls_link _ _ _ | with_reducible exact Port.foldl_setCls_link _ _ _ | intro _ | with_reducible apply State.noteReturn_wired | with_reducible apply State.setPort_wired | with_reducible apply wired_ite | fail_if_no_progress with_reducible refine wired_mk ?_ rfl rfl rfl rfl rfl rfl rfl rfl rfl | split | dsimp only | decide

theorem State.untrack_wired (h : s0.Wired s) {k : KeyRef} {reqId : Nat} : s0.Wired (State.untrack s k reqId) := by
  unfold State.untrack
  try dsimp only
  repeat' first | with_reducible assumption | with_reducible rfl | with_reducible exact Port.setCls_link _ _ _ | with_reducible exact Port.foldl_setCls_link _ _ _ | intro _ | with_reducible apply wired_ite | fail_if_no_progress with_reducible refine wired_mk ?_ rfl rfl rfl rfl rfl rfl rfl rfl rfl | split | dsimp only | decide

theorem State.untrackFrame_wired (h : s0.Wired s) {f : QFrame} : s0.Wired (State.untrackFrame s f) := by
  unfold State.untrackFrame
  try dsimp only
  repeat' first | with_reducible assumption | with_reducible rfl | with_reducible exact Port.setCls_link _ _ _ | with_reducible exact Port.foldl_setCls_link _ _ _ | with_reducible apply State.untrack_wired | with_reducible apply wired_ite | fail_if_no_progress with_reducible refine wired_mk ?_ rfl rfl rfl rfl rfl rfl rfl rfl rfl | split | dsimp only | decide

theorem State.pick_wired (h : s0.Wired s) {p : Nat} : s0.Wired (State.pick s p) := by
  unfold State.pick
  try dsimp only
  repeat' first | with_reducible assumption | with_reducible rfl | with_reducible exact Port.setCls_link _ _ _ | with_reducible exact Port.foldl_setCls_link _ _ _ | with_reducible apply State.settle_wired | with_reducible apply State.countHeld_wired | with_reducible apply State.setPort_wired | with_reducible apply State.markStarted_wired | with_reducible apply State.untrackFrame_wired | with_reducible apply wired_ite | fail_if_no_progress with_reducible refine wired_mk ?_ rfl rfl rfl rfl rfl rfl rfl rfl rfl | split | dsimp only | decide

theorem State.send_wired (h : s0.Wired s) {p cls flow len : Nat} {result : Option (Nat × ResKey)} {body : FrameBody} : s0.Wired (State.send s p cls flow len result body) := by
  unfold State.send
  try dsimp only
  repeat' first | with_reducible assumption | with_reducible rfl | with_reducible exact Port.setCls_link _ _ _ | with_reducible exact Port.foldl_setCls_link _ _ _ | with_reducible apply State.enqueue_wired | with_reducible apply State.pick_wired | with_reducible apply wired_ite | split | dsimp only | decide

theorem State.resetClass_wired (h : s0.Wired s) {p c : Nat} : s0.Wired (State.resetClass s p c) := by
  unfold State.resetClass
  try dsimp only
  repeat' first | with_reducible assumption | with_reducible rfl | with_reducible exact Port.setCls_link _ _ _ | with_reducible exact Port.foldl_setCls_link _ _ _ | intro _ | with_reducible apply State.setPort_wired | with_reducible apply wired_ite | fail_if_no_progress with_reducible refine wired_mk ?_ rfl rfl rfl rfl rfl rfl rfl rfl rfl | split | dsimp only | decide

theorem State.sendSeg_wired (h : s0.Wired s) {d : Dest} {kind type status reason reqId : Nat} {response : Bool} {result : Option (Nat × ResKey)} {count len : Nat} {seg : Nat × List Byte} : s0.Wired (State.sendSeg s d kind type status reason reqId response result count len seg) := by
  unfold State.sendSeg
  try dsimp only
  repeat' first | with_reducible assumption | with_reducible rfl | with_reducible exact Port.setCls_link _ _ _ | with_reducible exact Port.foldl_setCls_link _ _ _ | with_reducible apply State.send_wired | with_reducible apply wired_ite | fail_if_no_progress with_reducible refine wired_mk ?_ rfl rfl rfl rfl rfl rfl rfl rfl rfl | split | dsimp only | decide

theorem State.sendMsg_wired (h : s0.Wired s) {d : Dest} {kind type status reason reqId : Nat} {response : Bool} {result : Option (Nat × ResKey)} {body : List Byte} : s0.Wired (State.sendMsg s d kind type status reason reqId response result body) := by
  unfold State.sendMsg
  try dsimp only
  repeat' first | with_reducible assumption | with_reducible rfl | with_reducible exact Port.setCls_link _ _ _ | with_reducible exact Port.foldl_setCls_link _ _ _ | intro _ | with_reducible apply State.sendSeg_wired | with_reducible apply wired_ite | with_reducible apply wired_foldl | fail_if_no_progress with_reducible refine wired_mk ?_ rfl rfl rfl rfl rfl rfl rfl rfl rfl | split | dsimp only | decide

theorem State.setRing_wired (h : s0.Wired s) {die : Nat} {l : List EvtRec} : s0.Wired (State.setRing s die l) := by
  unfold State.setRing
  try dsimp only
  repeat' first | with_reducible assumption | with_reducible rfl | with_reducible exact Port.setCls_link _ _ _ | with_reducible exact Port.foldl_setCls_link _ _ _ | with_reducible apply wired_ite | fail_if_no_progress with_reducible refine wired_mk ?_ rfl rfl rfl rfl rfl rfl rfl rfl rfl | split | dsimp only | decide

theorem State.setAlerts_wired (h : s0.Wired s) {die : Nat} {l : List Nat} : s0.Wired (State.setAlerts s die l) := by
  unfold State.setAlerts
  try dsimp only
  repeat' first | with_reducible assumption | with_reducible rfl | with_reducible exact Port.setCls_link _ _ _ | with_reducible exact Port.foldl_setCls_link _ _ _ | with_reducible apply wired_ite | fail_if_no_progress with_reducible refine wired_mk ?_ rfl rfl rfl rfl rfl rfl rfl rfl rfl | split | dsimp only | decide

theorem State.eventFrame_wired (h : s0.Wired s) {sub : Sub} {r : EvtRec} : s0.Wired (State.eventFrame s sub r) := by
  unfold State.eventFrame
  try dsimp only
  repeat' first | with_reducible assumption | with_reducible rfl | with_reducible exact Port.setCls_link _ _ _ | with_reducible exact Port.foldl_setCls_link _ _ _ | with_reducible apply State.sendMsg_wired | with_reducible apply wired_ite | fail_if_no_progress with_reducible refine wired_mk ?_ rfl rfl rfl rfl rfl rfl rfl rfl rfl | split | dsimp only | decide

theorem State.ibi_wired (h : s0.Wired s) {byte : Nat} : s0.Wired (State.ibi s byte) := by
  unfold State.ibi
  try dsimp only
  repeat' first | with_reducible assumption | with_reducible rfl | with_reducible exact Port.setCls_link _ _ _ | with_reducible exact Port.foldl_setCls_link _ _ _ | with_reducible apply wired_ite | fail_if_no_progress with_reducible refine wired_mk ?_ rfl rfl rfl rfl rfl rfl rfl rfl rfl | split | dsimp only | decide

theorem State.logEvent_wired (h : s0.Wired s) {die : Nat} {r : EvtRec} : s0.Wired (State.logEvent s die r) := by
  unfold State.logEvent
  try dsimp only
  repeat' first | with_reducible assumption | with_reducible rfl | with_reducible exact Port.setCls_link _ _ _ | with_reducible exact Port.foldl_setCls_link _ _ _ | with_reducible apply State.setRing_wired | with_reducible apply State.setFld_wired | with_reducible apply State.setAlerts_wired | with_reducible apply State.ibi_wired | with_reducible apply wired_ite | split | dsimp only | decide

theorem State.raise_wired (h : s0.Wired s) {die sub : Nat} {a : EvtArgs} : s0.Wired (State.raise s die sub a) := by
  unfold State.raise
  try dsimp only
  repeat' first | with_reducible assumption | with_reducible rfl | with_reducible exact Port.setCls_link _ _ _ | with_reducible exact Port.foldl_setCls_link _ _ _ | intro _ | with_reducible apply State.eventFrame_wired | with_reducible apply State.logEvent_wired | with_reducible apply wired_ite | with_reducible apply wired_foldl | split | dsimp only | decide

theorem State.setOnce_wired (h : s0.Wired s) {o : Once} : s0.Wired (State.setOnce s o) := by
  unfold State.setOnce
  try dsimp only
  repeat' first | with_reducible assumption | with_reducible rfl | with_reducible exact Port.setCls_link _ _ _ | with_reducible exact Port.foldl_setCls_link _ _ _ | intro _ | with_reducible apply wired_ite | fail_if_no_progress with_reducible refine wired_mk ?_ rfl rfl rfl rfl rfl rfl rfl rfl rfl | split | dsimp only | decide

theorem State.raiseOnce_wired (h : s0.Wired s) {die sub item : Nat} {a : EvtArgs} : s0.Wired (State.raiseOnce s die sub item a) := by
  unfold State.raiseOnce
  try dsimp only
  repeat' first | with_reducible assumption | with_reducible rfl | with_reducible exact Port.setCls_link _ _ _ | with_reducible exact Port.foldl_setCls_link _ _ _ | with_reducible apply State.setOnce_wired | with_reducible apply State.raise_wired | with_reducible apply wired_ite | fail_if_no_progress with_reducible refine wired_mk ?_ rfl rfl rfl rfl rfl rfl rfl rfl rfl | split | dsimp only | decide

theorem State.closeRec_wired (h : s0.Wired s) : s0.Wired (State.closeRec s) := by
  unfold State.closeRec
  try dsimp only
  repeat' first | with_reducible assumption | with_reducible rfl | with_reducible exact Port.setCls_link _ _ _ | with_reducible exact Port.foldl_setCls_link _ _ _ | with_reducible apply State.setFld_wired | with_reducible apply wired_ite | fail_if_no_progress with_reducible refine wired_mk ?_ rfl rfl rfl rfl rfl rfl rfl rfl rfl | split | dsimp only | decide

theorem State.addRec_wired (h : s0.Wired s) {status port ctx ep len : Nat} {body : RecBody} : s0.Wired (State.addRec s status port ctx ep len body) := by
  unfold State.addRec
  try dsimp only
  repeat' first | with_reducible assumption | with_reducible rfl | with_reducible exact Port.setCls_link _ _ _ | with_reducible exact Port.foldl_setCls_link _ _ _ | with_reducible apply State.setFld_wired | with_reducible apply State.raiseOnce_wired | with_reducible apply State.closeRec_wired | with_reducible apply State.raise_wired | with_reducible apply State.setReg_wired | with_reducible apply wired_ite | fail_if_no_progress with_reducible refine wired_mk ?_ rfl rfl rfl rfl rfl rfl rfl rfl rfl | split | dsimp only | decide

theorem State.diverge_wired (h : s0.Wired s) {msg : Nat} : s0.Wired (State.diverge s msg) := by
  unfold State.diverge
  try dsimp only
  repeat' first | with_reducible assumption | with_reducible rfl | with_reducible exact Port.setCls_link _ _ _ | with_reducible exact Port.foldl_setCls_link _ _ _ | with_reducible apply State.bump_wired | with_reducible apply State.setFld_wired | with_reducible apply State.raise_wired | with_reducible apply wired_ite | split | dsimp only | decide

theorem State.formed_wired (h : s0.Wired s) {msg port : Nat} {f : List Byte} : s0.Wired (State.formed s msg port f) := by
  unfold State.formed
  try dsimp only
  repeat' first | with_reducible assumption | with_reducible rfl | with_reducible exact Port.setCls_link _ _ _ | with_reducible exact Port.foldl_setCls_link _ _ _ | with_reducible apply State.addRec_wired | with_reducible apply State.diverge_wired | with_reducible apply wired_ite | fail_if_no_progress with_reducible refine wired_mk ?_ rfl rfl rfl rfl rfl rfl rfl rfl rfl | split | dsimp only | decide

theorem State.formResult_wired (h : s0.Wired s) {r : Result} : s0.Wired (State.formResult s r) := by
  unfold State.formResult
  try dsimp only
  repeat' first | with_reducible assumption | with_reducible rfl | with_reducible exact Port.setCls_link _ _ _ | with_reducible exact Port.foldl_setCls_link _ _ _ | intro _ | with_reducible apply State.formed_wired | with_reducible apply wired_ite | fail_if_no_progress with_reducible refine wired_mk ?_ rfl rfl rfl rfl rfl rfl rfl rfl rfl | split | dsimp only | decide

theorem State.formResults_wired (h : s0.Wired s) : s0.Wired (State.formResults s) := by
  unfold State.formResults
  try dsimp only
  repeat' first | with_reducible assumption | with_reducible rfl | with_reducible exact Port.setCls_link _ _ _ | with_reducible exact Port.foldl_setCls_link _ _ _ | intro _ | with_reducible apply State.formResult_wired | with_reducible apply wired_ite | with_reducible apply wired_foldl | split | dsimp only | decide

theorem State.noteBad_wired (h : s0.Wired s) {e : Env} {type reason : Nat} : s0.Wired (State.noteBad s e type reason) := by
  unfold State.noteBad
  try dsimp only
  repeat' first | with_reducible assumption | with_reducible rfl | with_reducible exact Port.setCls_link _ _ _ | with_reducible exact Port.foldl_setCls_link _ _ _ | with_reducible apply State.bump_wired | with_reducible apply State.setFld_wired | with_reducible apply State.raiseOnce_wired | with_reducible apply wired_ite | split | dsimp only | decide

theorem State.answer_wired (h : s0.Wired s) {e : Env} {type status reason : Nat} {body : List Byte} : s0.Wired (State.answer s e type status reason body) := by
  unfold State.answer
  try dsimp only
  repeat' first | with_reducible assumption | with_reducible rfl | with_reducible exact Port.setCls_link _ _ _ | with_reducible exact Port.foldl_setCls_link _ _ _ | with_reducible apply State.noteBad_wired | with_reducible apply State.sendMsg_wired | with_reducible apply State.untrack_wired | with_reducible apply wired_ite | fail_if_no_progress with_reducible refine wired_mk ?_ rfl rfl rfl rfl rfl rfl rfl rfl rfl | split | dsimp only | decide

theorem State.unnumber_wired (h : s0.Wired s) {n : Nat} : s0.Wired (State.unnumber s n) := by
  unfold State.unnumber
  try dsimp only
  repeat' first | with_reducible assumption | with_reducible rfl | with_reducible exact Port.setCls_link _ _ _ | with_reducible exact Port.foldl_setCls_link _ _ _ | intro _ | with_reducible apply wired_ite | fail_if_no_progress with_reducible refine wired_mk ?_ rfl rfl rfl rfl rfl rfl rfl rfl rfl | split | dsimp only | decide

theorem State.afterMessage_wired (h : s0.Wired s) {e : Env} {c : Instr} : s0.Wired (State.afterMessage s e c) := by
  unfold State.afterMessage
  try dsimp only
  repeat' first | with_reducible assumption | with_reducible rfl | with_reducible exact Port.setCls_link _ _ _ | with_reducible exact Port.foldl_setCls_link _ _ _ | with_reducible apply State.addRec_wired | with_reducible apply State.unnumber_wired | with_reducible apply State.formed_wired | with_reducible apply wired_ite | fail_if_no_progress with_reducible refine wired_mk ?_ rfl rfl rfl rfl rfl rfl rfl rfl rfl | split | dsimp only | decide

theorem State.mapResult_wired (h : s0.Wired s) {slot : Nat} {key : ResKey} {f : Result → Result} : s0.Wired (State.mapResult s slot key f) := by
  unfold State.mapResult
  try dsimp only
  repeat' first | with_reducible assumption | with_reducible rfl | with_reducible exact Port.setCls_link _ _ _ | with_reducible exact Port.foldl_setCls_link _ _ _ | intro _ | with_reducible apply wired_ite | fail_if_no_progress with_reducible refine wired_mk ?_ rfl rfl rfl rfl rfl rfl rfl rfl rfl | split | dsimp only | decide

theorem State.sendWrite_wired (h : s0.Wired s) {d : Dest} {q : Qp} {result : Nat × ResKey} {seq : Nat} {piece : Bool × Nat × List Byte} : s0.Wired (State.sendWrite s d q result seq piece) := by
  unfold State.sendWrite
  try dsimp only
  repeat' first | with_reducible assumption | with_reducible rfl | with_reducible exact Port.setCls_link _ _ _ | with_reducible exact Port.foldl_setCls_link _ _ _ | intro _ | with_reducible apply State.send_wired | with_reducible apply wired_ite | fail_if_no_progress with_reducible refine wired_mk ?_ rfl rfl rfl rfl rfl rfl rfl rfl rfl | split | dsimp only | decide

theorem State.sendObject_wired (h : s0.Wired s) {d : Dest} {r : Result} {q : Qp} : s0.Wired (State.sendObject s d r q) := by
  unfold State.sendObject
  try dsimp only
  repeat' first | with_reducible assumption | with_reducible rfl | with_reducible exact Port.setCls_link _ _ _ | with_reducible exact Port.foldl_setCls_link _ _ _ | intro _ | with_reducible apply State.sendWrite_wired | with_reducible apply wired_ite | with_reducible apply wired_foldl | fail_if_no_progress with_reducible refine wired_mk ?_ rfl rfl rfl rfl rfl rfl rfl rfl rfl | split | dsimp only | decide

theorem State.joinQueue_wired (h : s0.Wired s) {slot : Nat} {key : ResKey} : s0.Wired (State.joinQueue s slot key) := by
  unfold State.joinQueue
  try dsimp only
  repeat' first | with_reducible assumption | with_reducible rfl | with_reducible exact Port.setCls_link _ _ _ | with_reducible exact Port.foldl_setCls_link _ _ _ | intro _ | with_reducible apply State.noteReturn_wired | with_reducible apply State.mapResult_wired | with_reducible apply State.sendObject_wired | with_reducible apply State.sendMsg_wired | with_reducible apply wired_ite | fail_if_no_progress with_reducible refine wired_mk ?_ rfl rfl rfl rfl rfl rfl rfl rfl rfl | split | dsimp only | decide

theorem State.markLate_wired (h : s0.Wired s) {slot : Nat} {key : ResKey} : s0.Wired (State.markLate s slot key) := by
  unfold State.markLate
  try dsimp only
  repeat' first | with_reducible assumption | with_reducible rfl | with_reducible exact Port.setCls_link _ _ _ | with_reducible exact Port.foldl_setCls_link _ _ _ | intro _ | with_reducible apply State.mapResult_wired | with_reducible apply State.bump_wired | with_reducible apply State.setReg_wired | with_reducible apply State.raise_wired | with_reducible apply wired_ite | fail_if_no_progress with_reducible refine wired_mk ?_ rfl rfl rfl rfl rfl rfl rfl rfl rfl | split | dsimp only | decide

theorem State.deliver_wired (h : s0.Wired s) {slot : Nat} {key : ResKey} : s0.Wired (State.deliver s slot key) := by
  unfold State.deliver
  try dsimp only
  repeat' first | with_reducible assumption | with_reducible rfl | with_reducible exact Port.setCls_link _ _ _ | with_reducible exact Port.foldl_setCls_link _ _ _ | with_reducible apply State.joinQueue_wired | with_reducible apply State.markLate_wired | with_reducible apply wired_ite | fail_if_no_progress with_reducible refine wired_mk ?_ rfl rfl rfl rfl rfl rfl rfl rfl rfl | split | dsimp only | decide

theorem State.lateSweep_wired (h : s0.Wired s) : s0.Wired (State.lateSweep s) := by
  unfold State.lateSweep
  try dsimp only
  repeat' first | with_reducible assumption | with_reducible rfl | with_reducible exact Port.setCls_link _ _ _ | with_reducible exact Port.foldl_setCls_link _ _ _ | intro _ | with_reducible apply State.deliver_wired | with_reducible apply wired_ite | with_reducible apply wired_foldl | split | dsimp only | decide

theorem State.answerFrame_wired (h : s0.Wired s) {f : GspFrame} {status reason : Nat} : s0.Wired (State.answerFrame s f status reason) := by
  unfold State.answerFrame
  try dsimp only
  repeat' first | with_reducible assumption | with_reducible rfl | with_reducible exact Port.setCls_link _ _ _ | with_reducible exact Port.foldl_setCls_link _ _ _ | with_reducible apply State.noteBad_wired | with_reducible apply State.sendMsg_wired | with_reducible apply wired_ite | split | dsimp only | decide

theorem State.pausePrio_wired (h : s0.Wired s) {p c until_ : Nat} : s0.Wired (State.pausePrio s p c until_) := by
  unfold State.pausePrio
  try dsimp only
  repeat' first | with_reducible assumption | with_reducible rfl | with_reducible exact Port.setCls_link _ _ _ | with_reducible exact Port.foldl_setCls_link _ _ _ | with_reducible apply State.setPort_wired | with_reducible apply State.setFld_wired | with_reducible apply wired_ite | fail_if_no_progress with_reducible refine wired_mk ?_ rfl rfl rfl rfl rfl rfl rfl rfl rfl | split | dsimp only | decide

theorem State.setQp_wired (h : s0.Wired s) {q : Qp} : s0.Wired (State.setQp s q) := by
  unfold State.setQp
  try dsimp only
  repeat' first | with_reducible assumption | with_reducible rfl | with_reducible exact Port.setCls_link _ _ _ | with_reducible exact Port.foldl_setCls_link _ _ _ | intro _ | with_reducible apply wired_ite | fail_if_no_progress with_reducible refine wired_mk ?_ rfl rfl rfl rfl rfl rfl rfl rfl rfl | split | dsimp only | decide

theorem State.sendKind3_wired (h : s0.Wired s) {port ep n : Nat} {b : FrameBody} : s0.Wired (State.sendKind3 s port ep n b) := by
  unfold State.sendKind3
  try dsimp only
  repeat' first | with_reducible assumption | with_reducible rfl | with_reducible exact Port.setCls_link _ _ _ | with_reducible exact Port.foldl_setCls_link _ _ _ | with_reducible apply State.send_wired | with_reducible apply wired_ite | split | dsimp only | decide

theorem State.congested_wired (h : s0.Wired s) {port : Nat} {q : Qp} : s0.Wired (State.congested s port q) := by
  unfold State.congested
  try dsimp only
  repeat' first | with_reducible assumption | with_reducible rfl | with_reducible exact Port.setCls_link _ _ _ | with_reducible exact Port.foldl_setCls_link _ _ _ | with_reducible apply State.setQp_wired | with_reducible apply State.sendKind3_wired | with_reducible apply wired_ite | fail_if_no_progress with_reducible refine wired_mk ?_ rfl rfl rfl rfl rfl rfl rfl rfl rfl | split | dsimp only | decide

theorem State.resend_wired (h : s0.Wired s) {q : Qp} : s0.Wired (State.resend s q) := by
  unfold State.resend
  try dsimp only
  repeat' first | with_reducible assumption | with_reducible rfl | with_reducible exact Port.setCls_link _ _ _ | with_reducible exact Port.foldl_setCls_link _ _ _ | intro _ | with_reducible apply State.send_wired | with_reducible apply wired_ite | with_reducible apply wired_foldl | split | dsimp only | decide

end Sys2Proof.Machine
end

