-- ==== Sys2Proof/Laws/Joined.lean ====
section
/-! SUPPORT. What leaves the connections alone. -/

namespace Sys2Proof.Machine

/-- `b` has the connections of `a`. -/
structure State.Joined (a b : State) : Prop where
  qps : b.net.qps = a.net.qps

variable {s0 s t : State}

theorem joined_refl (s : State) : s.Joined s := ⟨rfl⟩

theorem joined_trans (h : s0.Joined s) (h' : s.Joined t) : s0.Joined t :=
  ⟨h'.qps.trans h.qps⟩

/-- A change elsewhere. -/
theorem joined_mk (h : s0.Joined s) {now : Nat} {pending : List Instr} {free : Nat} {regs : List (RegKey × Word)} {bcn : Beacon}
    {ev : Events} {ses : Sessions} {kv : Kv} {attn : Attn} {grams : List ((Nat × Nat) × Gram)} {net : Net} {lamp : Lamp}
    {tier : Tier} {start : Start} {flash : Flash} {ident : Ident} {ckpt : Ckpt} {health : Health} {rp : Replay} {pins : Pins}
    (e0 : net.qps = s.net.qps) :
    s0.Joined ⟨now, pending, free, regs, bcn, ev, ses, kv, attn, grams, net, lamp, tier, start, flash, ident, ckpt, health, rp,
      pins⟩ := ⟨e0.trans h.qps⟩

theorem joined_ite {c : Prop} [Decidable c] (h : s0.Joined s) (h' : s0.Joined t) : s0.Joined (if c then s else t) := by
  split <;> assumption

theorem joined_foldl {α : Type} {f : State → α → State} (hf : ∀ s x, s0.Joined s → s0.Joined (f s x)) (l : List α)
    (h : s0.Joined s) : s0.Joined (l.foldl f s) := by
  induction l generalizing s with
  | nil => exact h
  | cons x l ih => exact ih (hf s x h)

theorem State.setReg_joined (h : s0.Joined s) {die sel : Nat} {r : RegId} {w : Word} : s0.Joined (s.setReg die sel r w) := joined_mk h rfl
theorem State.setFld_joined (h : s0.Joined s) {die sel : Nat} {f : Field} {v : Nat} : s0.Joined (s.setFld die sel f v) := joined_mk h rfl
theorem State.bumpBy_joined (h : s0.Joined s) {die sel : Nat} {f : Field} {n : Nat} : s0.Joined (s.bumpBy die sel f n) := joined_mk h rfl
theorem State.bump_joined (h : s0.Joined s) {die sel : Nat} {f : Field} : s0.Joined (s.bump die sel f) := joined_mk h rfl
theorem State.lower_joined (h : s0.Joined s) {die sel : Nat} {f : Field} {n : Nat} : s0.Joined (s.lower die sel f n) := joined_mk h rfl
theorem State.setSess_joined (h : s0.Joined s) {slot : Nat} {r : Session} : s0.Joined (s.setSess slot r) := joined_mk h rfl
theorem State.setPort_joined (h : s0.Joined s) {p : Nat} {x : Port} : s0.Joined (s.setPort p x) := joined_mk h rfl
theorem State.setPoolFree_joined (h : s0.Joined s) {die tier n : Nat} : s0.Joined (s.setPoolFree die tier n) := by
  unfold State.setPoolFree
  dsimp only
  exact State.setReg_joined h

set_option linter.unusedTactic false
set_option linter.unreachableTactic false

theorem State.nextFree_joined (h : s0.Joined s) : s0.Joined (State.nextFree s) := by
  unfold State.nextFree
  try dsimp only
  repeat' first | with_reducible assumption | with_reducible rfl | with_reducible apply joined_ite | fail_if_no_progress with_reducible refine joined_mk ?_ rfl | split | dsimp only | decide

theorem State.settle_joined (h : s0.Joined s) {p : Nat} : s0.Joined (State.settle s p) := by
  unfold State.settle
  try dsimp only
  repeat' first | with_reducible assumption | with_reducible rfl | intro _ | with_reducible apply State.setPort_joined | with_reducible apply joined_ite | with_reducible apply joined_foldl | fail_if_no_progress with_reducible refine joined_mk ?_ rfl | split | dsimp only | decide

theorem State.enqueue_joined (h : s0.Joined s) {p cls flow len : Nat} {result : Option (Nat × ResKey)} {body : FrameBody} : s0.Joined (State.enqueue s p cls flow len result body) := by
  unfold State.enqueue
  try dsimp only
  repeat' first | with_reducible assumption | with_reducible rfl | with_reducible apply State.settle_joined | with_reducible apply State.setPort_joined | with_reducible apply joined_ite | fail_if_no_progress with_reducible refine joined_mk ?_ rfl | split | dsimp only | decide

theorem State.countHeld_joined (h : s0.Joined s) {p : Nat} : s0.Joined (State.countHeld s p) := by
  unfold State.countHeld
  try dsimp only
  repeat' first | with_reducible assumption | with_reducible rfl | intro _ | with_reducible apply State.setPort_joined | with_reducible apply State.bump_joined | with_reducible apply joined_ite | with_reducible apply joined_foldl | fail_if_no_progress with_reducible refine joined_mk ?_ rfl | split | dsimp only | decide

theorem State.noteReturn_joined (h : s0.Joined s) {r : Result} : s0.Joined (State.noteReturn s r) := by
  unfold State.noteReturn
  try dsimp only
  repeat' first | with_reducible assumption | with_reducible rfl | intro _ | with_reducible apply State.bump_joined | with_reducible apply joined_ite | fail_if_no_progress with_reducible refine joined_mk ?_ rfl | split | dsimp only | decide

theorem State.markStarted_joined (h : s0.Joined s) {p : Nat} {f : QFrame} : s0.Joined (State.markStarted s p f) := by
  unfold State.markStarted
  try dsimp only
  repeat' first | with_reducible assumption | with_reducible rfl | intro _ | with_reducible apply State.noteReturn_joined | with_reducible apply State.setPort_joined | with_reducible apply joined_ite | fail_if_no_progress with_reducible refine joined_mk ?_ rfl | split | dsimp only | decide

theorem State.untrack_joined (h : s0.Joined s) {k : KeyRef} {reqId : Nat} : s0.Joined (State.untrack s k reqId) := by
  unfold State.untrack
  try dsimp only
  repeat' first | with_reducible assumption | with_reducible rfl | intro _ | with_reducible apply joined_ite | fail_if_no_progress with_reducible refine joined_mk ?_ rfl | split | dsimp only | decide

theorem State.untrackFrame_joined (h : s0.Joined s) {f : QFrame} : s0.Joined (State.untrackFrame s f) := by
  unfold State.untrackFrame
  try dsimp only
  repeat' first | with_reducible assumption | with_reducible rfl | with_reducible apply State.untrack_joined | with_reducible apply joined_ite | fail_if_no_progress with_reducible refine joined_mk ?_ rfl | split | dsimp only | decide

theorem State.pick_joined (h : s0.Joined s) {p : Nat} : s0.Joined (State.pick s p) := by
  unfold State.pick
  try dsimp only
  repeat' first | with_reducible assumption | with_reducible rfl | with_reducible apply State.settle_joined | with_reducible apply State.countHeld_joined | with_reducible apply State.setPort_joined | with_reducible apply State.markStarted_joined | with_reducible apply State.untrackFrame_joined | with_reducible apply joined_ite | fail_if_no_progress with_reducible refine joined_mk ?_ rfl | split | dsimp only | decide

theorem State.send_joined (h : s0.Joined s) {p cls flow len : Nat} {result : Option (Nat × ResKey)} {body : FrameBody} : s0.Joined (State.send s p cls flow len result body) := by
  unfold State.send
  try dsimp only
  repeat' first | with_reducible assumption | with_reducible rfl | with_reducible apply State.enqueue_joined | with_reducible apply State.pick_joined | with_reducible apply joined_ite | split | dsimp only | decide

theorem State.sendSeg_joined (h : s0.Joined s) {d : Dest} {kind type status reason reqId : Nat} {response : Bool} {result : Option (Nat × ResKey)} {count len : Nat} {seg : Nat × List Byte} : s0.Joined (State.sendSeg s d kind type status reason reqId response result count len seg) := by
  unfold State.sendSeg
  try dsimp only
  repeat' first | with_reducible assumption | with_reducible rfl | with_reducible apply State.send_joined | with_reducible apply joined_ite | fail_if_no_progress with_reducible refine joined_mk ?_ rfl | split | dsimp only | decide

theorem State.sendMsg_joined (h : s0.Joined s) {d : Dest} {kind type status reason reqId : Nat} {response : Bool} {result : Option (Nat × ResKey)} {body : List Byte} : s0.Joined (State.sendMsg s d kind type status reason reqId response result body) := by
  unfold State.sendMsg
  try dsimp only
  repeat' first | with_reducible assumption | with_reducible rfl | intro _ | with_reducible apply State.sendSeg_joined | with_reducible apply joined_ite | with_reducible apply joined_foldl | fail_if_no_progress with_reducible refine joined_mk ?_ rfl | split | dsimp only | decide

theorem State.setRing_joined (h : s0.Joined s) {die : Nat} {l : List EvtRec} : s0.Joined (State.setRing s die l) := by
  unfold State.setRing
  try dsimp only
  repeat' first | with_reducible assumption | with_reducible rfl | with_reducible apply joined_ite | fail_if_no_progress with_reducible refine joined_mk ?_ rfl | split | dsimp only | decide

theorem State.setAlerts_joined (h : s0.Joined s) {die : Nat} {l : List Nat} : s0.Joined (State.setAlerts s die l) := by
  unfold State.setAlerts
  try dsimp only
  repeat' first | with_reducible assumption | with_reducible rfl | with_reducible apply joined_ite | fail_if_no_progress with_reducible refine joined_mk ?_ rfl | split | dsimp only | decide

theorem State.eventFrame_joined (h : s0.Joined s) {sub : Sub} {r : EvtRec} : s0.Joined (State.eventFrame s sub r) := by
  unfold State.eventFrame
  try dsimp only
  repeat' first | with_reducible assumption | with_reducible rfl | with_reducible apply State.sendMsg_joined | with_reducible apply joined_ite | fail_if_no_progress with_reducible refine joined_mk ?_ rfl | split | dsimp only | decide

theorem State.ibi_joined (h : s0.Joined s) {byte : Nat} : s0.Joined (State.ibi s byte) := by
  unfold State.ibi
  try dsimp only
  repeat' first | with_reducible assumption | with_reducible rfl | with_reducible apply joined_ite | fail_if_no_progress with_reducible refine joined_mk ?_ rfl | split | dsimp only | decide

theorem State.logEvent_joined (h : s0.Joined s) {die : Nat} {r : EvtRec} : s0.Joined (State.logEvent s die r) := by
  unfold State.logEvent
  try dsimp only
  repeat' first | with_reducible assumption | with_reducible rfl | with_reducible apply State.setRing_joined | with_reducible apply State.setFld_joined | with_reducible apply State.setAlerts_joined | with_reducible apply State.ibi_joined | with_reducible apply joined_ite | split | dsimp only | decide

theorem State.raise_joined (h : s0.Joined s) {die sub : Nat} {a : EvtArgs} : s0.Joined (State.raise s die sub a) := by
  unfold State.raise
  try dsimp only
  repeat' first | with_reducible assumption | with_reducible rfl | intro _ | with_reducible apply State.eventFrame_joined | with_reducible apply State.logEvent_joined | with_reducible apply joined_ite | with_reducible apply joined_foldl | split | dsimp only | decide

theorem State.setOnce_joined (h : s0.Joined s) {o : Once} : s0.Joined (State.setOnce s o) := by
  unfold State.setOnce
  try dsimp only
  repeat' first | with_reducible assumption | with_reducible rfl | intro _ | with_reducible apply joined_ite | fail_if_no_progress with_reducible refine joined_mk ?_ rfl | split | dsimp only | decide

theorem State.raiseOnce_joined (h : s0.Joined s) {die sub item : Nat} {a : EvtArgs} : s0.Joined (State.raiseOnce s die sub item a) := by
  unfold State.raiseOnce
  try dsimp only
  repeat' first | with_reducible assumption | with_reducible rfl | with_reducible apply State.setOnce_joined | with_reducible apply State.raise_joined | with_reducible apply joined_ite | fail_if_no_progress with_reducible refine joined_mk ?_ rfl | split | dsimp only | decide

theorem State.sendKind3_joined (h : s0.Joined s) {port ep n : Nat} {b : FrameBody} : s0.Joined (State.sendKind3 s port ep n b) := by
  unfold State.sendKind3
  try dsimp only
  repeat' first | with_reducible assumption | with_reducible rfl | with_reducible apply State.send_joined | with_reducible apply joined_ite | split | dsimp only | decide

theorem State.resend_joined (h : s0.Joined s) {q : Qp} : s0.Joined (State.resend s q) := by
  unfold State.resend
  try dsimp only
  repeat' first | with_reducible assumption | with_reducible rfl | intro _ | with_reducible apply State.send_joined | with_reducible apply joined_ite | with_reducible apply joined_foldl | split | dsimp only | decide

end Sys2Proof.Machine
end

