-- ==== Sys2Proof/Laws/Housed.lean ====
section
/-! SUPPORT. What leaves scrub jobs, services, control cores and automata alone. -/

namespace Sys2Proof.Machine

/-- `b` has the scrub jobs, the services, the control cores and the automata of `a`. -/
structure State.Housed (a b : State) : Prop where
  scrubs : b.lamp.scrubs = a.lamp.scrubs
  services : b.lamp.services = a.lamp.services
  cores : b.lamp.cores = a.lamp.cores
  grams : b.grams = a.grams

variable {s0 s t : State}

theorem housed_refl (s : State) : s.Housed s := ⟨rfl, rfl, rfl, rfl⟩

theorem housed_trans (h : s0.Housed s) (h' : s.Housed t) : s0.Housed t :=
  ⟨h'.scrubs.trans h.scrubs, h'.services.trans h.services, h'.cores.trans h.cores, h'.grams.trans h.grams⟩

/-- A change elsewhere. -/
theorem housed_mk (h : s0.Housed s) {now : Nat} {pending : List Instr} {free : Nat} {regs : List (RegKey × Word)} {bcn : Beacon}
    {ev : Events} {ses : Sessions} {kv : Kv} {attn : Attn} {grams : List ((Nat × Nat) × Gram)} {net : Net} {lamp : Lamp}
    {tier : Tier} {start : Start} {flash : Flash} {ident : Ident} {ckpt : Ckpt} {health : Health} {rp : Replay} {pins : Pins}
    (e0 : lamp.scrubs = s.lamp.scrubs) (e1 : lamp.services = s.lamp.services) (e2 : lamp.cores = s.lamp.cores) (e3 : grams = s.grams) :
    s0.Housed ⟨now, pending, free, regs, bcn, ev, ses, kv, attn, grams, net, lamp, tier, start, flash, ident, ckpt, health, rp,
      pins⟩ := ⟨e0.trans h.scrubs, e1.trans h.services, e2.trans h.cores, e3.trans h.grams⟩

theorem housed_ite {c : Prop} [Decidable c] (h : s0.Housed s) (h' : s0.Housed t) : s0.Housed (if c then s else t) := by
  split <;> assumption

theorem housed_foldl {α : Type} {f : State → α → State} (hf : ∀ s x, s0.Housed s → s0.Housed (f s x)) (l : List α)
    (h : s0.Housed s) : s0.Housed (l.foldl f s) := by
  induction l generalizing s with
  | nil => exact h
  | cons x l ih => exact ih (hf s x h)

theorem State.setReg_housed (h : s0.Housed s) {die sel : Nat} {r : RegId} {w : Word} : s0.Housed (s.setReg die sel r w) := housed_mk h rfl rfl rfl rfl
theorem State.setFld_housed (h : s0.Housed s) {die sel : Nat} {f : Field} {v : Nat} : s0.Housed (s.setFld die sel f v) := housed_mk h rfl rfl rfl rfl
theorem State.bumpBy_housed (h : s0.Housed s) {die sel : Nat} {f : Field} {n : Nat} : s0.Housed (s.bumpBy die sel f n) := housed_mk h rfl rfl rfl rfl
theorem State.bump_housed (h : s0.Housed s) {die sel : Nat} {f : Field} : s0.Housed (s.bump die sel f) := housed_mk h rfl rfl rfl rfl
theorem State.lower_housed (h : s0.Housed s) {die sel : Nat} {f : Field} {n : Nat} : s0.Housed (s.lower die sel f n) := housed_mk h rfl rfl rfl rfl
theorem State.setSess_housed (h : s0.Housed s) {slot : Nat} {r : Session} : s0.Housed (s.setSess slot r) := housed_mk h rfl rfl rfl rfl
theorem State.setPort_housed (h : s0.Housed s) {p : Nat} {x : Port} : s0.Housed (s.setPort p x) := housed_mk h rfl rfl rfl rfl
theorem State.setPoolFree_housed (h : s0.Housed s) {die tier n : Nat} : s0.Housed (s.setPoolFree die tier n) := by
  unfold State.setPoolFree
  dsimp only
  exact State.setReg_housed h

set_option linter.unusedTactic false
set_option linter.unreachableTactic false

theorem State.nextFree_housed (h : s0.Housed s) : s0.Housed (State.nextFree s) := by
  unfold State.nextFree
  try dsimp only
  repeat' first | with_reducible assumption | with_reducible rfl | with_reducible apply housed_ite | fail_if_no_progress with_reducible refine housed_mk ?_ rfl rfl rfl rfl | split | dsimp only | decide

theorem State.settle_housed (h : s0.Housed s) {p : Nat} : s0.Housed (State.settle s p) := by
  unfold State.settle
  try dsimp only
  repeat' first | with_reducible assumption | with_reducible rfl | intro _ | with_reducible apply State.setPort_housed | with_reducible apply housed_ite | with_reducible apply housed_foldl | fail_if_no_progress with_reducible refine housed_mk ?_ rfl rfl rfl rfl | split | dsimp only | decide

theorem State.enqueue_housed (h : s0.Housed s) {p cls flow len : Nat} {result : Option (Nat × ResKey)} {body : FrameBody} : s0.Housed (State.enqueue s p cls flow len result body) := by
  unfold State.enqueue
  try dsimp only
  repeat' first | with_reducible assumption | with_reducible rfl | with_reducible apply State.settle_housed | with_reducible apply State.setPort_housed | with_reducible apply housed_ite | fail_if_no_progress with_reducible refine housed_mk ?_ rfl rfl rfl rfl | split | dsimp only | decide

theorem State.countHeld_housed (h : s0.Housed s) {p : Nat} : s0.Housed (State.countHeld s p) := by
  unfold State.countHeld
  try dsimp only
  repeat' first | with_reducible assumption | with_reducible rfl | intro _ | with_reducible apply State.setPort_housed | with_reducible apply State.bump_housed | with_reducible apply housed_ite | with_reducible apply housed_foldl | fail_if_no_progress with_reducible refine housed_mk ?_ rfl rfl rfl rfl | split | dsimp only | decide

theorem State.noteReturn_housed (h : s0.Housed s) {r : Result} : s0.Housed (State.noteReturn s r) := by
  unfold State.noteReturn
  try dsimp only
  repeat' first | with_reducible assumption | with_reducible rfl | intro _ | with_reducible apply State.bump_housed | with_reducible apply housed_ite | fail_if_no_progress with_reducible refine housed_mk ?_ rfl rfl rfl rfl | split | dsimp only | decide

theorem State.markStarted_housed (h : s0.Housed s) {p : Nat} {f : QFrame} : s0.Housed (State.markStarted s p f) := by
  unfold State.markStarted
  try dsimp only
  repeat' first | with_reducible assumption | with_reducible rfl | intro _ | with_reducible apply State.noteReturn_housed | with_reducible apply State.setPort_housed | with_reducible apply housed_ite | fail_if_no_progress with_reducible refine housed_mk ?_ rfl rfl rfl rfl | split | dsimp only | decide

theorem State.untrack_housed (h : s0.Housed s) {k : KeyRef} {reqId : Nat} : s0.Housed (State.untrack s k reqId) := by
  unfold State.untrack
  try dsimp only
  repeat' first | with_reducible assumption | with_reducible rfl | intro _ | with_reducible apply housed_ite | fail_if_no_progress with_reducible refine housed_mk ?_ rfl rfl rfl rfl | split | dsimp only | decide

theorem State.untrackFrame_housed (h : s0.Housed s) {f : QFrame} : s0.Housed (State.untrackFrame s f) := by
  unfold State.untrackFrame
  try dsimp only
  repeat' first | with_reducible assumption | with_reducible rfl | with_reducible apply State.untrack_housed | with_reducible apply housed_ite | fail_if_no_progress with_reducible refine housed_mk ?_ rfl rfl rfl rfl | split | dsimp only | decide

theorem State.pick_housed (h : s0.Housed s) {p : Nat} : s0.Housed (State.pick s p) := by
  unfold State.pick
  try dsimp only
  repeat' first | with_reducible assumption | with_reducible rfl | with_reducible apply State.settle_housed | with_reducible apply State.countHeld_housed | with_reducible apply State.setPort_housed | with_reducible apply State.markStarted_housed | with_reducible apply State.untrackFrame_housed | with_reducible apply housed_ite | fail_if_no_progress with_reducible refine housed_mk ?_ rfl rfl rfl rfl | split | dsimp only | decide

theorem State.send_housed (h : s0.Housed s) {p cls flow len : Nat} {result : Option (Nat × ResKey)} {body : FrameBody} : s0.Housed (State.send s p cls flow len result body) := by
  unfold State.send
  try dsimp only
  repeat' first | with_reducible assumption | with_reducible rfl | with_reducible apply State.enqueue_housed | with_reducible apply State.pick_housed | with_reducible apply housed_ite | split | dsimp only | decide

theorem State.sendSeg_housed (h : s0.Housed s) {d : Dest} {kind type status reason reqId : Nat} {response : Bool} {result : Option (Nat × ResKey)} {count len : Nat} {seg : Nat × List Byte} : s0.Housed (State.sendSeg s d kind type status reason reqId response result count len seg) := by
  unfold State.sendSeg
  try dsimp only
  repeat' first | with_reducible assumption | with_reducible rfl | with_reducible apply State.send_housed | with_reducible apply housed_ite | fail_if_no_progress with_reducible refine housed_mk ?_ rfl rfl rfl rfl | split | dsimp only | decide

theorem State.sendMsg_housed (h : s0.Housed s) {d : Dest} {kind type status reason reqId : Nat} {response : Bool} {result : Option (Nat × ResKey)} {body : List Byte} : s0.Housed (State.sendMsg s d kind type status reason reqId response result body) := by
  unfold State.sendMsg
  try dsimp only
  repeat' first | with_reducible assumption | with_reducible rfl | intro _ | with_reducible apply State.sendSeg_housed | with_reducible apply housed_ite | with_reducible apply housed_foldl | fail_if_no_progress with_reducible refine housed_mk ?_ rfl rfl rfl rfl | split | dsimp only | decide

theorem State.setRing_housed (h : s0.Housed s) {die : Nat} {l : List EvtRec} : s0.Housed (State.setRing s die l) := by
  unfold State.setRing
  try dsimp only
  repeat' first | with_reducible assumption | with_reducible rfl | with_reducible apply housed_ite | fail_if_no_progress with_reducible refine housed_mk ?_ rfl rfl rfl rfl | split | dsimp only | decide

theorem State.setAlerts_housed (h : s0.Housed s) {die : Nat} {l : List Nat} : s0.Housed (State.setAlerts s die l) := by
  unfold State.setAlerts
  try dsimp only
  repeat' first | with_reducible assumption | with_reducible rfl | with_reducible apply housed_ite | fail_if_no_progress with_reducible refine housed_mk ?_ rfl rfl rfl rfl | split | dsimp only | decide

theorem State.eventFrame_housed (h : s0.Housed s) {sub : Sub} {r : EvtRec} : s0.Housed (State.eventFrame s sub r) := by
  unfold State.eventFrame
  try dsimp only
  repeat' first | with_reducible assumption | with_reducible rfl | with_reducible apply State.sendMsg_housed | with_reducible apply housed_ite | fail_if_no_progress with_reducible refine housed_mk ?_ rfl rfl rfl rfl | split | dsimp only | decide

theorem State.ibi_housed (h : s0.Housed s) {byte : Nat} : s0.Housed (State.ibi s byte) := by
  unfold State.ibi
  try dsimp only
  repeat' first | with_reducible assumption | with_reducible rfl | with_reducible apply housed_ite | fail_if_no_progress with_reducible refine housed_mk ?_ rfl rfl rfl rfl | split | dsimp only | decide

theorem State.logEvent_housed (h : s0.Housed s) {die : Nat} {r : EvtRec} : s0.Housed (State.logEvent s die r) := by
  unfold State.logEvent
  try dsimp only
  repeat' first | with_reducible assumption | with_reducible rfl | with_reducible apply State.setRing_housed | with_reducible apply State.setFld_housed | with_reducible apply State.setAlerts_housed | with_reducible apply State.ibi_housed | with_reducible apply housed_ite | split | dsimp only | decide

theorem State.raise_housed (h : s0.Housed s) {die sub : Nat} {a : EvtArgs} : s0.Housed (State.raise s die sub a) := by
  unfold State.raise
  try dsimp only
  repeat' first | with_reducible assumption | with_reducible rfl | intro _ | with_reducible apply State.eventFrame_housed | with_reducible apply State.logEvent_housed | with_reducible apply housed_ite | with_reducible apply housed_foldl | split | dsimp only | decide

theorem State.setOnce_housed (h : s0.Housed s) {o : Once} : s0.Housed (State.setOnce s o) := by
  unfold State.setOnce
  try dsimp only
  repeat' first | with_reducible assumption | with_reducible rfl | intro _ | with_reducible apply housed_ite | fail_if_no_progress with_reducible refine housed_mk ?_ rfl rfl rfl rfl | split | dsimp only | decide

theorem State.raiseOnce_housed (h : s0.Housed s) {die sub item : Nat} {a : EvtArgs} : s0.Housed (State.raiseOnce s die sub item a) := by
  unfold State.raiseOnce
  try dsimp only
  repeat' first | with_reducible assumption | with_reducible rfl | with_reducible apply State.setOnce_housed | with_reducible apply State.raise_housed | with_reducible apply housed_ite | fail_if_no_progress with_reducible refine housed_mk ?_ rfl rfl rfl rfl | split | dsimp only | decide

theorem State.closeRec_housed (h : s0.Housed s) : s0.Housed (State.closeRec s) := by
  unfold State.closeRec
  try dsimp only
  repeat' first | with_reducible assumption | with_reducible rfl | with_reducible apply State.setFld_housed | with_reducible apply housed_ite | fail_if_no_progress with_reducible refine housed_mk ?_ rfl rfl rfl rfl | split | dsimp only | decide

theorem State.addRec_housed (h : s0.Housed s) {status port ctx ep len : Nat} {body : RecBody} : s0.Housed (State.addRec s status port ctx ep len body) := by
  unfold State.addRec
  try dsimp only
  repeat' first | with_reducible assumption | with_reducible rfl | with_reducible apply State.setFld_housed | with_reducible apply State.raiseOnce_housed | with_reducible apply State.closeRec_housed | with_reducible apply State.raise_housed | with_reducible apply State.setReg_housed | with_reducible apply housed_ite | fail_if_no_progress with_reducible refine housed_mk ?_ rfl rfl rfl rfl | split | dsimp only | decide

theorem State.diverge_housed (h : s0.Housed s) {msg : Nat} : s0.Housed (State.diverge s msg) := by
  unfold State.diverge
  try dsimp only
  repeat' first | with_reducible assumption | with_reducible rfl | with_reducible apply State.bump_housed | with_reducible apply State.setFld_housed | with_reducible apply State.raise_housed | with_reducible apply housed_ite | split | dsimp only | decide

theorem State.formed_housed (h : s0.Housed s) {msg port : Nat} {f : List Byte} : s0.Housed (State.formed s msg port f) := by
  unfold State.formed
  try dsimp only
  repeat' first | with_reducible assumption | with_reducible rfl | with_reducible apply State.addRec_housed | with_reducible apply State.diverge_housed | with_reducible apply housed_ite | fail_if_no_progress with_reducible refine housed_mk ?_ rfl rfl rfl rfl | split | dsimp only | decide

theorem State.formResult_housed (h : s0.Housed s) {r : Result} : s0.Housed (State.formResult s r) := by
  unfold State.formResult
  try dsimp only
  repeat' first | with_reducible assumption | with_reducible rfl | intro _ | with_reducible apply State.formed_housed | with_reducible apply housed_ite | fail_if_no_progress with_reducible refine housed_mk ?_ rfl rfl rfl rfl | split | dsimp only | decide

theorem State.formResults_housed (h : s0.Housed s) : s0.Housed (State.formResults s) := by
  unfold State.formResults
  try dsimp only
  repeat' first | with_reducible assumption | with_reducible rfl | intro _ | with_reducible apply State.formResult_housed | with_reducible apply housed_ite | with_reducible apply housed_foldl | split | dsimp only | decide

theorem State.cbwWrite_housed (h : s0.Housed s) {die granule : Nat} : s0.Housed (State.cbwWrite s die granule) := by
  unfold State.cbwWrite
  try dsimp only
  repeat' first | with_reducible assumption | with_reducible rfl | intro _ | with_reducible apply State.bump_housed | with_reducible apply State.setFld_housed | with_reducible apply housed_ite | fail_if_no_progress with_reducible refine housed_mk ?_ rfl rfl rfl rfl | split | dsimp only | decide

theorem State.quotaTest_housed (h : s0.Housed s) {die ctx tier : Nat} : s0.Housed (State.quotaTest s die ctx tier) := by
  unfold State.quotaTest
  try dsimp only
  repeat' first | with_reducible assumption | with_reducible rfl | with_reducible apply State.setFld_housed | with_reducible apply State.raise_housed | with_reducible apply housed_ite | fail_if_no_progress with_reducible refine housed_mk ?_ rfl rfl rfl rfl | split | dsimp only | decide

theorem State.setUse_housed (h : s0.Housed s) {die ctx tier g : Nat} : s0.Housed (State.setUse s die ctx tier g) := by
  unfold State.setUse
  try dsimp only
  repeat' first | with_reducible assumption | with_reducible rfl | with_reducible apply State.setReg_housed | with_reducible apply State.quotaTest_housed | with_reducible apply housed_ite | split | dsimp only | decide

theorem State.evictTest_housed (h : s0.Housed s) {die tier : Nat} : s0.Housed (State.evictTest s die tier) := by
  unfold State.evictTest
  try dsimp only
  repeat' first | with_reducible assumption | with_reducible rfl | with_reducible apply housed_ite | fail_if_no_progress with_reducible refine housed_mk ?_ rfl rfl rfl rfl | split | dsimp only | decide

theorem State.alloc_housed (h : s0.Housed s) {die tier ctx g : Nat} : s0.Housed (State.alloc s die tier ctx g) := by
  unfold State.alloc
  try dsimp only
  repeat' first | with_reducible assumption | with_reducible rfl | with_reducible apply State.setUse_housed | with_reducible apply State.setPoolFree_housed | with_reducible apply State.evictTest_housed | with_reducible apply housed_ite | split | dsimp only | decide

theorem State.dealloc_housed (h : s0.Housed s) {die tier ctx g : Nat} : s0.Housed (State.dealloc s die tier ctx g) := by
  unfold State.dealloc
  try dsimp only
  repeat' first | with_reducible assumption | with_reducible rfl | with_reducible apply State.setUse_housed | with_reducible apply State.setPoolFree_housed | with_reducible apply State.evictTest_housed | with_reducible apply housed_ite | split | dsimp only | decide

theorem State.shootdown_housed (h : s0.Housed s) {die vun : Nat} : s0.Housed (State.shootdown s die vun) := by
  unfold State.shootdown
  try dsimp only
  repeat' first | with_reducible assumption | with_reducible rfl | intro _ | with_reducible apply State.bump_housed | with_reducible apply housed_ite | fail_if_no_progress with_reducible refine housed_mk ?_ rfl rfl rfl rfl | split | dsimp only | decide

theorem State.mapResult_housed (h : s0.Housed s) {slot : Nat} {key : ResKey} {f : Result → Result} : s0.Housed (State.mapResult s slot key f) := by
  unfold State.mapResult
  try dsimp only
  repeat' first | with_reducible assumption | with_reducible rfl | intro _ | with_reducible apply housed_ite | fail_if_no_progress with_reducible refine housed_mk ?_ rfl rfl rfl rfl | split | dsimp only | decide

theorem State.setSeg_housed (h : s0.Housed s) {x : Seg} : s0.Housed (State.setSeg s x) := by
  unfold State.setSeg
  try dsimp only
  repeat' first | with_reducible assumption | with_reducible rfl | intro _ | with_reducible apply housed_ite | fail_if_no_progress with_reducible refine housed_mk ?_ rfl rfl rfl rfl | split | dsimp only | decide

theorem State.openSeg_housed (h : s0.Housed s) {die group kind : Nat} : SomeP s0.Housed (State.openSeg s die group kind) := by
  unfold State.openSeg
  try dsimp only
  repeat' first | with_reducible assumption | with_reducible rfl | with_reducible exact somep_none | with_reducible apply somep_some | with_reducible apply State.setSeg_housed | with_reducible apply State.raiseOnce_housed | with_reducible apply housed_ite | fail_if_no_progress with_reducible refine housed_mk ?_ rfl rfl rfl rfl | split | dsimp only | decide

theorem State.settleSeg_housed (h : s0.Housed s) {x : Seg} : s0.Housed (State.settleSeg s x) := by
  unfold State.settleSeg
  try dsimp only
  repeat' first | with_reducible assumption | with_reducible rfl | with_reducible apply State.setSeg_housed | with_reducible apply housed_ite | fail_if_no_progress with_reducible refine housed_mk ?_ rfl rfl rfl rfl | split | dsimp only | decide

theorem State.bufferStripes_housed (h : s0.Housed s) {x : Seg} {a b : Nat} : s0.Housed (State.bufferStripes s x a b) := by
  unfold State.bufferStripes
  try dsimp only
  repeat' first | with_reducible assumption | with_reducible rfl | intro _ | with_reducible apply housed_ite | with_reducible apply housed_foldl | fail_if_no_progress with_reducible refine housed_mk ?_ rfl rfl rfl rfl | split | dsimp only | decide

theorem State.placeIn_housed (h : s0.Housed s) {x : Seg} {align size : Nat} {o : Owner} : s0.Housed (State.placeIn s x align size o).1 := by
  unfold State.placeIn
  try dsimp only
  repeat' first | with_reducible assumption | with_reducible rfl | with_reducible apply State.setSeg_housed | with_reducible apply State.bufferStripes_housed | with_reducible apply housed_ite | fail_if_no_progress with_reducible refine housed_mk ?_ rfl rfl rfl rfl | split | dsimp only | decide

theorem State.place_housed (h : s0.Housed s) {die group kind align size : Nat} {o : Owner} : SomeP s0.Housed (State.place s die group kind align size o) := by
  unfold State.place
  try dsimp only
  repeat' first | with_reducible assumption | with_reducible rfl | with_reducible exact somep_none | with_reducible apply somep_some | with_reducible apply State.placeIn_housed | with_reducible apply State.settleSeg_housed | with_reducible apply State.openSeg_housed | with_reducible apply housed_ite | fail_if_no_progress with_reducible refine housed_mk ?_ rfl rfl rfl rfl | refine pair_of (P := s0.Housed) (by assumption) ?_ | refine somep_of (P := s0.Housed) (by assumption) ?_ | split | dsimp only | decide

theorem State.releaseT2_housed (h : s0.Housed s) {die loc : Nat} : s0.Housed (State.releaseT2 s die loc) := by
  unfold State.releaseT2
  try dsimp only
  repeat' first | with_reducible assumption | with_reducible rfl | intro _ | with_reducible apply State.settleSeg_housed | with_reducible apply housed_ite | fail_if_no_progress with_reducible refine housed_mk ?_ rfl rfl rfl rfl | split | dsimp only | decide

theorem State.mapUnit_housed (h : s0.Housed s) {slot : Nat} {key : ResKey} {kvHead seg : Nat} {f : AttnUnit → AttnUnit} : s0.Housed (State.mapUnit s slot key kvHead seg f) := by
  unfold State.mapUnit
  try dsimp only
  repeat' first | with_reducible assumption | with_reducible rfl | intro _ | with_reducible apply State.mapResult_housed | with_reducible apply housed_ite | fail_if_no_progress with_reducible refine housed_mk ?_ rfl rfl rfl rfl | split | dsimp only | decide

theorem State.promoteFirst_housed (h : s0.Housed s) {die : Nat} {u : UnitRef} : s0.Housed (State.promoteFirst s die u) := by
  unfold State.promoteFirst
  try dsimp only
  repeat' first | with_reducible assumption | with_reducible rfl | intro _ | with_reducible apply housed_ite | fail_if_no_progress with_reducible refine housed_mk ?_ rfl rfl rfl rfl | split | dsimp only | decide

theorem State.waitPage_housed (h : s0.Housed s) {r : Result} {u : AttnUnit} {page : Nat} : s0.Housed (State.waitPage s r u page) := by
  unfold State.waitPage
  try dsimp only
  repeat' first | with_reducible assumption | with_reducible rfl | intro _ | with_reducible apply State.mapUnit_housed | with_reducible apply State.promoteFirst_housed | with_reducible apply State.bump_housed | with_reducible apply State.raiseOnce_housed | with_reducible apply housed_ite | fail_if_no_progress with_reducible refine housed_mk ?_ rfl rfl rfl rfl | split | dsimp only | decide

theorem State.startUnit_housed (h : s0.Housed s) {r : Result} {u : AttnUnit} {core : Nat} : s0.Housed (State.startUnit s r u core) := by
  unfold State.startUnit
  try dsimp only
  repeat' first | with_reducible assumption | with_reducible rfl | intro _ | with_reducible apply State.mapUnit_housed | with_reducible apply housed_ite | fail_if_no_progress with_reducible refine housed_mk ?_ rfl rfl rfl rfl | split | dsimp only | decide

theorem State.startGroup_housed (h : s0.Housed s) {g : Group} : s0.Housed (State.startGroup s g) := by
  unfold State.startGroup
  try dsimp only
  repeat' first | with_reducible assumption | with_reducible rfl | intro _ | with_reducible apply State.bump_housed | with_reducible apply State.mapUnit_housed | with_reducible apply State.mapResult_housed | with_reducible apply housed_ite | with_reducible apply housed_foldl | fail_if_no_progress with_reducible refine housed_mk ?_ rfl rfl rfl rfl | split | dsimp only | decide

theorem State.startGroups_housed (h : s0.Housed s) {die cluster : Nat} : s0.Housed (State.startGroups s die cluster) := by
  unfold State.startGroups
  try dsimp only
  repeat' first | with_reducible assumption | with_reducible rfl | intro _ | with_reducible apply State.startGroup_housed | with_reducible apply housed_ite | with_reducible apply housed_foldl | split | dsimp only | decide

theorem State.pumpUnit_housed (h : s0.Housed s) {r : Result} {u : AttnUnit} : s0.Housed (State.pumpUnit s r u) := by
  unfold State.pumpUnit
  try dsimp only
  repeat' first | with_reducible assumption | with_reducible rfl | intro _ | with_reducible apply State.waitPage_housed | with_reducible apply State.mapUnit_housed | with_reducible apply State.bump_housed | with_reducible apply State.startUnit_housed | with_reducible apply housed_ite | fail_if_no_progress with_reducible refine housed_mk ?_ rfl rfl rfl rfl | split | dsimp only | decide

theorem State.pump_housed (h : s0.Housed s) {die cluster : Nat} : s0.Housed (State.pump s die cluster) := by
  unfold State.pump
  try dsimp only
  repeat' first | with_reducible assumption | with_reducible rfl | intro _ | with_reducible apply State.pumpUnit_housed | with_reducible apply State.startGroups_housed | with_reducible apply housed_ite | with_reducible apply housed_foldl | split | dsimp only | decide

theorem State.startMove_housed (h : s0.Housed s) {die : Nat} {u : UnitRef} {i : UnitInfo} {dst : Nat} {quota paced : Bool} {wake : Option Nat} : s0.Housed (State.startMove s die u i dst quota paced wake) := by
  unfold State.startMove
  try dsimp only
  repeat' first | with_reducible assumption | with_reducible rfl | with_reducible exact somep_none | with_reducible apply somep_some | with_reducible apply State.place_housed | with_reducible apply State.nextFree_housed | with_reducible apply State.alloc_housed | with_reducible apply housed_ite | fail_if_no_progress with_reducible refine housed_mk ?_ rfl rfl rfl rfl | refine somep_of (P := s0.Housed) (by assumption) ?_ | split | dsimp only | decide

theorem State.promotingTest_housed (h : s0.Housed s) {slot : Nat} : s0.Housed (State.promotingTest s slot) := by
  unfold State.promotingTest
  try dsimp only
  repeat' first | with_reducible assumption | with_reducible rfl | intro _ | with_reducible apply State.setSess_housed | with_reducible apply housed_ite | fail_if_no_progress with_reducible refine housed_mk ?_ rfl rfl rfl rfl | split | dsimp only | decide

theorem State.startPromo_housed (h : s0.Housed s) {die : Nat} : s0.Housed (State.startPromo s die) := by
  unfold State.startPromo
  try dsimp only
  repeat' first | with_reducible assumption | with_reducible rfl | intro _ | with_reducible apply State.promotingTest_housed | with_reducible apply State.startMove_housed | with_reducible apply housed_ite | fail_if_no_progress with_reducible refine housed_mk ?_ rfl rfl rfl rfl | split | dsimp only | decide

theorem State.startPromos_housed (h : s0.Housed s) {die n : Nat} : s0.Housed (State.startPromos s die n) := by
  induction n generalizing s with
  | zero => exact h
  | succ n ih => exact ih (State.startPromo_housed h)

theorem State.runPromos_housed (h : s0.Housed s) {die : Nat} : s0.Housed (State.runPromos s die) := by
  unfold State.runPromos
  try dsimp only
  repeat' first | with_reducible assumption | with_reducible rfl | with_reducible apply State.startPromos_housed | with_reducible apply housed_ite | split | split | dsimp only | decide

theorem State.pumpAll_housed (h : s0.Housed s) : s0.Housed (State.pumpAll s) := by
  unfold State.pumpAll
  try dsimp only
  repeat' first | with_reducible assumption | with_reducible rfl | intro _ | with_reducible apply State.pump_housed | with_reducible apply State.runPromos_housed | with_reducible apply housed_ite | with_reducible apply housed_foldl | split | dsimp only | decide

theorem State.freeCopies_housed (h : s0.Housed s) {p : T0Copy → Bool} : s0.Housed (State.freeCopies s p) := by
  unfold State.freeCopies
  try dsimp only
  repeat' first | with_reducible assumption | with_reducible rfl | intro _ | with_reducible apply State.dealloc_housed | with_reducible apply housed_ite | with_reducible apply housed_foldl | fail_if_no_progress with_reducible refine housed_mk ?_ rfl rfl rfl rfl | split | dsimp only | decide

theorem State.slotScrubbed_housed (h : s0.Housed s) {die slot : Nat} : s0.Housed (State.slotScrubbed s die slot) := by
  unfold State.slotScrubbed
  try dsimp only
  repeat' first | with_reducible assumption | with_reducible rfl | intro _ | with_reducible apply State.freeCopies_housed | with_reducible apply State.shootdown_housed | with_reducible apply State.dealloc_housed | with_reducible apply State.setSess_housed | with_reducible apply State.cbwWrite_housed | with_reducible apply housed_ite | fail_if_no_progress with_reducible refine housed_mk ?_ rfl rfl rfl rfl | split | dsimp only | decide

end Sys2Proof.Machine
end

