-- ==== Sys2Proof/Laws/TallyCmds.lean ====
section
/-! SUPPORT. Helpers about counters, wires and stored fields. -/

namespace Sys2Proof.Machine

variable {s s0 t : State}

theorem pairwise_apart (l : List FieldRow) (h : l.Pairwise (fun f g => f.hi < g.lo ∨ g.hi < f.lo)) (g f : FieldRow) (hg : g ∈ l) (hf : f ∈ l) :
    g = f ∨ (f.hi < g.lo ∨ g.hi < f.lo) := by
  induction l with
  | nil => cases hg
  | cons x l ih =>
    rw [List.pairwise_cons] at h
    rcases List.mem_cons.1 hg with e | hg
    · rcases List.mem_cons.1 hf with e' | hf
      · exact .inl (e.trans e'.symm)
      · have := h.1 f hf
        rw [← e] at this
        omega
    · rcases List.mem_cons.1 hf with e' | hf
      · have := h.1 g hg
        rw [← e'] at this
        omega
      · exact ih h.2 hg hf

theorem getBits_stored_bad {r : RegRow} (ht : r.tidy = true) {f : FieldRow} (hf : f ∈ r.fields) (ha : f.acc = .rw) {v : Word}
    (hb : badValue r.id f.hi (getBits v f.hi f.lo) = true) (lk : Bool) (old : Word) :
    getBits (r.stored lk old v) f.hi f.lo = getBits old f.hi f.lo := by
  unfold RegRow.tidy at ht
  simp only [Bool.and_eq_true, List.all_eq_true, decide_eq_true_eq] at ht
  obtain ⟨t1, t2⟩ := ht
  rw [stored_eq]
  unfold getBits
  congr 1
  refine BitVec.eq_of_getLsbD_eq fun i hi' => ?_
  rw [BitVec.getLsbD_extractLsb', BitVec.getLsbD_extractLsb']
  have h1 := t1 f hf
  have key : ∀ (l : List FieldRow) (w : Word), (∀ g ∈ l, g ∈ r.fields) → l.Pairwise (fun f g => f.hi < g.lo ∨ g.hi < f.lo) →
      (∀ g ∈ l, g = f ∨ (f.hi < g.lo ∨ g.hi < f.lo)) →
      (l.foldl (storeField r.id lk v) w).getLsbD (f.lo + i) = w.getLsbD (f.lo + i) := by
    intro l
    induction l with
    | nil => intro w _ _ _; rfl
    | cons g l ih =>
      intro w hm hp hg
      refine (ih _ (fun x hx => hm x (.tail _ hx)) (List.pairwise_cons.1 hp).2 fun x hx => hg x (.tail _ hx)).trans ?_
      rcases hg g (.head _) with rfl | h
      · unfold storeField
        rw [ha]
        dsimp only
        rw [hb, if_pos rfl]
      · have h2 := t1 g (hm g (.head _))
        exact storeField_out h2.1 h2.2 (by omega)
  rw [key r.fields old (fun _ h => h) t2]
  intro g hg
  by_cases e : g = f
  · exact .inl e
  · refine .inr ?_
    have := pairwise_apart r.fields t2 g f
    rcases this hg hf with h | h
    · exact absurd h e
    · exact h

theorem fld_store_bad {die sel : Nat} {r : RegRow} {v : Word} (ht : r.tidy = true) {f : FieldRow} (hf : f ∈ r.fields)
    (ha : f.acc = .rw) (hb : badValue r.id f.hi (getBits v f.hi f.lo) = true) :
    (s.store die sel r v).fld die sel ⟨r.id, f.hi, f.lo⟩ = s.fld die sel ⟨r.id, f.hi, f.lo⟩ := by
  unfold State.fld State.store
  rw [reg_setReg_self]
  exact getBits_stored_bad ht hf ha hb _ _

theorem core_setCore (s : State) (c : CoreState) (d code : Nat) (h1 : c.die = d) (h2 : c.code = code) : (s.setCore c).core d code = c := by
  unfold State.core State.setCore
  dsimp only
  rw [List.find?_cons_of_pos (by simp [h1, h2])]
  rfl

theorem bit_of_set (w : Word) (j : Nat) (h : j < 64) : getBits (setBits w j j 1) j j = 1 := by
  rw [getBits_setBits h (Nat.le_refl _)]
  simp

theorem wokenReg_ne (k : Nat) (r : RegId) (h : r.off < 0x040 ∨ 0x060 ≤ r.off ∨ r.blk ≠ 0x0C) (hk : k < 4) : wokenReg k ≠ r := by
  intro e
  subst e
  unfold wokenReg at h
  simp only [ne_eq, not_true_eq_false, or_false] at h
  omega

theorem latch_set (s : State) (die w : Nat) : ((s.setReg die 0 (wokenReg (w / 64)) (setBits (s.reg die 0 (wokenReg (w / 64))) (w % 64) (w % 64) 1))).latched die w = true := by
  unfold State.latched
  rw [reg_setReg_self, bit_of_set _ _ (Nat.mod_lt _ (by decide))]
  rfl

theorem fireWire_latched (s : State) (die w : Nat) : (s.fireWire die w).latched die w = true := latch_set s die w

theorem fireWire_fld (s : State) (die w : Nat) {d i : Nat} {f : Field} (hf : f.reg.off < 0x040) (hw : w < 256) :
    (s.fireWire die w).fld d i f = s.fld d i f := by
  refine Eq.trans (b := (s.setReg die 0 (wokenReg (w / 64)) (setBits (s.reg die 0 (wokenReg (w / 64))) (w % 64) (w % 64) 1)).fld d i f) rfl ?_
  exact fld_setReg_ne s _ (.inr (.inr (Ne.symm (wokenReg_ne _ _ (.inl hf) (by omega)))))

theorem wire_lt (s : State) (d i : Nat) : s.fld d i Fld.TL_DESC_WIRE < 256 := fld_lt s _ _ _

theorem tlTest_fld (s : State) (die i : Nat) {d j : Nat} {f : Field} (hf : f.reg.off < 0x040) (h : f.reg ≠ Reg.TL_DESC) :
    (s.tlTest die i).fld d j f = s.fld d j f := by
  unfold State.tlTest
  split
  · rw [fireWire_fld _ _ _ hf (by exact wire_lt s _ _)]
    exact fld_setFld_ne s _ (.inr (.inr h))
  · rfl

theorem tlTest_status (s : State) (die i : Nat) : (s.tlTest die i).rp = s.rp := by
  unfold State.tlTest
  split <;> rfl

theorem tlEvent_reported (h : s0.Reported s) {die i sub : Nat} {alert : Bool} : s0.Reported (s.tlEvent die i sub alert) :=
  State.raiseOnce_reported h

theorem tlStore_value (s : State) (die i v : Nat) (hv : v ≤ tlMax) : (s.tlStore die i v).1.tlValue die i = v
    ∧ (s.tlStore die i v).2 = (if v = tlMax then St.saturated else St.done, 0) := by
  have h0 : ∀ x : State, (x.setFld die i Fld.TL_VALUE_VALUE v).fld die i Fld.TL_VALUE_VALUE = v := by
    intro x
    rw [fld_setFld_self _ _ _ _ _ (by decide) (by decide)]
    exact Nat.mod_eq_of_lt (Nat.lt_of_le_of_lt hv (by decide))
  unfold State.tlStore
  dsimp only
  by_cases h : v = tlMax
  · rw [if_pos h, if_pos h]
    refine ⟨?_, rfl⟩
    unfold State.tlValue
    rw [tlTest_fld _ _ _ (by decide) (by decide)]
    rw [(tlEvent_reported (reported_refl _)).fld _ _ (by decide)]
    unfold State.bump State.bumpBy
    rw [fld_setFld_ne _ _ (.inr (.inr (by decide))), fld_setFld_ne _ _ (.inr (.inr (by decide)))]
    exact h0 s
  · rw [if_neg h, if_neg h]
    refine ⟨?_, rfl⟩
    unfold State.tlValue
    rw [tlTest_fld _ _ _ (by decide) (by decide)]
    exact h0 s

theorem tlChange_value (s : State) (die i : Nat) (ep : Option Nat) (adv : Bool) (n : Nat) (hm : s.tlMisuse die i ep = false)
    (hs : s.fld die i Fld.TL_DESC_SATURATED = 0) (hn : tlNew adv (s.tlValue die i) n ≠ s.tlValue die i)
    (hb : s.tlBreach die i (tlNew adv (s.tlValue die i) n) = none) (hx : tlNew adv (s.tlValue die i) n ≤ tlMax) :
    (s.tlChange die i ep adv n).1.tlValue die i = tlNew adv (s.tlValue die i) n
    ∧ (s.tlChange die i ep adv n).2 = (if tlNew adv (s.tlValue die i) n = tlMax then St.saturated else St.done, 0) := by
  unfold State.tlChange
  rw [if_neg (by rw [hm]; decide), if_neg (by rw [hs]; decide)]
  dsimp only
  rw [if_neg hn, hb]
  exact tlStore_value s die i _ hx

theorem tlValue_le (s : State) (die i : Nat) : s.tlValue die i ≤ tlMax := by
  have : s.tlValue die i < 2 ^ 64 := fld_lt s _ _ _
  unfold tlMax
  omega

theorem tlNew_le (adv : Bool) {v n : Nat} (hv : v ≤ tlMax) (hn : adv = true → n ≤ tlMax) : tlNew adv v n ≤ tlMax := by
  unfold tlNew
  split
  · rename_i h
    have := hn h
    omega
  · exact Nat.min_le_right _ _

theorem tlRun_go (s : State) (e : Env) (type : Nat) (m : TallyMsg) (bad : Bool) (f : State → Nat → Nat → State)
    (h1 : s.fld (m.tally / 32768) 0 Fld.TL_CTRL_ENABLE = 1) (h2 : s.senderOk e e.ctx = true)
    (h3 : s.tlIn (m.tally / 32768) e.ctx (m.tally % 32768) = true) (hb : bad = false) (he : e.areaFail = none) :
    s.tlRun e type m bad f = f s (m.tally / 32768) (m.tally % 32768) := by
  unfold State.tlRun State.tlSender
  dsimp only
  rw [if_neg (by omega), if_pos h2, if_pos h3]
  dsimp only
  rw [if_neg (by rw [hb]; decide), he]

theorem heard_reg (s : State) (e : Env) (type : Nat) {d i : Nat} {f : Field} (hf : f.reg ∉ chatter) :
    (s.heard e type none).fld d i f = s.fld d i f :=
  ((heard_reported (s := s) (e := e) (type := type) (slot := none) (.inl rfl)).fld d i hf).trans rfl

theorem tlChange_rp (h : s0.Reported s) : s0.Reported s := h

end Sys2Proof.Machine
end

