-- ==== Sys2Proof/Laws/LampCmds.lean ====
section
/-! SUPPORT. Helpers about control cores, teardown and services. -/

namespace Sys2Proof.Machine

variable {s s0 t : State}

theorem core_setCore_ne (s : State) (c : CoreState) (d code : Nat) (h : c.die ≠ d ∨ c.code ≠ code) : (s.setCore c).core d code = s.core d code := by
  unfold State.core State.setCore
  dsimp only
  have hb : (c.die == d && c.code == code) = false := by
    rw [Bool.and_eq_false_iff, beq_eq_false_iff_ne, beq_eq_false_iff_ne]
    exact h
  rw [List.find?_cons_of_neg (by rw [hb]; decide), List.find?_filter]
  congr 2
  funext x
  by_cases e : (x.die == d && x.code == code) = true
  · rw [e]
    simp only [Bool.and_eq_true, beq_iff_eq] at e
    have : (x.die == c.die && x.code == c.code) = false := by
      rw [Bool.and_eq_false_iff, beq_eq_false_iff_ne, beq_eq_false_iff_ne, e.1, e.2]
      rcases h with h | h
      · exact .inl (Ne.symm h)
      · exact .inr (Ne.symm h)
    rw [this]
    rfl
  · rw [Bool.not_eq_true] at e
    rw [e]
    simp

theorem core_of (h : t.lamp.cores = s.lamp.cores) (d code : Nat) : t.core d code = s.core d code := by
  unfold State.core
  rw [h]

theorem core_at (s : State) (d code : Nat) : (s.core d code).die = d ∧ (s.core d code).code = code := by
  unfold State.core
  cases h : s.lamp.cores.find? (fun c => c.die == d && c.code == code) with
  | none => exact ⟨rfl, rfl⟩
  | some c => simpa using List.find?_some h

theorem core_setCore' (s : State) (c : CoreState) (d code : Nat) (h1 : c.die = d) (h2 : c.code = code) : (s.setCore c).core d code = c := by
  unfold State.core State.setCore
  dsimp only
  rw [List.find?_cons_of_pos (by simp [h1, h2])]
  rfl

theorem endService_cores (s : State) (v : Service) (st : Nat) : (s.endService v st).lamp.cores = s.lamp.cores := rfl

theorem abandon_cores (s : State) (die code : Nat) : (s.abandonService die code).lamp.cores = s.lamp.cores := by
  unfold State.abandonService
  split <;> rfl

theorem setMap_cores (s : State) (die i : Nat) (b : Bool) : (s.setMap die i b).lamp = s.lamp := by
  unfold State.setMap
  rfl

theorem lampFault_halts (s : State) (die code : Nat) (hc : code < 9) (hu : s.coreUp die code = true) : ((s.lampFault die code).core die code).halted = true := by
  unfold State.lampFault
  rw [if_neg (by rw [hu]; simp; omega)]
  extract_lets cl w1 q w2 w3 free w4 w5 w6 w7
  have h2 : (w2.core die code).halted = true := by
    have := core_setCore' w1 { w1.core die code with halted := true, asleep := none } die code (core_at w1 die code).1 (core_at w1 die code).2
    exact congrArg CoreState.halted this
  have h3 : w3.core die code = w2.core die code := core_of ((rfl : w3.lamp.cores = (w2.abandonService die code).lamp.cores).trans (abandon_cores _ _ _)) _ _
  have h4 : w4.core die code = w3.core die code := by
    refine core_of ?_ _ _
    unfold w4
    split
    · exact congrArg Lamp.cores (setMap_cores _ _ _ _)
    · rfl
  have h5 : w5.core die code = w4.core die code := core_of (congrArg Lamp.cores (setMap_cores _ _ _ _)) _ _
  split
  · rename_i hf
    have hne : code ≠ 8 := by
      intro e
      subst e
      unfold free at hf
      simp at hf
    have h6 : w6.core die code = w5.core die code := core_setCore_ne _ _ _ _ (.inr (Ne.symm hne))
    have h7 : w7.core die code = w6.core die code := core_of rfl _ _
    rw [core_of (State.raise_housed (housed_refl w7)).cores, h7, h6, h5, h4, h3]
    exact h2
  · rw [core_of (State.raise_housed (housed_refl w4)).cores, h4, h3]
    exact h2

theorem fld_setFld_reg (s : State) {d i d' i' : Nat} {f g : Field} (v : Nat) (h : f.reg ≠ g.reg) : (s.setFld d i g v).fld d' i' f = s.fld d' i' f :=
  fld_setFld_ne s v (.inr (.inr h))

theorem endService_fld (s : State) (v : Service) (st : Nat) {d i : Nat} {f : Field} (h1 : f.reg ≠ Reg.LP_TASK) (h2 : f.reg ≠ Reg.LP_SVC_CTRL) :
    (s.endService v st).fld d i f = s.fld d i f := by
  unfold State.endService
  dsimp only
  rw [fld_setFld_reg _ _ h2, fld_setFld_reg _ _ h2, fld_setFld_reg _ _ h2, fld_setReg_ne _ _ (.inr (.inr h1))]
  rfl

theorem endService_status (s : State) (v : Service) (st : Nat) (h : st < 16) : (s.endService v st).fld v.die 0 Fld.LP_SVC_CTRL_STATUS = st
    ∧ (s.endService v st).fld v.die 0 Fld.LP_SVC_CTRL_BUSY = 0 := by
  unfold State.endService
  dsimp only
  refine ⟨?_, ?_⟩
  · rw [fld_setFld_other _ _ (by decide) (by decide) (by decide) (by decide), fld_setFld_self _ _ _ _ _ (by decide) (by decide)]
    exact Nat.mod_eq_of_lt (Nat.lt_of_lt_of_le h (by decide))
  · rw [fld_setFld_other _ _ (by decide) (by decide) (by decide) (by decide), fld_setFld_other _ _ (by decide) (by decide) (by decide) (by decide),
      fld_setFld_self _ _ _ _ _ (by decide) (by decide)]
    rfl

theorem lampFault_limit (s : State) (die code d i : Nat) : (s.lampFault die code).fld d i Fld.LP_LIMIT_STAT_LIMIT = s.fld d i Fld.LP_LIMIT_STAT_LIMIT := by
  unfold State.lampFault
  split
  · rfl
  · extract_lets cl w1 q w2 w3 free w4 w5 w6 w7
    have hm : ∀ (x : State) b v, (x.setMap die b v).fld d i Fld.LP_LIMIT_STAT_LIMIT = x.fld d i Fld.LP_LIMIT_STAT_LIMIT := by
      intro x b v
      unfold State.setMap
      refine fld_setReg_ne x _ (.inr (.inr ?_))
      intro e
      have := congrArg RegId.blk e
      exact absurd this (by decide : ¬ (0x0D : Nat) = 0x10)
    have h1 : w1.fld d i Fld.LP_LIMIT_STAT_LIMIT = s.fld d i Fld.LP_LIMIT_STAT_LIMIT := fld_setFld_reg _ _ (by decide)
    have h2 : w2.fld d i Fld.LP_LIMIT_STAT_LIMIT = w1.fld d i Fld.LP_LIMIT_STAT_LIMIT := rfl
    have h3 : w3.fld d i Fld.LP_LIMIT_STAT_LIMIT = w2.fld d i Fld.LP_LIMIT_STAT_LIMIT := by
      refine Eq.trans (b := (w2.abandonService die code).fld d i Fld.LP_LIMIT_STAT_LIMIT) rfl ?_
      unfold State.abandonService
      split
      · exact endService_fld _ _ _ (by decide) (by decide)
      · rfl
    have h4 : w4.fld d i Fld.LP_LIMIT_STAT_LIMIT = w3.fld d i Fld.LP_LIMIT_STAT_LIMIT := by
      unfold w4
      split
      · rw [hm]
        exact fld_setFld_reg _ _ (by decide)
      · exact fld_setFld_reg _ _ (by decide)
    split
    · rw [raise_fld _ _ _ _ _ _ (by decide)]
      refine Eq.trans (b := w6.fld d i Fld.LP_LIMIT_STAT_LIMIT) (fld_setReg_ne _ _ (.inr (.inr (by decide)))) ?_
      refine Eq.trans (b := w5.fld d i Fld.LP_LIMIT_STAT_LIMIT) rfl ?_
      unfold w5
      rw [hm, fld_setFld_reg _ _ (by decide), h4, h3, h2, h1]
    · rw [raise_fld _ _ _ _ _ _ (by decide), h4, h3, h2, h1]

theorem range2 {α : Type} (f : α → Nat → α) (x : α) : (List.range 2).foldl f x = f (f x 0) 1 := rfl

theorem tearDown_fld (s : State) (die ctx cause d i : Nat) {f : Field} (h1 : f.reg ≠ Reg.LP_CTX_CTRL) (h2 : f.reg ∉ chatter) :
    (s.tearDown die ctx cause).fld d i f = s.fld d i f := by
  unfold State.tearDown
  split
  · rfl
  · rw [range2]
    extract_lets w1 n w2
    have e1 : w1.fld d i f = s.fld d i f := by
      unfold w1
      rw [fld_setFld_reg _ _ h1, fld_setFld_reg _ _ h1, fld_setFld_reg _ _ h1, fld_setFld_reg _ _ h1, fld_setFld_reg _ _ h1, fld_setFld_reg _ _ h1]
    clear_value w1
    rw [raise_fld _ _ _ _ _ _ h2]
    exact e1

theorem tearDown_torn (s : State) (die ctx cause : Nat) : (s.tearDown die ctx cause).torn ctx = true := by
  unfold State.tearDown
  split
  · assumption
  · rw [range2]
    extract_lets w1 n w2
    have e1 : w1.fld 0 ctx Fld.LP_CTX_CTRL_TORN = 1 := by
      unfold w1
      rw [fld_setFld_ne _ _ (.inl (by decide)), fld_setFld_ne _ _ (.inl (by decide)), fld_setFld_ne _ _ (.inl (by decide)),
        fld_setFld_other _ _ (by decide) (by decide) (by decide) (by decide), fld_setFld_other _ _ (by decide) (by decide) (by decide) (by decide),
        fld_setFld_self _ _ _ _ _ (by decide) (by decide)]
      rfl
    clear_value w1
    unfold State.torn
    rw [raise_fld _ _ _ _ _ _ (by decide)]
    exact (congrArg (fun n => n == 1) e1)

theorem fwLimit_row (s : State) (die code row : Nat) (h : row < 16) : (s.fwLimit die code row).fld die 0 Fld.LP_LIMIT_STAT_LIMIT = row := by
  unfold State.fwLimit
  extract_lets ctx w1 w2 w3
  have h2 : w3.fld die 0 Fld.LP_LIMIT_STAT_LIMIT = row := by
    unfold w3
    rw [(State.raiseOnce_reported (reported_refl _)).fld _ _ (by decide)]
    unfold w2
    rw [fld_setFld_other _ _ (by decide) (by decide) (by decide) (by decide), fld_setFld_self _ _ _ _ _ (by decide) (by decide)]
    exact Nat.mod_eq_of_lt (Nat.lt_of_lt_of_le h (by decide))
  clear_value w3 w2 w1 ctx
  cases ctx with
  | some c =>
    exact (tearDown_fld _ _ _ _ _ _ (by decide) (by decide)).trans h2
  | none =>
    exact (lampFault_limit _ _ _ _ _).trans h2

theorem ctxCtrl_self (s : State) (ctx v : Nat) (f : Field) (h : f.hi < 64) (hl : f.lo ≤ f.hi) {d : Nat} (hd : d < 2) :
    (s.setCtxCtrl ctx f v).fld d ctx f = v % 2 ^ (f.hi - f.lo + 1) := by
  unfold State.setCtxCtrl
  rcases (show d = 0 ∨ d = 1 by omega) with rfl | rfl
  · rw [fld_setFld_ne _ _ (.inl (by decide))]
    exact fld_setFld_self _ _ _ _ _ h hl
  · exact fld_setFld_self _ _ _ _ _ h hl

theorem ctxCtrl_other (s : State) (ctx v : Nat) {f g : Field} (h : f.hi < 64) (hl : f.lo ≤ f.hi) (hg : g.lo ≤ g.hi)
    (d' : g.hi < f.lo ∨ f.hi < g.lo) (d : Nat) : (s.setCtxCtrl ctx f v).fld d ctx g = s.fld d ctx g := by
  unfold State.setCtxCtrl
  rw [fld_setFld_other _ _ h hl hg d', fld_setFld_other _ _ h hl hg d']

theorem drain_jobs (ctx : Nat) (l : List (Nat × Nat)) : ∀ s : State,
    (∀ j ∈ s.lamp.scrubs, j ∈ (l.foldl (fun s p => s.nextFree.queueScrub p.1 p.2 true ctx 0 (s.tearRanges p.1 p.2 ctx)) s).lamp.scrubs)
    ∧ ∀ p ∈ l, ∃ j ∈ (l.foldl (fun s p => s.nextFree.queueScrub p.1 p.2 true ctx 0 (s.tearRanges p.1 p.2 ctx)) s).lamp.scrubs,
      j.die = p.1 ∧ j.cluster = p.2 ∧ j.teardown = true ∧ j.context = ctx ∧ j.taken = none := by
  induction l with
  | nil => exact fun s => ⟨fun j hj => hj, fun p hp => nomatch hp⟩
  | cons a l ih =>
    intro s
    rw [List.foldl_cons]
    obtain ⟨i1, i2⟩ := ih (s.nextFree.queueScrub a.1 a.2 true ctx 0 (s.tearRanges a.1 a.2 ctx))
    refine ⟨fun j hj => i1 j (List.mem_append_left _ hj), fun p hp => ?_⟩
    rcases List.mem_cons.1 hp with e | hp
    · subst e
      exact ⟨_, i1 _ (List.mem_append_right _ (List.mem_singleton.2 rfl)), rfl, rfl, rfl, rfl, rfl⟩
    · exact i2 p hp

theorem svcWrite_fld (s : State) (die code : Nat) (c : SvcCmd) {d i : Nat} {f : Field} (h : ∀ n, n < 8 → f.reg ≠ svcReg n) :
    (s.svcWrite die code c).fld d i f = s.fld d i f := by
  unfold State.svcWrite
  have : ∀ (l : List Nat) (x : State), (∀ n ∈ l, n < 8) →
      (l.foldl (fun s i => s.setReg die 0 (svcReg i) (BitVec.ofNat 64 (svcWord code c i))) x).fld d i f = x.fld d i f := by
    intro l
    induction l with
    | nil => exact fun _ _ => rfl
    | cons n l ih =>
      intro x hl
      rw [List.foldl_cons, ih _ (fun m hm => hl m (List.mem_cons_of_mem _ hm))]
      exact fld_setReg_ne x _ (.inr (.inr (h n (hl n (List.mem_cons_self ..)))))
  exact this _ s (fun n hn => List.mem_range.1 hn)

theorem svcWrite_rest (s : State) (die code : Nat) (c : SvcCmd) : (s.svcWrite die code c).lamp = s.lamp ∧ (s.svcWrite die code c).pins = s.pins
    ∧ (s.svcWrite die code c).start = s.start := by
  unfold State.svcWrite
  generalize List.range 8 = l
  induction l generalizing s with
  | nil => exact ⟨rfl, rfl, rfl⟩
  | cons n l ih => exact ih _

theorem svcWord_code (code : Nat) (c : SvcCmd) (h : code < 256) : getBits (BitVec.ofNat 64 (svcWord code c 0)) 7 0 = code := by
  unfold getBits
  rw [BitVec.extractLsb'_toNat, BitVec.toNat_ofNat, Nat.shiftRight_zero]
  show (code + (if c.zeroOk = true then 0 else 256) + c.context % 65536 * 2 ^ 16 + c.tag % 2 ^ 32 * 2 ^ 32) % 2 ^ 64 % 2 ^ (7 - 0 + 1) = code
  have : (if c.zeroOk = true then 0 else 256) % 256 = 0 := by split <;> rfl
  omega

theorem svcWrite_code (s : State) (die code : Nat) (c : SvcCmd) (h : code < 256) (core : Nat) (ep : Option Nat) :
    ((s.svcWrite die code c).svcRead die core ep).code = code := by
  refine Eq.trans ?_ (svcWord_code code c h)
  show getBits ((s.svcWrite die code c).reg die 0 (svcReg 0)) 7 0 = _
  congr 1
  unfold State.svcWrite
  have ne : ∀ n, 0 < n → svcReg 0 ≠ svcReg n := by
    intro n hn e
    have := congrArg RegId.off e
    unfold svcReg at this
    dsimp only at this
    omega
  simp only [List.range, List.range.loop, List.foldl_cons, List.foldl_nil]
  rw [reg_setReg_ne _ _ (.inr (.inr (ne 7 (by decide)))), reg_setReg_ne _ _ (.inr (.inr (ne 6 (by decide)))), reg_setReg_ne _ _ (.inr (.inr (ne 5 (by decide)))),
    reg_setReg_ne _ _ (.inr (.inr (ne 4 (by decide)))), reg_setReg_ne _ _ (.inr (.inr (ne 3 (by decide)))), reg_setReg_ne _ _ (.inr (.inr (ne 2 (by decide)))),
    reg_setReg_ne _ _ (.inr (.inr (ne 1 (by decide)))), reg_setReg_self]

theorem svcReg_ne {r : RegId} (h : r.off < 0x060 ∨ 0x0a0 ≤ r.off ∨ r.blk ≠ 0x0D) : ∀ n, n < 8 → r ≠ svcReg n := by
  intro n hn e
  rw [e] at h
  unfold svcReg at h
  simp only [ne_eq, not_true_eq_false, or_false] at h
  omega

theorem lampsUp_of (h1 : t.lamp.cores = s.lamp.cores) (h2 : t.running = s.running) (h3 : ∀ d, t.fld d 0 Fld.LP_STATUS_LAMP_UP = s.fld d 0 Fld.LP_STATUS_LAMP_UP)
    (h4 : ∀ d, t.fld d 0 Fld.LP_STATUS_SPARE_IN = s.fld d 0 Fld.LP_STATUS_SPARE_IN) (die : Nat) : t.lampsUp die = s.lampsUp die := by
  unfold State.lampsUp
  refine List.filter_congr fun c hc => ?_
  have : c < 9 := List.mem_range.1 hc
  unfold State.coreUp
  rw [h2, h3, h4, core_of h1]
  congr 1
  split
  · rfl
  · split
    · rfl
    · omega

theorem svcGo_starts (s : State) (die code : Nat) (c : SvcCmd) (rq : Requester) (v : Word) (hv : getBits v 63 63 = 1) (hk : svcAsker rq = true)
    (hb : s.fld die 0 Fld.LP_SVC_CTRL_BUSY = 0) (hl : s.lampsUp die ≠ []) (h0 : 0 < code) (h6 : code ≤ 6) :
    ((s.svcWrite die code c).svcGo die rq v).fld die 0 Fld.LP_SVC_CTRL_BUSY = 1
    ∧ ∃ x ∈ ((s.svcWrite die code c).svcGo die rq v).lamp.services, x.die = die ∧ x.code = code := by
  obtain ⟨e1, e2, e3⟩ := svcWrite_rest s die code c
  have hup : (s.svcWrite die code c).lampsUp die = s.lampsUp die :=
    lampsUp_of (congrArg Lamp.cores e1) (by
      unfold State.running State.up State.status
      rw [e2, svcWrite_fld s die code c (svcReg_ne (.inr (.inr (by decide))))]) (fun d => svcWrite_fld s die code c (svcReg_ne (by decide)))
      (fun d => svcWrite_fld s die code c (svcReg_ne (by decide))) die
  have hb' : (s.svcWrite die code c).fld die 0 Fld.LP_SVC_CTRL_BUSY = 0 := (svcWrite_fld s die code c (svcReg_ne (by decide))).trans hb
  have hc := svcWrite_code s die code c (by omega)
  generalize s.svcWrite die code c = w at *
  unfold State.svcGo
  rw [if_neg (by rw [hv, hk]; decide)]
  extract_lets core q w1 w2
  have hn : core.isNone = false := by
    unfold core
    rw [hup]
    cases h : s.lampsUp die with
    | nil => exact absurd h hl
    | cons a l => rfl
  have hq : q.code = code := hc _ _
  rw [if_neg (by rw [hb', hn]; decide), hq, if_neg (by omega)]
  refine ⟨fld_setFld_self _ _ _ _ _ (by decide) (by decide), q, List.mem_cons_self .., rfl, hq⟩

theorem svc_start (s : State) (a : Acc) (code : Nat) (c : SvcCmd) (f : State → Service → State × Nat) {sel : Nat}
    (ha : s.Accepts a Reg.LP_SVC_CTRL (BitVec.ofNat 64 (2 ^ 63)) sel) (hp : c.phase = .start) :
    s.svcRow a code c f = (((s.tick a.t).noteWrite a.rq a.die Reg.LP_SVC_CTRL (BitVec.ofNat 64 (2 ^ 63)) none).svcWrite a.die code c).svcGo a.die a.rq (BitVec.ofNat 64 (2 ^ 63)) := by
  unfold State.svcRow
  rw [hp]
  exact regWrite_accepts ha (by decide) none _

theorem svc_finish (s : State) (a : Acc) (code : Nat) (c : SvcCmd) (f : State → Service → State × Nat) {v : Service} {w : State}
    (hr : s.running = true) (hp : c.phase = .finish) (hw : w = s.tick a.t) (hv : s.lamp.services.find? (fun v => v.die == a.die && v.code == code) = some v) :
    s.svcRow a code c f = (f w v).1.endService v (f w v).2 := by
  unfold State.svcRow
  rw [hp]
  dsimp only
  rw [if_pos hr, ← hw]
  unfold State.svcFinish
  rw [show w.lamp = s.lamp from hw ▸ rfl, hv]

theorem svcBad_done {w : State} {v : Service} {n : Nat} {p q : Bool} {y : Nat} (h : w.svcBad v n p q = some y) : y ≠ St.done := by
  unfold State.svcBad at h
  repeat' split at h
  all_goals first | (cases h; done) | (rw [← Option.some.inj h]; decide)

theorem gramInstall_done {w x : State} {v : Service} {o : GramObj} {k : Bool} (h : w.gramInstall v o k = (x, St.done)) :
    ∃ g : Gram, x.grams = alSet (v.die, v.id) g w.grams ∧ g.states = o.states ∧ g.start = o.start ∧ g.alpha = o.alpha ∧ g.rows = o.rows := by
  unfold State.gramInstall at h
  split at h
  · rename_i y hy
    exact absurd (congrArg Prod.snd h) (svcBad_done hy)
  · split at h
    · exact absurd (congrArg Prod.snd h) (show ¬ St.denied = St.done by decide)
    · split at h
      · exact absurd (congrArg Prod.snd h) (show ¬ St.busyRetry = St.done by decide)
      · have e := congrArg Prod.fst h
        dsimp only at e
        rw [← e]
        exact ⟨_, rfl, rfl, rfl, rfl, rfl⟩

theorem placePages_sought (x : Index) (gen : Nat) (l : List (Option Nat)) : ∀ (s : State) (i : Nat) (r : State × List Nat),
    s.placePages x gen l i = some r → s.Sought r.1 := by
  induction l with
  | nil =>
    intro s i r h
    rw [← Option.some.inj h]
    exact sought_refl s
  | cons a l ih =>
    intro s i r h
    cases a with
    | some n =>
      unfold State.placePages at h
      obtain ⟨q, hq, e⟩ := Option.map_eq_some_iff.1 h
      rw [← e]
      exact (ih _ _ q hq : s.Sought q.1)
    | none =>
      unfold State.placePages at h
      have hp : SomeP s.Sought (s.place x.die x.shape.group 1 128 128 (.index x.num gen i)) := State.place_sought (sought_refl s)
      cases hq : s.place x.die x.shape.group 1 128 128 (.index x.num gen i) with
      | none => rw [hq] at h; cases h
      | some p =>
        have h1 : s.Sought p.1 := somep_of (P := s.Sought) (x := p.2) (by rw [hq]) hp
        rw [hq] at h
        obtain ⟨q, hq', e⟩ := Option.map_eq_some_iff.1 h
        rw [← e]
        exact sought_trans h1 (ih _ _ q hq' : p.1.Sought q.1)

theorem merge_switches {w x' : State} {x : Index} {p : PendingIdx} (h : w.merge x p = some x') :
    ∃ y, x'.index x.die x.num = some y ∧ y.gen = p.gen := by
  unfold State.merge at h
  obtain ⟨r, -, e⟩ := Option.map_eq_some_iff.1 h
  rw [← e]
  unfold State.switchGen
  extract_lets ctx z2 old z3
  have hi : ∀ q, (z3.raise x.die 0x57 q).index x.die x.num = some { x with gen := p.gen, table := r.2, old := x.old ++ [old] } := fun q =>
    (index_of (congrArg Flash.indexes (raise_flash _ _ _ _).1) _ _).trans (index_setIndex _ _ rfl rfl)
  obtain ⟨-, -, k⟩ := retire_spec' (z3.raise x.die 0x57 { ctx := some ctx, a0 := x.num, a1 := p.gen.generation }) x.die x.num
  obtain ⟨y, y1, y2, -⟩ := k _ (hi _)
  exact ⟨y, y1, y2⟩

theorem indexNext_done {w x' : State} {v : Service} {p : PendingIdx} {k m : Bool} {x : Index} (hx : w.index v.die v.id = some x)
    (h : w.indexNext v p k m = (x', St.done)) : ∃ y, x'.index v.die v.id = some y ∧ y.gen.generation = x.gen.generation + 1
      ∧ y.gen.recs = p.gen.recs ∧ y.gen.cutoff = (if m = true then x.mark else x.gen.cutoff) := by
  obtain ⟨d1, d2⟩ := index_at hx
  unfold State.indexNext at h
  rw [hx] at h
  split at h
  · rename_i y hy
    exact absurd (congrArg Prod.snd h) (svcBad_done hy)
  · dsimp only at h
    generalize (if m = true then x.mark else x.gen.cutoff) = ct at h ⊢
    split at h
    · cases congrArg Prod.snd h
    · split at h
      · cases congrArg Prod.snd h
      · split at h
        · cases congrArg Prod.snd h
        · split at h
          · rename_i t ht
            obtain ⟨y, y1, y2⟩ := merge_switches ht
            have e : t = x' := congrArg Prod.fst h
            rw [← e, ← d1, ← d2]
            exact ⟨y, y1, by rw [y2], by rw [y2], by rw [y2]⟩
          · cases congrArg Prod.snd h

theorem cbwWrite_t1 (s : State) (die g : Nat) : (s.cbwWrite die g).tier.t1a = s.tier.t1a ∧ (s.cbwWrite die g).tier.t1b = s.tier.t1b :=
  ⟨(State.cbwWrite_logged (logged_refl s)).t1a, (State.cbwWrite_logged (logged_refl s)).t1b⟩

theorem find_mem {α : Type} {p : α → Bool} {l : List α} {x : α} (h : l.find? p = some x) : x ∈ l ∧ p x = true :=
  ⟨List.mem_of_find?_eq_some h, List.find?_some h⟩

end Sys2Proof.Machine
end

