-- ==== Sys2Proof/Laws/StartCmds.lean ====
section
/-! SUPPORT. Helpers about start, reset and STATUS. -/

namespace Sys2Proof.Machine

variable {s s0 t : State}

theorem ibi_frame (s : State) (b : Nat) : (s.ibi b).start = s.start ∧ (s.ibi b).pins.released = s.pins.released
    ∧ (s.ibi b).pins.power = s.pins.power ∧ (s.ibi b).pins.tripped = s.pins.tripped
    ∧ ∀ d i f, f.reg ∉ chatter → (s.ibi b).fld d i f = s.fld d i f :=
  have h := State.ibi_reported (byte := b) (reported_refl s)
  ⟨h.start, h.released, h.power, h.tripped, fun d i _ hf => h.fld d i hf⟩

theorem setStatus_spec (s : State) (v : Nat) (hv : v < 16) : (s.setStatus v).status = v ∧ (s.setStatus v).start = s.start
    ∧ (s.setStatus v).pins.released = s.pins.released ∧ (s.setStatus v).pins.power = s.pins.power ∧ (s.setStatus v).pins.tripped = s.pins.tripped
    ∧ ∀ d i f, f.reg ∉ chatter → f.lo ≤ f.hi → f ≠ Fld.GLB_START_STATUS → (f.reg ≠ Reg.GLB_START ∨ 3 < f.lo) → (s.setStatus v).fld d i f = s.fld d i f := by
  unfold State.setStatus
  split
  · rename_i h
    exact ⟨h, rfl, rfl, rfl, rfl, fun _ _ _ _ _ _ _ => rfl⟩
  · extract_lets w
    have h0 : w.status = v := by
      show w.fld 0 0 Fld.GLB_START_STATUS = v
      unfold w
      obtain ⟨-, -, -, -, h⟩ := ibi_frame (s.setFld 0 0 Fld.GLB_START_STATUS v) 0x03
      rw [h _ _ _ (by decide), fld_setFld_self _ _ _ _ _ (by decide) (by decide)]
      exact Nat.mod_eq_of_lt (Nat.lt_of_lt_of_le hv (by decide))
    have h1 : w.start = s.start ∧ w.pins.released = s.pins.released ∧ w.pins.power = s.pins.power ∧ w.pins.tripped = s.pins.tripped
        ∧ ∀ d i f, f.reg ∉ chatter → f.lo ≤ f.hi → f ≠ Fld.GLB_START_STATUS → (f.reg ≠ Reg.GLB_START ∨ 3 < f.lo) → w.fld d i f = s.fld d i f := by
      obtain ⟨a1, a2, a3, a4, a5⟩ := ibi_frame (s.setFld 0 0 Fld.GLB_START_STATUS v) 0x03
      refine ⟨a1, a2, a3, a4, fun d i f hf hl hn hr => (a5 d i f hf).trans ?_⟩
      rcases hr with hr | hr
      · exact fld_setFld_ne _ _ (.inr (.inr hr))
      · exact fld_setFld_other _ _ (by decide) (by decide) hl (.inr hr) _ _
    clear_value w
    obtain ⟨b1, b2, b3, b4, b5⟩ := h1
    split
    · obtain ⟨a1, a2, a3, a4, a5⟩ := ibi_frame w 0x01
      exact ⟨(a5 _ _ _ (by decide)).trans h0, a1.trans b1, a2.trans b2, a3.trans b3, a4.trans b4,
        fun d i f hf hl hn hr => (a5 d i f hf).trans (b5 d i f hf hl hn hr)⟩
    · exact ⟨h0, b1, b2, b3, b4, b5⟩

theorem steps_frame (s : State) (n : Nat) : (s.steps n).start = s.start ∧ (s.steps n).pins.released = s.pins.released
    ∧ (s.steps n).pins.power = s.pins.power ∧ (s.steps n).ident = s.ident := by
  unfold State.steps
  have hid : ∀ (x : State) v, (x.setStatus v).ident = x.ident := by
    intro x v
    have hi : ∀ (y : State) b, (y.ibi b).ident = y.ident := fun y b => (State.ibi_reported (byte := b) (reported_refl y)).ident
    unfold State.setStatus
    split
    · rfl
    · extract_lets w
      have h : w.ident = x.ident := hi _ _
      clear_value w
      split
      · exact (hi _ _).trans h
      · exact h
  have : ∀ (l : List Nat) (x : State), (∀ v ∈ l, v < 16) → (l.foldl (fun s v => s.setStatus v) x).start = x.start
      ∧ (l.foldl (fun s v => s.setStatus v) x).pins.released = x.pins.released
      ∧ (l.foldl (fun s v => s.setStatus v) x).pins.power = x.pins.power ∧ (l.foldl (fun s v => s.setStatus v) x).ident = x.ident := by
    intro l
    induction l with
    | nil => exact fun x _ => ⟨rfl, rfl, rfl, rfl⟩
    | cons a l ih =>
      intro x hl
      obtain ⟨a1, a2, a3, a4⟩ := ih (x.setStatus a) (fun v hv => hl v (List.mem_cons_of_mem _ hv))
      obtain ⟨-, b1, b2, b3, -⟩ := setStatus_spec x a (hl a (List.mem_cons_self ..))
      exact ⟨a1.trans b1, a2.trans b2, a3.trans b3, a4.trans (hid _ _)⟩
  refine this _ s fun v hv => ?_
  have := List.mem_of_mem_take hv
  exact (by decide : ∀ v ∈ ([1, 1, 2, 3, 4, 4, 5, 6] : List Nat), v < 16) v this

theorem startFail_spec (s : State) (code step detail ms : Nat) (h : code < 16) (h2 : step < 16) : (s.startFail code step detail ms).status = code
    ∧ (s.startFail code step detail ms).fld 0 0 Fld.GLB_START_STEP = step ∧ (s.startFail code step detail ms).fld 0 0 Fld.GLB_START_DETAIL = detail % 2 ^ 32
    ∧ (s.startFail code step detail ms).start = s.start := by
  unfold State.startFail
  extract_lets w1 w2
  obtain ⟨a1, a2, -, -, -, a3⟩ := setStatus_spec (w2.setFld 0 0 Fld.GLB_START_ELAPSED_MS ms) code h
  refine ⟨a1, ?_, ?_, a2.trans (steps_frame s step).1⟩
  · rw [a3 _ _ _ (by decide) (by decide) (by decide) (.inr (by decide)), fld_setFld_other _ _ (by decide) (by decide) (by decide) (by decide)]
    exact (fld_setFld_self _ _ _ _ _ (by decide) (by decide)).trans (Nat.mod_eq_of_lt (Nat.lt_of_lt_of_le h2 (by decide)))
  · rw [a3 _ _ _ (by decide) (by decide) (by decide) (.inr (by decide)), fld_setFld_other _ _ (by decide) (by decide) (by decide) (by decide)]
    unfold w2
    rw [fld_setFld_other _ _ (by decide) (by decide) (by decide) (by decide)]
    exact fld_setFld_self _ _ _ _ _ (by decide) (by decide)

theorem imageFail_small {lc fl : Nat} {img : Image} {c st d : Nat} (h : imageFail lc fl img = some (c, st, d)) : c < 16 ∧ st < 16 := by
  unfold imageFail at h
  dsimp only at h
  repeat' split at h
  all_goals first | (cases h; done) | (cases h; exact ⟨by decide, by decide⟩)

theorem newLeads_start (s : State) : s.newLeads.start = s.start := rfl

theorem startEnd_locked (s : State) (img : Image) (hw : StartTests) : (s.startEnd img hw).start.locked = true := by
  unfold State.startEnd
  extract_lets w1 w2 w3 w4
  rfl

theorem started_spec (s : State) (img : Image) (hw : StartTests) (a : Applied) : (s.started img hw a).status = (if img.autoNormal = true then 8 else 7)
    ∧ (s.started img hw a).fld 0 0 Fld.GLB_START_STEP = 9 ∧ (s.started img hw a).start.locked = true
    ∧ (s.started img hw a).pins.released = s.pins.released ∧ (s.started img hw a).pins.power = s.pins.power := by
  unfold State.started
  extract_lets w1 w2 w3 w4
  have hv : (if img.autoNormal = true then 8 else 7) < 16 := by split <;> decide
  obtain ⟨a1, a2, a3, a4, -, a5⟩ := setStatus_spec w4 _ hv
  refine ⟨a1, ?_, ?_, a3, a4⟩
  · rw [a5 _ _ _ (by decide) (by decide) (by decide) (.inr (by decide))]
    have h3 : w3.fld 0 0 Fld.GLB_START_STEP = 9 := by
      unfold w3
      rw [fld_setFld_other _ _ (by decide) (by decide) (by decide) (by decide), fld_setFld_self _ _ _ _ _ (by decide) (by decide)]
      rfl
    clear_value w3
    exact h3
  · rw [a2]
    have h3 : w3.start.locked = true := startEnd_locked _ _ _
    clear_value w3
    exact h3

theorem startRun_image (w : State) (img : Image) (hw : StartTests) {c st d : Nat} (ho : hw.romOk = true)
    (hi : imageFail w.ident.fuses.lc w.ident.fuses.floor img = some (c, st, d)) : w.startRun img hw = w.startFail c st d hw.elapsedMs := by
  unfold State.startRun
  rw [ho, hi]
  rfl

theorem startRun_ok (w : State) (img : Image) (hw : StartTests) (ho : hw.romOk = true)
    (hi : imageFail w.ident.fuses.lc w.ident.fuses.floor img = none) (hc : configFail img ((w.putSections img).applyList img.registers) = none)
    (hm : memoryFail hw = none) (hk : coreFail hw = none) : ∃ a, w.startRun img hw = (w.steps 8).started img hw a := by
  unfold State.startRun
  rw [ho, hi]
  dsimp only [Bool.not_true]
  rw [if_neg (by decide), hc]
  dsimp only
  rw [hm]
  dsimp only
  rw [hk]
  exact ⟨_, rfl⟩

theorem up_of_status (s : State) (h : s.status = 0) : s.running = false := by
  unfold State.running State.up
  rw [h]
  rfl

theorem coldBase_spec (s : State) : s.coldBase.status = 0 ∧ s.coldBase.ses.recs = [] ∧ s.coldBase.kv.leaves = [] ∧ s.coldBase.attn.results = []
    ∧ s.coldBase.start.locked = false ∧ s.coldBase.pins.released = false ∧ s.coldBase.ident.fuses = s.ident.fuses ∧ s.coldBase.ckpt.heads = s.ckpt.heads
    ∧ s.coldBase.ckpt.snaps = s.ckpt.snaps ∧ s.coldBase.rp.area = s.rp.area ∧ s.coldBase.pins.power = s.pins.power := by
  unfold State.coldBase
  refine ⟨?_, rfl, rfl, rfl, rfl, rfl, rfl, rfl, rfl, rfl, rfl⟩
  unfold State.status
  rw [fld_setFld_ne _ _ (.inr (.inr (by decide)))]
  rfl

end Sys2Proof.Machine
end

