-- ==== Sys2Proof/Laws/IdentCmds.lean ====
section
/-! SUPPORT. Helpers about fuses, life-cycle commands and key generations. -/

namespace Sys2Proof.Machine

variable {s s0 t : State}

theorem lcEnd_spec (s : State) (st : Nat) (h : st < 256) : (s.lcEnd st).fld 0 0 Fld.SEAL_LC_CMD_STATUS = st ∧ (s.lcEnd st).fld 0 0 Fld.SEAL_LC_CMD_BUSY = 0
    ∧ (s.lcEnd st).ident.fuses = s.ident.fuses ∧ (s.lcEnd st).lc = s.lc ∧ (s.lcEnd st).ident.cmd = none := by
  unfold State.lcEnd State.lc
  refine ⟨?_, ?_, rfl, ?_, rfl⟩
  · rw [fld_setFld_self _ _ _ _ _ (by decide) (by decide)]
    exact Nat.mod_eq_of_lt (Nat.lt_of_lt_of_le h (by decide))
  · rw [fld_setFld_other _ _ (by decide) (by decide) (by decide) (by decide)]
    exact (fld_setFld_self _ _ _ _ _ (by decide) (by decide)).trans rfl
  · rw [fld_setFld_ne _ _ (.inr (.inr (by decide))), fld_setFld_ne _ _ (.inr (.inr (by decide)))]
    rfl

theorem burn_spec (s : State) (f : Fuses) : (s.burn f).ident.fuses = f ∧ (s.burn f).lc = s.lc := by
  unfold State.burn State.lc
  exact ⟨congrArg Ident.fuses (State.raise_reported (reported_refl _)).ident, raise_fld _ _ _ _ _ _ (by decide)⟩

theorem inForce_spec (s : State) (n : Nat) (h : n < 8) : (s.inForce n).lc = n ∧ (s.inForce n).ident = s.ident := by
  unfold State.inForce State.lc
  refine ⟨?_, rfl⟩
  rw [fld_setFld_self _ _ _ _ _ (by decide) (by decide)]
  exact Nat.mod_eq_of_lt (Nat.lt_of_lt_of_le h (by decide))

theorem getBits_keygen (s : State) (x : Nat) (v : Word) (hi lo : Nat) (hl : lo ≤ hi) (h : hi ≤ 8) :
    getBits ((s.store 0 x (rowOf Reg.SEAL_KEYGEN) v).reg 0 x Reg.SEAL_KEYGEN) hi lo = getBits (s.reg 0 x Reg.SEAL_KEYGEN) hi lo := by
  unfold State.store
  rw [show (rowOf Reg.SEAL_KEYGEN).id = Reg.SEAL_KEYGEN from by decide, reg_setReg_self]
  refine getBits_stored_kept (by decide) _ _ _ hl ?_
  have hf : (rowOf Reg.SEAL_KEYGEN).fields = [⟨63, 63, .wo, 0⟩, ⟨62, 62, .wo, 0⟩, ⟨61, 61, .w1c, 0⟩, ⟨8, 8, .ro, 0⟩, ⟨7, 0, .ro, 0⟩] := by decide
  rw [hf]
  intro f hm
  simp only [List.mem_cons, List.not_mem_nil, or_false] at hm
  rcases hm with rfl | rfl | rfl | rfl | rfl
  · exact .inr (.inr (.inr (.inl rfl)))
  · exact .inr (.inr (.inr (.inl rfl)))
  · refine .inr (.inl ?_)
    show hi < 61
    omega
  · exact .inr (.inr (.inl rfl))
  · exact .inr (.inr (.inl rfl))

/-- What a life-cycle command that is allowed comes to. -/
theorem lcEffect_go {a : Acc} {v : Word} {sel : Nat} {o : LcOutcome} (ha : s.Accepts a Reg.SEAL_LC_CMD v sel) (hg : getBits v 63 63 = 1)
    (hb : s.sealBusy = false) (hm : s.mayCommand a.rq = true) (hl : s.lcAllows (getBits v 58 56) = true) :
    ∃ w : State, s.lcWrite a v o = w.lcGo a.rq (getBits v 58 56) (getBits v 31 0) o ∧ w.ident = s.ident ∧ w.lc = s.lc ∧ w.start = s.start
      ∧ w.sealBusy = false ∧ w.mayCommand a.rq = true ∧ w.lcAllows (getBits v 58 56) = true := by
  have hq := State.noteWrite_reported (reported_tick (reported_refl s) a.t) (rq := a.rq) (die := a.die) (r := Reg.SEAL_LC_CMD) (v := v) (p := none)
  have e : s.lcWrite a v o = ((s.tick a.t).noteWrite a.rq a.die Reg.SEAL_LC_CMD v none).lcEffect a.rq v o := regWrite_accepts ha (by decide) none _
  generalize (s.tick a.t).noteWrite a.rq a.die Reg.SEAL_LC_CMD v none = y at hq e
  unfold State.lcEffect at e
  rw [if_pos hg] at e
  refine ⟨_, e, hq.ident, ?_, hq.start, ?_, ?_, ?_⟩
  · exact (fld_store_ne _ _ (.inr (.inr (by decide)))).trans (hq.fld _ _ (by decide))
  all_goals
    have e1 : (y.store 0 0 (rowOf Reg.SEAL_LC_CMD) v).ident = s.ident := hq.ident
    have e2 : (y.store 0 0 (rowOf Reg.SEAL_LC_CMD) v).lc = s.lc := (fld_store_ne _ _ (.inr (.inr (by decide)))).trans (hq.fld _ _ (by decide))
    have e3 : (y.store 0 0 (rowOf Reg.SEAL_LC_CMD) v).scrubbed = s.scrubbed :=
      congrArg (fun n => n == 1) ((fld_store_ne _ _ (.inr (.inr (by decide)))).trans (hq.fld 0 0 (f := Fld.SEAL_LC_SCRUBBED) (by decide)))
    have e4 : (y.store 0 0 (rowOf Reg.SEAL_LC_CMD) v).ses = s.ses := hq.ses
  · unfold State.sealBusy at hb ⊢
    rw [e1]
    exact hb
  · unfold State.mayCommand at hm ⊢
    rw [e2]
    exact hm
  · unfold State.lcAllows State.allFree at hl ⊢
    rw [e2, e3, e4]
    exact hl

end Sys2Proof.Machine
end

