-- ==== Sys2Proof/Laws/Loaded.lean ====
section
/-! SUPPORT. What leaves a restore in progress, the automata and the indexes alone. -/

namespace Sys2Proof.Machine

/-- `b` has the restore in progress, the automata and the indexes of `a`. -/
structure State.Loaded (a b : State) : Prop where
  restore : b.ckpt.restore = a.ckpt.restore
  grams : b.grams = a.grams
  indexes : b.flash.indexes = a.flash.indexes

variable {s0 s t : State}

theorem loaded_refl (s : State) : s.Loaded s := ⟨rfl, rfl, rfl⟩

theorem loaded_trans (h : s0.Loaded s) (h' : s.Loaded t) : s0.Loaded t :=
  ⟨h'.restore.trans h.restore, h'.grams.trans h.grams, h'.indexes.trans h.indexes⟩

/-- A change elsewhere. -/
theorem loaded_mk (h : s0.Loaded s) {now : Nat} {pending : List Instr} {free : Nat} {regs : List (RegKey × Word)} {bcn : Beacon}
    {ev : Events} {ses : Sessions} {kv : Kv} {attn : Attn} {grams : List ((Nat × Nat) × Gram)} {net : Net} {lamp : Lamp}
    {tier : Tier} {start : Start} {flash : Flash} {ident : Ident} {ckpt : Ckpt} {health : Health} {rp : Replay} {pins : Pins}
    (e0 : ckpt.restore = s.ckpt.restore) (e1 : grams = s.grams) (e2 : flash.indexes = s.flash.indexes) :
    s0.Loaded ⟨now, pending, free, regs, bcn, ev, ses, kv, attn, grams, net, lamp, tier, start, flash, ident, ckpt, health, rp,
      pins⟩ := ⟨e0.trans h.restore, e1.trans h.grams, e2.trans h.indexes⟩

theorem loaded_ite {c : Prop} [Decidable c] (h : s0.Loaded s) (h' : s0.Loaded t) : s0.Loaded (if c then s else t) := by
  split <;> assumption

theorem loaded_foldl {α : Type} {f : State → α → State} (hf : ∀ s x, s0.Loaded s → s0.Loaded (f s x)) (l : List α)
    (h : s0.Loaded s) : s0.Loaded (l.foldl f s) := by
  induction l generalizing s with
  | nil => exact h
  | cons x l ih => exact ih (hf s x h)

theorem State.setReg_loaded (h : s0.Loaded s) {die sel : Nat} {r : RegId} {w : Word} : s0.Loaded (s.setReg die sel r w) := loaded_mk h rfl rfl rfl
theorem State.setFld_loaded (h : s0.Loaded s) {die sel : Nat} {f : Field} {v : Nat} : s0.Loaded (s.setFld die sel f v) := loaded_mk h rfl rfl rfl
theorem State.bumpBy_loaded (h : s0.Loaded s) {die sel : Nat} {f : Field} {n : Nat} : s0.Loaded (s.bumpBy die sel f n) := loaded_mk h rfl rfl rfl
theorem State.bump_loaded (h : s0.Loaded s) {die sel : Nat} {f : Field} : s0.Loaded (s.bump die sel f) := loaded_mk h rfl rfl rfl
theorem State.lower_loaded (h : s0.Loaded s) {die sel : Nat} {f : Field} {n : Nat} : s0.Loaded (s.lower die sel f n) := loaded_mk h rfl rfl rfl
theorem State.setSess_loaded (h : s0.Loaded s) {slot : Nat} {r : Session} : s0.Loaded (s.setSess slot r) := loaded_mk h rfl rfl rfl
theorem State.setPort_loaded (h : s0.Loaded s) {p : Nat} {x : Port} : s0.Loaded (s.setPort p x) := loaded_mk h rfl rfl rfl
theorem State.setPoolFree_loaded (h : s0.Loaded s) {die tier n : Nat} : s0.Loaded (s.setPoolFree die tier n) := by
  unfold State.setPoolFree
  dsimp only
  exact State.setReg_loaded h

set_option linter.unusedTactic false
set_option linter.unreachableTactic false

theorem State.nextFree_loaded (h : s0.Loaded s) : s0.Loaded (State.nextFree s) := by
  unfold State.nextFree
  try dsimp only
  repeat' first | with_reducible assumption | with_reducible rfl | with_reducible apply loaded_ite | fail_if_no_progress with_reducible refine loaded_mk ?_ rfl rfl rfl | split | dsimp only | decide

theorem State.settle_loaded (h : s0.Loaded s) {p : Nat} : s0.Loaded (State.settle s p) := by
  unfold State.settle
  try dsimp only
  repeat' first | with_reducible assumption | with_reducible rfl | intro _ | with_reducible apply State.setPort_loaded | with_reducible apply loaded_ite | with_reducible apply loaded_foldl | fail_if_no_progress with_reducible refine loaded_mk ?_ rfl rfl rfl | split | dsimp only | decide

theorem State.enqueue_loaded (h : s0.Loaded s) {p cls flow len : Nat} {result : Option (Nat × ResKey)} {body : FrameBody} : s0.Loaded (State.enqueue s p cls flow len result body) := by
  unfold State.enqueue
  try dsimp only
  repeat' first | with_reducible assumption | with_reducible rfl | with_reducible apply State.settle_loaded | with_reducible apply State.setPort_loaded | with_reducible apply loaded_ite | fail_if_no_progress with_reducible refine loaded_mk ?_ rfl rfl rfl | split | dsimp only | decide

theorem State.countHeld_loaded (h : s0.Loaded s) {p : Nat} : s0.Loaded (State.countHeld s p) := by
  unfold State.countHeld
  try dsimp only
  repeat' first | with_reducible assumption | with_reducible rfl | intro _ | with_reducible apply State.setPort_loaded | with_reducible apply State.bump_loaded | with_reducible apply loaded_ite | with_reducible apply loaded_foldl | fail_if_no_progress with_reducible refine loaded_mk ?_ rfl rfl rfl | split | dsimp only | decide

theorem State.noteReturn_loaded (h : s0.Loaded s) {r : Result} : s0.Loaded (State.noteReturn s r) := by
  unfold State.noteReturn
  try dsimp only
  repeat' first | with_reducible assumption | with_reducible rfl | intro _ | with_reducible apply State.bump_loaded | with_reducible apply loaded_ite | fail_if_no_progress with_reducible refine loaded_mk ?_ rfl rfl rfl | split | dsimp only | decide

theorem State.markStarted_loaded (h : s0.Loaded s) {p : Nat} {f : QFrame} : s0.Loaded (State.markStarted s p f) := by
  unfold State.markStarted
  try dsimp only
  repeat' first | with_reducible assumption | with_reducible rfl | intro _ | with_reducible apply State.noteReturn_loaded | with_reducible apply State.setPort_loaded | with_reducible apply loaded_ite | fail_if_no_progress with_reducible refine loaded_mk ?_ rfl rfl rfl | split | dsimp only | decide

theorem State.untrack_loaded (h : s0.Loaded s) {k : KeyRef} {reqId : Nat} : s0.Loaded (State.untrack s k reqId) := by
  unfold State.untrack
  try dsimp only
  repeat' first | with_reducible assumption | with_reducible rfl | intro _ | with_reducible apply loaded_ite | fail_if_no_progress with_reducible refine loaded_mk ?_ rfl rfl rfl | split | dsimp only | decide

theorem State.untrackFrame_loaded (h : s0.Loaded s) {f : QFrame} : s0.Loaded (State.untrackFrame s f) := by
  unfold State.untrackFrame
  try dsimp only
  repeat' first | with_reducible assumption | with_reducible rfl | with_reducible apply State.untrack_loaded | with_reducible apply loaded_ite | fail_if_no_progress with_reducible refine loaded_mk ?_ rfl rfl rfl | split | dsimp only | decide

theorem State.pick_loaded (h : s0.Loaded s) {p : Nat} : s0.Loaded (State.pick s p) := by
  unfold State.pick
  try dsimp only
  repeat' first | with_reducible assumption | with_reducible rfl | with_reducible apply State.settle_loaded | with_reducible apply State.countHeld_loaded | with_reducible apply State.setPort_loaded | with_reducible apply State.markStarted_loaded | with_reducible apply State.untrackFrame_loaded | with_reducible apply loaded_ite | fail_if_no_progress with_reducible refine loaded_mk ?_ rfl rfl rfl | split | dsimp only | decide

theorem State.send_loaded (h : s0.Loaded s) {p cls flow len : Nat} {result : Option (Nat × ResKey)} {body : FrameBody} : s0.Loaded (State.send s p cls flow len result body) := by
  unfold State.send
  try dsimp only
  repeat' first | with_reducible assumption | with_reducible rfl | with_reducible apply State.enqueue_loaded | with_reducible apply State.pick_loaded | with_reducible apply loaded_ite | split | dsimp only | decide

theorem State.sendSeg_loaded (h : s0.Loaded s) {d : Dest} {kind type status reason reqId : Nat} {response : Bool} {result : Option (Nat × ResKey)} {count len : Nat} {seg : Nat × List Byte} : s0.Loaded (State.sendSeg s d kind type status reason reqId response result count len seg) := by
  unfold State.sendSeg
  try dsimp only
  repeat' first | with_reducible assumption | with_reducible rfl | with_reducible apply State.send_loaded | with_reducible apply loaded_ite | fail_if_no_progress with_reducible refine loaded_mk ?_ rfl rfl rfl | split | dsimp only | decide

theorem State.sendMsg_loaded (h : s0.Loaded s) {d : Dest} {kind type status reason reqId : Nat} {response : Bool} {result : Option (Nat × ResKey)} {body : List Byte} : s0.Loaded (State.sendMsg s d kind type status reason reqId response result body) := by
  unfold State.sendMsg
  try dsimp only
  repeat' first | with_reducible assumption | with_reducible rfl | intro _ | with_reducible apply State.sendSeg_loaded | with_reducible apply loaded_ite | with_reducible apply loaded_foldl | fail_if_no_progress with_reducible refine loaded_mk ?_ rfl rfl rfl | split | dsimp only | decide

theorem State.setRing_loaded (h : s0.Loaded s) {die : Nat} {l : List EvtRec} : s0.Loaded (State.setRing s die l) := by
  unfold State.setRing
  try dsimp only
  repeat' first | with_reducible assumption | with_reducible rfl | with_reducible apply loaded_ite | fail_if_no_progress with_reducible refine loaded_mk ?_ rfl rfl rfl | split | dsimp only | decide

theorem State.setAlerts_loaded (h : s0.Loaded s) {die : Nat} {l : List Nat} : s0.Loaded (State.setAlerts s die l) := by
  unfold State.setAlerts
  try dsimp only
  repeat' first | with_reducible assumption | with_reducible rfl | with_reducible apply loaded_ite | fail_if_no_progress with_reducible refine loaded_mk ?_ rfl rfl rfl | split | dsimp only | decide

theorem State.eventFrame_loaded (h : s0.Loaded s) {sub : Sub} {r : EvtRec} : s0.Loaded (State.eventFrame s sub r) := by
  unfold State.eventFrame
  try dsimp only
  repeat' first | with_reducible assumption | with_reducible rfl | with_reducible apply State.sendMsg_loaded | with_reducible apply loaded_ite | fail_if_no_progress with_reducible refine loaded_mk ?_ rfl rfl rfl | split | dsimp only | decide

theorem State.ibi_loaded (h : s0.Loaded s) {byte : Nat} : s0.Loaded (State.ibi s byte) := by
  unfold State.ibi
  try dsimp only
  repeat' first | with_reducible assumption | with_reducible rfl | with_reducible apply loaded_ite | fail_if_no_progress with_reducible refine loaded_mk ?_ rfl rfl rfl | split | dsimp only | decide

theorem State.logEvent_loaded (h : s0.Loaded s) {die : Nat} {r : EvtRec} : s0.Loaded (State.logEvent s die r) := by
  unfold State.logEvent
  try dsimp only
  repeat' first | with_reducible assumption | with_reducible rfl | with_reducible apply State.setRing_loaded | with_reducible apply State.setFld_loaded | with_reducible apply State.setAlerts_loaded | with_reducible apply State.ibi_loaded | with_reducible apply loaded_ite | split | dsimp only | decide

theorem State.raise_loaded (h : s0.Loaded s) {die sub : Nat} {a : EvtArgs} : s0.Loaded (State.raise s die sub a) := by
  unfold State.raise
  try dsimp only
  repeat' first | with_reducible assumption | with_reducible rfl | intro _ | with_reducible apply State.eventFrame_loaded | with_reducible apply State.logEvent_loaded | with_reducible apply loaded_ite | with_reducible apply loaded_foldl | split | dsimp only | decide

theorem State.setOnce_loaded (h : s0.Loaded s) {o : Once} : s0.Loaded (State.setOnce s o) := by
  unfold State.setOnce
  try dsimp only
  repeat' first | with_reducible assumption | with_reducible rfl | intro _ | with_reducible apply loaded_ite | fail_if_no_progress with_reducible refine loaded_mk ?_ rfl rfl rfl | split | dsimp only | decide

theorem State.raiseOnce_loaded (h : s0.Loaded s) {die sub item : Nat} {a : EvtArgs} : s0.Loaded (State.raiseOnce s die sub item a) := by
  unfold State.raiseOnce
  try dsimp only
  repeat' first | with_reducible assumption | with_reducible rfl | with_reducible apply State.setOnce_loaded | with_reducible apply State.raise_loaded | with_reducible apply loaded_ite | fail_if_no_progress with_reducible refine loaded_mk ?_ rfl rfl rfl | split | dsimp only | decide

theorem State.closeRec_loaded (h : s0.Loaded s) : s0.Loaded (State.closeRec s) := by
  unfold State.closeRec
  try dsimp only
  repeat' first | with_reducible assumption | with_reducible rfl | with_reducible apply State.setFld_loaded | with_reducible apply loaded_ite | fail_if_no_progress with_reducible refine loaded_mk ?_ rfl rfl rfl | split | dsimp only | decide

theorem State.addRec_loaded (h : s0.Loaded s) {status port ctx ep len : Nat} {body : RecBody} : s0.Loaded (State.addRec s status port ctx ep len body) := by
  unfold State.addRec
  try dsimp only
  repeat' first | with_reducible assumption | with_reducible rfl | with_reducible apply State.setFld_loaded | with_reducible apply State.raiseOnce_loaded | with_reducible apply State.closeRec_loaded | with_reducible apply State.raise_loaded | with_reducible apply State.setReg_loaded | with_reducible apply loaded_ite | fail_if_no_progress with_reducible refine loaded_mk ?_ rfl rfl rfl | split | dsimp only | decide

theorem State.diverge_loaded (h : s0.Loaded s) {msg : Nat} : s0.Loaded (State.diverge s msg) := by
  unfold State.diverge
  try dsimp only
  repeat' first | with_reducible assumption | with_reducible rfl | with_reducible apply State.bump_loaded | with_reducible apply State.setFld_loaded | with_reducible apply State.raise_loaded | with_reducible apply loaded_ite | split | dsimp only | decide

theorem State.formed_loaded (h : s0.Loaded s) {msg port : Nat} {f : List Byte} : s0.Loaded (State.formed s msg port f) := by
  unfold State.formed
  try dsimp only
  repeat' first | with_reducible assumption | with_reducible rfl | with_reducible apply State.addRec_loaded | with_reducible apply State.diverge_loaded | with_reducible apply loaded_ite | fail_if_no_progress with_reducible refine loaded_mk ?_ rfl rfl rfl | split | dsimp only | decide

theorem State.formResult_loaded (h : s0.Loaded s) {r : Result} : s0.Loaded (State.formResult s r) := by
  unfold State.formResult
  try dsimp only
  repeat' first | with_reducible assumption | with_reducible rfl | intro _ | with_reducible apply State.formed_loaded | with_reducible apply loaded_ite | fail_if_no_progress with_reducible refine loaded_mk ?_ rfl rfl rfl | split | dsimp only | decide

theorem State.formResults_loaded (h : s0.Loaded s) : s0.Loaded (State.formResults s) := by
  unfold State.formResults
  try dsimp only
  repeat' first | with_reducible assumption | with_reducible rfl | intro _ | with_reducible apply State.formResult_loaded | with_reducible apply loaded_ite | with_reducible apply loaded_foldl | split | dsimp only | decide

theorem State.noteBad_loaded (h : s0.Loaded s) {e : Env} {type reason : Nat} : s0.Loaded (State.noteBad s e type reason) := by
  unfold State.noteBad
  try dsimp only
  repeat' first | with_reducible assumption | with_reducible rfl | with_reducible apply State.bump_loaded | with_reducible apply State.setFld_loaded | with_reducible apply State.raiseOnce_loaded | with_reducible apply loaded_ite | split | dsimp only | decide

theorem State.answer_loaded (h : s0.Loaded s) {e : Env} {type status reason : Nat} {body : List Byte} : s0.Loaded (State.answer s e type status reason body) := by
  unfold State.answer
  try dsimp only
  repeat' first | with_reducible assumption | with_reducible rfl | with_reducible apply State.noteBad_loaded | with_reducible apply State.sendMsg_loaded | with_reducible apply State.untrack_loaded | with_reducible apply loaded_ite | fail_if_no_progress with_reducible refine loaded_mk ?_ rfl rfl rfl | split | dsimp only | decide

theorem State.quotaTest_loaded (h : s0.Loaded s) {die ctx tier : Nat} : s0.Loaded (State.quotaTest s die ctx tier) := by
  unfold State.quotaTest
  try dsimp only
  repeat' first | with_reducible assumption | with_reducible rfl | with_reducible apply State.setFld_loaded | with_reducible apply State.raise_loaded | with_reducible apply loaded_ite | fail_if_no_progress with_reducible refine loaded_mk ?_ rfl rfl rfl | split | dsimp only | decide

theorem State.setUse_loaded (h : s0.Loaded s) {die ctx tier g : Nat} : s0.Loaded (State.setUse s die ctx tier g) := by
  unfold State.setUse
  try dsimp only
  repeat' first | with_reducible assumption | with_reducible rfl | with_reducible apply State.setReg_loaded | with_reducible apply State.quotaTest_loaded | with_reducible apply loaded_ite | split | dsimp only | decide

theorem State.evictTest_loaded (h : s0.Loaded s) {die tier : Nat} : s0.Loaded (State.evictTest s die tier) := by
  unfold State.evictTest
  try dsimp only
  repeat' first | with_reducible assumption | with_reducible rfl | with_reducible apply loaded_ite | fail_if_no_progress with_reducible refine loaded_mk ?_ rfl rfl rfl | split | dsimp only | decide

theorem State.alloc_loaded (h : s0.Loaded s) {die tier ctx g : Nat} : s0.Loaded (State.alloc s die tier ctx g) := by
  unfold State.alloc
  try dsimp only
  repeat' first | with_reducible assumption | with_reducible rfl | with_reducible apply State.setUse_loaded | with_reducible apply State.setPoolFree_loaded | with_reducible apply State.evictTest_loaded | with_reducible apply loaded_ite | split | dsimp only | decide

theorem State.queueScrub_loaded (h : s0.Loaded s) {die cluster : Nat} {teardown : Bool} {ctx slot : Nat} {ranges : List Range} : s0.Loaded (State.queueScrub s die cluster teardown ctx slot ranges) := by
  unfold State.queueScrub
  try dsimp only
  repeat' first | with_reducible assumption | with_reducible rfl | with_reducible apply loaded_ite | fail_if_no_progress with_reducible refine loaded_mk ?_ rfl rfl rfl | split | dsimp only | decide

theorem State.mapResult_loaded (h : s0.Loaded s) {slot : Nat} {key : ResKey} {f : Result → Result} : s0.Loaded (State.mapResult s slot key f) := by
  unfold State.mapResult
  try dsimp only
  repeat' first | with_reducible assumption | with_reducible rfl | intro _ | with_reducible apply loaded_ite | fail_if_no_progress with_reducible refine loaded_mk ?_ rfl rfl rfl | split | dsimp only | decide

theorem State.sendWrite_loaded (h : s0.Loaded s) {d : Dest} {q : Qp} {result : Nat × ResKey} {seq : Nat} {piece : Bool × Nat × List Byte} : s0.Loaded (State.sendWrite s d q result seq piece) := by
  unfold State.sendWrite
  try dsimp only
  repeat' first | with_reducible assumption | with_reducible rfl | intro _ | with_reducible apply State.send_loaded | with_reducible apply loaded_ite | fail_if_no_progress with_reducible refine loaded_mk ?_ rfl rfl rfl | split | dsimp only | decide

theorem State.sendObject_loaded (h : s0.Loaded s) {d : Dest} {r : Result} {q : Qp} : s0.Loaded (State.sendObject s d r q) := by
  unfold State.sendObject
  try dsimp only
  repeat' first | with_reducible assumption | with_reducible rfl | intro _ | with_reducible apply State.sendWrite_loaded | with_reducible apply loaded_ite | with_reducible apply loaded_foldl | fail_if_no_progress with_reducible refine loaded_mk ?_ rfl rfl rfl | split | dsimp only | decide

theorem State.joinQueue_loaded (h : s0.Loaded s) {slot : Nat} {key : ResKey} : s0.Loaded (State.joinQueue s slot key) := by
  unfold State.joinQueue
  try dsimp only
  repeat' first | with_reducible assumption | with_reducible rfl | intro _ | with_reducible apply State.noteReturn_loaded | with_reducible apply State.mapResult_loaded | with_reducible apply State.sendObject_loaded | with_reducible apply State.sendMsg_loaded | with_reducible apply loaded_ite | fail_if_no_progress with_reducible refine loaded_mk ?_ rfl rfl rfl | split | dsimp only | decide

theorem State.markLate_loaded (h : s0.Loaded s) {slot : Nat} {key : ResKey} : s0.Loaded (State.markLate s slot key) := by
  unfold State.markLate
  try dsimp only
  repeat' first | with_reducible assumption | with_reducible rfl | intro _ | with_reducible apply State.mapResult_loaded | with_reducible apply State.bump_loaded | with_reducible apply State.setReg_loaded | with_reducible apply State.raise_loaded | with_reducible apply loaded_ite | fail_if_no_progress with_reducible refine loaded_mk ?_ rfl rfl rfl | split | dsimp only | decide

theorem State.deliver_loaded (h : s0.Loaded s) {slot : Nat} {key : ResKey} : s0.Loaded (State.deliver s slot key) := by
  unfold State.deliver
  try dsimp only
  repeat' first | with_reducible assumption | with_reducible rfl | with_reducible apply State.joinQueue_loaded | with_reducible apply State.markLate_loaded | with_reducible apply loaded_ite | fail_if_no_progress with_reducible refine loaded_mk ?_ rfl rfl rfl | split | dsimp only | decide

theorem State.lateSweep_loaded (h : s0.Loaded s) : s0.Loaded (State.lateSweep s) := by
  unfold State.lateSweep
  try dsimp only
  repeat' first | with_reducible assumption | with_reducible rfl | intro _ | with_reducible apply State.deliver_loaded | with_reducible apply loaded_ite | with_reducible apply loaded_foldl | split | dsimp only | decide

theorem State.setSeg_loaded (h : s0.Loaded s) {x : Seg} : s0.Loaded (State.setSeg s x) := by
  unfold State.setSeg
  try dsimp only
  repeat' first | with_reducible assumption | with_reducible rfl | intro _ | with_reducible apply loaded_ite | fail_if_no_progress with_reducible refine loaded_mk ?_ rfl rfl rfl | split | dsimp only | decide

theorem State.openSeg_loaded (h : s0.Loaded s) {die group kind : Nat} : SomeP s0.Loaded (State.openSeg s die group kind) := by
  unfold State.openSeg
  try dsimp only
  repeat' first | with_reducible assumption | with_reducible rfl | with_reducible exact somep_none | with_reducible apply somep_some | with_reducible apply State.setSeg_loaded | with_reducible apply State.raiseOnce_loaded | with_reducible apply loaded_ite | fail_if_no_progress with_reducible refine loaded_mk ?_ rfl rfl rfl | split | dsimp only | decide

theorem State.settleSeg_loaded (h : s0.Loaded s) {x : Seg} : s0.Loaded (State.settleSeg s x) := by
  unfold State.settleSeg
  try dsimp only
  repeat' first | with_reducible assumption | with_reducible rfl | with_reducible apply State.setSeg_loaded | with_reducible apply loaded_ite | fail_if_no_progress with_reducible refine loaded_mk ?_ rfl rfl rfl | split | dsimp only | decide

theorem State.bufferStripes_loaded (h : s0.Loaded s) {x : Seg} {a b : Nat} : s0.Loaded (State.bufferStripes s x a b) := by
  unfold State.bufferStripes
  try dsimp only
  repeat' first | with_reducible assumption | with_reducible rfl | intro _ | with_reducible apply loaded_ite | with_reducible apply loaded_foldl | fail_if_no_progress with_reducible refine loaded_mk ?_ rfl rfl rfl | split | dsimp only | decide

theorem State.placeIn_loaded (h : s0.Loaded s) {x : Seg} {align size : Nat} {o : Owner} : s0.Loaded (State.placeIn s x align size o).1 := by
  unfold State.placeIn
  try dsimp only
  repeat' first | with_reducible assumption | with_reducible rfl | with_reducible apply State.setSeg_loaded | with_reducible apply State.bufferStripes_loaded | with_reducible apply loaded_ite | fail_if_no_progress with_reducible refine loaded_mk ?_ rfl rfl rfl | split | dsimp only | decide

theorem State.place_loaded (h : s0.Loaded s) {die group kind align size : Nat} {o : Owner} : SomeP s0.Loaded (State.place s die group kind align size o) := by
  unfold State.place
  try dsimp only
  repeat' first | with_reducible assumption | with_reducible rfl | with_reducible exact somep_none | with_reducible apply somep_some | with_reducible apply State.placeIn_loaded | with_reducible apply State.settleSeg_loaded | with_reducible apply State.openSeg_loaded | with_reducible apply loaded_ite | fail_if_no_progress with_reducible refine loaded_mk ?_ rfl rfl rfl | refine pair_of (P := s0.Loaded) (by assumption) ?_ | refine somep_of (P := s0.Loaded) (by assumption) ?_ | split | dsimp only | decide

theorem State.mapUnit_loaded (h : s0.Loaded s) {slot : Nat} {key : ResKey} {kvHead seg : Nat} {f : AttnUnit → AttnUnit} : s0.Loaded (State.mapUnit s slot key kvHead seg f) := by
  unfold State.mapUnit
  try dsimp only
  repeat' first | with_reducible assumption | with_reducible rfl | intro _ | with_reducible apply State.mapResult_loaded | with_reducible apply loaded_ite | fail_if_no_progress with_reducible refine loaded_mk ?_ rfl rfl rfl | split | dsimp only | decide

theorem State.promoteFirst_loaded (h : s0.Loaded s) {die : Nat} {u : UnitRef} : s0.Loaded (State.promoteFirst s die u) := by
  unfold State.promoteFirst
  try dsimp only
  repeat' first | with_reducible assumption | with_reducible rfl | intro _ | with_reducible apply loaded_ite | fail_if_no_progress with_reducible refine loaded_mk ?_ rfl rfl rfl | split | dsimp only | decide

theorem State.waitPage_loaded (h : s0.Loaded s) {r : Result} {u : AttnUnit} {page : Nat} : s0.Loaded (State.waitPage s r u page) := by
  unfold State.waitPage
  try dsimp only
  repeat' first | with_reducible assumption | with_reducible rfl | intro _ | with_reducible apply State.mapUnit_loaded | with_reducible apply State.promoteFirst_loaded | with_reducible apply State.bump_loaded | with_reducible apply State.raiseOnce_loaded | with_reducible apply loaded_ite | fail_if_no_progress with_reducible refine loaded_mk ?_ rfl rfl rfl | split | dsimp only | decide

theorem State.startUnit_loaded (h : s0.Loaded s) {r : Result} {u : AttnUnit} {core : Nat} : s0.Loaded (State.startUnit s r u core) := by
  unfold State.startUnit
  try dsimp only
  repeat' first | with_reducible assumption | with_reducible rfl | intro _ | with_reducible apply State.mapUnit_loaded | with_reducible apply loaded_ite | fail_if_no_progress with_reducible refine loaded_mk ?_ rfl rfl rfl | split | dsimp only | decide

theorem State.startGroup_loaded (h : s0.Loaded s) {g : Group} : s0.Loaded (State.startGroup s g) := by
  unfold State.startGroup
  try dsimp only
  repeat' first | with_reducible assumption | with_reducible rfl | intro _ | with_reducible apply State.bump_loaded | with_reducible apply State.mapUnit_loaded | with_reducible apply State.mapResult_loaded | with_reducible apply loaded_ite | with_reducible apply loaded_foldl | fail_if_no_progress with_reducible refine loaded_mk ?_ rfl rfl rfl | split | dsimp only | decide

theorem State.startGroups_loaded (h : s0.Loaded s) {die cluster : Nat} : s0.Loaded (State.startGroups s die cluster) := by
  unfold State.startGroups
  try dsimp only
  repeat' first | with_reducible assumption | with_reducible rfl | intro _ | with_reducible apply State.startGroup_loaded | with_reducible apply loaded_ite | with_reducible apply loaded_foldl | split | dsimp only | decide

theorem State.pumpUnit_loaded (h : s0.Loaded s) {r : Result} {u : AttnUnit} : s0.Loaded (State.pumpUnit s r u) := by
  unfold State.pumpUnit
  try dsimp only
  repeat' first | with_reducible assumption | with_reducible rfl | intro _ | with_reducible apply State.waitPage_loaded | with_reducible apply State.mapUnit_loaded | with_reducible apply State.bump_loaded | with_reducible apply State.startUnit_loaded | with_reducible apply loaded_ite | fail_if_no_progress with_reducible refine loaded_mk ?_ rfl rfl rfl | split | dsimp only | decide

theorem State.pump_loaded (h : s0.Loaded s) {die cluster : Nat} : s0.Loaded (State.pump s die cluster) := by
  unfold State.pump
  try dsimp only
  repeat' first | with_reducible assumption | with_reducible rfl | intro _ | with_reducible apply State.pumpUnit_loaded | with_reducible apply State.startGroups_loaded | with_reducible apply loaded_ite | with_reducible apply loaded_foldl | split | dsimp only | decide

theorem State.startMove_loaded (h : s0.Loaded s) {die : Nat} {u : UnitRef} {i : UnitInfo} {dst : Nat} {quota paced : Bool} {wake : Option Nat} : s0.Loaded (State.startMove s die u i dst quota paced wake) := by
  unfold State.startMove
  try dsimp only
  repeat' first | with_reducible assumption | with_reducible rfl | with_reducible exact somep_none | with_reducible apply somep_some | with_reducible apply State.place_loaded | with_reducible apply State.nextFree_loaded | with_reducible apply State.alloc_loaded | with_reducible apply loaded_ite | fail_if_no_progress with_reducible refine loaded_mk ?_ rfl rfl rfl | refine somep_of (P := s0.Loaded) (by assumption) ?_ | split | dsimp only | decide

theorem State.promotingTest_loaded (h : s0.Loaded s) {slot : Nat} : s0.Loaded (State.promotingTest s slot) := by
  unfold State.promotingTest
  try dsimp only
  repeat' first | with_reducible assumption | with_reducible rfl | intro _ | with_reducible apply State.setSess_loaded | with_reducible apply loaded_ite | fail_if_no_progress with_reducible refine loaded_mk ?_ rfl rfl rfl | split | dsimp only | decide

theorem State.startPromo_loaded (h : s0.Loaded s) {die : Nat} : s0.Loaded (State.startPromo s die) := by
  unfold State.startPromo
  try dsimp only
  repeat' first | with_reducible assumption | with_reducible rfl | intro _ | with_reducible apply State.promotingTest_loaded | with_reducible apply State.startMove_loaded | with_reducible apply loaded_ite | fail_if_no_progress with_reducible refine loaded_mk ?_ rfl rfl rfl | split | dsimp only | decide

theorem State.startPromos_loaded (h : s0.Loaded s) {die n : Nat} : s0.Loaded (State.startPromos s die n) := by
  induction n generalizing s with
  | zero => exact h
  | succ n ih => exact ih (State.startPromo_loaded h)

theorem State.runPromos_loaded (h : s0.Loaded s) {die : Nat} : s0.Loaded (State.runPromos s die) := by
  unfold State.runPromos
  try dsimp only
  repeat' first | with_reducible assumption | with_reducible rfl | with_reducible apply State.startPromos_loaded | with_reducible apply loaded_ite | with_reducible apply State.startPromos_loaded | split | dsimp only | decide

theorem State.mapPins_loaded (h : s0.Loaded s) {l : List (Nat × Nat × Nat)} {f : Nat → Nat} : s0.Loaded (State.mapPins s l f) := by
  unfold State.mapPins
  try dsimp only
  repeat' first | with_reducible assumption | with_reducible rfl | intro _ | with_reducible apply State.settleSeg_loaded | with_reducible apply loaded_ite | with_reducible apply loaded_foldl | fail_if_no_progress with_reducible refine loaded_mk ?_ rfl rfl rfl | split | dsimp only | decide

theorem State.discard_loaded (h : s0.Loaded s) {id : Nat} : s0.Loaded (State.discard s id) := by
  unfold State.discard
  try dsimp only
  repeat' first | with_reducible assumption | with_reducible rfl | intro _ | with_reducible apply State.mapPins_loaded | with_reducible apply loaded_ite | fail_if_no_progress with_reducible refine loaded_mk ?_ rfl rfl rfl | split | dsimp only | decide

theorem State.failCkpt_loaded (h : s0.Loaded s) {cause addr : Nat} : s0.Loaded (State.failCkpt s cause addr) := by
  unfold State.failCkpt
  try dsimp only
  repeat' first | with_reducible assumption | with_reducible rfl | with_reducible apply State.discard_loaded | with_reducible apply State.setFld_loaded | with_reducible apply State.setReg_loaded | with_reducible apply State.bump_loaded | with_reducible apply State.raise_loaded | with_reducible apply loaded_ite | fail_if_no_progress with_reducible refine loaded_mk ?_ rfl rfl rfl | split | dsimp only | decide

theorem State.pickAll_loaded (h : s0.Loaded s) : s0.Loaded (State.pickAll s) := by
  unfold State.pickAll
  try dsimp only
  repeat' first | with_reducible assumption | with_reducible rfl | intro _ | with_reducible apply State.pick_loaded | with_reducible apply loaded_ite | with_reducible apply loaded_foldl | split | dsimp only | decide

theorem State.pumpAll_loaded (h : s0.Loaded s) : s0.Loaded (State.pumpAll s) := by
  unfold State.pumpAll
  try dsimp only
  repeat' first | with_reducible assumption | with_reducible rfl | intro _ | with_reducible apply State.pump_loaded | with_reducible apply State.runPromos_loaded | with_reducible apply loaded_ite | with_reducible apply loaded_foldl | split | dsimp only | decide

theorem State.setBcn_loaded (h : s0.Loaded s) {b : Beacon} : s0.Loaded (State.setBcn s b) := by
  unfold State.setBcn
  try dsimp only
  repeat' first | with_reducible assumption | with_reducible rfl | with_reducible apply loaded_ite | fail_if_no_progress with_reducible refine loaded_mk ?_ rfl rfl rfl | split | dsimp only | decide

theorem State.rebase_loaded (h : s0.Loaded s) {pos : Nat} : s0.Loaded (State.rebase s pos) := by
  unfold State.rebase
  try dsimp only
  repeat' first | with_reducible assumption | with_reducible rfl | intro _ | with_reducible apply State.failCkpt_loaded | with_reducible apply State.setPort_loaded | with_reducible apply State.promotingTest_loaded | with_reducible apply State.setBcn_loaded | with_reducible apply State.raise_loaded | with_reducible apply State.pickAll_loaded | with_reducible apply loaded_ite | with_reducible apply loaded_foldl | fail_if_no_progress with_reducible refine loaded_mk ?_ rfl rfl rfl | split | dsimp only | decide

theorem State.fireWire_loaded (h : s0.Loaded s) {die w : Nat} : s0.Loaded (State.fireWire s die w) := by
  unfold State.fireWire
  try dsimp only
  repeat' first | with_reducible assumption | with_reducible rfl | intro _ | with_reducible apply State.setReg_loaded | with_reducible apply loaded_ite | fail_if_no_progress with_reducible refine loaded_mk ?_ rfl rfl rfl | split | dsimp only | decide

theorem State.tlTest_loaded (h : s0.Loaded s) {die i : Nat} : s0.Loaded (State.tlTest s die i) := by
  unfold State.tlTest
  try dsimp only
  repeat' first | with_reducible assumption | with_reducible rfl | with_reducible apply State.setFld_loaded | with_reducible apply State.fireWire_loaded | with_reducible apply loaded_ite | split | dsimp only | decide

theorem State.setStatus_loaded (h : s0.Loaded s) {v : Nat} : s0.Loaded (State.setStatus s v) := by
  unfold State.setStatus
  try dsimp only
  repeat' first | with_reducible assumption | with_reducible rfl | with_reducible apply State.setFld_loaded | with_reducible apply State.ibi_loaded | with_reducible apply loaded_ite | split | dsimp only | decide

theorem State.restoreReg_loaded (h : s0.Loaded s) {x : Snap} {k : RegKey} : s0.Loaded (State.restoreReg s x k) := by
  unfold State.restoreReg
  try dsimp only
  repeat' first | with_reducible assumption | with_reducible rfl | with_reducible apply loaded_ite | fail_if_no_progress with_reducible refine loaded_mk ?_ rfl rfl rfl | split | dsimp only | decide

theorem State.restoreRegs_loaded (h : s0.Loaded s) {x : Snap} : s0.Loaded (State.restoreRegs s x) := by
  unfold State.restoreRegs
  try dsimp only
  repeat' first | with_reducible assumption | with_reducible rfl | intro _ | with_reducible apply State.restoreReg_loaded | with_reducible apply State.quotaTest_loaded | with_reducible apply State.setFld_loaded | with_reducible apply loaded_ite | with_reducible apply loaded_foldl | split | dsimp only | decide

theorem State.restoreBoundary_loaded (h : s0.Loaded s) {saved : Nat} : s0.Loaded (State.restoreBoundary s saved) := by
  unfold State.restoreBoundary
  try dsimp only
  repeat' first | with_reducible assumption | with_reducible rfl | intro _ | with_reducible apply State.setFld_loaded | with_reducible apply loaded_ite | fail_if_no_progress with_reducible refine loaded_mk ?_ rfl rfl rfl | split | dsimp only | decide

theorem State.restorePins_loaded (h : s0.Loaded s) : s0.Loaded (State.restorePins s) := by
  unfold State.restorePins
  try dsimp only
  repeat' first | with_reducible assumption | with_reducible rfl | intro _ | with_reducible apply loaded_ite | with_reducible apply loaded_foldl | fail_if_no_progress with_reducible refine loaded_mk ?_ rfl rfl rfl | split | dsimp only | decide

theorem State.restoreWires_loaded (h : s0.Loaded s) : s0.Loaded (State.restoreWires s) := by
  unfold State.restoreWires
  try dsimp only
  repeat' first | with_reducible assumption | with_reducible rfl | intro _ | with_reducible apply State.setReg_loaded | with_reducible apply State.tlTest_loaded | with_reducible apply loaded_ite | with_reducible apply loaded_foldl | split | dsimp only | decide

theorem State.restoreScrubs_loaded (h : s0.Loaded s) : s0.Loaded (State.restoreScrubs s) := by
  unfold State.restoreScrubs
  try dsimp only
  repeat' first | with_reducible assumption | with_reducible rfl | intro _ | with_reducible apply State.nextFree_loaded | with_reducible apply State.queueScrub_loaded | with_reducible apply loaded_ite | with_reducible apply loaded_foldl | split | dsimp only | decide

theorem State.startReplay_loaded (h : s0.Loaded s) {x : Snap} : s0.Loaded (State.startReplay s x) := by
  unfold State.startReplay
  try dsimp only
  repeat' first | with_reducible assumption | with_reducible rfl | intro _ | with_reducible apply State.formed_loaded | with_reducible apply State.setFld_loaded | with_reducible apply State.setReg_loaded | with_reducible apply loaded_ite | fail_if_no_progress with_reducible refine loaded_mk ?_ rfl rfl rfl | split | dsimp only | decide

end Sys2Proof.Machine
end

