-- ==== Sys2Proof/Laws/CkptCmds.lean ====
section
/-! SUPPORT. Helpers about checkpoints and restores. -/

namespace Sys2Proof.Machine

variable {s s0 t : State}

theorem cut_id (s : State) (kind trigger : Nat) : ∃ r, (s.cut kind trigger).ckpt.run = some r ∧ r.id = s.nextCkpt ∧ r.kind = kind ∧ r.trigger = trigger := by
  unfold State.cut
  extract_lets id slot x r old s1 x2 s2 s3 s4 x5 s5 s6 s7
  have hput : ∀ (u : State) (h : ShardHdr), (u.putHead h).ckpt.run = u.ckpt.run := fun _ _ => rfl
  have hpins : ∀ (l : List (Nat × Nat × Nat)) (f : Nat → Nat) (u : State), (u.mapPins l f).ckpt.run = u.ckpt.run :=
    fun l f u => (State.mapPins_paced (paced_refl u)).run
  have hold : ∀ (l : List Nat) (u : State), (l.foldl (fun s n => s.discard n) u).ckpt.run = u.ckpt.run := by
    intro l
    induction l with
    | nil => intro u; rfl
    | cons n l ih =>
      intro u
      refine (ih _).trans ?_
      exact hpins _ _ u
  have h7 : s7.ckpt.run = some r := by
    show s4.ckpt.run = some r
    unfold s4
    rw [hold]
    rfl
  refine ⟨r, ?_, rfl, rfl, rfl⟩
  have hr : (s7.startRec id).ckpt.run = some r := by
    unfold State.startRec
    split
    · exact h7
    · exact h7
  exact (State.raise_reported (reported_refl (s7.startRec id))).ckpt ▸ hr

theorem aside_plan (h : s.Aside t) : t.ckpt.plan = s.ckpt.plan ∧ t.ckpt.run = s.ckpt.run ∧ t.ckpt.retained = s.ckpt.retained ∧ t.ckpt.restore = s.ckpt.restore := by
  have e := h.ckpt
  have e1 := congrArg (fun c : Ckpt => c.plan) e
  have e2 := congrArg (fun c : Ckpt => c.run) e
  have e3 := congrArg (fun c : Ckpt => c.retained) e
  have e4 := congrArg (fun c : Ckpt => c.restore) e
  exact ⟨e1, e2, e3, e4⟩

theorem planCkpt_busy (s : State) (kind trigger : Nat) : (s.planCkpt kind trigger).ckptBusy = true := by
  unfold State.planCkpt
  split
  · rfl
  · obtain ⟨r, hr, -⟩ := cut_run s kind trigger
    unfold State.ckptBusy
    rw [hr]
    exact Bool.or_true _

theorem cut_answered (s : State) (kind trigger : Nat) : (s.cut kind trigger).rp.answered = s.rp.answered := by
  unfold State.cut
  extract_lets id slot x r old s1 x2 s2 s3 s4 x5 s5 s6 s7
  have hs : ∀ (l : List (Nat × Nat × Nat)) (f : Nat → Nat) (u : State), (u.mapPins l f).rp.answered = u.rp.answered := by
    intro l f u
    unfold State.mapPins
    exact (said_foldl (fun _ _ h => by
      dsimp only
      exact State.settleSeg_said h) l (said_refl u)).answered
  have hold : ∀ (l : List Nat) (u : State), (l.foldl (fun s n => s.discard n) u).rp.answered = u.rp.answered := by
    intro l
    induction l with
    | nil => intro u; rfl
    | cons n l ih =>
      intro u
      refine (ih _).trans ?_
      exact hs _ _ u
  have h7 : s7.rp.answered = s.rp.answered := by
    show s4.rp.answered = _
    unfold s4
    rw [hold]
    show s1.rp.answered = _
    exact hs _ _ _
  have hr : (s7.startRec id).rp.answered = s.rp.answered := by
    unfold State.startRec
    split
    · exact h7
    · exact h7
  exact (State.raise_said (said_refl (s7.startRec id))).answered.trans hr

theorem planCkpt_answered (s : State) (kind trigger : Nat) : (s.planCkpt kind trigger).rp.answered = s.rp.answered := by
  unfold State.planCkpt
  split
  · rfl
  · exact cut_answered _ _ _

theorem heard_ckpt (s : State) (e : Env) (type : Nat) : (s.heard e type none).ckpt = s.ckpt :=
  (heard_reported (s := s) (e := e) (type := type) (slot := none) (.inl rfl)).ckpt

theorem failCkpt_spec (s : State) (a : Nat) : (s.failCkpt 1 a).ckptBusy = false ∧ (s.failCkpt 1 a).fld 0 0 Fld.CK_STATUS_CAUSE = 1
    ∧ (s.failCkpt 1 a).reg 0 0 Reg.CK_FAIL = BitVec.ofNat 64 a := by
  unfold State.failCkpt
  extract_lets w1 c w2 w3 w4 w5
  have h2 : w2.ckpt.plan = none ∧ w2.ckpt.run = none := ⟨rfl, rfl⟩
  clear_value w2
  have h3 : w3.fld 0 0 Fld.CK_STATUS_CAUSE = 1 := fld_setFld_self _ _ _ _ _ (by decide) (by decide)
  have h3c : w3.ckpt = w2.ckpt := rfl
  clear_value w3
  have h4 : w4.fld 0 0 Fld.CK_STATUS_CAUSE = 1 := by
    unfold w4
    rw [fld_setFld_ne _ _ (.inr (.inr (by decide))), fld_setFld_ne _ _ (.inr (.inr (by decide)))]
    exact h3
  have h4c : w4.ckpt = w3.ckpt := rfl
  clear_value w4
  have h5 : w5 = w4.setReg 0 0 Reg.CK_FAIL (BitVec.ofNat 64 a) := if_pos rfl
  have hr := State.raise_reported (reported_refl (w5.bump 0 0 Fld.CK_COUNTS_FAILED)) (die := 0) (sub := 0x82) (a := { alert := true, a0 := 1 })
  refine ⟨?_, ?_, ?_⟩
  · unfold State.ckptBusy
    rw [hr.ckpt, show (w5.bump 0 0 Fld.CK_COUNTS_FAILED).ckpt = w5.ckpt from rfl, h5, show (w4.setReg 0 0 Reg.CK_FAIL (BitVec.ofNat 64 a)).ckpt = w4.ckpt from rfl, h4c, h3c, h2.1, h2.2]
    rfl
  · rw [hr.fld _ _ (by decide)]
    unfold State.bump State.bumpBy
    rw [fld_setFld_ne _ _ (.inr (.inr (by decide))), h5, fld_setReg_ne _ _ (.inr (.inr (by decide)))]
    exact h4
  · rw [hr.reg _ _ _ (by decide)]
    unfold State.bump State.bumpBy State.setFld
    rw [reg_setReg_ne _ _ (.inr (.inr (by decide))), h5, reg_setReg_self]

theorem shardEnd_spec (s : State) (r : CkptRun) (x : Snap) (shard n die : Nat) (hnd : (if die = 0 then r.order0 else r.order1).Nodup)
    (hh : (if die = 0 then r.order0 else r.order1).head? = some shard) :
    (∃ h ∈ (s.shardEnd r x shard n die).ckpt.heads, h.slot = r.slot ∧ h.shard = shard ∧ h.id = r.id ∧ h.done = true ∧ h.bodyLen = n)
    ∧ (die = 0 → r.order0.length ≤ 1 → ∃ q, (s.shardEnd r x shard n die).ckpt.run = some q ∧ q.id = r.id ∧ q.order0 = [] ∧ q.order1 = r.order1) := by
  unfold State.shardEnd
  extract_lets q0 y1 left q c y2
  have h1 : ∃ h ∈ y1.ckpt.heads, h.slot = r.slot ∧ h.shard = shard ∧ h.id = r.id ∧ h.done = true ∧ h.bodyLen = n := ⟨_, List.mem_cons_self .., rfl, rfl, rfl, rfl, rfl⟩
  clear_value y1
  have h2 : y2.ckpt.heads = y1.ckpt.heads ∧ y2.ckpt.run = some q := ⟨rfl, rfl⟩
  have hq : q.id = r.id ∧ (die = 0 → q.order0 = left ∧ q.order1 = r.order1) := by
    unfold q
    by_cases hd : die = 0
    · rw [if_pos hd]
      exact ⟨rfl, fun _ => ⟨rfl, rfl⟩⟩
    · rw [if_neg hd]
      exact ⟨rfl, fun h => absurd h hd⟩
  have hl : left = (if die = 0 then r.order0 else r.order1).drop 1 := rfl
  have hmem : shard ∉ left := by
    rw [hl]
    cases ho : (if die = 0 then r.order0 else r.order1) with
    | nil => rw [ho] at hh; cases hh
    | cons a l =>
      rw [ho] at hh hnd
      have : a = shard := Option.some.inj hh
      subst this
      exact (List.nodup_cons.1 hnd).1
  have hlen : die = 0 → r.order0.length ≤ 1 → left = [] := by
    intro h0 h1
    rw [hl, if_pos h0]
    exact List.drop_eq_nil_of_le h1
  clear_value y2 q left
  cases left with
  | nil =>
    refine ⟨?_, fun h0 h1' => ⟨q, h2.2, hq.1, ((hq.2 h0).1).trans (hlen h0 h1'), (hq.2 h0).2⟩⟩
    obtain ⟨h, a, b⟩ := h1
    exact ⟨h, by
      show h ∈ y2.ckpt.heads
      rw [h2.1]
      exact a, b⟩
  | cons k l =>
    have hk : k ≠ shard := fun e => hmem (e ▸ List.mem_cons_self ..)
    refine ⟨?_, fun h0 h1' => absurd (hlen h0 h1') (List.cons_ne_nil _ _)⟩
    obtain ⟨h, a, b⟩ := h1
    have hm : h ∈ (y2.putHead (openHead q x y2.layers k)).ckpt.heads := by
      refine List.mem_cons_of_mem _ (List.mem_filter.2 ⟨h2.1 ▸ a, ?_⟩)
      rw [b.2.1]
      have : (shard == (openHead q x y2.layers k).shard) = false := beq_eq_false_iff_ne.2 (Ne.symm hk)
      rw [this, Bool.and_false]
      rfl
    refine ⟨h, ?_, b⟩
    dsimp only
    split
    · exact hm
    · exact hm

end Sys2Proof.Machine
end

