-- ==== Sys2Proof/Laws/Hale.lean ====
section
/-! SUPPORT. What leaves the health state, the core map and the clocks alone. -/

namespace Sys2Proof.Machine

/-- The registers `State.Hale` keeps. -/
def haleRegs : List RegId := [Reg.HL_CORE, Reg.BD_CLK]

/-- `b` has the health state, HL_CORE and BD_CLK of `a`. -/
structure State.Hale (a b : State) : Prop where
  health : b.health = a.health
  reg : ∀ d i r, r ∈ haleRegs → b.reg d i r = a.reg d i r

variable {s0 s t : State}

theorem hale_refl (s : State) : s.Hale s := ⟨rfl, fun _ _ _ _ => rfl⟩

theorem hale_trans (h : s0.Hale s) (h' : s.Hale t) : s0.Hale t :=
  ⟨h'.health.trans h.health, fun d i r hr => (h'.reg d i r hr).trans (h.reg d i r hr)⟩

/-- A change elsewhere. -/
theorem hale_mk (h : s0.Hale s) {now : Nat} {pending : List Instr} {free : Nat} {regs : List (RegKey × Word)} {bcn : Beacon}
    {ev : Events} {ses : Sessions} {kv : Kv} {attn : Attn} {grams : List ((Nat × Nat) × Gram)} {net : Net} {lamp : Lamp}
    {tier : Tier} {start : Start} {flash : Flash} {ident : Ident} {ckpt : Ckpt} {health : Health} {rp : Replay} {pins : Pins}
    (e0 : health = s.health) (er : regs = s.regs) :
    s0.Hale ⟨now, pending, free, regs, bcn, ev, ses, kv, attn, grams, net, lamp, tier, start, flash, ident, ckpt, health, rp,
      pins⟩ := ⟨e0.trans h.health, fun d i r hr => by rw [← h.reg d i r hr]; unfold State.reg; dsimp only; rw [er]⟩

theorem hale_ite {c : Prop} [Decidable c] (h : s0.Hale s) (h' : s0.Hale t) : s0.Hale (if c then s else t) := by
  split <;> assumption

theorem hale_foldl {α : Type} {f : State → α → State} (hf : ∀ s x, s0.Hale s → s0.Hale (f s x)) (l : List α)
    (h : s0.Hale s) : s0.Hale (l.foldl f s) := by
  induction l generalizing s with
  | nil => exact h
  | cons x l ih => exact ih (hf s x h)

theorem State.setReg_hale (h : s0.Hale s) {die sel : Nat} {r : RegId} {w : Word} (hr : r ∉ haleRegs) : s0.Hale (s.setReg die sel r w) :=
  hale_trans h ⟨rfl, fun _ _ _ hx => reg_setReg_ne s _ (.inr (.inr (fun e => hr (e ▸ hx))))⟩
theorem State.setFld_hale (h : s0.Hale s) {die sel : Nat} {f : Field} {v : Nat} (hf : f.reg ∉ haleRegs) : s0.Hale (s.setFld die sel f v) := State.setReg_hale h hf
theorem State.bumpBy_hale (h : s0.Hale s) {die sel : Nat} {f : Field} {n : Nat} (hf : f.reg ∉ haleRegs) : s0.Hale (s.bumpBy die sel f n) := State.setReg_hale h hf
theorem State.bump_hale (h : s0.Hale s) {die sel : Nat} {f : Field} (hf : f.reg ∉ haleRegs) : s0.Hale (s.bump die sel f) := State.setReg_hale h hf
theorem State.lower_hale (h : s0.Hale s) {die sel : Nat} {f : Field} {n : Nat} (hf : f.reg ∉ haleRegs) : s0.Hale (s.lower die sel f n) := State.setReg_hale h hf
theorem State.setSess_hale (h : s0.Hale s) {slot : Nat} {r : Session} : s0.Hale (s.setSess slot r) := hale_mk h rfl rfl
theorem State.setPort_hale (h : s0.Hale s) {p : Nat} {x : Port} : s0.Hale (s.setPort p x) := hale_mk h rfl rfl
theorem State.setPoolFree_hale (h : s0.Hale s) {die tier n : Nat} : s0.Hale (s.setPoolFree die tier n) := by
  unfold State.setPoolFree
  dsimp only
  exact State.setReg_hale h (by simp [haleRegs, Reg.HL_CORE, Reg.BD_CLK])

set_option linter.unusedTactic false
set_option linter.unusedSimpArgs false
set_option linter.unreachableTactic false

theorem State.settle_hale (h : s0.Hale s) {p : Nat} : s0.Hale (State.settle s p) := by
  unfold State.settle
  try dsimp only
  repeat' first | with_reducible assumption | with_reducible rfl | decide | (simp [haleRegs, Reg.HL_CORE, Reg.BD_CLK]; done) | intro _ | with_reducible apply State.setPort_hale | with_reducible apply hale_ite | with_reducible apply hale_foldl | fail_if_no_progress with_reducible refine hale_mk ?_ rfl rfl | split | dsimp only | decide

theorem State.enqueue_hale (h : s0.Hale s) {p cls flow len : Nat} {result : Option (Nat × ResKey)} {body : FrameBody} : s0.Hale (State.enqueue s p cls flow len result body) := by
  unfold State.enqueue
  try dsimp only
  repeat' first | with_reducible assumption | with_reducible rfl | decide | (simp [haleRegs, Reg.HL_CORE, Reg.BD_CLK]; done) | with_reducible apply State.settle_hale | with_reducible apply State.setPort_hale | with_reducible apply hale_ite | fail_if_no_progress with_reducible refine hale_mk ?_ rfl rfl | split | dsimp only | decide

theorem State.countHeld_hale (h : s0.Hale s) {p : Nat} : s0.Hale (State.countHeld s p) := by
  unfold State.countHeld
  try dsimp only
  repeat' first | with_reducible assumption | with_reducible rfl | decide | (simp [haleRegs, Reg.HL_CORE, Reg.BD_CLK]; done) | intro _ | with_reducible apply State.setPort_hale | with_reducible apply State.bump_hale | with_reducible apply hale_ite | with_reducible apply hale_foldl | fail_if_no_progress with_reducible refine hale_mk ?_ rfl rfl | split | dsimp only | decide

theorem State.noteReturn_hale (h : s0.Hale s) {r : Result} : s0.Hale (State.noteReturn s r) := by
  unfold State.noteReturn
  try dsimp only
  repeat' first | with_reducible assumption | with_reducible rfl | decide | (simp [haleRegs, Reg.HL_CORE, Reg.BD_CLK]; done) | intro _ | with_reducible apply State.bump_hale | with_reducible apply hale_ite | fail_if_no_progress with_reducible refine hale_mk ?_ rfl rfl | split | dsimp only | decide

theorem State.markStarted_hale (h : s0.Hale s) {p : Nat} {f : QFrame} : s0.Hale (State.markStarted s p f) := by
  unfold State.markStarted
  try dsimp only
  repeat' first | with_reducible assumption | with_reducible rfl | decide | (simp [haleRegs, Reg.HL_CORE, Reg.BD_CLK]; done) | intro _ | with_reducible apply State.noteReturn_hale | with_reducible apply State.setPort_hale | with_reducible apply hale_ite | fail_if_no_progress with_reducible refine hale_mk ?_ rfl rfl | split | dsimp only | decide

theorem State.untrack_hale (h : s0.Hale s) {k : KeyRef} {reqId : Nat} : s0.Hale (State.untrack s k reqId) := by
  unfold State.untrack
  try dsimp only
  repeat' first | with_reducible assumption | with_reducible rfl | decide | (simp [haleRegs, Reg.HL_CORE, Reg.BD_CLK]; done) | intro _ | with_reducible apply hale_ite | fail_if_no_progress with_reducible refine hale_mk ?_ rfl rfl | split | dsimp only | decide

theorem State.untrackFrame_hale (h : s0.Hale s) {f : QFrame} : s0.Hale (State.untrackFrame s f) := by
  unfold State.untrackFrame
  try dsimp only
  repeat' first | with_reducible assumption | with_reducible rfl | decide | (simp [haleRegs, Reg.HL_CORE, Reg.BD_CLK]; done) | with_reducible apply State.untrack_hale | with_reducible apply hale_ite | fail_if_no_progress with_reducible refine hale_mk ?_ rfl rfl | split | dsimp only | decide

theorem State.pick_hale (h : s0.Hale s) {p : Nat} : s0.Hale (State.pick s p) := by
  unfold State.pick
  try dsimp only
  repeat' first | with_reducible assumption | with_reducible rfl | decide | (simp [haleRegs, Reg.HL_CORE, Reg.BD_CLK]; done) | with_reducible apply State.settle_hale | with_reducible apply State.countHeld_hale | with_reducible apply State.setPort_hale | with_reducible apply State.markStarted_hale | with_reducible apply State.untrackFrame_hale | with_reducible apply hale_ite | fail_if_no_progress with_reducible refine hale_mk ?_ rfl rfl | split | dsimp only | decide

theorem State.send_hale (h : s0.Hale s) {p cls flow len : Nat} {result : Option (Nat × ResKey)} {body : FrameBody} : s0.Hale (State.send s p cls flow len result body) := by
  unfold State.send
  try dsimp only
  repeat' first | with_reducible assumption | with_reducible rfl | decide | (simp [haleRegs, Reg.HL_CORE, Reg.BD_CLK]; done) | with_reducible apply State.enqueue_hale | with_reducible apply State.pick_hale | with_reducible apply hale_ite | split | dsimp only | decide

theorem State.resetClass_hale (h : s0.Hale s) {p c : Nat} : s0.Hale (State.resetClass s p c) := by
  unfold State.resetClass
  try dsimp only
  repeat' first | with_reducible assumption | with_reducible rfl | decide | (simp [haleRegs, Reg.HL_CORE, Reg.BD_CLK]; done) | intro _ | with_reducible apply State.setPort_hale | with_reducible apply hale_ite | fail_if_no_progress with_reducible refine hale_mk ?_ rfl rfl | split | dsimp only | decide

theorem State.sendSeg_hale (h : s0.Hale s) {d : Dest} {kind type status reason reqId : Nat} {response : Bool} {result : Option (Nat × ResKey)} {count len : Nat} {seg : Nat × List Byte} : s0.Hale (State.sendSeg s d kind type status reason reqId response result count len seg) := by
  unfold State.sendSeg
  try dsimp only
  repeat' first | with_reducible assumption | with_reducible rfl | decide | (simp [haleRegs, Reg.HL_CORE, Reg.BD_CLK]; done) | with_reducible apply State.send_hale | with_reducible apply hale_ite | fail_if_no_progress with_reducible refine hale_mk ?_ rfl rfl | split | dsimp only | decide

theorem State.sendMsg_hale (h : s0.Hale s) {d : Dest} {kind type status reason reqId : Nat} {response : Bool} {result : Option (Nat × ResKey)} {body : List Byte} : s0.Hale (State.sendMsg s d kind type status reason reqId response result body) := by
  unfold State.sendMsg
  try dsimp only
  repeat' first | with_reducible assumption | with_reducible rfl | decide | (simp [haleRegs, Reg.HL_CORE, Reg.BD_CLK]; done) | intro _ | with_reducible apply State.sendSeg_hale | with_reducible apply hale_ite | with_reducible apply hale_foldl | fail_if_no_progress with_reducible refine hale_mk ?_ rfl rfl | split | dsimp only | decide

theorem State.setRing_hale (h : s0.Hale s) {die : Nat} {l : List EvtRec} : s0.Hale (State.setRing s die l) := by
  unfold State.setRing
  try dsimp only
  repeat' first | with_reducible assumption | with_reducible rfl | decide | (simp [haleRegs, Reg.HL_CORE, Reg.BD_CLK]; done) | with_reducible apply hale_ite | fail_if_no_progress with_reducible refine hale_mk ?_ rfl rfl | split | dsimp only | decide

theorem State.setAlerts_hale (h : s0.Hale s) {die : Nat} {l : List Nat} : s0.Hale (State.setAlerts s die l) := by
  unfold State.setAlerts
  try dsimp only
  repeat' first | with_reducible assumption | with_reducible rfl | decide | (simp [haleRegs, Reg.HL_CORE, Reg.BD_CLK]; done) | with_reducible apply hale_ite | fail_if_no_progress with_reducible refine hale_mk ?_ rfl rfl | split | dsimp only | decide

theorem State.eventFrame_hale (h : s0.Hale s) {sub : Sub} {r : EvtRec} : s0.Hale (State.eventFrame s sub r) := by
  unfold State.eventFrame
  try dsimp only
  repeat' first | with_reducible assumption | with_reducible rfl | decide | (simp [haleRegs, Reg.HL_CORE, Reg.BD_CLK]; done) | with_reducible apply State.sendMsg_hale | with_reducible apply hale_ite | fail_if_no_progress with_reducible refine hale_mk ?_ rfl rfl | split | dsimp only | decide

theorem State.ibi_hale (h : s0.Hale s) {byte : Nat} : s0.Hale (State.ibi s byte) := by
  unfold State.ibi
  try dsimp only
  repeat' first | with_reducible assumption | with_reducible rfl | decide | (simp [haleRegs, Reg.HL_CORE, Reg.BD_CLK]; done) | with_reducible apply hale_ite | fail_if_no_progress with_reducible refine hale_mk ?_ rfl rfl | split | dsimp only | decide

theorem State.logEvent_hale (h : s0.Hale s) {die : Nat} {r : EvtRec} : s0.Hale (State.logEvent s die r) := by
  unfold State.logEvent
  try dsimp only
  repeat' first | with_reducible assumption | with_reducible rfl | decide | (simp [haleRegs, Reg.HL_CORE, Reg.BD_CLK]; done) | with_reducible apply State.setRing_hale | with_reducible apply State.setFld_hale | with_reducible apply State.setAlerts_hale | with_reducible apply State.ibi_hale | with_reducible apply hale_ite | split | dsimp only | decide

theorem State.raise_hale (h : s0.Hale s) {die sub : Nat} {a : EvtArgs} : s0.Hale (State.raise s die sub a) := by
  unfold State.raise
  try dsimp only
  repeat' first | with_reducible assumption | with_reducible rfl | decide | (simp [haleRegs, Reg.HL_CORE, Reg.BD_CLK]; done) | intro _ | with_reducible apply State.eventFrame_hale | with_reducible apply State.logEvent_hale | with_reducible apply hale_ite | with_reducible apply hale_foldl | split | dsimp only | decide

theorem State.setOnce_hale (h : s0.Hale s) {o : Once} : s0.Hale (State.setOnce s o) := by
  unfold State.setOnce
  try dsimp only
  repeat' first | with_reducible assumption | with_reducible rfl | decide | (simp [haleRegs, Reg.HL_CORE, Reg.BD_CLK]; done) | intro _ | with_reducible apply hale_ite | fail_if_no_progress with_reducible refine hale_mk ?_ rfl rfl | split | dsimp only | decide

theorem State.raiseOnce_hale (h : s0.Hale s) {die sub item : Nat} {a : EvtArgs} : s0.Hale (State.raiseOnce s die sub item a) := by
  unfold State.raiseOnce
  try dsimp only
  repeat' first | with_reducible assumption | with_reducible rfl | decide | (simp [haleRegs, Reg.HL_CORE, Reg.BD_CLK]; done) | with_reducible apply State.setOnce_hale | with_reducible apply State.raise_hale | with_reducible apply hale_ite | fail_if_no_progress with_reducible refine hale_mk ?_ rfl rfl | split | dsimp only | decide

theorem State.quotaTest_hale (h : s0.Hale s) {die ctx tier : Nat} : s0.Hale (State.quotaTest s die ctx tier) := by
  unfold State.quotaTest
  try dsimp only
  repeat' first | with_reducible assumption | with_reducible rfl | decide | (simp [haleRegs, Reg.HL_CORE, Reg.BD_CLK]; done) | with_reducible apply State.setFld_hale | with_reducible apply State.raise_hale | with_reducible apply hale_ite | fail_if_no_progress with_reducible refine hale_mk ?_ rfl rfl | split | dsimp only | decide

theorem State.setUse_hale (h : s0.Hale s) {die ctx tier g : Nat} : s0.Hale (State.setUse s die ctx tier g) := by
  unfold State.setUse
  try dsimp only
  repeat' first | with_reducible assumption | with_reducible rfl | decide | (simp [haleRegs, Reg.HL_CORE, Reg.BD_CLK]; done) | with_reducible apply State.setReg_hale | with_reducible apply State.quotaTest_hale | with_reducible apply hale_ite | split | dsimp only | decide

theorem State.evictTest_hale (h : s0.Hale s) {die tier : Nat} : s0.Hale (State.evictTest s die tier) := by
  unfold State.evictTest
  try dsimp only
  repeat' first | with_reducible assumption | with_reducible rfl | decide | (simp [haleRegs, Reg.HL_CORE, Reg.BD_CLK]; done) | with_reducible apply hale_ite | fail_if_no_progress with_reducible refine hale_mk ?_ rfl rfl | split | dsimp only | decide

theorem State.dealloc_hale (h : s0.Hale s) {die tier ctx g : Nat} : s0.Hale (State.dealloc s die tier ctx g) := by
  unfold State.dealloc
  try dsimp only
  repeat' first | with_reducible assumption | with_reducible rfl | decide | (simp [haleRegs, Reg.HL_CORE, Reg.BD_CLK]; done) | with_reducible apply State.setUse_hale | with_reducible apply State.setPoolFree_hale | with_reducible apply State.evictTest_hale | with_reducible apply hale_ite | split | dsimp only | decide

theorem State.mapResult_hale (h : s0.Hale s) {slot : Nat} {key : ResKey} {f : Result → Result} : s0.Hale (State.mapResult s slot key f) := by
  unfold State.mapResult
  try dsimp only
  repeat' first | with_reducible assumption | with_reducible rfl | decide | (simp [haleRegs, Reg.HL_CORE, Reg.BD_CLK]; done) | intro _ | with_reducible apply hale_ite | fail_if_no_progress with_reducible refine hale_mk ?_ rfl rfl | split | dsimp only | decide

theorem State.mapUnit_hale (h : s0.Hale s) {slot : Nat} {key : ResKey} {kvHead seg : Nat} {f : AttnUnit → AttnUnit} : s0.Hale (State.mapUnit s slot key kvHead seg f) := by
  unfold State.mapUnit
  try dsimp only
  repeat' first | with_reducible assumption | with_reducible rfl | decide | (simp [haleRegs, Reg.HL_CORE, Reg.BD_CLK]; done) | intro _ | with_reducible apply State.mapResult_hale | with_reducible apply hale_ite | fail_if_no_progress with_reducible refine hale_mk ?_ rfl rfl | split | dsimp only | decide

theorem State.promoteFirst_hale (h : s0.Hale s) {die : Nat} {u : UnitRef} : s0.Hale (State.promoteFirst s die u) := by
  unfold State.promoteFirst
  try dsimp only
  repeat' first | with_reducible assumption | with_reducible rfl | decide | (simp [haleRegs, Reg.HL_CORE, Reg.BD_CLK]; done) | intro _ | with_reducible apply hale_ite | fail_if_no_progress with_reducible refine hale_mk ?_ rfl rfl | split | dsimp only | decide

theorem State.waitPage_hale (h : s0.Hale s) {r : Result} {u : AttnUnit} {page : Nat} : s0.Hale (State.waitPage s r u page) := by
  unfold State.waitPage
  try dsimp only
  repeat' first | with_reducible assumption | with_reducible rfl | decide | (simp [haleRegs, Reg.HL_CORE, Reg.BD_CLK]; done) | intro _ | with_reducible apply State.mapUnit_hale | with_reducible apply State.promoteFirst_hale | with_reducible apply State.bump_hale | with_reducible apply State.raiseOnce_hale | with_reducible apply hale_ite | fail_if_no_progress with_reducible refine hale_mk ?_ rfl rfl | split | dsimp only | decide

theorem State.startUnit_hale (h : s0.Hale s) {r : Result} {u : AttnUnit} {core : Nat} : s0.Hale (State.startUnit s r u core) := by
  unfold State.startUnit
  try dsimp only
  repeat' first | with_reducible assumption | with_reducible rfl | decide | (simp [haleRegs, Reg.HL_CORE, Reg.BD_CLK]; done) | intro _ | with_reducible apply State.mapUnit_hale | with_reducible apply hale_ite | fail_if_no_progress with_reducible refine hale_mk ?_ rfl rfl | split | dsimp only | decide

theorem State.startGroup_hale (h : s0.Hale s) {g : Group} : s0.Hale (State.startGroup s g) := by
  unfold State.startGroup
  try dsimp only
  repeat' first | with_reducible assumption | with_reducible rfl | decide | (simp [haleRegs, Reg.HL_CORE, Reg.BD_CLK]; done) | intro _ | with_reducible apply State.bump_hale | with_reducible apply State.mapUnit_hale | with_reducible apply State.mapResult_hale | with_reducible apply hale_ite | with_reducible apply hale_foldl | fail_if_no_progress with_reducible refine hale_mk ?_ rfl rfl | split | dsimp only | decide

theorem State.startGroups_hale (h : s0.Hale s) {die cluster : Nat} : s0.Hale (State.startGroups s die cluster) := by
  unfold State.startGroups
  try dsimp only
  repeat' first | with_reducible assumption | with_reducible rfl | decide | (simp [haleRegs, Reg.HL_CORE, Reg.BD_CLK]; done) | intro _ | with_reducible apply State.startGroup_hale | with_reducible apply hale_ite | with_reducible apply hale_foldl | split | dsimp only | decide

theorem State.pumpUnit_hale (h : s0.Hale s) {r : Result} {u : AttnUnit} : s0.Hale (State.pumpUnit s r u) := by
  unfold State.pumpUnit
  try dsimp only
  repeat' first | with_reducible assumption | with_reducible rfl | decide | (simp [haleRegs, Reg.HL_CORE, Reg.BD_CLK]; done) | intro _ | with_reducible apply State.waitPage_hale | with_reducible apply State.mapUnit_hale | with_reducible apply State.bump_hale | with_reducible apply State.startUnit_hale | with_reducible apply hale_ite | fail_if_no_progress with_reducible refine hale_mk ?_ rfl rfl | split | dsimp only | decide

theorem State.pump_hale (h : s0.Hale s) {die cluster : Nat} : s0.Hale (State.pump s die cluster) := by
  unfold State.pump
  try dsimp only
  repeat' first | with_reducible assumption | with_reducible rfl | decide | (simp [haleRegs, Reg.HL_CORE, Reg.BD_CLK]; done) | intro _ | with_reducible apply State.pumpUnit_hale | with_reducible apply State.startGroups_hale | with_reducible apply hale_ite | with_reducible apply hale_foldl | split | dsimp only | decide

theorem State.portDown_hale (h : s0.Hale s) {p : Nat} : s0.Hale (State.portDown s p) := by
  unfold State.portDown
  try dsimp only
  repeat' first | with_reducible assumption | with_reducible rfl | decide | (simp [haleRegs, Reg.HL_CORE, Reg.BD_CLK]; done) | intro _ | with_reducible apply State.mapResult_hale | with_reducible apply State.settle_hale | with_reducible apply State.setPort_hale | with_reducible apply State.resetClass_hale | with_reducible apply State.setFld_hale | with_reducible apply State.bump_hale | with_reducible apply State.raise_hale | with_reducible apply hale_ite | with_reducible apply hale_foldl | fail_if_no_progress with_reducible refine hale_mk ?_ rfl rfl | split | dsimp only | decide

end Sys2Proof.Machine
end

