-- ==== Sys2Proof/Laws/Rationed.lean ====
section
/-! SUPPORT. What leaves the limits of events alone. -/

namespace Sys2Proof.Machine

/-- `b` has the limits of events of `a`. -/
structure State.Rationed (a b : State) : Prop where
  once : b.ev.once = a.ev.once
  ibi : b.ev.lastStepEnd = a.ev.lastStepEnd

variable {s0 s t : State}

theorem rationed_refl (s : State) : s.Rationed s := ⟨rfl, rfl⟩

theorem rationed_trans (h : s0.Rationed s) (h' : s.Rationed t) : s0.Rationed t :=
  ⟨h'.once.trans h.once, h'.ibi.trans h.ibi⟩

/-- A change elsewhere. -/
theorem rationed_mk (h : s0.Rationed s) {now : Nat} {pending : List Instr} {free : Nat} {regs : List (RegKey × Word)} {bcn : Beacon}
    {ev : Events} {ses : Sessions} {kv : Kv} {attn : Attn} {grams : List ((Nat × Nat) × Gram)} {net : Net} {lamp : Lamp}
    {tier : Tier} {start : Start} {flash : Flash} {ident : Ident} {ckpt : Ckpt} {health : Health} {rp : Replay} {pins : Pins}
    (e0 : ev.once = s.ev.once) (e1 : ev.lastStepEnd = s.ev.lastStepEnd) :
    s0.Rationed ⟨now, pending, free, regs, bcn, ev, ses, kv, attn, grams, net, lamp, tier, start, flash, ident, ckpt, health, rp,
      pins⟩ := ⟨e0.trans h.once, e1.trans h.ibi⟩

theorem rationed_ite {c : Prop} [Decidable c] (h : s0.Rationed s) (h' : s0.Rationed t) : s0.Rationed (if c then s else t) := by
  split <;> assumption

theorem rationed_foldl {α : Type} {f : State → α → State} (hf : ∀ s x, s0.Rationed s → s0.Rationed (f s x)) (l : List α)
    (h : s0.Rationed s) : s0.Rationed (l.foldl f s) := by
  induction l generalizing s with
  | nil => exact h
  | cons x l ih => exact ih (hf s x h)

theorem State.setReg_rationed (h : s0.Rationed s) {die sel : Nat} {r : RegId} {w : Word} : s0.Rationed (s.setReg die sel r w) := rationed_mk h rfl rfl
theorem State.setFld_rationed (h : s0.Rationed s) {die sel : Nat} {f : Field} {v : Nat} : s0.Rationed (s.setFld die sel f v) := rationed_mk h rfl rfl
theorem State.bumpBy_rationed (h : s0.Rationed s) {die sel : Nat} {f : Field} {n : Nat} : s0.Rationed (s.bumpBy die sel f n) := rationed_mk h rfl rfl
theorem State.bump_rationed (h : s0.Rationed s) {die sel : Nat} {f : Field} : s0.Rationed (s.bump die sel f) := rationed_mk h rfl rfl
theorem State.lower_rationed (h : s0.Rationed s) {die sel : Nat} {f : Field} {n : Nat} : s0.Rationed (s.lower die sel f n) := rationed_mk h rfl rfl
theorem State.setSess_rationed (h : s0.Rationed s) {slot : Nat} {r : Session} : s0.Rationed (s.setSess slot r) := rationed_mk h rfl rfl
theorem State.setPort_rationed (h : s0.Rationed s) {p : Nat} {x : Port} : s0.Rationed (s.setPort p x) := rationed_mk h rfl rfl
theorem State.setPoolFree_rationed (h : s0.Rationed s) {die tier n : Nat} : s0.Rationed (s.setPoolFree die tier n) := by
  unfold State.setPoolFree
  dsimp only
  exact State.setReg_rationed h

set_option linter.unusedTactic false
set_option linter.unreachableTactic false

theorem State.settle_rationed (h : s0.Rationed s) {p : Nat} : s0.Rationed (State.settle s p) := by
  unfold State.settle
  try dsimp only
  repeat' first | with_reducible assumption | with_reducible rfl | intro _ | with_reducible apply State.setPort_rationed | with_reducible apply rationed_ite | with_reducible apply rationed_foldl | fail_if_no_progress with_reducible refine rationed_mk ?_ rfl rfl | split | dsimp only | decide

theorem State.enqueue_rationed (h : s0.Rationed s) {p cls flow len : Nat} {result : Option (Nat × ResKey)} {body : FrameBody} : s0.Rationed (State.enqueue s p cls flow len result body) := by
  unfold State.enqueue
  try dsimp only
  repeat' first | with_reducible assumption | with_reducible rfl | with_reducible apply State.settle_rationed | with_reducible apply State.setPort_rationed | with_reducible apply rationed_ite | fail_if_no_progress with_reducible refine rationed_mk ?_ rfl rfl | split | dsimp only | decide

theorem State.countHeld_rationed (h : s0.Rationed s) {p : Nat} : s0.Rationed (State.countHeld s p) := by
  unfold State.countHeld
  try dsimp only
  repeat' first | with_reducible assumption | with_reducible rfl | intro _ | with_reducible apply State.setPort_rationed | with_reducible apply State.bump_rationed | with_reducible apply rationed_ite | with_reducible apply rationed_foldl | fail_if_no_progress with_reducible refine rationed_mk ?_ rfl rfl | split | dsimp only | decide

theorem State.noteReturn_rationed (h : s0.Rationed s) {r : Result} : s0.Rationed (State.noteReturn s r) := by
  unfold State.noteReturn
  try dsimp only
  repeat' first | with_reducible assumption | with_reducible rfl | intro _ | with_reducible apply State.bump_rationed | with_reducible apply rationed_ite | fail_if_no_progress with_reducible refine rationed_mk ?_ rfl rfl | split | dsimp only | decide

theorem State.markStarted_rationed (h : s0.Rationed s) {p : Nat} {f : QFrame} : s0.Rationed (State.markStarted s p f) := by
  unfold State.markStarted
  try dsimp only
  repeat' first | with_reducible assumption | with_reducible rfl | intro _ | with_reducible apply State.noteReturn_rationed | with_reducible apply State.setPort_rationed | with_reducible apply rationed_ite | fail_if_no_progress with_reducible refine rationed_mk ?_ rfl rfl | split | dsimp only | decide

theorem State.untrack_rationed (h : s0.Rationed s) {k : KeyRef} {reqId : Nat} : s0.Rationed (State.untrack s k reqId) := by
  unfold State.untrack
  try dsimp only
  repeat' first | with_reducible assumption | with_reducible rfl | intro _ | with_reducible apply rationed_ite | fail_if_no_progress with_reducible refine rationed_mk ?_ rfl rfl | split | dsimp only | decide

theorem State.untrackFrame_rationed (h : s0.Rationed s) {f : QFrame} : s0.Rationed (State.untrackFrame s f) := by
  unfold State.untrackFrame
  try dsimp only
  repeat' first | with_reducible assumption | with_reducible rfl | with_reducible apply State.untrack_rationed | with_reducible apply rationed_ite | fail_if_no_progress with_reducible refine rationed_mk ?_ rfl rfl | split | dsimp only | decide

theorem State.pick_rationed (h : s0.Rationed s) {p : Nat} : s0.Rationed (State.pick s p) := by
  unfold State.pick
  try dsimp only
  repeat' first | with_reducible assumption | with_reducible rfl | with_reducible apply State.settle_rationed | with_reducible apply State.countHeld_rationed | with_reducible apply State.setPort_rationed | with_reducible apply State.markStarted_rationed | with_reducible apply State.untrackFrame_rationed | with_reducible apply rationed_ite | fail_if_no_progress with_reducible refine rationed_mk ?_ rfl rfl | split | dsimp only | decide

theorem State.send_rationed (h : s0.Rationed s) {p cls flow len : Nat} {result : Option (Nat × ResKey)} {body : FrameBody} : s0.Rationed (State.send s p cls flow len result body) := by
  unfold State.send
  try dsimp only
  repeat' first | with_reducible assumption | with_reducible rfl | with_reducible apply State.enqueue_rationed | with_reducible apply State.pick_rationed | with_reducible apply rationed_ite | split | dsimp only | decide

theorem State.sendSeg_rationed (h : s0.Rationed s) {d : Dest} {kind type status reason reqId : Nat} {response : Bool} {result : Option (Nat × ResKey)} {count len : Nat} {seg : Nat × List Byte} : s0.Rationed (State.sendSeg s d kind type status reason reqId response result count len seg) := by
  unfold State.sendSeg
  try dsimp only
  repeat' first | with_reducible assumption | with_reducible rfl | with_reducible apply State.send_rationed | with_reducible apply rationed_ite | fail_if_no_progress with_reducible refine rationed_mk ?_ rfl rfl | split | dsimp only | decide

theorem State.sendMsg_rationed (h : s0.Rationed s) {d : Dest} {kind type status reason reqId : Nat} {response : Bool} {result : Option (Nat × ResKey)} {body : List Byte} : s0.Rationed (State.sendMsg s d kind type status reason reqId response result body) := by
  unfold State.sendMsg
  try dsimp only
  repeat' first | with_reducible assumption | with_reducible rfl | intro _ | with_reducible apply State.sendSeg_rationed | with_reducible apply rationed_ite | with_reducible apply rationed_foldl | fail_if_no_progress with_reducible refine rationed_mk ?_ rfl rfl | split | dsimp only | decide

theorem State.setRing_rationed (h : s0.Rationed s) {die : Nat} {l : List EvtRec} : s0.Rationed (State.setRing s die l) := by
  unfold State.setRing
  try dsimp only
  repeat' first | with_reducible assumption | with_reducible rfl | with_reducible apply rationed_ite | fail_if_no_progress with_reducible refine rationed_mk ?_ rfl rfl | split | dsimp only | decide

theorem State.setAlerts_rationed (h : s0.Rationed s) {die : Nat} {l : List Nat} : s0.Rationed (State.setAlerts s die l) := by
  unfold State.setAlerts
  try dsimp only
  repeat' first | with_reducible assumption | with_reducible rfl | with_reducible apply rationed_ite | fail_if_no_progress with_reducible refine rationed_mk ?_ rfl rfl | split | dsimp only | decide

theorem State.eventFrame_rationed (h : s0.Rationed s) {sub : Sub} {r : EvtRec} : s0.Rationed (State.eventFrame s sub r) := by
  unfold State.eventFrame
  try dsimp only
  repeat' first | with_reducible assumption | with_reducible rfl | with_reducible apply State.sendMsg_rationed | with_reducible apply rationed_ite | fail_if_no_progress with_reducible refine rationed_mk ?_ rfl rfl | split | dsimp only | decide

theorem State.ibi_rationed (h : s0.Rationed s) {byte : Nat} : s0.Rationed (State.ibi s byte) := by
  unfold State.ibi
  try dsimp only
  repeat' first | with_reducible assumption | with_reducible rfl | with_reducible apply rationed_ite | fail_if_no_progress with_reducible refine rationed_mk ?_ rfl rfl | split | dsimp only | decide

theorem State.logEvent_rationed (h : s0.Rationed s) {die : Nat} {r : EvtRec} : s0.Rationed (State.logEvent s die r) := by
  unfold State.logEvent
  try dsimp only
  repeat' first | with_reducible assumption | with_reducible rfl | with_reducible apply State.setRing_rationed | with_reducible apply State.setFld_rationed | with_reducible apply State.setAlerts_rationed | with_reducible apply State.ibi_rationed | with_reducible apply rationed_ite | split | dsimp only | decide

theorem State.raise_rationed (h : s0.Rationed s) {die sub : Nat} {a : EvtArgs} : s0.Rationed (State.raise s die sub a) := by
  unfold State.raise
  try dsimp only
  repeat' first | with_reducible assumption | with_reducible rfl | intro _ | with_reducible apply State.eventFrame_rationed | with_reducible apply State.logEvent_rationed | with_reducible apply rationed_ite | with_reducible apply rationed_foldl | split | dsimp only | decide

end Sys2Proof.Machine
end

