-- ==== Sys2Proof/Laws/HealthCmds.lean ====
section
/-! SUPPORT. Helpers about core faults, lamplighters, plans and measurements. -/

namespace Sys2Proof.Machine

variable {s s0 t : State}

theorem setMap_core (s : State) (die cl core : Nat) (v : Bool) {f : Field} (hf : f.reg = Reg.HL_CORE) (hc : core ≤ 16) :
    (s.setMap die (coreBit cl core) v).fld die cl f = s.fld die cl f := by
  unfold State.setMap
  refine fld_setReg_ne s _ ?_
  by_cases h : cl = 0
  · subst h
    refine .inr (.inr ?_)
    rw [hf]
    intro e
    have h1 : (17 * 0 + core) / 64 = 0 := by omega
    unfold mapReg coreBit at e
    rw [h1] at e
    exact absurd e (by decide)
  · exact .inr (.inl h)

theorem takeOut_spec (s : State) (die cl core : Nat) (hc : core ≤ 16) (h : s.coreOut die cl core = false) :
    (s.takeOut die cl core).coreOut die cl core = true ∧ (s.takeOut die cl core).health = s.health
    ∧ ∀ f : Field, f.reg = Reg.HL_CORE → f.lo ≤ f.hi → 16 < f.lo → (s.takeOut die cl core).fld die cl f = s.fld die cl f := by
  unfold State.takeOut
  rw [if_neg (by rw [h]; decide)]
  refine ⟨?_, rfl, fun f hf h1 h2 => ?_⟩
  · unfold State.coreOut at h ⊢
    rw [setMap_core _ _ _ _ _ rfl hc, fld_setFld_self _ _ _ _ _ (by decide) (by decide)]
    generalize hx : s.fld die cl Fld.HL_CORE_OUT = x at h ⊢
    have hlt : x < 2 ^ 17 := hx ▸ fld_lt s die cl Fld.HL_CORE_OUT
    have h0 : x / 2 ^ core % 2 = 0 := by
      have : x / 2 ^ core % 2 ≠ 1 := fun e => by rw [e] at h; exact absurd h (by decide)
      omega
    have hm : (x + 2 ^ core) / 2 ^ core = x / 2 ^ core + 1 := Nat.add_div_right _ (Nat.two_pow_pos _)
    have hb : x + 2 ^ core < 2 ^ 17 := by
      have hp := Nat.div_add_mod x (2 ^ core)
      have hr := Nat.mod_lt x (Nat.two_pow_pos core)
      have hd : 2 ^ core * (2 * 2 ^ (16 - core)) = 2 ^ 17 := by
        rw [← Nat.pow_succ', ← Nat.pow_add]
        congr 1
        omega
      have hq : x / 2 ^ core < 2 * 2 ^ (16 - core) := Nat.div_lt_of_lt_mul (by rw [hd]; exact hlt)
      have hq' : x / 2 ^ core + 2 ≤ 2 * 2 ^ (16 - core) := by omega
      have := Nat.mul_le_mul_left (2 ^ core) hq'
      rw [hd, Nat.mul_add] at this
      omega
    rw [show (2 : Nat) ^ (Fld.HL_CORE_OUT.hi - Fld.HL_CORE_OUT.lo + 1) = 2 ^ 17 from rfl, Nat.mod_eq_of_lt hb, hm, beq_iff_eq]
    omega
  · rw [setMap_core _ _ _ _ _ hf hc, fld_setFld_other _ _ (by decide) (by decide) h1 (.inr h2)]

theorem hale_core (h : s.Hale t) (die cl : Nat) {f : Field} (hf : f.reg = Reg.HL_CORE) : t.fld die cl f = s.fld die cl f := by
  unfold State.fld
  rw [hf, h.reg _ _ _ (by decide)]

theorem hale_out (h : s.Hale t) (die cl core : Nat) : t.coreOut die cl core = s.coreOut die cl core := by
  unfold State.coreOut
  rw [hale_core h _ _ rfl]

theorem hale_spare (h : s.Hale t) (die cl : Nat) : t.spare die cl = s.spare die cl := hale_core h _ _ rfl

theorem rerun_hale (h : s0.Hale s) (die cl core : Nat) : s0.Hale (s.rerun die cl core) := by
  unfold State.rerun
  exact State.bumpBy_hale (hale_mk h rfl rfl) (by decide)

theorem dropCopies_hale (h : s0.Hale s) (die cl core : Nat) : s0.Hale (s.dropCopies die cl core) := by
  unfold State.dropCopies
  refine hale_foldl (fun s c h => ?_) _ h
  dsimp only
  refine hale_ite ?_ ?_
  · exact State.dealloc_hale (hale_mk h rfl rfl)
  · exact h

theorem spare_out (s : State) (die cl : Nat) {f : Field} {v : Nat} (core : Nat) (h6 : f.hi < 64) (hl : f.lo ≤ f.hi)
    (hd : 16 < f.lo) : (s.setFld die cl f v).coreOut die cl core = s.coreOut die cl core := by
  unfold State.coreOut
  rw [fld_setFld_other _ _ h6 hl (by decide) (.inl hd)]

theorem coreFault_spec (s : State) (die cl core : Nat) (hc : core ≤ 16) (h : s.coreOut die cl core = false) :
    (s.coreFault die cl core).coreOut die cl core = true
    ∧ ((core < 16 ∨ s.spare die cl = 2) → (s.coreFault die cl core).fld die cl Fld.HL_CORE_FENCED = 1
      ∧ (s.coreFault die cl core).fld die cl Fld.HL_CORE_FENCED_LOG = s.logicalOf die cl core % 16
      ∧ (s.spare die cl = 0 → (s.coreFault die cl core).spare die cl = 1)
      ∧ (s.spare die cl ≠ 0 → (s.coreFault die cl core).spare die cl = s.spare die cl
        ∧ (die, cl, s.logicalOf die cl core) ∈ (s.coreFault die cl core).health.unmapped))
    ∧ (core = 16 → s.spare die cl ≠ 2 → (s.coreFault die cl core).spare die cl = 3) := by
  unfold State.coreFault
  rw [if_neg (by rw [h]; simp; omega)]
  extract_lets log spare unit w0 w1 x1 w2 w3 w4 x2 w5
  have h0 : w0.coreOut die cl core = true ∧ w0.health = s.health ∧ ∀ f : Field, f.reg = Reg.HL_CORE → f.lo ≤ f.hi → 16 < f.lo →
      w0.fld die cl f = s.fld die cl f := by
    have hb : s.Hale (s.bump die 0 Fld.HL_COUNTS_FENCED) := State.bump_hale (hale_refl s) (by decide)
    have := takeOut_spec (s.bump die 0 Fld.HL_COUNTS_FENCED) die cl core hc ((hale_out hb _ _ _).trans h)
    exact ⟨this.1, this.2.1.trans hb.health, fun f h1 h2 h3 => (this.2.2 f h1 h2 h3).trans (hale_core hb _ _ h1)⟩
  have hsp : w0.spare die cl = s.spare die cl := h0.2.2 _ rfl (by decide) (by decide)
  have hlog : log = s.logicalOf die cl core := rfl
  have hspare : spare = s.spare die cl := rfl
  have hl16 : log < 16 ∨ (core < 16 → False) := by
    by_cases h' : core < 16
    · left
      rw [hlog]
      unfold State.logicalOf
      rw [if_neg (by omega)]
      exact h'
    · exact .inr h'
  rw [← hlog, ← hspare]
  clear_value w0 log spare unit
  split
  · rename_i hA
    refine ⟨?_, fun h' => absurd h' (by rintro (h' | h') <;> omega), fun _ _ => ?_⟩
    · have h1 : w1.coreOut die cl core = true := (hale_out (State.raise_hale (hale_refl _)) _ _ _).trans
        ((spare_out w0 die cl core (by decide) (by decide) (by decide)).trans h0.1)
      split
      · exact (hale_out (State.pump_hale (State.raise_hale (hale_refl _))) _ _ _).trans h1
      · exact h1
    · have h1 : w1.spare die cl = 3 := (hale_spare (State.raise_hale (hale_refl _)) _ _).trans
        (fld_setFld_self _ _ _ _ _ (by decide) (by decide))
      split
      · exact (hale_spare (State.pump_hale (State.raise_hale (hale_refl _))) _ _).trans h1
      · exact h1
  · rename_i hB
    have h2 : w0.Hale w2 := dropCopies_hale (rerun_hale (hale_refl _) _ _ _) _ _ _
    have h3 : w3.coreOut die cl core = true := by
      refine (spare_out _ die cl core (by decide) (by decide) (by decide)).trans ?_
      refine (spare_out _ die cl core (by decide) (by decide) (by decide)).trans ?_
      exact (hale_out h2 _ _ _).trans h0.1
    have h3a : w3.fld die cl Fld.HL_CORE_FENCED = 1 := by
      refine (fld_setFld_other _ _ (by decide) (by decide) (by decide) (by decide) _ _).trans ?_
      exact fld_setFld_self _ _ _ _ _ (by decide) (by decide)
    have h3b : w3.fld die cl Fld.HL_CORE_FENCED_LOG = log % 16 := fld_setFld_self _ _ _ _ _ (by decide) (by decide)
    have h3c : w3.spare die cl = spare := by
      refine (fld_setFld_other _ _ (by decide) (by decide) (by decide) (by decide) _ _).trans ?_
      refine (fld_setFld_other _ _ (by decide) (by decide) (by decide) (by decide) _ _).trans ?_
      exact (hale_spare h2 _ _).trans (hsp.trans hspare.symm)
    have h4 : w3.Hale w4 := State.raise_hale (hale_refl _)
    clear_value w4 w3
    have h5 : w5.coreOut die cl core = true ∧ w5.fld die cl Fld.HL_CORE_FENCED = 1 ∧ w5.fld die cl Fld.HL_CORE_FENCED_LOG = log % 16
        ∧ (spare = 0 → w5.spare die cl = 1) ∧ (spare ≠ 0 → w5.spare die cl = spare ∧ (die, cl, log) ∈ w5.health.unmapped) := by
      unfold w5
      split
      · rename_i hz
        refine ⟨(spare_out _ die cl core (by decide) (by decide) (by decide)).trans ((hale_out h4 _ _ _).trans h3), ?_, ?_, fun _ => ?_, fun e => absurd hz e⟩
        · exact (fld_setFld_other _ _ (by decide) (by decide) (by decide) (by decide) _ _).trans ((hale_core h4 _ _ rfl).trans h3a)
        · exact (fld_setFld_other _ _ (by decide) (by decide) (by decide) (by decide) _ _).trans ((hale_core h4 _ _ rfl).trans h3b)
        · exact fld_setFld_self _ _ _ _ _ (by decide) (by decide)
      · rename_i hz
        have hq : ∀ y : State, y.regs = w4.regs → (die, cl, log) ∈ y.health.unmapped →
            (y.raise die 0x8B { alert := true, unit }).coreOut die cl core = true ∧ (y.raise die 0x8B { alert := true, unit }).fld die cl Fld.HL_CORE_FENCED = 1
            ∧ (y.raise die 0x8B { alert := true, unit }).fld die cl Fld.HL_CORE_FENCED_LOG = log % 16
            ∧ (spare = 0 → (y.raise die 0x8B { alert := true, unit }).spare die cl = 1)
            ∧ (spare ≠ 0 → (y.raise die 0x8B { alert := true, unit }).spare die cl = spare
              ∧ (die, cl, log) ∈ (y.raise die 0x8B { alert := true, unit }).health.unmapped) := by
          intro y e hm
          have hh : y.Hale (y.raise die 0x8B { alert := true, unit }) := State.raise_hale (hale_refl _)
          have hf : ∀ f : Field, f.reg = Reg.HL_CORE → (y.raise die 0x8B { alert := true, unit }).fld die cl f = w3.fld die cl f := fun f hf => by
            rw [hale_core hh _ _ hf, ← hale_core h4 _ _ hf]
            unfold State.fld State.reg
            rw [e]
          generalize y.raise die 0x8B { alert := true, unit } = z at hh hf
          refine ⟨?_, (hf _ rfl).trans h3a, (hf _ rfl).trans h3b, fun e => absurd e hz, fun _ => ⟨(hf _ rfl).trans h3c, hh.health ▸ hm⟩⟩
          unfold State.coreOut at h3 ⊢
          rw [hf _ rfl]
          exact h3
        exact hq _ rfl List.mem_cons_self
    clear_value w5
    have h6 : w5.Hale (w5.pump die cl) := State.pump_hale (hale_refl _)
    refine ⟨(hale_out h6 _ _ _).trans h5.1, fun _ => ⟨(hale_core h6 _ _ rfl).trans h5.2.1, (hale_core h6 _ _ rfl).trans h5.2.2.1,
      fun e => (hale_spare h6 _ _).trans (h5.2.2.2.1 e), fun e => ⟨(hale_spare h6 _ _).trans (h5.2.2.2.2 e).1, ?_⟩⟩, fun h1 h2 => absurd ⟨h1, h2⟩ hB⟩
    rw [h6.health]
    exact (h5.2.2.2.2 e).2

theorem remap_spec (s : State) (die cl : Nat) (h : s.health.spareOk = [(die, cl)]) : (s.remap die cl).spare die cl = 2
    ∧ (s.remap die cl).fld die cl Fld.HL_CORE_FENCED = 0 ∧ (s.remap die cl).health.spareOk = [] := by
  unfold State.remap
  extract_lets _ _ w1
  have h1 : w1.spare die cl = 2 ∧ w1.fld die cl Fld.HL_CORE_FENCED = 0 ∧ w1.health.spareOk = [] := by
    refine ⟨(fld_setFld_other _ _ (by decide) (by decide) (by decide) (by decide) _ _).trans (fld_setFld_self _ _ _ _ _ (by decide) (by decide)),
      fld_setFld_self _ _ _ _ _ (by decide) (by decide), ?_⟩
    show s.health.spareOk.erase (die, cl) = []
    rw [h]
    simp
  clear_value w1
  have h2 : w1.Hale ((w1.raise die 0x89 { unit := unitCode 1 die cl 16 }).pump die cl) := State.pump_hale (State.raise_hale (hale_refl _))
  refine ⟨(hale_spare h2 _ _).trans h1.1, (hale_core h2 _ _ rfl).trans h1.2.1, ?_⟩
  rw [h2.health]
  exact h1.2.2

theorem remapIdle_one (s : State) (die cl : Nat) (h : s.health.spareOk = [(die, cl)]) (hf : s.fires = false)
    (hn : ¬(s.attn.results.any (fun r => slotDie r.slot == die && s.home r.slot == cl && r.units.any (fun u => u.st == .running))) = true) :
    s.remapIdle = s.remap die cl := by
  unfold State.remapIdle
  rw [if_neg (by rw [hf]; decide), h, List.foldl_cons, List.foldl_nil, if_neg hn]

theorem supOut_spec (s : State) (die : Nat) : (s.supOut die).supGone die = true ∧ (s.supOut die).fld die 0 Fld.LP_STATUS_SUP_OK = 0
    ∧ (s.supOut die).lamp.cores = s.lamp.cores := by
  unfold State.supOut
  have hh := State.raise_reported (reported_refl ((s.setFld die 0 Fld.LP_STATUS_SUP_OK 0).setMap die supBit true)) (die := die) (sub := 0x8B)
    (a := { alert := true, unit := coreUnit die 9 })
  refine ⟨?_, ?_, (State.raise_housed (housed_refl _)).cores⟩
  · unfold State.supGone
    rw [hh.reg _ _ _ (by decide)]
    have h : getBits ((s.setFld die 0 Fld.LP_STATUS_SUP_OK 0).setMap die supBit true |>.reg die 0 (mapReg supBit)) 57 57 = 1 := by
      unfold State.setMap State.reg State.setReg
      rw [regGet_regSet_self]
      exact getBits_setBits (by decide) (by decide) _ _
    rw [beq_iff_eq, ← h]
    unfold getBits
    rw [BitVec.extractLsb'_toNat, Nat.shiftRight_eq_div_pow]
    rfl
  · rw [raise_fld _ _ _ _ _ _ (by decide)]
    unfold State.setMap
    rw [fld_setReg_ne _ _ (.inr (.inr (by decide)))]
    exact fld_setFld_self _ _ _ _ _ (by decide) (by decide)

theorem mismatch_spec (s : State) (die : Nat) : ((s.mismatch die).core die 9).halted = true
    ∧ ((s.mismatch die).core die 9).mismatches = (s.core die 9).mismatches + 1 ∧ (s.mismatch die).fld die 0 Fld.LP_STATUS_SUP_OK = 0
    ∧ (s.fld die 0 Fld.HL_CTRL_SUP_RETRY ≤ (s.core die 9).mismatches + 1 → (s.mismatch die).supGone die = true) := by
  unfold State.mismatch
  extract_lets w0 c w1 w2
  have hc : c = w0.core die 9 := rfl
  have hc0 : c = s.core die 9 := hc.trans (core_of rfl _ _)
  have h1 : w1.core die 9 = { c with halted := true, asleep := none, mismatches := c.mismatches + 1 } :=
    core_setCore' w0 { c with halted := true, asleep := none, mismatches := c.mismatches + 1 } die 9 (hc ▸ (core_at w0 die 9).1) (hc ▸ (core_at w0 die 9).2)
  have h2 : w2.core die 9 = w1.core die 9 := core_of (State.raise_housed (housed_refl _)).cores _ _
  have hs : w2.fld die 0 Fld.LP_STATUS_SUP_OK = 0 := by
    refine (raise_fld _ _ _ _ _ _ (by decide)).trans ?_
    refine (fld_setReg_ne _ _ (.inr (.inr (by decide)))).trans ?_
    exact fld_setFld_self _ _ _ _ _ (by decide) (by decide)
  have hr : w2.fld die 0 Fld.HL_CTRL_SUP_RETRY = s.fld die 0 Fld.HL_CTRL_SUP_RETRY := by
    refine (raise_fld _ _ _ _ _ _ (by decide)).trans ?_
    refine (fld_setReg_ne _ _ (.inr (.inr (by decide)))).trans ?_
    refine Eq.trans (b := w1.fld die 0 Fld.HL_CTRL_SUP_RETRY) (fld_setFld_reg _ _ (by decide)) ?_
    refine Eq.trans (b := w0.fld die 0 Fld.HL_CTRL_SUP_RETRY) rfl ?_
    unfold w0 State.bump State.bumpBy
    exact fld_setFld_reg _ _ (by decide)
  rw [← hc0]
  clear_value w2
  have hm : (w2.core die 9).halted = true ∧ (w2.core die 9).mismatches = c.mismatches + 1 := by
    rw [h2, h1]
    exact ⟨rfl, rfl⟩
  split
  · obtain ⟨h3, h4, h5⟩ := supOut_spec w2 die
    rw [core_of h5]
    exact ⟨hm.1, hm.2, h4, fun _ => h3⟩
  · rename_i hn
    rw [hr] at hn
    exact ⟨hm.1, hm.2, hs, fun h => absurd h hn⟩

theorem vreq_spec (s : State) (q : VReq) : (s.vreq q).health = s.health ∧ (s.vreq q).fld 0 0 Fld.BD_VREQ_PENDING = 1
    ∧ (s.vreq q).fld 0 0 Fld.BD_VREQ_RAIL = q.rail % 16 ∧ (s.vreq q).fld 0 0 Fld.BD_VREQ_MV = q.mv % 2 ^ 16
    ∧ ∀ f : Field, f.reg ≠ Reg.BD_VREQ → (s.vreq q).fld 0 0 f = s.fld 0 0 f := by
  unfold State.vreq
  extract_lets w0 w1
  have hi : ∀ (x : State) (f : Field), (x.ibi 0x02).fld 0 0 f = x.fld 0 0 f ∧ (x.ibi 0x02).health = x.health := by
    intro x f
    unfold State.ibi
    split <;> exact ⟨rfl, rfl⟩
  refine ⟨(hi _ Fld.BD_VREQ_MV).2, (hi _ _).1.trans ?_, (hi _ _).1.trans ?_, (hi _ _).1.trans ?_, fun f hf => (hi _ _).1.trans ?_⟩
  · exact fld_setFld_self _ _ _ _ _ (by decide) (by decide)
  · refine (fld_setFld_other _ _ (by decide) (by decide) (by decide) (by decide) _ _).trans ?_
    refine (fld_setFld_other _ _ (by decide) (by decide) (by decide) (by decide) _ _).trans ?_
    exact fld_setFld_self _ _ _ _ _ (by decide) (by decide)
  · refine (fld_setFld_other _ _ (by decide) (by decide) (by decide) (by decide) _ _).trans ?_
    exact fld_setFld_self _ _ _ _ _ (by decide) (by decide)
  · refine (fld_setFld_reg _ _ hf).trans ((fld_setFld_reg _ _ hf).trans ((fld_setFld_reg _ _ hf).trans ?_))
    exact fld_setFld_reg _ _ hf

theorem rises_of (h : ∀ f : Field, f = Fld.HL_PLAN_STATUS_VSRAM_MV ∨ f = Fld.HL_PLAN_STATUS_VCORE_MV → t.fld 0 0 f = s.fld 0 0 f) (p : Plan) :
    t.rises p = s.rises p := by
  unfold State.rises
  rw [h _ (.inl rfl), h _ (.inr rfl)]

theorem beginPlan_go (x : State) (p : Plan) (h1 : x.health.plan = none) (h2 : x.health.nextPlan = some p) (q : VReq) (l : List VReq)
    (hr : x.rises p = q :: l) : ∃ y : State, x.beginPlan = y.vreq q ∧ y.health.plan = some { p with reqs := q :: l, since := x.now }
    ∧ y.health.nextPlan = none := by
  unfold State.beginPlan
  rw [h1, h2]
  dsimp only
  have e : ({ x with health := { x.health with nextPlan := none } }.setFld 0 0 Fld.HL_PLAN_STATUS_PENDING 0).rises p = q :: l := by
    rw [← hr]
    refine rises_of (fun f hf => ?_) p
    rcases hf with rfl | rfl
    · exact fld_setFld_other _ _ (by decide) (by decide) (by decide) (by decide) _ _
    · exact fld_setFld_other _ _ (by decide) (by decide) (by decide) (by decide) _ _
  rw [e]
  exact ⟨_, rfl, rfl, rfl⟩

theorem nextReq_go (x : State) (p : Plan) (r : VReq) (m : List VReq) : ∃ y : State, x.nextReq p (r :: m) = y.vreq r
    ∧ y.health.plan = some { p with reqs := r :: m, since := x.now } ∧ ∀ f, y.fld 0 0 f = x.fld 0 0 f := ⟨_, rfl, rfl, fun _ => rfl⟩

theorem endPlan_spec (x : State) (p : Plan) : (x.endPlan p).health.plan = none ∧ (x.endPlan p).fld 0 0 Fld.HL_PLAN_STATUS_REFRESH = p.refresh % 4
    ∧ ∀ f : Field, f.reg ∉ chatter → f ≠ Fld.HL_PLAN_STATUS_REFRESH → f.lo ≤ f.hi → (f.reg = Reg.HL_PLAN_STATUS → f.hi < 43) → (x.endPlan p).fld 0 0 f = x.fld 0 0 f := by
  unfold State.endPlan
  refine ⟨?_, ?_, fun f hf _ hl hn => ?_⟩
  · rw [(State.raise_reported (reported_refl _)).health]
    rfl
  · rw [raise_fld _ _ _ _ _ _ (by decide)]
    exact fld_setFld_self _ _ _ _ _ (by decide) (by decide)
  · rw [raise_fld _ _ _ _ _ _ hf]
    by_cases e : f.reg = Reg.HL_PLAN_STATUS
    · exact fld_setFld_other _ _ (by decide) (by decide) hl (.inl (hn e)) _ _
    · exact fld_setFld_reg _ _ e

/-- An acknowledged request (R463): what stands after PENDING and the voltage. -/
theorem vack_go (s : State) (v : Word) (p : Plan) (q : VReq) (l : List VReq) (h1 : s.health.plan = some p) (h2 : p.reqs = q :: l)
    (h3 : s.fld 0 0 Fld.BD_VREQ_PENDING = 1) (h4 : getBits v 55 48 = s.fld 0 0 Fld.BD_VREQ_SEQ) (h5 : getBits v 15 0 = q.mv) :
    ∃ y : State, s.vack v = y.nextReq p l ∧ y.now = s.now ∧ y.fld 0 0 Fld.BD_VREQ_PENDING = 0
      ∧ (q.rail = 0 → y.fld 0 0 Fld.HL_PLAN_STATUS_VCORE_MV = q.mv) ∧ (q.rail ≠ 0 → y.fld 0 0 Fld.HL_PLAN_STATUS_VSRAM_MV = q.mv) := by
  unfold State.vack
  rw [h1]
  dsimp only
  rw [h2]
  dsimp only
  rw [if_pos ⟨h3, h4, h5⟩]
  have hlt : q.mv < 2 ^ 16 := by
    rw [← h5]
    unfold getBits
    exact BitVec.isLt _
  by_cases hq : q.rail = 0
  · rw [if_pos hq]
    refine ⟨_, rfl, rfl, ?_, fun _ => ?_, fun e => absurd hq e⟩
    · rw [fld_setFld_reg _ _ (by decide)]
      exact fld_setFld_self _ _ _ _ _ (by decide) (by decide)
    · rw [fld_setFld_self _ _ _ _ _ (by decide) (by decide)]
      exact Nat.mod_eq_of_lt hlt
  · rw [if_neg hq]
    refine ⟨_, rfl, rfl, ?_, fun e => absurd e hq, fun _ => ?_⟩
    · rw [fld_setFld_reg _ _ (by decide)]
      exact fld_setFld_self _ _ _ _ _ (by decide) (by decide)
    · rw [fld_setFld_self _ _ _ _ _ (by decide) (by decide)]
      exact Nat.mod_eq_of_lt hlt

theorem exceeded_mon (s : State) (die u a b d i : Nat) (r : RegId) (h : r ∉ chatter) : (s.exceeded die u a b).reg d i r = s.reg d i r
    ∧ (s.exceeded die u a b).health = s.health := by
  unfold State.exceeded
  exact ⟨(State.raise_reported (reported_refl _)).reg _ _ _ h, (State.raise_reported (reported_refl _)).health⟩

theorem degrade_mon (s : State) (die cl ch d i : Nat) (hc : cl < 8) (hh : ch < 8) :
    (s.degrade die cl ch).reg d i Reg.HL_MON = s.reg d i Reg.HL_MON
    ∧ (s.degrade die cl ch).fld die cl Fld.MC_DEGRADE_TRAINED = s.fld die cl Fld.MC_DEGRADE_TRAINED := by
  have hm : ∀ x : State, (x.setMap die (dramBit cl ch) true).reg d i Reg.HL_MON = x.reg d i Reg.HL_MON
      ∧ (x.setMap die (dramBit cl ch) true).fld die cl Fld.MC_DEGRADE_TRAINED = x.fld die cl Fld.MC_DEGRADE_TRAINED := by
    intro x
    unfold State.setMap
    refine ⟨reg_setReg_ne x _ (.inr (.inr ?_)), fld_setReg_ne x _ (.inr (.inr ?_))⟩
    · intro e
      have h := congrArg RegId.off e
      unfold mapReg dramBit Reg.HL_MON at h
      dsimp only at h
      omega
    · intro e
      have h := congrArg RegId.blk e
      exact absurd h (by unfold mapReg; dsimp only; decide)
  unfold State.degrade
  dsimp only
  split
  · exact ⟨rfl, rfl⟩
  · split
    · unfold State.degradeRefused
      exact ⟨(State.raise_reported (reported_refl _)).reg _ _ _ (by decide), raise_fld _ _ _ _ _ _ (by decide)⟩
    · refine ⟨((State.raise_reported (reported_refl _)).reg _ _ _ (by decide)).trans ((hm _).1.trans ?_), (raise_fld _ _ _ _ _ _ (by decide)).trans ((hm _).2.trans ?_)⟩
      · exact reg_setReg_ne _ _ (.inr (.inr (by decide)))
      · exact fld_setFld_other _ _ (by decide) (by decide) (by decide) (by decide) _ _

theorem bit_cleared (t ch : Nat) (ht : t < 256) : (if t / 2 ^ ch % 2 = 1 then t - 2 ^ ch else t) % 256 / 2 ^ ch % 2 = 0 := by
  split
  · rename_i h
    have h1 : (t - 2 ^ ch) / 2 ^ ch = t / 2 ^ ch - 1 := by
      have := Nat.sub_mul_div t (2 ^ ch) 1
      rwa [Nat.mul_one] at this
    rw [Nat.mod_eq_of_lt (Nat.lt_of_le_of_lt (Nat.sub_le _ _) ht), h1]
    omega
  · rw [Nat.mod_eq_of_lt ht]
    omega

theorem retrain_spec (s : State) (die cl ch : Nat) (pass : Bool) (rd wr : Nat) (hc : cl < 8) (hh : ch < 8) :
    (s.retrain die cl ch pass rd wr).reg die (128 + 8 * cl + ch) Reg.HL_MON = BitVec.ofNat 64 (rd % 2 ^ 32 * 2 ^ 32 + wr % 2 ^ 32)
    ∧ (pass = false → (s.retrain die cl ch pass rd wr).fld die cl Fld.MC_DEGRADE_TRAINED / 2 ^ ch % 2 = 0)
    ∧ (pass = true → (s.retrain die cl ch pass rd wr).fld die cl Fld.MC_DEGRADE_TRAINED = s.fld die cl Fld.MC_DEGRADE_TRAINED) := by
  unfold State.retrain
  extract_lets unit least w0 w1 w2 tr w3
  have h0 : w0.reg die (128 + 8 * cl + ch) Reg.HL_MON = BitVec.ofNat 64 (rd % 2 ^ 32 * 2 ^ 32 + wr % 2 ^ 32) := by
    unfold w0 State.setMon
    rw [show 64 * 2 + (8 * cl + ch) = 128 + 8 * cl + ch by omega]
    unfold State.reg State.setReg
    exact regGet_regSet_self _ _ _
  have h0' : w0.fld die cl Fld.MC_DEGRADE_TRAINED = s.fld die cl Fld.MC_DEGRADE_TRAINED := fld_setReg_ne _ _ (.inr (.inr (by decide)))
  have h1 : ∀ d i r, r ∉ chatter → w1.reg d i r = w0.reg d i r := by
    intro d i r hr
    unfold w1
    split
    · exact (exceeded_mon _ _ _ _ _ _ _ _ hr).1
    · rfl
  have h2 : ∀ d i r, r ∉ chatter → w2.reg d i r = w1.reg d i r := by
    intro d i r hr
    unfold w2
    split
    · exact (exceeded_mon _ _ _ _ _ _ _ _ hr).1
    · rfl
  have hr2 : ∀ d i r, r ∉ chatter → w2.reg d i r = w0.reg d i r := fun d i r hr => (h2 d i r hr).trans (h1 d i r hr)
  have hf2 : w2.fld die cl Fld.MC_DEGRADE_TRAINED = s.fld die cl Fld.MC_DEGRADE_TRAINED := by
    rw [← h0']
    unfold State.fld
    rw [hr2 _ _ _ (by decide)]
  split
  · rename_i hp
    exact ⟨(hr2 _ _ _ (by decide)).trans h0, fun e => (by rw [hp] at e; cases e), fun _ => hf2⟩
  · rename_i hp
    refine ⟨?_, fun _ => ?_, fun e => absurd e hp⟩
    · refine ((State.raise_reported (reported_refl _)).reg _ _ _ (by decide)).trans ?_
      refine (degrade_mon _ _ _ _ _ _ hc hh).1.trans ?_
      exact (reg_setReg_ne _ _ (.inr (.inr (by decide)))).trans ((hr2 _ _ _ (by decide)).trans h0)
    · rw [raise_fld _ _ _ _ _ _ (by decide), (degrade_mon w3 _ _ _ 0 0 hc hh).2]
      unfold w3
      rw [fld_setFld_self _ _ _ _ _ (by decide) (by decide)]
      exact bit_cleared tr ch (fld_lt w2 die cl Fld.MC_DEGRADE_TRAINED)

theorem setMon_self (s : State) (die type index a b : Nat) : (s.setMon die type index a b).reg die (64 * type + index) Reg.HL_MON
    = BitVec.ofNat 64 (a % 2 ^ 32 * 2 ^ 32 + b % 2 ^ 32) := by
  unfold State.setMon State.reg State.setReg
  exact regGet_regSet_self _ _ _

theorem setMon_self0 (s : State) (die index a b : Nat) : (s.setMon die 0 index a b).reg die index Reg.HL_MON
    = BitVec.ofNat 64 (a % 2 ^ 32 * 2 ^ 32 + b % 2 ^ 32) := by
  have h := setMon_self s die 0 index a b
  rw [Nat.mul_zero, Nat.zero_add] at h
  exact h

theorem setMon_eq (s : State) (die type index a b : Nat) : s.setMon die type index a b
    = s.setReg die (64 * type + index) Reg.HL_MON (BitVec.ofNat 64 (a % 2 ^ 32 * 2 ^ 32 + b % 2 ^ 32)) := rfl

theorem setMon_health (s : State) (die type index a b : Nat) : (s.setMon die type index a b).health = s.health :=
  (congrArg State.health (setMon_eq s die type index a b)).trans (State.setReg_health _ _ _ _ _)

theorem health_reg (s : State) (h : Health) (d i : Nat) (r : RegId) : ({ s with health := h } : State).reg d i r = s.reg d i r := rfl

theorem measure_spec (s : State) (die pair drift n : Nat) :
    (s.measure die pair drift n).reg die pair Reg.HL_MON = BitVec.ofNat 64 (drift % 2 ^ 32 * 2 ^ 32 + n % 2 ^ 32)
    ∧ (s.fld die 0 Fld.HL_AGE_CFG_WARN_PPM < drift → (die, pair) ∈ (s.measure die pair drift n).health.aged)
    ∧ (drift ≤ s.fld die 0 Fld.HL_AGE_CFG_WARN_PPM → (s.measure die pair drift n).health.aged = s.health.aged.erase (die, pair)) := by
  have h0 := setMon_self0 s die pair drift n
  have hw := setMon_health s die 0 pair drift n
  unfold State.measure
  generalize s.setMon die 0 pair drift n = y0 at h0 hw ⊢
  extract_lets unit warn limit w0 was x0 w1
  change w0.reg _ _ _ = _ at h0
  change w0.health = _ at hw
  have h1 : w1.reg die pair Reg.HL_MON = w0.reg die pair Reg.HL_MON
      ∧ (warn < drift → (die, pair) ∈ w1.health.aged) ∧ (drift ≤ warn → w1.health.aged = s.health.aged.erase (die, pair)) := by
    have hwas : was = true ↔ (die, pair) ∈ w0.health.aged := List.contains_iff_mem
    unfold w1
    clear_value was x0
    split
    · rename_i h
      simp only [Bool.and_eq_true, decide_eq_true_eq] at h
      refine ⟨((State.raise_reported (reported_refl _)).reg _ _ _ (by decide)).trans (health_reg _ _ _ _ _), fun _ => ?_, fun e => absurd h.1 (Nat.not_lt.2 e)⟩
      rw [(State.raise_reported (reported_refl _)).health]
      exact List.mem_cons_self
    · rename_i h
      rw [Bool.and_eq_true, decide_eq_true_eq] at h
      split
      · rename_i h'
        rw [Bool.and_eq_true, decide_eq_true_eq] at h'
        refine ⟨health_reg _ _ _ _ _, fun e => absurd h'.1 (Nat.not_le.2 e), fun _ => congrArg (fun h : Health => h.aged.erase (die, pair)) hw⟩
      · rename_i h'
        rw [Bool.and_eq_true, decide_eq_true_eq] at h'
        refine ⟨rfl, fun e => ?_, fun e => ?_⟩
        · refine hwas.1 ?_
          cases hb : was with
          | true => rfl
          | false => exact absurd ⟨e, by rw [hb]; rfl⟩ h
        · rw [← hw]
          refine (List.erase_of_not_mem fun hm => h' ⟨e, hwas.2 hm⟩).symm
  clear_value w1
  split
  · refine ⟨(exceeded_mon _ _ _ _ _ _ _ _ (by decide)).1.trans (h1.1.trans h0), ?_⟩
    rw [(exceeded_mon w1 die unit drift limit 0 0 Reg.HL_MON (by decide)).2]
    exact h1.2
  · exact ⟨h1.1.trans h0, h1.2⟩

theorem eye_spec (s : State) (lane h w : Nat) :
    (s.eye lane h w).reg (if lane < 24 then 0 else 1) (64 + lane % 24) Reg.HL_MON = BitVec.ofNat 64 (h % 2 ^ 32 * 2 ^ 32 + w % 2 ^ 32) := by
  unfold State.eye
  extract_lets die e unit w0 w1
  have h0 : w0.reg die (64 + lane % 24) Reg.HL_MON = BitVec.ofNat 64 (h % 2 ^ 32 * 2 ^ 32 + w % 2 ^ 32) := by
    unfold w0 State.setMon State.reg State.setReg
    exact regGet_regSet_self _ _ _
  have h1 : w1.reg die (64 + lane % 24) Reg.HL_MON = w0.reg die (64 + lane % 24) Reg.HL_MON := by
    unfold w1
    split
    · exact (exceeded_mon _ _ _ _ _ _ _ _ (by decide)).1
    · rfl
  split
  · exact (exceeded_mon _ _ _ _ _ _ _ _ (by decide)).1.trans (h1.trans h0)
  · exact h1.trans h0

theorem raiseOnce_raised (s : State) (die sub item : Nat) (a : EvtArgs) : ((s.raiseOnce die sub item a).onceRec die sub item).raised = true := by
  have hk : (s.onceRec die sub item).die = die ∧ (s.onceRec die sub item).subcode = sub ∧ (s.onceRec die sub item).item = item := by
    unfold State.onceRec
    cases h : s.ev.once.find? (fun o => o.die == die && o.subcode == sub && o.item == item) with
    | none => exact ⟨rfl, rfl, rfl⟩
    | some o =>
      have := List.find?_some h
      simp only [Bool.and_eq_true, beq_iff_eq] at this
      exact ⟨this.1.1, this.1.2, this.2⟩
  have hset : ∀ o : Once, o.die = die → o.subcode = sub → o.item = item → ∀ x : State, x.ev.once = (s.setOnce o).ev.once →
      x.onceRec die sub item = o := by
    intro o h1 h2 h3 x hx
    unfold State.onceRec
    rw [hx]
    unfold State.setOnce
    dsimp only
    rw [List.find?_cons_of_pos (by simp [h1, h2, h3])]
    rfl
  unfold State.raiseOnce
  dsimp only
  split
  · rename_i h
    rw [hset { s.onceRec die sub item with supp := (s.onceRec die sub item).supp + 1 } hk.1 hk.2.1 hk.2.2 _ rfl]
    exact h
  · rw [hset { s.onceRec die sub item with raised := true } hk.1 hk.2.1 hk.2.2 _ (State.raise_rationed (rationed_refl _)).once]

theorem sense_fold (die : Nat) (f : Nat → Nat) (m : Nat) (l : List Nat) : ∀ s : State,
    let u := l.foldl (fun s i => (s.setFld die i Fld.BD_TEMP_TEMP (f i)).setFld die i Fld.BD_TEMP_MAX m) s
    (∀ i ∈ l, u.fld die i Fld.BD_TEMP_TEMP = f i % 2 ^ 16) ∧ (∀ i, i ∉ l → u.fld die i Fld.BD_TEMP_TEMP = s.fld die i Fld.BD_TEMP_TEMP)
      ∧ u.pins = s.pins ∧ u.net = s.net ∧ ∀ r, r ≠ Reg.BD_TEMP → ∀ d i, u.reg d i r = s.reg d i r := by
  induction l with
  | nil =>
    intro s
    refine ⟨fun i hi => ?_, fun i _ => rfl, rfl, rfl, fun r _ d i => rfl⟩
    cases hi
  | cons x l ih =>
    intro s
    obtain ⟨h1, h2, h3, h4, h5⟩ := ih ((s.setFld die x Fld.BD_TEMP_TEMP (f x)).setFld die x Fld.BD_TEMP_MAX m)
    refine ⟨fun i hi => ?_, fun i hi => ?_, h3, h4, fun r hr d i => ?_⟩
    · by_cases hm : i ∈ l
      · exact h1 i hm
      · refine (h2 i hm).trans ?_
        rcases List.mem_cons.1 hi with rfl | hi
        · rw [fld_setFld_other _ _ (by decide) (by decide) (by decide) (by decide), fld_setFld_self _ _ _ _ _ (by decide) (by decide)]
          rfl
        · exact absurd hi hm
    · rw [List.mem_cons, not_or] at hi
      refine (h2 i hi.2).trans ?_
      rw [fld_setFld_ne _ _ (.inr (.inl hi.1)), fld_setFld_ne _ _ (.inr (.inl hi.1))]
    · refine (h5 r hr d i).trans ?_
      exact (reg_setReg_ne _ _ (.inr (.inr hr))).trans (reg_setReg_ne _ _ (.inr (.inr hr)))

theorem trip_spec (s : State) (die : Nat) (hd : die < 2) : (s.trip die).pins.tripped = true ∧ (s.trip die).fld 0 0 Fld.BD_THERM_TRIP = 1
    ∧ (s.trip die).fld 0 0 Fld.BD_THERM_TRIP_DIE = die ∧ ∀ d i, (s.trip die).reg d i Reg.BD_TEMP = s.reg d i Reg.BD_TEMP := by
  have hf : ∀ (l : List Nat) (s : State) r, r ≠ Reg.ETH_PORT_STATUS → ∀ d i, (l.foldl (fun s p =>
      (s.setPort p { s.port p with link := false, queue := [], sending := none }).setFld (portDie p) p Fld.ETH_PORT_STATUS_UP 0) s).reg d i r = s.reg d i r := by
    intro l
    induction l with
    | nil => exact fun _ _ _ _ _ => rfl
    | cons x l ih => exact fun s r hr d i => (ih _ r hr d i).trans (reg_setReg_ne _ _ (.inr (.inr hr)))
  have hi : ∀ (x : State) b, (x.ibi b).regs = x.regs := by
    intro x b
    unfold State.ibi
    split <;> rfl
  unfold State.trip
  extract_lets w0 w1
  have h0 : ∀ d i r, w0.reg d i r = ((s.setFld 0 0 Fld.BD_THERM_TRIP 1).setFld 0 0 Fld.BD_THERM_TRIP_DIE die).reg d i r := by
    intro d i r
    unfold State.reg
    rw [show w0.regs = _ from hi _ _]
  have h1 : ∀ d i r, r ≠ Reg.ETH_PORT_STATUS → w1.reg d i r = ((s.setFld 0 0 Fld.BD_THERM_TRIP 1).setFld 0 0 Fld.BD_THERM_TRIP_DIE die).reg d i r :=
    fun d i r hr => (hf _ w0 r hr d i).trans (h0 d i r)
  refine ⟨rfl, ?_, ?_, fun d i => ?_⟩
  · show w1.fld 0 0 Fld.BD_THERM_TRIP = 1
    unfold State.fld
    rw [h1 _ _ _ (by decide)]
    exact (fld_setFld_other _ _ (by decide) (by decide) (by decide) (by decide) 0 0).trans (fld_setFld_self _ _ _ _ _ (by decide) (by decide))
  · show w1.fld 0 0 Fld.BD_THERM_TRIP_DIE = die
    unfold State.fld
    rw [h1 _ _ _ (by decide)]
    refine (fld_setFld_self _ _ _ _ _ (by decide) (by decide)).trans ?_
    exact Nat.mod_eq_of_lt hd
  · refine (h1 _ _ _ (by decide)).trans ?_
    exact (reg_setReg_ne _ _ (.inr (.inr (by decide)))).trans (reg_setReg_ne _ _ (.inr (.inr (by decide))))

theorem temp16_lt (x : Int) : temp16 x < 2 ^ 16 := by
  unfold temp16
  omega

theorem sampleTemps_spec (s : State) (die : Nat) (temps : List Int) (hd : die < 2) :
    (∀ i, i < 16 → (s.sampleTemps die temps).fld die i Fld.BD_TEMP_TEMP = temp16 (temps.getD i 0))
    ∧ (tripTemp ≤ hottest temps → (s.sampleTemps die temps).pins.tripped = true ∧ (s.sampleTemps die temps).fld 0 0 Fld.BD_THERM_TRIP = 1
      ∧ (s.sampleTemps die temps).fld 0 0 Fld.BD_THERM_TRIP_DIE = die)
    ∧ (hottest temps < tripTemp → (s.sampleTemps die temps).pins.tripped = s.pins.tripped) := by
  unfold State.sampleTemps
  extract_lets hot w0 limit w1
  obtain ⟨h1, _, h3, _, _⟩ := sense_fold die (fun i => temp16 (temps.getD i 0)) (temp16 hot) (List.range 16) s
  have e1 : ∀ i, i < 16 → w0.fld die i Fld.BD_TEMP_TEMP = temp16 (temps.getD i 0) := fun i hi =>
    (h1 i (List.mem_range.2 hi)).trans (Nat.mod_eq_of_lt (temp16_lt _))
  have e2 : w0.pins = s.pins := h3
  clear_value w0
  have e3 : (∀ i, i < 16 → w1.fld die i Fld.BD_TEMP_TEMP = temp16 (temps.getD i 0)) ∧ w1.pins.tripped = s.pins.tripped := by
    unfold w1
    split
    · refine ⟨fun i hi => ?_, ?_⟩
      · unfold State.exceeded
        exact (raise_fld _ _ _ _ _ _ (by decide)).trans (e1 i hi)
      · unfold State.exceeded
        exact (State.raise_reported (reported_refl _)).tripped.trans (congrArg Pins.tripped e2)
    · exact ⟨e1, congrArg Pins.tripped e2⟩
  clear_value w1
  split
  · rename_i h
    obtain ⟨t1, t2, t3, t4⟩ := trip_spec w1 die hd
    refine ⟨fun i hi => ?_, fun _ => ⟨t1, t2, t3⟩, fun e => absurd h (by show ¬ tripTemp ≤ hottest temps; omega)⟩
    rw [← e3.1 i hi]
    unfold State.fld
    rw [t4]
  · rename_i h
    exact ⟨e3.1, fun e => absurd e h, fun _ => e3.2⟩

end Sys2Proof.Machine
end

