-- ==== Sys2Proof/Laws/Mute.lean ====
section
/-! SUPPORT. What leaves the records of a replay and its status alone. -/

namespace Sys2Proof.Machine

/-- The registers `State.Mute` keeps. -/
def muteRegs : List RegId := [Reg.RP_STATUS, Reg.RP_REC]

/-- `b` has the replay, RP_STATUS and RP_REC of `a`. -/
structure State.Mute (a b : State) : Prop where
  rp : b.rp = a.rp
  reg : ∀ d i r, r ∈ muteRegs → b.reg d i r = a.reg d i r

variable {s0 s t : State}

theorem mute_refl (s : State) : s.Mute s := ⟨rfl, fun _ _ _ _ => rfl⟩

theorem mute_trans (h : s0.Mute s) (h' : s.Mute t) : s0.Mute t :=
  ⟨h'.rp.trans h.rp, fun d i r hr => (h'.reg d i r hr).trans (h.reg d i r hr)⟩

/-- A change elsewhere. -/
theorem mute_mk (h : s0.Mute s) {now : Nat} {pending : List Instr} {free : Nat} {regs : List (RegKey × Word)} {bcn : Beacon}
    {ev : Events} {ses : Sessions} {kv : Kv} {attn : Attn} {grams : List ((Nat × Nat) × Gram)} {net : Net} {lamp : Lamp}
    {tier : Tier} {start : Start} {flash : Flash} {ident : Ident} {ckpt : Ckpt} {health : Health} {rp : Replay} {pins : Pins}
    (e0 : rp = s.rp) (er : regs = s.regs) :
    s0.Mute ⟨now, pending, free, regs, bcn, ev, ses, kv, attn, grams, net, lamp, tier, start, flash, ident, ckpt, health, rp,
      pins⟩ := ⟨e0.trans h.rp, fun d i r hr => by rw [← h.reg d i r hr]; unfold State.reg; dsimp only; rw [er]⟩

theorem mute_ite {c : Prop} [Decidable c] (h : s0.Mute s) (h' : s0.Mute t) : s0.Mute (if c then s else t) := by
  split <;> assumption

theorem mute_foldl {α : Type} {f : State → α → State} (hf : ∀ s x, s0.Mute s → s0.Mute (f s x)) (l : List α)
    (h : s0.Mute s) : s0.Mute (l.foldl f s) := by
  induction l generalizing s with
  | nil => exact h
  | cons x l ih => exact ih (hf s x h)

theorem State.setReg_mute (h : s0.Mute s) {die sel : Nat} {r : RegId} {w : Word} (hr : r ∉ muteRegs) : s0.Mute (s.setReg die sel r w) :=
  mute_trans h ⟨rfl, fun _ _ _ hx => reg_setReg_ne s _ (.inr (.inr (fun e => hr (e ▸ hx))))⟩
theorem State.setFld_mute (h : s0.Mute s) {die sel : Nat} {f : Field} {v : Nat} (hf : f.reg ∉ muteRegs) : s0.Mute (s.setFld die sel f v) := State.setReg_mute h hf
theorem State.bumpBy_mute (h : s0.Mute s) {die sel : Nat} {f : Field} {n : Nat} (hf : f.reg ∉ muteRegs) : s0.Mute (s.bumpBy die sel f n) := State.setReg_mute h hf
theorem State.bump_mute (h : s0.Mute s) {die sel : Nat} {f : Field} (hf : f.reg ∉ muteRegs) : s0.Mute (s.bump die sel f) := State.setReg_mute h hf
theorem State.lower_mute (h : s0.Mute s) {die sel : Nat} {f : Field} {n : Nat} (hf : f.reg ∉ muteRegs) : s0.Mute (s.lower die sel f n) := State.setReg_mute h hf
theorem State.setSess_mute (h : s0.Mute s) {slot : Nat} {r : Session} : s0.Mute (s.setSess slot r) := mute_mk h rfl rfl
theorem State.setPort_mute (h : s0.Mute s) {p : Nat} {x : Port} : s0.Mute (s.setPort p x) := mute_mk h rfl rfl
theorem State.setPoolFree_mute (h : s0.Mute s) {die tier n : Nat} : s0.Mute (s.setPoolFree die tier n) := by
  unfold State.setPoolFree
  dsimp only
  exact State.setReg_mute h (by simp [muteRegs, Reg.RP_STATUS, Reg.RP_REC])

set_option linter.unusedTactic false
set_option linter.unusedSimpArgs false
set_option linter.unreachableTactic false

theorem State.settle_mute (h : s0.Mute s) {p : Nat} : s0.Mute (State.settle s p) := by
  unfold State.settle
  try dsimp only
  repeat' first | with_reducible assumption | with_reducible rfl | decide | intro _ | with_reducible apply State.setPort_mute | with_reducible apply mute_ite | with_reducible apply mute_foldl | fail_if_no_progress with_reducible refine mute_mk ?_ rfl rfl | split | dsimp only | decide

theorem State.enqueue_mute (h : s0.Mute s) {p cls flow len : Nat} {result : Option (Nat × ResKey)} {body : FrameBody} : s0.Mute (State.enqueue s p cls flow len result body) := by
  unfold State.enqueue
  try dsimp only
  repeat' first | with_reducible assumption | with_reducible rfl | decide | with_reducible apply State.settle_mute | with_reducible apply State.setPort_mute | with_reducible apply mute_ite | fail_if_no_progress with_reducible refine mute_mk ?_ rfl rfl | split | dsimp only | decide

theorem State.countHeld_mute (h : s0.Mute s) {p : Nat} : s0.Mute (State.countHeld s p) := by
  unfold State.countHeld
  try dsimp only
  repeat' first | with_reducible assumption | with_reducible rfl | decide | intro _ | with_reducible apply State.setPort_mute | with_reducible apply State.bump_mute | with_reducible apply mute_ite | with_reducible apply mute_foldl | fail_if_no_progress with_reducible refine mute_mk ?_ rfl rfl | split | dsimp only | decide

theorem State.noteReturn_mute (h : s0.Mute s) {r : Result} : s0.Mute (State.noteReturn s r) := by
  unfold State.noteReturn
  try dsimp only
  repeat' first | with_reducible assumption | with_reducible rfl | decide | intro _ | with_reducible apply State.bump_mute | with_reducible apply mute_ite | fail_if_no_progress with_reducible refine mute_mk ?_ rfl rfl | split | dsimp only | decide

theorem State.markStarted_mute (h : s0.Mute s) {p : Nat} {f : QFrame} : s0.Mute (State.markStarted s p f) := by
  unfold State.markStarted
  try dsimp only
  repeat' first | with_reducible assumption | with_reducible rfl | decide | intro _ | with_reducible apply State.noteReturn_mute | with_reducible apply State.setPort_mute | with_reducible apply mute_ite | fail_if_no_progress with_reducible refine mute_mk ?_ rfl rfl | split | dsimp only | decide

theorem State.untrack_mute (h : s0.Mute s) {k : KeyRef} {reqId : Nat} : s0.Mute (State.untrack s k reqId) := by
  unfold State.untrack
  try dsimp only
  repeat' first | with_reducible assumption | with_reducible rfl | decide | intro _ | with_reducible apply mute_ite | fail_if_no_progress with_reducible refine mute_mk ?_ rfl rfl | split | dsimp only | decide

theorem State.untrackFrame_mute (h : s0.Mute s) {f : QFrame} : s0.Mute (State.untrackFrame s f) := by
  unfold State.untrackFrame
  try dsimp only
  repeat' first | with_reducible assumption | with_reducible rfl | decide | with_reducible apply State.untrack_mute | with_reducible apply mute_ite | fail_if_no_progress with_reducible refine mute_mk ?_ rfl rfl | split | dsimp only | decide

theorem State.pick_mute (h : s0.Mute s) {p : Nat} : s0.Mute (State.pick s p) := by
  unfold State.pick
  try dsimp only
  repeat' first | with_reducible assumption | with_reducible rfl | decide | with_reducible apply State.settle_mute | with_reducible apply State.countHeld_mute | with_reducible apply State.setPort_mute | with_reducible apply State.markStarted_mute | with_reducible apply State.untrackFrame_mute | with_reducible apply mute_ite | fail_if_no_progress with_reducible refine mute_mk ?_ rfl rfl | split | dsimp only | decide

theorem State.send_mute (h : s0.Mute s) {p cls flow len : Nat} {result : Option (Nat × ResKey)} {body : FrameBody} : s0.Mute (State.send s p cls flow len result body) := by
  unfold State.send
  try dsimp only
  repeat' first | with_reducible assumption | with_reducible rfl | decide | with_reducible apply State.enqueue_mute | with_reducible apply State.pick_mute | with_reducible apply mute_ite | split | dsimp only | decide

theorem State.sendSeg_mute (h : s0.Mute s) {d : Dest} {kind type status reason reqId : Nat} {response : Bool} {result : Option (Nat × ResKey)} {count len : Nat} {seg : Nat × List Byte} : s0.Mute (State.sendSeg s d kind type status reason reqId response result count len seg) := by
  unfold State.sendSeg
  try dsimp only
  repeat' first | with_reducible assumption | with_reducible rfl | decide | with_reducible apply State.send_mute | with_reducible apply mute_ite | fail_if_no_progress with_reducible refine mute_mk ?_ rfl rfl | split | dsimp only | decide

theorem State.sendMsg_mute (h : s0.Mute s) {d : Dest} {kind type status reason reqId : Nat} {response : Bool} {result : Option (Nat × ResKey)} {body : List Byte} : s0.Mute (State.sendMsg s d kind type status reason reqId response result body) := by
  unfold State.sendMsg
  try dsimp only
  repeat' first | with_reducible assumption | with_reducible rfl | decide | intro _ | with_reducible apply State.sendSeg_mute | with_reducible apply mute_ite | with_reducible apply mute_foldl | fail_if_no_progress with_reducible refine mute_mk ?_ rfl rfl | split | dsimp only | decide

theorem State.setRing_mute (h : s0.Mute s) {die : Nat} {l : List EvtRec} : s0.Mute (State.setRing s die l) := by
  unfold State.setRing
  try dsimp only
  repeat' first | with_reducible assumption | with_reducible rfl | decide | with_reducible apply mute_ite | fail_if_no_progress with_reducible refine mute_mk ?_ rfl rfl | split | dsimp only | decide

theorem State.setAlerts_mute (h : s0.Mute s) {die : Nat} {l : List Nat} : s0.Mute (State.setAlerts s die l) := by
  unfold State.setAlerts
  try dsimp only
  repeat' first | with_reducible assumption | with_reducible rfl | decide | with_reducible apply mute_ite | fail_if_no_progress with_reducible refine mute_mk ?_ rfl rfl | split | dsimp only | decide

theorem State.eventFrame_mute (h : s0.Mute s) {sub : Sub} {r : EvtRec} : s0.Mute (State.eventFrame s sub r) := by
  unfold State.eventFrame
  try dsimp only
  repeat' first | with_reducible assumption | with_reducible rfl | decide | with_reducible apply State.sendMsg_mute | with_reducible apply mute_ite | fail_if_no_progress with_reducible refine mute_mk ?_ rfl rfl | split | dsimp only | decide

theorem State.ibi_mute (h : s0.Mute s) {byte : Nat} : s0.Mute (State.ibi s byte) := by
  unfold State.ibi
  try dsimp only
  repeat' first | with_reducible assumption | with_reducible rfl | decide | with_reducible apply mute_ite | fail_if_no_progress with_reducible refine mute_mk ?_ rfl rfl | split | dsimp only | decide

theorem State.logEvent_mute (h : s0.Mute s) {die : Nat} {r : EvtRec} : s0.Mute (State.logEvent s die r) := by
  unfold State.logEvent
  try dsimp only
  repeat' first | with_reducible assumption | with_reducible rfl | decide | with_reducible apply State.setRing_mute | with_reducible apply State.setFld_mute | with_reducible apply State.setAlerts_mute | with_reducible apply State.ibi_mute | with_reducible apply mute_ite | split | dsimp only | decide

theorem State.raise_mute (h : s0.Mute s) {die sub : Nat} {a : EvtArgs} : s0.Mute (State.raise s die sub a) := by
  unfold State.raise
  try dsimp only
  repeat' first | with_reducible assumption | with_reducible rfl | decide | intro _ | with_reducible apply State.eventFrame_mute | with_reducible apply State.logEvent_mute | with_reducible apply mute_ite | with_reducible apply mute_foldl | split | dsimp only | decide

end Sys2Proof.Machine
end

