-- ==== Sys2Proof/Laws/NetCmds.lean ====
section
/-! SUPPORT. Helpers about ports, frames, connections and control messages. -/

namespace Sys2Proof.Machine

variable {s s0 t : State}

theorem bit_set {w c j : Nat} (b : Bool) (hc : c < 8) (hj : j < 8) (hw : w < 256) :
    (if b = true then (if w / 2 ^ c % 2 = 1 then w - 2 ^ c else w) + 2 ^ c else (if w / 2 ^ c % 2 = 1 then w - 2 ^ c else w)) < 256
    ∧ (if b = true then (if w / 2 ^ c % 2 = 1 then w - 2 ^ c else w) + 2 ^ c else (if w / 2 ^ c % 2 = 1 then w - 2 ^ c else w)) / 2 ^ j % 2
      = if j = c then b2n b else w / 2 ^ j % 2 := by
  have h2 : ∀ v, (v / 2 ^ c % 2 = 1 → 2 ^ c ≤ v) := by
    intro v hv
    by_contra hlt
    rw [Nat.div_eq_of_lt (by omega)] at hv
    cases hv
  generalize hv : (if w / 2 ^ c % 2 = 1 then w - 2 ^ c else w) = v
  have hk : v / 2 ^ c % 2 = 0 ∧ v < 256 ∧ (v = w ∨ w / 2 ^ c % 2 = 1 ∧ v + 2 ^ c = w) := by
    by_cases h : w / 2 ^ c % 2 = 1
    · rw [if_pos h] at hv
      have := h2 w h
      have := Nat.two_pow_pos c
      refine ⟨?_, by omega, .inr ⟨h, by omega⟩⟩
      subst hv
      interval_cases c <;> omega
    · rw [if_neg h] at hv
      subst hv
      exact ⟨by omega, hw, .inl rfl⟩
  obtain ⟨k1, k2, k3⟩ := hk
  clear h2 hv
  cases b with
  | false =>
    simp only [Bool.false_eq_true, if_false, b2n]
    refine ⟨k2, ?_⟩
    by_cases e : j = c
    · rw [if_pos e, e]
      exact k1
    · rw [if_neg e]
      rcases k3 with rfl | ⟨h, h'⟩
      · rfl
      · interval_cases c <;> interval_cases j <;> omega
  | true =>
    simp only [if_true, b2n]
    refine ⟨by interval_cases c <;> omega, ?_⟩
    by_cases e : j = c
    · rw [if_pos e, e]
      interval_cases c <;> omega
    · rw [if_neg e]
      rcases k3 with rfl | ⟨h, h'⟩
      · interval_cases c <;> interval_cases j <;> omega
      · rw [h']

theorem pausePrio_fld (s : State) (p c u : Nat) (hc : c < 8) : (s.pausePrio p c u).now = s.now
    ∧ ∀ j, j < 8 → (s.pausePrio p c u).fld (portDie p) p Fld.ETH_PFC_PAUSED / 2 ^ j % 2
      = if j = c then b2n (decide (s.now < u)) else s.fld (portDie p) p Fld.ETH_PFC_PAUSED / 2 ^ j % 2 := by
  refine ⟨rfl, fun j hj => ?_⟩
  have hw : s.fld (portDie p) p Fld.ETH_PFC_PAUSED < 256 := fld_lt s _ _ _
  unfold State.pausePrio
  dsimp only
  rw [fld_setFld_self _ _ _ _ _ (by decide) (by decide)]
  have e : ∀ (y : State) q, (y.setPort p q).fld (portDie p) p Fld.ETH_PFC_PAUSED = y.fld (portDie p) p Fld.ETH_PFC_PAUSED := fun _ _ => rfl
  rw [e]
  have hb := bit_set (decide (s.now < u)) hc hj hw
  simp only [decide_eq_true_eq] at hb
  rw [show (s.setPort p ((s.port p).setCls c { (s.port p).cls c with pausedUntil := u })).now = s.now from rfl]
  rw [Nat.mod_eq_of_lt (show _ < 2 ^ (Fld.ETH_PFC_PAUSED.hi - Fld.ETH_PFC_PAUSED.lo + 1) from hb.1)]
  exact hb.2

theorem pauses (p : Nat) (enable : BitVec 8) (ns : List Nat) (l : List Nat) : ∀ s : State, (∀ c ∈ l, c < 8) → l.Nodup →
    ∀ j, j < 8 → (l.foldl (fun s c => if enable.getLsbD c then s.pausePrio p c (s.now + ns.getD c 0) else s) s).fld (portDie p) p Fld.ETH_PFC_PAUSED / 2 ^ j % 2
      = if j ∈ l ∧ enable.getLsbD j = true then b2n (decide (0 < ns.getD j 0)) else s.fld (portDie p) p Fld.ETH_PFC_PAUSED / 2 ^ j % 2 := by
  induction l with
  | nil => intro s _ _ j _; simp
  | cons c l ih =>
    intro s hl hn j hj
    rw [List.nodup_cons] at hn
    rw [List.foldl_cons, ih _ (fun x hx => hl x (List.mem_cons_of_mem _ hx)) hn.2 j hj]
    by_cases hjl : j ∈ l ∧ enable.getLsbD j = true
    · rw [if_pos hjl, if_pos ⟨List.mem_cons_of_mem _ hjl.1, hjl.2⟩]
    · rw [if_neg hjl]
      cases he : enable.getLsbD c with
      | false =>
        rw [if_neg (by decide), if_neg]
        rintro ⟨h1, h2⟩
        rcases List.mem_cons.1 h1 with h | h
        · rw [h, he] at h2; cases h2
        · exact hjl ⟨h, h2⟩
      | true =>
        rw [if_pos rfl, (pausePrio_fld s p c _ (hl c (List.mem_cons_self ..))).2 j hj]
        by_cases hjc : j = c
        · subst hjc
          rw [if_pos rfl, if_pos ⟨List.mem_cons_self .., he⟩]
          congr 1
          simp
        · rw [if_neg hjc, if_neg]
          rintro ⟨h1, h2⟩
          rcases List.mem_cons.1 h1 with h | h
          · exact hjc h
          · exact hjl ⟨h, h2⟩

theorem link_setPort (s : State) (p : Nat) (v : Port) (x : Nat) : ((s.setPort p v).port x).link = if x = p then v.link else (s.port x).link := by
  unfold State.port State.setPort
  dsimp only
  split
  · rename_i h
    subst h
    rw [alGet_alSet_self]
    rfl
  · rename_i h
    rw [alGet_alSet_ne h]

theorem mapResults_net (l : List (Nat × ResKey)) (f : Result → Result) : ∀ s : State,
    (l.foldl (fun s k => s.mapResult k.1 k.2 f) s).net = s.net := by
  induction l with
  | nil => exact fun _ => rfl
  | cons a l ih => exact fun s => (ih _).trans rfl

theorem qp_at {die n : Nat} {q : Qp} (h : s.qp die n = some q) : q.die = die ∧ q.qp = n := by
  have := List.find?_some h
  simp only [Bool.and_eq_true, beq_iff_eq] at this
  exact this

theorem qp_of (h : t.net.qps = s.net.qps) (die n : Nat) : t.qp die n = s.qp die n := by
  unfold State.qp
  rw [h]

theorem qp_setQp (s : State) (q : Qp) {die n : Nat} (h1 : q.die = die) (h2 : q.qp = n) : (s.setQp q).qp die n = some q := by
  subst h1 h2
  unfold State.setQp State.qp
  dsimp only
  exact List.find?_cons_of_pos (by simp)

theorem find_some_any {α : Type} {p : α → Bool} {l : List α} {x : α} (h : x ∈ l) (hp : p x = true) : l.any p = true :=
  List.any_eq_true.2 ⟨x, h, hp⟩

theorem csReads_spec (e : Env) (l : List (Nat × RegRow)) : ∀ (x : State × List Byte),
    (l.foldl (fun (x : State × List Byte) p => ((x.1.readReg ⟨e.t, .ep e.ep, p.1⟩ p.2).1, x.2 ++ le 8 (x.1.readReg ⟨e.t, .ep e.ep, p.1⟩ p.2).2.toNat)) x).2.length
      = x.2.length + 8 * l.length := by
  induction l with
  | nil => intro x; rfl
  | cons p l ih =>
    intro x
    rw [List.foldl_cons, ih]
    have hle : ∀ n, (le 8 n).length = 8 := fun n => by simp [le]
    simp only [List.length_append, hle, List.length_cons]
    omega

theorem heard_wired (s : State) (e : Env) (type : Nat) : (s.tick e.t).net.subs = s.net.subs ∧ (s.heard e type none).net.subs = s.net.subs := by
  refine ⟨rfl, ?_⟩
  have h1 : s.Wired s.formResults := State.formResults_wired (wired_refl s)
  unfold State.heard State.arrived
  dsimp only
  have h2 : ∀ w : State, (w.takeReady e).net.subs = w.net.subs := fun w => rfl
  have h3 : ∀ w : State, (w.track e type none).net.subs = w.net.subs := fun w => by
    unfold State.track
    dsimp only
    split <;> rfl
  rw [h3, h2]
  exact h1.subs

theorem message_said {e : Env} {type : Nat} (h : s.Enters e type) (c : Instr) (body : List Byte) (f : State → State) :
    (f (s.heard e type none)).Wired (s.message e c type none body f) := by
  have hb : (f (s.heard e type none)).Wired (s.arrived.messageBody e type none body f) := by
    unfold State.messageBody State.heard
    unfold State.Enters at h
    rw [h]
    exact wired_refl _
  unfold State.message
  dsimp only
  split
  · exact State.formResults_wired (State.afterMessage_wired hb)
  · exact hb

theorem joinReasm_first (w : State) (r : Reasm) (f : GspFrame) (h : r.segs = []) : w.joinReasm r f =
    if 1 = r.segCount then w.whole { r with segs := [(f.segIndex, f.payload)] } f
    else { w with net := { w.net with reasm := { r with segs := [(f.segIndex, f.payload)] } :: w.net.reasm.filter (fun (x : Reasm) => !(x.key == r.key && x.reqId == r.reqId)) } } := by
  unfold State.joinReasm
  dsimp only
  rw [h]
  rfl

theorem Port.foldl_setCls_rest (l : List Nat) (f : Port → Nat → ClassState) : ∀ q : Port,
    (l.foldl (fun q c => q.setCls c (f q c)) q).since = q.since ∧ (l.foldl (fun q c => q.setCls c (f q c)) q).sending = q.sending
      ∧ (l.foldl (fun q c => q.setCls c (f q c)) q).queue = q.queue ∧ (l.foldl (fun q c => q.setCls c (f q c)) q).swapAt = q.swapAt := by
  induction l with
  | nil => exact fun _ => ⟨rfl, rfl, rfl, rfl⟩
  | cons c l ih => exact fun q => ih _

theorem port_setPort (s : State) (p : Nat) (v : Port) : (s.setPort p v).port p = v := by
  unfold State.port State.setPort
  dsimp only
  rw [alGet_alSet_self]
  rfl

theorem settle_port (s : State) (p : Nat) : ((s.settle p).port p).since = (s.port p).since ∧ ((s.settle p).port p).sending = (s.port p).sending
    ∧ ((s.settle p).port p).queue = (s.port p).queue ∧ ((s.settle p).port p).link = (s.port p).link := by
  unfold State.settle
  rw [port_setPort]
  have h := Port.foldl_setCls_rest (List.range 8) (fun _ c => { (s.port p).cls c with credit := s.creditAt p c s.now, creditAt := s.now }) (s.port p)
  exact ⟨h.1, h.2.1, h.2.2.1, Port.foldl_setCls_link _ _ _⟩

theorem charge_wired (h : s0.Wired s) {p c n : Nat} : s0.Wired (s.charge p c n) := by
  unfold State.charge
  dsimp only
  split
  · exact h
  · exact State.setPort_wired h rfl

theorem setShaper_wired (h : s0.Wired s) {p c : Nat} {v : Word} : s0.Wired (s.setShaper p c v) := by
  unfold State.setShaper State.store
  dsimp only
  exact State.setPort_wired (State.setReg_wired (State.settle_wired h)) rfl

theorem alGet_bump_port (s : State) (d i : Nat) (f : Field) (p : Nat) : (s.bump d i f).port p = s.port p := rfl

theorem countHeld_fold (p : Nat) (l : List Nat) : ∀ s : State, ((l.foldl (fun s c =>
    match (s.port p).head c with
    | none => s
    | some f =>
      if s.classReady p c && !s.guardOk p c (s.counted p f.len) && !f.held then
        let q := s.port p
        (s.setPort p { q with queue := q.queue.map (fun g => if g = f then { g with held := true } else g) }).bump
          (portDie p) p Fld.CH_COUNTS_GUARD_HELD
      else s) s).port p).sending = (s.port p).sending := by
  induction l with
  | nil => exact fun _ => rfl
  | cons c l ih =>
    intro s
    rw [List.foldl_cons, ih]
    split
    · rfl
    · split
      · dsimp only
        rw [alGet_bump_port, port_setPort]
      · rfl

theorem withStatus_same (k : Nat × ResKey) (st : Nat) (f : QFrame) : (f.withStatus k st).cls = f.cls ∧ (f.withStatus k st).flow = f.flow
    ∧ (f.withStatus k st).tag = f.tag ∧ (f.withStatus k st).len = f.len := by
  unfold QFrame.withStatus
  repeat' split
  all_goals exact ⟨rfl, rfl, rfl, rfl⟩

theorem untrackFrame_net (s : State) (f : QFrame) : (s.untrackFrame f).net = s.net := by
  unfold State.untrackFrame
  repeat' split
  all_goals rfl

theorem noteReturn_net (s : State) (r : Result) : (s.noteReturn r).net = s.net := by
  unfold State.noteReturn
  dsimp only
  repeat' split
  all_goals rfl

theorem markStarted_sending (s : State) (p : Nat) (f g : QFrame) (h : (s.port p).sending = some g) :
    ∃ x, ((s.markStarted p f).port p).sending = some x ∧ x.cls = g.cls ∧ x.flow = g.flow ∧ x.tag = g.tag ∧ x.len = g.len := by
  unfold State.markStarted
  split
  · exact ⟨g, h, rfl, rfl, rfl, rfl⟩
  · rename_i k _
    split
    · exact ⟨g, h, rfl, rfl, rfl, rfl⟩
    · rename_i r _
      split
      · exact ⟨g, h, rfl, rfl, rfl, rfl⟩
      · dsimp only
        rw [port_setPort]
        dsimp only
        have e : ∀ l, (State.port { s.noteReturn r with attn := { (s.noteReturn r).attn with results := l } } p) = s.port p := by
          intro l
          unfold State.port
          dsimp only
          rw [noteReturn_net]
        rw [e, h]
        exact ⟨_, rfl, withStatus_same _ _ _⟩

theorem shaper_id {n : Nat} (h : n < 8) : (rowOf (shaperReg n)).id = shaperReg n := by
  interval_cases n <;> decide

theorem shaper_quiet {n : Nat} (h : n < 8) : shaperReg n ∉ chatter := by
  interval_cases n <;> decide

end Sys2Proof.Machine
end

