-- ==== Sys2Proof/Laws/Spent.lean ====
section
/-! SUPPORT. What takes no record of a replay. -/

namespace Sys2Proof.Machine

/-- `b` has the records to come of `a`. -/
structure State.Spent (a b : State) : Prop where
  left : b.rp.left = a.rp.left

variable {s0 s t : State}

theorem spent_refl (s : State) : s.Spent s := ⟨rfl⟩

theorem spent_trans (h : s0.Spent s) (h' : s.Spent t) : s0.Spent t :=
  ⟨h'.left.trans h.left⟩

/-- A change elsewhere. -/
theorem spent_mk (h : s0.Spent s) {now : Nat} {pending : List Instr} {free : Nat} {regs : List (RegKey × Word)} {bcn : Beacon}
    {ev : Events} {ses : Sessions} {kv : Kv} {attn : Attn} {grams : List ((Nat × Nat) × Gram)} {net : Net} {lamp : Lamp}
    {tier : Tier} {start : Start} {flash : Flash} {ident : Ident} {ckpt : Ckpt} {health : Health} {rp : Replay} {pins : Pins}
    (e0 : rp.left = s.rp.left) :
    s0.Spent ⟨now, pending, free, regs, bcn, ev, ses, kv, attn, grams, net, lamp, tier, start, flash, ident, ckpt, health, rp,
      pins⟩ := ⟨e0.trans h.left⟩

theorem spent_ite {c : Prop} [Decidable c] (h : s0.Spent s) (h' : s0.Spent t) : s0.Spent (if c then s else t) := by
  split <;> assumption

theorem spent_foldl {α : Type} {f : State → α → State} (hf : ∀ s x, s0.Spent s → s0.Spent (f s x)) (l : List α)
    (h : s0.Spent s) : s0.Spent (l.foldl f s) := by
  induction l generalizing s with
  | nil => exact h
  | cons x l ih => exact ih (hf s x h)

theorem State.setReg_spent (h : s0.Spent s) {die sel : Nat} {r : RegId} {w : Word} : s0.Spent (s.setReg die sel r w) := spent_mk h rfl
theorem State.setFld_spent (h : s0.Spent s) {die sel : Nat} {f : Field} {v : Nat} : s0.Spent (s.setFld die sel f v) := spent_mk h rfl
theorem State.bumpBy_spent (h : s0.Spent s) {die sel : Nat} {f : Field} {n : Nat} : s0.Spent (s.bumpBy die sel f n) := spent_mk h rfl
theorem State.bump_spent (h : s0.Spent s) {die sel : Nat} {f : Field} : s0.Spent (s.bump die sel f) := spent_mk h rfl
theorem State.lower_spent (h : s0.Spent s) {die sel : Nat} {f : Field} {n : Nat} : s0.Spent (s.lower die sel f n) := spent_mk h rfl
theorem State.setSess_spent (h : s0.Spent s) {slot : Nat} {r : Session} : s0.Spent (s.setSess slot r) := spent_mk h rfl
theorem State.setPort_spent (h : s0.Spent s) {p : Nat} {x : Port} : s0.Spent (s.setPort p x) := spent_mk h rfl
theorem State.setPoolFree_spent (h : s0.Spent s) {die tier n : Nat} : s0.Spent (s.setPoolFree die tier n) := by
  unfold State.setPoolFree
  dsimp only
  exact State.setReg_spent h

set_option linter.unusedTactic false
set_option linter.unreachableTactic false

theorem State.settle_spent (h : s0.Spent s) {p : Nat} : s0.Spent (State.settle s p) := by
  unfold State.settle
  try dsimp only
  repeat' first | with_reducible assumption | with_reducible rfl | intro _ | with_reducible apply State.setPort_spent | with_reducible apply spent_ite | with_reducible apply spent_foldl | fail_if_no_progress with_reducible refine spent_mk ?_ rfl | split | dsimp only | decide

theorem State.enqueue_spent (h : s0.Spent s) {p cls flow len : Nat} {result : Option (Nat × ResKey)} {body : FrameBody} : s0.Spent (State.enqueue s p cls flow len result body) := by
  unfold State.enqueue
  try dsimp only
  repeat' first | with_reducible assumption | with_reducible rfl | with_reducible apply State.settle_spent | with_reducible apply State.setPort_spent | with_reducible apply spent_ite | fail_if_no_progress with_reducible refine spent_mk ?_ rfl | split | dsimp only | decide

theorem State.countHeld_spent (h : s0.Spent s) {p : Nat} : s0.Spent (State.countHeld s p) := by
  unfold State.countHeld
  try dsimp only
  repeat' first | with_reducible assumption | with_reducible rfl | intro _ | with_reducible apply State.setPort_spent | with_reducible apply State.bump_spent | with_reducible apply spent_ite | with_reducible apply spent_foldl | fail_if_no_progress with_reducible refine spent_mk ?_ rfl | split | dsimp only | decide

theorem State.noteReturn_spent (h : s0.Spent s) {r : Result} : s0.Spent (State.noteReturn s r) := by
  unfold State.noteReturn
  try dsimp only
  repeat' first | with_reducible assumption | with_reducible rfl | intro _ | with_reducible apply State.bump_spent | with_reducible apply spent_ite | fail_if_no_progress with_reducible refine spent_mk ?_ rfl | split | dsimp only | decide

theorem State.markStarted_spent (h : s0.Spent s) {p : Nat} {f : QFrame} : s0.Spent (State.markStarted s p f) := by
  unfold State.markStarted
  try dsimp only
  repeat' first | with_reducible assumption | with_reducible rfl | intro _ | with_reducible apply State.noteReturn_spent | with_reducible apply State.setPort_spent | with_reducible apply spent_ite | fail_if_no_progress with_reducible refine spent_mk ?_ rfl | split | dsimp only | decide

theorem State.untrack_spent (h : s0.Spent s) {k : KeyRef} {reqId : Nat} : s0.Spent (State.untrack s k reqId) := by
  unfold State.untrack
  try dsimp only
  repeat' first | with_reducible assumption | with_reducible rfl | intro _ | with_reducible apply spent_ite | fail_if_no_progress with_reducible refine spent_mk ?_ rfl | split | dsimp only | decide

theorem State.untrackFrame_spent (h : s0.Spent s) {f : QFrame} : s0.Spent (State.untrackFrame s f) := by
  unfold State.untrackFrame
  try dsimp only
  repeat' first | with_reducible assumption | with_reducible rfl | with_reducible apply State.untrack_spent | with_reducible apply spent_ite | fail_if_no_progress with_reducible refine spent_mk ?_ rfl | split | dsimp only | decide

theorem State.pick_spent (h : s0.Spent s) {p : Nat} : s0.Spent (State.pick s p) := by
  unfold State.pick
  try dsimp only
  repeat' first | with_reducible assumption | with_reducible rfl | with_reducible apply State.settle_spent | with_reducible apply State.countHeld_spent | with_reducible apply State.setPort_spent | with_reducible apply State.markStarted_spent | with_reducible apply State.untrackFrame_spent | with_reducible apply spent_ite | fail_if_no_progress with_reducible refine spent_mk ?_ rfl | split | dsimp only | decide

theorem State.send_spent (h : s0.Spent s) {p cls flow len : Nat} {result : Option (Nat × ResKey)} {body : FrameBody} : s0.Spent (State.send s p cls flow len result body) := by
  unfold State.send
  try dsimp only
  repeat' first | with_reducible assumption | with_reducible rfl | with_reducible apply State.enqueue_spent | with_reducible apply State.pick_spent | with_reducible apply spent_ite | split | dsimp only | decide

theorem State.sendSeg_spent (h : s0.Spent s) {d : Dest} {kind type status reason reqId : Nat} {response : Bool} {result : Option (Nat × ResKey)} {count len : Nat} {seg : Nat × List Byte} : s0.Spent (State.sendSeg s d kind type status reason reqId response result count len seg) := by
  unfold State.sendSeg
  try dsimp only
  repeat' first | with_reducible assumption | with_reducible rfl | with_reducible apply State.send_spent | with_reducible apply spent_ite | fail_if_no_progress with_reducible refine spent_mk ?_ rfl | split | dsimp only | decide

theorem State.sendMsg_spent (h : s0.Spent s) {d : Dest} {kind type status reason reqId : Nat} {response : Bool} {result : Option (Nat × ResKey)} {body : List Byte} : s0.Spent (State.sendMsg s d kind type status reason reqId response result body) := by
  unfold State.sendMsg
  try dsimp only
  repeat' first | with_reducible assumption | with_reducible rfl | intro _ | with_reducible apply State.sendSeg_spent | with_reducible apply spent_ite | with_reducible apply spent_foldl | fail_if_no_progress with_reducible refine spent_mk ?_ rfl | split | dsimp only | decide

theorem State.setRing_spent (h : s0.Spent s) {die : Nat} {l : List EvtRec} : s0.Spent (State.setRing s die l) := by
  unfold State.setRing
  try dsimp only
  repeat' first | with_reducible assumption | with_reducible rfl | with_reducible apply spent_ite | fail_if_no_progress with_reducible refine spent_mk ?_ rfl | split | dsimp only | decide

theorem State.setAlerts_spent (h : s0.Spent s) {die : Nat} {l : List Nat} : s0.Spent (State.setAlerts s die l) := by
  unfold State.setAlerts
  try dsimp only
  repeat' first | with_reducible assumption | with_reducible rfl | with_reducible apply spent_ite | fail_if_no_progress with_reducible refine spent_mk ?_ rfl | split | dsimp only | decide

theorem State.eventFrame_spent (h : s0.Spent s) {sub : Sub} {r : EvtRec} : s0.Spent (State.eventFrame s sub r) := by
  unfold State.eventFrame
  try dsimp only
  repeat' first | with_reducible assumption | with_reducible rfl | with_reducible apply State.sendMsg_spent | with_reducible apply spent_ite | fail_if_no_progress with_reducible refine spent_mk ?_ rfl | split | dsimp only | decide

theorem State.ibi_spent (h : s0.Spent s) {byte : Nat} : s0.Spent (State.ibi s byte) := by
  unfold State.ibi
  try dsimp only
  repeat' first | with_reducible assumption | with_reducible rfl | with_reducible apply spent_ite | fail_if_no_progress with_reducible refine spent_mk ?_ rfl | split | dsimp only | decide

theorem State.logEvent_spent (h : s0.Spent s) {die : Nat} {r : EvtRec} : s0.Spent (State.logEvent s die r) := by
  unfold State.logEvent
  try dsimp only
  repeat' first | with_reducible assumption | with_reducible rfl | with_reducible apply State.setRing_spent | with_reducible apply State.setFld_spent | with_reducible apply State.setAlerts_spent | with_reducible apply State.ibi_spent | with_reducible apply spent_ite | split | dsimp only | decide

theorem State.raise_spent (h : s0.Spent s) {die sub : Nat} {a : EvtArgs} : s0.Spent (State.raise s die sub a) := by
  unfold State.raise
  try dsimp only
  repeat' first | with_reducible assumption | with_reducible rfl | intro _ | with_reducible apply State.eventFrame_spent | with_reducible apply State.logEvent_spent | with_reducible apply spent_ite | with_reducible apply spent_foldl | split | dsimp only | decide

theorem State.setOnce_spent (h : s0.Spent s) {o : Once} : s0.Spent (State.setOnce s o) := by
  unfold State.setOnce
  try dsimp only
  repeat' first | with_reducible assumption | with_reducible rfl | intro _ | with_reducible apply spent_ite | fail_if_no_progress with_reducible refine spent_mk ?_ rfl | split | dsimp only | decide

theorem State.raiseOnce_spent (h : s0.Spent s) {die sub item : Nat} {a : EvtArgs} : s0.Spent (State.raiseOnce s die sub item a) := by
  unfold State.raiseOnce
  try dsimp only
  repeat' first | with_reducible assumption | with_reducible rfl | with_reducible apply State.setOnce_spent | with_reducible apply State.raise_spent | with_reducible apply spent_ite | fail_if_no_progress with_reducible refine spent_mk ?_ rfl | split | dsimp only | decide

theorem State.closeRec_spent (h : s0.Spent s) : s0.Spent (State.closeRec s) := by
  unfold State.closeRec
  try dsimp only
  repeat' first | with_reducible assumption | with_reducible rfl | with_reducible apply State.setFld_spent | with_reducible apply spent_ite | fail_if_no_progress with_reducible refine spent_mk ?_ rfl | split | dsimp only | decide

theorem State.addRec_spent (h : s0.Spent s) {status port ctx ep len : Nat} {body : RecBody} : s0.Spent (State.addRec s status port ctx ep len body) := by
  unfold State.addRec
  try dsimp only
  repeat' first | with_reducible assumption | with_reducible rfl | with_reducible apply State.setFld_spent | with_reducible apply State.raiseOnce_spent | with_reducible apply State.closeRec_spent | with_reducible apply State.raise_spent | with_reducible apply State.setReg_spent | with_reducible apply spent_ite | fail_if_no_progress with_reducible refine spent_mk ?_ rfl | split | dsimp only | decide

theorem State.diverge_spent (h : s0.Spent s) {msg : Nat} : s0.Spent (State.diverge s msg) := by
  unfold State.diverge
  try dsimp only
  repeat' first | with_reducible assumption | with_reducible rfl | with_reducible apply State.bump_spent | with_reducible apply State.setFld_spent | with_reducible apply State.raise_spent | with_reducible apply spent_ite | split | dsimp only | decide

theorem State.formed_spent (h : s0.Spent s) {msg port : Nat} {f : List Byte} : s0.Spent (State.formed s msg port f) := by
  unfold State.formed
  try dsimp only
  repeat' first | with_reducible assumption | with_reducible rfl | with_reducible apply State.addRec_spent | with_reducible apply State.diverge_spent | with_reducible apply spent_ite | fail_if_no_progress with_reducible refine spent_mk ?_ rfl | split | dsimp only | decide

theorem State.formResult_spent (h : s0.Spent s) {r : Result} : s0.Spent (State.formResult s r) := by
  unfold State.formResult
  try dsimp only
  repeat' first | with_reducible assumption | with_reducible rfl | intro _ | with_reducible apply State.formed_spent | with_reducible apply spent_ite | fail_if_no_progress with_reducible refine spent_mk ?_ rfl | split | dsimp only | decide

theorem State.formResults_spent (h : s0.Spent s) : s0.Spent (State.formResults s) := by
  unfold State.formResults
  try dsimp only
  repeat' first | with_reducible assumption | with_reducible rfl | intro _ | with_reducible apply State.formResult_spent | with_reducible apply spent_ite | with_reducible apply spent_foldl | split | dsimp only | decide

end Sys2Proof.Machine
end

