-- ==== Sys2Proof/Laws/PinCmds.lean ====
section
/-! SUPPORT. Helpers about clocks, the sideband and replay. -/

namespace Sys2Proof.Machine

variable {s s0 t : State}

theorem ccc_reply (s : State) (l : List Byte) : (s.cccReply l).pins.ccc = l := rfl

theorem getpid_reply (s : State) : (s.ccc .getpid).pins.ccc = be 6 (Config.mipiId % 2 ^ 15 * 2 ^ 33 + Config.serial % 2 ^ 32) := by
  rw [State.ccc, ccc_reply]

theorem be_length (n v : Nat) : (be n v).length = n := by
  induction n with
  | zero => rfl
  | succ k ih => rw [be, List.length_cons, ih]

theorem eth_bits (w : Nat) (hw : w < 16) (k : Nat) (hk : k < 4) :
    (if w / 2 ^ k % 2 = 1 then w - 2 ^ k else w) % 16 / 2 ^ k % 2 = 0
    ∧ ((if w / 2 ^ k % 2 = 1 then w - 2 ^ k else w) + 2 ^ k) % 16 / 2 ^ k % 2 = 1 := by
  have h : ∀ w : Fin 16, ∀ k : Fin 4, (if w.val / 2 ^ k.val % 2 = 1 then w.val - 2 ^ k.val else w.val) % 16 / 2 ^ k.val % 2 = 0
    ∧ ((if w.val / 2 ^ k.val % 2 = 1 then w.val - 2 ^ k.val else w.val) + 2 ^ k.val) % 16 / 2 ^ k.val % 2 = 1 := by decide
  exact h ⟨w, hw⟩ ⟨k, hk⟩

theorem setClk_ok (s : State) (c : RefClk) (v : Bool) : (s.setClk c v).clkOk c = v ∧ (s.setClk c v).fld 0 0 Fld.BD_CLK_HOLDOVER = s.fld 0 0 Fld.BD_CLK_HOLDOVER
    ∧ (s.setClk c v).fires = s.fires := by
  cases c with
  | core =>
    unfold State.setClk State.clkOk
    dsimp only
    refine ⟨?_, fld_setFld_other _ _ (by decide) (by decide) (by decide) (by decide) _ _, rfl⟩
    rw [fld_setFld_self _ _ _ _ _ (by decide) (by decide)]
    cases v <;> rfl
  | eth q =>
    unfold State.setClk State.clkOk
    dsimp only
    refine ⟨?_, fld_setFld_other _ _ (by decide) (by decide) (by decide) (by decide) _ _, rfl⟩
    rw [fld_setFld_self _ _ _ _ _ (by decide) (by decide)]
    have h := eth_bits (s.fld 0 0 Fld.BD_CLK_ETH_OK) (fld_lt s 0 0 Fld.BD_CLK_ETH_OK) (q % 4) (Nat.mod_lt _ (by decide))
    rw [show (2 : Nat) ^ (Fld.BD_CLK_ETH_OK.hi - Fld.BD_CLK_ETH_OK.lo + 1) = 16 from rfl]
    cases v with
    | true => rw [if_pos rfl, h.2]; rfl
    | false => rw [if_neg (by decide), h.1]; rfl

theorem clkOk_of (h : t.reg 0 0 Reg.BD_CLK = s.reg 0 0 Reg.BD_CLK) (c : RefClk) : t.clkOk c = s.clkOk c := by
  cases c <;> (unfold State.clkOk State.fld; dsimp only; rw [h])

theorem clkOk_field {f : Field} {v : Nat} (hf : f = Fld.BD_CLK_LOSSES ∨ f = Fld.BD_CLK_HOLDOVER) (s : State) (c : RefClk) :
    (s.setFld 0 0 f v).clkOk c = s.clkOk c := by
  rcases hf with rfl | rfl
  · cases c with
    | core => unfold State.clkOk; dsimp only; rw [fld_setFld_other _ _ (by decide) (by decide) (by decide) (by decide)]
    | eth q => unfold State.clkOk; dsimp only; rw [fld_setFld_other _ _ (by decide) (by decide) (by decide) (by decide)]
  · cases c with
    | core => unfold State.clkOk; dsimp only; rw [fld_setFld_other _ _ (by decide) (by decide) (by decide) (by decide)]
    | eth q => unfold State.clkOk; dsimp only; rw [fld_setFld_other _ _ (by decide) (by decide) (by decide) (by decide)]

theorem clkLoss_spec (s : State) (c : RefClk) : (s.clkLoss c).clkOk c = false ∧ (c = .core → (s.clkLoss c).fld 0 0 Fld.BD_CLK_HOLDOVER = 1) := by
  have h0 : (((s.setClk c false).bump 0 0 Fld.BD_CLK_LOSSES).raise 0 0xA0 { alert := true, a0 := clkNo c }).clkOk c = false := by
    rw [clkOk_of ((State.raise_reported (reported_refl _)).reg _ _ _ (by decide))]
    unfold State.bump State.bumpBy
    rw [clkOk_field (.inl rfl)]
    exact (setClk_ok s c false).1
  unfold State.clkLoss
  generalize ((s.setClk c false).bump 0 0 Fld.BD_CLK_LOSSES).raise 0 0xA0 { alert := true, a0 := clkNo c } = x at h0
  cases c with
  | core =>
    dsimp only
    refine ⟨?_, fun _ => fld_setFld_self _ _ _ _ _ (by decide) (by decide)⟩
    rw [clkOk_field (.inr rfl)]
    exact h0
  | eth q =>
    dsimp only
    refine ⟨?_, fun e => nomatch e⟩
    have hh : x.Hale ((x.clkPorts q).foldl (fun s p => s.portDown p) x) := hale_foldl (fun _ _ h => State.portDown_hale h) _ (hale_refl _)
    exact (clkOk_of (hh.reg _ _ _ (by decide)) _).trans h0

theorem clkReturn_spec (s : State) (c : RefClk) : (s.clkReturn c).clkOk c = true
    ∧ (c = .core → s.fires = false → (s.clkReturn c).fld 0 0 Fld.BD_CLK_HOLDOVER = 0)
    ∧ (c = .core → s.fires = true → (s.clkReturn c).pins.coreBack = true ∧ (s.clkReturn c).fld 0 0 Fld.BD_CLK_HOLDOVER = s.fld 0 0 Fld.BD_CLK_HOLDOVER) := by
  have hr := State.raise_reported (reported_refl (s.setClk c true)) (die := 0) (sub := 0xA1) (a := { a0 := clkNo c })
  have h0 : ((s.setClk c true).raise 0 0xA1 { a0 := clkNo c }).clkOk c = true := by
    rw [clkOk_of (hr.reg _ _ _ (by decide))]
    exact (setClk_ok s c true).1
  have h1 : ((s.setClk c true).raise 0 0xA1 { a0 := clkNo c }).fld 0 0 Fld.BD_CLK_HOLDOVER = s.fld 0 0 Fld.BD_CLK_HOLDOVER :=
    (raise_fld _ _ _ _ _ _ (by decide)).trans (setClk_ok s c true).2.1
  have h2 : ((s.setClk c true).raise 0 0xA1 { a0 := clkNo c }).fires = s.fires :=
    (congrArg (fun b : Beacon => b.trk.fires) hr.bcn).trans (setClk_ok s c true).2.2
  unfold State.clkReturn
  generalize (s.setClk c true).raise 0 0xA1 { a0 := clkNo c } = x at h0 h1 h2
  cases c with
  | core =>
    dsimp only
    rw [h2]
    refine ⟨?_, fun _ hf => ?_, fun _ hf => ?_⟩
    · split
      · exact h0
      · rw [clkOk_field (.inr rfl)]
        exact h0
    · rw [if_neg (by rw [hf]; decide)]
      exact fld_setFld_self _ _ _ _ _ (by decide) (by decide)
    · rw [if_pos hf]
      exact ⟨rfl, h1⟩
  | eth q => exact ⟨h0, fun e => (nomatch e), fun e => nomatch e⟩

theorem inject_eq (hr : s.running = true) (hp : s.replaying = true) {n : Nat} : exec (.replayInject n) s = .next
    (match (if s.fires then (s.tick n).fireDue false else s.tick n).rp.left with
      | [] => (if s.fires then (s.tick n).fireDue false else s.tick n).replayDone
      | r :: l =>
        if (if s.fires then (s.tick n).fireDue false else s.tick n).recordDue r then
          (if l.isEmpty && ((if s.fires then (s.tick n).fireDue false else s.tick n).inject r).rp.left.isEmpty then
            ((if s.fires then (s.tick n).fireDue false else s.tick n).inject r).replayDone
          else (if s.fires then (s.tick n).fireDue false else s.tick n).inject r)
        else (if s.fires then (s.tick n).fireDue false else s.tick n)) := by
  unfold exec
  dsimp only
  unfold execReplayInject
  rw [if_pos (by rw [hr, hp]; rfl)]
  rfl

theorem injected_left (s : State) (r : Rec) : (s.injected r).rp.left = s.rp.left.drop 1 := rfl

theorem injected_rec (s : State) (r : Rec) : (s.injected r).reg 0 0 Reg.RP_REC = BitVec.ofNat 64 r.rseq := by
  unfold State.injected State.reg State.setReg
  exact regGet_regSet_self _ _ _

theorem replayDone_all (s : State) : s.replayDone.fld 0 0 Fld.RP_STATUS_STATE = 4 ∧ s.replayDone.bcn.frozen.isSome = true
    ∧ s.replayDone.rp.left = s.rp.left := by
  unfold State.replayDone
  extract_lets w0 w1 _ w2
  have h1 : s.Spent w1 := spent_foldl (fun _ _ h => State.diverge_spent h) _ (State.formResults_spent (spent_refl s))
  have h2 : w2.rp.left = w1.rp.left := rfl
  have hb : w2.bcn.frozen.isSome = true := rfl
  clear_value w1 w2
  have hm : (w2.setFld 0 0 Fld.RP_STATUS_STATE 4).Mute ((w2.setFld 0 0 Fld.RP_STATUS_STATE 4).raise 0 0x9B {}) := State.raise_mute (mute_refl _)
  have hr := State.raise_reported (reported_refl (w2.setFld 0 0 Fld.RP_STATUS_STATE 4)) (die := 0) (sub := 0x9B) (a := {})
  refine ⟨?_, ?_, ?_⟩
  · unfold State.fld
    rw [hm.reg _ _ _ (by decide)]
    exact fld_setFld_self _ _ _ _ _ (by decide) (by decide)
  · rw [hr.bcn]
    exact hb
  · rw [hm.rp]
    exact h2.trans h1.left

theorem replayDone_spec (s : State) : s.replayDone.fld 0 0 Fld.RP_STATUS_STATE = 4 ∧ s.replayDone.bcn.frozen.isSome = true :=
  ⟨(replayDone_all s).1, (replayDone_all s).2.1⟩

end Sys2Proof.Machine
end

