-- ==== Sys2Proof/Tests/Slice0.lean ====
section
/-! SUPPORT. Tests. -/

namespace Sys2Proof.Tests

open Sys2Proof Sys2Proof.Machine

theorem test_idle : step State.reset = .next State.reset := rfl

end Sys2Proof.Tests
end

section
/-! Step positions (R6): both encodings of S:L:P are mixed-radix numerals, and the ordering value is the linear position of 256 layers. -/

namespace Sys2Proof.Proofs

open Sys2Proof.Machine

/-- Two numerals with last digits below the base compare by their leading parts, then by their last digits. -/
theorem mul_add_lt_mul_add_iff {base a b c d : Nat} (hb : b < base) (hd : d < base) :
    a * base + b < c * base + d ↔ a < c ∨ a = c ∧ b < d := by
  have carry {m n r : Nat} (hr : r < base) (h : m < n) : m * base + r < n * base :=
    Nat.mul_comm m base ▸ Nat.mul_add_lt_mul_of_lt_of_lt h hr
  obtain h | rfl | h := Nat.lt_trichotomy a c
  · have := carry hb h
    omega
  · omega
  · have := carry hd h
    omega

theorem posLin_lt_posLin_iff {layers S L P S' L' P' : Nat} (hL : L < layers) (hL' : L' < layers) (hP : P < 256) (hP' : P' < 256) :
    posLin layers S L P < posLin layers S' L' P' ↔ S < S' ∨ S = S' ∧ (L < L' ∨ L = L' ∧ P < P') := by
  have digits : S * layers + L = S' * layers + L' ↔ S = S' ∧ L = L' := by
    have lt := mul_add_lt_mul_add_iff (a := S) (c := S') hL hL'
    have gt := mul_add_lt_mul_add_iff (a := S') (c := S) hL' hL
    omega
  unfold posLin
  rw [mul_add_lt_mul_add_iff hP hP', mul_add_lt_mul_add_iff hL hL', digits]
  omega

theorem posOrd_eq_posLin (S L P : Nat) : posOrd S L P = posLin 256 S L P := by
  unfold posOrd posLin
  omega

theorem posOrd_lt_posOrd_iff {S L P S' L' P' : Nat} (hL : L < 256) (hL' : L' < 256) (hP : P < 256) (hP' : P' < 256) :
    posOrd S L P < posOrd S' L' P' ↔ S < S' ∨ S = S' ∧ (L < L' ∨ L = L' ∧ P < P') := by
  rw [posOrd_eq_posLin, posOrd_eq_posLin, posLin_lt_posLin_iff hL hL' hP hP']

theorem ordToLin_posOrd {layers S L P : Nat} (hL : L < 256) (hP : P < 256) : ordToLin layers (posOrd S L P) = posLin layers S L P := by
  unfold ordToLin posOrd
  have step : (S * 65536 + L * 256 + P) / 65536 = S := by omega
  have layer : (S * 65536 + L * 256 + P) / 256 % 256 = L := by omega
  have sub : (S * 65536 + L * 256 + P) % 256 = P := by omega
  rw [step, layer, sub]

/-- Settles O8: the ordering value and the linear position both compare as S, then L, then P. -/
theorem positionsOrdered : Obligations.PositionsOrdered := by
  intro S L P S' L' P' layers hL hL' hlayers hP hP'
  have ord := posOrd_lt_posOrd_iff (S := S) (S' := S') (hL.trans_le hlayers) (hL'.trans_le hlayers) hP hP'
  exact ⟨rfl, ord, (posLin_lt_posLin_iff hL hL' hP hP').trans ord.symm,
    ordToLin_posOrd (hL.trans_le hlayers) hP, linToOrd_posLin hL hP⟩

end Sys2Proof.Proofs
end

section
/-! PT16 tiles (R101, R104, R109): the data slot is the cleaned input, two bytes an element, and the sidecar after the header is zero up to
the CRC. -/

namespace Sys2Proof.Proofs

open Sys2Proof.Machine

theorem length_littleEndian (n v : Nat) : (le n v).length = n := by
  induction n generalizing v with
  | zero => rfl
  | succ n ih => simp [le, ih]

/-- R101: the low byte of element `e` is byte 2e, the high byte is byte 2e + 1. -/
theorem getElem?_flatten_map_le_two (l : List Nat) (e : Nat) :
    (l.map (le 2)).flatten[2 * e]? = l[e]?.map (BitVec.ofNat 8)
    ∧ (l.map (le 2)).flatten[2 * e + 1]? = l[e]?.map (fun v => BitVec.ofNat 8 (v / 256)) := by
  induction l generalizing e with
  | nil => simp
  | cons v l ih =>
    cases e with
    | zero => simp [le]
    | succ e => simpa [le, Nat.mul_succ] using ih e

theorem length_zeros (n : Nat) : (zeros n).length = n :=
  List.length_replicate

theorem getElem_zeros {n i : Nat} (h : i < (zeros n).length) : (zeros n)[i] = 0 :=
  List.getElem_replicate h

/-! ### Where the parts of a stored tile stand (R104) -/

theorem length_header (t : Tile) : t.header.length = 16 := by
  simp [Tile.header, length_littleEndian]

theorem bytes_getElem?_slotData (t : Tile) {i : Nat} (h : i < t.slotData.length) : t.bytes[i]? = t.slotData[i]? := by
  simp [Tile.bytes, Tile.body, h, Nat.lt_add_right]

theorem bytes_getElem?_header (t : Tile) {i : Nat} (h : i < 16) : t.bytes[t.slotData.length + i]? = t.header[i]? := by
  simp [Tile.bytes, Tile.body, h, length_header, Nat.lt_add_right]

theorem bytes_getElem?_outCount (t : Tile) : t.bytes[t.slotData.length + 2]? = some (BitVec.ofNat 8 t.outliers.length) :=
  bytes_getElem?_header t (by decide)

theorem bytes_getElem?_clampCount (t : Tile) :
    t.bytes[t.slotData.length + 4]? = some (BitVec.ofNat 8 t.clampCount)
    ∧ t.bytes[t.slotData.length + 5]? = some (BitVec.ofNat 8 (t.clampCount / 256)) :=
  ⟨bytes_getElem?_header t (by decide), bytes_getElem?_header t (by decide)⟩

theorem body_of_unscaled {t : Tile} (hs : t.scales = []) (ho : t.outliers = []) : t.body = t.slotData ++ (t.header ++ zeros 104) := by
  simp [Tile.body, hs, ho, zeros]

theorem bytes_getElem?_sidecar_of_unscaled {t : Tile} (hs : t.scales = []) (ho : t.outliers = []) {i : Nat} (hi : 16 ≤ i) (hi' : i < 112) :
    t.bytes[t.slotData.length + i]? = some 0 := by
  have inZeros : i - 16 < 104 := by omega
  simp [Tile.bytes, body_of_unscaled hs ho, List.getElem?_append_right, List.getElem?_append_left, length_header, length_zeros, hi, inZeros,
    getElem_zeros]

/-! ### PT16 (R107, R109) -/

theorem slotData_of_pt16 {t : Tile} (h : t.enc = 0) : t.slotData = (t.elems.map (le 2)).flatten := by
  simp [Tile.slotData, h]

theorem length_slotData_of_pt16 {t : Tile} (h : t.enc = 0) : t.slotData.length = 2 * t.elems.length := by
  simp [slotData_of_pt16 h, Function.comp_def, length_littleEndian, Nat.mul_comm]

theorem bytes_getElem?_element_of_pt16 {t : Tile} (h : t.enc = 0) {b : BF16} {e : Nat} (hb : t.elems[e]? = some b.toNat) :
    t.bytes[2 * e]? = some (b.setWidth 8) ∧ t.bytes[2 * e + 1]? = some ((b >>> 8).setWidth 8) := by
  obtain ⟨he, -⟩ := List.getElem?_eq_some_iff.mp hb
  have hlen := length_slotData_of_pt16 h
  obtain ⟨low, high⟩ := getElem?_flatten_map_le_two t.elems e
  rw [bytes_getElem?_slotData t (by omega), bytes_getElem?_slotData t (by omega), slotData_of_pt16 h, low, high, hb]
  simp [BitVec.ofNat_toNat, ← BitVec.toNat_inj, Nat.shiftRight_eq_div_pow]

/-- R107 and R81: the elements of a PT16 tile are the cleaned input and +0 up to the 16th row. -/
theorem packTile_pt16_elems {dim hdim outShift rows : Nat} {outEn : Bool} {id : TileId} {input : List BF16}
    (hlen : input.length = rows * dim) (hrows : rows ≤ 16) :
    (packTile dim hdim 0 outEn outShift rows id input).elems
      = (input.map bfClean ++ List.replicate (16 * dim - rows * dim) 0).map BitVec.toNat := by
  have fits : rows * dim ≤ 16 * dim := Nat.mul_le_mul_right dim hrows
  have clean : bfClean 0#16 = 0#16 := rfl
  have whole : (input.map (BitVec.toNat ∘ bfClean)).take (16 * dim) = input.map (BitVec.toNat ∘ bfClean) :=
    List.take_of_length_le (by simpa [hlen] using fits)
  simp [packTile, ← hlen, List.take_append, whole, clean]

/-- R109: the sidecar fields that PT16 leaves unused. -/
theorem packTile_pt16_sidecar (dim hdim outShift rows : Nat) (outEn : Bool) (id : TileId) (input : List BF16) :
    (packTile dim hdim 0 outEn outShift rows id input).scales = []
    ∧ (packTile dim hdim 0 outEn outShift rows id input).outliers = []
    ∧ (packTile dim hdim 0 outEn outShift rows id input).clampCount = 0 :=
  ⟨rfl, rfl, rfl⟩

/-- Settles O10: the slot is the list of the elements' bytes, and with no scales and no outliers the sidecar is header, zeros and CRC. -/
theorem pt16StoresInput : Obligations.Pt16StoresInput := by
  intro dim hdim outShift rows outEn id input t hlen _ hrows ht
  have enc : t.enc = 0 := ht ▸ rfl
  have elems : t.elems = (input.map bfClean ++ List.replicate (16 * dim - rows * dim) 0).map BitVec.toNat :=
    ht ▸ packTile_pt16_elems hlen hrows
  obtain ⟨scales, outliers, clampCount⟩ : t.scales = [] ∧ t.outliers = [] ∧ t.clampCount = 0 :=
    ht ▸ packTile_pt16_sidecar dim hdim outShift rows outEn id input
  have fits : rows * dim ≤ 16 * dim := Nat.mul_le_mul_right dim hrows
  have slot : t.slotData.length = 32 * dim := by
    rw [length_slotData_of_pt16 enc, elems, List.length_map, List.length_append, List.length_map, List.length_replicate, hlen]
    omega
  refine ⟨slot, fun e he => ?valid, fun e he he' => ?padding, fun i hi hi' => ?zeros, ?outCount, ?clampCount⟩
  case valid =>
    exact bytes_getElem?_element_of_pt16 enc (by simp [elems, List.getElem?_append_left, he])
  case padding =>
    have inPadding : e - rows * dim < 16 * dim - rows * dim := by omega
    exact bytes_getElem?_element_of_pt16 (b := 0) enc (by simp [elems, List.getElem?_append_right, hlen, he, inPadding])
  case zeros => exact slot ▸ bytes_getElem?_sidecar_of_unscaled scales outliers hi hi'
  case outCount => simpa [slot, outliers] using bytes_getElem?_outCount t
  case clampCount => simpa [slot, clampCount] using bytes_getElem?_clampCount t

end Sys2Proof.Proofs
end

section
/-! Control-space addresses (R470 to R472): an address is mapped exactly where its fields give the place of a row of the register table. -/

namespace Sys2Proof.Proofs

open Sys2Proof.Machine

/-- R471: the numbers above 0x12 belong to no block. -/
theorem regRowsOf_eq_nil {blk : Nat} (h : 0x12 < blk) : regRowsOf blk = [] := by
  obtain ⟨n, rfl⟩ := Nat.exists_eq_add_of_le' (Nat.succ_le_of_lt h)
  rfl

/-- R471: a block's rows carry its number, at offsets that are multiples of 8 and fit 24 bits. -/
theorem place_of_mem_regRowsOf (blk : Nat) : ∀ r ∈ regRowsOf blk, r.id.blk = blk ∧ r.id.off % 8 = 0 ∧ r.id.off < 2 ^ 24 := by
  by_cases past : 0x12 < blk
  · simp [regRowsOf_eq_nil past]
  · interval_cases blk <;> decide

/-- R471: no two rows of a block share an offset. -/
theorem nodup_offsets_regRowsOf (blk : Nat) : ((regRowsOf blk).map (·.id.off)).Nodup := by
  by_cases past : 0x12 < blk
  · simp [regRowsOf_eq_nil past]
  · interval_cases blk <;> decide

/-- The lookup by offset is membership: it finds the only row there is. -/
theorem find?_off_eq_some_iff {blk off : Nat} {r : RegRow} :
    (regRowsOf blk).find? (fun x => x.id.off == off) = some r ↔ r ∈ regRowsOf blk ∧ r.id.off = off := by
  constructor
  · intro h
    exact ⟨List.mem_of_find?_eq_some h, by simpa using List.find?_some h⟩
  · rintro ⟨hr, rfl⟩
    cases h : (regRowsOf blk).find? (fun x => x.id.off == r.id.off) with
    | none => simpa using List.find?_eq_none.mp h r hr
    | some x =>
      have same : x.id.off = r.id.off := by simpa using List.find?_some h
      rw [List.inj_on_of_nodup_map (nodup_offsets_regRowsOf blk) (List.mem_of_find?_eq_some h) hr same]

/-- R472: the row found at an offset is the block's one row there, if it exists on the die. -/
theorem findRow_eq_some_iff {die blk off : Nat} {r : RegRow} :
    findRow die blk off = some r ↔ (r ∈ regRowsOf blk ∧ r.id.off = off) ∧ (die = 0 ∨ r.onDie1 = true) := by
  rw [← find?_off_eq_some_iff]
  unfold findRow
  cases (regRowsOf blk).find? (fun x => x.id.off == off) with
  | none => simp
  | some x =>
    suffices x = r → ((die = 0 ∨ x.onDie1 = true) ↔ die = 0 ∨ r.onDie1 = true) by simpa [and_comm] using this
    rintro rfl
    rfl

/-- R470: bits 47:41 are zero and offsets are multiples of 8 in every mapped address. -/
theorem mapAddr_eq_none_of_malformed {a : Nat} (h : a / 2 ^ 41 ≠ 0 ∨ a % 8 ≠ 0) : mapAddr a = none :=
  if_pos h

/-- R470 and R472: what it takes for an address to be mapped. -/
theorem mapAddr_eq_some_iff {a die : Nat} {r : RegRow} :
    mapAddr a = some (die, r) ↔ (a / 2 ^ 41 = 0 ∧ a % 8 = 0) ∧ a / 2 ^ 40 % 2 = die
      ∧ findRow (a / 2 ^ 40 % 2) (a / 2 ^ 24 % 2 ^ 16) (a % 2 ^ 24) = some r := by
  by_cases h : a / 2 ^ 41 = 0 ∧ a % 8 = 0
  · rw [mapAddr, if_neg (by omega)]
    cases findRow (a / 2 ^ 40 % 2) (a / 2 ^ 24 % 2 ^ 16) (a % 2 ^ 24) with
    | none => simp only [reduceCtorEq, and_false]
    | some x => simp only [Option.some.injEq, Prod.mk.injEq, h, and_self, true_and]
  · rw [mapAddr_eq_none_of_malformed (by omega)]
    simp only [reduceCtorEq, h, false_and]

theorem mapAddr_eq_none_of_lt_block {a : Nat} (h : 0x12 < a / 2 ^ 24 % 2 ^ 16) : mapAddr a = none := by
  refine Option.eq_none_iff_forall_ne_some.mpr fun ⟨die, r⟩ mapped => ?_
  obtain ⟨-, -, hrow⟩ := mapAddr_eq_some_iff.mp mapped
  obtain ⟨⟨hr, -⟩, -⟩ := findRow_eq_some_iff.mp hrow
  exact List.not_mem_nil (regRowsOf_eq_nil h ▸ hr)

/-- Settles O9: an address is the numeral its fields write, and the table's rows stand at places that fit those fields. -/
theorem addressFields : Obligations.AddressFields := by
  intro a _
  refine ⟨fun high => ?high, fun past => ?past, fun unaligned => ?unaligned, fun die r h => ?mapped,
    fun blk hblk r hr die hdie on1 ha => ?listed⟩
  case high => exact mapAddr_eq_none_of_malformed (.inl high)
  case past => exact mapAddr_eq_none_of_lt_block past
  case unaligned => exact mapAddr_eq_none_of_malformed (.inr unaligned)
  case mapped =>
    obtain ⟨⟨high, -⟩, rfl, hrow⟩ := mapAddr_eq_some_iff.mp h
    obtain ⟨⟨hr, off⟩, -⟩ := findRow_eq_some_iff.mp hrow
    obtain ⟨block, -⟩ := place_of_mem_regRowsOf _ r hr
    exact ⟨rfl, block, off, by omega⟩
  case listed =>
    obtain ⟨-, aligned, fits⟩ := place_of_mem_regRowsOf blk r hr
    have dieOf : a / 2 ^ 40 % 2 = die := by omega
    have blkOf : a / 2 ^ 24 % 2 ^ 16 = blk := by omega
    have offOf : a % 2 ^ 24 = r.id.off := by omega
    have onDie : die = 0 ∨ r.onDie1 = true := by
      obtain rfl | rfl : die = 0 ∨ die = 1 := by omega
      · exact .inl rfl
      · exact .inr (on1 rfl)
    refine mapAddr_eq_some_iff.mpr ⟨by omega, dieOf, ?_⟩
    rw [dieOf, blkOf, offOf]
    exact findRow_eq_some_iff.mpr ⟨⟨hr, rfl⟩, onDie⟩

end Sys2Proof.Proofs
end

section
/-! What every step keeps (R7, R358, R367): corollaries of `exec_onward`, which says where any command leads. -/

namespace Sys2Proof.Proofs

open Sys2Proof Sys2Proof.Machine

/-- What a command keeps of the state it runs on. -/
theorem exec_onward_of_next {c : Instr} {s t : State} (h : exec c s = .next t) :
    s.Onward (unsettling c = false) (sparing c = true) t :=
  (exec_onward c (onward_refl s)).next t h

/-- An empty queue idles; otherwise a step is the front's effect on the state without it. -/
theorem step_next_cases {s t : State} (h : step s = .next t) :
    (s.pending = [] ∧ t = s) ∨ ∃ c l, s.pending = c :: l ∧ exec c (s.withRest l) = .next t := by
  unfold step at h
  cases hp : s.pending with
  | nil =>
    rw [hp] at h
    cases h
    exact .inl ⟨rfl, rfl⟩
  | cons c l =>
    rw [hp] at h
    exact .inr ⟨c, l, rfl, h⟩

/-- Settles O1: `step` takes the front of the queue, and answers the state itself when there is none. -/
theorem stepRunsFront : Obligations.StepRunsFront := by
  refine ⟨fun c l s => rfl, fun s empty => ?_⟩
  unfold step
  rw [empty]

/-- Settles O3: taking a command from the queue touches no plain data, and every command keeps their form. -/
theorem stepKeepsCanonical : Obligations.StepKeepsCanonical := by
  intro s t canonical h
  obtain ⟨-, rfl⟩ | ⟨c, l, -, ran⟩ := step_next_cases h
  · exact canonical
  · exact (exec_onward_of_next ran).canonical canonical

/-- Settles O4: no command unburns a fuse, turns time back or touches the queue's rest. -/
theorem fusesNeverUnburn : Obligations.FusesNeverUnburn := by
  intro s t h
  obtain ⟨empty, rfl⟩ | ⟨c, l, front, ran⟩ := step_next_cases h
  · exact ⟨Fuses.burned_refl _, le_rfl, by rw [empty]; rfl⟩
  · have onward := exec_onward_of_next ran
    exact ⟨onward.fuses, onward.now, by rw [front]; exact onward.pending⟩

/-- Settles O5: the frame of a command that unsettles nothing. -/
theorem settingsAndMemoryStand : Obligations.SettingsAndMemoryStand :=
  fun _ _ _ settled h => (exec_onward_of_next h).fixed settled

/-- Settles O6: the frame of a command that spares the working state. -/
theorem sparingCommandsStand : Obligations.SparingCommandsStand :=
  fun _ _ _ spared h => (exec_onward_of_next h).spared spared

end Sys2Proof.Proofs
end

section
/-! Which commands complete (R7), and the values the register tables give for reset (R364, R470). -/

namespace Sys2Proof.Proofs

open Sys2Proof Sys2Proof.Machine

/-- R376: an instruction that is not the maker's is taken or ignored. -/
theorem jtagInstruction_completes {t die : Nat} {i : JtagInstr} {s : State} (h : ∀ n, i ≠ .maker n) :
    Completes (.jtagInstruction t die i) s := by
  show ∃ u, execJtagInstruction t die i s = .next u
  unfold execJtagInstruction
  split
  · exact ⟨_, rfl⟩
  · cases i with
    | maker n => exact absurd rfl (h n)
    | idcode | bypass | sample | extest => exact ⟨_, rfl⟩

/-- R211: a store that ends inside T1 is done or turned away. -/
theorem coreT1Store_completes {t die core addr : Nat} {cached : Bool} {d : List Byte} {s : State}
    (h : addr + d.length ≤ Config.t1Granules * 128) : Completes (.coreT1Store t die core addr cached d) s := by
  show ∃ u, execCoreT1Store t die core addr cached d s = .next u
  unfold execCoreT1Store
  split
  · exact ⟨_, rfl⟩
  · rw [if_neg (by omega)]
    exact ⟨_, rfl⟩

/-- R139: the end of a unit is taken where a running unit of a stored result is named, and ignored elsewhere. -/
theorem attnUnitDone_completes (t slot : Nat) (k : ResKey) (kvHead seg : Nat) (o : UnitOutcome) (s : State) :
    Completes (.attnUnitDone t slot k kvHead seg o) s := by
  show ∃ u, execAttnUnitDone t slot k kvHead seg o s = .next u
  unfold execAttnUnitDone
  split
  · exact ⟨_, rfl⟩
  · split
    · exact ⟨_, rfl⟩
    · split <;> exact ⟨_, rfl⟩

theorem autoRelease_completes (t slot : Nat) (k : ResKey) (s : State) : Completes (.autoRelease t slot k) s := by
  show ∃ u, execAutoRelease t slot k s = .next u
  unfold execAutoRelease
  split <;> exact ⟨_, rfl⟩

theorem retentionEnd_completes (t slot : Nat) (k : ResKey) (s : State) : Completes (.retentionEnd t slot k) s := by
  show ∃ u, execRetentionEnd t slot k s = .next u
  unfold execRetentionEnd
  split <;> exact ⟨_, rfl⟩

/-- Settles O7: five commands look at something before they answer; every other answers a next state outright. -/
theorem commandsComplete : Obligations.CommandsComplete := by
  intro c s store maker
  cases c
  case jtagInstruction => exact jtagInstruction_completes fun n h => maker _ _ n (by rw [h])
  case coreT1Store => exact coreT1Store_completes (store _ _ _ _ _ _ rfl)
  case attnUnitDone => exact attnUnitDone_completes ..
  case autoRelease => exact autoRelease_completes ..
  case retentionEnd => exact retentionEnd_completes ..
  all_goals exact ⟨_, rfl⟩

/-- R470: each field of a register's reset word is the value its table gives, the port selections of die 1 apart (R289, R308). -/
theorem regReset_field (blk : Nat) (hblk : blk ≤ 0x12) : ∀ r ∈ regRowsOf blk, ∀ f ∈ r.fields, ∀ die, die < 2 → (die = 1 → r.onDie1 = true) →
    getBits (regReset die r.id) f.hi f.lo = if die = 1 ∧ (r.id = Reg.ETH_PORT_SEL ∨ r.id = Reg.CH_PORT_SEL) then 24 else f.reset := by
  interval_cases blk <;> decide

/-- Settles O2: with nothing listed, every register, slot, page and byte reads as its reset value. -/
theorem resetState : Obligations.ResetState := by
  refine ⟨rfl, rfl, rfl, rfl, rfl, ⟨rfl, rfl, rfl, fun x hx => nomatch hx⟩, fun _ => rfl, fun _ => rfl, fun die x => ?t1,
    fun blk hblk r hr f hf die _ hdie on1 => regReset_field blk hblk r hr f hf die hdie on1⟩
  case t1 =>
    have nothing : State.reset.t1 die = [] := by
      unfold State.t1
      split <;> rfl
    rw [nothing]
    rfl

end Sys2Proof.Proofs
end

section
/-! The beacon tracker: words, rebase and ENABLE, echoes and losses (R10 to R25). -/

namespace Sys2Proof.Proofs

open Sys2Proof Sys2Proof.Machine

variable {s : State}

/-- An accepted write has its register's effect on a state that differs from the state at its time by reports only. -/
theorem regWrite_reported {a : Acc} {r : RegId} {v : Word} {sel : Nat} (h : s.Accepts a r v sel) (hr : (rowOf r).id = r)
    (p : Option PendingIdx) (f : State → Nat → State) :
    ∃ w, (s.tick a.t).Reported w ∧ w = (s.tick a.t).noteWrite a.rq a.die r v p ∧ s.regWrite a (rowOf r) v p f = f w sel :=
  ⟨_, State.noteWrite_reported (reported_refl _), rfl, regWrite_accepts h hr p f⟩

/-- A command that looks at a condition before it acts. -/
theorem next_ite_pos {c : Prop} [Decidable c] {a b : State} (h : c) : (Host.Outcome.next (if c then a else b) : Res) = .next a := by
  rw [if_pos h]

/-! ### Words -/

theorem exec_beaconPinWord_of_running (h : s.running = true) (t : Nat) (w : PinWord) :
    exec (.beaconPinWord t w) s = .next ((s.tick t).pinWord w) :=
  next_ite_pos h

theorem exec_beaconFrame_of_link (h : s.running = true) (t : Nat) {f : BeaconFrame} (link : (s.port f.port).link = true) :
    exec (.beaconFrame t f) s = .next ((s.tick t).frameWord f) :=
  next_ite_pos ((by rw [h, link]; rfl))

/-- R10: a corrupted pin word is counted. -/
theorem pinWord_of_corrupted {w : PinWord} (h : w.codeOk = false ∨ crcOf w ≠ w.crc) : s.pinWord w = s.bump 0 0 Fld.BCN_COUNTS_CRC_ERR :=
  if_pos h

/-- R13: a frame to the beacon's UDP port that is not admitted is counted. -/
theorem frameWord_of_dropped {f : BeaconFrame} (udp : f.udp = s.fld 0 0 Fld.BCN_FRAME_CFG_UDP_PORT) (bad : s.frameOk f = false) :
    s.frameWord f = s.bump 0 0 Fld.BCN_COUNTS_FRAME_DROP := by
  unfold State.frameWord
  rw [if_neg (not_not_intro udp), bad]
  rfl

/-- R10 to R12: an intact pin word is taken as a valid word, then its echo is queued, which changes the echoes alone. -/
theorem pinWord_of_intact {w : PinWord} (code : w.codeOk = true) (crc : crcOf w = w.crc) (ok : s.wordOk w.flags w.l = true)
    (tracking : s.tracking = true) :
    ∃ echoes, s.pinWord w =
      let u := s.validWord ⟨posLin s.layers w.s w.l w.p, s.now - 440 - s.fld 0 0 Fld.BCN_PIN_CFG_DELAY_NS, w.flags, false⟩
      u.setBcn { u.bcn with echoes } := by
  unfold State.pinWord
  rw [if_neg (by simp [code, crc]), if_pos (by rw [ok, tracking]; rfl)]
  exact ⟨_, rfl⟩

/-- R13, R14: an admitted frame is taken as a valid word, its SEQ noted. -/
theorem frameWord_of_admitted {f : BeaconFrame} (udp : f.udp = s.fld 0 0 Fld.BCN_FRAME_CFG_UDP_PORT) (ok : s.frameOk f = true)
    (tracking : s.tracking = true) :
    s.frameWord f = (s.setBcn { s.bcn with frameSeq := some f.seq }).validWord
      ⟨posLin s.layers f.s f.l f.p, s.frameRef f, f.flags, true⟩ := by
  unfold State.frameWord
  rw [if_neg (not_not_intro udp), if_pos ok, if_pos tracking]

/-- R17, R20: the first valid word of the selected source starts the tracker at its position and reference instant. -/
theorem validWord_starts {w : BWord} (noPhase : s.bcn.trk = .noPhase) (empty : s.bcn.periods = []) (source : w.frame = s.bcn.frames) :
    (s.validWord w).bcn.trk = .learning ∧ (s.validWord w).bcn.anchor = w.pos ∧ (s.validWord w).bcn.tRef = w.tRef
      ∧ (s.validWord w).bcn.frameSeq = s.bcn.frameSeq
      ∧ (s.validWord w).reg 0 0 Reg.BCN_LAST_POS = BitVec.ofNat 64 (linToOrd s.layers w.pos) := by
  obtain ⟨u, taken, uPhase, uPeriods, uSeq, uLayers⟩ := validWord_first noPhase source
  rw [taken, ← uSeq, ← uLayers]
  exact acceptWord_first uPhase (uPeriods.trans empty)

theorem frameOk_layer {f : BeaconFrame} (h : s.frameOk f = true) : f.l < s.layers := by
  unfold State.frameOk at h
  simp only [Bool.and_eq_true] at h
  exact wordOk_layer h.1.2

/-- Settles O11: an accepted word in NO_PHASE is the first of its source, and a corrupted one only counts. -/
theorem wordsStartOrAreCounted : Obligations.WordsStartOrAreCounted := by
  refine ⟨⟨?pin, ?frame⟩, ?corruptPin, ?corruptFrame⟩
  case pin =>
    intro s t w tracking noPhase empty pins code crc ok hp
    obtain ⟨echoes, taken⟩ := pinWord_of_intact (s := s.tick t) code crc ok tracking
    obtain ⟨trk, anchor, tRef, -, lastPos⟩ := validWord_starts (s := s.tick t)
      (w := ⟨posLin s.layers w.s w.l w.p, max s.now t - 440 - s.fld 0 0 Fld.BCN_PIN_CFG_DELAY_NS, w.flags, false⟩) noPhase empty pins.symm
    refine ⟨_, exec_beaconPinWord_of_running (tracking_running tracking) t w, ?_⟩
    rw [taken]
    exact ⟨trk, anchor, tRef, lastPos.trans (congrArg _ (linToOrd_posLin (wordOk_layer ok) hp))⟩
  case frame =>
    intro s t f tracking noPhase empty frames link udp ok hp
    have layer : f.l < s.layers := frameOk_layer ok
    refine ⟨_, exec_beaconFrame_of_link (tracking_running tracking) t link, ?_⟩
    rw [frameWord_of_admitted (s := s.tick t) udp ok tracking]
    obtain ⟨trk, anchor, tRef, seq, lastPos⟩ := validWord_starts (s := (s.tick t).setBcn { s.bcn with frameSeq := some f.seq })
      (w := ⟨posLin s.layers f.s f.l f.p, (s.tick t).frameRef f, f.flags, true⟩) noPhase empty frames.symm
    exact ⟨trk, anchor, tRef, seq, lastPos.trans (congrArg _ (linToOrd_posLin layer hp))⟩
  case corruptPin =>
    intro s t w running bad
    refine ⟨_, exec_beaconPinWord_of_running running t w, ?_⟩
    rw [pinWord_of_corrupted bad]
    exact ⟨rfl, fld_bump _ _ _ _ (by decide) (by decide)⟩
  case corruptFrame =>
    intro s t f running link udp bad
    refine ⟨_, exec_beaconFrame_of_link running t link, ?_⟩
    rw [frameWord_of_dropped (s := s.tick t) udp bad]
    exact ⟨rfl, fld_bump _ _ _ _ (by decide) (by decide)⟩

/-! ### Rebase and ENABLE -/

/-- R7: the fields of BCN_CTRL take what is written. -/
theorem enable_store (w : State) (v : Word) : (w.store 0 0 (rowOf Reg.BCN_CTRL) v).fld 0 0 Fld.BCN_CTRL_ENABLE = getBits v 0 0 :=
  fld_store bcnCtrl_tidy (f := ⟨0, 0, .rw, 1⟩) (by decide) rfl (by simp [badValue, Reg.BCN_CTRL])

/-- R20: a write of ENABLE takes the tracker to NO_PHASE when it falls, starts the loss timers when it rises, and is nothing else. -/
theorem enableWrite_cases (w : State) (was : Bool) :
    w.enableWrite was =
      if w.fld 0 0 Fld.BCN_CTRL_ENABLE = 1 then (if was then w else w.setBcn { w.bcn with enabledAt := w.now, lastPin := none })
      else if was then w.unphase else w := by
  unfold State.enableWrite
  by_cases on : w.fld 0 0 Fld.BCN_CTRL_ENABLE = 1 <;> cases was <;> simp [on]

theorem bcnCtrlEffect_eq (w : State) (v : Word) :
    w.bcnCtrlEffect v =
      let u := (w.store 0 0 (rowOf Reg.BCN_CTRL) v).enableWrite (w.fld 0 0 Fld.BCN_CTRL_ENABLE == 1)
      if getBits v 2 2 = 1 then u.rebaseWrite else u := rfl

theorem unphase_fld {w : State} {f : Field} (hf : f.reg ∈ beatRegs) : w.unphase.fld 0 0 f = w.fld 0 0 f := by
  unfold State.unphase State.fld
  rw [(afterLoss_span _).reg _ hf]
  rfl

/-- Settles O12: each write stores ENABLE, and what follows depends on ENABLE before and after and on REBASE. -/
theorem trackerRegisterCommands : Obligations.TrackerRegisterCommands := by
  refine ⟨fun s a v sel accepts enable rebase => ?rebase, fun s a v sel accepts still => ⟨fun was off => ?stop, fun was on => ?start⟩⟩
  all_goals
    obtain ⟨w, reported, -, effect⟩ := regWrite_reported accepts (by decide) none (fun s _ => s.bcnCtrlEffect v)
    refine ⟨w.bcnCtrlEffect v, congrArg _ effect, ?_⟩
    have stored := enable_store w v
    have enableOf : w.fld 0 0 Fld.BCN_CTRL_ENABLE = s.fld 0 0 Fld.BCN_CTRL_ENABLE := reported.fld 0 0 (by decide)
    have kept : ∀ r, r ≠ Reg.BCN_CTRL → r ∉ chatter → (w.store 0 0 (rowOf Reg.BCN_CTRL) v).reg 0 0 r = s.reg 0 0 r := fun r hr chat =>
      (reg_store_ne w v (.inr (.inr hr))).trans (reported.reg 0 0 r chat)
    rw [bcnCtrlEffect_eq]
  case rebase =>
    obtain ⟨b, bcn⟩ : ∃ b, (w.store 0 0 (rowOf Reg.BCN_CTRL) v).enableWrite (w.fld 0 0 Fld.BCN_CTRL_ENABLE == 1)
        = (w.store 0 0 (rowOf Reg.BCN_CTRL) v).setBcn b := by
      rw [enableWrite_cases, if_pos (stored.trans enable)]
      split <;> exact ⟨_, rfl⟩
    have layers : w.layers = s.layers := congrArg (fun x : Start => x.img.geometry.layers) reported.start
    have runs : ((w.store 0 0 (rowOf Reg.BCN_CTRL) v).setBcn b).rebaseWrite
        = ((w.store 0 0 (rowOf Reg.BCN_CTRL) v).setBcn b).rebase (ordToLin s.layers (s.reg 0 0 Reg.BCN_REBASE_POS).toNat) := by
      rw [← kept Reg.BCN_REBASE_POS (by decide) (by decide), ← layers]
      exact if_pos (stored.trans enable)
    dsimp only
    rw [if_pos rebase, bcn, runs]
    obtain ⟨trk, periods, trigs, est, after, boundary⟩ := rebase_spec ((w.store 0 0 (rowOf Reg.BCN_CTRL) v).setBcn b)
      (ordToLin s.layers (s.reg 0 0 Reg.BCN_REBASE_POS).toNat)
    exact ⟨trk, periods, trigs, est, after,
      boundary.trans (congrArg (getBits · 47 0) (kept Reg.SES_BOUNDARY (by decide) (by decide)))⟩
  case stop =>
    have fell : (w.store 0 0 (rowOf Reg.BCN_CTRL) v).enableWrite (w.fld 0 0 Fld.BCN_CTRL_ENABLE == 1)
        = (w.store 0 0 (rowOf Reg.BCN_CTRL) v).unphase := by
      rw [enableWrite_cases, if_neg (by rw [stored, off]; decide), enableOf, was]
      rfl
    dsimp only
    rw [if_neg (by rw [still]; decide), fell, unphase_bcn]
    exact ⟨rfl, rfl, (unphase_fld (by decide)).trans (stored.trans off)⟩
  case start =>
    have rose : (w.store 0 0 (rowOf Reg.BCN_CTRL) v).enableWrite (w.fld 0 0 Fld.BCN_CTRL_ENABLE == 1)
        = (w.store 0 0 (rowOf Reg.BCN_CTRL) v).setBcn { w.bcn with enabledAt := w.now, lastPin := none } := by
      rw [enableWrite_cases, if_pos (stored.trans on), enableOf, was]
      rfl
    dsimp only
    rw [if_neg (by rw [still]; decide), rose]
    have trk : w.bcn.trk = s.bcn.trk := congrArg Beacon.trk reported.bcn
    exact ⟨reported.now, trk, stored.trans on⟩

/-! ### Echoes and losses -/

/-- R15: the switch to frames leaves the tracker's state and window. -/
theorem toFrames_bcn (s : State) : s.toFrames.bcn = { s.bcn with frames := true, taint := true, cleanLayers := 0, cleanAt := none } :=
  (State.raise_reported (reported_refl _)).bcn

theorem exec_beaconLossTimeout_due {t : Nat} (tracking : s.tracking = true) (trk : s.bcn.trk = .learning ∨ s.bcn.trk = .locked)
    (due : s.bcn.lastValid + s.lossNs ≤ max s.now t) : exec (.beaconLossTimeout t) s = .next (s.tick t).lossOfBoth := by
  have late : s.bcn.lastValid + s.lossNs ≤ (s.tick t).now := due
  refine next_ite_pos ?_
  rw [tracking, decide_eq_true late]
  rcases trk with trk | trk <;> rw [trk] <;> rfl

/-- Settles O13: an echo waits for its instant, and each loss command meets its condition. -/
theorem echoesStartAndLossMoves : Obligations.EchoesStartAndLossMoves := by
  refine ⟨fun s t => ⟨_, rfl, rfl, fun e he => ?waits, rfl, rfl⟩, fun s t running => ⟨fun fires limit => ?backLimit,
    fun tracking pins unlocked due => ?pinLoss, fun tracking trk empty due => ?neverLocked, fun tracking trk held due => ?coasts,
    fun trk limit => ?coastLimit⟩⟩
  case waits =>
    obtain ⟨mem, later⟩ := List.mem_filter.mp he
    exact ⟨mem, of_decide_eq_true later⟩
  case backLimit =>
    refine ⟨_, next_ite_pos ((by rw [running, fires, decide_eq_true limit]; rfl)), ?_⟩
    rw [lose_bcn]
    exact ⟨rfl, rfl⟩
  case pinLoss =>
    have late : (match s.bcn.lastPin with | some x => max x s.bcn.enabledAt | none => s.bcn.enabledAt) + s.lossNs ≤ (s.tick t).now := by
      refine le_trans (Nat.add_le_add_right ?_ _) due
      cases s.bcn.lastPin <;> simp
    refine ⟨_, next_ite_pos ?_, ?_⟩
    · simp only [Bool.and_eq_true, decide_eq_true_eq]
      exact ⟨⟨⟨tracking, by rw [pins]; rfl⟩, by rw [unlocked]; rfl⟩, late⟩
    · rw [toFrames_bcn]
      exact ⟨rfl, rfl, rfl⟩
  case neverLocked =>
    refine ⟨_, exec_beaconLossTimeout_due tracking (.inl trk) due, ?_⟩
    have lost : (s.tick t).lossOfBoth = (s.tick t).lose := by
      unfold State.lossOfBoth
      exact (if_pos (List.isEmpty_iff.mpr empty)).trans (if_pos trk)
    rw [lost, lose_bcn]
    exact ⟨rfl, rfl⟩
  case coasts =>
    refine ⟨_, exec_beaconLossTimeout_due tracking trk due, ?_⟩
    have coasts : (s.tick t).lossOfBoth = (s.tick t).coast := if_neg (by simpa using held)
    rw [coasts]
    exact coast_bcn _
  case coastLimit =>
    have est := fireDue_est (s.tick t) false
    refine ⟨_, next_ite_pos (by rw [running, trk]; rfl), ?_⟩
    rw [if_pos (est.symm ▸ limit), lose_bcn, est]
    exact ⟨rfl, rfl⟩

end Sys2Proof.Proofs
end

section
/-! Triggers: what a firing leaves, the boundary count, the checkpoint tick, gate edges, and the releases at a boundary (R26 to R29, R45,
R147, R299, R382). -/

namespace Sys2Proof.Proofs

open Sys2Proof Sys2Proof.Machine

variable {s : State}

/-- R19: triggers fire in a running state with an estimate. -/
theorem trigger_of_fires (running : s.running = true) (fires : s.fires = true) (t : Nat) : s.trigger t = (s.tick t).fireDue false :=
  if_pos (by rw [running, fires]; rfl)

/-- R26: a firing leaves the estimate, no position up to it unfired, and no trigger of a waking session that is due. -/
theorem fireDue_leaves (fires : s.fires = true) : (s.fireDue false).est = s.est ∧ s.est < (s.fireDue false).bcn.fired
    ∧ ∀ x ∈ (s.fireDue false).tier.trigs, x ∈ s.tier.trigs ∧ s.est < (s.fireDue false).trigDue x := by
  obtain ⟨ticked, noneDue⟩ := State.fireDue_fires s false fires
  exact ⟨fireDue_est s false, fireDue_fired s fires, fun x hx => ⟨ticked.trigs x hx, noneDue x hx⟩⟩

/-- Settles O14: all six commands fire everything due. -/
theorem triggersFireWhatIsDue : Obligations.TriggersFireWhatIsDue := by
  intro s t p i slot layer running fires c hc
  have fired : exec c s = .next ((s.tick t).fireDue false) := by
    rw [← trigger_of_fires running fires t]
    simp only [List.mem_cons, List.not_mem_nil, or_false] at hc
    obtain rfl | rfl | rfl | rfl | rfl | rfl := hc <;> rfl
  exact ⟨_, fired, fireDue_leaves (s := s.tick t) fires⟩

/-! ### The checkpoint tick -/

/-- R26, R382: when one step boundary is due, its tick comes among triggers that leave checkpoints alone. -/
theorem fireDue_one_boundary {k : Nat} (fires : s.fires = true) (due : s.bcn.fired ≤ s.est) (one : stepsIn s.layers s.bcn.fired s.est = [k])
    (on : s.fld 0 0 Fld.CK_CTRL_INTERVAL ≠ 0) (hit : k % s.fld 0 0 Fld.CK_CTRL_INTERVAL = 0) :
    ∃ x y, s.Paced x ∧ (x.ckptTick k).Paced y ∧ s.fireDue false = y.ended := by
  have steps : s.stepsDue = [k] := (if_pos due).trans one
  rw [fireDue_walk s fires, if_neg (not_lt.mpr due), steps]
  let before := if s.bcn.fired < k * s.layers * 256 then s.begun.fireSpan s.bcn.fired (k * s.layers * 256 - 1) s.est else s.begun
  have paced : s.Paced before.bookkeep :=
    State.bookkeep_paced (paced_ite (State.fireSpan_paced (begun_paced s)) (begun_paced s))
  have found : [k].find? (fun x => before.bookkeep.fld 0 0 Fld.CK_CTRL_INTERVAL != 0 && x % before.bookkeep.fld 0 0 Fld.CK_CTRL_INTERVAL == 0)
      = some k := by
    rw [paced.fld (by decide), List.find?_cons_of_pos (by simp [on, hit])]
  have ticks : before.boundaryAt [k] = ((before.bookkeep.ckptTick k).net.ports.map (·.1)).foldl (fun s p => s.swapGates p)
      (before.bookkeep.ckptTick k) := by
    unfold State.boundaryAt
    dsimp only
    rw [found]
  refine ⟨before.bookkeep, (before.boundaryAt [k]).fireSpan (k * s.layers * 256) s.est s.est, paced, State.fireSpan_paced ?_, ?_⟩
  · rw [ticks]
    exact paced_foldl (fun _ _ h => State.swapGates_paced h) _ (paced_refl _)
  · rw [State.walkBoundaries, State.walkBoundaries]
    rfl

/-- R382: what decides on a tick is as it was when the triggers began. -/
theorem ckptOn_of_paced {x : State} (paced : s.Paced x) : x.ckptOn = s.ckptOn := by
  unfold State.ckptOn
  rw [paced.fld (by decide), paced.rep, paced.restore]

/-- R382, R383: a tick whose step is a multiple of INTERVAL starts a checkpoint, or is counted while one is busy. -/
theorem ckptTick_hit {k : Nat} (on : s.ckptOn = true) (interval : s.fld 0 0 Fld.CK_CTRL_INTERVAL ≠ 0)
    (hit : k % s.fld 0 0 Fld.CK_CTRL_INTERVAL = 0) :
    s.ckptTick k = if s.ckptBusy then (s.bump 0 0 Fld.CK_COUNTS_SKIPPED).raise 0 0x83 { a0 := s.pos } else s.cut 0 0 :=
  if_neg (by simp [on, interval, hit])

theorem length_stepsDue (s : State) :
    s.stepsDue.length = if s.bcn.fired ≤ s.est then (stepsIn s.layers s.bcn.fired s.est).length else 0 := by
  unfold State.stepsDue
  split <;> rfl

/-- Settles O15: the walk over the boundaries due counts each, and its tick meets a checkpoint or none. -/
theorem boundariesAndTicks : Obligations.BoundariesAndTicks := by
  refine ⟨fun s t running fires => ⟨_, congrArg Host.Outcome.next (trigger_of_fires running fires t), ?count⟩,
    fun s t k running fires due one interval hit on noPlan => ?tick⟩
  case count =>
    rw [fireDue_boundary (s.tick t) fires, length_stepsDue]
    rfl
  case tick =>
    obtain ⟨x, y, before, after, fired⟩ := fireDue_one_boundary (s := s.tick t) fires due one interval hit
    have ran : exec (.checkpointTick t) s = .next y.ended := congrArg Host.Outcome.next ((trigger_of_fires running fires t).trans fired)
    have ticks := ckptTick_hit (s := x) (k := k) ((ckptOn_of_paced before).trans on)
      (by rw [before.fld (by decide)]; exact interval) (by rw [before.fld (by decide)]; exact hit)
    refine ⟨fun idle => ⟨_, ran, ?starts⟩, fun busy => ⟨_, ran, ?skipped⟩⟩
    case starts =>
      have free : x.ckptBusy = false := by
        unfold State.ckptBusy
        rw [before.run, before.plan]
        simp [idle, noPlan]
      rw [ticks, free] at after
      obtain ⟨r, run, kind⟩ := cut_run x 0 0
      have ended := ended_paced y (after.plan.trans (cut_plan x 0 0))
      exact ⟨r, ended.run.trans (after.run.trans run), kind⟩
    case skipped =>
      have taken : x.ckptBusy = true := by
        unfold State.ckptBusy
        rw [before.run]
        simp [busy]
      rw [ticks, taken] at after
      have raised := State.raise_reported (reported_refl (x.bump 0 0 Fld.CK_COUNTS_SKIPPED)) (die := 0) (sub := 0x83) (a := { a0 := x.pos })
      have ended := ended_paced y (after.plan.trans ((congrArg Ckpt.plan raised.ckpt).trans (before.plan.trans noPlan)))
      refine ⟨ended.run.trans (after.run.trans ((congrArg Ckpt.run raised.ckpt).trans before.run)), ?_⟩
      rw [ended.fld (by decide), after.fld (by decide), if_pos rfl, raised.fld 0 0 (by decide),
        fld_bump _ _ _ _ (by decide) (by decide), before.fld (by decide)]
      rfl

/-! ### Gate edges -/

/-- R26: with no step boundary due, the triggers of one span fire. -/
theorem fireDue_no_boundary (fires : s.fires = true) (none : s.bcn.fired ≤ s.est → stepsIn s.layers s.bcn.fired s.est = []) :
    s.fireDue false = (s.begun.fireSpan s.bcn.fired s.est s.est).ended := by
  have steps : s.stepsDue = [] := by
    unfold State.stepsDue
    split
    · next h => exact none h
    · rfl
  rw [fireDue_walk s fires, steps]
  split <;> rfl

/-- R299: the edge of an entry that the estimate reached last decides whether the entry is open after the firing. -/
theorem gate_after_firing {p i : Nat} {c : Bool} {e : Nat × TrigEv} (fires : s.fires = true)
    (none : s.bcn.fired ≤ s.est → stepsIn s.layers s.bcn.fired s.est = []) (hp : p ∈ s.net.ports.map (·.1))
    (edge : e ∈ s.begun.gateEvents s.bcn.fired s.est p) (sets : ∀ b, e.2.opens p i b = c)
    (last : ∀ x ∈ s.begun.gateEvents s.bcn.fired s.est p, (∃ b, x.2.opens p i b ≠ b ∧ x.2.opens p i b ≠ c) → evRank x < evRank e) :
    ((s.fireDue false).port p).opened.contains i = c := by
  rw [fireDue_no_boundary fires none, (ended_beat _).opened]
  exact fireSpan_opened hp edge sets last

/-- Settles O16: in the order of R27 no edge of another layer comes after the one that the estimate has reached. -/
theorem gateEdgesTakeEffect : Obligations.GateEdgesTakeEffect := by
  intro s t p i y running fires hp hi names base opensFirst closesIn none
  have edges := gateEvents_mem (s := (s.tick t).begun) (a := s.bcn.fired) (b := (s.tick t).est) (p := p) (i := i) (y := y) hi names base
  refine ⟨fun unfired reached notYet => ⟨_, congrArg Host.Outcome.next (trigger_of_fires running fires t), ?opens⟩,
    fun unfired reached notYet => ⟨_, congrArg Host.Outcome.next (trigger_of_fires running fires t), ?closes⟩⟩
  case opens =>
    obtain ⟨edge, -⟩ := edges (by omega) (by omega)
    refine List.contains_iff_mem.mp
      (gate_after_firing (s := s.tick t) fires none hp (edge ⟨unfired, reached⟩) (fun _ => if_pos ⟨rfl, rfl⟩) fun x hx ⟨b, moves, other⟩ => ?_)
    obtain ⟨j, z, ⟨rfl, -⟩ | ⟨rfl, past⟩⟩ := mem_gateEvents hx
    · simp only [TrigEv.opens] at moves other
      split at moves <;> simp_all
    · have same : j = i := by
        by_contra differs
        exact moves (if_neg fun h => differs h.2)
      subst same
      simp only [evRank, TrigEv.key] at past ⊢
      change z * 256 + getBits (s.gate p j) 16 8 ≤ _ at past
      change (z * 256 + getBits (s.gate p j) 16 8) * 8 + 2 < (y * 256 + getBits (s.gate p j) 7 0) * 8 + 3
      omega
  case closes =>
    obtain ⟨-, edge⟩ := edges (by omega) (by omega)
    have closed := gate_after_firing (s := s.tick t) (c := false) fires none hp (edge ⟨unfired, reached⟩) (fun _ => if_pos ⟨rfl, rfl⟩)
      fun x hx ⟨b, moves, other⟩ => ?_
    · intro mem
      rw [List.contains_iff_mem.mpr mem] at closed
      cases closed
    obtain ⟨j, z, ⟨rfl, past⟩ | ⟨rfl, -⟩⟩ := mem_gateEvents hx
    · have same : j = i := by
        by_contra differs
        exact moves (if_neg fun h => differs h.2)
      subst same
      simp only [evRank, TrigEv.key] at past ⊢
      change z * 256 + getBits (s.gate p j) 7 0 ≤ _ at past
      change (z * 256 + getBits (s.gate p j) 7 0) * 8 + 3 < (y * 256 + getBits (s.gate p j) 16 8) * 8 + 2
      omega
    · simp only [TrigEv.opens] at moves other
      split at moves <;> simp_all

/-! ### Releases and expiry -/

/-- R147: releasing the copies of a die drops those that are over, and changes nothing else but what the charge of their room does. -/
theorem releaseCopies_leaves (s : State) (die : Nat) : (s.releaseCopies die).bcn = s.bcn ∧ (s.releaseCopies die).ses.recs = s.ses.recs
    ∧ ∀ c ∈ (s.releaseCopies die).kv.copies, c ∈ s.kv.copies ∧ ¬s.copyOver die c := by
  obtain ⟨charged, counts⟩ := releaseCopies_spec s die
  refine ⟨charged.bcn, charged.recs, fun c hc => ?_⟩
  have positive := List.count_pos_iff.mpr hc
  rw [counts c] at positive
  refine ⟨List.count_pos_iff.mp (by omega), fun isOver => ?_⟩
  rw [if_pos isOver, Nat.sub_self] at positive
  cases positive

/-- R147: counting late copies leaves what decides whether a copy is over. -/
theorem copyOver_of_kept {u : State} {die : Nat} {c : T0Copy} (ses : u.ses = s.ses) (results : u.attn.results = s.attn.results)
    (bcn : u.bcn = s.bcn) (now : u.now = s.now) (start : u.start = s.start) : u.copyOver die c ↔ s.copyOver die c := by
  have lin : u.layerLin c.step c.layer = s.layerLin c.step c.layer := by
    unfold State.layerLin State.layers
    rw [start]
  have est : u.est = s.est := by
    unfold State.est
    rw [bcn, now]
  have inUse : u.copyInUse c = s.copyInUse c := copyInUse_of s u (congrArg _ results) (congrArg _ ses) c
  have sess : u.sess c.slot = s.sess c.slot := by
    unfold State.sess
    rw [ses]
  rw [State.copyOver, State.copyOver, lin, est, inUse, sess]

theorem sess_congr {u : State} (h : u.ses.recs = s.ses.recs) (slot : Nat) : u.sess slot = s.sess slot := by
  unfold State.sess
  rw [h]

/-- Settles O17: only copies whose layer is over leave, and a lease that is due expires. -/
theorem releasesAndExpiry : Obligations.ReleasesAndExpiry := by
  refine ⟨fun s t die running => ⟨_, congrArg Host.Outcome.next (if_pos running), ?release⟩,
    fun s t slot running fires leased due => ⟨(s.tick t).expire slot, congrArg Host.Outcome.next (if_pos ?due), ?expire⟩⟩
  case release =>
    obtain ⟨kv, ses, results, bcn, now, start⟩ := countLates_kept s.kv.copies (s.tick t)
    obtain ⟨uBcn, uRecs, uCopies⟩ := releaseCopies_leaves
      (s.kv.copies.foldl (fun s c => s.countLate c.die c.step c.layer) (s.tick t)) die
    refine ⟨uBcn.trans bcn, uRecs.trans (congrArg _ ses), fun c hc => ?_, fun c hc onDie isOver => ?_⟩
    · have mem := (uCopies c hc).1
      rw [kv] at mem
      exact mem
    · have stays := (uCopies c hc).2
      rw [copyOver_of_kept (s := s.tick t) ses results bcn now start] at stays
      have inUse : (s.tick t).copyInUse c = s.copyInUse c := copyInUse_of s (s.tick t) rfl rfl c
      have sess : (s.tick t).sess c.slot = s.sess c.slot := rfl
      by_contra free
      rw [not_or, Bool.not_eq_true, Bool.not_eq_true] at free
      exact stays ⟨onDie, isOver, inUse.trans free.1, by rw [sess]; exact free.2⟩
  case expire =>
    obtain ⟨recs, bcn, kv⟩ := expire_spec (s.tick t) slot
    have sess : ∀ x, ((s.tick t).expire slot).sess x = _ := fun x => (sess_congr recs x).trans (setSess_sess ..)
    have held := (sess slot).trans (if_pos rfl)
    have others : ∀ x, x ≠ slot → ((s.tick t).expire slot).sess x = s.sess x := fun x hx => (sess x).trans (if_neg hx)
    rw [held]
    exact ⟨rfl, rfl, rfl, rfl, others, bcn, kv⟩
  case due =>
    have leasedNow : (s.sess slot).st.leased = true := by
      rcases leased with h | h <;> rw [h] <;> rfl
    rw [running, fires, State.leaseDue, leasedNow, decide_eq_true due]
    rfl

end Sys2Proof.Proofs
end

section
/-! The session messages: SESSION_OPEN, HANDOVER, LEASE_RENEW, PARK, WAKE, SESSION_CLOSE, the HELD list and the quotas (R43 to R62). -/

namespace Sys2Proof.Proofs

open Sys2Proof Sys2Proof.Machine

variable {s : State}

/-- What follows a message leaves its answer and the session records. -/
theorem aside_done {x u : State} {e : Env} {type slot : Nat} (h : (x.sesDone e type slot).Aside u) :
    (∃ b, u.rp.answered = some (type, St.done, b)) ∧ (∀ y, u.sess y = x.sess y) ∧ u.boundary = x.boundary := by
  obtain ⟨b, answered⟩ := sesDone_answered x e type slot
  exact ⟨⟨b, h.answered.trans answered⟩, fun y => (aside_sess h y).trans (sesDone_sess x e type slot y),
    (aside_boundary h).trans (reported_boundary (State.sesDone_reported (reported_refl x)))⟩

/-! ### SESSION_OPEN -/

/-- R55: an open that passes its checks is carried out on the lowest free slot. -/
theorem openBody_opens {h : State} {e : Env} {m : OpenMsg} {slot : Nat} (fresh : h.openRepeat e m = none) (passes : h.openCheck e m = none)
    (lowest : h.lowestSlot (h.openDie m) = some slot) : h.openBody e m = (h.openApply e m slot).sesDone e 0x01 slot := by
  unfold State.openBody
  rw [fresh]
  dsimp only
  rw [passes]
  dsimp only
  rw [lowest]

/-- R56: a repeat is counted and answered. -/
theorem openBody_repeats {h : State} {e : Env} {m : OpenMsg} {o : OpenMem} (repeats : h.openRepeat e m = some o) :
    h.openBody e m = (h.bump (slotDie o.slot) 0 Fld.SES_OUTCOME1_REPLAY).answer e 0x01 St.replay 0 (h.repeatBody o) := by
  unfold State.openBody
  rw [repeats]

/-- Settles O18: `openBody` looks for a repeat, then for a refusal, then opens. -/
theorem openTakesLowestSlot : Obligations.OpenTakesLowestSlot := by
  intro s e m enters
  have aside := message_aside enters (.sessionOpen e m) none (zeros 24) (fun s => s.openBody e m)
  have sess : ∀ x, (s.heard e 0x01 none).sess x = s.sess x := sess_congr (congrArg _ (heard_ses s e 0x01))
  refine ⟨fun fresh passes => ?opens, fun o repeats => ?repeats⟩
  case opens =>
    obtain ⟨slot, lowest⟩ := openCheck_slot passes
    rw [openBody_opens fresh passes lowest] at aside
    obtain ⟨answered, uSess, -⟩ := aside_done aside
    obtain ⟨opened, staged, area⟩ := openApply_spec (s.heard e 0x01 none) e m slot
    have new : _ = _ := (uSess slot).trans ((opened slot).trans (if_pos rfl))
    have kv : _ = _ := aside.kv.trans (State.sesDone_reported (reported_refl _)).kv
    refine ⟨_, slot, rfl, by rw [← heard_lowestSlot s e 0x01, ← heard_openDie s e 0x01]; exact lowest, answered, ?_⟩
    rw [new, State.openRecord, heard_leaseOf, heard_boundary, sess]
    refine ⟨rfl, rfl, rfl, rfl, rfl, rfl, rfl, rfl, ?_, ?_, fun x hx => ?_⟩
    · exact (congrArg (fun k : Kv => (alGet slot k.staging).isSome) kv).trans staged
    · exact (congrArg (fun k : Kv => (alGet slot k.areas).isSome) kv).trans area
    · exact (uSess x).trans ((opened x).trans ((if_neg hx).trans (sess x)))
  case repeats =>
    rw [openBody_repeats repeats] at aside
    have answer := State.answer_reported (reported_refl ((s.heard e 0x01 none).bump (slotDie o.slot) 0 Fld.SES_OUTCOME1_REPLAY)) (e := e)
      (type := 0x01) (status := St.replay) (reason := 0) (body := (s.heard e 0x01 none).repeatBody o)
    exact ⟨_, rfl, ⟨_, aside.answered⟩, (aside.ses.trans answer.ses).trans (heard_ses ..), (aside.kv.trans answer.kv).trans (heard_kv ..)⟩

/-! ### Messages on a session -/

/-- R44, R53: what a HANDOVER does to the record of its session, and to no other. -/
theorem handoverApply_sess {h : State} {e : Env} {m : SesMsg} {slot : Nat} (own : slot = handleSlot m.handle) :
    ∃ x : State, h.handoverApply e m = x.sesDone e 0x04 slot ∧ x.boundary = h.boundary ∧ (∀ y, y ≠ slot → x.sess y = h.sess y)
      ∧ x.sess slot = if m.newOwner = 0 then
          { h.sess slot with st := .held, heldReason := 3, epoch := (h.sess slot).epoch + 1, lastBy := e.ep, lastPos := h.pos }
        else { h.sess slot with
          st := if h.role m.newOwner = 1 then .filling else .owned, heldReason := 0, owner := m.newOwner, epoch := (h.sess slot).epoch + 1
          lastBy := e.ep, leaseLen := h.leaseOf m.leaseSteps, leaseEnd := h.boundary + h.leaseOf m.leaseSteps, lastPos := h.pos } := by
  subst own
  unfold State.handoverApply
  by_cases none : m.newOwner = 0
  · simp only [if_pos none]
    obtain ⟨recs, boundary⟩ := freeze_spec h e (handleSlot m.handle)
    exact ⟨_, rfl, boundary, fun y hy => (sess_congr recs y).trans (setSess_other _ _ hy), (sess_congr recs _).trans (setSess_self ..)⟩
  · simp only [if_neg none]
    obtain ⟨recs, boundary⟩ := handTo_spec h e (handleSlot m.handle) m.newOwner m.leaseSteps
    exact ⟨_, rfl, boundary, fun y hy => (sess_congr recs.symm y).trans (setSess_other _ _ hy),
      (sess_congr recs.symm _).trans (setSess_self ..)⟩

/-- R46: what a LEASE_RENEW does to the record of its session, and to no other. -/
theorem renewApply_sess {h : State} {e : Env} {m : SesMsg} {slot : Nat} (own : slot = handleSlot m.handle) :
    ∃ (x : State) (len : Nat), h.renewApply e m = x.sesDone e 0x05 slot ∧ len = (if m.leaseSteps = 0 then (h.sess slot).leaseLen else m.leaseSteps)
      ∧ (∀ y, y ≠ slot → x.sess y = h.sess y)
      ∧ x.sess slot = { h.sess slot with leaseLen := len, leaseEnd := h.boundary + len, lastPos := h.pos } := by
  subst own
  refine ⟨_, _, rfl, rfl, fun y hy => ?_, ?_⟩
  · exact (setSess_other _ _ hy).trans (setSess_other _ _ hy)
  · unfold State.accepted
    rw [setSess_self, setSess_self]
    rfl

/-- R47, R51: what a PARK does to the record of its session; a session parked with nothing in T1 turns DORMANT. -/
theorem parkApply_sess {h : State} {e : Env} {m : SesMsg} {slot : Nat} (own : slot = handleSlot m.handle) :
    ∃ (x : State) (r : Session), h.parkApply e m = x.sesDone e 0x0A slot ∧ r.Rolls (x.sess slot)
      ∧ r = if (h.sess slot).st = .parked ∨ (h.sess slot).st = .dormant then { h.sess slot with lastPos := h.pos }
        else { h.sess slot with
          st := .parked, heldReason := 0, owner := 0, epoch := (h.sess slot).epoch + 1, lastBy := e.ep, lastPos := h.pos } := by
  subst own
  unfold State.parkApply
  extract_lets slot r t1 t2 s1 s2
  have rolls : (if r.st = .parked ∨ r.st = .dormant then h.setSess slot { r with lastPos := h.pos } else t1).Roll s1 := by
    unfold s1
    split
    · exact roll_refl _
    · have cancelled : t1.Roll t2 := State.cancelTrigs_roll (State.endEpoch_roll (roll_refl _))
      exact roll_ite (State.sesEvent_roll cancelled) cancelled
  have ends := State.dormantTest_roll (roll_ite (c := m.depth = 1) (State.queueCold_roll rolls (slot := slot)) rolls) (slot := slot)
  refine ⟨_, _, rfl, ends.sess slot, ?_⟩
  split
  · exact setSess_self ..
  · exact setSess_self ..

/-- R47, R51, R205: what a WAKE does to the record of its session; PROMOTING may end at once. -/
theorem wakeApply_sess {h : State} {e : Env} {m : SesMsg} {slot : Nat} (own : slot = handleSlot m.handle) :
    ∃ x : State, h.wakeApply e m = x.sesDone e 0x0B slot ∧ Session.Rolls { h.sess slot with
      st := .owned, owner := m.newOwner, epoch := (h.sess slot).epoch + 1, lastBy := e.ep, leaseLen := h.leaseOf m.leaseSteps
      leaseEnd := h.boundary + h.leaseOf m.leaseSteps, promoting := true, lastPos := h.pos } (x.sess slot) := by
  subst own
  unfold State.wakeApply
  extract_lets slot r die len s1 s2 tier s3 tier' restoring s4 s5
  have rolls : s1.Roll s3 := roll_mk (State.endEpoch_roll (roll_refl s1)) rfl rfl rfl rfl rfl
  have restores : s1.Roll s4 := by
    unfold s4
    split
    · exact State.alloc_roll (roll_mk rolls rfl rfl rfl rfl rfl)
    · exact rolls
  have ends : s1.Roll s5 := State.ownerChange_roll (State.promotingTest_roll (State.scheduleWake_roll restores))
  refine ⟨_, rfl, ?_⟩
  have last := ends.sess slot
  rw [show s1.sess slot = _ from setSess_self ..] at last
  exact last

/-- R37, R57: what a SESSION_CLOSE does to the record of its session. -/
theorem closeApply_sess {h : State} {e : Env} {m : SesMsg} {slot : Nat} (own : slot = handleSlot m.handle) :
    ∃ b, (h.closeApply e m).rp.answered = some (0x02, St.done, b)
      ∧ ((h.closeApply e m).sess slot).st = .free ∧ ((h.closeApply e m).sess slot).owner = 0
      ∧ ((h.closeApply e m).sess slot).scrubPending = true ∧ ((h.closeApply e m).sess slot).gen = nextGen (h.sess slot).gen := by
  subst own
  unfold State.closeApply
  extract_lets slot r die held s1 s2 s3 ranges home s4 s5 s6 s7 ses s8 s9
  have before : h.Roll s5 := by
    have dropped : h.Roll s3 := State.dropWork_roll
      (roll_foldl (fun _ _ h => State.freePage_roll h) _ (State.dropResults_roll (roll_refl h)))
    have unref : h.Roll s4 := roll_ite (State.unrefGram_roll dropped) dropped
    exact roll_ite (State.sesEvent_roll unref) unref
  obtain ⟨st, owner, scrub, gen⟩ := closeRecord_sess s5 slot
  have after : s6.Roll (s9.answer e 0x02 St.done 0 (sesBody (r.handle slot) r.epoch 0 0 0 0 0)) :=
    have lowered : s6.Roll s7 := State.lower_roll (roll_refl s6) (by decide)
    have unhomed : s6.Roll s8 := roll_mk lowered rfl rfl rfl rfl rfl
    State.answer_roll (State.queueScrub_roll (State.nextFree_roll unhomed))
  have rolls := after.sess slot
  refine ⟨_, answer_answered .., ?_, ?_, ?_, ?_⟩
  · obtain same | ⟨was, -⟩ := rolls.2.1
    · exact same.trans st
    · rw [st] at was
      cases was
  · exact (rolls.part Session.owner fun _ => rfl).trans owner
  · exact (rolls.part Session.scrubPending fun _ => rfl).trans scrub
  · exact (rolls.part Session.gen fun _ => rfl).trans (gen.trans (congrArg nextGen ((before.sess slot).part Session.gen fun _ => rfl)))

/-- A session message that passes its check is carried out; what follows it leaves the answer, the records and the boundary count. -/
theorem sesMessage_carried {e : Env} {c : Instr} {type slot : Nat} {m : SesMsg} {check : State → Option Refuse} {apply : State → State}
    {x : State} (own : slot = handleSlot m.handle) (enters : s.Enters e type) (passes : check (s.heard e type (some slot)) = none)
    (applied : apply (s.heard e type (some slot)) = x.sesDone e type slot) :
    (∃ b, (s.sesMessage e c type m check apply).rp.answered = some (type, St.done, b))
      ∧ (∀ y, (s.sesMessage e c type m check apply).sess y = x.sess y) ∧ (s.sesMessage e c type m check apply).boundary = x.boundary := by
  subst own
  have aside := sesMessage_done (c := c) (apply := apply) enters passes
  rw [applied] at aside
  exact aside_done aside

/-- Settles O19: each message that passes its check is carried out, and what follows a message leaves the records. -/
theorem sessionMessagesChangeRecord : Obligations.SessionMessagesChangeRecord := by
  intro s e m slot own
  have found : ∀ type {α : Type} (f : Session → α), (∀ r : Session, f { r with crcBad := true } = f r) →
      f ((s.heard e type (some slot)).sess slot) = f (s.sess slot) := fun type _ f hf => heard_part s e type slot slot f hf
  refine ⟨fun enters passes => ⟨_, rfl, ?handover⟩, fun enters passes => ⟨_, rfl, ?renew⟩, fun enters passes => ⟨_, rfl, ?park⟩,
    fun enters passes => ⟨_, rfl, ?wake⟩, fun enters passes => ⟨_, rfl, ?close⟩⟩
  case handover =>
    obtain ⟨x, applied, boundary, others, record⟩ := handoverApply_sess (h := s.heard e 0x04 (some slot)) (e := e) own
    obtain ⟨answered, uSess, uBoundary⟩ := sesMessage_carried (c := .handover e m) (check := fun s => s.handoverCheck e m)
      (apply := fun s => s.handoverApply e m) own enters passes applied
    have epoch := found 0x04 Session.epoch fun _ => rfl
    have owner := found 0x04 Session.owner fun _ => rfl
    have now := uBoundary.trans (boundary.trans (heard_boundary ..))
    have rest : ∀ y, y ≠ slot → _ = s.sess y := fun y hy => (uSess y).trans ((others y hy).trans (heard_other s e 0x04 hy))
    have new := (uSess slot).trans record
    by_cases none : m.newOwner = 0
    · rw [if_pos none] at new
      refine ⟨answered, ?_, ?_, fun _ => ?_, fun some => absurd none some, now, rest⟩ <;> rw [new]
      · exact congrArg (· + 1) epoch
      · exact ⟨rfl, rfl, owner⟩
    · rw [if_neg none, heard_role, heard_leaseOf, heard_boundary] at new
      refine ⟨answered, ?_, ?_, fun zero => absurd zero none, fun _ => ?_, now, rest⟩ <;> rw [new]
      · exact congrArg (· + 1) epoch
      · exact ⟨rfl, rfl, congrArg (· + s.leaseOf m.leaseSteps) now.symm⟩
  case renew =>
    obtain ⟨x, len, applied, lenOf, others, record⟩ := renewApply_sess (h := s.heard e 0x05 (some slot)) (e := e) own
    obtain ⟨answered, uSess, -⟩ := sesMessage_carried (c := .leaseRenew e m) (check := fun s => s.renewCheck e m)
      (apply := fun s => s.renewApply e m) own enters passes applied
    rw [found 0x05 Session.leaseLen fun _ => rfl] at lenOf
    rw [uSess, record, heard_boundary, lenOf]
    exact ⟨answered, rfl, found 0x05 Session.epoch fun _ => rfl, found 0x05 Session.owner fun _ => rfl, found 0x05 Session.st fun _ => rfl,
      fun y hy => (uSess y).trans ((others y hy).trans (heard_other s e 0x05 hy))⟩
  case park =>
    obtain ⟨x, r, applied, rolls, record⟩ := parkApply_sess (h := s.heard e 0x0A (some slot)) (e := e) own
    obtain ⟨answered, uSess, -⟩ := sesMessage_carried (c := .park e m) (check := fun s => s.parkCheck e m)
      (apply := fun s => s.parkApply e m) own enters passes applied
    have st := found 0x0A Session.st fun _ => rfl
    have epoch := found 0x0A Session.epoch fun _ => rfl
    rw [uSess]
    refine ⟨answered, ?_, fun notParked notDormant => ?_⟩
    · have parked : r.st = .parked ∨ r.st = .dormant := by
        rw [record]
        split
        · next already => exact already
        · exact .inl rfl
      obtain same | ⟨-, dormant⟩ := rolls.2.1
      · rwa [same]
      · exact .inr dormant
    · rw [st, if_neg (not_or.mpr ⟨notParked, notDormant⟩)] at record
      rw [rolls.part Session.epoch fun _ => rfl, rolls.part Session.owner fun _ => rfl, rolls.part Session.lastBy fun _ => rfl, record]
      exact ⟨congrArg (· + 1) epoch, rfl, rfl⟩
  case wake =>
    obtain ⟨x, applied, rolls⟩ := wakeApply_sess (h := s.heard e 0x0B (some slot)) (e := e) own
    obtain ⟨answered, uSess, -⟩ := sesMessage_carried (c := .wake e m) (check := fun s => s.wakeCheck e m)
      (apply := fun s => s.wakeApply e m) own enters passes applied
    rw [uSess]
    refine ⟨answered, ?_, (rolls.part Session.owner fun _ => rfl), ?_, (rolls.part Session.lastBy fun _ => rfl), ?_⟩
    · obtain same | ⟨was, -⟩ := rolls.2.1
      · exact same
      · cases was
    · exact (rolls.part Session.epoch fun _ => rfl).trans (congrArg (· + 1) (found 0x0B Session.epoch fun _ => rfl))
    · rw [rolls.part Session.leaseEnd fun _ => rfl, heard_boundary, heard_leaseOf]
  case close =>
    have aside := sesMessage_done (m := m) (c := .sessionClose e m) (check := fun s => s.closeCheck e m)
      (apply := fun s => s.closeApply e m) enters (own ▸ passes)
    rw [← own] at aside
    obtain ⟨b, answered, st, owner, scrub, gen⟩ := closeApply_sess (h := s.heard e 0x02 (some slot)) (e := e) own
    refine ⟨⟨b, aside.answered.trans answered⟩, ?_⟩
    rw [aside_sess aside]
    exact ⟨st, owner, scrub, gen.trans (congrArg nextGen (found 0x02 Session.gen fun _ => rfl))⟩

/-! ### The HELD list and the quotas -/

/-- Settles O20: the read takes the head of the die's list, and the quota test follows the stored quota. -/
theorem heldListAndQuota : Obligations.HeldListAndQuota := by
  refine ⟨fun s a sel shows => ?held, fun s a tier v ctx small accepts => ?quota⟩
  case held =>
    refine ⟨_, congrArg Host.Outcome.next (regRead_shows shows fun s _ => (s.takeHeld a.die).1), ?_⟩
    exact takeHeld_spec (s.tick a.t) a.die
  case quota =>
    obtain ⟨w, reported, -, effect⟩ := regWrite_reported accepts (quotaRow_id small) none
      fun s ctx => s.quotaEffect a.die ctx tier (rowOf (quotaReg tier)) v
    refine ⟨_, congrArg Host.Outcome.next ((if_pos small).trans effect), ?_⟩
    obtain ⟨limit, quota, use⟩ := quotaTest_spec (w.store a.die ctx (rowOf (quotaReg tier)) v) a.die ctx tier small
    have stored := quota_store w a.die ctx v small
    have used := (use_store w a.die ctx v small).trans (reported_use reported a.die ctx tier small)
    refine ⟨quota.trans stored, use.trans used, limit.trans ?_⟩
    rw [← quota, ← use]
    rfl

end Sys2Proof.Proofs
end

section
/-! KV_APPEND in its forms, eviction of staging areas, and the XLATE commands (R72, R78, R81, R85, R89 to R99, R203). -/

namespace Sys2Proof.Proofs

open Sys2Proof Sys2Proof.Machine

variable {s h : State} {e : Env} {m : KvMsg} {g : Staging}

/-! ### Appends (R78, R85, R90) -/

theorem appendPasses_fields {form : Nat} (hp : s.AppendPasses e m form h g) : h.kvFields m form = none := by
  obtain ⟨-, rfl, -, -, fields, -, -⟩ := hp
  exact fields

/-- An append of form INLINE or RDMA that passes its checks comes to `kvAppend`. -/
theorem kvMessage_appends {form : Nat} (c : Instr) (hp : s.AppendPasses e m form h g) (hform : form < 2) :
    (h.kvAppend e m form).Aside (s.kvMessage e c m form) := by
  have ha := (kvMessage_passes c hp).1
  rwa [if_neg (by omega), if_neg (by omega), if_neg (by omega)] at ha

theorem noteObject_staging (h : State) (e : Env) (o : IngestObj) (slot : Nat) : (h.noteObject e o).staging slot = h.staging slot :=
  (State.noteObject_kept (kept_refl h)).stagingAt slot

/-- Settles O21: the covered layers are appended to row by row, and the record follows at the end. -/
theorem appendExtendsLayers : Obligations.AppendExtendsLayers := by
  intro s h e m g form slot n hslot hform hp sizeOk count layers hn
  have hg : h.staging slot = some g := hslot ▸ (kvMessage_passes (.kvAppendInline e m) hp).2
  have fields := appendPasses_fields hp
  refine ⟨fun inline shape room => ?inline, fun o rdma opens room => ?rdma⟩
  case inline =>
    subst inline
    refine ⟨s.kvMessage e (.kvAppendInline e m) m m.form, ?_⟩
    rw [shape]
    obtain ⟨g', ends⟩ := kvAppend_spec (d := m.data) hslot fields hform hg sizeOk count layers hn rfl hg room (kvMessage_appends _ hp hform)
    exact ⟨g', congrArg (fun k => Host.Outcome.next (s.kvMessage e (.kvAppendInline e m) m k)) shape, ends⟩
  case rdma =>
    subst rdma
    have opened : h.openData e slot (1 != 0) m.aux m.bytes m.data = (h.noteObject e o, .inr o.data) := by
      unfold State.openData
      rw [opens]
      rfl
    obtain ⟨g', ends⟩ := kvAppend_spec hslot fields hform hg sizeOk count layers hn opened ((noteObject_staging h e o slot).trans hg) room
      (kvMessage_appends (.kvAppendRdma e m) hp hform)
    exact ⟨_, g', rfl, ends⟩

/-! ### TRUNCATE (R95, R96) -/

/-- A TRUNCATE of a session that has the length already changes nothing but the lease. -/
theorem kvTruncate_same (hg : h.staging (handleSlot m.handle) = some g)
    (same : (h.sess (handleSlot m.handle)).length = m.firstPos ∧ (List.range h.layers).all (fun l => g.len l == m.firstPos) = true) :
    h.kvTruncate e m = (h.accepted (handleSlot m.handle) true).kvAnswer e (handleSlot m.handle) St.done 0 0 0 0 := by
  unfold State.kvTruncate
  simp only [hg]
  rw [if_neg (by omega), if_pos same]

/-- The globals before a position. -/
def globalsBefore (n : Nat) (g : Staging) : Staging := { g with globals := g.globals.filter (fun p => decide (p < n)) }

/-- A TRUNCATE with its window held cuts the layers and the globals, then the record follows. -/
theorem kvTruncate_cuts (hg : h.staging (handleSlot m.handle) = some g) (reach : m.firstPos ≤ (h.sess (handleSlot m.handle)).length)
    (differs : ¬ ((h.sess (handleSlot m.handle)).length = m.firstPos ∧ (List.range h.layers).all (fun l => g.len l == m.firstPos) = true))
    (held : (h.sess (handleSlot m.handle)).dense = true ∨ h.windowHeld (handleSlot m.handle) m.firstPos = true) :
    ∃ (w : State) (g' : Staging), w.staging (handleSlot m.handle) = some g'
      ∧ (∀ l, g'.len l = if l < h.layers then min (g.len l) m.firstPos else g.len l)
      ∧ g'.globals = g.globals.filter (fun p => decide (p < m.firstPos))
      ∧ h.kvTruncate e m = ((w.setLength (handleSlot m.handle)).accepted (handleSlot m.handle) true).kvAnswer e (handleSlot m.handle)
          St.done 0 0 0 0 := by
  obtain ⟨g1, cut, globals, lens⟩ := truncLayers_staging m.firstPos h.layers hg
  have window : (!(h.sess (handleSlot m.handle)).dense && !h.windowHeld (handleSlot m.handle) m.firstPos) = false := by
    rcases held with d | w
    · rw [d]; rfl
    · rw [w, Bool.not_true, Bool.and_false]
  unfold State.kvTruncate
  simp only [hg]
  rw [if_neg (by omega), if_neg differs, window, if_neg Bool.false_ne_true]
  simp only [cut]
  refine ⟨_, globalsBefore m.firstPos g1, ?_, lens, congrArg (List.filter _) globals, rfl⟩
  split
  · exact putStaging_self _ _ _
  · exact putStaging_self _ _ _

theorem truncate_passes (hp : s.AppendPasses e m 3 h g) (reach : m.firstPos ≤ (h.sess (handleSlot m.handle)).length)
    (held : (h.sess (handleSlot m.handle)).dense = true ∨ h.windowHeld (handleSlot m.handle) m.firstPos = true)
    (beyond : ∀ l, h.layers ≤ l → g.len l ≤ m.firstPos) (pinned : ∀ p ∈ g.globals, p < (h.sess (handleSlot m.handle)).length) :
    ∃ u g', exec (.truncate e m) s = .next u ∧ (∃ b, u.rp.answered = some (0x03, St.done, b))
      ∧ u.staging (handleSlot m.handle) = some g' ∧ (∀ l, g'.len l = min (g.len l) m.firstPos)
      ∧ (∀ p, p ∈ g'.globals ↔ p ∈ g.globals ∧ p < m.firstPos)
      ∧ (u.sess (handleSlot m.handle)).leaseEnd = u.boundary + (u.sess (handleSlot m.handle)).leaseLen := by
  obtain ⟨ha, hg⟩ := kvMessage_passes (.truncate e m) hp
  change (h.kvTruncate e m).Aside _ at ha
  by_cases same : (h.sess (handleSlot m.handle)).length = m.firstPos ∧ (List.range h.layers).all (fun l => g.len l == m.firstPos) = true
  · rw [kvTruncate_same hg same] at ha
    obtain ⟨answered, staging, lease⟩ := kvEnd0_spec ha
    refine ⟨_, g, rfl, answered, staging.trans hg, fun l => ?_, fun p => ⟨fun hx => ⟨hx, same.1 ▸ pinned p hx⟩, And.left⟩, lease⟩
    by_cases hl : l < h.layers
    · have := List.all_eq_true.1 same.2 l (List.mem_range.2 hl)
      rw [beq_iff_eq] at this
      omega
    · rw [Nat.min_eq_left (beyond l (by omega))]
  · obtain ⟨w, g', staging, lens, globals, run⟩ := kvTruncate_cuts hg reach same held
    rw [run] at ha
    obtain ⟨answered, keeps, -, -, lease⟩ := kvEnd_spec staging (reported_refl _) ha
    refine ⟨_, g', rfl, answered, keeps, fun l => ?_, fun p => ?_, lease⟩
    · rw [lens]
      split
      · rfl
      · exact (Nat.min_eq_left (beyond l (by omega))).symm
    · rw [globals, List.mem_filter, decide_eq_true_eq]

/-! ### PIN and UNPIN (R89) -/

/-- A PIN of held positions of a session that is not dense adds what fits, then the record follows. -/
theorem kvPin_pins (hg : h.staging (handleSlot m.handle) = some g) (size : m.data.length = 4 * m.count)
    (sparse : (h.sess (handleSlot m.handle)).dense = false)
    (held : ∀ p ∈ pinList m.data, p < (h.sess (handleSlot m.handle)).length ∧ h.pinHeld (handleSlot m.handle) p = true) :
    let w := h.putStaging (handleSlot m.handle) { g with globals := (pinAll g.globals (pinList m.data)).1 }
    let left := (pinAll g.globals (pinList m.data)).2
    h.kvPin e m false = ((w.setLength (handleSlot m.handle)).accepted (handleSlot m.handle) true).kvAnswer e (handleSlot m.handle)
      (if left = 0 then St.done else St.limit) 0 left 0 0 := by
  have none_bad : (pinList m.data).any (fun p => decide ((h.sess (handleSlot m.handle)).length ≤ p)
      || !h.pinHeld (handleSlot m.handle) p) = false := by
    rw [List.any_eq_false]
    intro p hp
    rw [(held p hp).2]
    simpa using (held p hp).1
  unfold State.kvPin
  simp only [hg, sparse, none_bad]
  rw [if_neg (not_not_intro size), if_neg Bool.false_ne_true, if_neg Bool.false_ne_true, if_neg Bool.false_ne_true]
  split
  next fits => rw [fits]
  next => rfl

theorem pin_passes (hp : s.AppendPasses e m 4 h g) (size : m.data.length = 4 * m.count)
    (sparse : (h.sess (handleSlot m.handle)).dense = false)
    (held : ∀ p ∈ pinList m.data, p < (h.sess (handleSlot m.handle)).length ∧ h.pinHeld (handleSlot m.handle) p = true) :
    ∃ u g', exec (.pin e m) s = .next u ∧ u.staging (handleSlot m.handle) = some g' ∧ g'.lens = g.lens
      ∧ g'.globals = (pinAll g.globals (pinList m.data)).1 ∧ (∀ p ∈ g.globals, p ∈ g'.globals)
      ∧ (∀ p ∈ g'.globals, p ∈ g.globals ∨ p ∈ pinList m.data)
      ∧ (∃ b, u.rp.answered = some (0x03, if ∀ p ∈ pinList m.data, p ∈ g'.globals then St.done else St.limit, b))
      ∧ (u.sess (handleSlot m.handle)).globals = g'.globals.length := by
  obtain ⟨ha, hg⟩ := kvMessage_passes (.pin e m) hp
  change (h.kvPin e m false).Aside _ at ha
  rw [kvPin_pins hg size sparse held] at ha
  obtain ⟨answered, keeps, -, count, -⟩ := kvEnd_spec (putStaging_self _ _ _) (reported_refl _) ha
  obtain ⟨old, new, -, whole⟩ := pinAll_mem (pinList m.data) g.globals
  simp only [whole] at answered
  exact ⟨_, _, rfl, keeps, rfl, rfl, old, new, answered, count⟩

/-- An UNPIN of pinned positions takes them out and releases what nothing holds any more, then the record follows. -/
theorem kvPin_unpins (hg : h.staging (handleSlot m.handle) = some g) (size : m.data.length = 4 * m.count)
    (pinned : ∀ p ∈ pinList m.data, p ∈ g.globals) :
    let w := h.putStaging (handleSlot m.handle) { g with globals := g.globals.filter (fun p => !(pinList m.data).contains p) }
    let v := (List.range w.layers).foldl (fun s l => s.releaseRule (handleSlot m.handle) l) w
    h.kvPin e m true = ((v.setLength (handleSlot m.handle)).accepted (handleSlot m.handle) true).kvAnswer e (handleSlot m.handle)
      St.done 0 0 0 0 := by
  have none_bad : (pinList m.data).any (fun p => !g.globals.contains p) = false := by
    rw [List.any_eq_false]
    intro p hp
    simpa using pinned p hp
  unfold State.kvPin
  simp only [hg, none_bad]
  rw [if_neg (not_not_intro size)]
  rfl

theorem unpin_passes (hp : s.AppendPasses e m 5 h g) (size : m.data.length = 4 * m.count) (pinned : ∀ p ∈ pinList m.data, p ∈ g.globals) :
    ∃ u g', exec (.unpin e m) s = .next u ∧ (∃ b, u.rp.answered = some (0x03, St.done, b)) ∧ u.staging (handleSlot m.handle) = some g'
      ∧ g'.lens = g.lens ∧ (∀ p, p ∈ g'.globals ↔ p ∈ g.globals ∧ p ∉ pinList m.data)
      ∧ (u.sess (handleSlot m.handle)).globals = g'.globals.length := by
  obtain ⟨ha, hg⟩ := kvMessage_passes (.unpin e m) hp
  change (h.kvPin e m true).Aside _ at ha
  rw [kvPin_unpins hg size pinned] at ha
  obtain ⟨answered, keeps, -, count, -⟩ := kvEnd_spec
    (((releaseRules_kept (kept_refl _) _ _).stagingAt _).trans (putStaging_self _ _ _)) (reported_refl _) ha
  refine ⟨_, _, rfl, answered, keeps, rfl, fun p => ?_, count⟩
  rw [List.mem_filter, Bool.not_eq_true', List.contains_eq_mem, decide_eq_false_iff_not]

/-- Settles O22: each form changes the layers or the globals as it says and ends as every append does. -/
theorem truncateAndPins : Obligations.TruncateAndPins := by
  rintro s h e m g slot rfl
  exact ⟨truncate_passes, pin_passes, unpin_passes⟩

/-! ### Eviction (R81, R203) -/

/-- Settles O24: the areas leave and their image stands in T3. -/
theorem evictionParksAreas : Obligations.EvictionParksAreas := by
  intro s t slot g a running due hg ha whole flash room
  obtain ⟨p, image, tier, lens, globals, area, staging, areas, images⟩ := evictStaging_spec (s := s.tick t) hg ha whole flash room
  have due' : (s.running && (s.tier.cold.any (fun c => c.slot == slot && c.unit == .staging slot)
      || (s.stagingEligible slot && s.tier.evicting.contains (slotDie slot, 1)))) = true := by
    rw [running, Bool.true_and, Bool.or_eq_true, Bool.and_eq_true]
    exact due
  have gone : ((s.tick t).evictStaging slot).staging slot = none := (congrArg (alGet slot) staging).trans (alGet_alErase_self _ _)
  refine ⟨_, p, (next_ite_pos due').trans (congrArg Host.Outcome.next (if_neg (by rw [gone]; decide))), gone,
    (congrArg (alGet slot) areas).trans (alGet_alErase_self _ _), image, tier, lens, globals, area, fun x other => ⟨?_, ?_, ?_⟩⟩
  · exact (congrArg (alGet x) staging).trans (alGet_alErase_ne other _)
  · exact (congrArg (alGet x) areas).trans (alGet_alErase_ne other _)
  · exact (congrArg (alGet x) images).trans (alGet_alSet_ne other _ _)

/-! ### Ageing and XLATE (R72, R99) -/

theorem sweep_leaf (s : State) (die : Nat) (k : PageKey) : (s.sweep die).leaf k = (s.leaf k).map (fun l =>
    if slotDie k.slot = die ∧ l.share = none ∧ 512 ≤ s.ageOf die l.age then { l with old := true } else l) := by
  unfold State.leaf
  rw [← alGet_mapKey (fun (k : PageKey) (l : Leaf) =>
    if slotDie k.slot = die ∧ l.share = none ∧ 512 ≤ s.ageOf die l.age then { l with old := true } else l)]
  refine congrArg (alGet k) (List.map_congr_left fun p _ => ?_)
  simp only [Option.isNone_iff_eq_none, decide_eq_true_eq]
  split <;> rfl

theorem sweep_sharedPage (s : State) (die d id : Nat) : (s.sweep die).sharedPage d id = (s.sharedPage d id).map (fun p =>
    if d = die ∧ 512 ≤ s.ageOf die p.age then { p with old := true } else p) := by
  unfold State.sharedPage
  refine Eq.trans (congrArg (alGet (d, id)) (List.map_congr_left fun p _ => ?_))
    (alGet_mapKey (fun (k : Nat × Nat) (p : SharedPage) => if k.1 = die ∧ 512 ≤ s.ageOf die p.age then { p with old := true } else p) _ _)
  simp only [decide_eq_true_eq]
  split <;> rfl

theorem mem_inval_tlb (s : State) (die : Nat) (v : Word) (x : Nat × Nat) : x ∈ (s.inval die v).kv.tlb ↔ x ∈ s.kv.tlb
    ∧ ¬ (x.1 = die ∧ (getBits v 63 48 = 0 ∨ (getBits v 47 0 ≤ x.2 ∧ x.2 < getBits v 47 0 + getBits v 63 48))) := by
  unfold State.inval
  rw [List.mem_filter]
  simp only [Bool.and_eq_true, Bool.or_eq_true, beq_iff_eq, decide_eq_true_eq, Bool.not_eq_true', ← Bool.not_eq_true]

/-- What a walk finds depends on the pages and the image's shape alone. -/
theorem entryOf_congr {s t : State} (kv : t.kv = s.kv) (start : t.start = s.start) (die vun : Nat) : t.entryOf die vun = s.entryOf die vun := by
  unfold State.entryOf State.leaf State.staging State.area State.stagingBlocks State.layers State.rowBytes State.kvh State.dim
  rw [kv, start]

theorem probeEffect_result (s : State) (die : Nat) (v : Word) :
    (s.probeEffect die v).reg die 0 Reg.XL_PROBE_RESULT = s.entryOf die (getBits v 47 0) := by
  unfold State.probeEffect State.probe
  refine (reg_setReg_ne _ _ (.inr (.inr (by decide)))).trans ((reg_setReg_self _ _ _ _ _).trans ?_)
  exact entryOf_congr rfl rfl _ _

theorem probeEffect_walks (s : State) (die : Nat) (v : Word) :
    (s.probeEffect die v).fld die 0 Fld.XL_TLB_STAT_WALKS = min (s.fld die 0 Fld.XL_TLB_STAT_WALKS + 1)
      (2 ^ (Fld.XL_TLB_STAT_WALKS.hi - Fld.XL_TLB_STAT_WALKS.lo + 1) - 1) := by
  unfold State.probeEffect State.probe
  rw [fld_bump _ _ _ _ (by decide) (by decide), fld_setReg_ne _ _ (.inr (.inr (by decide))), fld_store_ne _ _ (.inr (.inr (by decide)))]

/-- Settles O25: the sweep maps each entry, an invalidation filters the TLB, and a probe shows its walk. -/
theorem translationCommands : Obligations.TranslationCommands := by
  refine ⟨fun s t die running sweeps => ?sweep, fun s a v sel => ⟨fun accepted => ?inval, fun accepted => ?probe⟩⟩
  case sweep =>
    exact ⟨_, next_ite_pos (by rw [running, sweeps]; rfl), rfl, rfl, sweep_leaf (s.tick t) die, sweep_sharedPage (s.tick t) die⟩
  case inval =>
    obtain ⟨w, reports, -, run⟩ := regWrite_reported accepted rfl none (fun s _ => s.inval a.die v)
    refine ⟨_, congrArg Host.Outcome.next run, congrArg (·.leaves) reports.kv, congrArg (·.staging) reports.kv, fun x => ?_⟩
    rw [show s.kv = w.kv from reports.kv.symm]
    exact mem_inval_tlb w a.die v x
  case probe =>
    obtain ⟨w, reports, -, run⟩ := regWrite_reported accepted rfl none (fun s _ => s.probeEffect a.die v)
    refine ⟨_, congrArg Host.Outcome.next run, reports.kv, reports.ses, ?_, ?_⟩
    · exact (probeEffect_result w a.die v).trans (entryOf_congr reports.kv reports.start _ _)
    · refine (probeEffect_walks w a.die v).trans ?_
      rw [reports.fld _ _ (by decide)]
      rfl

end Sys2Proof.Proofs
end

section
/-! Attention: an accepted ATTEND, results fetched and released, and the walk's pages (R51, R126 to R134, R153 to R158). -/

namespace Sys2Proof.Proofs

open Sys2Proof Sys2Proof.Machine

variable {s h w : State} {e : Env}

/-! ### ATTEND (R126 to R130, R153) -/

/-- An ATTEND that passes R50 and R128 is carried out on the state that its data leaves. -/
theorem attendRun_passes {m : AttendMsg} {g : Staging} {n : Nat} {d : List Byte}
    (enabled : h.fld (slotDie (handleSlot m.handle)) 0 Fld.ATN_CTRL_ENABLE ≠ 0)
    (checks : h.r50 e m.handle m.epoch 0x43 false (fun _ => false) (h.holderCell e false) = none)
    (here : alGet (handleSlot m.handle) h.kv.images = none) (readable : e.areaFail = none)
    (fresh : h.attendRepeat (handleSlot m.handle) (attendKey m) = false) (staging : h.staging (handleSlot m.handle) = some g)
    (fields : h.attendFields m = true) (size : h.attendSizeOk (handleSlot m.handle) m = true)
    (data : h.openData e (handleSlot m.handle) (aflag m 2) m.qoff (h.attendSize m) m.data = (w, .inr d))
    (len : m.len = g.len m.layer + b2n (aflag m 0)) (step : w.stepFull (handleSlot m.handle) m.step = false)
    (store : w.storeFull (handleSlot m.handle) = false)
    (hn : n = if aflag m 0 = true ∧ g.len m.layer < Config.maxPositions (w.sess (handleSlot m.handle)).dense then 1 else 0)
    (room : w.allocTest (handleSlot m.handle) (w.appendNeed (handleSlot m.handle) m.layer 1 n) = none) :
    h.attendRun e m = w.attendApply e m (handleSlot m.handle) (bf16s d) := by
  unfold State.attendRun State.attendTests
  simp only [checks, needAreas_none here, readable, fresh, staging, fields, size, data, step, store, ← hn, room]
  rw [if_neg enabled]
  simp only [Bool.not_true, Bool.false_eq_true, if_false, len, ne_eq, not_true_eq_false]

/-- What an ATTEND that is carried out leaves: its entry in the store, the session's next RSEQ, and its row at the end of the layer. -/
theorem attendApply_enters {m : AttendMsg} {g : Staging} {a : FinArea} {slot n : Nat} (staging : w.staging slot = some g)
    (area : w.area slot = some a) (layer : m.layer < g.lens.length)
    (hn : n = if aflag m 0 = true ∧ g.len m.layer < Config.maxPositions (w.sess slot).dense then 1 else 0) (xs : List BF16) :
    ∃ r g', r ∈ (w.attendApply e m slot xs).attn.results ∧ r.slot = slot ∧ r.key = attendKey m ∧ r.ep = e.ep ∧ r.reqId = e.reqId
      ∧ r.rseq = a.rseqNext ∧ r.outFp32 = aflag m 1 ∧ r.dest = aflag m 3 ∧ r.dropped = b2n (aflag m 0) - n
      ∧ (w.attendApply e m slot xs).area slot = some { a with rseqNext := (a.rseqNext + 1) % 2 ^ 32 }
      ∧ (w.attendApply e m slot xs).staging slot = some g' ∧ ∀ l, g'.len l = if l = m.layer then g.len l + n else g.len l := by
  obtain ⟨g', rowStaging, rowAreas, dropped, lens⟩ := attendAppend_spec (row := xs.drop (w.qh * w.dim)) staging layer hn
  rcases happ : w.attendAppend slot m (xs.drop (w.qh * w.dim)) with ⟨v, k⟩
  rw [happ] at rowStaging rowAreas dropped
  have vArea : v.area slot = some a := (congrArg (alGet slot) rowAreas).trans area
  unfold State.attendApply
  simp only [happ, vArea]
  generalize hr : v.newResult e m slot a.rseqNext k (xs.take (w.qh * w.dim)) (xs.any bfNonfinite) = r
  obtain ⟨r', mem, core, kept⟩ := addResult_spec
    ((v.putArea slot { a with rseqNext := (a.rseqNext + 1) % 2 ^ 32 }).accepted slot true) e r
  obtain ⟨cRseq, cEp, -, cSlot, cKey, cReq, cOut, cDest, cDropped⟩ := core_parts core
  subst hr
  exact ⟨r', g', mem, cSlot, cKey, cEp, cReq, cRseq, cOut, cDest, cDropped.trans dropped,
    (kept.areaAt slot).trans (alGet_alSet_self _ _ _), (kept.stagingAt slot).trans rowStaging, lens⟩

theorem aside_mem_core {a b : State} (h : a.Aside b) {r : Result} (hr : r ∈ a.attn.results) : ∃ r' ∈ b.attn.results, r'.core = r.core := by
  obtain ⟨r', mem, later⟩ := laters_mem (aside_borne h).results hr
  exact ⟨r', mem, later.1⟩

/-- Settles O26: the ATTEND is carried out, and the end of its message leaves the entry's core and the areas. -/
theorem attendTakesEntry : Obligations.AttendTakesEntry := by
  rintro s _ w e m g a _ n d rfl enters rfl enabled checks here readable fresh staging area fields layer size data len step store hn room
  have before := kept_trans ⟨congrArg Kv.staging (heard_kv' s e 6 (some (handleSlot m.handle))),
    congrArg Kv.areas (heard_kv' s e 6 _), congrArg Kv.images (heard_kv' s e 6 _)⟩ (openData_kept data)
  have runs := message_aside enters (.attend e m) (some (handleSlot m.handle))
    (resHeader m.handle 0 0 m.step m.layer (attendRflags m) 0 0 0 0) (fun s => s.attendRun e m)
  rw [attendRun_passes enabled checks ((congrArg (fun k => alGet _ k.images) (heard_kv' _ _ _ _)).trans here) readable fresh
    ((heard_staging _ _ _ _ _).trans staging) fields size data len step store hn room] at runs
  obtain ⟨r, g', mem, eSlot, eKey, eEp, eReq, eRseq, eOut, eDest, eDropped, area', staging', lens⟩ :=
    attendApply_enters (e := e) ((before.stagingAt _).trans staging) ((before.areaAt _).trans area) layer hn (bf16s d)
  obtain ⟨r', mem', core⟩ := aside_mem_core runs mem
  obtain ⟨cRseq, cEp, -, cSlot, cKey, cReq, cOut, cDest, cDropped⟩ := core_parts core
  have after := aside_kept runs
  exact ⟨_, r', g', _, rfl, mem', cSlot.trans eSlot, cKey.trans eKey, cEp.trans eEp, cReq.trans eReq, cRseq.trans eRseq,
    cOut.trans eOut, cDest.trans eDest, cDropped.trans eDropped, (after.areaAt _).trans area', rfl, (after.stagingAt _).trans staging', lens⟩

/-! ### Results (R51, R132, R156, R158) -/

/-- A fetch that passes its checks is served. -/
theorem fetchRun_serves {m : FetchMsg} {r : Result} (found : h.result (handleSlot m.handle) (fetchKey m) = some r)
    (checks : h.fetchCheck e m (h.retainedFor e (handleSlot m.handle) r) = none) (readable : e.areaFail = none)
    (here : alGet (handleSlot m.handle) h.kv.images = none) :
    h.fetchRun e m = (if h.retainedFor e (handleSlot m.handle) r = true then h else h.accepted (handleSlot m.handle) false).serveFetch e 0x07
      m.handle (fetchKey m) := by
  unfold State.fetchRun
  simp only [found, checks, readable, needAreas_none here]
  split <;> rfl

theorem heard_image (s : State) (e : Env) (type : Nat) (slot : Option Nat) (x : Nat) :
    alGet x (s.heard e type slot).kv.images = alGet x s.kv.images := congrArg (fun k => alGet x k.images) (heard_kv' s e type slot)

theorem fetch_serves {m : FetchMsg} {r : Result} (enters : s.Enters e 0x07) (hh : h = s.heard e 0x07 (some (handleSlot m.handle)))
    (found : h.result (handleSlot m.handle) (fetchKey m) = some r) (complete : r.complete = true) (readable : e.areaFail = none)
    (checks : h.fetchCheck e m (h.retainedFor e (handleSlot m.handle) r) = none)
    (here : alGet (handleSlot m.handle) s.kv.images = none) :
    ∃ u, exec (.resultFetch e m) s = .next u ∧ u.rp.answered = some (0x07, r.nextStatus,
        (if h.retainedFor e (handleSlot m.handle) r = true then h else h.accepted (handleSlot m.handle) false).returnBody r true)
      ∧ (u.attn.results.map (fun x => (x.slot, x.key)) = h.attn.results.map (fun x => (x.slot, x.key))) ∧ u.kv = s.kv := by
  subst hh
  have runs := message_aside enters (.resultFetch e m) (some (handleSlot m.handle)) (resHeader m.handle 0 0 m.step m.layer 0 0 0 0 0)
    (fun s => s.fetchRun e m)
  rw [fetchRun_serves found checks readable ((heard_image s e 7 _ _).trans here)] at runs
  generalize hv : (if (s.heard e 0x07 (some (handleSlot m.handle))).retainedFor e (handleSlot m.handle) r = true then
    s.heard e 0x07 (some (handleSlot m.handle)) else (s.heard e 0x07 (some (handleSlot m.handle))).accepted (handleSlot m.handle) false) = v
    at runs ⊢
  have same : v.attn = (s.heard e 0x07 (some (handleSlot m.handle))).attn ∧ v.kv = s.kv := by
    rw [← hv]
    split
    · exact ⟨rfl, heard_kv' ..⟩
    · exact ⟨rfl, heard_kv' ..⟩
  have found' : v.result (handleSlot m.handle) (fetchKey m) = some r :=
    (congrArg (fun a => a.results.find? (fun r => r.is (handleSlot m.handle) (fetchKey m))) same.1).trans found
  obtain ⟨answered, keys, kv⟩ := serveFetch_spec (e := e) (type := 7) found' complete
  refine ⟨_, rfl, runs.answered.trans answered, ?_, runs.kv.trans (kv.trans same.2)⟩
  exact (keys_of_still runs.results).trans (keys.trans (congrArg (fun a => a.results.map (fun x => (x.slot, x.key))) same.1))

/-- A release by the holder that passes its checks drops what it names and raises the mark. -/
theorem releaseRun_drops {m : FetchMsg}
    (held : ∀ r, h.result (handleSlot m.handle) (fetchKey m) = some r → h.retainedFor e (handleSlot m.handle) r = false)
    (checks : h.fetchCheck e m false = none) (here : alGet (handleSlot m.handle) h.kv.images = none) :
    h.releaseRun e m = (((h.dropResults (handleSlot m.handle) (fun r => keyLe r.key (fetchKey m))).raiseMark (handleSlot m.handle)
      (fetchKey m)).accepted (handleSlot m.handle) false).releaseAnswer e m := by
  unfold State.releaseRun
  cases hr : h.result (handleSlot m.handle) (fetchKey m) with
  | none =>
    simp only [hr, checks, needAreas_none here]
    rfl
  | some r =>
    simp only [hr, held r hr, checks, needAreas_none here]
    rfl

/-- Dropping the results of a session up to a key takes just their keys. -/
theorem dropResults_upTo (s : State) (slot : Nat) (k : ResKey) :
    (s.dropResults slot (fun r => keyLe r.key k)).keys = s.keys.filter (fun x => !(x.1 == slot && keyLe x.2 k))
      ∧ (s.dropResults slot (fun r => keyLe r.key k)).kv = s.kv := by
  obtain ⟨keys, kv⟩ := dropResults_keys ((s.attn.results.filter (fun r => r.slot == slot && keyLe r.key k)).map (·.key)) slot s
  refine ⟨keys.trans (List.filter_congr fun x hx => congrArg _ ?_), kv⟩
  obtain ⟨r, hr, rfl⟩ := List.mem_map.1 hx
  by_cases hslot : r.slot = slot
  · have : (((s.attn.results.filter (fun r => r.slot == slot && keyLe r.key k)).map (·.key)).contains r.key) = keyLe r.key k := by
      rw [Bool.eq_iff_iff, List.contains_iff_mem, List.mem_map]
      constructor
      · rintro ⟨r', mem, same⟩
        have := (Bool.and_eq_true _ _ ▸ (List.mem_filter.1 mem).2).2
        rwa [same] at this
      · intro le
        exact ⟨r, List.mem_filter.2 ⟨hr, by simp [hslot, le]⟩, rfl⟩
    rw [this]
  · rw [beq_eq_false_iff_ne.2 hslot, Bool.false_and, Bool.false_and]

theorem keyLe_raised {k : ResKey} {a a' : FinArea} (stays : keyLe k a.mark = true → a' = a) (rises : keyLe k a.mark = false → a'.mark = k) :
    keyLe a.mark a'.mark = true := by
  cases hk : keyLe k a.mark with
  | true => exact stays hk ▸ keyLe_refl _
  | false =>
    rw [rises hk]
    exact (keyLe_total a.mark k).resolve_right (by rw [hk]; decide)

theorem release_drops {m : FetchMsg} {a : FinArea} (enters : s.Enters e 0x08) (hh : h = s.heard e 0x08 (some (handleSlot m.handle)))
    (held : ∀ r, h.result (handleSlot m.handle) (fetchKey m) = some r → h.retainedFor e (handleSlot m.handle) r = false)
    (checks : h.fetchCheck e m false = none) (here : alGet (handleSlot m.handle) s.kv.images = none)
    (area : s.area (handleSlot m.handle) = some a) :
    ∃ u a', exec (.resultRelease e m) s = .next u ∧ (∃ b, u.rp.answered = some (0x08, St.done, b))
      ∧ u.attn.results.map (fun x => (x.slot, x.key)) = (h.attn.results.map (fun x => (x.slot, x.key))).filter
          (fun x => !(x.1 == handleSlot m.handle && keyLe x.2 (fetchKey m)))
      ∧ u.area (handleSlot m.handle) = some a' ∧ keyLe (fetchKey m) a'.mark = true ∧ keyLe a.mark a'.mark = true := by
  subst hh
  have runs := message_aside enters (.resultRelease e m) (some (handleSlot m.handle)) (resHeader m.handle 0 0 m.step m.layer 0 0 0 0 0)
    (fun s => s.releaseRun e m)
  rw [releaseRun_drops held checks ((heard_image s e 8 _ _).trans here)] at runs
  obtain ⟨keys, kv⟩ := dropResults_upTo (s.heard e 8 (some (handleSlot m.handle))) (handleSlot m.handle) (fetchKey m)
  generalize State.dropResults (s.heard e 8 (some (handleSlot m.handle))) (handleSlot m.handle) _ = v at keys kv runs
  obtain ⟨results, -, -, raised⟩ := raiseMark_spec v (handleSlot m.handle) (fetchKey m)
  obtain ⟨a', area', reaches, stays, rises⟩ := raised a
    ((congrArg (fun k : Kv => alGet (handleSlot m.handle) k.areas) kv).trans ((heard_area _ _ _ _ _).trans area))
  have answers : ((v.raiseMark (handleSlot m.handle) (fetchKey m)).accepted (handleSlot m.handle) false).Reported
      (((v.raiseMark (handleSlot m.handle) (fetchKey m)).accepted (handleSlot m.handle) false).releaseAnswer e m) :=
    State.answer_reported (reported_refl _)
  refine ⟨_, a', rfl, ⟨_, runs.answered⟩, ?_, ?_, reaches, keyLe_raised stays rises⟩
  · exact (keys_of_still (runs.results.trans answers.results)).trans ((congrArg (List.map _) results).trans keys)
  · exact ((kept_trans (reported_kept answers) (aside_kept runs)).areaAt _).trans area'

theorem autoRelease_leaves (s : State) (slot : Nat) (key : ResKey) :
    (s.autoRelease slot key).keys = s.keys.filter (fun x => x ≠ (slot, key))
      ∧ (∀ a, (s.autoRelease slot key).area slot = some a → keyLe key a.mark = true) ∧ (s.autoRelease slot key).ses = s.ses := by
  obtain ⟨keys, ses, -⟩ := dropResult_spec s slot key
  obtain ⟨results, reaches, ses', -⟩ := raiseMark_spec (s.dropResult slot key) slot key
  exact ⟨(congrArg (List.map _) results).trans keys, reaches, ses'.trans ses⟩

theorem exec_autoRelease_of_due {t slot : Nat} {key : ResKey} {r : Result} (running : s.running = true)
    (found : s.result slot key = some r) (due : s.autoDue r = true) :
    exec (.autoRelease t slot key) s = .next ((s.tick t).autoRelease slot key) := by
  show execAutoRelease t slot key s = _
  unfold execAutoRelease
  rw [found]
  exact next_ite_pos (by rw [running, due]; rfl)

theorem exec_retentionEnd_of_over {t slot : Nat} {key : ResKey} {r : Result} (running : s.running = true)
    (found : s.result slot key = some r) (retained : s.retentionOver r = true) :
    exec (.retentionEnd t slot key) s = .next ((s.tick t).dropResult slot key) := by
  show execRetentionEnd t slot key s = _
  unfold execRetentionEnd
  rw [found]
  exact next_ite_pos (by rw [running, retained]; rfl)

/-- Settles O27: a fetch returns the entry, and a release, an automatic release and the end of retention drop theirs. -/
theorem resultsReturnAndLeave : Obligations.ResultsReturnAndLeave := by
  refine ⟨?_, fun s t slot key r running found => ⟨fun due => ?auto, fun retained => ?retention⟩⟩
  · rintro s h e m slot rfl
    exact ⟨fun r => fetch_serves, fun a => release_drops⟩
  case auto => exact ⟨_, exec_autoRelease_of_due running found due, autoRelease_leaves (s.tick t) slot key⟩
  case retention => exact ⟨_, exec_retentionEnd_of_over running found retained, dropResult_spec (s.tick t) slot key⟩

/-! ### The walk (R133, R134) -/

/-- The first page of the walk's unbroken end: that of the window, or page 0 in a dense session. -/
def firstPage (dense : Bool) (window n : Nat) : Nat := if dense then 0 else (n - window) / 16

/-- The pages of global positions before the unbroken end, each once. -/
def lowPages (dense : Bool) (window n : Nat) (globals : List Nat) : List Nat :=
  ((globals.filter (fun p => decide (p < n) && decide (p / 16 < firstPage dense window n))).map (· / 16)).eraseDups

theorem attendedPages_eq (dense : Bool) (window n : Nat) (globals : List Nat) : attendedPages dense window n globals =
    (lowPages dense window n globals).foldl (fun l p => insertPos p l) []
      ++ (List.range (ceilDiv n 16 - firstPage dense window n)).map (· + firstPage dense window n) := rfl

theorem mem_lowPages (dense : Bool) (window n : Nat) (globals : List Nat) (page : Nat) : page ∈ lowPages dense window n globals ↔
    page < firstPage dense window n ∧ ∃ p ∈ globals, p < n ∧ p / 16 = page := by
  unfold lowPages
  rw [List.mem_eraseDups, List.mem_map]
  simp only [List.mem_filter, Bool.and_eq_true, decide_eq_true_eq]
  constructor
  · rintro ⟨p, ⟨hp, hn, hlt⟩, rfl⟩
    exact ⟨hlt, p, hp, hn, rfl⟩
  · rintro ⟨hlt, p, hp, hn, rfl⟩
    exact ⟨p, ⟨hp, hn, hlt⟩, rfl⟩

theorem lowPages_sorted (dense : Bool) (window n : Nat) (globals : List Nat) :
    ((lowPages dense window n globals).foldl (fun l p => insertPos p l) []).Pairwise (· < ·)
      ∧ ∀ x, x ∈ (lowPages dense window n globals).foldl (fun l p => insertPos p l) [] ↔ x ∈ lowPages dense window n globals := by
  obtain ⟨sorted, mem⟩ := insertAll_spec (lowPages dense window n globals) [] List.Pairwise.nil (eraseDups_nodup _ _ (Nat.le_refl _))
    (fun _ _ => List.not_mem_nil)
  exact ⟨sorted, fun x => by rw [mem]; simp⟩

theorem mem_attendedPages (dense : Bool) (window n : Nat) (globals : List Nat) (page : Nat) :
    page ∈ attendedPages dense window n globals ↔ (page < firstPage dense window n ∧ ∃ p ∈ globals, p < n ∧ p / 16 = page)
      ∨ (firstPage dense window n ≤ page ∧ 16 * page < n) := by
  rw [attendedPages_eq, List.mem_append, (lowPages_sorted dense window n globals).2, mem_lowPages, List.mem_map]
  refine or_congr_right ⟨?_, fun ⟨from_, below⟩ => ⟨page - firstPage dense window n, List.mem_range.2 ?_, by omega⟩⟩
  · rintro ⟨i, hi, rfl⟩
    rw [List.mem_range, ceilDiv] at hi
    exact ⟨by omega, by omega⟩
  · unfold ceilDiv
    omega

/-- R133: a page of the unbroken end holds an attended position, its last one or one of the window. -/
theorem attended_of_unbroken {dense : Bool} {window n page : Nat} (globals : List Nat) (hw : 0 < window)
    (start : firstPage dense window n ≤ page) (below : 16 * page < n) :
    ∃ r, r < 16 ∧ attendedPos dense window n globals (16 * page + r) = true := by
  unfold attendedPos
  cases dense with
  | true => exact ⟨0, by decide, by simpa using below⟩
  | false =>
    change (n - window) / 16 ≤ page at start
    refine ⟨max (16 * page) (n - window) - 16 * page, by omega, ?_⟩
    have inRange : 16 * page + (max (16 * page) (n - window) - 16 * page) < n := by omega
    have inWindow : n - window ≤ 16 * page + (max (16 * page) (n - window) - 16 * page) := by omega
    simp only [inRange, inWindow, decide_true, Bool.true_or, Bool.or_true, Bool.and_self]

/-- R133: a page before the unbroken end holds an attended position exactly when it holds a global one. -/
theorem attended_before_window {dense : Bool} {window n page : Nat} (globals : List Nat) (before : page < firstPage dense window n) (r : Nat)
    (hr : r < 16) : attendedPos dense window n globals (16 * page + r) = true ↔ 16 * page + r < n ∧ 16 * page + r ∈ globals := by
  cases dense with
  | true => exact absurd before (Nat.not_lt_zero _)
  | false =>
    change page < (n - window) / 16 at before
    have outside : decide (n - window ≤ 16 * page + r) = false := decide_eq_false (by omega)
    unfold attendedPos
    rw [outside]
    simp

/-- Settles O29: the pages before the window are those of the globals, sorted, and from it on every page holds an attended position. -/
theorem walkCoversAttended : Obligations.WalkCoversAttended := by
  refine fun dense window n globals hw => ⟨fun page => ?_, ?_⟩
  · rw [mem_attendedPages]
    rcases Nat.lt_or_ge page (firstPage dense window n) with before | start
    · simp only [before, true_and, Nat.not_le.2 before, false_and, or_false]
      constructor
      · rintro ⟨p, hp, hn, rfl⟩
        have eq : 16 * (p / 16) + p % 16 = p := Nat.div_add_mod p 16
        exact ⟨p % 16, Nat.mod_lt _ (by decide), (attended_before_window globals before _ (Nat.mod_lt _ (by decide))).2 (by rw [eq]; exact ⟨hn, hp⟩)⟩
      · rintro ⟨r, hr, attended⟩
        obtain ⟨below, mem⟩ := (attended_before_window globals before r hr).1 attended
        exact ⟨_, mem, below, by omega⟩
    · simp only [Nat.not_lt.2 start, false_and, false_or, start, true_and]
      refine ⟨attended_of_unbroken globals hw start, fun ⟨r, hr, attended⟩ => ?_⟩
      have : 16 * page + r < n := by
        unfold attendedPos at attended
        exact of_decide_eq_true (Bool.and_eq_true _ _ ▸ attended).1
      omega
  · rw [attendedPages_eq, List.pairwise_append]
    obtain ⟨sorted, mem⟩ := lowPages_sorted dense window n globals
    refine ⟨sorted, List.pairwise_map.2 (List.pairwise_lt_range.imp fun h => Nat.add_lt_add_right h _), fun a ha b hb => ?_⟩
    obtain ⟨i, -, rfl⟩ := List.mem_map.1 hb
    have := ((mem_lowPages ..).1 ((mem a).1 ha)).1
    omega

end Sys2Proof.Proofs
end

section
/-! The symbol and the text of a draw (R175 to R191). -/

namespace Sys2Proof.Proofs

open Sys2Proof Sys2Proof.Machine

/-- The candidates of a draw (R177, R185): allowed symbols whose logit is no NaN and not −∞, with the value that ranks them. -/
def candidates (m : FinMsg) (a : FinArea) (exempt : Bool) (allowed : List (F32 × Nat)) : List (Nat × F32) :=
  allowed.filterMap (fun p => (cleanLogit p.1).map (fun z =>
    (p.2, if exempt && decide (256 ≤ p.2) then z else penalise m (a.counts.getD p.2 0) z)))

/-- The logits of the symbols that the automaton allows, with their symbols (R185). -/
def allowedLogits (g : Option Gram) (auto : Auto) (ls : List F32) : List (F32 × Nat) :=
  ls.zipIdx.filter (fun p => match g with | some g => g.allows auto p.2 | none => true)

theorem mem_candidates {m : FinMsg} {a : FinArea} {exempt : Bool} {allowed : List (F32 × Nat)} {c : Nat × F32}
    (h : c ∈ candidates m a exempt allowed) : ∃ z, (z, c.1) ∈ allowed ∧ (cleanLogit z).isSome = true := by
  obtain ⟨⟨z, sym⟩, hp, hc⟩ := List.mem_filterMap.1 h
  obtain ⟨y, hy, rfl⟩ := Option.map_eq_some_iff.1 hc
  exact ⟨z, hp, Option.isSome_of_eq_some hy⟩

theorem mem_allowedLogits {g : Option Gram} {auto : Auto} {ls : List F32} {z : F32} {sym : Nat} (h : (z, sym) ∈ allowedLogits g auto ls) :
    ls[sym]? = some z ∧ ∀ x, g = some x → x.allows auto sym = true := by
  obtain ⟨hz, ha⟩ := List.mem_filter.1 h
  refine ⟨List.mem_zipIdx_iff_getElem?.1 hz, ?_⟩
  rintro x rfl
  exact ha

/-- A draw that ends in no dead end shows what `drawFrom` chose of its candidates. -/
theorem runDraw_drawn {s : State} {slot : Nat} {m : FinMsg} {f f' : FinState} {a b : FinArea} {ls : List F32} {o : FinOut}
    (h : s.runDraw slot m f a ls = .inr (f', b, o)) (alive : o.status ≠ St.deadEnd) :
    let cs := candidates m a (m.fflags / 16 % 2 == 1) (allowedLogits (s.gramOf slot) (autoOf f a) ls)
    let d := drawFrom m (s.sess slot).seed a.drawn cs
    cs ≠ [] ∧ o.symbol = d.sym ∧ o.wsel = d.wsel ∧ o.wtotal = d.wtotal := by
  intro cs d
  unfold State.runDraw at h
  extract_lets g auto nonf exempt allowed cs' d' c moved at h
  change (if cs.isEmpty then _ else _) = _ at h
  split at h
  next empty =>
    obtain ⟨-, -, rfl⟩ : _ ∧ _ ∧ _ = o := by simpa only [Sum.inr.injEq, Prod.mk.injEq] using h
    exact absurd rfl alive
  next eligible =>
    clear_value moved
    cases moved with
    | inl bad => cases h
    | inr auto' =>
      obtain ⟨-, -, rfl⟩ : _ ∧ _ ∧ _ = o := by simpa only [Sum.inr.injEq, Prod.mk.injEq] using h
      exact ⟨by simpa using eligible, rfl, rfl, rfl⟩

/-- R190, R191: a byte after held ones. -/
theorem detok_of_held {held : List Byte} (h : held ≠ []) (x : Byte) :
    detok held x = ([], held ++ [x]) ∧ utfProper ((held ++ [x]).map (·.toNat)) = true
    ∨ detok held x = (held ++ [x], []) ∧ utfPrefix ((held ++ [x]).map (·.toNat)) = true ∧ utfProper ((held ++ [x]).map (·.toNat)) = false
    ∨ detok held x = (fffd ++ (detokFresh x).1, (detokFresh x).2) := by
  unfold detok
  rw [if_neg (by simpa using h)]
  dsimp only
  split
  next isPrefix =>
    split
    next proper => exact .inl ⟨rfl, proper⟩
    next whole => exact .inr (.inl ⟨rfl, isPrefix, by simpa using whole⟩)
  next => exact .inr (.inr rfl)

theorem detok_text (held : List Byte) (x : Byte) : ((detok held x).2 = [] ∨ utfProper ((detok held x).2.map (·.toNat)) = true)
    ∧ ((detok held x).1 = [] ∨ ∃ k r, (detok held x).1 = k ++ r ∧ (k = [] ∨ k = fffd) ∧ (r = [] ∨ r = fffd
        ∨ utfPrefix (r.map (·.toNat)) = true ∧ utfProper (r.map (·.toNat)) = false)) := by
  obtain ⟨freshHeld, freshText⟩ := detokFresh_spec x
  by_cases h : held = []
  · subst h
    exact ⟨freshHeld, .inr ⟨[], _, rfl, .inl rfl, freshText⟩⟩
  · obtain ⟨e, proper⟩ | ⟨e, whole⟩ | e := detok_of_held h x
    · rw [e]
      exact ⟨.inr proper, .inl rfl⟩
    · rw [e]
      exact ⟨.inl rfl, .inr ⟨[], _, rfl, .inl rfl, .inr (.inr whole)⟩⟩
    · rw [e]
      exact ⟨freshHeld, .inr ⟨fffd, _, rfl, .inr rfl, freshText⟩⟩

/-- Settles O31: `drawFrom` chooses among candidates, and every byte is held, emitted whole, or broken off. -/
theorem drawnAndHeld : Obligations.DrawnAndHeld := by
  refine ⟨fun s slot m f f' a b ls o run alive => ?_, fun held x _ => detok_text held x⟩
  obtain ⟨eligible, symbol, wsel, wtotal⟩ := runDraw_drawn run alive
  obtain ⟨⟨v, mem⟩, share⟩ := drawFrom_mem m (s.sess slot).seed a.drawn eligible
  obtain ⟨z, allowed, clean⟩ := mem_candidates mem
  obtain ⟨logit, allows⟩ := mem_allowedLogits allowed
  rw [symbol, wsel, wtotal]
  exact ⟨z, logit, clean, allows, share⟩

end Sys2Proof.Proofs
end

section
/-! Moves between tiers as they end, and patrol scrub (R200, R205 to R207, R213 to R216). -/

namespace Sys2Proof.Proofs

open Sys2Proof Sys2Proof.Machine

variable {s : State}

/-! ### Moves (R200, R205 to R207, R215) -/

theorem exec_demotionComplete_of_move {t die : Nat} {u : UnitRef} {m : Move} (running : s.running = true)
    (move : s.moveOf die u (fun d => decide (2 ≤ d)) = some m) : exec (.demotionComplete t die u) s = .next ((s.tick t).demoted m) := by
  show execDemotionComplete t die u s = _
  unfold execDemotionComplete
  rw [move]
  exact next_ite_pos running

theorem exec_promotionComplete_of_move {t die : Nat} {u : UnitRef} {m : Move} (running : s.running = true)
    (move : s.moveOf die u (fun d => d == 1) = some m) (o : ReadOutcome) :
    exec (.promotionComplete t die u o) s = .next ((s.tick t).promoted m o) := by
  show execPromotionComplete t die u o s = _
  unfold execPromotionComplete
  rw [move]
  exact next_ite_pos running

theorem exec_t3ReadTimeout_of_move {t die : Nat} {u : UnitRef} {m : Move} (running : s.running = true)
    (move : s.moveOf die u (fun d => d == 1) = some m) (below : m.src = 3) :
    exec (.t3ReadTimeout t die u) s = .next ((s.tick t).promoFailed m (m.srcLoc * 128)) := by
  show execT3ReadTimeout t die u s = _
  unfold execT3ReadTimeout
  rw [move]
  exact next_ite_pos (by rw [running, below]; rfl)

/-- The end of a demotion leaves the entries as the move's end leaves them. -/
theorem demoted_leaves (s : State) (m : Move) : (s.demoted m).kv.leaves = (s.finishMove m).kv.leaves :=
  (State.runPromos_stood (stood_foldl (fun _ _ h => State.dormantTest_stood h) _ (stood_refl _))).leaves

/-- What the read of a promotion leaves before its outcome counts. -/
def promoRead (s : State) (m : Move) (o : ReadOutcome) : State := if m.src = 2 then s.noteT2At m.die m.srcLoc o else s

theorem promoRead_stood (s : State) (m : Move) (o : ReadOutcome) : s.Stood (promoRead s m o) :=
  stood_ite (State.noteT2At_stood (stood_refl s)) (stood_refl s)

theorem promoRead_quiet (s : State) (m : Move) (o : ReadOutcome) : s.Quiet (promoRead s m o) :=
  quiet_ite (State.noteT2At_quiet (quiet_refl s)) (quiet_refl s)

theorem promoted_of_read (s : State) (m : Move) {o : ReadOutcome} (h : o = .clean ∨ o = .corrected ∨ o = .reconstructed) :
    s.promoted m o = ((promoRead s m o).finishMove m).afterPromo m := by
  rcases h with rfl | rfl | rfl <;> rfl

/-- A move of a page whose entry names its source: the entry alone changes, and names the destination. -/
theorem leaf_finishMove {m : Move} {k : PageKey} {l : Leaf} (unit : m.unit = .page k.slot k.layer k.page) (leaf : s.leaf k = some l)
    (own : l.share = none) (tier : l.tier = m.src) (loc : l.loc = m.srcLoc) {t : State} (after : t.kv.leaves = (s.finishMove m).kv.leaves) :
    t.leaf k = some { (if m.dst = 1 then { l with age := s.stamp (slotDie k.slot), old := false } else l) with tier := m.dst, loc := m.loc }
      ∧ ∀ x, x ≠ k → t.leaf x = s.leaf x := by
  have leaves := after.trans (finishMove_page s m k l unit leaf own tier loc)
  exact ⟨(congrArg (alGet k) leaves).trans (alGet_alSet_self _ _ _), fun x other => (congrArg (alGet x) leaves).trans (alGet_alSet_ne other _ _)⟩

/-- A promotion that failed, whatever its read left before: the entries stand, and what waits for the unit is complete. -/
theorem promoFailed_of_quiet {v : State} (quiet : s.Quiet v) (m : Move) (addr : Nat) :
    (v.promoFailed m addr).kv.leaves = s.kv.leaves ∧ (v.promoFailed m addr).kv.shared = s.kv.shared
      ∧ ∀ w ∈ s.waitersOf m.unit, ∃ r, (v.promoFailed m addr).result w.1 w.2 = some r ∧ r.complete = true := by
  obtain ⟨leaves, shared, complete⟩ := promoFailed_spec v m addr
  exact ⟨leaves.trans quiet.leaves, shared.trans quiet.shared, fun w hw => complete w (by rwa [quiet_waiters quiet])⟩

/-- Settles O33: the end of a move retargets its page alone, and a failed one retargets nothing. -/
theorem movesEnd : Obligations.MovesEnd := by
  refine ⟨fun s t die k m l running leaf own tier loc => ⟨fun move => ?demotion, fun move o read => ?promotion⟩,
    fun s t die v m running move => ⟨fun addr => ?failed, fun below => ?timeout⟩⟩
  case demotion =>
    obtain ⟨-, unit, low⟩ := moveOf_spec move
    have notT1 : m.dst ≠ 1 := by
      have := of_decide_eq_true low
      omega
    refine ⟨_, exec_demotionComplete_of_move running move, ?_⟩
    have := leaf_finishMove (s := s.tick t) unit leaf own tier loc (demoted_leaves _ m)
    rwa [if_neg notT1] at this
  case promotion =>
    obtain ⟨-, unit, high⟩ := moveOf_spec move
    have toT1 : m.dst = 1 := by simpa using high
    have reads := promoRead_stood (s.tick t) m o
    refine ⟨_, (promoRead (s.tick t) m o).stamp (slotDie k.slot), exec_promotionComplete_of_move running move o, ?_⟩
    rw [promoted_of_read _ m read]
    obtain ⟨here, others⟩ := leaf_finishMove unit ((leaf_of reads.leaves k).trans leaf) own tier loc
      (State.afterPromo_stood (stood_refl ((promoRead (s.tick t) m o).finishMove m))).leaves
    rw [if_pos toT1, toT1] at here
    exact ⟨here, fun x other => (others x other).trans (leaf_of reads.leaves x)⟩
  case failed =>
    obtain ⟨-, rfl, -⟩ := moveOf_spec move
    exact ⟨_, exec_promotionComplete_of_move running move (.failed addr),
      promoFailed_of_quiet (promoRead_quiet (s.tick t) m (.failed addr)) m addr⟩
  case timeout =>
    obtain ⟨-, rfl, -⟩ := moveOf_spec move
    exact ⟨_, exec_t3ReadTimeout_of_move running move below, promoFailed_of_quiet (quiet_refl (s.tick t)) m _⟩

/-! ### Patrol scrub (R213, R216) -/

/-- Patrol's report of a sector: counted and logged with a kind, then what the kind brings about. -/
theorem patrol_logs (s : State) (die : Nat) (p : Place) (o : ReadOutcome) {kind : Nat}
    (h : (o = .corrected ∧ kind = 1) ∨ (o = .reconstructed ∧ kind = 2) ∨ ((∃ a, o = .failed a) ∧ kind = 3)) :
    ∃ f a, ((s.bump die p.cluster f).logErr die kind p.cluster p.channel false true p.stripe p.sector a).Logged (s.patrol die p o) := by
  rcases h with ⟨rfl, rfl⟩ | ⟨rfl, rfl⟩ | ⟨⟨_, rfl⟩, rfl⟩
  · exact ⟨_, _, State.noteCe_logged (State.nextFree_logged (logged_refl _))⟩
  · exact ⟨_, _, State.noteCe_logged (State.raiseOnce_logged (State.nextFree_logged (logged_refl _)))⟩
  · exact ⟨_, _, State.dataCheck_logged (State.nextFree_logged (logged_refl _))⟩

/-- Settles O34: patrol logs what it finds as the newest record, and a clean sector leaves nothing. -/
theorem patrolLogsErrors : Obligations.PatrolLogsErrors := by
  intro s t die cluster channel stripe sector running enabled hstripe hsector hchannel kept outside whole
  have reads : (s.running && s.fld die 0 Fld.MC_SCRUB_ENABLE == 1 && decide (stripe < clusterStripes ∧ sector < 32 ∧ channel < 8)
      && !s.isRetired die cluster (stripe / 2) && !s.inTest die cluster stripe && !s.dramDegraded die cluster channel) = true := by
    rw [running, enabled, kept, outside, whole, decide_eq_true ⟨hstripe, hsector, hchannel⟩]
    rfl
  refine ⟨⟨_, next_ite_pos reads, rfl, rfl⟩, fun o kind found => ?_⟩
  obtain ⟨f, a, after⟩ := patrol_logs (s.tick t) die ⟨cluster, channel, stripe, sector⟩ o found
  obtain ⟨r, last⟩ := logErr_last ((s.tick t).bump die cluster f) die kind cluster channel false true stripe sector a
  obtain ⟨t1a, t1b⟩ := logErr_t1 ((s.tick t).bump die cluster f) die kind cluster channel false true stripe sector a
  obtain ⟨newest, eKind, eCluster, eChannel, eStripe, eSector, ePatrol⟩ := Logged.pick after last
  exact ⟨_, r, next_ite_pos reads, newest, eKind, eCluster, eChannel, eStripe, eSector, ePatrol, after.t1a.trans t1a, after.t1b.trans t1b⟩

end Sys2Proof.Proofs
end

section
/-! Stores of control cores to T1 and the checker test mode (R208 to R213, R222). -/

namespace Sys2Proof.Proofs

open Sys2Proof Sys2Proof.Machine

variable {s z : State} {die : Nat} {p : Place}

/-! ### Stores (R211) -/

theorem t1_setT1_self (s : State) (die : Nat) (m : List Host.Cell) : (s.setT1 die m).t1 die = m := by
  unfold State.t1 State.setT1
  split <;> rfl

theorem t1_setT1_other (s : State) {die other : Nat} (m : List Host.Cell) (h : die = 0 ↔ other ≠ 0) : (s.setT1 die m).t1 other = s.t1 other := by
  unfold State.t1 State.setT1
  by_cases h0 : die = 0
  · rw [if_pos h0, if_neg (h.1 h0), if_neg (h.1 h0)]
  · have : other = 0 := by tauto
    rw [if_neg h0, if_pos this, if_pos this]

/-- R391: the copies that a checkpoint takes before a store leave T1, pages and sessions. -/
theorem cbwWrites_aside (s : State) (die : Nat) (f : Nat → Nat) (l : List Nat) :
    s.Aside (l.foldl (fun s i => s.cbwWrite die (f i)) s) := aside_foldl (fun _ _ h => State.cbwWrite_aside h) l (aside_refl s)

theorem storeT1_writes (s : State) (die a : Nat) (data : List Byte) :
    (s.storeT1 die a data).t1 die = memWrite (s.t1 die) a data
      ∧ (∀ other, (die = 0 ↔ other ≠ 0) → (s.storeT1 die a data).t1 other = s.t1 other)
      ∧ (s.storeT1 die a data).kv = s.kv ∧ (s.storeT1 die a data).ses = s.ses := by
  have copies := cbwWrites_aside s die (fun i => a / 128 + i) (List.range (ceilDiv (a + data.length) 128 - a / 128))
  unfold State.storeT1
  generalize (List.range (ceilDiv (a + data.length) 128 - a / 128)).foldl (fun s i => s.cbwWrite die (a / 128 + i)) s = w at copies
  have same : ∀ d, w.t1 d = s.t1 d := fun d => by
    unfold State.t1
    rw [copies.tier]
  have keeps : (w.setT1 die (memWrite (w.t1 die) a data)).kv = w.kv ∧ (w.setT1 die (memWrite (w.t1 die) a data)).ses = w.ses := by
    unfold State.setT1
    split <;> exact ⟨rfl, rfl⟩
  exact ⟨(t1_setT1_self ..).trans (by rw [same]), fun other h => (t1_setT1_other _ _ h).trans (same other),
    keeps.1.trans copies.kv, keeps.2.trans copies.ses⟩

/-- A store that is whole or cached, and breaks no limit, reaches T1. -/
theorem coreStore_reaches {core a : Nat} {cached : Bool} {data : List Byte} (whole : cached = true ∨ a % 64 = 0 ∧ data.length % 64 = 0)
    (row : s.tableRow die (a / 128) (ceilDiv (a + data.length) 128 - a / 128) = none) (scrub : s.inScrub die a data.length = false) :
    s.coreStore die core a cached data = s.storeT1 die a data := by
  have wide : (!cached && (a % 64 != 0 || data.length % 64 != 0)) = false := by
    rcases whole with rfl | ⟨ha, hl⟩
    · rfl
    · rw [ha, hl]
      cases cached <;> rfl
  unfold State.coreStore
  simp only [wide, row, scrub]
  rfl

/-- Settles O35: a store that breaks no limit writes its bytes, and one past the end of T1 has no meaning. -/
theorem coreStoreWritesT1 : Obligations.CoreStoreWritesT1 := by
  intro s t die core addr cached data awake bytes
  have starts : ¬ (s.coreAwake die core = false ∨ data.isEmpty) := by
    rw [awake]
    simpa using bytes
  refine ⟨fun fits whole row scrub => ?_, fun past => (if_neg starts).trans (if_pos past)⟩
  obtain ⟨here, others, kv, ses⟩ := storeT1_writes (s.tick t) die addr data
  refine ⟨_, (if_neg starts).trans ((if_neg (Nat.not_lt.2 fits)).trans (congrArg Host.Outcome.next
    (coreStore_reaches (s := s.tick t) whole row scrub))), fun i h => ?_, fun x out => ?_, fun h => ?_, fun h => ?_, kv, ses⟩
  · rw [here, memGet_memWrite_in]
  · rw [here, memGet_memWrite_out _ _ _ _ out]
    rfl
  · exact others 1 (by simp [h])
  · exact others 0 (by simp [h])

/-! ### Test mode (R222) -/

/-- `z` shows the test mode what `s` does: the tiers, and every register but MC_TEST_CTRL and those of reports. -/
structure TestView (s z : State) : Prop where
  tier : z.tier = s.tier
  reg : ∀ die sel r, r ∉ Reg.MC_TEST_CTRL :: chatter → z.reg die sel r = s.reg die sel r

theorem TestView.fld (h : TestView s z) (die sel : Nat) {f : Field} (hf : f.reg ∉ Reg.MC_TEST_CTRL :: chatter) :
    z.fld die sel f = s.fld die sel f := by
  unfold State.fld
  rw [h.reg _ _ _ hf]

theorem TestView.dramDegraded (h : TestView s z) (die cluster channel : Nat) :
    z.dramDegraded die cluster channel = s.dramDegraded die cluster channel := by
  unfold State.dramDegraded
  rw [h.fld _ _ (by decide)]

theorem TestView.inTest (h : TestView s z) (die cluster stripe : Nat) : z.inTest die cluster stripe = s.inTest die cluster stripe := by
  unfold State.inTest
  rw [h.fld _ _ (by decide), h.fld _ _ (by decide)]

theorem TestView.testPlace (h : TestView s z) (die cluster : Nat) : z.testPlace die cluster = s.testPlace die cluster := by
  unfold State.testPlace
  rw [h.fld _ _ (by decide), h.fld _ _ (by decide), h.fld _ _ (by decide)]

theorem TestView.testSector (h : TestView s z) (die : Nat) (p : Place) : z.testSector die p = s.testSector die p := testSector_of h.tier die p

/-- The registers of MC_TEST_DATA are none of a few others of their block, and none of another block. -/
theorem testDataReg_not_mem {i : Nat} (hi : i < 8) : (⟨0x07, 0x58 + 8 * i⟩ : RegId) ∉ Reg.MC_TEST_CTRL :: Reg.MC_COUNTS :: Reg.MC_ERRLOG
    :: Reg.MC_ERRLOG_HEAD :: Reg.MC_TEST_CHECK :: chatter := by
  interval_cases i <;> decide

theorem testDataReg_not_view {i : Nat} (hi : i < 8) : (⟨0x07, 0x58 + 8 * i⟩ : RegId) ∉ Reg.MC_TEST_CTRL :: chatter := by
  interval_cases i <;> decide

theorem TestView.testData (h : TestView s z) (die : Nat) : z.testData die = s.testData die :=
  testData_of fun _ hi => h.reg _ _ _ (testDataReg_not_view hi)

theorem TestView.rebuild (h : TestView s z) (die : Nat) (p : Place) : z.rebuild die p = s.rebuild die p := by
  unfold State.rebuild
  simp only [h.dramDegraded, h.testSector]

theorem TestView.testRead (h : TestView s z) (die : Nat) (p : Place) : z.testRead die p = s.testRead die p := by
  unfold State.testRead
  simp only [h.dramDegraded, h.testSector, h.rebuild]

theorem testRead_status (s : State) (die : Nat) (p : Place) : (s.testRead die p).2 ≤ 3 := by
  unfold State.testRead
  dsimp only
  generalize (if s.dramDegraded die p.cluster p.channel = true then none else _) = c
  rcases c with _ | ⟨d, _ | _⟩
  · cases s.rebuild die p <;> simp
  · simp
  · simp

/-- The state in which an accepted test command acts shows what the state before it does. -/
theorem testView_of_write {a : Acc} {w : State} (reports : (s.tick a.t).Reported w) (v : Word) :
    TestView s (w.store a.die 0 (rowOf Reg.MC_TEST_CTRL) v) := by
  refine ⟨reports.tier, fun d sel r hr => ?_⟩
  rw [List.mem_cons, not_or] at hr
  exact (reg_store_ne _ _ (.inr (.inr hr.1))).trans (reports.reg d sel r hr.2)

/-- The command of an operation number writes MC_TEST_CTRL with it. -/
theorem exec_test_row {a : Acc} {v : Word} {op : Nat} {c : Instr}
    (hc : ([.testWriteData a v, .testWriteCheck a v, .testWrite a v, .testWriteParity a v, .testReadRaw a v, .testRead a v] : List Instr)[op]? = some c) :
    op < 6 ∧ exec c s = .next (s.testRow a v op) := by
  have hop : op < 6 := (List.getElem?_eq_some_iff.1 hc).1
  refine ⟨hop, ?_⟩
  interval_cases op <;> (cases hc; rfl)

/-- The effect of a write of MC_TEST_CTRL that names an operation on a sector of the region. -/
theorem testEffect_runs {a : Acc} {v : Word} {op : Nat} {w : State} (hop : op < 6) (enable : getBits v 0 0 = 1) (go : getBits v 1 1 = 1)
    (view : TestView s (w.store a.die 0 (rowOf Reg.MC_TEST_CTRL) (setBits v 6 4 op)))
    (selects : w.selReg a.die a.rq Reg.MC_SEL = s.selReg a.die a.rq Reg.MC_SEL)
    (hp : p = s.testPlace a.die (s.selReg a.die a.rq Reg.MC_SEL % 8)) (inside : s.inTest a.die p.cluster p.stripe = true)
    (sector : p.sector < 31) :
    let z := w.store a.die 0 (rowOf Reg.MC_TEST_CTRL) (setBits v 6 4 op)
    w.testEffect a (setBits v 6 4 op) = (z.testRun a.die p op).1.setFld a.die 0 Fld.MC_TEST_CTRL_STATUS (z.testRun a.die p op).2 := by
  have hEnable : getBits (setBits v 6 4 op) 0 0 = 1 := (getBits_setBits_ne (by decide) (by decide) (by decide) (by decide) _ _).trans enable
  have hGo : getBits (setBits v 6 4 op) 1 1 = 1 := (getBits_setBits_ne (by decide) (by decide) (by decide) (by decide) _ _).trans go
  have hOp : getBits (setBits v 6 4 op) 6 4 = op := (getBits_setBits (by decide) (by decide) _ _).trans (Nat.mod_eq_of_lt (by omega))
  unfold State.testEffect State.testGo
  rw [hEnable, hGo, hOp, if_neg (by decide), selects]
  generalize w.store a.die 0 (rowOf Reg.MC_TEST_CTRL) (setBits v 6 4 op) = z at view ⊢
  have acts : (z.inTest a.die (s.selReg a.die a.rq Reg.MC_SEL % 8) p.stripe && decide (p.sector < 31 ∧ op < 6)) = true := by
    rw [view.inTest, show s.selReg a.die a.rq Reg.MC_SEL % 8 = p.cluster from (congrArg Place.cluster hp).symm, inside,
      decide_eq_true ⟨sector, hop⟩]
    rfl
  simp only [view.testPlace, ← hp]
  exact if_pos acts

/-- A command of the test mode that is let through runs its operation on its sector and shows the status. -/
theorem exec_test {a : Acc} {v : Word} {sel op : Nat} {c : Instr}
    (hc : ([.testWriteData a v, .testWriteCheck a v, .testWrite a v, .testWriteParity a v, .testReadRaw a v, .testRead a v] : List Instr)[op]? = some c)
    (accepted : s.Accepts a Reg.MC_TEST_CTRL (setBits v 6 4 op) sel) (enable : getBits v 0 0 = 1) (go : getBits v 1 1 = 1)
    (hp : p = s.testPlace a.die (s.selReg a.die a.rq Reg.MC_SEL % 8)) (inside : s.inTest a.die p.cluster p.stripe = true)
    (sector : p.sector < 31) :
    ∃ z, TestView s z ∧ exec c s = .next ((z.testRun a.die p op).1.setFld a.die 0 Fld.MC_TEST_CTRL_STATUS (z.testRun a.die p op).2) := by
  obtain ⟨hop, row⟩ := exec_test_row (s := s) hc
  obtain ⟨w, reports, -, run⟩ := regWrite_reported accepted rfl none (fun s _ => s.testEffect a (setBits v 6 4 op))
  have view := testView_of_write reports (setBits v 6 4 op)
  have selects : w.selReg a.die a.rq Reg.MC_SEL = s.selReg a.die a.rq Reg.MC_SEL :=
    congrArg BitVec.toNat (reports.reg a.die (rqCode a.rq) Reg.MC_SEL (by decide))
  have effect := testEffect_runs hop enable go view selects hp inside sector
  exact ⟨_, view, row.trans (congrArg Host.Outcome.next (run.trans effect))⟩

/-- A cluster with no degraded channel has none. -/
theorem dramDegraded_of_none (h : s.fld die p.cluster Fld.MC_DEGRADE_DEGRADED = 0) (channel : Nat) :
    s.dramDegraded die p.cluster channel = false := by
  unfold State.dramDegraded
  rw [h, Nat.zero_div]
  rfl

theorem testSector_setTest_self (s : State) (die : Nat) (p : Place) (data : BitVec 512) (check : BitVec 16) :
    (s.setTest { s.testSector die p with data := data, check := check }).testSector die p
      = { s.testSector die p with data := data, check := check } :=
  testSector_setTest s die p _ (testSector_at s die p)

/-- R212: the parity that a normal write leaves, from the old data and the old parity. -/
def newParity (s : State) (die : Nat) (p : Place) : BitVec 512 :=
  match (s.testRead die p).1 with
  | some d => (s.testSector die p.parity).data ^^^ d ^^^ s.testData die
  | none => BitVec.ofNat 512 s.freeVal

/-- R212: the sector that a normal write leaves. -/
def writtenSector (s : State) (die : Nat) (p : Place) : TestSector :=
  { s.testSector die p with data := s.testData die, check := checkWord (s.testData die) }

/-- R212: the parity sector that a normal write leaves. -/
def writtenParity (s : State) (die : Nat) (p : Place) : TestSector :=
  { s.testSector die p.parity with data := newParity s die p, check := checkWord (newParity s die p) }

/-- R212: a normal write off the parity channel writes the sector and the parity. -/
theorem testWrite_eq (whole : s.fld die p.cluster Fld.MC_DEGRADE_DEGRADED = 0) (off : p.channel ≠ p.stripe % 8) :
    s.testWrite die p = ((s.setTest (writtenSector s die p)).setTest (writtenParity s die p)).nextFree := by
  have also : ∀ x : TestSector, (s.setTest x).dramDegraded die p.cluster (p.stripe % 8) = false := fun _ => dramDegraded_of_none whole _
  unfold State.testWrite
  simp only [dramDegraded_of_none whole, also, off, Bool.false_eq_true, or_self, if_false]
  rfl

theorem testWrite_stores (whole : s.fld die p.cluster Fld.MC_DEGRADE_DEGRADED = 0) (off : p.channel ≠ p.stripe % 8) :
    (s.testWrite die p).testSector die p = writtenSector s die p ∧ (s.testWrite die p).testSector die p.parity = writtenParity s die p := by
  rw [testWrite_eq whole off]
  have atParity := testSector_at s die p.parity
  have apart : (writtenParity s die p).channel ≠ p.channel := by
    rw [show (writtenParity s die p).channel = p.stripe % 8 from atParity.2.2.2.1]
    exact off.symm
  exact ⟨(testSector_setTest_ne _ die p _ apart).trans (testSector_setTest_self s die p _ _),
    testSector_setTest _ die p.parity (writtenParity s die p) atParity⟩

/-- What a test read reports leaves MC_TEST_DATA. -/
theorem testData_of_report {f : Field} {kind cluster channel stripe sector addr : Nat} (hf : f.reg = Reg.MC_COUNTS) {w : State}
    (h : ((s.bump die cluster f).logErr die kind cluster channel true false stripe sector addr).nextFree.Reported w) :
    w.testData die = s.testData die := by
  refine testData_of fun i hi => ?_
  have apart := testDataReg_not_mem hi
  simp only [List.mem_cons, not_or] at apart
  obtain ⟨-, counts, log, head, -, chat⟩ := apart
  refine (h.reg _ _ _ (by simpa only [List.mem_cons, not_or] using chat)).trans ((logErr_reg _ _ _ _ _ _ _ _ _ _ _ _ head log).trans ?_)
  exact reg_setReg_ne _ _ (.inr (.inr (hf ▸ counts)))

/-- The state with what a test read made of the sector in MC_TEST_DATA. -/
def showRead (s : State) (die : Nat) (p : Place) : State :=
  match (s.testRead die p).1 with | some d => s.setTestData die d | none => s

theorem showRead_testData (s : State) (die : Nat) (p : Place) :
    (showRead s die p).testData die = (s.testRead die p).1.getD (s.testData die) := by
  unfold showRead
  cases (s.testRead die p).1 with
  | none => rfl
  | some d => exact testData_setTestData s die d

/-- R222: READ leaves in MC_TEST_DATA what the checker made of the sector, whatever it reports. -/
theorem testRun_read (s : State) (die : Nat) (p : Place) : ((s.testRun die p 5).1).testData die = (s.testRead die p).1.getD (s.testData die) := by
  rw [← showRead_testData]
  show State.testData (if (s.testRead die p).2 = 1 then (showRead s die p).memCe die p true false
    else if (s.testRead die p).2 = 2 then (showRead s die p).memFix die p true false
    else if (s.testRead die p).2 = 3 then (showRead s die p).memUe die p true false else showRead s die p) die = _
  split
  · exact testData_of_report (f := Fld.MC_COUNTS_CE) rfl (reported_refl _)
  · split
    · exact testData_of_report (f := Fld.MC_COUNTS_PARITY_FIX) rfl (State.raiseOnce_reported (reported_refl _))
    · split
      · exact testData_of_report (f := Fld.MC_COUNTS_UE) rfl (reported_refl _)
      · rfl

/-- R222: READ_RAW leaves both parts of the sector in MC_TEST_DATA and MC_TEST_CHECK. -/
theorem testRun_readRaw (s : State) (die : Nat) (p : Place) : ((s.testRun die p 4).1).testData die = (s.testSector die p).data
    ∧ ((s.testRun die p 4).1).fld die 0 Fld.MC_TEST_CHECK_CHECK = (s.testSector die p).check.toNat := by
  refine ⟨(testData_of fun i hi => ?_).trans (testData_setTestData s die (s.testSector die p).data), ?_⟩
  · have apart := testDataReg_not_mem hi
    simp only [List.mem_cons, not_or] at apart
    exact reg_setReg_ne _ _ (.inr (.inr apart.2.2.2.2.1))
  · exact (fld_setFld_self _ _ _ _ _ (by decide) (by decide)).trans (Nat.mod_eq_of_lt (s.testSector die p).check.isLt)

theorem testRun_status (s : State) (die : Nat) (p : Place) {op : Nat} (h : op < 6) :
    (s.testRun die p op).2 = if op = 5 then (s.testRead die p).2 else 0 := by
  interval_cases op <;> rfl

/-- The status of an operation stands in MC_TEST_CTRL and leaves what the operation left elsewhere. -/
theorem setStatus_shows (z : State) (die : Nat) {n : Nat} (hn : n ≤ 3) :
    let u := z.setFld die 0 Fld.MC_TEST_CTRL_STATUS n
    u.fld die 0 Fld.MC_TEST_CTRL_STATUS = n ∧ u.testData die = z.testData die
      ∧ u.fld die 0 Fld.MC_TEST_CHECK_CHECK = z.fld die 0 Fld.MC_TEST_CHECK_CHECK ∧ ∀ p, u.testSector die p = z.testSector die p := by
  refine ⟨(fld_setFld_self _ _ _ _ _ (by decide) (by decide)).trans (Nat.mod_eq_of_lt (by show n < 2 ^ 3; omega)),
    testData_of fun i hi => ?_, fld_setFld_ne _ _ (.inr (.inr (by decide))), fun p => testSector_of rfl die p⟩
  have apart := testDataReg_not_mem hi
  rw [List.mem_cons, not_or] at apart
  exact reg_setReg_ne _ _ (.inr (.inr apart.1))

/-- Settles O37: each operation does its own to the sector, and the status follows it. -/
theorem testModeActs : Obligations.TestModeActs := by
  intro s a v sel op p c hc accepted enable go hp inside sector whole
  obtain ⟨z, view, run⟩ := exec_test hc accepted enable go hp inside sector
  have hop := (exec_test_row (s := s) hc).1
  have zWhole : z.fld a.die p.cluster Fld.MC_DEGRADE_DEGRADED = 0 := (view.fld _ _ (by decide)).trans whole
  have status := testRun_status z a.die p hop
  obtain ⟨uStatus, uData, uCheck, uSector⟩ := setStatus_shows (z.testRun a.die p op).1 a.die (n := (z.testRun a.die p op).2) (by
    rw [status]
    split
    · exact testRead_status z a.die p
    · exact Nat.zero_le _)
  rw [← view.testData, ← view.testSector, ← view.testSector, ← view.testRead, ← view.fld a.die 0 (f := Fld.MC_TEST_CHECK_CHECK) (by decide)]
  refine ⟨_, run, ?_, ?_, ?_, ?_, ?_, ?_, fun h => ?_⟩
  · rintro rfl
    exact (uSector p).trans (testSector_setTest_self z a.die p _ _)
  · rintro rfl
    exact (uSector p).trans (testSector_setTest_self z a.die p _ _)
  · rintro rfl off
    obtain ⟨written, parity⟩ := testWrite_stores zWhole off
    rw [uSector, uSector, show (z.testRun a.die p 2).1 = z.testWrite a.die p from rfl, written, parity]
    refine ⟨rfl, rfl, fun d read => ?_⟩
    show newParity z a.die p = _
    unfold newParity
    rw [read]
  · rintro rfl
    exact (uSector p.parity).trans (testSector_setTest_self z a.die p.parity _ _)
  · rintro rfl
    exact ⟨uData.trans (testRun_readRaw z a.die p).1, uCheck.trans (testRun_readRaw z a.die p).2⟩
  · rintro rfl
    exact ⟨uData.trans (testRun_read z a.die p), uStatus⟩
  · rw [uStatus, status, if_neg (by omega)]

end Sys2Proof.Proofs
end

section
/-! The merge of an index (R256). -/

namespace Sys2Proof.Proofs

open Sys2Proof Sys2Proof.Machine

variable {s : State} {x : Index} {p : PendingIdx}

/-- A switch of an index makes the pending generation its current one and leaves its shape, its mark, and no new side entry. -/
theorem index_switchGen (s : State) (x : Index) (p : PendingIdx) (table : List Nat) :
    ∃ y, (s.switchGen x p table).index x.die x.num = some y ∧ y.gen = p.gen ∧ y.table = table ∧ y.shape = x.shape ∧ y.mark = x.mark
      ∧ ∀ e ∈ y.side, e ∈ x.side := by
  unfold State.switchGen
  extract_lets ctx s1 old s2
  have switched : (s2.raise x.die 0x57 { ctx := some ctx, a0 := x.num, a1 := p.gen.generation }).index x.die x.num
      = some { x with gen := p.gen, table, old := x.old ++ [old] } :=
    (index_of (congrArg Flash.indexes (raise_flash _ _ _ _).1) _ _).trans (index_setIndex _ _ rfl rfl)
  obtain ⟨-, -, keeps⟩ := retire_spec' (s2.raise x.die 0x57 { ctx := some ctx, a0 := x.num, a1 := p.gen.generation }) x.die x.num
  exact keeps _ switched

/-- A pending table that keeps its pages is placed as it stands. -/
theorem merge_of_kept (s : State) (x : Index) (h : newPageCount p = 0) :
    ∃ table, s.merge x p = some (s.switchGen x p table) ∧ table.length = p.table.length := by
  have kept : ∀ e ∈ p.table, e.isNone = false := fun e he => by
    have := List.filter_eq_nil_iff.1 (List.length_eq_zero_iff.1 h) e he
    cases e with
    | none => exact absurd rfl this
    | some _ => rfl
  obtain ⟨table, placed, length⟩ := placePages_kept x p.gen.generation p.table s 0 kept
  refine ⟨table, ?_, length⟩
  unfold State.merge
  rw [placed]
  rfl

theorem mergeEffect_of_bad {die num : Nat} {v : Word} (go : getBits v 63 63 = 1) (found : s.index die num = some x) (bad : mergeBad x p = true) :
    s.mergeEffect die num v (some p) = (s.store die num (rowOf Reg.WK_MERGE) v).setFld die num Fld.WK_MERGE_STATUS_REFUSED 1 := by
  unfold State.mergeEffect
  simp only [show (s.store die num (rowOf Reg.WK_MERGE) v).index die num = some x from found, bad]
  rw [if_neg (by omega), if_true]

theorem mergeEffect_of_kept {die num : Nat} {v : Word} (go : getBits v 63 63 = 1) (found : s.index die num = some x)
    (good : mergeBad x p = false) (kept : newPageCount p = 0) :
    ∃ table, s.mergeEffect die num v (some p) = (s.store die num (rowOf Reg.WK_MERGE) v).switchGen x p table
      ∧ table.length = p.table.length := by
  obtain ⟨table, merged, length⟩ := merge_of_kept (s.store die num (rowOf Reg.WK_MERGE) v) x kept
  refine ⟨table, ?_, length⟩
  unfold State.mergeEffect
  simp only [show (s.store die num (rowOf Reg.WK_MERGE) v).index die num = some x from found, good, merged]
  rw [if_neg (by omega), if_neg Bool.false_ne_true, Option.getD_some]

/-- Settles O39: a descriptor that does not fit is refused, and one that keeps its pages switches the index. -/
theorem mergeSwitchesGeneration : Obligations.MergeSwitchesGeneration := by
  intro s a v num p x accepted go found
  obtain ⟨w, reports, -, run⟩ := regWrite_reported accepted rfl (some p) (fun s num => s.mergeEffect a.die num v (some p))
  have found' : w.index a.die num = some x := (index_of (congrArg Flash.indexes reports.flash) _ _).trans found
  refine ⟨fun bad => ⟨_, congrArg Host.Outcome.next (run.trans (mergeEffect_of_bad go found' bad)), ?_, reports.flash⟩,
    fun good kept => ?_⟩
  · exact fld_setFld_self _ _ _ _ _ (by decide) (by decide)
  · obtain ⟨table, effect, length⟩ := mergeEffect_of_kept go found' good kept
    obtain ⟨y, current, gen, hTable, shape, mark, side⟩ := index_switchGen (w.store a.die num (rowOf Reg.WK_MERGE) v) x p table
    obtain ⟨hDie, hNum⟩ := index_at found
    rw [hDie, hNum] at current
    exact ⟨_, y, congrArg Host.Outcome.next (run.trans effect), current, gen, hTable ▸ length, shape, mark, side⟩

end Sys2Proof.Proofs
end

section
/-! RoCEv2 connections, received objects and frames, and reassembly (R276 to R284). -/

namespace Sys2Proof.Proofs

open Sys2Proof Sys2Proof.Machine

variable {s : State} {q : Qp} {die n t : Nat}

/-! ### Connections (R282, R284) -/

theorem portLive_of {port : Nat} (running : s.running = true) (link : (s.port port).link = true) : s.portLive port = true := by
  unfold State.portLive
  rw [running, link]
  rfl

/-- A connection that is set stays through what leaves the connections alone. -/
theorem qp_of_joined {w u : State} (set : w.qp die n = some q) (after : w.Joined u) : u.qp die n = some q := (qp_of after.qps _ _).trans set

/-- R282: a set-up that may be made makes a fresh connection. -/
theorem connect_qp {port src ep mtu : Nat} (ok : s.cmOk port src ep n mtu = true) :
    (s.connect port src ep n mtu).qp (portDie port) n = some {
      die := portDie port, qp := n, ep, port, mtu, error := false, migrated := false, acked := 0, sent := 0, retries := 0
      unacked := [], rateMbps := s.rate port * 1000, lastRise := s.now, cnpAt := none } := by
  have path : s.pathOk ep port src = true := by
    unfold State.cmOk at ok
    simp only [Bool.and_eq_true] at ok
    exact ok.1.1.1
  unfold State.connect
  rw [path, ok, if_neg (by decide), if_pos rfl]
  exact qp_of_joined (qp_setQp s _ rfl rfl) (State.sendKind3_joined (joined_refl _))

/-- R284: a connection as a notification leaves it. -/
def slowed (s : State) (die : Nat) (q : Qp) : Qp :=
  { q with rateMbps := q.rateMbps - q.rateMbps * s.fld die 0 Fld.GSP_RDMA_CFG_CUT / 256, lastRise := s.now }

section
variable (running : s.running = true) (found : s.qp die n = some q) (sound : q.error = false)
include running found sound

theorem exec_rdmaAckRx (psn : Nat) (nak : Bool) : exec (.rdmaAckRx t die n psn nak) s = .next ((s.tick t).rdmaAck q psn nak) := by
  show execRdmaAckRx t die n psn nak s = _
  unfold execRdmaAckRx
  rw [found]
  exact next_ite_pos (by rw [running, sound]; rfl)

theorem exec_rdmaRetryTimeout (waits : q.unacked ≠ []) : exec (.rdmaRetryTimeout t die n) s = .next ((s.tick t).rdmaTimeout q) := by
  show execRdmaRetryTimeout t die n s = _
  unfold execRdmaRetryTimeout
  rw [found]
  exact next_ite_pos (by rw [running, sound, List.isEmpty_eq_false_iff.2 waits]; rfl)

theorem exec_cnpRx : exec (.cnpRx t die n) s = .next (((s.tick t).setQp (slowed (s.tick t) die q)).bump die 0
    Fld.GSP_RDMA_COUNTS_CNP_RX) := by
  show execCnpRx t die n s = _
  unfold execCnpRx
  rw [found]
  exact next_ite_pos (by rw [running, sound]; rfl)

theorem exec_rateRise (due : q.lastRise + s.fld die 0 Fld.GSP_RDMA_CFG_RISE_US * 1000 ≤ max s.now t) :
    exec (.rateRise t die n) s = .next ((s.tick t).setQp { q with
      rateMbps := min (s.rate q.port * 1000) (q.rateMbps + s.fld die 0 Fld.GSP_RDMA_CFG_STEP_MBPS), lastRise := (s.tick t).now }) := by
  show execRateRise t die n s = _
  unfold execRateRise
  rw [found]
  exact next_ite_pos (by rw [running, sound, State.tick_now, decide_eq_true due]; rfl)

end

/-- R282: an acknowledgement takes off what it covers. -/
theorem rdmaAck_qp (found : s.qp die n = some q) (psn : Nat) (nak : Bool) :
    (s.rdmaAck q psn nak).qp die n = some { q with
      acked := max q.acked (if nak = true then psn else psn + 1), retries := 0
      unacked := q.unacked.filter (fun x => decide ((if nak = true then psn else psn + 1) ≤ x.1)) } := by
  obtain ⟨hDie, hQp⟩ := qp_at found
  exact qp_of_joined (qp_setQp s _ hDie hQp) (joined_ite (State.resend_joined (joined_refl _)) (joined_refl _))

/-- R282: what a timeout makes of a connection, with tries left, with another path, and with neither. -/
def afterTimeout (s : State) (q : Qp) : Qp :=
  if q.retries < s.fld q.die 0 Fld.GSP_RDMA_CFG_RETRY then { q with retries := q.retries + 1 }
  else match (if q.migrated then none else s.altPath q) with
    | some p => { q with port := p.port, migrated := true, retries := 0 }
    | none => { q with error := true, unacked := [] }

theorem rdmaTimeout_qp (found : s.qp die n = some q) : (s.rdmaTimeout q).qp die n = some (afterTimeout s q) := by
  obtain ⟨hDie, hQp⟩ := qp_at found
  unfold State.rdmaTimeout afterTimeout
  split
  · exact qp_of_joined (qp_setQp s _ hDie hQp) (State.resend_joined (joined_refl _))
  · cases (if q.migrated = true then none else s.altPath q) with
    | some p => exact qp_of_joined (qp_setQp s _ hDie hQp) (State.resend_joined (State.bump_joined (joined_refl _)))
    | none => exact qp_of_joined (qp_setQp s _ hDie hQp) (State.raise_joined (State.bump_joined (joined_refl _)))

theorem afterTimeout_cases (s : State) (q : Qp) :
    (q.retries < s.fld q.die 0 Fld.GSP_RDMA_CFG_RETRY → afterTimeout s q = { q with retries := q.retries + 1 })
      ∧ (s.fld q.die 0 Fld.GSP_RDMA_CFG_RETRY ≤ q.retries → ∀ p, q.migrated = false → s.altPath q = some p →
          afterTimeout s q = { q with port := p.port, migrated := true, retries := 0 })
      ∧ (s.fld q.die 0 Fld.GSP_RDMA_CFG_RETRY ≤ q.retries → q.migrated = true ∨ s.altPath q = none →
          afterTimeout s q = { q with error := true, unacked := [] }) := by
  unfold afterTimeout
  refine ⟨fun left => if_pos left, fun spent p here alt => ?_, fun spent stuck => ?_⟩
  · rw [if_neg (Nat.not_lt.2 spent), here, if_neg Bool.false_ne_true, alt]
  · rw [if_neg (Nat.not_lt.2 spent)]
    have : (if q.migrated = true then none else s.altPath q) = none := by
      rcases stuck with h | h
      · exact if_pos h
      · rw [h, ite_self]
    rw [this]

/-- Settles O42: each command sets the connection as it says, and what it sends leaves the connections alone. -/
theorem connectionsChange : Obligations.ConnectionsChange := by
  refine fun s t running => ⟨fun port src ep n mtu link ok => ⟨_, _, next_ite_pos (portLive_of running link), connect_qp (s := s.tick t) ok, rfl,
    rfl, rfl, rfl, rfl⟩, fun die n q found sound => ⟨fun psn nak => ?ack, fun waits => ?timeout, ?cnp, fun due => ?rise⟩⟩
  case ack => exact ⟨_, _, exec_rdmaAckRx running found sound psn nak, rdmaAck_qp (s := s.tick t) found psn nak, rfl, rfl, rfl⟩
  case timeout =>
    refine ⟨_, _, exec_rdmaRetryTimeout running found sound waits, rdmaTimeout_qp (s := s.tick t) found, ?_⟩
    obtain ⟨hDie, -⟩ := qp_at found
    exact hDie ▸ afterTimeout_cases (s.tick t) q
  case cnp =>
    obtain ⟨hDie, hQp⟩ := qp_at found
    exact ⟨_, _, exec_cnpRx running found sound, qp_of_joined (qp_setQp _ (slowed _ _ q) hDie hQp)
      (State.bump_joined (joined_refl _)), rfl⟩
  case rise =>
    obtain ⟨hDie, hQp⟩ := qp_at found
    exact ⟨_, _, exec_rateRise running found sound due, qp_setQp _ _ hDie hQp, rfl⟩

/-! ### Received objects (R283) -/

/-- R284: a congestion notification changes connections and queues, which no ingest region is part of. -/
theorem congested_reported (s : State) (port : Nat) (q : Qp) : s.Reported (s.congested port q) := by
  have sends : s.Reported ((s.setQp { q with cnpAt := some s.now }).sendKind3 port q.ep 62 (.cnp q.qp)) :=
    State.send_reported (reported_mk (reported_refl s) rfl rfl rfl rfl rfl rfl rfl rfl rfl rfl rfl rfl rfl rfl rfl rfl rfl rfl rfl rfl)
  unfold State.congested
  exact reported_ite sends (reported_refl s)

theorem ingestBytes_congr {s u : State} (start : u.start = s.start) (die ctx : Nat) : u.ingestBytes die ctx = s.ingestBytes die ctx := by
  unfold State.ingestBytes State.context
  rw [start]

theorem listed_congr {s u : State} (start : u.start = s.start) (ctx ep : Nat) : u.listed ctx ep = s.listed ctx ep := by
  unfold State.listed State.context
  rw [start]

/-- R283: a WRITE inside the region of a listed context is placed, and nothing else enters an ingest region. -/
theorem rdmaRx_ingest (s : State) (port ctx : Nat) (q : Qp) (kind : Nat) (o : IngestObj) : (s.rdmaRx port ctx q kind o).net.ingest =
    if kind ≠ 0 ∨ s.listed ctx q.ep = false ∨ s.ingestBytes q.die ctx < o.off + 32 + o.length then s.net.ingest
    else ⟨q.die, ctx, o⟩ :: s.net.ingest.filter (fun (x : Ingest) =>
      !(x.die == q.die && x.ctx == ctx && rangesMeet x.obj.off (32 + x.obj.length) o.off (32 + o.length))) := by
  have acks : ∀ (w : State) (b : FrameBody), (w.sendKind3 port q.ep 50 b).net.ingest = w.net.ingest :=
    fun w b => (State.sendKind3_wired (wired_refl w)).ingest
  unfold State.rdmaRx
  dsimp only
  split
  next other => exact (acks _ _).trans (if_pos (Or.inl other)).symm
  next write =>
    split
    next out =>
      rw [Bool.or_eq_true, Bool.not_eq_true', decide_eq_true_eq] at out
      exact (acks _ _).trans (if_pos (Or.inr out)).symm
    next inside =>
      rw [Bool.or_eq_true, Bool.not_eq_true', decide_eq_true_eq] at inside
      exact (acks _ _).trans (if_neg (not_or.2 ⟨write, inside⟩)).symm

theorem exec_rdmaWriteRx {port ctx kind : Nat} {ce : Bool} {o : IngestObj} (running : s.running = true) (link : (s.port port).link = true)
    (found : s.qp (portDie port) n = some q) (sound : q.error = false) :
    ∃ u, exec (.rdmaWriteRx t port n ctx ce kind o) s = .next u ∧ u.net.ingest =
      if kind ≠ 0 ∨ s.listed ctx q.ep = false ∨ s.ingestBytes (portDie port) ctx < o.off + 32 + o.length then s.net.ingest
      else ⟨portDie port, ctx, o⟩ :: s.net.ingest.filter (fun (x : Ingest) =>
        !(x.die == portDie port && x.ctx == ctx && rangesMeet x.obj.off (32 + x.obj.length) o.off (32 + o.length))) := by
  obtain ⟨hDie, -⟩ := qp_at found
  have run : exec (.rdmaWriteRx t port n ctx ce kind o) s
      = .next ((if ce = true then (s.tick t).congested port q else s.tick t).rdmaRx port ctx q kind o) := by
    show execRdmaWriteRx t port n ctx ce kind o s = _
    unfold execRdmaWriteRx
    rw [found]
    exact next_ite_pos (by rw [portLive_of running link, sound]; rfl)
  have start : (if ce = true then (s.tick t).congested port q else s.tick t).start = s.start :=
    (reported_ite (congested_reported (s.tick t) port q) (reported_refl _)).start
  have ingest : (if ce = true then (s.tick t).congested port q else s.tick t).net.ingest = s.net.ingest :=
    (wired_ite (State.congested_wired (wired_refl (s.tick t))) (wired_refl _)).ingest
  refine ⟨_, run, (rdmaRx_ingest _ port ctx q kind o).trans ?_⟩
  rw [listed_congr start, ingestBytes_congr start, ingest, hDie]

/-! ### Received frames (R276 to R281) -/

/-- R278: a frame that fails one of steps 1 to 5 is dropped. -/
theorem frameRx_dropped {f : GspFrame} (fails : s.pathOk f.ep f.port f.src = false ∨ f.size ≠ 48 + f.length + 16
    ∨ s.keyOk (frKey f) = false ∨ f.tagOk = false ∨ s.seqOk (frKey f) f.seq = false) : ∃ c, s.frameRx f = s.dropFrame f c := by
  unfold State.frameRx
  split
  · exact ⟨_, rfl⟩
  · split
    · exact ⟨_, rfl⟩
    · split
      · exact ⟨_, rfl⟩
      · split
        · exact ⟨_, rfl⟩
        · split
          · exact ⟨_, rfl⟩
          · exfalso
            simp_all

theorem dropFrame_wired (s : State) (f : GspFrame) (c : Field) : s.Wired (s.dropFrame f c) :=
  State.raiseOnce_wired (State.bump_wired (wired_refl s))

/-- R278: a frame that passes every step reaches reassembly, its SEQ taken. -/
theorem frameRx_passes {f : GspFrame} (path : s.pathOk f.ep f.port f.src = true) (size : f.size = 48 + f.length + 16)
    (key : s.keyOk (frKey f) = true) (tag : f.tagOk = true) (seq : s.seqOk (frKey f) f.seq = true) (good : s.frameBad f = none) :
    s.frameRx f = (s.takeSeq (frKey f) f.seq).reassemble f := by
  have good' : (s.takeSeq (frKey f) f.seq).frameBad f = none := good
  unfold State.frameRx
  simp only [path, key, tag, seq, good']
  rw [if_neg (by decide), if_neg (by omega), if_neg (by decide), if_neg (by decide), if_neg (by decide)]

/-- R280: a reassembly as a frame opens it, before its own segment joins. -/
def emptyReasm (s : State) (f : GspFrame) : Reasm :=
  ⟨portDie f.port, frKey f, f.reqId, f.type, f.segCount, f.msgLen, frSegLen f, [], s.now⟩

/-- R280: the reassembly that a first frame leaves open. -/
def firstReasm (s : State) (f : GspFrame) : Reasm := { emptyReasm s f with segs := [(f.segIndex, f.payload)] }

/-- R280: the first frame of a message, when the pool holds it. -/
theorem reassemble_first {f : GspFrame} (fresh : s.reasmOf (frKey f) f.reqId = none)
    (room : s.poolUse (portDie f.port) + f.msgLen ≤ s.fld (portDie f.port) 0 Fld.GSP_LIMITS_POOL_KIB * 1024) :
    ∃ busy, s.reassemble f = State.joinReasm { s with net := { s.net with poolBusy := busy } }
      (emptyReasm s f) f := by
  unfold State.reassemble
  simp only [fresh]
  rw [if_neg (Nat.not_lt.2 room)]
  exact ⟨_, rfl⟩

/-- R278, R280: a first frame makes its message whole, or stands in its own reassembly. -/
theorem joinReasm_opens (s : State) (w : State) (f : GspFrame) :
    (f.segCount = 1 → ∃ m, (w.joinReasm (emptyReasm s f) f).net.ready = w.net.ready ++ [m] ∧ m.key = frKey f
        ∧ m.reqId = f.reqId ∧ m.type = f.type ∧ (f.segIndex = 0 → m.payload = f.payload))
      ∧ (f.segCount ≠ 1 → (w.joinReasm (emptyReasm s f) f).net.ready = w.net.ready
        ∧ (w.joinReasm (emptyReasm s f) f).reasmOf (frKey f) f.reqId = some (firstReasm s f)) := by
  rw [joinReasm_first w (emptyReasm s f) f rfl, show (emptyReasm s f).segCount = f.segCount from rfl]
  refine ⟨fun single => ?_, fun several => ?_⟩
  · rw [if_pos single.symm]
    refine ⟨_, rfl, rfl, rfl, rfl, fun first => ?_⟩
    show (firstReasm s f).payload = f.payload
    simp [Reasm.payload, firstReasm, emptyReasm, single, first, alGet]
  · rw [if_neg fun h => several h.symm]
    exact ⟨rfl, List.find?_cons_of_pos (by simp [emptyReasm])⟩

/-- R280: a reassembly whose time is over is given up, and nothing is added. -/
theorem exec_reasmTimeout {ep ctx keyGen reqId : Nat} {ekey : Bool} {r : Reasm} (running : s.running = true) (mem : r ∈ s.net.reasm)
    (hDie : r.die = die) (hKey : r.key = ⟨ep, if ekey = true then 0 else ctx, ekey, keyGen⟩) (hReq : r.reqId = reqId)
    (overdue : r.opened + s.fld 0 0 Fld.GSP_LIMITS_REASM_US * 1000 ≤ max s.now t) :
    ∃ u, exec (.reasmTimeout t die ep ctx ekey keyGen reqId) s = .next u ∧ r ∉ u.net.reasm ∧ (∀ x ∈ u.net.reasm, x ∈ s.net.reasm)
      ∧ u.net.ready = s.net.ready ∧ u.kv = s.kv := by
  show ∃ u, execReasmTimeout t die ep ctx ekey keyGen reqId s = .next u ∧ _
  unfold execReasmTimeout
  extract_lets k late
  have isLate : late r = true := by
    unfold late
    simp only [Bool.and_eq_true, beq_iff_eq, decide_eq_true_eq]
    exact ⟨⟨⟨hDie, hKey⟩, hReq⟩, overdue⟩
  refine ⟨_, next_ite_pos (by rw [running, find_some_any mem isLate]; rfl), fun h => ?_, fun x h => List.mem_of_mem_filter h, rfl, rfl⟩
  have := (List.mem_filter.1 h).2
  rw [isLate] at this
  cases this

/-- Settles O43: objects are placed by `rdmaRx`, frames join their messages by `frameRx`, and overdue reassemblies go. -/
theorem framesAndObjectsArrive : Obligations.FramesAndObjectsArrive := by
  refine fun s t running => ⟨fun port n ctx ce o q link found sound => ⟨fun listed fits => ?placed, fun kind refused => ?refused⟩,
    fun f link => ⟨fun path size key tag seq good fresh room => ?passes, fun fails => ?fails⟩,
    fun die ep ctx ekey keyGen reqId r mem hDie hKey hReq overdue => exec_reasmTimeout running mem hDie hKey hReq overdue⟩
  case placed =>
    obtain ⟨u, run, ingest⟩ := exec_rdmaWriteRx (t := t) (ctx := ctx) (kind := 0) (ce := ce) (o := o) running link found sound
    refine ⟨u, run, ingest.trans (if_neg ?_)⟩
    rw [listed]
    simpa using fits
  case refused =>
    obtain ⟨u, run, ingest⟩ := exec_rdmaWriteRx (t := t) (ctx := ctx) (kind := kind) (ce := ce) (o := o) running link found sound
    exact ⟨u, run, ingest.trans (if_pos refused)⟩
  case passes =>
    obtain ⟨busy, joins⟩ := reassemble_first (s := (s.tick t).takeSeq (frKey f) f.seq) (f := f) fresh room
    have run := frameRx_passes (s := s.tick t) path size key tag seq good
    obtain ⟨single, several⟩ := joinReasm_opens ((s.tick t).takeSeq (frKey f) f.seq)
      { (s.tick t).takeSeq (frKey f) f.seq with net := { ((s.tick t).takeSeq (frKey f) f.seq).net with poolBusy := busy } } f
    refine ⟨_, (next_ite_pos (portLive_of running link)).trans (congrArg Host.Outcome.next (run.trans joins)), single, fun h => ?_⟩
    obtain ⟨ready, opened⟩ := several h
    exact ⟨ready, _, opened, rfl, rfl, rfl⟩
  case fails =>
    obtain ⟨c, run⟩ := frameRx_dropped (s := s.tick t) fails
    have drops := dropFrame_wired (s.tick t) f c
    exact ⟨_, (next_ite_pos (portLive_of running link)).trans (congrArg Host.Outcome.next run), drops.seqIn, drops.reasm, drops.ready⟩

end Sys2Proof.Proofs
end

section
/-! The chimney: the end of a frame, shaper writes, gate lists, recovered credit (R293, R297, R298, R304). -/

namespace Sys2Proof.Proofs

open Sys2Proof Sys2Proof.Machine

variable {s : State}

/-! ### The end of a frame (R293) -/

/-- R293: what follows a frame's leaving puts nothing else on the wire. -/
theorem txEnd_wire (s : State) (p : Nat) (f : QFrame) : (s.txEnd p f).net.wire = s.net.wire ++ [⟨p, (s.port p).since, s.now, f⟩] := by
  unfold State.txEnd
  extract_lets s1 net s2 s3 port s4 s5
  have settled : s1.net.wire = s.net.wire ∧ (s1.port p).since = (s.port p).since :=
    ⟨(State.settle_wired (wired_refl s)).wire, (settle_port s p).1⟩
  have after : s2.Wired s5 := by
    have idle : s2.Wired s4 := State.setPort_wired (charge_wired (wired_refl s2)) rfl
    unfold s5
    split
    · exact setShaper_wired idle
    · exact idle
  refine (State.formResults_wired (State.pick_wired (State.resetClass_wired after))).wire.trans ?_
  show s1.net.wire ++ [(⟨p, (s1.port p).since, s1.now, f⟩ : Sent)] = _
  rw [settled.1, settled.2]
  rfl

theorem exec_frameTxEnd {t port : Nat} {f : QFrame} (running : s.running = true) (sending : (s.port port).sending = some f) :
    exec (.frameTxEnd t port) s = .next ((s.tick t).txEnd port f) := by
  show execFrameTxEnd t port s = _
  unfold execFrameTxEnd
  rw [sending]
  exact next_ite_pos running

/-! ### Shaper writes (R298) -/

/-- R298: a class of which no frame is being sent takes the write at once. -/
theorem shaperEffect_now {p n : Nat} (v : Word) (idle : ∀ f, (s.port p).sending = some f → f.cls ≠ n) :
    s.shaperEffect p n v = ((s.setShaper p n v).pick p).formResults := by
  unfold State.shaperEffect
  rw [if_neg]
  cases h : (s.port p).sending with
  | none => exact Bool.false_ne_true
  | some f => simpa using idle f h

/-- R298: the write waits while a frame of its class is being sent. -/
theorem shaperEffect_later {p n : Nat} {f : QFrame} (v : Word) (sending : (s.port p).sending = some f) (cls : f.cls = n) :
    s.shaperEffect p n v = s.setPort p ((s.port p).setCls n { (s.port p).cls n with pendShaper := some v }) := by
  unfold State.shaperEffect
  rw [sending]
  exact if_pos (by simp [cls])

theorem setShaper_reg {p n : Nat} (h : n < 8) (v : Word) : (s.setShaper p n v).reg (portDie p) p (shaperReg n)
    = (rowOf (shaperReg n)).stored s.start.locked (s.reg (portDie p) p (shaperReg n)) v := by
  have settled : s.Reported (s.settle p) := State.settle_reported (reported_refl s)
  show ((s.settle p).store (portDie p) p (rowOf (shaperReg n)) v).reg (portDie p) p (shaperReg n) = _
  unfold State.store
  rw [shaper_id h, reg_setReg_self, settled.start, settled.reg _ _ _ (shaper_quiet h)]

theorem cls_setCls (q : Port) (c : Nat) (x : ClassState) : (q.setCls c x).cls c = x := by
  unfold Port.cls Port.setCls
  rw [alGet_alSet_self]
  rfl

/-! ### Gate lists (R304) -/

theorem gateRefusal_le (s : State) (p : Nat) {r : Nat} (h : s.gateRefusal p = some r) : r < 4 := by
  unfold State.gateRefusal at h
  dsimp only at h
  split at h
  · cases h
  · split at h
    · cases h
      decide
    · split at h
      · cases h
      · cases h
        decide

/-- The effect of a write of CH_GATE_CTRL with SWAP, on the state with the register written. -/
theorem gateCtrlEffect_swaps {p : Nat} {v : Word} {w : State} (swap : getBits v 63 63 = 1)
    (hw : w = s.store (portDie p) p (rowOf Reg.CH_GATE_CTRL) v) :
    (w.gateRefusal p = none → s.gateCtrlEffect p v
        = (w.setPort p { w.port p with swapAt := true }).setFld (portDie p) p Fld.CH_GATE_CTRL_PENDING 1)
      ∧ ∀ r, w.gateRefusal p = some r → s.gateCtrlEffect p v
        = (w.setFld (portDie p) p Fld.CH_GATE_CTRL_REFUSED 1).setFld (portDie p) p Fld.CH_GATE_CTRL_REASON r := by
  subst hw
  unfold State.gateCtrlEffect
  dsimp only
  rw [if_neg (by omega)]
  exact ⟨fun h => by rw [h], fun r h => by rw [h]⟩

/-! ### Recovered credit (R297) -/

/-- R293: a free port whose best class has a frame starts it. -/
theorem pick_starts {p c : Nat} {f : QFrame} (link : (s.port p).link = true) (free : (s.port p).sending = none) (quiet : s.net.firing = false)
    (best : (s.settle p).bestClass p = some c) (head : ((s.settle p).port p).head c = some f) :
    ∃ g, ((s.pick p).port p).sending = some g ∧ g.cls = f.cls ∧ g.flow = f.flow ∧ g.tag = f.tag ∧ g.len = f.len := by
  unfold State.pick
  rw [if_neg (by rw [free, link, quiet]; decide)]
  simp only [best, head]
  have same : ∀ w : State, ((w.untrackFrame f).port p).sending = (w.port p).sending := fun w => by
    unfold State.port
    rw [untrackFrame_net]
  rw [same]
  exact markStarted_sending _ p f f (by rw [port_setPort])

/-- Settles O45: the wire takes the frame, the shaper or gate its write, and the port its first frame. -/
theorem chimneyActs : Obligations.ChimneyActs := by
  refine ⟨fun s t port f running sending => ⟨_, exec_frameTxEnd running sending, txEnd_wire (s.tick t) port f⟩,
    fun s w a v p n hn accepted hw => ?shaper, fun s w a v p accepted swap hw => ?gate,
    fun s t port c c' f running credit link free quiet best head => ?recovered⟩
  case shaper =>
    obtain ⟨w', reports, hw', run⟩ := regWrite_reported accepted (shaper_id hn) none (fun s p => s.shaperEffect p n v)
    obtain rfl : w' = w := hw'.trans hw.symm
    have kept : w'.reg (portDie p) p (shaperReg n) = s.reg (portDie p) p (shaperReg n) := reports.reg _ _ _ (shaper_quiet hn)
    have writes : exec (.chShaperWrite a n v) s = .next (w'.shaperEffect p n v) := (next_ite_pos hn).trans (congrArg Host.Outcome.next run)
    refine ⟨fun idle => ⟨_, writes, ?_⟩, fun f sending cls => ⟨_, writes, ?_⟩⟩
    · rw [shaperEffect_now v idle]
      have after : (w'.setShaper p n v).Reported ((w'.setShaper p n v).pick p).formResults :=
        State.formResults_reported (State.pick_reported (reported_refl _))
      rw [after.reg _ _ _ (shaper_quiet hn), setShaper_reg hn, kept, reports.start]
      rfl
    · rw [shaperEffect_later v sending cls, port_setPort, cls_setCls]
      exact ⟨rfl, sending, kept⟩
  case gate =>
    obtain ⟨w', -, hw', run⟩ := regWrite_reported accepted rfl none (fun s p => s.gateCtrlEffect p v)
    obtain ⟨valid, refused⟩ := gateCtrlEffect_swaps swap (hw' ▸ hw)
    refine ⟨_, congrArg Host.Outcome.next run, fun h => ?_, fun r h => ?_⟩
    · rw [valid h]
      exact ⟨fld_setFld_self _ _ _ _ _ (by decide) (by decide), congrArg Port.swapAt (port_setPort w p _)⟩
    · rw [refused r h]
      refine ⟨(fld_setFld_other _ _ (by decide) (by decide) (by decide) (by decide) _ _).trans
        (fld_setFld_self _ _ _ _ _ (by decide) (by decide)), ?_⟩
      exact (fld_setFld_self _ _ _ _ _ (by decide) (by decide)).trans (Nat.mod_eq_of_lt (gateRefusal_le w p h))
  case recovered =>
    refine ⟨(s.tick t).pick port, next_ite_pos ?_, pick_starts (s := s.tick t) link free quiet best head⟩
    rw [running, link]
    exact (Bool.and_true _).trans (decide_eq_true credit)

end Sys2Proof.Proofs
end

section
/-! Tally counters and wires: changes, reads, arming, pairs, firing and sleeping (R315 to R326). -/

namespace Sys2Proof.Proofs

open Sys2Proof Sys2Proof.Machine

variable {s h : State} {e : Env}

/-! ### Changes and reads (R316, R317, R323, R326) -/

/-- R317: a new value is SATURATED at the top and DONE below it. -/
def changeStatus (v : Nat) : Nat := if v = tlMax then St.saturated else St.done

theorem heard_tlValue (s : State) (e : Env) (type die i : Nat) : (s.heard e type none).tlValue die i = s.tlValue die i :=
  heard_reg s e type (by decide)

theorem reported_tlValue {t : State} (h : s.Reported t) (die i : Nat) : t.tlValue die i = s.tlValue die i := h.fld die i (by decide)

theorem reported_tlPaired {t : State} (h : s.Reported t) (die i : Nat) : t.tlPaired die i = s.tlPaired die i := by
  simp (disch := decide) only [State.tlPaired, State.tlOwner, State.tlIn, State.tlPeer, h.fld, h.start]
  rfl

theorem reported_tlMisuse {t : State} (h : s.Reported t) (die i : Nat) (ep : Option Nat) : t.tlMisuse die i ep = s.tlMisuse die i ep := by
  simp (disch := decide) only [State.tlMisuse, State.tlWriter, reported_tlPaired h, h.fld]

theorem reported_tlBreach {t : State} (h : s.Reported t) (die i v : Nat) : t.tlBreach die i v = s.tlBreach die i v := by
  simp (disch := decide) only [State.tlBreach, State.tlPeer, State.tlValue, h.fld]
  rfl

/-- Step 5 of R323, for a change that R318 to R320 do not turn away. -/
theorem tlAddRun_changes {m : TallyMsg} {die i : Nat} {adv : Bool} (form : (m.form == 1) = adv) (amount : adv = true → m.amount ≤ tlMax)
    (misuse : h.tlMisuse die i (some e.ep) = false) (saturated : h.fld die i Fld.TL_DESC_SATURATED = 0)
    (change : tlNew adv (h.tlValue die i) m.amount ≠ h.tlValue die i)
    (breach : h.tlBreach die i (tlNew adv (h.tlValue die i) m.amount) = none) :
    (h.tlAddRun e m die i).tlValue die i = tlNew adv (h.tlValue die i) m.amount
      ∧ ∃ b, (h.tlAddRun e m die i).rp.answered = some (0x11, changeStatus (tlNew adv (h.tlValue die i) m.amount), b) := by
  subst form
  obtain ⟨value, status⟩ := tlChange_value h die i (some e.ep) _ m.amount misuse saturated change breach
    (tlNew_le _ (tlValue_le h die i) amount)
  unfold State.tlAddRun
  dsimp only
  rw [status]
  exact ⟨(reported_tlValue (State.answer_reported (reported_refl _)) die i).trans value, _, answer_answered _ _ _ _ _ _⟩

/-- A TALLY_ADD that passes R323 and that R318 to R320 do not turn away. -/
theorem addMsg_changes {c : Instr} {m : TallyMsg} {adv : Bool} {die i : Nat} (hdie : die = m.tally / 32768) (hi : i = m.tally % 32768)
    (enters : s.Enters e 0x11) (hh : h = s.heard e 0x11 none) (enabled : h.fld die 0 Fld.TL_CTRL_ENABLE = 1)
    (sender : h.senderOk e e.ctx = true) (inside : h.tlIn die e.ctx i = true) (readable : e.areaFail = none)
    (form : m.form = b2n adv) (amount : adv = true → m.amount ≤ tlMax) (good : tlAddBad m.form m.zero m.amount = false)
    (misuse : h.tlMisuse die i (some e.ep) = false) (saturated : h.fld die i Fld.TL_DESC_SATURATED = 0)
    (change : tlNew adv (h.tlValue die i) m.amount ≠ h.tlValue die i)
    (breach : h.tlBreach die i (tlNew adv (h.tlValue die i) m.amount) = none) :
    (s.tlAddMsg e c m).tlValue die i = tlNew adv (s.tlValue die i) m.amount
      ∧ ∃ b, (s.tlAddMsg e c m).rp.answered
          = some (0x11, (if (s.tlAddMsg e c m).tlValue die i = tlMax then St.saturated else St.done), b) := by
  subst hdie hi hh
  have isAdvance : (m.form == 1) = adv := by
    rw [form]
    cases adv <;> rfl
  have runs := message_aside enters c none (tlBlank m.tally)
    (fun s => s.tlRun e 0x11 m (tlAddBad m.form m.zero m.amount) (fun s d i => s.tlAddRun e m d i))
  rw [tlRun_go _ e 0x11 m _ _ enabled sender inside good readable] at runs
  obtain ⟨value, b, answered⟩ := tlAddRun_changes isAdvance amount misuse saturated change breach
  have after : (s.tlAddMsg e c m).tlValue (m.tally / 32768) (m.tally % 32768) = _ := (runs.fld _ _ (by decide)).trans value
  refine ⟨after.trans (congrArg (fun v => tlNew adv v m.amount) (heard_tlValue s e 0x11 _ _)), b, ?_⟩
  rw [after]
  exact runs.answered.trans answered

/-- A TALLY_READ that passes R323. -/
theorem read_answers {m : TallyMsg} {die i : Nat} (hdie : die = m.tally / 32768) (hi : i = m.tally % 32768) (enters : s.Enters e 0x12)
    (hh : h = s.heard e 0x12 none) (enabled : h.fld die 0 Fld.TL_CTRL_ENABLE = 1) (sender : h.senderOk e e.ctx = true)
    (inside : h.tlIn die e.ctx i = true) (readable : e.areaFail = none) (good : tlReadBad m = false) :
    ∃ u, exec (.tallyRead e m) s = .next u ∧ (∀ d j, u.tlValue d j = s.tlValue d j)
      ∧ ∃ b, u.rp.answered = some (0x12, (if s.fld die i Fld.TL_DESC_SATURATED = 1 then St.saturated
          else if m.form = 1 ∧ s.tlValue die i < m.amount then St.notReady else St.done), b) := by
  subst hdie hi hh
  have runs := message_aside enters (.tallyRead e m) none (tlBlank m.tally)
    (fun s => s.tlRun e 0x12 m (tlReadBad m) (fun s d i => s.tlReadRun e m d i))
  rw [tlRun_go _ e 0x12 m _ _ enabled sender inside good readable] at runs
  have answered : ∃ b, ((s.heard e 0x12 none).tlReadRun e m (m.tally / 32768) (m.tally % 32768)).rp.answered = some (0x12, _, b) :=
    ⟨_, answer_answered _ _ _ _ _ _⟩
  rw [heard_reg _ _ _ (by decide), heard_tlValue] at answered
  obtain ⟨b, answered⟩ := answered
  refine ⟨_, rfl, fun d j => ?_, b, runs.answered.trans answered⟩
  exact (runs.fld d j (by decide)).trans ((reported_tlValue (State.answer_reported (reported_refl _)) d j).trans (heard_tlValue ..))

/-- The word of R326 with its FORM set keeps its amount. -/
theorem amount_form (v : Word) (adv : Bool) : getBits (setBits v 63 63 (b2n adv)) 62 0 = getBits v 62 0 :=
  getBits_setBits_ne (by decide) (by decide) (by decide) (by decide) _ _

theorem form_form (v : Word) (adv : Bool) : (getBits (setBits v 63 63 (b2n adv)) 63 63 == 1) = adv := by
  rw [getBits_setBits (by decide) (by decide)]
  cases adv <;> rfl

/-- R326: a write of TL_ADD whose change R318 to R320 do not turn away. -/
theorem tlAddEffect_changes {a : Acc} {v : Word} {adv : Bool} {i : Nat} (hi : i = s.selReg a.die a.rq Reg.TL_SEL % 32768)
    (amount : adv = false → 1 ≤ getBits v 62 0 ∧ getBits v 62 0 ≤ 0xFFFFFFFF) (misuse : s.tlMisuse a.die i none = false)
    (saturated : s.fld a.die i Fld.TL_DESC_SATURATED = 0) (change : tlNew adv (s.tlValue a.die i) (getBits v 62 0) ≠ s.tlValue a.die i)
    (breach : s.tlBreach a.die i (tlNew adv (s.tlValue a.die i) (getBits v 62 0)) = none) :
    (s.tlAddEffect a (setBits v 63 63 (b2n adv))).tlValue a.die i = tlNew adv (s.tlValue a.die i) (getBits v 62 0)
      ∧ (s.tlAddEffect a (setBits v 63 63 (b2n adv))).reg a.die (rqCode a.rq) Reg.TL_ADD_STATUS
          = BitVec.ofNat 64 (changeStatus (tlNew adv (s.tlValue a.die i) (getBits v 62 0))) := by
  subst hi
  have small : getBits v 62 0 ≤ tlMax := by
    have : getBits v 62 0 < 2 ^ 63 := BitVec.isLt _
    unfold tlMax
    omega
  obtain ⟨value, status⟩ := tlChange_value s a.die _ none adv _ misuse saturated change breach
    (tlNew_le _ (tlValue_le s a.die _) fun _ => small)
  have admitted : ¬(!adv && !decide (1 ≤ getBits v 62 0 ∧ getBits v 62 0 ≤ 0xFFFFFFFF)) = true := by
    cases adv with
    | true => exact Bool.false_ne_true
    | false =>
      rw [decide_eq_true (amount rfl)]
      decide
  unfold State.tlAddEffect
  dsimp only
  rw [amount_form, form_form, if_neg admitted, status]
  refine ⟨(fld_setReg_ne _ _ (.inr (.inr (by decide)))).trans value, ?_⟩
  rw [reg_setReg_self, Nat.zero_mul, Nat.zero_add]
  rfl

/-- Settles O46: a message or a write of TL_ADD that is not turned away changes its counter, and a read changes none. -/
theorem countersChange : Obligations.CountersChange := by
  refine ⟨fun s h e m die i hdie hi enabled sender inside readable => ⟨?add, fun enters hh good => ?read⟩,
    fun s a v adv i sel accepted hi amount misuse saturated change breach => ?register⟩
  case add =>
    intro adv c advances adds enters hh good misuse saturated change breach
    cases adv with
    | true =>
      obtain ⟨rfl, amount⟩ := advances rfl
      exact ⟨_, rfl, addMsg_changes (m := { m with form := 1 }) hdie hi enters hh enabled sender inside readable rfl (fun _ => amount) good
        misuse saturated change breach⟩
    | false =>
      obtain ⟨form, rfl⟩ := adds rfl
      exact ⟨_, rfl, addMsg_changes hdie hi enters hh enabled sender inside readable form nofun (form ▸ good) misuse saturated change breach⟩
  case read => exact read_answers hdie hi enters hh enabled sender inside readable good
  case register =>
    obtain ⟨w, reports, -, run⟩ := regWrite_reported accepted rfl none (fun s _ => s.tlAddEffect a (setBits v 63 63 (b2n adv)))
    have kept : w.tlValue a.die i = s.tlValue a.die i := reported_tlValue reports a.die i
    have sel' : i = w.selReg a.die a.rq Reg.TL_SEL % 32768 := by
      unfold State.selReg
      rw [reports.reg _ _ _ (by decide)]
      exact hi
    obtain ⟨value, status⟩ := tlAddEffect_changes sel' amount ((reported_tlMisuse reports ..).trans misuse)
      ((reports.fld _ _ (by decide)).trans saturated) (by rw [kept]; exact change)
      (by rw [kept]; exact (reported_tlBreach reports ..).trans breach)
    rw [kept] at value status
    refine ⟨w.tlAddEffect a (setBits v 63 63 (b2n adv)), ?_, value, ?_⟩
    · cases adv <;> exact congrArg Host.Outcome.next run
    · rw [value]
      exact status

end Sys2Proof.Proofs
end

section
/-! Wake wires: arming, pairs, firing, sleeping and reading (R315, R325). -/

namespace Sys2Proof.Proofs

open Sys2Proof Sys2Proof.Machine

variable {s : State}

/-! ### Latches and sleepers (R325) -/

theorem wokenReg_quiet (n : Nat) : wokenReg n ∉ chatter := fun mem =>
  (show ∀ r ∈ chatter, r.blk ≠ 0x0C by decide) _ mem rfl

theorem reported_latched {t : State} (h : s.Reported t) (die w : Nat) : t.latched die w = s.latched die w := by
  unfold State.latched
  rw [h.reg die 0 _ (wokenReg_quiet _)]

theorem reported_cores {t : State} (h : s.Reported t) : t.lamp.cores = s.lamp.cores := by
  have same := congrArg Lamp.cores h.lamp
  exact same

theorem fireWire_wakes (s : State) (die w : Nat) : ∀ c ∈ (s.fireWire die w).lamp.cores, c.asleep ≠ some (wireNo die w) := by
  intro c hc
  obtain ⟨x, -, rfl⟩ := List.mem_map.1 hc
  split
  · nofun
  · assumption

theorem sleepEffect_sleeps {a : Acc} {v : Word} {d code : Nat} (rq : a.rq = .core d code) :
    (s.latched a.die (getBits v 7 0) = false → ((s.tlSleepEffect a v).core d code).asleep = some (wireNo a.die (getBits v 7 0)))
      ∧ (s.latched a.die (getBits v 7 0) = true → s.tlSleepEffect a v = s) := by
  unfold State.tlSleepEffect
  simp only [rq]
  obtain ⟨die, num⟩ := core_at s d code
  refine ⟨fun clear => ?_, fun set => if_pos set⟩
  rw [if_neg (by rw [clear]; exact Bool.false_ne_true), core_setCore _ _ _ _ (by exact die) (by exact num)]

/-- R325: a read of the latches clears those of its register, and of no other. -/
theorem wokenEffect_clears (s : State) (die n : Nat) : (∀ j, j < 64 → (s.tlWokenEffect die n).latched die (64 * n + j) = false)
    ∧ ∀ w, w / 64 ≠ n → (s.tlWokenEffect die n).latched die w = s.latched die w := by
  unfold State.tlWokenEffect State.latched
  refine ⟨fun j hj => ?_, fun w apart => ?_⟩
  · rw [show (64 * n + j) / 64 = n by omega, reg_setReg_self]
    simp [getBits]
  · rw [reg_setReg_ne]
    refine .inr (.inr fun same => apart ?_)
    injection same with _ off
    omega

/-! ### Arming and pairs (R315, R325) -/

/-- R325: the test of a counter that is armed. -/
theorem tlTest_armed {die i : Nat} (armed : s.fld die i Fld.TL_DESC_ARMED = 1) :
    (s.fld die i Fld.TL_EXPECT_EXPECT ≤ s.tlValue die i → (s.tlTest die i).fld die i Fld.TL_DESC_ARMED = 0
        ∧ (s.tlTest die i).latched die (s.fld die i Fld.TL_DESC_WIRE) = true)
      ∧ (s.tlValue die i < s.fld die i Fld.TL_EXPECT_EXPECT → s.tlTest die i = s) := by
  unfold State.tlTest
  refine ⟨fun reached => ?_, fun short => if_neg fun both => Nat.not_le_of_lt short both.2⟩
  rw [if_pos ⟨armed, reached⟩]
  exact ⟨(fireWire_fld _ _ _ (by decide) (wire_lt s die i)).trans (fld_setFld_self _ _ _ _ _ (by decide) (by decide)), fireWire_latched ..⟩

theorem store_desc (s : State) (die i : Nat) (v : Word) :
    (s.store die i (rowOf Reg.TL_DESC) v).fld die i Fld.TL_DESC_ARMED = getBits v 6 6
      ∧ (s.store die i (rowOf Reg.TL_DESC) v).fld die i Fld.TL_DESC_WIRE = getBits v 31 24 :=
  ⟨fld_store (f := ⟨6, 6, .rw, 0⟩) (by decide) (by decide) rfl rfl, fld_store (f := ⟨31, 24, .rw, 0⟩) (by decide) (by decide) rfl rfl⟩

/-- R325: a write of 1 to ARMED tests the counter against the EXPECT and the value that it has. -/
theorem descEffect_arms {die i : Nat} {v : Word} (arm : getBits v 6 6 = 1) :
    (s.tlDescEffect die i v).tlValue die i = s.tlValue die i
      ∧ (s.fld die i Fld.TL_EXPECT_EXPECT ≤ s.tlValue die i → (s.tlDescEffect die i v).fld die i Fld.TL_DESC_ARMED = 0
        ∧ (s.tlDescEffect die i v).latched die (getBits v 31 24) = true)
      ∧ (s.tlValue die i < s.fld die i Fld.TL_EXPECT_EXPECT → (s.tlDescEffect die i v).fld die i Fld.TL_DESC_ARMED = 1) := by
  obtain ⟨armed, wire⟩ := store_desc s die i v
  have value : (s.store die i (rowOf Reg.TL_DESC) v).tlValue die i = s.tlValue die i := fld_store_ne s v (.inr (.inr (by decide)))
  have expect : (s.store die i (rowOf Reg.TL_DESC) v).fld die i Fld.TL_EXPECT_EXPECT = s.fld die i Fld.TL_EXPECT_EXPECT :=
    fld_store_ne s v (.inr (.inr (by decide)))
  unfold State.tlDescEffect
  dsimp only
  rw [if_pos arm]
  generalize s.store die i (rowOf Reg.TL_DESC) v = w at armed wire value expect ⊢
  obtain ⟨fires, stays⟩ := tlTest_armed (armed.trans arm)
  rw [expect, value, wire] at fires
  rw [expect, value] at stays
  refine ⟨(tlTest_fld w die i (by decide) (by decide)).trans value, fires, fun short => ?_⟩
  rw [stays short]
  exact armed.trans arm

theorem store_pair (s : State) (die i : Nat) (v : Word) :
    (s.store die i (rowOf Reg.TL_PAIR) v).fld die i Fld.TL_PAIR_PEER = getBits v 46 32
      ∧ (s.store die i (rowOf Reg.TL_PAIR) v).fld die i Fld.TL_PAIR_BOUND
        = if getBits v 31 0 = 0 then s.fld die i Fld.TL_PAIR_BOUND else getBits v 31 0 := by
  refine ⟨fld_store (f := ⟨46, 32, .rw, 0⟩) (by decide) (by decide) rfl rfl, ?_⟩
  have bad : badValue (rowOf Reg.TL_PAIR).id 31 (getBits v 31 0) = (getBits v 31 0 == 0) := rfl
  split
  · next zero => exact fld_store_bad (f := ⟨31, 0, .rw, 0⟩) (by decide) (by decide) rfl (bad.trans (beq_iff_eq.2 zero))
  · next some => exact fld_store (f := ⟨31, 0, .rw, 0⟩) (by decide) (by decide) rfl (bad.trans (beq_eq_false_iff_ne.2 some))

/-- R320: the record of a breach touches TL_DESC and TL_COUNTS only. -/
theorem noteBreach_fld (s : State) (die i d j : Nat) {f : Field} (desc : f.reg ≠ Reg.TL_DESC) (counts : f.reg ≠ Reg.TL_COUNTS)
    (quiet : f.reg ∉ chatter) : (s.tlNoteBreach die i).fld d j f = s.fld d j f := by
  unfold State.tlNoteBreach
  rw [(tlEvent_reported (reported_refl _)).fld _ _ quiet]
  exact (fld_setFld_ne _ _ (.inr (.inr counts))).trans (fld_setFld_ne _ _ (.inr (.inr desc)))

/-- R315: a write of TL_PAIR is stored, whether it is a breach or not. -/
theorem pairEffect_fld (s : State) (die i : Nat) (v : Word) (d j : Nat) {f : Field} (desc : f.reg ≠ Reg.TL_DESC)
    (counts : f.reg ≠ Reg.TL_COUNTS) (quiet : f.reg ∉ chatter) :
    (s.tlPairEffect die i v).fld d j f = (s.store die i (rowOf Reg.TL_PAIR) v).fld d j f := by
  unfold State.tlPairEffect
  dsimp only
  split
  · exact noteBreach_fld _ _ _ _ _ desc counts quiet
  · rfl

/-- Settles O47: each access is accepted, and its effect is that of the counter's or the wire's own function. -/
theorem wiresArmFireAndSleep : Obligations.WiresArmFireAndSleep := by
  intro s a v
  refine ⟨fun i accepted arm => ?arm, fun i accepted => ?pair, fun sel accepted => ?fire, fun sel d code accepted rq => ?sleep,
    fun n sel hn shown => ?woken⟩
  case arm =>
    obtain ⟨w, reports, -, run⟩ := regWrite_reported accepted rfl none (fun s i => s.tlDescEffect a.die i v)
    obtain ⟨value, fires, stays⟩ := descEffect_arms (s := w) (die := a.die) (i := i) arm
    have kept : w.tlValue a.die i = s.tlValue a.die i := reported_tlValue reports a.die i
    have expect : w.fld a.die i Fld.TL_EXPECT_EXPECT = s.fld a.die i Fld.TL_EXPECT_EXPECT := reports.fld _ _ (by decide)
    rw [expect, kept] at fires stays
    exact ⟨_, congrArg Host.Outcome.next run, value.trans kept, fires, stays⟩
  case pair =>
    obtain ⟨w, reports, -, run⟩ := regWrite_reported accepted rfl none (fun s i => s.tlPairEffect a.die i v)
    obtain ⟨peer, bound⟩ := store_pair w a.die i v
    have kept : w.fld a.die i Fld.TL_PAIR_BOUND = s.fld a.die i Fld.TL_PAIR_BOUND := reports.fld _ _ (by decide)
    rw [kept] at bound
    refine ⟨_, congrArg Host.Outcome.next run, (pairEffect_fld _ _ _ _ _ _ (by decide) (by decide) (by decide)).trans peer,
      (pairEffect_fld _ _ _ _ _ _ (by decide) (by decide) (by decide)).trans bound, fun d j => ?_⟩
    exact (pairEffect_fld _ _ _ _ _ _ (by decide) (by decide) (by decide)).trans
      ((fld_store_ne w v (.inr (.inr (by decide)))).trans (reported_tlValue reports d j))
  case fire =>
    obtain ⟨w, -, -, run⟩ := regWrite_reported accepted rfl none (fun s _ => s.tlFireEffect a.die v)
    exact ⟨_, congrArg Host.Outcome.next run, fireWire_latched w a.die _, fireWire_wakes w a.die _⟩
  case sleep =>
    obtain ⟨w, reports, -, run⟩ := regWrite_reported accepted rfl none (fun s _ => s.tlSleepEffect a v)
    obtain ⟨sleeps, goes⟩ := sleepEffect_sleeps (s := w) (v := v) rq
    have kept : w.latched a.die (getBits v 7 0) = s.latched a.die (getBits v 7 0) := reported_latched reports _ _
    refine ⟨_, congrArg Host.Outcome.next run, fun clear => sleeps (kept.trans clear), fun set => ?_⟩
    rw [goes (kept.trans set)]
    exact (reported_cores reports).trans rfl
  case woken =>
    obtain ⟨clears, keeps⟩ := wokenEffect_clears (s.tick a.t) a.die n
    have runs : exec (.tlWokenRead a n) s = .next ((s.tick a.t).tlWokenEffect a.die n) :=
      (next_ite_pos hn).trans (congrArg Host.Outcome.next (regRead_shows shown _))
    exact ⟨_, runs, clears, fun w _ apart => keeps w apart⟩

end Sys2Proof.Proofs
end

section
/-! Scrub jobs, exceptions of control cores, teardown, resumption and stuck requests (R331 to R342, R413). -/

namespace Sys2Proof.Proofs

open Sys2Proof Sys2Proof.Machine

variable {s : State}

/-! ### Fills (R341) -/

/-- R391: the copies of marked stripe units that a write makes leave the bytes of T1. -/
theorem cbwWrites_t1 (die other a : Nat) (l : List Nat) (s : State) :
    (l.foldl (fun s i => s.cbwWrite die (a / 128 + i)) s).t1 other = s.t1 other := by
  induction l generalizing s with
  | nil => rfl
  | cons i l ih =>
    refine (ih _).trans ?_
    obtain ⟨a0, b0⟩ := cbwWrite_t1 s die (a / 128 + i)
    unfold State.t1
    rw [a0, b0]

theorem zeroT1_zeroes (s : State) (die a n : Nat) : (s.zeroT1 die a n).t1 die = memZero (s.t1 die) a n := by
  unfold State.zeroT1
  dsimp only
  rw [t1_setT1_self, cbwWrites_t1]

theorem reported_t1 {t : State} (h : s.Reported t) (die : Nat) : t.t1 die = s.t1 die := by
  unfold State.t1
  rw [h.tier]

theorem fillEffect_zeroes {a : Acc} {v : Word} {d code : Nat} (rq : a.rq = .core d code) (t1 : getBits v 63 63 = 1)
    (some : getBits v 62 47 ≠ 0)
    (inside : s.fillOk a.die (s.coreCluster d code) true (getBits v 46 6 * 64) (getBits v 62 47 * 64) = true) :
    s.fillEffect a v = s.zeroT1 a.die (getBits v 46 6 * 64) (getBits v 62 47 * 64) := by
  unfold State.fillEffect
  simp only [rq, t1, beq_self_eq_true]
  rw [if_neg (by omega), if_pos inside, if_pos trivial]

/-! ### Jobs (R341, R342) -/

theorem scrubNextEffect_hands {a : Acc} {d code : Nat} {j : Scrub} (rq : a.rq = .core d code) (next : s.nextScrub a = some j) :
    (s.scrubNextEffect a).lamp.scrubs = s.lamp.scrubs.map (fun (x : Scrub) => if x.job = j.job then { x with taken := some code } else x) := by
  unfold State.scrubNextEffect
  rw [next, rq]
  rfl

theorem reported_scrubs {t : State} (h : s.Reported t) : t.lamp.scrubs = s.lamp.scrubs := by
  have same := congrArg Lamp.scrubs h.lamp
  exact same

theorem handed_taken {l : List Scrub} {job code : Nat} :
    ∀ x ∈ l.map (fun (x : Scrub) => if x.job = job then { x with taken := some code } else x), x.job = job → x.taken = some code := by
  intro x hx same
  obtain ⟨y, -, rfl⟩ := List.mem_map.1 hx
  by_cases job : y.job = job
  · rw [if_pos job]
  · rw [if_neg job] at same
    contradiction

theorem scrubDone_checks (s : State) (die : Nat) (v : Word) : ∀ x ∈ (s.scrubDoneEffect die v).lamp.scrubs,
    x.die = die → x.job % 2 ^ 32 = getBits v 31 0 → x.taken.isSome = true → x.checking = true := by
  intro x hx place job taken
  obtain ⟨y, -, rfl⟩ := List.mem_map.1 hx
  by_cases named : y.die = die ∧ y.job % 2 ^ 32 = getBits v 31 0 ∧ y.taken.isSome
  · rw [if_pos named]
  · rw [if_neg named] at place job taken
    exact absurd ⟨place, job, taken⟩ named

theorem exec_scrubCheckDone {t die job : Nat} {j : Scrub} (running : s.running = true)
    (found : s.lamp.scrubs.find? (fun j => j.die == die && j.job == job && j.checking) = some j) (bad : Option Nat) :
    exec (.scrubCheckDone t die job bad) s = .next (match bad with
      | none => ((s.tick t).scrubPass j).pumpAll.formResults
      | some off => (s.tick t).scrubFail j off) := by
  show execScrubCheckDone t die job bad s = _
  unfold execScrubCheckDone
  rw [found]
  exact next_ite_pos running

/-- R341: a job that passes leaves the queues, and no other does. -/
theorem scrubPass_scrubs (s : State) (j : Scrub) : (s.scrubPass j).lamp.scrubs = s.lamp.scrubs.filter (fun x => x.job != j.job) := by
  unfold State.scrubPass
  extract_lets w freed
  have base : w.lamp.scrubs = s.lamp.scrubs.filter (fun x => x.job != j.job) := rfl
  split
  · have kept : freed.lamp.scrubs = w.lamp.scrubs := (State.freeCopies_housed (housed_refl w)).scrubs
    split <;> exact kept.trans base
  · exact (State.slotScrubbed_housed (housed_refl w)).scrubs.trans base

/-- R342: a job that fails stands at the tail of its queue, and its failure in LP_SCRUB_STATUS. -/
theorem scrubFail_requeues (s : State) (j : Scrub) (off : Nat) : (s.scrubFail j off).fld j.die 0 Fld.LP_SCRUB_STATUS_FAILED = 1
    ∧ (s.scrubFail j off).lamp.scrubs
      = s.lamp.scrubs.filter (fun x => x.job != j.job) ++ [{ j with taken := none, checking := false, fails := j.fails + 1 }] := by
  unfold State.scrubFail
  extract_lets k w u
  refine ⟨?_, (State.raise_housed (housed_refl u)).scrubs⟩
  rw [raise_fld _ _ _ _ _ _ (by decide)]
  unfold u
  rw [fld_setFld_other _ _ (by decide) (by decide) (by decide) (by decide),
    fld_setFld_other _ _ (by decide) (by decide) (by decide) (by decide), fld_setFld_self _ _ _ _ _ (by decide) (by decide)]
  exact Nat.mod_eq_of_lt (by decide)

/-! ### Exceptions (R331, R337, R413) -/

theorem exec_coreException {t die core : Nat} (awake : s.coreAwake die core = true) (k : CoreTrap) :
    exec (.coreException t die core k) s = .next ((s.tick t).coreTrap die core k) :=
  next_ite_pos awake

theorem coreTrap_exception {die core c : Nat} (task : s.task die core = some c) :
    s.coreTrap die core .exception = s.tearDown die c 2 := by
  unfold State.coreTrap
  rw [task]

/-! ### Teardown and resumption (R338, R339) -/

theorem drain_nothing {ctx : Nat} (none : s.ctxClusters ctx = []) : s.drain ctx = s.setCtxCtrl ctx Fld.LP_CTX_CTRL_SCRUBBED 1 := by
  unfold State.drain
  rw [none]
  rfl

/-- R338: each cluster that holds something of the context has its job. -/
theorem drain_queues (s : State) (ctx : Nat) : ∀ p ∈ s.ctxClusters ctx, ∃ j ∈ (s.drain ctx).lamp.scrubs,
    j.die = p.1 ∧ j.cluster = p.2 ∧ j.teardown = true ∧ j.context = ctx ∧ j.taken = none := by
  intro p hp
  unfold State.drain
  dsimp only
  rw [if_neg (by simpa [List.isEmpty_iff] using List.ne_nil_of_mem hp)]
  exact (drain_jobs ctx (s.ctxClusters ctx) s).2 p hp

/-- R339: a resumed context is neither torn nor scrubbed, on either die. -/
theorem ctxCtrlEffect_resumes {die ctx : Nat} {v : Word} (resume : getBits v 63 63 = 1)
    (scrubbed : s.fld die ctx Fld.LP_CTX_CTRL_SCRUBBED = 1) :
    (s.ctxCtrlEffect die ctx v).torn ctx = false ∧ ∀ d, d < 2 → (s.ctxCtrlEffect die ctx v).fld d ctx Fld.LP_CTX_CTRL_SCRUBBED = 0 := by
  unfold State.ctxCtrlEffect State.torn
  rw [if_pos ⟨resume, scrubbed⟩, raise_fld _ _ _ _ _ _ (by decide)]
  refine ⟨?_, fun d hd => ?_⟩
  · rw [ctxCtrl_other _ _ _ (by decide) (by decide) (by decide) (by decide), ctxCtrl_other _ _ _ (by decide) (by decide) (by decide) (by decide),
      ctxCtrl_self _ _ _ _ (by decide) (by decide) (by decide)]
    rfl
  · rw [raise_fld _ _ _ _ _ _ (by decide), ctxCtrl_self _ _ _ _ (by decide) (by decide) hd]
    exact Nat.zero_mod _

/-! ### Stuck requests (R334) -/

/-- `s` with every stuck entry of a die marked as reported. -/
def markStuck (s : State) (die : Nat) : State :=
  { s with lamp := { s.lamp with track := s.lamp.track.map (fun (x : Track) => if s.stuck die x then { x with reported := true } else x) } }

theorem reportStuck_raises (s : State) (die : Nat) :
    s.reportStuck die = (s.lamp.track.filter (fun x => s.stuck die x)).reverse.foldl (fun s x => s.raiseStuck x) (markStuck s die) := rfl

theorem stuck_iff (s : State) (die : Nat) (x : Track) :
    s.stuck die x = true ↔ x.die = die ∧ x.reported = false ∧ x.since + s.fld die 0 Fld.LP_TRACK_STUCK_US * 1000 < s.now := by
  unfold State.stuck
  rw [Bool.and_eq_true, Bool.and_eq_true, beq_iff_eq, Bool.not_eq_true', decide_eq_true_eq, and_assoc]

theorem markStuck_reported (s : State) (die : Nat) : ∀ x ∈ (markStuck s die).lamp.track, x.die = die →
    x.since + s.fld die 0 Fld.LP_TRACK_STUCK_US * 1000 < s.now → x.reported = true := by
  intro x hx place old
  obtain ⟨y, -, rfl⟩ := List.mem_map.1 hx
  by_cases late : s.stuck die y = true
  · rw [if_pos late]
  · rw [if_neg late] at place old ⊢
    cases reported : y.reported with
    | true => rfl
    | false => exact absurd ((stuck_iff s die y).2 ⟨place, reported, old⟩) late

/-- Settles O48: each command passes its guard, and what it leads to is said by the lemma on its effect. -/
theorem scrubsAndTeardowns : Obligations.ScrubsAndTeardowns := by
  refine ⟨fun s => ⟨?fill, ?next, ?done, ?check⟩, fun s t => ⟨fun die core awake => ?trap, ?drain, ?resume, ?stuck⟩⟩
  case fill =>
    intro w a v sel d code accepted rq t1 hw some inside
    obtain ⟨w', reports, hw', run⟩ := regWrite_reported accepted rfl none (fun s _ => s.fillEffect a v)
    obtain rfl : w' = w := hw'.trans hw.symm
    refine ⟨_, congrArg Host.Outcome.next run, ?_⟩
    rw [fillEffect_zeroes rq t1 some inside, zeroT1_zeroes, reported_t1 reports]
    rfl
  case next =>
    intro a sel d code j shown rq next
    have runs := regRead_shows shown (fun s _ => s.scrubNextEffect a)
    refine ⟨_, congrArg Host.Outcome.next runs, ?_⟩
    rw [scrubNextEffect_hands rq next]
    exact ⟨List.length_map _, handed_taken⟩
  case done =>
    intro a v sel accepted
    obtain ⟨w, reports, -, run⟩ := regWrite_reported accepted rfl none (fun s _ => s.scrubDoneEffect a.die v)
    refine ⟨_, congrArg Host.Outcome.next run, ?_, scrubDone_checks w a.die v⟩
    exact (List.length_map _).trans ((congrArg List.length (reported_scrubs reports)).trans rfl)
  case check =>
    intro t die job j running found
    have isJob : j.die = die ∧ j.job = job := by
      have := List.find?_some found
      simp only [Bool.and_eq_true, beq_iff_eq] at this
      exact this.1
    obtain ⟨rfl, rfl⟩ := isJob
    have after : ((s.tick t).scrubPass j).Housed ((s.tick t).scrubPass j).pumpAll.formResults :=
      State.formResults_housed (State.pumpAll_housed (housed_refl _))
    have passes : exec (.scrubCheckDone t j.die j.job none) s = .next ((s.tick t).scrubPass j).pumpAll.formResults := by
      rw [exec_scrubCheckDone running found]
    exact ⟨⟨_, passes, after.scrubs.trans (scrubPass_scrubs (s.tick t) j)⟩,
      fun off => ⟨_, exec_scrubCheckDone running found (some off), scrubFail_requeues (s.tick t) j off⟩⟩
  case trap =>
    have up : s.coreUp die core = true := by
      unfold State.coreAwake at awake
      exact (Bool.and_eq_true _ _ ▸ awake).1
    refine ⟨fun c task => ⟨_, exec_coreException awake .exception, ?_⟩,
      fun row hrow => ⟨_, exec_coreException awake (.limit row), fwLimit_row (s.tick t) die core row hrow⟩,
      fun lamp => ⟨_, exec_coreException awake .hardware, lampFault_halts (s.tick t) die core lamp up⟩⟩
    rw [coreTrap_exception (s := s.tick t) task]
    exact tearDown_torn (s.tick t) die c 2
  case drain =>
    intro ctx running torn unscrubbed noJobs idle
    have runs : exec (.teardownDrain t ctx) s = .next ((s.tick t).drain ctx) :=
      next_ite_pos (by rw [running, torn, unscrubbed, noJobs, idle]; rfl)
    refine ⟨_, runs, fun none => ?_, drain_queues (s.tick t) ctx⟩
    rw [drain_nothing (s := s.tick t) none]
    exact ⟨ctxCtrl_self _ _ _ _ (by decide) (by decide) (by decide), ctxCtrl_self _ _ _ _ (by decide) (by decide) (by decide), rfl⟩
  case resume =>
    intro a v ctx accepted resume scrubbed
    obtain ⟨w, reports, -, run⟩ := regWrite_reported accepted rfl none (fun s ctx => s.ctxCtrlEffect a.die ctx v)
    obtain ⟨torn, clear⟩ := ctxCtrlEffect_resumes (s := w) resume ((reports.fld a.die ctx (by decide)).trans scrubbed)
    exact ⟨_, congrArg Host.Outcome.next run, torn, clear 0 (by decide), clear 1 (by decide)⟩
  case stuck =>
    intro die running
    have runs : exec (.reqStuck t die) s = .next ((s.tick t).reportStuck die) := next_ite_pos running
    rw [reportStuck_raises] at runs
    refine ⟨markStuck (s.tick t) die, _, runs, fun x => ?_, rfl, markStuck_reported (s.tick t) die⟩
    rw [List.mem_reverse, List.mem_filter, stuck_iff]
    exact Iff.rfl

end Sys2Proof.Proofs
end

section
/-! Reports, key generations and the JTAG port (R369, R370, R373, R376). -/

namespace Sys2Proof.Proofs

open Sys2Proof Sys2Proof.Machine

variable {s : State}

/-! ### Reports (R369, R370) -/

/-- A request for a report of its kind that R369 and R377 let through. -/
theorem reportGo_signs {rq : Requester} {kind : Nat} (free : s.sealBusy = false) (may : mayReport rq = true) (state : kind = 0 → s.lc ≠ 4)
    (scrub : kind = 1 → s.scrubbed = true) (known : kind < 2) : ∃ body, (s.reportGo rq kind).ident.signing = some (kind, body)
      ∧ (s.reportGo rq kind).ident.report = [] ∧ (s.reportGo rq kind).fld 0 0 Fld.SEAL_RPT_CTRL_BUSY = 1
      ∧ (s.reportGo rq kind).ident.fuses = s.ident.fuses := by
  unfold State.reportGo
  extract_lets old w
  have admitted : (!mayReport rq || (if kind = 0 then w.lc == 4 else !w.scrubbed)) = false := by
    rw [may]
    rcases (show kind = 0 ∨ kind = 1 by omega) with rfl | rfl
    · exact beq_eq_false_iff_ne.2 (state rfl)
    · show (!s.scrubbed) = false
      rw [scrub rfl]
      rfl
  rw [if_neg (by rw [show w.sealBusy = s.sealBusy from rfl, free]; exact Bool.false_ne_true), admitted, if_neg Bool.false_ne_true]
  exact ⟨_, rfl, rfl, fld_setFld_self _ _ _ _ _ (by decide) (by decide), rfl⟩

/-- A write of SEAL_RPT_CTRL with GO signs the report that it asks for. -/
theorem reportWrite_signs {a : Acc} {v : Word} {sel : Nat} (accepted : s.Accepts a Reg.SEAL_RPT_CTRL v sel) (go : getBits v 63 63 = 1)
    (free : s.sealBusy = false) (may : mayReport a.rq = true) (state : getBits v 61 61 = 0 → s.lc ≠ 4)
    (scrub : getBits v 61 61 = 1 → s.scrubbed = true) :
    ∃ (u : State) (body : List Byte), s.regWrite a (rowOf Reg.SEAL_RPT_CTRL) v none (fun s _ => s.reportEffect a.rq v) = u
      ∧ u.ident.signing = some (getBits v 61 61, body) ∧ u.ident.report = [] ∧ u.fld 0 0 Fld.SEAL_RPT_CTRL_BUSY = 1
      ∧ u.ident.fuses = s.ident.fuses := by
  obtain ⟨w, reports, -, run⟩ := regWrite_reported accepted rfl none (fun s _ => s.reportEffect a.rq v)
  have effect : w.reportEffect a.rq v = (w.store 0 0 (rowOf Reg.SEAL_RPT_CTRL) v).reportGo a.rq (getBits v 61 61) := if_pos go
  have ident : (w.store 0 0 (rowOf Reg.SEAL_RPT_CTRL) v).ident = s.ident := reports.ident
  have kept : ∀ f : Field, f.reg ≠ Reg.SEAL_RPT_CTRL → f.reg ∉ chatter →
      (w.store 0 0 (rowOf Reg.SEAL_RPT_CTRL) v).fld 0 0 f = s.fld 0 0 f := fun f ne quiet =>
    (fld_store_ne w v (.inr (.inr ne))).trans (reports.fld 0 0 quiet)
  have lc : (w.store 0 0 (rowOf Reg.SEAL_RPT_CTRL) v).lc = s.lc := kept Fld.SEAL_LC_STATE (by decide) (by decide)
  have scrubbed : (w.store 0 0 (rowOf Reg.SEAL_RPT_CTRL) v).scrubbed = s.scrubbed :=
    congrArg (fun n => n == 1) (kept Fld.SEAL_LC_SCRUBBED (by decide) (by decide))
  have idle : (w.store 0 0 (rowOf Reg.SEAL_RPT_CTRL) v).sealBusy = false := by
    unfold State.sealBusy at free ⊢
    rw [ident]
    exact free
  obtain ⟨body, signing, report, busy, fuses⟩ := reportGo_signs idle may (fun k => lc ▸ state k) (fun k => scrubbed.trans (scrub k))
    (show getBits v 61 61 < 2 from BitVec.isLt _)
  rw [← effect, ← run] at signing report busy fuses
  exact ⟨_, body, rfl, signing, report, busy, fuses.trans (congrArg Ident.fuses ident)⟩

theorem reportEnd_stands {kind : Nat} {body : List Byte} (signing : s.ident.signing = some (kind, body)) :
    s.reportEnd.ident.signing = none ∧ s.reportEnd.ident.report = reportBytes body ∧ s.reportEnd.ident.reports = s.ident.reports + 1
      ∧ s.reportEnd.fld 0 0 Fld.SEAL_RPT_CTRL_BUSY = 0 ∧ s.reportEnd.fld 0 0 Fld.SEAL_RPT_CTRL_STATUS = St.done := by
  unfold State.reportEnd
  simp only [signing]
  refine ⟨rfl, rfl, rfl, ?_, ?_⟩
  · rw [fld_setFld_other _ _ (by decide) (by decide) (by decide) (by decide),
      fld_setFld_other _ _ (by decide) (by decide) (by decide) (by decide), fld_setFld_self _ _ _ _ _ (by decide) (by decide)]
    exact Nat.zero_mod _
  · rw [fld_setFld_other _ _ (by decide) (by decide) (by decide) (by decide), fld_setFld_self _ _ _ _ _ (by decide) (by decide)]
    exact Nat.mod_eq_of_lt (by decide)

/-! ### Key generations (R373) -/

theorem advanceKey_advances {x : Nat} (prev : s.fld 0 x Fld.SEAL_KEYGEN_PREV_LIVE = 0) (cur : s.fld 0 x Fld.SEAL_KEYGEN_CUR ≠ 255) :
    (s.advanceKey x).fld 0 x Fld.SEAL_KEYGEN_CUR = s.fld 0 x Fld.SEAL_KEYGEN_CUR + 1
      ∧ (s.advanceKey x).fld 0 x Fld.SEAL_KEYGEN_PREV_LIVE = 1 ∧ (s.advanceKey x).fld 0 x Fld.SEAL_KEYGEN_REFUSED = 0 := by
  have small : s.fld 0 x Fld.SEAL_KEYGEN_CUR < 256 := fld_lt s _ _ _
  unfold State.advanceKey
  dsimp only
  rw [if_neg (by omega)]
  generalize s.fld 0 x Fld.SEAL_KEYGEN_CUR = c at cur small ⊢
  refine ⟨?_, (raise_fld _ _ _ _ _ _ (by decide)).trans (fld_setFld_self _ _ _ _ _ (by decide) (by decide)), ?_⟩
  all_goals rw [raise_fld _ _ _ _ _ _ (by decide)]
  · rw [fld_setFld_other _ _ (by decide) (by decide) (by decide) (by decide), fld_setFld_self _ _ _ _ _ (by decide) (by decide)]
    exact Nat.mod_eq_of_lt (show c + 1 < 256 by omega)
  · rw [fld_setFld_other _ _ (by decide) (by decide) (by decide) (by decide),
      fld_setFld_other _ _ (by decide) (by decide) (by decide) (by decide), fld_setFld_self _ _ _ _ _ (by decide) (by decide)]
    exact Nat.zero_mod _

theorem retireKey_retires (s : State) (x : Nat) : (s.retireKey x).fld 0 x Fld.SEAL_KEYGEN_PREV_LIVE = 0
    ∧ (s.retireKey x).fld 0 x Fld.SEAL_KEYGEN_CUR = s.fld 0 x Fld.SEAL_KEYGEN_CUR := by
  unfold State.retireKey
  dsimp only
  refine ⟨?_, ?_⟩
  all_goals rw [raise_fld _ _ _ _ _ _ (by decide)]
  · exact fld_setFld_self _ _ _ _ _ (by decide) (by decide)
  · exact fld_setFld_other _ _ (by decide) (by decide) (by decide) (by decide) _ _

/-- A write of SEAL_KEYGEN leaves the generation that stands, and whether its predecessor lives. -/
theorem store_keygen (s : State) (x : Nat) (v : Word) :
    (s.store 0 x (rowOf Reg.SEAL_KEYGEN) v).fld 0 x Fld.SEAL_KEYGEN_CUR = s.fld 0 x Fld.SEAL_KEYGEN_CUR
      ∧ (s.store 0 x (rowOf Reg.SEAL_KEYGEN) v).fld 0 x Fld.SEAL_KEYGEN_PREV_LIVE = s.fld 0 x Fld.SEAL_KEYGEN_PREV_LIVE :=
  ⟨getBits_keygen s x v 7 0 (by decide) (by decide), getBits_keygen s x v 8 8 (by decide) (by decide)⟩

/-- The effect of a write of SEAL_KEYGEN that asks for one of the two. -/
theorem keygenEffect_cases (s : State) (x : Nat) (v : Word) :
    (getBits v 63 63 = 1 → getBits v 62 62 = 0 → s.keygenEffect 0 x v = (s.store 0 x (rowOf Reg.SEAL_KEYGEN) v).advanceKey x)
      ∧ (getBits v 63 63 = 0 → getBits v 62 62 = 1 → s.keygenEffect 0 x v = (s.store 0 x (rowOf Reg.SEAL_KEYGEN) v).retireKey x) := by
  unfold State.keygenEffect
  dsimp only
  rw [if_neg (fun h => h rfl)]
  refine ⟨fun advance keep => ?_, fun keep retire => ?_⟩
  · rw [if_neg (by omega), if_pos advance]
  · rw [if_pos retire, if_neg (by omega)]

/-! ### JTAG (R376) -/

/-- R376: an instruction of the standard that the port takes is in force. -/
theorem exec_jtag_takes {t die : Nat} {i : JtagInstr} (power : s.pins.power = true) (hdie : die < 2) (takes : s.jtagTakes i = true)
    (standard : ∀ k, i ≠ .maker k) :
    exec (.jtagInstruction t die i) s = .next { s.tick t with pins := { s.pins with jtag := alSet die i s.pins.jtag } } := by
  show execJtagInstruction t die i s = _
  unfold execJtagInstruction
  rw [if_neg (by rw [power, takes]; simp; omega)]
  cases i with
  | maker k => exact absurd rfl (standard k)
  | idcode | bypass | sample | extest => rfl

theorem exec_jtag_leaves {t die : Nat} {i : JtagInstr} (not : s.jtagTakes i = false) :
    exec (.jtagInstruction t die i) s = .next (s.tick t) := by
  show execJtagInstruction t die i s = _
  unfold execJtagInstruction
  rw [if_pos (.inr (.inr not))]

theorem exec_jtag_maker {t die k : Nat} (power : s.pins.power = true) (hdie : die < 2) (takes : s.jtagTakes (.maker k) = true) :
    exec (.jtagInstruction t die (.maker k)) s = .refused .makerInstruction := by
  show execJtagInstruction t die (.maker k) s = _
  unfold execJtagInstruction
  rw [if_neg (by rw [power, takes]; simp; omega)]

/-- Settles O51: each command passes its guard and does what its own lemma says. -/
theorem reportsKeysAndJtag : Obligations.ReportsKeysAndJtag := by
  refine fun s => ⟨?report, fun t kind body running signing => ⟨_, next_ite_pos running, reportEnd_stands (s := s.tick t) signing⟩, ?keys,
    fun t die i power hdie => ⟨fun takes standard => ⟨_, exec_jtag_takes power hdie takes standard, alGet_alSet_self _ _ _, rfl, rfl⟩,
      fun not => ⟨_, exec_jtag_leaves not, rfl, rfl⟩, fun k maker takes => ?maker⟩⟩
  case report =>
    intro a v sel kind accepted go hkind free may state scrub c hc
    subst hkind
    obtain ⟨u, body, run, stands⟩ := reportWrite_signs accepted go free may state scrub
    refine ⟨u, body, ?_, stands⟩
    obtain rfl | rfl := hc
    · exact congrArg Host.Outcome.next run
    · exact congrArg Host.Outcome.next run
  case keys =>
    intro a v x accepted hdie
    obtain ⟨w, reports, -, run⟩ := regWrite_reported accepted rfl none (fun s x => s.keygenEffect a.die x v)
    rw [hdie] at run
    obtain ⟨advances, retires⟩ := keygenEffect_cases w x v
    obtain ⟨cur, prev⟩ := store_keygen w x v
    have kept : ∀ f : Field, f.reg ∉ chatter → w.fld 0 x f = s.fld 0 x f := fun f quiet => reports.fld 0 x quiet
    rw [kept _ (by decide)] at cur prev
    refine ⟨fun advance keep dead top => ⟨w.keygenEffect 0 x v, ?_, ?_⟩, fun keep retire => ⟨w.keygenEffect 0 x v, ?_, ?_⟩⟩
    · show execAdvance a v s = _
      unfold execAdvance
      rw [hdie]
      exact congrArg Host.Outcome.next run
    · rw [advances advance keep, ← cur]
      exact advanceKey_advances (prev.trans dead) (cur ▸ top)
    · show execRetirePrev a v s = _
      unfold execRetirePrev
      rw [hdie]
      exact congrArg Host.Outcome.next run
    · rw [retires keep retire, ← cur]
      exact retireKey_retires _ x
  case maker =>
    subst maker
    exact exec_jtag_maker power hdie takes

end Sys2Proof.Proofs
end

section
/-! Faults of arithmetic cores, lamplighters and supervisors (R408 to R414). -/

namespace Sys2Proof.Proofs

open Sys2Proof Sys2Proof.Machine

variable {s : State}

/-! ### Arithmetic cores (R408, R409, R412) -/

/-- `s` with the record of a known-answer test (R408). -/
def noteKat (s : State) (die cluster core : Nat) (r : Nat × Nat) : State :=
  { s with health := { s.health with kat := alSet (die, cluster, core) r s.health.kat } }

theorem noteKat_katOf (s : State) (die cluster core : Nat) (r : Nat × Nat) :
    (noteKat s die cluster core r).katOf die cluster core = r := by
  unfold State.katOf noteKat
  rw [alGet_alSet_self]
  rfl

/-- R408: a test that is due is carried out. -/
theorem exec_coreKat {t die cluster core : Nat} (running : s.running = true) (hcore : core ≤ 16) (inService : s.coreOut die cluster core = false)
    (on : s.fld die 0 Fld.HL_CTRL_KAT_STEPS ≠ 0)
    (due : (s.katOf die cluster core).2 + s.fld die 0 Fld.HL_CTRL_KAT_STEPS ≤ s.boundary) :
    exec (.coreKat t die cluster core true) s = .next (noteKat (s.tick t) die cluster core ((s.tick t).pos, s.boundary))
      ∧ exec (.coreKat t die cluster core false) s
        = .next ((noteKat (s.tick t) die cluster core ((s.katOf die cluster core).1, s.boundary)).coreFault die cluster core) := by
  have go : (s.running && s.fld die 0 Fld.HL_CTRL_KAT_STEPS != 0 && decide (core ≤ 16) && !s.coreOut die cluster core
      && decide ((s.katOf die cluster core).2 + s.fld die 0 Fld.HL_CTRL_KAT_STEPS ≤ s.boundary)) = true := by
    rw [running, bne_iff_ne.2 on, decide_eq_true hcore, inService, decide_eq_true due]
    rfl
  exact ⟨next_ite_pos go, next_ite_pos go⟩

/-- Each way in which a core fails leads to its fault, on registers that stand. -/
theorem exec_coreFails {c : Instr} {t die cluster core : Nat} (running : s.running = true)
    (hc : c = .unitOverrun t die cluster core ∨ c = .coreFault t die cluster core
      ∨ (c = .coreKat t die cluster core false ∧ s.fld die 0 Fld.HL_CTRL_KAT_STEPS ≠ 0
        ∧ (s.katOf die cluster core).2 + s.fld die 0 Fld.HL_CTRL_KAT_STEPS ≤ s.boundary))
    (hcore : core ≤ 16) (inService : s.coreOut die cluster core = false) :
    ∃ w : State, exec c s = .next (w.coreFault die cluster core) ∧ ∀ d i f, w.fld d i f = s.fld d i f := by
  obtain rfl | rfl | ⟨rfl, on, due⟩ := hc
  · exact ⟨s.tick t, next_ite_pos running, fun _ _ _ => rfl⟩
  · exact ⟨s.tick t, next_ite_pos running, fun _ _ _ => rfl⟩
  · exact ⟨_, (exec_coreKat running hcore inService on due).2, fun _ _ _ => rfl⟩

theorem takeOut_spare (s : State) (die cluster : Nat) : (s.takeOut die cluster 16).spare die cluster = s.spare die cluster := by
  cases out : s.coreOut die cluster 16 with
  | true =>
    unfold State.takeOut
    rw [if_pos out]
  | false =>
    obtain ⟨-, -, kept⟩ := takeOut_spec s die cluster 16 (by decide) out
    exact kept _ rfl (by decide) (by decide)

/-! ### The spare's test (R410) -/

theorem spareDone_due {die cluster : Nat} (testing : s.spare die cluster = 1) (none : s.health.spareOk = []) :
    ¬(s.spare die cluster ≠ 1 ∨ s.health.spareOk.contains (die, cluster) = true) := by
  rw [none]
  rintro (other | waits)
  · exact other testing
  · cases waits

/-- `s` with the spare of a cluster tested and waiting. -/
def spareWaits (s : State) (die cluster : Nat) : State :=
  { s with health := { s.health with spareOk := s.health.spareOk ++ [(die, cluster)] } }

theorem spareDone_passes {die cluster : Nat} (testing : s.spare die cluster = 1) (none : s.health.spareOk = []) :
    s.spareDone die cluster true = (spareWaits s die cluster).remapIdle := by
  unfold State.spareDone
  rw [if_neg (spareDone_due testing none), if_pos rfl]
  rfl

/-- R410: no unit of the cluster is in execution. -/
theorem idle_of_units {die cluster : Nat}
    (idle : ∀ r ∈ s.attn.results, slotDie r.slot = die → s.home r.slot = cluster → ∀ x ∈ r.units, x.st ≠ .running) :
    ¬(s.attn.results.any (fun r => slotDie r.slot == die && s.home r.slot == cluster && r.units.any (fun u => u.st == .running))) = true := by
  intro some
  obtain ⟨r, hr, runs⟩ := List.any_eq_true.1 some
  simp only [Bool.and_eq_true, beq_iff_eq, List.any_eq_true] at runs
  obtain ⟨⟨onDie, home⟩, x, hx, running⟩ := runs
  exact idle r hr onDie home x hx running

theorem spareDone_fails {die cluster : Nat} (testing : s.spare die cluster = 1) (none : s.health.spareOk = []) :
    (s.spareDone die cluster false).spare die cluster = 3
      ∧ (die, cluster, s.fld die cluster Fld.HL_CORE_FENCED_LOG) ∈ (s.spareDone die cluster false).health.unmapped := by
  unfold State.spareDone
  rw [if_neg (spareDone_due testing none), if_neg Bool.false_ne_true]
  extract_lets log out health w
  have after : w.Hale ((w.raise die 0x8A { alert := true, unit := unitCode 1 die cluster 16 }).pump die cluster) :=
    State.pump_hale (State.raise_hale (hale_refl w))
  refine ⟨(hale_spare after die cluster).trans ?_, ?_⟩
  · exact (takeOut_spare _ die cluster).trans (fld_setFld_self _ _ _ _ _ (by decide) (by decide))
  · rw [after.health]
    exact List.mem_cons_self

/-! ### Lamplighters and supervisors (R413, R414) -/

theorem exec_watchdogExpiry {t die core : Nat} (up : s.coreUp die core = true)
    (due : (s.core die core).lastKick + s.fld die 0 Fld.HL_CTRL_WDOG_MS * 1000000 ≤ max s.now t) :
    exec (.watchdogExpiry t die core) s = .next ((s.tick t).lampFault die core) :=
  next_ite_pos (Bool.and_eq_true_iff.2 ⟨up, decide_eq_true due⟩)

theorem exec_watchdogExpiry_early {t die core : Nat}
    (early : max s.now t < (s.core die core).lastKick + s.fld die 0 Fld.HL_CTRL_WDOG_MS * 1000000) :
    exec (.watchdogExpiry t die core) s = .next s := by
  show execWatchdogExpiry t die core s = _
  unfold execWatchdogExpiry
  rw [if_neg]
  intro due
  have late := of_decide_eq_true (Bool.and_eq_true_iff.1 due).2
  exact absurd late (Nat.not_le_of_lt early)

theorem kickEffect_restarts {rq : Requester} {d code : Nat} (hrq : rq = .core d code) :
    ((s.kickEffect rq).core d code).lastKick = s.now := by
  subst hrq
  obtain ⟨die, num⟩ := core_at s d code
  exact congrArg CoreState.lastKick (core_setCore' s { s.core d code with lastKick := s.now } d code die num)

/-- R414: a halted pair that is in reach of a restart. -/
theorem supRestart_cases {die : Nat} (here : s.supGone die = false) (halted : (s.core die 9).halted = true) (ok : Bool) :
    s.supRestart die ok = if ok then (s.setCore { s.core die 9 with halted := false }).setFld die 0 Fld.LP_STATUS_SUP_OK 1
      else s.supOut die := by
  unfold State.supRestart
  rw [if_neg (by rw [here, halted]; rintro (h | h) <;> cases h)]

theorem supRestart_restarts {die : Nat} (here : s.supGone die = false) (halted : (s.core die 9).halted = true) :
    ((s.supRestart die true).core die 9).halted = false ∧ (s.supRestart die true).fld die 0 Fld.LP_STATUS_SUP_OK = 1 := by
  rw [supRestart_cases here halted, if_pos rfl]
  obtain ⟨place, num⟩ := core_at s die 9
  exact ⟨congrArg CoreState.halted (core_setCore' s { s.core die 9 with halted := false } die 9 place num),
    fld_setFld_self _ _ _ _ _ (by decide) (by decide)⟩

/-- Settles O54: each command passes its guard, and the fault, the restart or the test that it leads to is said by its own lemma. -/
theorem coresFail : Obligations.CoresFail := by
  refine ⟨fun s t die cluster core running => ⟨?kat, ?fault, ?spare⟩, fun s t die => ⟨?lamp, ?early, ?kick, ?mismatch, ?restart⟩⟩
  case kat =>
    intro hcore inService on due
    exact ⟨_, (exec_coreKat running hcore inService on due).1, noteKat_katOf _ _ _ _ _, rfl⟩
  case fault =>
    intro c hc hcore inService
    obtain ⟨w, run, kept⟩ := exec_coreFails running hc hcore inService
    have spareKept : w.spare die cluster = s.spare die cluster := kept _ _ _
    have still : w.coreOut die cluster core = false := by
      unfold State.coreOut at inService ⊢
      rw [kept]
      exact inService
    obtain ⟨out, fenced, lost⟩ := coreFault_spec w die cluster core hcore still
    rw [spareKept] at fenced lost
    refine ⟨fun arith => ⟨_, run, out, ?_⟩, fun isSpare used => ⟨_, run, ?_⟩, fun isSpare unused => ⟨_, run, isSpare ▸ out, lost isSpare unused⟩⟩
    · have log : w.logicalOf die cluster core = core := if_neg (by omega)
      rw [log, Nat.mod_eq_of_lt arith] at fenced
      exact fenced (.inl arith)
    · subst isSpare
      have log : w.logicalOf die cluster 16 = s.fld die cluster Fld.HL_CORE_FENCED_LOG := (if_pos rfl).trans (kept _ _ _)
      obtain ⟨isFenced, -, -, standing⟩ := fenced (.inr used)
      rw [log] at standing
      exact ⟨out, isFenced, (standing (by omega)).2⟩
  case spare =>
    intro testing none
    have runs : ∀ pass, exec (.spareKatDone t die cluster pass) s = .next ((s.tick t).spareDone die cluster pass) :=
      fun pass => next_ite_pos running
    have passes := spareDone_passes (s := s.tick t) testing none
    have waits : (spareWaits (s.tick t) die cluster).health.spareOk = [(die, cluster)] := congrArg (· ++ [(die, cluster)]) none
    refine ⟨fun fires => ⟨_, runs true, ?_⟩, fun quiet idle => ⟨_, runs true, ?_⟩, _, runs false, spareDone_fails (s := s.tick t) testing none⟩
    · have holds : (spareWaits (s.tick t) die cluster).remapIdle = spareWaits (s.tick t) die cluster := if_pos fires
      rw [passes, holds]
      exact ⟨waits, rfl⟩
    · rw [passes, remapIdle_one _ die cluster waits quiet (idle_of_units (s := spareWaits (s.tick t) die cluster) idle)]
      exact remap_spec _ die cluster waits
  case lamp =>
    intro core hcore up c hc
    obtain rfl | ⟨rfl, due⟩ := hc
    · exact ⟨_, next_ite_pos up, lampFault_halts (s.tick t) die core hcore up⟩
    · exact ⟨_, exec_watchdogExpiry up due, lampFault_halts (s.tick t) die core hcore up⟩
  case early => exact fun core _ early => exec_watchdogExpiry_early early
  case kick =>
    intro a v sel d code accepted rq
    obtain ⟨w, reports, -, run⟩ := regWrite_reported accepted rfl none (fun s _ => s.kickEffect a.rq)
    exact ⟨_, congrArg Host.Outcome.next run, (kickEffect_restarts rq).trans reports.now⟩
  case mismatch => exact fun up => ⟨_, next_ite_pos up, mismatch_spec (s.tick t) die⟩
  case restart =>
    intro running here halted
    have runs : ∀ ok inTime, exec (.supRestart t die ok inTime) s = .next ((s.tick t).supRestart die (ok && inTime)) :=
      fun ok inTime => next_ite_pos running
    refine ⟨⟨_, runs true true, supRestart_restarts (s := s.tick t) here halted⟩, fun ok inTime bad => ⟨_, runs ok inTime, ?_⟩⟩
    rw [bad, supRestart_cases (s := s.tick t) here halted, if_neg Bool.false_ne_true]
    obtain ⟨gone, down, -⟩ := supOut_spec (s.tick t) die
    exact ⟨gone, down⟩

end Sys2Proof.Proofs
end

section
/-! Measurements of channels, lanes, ageing and temperature, and the steps of the event limits (R404, R416 to R424, R453, R455). -/

namespace Sys2Proof.Proofs

open Sys2Proof Sys2Proof.Machine

variable {s : State}

theorem exec_dramRetrain {t die cluster channel : Nat} (running : s.running = true) (hcluster : cluster < 8) (hchannel : channel < 8)
    (pass : Bool) (readPs writePs : Nat) : exec (.dramRetrain t die cluster channel pass readPs writePs) s
      = .next ((s.tick t).retrain die cluster channel pass readPs writePs) :=
  next_ite_pos (Bool.and_eq_true_iff.2 ⟨running, decide_eq_true ⟨hcluster, hchannel⟩⟩)

theorem exec_ageMeasure {t die pair : Nat} (running : s.running = true) (hpair : pair < 64) (drift n : Nat) :
    exec (.ageMeasure t die pair drift n) s = .next ((s.tick t).measure die pair drift n) := by
  show execAgeMeasure t die pair drift n s = _
  unfold execAgeMeasure
  rw [if_pos running, Nat.mod_eq_of_lt hpair]

theorem exec_laneEyeMeasure {t lane : Nat} (running : s.running = true) (hlane : lane < 48) (height width : Nat) :
    exec (.laneEyeMeasure t lane height width) s = .next ((s.tick t).eye lane height width) := by
  show execLaneEyeMeasure t lane height width s = _
  unfold execLaneEyeMeasure
  rw [if_pos running, Nat.mod_eq_of_lt hlane]

/-- The die of a lane (R404). -/
theorem laneDie_eq {lane : Nat} (hlane : lane < 48) : (if lane < 24 then 0 else 1) = lane / 24 := by
  split <;> omega

/-- R404: a failed lane is recorded, once. -/
theorem exec_d2dLinkFault_failed {t : Nat} (running : s.running = true) (lane : Nat) :
    ∃ u, exec (.d2dLinkFault t true lane) s = .next u ∧ lane ∈ u.health.d2d := by
  refine ⟨_, next_ite_pos running, ?_⟩
  dsimp only
  cases known : (s.tick t).health.d2d.contains lane with
  | true => exact List.contains_iff_mem.1 known
  | false => exact List.mem_cons_self

theorem exec_dramTempPoll_hot {t die cluster channel : Nat} (running : s.running = true) (hcluster : cluster < 8) (hchannel : channel < 8)
    (rate : Nat) : exec (.dramTempPoll t die cluster channel true rate) s
      = .next ((s.tick t).raiseOnce die 0xA3 (cluster * 8 + channel) { alert := true, unit := unitCode 4 die cluster channel }) := by
  show execDramTempPoll t die cluster channel true rate s = _
  unfold execDramTempPoll
  rw [if_pos running, if_pos rfl, Nat.mod_eq_of_lt hcluster, Nat.mod_eq_of_lt hchannel]

/-- R418: a step of the limits ends, and each event's suppressed count is kept as that of the step before. -/
theorem endLimitStep_clears (s : State) : s.endLimitStep.ev.lastStepEnd = s.now
    ∧ (∀ o ∈ s.endLimitStep.ev.once, o.raised = false ∧ o.supp = 0) ∧ s.endLimitStep.ev.once.map Once.prev = s.ev.once.map Once.supp := by
  refine ⟨rfl, fun o ho => ?_, List.map_map⟩
  obtain ⟨x, -, rfl⟩ := List.mem_map.1 ho
  exact ⟨rfl, rfl⟩

/-- Settles O56: each measurement passes its guard and enters as its own lemma says. -/
theorem measurementsEnter : Obligations.MeasurementsEnter := by
  refine fun s t die => ⟨fun running => ⟨?retrain, ?age, ?eye, fun lane => exec_d2dLinkFault_failed running lane,
    fun lane => ⟨_, next_ite_pos running, rfl⟩, ?poll, ?limits⟩, ?sample⟩
  case retrain =>
    intro cluster channel pass readPs writePs hcluster hchannel
    exact ⟨_, exec_dramRetrain running hcluster hchannel pass readPs writePs,
      retrain_spec (s.tick t) die cluster channel pass readPs writePs hcluster hchannel⟩
  case age => exact fun pair drift n hpair => ⟨_, exec_ageMeasure running hpair drift n, measure_spec (s.tick t) die pair drift n⟩
  case eye =>
    intro lane height width hlane
    refine ⟨_, exec_laneEyeMeasure running hlane height width, ?_⟩
    rw [← laneDie_eq hlane]
    exact eye_spec (s.tick t) lane height width
  case poll =>
    exact fun cluster channel rate hcluster hchannel => ⟨_, exec_dramTempPoll_hot running hcluster hchannel rate, raiseOnce_raised ..⟩
  case limits =>
    intro quiet due
    refine ⟨_, next_ite_pos ?_, endLimitStep_clears (s.tick t)⟩
    rw [running, quiet]
    exact decide_eq_true due
  case sample =>
    intro temps power released cool hdie
    obtain ⟨sensors, trips, stays⟩ := sampleTemps_spec (s.tick t) die temps hdie
    refine ⟨_, next_ite_pos ?_, sensors, trips, fun below => (stays below).trans cool⟩
    rw [power, released, cool, decide_eq_true hdie]
    rfl

end Sys2Proof.Proofs
end

section
/-! A write of any register (R7, R331, R473). -/

namespace Sys2Proof.Proofs

open Sys2Proof Sys2Proof.Machine

variable {s : State} {a : Acc} {addr : Nat} {v : Word}

theorem exec_registerWrite_mapped {die : Nat} {r : RegRow} (mapped : mapAddr addr = some (die, r)) :
    exec (.registerWrite a addr v) s = .next (s.writeReg { a with die } r v none) := by
  show execRegisterWrite a addr v s = _
  unfold execRegisterWrite
  rw [mapped]

/-- R473: paths other than a control core's ignore a write of an unmapped address. -/
theorem exec_registerWrite_ignored (unmapped : mapAddr addr = none) (path : ∀ d code, a.rq ≠ .core d code) :
    exec (.registerWrite a addr v) s = .next s := by
  show execRegisterWrite a addr v s = _
  unfold execRegisterWrite
  rw [unmapped]
  cases rq : a.rq with
  | core d code => exact absurd rq (path d code)
  | ep | sideband | jtag | start => rfl

theorem exec_registerWrite_refused {d code : Nat} (unmapped : mapAddr addr = none) (rq : a.rq = .core d code)
    (present : s.present a.rq = true) : exec (.registerWrite a addr v) s = .next ((s.tick a.t).fwLimit d code 0) := by
  show execRegisterWrite a addr v s = _
  unfold execRegisterWrite
  rw [rq] at present
  simp only [unmapped, rq, present, if_true]

/-- A write of a register with no effect of its own is stored, and no more. -/
theorem writeEffect_stores {sel : Nat} {r : RegRow} {p : Option PendingIdx} (here : (die0Only r.id && a.die == 1) = false)
    (plain : (if r.id.blk ≤ 0x08 then s.writeLow a sel r v p else s.writeHigh a sel r v) = none) :
    s.writeEffect a sel r v p = s.store a.die sel r v := by
  unfold State.writeEffect
  rw [here, if_neg Bool.false_ne_true, plain]
  rfl

/-- R7: what a stored word leaves, by register. -/
theorem store_reg (s : State) (die sel : Nat) {r : RegId} (hr : (rowOf r).id = r) (v : Word) :
    (s.store die sel (rowOf r) v).reg die sel r = (rowOf r).stored s.start.locked (s.reg die sel r) v := by
  unfold State.store
  rw [hr, reg_setReg_self]

/-- Settles O58: the write is a store after its record, an unmapped address is ignored, or it breaks row 0 of R331. -/
theorem registerWriteStores : Obligations.RegisterWriteStores := by
  refine fun s a addr v => ⟨fun die r sel mapped hr quiet accepted here plain => ?_, exec_registerWrite_ignored,
    fun d code unmapped rq present => ⟨_, exec_registerWrite_refused unmapped rq present, fwLimit_row (s.tick a.t) d code 0 (by decide)⟩⟩
  obtain ⟨w, reports, -, run⟩ := regWrite_reported accepted hr none (fun s sel => s.writeEffect { a with die } sel (rowOf r) v none)
  have stores : w.writeEffect { a with die } sel (rowOf r) v none = w.store die sel (rowOf r) v :=
    writeEffect_stores (by rw [hr]; exact here) (by rw [hr]; exact plain w)
  have runs : exec (.registerWrite a addr v) s = .next (w.store die sel (rowOf r) v) :=
    (exec_registerWrite_mapped mapped).trans (congrArg Host.Outcome.next (run.trans stores))
  refine ⟨_, runs, ?_, fun d i x other still => ?_, reports.ses, reports.kv, reports.tier, reports.flash, reports.bcn, reports.ident⟩
  · rw [store_reg w die sel hr, reports.start, reports.reg die sel r quiet]
    rfl
  · exact (reg_store_ne w v (by rw [hr]; exact other)).trans (reports.reg d i x still)

end Sys2Proof.Proofs
end

section
/-! Reference clocks, the I3C target and the sideband (R451, R459 to R462). -/

namespace Sys2Proof.Proofs

open Sys2Proof Sys2Proof.Machine

variable {s : State} {t : Nat}

/-! ### Reference clocks (R451) -/

theorem exec_refclkLoss {c : RefClk} (running : s.running = true) (present : s.clkOk c = true) :
    exec (.refclkLoss t c) s = .next ((s.tick t).clkLoss c) :=
  next_ite_pos (Bool.and_eq_true_iff.2 ⟨running, present⟩)

theorem exec_refclkRestored {c : RefClk} (running : s.running = true) (lost : s.clkOk c = false) :
    exec (.refclkRestored t c) s = .next ((s.tick t).clkReturn c) :=
  next_ite_pos (by rw [running, lost]; rfl)

/-! ### The I3C target (R459, R462) -/

theorem exec_sidebandCcc (power : s.pins.power = true) (c : Ccc) : exec (.sidebandCcc t c) s = .next ((s.tick t).ccc c) :=
  next_ite_pos power

theorem ccc_assigns {c : Ccc} {addr : Nat} (hc : c = .entdaa addr ∨ c = .setdasa addr) : s.ccc c = s.assignAddr (addr % 128) := by
  obtain rfl | rfl := hc <;> rfl

/-- R459: one dynamic address is taken, while there is none. -/
theorem assignAddr_takes {addr : Nat} (free : s.fld 0 0 Fld.BD_SB_I3C = 0) (small : addr < 128) :
    (s.assignAddr addr).fld 0 0 Fld.BD_SB_DYN_ADDR = addr ∧ (s.assignAddr addr).fld 0 0 Fld.BD_SB_I3C = 1 := by
  unfold State.assignAddr
  rw [if_neg (by omega)]
  refine ⟨?_, fld_setFld_self _ _ _ _ _ (by decide) (by decide)⟩
  rw [fld_setFld_other _ _ (by decide) (by decide) (by decide) (by decide), fld_setFld_self _ _ _ _ _ (by decide) (by decide)]
  exact Nat.mod_eq_of_lt small

theorem assignAddr_keeps {addr : Nat} (taken : s.fld 0 0 Fld.BD_SB_I3C = 1) : s.assignAddr addr = s := if_pos taken

theorem ccc_resets (s : State) : (s.ccc .rstdaa).fld 0 0 Fld.BD_SB_DYN_ADDR = 0 ∧ (s.ccc .rstdaa).fld 0 0 Fld.BD_SB_I3C = 0 := by
  refine ⟨?_, (fld_setFld_self _ _ _ _ _ (by decide) (by decide)).trans (Nat.zero_mod _)⟩
  refine (fld_setFld_other _ _ (by decide) (by decide) (by decide) (by decide) _ _).trans ?_
  exact (fld_setFld_self _ _ _ _ _ (by decide) (by decide)).trans (Nat.zero_mod _)

/-- R459, R462: interrupts are enabled and disabled, and the address stands. -/
theorem setIbiEn_fields (s : State) (b : Bool) : (s.setFld 0 0 Fld.BD_SB_IBI_EN (b2n b)).fld 0 0 Fld.BD_SB_IBI_EN = b2n b
    ∧ (s.setFld 0 0 Fld.BD_SB_IBI_EN (b2n b)).fld 0 0 Fld.BD_SB_I3C = s.fld 0 0 Fld.BD_SB_I3C := by
  refine ⟨(fld_setFld_self _ _ _ _ _ (by decide) (by decide)).trans ?_,
    fld_setFld_other _ _ (by decide) (by decide) (by decide) (by decide) _ _⟩
  cases b <;> rfl

theorem ccc_lengths {n : Nat} {c : Ccc} (hc : c = .getstatus ∧ n = 2 ∨ c = .getmrl ∧ n = 3 ∨ c = .getmwl ∧ n = 2) :
    (s.ccc c).pins.ccc.length = n ∧ (s.ccc c).regs = s.regs := by
  obtain ⟨rfl, rfl⟩ | ⟨rfl, rfl⟩ | ⟨rfl, rfl⟩ := hc <;> exact ⟨be_length _ _, rfl⟩

/-- `s` with the oldest in-band interrupt accepted. -/
def ibiTaken (s : State) : State := { s with pins := { s.pins with ibi := s.pins.ibi.drop 1 } }

theorem exec_sidebandIbiAccept (power : s.pins.power = true) (enabled : s.fld 0 0 Fld.BD_SB_IBI_EN = 1) :
    exec (.sidebandIbiAccept t) s = .next (ibiTaken (s.tick t)) :=
  next_ite_pos (by rw [power, enabled]; rfl)

/-! ### Sideband accesses (R460, R461) -/

theorem exec_sidebandWrite (power : s.pins.power = true) (size addr : Nat) (v : Word) :
    exec (.sidebandWrite t size addr v) s = .next ((s.tick t).sbWrite t size addr v) :=
  next_ite_pos power

theorem exec_sidebandRead (power : s.pins.power = true) (size addr : Nat) :
    exec (.sidebandRead t size addr) s = .next ((s.tick t).sbRead t size addr) :=
  next_ite_pos power

/-- An access of the wrong size, or of an address that is not mapped, names no register. -/
theorem names_none {size n addr : Nat} (bad : size ≠ n ∨ mapAddr addr = none) : (if size = n then mapAddr addr else none) = none := by
  split
  · next same => exact bad.resolve_left (fun ne => ne same)
  · rfl

theorem sbWrite_malformed {size addr : Nat} {v : Word} (bad : size ≠ 15 ∨ mapAddr addr = none) :
    s.sbWrite t size addr v = s.sbOutcome St.badFrame 0 := by
  unfold State.sbWrite
  rw [names_none bad]

theorem sbRead_malformed {size addr : Nat} (bad : size ≠ 7 ∨ mapAddr addr = none) : s.sbRead t size addr = s.sbOutcome St.badFrame 0 := by
  unfold State.sbRead
  rw [names_none bad]

/-- A write of a mapped register: denied, or carried out. -/
theorem sbWrite_mapped {addr die : Nat} {r : RegRow} {v : Word} (mapped : mapAddr addr = some (die, r)) :
    (s.writePass .sideband die 0 r v ≠ .go → s.sbWrite t 15 addr v = s.sbOutcome St.denied 0)
      ∧ (s.writePass .sideband die 0 r v = .go → s.sbWrite t 15 addr v = (s.writeReg ⟨t, .sideband, die⟩ r v none).sbOutcome St.done 0) := by
  unfold State.sbWrite
  simp only [if_true, mapped]
  cases s.writePass .sideband die 0 r v with
  | go => exact ⟨fun denied => absurd rfl denied, fun _ => rfl⟩
  | unmapped | denied | limit | shut => exact ⟨fun _ => rfl, nofun⟩

/-- A read of a mapped register: denied, or carried out. -/
theorem sbRead_mapped {addr die : Nat} {r : RegRow} (mapped : mapAddr addr = some (die, r)) :
    (s.readPass .sideband r ≠ .go → s.sbRead t 7 addr = s.sbOutcome St.denied 0)
      ∧ (s.readPass .sideband r = .go → s.sbRead t 7 addr = (s.readReg ⟨t, .sideband, die⟩ r).1.sbOutcome St.done
        (s.readReg ⟨t, .sideband, die⟩ r).2) := by
  unfold State.sbRead
  simp only [if_true, mapped]
  cases s.readPass .sideband r with
  | go => exact ⟨fun denied => absurd rfl denied, fun _ => rfl⟩
  | unmapped | denied | limit | shut => exact ⟨fun _ => rfl, nofun⟩

theorem readReg_word {a : Acc} {r : RegRow} {sel : Nat} (item : s.selItem a.die a.rq r.sel = some sel) :
    (s.readReg a r).2 = s.readWord a sel r.id := by
  unfold State.readReg
  rw [item]

/-- Settles O57: each command passes its guard, and its outcome is that of its own lemma. -/
theorem pinsAndSideband : Obligations.PinsAndSideband := by
  refine fun s t => ⟨fun running =>
    ⟨fun c present => ⟨_, exec_refclkLoss running present, clkLoss_spec (s.tick t) c⟩,
      fun c lost => ⟨_, exec_refclkRestored running lost, clkReturn_spec (s.tick t) c⟩⟩,
    fun power => ⟨?assign, ⟨_, exec_sidebandCcc power .rstdaa, ccc_resets (s.tick t)⟩,
      ⟨_, exec_sidebandCcc power .enec, setIbiEn_fields (s.tick t) true⟩, ⟨_, exec_sidebandCcc power .disec, setIbiEn_fields (s.tick t) false⟩,
      ⟨_, exec_sidebandCcc power .getpid, getpid_reply _, rfl⟩, ⟨_, exec_sidebandCcc power .getbcr, ccc_reply _ _, rfl⟩,
      ⟨_, exec_sidebandCcc power .getdcr, ccc_reply _ _, rfl⟩, fun n c hc => ⟨_, exec_sidebandCcc power c, ccc_lengths (s := s.tick t) hc⟩,
      fun n => ⟨_, exec_sidebandCcc power (.other n), rfl, rfl⟩, fun enabled => ⟨_, exec_sidebandIbiAccept power enabled, rfl, rfl⟩,
      ?malformedWrite, ?malformedRead, fun addr die r v mapped => ?mapped⟩⟩
  case assign =>
    intro c addr hc
    have assigns : exec (.sidebandCcc t c) s = .next ((s.tick t).assignAddr (addr % 128)) := by
      rw [exec_sidebandCcc power c, ccc_assigns hc]
    refine ⟨fun free => ⟨_, assigns, assignAddr_takes (s := s.tick t) free (Nat.mod_lt _ (by decide))⟩, fun taken => ⟨_, assigns, ?_⟩⟩
    rw [assignAddr_keeps (s := s.tick t) taken]
    rfl
  case malformedWrite =>
    intro size addr v bad
    exact ⟨_, (exec_sidebandWrite power size addr v).trans (congrArg Host.Outcome.next (sbWrite_malformed bad)), rfl, rfl⟩
  case malformedRead =>
    intro size addr bad
    exact ⟨_, (exec_sidebandRead power size addr).trans (congrArg Host.Outcome.next (sbRead_malformed bad)), rfl, rfl⟩
  case mapped =>
    have writes := exec_sidebandWrite (t := t) power 15 addr v
    have reads := exec_sidebandRead (t := t) power 7 addr
    obtain ⟨writeDenied, written⟩ := sbWrite_mapped (s := s.tick t) (t := t) (v := v) mapped
    obtain ⟨readDenied, shown⟩ := sbRead_mapped (s := s.tick t) (t := t) mapped
    refine ⟨fun denied => ⟨_, writes.trans (congrArg Host.Outcome.next (writeDenied denied)), rfl, rfl⟩,
      fun go => ⟨_, writes.trans (congrArg Host.Outcome.next (written go)), rfl, rfl⟩,
      fun denied => ⟨_, reads.trans (congrArg Host.Outcome.next (readDenied denied)), rfl, rfl⟩,
      fun sel go item => ⟨_, reads.trans (congrArg Host.Outcome.next (shown go)), ?_⟩⟩
    exact congrArg (Prod.mk St.done) (readReg_word (a := ⟨t, .sideband, die⟩) item)

end Sys2Proof.Proofs
end
